-- ==== Sys2Proof/Word.lean ====
section
/-!
DEFINITION. The word types of the Jorlos W9 and their plainest arithmetic: the 64-bit set-up register, the byte,
the 64-byte vector of the data mesh (16 lanes of 32 bits, R77) and the cutting of bit fields.
-/

namespace Sys2Proof

/-- A set-up register or a 64-bit memory word (R15, R32). -/
abbrev Word := BitVec 64

/-- A byte of memory. -/
abbrev Byte := BitVec 8

/-- One lane word (R77). -/
abbrev Lane := BitVec 32

/-- A 64-byte vector; lane l is bytes 4l to 4l + 3 (R77). -/
abbrev Vec := BitVec 512

/-- A 16-bit status value (R366). -/
abbrev Status := BitVec 16

end Sys2Proof
end

