-- ==== Sys2Proof/Syntax.lean ====
section
/-!
DEFINITION. The commands of the block: one constructor of Instr for each row of spec/opcode_table.json, with the
row's operands. What the outside world decides (host data, peer data, sensor values, which lane failed training,
which site failed a probe) is an operand, because no rule of the spec computes it.
-/

namespace Sys2Proof

/-- Who issued a verb: a command ring of a CXL port (R344), or a session of a management port (R524). -/
inductive Issuer where
  | host (port : BitVec 2) (ring : BitVec 6)
  | mgmt (port : BitVec 1) (session : BitVec 2)
  deriving DecidableEq, Repr

/-- The header of a command (R346) with the ring slot it came from and its 48 body bytes, byte 16 lowest. -/
structure Cmd where
  issuer : Issuer
  slot : BitVec 16
  flags : Byte
  cmdId : BitVec 16
  waitTally : BitVec 16
  doneTally : BitVec 16
  waitTarget : Word
  body : BitVec 384
  deriving DecidableEq, Repr

/-- A stage of a compute array: logical stand, column, row and stage (R11, R77). -/
structure StageLoc where
  stand : BitVec 6
  x : BitVec 6
  y : BitVec 6
  stage : BitVec 3
  deriving DecidableEq, Repr

/-- A stage that has not completed its step, and its lanes that have not (R88, R102). -/
structure LateStage where
  loc : StageLoc
  lanes : BitVec 16
  deriving DecidableEq, Repr

/-- What a host asks of the lines of a CXL.mem request (R342): the state to be granted, 0 none, 1 shared, 2 and 3 exclusive;
and the modified data of the lines that it gives up for them. -/
structure HostAsk where
  state : BitVec 2
  returned : List (BitVec 52 × BitVec 512)
  deriving DecidableEq, Repr

/-- The fields of an op-program entry other than its OPCODE (R93); the row names the operation. -/
structure Entry where
  dvar : Bool
  fmtA : BitVec 5
  fmtB : BitVec 5
  fmtD : BitVec 5
  rmode : BitVec 3
  sat : Bool
  aux : BitVec 9
  srcA : BitVec 4
  srcB : BitVec 4
  dst : BitVec 4
  rpt : BitVec 6
  ctr : BitVec 3
  clr : Bool
  last : Bool
  fwd : Bool
  deriving DecidableEq, Repr

/-- An array named by logical stand, column and row. -/
structure ArrayLoc where
  stand : BitVec 6
  x : BitVec 6
  y : BitVec 6
  deriving DecidableEq, Repr

/-- A physical array site: physical index, row and physical column (R466). -/
structure Site where
  phys : BitVec 6
  row : BitVec 6
  col : BitVec 7
  deriving DecidableEq, Repr

/-- A physical seam lane: physical index, side N E S W, lane (R466). -/
structure SeamLane where
  phys : BitVec 6
  side : BitVec 2
  lane : BitVec 7
  deriving DecidableEq, Repr

/-- A DRAM row found failing: physical index, slice, DRAM wafer, row, which is a spare row's number when `spare` is set
(R466, R477, R479). -/
structure DramRow where
  phys : BitVec 6
  slice : BitVec 6
  wafer : BitVec 2
  row : BitVec 18
  spare : Bool
  deriving DecidableEq, Repr

/-- What the tests of one stand found in its heat (R472 to R475), from outside: `relayReady` the outward relay-clock lanes that
show edges and lock, `clockLanesFailed` the inward ones that failed their training. -/
structure HeatFinding where
  phys : BitVec 6
  powerGood : Bool
  clockLock : Bool
  controllerPass : Bool
  enginesPass : Bool
  slicesTrained : BitVec 64
  relayReady : BitVec 4
  sitesFailed : List Site
  lanesFailed : List SeamLane
  clockLanesFailed : BitVec 4
  deriving DecidableEq, Repr

/-- What a stand detects on a side (R425, R426, R441): the run of missing edges in cycles, whether the side's detector is
frequency-locked, and the phase error against the stand's own slot boundary in ps. -/
structure SideShow where
  missing : BitVec 16
  locked : Bool
  phaseErr : BitVec 16
  deriving DecidableEq, Repr

/-- A mismatch of a pacer run (R419). -/
structure PacerMismatch where
  x : BitVec 6
  y : BitVec 6
  stage : BitVec 3
  lane : BitVec 4
  partner : BitVec 12
  fmt : BitVec 8
  iteration : BitVec 64
  wordA : Lane
  wordB : Lane
  deriving DecidableEq, Repr

/-- How a CXL read request ended (R364). -/
inductive Completion where
  | success
  | unsupported
  | abort
  deriving DecidableEq, Repr

/-- A completion of a UIO write (R323, R364): its tag and how it came. -/
structure UioDone where
  tag : BitVec 16
  how : Completion
  deriving DecidableEq, Repr

/-- How the reads of LOAD_IMAGE came (R363, R364): the first that failed, with its status and host address, and the
ports on which a completion came later than STALL_US, one entry for each. -/
structure LoadReads where
  fail : Option (Status × BitVec 64)
  late : List (BitVec 2)
  deriving DecidableEq, Repr

/-- The port through which a set-up access comes (R338, R525, R540). -/
inductive Via where
  | host (port : BitVec 2)
  | mgmt (port : BitVec 1)
  | debug
  | ranger
  deriving DecidableEq, Repr

/-- Which bring-up operation ended, with what its tests found (R470, R475, R477, R485). -/
inductive PhaseDone where
  | ringChecks (failedUnit : BitVec 8)
  | seamTraining (phys : BitVec 6) (side : BitVec 2) (failed : BitVec 80)
  | sliceTraining (phys : BitVec 6) (slice : BitVec 6)
  | march (failed : List DramRow)
  | warmStep (step : BitVec 4) (failed : List (BitVec 6 × BitVec 4)) (sites : List Site)
  deriving DecidableEq, Repr

/-- Where a service-mesh packet comes from: a physical stand and router, with the identifier the source chose (R228). -/
structure MeshSrc where
  stand : BitVec 6
  router : BitVec 7
  id : BitVec 16
  deriving DecidableEq, Repr

/-- What an access to PCIe configuration space or to the registers of BAR4 does (R335, R336, R340, R361, R375): Device
Control 2 with the completion timeout, an HDM decoder, MSI-X control and a vector of its table, and the error status of AER,
cleared where 1 is written; and reads of these, of the pending vectors and of the Register Locator. -/
inductive ConfigAccess where
  | completionTimeout (control2 : BitVec 16)
  | decoder (d : BitVec 3) (base size skip : BitVec 64) (ways granularity : BitVec 4) (commit : Bool)
  | msixControl (enable maskAll : Bool)
  | msixVector (v : BitVec 7) (addr : BitVec 64) (data : BitVec 32) (masked : Bool)
  | aerClear (uncorrectable correctable : BitVec 32)
  | readTimeout
  | readDecoder (d : BitVec 3)
  | readMsix (v : BitVec 7)
  | readPending
  | readAer
  | readLocator
  deriving DecidableEq, Repr

/-- What a JTAG access does (R540). -/
inductive JtagAccess where
  | haltRanger (r : BitVec 2)
  | stepRanger (r : BitVec 2)
  | resumeRanger (r : BitVec 2)
  | haltController (phys : BitVec 6)
  | stepController (phys : BitVec 6)
  | resumeController (phys : BitVec 6)
  | read (addr : BitVec 48)
  | write (addr : BitVec 48) (value : Word)
  deriving DecidableEq, Repr

/-- The resources of the Redfish service (R527). -/
inductive Redfish where
  | root
  | chassis
  | sensors
  | power
  | managers
  | events
  | subscribe (id : BitVec 16)
  | unsubscribe (id : BitVec 16)
  deriving DecidableEq, Repr

/-- The SPDM 1.2 requests that the module offers (R539); `other` is any request outside the list. -/
inductive Spdm where
  | getVersion
  | getCapabilities
  | negotiateAlgorithms
  | getDigests
  | getCertificate (slot : BitVec 3)
  | challenge (nonce : BitVec 256)
  | getMeasurements (index : BitVec 8)
  | keyExchange
  | finish
  | heartbeat
  | keyUpdate
  | endSession
  | other
  deriving DecidableEq, Repr

/-- The atomic operations of the service mesh (R131). -/
inductive AtomicOp where
  | addI
  | addF (rmode : BitVec 2)
  | addX
  | maxF
  | minF
  | or
  | and
  deriving DecidableEq, Repr

/-- One command of the block for each row of the table of operations and events. -/
inductive Instr where
  -- verbs (R350, R528)
  | loadImage (c : Cmd) (image : List Byte) (readFail : LoadReads)
  | start (c : Cmd)
  | drain (c : Cmd)
  | drainPointReached
  | blaze (c : Cmd)
  | blazeCommit
  | restore (c : Cmd)
  | resume (c : Cmd)
  | fenceArray (c : Cmd)
  | fenceStand (c : Cmd)
  | selectPlan (c : Cmd)
  | relocate (c : Cmd) (probeFailed : List Site)
  | release (c : Cmd)
  | setPowerCap (c : Cmd)
  | setClock (c : Cmd)
  | setLockstep (c : Cmd)
  | dmaCopy (c : Cmd)
  | dmaStand (c : Cmd)
  | abort (c : Cmd) (posted : BitVec 512)
  | fuseWrite (c : Cmd) (readBackFails : Bool)
  | debugOpen (c : Cmd)
  | debugClose (c : Cmd)
  | debugTimeout
  | selftest (c : Cmd) (failedTest : BitVec 16)
  | screenSet (c : Cmd)
  | screenRun (c : Cmd) (comparisons : Word) (holds : Word) (found : List PacerMismatch)
  | standPower (c : Cmd)
  | singleStandTestEnd (phys : BitVec 6) (failed : List DramRow)
  | bringUp (c : Cmd)
  -- bring-up events (R469 to R488)
  | coldBringUpAuto
  | busbarWaitTimeout
  | heatEnd (found : List HeatFinding)
  | trainingLimit
  | retentionHoldEnd (failed : List DramRow)
  | warmRestartTimeout
  | assignParity (c : Cmd)
  -- rings (R339 to R349)
  | commandRingDoorbell (port : BitVec 2) (ring : BitVec 6) (value : BitVec 16)
  | completionRingDoorbell (port : BitVec 2) (ring : BitVec 6) (value : BitVec 16)
  | eventRingDoorbell (port : BitVec 2) (value : BitVec 16)
  | commandFetch (port : BitVec 2) (entry : BitVec 512)
  | commandRetire (port : BitVec 2) (ring : BitVec 6)
  | ringEnable (port : BitVec 2) (ring : BitVec 6) (cfg : Word)
  | ringDisable (port : BitVec 2) (ring : BitVec 6)
  -- CXL (R335 to R365)
  | cxlMemRequest (port : BitVec 2) (write : Bool) (hpa : BitVec 52) (ask : HostAsk) (data : List Byte) (len : BitVec 12)
  | uioWrite (port : BitVec 2) (hpa : BitVec 52) (data : List Byte)
  | uioRead (port : BitVec 2) (hpa : BitVec 52) (len : BitVec 12)
  | peerPostedWrite (port : BitVec 2) (hpa : BitVec 52)
  | bar0Access (port : BitVec 2) (write : Bool) (offset : BitVec 22) (size : BitVec 4) (value : Word)
  | hostHoldExpired (port : BitVec 2)
  | hostCompletionArrival (port : BitVec 2) (tag : BitVec 16) (how : Completion) (lateUs : BitVec 32) (data : List Byte)
  | completionTimeout (port : BitVec 2) (tag : BitVec 16)
  | linkDown (port : BitVec 2)
  | perst (port : BitVec 2) (asserted : Bool)
  | cprsnt (port : BitVec 2)
  -- Gulem (R376 to R400)
  | gulemRequestDoorbell (port : BitVec 2) (ring : BitVec 4) (value : BitVec 16)
  | gulemStatusDoorbell (port : BitVec 2) (ring : BitVec 4) (value : BitVec 16)
  | gulemRequestFetch (port : BitVec 2) (entry : BitVec 512) (prompt : List (BitVec 32)) (promptFail : Option (Status × BitVec 64))
  | gulemBoundary (logits : List (BitVec 16 × List (BitVec 32)))
  -- slots and stages (R77 to R110, R202 to R224)
  | slotBoundary (badVectors badBatons : List (BitVec 6 × BitVec 10 × BitVec 5))
  | batonInArrival (a : ArrayLoc) (baton : BitVec 16)
  | stageStepComplete (l : StageLoc) (badLanes : BitVec 16)
  | arrayNoCompletion (l : LateStage)
  | heartbeat (a : ArrayLoc)
  | heartbeatCheck
  -- stage operations (R111 to R134)
  | nop (l : StageLoc) (e : Entry)
  | dot (l : StageLoc) (e : Entry)
  | dotl (l : StageLoc) (e : Entry)
  | dots24 (l : StageLoc) (e : Entry)
  | dots14 (l : StageLoc) (e : Entry)
  | dotsbm (l : StageLoc) (e : Entry)
  | readout (l : StageLoc) (e : Entry)
  | accload (l : StageLoc) (e : Entry)
  | accloadx (l : StageLoc) (e : Entry)
  | add (l : StageLoc) (e : Entry)
  | sub (l : StageLoc) (e : Entry)
  | mul (l : StageLoc) (e : Entry)
  | fmaw (l : StageLoc) (e : Entry)
  | abs (l : StageLoc) (e : Entry)
  | neg (l : StageLoc) (e : Entry)
  | scaleb (l : StageLoc) (e : Entry)
  | and (l : StageLoc) (e : Entry)
  | or (l : StageLoc) (e : Entry)
  | xor (l : StageLoc) (e : Entry)
  | shl (l : StageLoc) (e : Entry)
  | shr (l : StageLoc) (e : Entry)
  | mov (l : StageLoc) (e : Entry)
  | cmpeq (l : StageLoc) (e : Entry)
  | cmplt (l : StageLoc) (e : Entry)
  | cmple (l : StageLoc) (e : Entry)
  | cmpun (l : StageLoc) (e : Entry)
  | sel (l : StageLoc) (e : Entry)
  | min (l : StageLoc) (e : Entry)
  | max (l : StageLoc) (e : Entry)
  | minnum (l : StageLoc) (e : Entry)
  | maxnum (l : StageLoc) (e : Entry)
  | rcp (l : StageLoc) (e : Entry)
  | rsqrt (l : StageLoc) (e : Entry)
  | exp2 (l : StageLoc) (e : Entry)
  | log2 (l : StageLoc) (e : Entry)
  | perm (l : StageLoc) (e : Entry)
  | permi (l : StageLoc) (e : Entry)
  | lredadd (l : StageLoc) (e : Entry)
  | lredmax (l : StageLoc) (e : Entry)
  | lredmin (l : StageLoc) (e : Entry)
  | lredi (l : StageLoc) (e : Entry)
  | lredacc (l : StageLoc) (e : Entry)
  | cvt (l : StageLoc) (e : Entry)
  | cvtmx (l : StageLoc) (e : Entry)
  | demx (l : StageLoc) (e : Entry)
  | pack (l : StageLoc) (e : Entry)
  | unpack (l : StageLoc) (e : Entry)
  | pack6 (l : StageLoc) (e : Entry)
  | unpack6 (l : StageLoc) (e : Entry)
  | fxcvt (l : StageLoc) (e : Entry)
  | ctradv (l : StageLoc) (e : Entry)
  | ctrrd (l : StageLoc) (e : Entry)
  | btnsend (l : StageLoc) (e : Entry)
  | btnrecv (l : StageLoc) (e : Entry)
  | btnpred (l : StageLoc) (e : Entry)
  | twait (l : StageLoc) (e : Entry)
  | tinc (l : StageLoc) (e : Entry)
  | ldcm (l : StageLoc) (e : Entry)
  | ldcmk (l : StageLoc) (e : Entry)
  | ldcmx (l : StageLoc) (e : Entry)
  | stcm (l : StageLoc) (e : Entry)
  | stcmo (l : StageLoc) (e : Entry)
  | stcmx (l : StageLoc) (e : Entry)
  | send (l : StageLoc) (e : Entry)
  | recv (l : StageLoc) (e : Entry)
  | pass (l : StageLoc) (e : Entry)
  | merge1 (l : StageLoc) (e : Entry)
  | aaddi (l : StageLoc) (e : Entry)
  | aaddf (l : StageLoc) (e : Entry)
  | amaxf (l : StageLoc) (e : Entry)
  | aminf (l : StageLoc) (e : Entry)
  | aor (l : StageLoc) (e : Entry)
  | aand (l : StageLoc) (e : Entry)
  | rdflags (l : StageLoc) (e : Entry)
  | rdsrc (l : StageLoc) (e : Entry)
  | rdcoord (l : StageLoc) (e : Entry)
  | rdlap (l : StageLoc) (e : Entry)
  | rdtime (l : StageLoc) (e : Entry)
  | rdtemp (l : StageLoc) (e : Entry)
  | rdovr (l : StageLoc) (e : Entry)
  | rdent (l : StageLoc) (e : Entry)
  -- hub (R261 to R294)
  | hubCycle (phys : BitVec 6)
  | descriptorRetire (phys : BitVec 6) (queue : BitVec 6) (status : Status)
  | copy (phys : BitVec 6) (queue : BitVec 6)
  | gatherRows (phys : BitVec 6) (queue : BitVec 6)
  | gatherPages (phys : BitVec 6) (queue : BitVec 6)
  | sample (phys : BitVec 6) (queue : BitVec 6)
  | transpose (phys : BitVec 6) (queue : BitVec 6)
  | reduce (phys : BitVec 6) (queue : BitVec 6)
  | dramRefresh (phys : BitVec 6) (slice : BitVec 6) (burstsWaiting : BitVec 16)
  -- service mesh (R228 to R230, R315 to R327)
  | readRequest (src : MeshSrc) (form : BitVec 2) (addr : BitVec 48) (sizeM1 : BitVec 8)
  | writeRequest (src : MeshSrc) (form : BitVec 2) (addr : BitVec 48) (sizeM1 : BitVec 8) (data : Vec)
  | readResponse (dst : MeshSrc) (data : Vec)
  | writeAcknowledge (dst : MeshSrc)
  | tallyIncrement (src : MeshSrc) (tally : BitVec 16) (amount : Word)
  | post (src : MeshSrc) (a : ArrayLoc) (first last : BitVec 13) (write : Bool) (owner : BitVec 6)
  | postAcknowledge (dst : MeshSrc)
  | atomicRequest (src : MeshSrc) (op : AtomicOp) (addr : BitVec 48) (value : Word) (issuer : StageLoc) (lane : BitVec 4)
  | config (src : MeshSrc) (write : Bool) (addr : BitVec 48) (value : Word)
  | record (src : MeshSrc) (status : Status) (location : Word) (addr : Word) (data : BitVec 192)
  | mgmt (src : MeshSrc) (message : BitVec 512)
  | tallyWait (src : MeshSrc) (tally : BitVec 16) (target : Word)
  | waitDone (dst : MeshSrc)
  | progressSend
  | progress (dst : MeshSrc)
  | ack (dst : MeshSrc)
  | negative (dst : MeshSrc) (status : Status) (addr : BitVec 48)
  | serviceTimeout (dst : MeshSrc)
  | tallyWaitComplete (tally : BitVec 16)
  -- seams (R214 to R222)
  | seamFrameReceive (phys : BitVec 6) (side : BitVec 2) (seq : Byte) (checkGood replayRequest : Bool) (ackSeq : Byte)
  | seamDeadSilence (phys : BitVec 6) (side : BitVec 2)
  | seamDeadReplayLimit (phys : BitVec 6) (side : BitVec 2)
  | meshNoProgress (phys : BitVec 6)
  -- lock-step (R407 to R416)
  | lockstepCompare
  | lockstepTimeout (epoch : Word)
  -- power (R442 to R463)
  | powerTick (late : BitVec 64) (sensors : List (BitVec 6 × BitVec 64)) (ring0 ring1 : Word) (input : Word)
      (energy : Word) (counts : List (BitVec 6 × List (BitVec 64)))
  | capFloor
  | tilePowerGood (phys : BitVec 6)
  | tileTrip (phys : BitVec 6) (cause rail : BitVec 4) (phase : Byte)
  | junctionTrip (phys : BitVec 6) (ring : Bool)
  | inputFault (voltage : BitVec 16)
  | standbyPowerOn (serial : Word) (selfTestFails : BitVec 16)
  | standbyPowerLoss
  -- clocks (R421 to R441)
  | refLost
  | reacquire (via : Via)
  | clkSlotCfgWrite (via : Via) (value : Word)
  | glideEnd
  | clkSrcSelWrite (via : Via) (phys : BitVec 6) (value : Word)
  | clkSwitchComplete (phys : BitVec 6)
  | clkSourceLost (phys : BitVec 6)
  | clkDivWrite (via : Via) (phys : BitVec 6) (value : Word)
  | gateOn (via : Via) (phys : BitVec 6) (node : BitVec 10)
  | gateOff (via : Via) (phys : BitVec 6) (node : BitVec 10)
  | gateOffAfterDrain (via : Via) (phys : BitVec 6) (node : BitVec 10)
  | gateCancel (via : Via) (phys : BitVec 6) (node : BitVec 10)
  | gatePendingComplete (phys : BitVec 6) (node : BitVec 10)
  -- time (R545, R546)
  | ppsEdge (now : Word)
  | clkTimeNextWrite (via : Via) (value : Word)
  | timeNextExpiry
  | ppsLost
  -- firmware and management (R521 to R540)
  | fwGo (port : BitVec 2) (value : Word) (bundle : List Byte) (readFail : Option Status)
  | fwPush (mport : BitVec 1) (session : BitVec 2) (offset total : Word) (bytes : List Byte)
  | fwVerify
  | mgmtSessionOpen (mport : BitVec 1) (proto : BitVec 2) (peer : BitVec 128) (chainAnchor : BitVec 384) (proved : Bool)
  | regRead (mport : BitVec 1) (session : BitVec 2) (seq : Word) (addr : BitVec 48)
  | regWrite (mport : BitVec 1) (session : BitVec 2) (seq : Word) (addr : BitVec 48) (value : Word)
  | subscribe (mport : BitVec 1) (session : BitVec 2) (seq : Word) (kinds : Word)
  | spdmRequest (via : Via) (session : BitVec 2) (req : Spdm)
  | redfishRequest (mport : BitVec 1) (session : BitVec 2) (req : Redfish)
  | ideKeyProgramming (port : BitVec 2) (key : BitVec 256) (katPass : Bool)
  | transceiverChange (mport : BitVec 1) (inserted : Bool) (supported : Bool)
  | entropyTestFail (test : BitVec 16)
  -- register accesses with rows of their own
  | hubHdlLenWrite (via : Via) (phys : BitVec 6) (handle : BitVec 12) (value : Word)
  | hubHdlAddrWrite (via : Via) (phys : BitVec 6) (handle : BitVec 12) (value : Word)
  | caObDataAccess (via : Via) (phys : BitVec 6) (x y : BitVec 6) (write : Bool) (value : Word)
  | hubDescDataAccess (via : Via) (phys : BitVec 6) (write : Bool) (value : Word)
  | otpStageDataAccess (via : Via) (write : Bool) (value : Word)
  | cvuFeed8 (via : Via) (ring : Bool) (phys : BitVec 6) (unit : BitVec 4) (value : Word)
  | cvuFeed16 (via : Via) (ring : Bool) (phys : BitVec 6) (unit : BitVec 4) (value : Word)
  | cvuFeed32 (via : Via) (ring : Bool) (phys : BitVec 6) (unit : BitVec 4) (value : Word)
  | cvuFold (via : Via) (ring : Bool) (phys : BitVec 6) (unit : BitVec 4) (value : Word)
  | cvuValueWrite (via : Via) (ring : Bool) (phys : BitVec 6) (unit : BitVec 4) (value : Word)
  | cvuLoad (via : Via) (ring : Bool) (phys : BitVec 6) (unit : BitVec 4) (cfg : Word)
  | tlyCountWrite (via : Via) (ring : Bool) (phys : BitVec 6) (index : BitVec 12) (value : Word)
  | tlyAdd (via : Via) (ring : Bool) (phys : BitVec 6) (index : BitVec 12) (value : Word)
  | tlyCfgWrite (via : Via) (index : BitVec 12) (value : Word)
  | tlyWatchRangeWrite (via : Via) (index : BitVec 12) (limit : Bool) (value : Word)
  | opCeilingWrite (via : Via) (watts : BitVec 32)
  | registerReadClear (via : Via) (addr : BitVec 48)
  | setupWrite (via : Via) (addr : BitVec 48) (size : BitVec 4) (value : Word)
  -- the other events of the world outside
  | referenceReturn
  | linkTrained (port : BitVec 2) (speed : BitVec 4) (width : BitVec 6) (loflit : Bool)
  | cableMated (port : BitVec 2)
  | busbarStable
  | uioWriteCompletion (port : BitVec 2) (tag : UioDone)
  | railSwitchOffDone (phys : BitVec 6)
  | sideReadyChange (phys : BitVec 6) (side : BitVec 2) (ready : SideShow) (path : Word) (depth : Byte) (hold : Bool)
  | entropyPoolRefill (phys : BitVec 6) (words : List Lane)
  | mgmtSessionEnd (mport : BitVec 1) (proto : BitVec 2) (session : BitVec 2)
  | bringupPhaseComplete (what : PhaseDone)
  | configSpaceAccess (port : BitVec 2) (what : ConfigAccess)
  | jtagAccess (what : JtagAccess)
  deriving DecidableEq, Repr

end Sys2Proof
end

