-- ==== Sys2Proof/Decode.lean ====
section
/-!
DEFINITION. The command that a word of the table spells. No row of spec/opcode_table.json gives bits ("fields" is empty
in all 246), so no word spells a command.
-/

namespace Sys2Proof

/-- The command of a word of `nbits` bits: none, as the table gives no row any bits. -/
def decodeTableWord (_nbits _w : Nat) : Option Instr := none

end Sys2Proof
end

