-- ==== Sys2Proof/Machine/Store.lean ====
section
/-!
DEFINITION. Sparse maps: the form in which State holds every register file, memory and table. A map is a list of
(key, value) pairs with strictly rising keys and no entry equal to what an unlisted key reads as, so that equal maps
are equal lists. Bit fields of a word (R14) and byte strings of a little-endian value (R48, R354).
-/

namespace Sys2Proof.Machine

/-- The value at key `k`; `d` is what an unlisted key reads as. -/
def smapGet {α : Type} (d : Nat → α) : List (Nat × α) → Nat → α
  | [], k => d k
  | (j, v) :: r, k => if j = k then v else smapGet d r k

/-- Place an entry before the first larger key. -/
def smapPut {α : Type} (k : Nat) (v : α) : List (Nat × α) → List (Nat × α)
  | [] => [(k, v)]
  | (j, w) :: r => if k < j then (k, v) :: (j, w) :: r else (j, w) :: smapPut k v r

/-- Keep the entries whose key satisfies `p`; the others read as the default again. -/
def smapKeep {α : Type} (p : Nat → Bool) (m : List (Nat × α)) : List (Nat × α) :=
  m.filter (fun e => p e.1)

/-- Place `v` at key `k`, keeping the rising order; no entry is left for the default value. -/
def smapSet {α : Type} [DecidableEq α] (d : Nat → α) (m : List (Nat × α)) (k : Nat) (v : α) : List (Nat × α) :=
  let r := smapKeep (fun j => decide (j ≠ k)) m
  if v = d k then r else smapPut k v r

/-- Write a list of values at consecutive keys. -/
def smapSetMany {α : Type} [DecidableEq α] (d : Nat → α) :
    List (Nat × α) → Nat → List α → List (Nat × α)
  | m, _, [] => m
  | m, k, v :: vs => smapSetMany d (smapSet d m k v) (k + 1) vs

/-- Change the value at key `k`. -/
def smapMod {α : Type} [DecidableEq α] (d : Nat → α) (m : List (Nat × α)) (k : Nat) (f : α → α) : List (Nat × α) :=
  smapSet d m k (f (smapGet d m k))

/-- Read `n` values at consecutive keys. -/
def smapGetMany {α : Type} (d : Nat → α) (m : List (Nat × α)) (k : Nat) : Nat → List α
  | 0 => []
  | n + 1 => smapGet d m k :: smapGetMany d m (k + 1) n

/-- The one form of a map: every key of `m` is above the bound, the keys rise, and no entry is the default. -/
def smapOkFrom {α : Type} [DecidableEq α] (d : Nat → α) : Nat → List (Nat × α) → Bool
  | _, [] => true
  | lo, (k, v) :: r => decide (lo ≤ k) && decide (v ≠ d k) && smapOkFrom d (k + 1) r

/-- The canonical form of a sparse map. -/
def smapOk {α : Type} [DecidableEq α] (d : Nat → α) (m : List (Nat × α)) : Bool := smapOkFrom d 0 m

/-- A bit field: highest and lowest bit. -/
structure Fld where
  hi : Nat
  lo : Nat
  deriving DecidableEq, Repr

/-- The value of a field of a register word. -/
def fldGet (f : Fld) (w : Word) : Nat := (w.toNat / 2 ^ f.lo) % 2 ^ (f.hi + 1 - f.lo)

/-- The bits of a field, as a mask. -/
def fldMask (f : Fld) : Word := BitVec.ofNat 64 ((2 ^ (f.hi + 1 - f.lo) - 1) * 2 ^ f.lo)

/-- Set a field of a register word to `v` modulo its width. -/
def fldSet (f : Fld) (w : Word) (v : Nat) : Word :=
  (w &&& ~~~ fldMask f) ||| BitVec.ofNat 64 ((v % 2 ^ (f.hi + 1 - f.lo)) * 2 ^ f.lo)

/-- The largest value of a field. -/
def fldMax (f : Fld) : Nat := 2 ^ (f.hi + 1 - f.lo) - 1

/-- A word holding one field. -/
def fldOf (f : Fld) (v : Nat) : Word := fldSet f 0 v

/-- The little-endian bytes of a number. -/
def bytesLE : Nat → Nat → List Byte
  | 0, _ => []
  | n + 1, v => BitVec.ofNat 8 v :: bytesLE n (v / 256)

/-- The number that little-endian bytes spell. -/
def ofBytesLE : List Byte → Nat
  | [] => 0
  | b :: bs => b.toNat + 256 * ofBytesLE bs

/-- `n` bytes of a byte string from offset `o`, bytes past its end being 0. -/
def bytesAt (bs : List Byte) (o n : Nat) : List Byte :=
  let s := (bs.drop o).take n
  s ++ List.replicate (n - s.length) 0

/-- The little-endian number of width `n` bytes at offset `o`. -/
def numAt (bs : List Byte) (o n : Nat) : Nat := ofBytesLE (bytesAt bs o n)

/-- Bits [hi:lo] of a number. -/
def natBits (v hi lo : Nat) : Nat := (v / 2 ^ lo) % 2 ^ (hi + 1 - lo)

/-- Bit i of a number. -/
def natBit (v i : Nat) : Bool := (v / 2 ^ i) % 2 = 1

/-- The signed value of a `w`-bit two's-complement field. -/
def natSigned (w v : Nat) : Int := if 2 ^ (w - 1) ≤ v % 2 ^ w then (v % 2 ^ w : Nat) - (2 ^ w : Nat) else (v % 2 ^ w : Nat)

/-- A saturating sum. -/
def satAdd (max a b : Nat) : Nat := min max (a + b)

/-- The first element that satisfies `p`, with its index. -/
def findIdxSome {α : Type} (p : α → Bool) : List α → Option Nat
  | [] => none
  | a :: as => if p a then some 0 else (findIdxSome p as).map (· + 1)

/-- Replace the element at index `i`. -/
def listSet {α : Type} (l : List α) (i : Nat) (a : α) : List α := l.set i a

end Sys2Proof.Machine
end

