-- ==== Sys2Proof/Machine/Crc.lean ====
section
/-!
DEFINITION. The cyclic redundancy check of a check-value unit (R295, R296), by the parameters of its polynomial
selection.
-/

namespace Sys2Proof.Machine

/-- The parameters of a check (R296). -/
structure CrcParams where
  w : Nat
  poly : Nat
  init : Nat
  refIn : Bool
  refOut : Bool
  xorOut : Nat
  deriving DecidableEq, Repr

def crc32cParams : CrcParams := ⟨32, 0x1EDC6F41, 0xFFFFFFFF, true, true, 0xFFFFFFFF⟩
def crc32Params : CrcParams := ⟨32, 0x04C11DB7, 0xFFFFFFFF, true, true, 0xFFFFFFFF⟩
def crc64Params : CrcParams := ⟨64, 0x42F0E1EBA9EA3693, 0, false, false, 0⟩

/-- The low w bits of v in reverse order (R295). -/
def bitRev : Nat → Nat → Nat
  | 0, _ => 0
  | w + 1, v => (v % 2) * 2 ^ w + bitRev w (v / 2)

/-- One of the eight shifts of R295. -/
def crcShift (q : CrcParams) (v : Nat) : Nat :=
  if natBit v (q.w - 1) then Nat.xor (2 * v) q.poly % 2 ^ q.w else 2 * v % 2 ^ q.w

/-- One byte fed to the computation (R295). -/
def crcByte (q : CrcParams) (v : Nat) (b : Byte) : Nat :=
  let b := if q.refIn then bitRev 8 b.toNat else b.toNat
  let v := Nat.xor v (b * 2 ^ (q.w - 8))
  crcShift q (crcShift q (crcShift q (crcShift q (crcShift q (crcShift q (crcShift q (crcShift q v)))))))

/-- `f v` with the value of `v` found first, so that a long evaluation does not nest. -/
def withNat {α : Type} (v : Nat) (f : Nat → α) : α :=
  match v with
  | 0 => f 0
  | n + 1 => f (n + 1)

/-- Bytes fed in order (R295). -/
def crcFeed (q : CrcParams) (v : Nat) : List Byte → Nat
  | [] => v
  | b :: bs => withNat (crcByte q v b) (fun v => crcFeed q v bs)

/-- The result R formed from V (R295). -/
def crcResult (q : CrcParams) (v : Nat) : Nat :=
  Nat.xor (if q.refOut then bitRev q.w v else v % 2 ^ q.w) q.xorOut

/-- CRC-32C of a byte string from its initial value (R296). -/
def crc32c (bs : List Byte) : Nat := crcResult crc32cParams (crcFeed crc32cParams 0xFFFFFFFF bs)

end Sys2Proof.Machine
end

