-- ==== Sys2Proof/Config.lean ====
section
/-!
DEFINITION. What an implementation fixes and the free values: constants with no body, so that no proof can rest on a
value of theirs. Each is named in a row of notes/assumptions.
-/

namespace Sys2Proof

/-- The three grades of R4. -/
inductive Grade where
  | jw9200
  | jw7400
  | jw5600
  deriving DecidableEq, Repr, Inhabited

/-- The grade of the module, fused at the factory (R4; log entry 2). -/
opaque Config.grade : Grade

/-- The fused slot-clock ceiling in kHz (R4). -/
def Config.slotCeilKhz : Nat :=
  match Config.grade with
  | .jw9200 => 1500000
  | .jw7400 => 1250000
  | .jw5600 => 1000000

/-- The fused power ceiling in W (R4). -/
def Config.powerCeilW : Nat :=
  match Config.grade with
  | .jw9200 => 32000
  | .jw7400 => 26000
  | .jw5600 => 20000

/-- A fresh free value, numbered by State.freeCtr (log entry 4). -/
opaque Config.freeWord : Nat → BitVec 64

/-- A byte of a blaze region whose layout is not given, as a word: KIND, what the region holds, index of the byte (log
entry 46). -/
opaque Config.regionWord : Nat → List Nat → Nat → BitVec 64

/-- The bits an approximation gives for an FP32 input: operation 0 RCP, 1 RSQRT, 2 EXP2, 3 LOG2. Used only where it
lies within the bound of R70 (log entry 5). -/
opaque Config.approx : Nat → BitVec 32 → BitVec 32

/-- Does an ECDSA P-384 signature verify: public key, message, signature (R532; log entry 6)? -/
opaque Config.ecdsaVerify : List Byte → List Byte → List Byte → Bool

/-- The byte at an offset of the factory fuse generation (R541; log entry 2). -/
opaque Config.factoryByte : Nat → Byte

/-- The VCORE set point in mV, between 0.70 V and 0.80 V (R443; log entry 2). -/
opaque Config.vcoreFuse : Nat
def Config.vcoreMv : Nat := 700 + Config.vcoreFuse % 101

/-- The body of the factory cruise map (R541, R542), the SVN floor, the hashes of the four firmware keys and the digests
of the operator trust anchors of the factory generation (log entry 2). -/
opaque Config.factoryMap : List (BitVec 8)
opaque Config.svnFloor : BitVec 32
opaque Config.keyHash : Nat → BitVec 384
opaque Config.factoryAnchor : Nat → BitVec 384

/-- Fused measurements and key material (R538, R539; log entry 2): the digest of an index. -/
opaque Config.measurement : Nat → BitVec 384

/-- The UDS, a fused secret that only the security engine reads (R538; log entry 2). -/
opaque Config.uds : List Byte

/-- The context of an HKDF derivation, the public key of a P-384 private key, the DeviceID certificate of the factory
generation, and the Alias certificate that the DeviceID key issues for a public key (R538; log entry 95). -/
opaque Config.hkdfInfo : Nat → List Byte
opaque Config.p384Public : List Byte → List Byte
opaque Config.deviceCert : List Byte
opaque Config.aliasCert : List Byte → List Byte → List Byte

/-- The number of the FIPS 140-3 certificate (R533; log entry 95). -/
opaque Config.fipsCertificate : BitVec 64

/-- The logical stand whose controller issues the SAMPLE descriptors of a session (R390; log entry 96). -/
opaque Config.sampleStand : Nat → BitVec 6

/-- Of the lines that a host may hold modified, how many it returns modified to a snoop of all lines (R342; log entry 93). -/
opaque Config.linesModified : Nat → Nat → Nat

/-- Where in BAR4 the register block of an identifier lies (R336; log entry 94). -/
opaque Config.bar4Offset : Nat → BitVec 17

end Sys2Proof
end

