-- ==== Sys2Proof/Machine/MeshTypes.lean ====
section
/-!
DEFINITION. The state of the two on-wafer networks beside the registers: link inputs and arrivals (R207), credits
(R211), steering units (R146 to R149), nodes (R212, R222), seam ports (R214 to R221), scoreboards (R181 to R183), hub
taps (R266), the packets of the service mesh (R228, R230) and tally waits (R326).
-/

namespace Sys2Proof.Machine

/-- The input of a node from a link (R204): the vector with its tag, and the baton, that the slot carries. -/
structure LinkIn where
  vec : Option (Byte × Vec)
  btn : Option (BitVec 16)
  deriving DecidableEq, Repr

/-- A steering unit beside its registers (R146, R148, R149): pairing queues, whose entries keep the connection that
delivered them; the paired vector, as (from in1, to out1); the baton held for the baton output. -/
structure Steer where
  dq0 : List (Byte × Vec × Nat)
  dq1 : List (Byte × Vec × Nat)
  bq : List (BitVec 16 × Nat)
  paired : Option (Bool × Bool)
  fwd : Option (BitVec 16)
  stopped : Bool
  deriving DecidableEq, Repr

def Steer.init : Steer := ⟨[], [], [], none, none, false⟩

/-- A node beside its registers (R212, R215, R222): the running slips of its START connections in laps, the run of port
hold slots, the waiting slots without progress, and whether the last slot moved anything. -/
structure NodeSt where
  slipRuns : List (Nat × Nat)
  holdRun : Nat
  waiting : Nat
  told : Bool
  moved : Bool
  deriving DecidableEq, Repr

def NodeSt.init : NodeSt := ⟨[], 0, 0, false, false⟩

/-- A vector or baton on its way to the input it reaches at the end of the slot (R207): destination node, port code,
lap position and the END connection that delivers it. -/
structure Move where
  node : Nat
  port : Nat
  link : Bool
  baton : Bool
  tag : Byte
  vec : Vec
  btn : BitVec 16
  conn : Nat
  deriving DecidableEq, Repr

/-- A credit on its way back (R211): the connection it stands at and the slots it still waits there. -/
structure Credit where
  conn : Nat
  delay : Nat
  deriving DecidableEq, Repr

/-- An entry of a seam frame or receive queue (R214, R219): sender position, edge-node position, vector or baton. -/
structure SeamEntry where
  pos : Nat
  edge : Nat
  baton : Bool
  tag : Byte
  vec : Vec
  btn : BitVec 16
  deriving DecidableEq, Repr

/-- A seam frame (R219): SEQ, the vectors and batons with their sender positions, the credit returns (the far edge node's
connections), and the acknowledge and replay request for the reverse direction. `age` counts the slots since it was sent. -/
structure SeamFrame where
  seq : Byte
  entries : List SeamEntry
  credits : List Nat
  ack : Byte
  request : Bool
  age : Nat
  deriving DecidableEq, Repr

/-- A seam port (R214, R218 to R221). Sending: `cur` the frame of the slot in course, `queue` the frames to send, oldest
first, `sent` the last 32 sent, newest first, `wire` those on their way, oldest first, `credOut` the credits to return,
`credNew` those of the slot in course, `sendOff` framing stopped; `turn` the slots until a replay request is heard
again, `again` the frame from which the last one asked (R220). Receiving: the receive queue, the next SEQ expected,
replay in progress, failures in a row of the frame expected, and the slots since the last frame with a good check. -/
structure SeamPort where
  cur : SeamFrame
  queue : List SeamFrame
  sent : List SeamFrame
  wire : List SeamFrame
  credOut : List Nat
  credNew : List Nat
  sendOff : Bool
  turn : Nat
  again : Byte
  rx : List SeamEntry
  want : Byte
  replaying : Bool
  failRun : Nat
  silent : Nat
  deriving DecidableEq, Repr

def SeamPort.init : SeamPort := ⟨⟨0, [], [], 0, false, 0⟩, [], [], [], [], [], false, 0, 0, [], 0, false, 0, 0⟩

/-- Forget what the frames of a port and its queues carry (R171); the sequence of frames goes on. -/
def SeamPort.clear (m : SeamPort) : SeamPort :=
  let f (x : SeamFrame) : SeamFrame := { x with entries := [], credits := [] }
  { m with cur := f m.cur, queue := m.queue.map f, sent := m.sent.map f, wire := m.wire.map f, credOut := [], credNew := [], rx := [] }

/-- Does a port hold a vector, a baton or a credit on its way (R225)? -/
def SeamPort.busy (m : SeamPort) : Bool :=
  let f (x : SeamFrame) : Bool := !x.entries.isEmpty || !x.credits.isEmpty
  !m.rx.isEmpty || !m.credOut.isEmpty || !m.credNew.isEmpty || f m.cur || m.queue.any f || m.wire.any f

/-- A scoreboard entry (R181): the posting that made it, the posting engine's queue, the generators it enters, range, kind;
`live` from the slot after it arrives, `ending` from the end of the engine's accesses. -/
structure SbEntry where
  post : MeshSrc
  owner : Nat
  gens : List Nat
  first : Nat
  last : Nat
  write : Bool
  live : Bool
  ending : Bool
  deriving DecidableEq, Repr

/-- The posts of a memory array that wait for a free scoreboard entry (R183), its pending entries, and the slots that an access
from outside has emptied in the slot in course before the write generator had its turn at them (R168). -/
structure MemArr where
  sb : List SbEntry
  posts : List (MeshSrc × SbEntry)
  emptied : List Nat
  deriving DecidableEq, Repr

def MemArr.init : MemArr := ⟨[], [], []⟩

/-- A tap of a hub's mesh port (R266): vectors to send, each with the tag of TAG_FIX if it has one, and vectors received
with the connection that delivered each. -/
structure Tap where
  tx : List (Option Byte × Vec)
  rx : List (Vec × Nat)
  deriving DecidableEq, Repr

def Tap.init : Tap := ⟨[], []⟩

/-- What a request packet asks (R228). -/
inductive SvcKind where
  | read (form : BitVec 2) (addr : BitVec 48) (sizeM1 : BitVec 8)
  | write (form : BitVec 2) (addr : BitVec 48) (sizeM1 : BitVec 8) (data : Vec)
  | tally (number : BitVec 16) (amount : Word)
  | post (a : ArrayLoc) (first last : BitVec 13) (write : Bool) (owner : BitVec 6)
  | atomic (op : AtomicOp) (addr : BitVec 48) (value : Word) (lane : BitVec 4)
  | config (write : Bool) (addr : BitVec 48) (value : Word)
  | record (status : Status) (location addr : Word) (data : BitVec 192)
  | mgmt (message : BitVec 512)
  | tallyWait (number : BitVec 16) (target : Word)
  deriving DecidableEq, Repr

/-- A request packet that has had no response (R230): its source, what it asks, the LOCATION of the stage or unit that
sent it, whether it is held at its destination, and whether the descriptor that sent it has retired since. -/
structure SvcReq where
  src : MeshSrc
  kind : SvcKind
  loc : Word
  held : Bool
  dead : Bool
  deriving DecidableEq, Repr

/-- A response on its way to its source (R230). -/
inductive SvcAnswer where
  | data (v : Vec)
  | done
  | posted
  | acked
  | waited
  | progress
  | negative (st : Status) (addr : BitVec 48)
  deriving DecidableEq, Repr

/-- Who waits on a tally (R326). -/
inductive Waiter where
  | stage (p a st : Nat)
  | queue (p q : Nat)
  | copy (port eng : Nat)
  | verb (port ring : Nat) (cmdId : BitVec 16)
  | remote (src : MeshSrc)
  deriving DecidableEq, Repr

/-- A wait on a tally: `via` the TALLY_WAIT that asks for it at another hub or the ring (R327), `done` when it has been
reached (R317, R326), `fail` the status that ends it. -/
structure TWait where
  tally : Nat
  target : Word
  who : Waiter
  via : Option MeshSrc
  done : Bool
  fail : Option Status
  deriving DecidableEq, Repr

/-- A record of a parity log (R504): slice, slice offset of the 64-byte slot, and the XOR of its old and new contents. -/
structure LogRec where
  slice : Nat
  off : Nat
  xor : Vec
  deriving DecidableEq, Repr

/-- The two log generations of a stand (R504, R505): `full` once journalling has stopped for the epoch. The first `mark` records
of the current one precede the drain point that the module stands at (R515). -/
structure ParityLog where
  cur : List LogRec
  prev : List LogRec
  full : Bool
  mark : Nat
  deriving DecidableEq, Repr

def ParityLog.init : ParityLog := ⟨[], [], false, 0⟩

end Sys2Proof.Machine
end

