-- ==== Sys2Proof/Machine/GulemTypes.lean ====
section
/-!
DEFINITION. The state of the generation service (R376 to R400), of lock-step (R407 to R414), of heartbeat checks (R495)
and of the blazes that can be restored (R496 to R502).
-/

namespace Sys2Proof.Machine

/-- A status record of the service before it is written (R381), apart from PHASE. -/
structure GRec where
  session : Nat
  status : Status
  reqId : BitVec 16
  eventNo : Nat
  tokens : Nat
  step : Nat
  detail : Word
  irq : Bool
  deriving DecidableEq, Repr

/-- A Gulem request ring with its status ring (R378, R381, R397): `state` 0 disabled, 1 enabled, 2 disabling; `used` the
status records that the host has not freed; `recs` the records that wait for a free slot. -/
structure GRing where
  state : Nat
  sqHead : Nat
  tail : Nat
  pos : Nat
  head : Nat
  used : Nat
  phase : Bool
  safeHead : Nat
  recs : List GRec
  deriving DecidableEq, Repr

def GRing.init : GRing := ⟨0, 0, 0, 0, 0, 0, true, 0, []⟩

/-- A request fetched and not yet applied (R379, R384), with its prompt as read from host memory, or how its reading
failed. -/
structure GReq where
  port : Nat
  ring : Nat
  entry : BitVec 512
  prompt : List (BitVec 32)
  fail : Option (Status × Word)
  deriving DecidableEq, Repr

/-- A session of the service (R382): `state` 0 FREE, 1 QUEUED, 2 PREFILL, 3 DECODE, 4 PARKED; `entry` the request that
began the turn; `prompt` the tokens still to be processed, the session's last token first in an EXTEND (R386); `held`
the positions in its cache; `next` its next token index; `made` the tokens of this turn; `blocks` its pages, one list
per block; `reserved` the blocks of its reservation (R387). -/
structure GSess where
  state : Nat
  port : Nat
  ring : Nat
  entry : BitVec 512
  reqId : BitVec 16
  prompt : List (BitVec 32)
  held : Nat
  next : Nat
  first : Nat
  made : Nat
  eventNo : Nat
  blocks : List (List Nat)
  reserved : Nat
  last : BitVec 32
  deriving DecidableEq, Repr

def GSess.init : GSess := ⟨0, 0, 0, 0, 0, [], 0, 0, 0, 0, 0, [], 0, 0⟩

/-- The generation service (R376 to R394): the step in course, sessions, the queue and the order of parking, the free
list and the pages that await release, the requests fetched, rings by port × 16 + q; `waiting` while a boundary's blaze
has not succeeded (R385), `blazing` while the blaze of a boundary runs, `ended` from the end of a step to the beginning of
the next, `turn` the next ring of each port, four bits each; `cut` the ports whose link has gone down since the last
boundary (R393). -/
structure Gul where
  step : Nat
  sessions : List (Nat × GSess)
  queue : List Nat
  parked : List Nat
  free : List Nat
  awaiting : List Nat
  reqs : List GReq
  rings : List (Nat × GRing)
  waiting : Bool
  blazing : Bool
  ended : Bool
  turn : Nat
  cut : List Nat
  deriving DecidableEq, Repr

def Gul.init : Gul := ⟨1, [], [], [], [], [], [], [], false, false, false, 0, []⟩

/-- A block of an epoch in a slot of the lock-step region (R411 to R413): the epoch, whether it has been compared, and
whether its silence has been reported. -/
structure LsBlock where
  epoch : Nat
  compared : Bool
  told : Bool
  deriving DecidableEq, Repr

/-- Lock-step (R407 to R414): the settings in force beside RGR_LS_STATUS, the count of headers taken and the slots
whose headers have come and are not yet taken, in order of arrival, the own and the inbound
blocks by slot, the sends in progress (epoch, whether the header has gone, UIO writes not completed), and the epochs that
matched. -/
structure Lockstep where
  sigPoly : Nat
  mbox : Nat
  base : Nat
  peerBase : Nat
  timeoutMs : Nat
  taken : Nat
  came : List Nat
  own : List (Nat × Option LsBlock)
  inbound : List (Nat × Option LsBlock)
  sends : List (Nat × Bool × List (BitVec 16))
  matched : List Nat
  deriving DecidableEq, Repr

def Lockstep.init : Lockstep := ⟨0, 0, 0, 0, 1, 0, [], [], [], [], []⟩

/-- An entry of the heartbeat table as last checked (R495): the tally's COUNT and the lap count at that check, and
whether the miss has been reported. -/
structure HbEntry where
  count : Word
  laps : Nat
  told : Bool
  deriving DecidableEq, Repr

/-- A blaze beside its buffers in DRAM (R500 to R502): the registers of its regions 0x3 to 0x7 by canonical address, the
SRAM bytes of its regions 0x1 and 0x2 with their tags, the lap counts, the finished Once queues, the service state, its
taints, the groups in which it is protected, and in `bound`
the counters, as keys of CA_CTR_STATUS_c, whose bound came from a baton (R154, R158). -/
structure Snap where
  epoch : Nat
  time : Word
  regs : List (Nat × Word)
  mem : List (Nat × Byte)
  tags : List (Nat × Bool)
  laps : List (Nat × Nat)
  finished : List Nat
  gul : Gul
  tainted : Bool
  taints : List (Status × Word)
  parityOf : List Nat
  bound : List Nat
  deriving DecidableEq, Repr

end Sys2Proof.Machine
end

