-- ==== Sys2Proof/Machine/HostTypes.lean ====
section
/-!
DEFINITION. The state of the host and management interfaces: reports (R348, R526), command and completion rings
(R344, R347, R349), event rings (R348), sessions (R521 to R526), outstanding reads (R361 to R364), the presence filter
(R342) and configuration space (R340, R361).
-/

namespace Sys2Proof.Machine

/-- A report: the fields of the 64-byte record of R348 apart from PHASE and LOST, which each copy has its own. -/
structure Report where
  status : Status
  taint : Bool
  source : Byte
  seq : BitVec 32
  time : Word
  location : Word
  epoch : Word
  addr : Word
  data : List Byte
  deriving DecidableEq, Repr

/-- A completion record before it is written (R347): NONREPEAT, CV and IRQ beside its fields; `told`: its status has been
reported at the descriptor's retirement (R278), so that a discarded record says it no second time (R349). -/
structure Retired where
  issuer : Issuer
  cmdId : BitVec 16
  status : Status
  result0 : Word
  result1 : Word
  detail : Word
  cv : Bool
  nonrepeat : Bool
  irq : Bool
  told : Bool
  deriving DecidableEq, Repr

/-- A command ring with its completion ring (R344, R347, R349): `state` 0 disabled, 1 enabled, 2 disabling; `ccUsed` the
completion records that the host has not freed; `flight` the commands fetched and not yet retired; `done` the records
that wait for a free completion slot; `skip` the posted slots whose command an ABORT has ended (R360); `reserved` the
commands fetched whose code no verb has, with the status each is to end with (R350, R528). -/
structure CRing where
  state : Nat
  sqHead : Nat
  tail : Nat
  ccPos : Nat
  ccHead : Nat
  ccUsed : Nat
  phase : Bool
  flight : List Cmd
  done : List Retired
  skip : List Nat
  reserved : List (Cmd × Status)
  deriving DecidableEq, Repr

def CRing.init : CRing := ⟨0, 0, 0, 0, 0, 0, true, [], [], [], []⟩

/-- An event ring (R348): next slot, the host's HEAD, the records that the host has not freed, PHASE, LOST for the
next record. -/
structure EvRing where
  pos : Nat
  head : Nat
  used : Nat
  phase : Bool
  lost : Bool
  deriving DecidableEq, Repr

def EvRing.init : EvRing := ⟨0, 0, 0, true, false⟩

/-- An HDM decoder of a port (R335, R340). -/
structure Decoder where
  base : Word
  size : Word
  skip : Word
  ways : BitVec 4
  granularity : BitVec 4
  committed : Bool
  deriving DecidableEq, Repr

def Decoder.init : Decoder := ⟨0, 0, 0, 0, 0, false⟩

/-- A read of host memory or of a peer that is outstanding or whose data has arrived early (R361, R362): the DMA_COPY
it belongs to, its address, its length and its data. -/
structure ReadReq where
  tag : BitVec 16
  job : Nat
  addr : Nat
  len : Nat
  data : Option (List Byte)
  deriving DecidableEq, Repr

/-- A DMA_COPY in progress on a ring DMA engine (R352): its number, its engine, the bytes requested and written, the 64
bytes read and not yet written, UIO writes not yet completed, each with its tag and address, whether a completion
stalled (R363), the uncorrectable word that it waits on, and its DONE increment on its way to a stand (R278). -/
structure CopyJob where
  id : Nat
  cmd : Cmd
  engine : Nat
  requested : Nat
  written : Nat
  have64 : Option (List Byte)
  uio : List (BitVec 16 × Nat)
  nonrepeat : Bool
  stuckAt : Option Nat
  done : Option MeshSrc
  deriving DecidableEq, Repr

/-- A verb whose DONE increment is on its way to a stand's tally (R278, R345): the packet, the command, and the results and
NONREPEAT of its record. -/
structure DoneWait where
  src : MeshSrc
  cmd : Cmd
  result0 : Word
  result1 : Word
  detail : Word
  nonrepeat : Bool
  deriving DecidableEq, Repr

/-- A slot access of a request at a port (R341, R343): its device address and bytes, the data, and its state: 0 held,
1 performed, 2 not performed. -/
structure Piece where
  addr : Nat
  len : Nat
  data : List Byte
  st : Nat
  deriving DecidableEq, Repr

/-- A watch of a ring tally as it stands when a request arrives (R322, R325): the tally, and its TLY_CFG, WATCH_BASE and
WATCH_LIMIT. -/
structure Watch where
  tally : Nat
  cfg : Word
  base : Word
  limit : Word
  deriving DecidableEq, Repr

/-- A request from a host or peer at a port (R341 to R343): its number, whether it writes, its slot accesses, the watches that
were on when it arrived, and the cache state that is granted: 0 none, 1 shared, 2 exclusive. -/
structure PortReq where
  id : Nat
  write : Bool
  pieces : List Piece
  watches : List Watch
  grant : Nat
  deriving DecidableEq, Repr

/-- A vector of the MSI-X table (R336): where its message goes, what it carries, and whether it is masked. -/
structure MsixVector where
  addr : Word
  data : BitVec 32
  masked : Bool
  deriving DecidableEq, Repr

/-- A vector as PCIe resets it: masked. -/
def MsixVector.init : MsixVector := ⟨0, 0, true⟩

/-- MSI-X of a port's function (R336): enabled, masked whole, its table, the pending vectors (PBA), and the vectors whose
messages have been sent, oldest first. -/
structure Msix where
  enable : Bool
  maskAll : Bool
  table : List (Nat × MsixVector)
  pending : List Nat
  sent : List Nat
  deriving DecidableEq, Repr

def Msix.init : Msix := ⟨false, false, [], [], []⟩

/-- A CXL port beside its registers (R335 to R365, R535, R553, R554): `status` what IOR_PORT_STATUS shows (R368); `reqs` the
requests not yet completed, `answers` those completed, `refused` the requests answered Unsupported Request; `lines` the
presence filter, least recently recorded first, each with whether the host may modify it, and `snoops` the lines invalidated
(R342); `epochStalls` the count of R363; `msix` the interrupts (R336, R347); `aerUncor` and `aerCor` the error status of AER
(R335). -/
structure Port where
  linkUp : Bool
  status : Word
  perst : Bool
  cprsnt : Bool
  timeout : BitVec 4
  ideKey : BitVec 256
  evq : EvRing
  lines : List (Nat × Bool)
  reads : List ReadReq
  nextTag : BitVec 16
  nextId : Nat
  copies : List CopyJob
  reqs : List PortReq
  answers : List PortReq
  refused : Nat
  snoops : List Nat
  epochStalls : Nat
  turn : Nat
  msix : Msix
  aerUncor : BitVec 32
  aerCor : BitVec 32
  deriving DecidableEq, Repr

def Port.init : Port :=
  ⟨false, 0, false, false, 0, 0, .init, [], [], 0, 0, [], [], [], 0, [], 0, 0, .init, 0, 0⟩

/-- A message of the module to a session of a management port (R523, R527, R539), its reports apart. -/
inductive MgmtMsg where
  | completion (r : Retired)
  | regResult (addr value : Word) (status : Status)
  | spdm (bytes : List Byte)
  | redfish (resource : Nat) (values : List Word)
  | fw (status : Status)
  deriving DecidableEq, Repr

/-- A session (R521 to R526): protocol 0 Redfish, 1 record protocol, 2 boot session; `kinds` its SUBSCRIBE; `backlog` the
reports that it has not taken yet, and `lost` whether the next carries LOST; `out` the other messages sent to it. -/
structure Session where
  proto : BitVec 2
  peer : BitVec 128
  kinds : Word
  seqIn : Nat
  backlog : List Report
  lost : Bool
  out : List MgmtMsg
  flight : List Cmd
  events : List (BitVec 16)
  deriving DecidableEq, Repr

end Sys2Proof.Machine
end

