-- ==== Sys2Proof/Machine/HubTypes.lean ====
section
/-!
DEFINITION. The state of a hub beside its registers (R275 to R293): resolved handles (R200), the descriptor that a queue
executes, and the queues.
-/

namespace Sys2Proof.Machine

/-- A handle as resolved at issue (R200): KIND, device address of its first byte, length in bytes. -/
structure Hdl where
  valid : Bool
  kind : Nat
  addr : Nat
  len : Nat
  deriving DecidableEq, Repr

def Hdl.none : Hdl := ⟨false, 0, 0, 0⟩

/-- A scoreboard posting of a descriptor (R180): its side (0 source, 1 destination, 2 index list, 3 partials), the
array (physical stand × 4096 + array) and the packet that carries it. -/
structure Posting where
  side : Nat
  arr : Nat
  id : MeshSrc
  deriving DecidableEq, Repr

/-- An executing descriptor (R276): its 64 bytes and slot, its place in issue order, its resolved handles, the next unit
to read, what is read and not yet written (destination offset and bytes), its scoreboard posts (R180), the bytes written,
the check-value unit's starting value (R303), its end once it is decided with the address of the first failed access,
what its completion record carries (R259), the access to an uncorrectable word that it waits on, and whether that is a write
(R272, R572), the slot of an index list
or page table that it holds, with that slot's number plus 1, the working buffer as it fills, with the slots read so far
(R263), the handle table as it stood at issue, of a REDUCE (R200, R290), the DONE increment on its way to another
hub or the ring (R278), and the bytes of a COPY's burst whose WRITE packet to another stand is not answered (R265). -/
structure Exec where
  desc : List Byte
  slot : Nat
  order : Nat
  src : Hdl
  dst : Hdl
  aux : Hdl
  pos : Nat
  out : List (Nat × List Byte)
  posts : List Posting
  moved : Nat
  cv : Option Nat
  result : Option Status
  fail : Nat
  res1 : Word
  detail : Word
  stuckAt : Option (Nat × Nat × Bool)
  buf : List Byte
  bufAt : Nat
  work : List Byte
  workAt : Nat
  hdls : List (Nat × Hdl)
  done : Option MeshSrc
  sent : Option Nat
  deriving DecidableEq, Repr

/-- A descriptor of a ring queue (R353): its slot and the command that posted it. -/
structure RingSlot where
  slot : Nat
  cmd : Cmd
  deriving DecidableEq, Repr

/-- A queue beside its registers: the descriptor it executes, the READ or WRITE packet of that descriptor's access to
another stand (R265), whether a Once queue has finished (R276), and the slots that a ring processor has filled (R275). -/
structure HubQ where
  exec : Option Exec
  rpc : Option MeshSrc
  finished : Bool
  ring : List RingSlot
  deriving DecidableEq, Repr

def HubQ.init : HubQ := ⟨none, none, false, []⟩

end Sys2Proof.Machine
end

