-- ==== Sys2Proof/Machine/ModuleTypes.lean ====
section
/-!
DEFINITION. The state of the module's clocks (R422 to R428), power (R447 to R456), bring-up (R466 to R488), fuses (R541
to R544), firmware (R530 to R532), debug port (R540) and time (R545, R546) beside their registers.
-/

namespace Sys2Proof.Machine

/-- The relay-clock lane that a stand receives on a side (R425): the marker's PATH, DEPTH and HOLD. READY and PRESENT
stand in CLK_SRC_STATUS. -/
structure Side where
  path : Word
  depth : Nat
  hold : Bool
  deriving DecidableEq, Repr

def Side.init : Side := ⟨0, 0, false⟩

/-- The ring clocks beside their registers (R422, R423): whether the reference is valid, and the target of the glide in
progress. -/
structure RingClk where
  refOk : Bool
  glide : Option Nat
  deriving DecidableEq, Repr

/-- Power and thermal (R449 to R456): consecutive ticks at the floor, whether ST_CAP_FLOOR and each condition of R456 is
told, whether an input fault still bars the stands, the stand values that Ranger S last used (R447), and the tiles that
ramp or are switched off (R445): physical index, rails on, upward, and the STATE that ends a switch-off; the tiles that a cold
bring-up has yet to switch off, each with its heat (R464); whether only a commanded cold bring-up may bring the stands
back (R454); the stands whose controller sent no value at the last tick (R447); and the hub cycles of the window in course,
by stand (R451). -/
structure Power where
  floorRun : Nat
  floorTold : Bool
  hot : List Nat
  coolTold : Bool
  riseTold : Bool
  inputFault : Bool
  busbarOk : Bool
  seen : List (Nat × Nat)
  ramps : List (Nat × Nat × Bool × Nat)
  offQueue : List (Nat × Nat)
  coldNeeded : Bool
  unsent : List Nat
  window : List (Nat × Nat)
  deriving DecidableEq, Repr

/-- A seam lane or an array site with the source of its exclusion (R468). -/
structure Finding (α : Type) where
  item : α
  fused : Bool
  test : Bool
  deriving DecidableEq, Repr

/-- A repaired DRAM row (R466, R479): the row, its spare, and whether the repair is fused. -/
structure Repair where
  row : DramRow
  spare : BitVec 9
  fused : Bool
  deriving DecidableEq, Repr

/-- A cruise map (R466, R542) with the generation it comes from. -/
structure CruiseMap where
  gen : Nat
  excl : BitVec 64
  standby : List Nat
  sites : List Site
  lanes : List SeamLane
  repairs : List Repair
  deriving DecidableEq, Repr

/-- Bring-up (R464 to R488): kind in course (0 none, 1 cold, 2 warm), the stands of the heat in course and those
entered, the patterns of the retention test done, the steps of a warm restart done, the map in use, the unions of sites,
lanes, repaired rows and failed rows, the stands in single-stand tests, the stands' outward relay-clock lanes that are
trained, when the bring-up began, the failed rows for which no spare is left (R479), the sides whose inward relay-clock lane
failed its training (R475), and the conflict items reported (R480). -/
structure BringUp where
  kind : Nat
  heat : List Nat
  entered : List Nat
  patterns : Nat
  warmDone : Nat
  map : Option CruiseMap
  sites : List (Finding Site)
  lanes : List (Finding SeamLane)
  repairs : List Repair
  slicesBad : List (Nat × Nat)
  failed : List DramRow
  single : List Nat
  relayReady : List (Nat × BitVec 4)
  began : Word
  noSpare : List DramRow
  laneBad : List (Nat × BitVec 4)
  told : List (Word × List Byte)
  deriving DecidableEq, Repr

def BringUp.init : BringUp := ⟨0, [], [], 0, 0, none, [], [], [], [], [], [], [], 0, [], [], []⟩

/-- A spare fuse generation (R541 to R544): its state (0 blank, 1 valid, 2 void, 3 cruise map invalid) and content. -/
structure FuseGen where
  state : Nat
  content : List Byte
  deriving DecidableEq, Repr

def FuseGen.init : FuseGen := ⟨0, []⟩

/-- Where a firmware bundle comes from (R530). -/
inductive FwSource where
  | host (port : Nat)
  | mgmt (session : Nat)
  deriving DecidableEq, Repr

/-- The firmware transfer (R530 to R532): its source, the bundle's length, the bytes received, and the measurements 2
and 3 and the version of the verified bundle (R539). -/
structure Firmware where
  source : Option FwSource
  total : Nat
  bytes : List Host.Cell
  got : Nat
  ranger : Option (BitVec 384)
  controller : Option (BitVec 384)
  version : Word
  deriving DecidableEq, Repr

def Firmware.init : Firmware := ⟨none, 0, [], 0, none, none, 0⟩

/-- The debug port (R540): the minutes for which it is open, whether it was ever opened since standby power-on, and the
processors halted: Rangers 0 to 3, and 64 + i the controller of physical index i. -/
structure Debug where
  minutes : Option Nat
  ever : Bool
  halted : List Nat
  deriving DecidableEq, Repr

def Debug.init : Debug := ⟨none, false, []⟩

/-- The time counter beside its registers (R545): the last valid edge, the pending value of CLK_TIME_NEXT, the
nanoseconds still to be withheld, the offset still to be slewed, the increments since the last slewed one, and whether
SET waits for the end of a hold. -/
structure TimeCtr where
  edge : Option Word
  next : Option Word
  hold : Nat
  slew : Int
  phase : Nat
  setAfter : Bool
  deriving DecidableEq, Repr

def TimeCtr.init : TimeCtr := ⟨none, none, 0, 0, 0, false⟩

end Sys2Proof.Machine
end

