-- ==== Sys2Proof/Machine/Regs.lean ====
section
/-!
DEFINITION. The set-up register map, written from the register tables of the spec: for each register its address in
the set-up space (R40), its fields, the access code of each bit (R14), its reset value and what a restart keeps (R17).
A register of a stand is keyed by its address in the physical view (VIEW 0x2), a ring register by its address in
VIEW 0x0, so that a logical address and a physical address of one register reach one place. A register that every
Ranger mailbox block shows module-wide (R396, R405, R415, R520, R549) is keyed at INDEX 0.
-/

namespace Sys2Proof.Machine

/-- Access codes and reset value of a register: bit masks of the RW, WO, RC and W1C bits (R14; the others are RO or
reserved), and the bits kept through a warm restart and through a cold bring-up (R17). -/
structure RegDesc where
  reset : Word
  rw : Word
  wo : Word
  rc : Word
  w1c : Word
  warm : Word
  cold : Word
  deriving DecidableEq, Repr

/-- A register of the physical stand `ph` (R40, VIEW 0x2), each part of the address cut to the width of its field. -/
def standKey (ph cls idx off : Nat) : Nat :=
  0xF20000000000 + ph % 128 * 2 ^ 34 + cls % 16 * 2 ^ 30 + idx % 4096 * 2 ^ 12 + off % 4096

/-- A register of the ring (R40, VIEW 0x0). -/
def ringKey (cls idx off : Nat) : Nat := 0xF00000000000 + cls % 16 * 2 ^ 30 + idx % 4096 * 2 ^ 12 + off % 4096

/-- A register of an engine: ring DMA engines are ring class 0x6, hub engines classes 0x3 to 0x9 (R41). -/
def engineKey (ring : Bool) (ph cl u off : Nat) : Nat := if ring then ringKey 6 u off else standKey ph cl u off

/-- A register of a check-value unit: ring class 0x7 or stand class 0xA (R41). -/
def cvuKey (ring : Bool) (ph u off : Nat) : Nat := if ring then ringKey 7 u off else standKey ph 10 u off

/-- A register of a tally: ring class 0x8 or stand class 0xB (R41). -/
def tallyKey (ring : Bool) (ph u off : Nat) : Nat := if ring then ringKey 8 u off else standKey ph 11 u off

namespace IorStandMap
def fuseGen : Fld := ⟨47, 40⟩
def logical : Fld := ⟨31, 24⟩
def parityGroup : Fld := ⟨23, 16⟩
def role : Fld := ⟨3, 0⟩
def key (i : Nat) : Nat := ringKey 0 0 (0x800 + 0x8 * i)
/-- Access codes and reset value (R24, R14, R17). -/
def desc : RegDesc := ⟨0xFFFF0000, 0x0, 0x0, 0x0, 0x0, 0xFF00FFFF000F, 0x0⟩
end IorStandMap

namespace IorErr
def status : Fld := ⟨63, 48⟩
def count : Fld := ⟨31, 0⟩
def key (k : Nat) : Nat := ringKey 0 0 (0x100 + 0x8 * k)
/-- Access codes and reset value (R42, R14, R17). -/
def desc : RegDesc := ⟨0x0, 0x0, 0x0, 0xFFFFFFFF, 0x0, 0xFFFF0000FFFFFFFF, 0xFFFF0000FFFFFFFF⟩
end IorErr

namespace IorErrLast
def status : Fld := ⟨63, 48⟩
def source : Fld := ⟨47, 40⟩
def phys : Fld := ⟨39, 32⟩
def seq : Fld := ⟨31, 0⟩
def key : Nat := ringKey 0 0 (0x200)
/-- Access codes and reset value (R42, R14, R17). -/
def desc : RegDesc := ⟨0x0, 0x0, 0x0, 0x0, 0x0, 0xFFFFFFFFFFFFFFFF, 0xFFFFFFFFFFFFFFFF⟩
end IorErrLast

namespace IorErrAddr
def addr : Fld := ⟨47, 0⟩
def key : Nat := ringKey 0 0 (0x208)
/-- Access codes and reset value (R42, R14, R17). -/
def desc : RegDesc := ⟨0x0, 0x0, 0x0, 0x0, 0x0, 0xFFFFFFFFFFFF, 0xFFFFFFFFFFFF⟩
end IorErrAddr

namespace CaArithFlags
def limitLanes : Fld := ⟨31, 16⟩
def accLimit : Fld := ⟨8, 8⟩
def trunc : Fld := ⟨7, 7⟩
def range : Fld := ⟨6, 6⟩
def inexact : Fld := ⟨4, 4⟩
def underflow : Fld := ⟨3, 3⟩
def overflow : Fld := ⟨2, 2⟩
def divzero : Fld := ⟨1, 1⟩
def invalid : Fld := ⟨0, 0⟩
def key (ph un s : Nat) : Nat := standKey ph 15 un (0x400 + 0x8 * s)
/-- Access codes and reset value (R75, R14, R17). -/
def desc : RegDesc := ⟨0x0, 0x0, 0x0, 0x0, 0xDF, 0x0, 0x0⟩
end CaArithFlags

namespace CaSrCount
def count : Fld := ⟨47, 0⟩
def key (ph un s : Nat) : Nat := standKey ph 15 un (0x440 + 0x8 * s)
/-- Access codes and reset value (R75, R14, R17). -/
def desc : RegDesc := ⟨0x0, 0xFFFFFFFFFFFF, 0x0, 0x0, 0x0, 0x0, 0x0⟩
end CaSrCount

namespace CaOp
def valid : Fld := ⟨63, 63⟩
def opcode : Fld := ⟨62, 56⟩
def dvar : Fld := ⟨55, 55⟩
def fmtA : Fld := ⟨54, 50⟩
def fmtB : Fld := ⟨49, 45⟩
def fmtD : Fld := ⟨44, 40⟩
def rmode : Fld := ⟨39, 37⟩
def sat : Fld := ⟨36, 36⟩
def aux : Fld := ⟨35, 27⟩
def srcA : Fld := ⟨26, 23⟩
def srcB : Fld := ⟨22, 19⟩
def dst : Fld := ⟨18, 15⟩
def rept : Fld := ⟨14, 9⟩
def ctr : Fld := ⟨8, 6⟩
def clr : Fld := ⟨5, 5⟩
def last : Fld := ⟨4, 4⟩
def fwd : Fld := ⟨3, 3⟩
def key (ph un s e : Nat) : Nat := standKey ph 15 un (0x0 + 0x80 * s + 0x8 * e)
/-- Access codes and reset value (R93, R14, R17). -/
def desc : RegDesc := ⟨0x1C0, 0xFFFFFFFFFFFFFFF8, 0x0, 0x0, 0x0, 0x0, 0x0⟩
end CaOp

namespace CaStageCfg
def active : Fld := ⟨6, 6⟩
def startPos : Fld := ⟨5, 0⟩
def key (ph un s : Nat) : Nat := standKey ph 15 un (0x480 + 0x8 * s)
/-- Access codes and reset value (R101, R14, R17). -/
def desc : RegDesc := ⟨0x0, 0x7F, 0x0, 0x0, 0x0, 0x0, 0x0⟩
end CaStageCfg

namespace CaStageStatus
def stopCode : Fld := ⟨47, 32⟩
def lanes : Fld := ⟨31, 16⟩
def state : Fld := ⟨15, 14⟩
def waitCause : Fld := ⟨13, 10⟩
def rep : Fld := ⟨9, 4⟩
def pc : Fld := ⟨3, 0⟩
def key (ph un s : Nat) : Nat := standKey ph 15 un (0x4C0 + 0x8 * s)
/-- Access codes and reset value (R102, R14, R17). -/
def desc : RegDesc := ⟨0x0, 0x0, 0x0, 0x0, 0x0, 0x0, 0x0⟩
end CaStageStatus

namespace CaObPtr
def wStride : Fld := ⟨41, 35⟩
def wBase : Fld := ⟨34, 28⟩
def bStride : Fld := ⟨27, 21⟩
def bBase : Fld := ⟨20, 14⟩
def aStride : Fld := ⟨13, 7⟩
def aBase : Fld := ⟨6, 0⟩
def key (ph un s : Nat) : Nat := standKey ph 15 un (0x500 + 0x8 * s)
/-- Access codes and reset value (R103, R14, R17). -/
def desc : RegDesc := ⟨0x0, 0x3FFFFFFFFFF, 0x0, 0x0, 0x0, 0x0, 0x0⟩
end CaObPtr

namespace CaConst
def value : Fld := ⟨31, 0⟩
def key (ph un s : Nat) : Nat := standKey ph 15 un (0x540 + 0x8 * s)
/-- Access codes and reset value (R104, R14, R17). -/
def desc : RegDesc := ⟨0x0, 0xFFFFFFFF, 0x0, 0x0, 0x0, 0x0, 0x0⟩
end CaConst

namespace CaStatus
def stoppedStages : Fld := ⟨7, 4⟩
def arrayState : Fld := ⟨3, 0⟩
def key (ph un : Nat) : Nat := standKey ph 15 un (0x580)
/-- Access codes and reset value (R105, R14, R17). -/
def desc : RegDesc := ⟨0x0, 0x0, 0x0, 0x0, 0x0, 0x0, 0x0⟩
end CaStatus

namespace CaOverrun
def compute : Fld := ⟨63, 48⟩
def wait : Fld := ⟨47, 32⟩
def replay : Fld := ⟨31, 16⟩
def longest : Fld := ⟨15, 0⟩
def key (ph un : Nat) : Nat := standKey ph 15 un (0x588)
/-- Access codes and reset value (R106, R14, R17). -/
def desc : RegDesc := ⟨0x0, 0x0, 0x0, 0x0, 0x0, 0x0, 0x0⟩
end CaOverrun

namespace CaOverrunLimit
def limit : Fld := ⟨15, 0⟩
def key (ph un : Nat) : Nat := standKey ph 15 un (0x590)
/-- Access codes and reset value (R107, R14, R17). -/
def desc : RegDesc := ⟨0x100, 0xFFFF, 0x0, 0x0, 0x0, 0xFFFF, 0x0⟩
end CaOverrunLimit

namespace CaObAccess
def stage : Fld := ⟨13, 11⟩
def addr : Fld := ⟨10, 0⟩
def key (ph un : Nat) : Nat := standKey ph 15 un (0x598)
/-- Access codes and reset value (R108, R14, R17). -/
def desc : RegDesc := ⟨0x0, 0x3FFF, 0x0, 0x0, 0x0, 0x0, 0x0⟩
end CaObAccess

namespace CaObData
def data : Fld := ⟨63, 0⟩
def key (ph un : Nat) : Nat := standKey ph 15 un (0x5A0)
/-- Access codes and reset value (R108, R14, R17). -/
def desc : RegDesc := ⟨0x0, 0xFFFFFFFFFFFFFFFF, 0x0, 0x0, 0x0, 0x0, 0x0⟩
end CaObData

namespace CaCoreEcc
def corrected : Fld := ⟨63, 48⟩
def uncorr : Fld := ⟨32, 32⟩
def uncorrAddr : Fld := ⟨15, 0⟩
def key (ph un : Nat) : Nat := standKey ph 15 un (0x5A8)
/-- Access codes and reset value (R109, R14, R17). -/
def desc : RegDesc := ⟨0x0, 0x0, 0x0, 0x0, 0x0, 0x0, 0x0⟩
end CaCoreEcc

namespace CaHeartbeat
def tally : Fld := ⟨63, 48⟩
def period : Fld := ⟨15, 0⟩
def key (ph un : Nat) : Nat := standKey ph 15 un (0x5B0)
/-- Access codes and reset value (R110, R14, R17). -/
def desc : RegDesc := ⟨0x0, 0xFFFF00000000FFFF, 0x0, 0x0, 0x0, 0x0, 0x0⟩
end CaHeartbeat

namespace CaCtrCfg
def doneValue : Fld := ⟨31, 24⟩
def stepValue : Fld := ⟨23, 16⟩
def boundSrc : Fld := ⟨7, 6⟩
def emit : Fld := ⟨5, 4⟩
def parent : Fld := ⟨2, 0⟩
def key (ph un c : Nat) : Nat := standKey ph 15 un (0x600 + 0x20 * c)
/-- Access codes and reset value (R155, R14, R17). -/
def desc : RegDesc := ⟨0x7, 0xFFFF00F7, 0x0, 0x0, 0x0, 0x0, 0x0⟩
end CaCtrCfg

namespace CaCtrLoop
def tripsM1 : Fld := ⟨47, 32⟩
def step : Fld := ⟨31, 16⟩
def start : Fld := ⟨15, 0⟩
def key (ph un c : Nat) : Nat := standKey ph 15 un (0x608 + 0x20 * c)
/-- Access codes and reset value (R156, R14, R17). -/
def desc : RegDesc := ⟨0x0, 0xFFFFFFFFFFFF, 0x0, 0x0, 0x0, 0x0, 0x0⟩
end CaCtrLoop

namespace CaCtrState
def wrapTag : Fld := ⟨63, 56⟩
def advTag : Fld := ⟨55, 48⟩
def bound : Fld := ⟨47, 32⟩
def index : Fld := ⟨31, 16⟩
def value : Fld := ⟨15, 0⟩
def key (ph un c : Nat) : Nat := standKey ph 15 un (0x610 + 0x20 * c)
/-- Access codes and reset value (R157, R14, R17). -/
def desc : RegDesc := ⟨0x0, 0xFFFFFFFFFFFFFFFF, 0x0, 0x0, 0x0, 0x0, 0x0⟩
end CaCtrState

namespace CaCtrStatus
def waiting : Fld := ⟨1, 1⟩
def boundValid : Fld := ⟨0, 0⟩
def key (ph un c : Nat) : Nat := standKey ph 15 un (0x618 + 0x20 * c)
/-- Access codes and reset value (R158, R14, R17). -/
def desc : RegDesc := ⟨0x0, 0x1, 0x0, 0x0, 0x0, 0x0, 0x0⟩
end CaCtrStatus

namespace CaTagCfg
def mode : Fld := ⟨5, 4⟩
def tagCtr : Fld := ⟨2, 0⟩
def key (ph un : Nat) : Nat := standKey ph 15 un (0x6C0)
/-- Access codes and reset value (R159, R14, R17). -/
def desc : RegDesc := ⟨0x0, 0x37, 0x0, 0x0, 0x0, 0x0, 0x0⟩
end CaTagCfg

namespace CaBtnState
def vecSeq : Fld := ⟨39, 32⟩
def outSeq : Fld := ⟨31, 24⟩
def inNext : Fld := ⟨23, 16⟩
def outDepth : Fld := ⟨10, 8⟩
def inDepth : Fld := ⟨2, 0⟩
def key (ph un : Nat) : Nat := standKey ph 15 un (0x6C8)
/-- Access codes and reset value (R160, R14, R17). -/
def desc : RegDesc := ⟨0x0, 0xFFFFFF0000, 0x0, 0x0, 0x0, 0x0, 0x0⟩
end CaBtnState

namespace CaBtnError
def err : Fld := ⟨31, 31⟩
def expected : Fld := ⟨15, 8⟩
def received : Fld := ⟨7, 0⟩
def key (ph un : Nat) : Nat := standKey ph 15 un (0x6D0)
/-- Access codes and reset value (R161, R14, R17). -/
def desc : RegDesc := ⟨0x0, 0x0, 0x0, 0x0, 0x0, 0x0, 0x0⟩
end CaBtnError

namespace NodeSteerCfg
def groupM1 : Fld := ⟨15, 10⟩
def vbit : Fld := ⟨9, 7⟩
def drop1 : Fld := ⟨6, 6⟩
def btnFwd : Fld := ⟨5, 5⟩
def tokenByte : Fld := ⟨4, 3⟩
def mode : Fld := ⟨1, 0⟩
def key (ph un u : Nat) : Nat := standKey ph 14 un (0xC00 + 0x20 * u)
/-- Access codes and reset value (R162, R14, R17). -/
def desc : RegDesc := ⟨0x0, 0xFFFB, 0x0, 0x0, 0x0, 0x0, 0x0⟩
end NodeSteerCfg

namespace NodeSteerState
def nextBtnTag : Fld := ⟨39, 32⟩
def curTag : Fld := ⟨31, 24⟩
def groupLeft : Fld := ⟨23, 17⟩
def opened : Fld := ⟨16, 16⟩
def curSel : Fld := ⟨15, 15⟩
def bq : Fld := ⟨10, 8⟩
def dq1 : Fld := ⟨6, 4⟩
def dq0 : Fld := ⟨2, 0⟩
def key (ph un u : Nat) : Nat := standKey ph 14 un (0xC08 + 0x20 * u)
/-- Access codes and reset value (R163, R14, R17). -/
def desc : RegDesc := ⟨0x0, 0xFF00000000, 0x0, 0x0, 0x0, 0x0, 0x0⟩
end NodeSteerState

namespace NodeSteerCount
def paired : Fld := ⟨63, 32⟩
def stall : Fld := ⟨31, 0⟩
def key (ph un u : Nat) : Nat := standKey ph 14 un (0xC10 + 0x20 * u)
/-- Access codes and reset value (R164, R14, R17). -/
def desc : RegDesc := ⟨0x0, 0x0, 0x0, 0x0, 0x0, 0x0, 0x0⟩
end NodeSteerCount

namespace NodeSteerErr
def err : Fld := ⟨31, 31⟩
def kind : Fld := ⟨30, 30⟩
def input : Fld := ⟨29, 28⟩
def expected : Fld := ⟨15, 8⟩
def received : Fld := ⟨7, 0⟩
def key (ph un u : Nat) : Nat := standKey ph 14 un (0xC18 + 0x20 * u)
/-- Access codes and reset value (R165, R14, R17). -/
def desc : RegDesc := ⟨0x0, 0x0, 0x0, 0x0, 0x0, 0x0, 0x0⟩
end NodeSteerErr

namespace MaGenCfg
def fifoSizeM1 : Fld := ⟨47, 35⟩
def base : Fld := ⟨34, 22⟩
def mode : Fld := ⟨15, 14⟩
def form : Fld := ⟨13, 12⟩
def tagSrc : Fld := ⟨11, 10⟩
def tagCtr : Fld := ⟨9, 8⟩
def ctrsM1 : Fld := ⟨1, 0⟩
def key (ph un g : Nat) : Nat := standKey ph 15 un (0x0 + 0x80 * g)
/-- Access codes and reset value (R188, R14, R17). -/
def desc : RegDesc := ⟨0x0, 0xFFFFFFC0FF03, 0x0, 0x0, 0x0, 0x0, 0x0⟩
end MaGenCfg

namespace MaGenAct
def act : Fld := ⟨63, 0⟩
def key (ph un g : Nat) : Nat := standKey ph 15 un (0x8 + 0x80 * g)
/-- Access codes and reset value (R189, R14, R17). -/
def desc : RegDesc := ⟨0x0, 0xFFFFFFFFFFFFFFFF, 0x0, 0x0, 0x0, 0x0, 0x0⟩
end MaGenAct

namespace MaGenCtr
def stride : Fld := ⟨31, 16⟩
def tripsM1 : Fld := ⟨15, 0⟩
def key (ph un g k : Nat) : Nat := standKey ph 15 un (0x10 + 0x80 * g + 0x8 * k)
/-- Access codes and reset value (R190, R14, R17). -/
def desc : RegDesc := ⟨0x0, 0xFFFFFFFF, 0x0, 0x0, 0x0, 0x0, 0x0⟩
end MaGenCtr

namespace MaGenState
def index3 : Fld := ⟨63, 48⟩
def index2 : Fld := ⟨47, 32⟩
def index1 : Fld := ⟨31, 16⟩
def index0 : Fld := ⟨15, 0⟩
def key (ph un g : Nat) : Nat := standKey ph 15 un (0x30 + 0x80 * g)
/-- Access codes and reset value (R191, R14, R17). -/
def desc : RegDesc := ⟨0x0, 0xFFFFFFFFFFFFFFFF, 0x0, 0x0, 0x0, 0x0, 0x0⟩
end MaGenState

namespace MaGenSeq
def wrapTag : Fld := ⟨47, 40⟩
def vecSeq : Fld := ⟨39, 32⟩
def fifoPos : Fld := ⟨12, 0⟩
def key (ph un g : Nat) : Nat := standKey ph 15 un (0x38 + 0x80 * g)
/-- Access codes and reset value (R192, R14, R17). -/
def desc : RegDesc := ⟨0x0, 0xFFFF00001FFF, 0x0, 0x0, 0x0, 0x0, 0x0⟩
end MaGenSeq

namespace MaGenCount
def steps : Fld := ⟨63, 32⟩
def tagWaits : Fld := ⟨31, 16⟩
def sbHolds : Fld := ⟨15, 0⟩
def key (ph un g : Nat) : Nat := standKey ph 15 un (0x40 + 0x80 * g)
/-- Access codes and reset value (R193, R14, R17). -/
def desc : RegDesc := ⟨0x0, 0x0, 0x0, 0x0, 0x0, 0x0, 0x0⟩
end MaGenCount

namespace MaUntag
def enable : Fld := ⟨29, 29⟩
def last : Fld := ⟨28, 16⟩
def first : Fld := ⟨12, 0⟩
def key (ph un r : Nat) : Nat := standKey ph 15 un (0x180 + 0x8 * r)
/-- Access codes and reset value (R194, R14, R17). -/
def desc : RegDesc := ⟨0x0, 0x3FFF1FFF, 0x0, 0x0, 0x0, 0x0, 0x0⟩
end MaUntag

namespace MaSbStatus
def postWaits : Fld := ⟨47, 32⟩
def depthWag : Fld := ⟨11, 8⟩
def depthRag1 : Fld := ⟨7, 4⟩
def depthRag0 : Fld := ⟨3, 0⟩
def key (ph un : Nat) : Nat := standKey ph 15 un (0x190)
/-- Access codes and reset value (R195, R14, R17). -/
def desc : RegDesc := ⟨0x0, 0x0, 0x0, 0x0, 0x0, 0x0, 0x0⟩
end MaSbStatus

namespace MaEcc
def corrected : Fld := ⟨63, 48⟩
def uncorr : Fld := ⟨32, 32⟩
def uncorrAddr : Fld := ⟨18, 0⟩
def key (ph un : Nat) : Nat := standKey ph 15 un (0x198)
/-- Access codes and reset value (R196, R14, R17). -/
def desc : RegDesc := ⟨0x0, 0x0, 0x0, 0x0, 0x0, 0x0, 0x0⟩
end MaEcc

namespace MaStatus
def stopCode : Fld := ⟨47, 32⟩
def arrayState : Fld := ⟨3, 0⟩
def key (ph un : Nat) : Nat := standKey ph 15 un (0x1A0)
/-- Access codes and reset value (R197, R14, R17). -/
def desc : RegDesc := ⟨0x0, 0x0, 0x0, 0x0, 0x0, 0x0, 0x0⟩
end MaStatus

namespace HubHdlAddr
def valid : Fld := ⟨63, 63⟩
def kind : Fld := ⟨62, 61⟩
def addr : Fld := ⟨47, 0⟩
def key (ph un : Nat) : Nat := standKey ph 2 un (0x0)
/-- Access codes and reset value (R198, R14, R17). -/
def desc : RegDesc := ⟨0x0, 0xE000FFFFFFFFFFFF, 0x0, 0x0, 0x0, 0x0, 0x0⟩
end HubHdlAddr

namespace HubHdlLen
def gen : Fld := ⟨63, 56⟩
def length : Fld := ⟨47, 0⟩
def key (ph un : Nat) : Nat := standKey ph 2 un (0x8)
/-- Access codes and reset value (R198, R14, R17). -/
def desc : RegDesc := ⟨0x0, 0xFFFFFFFFFFFF, 0x0, 0x0, 0x0, 0x0, 0x0⟩
end HubHdlLen

namespace LapConn
def valid : Fld := ⟨31, 31⟩
def baton : Fld := ⟨30, 30⟩
def inp : Fld := ⟨29, 25⟩
def out : Fld := ⟨24, 20⟩
def start : Fld := ⟨19, 19⟩
def last : Fld := ⟨18, 18⟩
def expect : Fld := ⟨17, 17⟩
def credits : Fld := ⟨16, 12⟩
def srcPos : Fld := ⟨11, 6⟩
/-- Access codes and reset value (R206, R14, R17). -/
def desc : RegDesc := ⟨0x0, 0xFFFFFFC0, 0x0, 0x0, 0x0, 0x0, 0x0⟩
end LapConn

namespace NodeLap
def connHi : Fld := ⟨63, 32⟩
def connLo : Fld := ⟨31, 0⟩
def key (ph un p k : Nat) : Nat := standKey ph 14 un (0x0 + 0x20 * p + 0x8 * k)
/-- Access codes and reset value (R232, R14, R17); bits 5:0 of either connection are reserved (R16, R206). -/
def desc : RegDesc := ⟨0x0, 0xFFFFFFC0FFFFFFC0, 0x0, 0x0, 0x0, 0x0, 0x0⟩
end NodeLap

namespace NodeStatus
def pending : Fld := ⟨39, 32⟩
def noprog : Fld := ⟨15, 15⟩
def deadSeam : Fld := ⟨14, 14⟩
def key (ph un : Nat) : Nat := standKey ph 14 un (0x800)
/-- Access codes and reset value (R233, R14, R17). -/
def desc : RegDesc := ⟨0x0, 0x0, 0x0, 0x0, 0x0, 0x0, 0x0⟩
end NodeStatus

namespace NodeSlip
def slips : Fld := ⟨63, 32⟩
def absent : Fld := ⟨31, 16⟩
def longest : Fld := ⟨15, 0⟩
def key (ph un : Nat) : Nat := standKey ph 14 un (0x808)
/-- Access codes and reset value (R234, R14, R17). -/
def desc : RegDesc := ⟨0x0, 0x0, 0x0, 0x0, 0x0, 0x0, 0x0⟩
end NodeSlip

namespace NodeNoprog
def limitLaps : Fld := ⟨31, 16⟩
def elapsed : Fld := ⟨15, 0⟩
def key (ph un : Nat) : Nat := standKey ph 14 un (0x810)
/-- Access codes and reset value (R235, R14, R17). -/
def desc : RegDesc := ⟨0x10000000, 0xFFFF0000, 0x0, 0x0, 0x0, 0xFFFF0000, 0x0⟩
end NodeNoprog

namespace NodeLinkErr
def count : Fld := ⟨63, 48⟩
def port : Fld := ⟨36, 32⟩
def pos : Fld := ⟨5, 0⟩
def key (ph un : Nat) : Nat := standKey ph 14 un (0x818)
/-- Access codes and reset value (R236, R14, R17). -/
def desc : RegDesc := ⟨0x0, 0x0, 0x0, 0x0, 0x0, 0x0, 0x0⟩
end NodeLinkErr

namespace NodePorthold
def seam : Fld := ⟨63, 48⟩
def replay : Fld := ⟨47, 32⟩
def hub : Fld := ⟨31, 16⟩
def longest : Fld := ⟨15, 0⟩
def key (ph un : Nat) : Nat := standKey ph 14 un (0x820)
/-- Access codes and reset value (R237, R14, R17). -/
def desc : RegDesc := ⟨0x0, 0x0, 0x0, 0x0, 0x0, 0x0, 0x0⟩
end NodePorthold

namespace SeamStatus
def failedLanes : Fld := ⟨63, 56⟩
def sparesUsed : Fld := ⟨55, 48⟩
def activeLanes : Fld := ⟨39, 32⟩
def linkEquiv : Fld := ⟨31, 24⟩
def lastSeq : Fld := ⟨23, 8⟩
def facing : Fld := ⟨7, 4⟩
def state : Fld := ⟨3, 0⟩
def key (ph un : Nat) : Nat := standKey ph 12 un (0x0)
/-- Access codes and reset value (R238, R14, R17). -/
def desc : RegDesc := ⟨0x0, 0x0, 0x0, 0x0, 0x0, 0x0, 0x0⟩
end SeamStatus

namespace SeamCount
def frameErrors : Fld := ⟨63, 32⟩
def replays : Fld := ⟨31, 0⟩
def key (ph un : Nat) : Nat := standKey ph 12 un (0x8)
/-- Access codes and reset value (R238, R14, R17). -/
def desc : RegDesc := ⟨0x0, 0x0, 0x0, 0x0, 0x0, 0x0, 0x0⟩
end SeamCount

namespace SeamCfg
def replayLimit : Fld := ⟨15, 8⟩
def silence : Fld := ⟨7, 0⟩
def key (ph un : Nat) : Nat := standKey ph 12 un (0x10)
/-- Access codes and reset value (R238, R14, R17). -/
def desc : RegDesc := ⟨0x810, 0xFFFF, 0x0, 0x0, 0x0, 0xFFFF, 0x0⟩
end SeamCfg

namespace CaSparse
def qholds : Fld := ⟨63, 48⟩
def maxq : Fld := ⟨47, 44⟩
def cause : Fld := ⟨35, 32⟩
def stage : Fld := ⟨31, 29⟩
def lane : Fld := ⟨28, 25⟩
def block : Fld := ⟨24, 19⟩
def group : Fld := ⟨18, 16⟩
def key (ph un : Nat) : Nat := standKey ph 15 un (0x5B8)
/-- Access codes and reset value (R260, R14, R17). -/
def desc : RegDesc := ⟨0x0, 0x0, 0x0, 0x0, 0x0, 0x0, 0x0⟩
end CaSparse

namespace DslStatus
def refresh : Fld := ⟨7, 4⟩
def state : Fld := ⟨3, 0⟩
def key (ph un : Nat) : Nat := standKey ph 13 un (0x0)
/-- Access codes and reset value (R274, R14, R17). -/
def desc : RegDesc := ⟨0x0, 0x0, 0x0, 0x0, 0x0, 0x0, 0x0⟩
end DslStatus

namespace DslEcc
def corrected : Fld := ⟨63, 48⟩
def uncorr : Fld := ⟨39, 32⟩
def uncorrAddr : Fld := ⟨29, 0⟩
def key (ph un : Nat) : Nat := standKey ph 13 un (0x8)
/-- Access codes and reset value (R274, R14, R17). -/
def desc : RegDesc := ⟨0x0, 0x0, 0x0, 0x0, 0x0, 0x0, 0x0⟩
end DslEcc

namespace DslCount
def refreshes : Fld := ⟨63, 32⟩
def waitCycles : Fld := ⟨31, 0⟩
def key (ph un : Nat) : Nat := standKey ph 13 un (0x10)
/-- Access codes and reset value (R274, R14, R17). -/
def desc : RegDesc := ⟨0x0, 0x0, 0x0, 0x0, 0x0, 0x0, 0x0⟩
end DslCount

namespace DslScrub
def passes : Fld := ⟨63, 48⟩
def position : Fld := ⟨23, 0⟩
def key (ph un : Nat) : Nat := standKey ph 13 un (0x18)
/-- Access codes and reset value (R274, R14, R17). -/
def desc : RegDesc := ⟨0x0, 0x0, 0x0, 0x0, 0x0, 0xFFFF000000FFFFFF, 0xFFFF000000000000⟩
end DslScrub

namespace HubCfg
def granule : Fld := ⟨7, 4⟩
def interleave : Fld := ⟨3, 0⟩
def key (p : Nat) : Nat := standKey p 1 0 (0x0)
/-- Access codes and reset value (R293, R14, R17). -/
def desc : RegDesc := ⟨0x10, 0x0, 0x0, 0x0, 0x0, 0x0, 0x0⟩
end HubCfg

namespace HubStatus
def engines : Fld := ⟨48, 32⟩
def inFlight : Fld := ⟨10, 0⟩
def key (p : Nat) : Nat := standKey p 1 0 (0x8)
/-- Access codes and reset value (R293, R14, R17). -/
def desc : RegDesc := ⟨0x0, 0x0, 0x0, 0x0, 0x0, 0x0, 0x0⟩
end HubStatus

namespace HubDescAccess
def addr : Fld := ⟨15, 0⟩
def key (p : Nat) : Nat := standKey p 1 0 (0x10)
/-- Access codes and reset value (R293, R14, R17). -/
def desc : RegDesc := ⟨0x0, 0xFFFF, 0x0, 0x0, 0x0, 0x0, 0x0⟩
end HubDescAccess

namespace HubDescData
def data : Fld := ⟨63, 0⟩
def key (p : Nat) : Nat := standKey p 1 0 (0x18)
/-- Access codes and reset value (R293, R14, R17). -/
def desc : RegDesc := ⟨0x0, 0xFFFFFFFFFFFFFFFF, 0x0, 0x0, 0x0, 0x0, 0x0⟩
end HubDescData

namespace HubTap
def vecSeq : Fld := ⟨39, 32⟩
def rxDepth : Fld := ⟨12, 8⟩
def txDepth : Fld := ⟨4, 0⟩
def key (p t : Nat) : Nat := standKey p 1 0 (0x40 + 0x8 * t)
/-- Access codes and reset value (R293, R14, R17). -/
def desc : RegDesc := ⟨0x0, 0xFF00000000, 0x0, 0x0, 0x0, 0x0, 0x0⟩
end HubTap

namespace HubQCfg
def step : Fld := ⟨63, 32⟩
def mode : Fld := ⟨31, 30⟩
def cls : Fld := ⟨29, 26⟩
def index : Fld := ⟨25, 23⟩
def last : Fld := ⟨20, 11⟩
def first : Fld := ⟨10, 1⟩
def key (p q : Nat) : Nat := standKey p 1 0 (0x100 + 0x20 * q)
/-- Access codes and reset value (R293, R14, R17). -/
def desc : RegDesc := ⟨0x0, 0xFFFFFFFFFF9FFFFE, 0x0, 0x0, 0x0, 0x0, 0x0⟩
end HubQCfg

namespace HubQState
def pass : Fld := ⟨63, 32⟩
def lastStatus : Fld := ⟨31, 16⟩
def state : Fld := ⟨15, 14⟩
def next : Fld := ⟨9, 0⟩
def key (p q : Nat) : Nat := standKey p 1 0 (0x108 + 0x20 * q)
/-- Access codes and reset value (R293, R14, R17). -/
def desc : RegDesc := ⟨0x0, 0xFFFFFFFF000003FF, 0x0, 0x0, 0x0, 0x0, 0x0⟩
end HubQState

namespace EngStatus
def lastStatus : Fld := ⟨63, 48⟩
def queue : Fld := ⟨37, 32⟩
def active : Fld := ⟨7, 4⟩
def key (ring : Bool) (ph cl u : Nat) : Nat := engineKey ring ph cl u (0x0)
/-- Access codes and reset value (R294, R14, R17). -/
def desc : RegDesc := ⟨0x0, 0x0, 0x0, 0x0, 0x0, 0x0, 0x0⟩
end EngStatus

namespace EngCount
def retired : Fld := ⟨63, 32⟩
def dense : Fld := ⟨31, 16⟩
def held : Fld := ⟨15, 0⟩
def key (ring : Bool) (ph cl u : Nat) : Nat := engineKey ring ph cl u (0x8)
/-- Access codes and reset value (R294, R14, R17). -/
def desc : RegDesc := ⟨0x0, 0x0, 0x0, 0x0, 0x0, 0x0, 0x0⟩
end EngCount

namespace CvuCfg
def load : Fld := ⟨9, 9⟩
def chain : Fld := ⟨8, 8⟩
def refout : Fld := ⟨5, 5⟩
def refin : Fld := ⟨4, 4⟩
def psel : Fld := ⟨2, 0⟩
def key (ring : Bool) (ph u : Nat) : Nat := cvuKey ring ph u (0x0)
/-- Access codes and reset value (R310, R14, R17). -/
def desc : RegDesc := ⟨0x0, 0x137, 0x200, 0x0, 0x0, 0x0, 0x0⟩
end CvuCfg

namespace CvuPoly
def poly : Fld := ⟨63, 0⟩
def key (ring : Bool) (ph u : Nat) : Nat := cvuKey ring ph u (0x8)
/-- Access codes and reset value (R310, R14, R17). -/
def desc : RegDesc := ⟨0x0, 0xFFFFFFFFFFFFFFFF, 0x0, 0x0, 0x0, 0x0, 0x0⟩
end CvuPoly

namespace CvuInit
def init : Fld := ⟨63, 0⟩
def key (ring : Bool) (ph u : Nat) : Nat := cvuKey ring ph u (0x10)
/-- Access codes and reset value (R310, R14, R17). -/
def desc : RegDesc := ⟨0x0, 0xFFFFFFFFFFFFFFFF, 0x0, 0x0, 0x0, 0x0, 0x0⟩
end CvuInit

namespace CvuXorout
def xorout : Fld := ⟨63, 0⟩
def key (ring : Bool) (ph u : Nat) : Nat := cvuKey ring ph u (0x18)
/-- Access codes and reset value (R310, R14, R17). -/
def desc : RegDesc := ⟨0x0, 0xFFFFFFFFFFFFFFFF, 0x0, 0x0, 0x0, 0x0, 0x0⟩
end CvuXorout

namespace CvuValue
def v : Fld := ⟨63, 0⟩
def key (ring : Bool) (ph u : Nat) : Nat := cvuKey ring ph u (0x20)
/-- Access codes and reset value (R310, R14, R17). -/
def desc : RegDesc := ⟨0xFFFFFFFF, 0xFFFFFFFFFFFFFFFF, 0x0, 0x0, 0x0, 0x0, 0x0⟩
end CvuValue

namespace CvuResult
def r : Fld := ⟨63, 0⟩
def key (ring : Bool) (ph u : Nat) : Nat := cvuKey ring ph u (0x28)
/-- Access codes and reset value (R310, R14, R17). -/
def desc : RegDesc := ⟨0x0, 0x0, 0x0, 0x0, 0x0, 0x0, 0x0⟩
end CvuResult

namespace CvuFeed8
def data : Fld := ⟨63, 0⟩
def key (ring : Bool) (ph u : Nat) : Nat := cvuKey ring ph u (0x30)
/-- Access codes and reset value (R310, R14, R17). -/
def desc : RegDesc := ⟨0x0, 0x0, 0xFFFFFFFFFFFFFFFF, 0x0, 0x0, 0x0, 0x0⟩
end CvuFeed8

namespace CvuFeed16
def data : Fld := ⟨63, 0⟩
def key (ring : Bool) (ph u : Nat) : Nat := cvuKey ring ph u (0x38)
/-- Access codes and reset value (R310, R14, R17). -/
def desc : RegDesc := ⟨0x0, 0x0, 0xFFFFFFFFFFFFFFFF, 0x0, 0x0, 0x0, 0x0⟩
end CvuFeed16

namespace CvuFeed32
def data : Fld := ⟨63, 0⟩
def key (ring : Bool) (ph u : Nat) : Nat := cvuKey ring ph u (0x40)
/-- Access codes and reset value (R310, R14, R17). -/
def desc : RegDesc := ⟨0x0, 0x0, 0xFFFFFFFFFFFFFFFF, 0x0, 0x0, 0x0, 0x0⟩
end CvuFeed32

namespace CvuFold
def data : Fld := ⟨63, 0⟩
def key (ring : Bool) (ph u : Nat) : Nat := cvuKey ring ph u (0x48)
/-- Access codes and reset value (R310, R14, R17). -/
def desc : RegDesc := ⟨0x0, 0x0, 0xFFFFFFFFFFFFFFFF, 0x0, 0x0, 0x0, 0x0⟩
end CvuFold

namespace CvuStatus
def bytes : Fld := ⟨63, 32⟩
def discards : Fld := ⟨31, 16⟩
def owner : Fld := ⟨3, 2⟩
def busy : Fld := ⟨0, 0⟩
def key (ring : Bool) (ph u : Nat) : Nat := cvuKey ring ph u (0x50)
/-- Access codes and reset value (R310, R14, R17). -/
def desc : RegDesc := ⟨0x0, 0x0, 0x0, 0xFFFF0000, 0x0, 0x0, 0x0⟩
end CvuStatus

namespace TlyCount
def count : Fld := ⟨63, 0⟩
def key (ring : Bool) (ph u : Nat) : Nat := tallyKey ring ph u (0x0)
/-- Access codes and reset value (R331, R14, R17). -/
def desc : RegDesc := ⟨0x0, 0xFFFFFFFFFFFFFFFF, 0x0, 0x0, 0x0, 0xFFFFFFFFFFFFFFFF, 0x0⟩
end TlyCount

namespace TlyAdd
def amount : Fld := ⟨63, 0⟩
def key (ring : Bool) (ph u : Nat) : Nat := tallyKey ring ph u (0x8)
/-- Access codes and reset value (R331, R14, R17). -/
def desc : RegDesc := ⟨0x0, 0x0, 0xFFFFFFFFFFFFFFFF, 0x0, 0x0, 0x0, 0x0⟩
end TlyAdd

namespace TlyCfg
def ports : Fld := ⟨7, 4⟩
def unit : Fld := ⟨1, 1⟩
def watchEn : Fld := ⟨0, 0⟩
def key (ring : Bool) (ph u : Nat) : Nat := tallyKey ring ph u (0x10)
/-- Access codes and reset value (R332, R14, R17). -/
def desc : RegDesc := ⟨0x0, 0xF3, 0x0, 0x0, 0x0, 0x0, 0x0⟩
end TlyCfg

namespace TlyWatchBase
def base : Fld := ⟨47, 0⟩
def key (ring : Bool) (ph u : Nat) : Nat := tallyKey ring ph u (0x18)
/-- Access codes and reset value (R333, R14, R17). -/
def desc : RegDesc := ⟨0x0, 0xFFFFFFFFFFFF, 0x0, 0x0, 0x0, 0x0, 0x0⟩
end TlyWatchBase

namespace TlyWatchLimit
def limit : Fld := ⟨47, 0⟩
def key (ring : Bool) (ph u : Nat) : Nat := tallyKey ring ph u (0x20)
/-- Access codes and reset value (R333, R14, R17). -/
def desc : RegDesc := ⟨0x0, 0xFFFFFFFFFFFF, 0x0, 0x0, 0x0, 0x0, 0x0⟩
end TlyWatchLimit

namespace TlyStatus
def increments : Fld := ⟨63, 32⟩
def waiters : Fld := ⟨15, 0⟩
def key (ring : Bool) (ph u : Nat) : Nat := tallyKey ring ph u (0x28)
/-- Access codes and reset value (R334, R14, R17). -/
def desc : RegDesc := ⟨0x0, 0x0, 0x0, 0x0, 0x0, 0x0, 0x0⟩
end TlyStatus

namespace IorPortStatus
def speed : Fld := ⟨15, 12⟩
def width : Fld := ⟨11, 6⟩
def loflit : Fld := ⟨5, 5⟩
def ide : Fld := ⟨4, 4⟩
def key (un : Nat) : Nat := ringKey 9 un (0x0)
/-- Access codes and reset value (R368, R14, R17). -/
def desc : RegDesc := ⟨0x0, 0x0, 0x0, 0x0, 0x0, 0x0, 0x0⟩
end IorPortStatus

namespace IorPortCfg
def ideReq : Fld := ⟨32, 32⟩
def stallUs : Fld := ⟨31, 16⟩
def hostHold : Fld := ⟨15, 0⟩
def key (un : Nat) : Nat := ringKey 9 un (0x8)
/-- Access codes and reset value (R369, R14, R17). -/
def desc : RegDesc := ⟨0x64000A, 0x1FFFFFFFF, 0x0, 0x0, 0x0, 0x1FFFFFFFF, 0x0⟩
end IorPortCfg

namespace IorAperture
def base : Fld := ⟨47, 21⟩
def key (un : Nat) : Nat := ringKey 9 un (0x10)
/-- Access codes and reset value (R370, R14, R17); port configuration, kept through a warm restart (R486, log entry 100). -/
def desc : RegDesc := ⟨0xF00000000000, 0xFFFFFFE00000, 0x0, 0x0, 0x0, 0xFFFFFFE00000, 0x0⟩
end IorAperture

namespace RingBase
def addr : Fld := ⟨63, 12⟩
/-- Access codes and reset value (R371, R14, R17). -/
def desc : RegDesc := ⟨0x0, 0xFFFFFFFFFFFFF000, 0x0, 0x0, 0x0, 0x0, 0x0⟩
end RingBase

namespace RingCfg
def enable : Fld := ⟨31, 31⟩
def irqEn : Fld := ⟨30, 30⟩
def log2Entries : Fld := ⟨20, 16⟩
/-- Access codes and reset value (R372, R14, R17). -/
def desc : RegDesc := ⟨0x40000, 0xC01F0000, 0x0, 0x0, 0x0, 0x0, 0x0⟩
end RingCfg

namespace IorCrState
def inFlight : Fld := ⟨63, 48⟩
def state : Fld := ⟨47, 46⟩
def ccPos : Fld := ⟨31, 16⟩
def sqHead : Fld := ⟨15, 0⟩
def key (un r : Nat) : Nat := ringKey 9 un (0x810 + 0x20 * r)
/-- Access codes and reset value (R373, R14, R17). -/
def desc : RegDesc := ⟨0x0, 0x0, 0x0, 0x0, 0x0, 0x0, 0x0⟩
end IorCrState

namespace IorPortCount
def late : Fld := ⟨63, 48⟩
def stalls : Fld := ⟨47, 32⟩
def poisoned : Fld := ⟨31, 16⟩
def eventsLost : Fld := ⟨15, 0⟩
def key (un : Nat) : Nat := ringKey 9 un (0x28)
/-- Access codes and reset value (R374, R14, R17). -/
def desc : RegDesc := ⟨0x0, 0x0, 0x0, 0xFFFFFFFFFFFFFFFF, 0x0, 0x0, 0x0⟩
end IorPortCount

namespace IorWinAttr
def hostCache : Fld := ⟨0, 0⟩
def key (un d : Nat) : Nat := ringKey 9 un (0x40 + 0x8 * d)
/-- Access codes and reset value (R375, R14, R17); port configuration, kept through a warm restart (R486, log entry 100). -/
def desc : RegDesc := ⟨0x0, 0x1, 0x0, 0x0, 0x0, 0x1, 0x0⟩
end IorWinAttr

namespace RgrGqState
def state : Fld := ⟨49, 48⟩
def safeHead : Fld := ⟨47, 32⟩
def gsPos : Fld := ⟨31, 16⟩
def sqHead : Fld := ⟨15, 0⟩
def key (un q : Nat) : Nat := ringKey 1 un (0x410 + 0x20 * q)
/-- Access codes and reset value (R397, R14, R17). -/
def desc : RegDesc := ⟨0x0, 0x0, 0x0, 0x0, 0x0, 0x0, 0x0⟩
end RgrGqState

namespace RgrGulCfg
def evictParked : Fld := ⟨0, 0⟩
def key : Nat := ringKey 1 0 (0x600)
/-- Access codes and reset value (R398, R14, R17). -/
def desc : RegDesc := ⟨0x0, 0x1, 0x0, 0x0, 0x0, 0x1, 0x0⟩
end RgrGulCfg

namespace RgrGulStatus
def service : Fld := ⟨63, 62⟩
def parked : Fld := ⟨46, 32⟩
def queued : Fld := ⟨29, 15⟩
def active : Fld := ⟨14, 0⟩
def key : Nat := ringKey 1 0 (0x608)
/-- Access codes and reset value (R399, R14, R17). -/
def desc : RegDesc := ⟨0x0, 0x0, 0x0, 0x0, 0x0, 0x0, 0x0⟩
end RgrGulStatus

namespace RgrGulPages
def reserved : Fld := ⟨63, 32⟩
def free : Fld := ⟨31, 0⟩
def key : Nat := ringKey 1 0 (0x610)
/-- Access codes and reset value (R400, R14, R17). -/
def desc : RegDesc := ⟨0x0, 0x0, 0x0, 0x0, 0x0, 0x0, 0x0⟩
end RgrGulPages

namespace RgrGulSafe
def safeStep : Fld := ⟨63, 0⟩
def key : Nat := ringKey 1 0 (0x618)
/-- Access codes and reset value (R400, R14, R17). -/
def desc : RegDesc := ⟨0x0, 0x0, 0x0, 0x0, 0x0, 0x0, 0x0⟩
end RgrGulSafe

namespace RgrExc
def data : Fld := ⟨63, 0⟩
def key (k : Nat) : Nat := ringKey 1 0 (0x700 + 0x8 * k)
/-- Access codes and reset value (R405, R14, R17). -/
def desc : RegDesc := ⟨0x0, 0x0, 0x0, 0x0, 0x0, 0xFFFFFFFFFFFFFFFF, 0x0⟩
end RgrExc

namespace RgrLsStatus
def mode : Fld := ⟨63, 63⟩
def traceEn : Fld := ⟨62, 62⟩
def port : Fld := ⟨33, 32⟩
def pairId : Fld := ⟨31, 0⟩
def key : Nat := ringKey 1 0 (0x780)
/-- Access codes and reset value (R415, R14, R17). -/
def desc : RegDesc := ⟨0x0, 0x0, 0x0, 0x0, 0x0, 0x0, 0x0⟩
end RgrLsStatus

namespace RgrLsMatch
def lastMatch : Fld := ⟨63, 0⟩
def key : Nat := ringKey 1 0 (0x788)
/-- Access codes and reset value (R415, R14, R17). -/
def desc : RegDesc := ⟨0x0, 0x0, 0x0, 0x0, 0x0, 0x0, 0x0⟩
end RgrLsMatch

namespace RgrLsMismatch
def firstMismatch : Fld := ⟨63, 0⟩
def key : Nat := ringKey 1 0 (0x790)
/-- Access codes and reset value (R415, R14, R17). -/
def desc : RegDesc := ⟨0x0, 0x0, 0x0, 0x0, 0x0, 0x0, 0x0⟩
end RgrLsMismatch

namespace RgrLsCount
def compared : Fld := ⟨63, 48⟩
def mismatches : Fld := ⟨47, 32⟩
def timeouts : Fld := ⟨31, 16⟩
def stale : Fld := ⟨15, 0⟩
def key : Nat := ringKey 1 0 (0x798)
/-- Access codes and reset value (R415, R14, R17). -/
def desc : RegDesc := ⟨0x0, 0x0, 0x0, 0x0, 0x0, 0x0, 0x0⟩
end RgrLsCount

namespace CaTrace
def trace : Fld := ⟨31, 0⟩
def key (ph un : Nat) : Nat := standKey ph 15 un (0x5C0)
/-- Access codes and reset value (R416, R14, R17). -/
def desc : RegDesc := ⟨0x0, 0x0, 0x0, 0x0, 0x0, 0x0, 0x0⟩
end CaTrace

namespace ClkRefStatus
def losses : Fld := ⟨63, 48⟩
def state : Fld := ⟨1, 0⟩
def key : Nat := ringKey 3 0 (0x0)
/-- Access codes and reset value (R440, R14, R17). -/
def desc : RegDesc := ⟨0x0, 0x0, 0x0, 0x0, 0x0, 0xFFFF000000000003, 0xFFFF000000000003⟩
end ClkRefStatus

namespace ClkRefCtl
def reacquire : Fld := ⟨0, 0⟩
def key : Nat := ringKey 3 0 (0x8)
/-- Access codes and reset value (R440, R14, R17). -/
def desc : RegDesc := ⟨0x0, 0x0, 0x1, 0x0, 0x0, 0x0, 0x0⟩
end ClkRefCtl

namespace ClkSlotCfg
def khz : Fld := ⟨31, 0⟩
def key : Nat := ringKey 3 0 (0x10)
/-- Access codes and reset value (R440, R14, R17). -/
def desc : RegDesc := ⟨0x0, 0xFFFFFFFF, 0x0, 0x0, 0x0, 0xFFFFFFFF, 0x0⟩
end ClkSlotCfg

namespace ClkSlotStatus
def currentKhz : Fld := ⟨63, 32⟩
def gliding : Fld := ⟨1, 1⟩
def locked : Fld := ⟨0, 0⟩
def key : Nat := ringKey 3 0 (0x18)
/-- Access codes and reset value (R440, R14, R17). -/
def desc : RegDesc := ⟨0x0, 0x0, 0x0, 0x0, 0x0, 0x0, 0x0⟩
end ClkSlotStatus

namespace ClkSrcSel
def src : Fld := ⟨1, 0⟩
def key (p : Nat) : Nat := standKey p 0 0 (0x200)
/-- Access codes and reset value (R441, R14, R17). -/
def desc : RegDesc := ⟨0x0, 0x3, 0x0, 0x0, 0x0, 0x3, 0x0⟩
end ClkSrcSel

namespace ClkSrcStatus
def switches : Fld := ⟨63, 48⟩
def depth : Fld := ⟨47, 40⟩
def lastStatus : Fld := ⟨39, 24⟩
def phaseErr : Fld := ⟨23, 16⟩
def upstreamHold : Fld := ⟨15, 15⟩
def state : Fld := ⟨14, 12⟩
def ready : Fld := ⟨11, 8⟩
def present : Fld := ⟨7, 4⟩
def ringSides : Fld := ⟨3, 0⟩
def key (p : Nat) : Nat := standKey p 0 0 (0x208)
/-- Access codes and reset value (R441, R14, R17). -/
def desc : RegDesc := ⟨0x0, 0x0, 0x0, 0x0, 0x0, 0x0, 0x0⟩
end ClkSrcStatus

namespace ClkSrcCfg
def lossCycles : Fld := ⟨15, 8⟩
def phaseLimit : Fld := ⟨7, 0⟩
def key (p : Nat) : Nat := standKey p 0 0 (0x210)
/-- Access codes and reset value (R441, R14, R17). -/
def desc : RegDesc := ⟨0x4032, 0xFFFF, 0x0, 0x0, 0x0, 0xFFFF, 0x0⟩
end ClkSrcCfg

namespace ClkDiv
def ratio : Fld := ⟨43, 32⟩
def divSwitches : Fld := ⟨31, 24⟩
def dslDiv : Fld := ⟨23, 20⟩
def stdDiv : Fld := ⟨15, 12⟩
def hubDiv : Fld := ⟨3, 0⟩
def key (p : Nat) : Nat := standKey p 0 0 (0x218)
/-- Access codes and reset value (R441, R14, R17). -/
def desc : RegDesc := ⟨0x3E800802001, 0xF0F00F, 0x0, 0x0, 0x0, 0xF, 0x0⟩
end ClkDiv

namespace ClkGateCmd
def op : Fld := ⟨31, 30⟩
def node : Fld := ⟨9, 0⟩
def key (p : Nat) : Nat := standKey p 0 0 (0x220)
/-- Access codes and reset value (R441, R14, R17). -/
def desc : RegDesc := ⟨0x0, 0x0, 0xC00003FF, 0x0, 0x0, 0x0, 0x0⟩
end ClkGateCmd

namespace ClkGateView
def node : Fld := ⟨9, 0⟩
def key (p : Nat) : Nat := standKey p 0 0 (0x228)
/-- Access codes and reset value (R441, R14, R17). -/
def desc : RegDesc := ⟨0x0, 0x3FF, 0x0, 0x0, 0x0, 0x0, 0x0⟩
end ClkGateView

namespace ClkGateState
def lastStatus : Fld := ⟨63, 48⟩
def state : Fld := ⟨11, 10⟩
def inUse : Fld := ⟨9, 9⟩
def descInUse : Fld := ⟨8, 8⟩
def key (p : Nat) : Nat := standKey p 0 0 (0x230)
/-- Access codes and reset value (R441, R14, R17). -/
def desc : RegDesc := ⟨0x0, 0x0, 0x0, 0x0, 0x0, 0x0, 0x0⟩
end ClkGateState

namespace ClkPath
def path : Fld := ⟨63, 0⟩
def key (p : Nat) : Nat := standKey p 0 0 (0x238)
/-- Access codes and reset value (R441, R14, R17). -/
def desc : RegDesc := ⟨0x0, 0x0, 0x0, 0x0, 0x0, 0x0, 0x0⟩
end ClkPath

namespace PwrCeiling
def opCeiling : Fld := ⟨63, 32⟩
def fused : Fld := ⟨31, 0⟩
def key : Nat := ringKey 4 0 (0x0)
/-- Access codes and reset value (R462, R14, R17). -/
def desc : RegDesc := ⟨0x0, 0xFFFFFFFF00000000, 0x0, 0x0, 0x0, 0xFFFFFFFF00000000, 0x0⟩
end PwrCeiling

namespace PwrCap
def effective : Fld := ⟨63, 32⟩
def cap : Fld := ⟨31, 0⟩
def key : Nat := ringKey 4 0 (0x8)
/-- Access codes and reset value (R462, R14, R17). -/
def desc : RegDesc := ⟨0x0, 0x0, 0x0, 0x0, 0x0, 0x0, 0x0⟩
end PwrCap

namespace PwrCtl
def hyst : Fld := ⟨15, 0⟩
def key : Nat := ringKey 4 0 (0x10)
/-- Access codes and reset value (R462, R14, R17). -/
def desc : RegDesc := ⟨0xFA, 0xFFFF, 0x0, 0x0, 0x0, 0xFFFF, 0x0⟩
end PwrCtl

namespace PwrStatus
def estimate : Fld := ⟨63, 32⟩
def floor : Fld := ⟨8, 8⟩
def tl : Fld := ⟨7, 0⟩
def key : Nat := ringKey 4 0 (0x18)
/-- Access codes and reset value (R462, R14, R17). -/
def desc : RegDesc := ⟨0x0, 0x0, 0x0, 0x0, 0x0, 0x0, 0x0⟩
end PwrStatus

namespace PwrEnergy
def mj : Fld := ⟨63, 0⟩
def key : Nat := ringKey 4 0 (0x20)
/-- Access codes and reset value (R462, R14, R17). -/
def desc : RegDesc := ⟨0x0, 0x0, 0x0, 0x0, 0x0, 0xFFFFFFFFFFFFFFFF, 0xFFFFFFFFFFFFFFFF⟩
end PwrEnergy

namespace PwrInput
def mainV : Fld := ⟨63, 48⟩
def mainI : Fld := ⟨47, 32⟩
def sbV : Fld := ⟨31, 16⟩
def sbI : Fld := ⟨15, 0⟩
def key : Nat := ringKey 4 0 (0x28)
/-- Access codes and reset value (R462, R14, R17). -/
def desc : RegDesc := ⟨0x0, 0x0, 0x0, 0x0, 0x0, 0x0, 0x0⟩
end PwrInput

namespace PwrCount
def throttled : Fld := ⟨63, 32⟩
def floorTicks : Fld := ⟨31, 16⟩
def lateEst : Fld := ⟨15, 0⟩
def key : Nat := ringKey 4 0 (0x30)
/-- Access codes and reset value (R462, R14, R17). -/
def desc : RegDesc := ⟨0x0, 0x0, 0x0, 0x0, 0x0, 0x0, 0x0⟩
end PwrCount

namespace PwrTempCfg
def riseK : Fld := ⟨23, 16⟩
def warnC : Fld := ⟨15, 8⟩
def coolantC : Fld := ⟨7, 0⟩
def key : Nat := ringKey 4 0 (0x38)
/-- Access codes and reset value (R462, R14, R17). -/
def desc : RegDesc := ⟨0x146423, 0xFFFFFF, 0x0, 0x0, 0x0, 0xFFFFFF, 0x0⟩
end PwrTempCfg

namespace PwrRingTemp0
def sensors : Fld := ⟨63, 0⟩
def key : Nat := ringKey 4 0 (0x40)
/-- Access codes and reset value (R462, R14, R17). -/
def desc : RegDesc := ⟨0x0, 0x0, 0x0, 0x0, 0x0, 0x0, 0x0⟩
end PwrRingTemp0

namespace PwrRingTemp1
def sensors : Fld := ⟨63, 0⟩
def key : Nat := ringKey 4 0 (0x48)
/-- Access codes and reset value (R462, R14, R17). -/
def desc : RegDesc := ⟨0x0, 0x0, 0x0, 0x0, 0x0, 0x0, 0x0⟩
end PwrRingTemp1

namespace PwrTile
def trips : Fld := ⟨55, 48⟩
def phase : Fld := ⟨47, 40⟩
def rail : Fld := ⟨39, 36⟩
def cause : Fld := ⟨35, 32⟩
def vcoreMv : Fld := ⟨31, 16⟩
def vmargin : Fld := ⟨15, 8⟩
def state : Fld := ⟨3, 0⟩
def key (i : Nat) : Nat := ringKey 4 0 (0x100 + 0x8 * i)
/-- Access codes and reset value (R462, R14, R17). -/
def desc : RegDesc := ⟨0xFF0000000000, 0x0, 0x0, 0x0, 0x0, 0xFF000F00000000, 0xFF000000000000⟩
end PwrTile

namespace PwrStandEst
def leak : Fld := ⟨47, 32⟩
def pStand : Fld := ⟨31, 0⟩
def key (p : Nat) : Nat := standKey p 0 0 (0x300)
/-- Access codes and reset value (R463, R14, R17). -/
def desc : RegDesc := ⟨0x0, 0x0, 0x0, 0x0, 0x0, 0x0, 0x0⟩
end PwrStandEst

namespace PwrStandTemp
def sensors : Fld := ⟨63, 0⟩
def key (p : Nat) : Nat := standKey p 0 0 (0x308)
/-- Access codes and reset value (R463, R14, R17). -/
def desc : RegDesc := ⟨0x0, 0x0, 0x0, 0x0, 0x0, 0x0, 0x0⟩
end PwrStandTemp

namespace PwrStandCount
def idleLaps : Fld := ⟨63, 32⟩
def warns : Fld := ⟨31, 16⟩
def acc : Fld := ⟨15, 8⟩
def tl : Fld := ⟨7, 0⟩
def key (p : Nat) : Nat := standKey p 0 0 (0x310)
/-- Access codes and reset value (R463, R14, R17). -/
def desc : RegDesc := ⟨0x0, 0x0, 0x0, 0x0, 0x0, 0x0, 0x0⟩
end PwrStandCount

namespace PwrWeight
def weights : Fld := ⟨63, 0⟩
def key (p j : Nat) : Nat := standKey p 0 0 (0x340 + 0x8 * j)
/-- Access codes and reset value (R463, R14, R17). -/
def desc : RegDesc := ⟨0x0, 0x0, 0x0, 0x0, 0x0, 0x0, 0x0⟩
end PwrWeight

namespace PwrLeak
def leaks : Fld := ⟨63, 0⟩
def key (p j : Nat) : Nat := standKey p 0 0 (0x360 + 0x8 * j)
/-- Access codes and reset value (R463, R14, R17). -/
def desc : RegDesc := ⟨0x0, 0x0, 0x0, 0x0, 0x0, 0x0, 0x0⟩
end PwrLeak

namespace IorBringupStatus
def elapsedMs : Fld := ⟨63, 32⟩
def heats : Fld := ⟨31, 24⟩
def eligible : Fld := ⟨23, 16⟩
def kind : Fld := ⟨11, 8⟩
def phase : Fld := ⟨7, 4⟩
def result : Fld := ⟨3, 0⟩
def key : Nat := ringKey 0 0 (0xC00)
/-- Access codes and reset value (R491, R14, R17). -/
def desc : RegDesc := ⟨0x0, 0x0, 0x0, 0x0, 0x0, 0xF00, 0xF00⟩
end IorBringupStatus

namespace IorBringupCount
def conflicts : Fld := ⟨63, 48⟩
def fusedPass : Fld := ⟨47, 32⟩
def softRows : Fld := ⟨31, 16⟩
def narrow : Fld := ⟨15, 8⟩
def excluded : Fld := ⟨7, 0⟩
def key : Nat := ringKey 0 0 (0xC08)
/-- Access codes and reset value (R491, R14, R17). -/
def desc : RegDesc := ⟨0x0, 0x0, 0x0, 0x0, 0x0, 0xFFFFFFFFFFFFFFFF, 0x0⟩
end IorBringupCount

namespace IorBringupStand
def heat : Fld := ⟨63, 56⟩
def reason : Fld := ⟨55, 52⟩
def entrySide : Fld := ⟨51, 50⟩
def sitesExcl : Fld := ⟨47, 32⟩
def sitesTest : Fld := ⟨31, 24⟩
def lanesTest : Fld := ⟨23, 16⟩
def softRows : Fld := ⟨15, 0⟩
def key (i : Nat) : Nat := ringKey 0 0 (0xA00 + 0x8 * i)
/-- Access codes and reset value (R492, R14, R17). -/
def desc : RegDesc := ⟨0x0, 0x0, 0x0, 0x0, 0x0, 0xFFFCFFFFFFFFFFFF, 0x0⟩
end IorBringupStand

namespace StdRow
def overLim : Fld := ⟨32, 32⟩
def valid1 : Fld := ⟨31, 31⟩
def test1 : Fld := ⟨30, 30⟩
def col1 : Fld := ⟨22, 16⟩
def valid0 : Fld := ⟨15, 15⟩
def test0 : Fld := ⟨14, 14⟩
def col0 : Fld := ⟨6, 0⟩
def key (p y : Nat) : Nat := standKey p 0 0 (0x400 + 0x8 * y)
/-- Access codes and reset value (R493, R14, R17). -/
def desc : RegDesc := ⟨0x0, 0x0, 0x0, 0x0, 0x0, 0x1C07FC07F, 0x0⟩
end StdRow

namespace RgrBlzLast
def epoch : Fld := ⟨63, 0⟩
def key : Nat := ringKey 1 0 (0x800)
/-- Access codes and reset value (R520, R14, R17). -/
def desc : RegDesc := ⟨0x0, 0x0, 0x0, 0x0, 0x0, 0x0, 0x0⟩
end RgrBlzLast

namespace RgrBlzTime
def time : Fld := ⟨63, 0⟩
def key : Nat := ringKey 1 0 (0x808)
/-- Access codes and reset value (R520, R14, R17). -/
def desc : RegDesc := ⟨0x0, 0x0, 0x0, 0x0, 0x0, 0x0, 0x0⟩
end RgrBlzTime

namespace RgrBlzState
def taints : Fld := ⟨63, 48⟩
def relocated : Fld := ⟨4, 4⟩
def substituted : Fld := ⟨3, 3⟩
def logFull : Fld := ⟨2, 2⟩
def prevOk : Fld := ⟨1, 1⟩
def tainted : Fld := ⟨0, 0⟩
def key : Nat := ringKey 1 0 (0x810)
/-- Access codes and reset value (R520, R14, R17). -/
def desc : RegDesc := ⟨0x0, 0x0, 0x0, 0x0, 0x0, 0x0, 0x0⟩
end RgrBlzState

namespace RgrFaultCfg
def hbCheckMs : Fld := ⟨15, 0⟩
def key : Nat := ringKey 1 0 (0x818)
/-- Access codes and reset value (R520, R14, R17). -/
def desc : RegDesc := ⟨0xA, 0xFFFF, 0x0, 0x0, 0x0, 0xFFFF, 0x0⟩
end RgrFaultCfg

namespace RgrPar
def standby : Fld := ⟨63, 56⟩
def state : Fld := ⟨55, 52⟩
def prot : Fld := ⟨31, 0⟩
def key (g : Nat) : Nat := ringKey 1 0 (0x820 + 0x8 * g)
/-- Access codes and reset value (R520, R14, R17). -/
def desc : RegDesc := ⟨0x0, 0x0, 0x0, 0x0, 0x0, 0x0, 0x0⟩
end RgrPar

namespace OtpId
def serial : Fld := ⟨63, 0⟩
def key : Nat := ringKey 5 0 (0x0)
/-- Access codes and reset value (R548, R14, R17). -/
def desc : RegDesc := ⟨0x0, 0x0, 0x0, 0x0, 0x0, 0xFFFFFFFFFFFFFFFF, 0xFFFFFFFFFFFFFFFF⟩
end OtpId

namespace OtpGrade
def orderCode : Fld := ⟨63, 48⟩
def slotCeilMhz : Fld := ⟨47, 32⟩
def powerCeilW : Fld := ⟨31, 16⟩
def vcoreMv : Fld := ⟨15, 0⟩
def key : Nat := ringKey 5 0 (0x8)
/-- Access codes and reset value (R548, R14, R17). -/
def desc : RegDesc := ⟨0x0, 0x0, 0x0, 0x0, 0x0, 0xFFFFFFFFFFFFFFFF, 0xFFFFFFFFFFFFFFFF⟩
end OtpGrade

namespace OtpKeys
def svnFloor : Fld := ⟨47, 16⟩
def revoked : Fld := ⟨3, 0⟩
def key : Nat := ringKey 5 0 (0x10)
/-- Access codes and reset value (R548, R14, R17). -/
def desc : RegDesc := ⟨0x0, 0x0, 0x0, 0x0, 0x0, 0xFFFFFFFF000F, 0xFFFFFFFF000F⟩
end OtpKeys

namespace OtpStageAccess
def addr : Fld := ⟨15, 0⟩
def key : Nat := ringKey 5 0 (0x18)
/-- Access codes and reset value (R548, R14, R17). -/
def desc : RegDesc := ⟨0x0, 0xFFFF, 0x0, 0x0, 0x0, 0xFFFF, 0xFFFF⟩
end OtpStageAccess

namespace OtpStageData
def data : Fld := ⟨63, 0⟩
def key : Nat := ringKey 5 0 (0x20)
/-- Access codes and reset value (R548, R14, R17). -/
def desc : RegDesc := ⟨0x0, 0xFFFFFFFFFFFFFFFF, 0x0, 0x0, 0x0, 0xFFFFFFFFFFFFFFFF, 0xFFFFFFFFFFFFFFFF⟩
end OtpStageData

namespace OtpGen
def content : Fld := ⟨31, 24⟩
def state : Fld := ⟨3, 0⟩
def key (g : Nat) : Nat := ringKey 5 0 (0x40 + 0x8 * g)
/-- Access codes and reset value (R548, R14, R17). -/
def desc : RegDesc := ⟨0x0, 0x0, 0x0, 0x0, 0x0, 0xFF00000F, 0xFF00000F⟩
end OtpGen

namespace RgrFwStatus
def svn : Fld := ⟨63, 32⟩
def lastStatus : Fld := ⟨31, 16⟩
def source : Fld := ⟨3, 2⟩
def state : Fld := ⟨1, 0⟩
def key : Nat := ringKey 1 0 (0x0)
/-- Access codes and reset value (R549, R14, R17). -/
def desc : RegDesc := ⟨0x0, 0x0, 0x0, 0x0, 0x0, 0xFFFFFFFFFFFF000F, 0xFFFFFFFFFFFF000F⟩
end RgrFwStatus

namespace RgrFwSrc
def addr : Fld := ⟨63, 0⟩
def key (un : Nat) : Nat := ringKey 1 un (0x8)
/-- Access codes and reset value (R549, R14, R17). -/
def desc : RegDesc := ⟨0x0, 0xFFFFFFFFFFFFFFFF, 0x0, 0x0, 0x0, 0xFFFFFFFFFFFFFFFF, 0xFFFFFFFFFFFFFFFF⟩
end RgrFwSrc

namespace RgrFwLen
def len : Fld := ⟨63, 0⟩
def key (un : Nat) : Nat := ringKey 1 un (0x10)
/-- Access codes and reset value (R549, R14, R17). -/
def desc : RegDesc := ⟨0x0, 0xFFFFFFFFFFFFFFFF, 0x0, 0x0, 0x0, 0xFFFFFFFFFFFFFFFF, 0xFFFFFFFFFFFFFFFF⟩
end RgrFwLen

namespace RgrFwCtl
def go : Fld := ⟨0, 0⟩
def key (un : Nat) : Nat := ringKey 1 un (0x18)
/-- Access codes and reset value (R549, R14, R17). -/
def desc : RegDesc := ⟨0x0, 0x0, 0x1, 0x0, 0x0, 0x1, 0x1⟩
end RgrFwCtl

namespace SecStatus
def healthFails : Fld := ⟨63, 48⟩
def failedTest : Fld := ⟨47, 32⟩
def state : Fld := ⟨1, 0⟩
def key : Nat := ringKey 2 0 (0x0)
/-- Access codes and reset value (R549, R14, R17). -/
def desc : RegDesc := ⟨0x0, 0x0, 0x0, 0x0, 0x0, 0xFFFFFFFF00000003, 0xFFFFFFFF00000003⟩
end SecStatus

namespace ClkTime
def ns : Fld := ⟨63, 0⟩
def key : Nat := ringKey 3 0 (0x100)
/-- Access codes and reset value (R550, R14, R17). -/
def desc : RegDesc := ⟨0x0, 0x0, 0x0, 0x0, 0x0, 0xFFFFFFFFFFFFFFFF, 0xFFFFFFFFFFFFFFFF⟩
end ClkTime

namespace ClkTimeNext
def t : Fld := ⟨63, 0⟩
def key : Nat := ringKey 3 0 (0x108)
/-- Access codes and reset value (R550, R14, R17). -/
def desc : RegDesc := ⟨0x0, 0x0, 0xFFFFFFFFFFFFFFFF, 0x0, 0x0, 0xFFFFFFFFFFFFFFFF, 0xFFFFFFFFFFFFFFFF⟩
end ClkTimeNext

namespace ClkPpsCfg
def stepNs : Fld := ⟨63, 32⟩
def lossMs : Fld := ⟨31, 16⟩
def align : Fld := ⟨0, 0⟩
def key : Nat := ringKey 3 0 (0x110)
/-- Access codes and reset value (R550, R14, R17). -/
def desc : RegDesc := ⟨0xF424005DC0000, 0xFFFFFFFFFFFF0001, 0x0, 0x0, 0x0, 0xFFFFFFFFFFFF0001, 0xFFFFFFFFFFFF0001⟩
end ClkPpsCfg

namespace ClkPpsStatus
def badEdges : Fld := ⟨63, 48⟩
def steps : Fld := ⟨47, 40⟩
def offset : Fld := ⟨39, 8⟩
def set : Fld := ⟨3, 3⟩
def refHold : Fld := ⟨2, 2⟩
def state : Fld := ⟨1, 0⟩
def key : Nat := ringKey 3 0 (0x118)
/-- Access codes and reset value (R550, R14, R17). -/
def desc : RegDesc := ⟨0x0, 0x0, 0x0, 0x0, 0x0, 0xFFFFFFFFFFFFFF0F, 0xFFFFFFFFFFFFFF0F⟩
end ClkPpsStatus

namespace ClkPpsCapture
def ns : Fld := ⟨63, 0⟩
def key : Nat := ringKey 3 0 (0x120)
/-- Access codes and reset value (R550, R14, R17). -/
def desc : RegDesc := ⟨0x0, 0x0, 0x0, 0x0, 0x0, 0xFFFFFFFFFFFFFFFF, 0xFFFFFFFFFFFFFFFF⟩
end ClkPpsCapture

/-- The base and configuration registers of rings (R371, R372): command rings, completion rings, event rings, and the
Gulem request and status rings (R396). -/
def crBaseKey (port r : Nat) : Nat := ringKey 9 port (0x800 + 0x20 * r)
def crCfgKey (port r : Nat) : Nat := ringKey 9 port (0x808 + 0x20 * r)
def ccBaseKey (port r : Nat) : Nat := ringKey 9 port (0x818 + 0x20 * r)
def evqBaseKey (port : Nat) : Nat := ringKey 9 port 0x18
def evqCfgKey (port : Nat) : Nat := ringKey 9 port 0x20
def gqBaseKey (port q : Nat) : Nat := ringKey 1 port (0x400 + 0x20 * q)
def gqCfgKey (port q : Nat) : Nat := ringKey 1 port (0x408 + 0x20 * q)
def gsBaseKey (port q : Nat) : Nat := ringKey 1 port (0x418 + 0x20 * q)
/-- Ring bases and configurations (R371, R372), which a warm restart resets (log entry 100). -/
def ringBaseDesc : RegDesc := RingBase.desc
def ringCfgDesc : RegDesc := RingCfg.desc

/-- A compute array (R100). -/
def caDesc (off : Nat) : Option RegDesc :=
  if 0x400 ≤ off ∧ off < 0x440 then some CaArithFlags.desc
  else if 0x440 ≤ off ∧ off < 0x480 then some CaSrCount.desc
  else if 0x0 ≤ off ∧ off < 0x400 ∧ (off - 0x0) % 0x80 < 0x80 then some CaOp.desc
  else if 0x480 ≤ off ∧ off < 0x4C0 then some CaStageCfg.desc
  else if 0x4C0 ≤ off ∧ off < 0x500 then some CaStageStatus.desc
  else if 0x500 ≤ off ∧ off < 0x540 then some CaObPtr.desc
  else if 0x540 ≤ off ∧ off < 0x580 then some CaConst.desc
  else if off = 0x580 then some CaStatus.desc
  else if off = 0x588 then some CaOverrun.desc
  else if off = 0x590 then some CaOverrunLimit.desc
  else if off = 0x598 then some CaObAccess.desc
  else if off = 0x5A0 then some CaObData.desc
  else if off = 0x5A8 then some CaCoreEcc.desc
  else if off = 0x5B0 then some CaHeartbeat.desc
  else if 0x600 ≤ off ∧ off < 0x6C0 ∧ (off - 0x600) % 0x20 = 0 then some CaCtrCfg.desc
  else if 0x608 ≤ off ∧ off < 0x6C8 ∧ (off - 0x608) % 0x20 = 0 then some CaCtrLoop.desc
  else if 0x610 ≤ off ∧ off < 0x6D0 ∧ (off - 0x610) % 0x20 = 0 then some CaCtrState.desc
  else if 0x618 ≤ off ∧ off < 0x6D8 ∧ (off - 0x618) % 0x20 = 0 then some CaCtrStatus.desc
  else if off = 0x6C0 then some CaTagCfg.desc
  else if off = 0x6C8 then some CaBtnState.desc
  else if off = 0x6D0 then some CaBtnError.desc
  else if off = 0x5B8 then some CaSparse.desc
  else if off = 0x5C0 then some CaTrace.desc
  else none

/-- A memory array (R187). -/
def maDesc (off : Nat) : Option RegDesc :=
  if 0x0 ≤ off ∧ off < 0x180 ∧ (off - 0x0) % 0x80 = 0 then some MaGenCfg.desc
  else if 0x8 ≤ off ∧ off < 0x188 ∧ (off - 0x8) % 0x80 = 0 then some MaGenAct.desc
  else if 0x10 ≤ off ∧ off < 0x130 ∧ (off - 0x10) % 0x80 < 0x20 then some MaGenCtr.desc
  else if 0x30 ≤ off ∧ off < 0x1B0 ∧ (off - 0x30) % 0x80 = 0 then some MaGenState.desc
  else if 0x38 ≤ off ∧ off < 0x1B8 ∧ (off - 0x38) % 0x80 = 0 then some MaGenSeq.desc
  else if 0x40 ≤ off ∧ off < 0x1C0 ∧ (off - 0x40) % 0x80 = 0 then some MaGenCount.desc
  else if 0x180 ≤ off ∧ off < 0x190 then some MaUntag.desc
  else if off = 0x190 then some MaSbStatus.desc
  else if off = 0x198 then some MaEcc.desc
  else if off = 0x1A0 then some MaStatus.desc
  else none

/-- A switch node (R231). -/
def nodeDesc (off : Nat) : Option RegDesc :=
  if 0xC00 ≤ off ∧ off < 0xC80 ∧ (off - 0xC00) % 0x20 = 0 then some NodeSteerCfg.desc
  else if 0xC08 ≤ off ∧ off < 0xC88 ∧ (off - 0xC08) % 0x20 = 0 then some NodeSteerState.desc
  else if 0xC10 ≤ off ∧ off < 0xC90 ∧ (off - 0xC10) % 0x20 = 0 then some NodeSteerCount.desc
  else if 0xC18 ≤ off ∧ off < 0xC98 ∧ (off - 0xC18) % 0x20 = 0 then some NodeSteerErr.desc
  else if 0x0 ≤ off ∧ off < 0x800 ∧ (off - 0x0) % 0x20 < 0x20 then some NodeLap.desc
  else if off = 0x800 then some NodeStatus.desc
  else if off = 0x808 then some NodeSlip.desc
  else if off = 0x810 then some NodeNoprog.desc
  else if off = 0x818 then some NodeLinkErr.desc
  else if off = 0x820 then some NodePorthold.desc
  else none

/-- A seam port (R238). -/
def seamDesc (off : Nat) : Option RegDesc :=
  if off = 0x0 then some SeamStatus.desc
  else if off = 0x8 then some SeamCount.desc
  else if off = 0x10 then some SeamCfg.desc
  else none

/-- A DRAM slice (R274). -/
def dslDesc (off : Nat) : Option RegDesc :=
  if off = 0x0 then some DslStatus.desc
  else if off = 0x8 then some DslEcc.desc
  else if off = 0x10 then some DslCount.desc
  else if off = 0x18 then some DslScrub.desc
  else none

/-- A hub (R293). -/
def hubDesc (off : Nat) : Option RegDesc :=
  if off = 0x0 then some HubCfg.desc
  else if off = 0x8 then some HubStatus.desc
  else if off = 0x10 then some HubDescAccess.desc
  else if off = 0x18 then some HubDescData.desc
  else if 0x40 ≤ off ∧ off < 0x80 then some HubTap.desc
  else if 0x100 ≤ off ∧ off < 0x500 ∧ (off - 0x100) % 0x20 = 0 then some HubQCfg.desc
  else if 0x108 ≤ off ∧ off < 0x508 ∧ (off - 0x108) % 0x20 = 0 then some HubQState.desc
  else none

/-- A handle-table entry (R198). -/
def hdlDesc (off : Nat) : Option RegDesc :=
  if off = 0x0 then some HubHdlAddr.desc
  else if off = 0x8 then some HubHdlLen.desc
  else none

/-- The stand controller block (R441, R463, R493). -/
def standDesc (off : Nat) : Option RegDesc :=
  if off = 0x200 then some ClkSrcSel.desc
  else if off = 0x208 then some ClkSrcStatus.desc
  else if off = 0x210 then some ClkSrcCfg.desc
  else if off = 0x218 then some ClkDiv.desc
  else if off = 0x220 then some ClkGateCmd.desc
  else if off = 0x228 then some ClkGateView.desc
  else if off = 0x230 then some ClkGateState.desc
  else if off = 0x238 then some ClkPath.desc
  else if off = 0x300 then some PwrStandEst.desc
  else if off = 0x308 then some PwrStandTemp.desc
  else if off = 0x310 then some PwrStandCount.desc
  else if 0x340 ≤ off ∧ off < 0x360 then some PwrWeight.desc
  else if 0x360 ≤ off ∧ off < 0x380 then some PwrLeak.desc
  else if 0x400 ≤ off ∧ off < 0x600 then some StdRow.desc
  else none

/-- A hub or ring engine (R294). -/
def engineDesc (off : Nat) : Option RegDesc :=
  if off = 0x0 then some EngStatus.desc
  else if off = 0x8 then some EngCount.desc
  else none

/-- A check-value unit (R310). -/
def cvuDesc (off : Nat) : Option RegDesc :=
  if off = 0x0 then some CvuCfg.desc
  else if off = 0x8 then some CvuPoly.desc
  else if off = 0x10 then some CvuInit.desc
  else if off = 0x18 then some CvuXorout.desc
  else if off = 0x20 then some CvuValue.desc
  else if off = 0x28 then some CvuResult.desc
  else if off = 0x30 then some CvuFeed8.desc
  else if off = 0x38 then some CvuFeed16.desc
  else if off = 0x40 then some CvuFeed32.desc
  else if off = 0x48 then some CvuFold.desc
  else if off = 0x50 then some CvuStatus.desc
  else none

/-- A tally (R330). -/
def tallyDesc (off : Nat) : Option RegDesc :=
  if off = 0x0 then some TlyCount.desc
  else if off = 0x8 then some TlyAdd.desc
  else if off = 0x10 then some TlyCfg.desc
  else if off = 0x18 then some TlyWatchBase.desc
  else if off = 0x20 then some TlyWatchLimit.desc
  else if off = 0x28 then some TlyStatus.desc
  else none

/-- Ring control (R24, R42, R491, R492). -/
def iorDesc (off : Nat) : Option RegDesc :=
  if 0x800 ≤ off ∧ off < 0xA00 then some IorStandMap.desc
  else if 0x100 ≤ off ∧ off < 0x200 then some IorErr.desc
  else if off = 0x200 then some IorErrLast.desc
  else if off = 0x208 then some IorErrAddr.desc
  else if off = 0xC00 then some IorBringupStatus.desc
  else if off = 0xC08 then some IorBringupCount.desc
  else if 0xA00 ≤ off ∧ off < 0xC00 then some IorBringupStand.desc
  else none

/-- A Ranger mailbox (R396, R405, R415, R520, R549). -/
def rgrDesc0 (off : Nat) : Option RegDesc :=
  if 0x410 ≤ off ∧ off < 0x610 ∧ (off - 0x410) % 0x20 = 0 then some RgrGqState.desc
  else if off = 0x600 then some RgrGulCfg.desc
  else if off = 0x608 then some RgrGulStatus.desc
  else if off = 0x610 then some RgrGulPages.desc
  else if off = 0x618 then some RgrGulSafe.desc
  else if 0x700 ≤ off ∧ off < 0x780 then some RgrExc.desc
  else if off = 0x780 then some RgrLsStatus.desc
  else if off = 0x788 then some RgrLsMatch.desc
  else if off = 0x790 then some RgrLsMismatch.desc
  else if off = 0x798 then some RgrLsCount.desc
  else if off = 0x800 then some RgrBlzLast.desc
  else if off = 0x808 then some RgrBlzTime.desc
  else if off = 0x810 then some RgrBlzState.desc
  else if off = 0x818 then some RgrFaultCfg.desc
  else if 0x820 ≤ off ∧ off < 0x840 then some RgrPar.desc
  else if off = 0x0 then some RgrFwStatus.desc
  else if off = 0x8 then some RgrFwSrc.desc
  else if off = 0x10 then some RgrFwLen.desc
  else if off = 0x18 then some RgrFwCtl.desc
  else none

/-- The security engine (R549). -/
def secDesc (off : Nat) : Option RegDesc :=
  if off = 0x0 then some SecStatus.desc
  else none

/-- The ring clock block (R440, R550). -/
def clkDesc (off : Nat) : Option RegDesc :=
  if off = 0x0 then some ClkRefStatus.desc
  else if off = 0x8 then some ClkRefCtl.desc
  else if off = 0x10 then some ClkSlotCfg.desc
  else if off = 0x18 then some ClkSlotStatus.desc
  else if off = 0x100 then some ClkTime.desc
  else if off = 0x108 then some ClkTimeNext.desc
  else if off = 0x110 then some ClkPpsCfg.desc
  else if off = 0x118 then some ClkPpsStatus.desc
  else if off = 0x120 then some ClkPpsCapture.desc
  else none

/-- The ring power block (R462). -/
def pwrDesc (off : Nat) : Option RegDesc :=
  if off = 0x0 then some PwrCeiling.desc
  else if off = 0x8 then some PwrCap.desc
  else if off = 0x10 then some PwrCtl.desc
  else if off = 0x18 then some PwrStatus.desc
  else if off = 0x20 then some PwrEnergy.desc
  else if off = 0x28 then some PwrInput.desc
  else if off = 0x30 then some PwrCount.desc
  else if off = 0x38 then some PwrTempCfg.desc
  else if off = 0x40 then some PwrRingTemp0.desc
  else if off = 0x48 then some PwrRingTemp1.desc
  else if off = 0x100 ∨ off = 0x138 ∨ off = 0x2C0 ∨ off = 0x2F8 then some { PwrTile.desc with reset := 0 }
  else if 0x100 ≤ off ∧ off < 0x300 then some PwrTile.desc
  else none

/-- The fuse banks (R548). -/
def otpDesc (off : Nat) : Option RegDesc :=
  if off = 0x0 then some OtpId.desc
  else if off = 0x8 then some OtpGrade.desc
  else if off = 0x10 then some OtpKeys.desc
  else if off = 0x18 then some OtpStageAccess.desc
  else if off = 0x20 then some OtpStageData.desc
  else if 0x40 ≤ off ∧ off < 0x88 then some OtpGen.desc
  else none

/-- A CXL port block (R367), its ring bases and configurations apart. -/
def portDesc0 (off : Nat) : Option RegDesc :=
  if off = 0x0 then some IorPortStatus.desc
  else if off = 0x8 then some IorPortCfg.desc
  else if off = 0x10 then some IorAperture.desc
  else if 0x810 ≤ off ∧ off < 0x1010 ∧ (off - 0x810) % 0x20 = 0 then some IorCrState.desc
  else if off = 0x28 then some IorPortCount.desc
  else if 0x40 ≤ off ∧ off < 0x80 then some IorWinAttr.desc
  else none

/-- A CXL port block (R367). -/
def portDesc (off : Nat) : Option RegDesc :=
  if off = 0x18 then some ringBaseDesc
  else if off = 0x20 then some ringCfgDesc
  else if 0x800 ≤ off ∧ off < 0x1000 ∧ off % 0x20 = 0 then some ringBaseDesc
  else if 0x800 ≤ off ∧ off < 0x1000 ∧ off % 0x20 = 8 then some ringCfgDesc
  else if 0x800 ≤ off ∧ off < 0x1000 ∧ off % 0x20 = 0x18 then some ringBaseDesc
  else portDesc0 off

/-- A Ranger mailbox block (R396). -/
def rgrDesc (off : Nat) : Option RegDesc :=
  if 0x400 ≤ off ∧ off < 0x600 ∧ off % 0x20 = 0 then some RingBase.desc
  else if 0x400 ≤ off ∧ off < 0x600 ∧ off % 0x20 = 8 then some RingCfg.desc
  else if 0x400 ≤ off ∧ off < 0x600 ∧ off % 0x20 = 0x18 then some RingBase.desc
  else rgrDesc0 off

/-- Is (x, y) of the array index y × 64 + x a memory array (R38)? -/
def isMemIdx (idx : Nat) : Bool := idx % 64 % 2 = 1 && idx / 64 % 2 = 1

/-- The register at an offset of a unit of a stand (R41). -/
def standRegDesc (cls idx off : Nat) : Option RegDesc :=
  if cls = 0 then (if idx = 0 then standDesc off else none)
  else if cls = 1 then (if idx = 0 then hubDesc off else none)
  else if cls = 2 then hdlDesc off
  else if cls = 3 then (if idx < 8 then engineDesc off else none)
  else if cls = 4 ∨ cls = 6 ∨ cls = 7 then (if idx < 2 then engineDesc off else none)
  else if cls = 5 ∨ cls = 8 ∨ cls = 9 then (if idx = 0 then engineDesc off else none)
  else if cls = 10 then (if idx < 8 then cvuDesc off else none)
  else if cls = 11 then (if idx < 1024 then tallyDesc off else none)
  else if cls = 12 then (if idx < 4 then seamDesc off else none)
  else if cls = 13 then (if idx < 64 then dslDesc off else none)
  else if cls = 14 then (if idx < 1024 then nodeDesc off else none)
  else if cls = 15 then (if isMemIdx idx then maDesc off else caDesc off)
  else none

/-- The register at an offset of a unit of the ring (R41). -/
def ringRegDesc (cls idx off : Nat) : Option RegDesc :=
  if cls = 0 then (if idx = 0 then iorDesc off else none)
  else if cls = 1 then (if idx < 4 then rgrDesc off else none)
  else if cls = 2 then (if idx = 0 then secDesc off else none)
  else if cls = 3 then (if idx = 0 then clkDesc off else none)
  else if cls = 4 then (if idx = 0 then pwrDesc off else none)
  else if cls = 5 then (if idx = 0 then otpDesc off else none)
  else if cls = 6 then (if idx < 16 then engineDesc off else none)
  else if cls = 7 then (if idx < 16 then cvuDesc off else none)
  else if cls = 8 then (if idx < 4096 then tallyDesc off else none)
  else if cls = 9 then (if idx < 4 then portDesc off else none)
  else none

/-- The fields of a set-up address (R40). -/
def suView (a : Nat) : Nat := natBits a 43 40
def suStand (a : Nat) : Nat := natBits a 39 34
def suClass (a : Nat) : Nat := natBits a 33 30
def suIndex (a : Nat) : Nat := natBits a 23 12
def suOff (a : Nat) : Nat := natBits a 11 0

/-- A module-wide register of the Ranger mailboxes, shown by every block (R396, R405, R415, R520, R549). -/
def rgrWide (off : Nat) : Bool := off < 0x20 || (0x600 ≤ off && off < 0x900)

/-- The register that a canonical set-up address (VIEW 0x0 or 0x2, offset a multiple of 8) names, if any. -/
def regDescOf (k : Nat) : Option RegDesc :=
  if suView k = 0 then ringRegDesc (suClass k) (suIndex k) (suOff k)
  else if suView k = 2 then standRegDesc (suClass k) (suIndex k) (suOff k)
  else none

end Sys2Proof.Machine
end

