-- ==== Sys2Proof/Machine/StageTypes.lean ====
section
/-!
DEFINITION. The state of a compute array beside its registers: lane accumulators (R62, R67, R119), latches (R77, R79),
the lane predicate (R121), the sparse offset and product queue of each lane (R239, R247), a step in progress (R84 to
R90), and the latches and queues of the array's port (R77, R143, R145).
-/

namespace Sys2Proof.Machine

/-- A lane accumulator (R119): empty; exact, with the 128-bit integer A, the product count C, the five flags and the
ANCHOR of the dot entries that feed it (R62, R95); or an FP32 running sum (R67). -/
inductive Acc where
  | empty
  | exact (a : BitVec 128) (c : BitVec 25) (nan pinf ninf range trunc : Bool) (anchor : BitVec 9)
  | running (v : Lane)
  deriving DecidableEq, Repr

/-- A pair of the product queue (R247): the element bits of A and B with their combined scale bytes. -/
structure Product where
  a : BitVec 16
  b : BitVec 16
  xa : Byte
  xb : Byte
  deriving DecidableEq, Repr

/-- The sparse state of a lane (R239, R247): offset into its column, the block read last with its scale, and the
product queue. -/
structure SparseLane where
  offset : Nat
  block : List (Option (BitVec 16))
  scale : Byte
  queue : List Product
  deriving DecidableEq, Repr

def SparseLane.init : SparseLane := ⟨0, [], 127, []⟩

/-- A stage (R77, R79, R119, R121, R125). `begun` says that the stage has a step, `done` that the step has committed;
`left` counts the slots after the one in course that the step's class, or a replay, still takes (R79, R90); `late`
counts the consecutive slots late under COMPUTE (R86, R88), `heldFor` those of the step in course (R247); `attempts` the
parity failures of the step (R90). As the step began (R79): `upStart` the upstream latch with its FRESH bit,
`routeStart` whether the route-in latch was valid (R130), `ctrStart` the six counters' state (R129, R159), `seqStart`
VEC_SEQ (R159). `srHeld` is the SRS count of a step in course during which CA_SR_COUNT has been written (R75). `wrote`
says that the latch has been written since the last boundary at which steps began. -/
structure Stage where
  acc : List Acc
  pred : BitVec 16
  latch : Vec
  fresh : Bool
  sparse : List SparseLane
  half : Option Vec
  left : Nat
  heldFor : Nat
  late : Nat
  attempts : Nat
  begun : Bool
  done : Bool
  upStart : Vec
  upFresh : Bool
  routeStart : Bool
  ctrStart : List Word
  seqStart : Byte
  srHeld : Option (BitVec 48)
  wrote : Bool
  deriving DecidableEq, Repr

def Stage.init : Stage :=
  ⟨List.replicate 16 .empty, 0, 0, false, List.replicate 16 .init, none, 0, 0, 0, 0, false, false, 0, false, false, [], 0,
    none, false⟩

/-- One message of the route-out latch's service path (R116): a tally increment or a lane's remote atomic. -/
inductive ServiceOut where
  | tally (number : BitVec 16) (amount : Nat)
  | atomic (op : AtomicOp) (addr : BitVec 48) (value : Word) (lane : BitVec 4)
  | heartbeat (number : BitVec 16)
  deriving DecidableEq, Repr

/-- What the route-out latch holds: a vector with its tag for the mesh, or service messages (R77, R116, R135). -/
inductive RouteOut where
  | vector (tag : Byte) (v : Vec)
  | service (stage : Nat) (msgs : List ServiceOut)
  deriving DecidableEq, Repr

/-- The port of a compute array (R77, R143, R145) and its trace unit (R416), fed once `traced` with more than lap
numbers, where `fed` are the vectors of the slot in course, as (stage, vector): `routeConn` and `btnConns` name the
connections that delivered the route-in vector and the batons not yet credited (R211); `routeTaken` says that a
committed step of this slot has read the route-in latch, which the next boundary empties (R211); `holdRun` counts its
consecutive hold slots (R106); `lapsBeat` the laps since its last heartbeat (R110). Of the slot in course: `btnCame`
says that the baton-in queue has taken its one baton (R143), `touched` names the core-memory slots that a stage store or
an external access has used and `ext` that an external access has been served (R91); of the array step in course,
`placed` are the counter emissions, as (counter, value), and `sent` the BTNSENDs, as (stage, value), in the baton-out
queue (R145). -/
structure CArray where
  routeIn : Option (Byte × Vec)
  routeOut : Option RouteOut
  routeConn : Nat
  btnIn : List (BitVec 16)
  btnConns : List Nat
  btnOut : List (BitVec 16)
  trace : BitVec 32
  traced : Bool
  fed : List (Nat × Vec)
  routeTaken : Bool
  outFreed : Bool
  holdRun : Nat
  lapsBeat : Nat
  btnCame : Bool
  touched : List Nat
  ext : Bool
  placed : List (Nat × Nat)
  sent : List (Nat × Nat)
  deriving DecidableEq, Repr

def CArray.init : CArray := ⟨none, none, 0, [], [], [], 0xFFFFFFFF, false, [], false, false, 0, 0, false, [], false, [], []⟩

end Sys2Proof.Machine
end

