-- ==== Sys2Proof/Machine/State.lean ====
section
/-!
DEFINITION. The state of the block: the set-up registers, the memories with their codes and tags, the stages, arrays
and nodes, the hubs, the host and management interfaces, the module's control state, and the queue of commands that
wait. Every sparse map is in the one form of Machine/Store.lean.
-/

namespace Sys2Proof.Machine

/-- The module states of R350; `none` before a bring-up has ended READY or REDUCED, and through one (R465). -/
inductive ModState where
  | none
  | idle
  | loaded
  | running
  | drained
  | fenced
  deriving DecidableEq, Repr

/-- A stand beside its registers: lap position and completed laps (R96, R132, R202), the idle lap's slots left (R203),
whether the slot in course is a hold slot or belongs to an idle lap, the lap count at the last start (R217), whether it
has stopped at a drain point (R358), the epoch counters of R401, the entropy pool (R61). `phase` is the ARRAY_STATE of
its arrays that are neither stopped nor fenced (R105, R185): 0 unloaded, 1 loaded, 2 running, 3 drained. `lapped` says
that the lap which has ended is counted while position 0 has not begun (R202, R203, R215). `trace` is the trace of an
array that has committed nothing in the window, none before its first lap (R416). -/
structure Stand where
  pos : Nat
  laps : Nat
  started : Bool
  idleLeft : Nat
  slots : Nat
  holdSlots : Nat
  serviceHolds : Nat
  markedSteps : Nat
  held : Bool
  idleSlot : Bool
  lapStart : Nat
  drained : Bool
  pool : List Lane
  phase : Nat
  lapped : Bool
  trace : Option (BitVec 32)
  deriving DecidableEq, Repr

def Stand.init : Stand := ⟨0, 0, false, 0, 0, 0, 0, 0, false, false, 0, false, [], 0, false, none⟩

/-- The state of the block (INVENTORY.md lists every piece with its rule). `pending` the commands that wait, first in
first out; `freeCtr` the model's own counter of free values drawn (log entry 4). Registers and memory: `regs` the set-up
registers by canonical address (R14, R40); `mem` SRAM and DRAM by place (R32, R77, R167, R267), `upset` the error
patterns of their code words (R32), `tags` the FULL/EMPTY tags (R169), `vtags` the vector-tag stores (R167); `ob` the
operand buffers and `obBad` their bad parity (R77, R90); `hostMem` and `peerMem` what the module has written to hosts
and to its lock-step peers. The fabric: `stages`, `arrays`, `stands`, `links`, `credits`, `creditFly` credits on their
way, `moves` what arrives at the slot's end (R207, R211), `steers`, `nodes`, `seams`, `memArrs`, `taps`; the service
mesh: `svc` requests without a response, `svcResp` responses on their way, `svcGot` those received, `svcId` the next
identifier (R228, R230), `mgmtIn` the MGMT messages delivered; `waits` on tallies (R326), `dones` the verbs that wait
for their DONE increment (R278). `xbar` the round-robin pointers of the hubs' target ports by stand × 256 + target, and
`turns` the queue that an engine served last by stand × 32 + engine (R264, R276). Host and management: `ports`, `rings`
by port × 64 + ring, `decoders`, `sessions`, `orphans` the commands of sessions that are over (R524), `reportSeq`
(R348), `suOut` the values that set-up reads have answered, `authFails` (R522), `cages` the management ports that are
down (R557), `hostStall` whether a read of this epoch stalled (R363, R401). The module: `mode` (R350), `arb` the control
verb in the arbiter and `fetchOrder` the control verbs fetched and not retired, in order (R345), `epoch`, `tainted`,
`taints` and `taintCount` the tainting events of the epoch (R497), `srKey` (R61), `lapLen` (R202), `lapSet` the plan
whose set of lap tables is in force (R511), `draining` (R358), `drainTallies` the counts of the tallies and CLK_TIME at
the drain point (R321, R501), `drainExc` the source counters there and `excSat` the stands in which one has saturated
(R401), `traceEn` `traceFirst` `traceLast` (R416), `image` the image in force (R354), `plan` (R510), `planSel` the plan
of SELECT_PLAN not yet used, `planChanged`, `reconFailed` (R512, R514), `logs` the parity logs (R504), `snaps` the
blazes that can be restored and `saving` the one being written (R496 to R502), `excBase` the counts at the beginning of
the epoch (R401), `hbs` (R495), `gul` the generation service (R376), `lsOn` lock-step (R407), `shifted` the columns that
plans have shifted past (R30, R510). Hubs: `descs`, `hubQs` by stand × 32 + queue, `hdlStage` the staged handle lengths
(R199); `dirty` the nodes whose lap tables a set-up write has changed since the last check (R210); `gates` by stand ×
1024 + node: 0 on, 1 off, 2 pending (R433). Outside the fabric: `sides` the relay-clock lanes (R425), `ringClk`,
`power`, `bring`, `fuses` the spare generations and `otpStage` the staging buffer (R541, R543), `fw`, `dbg` the debug
port (R540), `timeCtr` (R545), `measure5` (R539). -/
structure State where
  pending : List Instr
  freeCtr : Nat
  regs : List (Nat × Word)
  mem : List Host.Cell
  upset : List (Nat × BitVec 80)
  tags : List (Nat × Bool)
  ob : List Host.Cell
  obBad : List (Nat × Bool)
  hostMem : List Host.Cell
  peerMem : List Host.Cell
  stages : List (Nat × Stage)
  arrays : List (Nat × CArray)
  stands : List (Nat × Stand)
  ports : List (Nat × Port)
  rings : List (Nat × CRing)
  sessions : List (Nat × Option Session)
  orphans : List Cmd
  reportSeq : BitVec 32
  mode : ModState
  epoch : Nat
  tainted : Bool
  taints : List (Status × Word)
  taintCount : Nat
  srKey : Word
  lapLen : Nat
  traceEn : Bool
  traceFirst : Word
  traceLast : Word
  vtags : List (Nat × Byte)
  links : List (Nat × LinkIn)
  credits : List (Nat × Nat)
  creditFly : List Credit
  moves : List Move
  steers : List (Nat × Steer)
  nodes : List (Nat × NodeSt)
  seams : List (Nat × SeamPort)
  memArrs : List (Nat × MemArr)
  taps : List (Nat × Tap)
  svc : List SvcReq
  svcResp : List (MeshSrc × SvcAnswer)
  svcGot : List (MeshSrc × SvcAnswer)
  svcId : BitVec 16
  mgmtIn : List (BitVec 512)
  waits : List TWait
  dones : List DoneWait
  xbar : List (Nat × Nat)
  turns : List (Nat × Nat)
  draining : Bool
  drainTallies : List (Nat × Word)
  drainExc : List (Nat × Int)
  excSat : List Nat
  image : List Byte
  plan : Nat
  logs : List (Nat × ParityLog)
  descs : List Host.Cell
  hubQs : List (Nat × HubQ)
  hdlStage : List (Nat × Word)
  dirty : List (Nat × Bool)
  otpStage : List Host.Cell
  gates : List (Nat × Nat)
  suOut : List (Via × Nat × Word)
  arb : Option (Nat × Cmd)
  fetchOrder : List Cmd
  decoders : List (Nat × Decoder)
  gul : Gul
  lsOn : Lockstep
  hbs : List HbEntry
  snaps : List Snap
  saving : Option Snap
  planSel : Option Nat
  planChanged : Bool
  reconFailed : Bool
  hostStall : Bool
  lapSet : Nat
  excBase : List (Nat × Int)
  sides : List (Nat × Side)
  ringClk : RingClk
  power : Power
  bring : BringUp
  fuses : List (Nat × FuseGen)
  fw : Firmware
  dbg : Debug
  timeCtr : TimeCtr
  measure5 : BitVec 384
  cages : List (Nat × Bool)
  shifted : List (Nat × List Nat)
  authFails : Nat
  deriving DecidableEq, Repr

/-- Why a step stops with a fault: no rule of the spec stops the block, so no command raises one. -/
inductive Fault where
  /-- Raised by nobody: every fault of the spec is a report and a state change (R494). Safe. -/
  | none
  deriving DecidableEq, Repr

/-- Why a command has no meaning. -/
inductive Refusal where
  /-- Raised by an arm of exec that has no meaning yet. Safe: the machine stops where the hardware goes on. -/
  | notModelled (mnemonic : String)
  deriving DecidableEq, Repr

/-- The state at standby power-on (R17): every register at its reset value, memory with nothing listed. -/
def State.reset : State where
  pending := []
  freeCtr := 0
  regs := []
  mem := []
  upset := []
  tags := []
  ob := []
  obBad := []
  hostMem := []
  peerMem := []
  stages := []
  arrays := []
  stands := []
  ports := []
  rings := []
  sessions := []
  orphans := []
  reportSeq := 0
  mode := .none
  epoch := 1
  tainted := false
  taints := []
  taintCount := 0
  srKey := 0
  lapLen := 1
  traceEn := false
  traceFirst := 0
  traceLast := 0
  vtags := []
  links := []
  credits := []
  creditFly := []
  moves := []
  steers := []
  nodes := []
  seams := []
  memArrs := []
  taps := []
  svc := []
  svcResp := []
  svcGot := []
  svcId := 0
  mgmtIn := []
  waits := []
  dones := []
  xbar := []
  turns := []
  draining := false
  drainTallies := []
  drainExc := []
  excSat := []
  image := []
  plan := 0
  logs := []
  descs := []
  hubQs := []
  hdlStage := []
  dirty := []
  otpStage := []
  gates := []
  suOut := []
  arb := none
  fetchOrder := []
  decoders := []
  gul := .init
  lsOn := .init
  hbs := []
  snaps := []
  saving := none
  planSel := none
  planChanged := false
  reconFailed := false
  hostStall := false
  lapSet := 0
  excBase := []
  sides := []
  ringClk := ⟨false, none⟩
  power := ⟨0, false, [], false, false, false, false, [], [], [], false, [], []⟩
  bring := .init
  fuses := []
  fw := .init
  dbg := .init
  timeCtr := .init
  measure5 := 0
  cages := []
  shifted := []
  authFails := 0

end Sys2Proof.Machine
end

