-- ==== Sys2Proof/Machine/Status.lean ====
section
/-!
DEFINITION. The status values (R366, R383, R420, R439, R461, R490, R519, R547) and the kind of each.
-/

namespace Sys2Proof.Machine

def stDone : Status := 0x0000
def stStoredDense : Status := 0x0001
def stAbortNoEffect : Status := 0x0002
def stAborted : Status := 0x0003
def stAddrReserved : Status := 0x0100
def stAddrAlign : Status := 0x0101
def stHandleRange : Status := 0x0102
def stTagMode : Status := 0x0103
def stFmtReserved : Status := 0x0104
def stDescInvalid : Status := 0x0105
def stQueueFull : Status := 0x0106
def stRoleDenied : Status := 0x0107
def stBadState : Status := 0x0108
def stClockAboveCeiling : Status := 0x0109
def stCapAboveCeiling : Status := 0x010A
def stArrayBusy : Status := 0x010B
def stCvuBusy : Status := 0x010C
def stTallyBusy : Status := 0x010D
def stNotDrained : Status := 0x010E
def stSrcNotReady : Status := 0x010F
def stChildActive : Status := 0x0110
def stFuseExhausted : Status := 0x0111
def stSampleParam : Status := 0x0112
def stImageInvalid : Status := 0x0200
def stImageLap : Status := 0x0201
def stImagePorts : Status := 0x0202
def stImageAnchor : Status := 0x0203
def stImageAccKind : Status := 0x0204
def stImageNondet : Status := 0x0205
def stImageClock : Status := 0x0206
def stTopologyShort : Status := 0x0207
def stCheckMismatch : Status := 0x0300
def stGatherIndex : Status := 0x0301
def stPageInvalid : Status := 0x0302
def stSampleInvalid : Status := 0x0303
def stCxlTimeout : Status := 0x0304
def stCxlCompleterErr : Status := 0x0305
def stCxlLinkDown : Status := 0x0306
def stServiceTimeout : Status := 0x0307
def stNoServiceRoute : Status := 0x0308
def stStandFenced : Status := 0x0309
def stArrayFenced : Status := 0x030A
def stBlazeCorrupt : Status := 0x030B
def stHostHoldExpired : Status := 0x030C
def stAccLimit : Status := 0x0400
def stSparseIndex : Status := 0x0401
def stOperandParity : Status := 0x0402
def stArrayNoCompletion : Status := 0x0403
def stBatonOrder : Status := 0x0404
def stUncorrectable : Status := 0x0405
def stMeshParity : Status := 0x0406
def stMeshNoProgress : Status := 0x0407
def stSeamDead : Status := 0x0408
def stSessionQueued : Status := 0x0500
def stSessionActive : Status := 0x0501
def stSessionEndStop : Status := 0x0502
def stSessionEndMax : Status := 0x0503
def stSessionEndContext : Status := 0x0504
def stSessionCancelled : Status := 0x0505
def stSessionClosed : Status := 0x0506
def stSessionEvicted : Status := 0x0507
def stSessionUnloaded : Status := 0x0508
def stSessionBusy : Status := 0x0540
def stSessionFree : Status := 0x0541
def stSessionPort : Status := 0x0542
def stContextLimit : Status := 0x0543
def stAreaShort : Status := 0x0544
def stPoolShort : Status := 0x0545
def stTokenRange : Status := 0x0546
def stClockRange : Status := 0x0600
def stSrcLoop : Status := 0x0601
def stClkSourceLost : Status := 0x0602
def stRefLost : Status := 0x0603
def stCapRange : Status := 0x0610
def stCapFloor : Status := 0x0611
def stStandTripped : Status := 0x0612
def stThermalWarn : Status := 0x0613
def stCoolantWarn : Status := 0x0614
def stInputFault : Status := 0x0615
def stBringupDone : Status := 0x0700
def stStandbyShort : Status := 0x0701
def stStandsShort : Status := 0x0702
def stStandExcluded : Status := 0x0703
def stSeamNarrow : Status := 0x0704
def stFuseTestConflict : Status := 0x0705
def stCruiseMapInvalid : Status := 0x0706
def stRingSelftest : Status := 0x0707
def stWarmMismatch : Status := 0x0708
def stHeartbeatMissed : Status := 0x0710
def stNoPlan : Status := 0x0711
def stEpochUnavailable : Status := 0x0712
def stParityLogFull : Status := 0x0713
def stGroupUnprotected : Status := 0x0714
def stReconFailed : Status := 0x0715
def stLockstepMismatch : Status := 0x07F0
def stLockstepTimeout : Status := 0x07F1
def stPacerMismatch : Status := 0x07F2
def stScreenRange : Status := 0x07F3
def stFwInvalid : Status := 0x0800
def stFwKeyRevoked : Status := 0x0801
def stFwRollback : Status := 0x0802
def stFuseInvalid : Status := 0x0803
def stFuseProgramFail : Status := 0x0804
def stSecSelftest : Status := 0x0805
def stDebugDenied : Status := 0x0806
def stDebugOpen : Status := 0x0807
def stPpsLost : Status := 0x0808
def stTimeStep : Status := 0x0809
def stMgmtAuthFail : Status := 0x080A

/-- The kind of a status: 0 success, 1 refused, 2 ended after partial effect, 3 fault report (R366, R523). -/
def statusKind (s : Status) : Nat :=
  let v := s.toNat
  if (0x0000 ≤ v ∧ v ≤ 0x0002) ∨ (0x0500 ≤ v ∧ v ≤ 0x0504) ∨ v = 0x0506 ∨ v = 0x0700 then 0
  else if (0x0100 ≤ v ∧ v ≤ 0x0112) ∨ (0x0200 ≤ v ∧ v ≤ 0x0207) ∨ (0x0540 ≤ v ∧ v ≤ 0x0545) ∨ (0x0600 ≤ v ∧ v ≤ 0x0601) ∨ v = 0x0610 ∨ (0x0711 ≤ v ∧ v ≤ 0x0712) ∨ v = 0x07F3 ∨ (0x0800 ≤ v ∧ v ≤ 0x0803) ∨ v = 0x0806 then 1
  else if v = 0x0003 ∨ (0x0300 ≤ v ∧ v ≤ 0x030C) ∨ v = 0x0505 ∨ (0x0507 ≤ v ∧ v ≤ 0x0508) ∨ v = 0x0546 ∨ v = 0x0715 ∨ v = 0x0804 then 2
  else 3

end Sys2Proof.Machine
end

