-- ==== Sys2Proof/Machine/Ops.lean ====
section
/-!
DEFINITION. The named operations over registers and memory that every command's meaning is built from: reading and
writing a register and its fields (R14), the stand map (R24), the physical places of memory (R38, R267), the code of a
64-bit word (R32, R572), the ring's error record (R42), and reports (R348, R526, R573).
-/

namespace Sys2Proof.Machine

/-- The status that IOR_ERR_k counts (R42). -/
def errStatus (k : Nat) : Nat :=
  (#[0x0101, 0x0100, 0x0107, 0x010B, 0x0102, 0x0108, 0x010C, 0x010D, 0x0104, 0x0105, 0x030C, 0x0600, 0x0109, 0x010F,
    0x0601, 0x0110, 0x0610, 0x010A, 0x0603, 0x0308, 0x0307, 0x0309, 0, 0, 0, 0, 0, 0, 0, 0, 0, 0xFFFF].toList)[k]?.getD 0

/-- The index of the counter of a status (R42): its own, or 31. -/
def errIndex (st : Status) : Nat :=
  match (List.range 22).find? (fun k => errStatus k = st.toNat) with
  | some k => k
  | none => 31

/-- The reset value of the register at a canonical set-up address (R17): the reset column, with the values that depend
on the index (R42, R293) and on the fuses (R440, R462, R463, R548; log entry 2). -/
def regReset (k : Nat) : Word :=
  match regDescOf k with
  | none => 0
  | some d =>
    if suView k = 0 then
      if suClass k = 0 ∧ 0x100 ≤ suOff k ∧ suOff k < 0x200 then
        fldOf IorErr.status (errStatus ((suOff k - 0x100) / 8))
      else if k = ClkSlotCfg.key then BitVec.ofNat 64 Config.slotCeilKhz
      else if k = PwrCeiling.key ∨ k = PwrCap.key then
        BitVec.ofNat 64 (Config.powerCeilW * 2 ^ 32 + Config.powerCeilW)
      else d.reset
    else if suClass k = 1 ∧ 0x480 ≤ suOff k ∧ suOff k < 0x500 ∧ suOff k % 0x20 = 0 then
      let q := (suOff k - 0x100) / 0x20
      fldSet HubQCfg.mode (fldSet HubQCfg.cls (fldSet HubQCfg.index
        (fldSet HubQCfg.last (fldOf HubQCfg.first (896 + 32 * (q - 28))) (896 + 32 * (q - 28) + 31)) (q - 24)) 3) 3
    else if suClass k = 0 ∧ 0x340 ≤ suOff k ∧ suOff k < 0x380 then
      let w : Word := BitVec.ofNat 64 (ofBytesLE ((List.range 8).map (fun i => Config.factoryByte (0x1000 + suStand k * 64 +
        (suOff k - 0x340) + i))))
      if suOff k = 0x358 then w &&& 0xFFFFFFFFFFFF else w
    else d.reset

/-- The value of a register. -/
def rg (s : State) (k : Nat) : Word := smapGet regReset s.regs k

/-- Set a register whole. -/
def rput (k : Nat) (w : Word) (s : State) : State := { s with regs := smapSet regReset s.regs k w }

/-- The value of a field of a register. -/
def rf (s : State) (k : Nat) (f : Fld) : Nat := fldGet f (rg s k)

/-- Set a field of a register. -/
def rfput (k : Nat) (f : Fld) (v : Nat) (s : State) : State := rput k (fldSet f (rg s k) v) s

/-- Add to a field that saturates. -/
def rfsat (k : Nat) (f : Fld) (n : Nat) (s : State) : State := rfput k f (satAdd (fldMax f) (rf s k f) n) s

/-- Add to a field modulo its width. -/
def rfadd (k : Nat) (f : Fld) (n : Nat) (s : State) : State := rfput k f (rf s k f + n) s

/-- Return a register to its reset value. -/
def rreset (k : Nat) (s : State) : State := rput k (regReset k) s

/-- The physical indices that name a stand (R40). -/
def isPhys (p : Nat) : Bool := decide (p < 64) && p != 0 && p != 7 && p != 56 && p != 63

/-- The physical indices of the 60 stands, ascending. -/
def physList : List Nat := (List.range 64).filter isPhys

/-- The role of a physical stand (R24): 1 in service, 2 standby, 3 fenced, 4 excluded, 5 tripped. -/
def roleOf (s : State) (p : Nat) : Nat := rf s (IorStandMap.key p) IorStandMap.role

/-- The logical number of a physical stand, 0xFF for none (R24). -/
def logicalOf (s : State) (p : Nat) : Nat := rf s (IorStandMap.key p) IorStandMap.logical

/-- The physical stand that bears a logical number (R22, R24). -/
def physOf (s : State) (l : Nat) : Option Nat := physList.find? (fun p => logicalOf s p = l && decide (l < 56))

/-- The physical stand in service under a logical number. -/
def inService (s : State) (l : Nat) : Option Nat :=
  match physOf s l with
  | some p => if roleOf s p = 1 then some p else none
  | none => none

/-- The in-service physical stands, ascending. -/
def servicePhys (s : State) : List Nat := physList.filter (fun p => roleOf s p = 1)

/-- The key of an array of a physical stand, of a stage of it, and of a node (R40). -/
def arrKey (p a : Nat) : Nat := p * 4096 + a
def stgKey (p a st : Nat) : Nat := (p * 4096 + a) * 8 + st
def arrIdx (x y : Nat) : Nat := y * 64 + x

/-- The memory key of a byte of core memory or of a memory array (the SRAM window of R38 by physical index). -/
def sramKey (p a off : Nat) : Nat := 2 ^ 47 + p * 2 ^ 31 + a * 2 ^ 19 + off

/-- The bytes of a DRAM slice (R267). -/
def sliceBytes : Nat := 0x28000000

/-- The memory key of a byte of DRAM. -/
def dramKey (p sl off : Nat) : Nat := (p * 64 + sl) * sliceBytes + off

/-- What an unlisted byte of memory reads as (log entry 1). -/
def memDflt (_ : Nat) : Byte := 0

/-- The initial tag of an unlisted slot: EMPTY (log entry 3). -/
def tagDflt (_ : Nat) : Bool := false

/-- No error pattern. -/
def upsetDflt (_ : Nat) : BitVec 80 := 0

/-- One byte of memory as written. -/
def memByte (s : State) (k : Nat) : Byte := smapGet memDflt s.mem k

/-- g(x) of R32, of degree 15: (x + 1) (x^7 + x^3 + 1) (x^7 + x^3 + x^2 + x + 1). -/
def bchGen : Nat := 0xC599

/-- The remainder of an 80-bit polynomial divided by g(x), from bit i downward. -/
def bchRem : Nat → Nat → Nat
  | 0, v => v
  | i + 1, v => bchRem i (if natBit v (i + 15) then Nat.xor v (bchGen * 2 ^ i) else v)

/-- The syndrome of an error pattern: position j is the coefficient of x^j, data bit i being position 16 + i; position 15
tells that the A of the read's address is not the A that the word was written with (R32). -/
def syndrome (e : Nat) : Nat := bchRem 65 e

/-- The error pattern of weight at most two with a given syndrome, if any (R32). -/
def bchFind (sy : Nat) : Option Nat :=
  if sy = 0 then some 0
  else
    match (List.range 80).find? (fun i => syndrome (2 ^ i) = sy) with
    | some i => some (2 ^ i)
    | none =>
      ((List.range 80).findSome? (fun i =>
        ((List.range i).find? (fun j => Nat.xor (syndrome (2 ^ i)) (syndrome (2 ^ j)) = sy)).map
          (fun j => 2 ^ i + 2 ^ j)))

/-- What a read of a 64-bit word finds (R32): the change of its data bits and whether it was corrected; none when the
word is uncorrectable. -/
def eccRead (e : BitVec 80) : Option (Nat × Bool) :=
  if e = 0 then some (0, false)
  else
    let v := e.toNat
    match bchFind (syndrome v) with
    | none => none
    | some f => if natBit f 15 then none else some (Nat.xor v f / 2 ^ 16, decide (f ≠ 0))

/-- A of a device address: the even parity of its bits 47 to 3 (R32). -/
def addrParity (addr : Nat) : Bool := (List.range 45).foldl (fun b i => xor b (natBit addr (3 + i))) false

/-- The word of an index is now read at an address of another A than it was written with. -/
def flipParity (w : Nat) (s : State) : State :=
  { s with upset := smapSet upsetDflt s.upset w (smapGet upsetDflt s.upset w ^^^ BitVec.ofNat 80 (2 ^ 15)) }

/-- The 64-bit words that memory lists, by index. -/
def listedWords (s : State) : List Nat := (s.mem.map (fun c => c.1 / 8)).dedup

/-- A read of the 64-bit word that holds memory key k (R32): its value as delivered and whether it was corrected. -/
def readWord (s : State) (k : Nat) : Option (Word × Bool) :=
  let w := k / 8
  let d := BitVec.ofNat 64 (ofBytesLE (smapGetMany memDflt s.mem (8 * w) 8))
  (eccRead (smapGet upsetDflt s.upset w)).map (fun (x, c) => (d ^^^ BitVec.ofNat 64 x, c))

/-- Read `n` words from word index w: their values, how many were corrected, or the first uncorrectable word. -/
def readWords (s : State) : Nat → Nat → Except Nat (List Word × Nat)
  | _, 0 => .ok ([], 0)
  | w, n + 1 =>
    match readWord s (8 * w) with
    | none => .error (8 * w)
    | some (d, c) =>
      match readWords s (w + 1) n with
      | .error k => .error k
      | .ok (ds, m) => .ok (d :: ds, m + (if c then 1 else 0))

/-- Read a span of bytes through its words. -/
def readBytes (s : State) (k n : Nat) : Except Nat (List Byte × Nat) :=
  let w0 := k / 8
  let w1 := (k + n + 7) / 8
  (readWords s w0 (w1 - w0)).map (fun (ds, c) =>
    (((ds.flatMap (fun d => bytesLE 8 d.toNat)).drop (k - 8 * w0)).take n, c))

/-- Write bytes at a key with fresh check bits in every word touched. -/
def writeRaw (k : Nat) (bs : List Byte) (s : State) : State :=
  let w0 := k / 8
  let w1 := (k + bs.length + 7) / 8
  { s with
    mem := smapSetMany memDflt s.mem k bs
    upset := smapKeep (fun w => decide (w < w0 ∨ w1 ≤ w)) s.upset }

/-- The first word of a partial write that would have to be merged and is uncorrectable (R572). -/
def mergeFault (s : State) (k n : Nat) : Option Nat :=
  let lo := k / 8
  let hi := (k + n - 1) / 8
  let bad (w : Nat) : Bool := (readWord s (8 * w)).isNone
  if n = 0 then none
  else if k % 8 ≠ 0 ∧ bad lo then some (8 * lo)
  else if (k + n) % 8 ≠ 0 ∧ bad hi then some (8 * hi)
  else none

/-- Write bytes, merging partly covered words through their code (R572). The word at each end is first written as its
read delivers it. -/
def writeBytes (k : Nat) (bs : List Byte) (s : State) : State :=
  let fix (w : Nat) (s : State) : State := match readWord s (8 * w) with
    | some (d, true) => writeRaw (8 * w) (bytesLE 8 d.toNat) s
    | _ => s
  if bs.length = 0 then s
  else writeRaw k bs (fix ((k + bs.length - 1) / 8) (fix (k / 8) s))

/-- The sixteen lane words of a 64-byte vector (R77), and a vector from its words. -/
def vecLane (v : Vec) (l : Nat) : Lane := (v >>> (32 * l)).setWidth 32
def ofLanes (ls : List Lane) : Vec :=
  BitVec.ofNat 512 ((ls.zip (List.range 16)).foldl (fun a (w, i) => a + w.toNat * 2 ^ (32 * i)) 0)
def vecBytes (v : Vec) : List Byte := bytesLE 64 v.toNat
def ofVecBytes (bs : List Byte) : Vec := BitVec.ofNat 512 (ofBytesLE bs)
/-- The same word in every lane. -/
def allLanes (w : Lane) : List Lane := List.replicate 16 w

/-- The slot key of core-memory slot n (the SRAM key divided by 64). -/
def slotKey (p a n : Nat) : Nat := sramKey p a 0 / 64 + n

/-- The tag of a slot (R169). -/
def tagOf (s : State) (k : Nat) : Bool := smapGet tagDflt s.tags k

/-- Set a slot's tag: true is FULL. -/
def setTag (k : Nat) (b : Bool) (s : State) : State := { s with tags := smapSet tagDflt s.tags k b }

/-- Count an event in the ring's error record (R42): the counter of its status, LAST, SEQ and ADDR. Sources: 0 ring,
1 to 4 CXL ports, 5 and 6 management ports, 7 a stand, 8 the debug port. -/
def countErr (st : Status) (src phys addr : Nat) (s : State) : State :=
  let s1 := rfsat (IorErr.key (errIndex st)) IorErr.count 1 s
  let w := fldSet IorErrLast.status (fldSet IorErrLast.source (fldSet IorErrLast.phys
    (fldOf IorErrLast.seq (rf s IorErrLast.key IorErrLast.seq + 1)) phys) src) st.toNat
  rput IorErrAddr.key (fldOf IorErrAddr.addr addr) (rput IorErrLast.key w s1)

/-- LOCATION in the unit form (R347). -/
def locUnit (logical phys arr stage entry lane tail : Nat) : Word :=
  BitVec.ofNat 64 (logical % 256 * 2 ^ 48 + phys % 256 * 2 ^ 40 + arr % 4096 * 2 ^ 28 + stage % 16 * 2 ^ 24 +
    entry % 16 * 2 ^ 20 + lane % 16 * 2 ^ 16 + tail % 2 ^ 16)

/-- LOCATION of no unit: logical stand 0xFF. -/
def locNone : Word := locUnit 0xFF 0 0 0 0 0 0

/-- LOCATION of a stand. -/
def locStand (s : State) (p : Nat) : Word := locUnit (logicalOf s p) p 0 0 0 0 0

/-- What an unlisted port, ring, session and stand is. -/
def portDflt (_ : Nat) : Port := .init
def ringDflt (_ : Nat) : CRing := .init
def sessDflt (_ : Nat) : Option Session := none
def standDflt (_ : Nat) : Stand := .init
def stageDflt (_ : Nat) : Stage := .init
def arrDflt (_ : Nat) : CArray := .init

def portOf (s : State) (p : Nat) : Port := smapGet portDflt s.ports p
def putPort (p : Nat) (v : Port) (s : State) : State := { s with ports := smapSet portDflt s.ports p v }
def ringOf (s : State) (p r : Nat) : CRing := smapGet ringDflt s.rings (p * 64 + r)
def putRing (p r : Nat) (v : CRing) (s : State) : State := { s with rings := smapSet ringDflt s.rings (p * 64 + r) v }
def standOf (s : State) (p : Nat) : Stand := smapGet standDflt s.stands p
def putStand (p : Nat) (v : Stand) (s : State) : State := { s with stands := smapSet standDflt s.stands p v }
def stageOf (s : State) (k : Nat) : Stage := smapGet stageDflt s.stages k
def putStage (k : Nat) (v : Stage) (s : State) : State := { s with stages := smapSet stageDflt s.stages k v }
def arrOf (s : State) (k : Nat) : CArray := smapGet arrDflt s.arrays k
def putArr (k : Nat) (v : CArray) (s : State) : State := { s with arrays := smapSet arrDflt s.arrays k v }

/-- A session of a management port: protocol 0 Redfish, 1 record protocol, 2 boot session (R521, R530). -/
def sessKey (mport proto idx : Nat) : Nat := mport * 16 + proto * 4 + idx
def sessOf (s : State) (k : Nat) : Option Session := smapGet sessDflt s.sessions k
def putSess (k : Nat) (v : Option Session) (s : State) : State := { s with sessions := smapSet sessDflt s.sessions k v }

/-- Write bytes to host memory through a port (R347, R348). -/
def hostWrite (addr : Nat) (bs : List Byte) (s : State) : State :=
  { s with hostMem := smapSetMany memDflt s.hostMem addr bs }

/-- The entries of a ring of a configuration register: 2^LOG2_ENTRIES, held within 4 to 16 (R372). -/
def ringEntries (cfg : Word) : Nat := 2 ^ max 4 (min 16 (fldGet RingCfg.log2Entries cfg))

/-- The host address of a ring (R371). -/
def ringAddr (base : Word) : Nat := fldGet RingBase.addr base * 4096

/-- The 64 bytes of an event record (R348). -/
def reportBytes (phase lost : Bool) (r : Report) : List Byte :=
  bytesLE 2 r.status.toNat ++
  [BitVec.ofNat 8 ((if phase then 1 else 0) + (if r.taint then 2 else 0) + (if lost then 4 else 0)), r.source] ++
  bytesLE 4 r.seq.toNat ++ bytesLE 8 r.time.toNat ++ bytesLE 8 r.location.toNat ++ bytesLE 8 r.epoch.toNat ++
  bytesLE 8 r.addr.toNat ++ bytesAt r.data 0 24

def msixDflt (_ : Nat) : MsixVector := .init

/-- The pending vectors of a function that may send now (R336): MSI-X is enabled and neither the function nor the vector is
masked. -/
def msixSend (m : Msix) : Msix :=
  let may (v : Nat) : Bool := m.enable && !m.maskAll && !(smapGet msixDflt m.table v).masked
  { m with pending := m.pending.filter (fun v => !may v), sent := m.sent ++ m.pending.filter may }

/-- Raise an MSI-X vector of a port (R336, R347): its message is sent, or it is pending while it is masked. -/
def raiseIrq (p v : Nat) (s : State) : State :=
  let q := portOf s p
  putPort p { q with msix := msixSend { q.msix with pending := if q.msix.pending.contains v then q.msix.pending else q.msix.pending ++ [v] } } s

/-- The copy of a report in a port's event ring (R348): written where the ring is enabled, with LOST after a drop;
counted in EVENTS_LOST where the ring is full. -/
def eventCopy (r : Report) (p : Nat) (s : State) : State :=
  let cfg := rg s (evqCfgKey p)
  if fldGet RingCfg.enable cfg = 0 then s
  else
    let q := portOf s p
    let n := ringEntries cfg
    let nxt := (q.evq.pos + 1) % n
    if n ≤ q.evq.used then
      rfsat (IorPortCount.key p) IorPortCount.eventsLost 1 (putPort p { q with evq := { q.evq with lost := true } } s)
    else
      let s := hostWrite (ringAddr (rg s (evqBaseKey p)) + 64 * q.evq.pos) (reportBytes q.evq.phase q.evq.lost r) s
      let e : EvRing := ⟨nxt, q.evq.head, q.evq.used + 1, if nxt = 0 then !q.evq.phase else q.evq.phase, false⟩
      let s := putPort p { q with evq := e } s
      if fldGet RingCfg.irqEn cfg = 1 then raiseIrq p 64 s else s

/-- Append to a backlog of at most 65,536 reports, dropping the oldest (R526). -/
def backlogPush (v : Session) (r : Report) : Session :=
  if v.backlog.length < 65536 then { v with backlog := v.backlog ++ [r] }
  else { v with backlog := v.backlog.drop 1 ++ [r], lost := true }

/-- Give a report to every session that subscribes to a kind (R526). -/
def sessionGets (kind : Nat) (r : Report) (m : List (Nat × Option Session)) : List (Nat × Option Session) :=
  m.map (fun (k, v) => (k, v.map (fun x => if natBit x.kinds.toNat kind then backlogPush x r else x)))

/-- Give a report to every session that subscribes to its status's kind (R526). -/
def sessionCopies (r : Report) (m : List (Nat × Option Session)) : List (Nat × Option Session) :=
  sessionGets (statusKind r.status) r m

/-- The value of the time counter (R545). -/
def timeNow (s : State) : Word := rg s ClkTime.key

/-- Send a report (R348, R526): to every subscribed session, and a copy to each port's event ring. The source is 0 the
ring, 1 a stand, 2 a port. -/
def report (st : Status) (taint : Bool) (src : Nat) (loc addr : Word) (data : List Byte) (s : State) : State :=
  let r : Report := ⟨st, taint, BitVec.ofNat 8 src, s.reportSeq, timeNow s, loc, BitVec.ofNat 64 s.epoch, addr, data⟩
  let s := { s with reportSeq := s.reportSeq + 1, sessions := sessionCopies r s.sessions }
  eventCopy r 3 (eventCopy r 2 (eventCopy r 1 (eventCopy r 0 s)))

/-- Send the report of a refusal (R461): to the sessions that subscribe to refusals, whatever kind its status is elsewhere. -/
def reportRefusal (st : Status) (loc : Word) (data : List Byte) (s : State) : State :=
  { report st false 0 loc 0 data s with
    sessions := sessionGets 1 ⟨st, false, 0, s.reportSeq, timeNow s, loc, BitVec.ofNat 64 s.epoch, 0, data⟩ s.sessions }

/-- Mark the current blaze epoch tainted, with the status and the memory address concerned, 0 where the event has none: the
list holds the first 32 events (R497). -/
def taint (st : Status) (addr : Word) (s : State) : State :=
  { s with tainted := true, taints := (s.taints ++ [(st, addr)]).take 32, taintCount := s.taintCount + 1 }

/-- A completion later than STALL_US counts in STALLS and in the epoch stall count of its port, and marks the epoch (R363). -/
def noteStall (p : Nat) (s : State) : State :=
  putPort p { portOf s p with epochStalls := (portOf s p).epochStalls + 1 }
    (rfsat (IorPortCount.key p) IorPortCount.stalls 1 { s with hostStall := true })

/-- Draw a fresh free value (log entry 4). -/
def draw (s : State) : Word × State := (Config.freeWord s.freeCtr, { s with freeCtr := s.freeCtr + 1 })

end Sys2Proof.Machine
end

