-- ==== Sys2Proof/Machine/Image.lean ====
section
/-!
DEFINITION. The Zikesol image as a byte string: header and section table (R354), the section types (R355), register
lists (R356) and what the loaded image declares: DRAM classes (R503), slot classes (R186), the blaze area (R499), drain
points (R358), heartbeats (R495) and the service section.
-/

namespace Sys2Proof.Machine

def imgMagic (b : List Byte) : Nat := numAt b 0 4
def imgVersion (b : List Byte) : Nat := numAt b 4 2
def imgLength (b : List Byte) : Nat := numAt b 8 8
def imgId (b : List Byte) : Nat := numAt b 16 8
def imgClock (b : List Byte) : Nat := numAt b 24 4
def imgP (b : List Byte) : Nat := numAt b 28 1
def imgInterleave (b : List Byte) : Nat := numAt b 29 1
def imgGranule (b : List Byte) : Nat := numAt b 30 1
def imgSrKey (b : List Byte) : Nat := numAt b 32 8
def imgSections (b : List Byte) : Nat := numAt b 44 4
def imgCheck (b : List Byte) : Nat := numAt b 48 4

/-- A section of an image: type, flags, extent and target (R354). -/
structure Section where
  type : Nat
  flags : Nat
  off : Nat
  len : Nat
  target : Nat
  deriving DecidableEq, Repr

/-- Section k of the table. -/
def imgSection (b : List Byte) (k : Nat) : Section :=
  let o := 64 + 32 * k
  ⟨numAt b o 2, numAt b (o + 2) 2, numAt b (o + 8) 8, numAt b (o + 16) 8, numAt b (o + 24) 8⟩

/-- The sections in table order. -/
def imgSectionList (b : List Byte) : List Section := (List.range (imgSections b)).map (imgSection b)

/-- The sections of one type. -/
def imgOfType (b : List Byte) (t : Nat) : List Section := (imgSectionList b).filter (fun x => x.type = t)

/-- The bytes of a section. -/
def secBytes (b : List Byte) (x : Section) : List Byte := bytesAt b x.off x.len

/-- The `w`-byte entries of a section. -/
def secEntries (b : List Byte) (x : Section) (w : Nat) : List (List Byte) :=
  (List.range (x.len / w)).map (fun i => bytesAt b (x.off + w * i) w)

/-- All entries of the sections of a type. -/
def imgEntries (b : List Byte) (t w : Nat) : List (List Byte) := (imgOfType b t).flatMap (fun x => secEntries b x w)

/-- The register list of a section (R356): addresses by logical number, and values. -/
def regList (b : List Byte) (x : Section) : List (Nat × Word) :=
  (secEntries b x 16).map (fun e => (numAt e 0 8, BitVec.ofNat 64 (numAt e 8 8)))

/-- The register lists of the base configuration, in table order (R355). -/
def imgConfig (b : List Byte) : List (Nat × Word) := (imgOfType b 1).flatMap (regList b)

/-- The register list of a plan's alternative set, and of a parity set (R355). -/
def imgPlan (b : List Byte) (plan : Nat) : List (Nat × Word) :=
  ((imgOfType b 2).filter (fun x => x.target = plan)).flatMap (regList b)
def imgParity (b : List Byte) (plan : Nat) : List (Nat × Word) :=
  ((imgOfType b 3).filter (fun x => x.target = plan)).flatMap (regList b)

/-- The plan numbers that have an alternative set. -/
def imgPlans (b : List Byte) : List Nat := (imgOfType b 2).map (·.target)

/-- The CHECK of an image (R354): CRC-32C over the whole image with CHECK taken as 0, after a fold of IMAGE_ID: the
eight bytes of IMAGE_ID are fed first (R298). -/
def imgCrc (b : List Byte) : Nat :=
  crcResult crc32cParams (crcFeed crc32cParams crc32cParams.init
    (bytesAt b 16 8 ++ b.take 48 ++ List.replicate 4 0 ++ b.drop 52))

/-- A region that the image declares (R355, R503): base, length, class 0 read-only, 1 mutable protected, 2 scratch. -/
structure Region where
  base : Nat
  len : Nat
  cls : Nat
  deriving DecidableEq, Repr

def imgRegions (b : List Byte) : List Region :=
  (imgEntries b 7 24).map (fun e => ⟨numAt e 0 8, numAt e 8 8, numAt e 16 1⟩)

/-- The class of a device address: 3 outside every region. -/
def regionClass (b : List Byte) (addr : Nat) : Nat :=
  match (imgRegions b).find? (fun r => decide (r.base ≤ addr ∧ addr < r.base + r.len)) with
  | some r => r.cls
  | none => 3

/-- The blaze area's three values, when the image takes blazes (R499). -/
def imgBlaze (b : List Byte) : Option (Nat × Nat × Nat) :=
  ((imgOfType b 9).head?).map (fun x => (numAt b x.off 8, numAt b (x.off + 8) 8, numAt b (x.off + 16) 8))

/-- FIRST and PERIOD of the drain points, in laps (R358). -/
def imgDrain (b : List Byte) : Option (Nat × Nat) :=
  ((imgOfType b 10).head?).map (fun x => (numAt b x.off 8, numAt b (x.off + 8) 8))

/-- A slot-class entry (R355): logical stand, array index, first and last slot, class. -/
def imgSlotClasses (b : List Byte) : List (Nat × Nat × Nat × Nat × Nat) :=
  (imgEntries b 8 8).map (fun e =>
    let w := numAt e 0 8
    (natBits w 17 12, arrIdx (natBits w 5 0) (natBits w 11 6), natBits w 30 18, natBits w 43 31, natBits w 45 44))

/-- An SRAM-window range as pieces of one array's addresses each (R38): behind the 512 KiB of a memory array come the
addresses of the next array. Each piece with its offset in the range. -/
def sramPieces (a n : Nat) : List (Nat × Nat × Nat) :=
  let k := min n (0x80000 - a % 0x80000)
  (a, k, 0) :: (if k < n then [(a + k, n - k, k)] else [])

/-- An SRAM_INIT section covers slots of an array, or of two (R355): (logical stand, array, first slot, slots, constant). -/
def imgSramInits (b : List Byte) : List (Nat × Nat × Nat × Nat × Bool) :=
  (imgOfType b 4).flatMap (fun x => (sramPieces x.target x.len).map (fun (a, n, _) =>
    (natBits a 36 31, arrIdx (natBits a 24 19) (natBits a 30 25), natBits a 18 0 / 64, (n + 63) / 64, natBit x.flags 0)))

/-- The class of a memory-array slot (R186, R355): SLOT_CLASS, else SRAM_INIT, else scratch. -/
def slotClass (b : List Byte) (lg a slot : Nat) : Nat :=
  match (imgSlotClasses b).find? (fun (l, x, f, t, _) => l = lg ∧ x = a ∧ f ≤ slot ∧ slot ≤ t) with
  | some (_, _, _, _, c) => c
  | none =>
    match (imgSramInits b).find? (fun (l, x, f, n, _) => l = lg ∧ x = a ∧ f ≤ slot ∧ slot < f + n) with
    | some (_, _, _, _, true) => 0
    | some _ => 1
    | none => 2

/-- The service section (R355, R376). -/
structure Service where
  maxSessions : Nat
  bMax : Nat
  prefillMax : Nat
  bpp : Nat
  streams : Nat
  maxContext : Nat
  v : Nat
  lfmt : Nat
  blazeEvery : Nat
  poolBase : Nat
  poolLength : Nat
  ptBase : Nat
  deriving DecidableEq, Repr

def imgService (b : List Byte) : Option Service :=
  ((imgOfType b 12).head?).map (fun x =>
    let f (o n : Nat) := numAt b (x.off + o) n
    ⟨f 0 2, f 2 2, f 4 4, f 8 4, f 12 4, f 16 4, f 20 4, f 24 1, f 26 2, f 32 8, f 40 8, f 48 8⟩)

/-- The heartbeat table (R495): logical stand, array, tally, period. -/
def imgHeartbeats (b : List Byte) : List (Nat × Nat × Nat × Nat) :=
  (imgEntries b 11 8).map (fun e =>
    let w := numAt e 0 8
    (natBits w 17 12, arrIdx (natBits w 5 0) (natBits w 11 6), natBits w 33 18, natBits w 49 34))

/-- Is an image loaded? -/
def hasImage (s : State) : Bool := !s.image.isEmpty

end Sys2Proof.Machine
end

