-- ==== Sys2Proof/Machine/Flags.lean ====
section
/-!
DEFINITION. The arithmetic flags of a stage (R75) as the low eight bits of CA_ARITH_FLAGS_s, and the conversion of an
exact value to a target format: rounding (R57, R58), overflow, tininess after rounding and the flags each raises
(R54, R56).
-/

namespace Sys2Proof.Machine

/-- The eight sticky flag bits of CA_ARITH_FLAGS_s (R75). -/
abbrev FlagBits := BitVec 8

def flNone : FlagBits := 0
def flInvalid : FlagBits := 1
def flDivzero : FlagBits := 2
def flOverflow : FlagBits := 4
def flUnderflow : FlagBits := 8
def flInexact : FlagBits := 16
def flRange : FlagBits := 64
def flTrunc : FlagBits := 128

/-- A flag when a condition holds. -/
def flIf (c : Bool) (f : FlagBits) : FlagBits := if c then f else flNone

/-- A value read from a format: a NaN, an infinity, or (−1)^neg × m × 2^e. -/
inductive FVal where
  | nan (signalling : Bool)
  | inf (neg : Bool)
  | fin (neg : Bool) (m : Nat) (e : Int)
  deriving DecidableEq, Repr

/-- How a floating-point format spells infinities and NaNs (R46). -/
inductive Specials where
  | ieee
  | nanOnly
  | none
  deriving DecidableEq, Repr

/-- A floating-point element format (R46): exponent and mantissa width, bias, specials, and its largest finite
magnitude maxN × 2^maxQ. -/
structure FloatFmt where
  eb : Nat
  mb : Nat
  bias : Int
  sp : Specials
  maxN : Nat
  maxQ : Int
  deriving DecidableEq, Repr

def fmtFP32 : FloatFmt := ⟨8, 23, 127, .ieee, 2 ^ 24 - 1, 104⟩
def fmtBF16 : FloatFmt := ⟨8, 7, 127, .ieee, 2 ^ 8 - 1, 120⟩
def fmtFP16 : FloatFmt := ⟨5, 10, 15, .ieee, 2 ^ 11 - 1, 5⟩
def fmtE4M3 : FloatFmt := ⟨4, 3, 7, .nanOnly, 14, 5⟩
def fmtE5M2 : FloatFmt := ⟨5, 2, 15, .ieee, 7, 13⟩
def fmtE3M2 : FloatFmt := ⟨3, 2, 3, .none, 7, 2⟩
def fmtE2M3 : FloatFmt := ⟨2, 3, 1, .none, 15, -1⟩
def fmtE2M1 : FloatFmt := ⟨2, 1, 1, .none, 3, 1⟩

/-- The element format of a format code (R44), for the floating-point codes and the MX codes over them. -/
def floatFmtOf (f : Nat) : Option FloatFmt :=
  if f = 0 then some fmtFP32 else if f = 1 then some fmtBF16 else if f = 2 then some fmtFP16
  else if f = 3 ∨ f = 0x0A then some fmtE4M3 else if f = 4 ∨ f = 0x0B then some fmtE5M2
  else if f = 5 ∨ f = 0x0C then some fmtE3M2 else if f = 6 ∨ f = 0x0D then some fmtE2M3
  else if f = 7 ∨ f = 0x0E then some fmtE2M1 else Option.none

/-- The width of an integer format code (R47): INT8 and MXINT8, INT4, INT32. -/
def intWidthOf (f : Nat) : Option Nat :=
  if f = 8 ∨ f = 0x0F then some 8 else if f = 9 then some 4 else if f = 0x10 then some 32 else Option.none

/-- The width of an element (R44). -/
def fmtWidth (f : Nat) : Nat :=
  match floatFmtOf f with
  | some g => 1 + g.eb + g.mb
  | Option.none => match intWidthOf f with
    | some w => w
    | Option.none => 8

/-- Is the code an MX format (R44)? -/
def fmtIsMX (f : Nat) : Bool := 0x0A ≤ f && f ≤ 0x0F

/-- Decode a floating-point element (R46). -/
def decodeFloat (g : FloatFmt) (v : Nat) : FVal :=
  let m := v % 2 ^ g.mb
  let e := v / 2 ^ g.mb % 2 ^ g.eb
  let s := natBit v (g.eb + g.mb)
  let top := e = 2 ^ g.eb - 1
  match g.sp with
  | .ieee =>
    if top then (if m = 0 then .inf s else .nan (!natBit m (g.mb - 1)))
    else if e = 0 then .fin s m (1 - g.bias - g.mb) else .fin s (2 ^ g.mb + m) (e - g.bias - g.mb)
  | .nanOnly =>
    if top ∧ m = 2 ^ g.mb - 1 then .nan false
    else if e = 0 then .fin s m (1 - g.bias - g.mb) else .fin s (2 ^ g.mb + m) (e - g.bias - g.mb)
  | .none => if e = 0 then .fin s m (1 - g.bias - g.mb) else .fin s (2 ^ g.mb + m) (e - g.bias - g.mb)

/-- Decode an element of a format code (R46, R47); an element of MXINT8 is an INT8 × 2^−6 (R49). -/
def decodeElem (f v : Nat) : FVal :=
  match floatFmtOf f with
  | some g => decodeFloat g v
  | Option.none =>
    let i := natSigned (fmtWidth f) v
    .fin (decide (i < 0)) i.natAbs (if f = 0x0F then -6 else 0)

/-- Is the value a NaN? -/
def FVal.isNan : FVal → Bool
  | .nan _ => true
  | _ => false

/-- Is the value a signalling NaN? -/
def FVal.isSNan : FVal → Bool
  | .nan s => s
  | _ => false

/-- floor (log2 m) for m > 0. -/
def lg (m : Nat) : Nat := Nat.log2 m

/-- m × 2^e as a multiple of 2^q with q ≤ e. -/
def shiftUp (m : Nat) (e q : Int) : Nat := m * 2 ^ (e - q).toNat

/-- Does the magnitude low / 2^sh above its lower neighbour `n` round up (R57, R58)? `r` is the random word of SRS and
SRE. An RMODE of 0b110 or 0b111, which only a set-up write after the load can leave, rounds as stochastic with the
random word 0 (DESIGN CHOICE, log entry 106). -/
def roundsUp (rm : Nat) (neg : Bool) (n low sh r : Nat) : Bool :=
  if low = 0 then false
  else if rm = 0 then decide (2 ^ sh < 2 * low) || (decide (2 * low = 2 ^ sh) && decide (n % 2 = 1))
  else if rm = 1 then false
  else if rm = 2 then !neg
  else if rm = 3 then neg
  else if neg then !decide (r < (2 ^ sh - low) * 2 ^ 32 / 2 ^ sh)
  else decide (r < low * 2 ^ 32 / 2 ^ sh)

/-- m × 2^e rounded to an integer multiple of 2^q, with whether it changed (R57, R58). -/
def roundAt (rm : Nat) (neg : Bool) (m : Nat) (e q : Int) (r : Nat) : Nat × Bool :=
  if q ≤ e then (shiftUp m e q, false)
  else
    let sh := (q - e).toNat
    let n := m / 2 ^ sh
    let low := m % 2 ^ sh
    (if roundsUp rm neg n low sh r then n + 1 else n, decide (low ≠ 0))

/-- Compare m × 2^e with n × 2^q. -/
def magLt (m : Nat) (e : Int) (n : Nat) (q : Int) : Bool :=
  let b := min e q
  decide (shiftUp m e b < shiftUp n q b)

/-- The bits of a finite magnitude n × 2^q of a format, with n below 2^(mb + 1) or exactly 2^(mb + 1). -/
def encodeFin (g : FloatFmt) (neg : Bool) (n : Nat) (q : Int) : Nat :=
  let (n, q) := if n = 2 ^ (g.mb + 1) then (2 ^ g.mb, q + 1) else (n, q)
  let s := if neg then 2 ^ (g.eb + g.mb) else 0
  if n < 2 ^ g.mb then s + n
  else s + (q + g.mb + g.bias).toNat * 2 ^ g.mb + (n - 2 ^ g.mb)

/-- The largest finite magnitude with a sign. -/
def encodeMax (g : FloatFmt) (neg : Bool) : Nat := encodeFin g neg g.maxN g.maxQ

/-- An infinity with a sign. -/
def encodeInf (g : FloatFmt) (neg : Bool) : Nat :=
  (if neg then 2 ^ (g.eb + g.mb) else 0) + (2 ^ g.eb - 1) * 2 ^ g.mb

/-- The canonical NaN (R55): the quiet bit of an IEEE format, 0x7F in E4M3. -/
def encodeNan (g : FloatFmt) : Nat :=
  match g.sp with
  | .ieee => (2 ^ g.eb - 1) * 2 ^ g.mb + 2 ^ (g.mb - 1)
  | .nanOnly => 2 ^ (g.eb + g.mb) - 1
  | .none => 0

/-- The overflow result of a finite value beyond max (R56, R58): infinity or max by the rounding direction. -/
def overflowResult (g : FloatFmt) (rm : Nat) (sat neg : Bool) : Nat × FlagBits :=
  match g.sp with
  | .ieee =>
    let toMax := sat || rm = 1 || (rm = 2 && neg) || (rm = 3 && !neg)
    (if toMax then encodeMax g neg else encodeInf g neg, flOverflow ||| flInexact)
  | .nanOnly => (if sat then encodeMax g neg else encodeNan g, flOverflow)
  | .none => (encodeMax g neg, flOverflow)

/-- Round a finite non-zero value to a floating-point format (R56). -/
def roundFloat (g : FloatFmt) (rm : Nat) (sat neg : Bool) (m : Nat) (e : Int) (r : Nat) : Nat × FlagBits :=
  let top : Int := e + (lg m : Nat)
  let emin : Int := 1 - g.bias
  let qn : Int := top - g.mb
  let q : Int := max qn (emin - g.mb)
  let (n, nx) := roundAt rm neg m e q r
  if magLt g.maxN g.maxQ n q then overflowResult g rm sat neg
  else
    let (n', _) := roundAt rm neg m e qn r
    let tiny := decide (top < emin) && magLt n' qn 1 emin
    (encodeFin g neg n q, flIf nx flInexact ||| flIf (nx && tiny) flUnderflow)

/-- Round a finite value to an integer format of width w (R56). -/
def roundInt (w : Nat) (rm : Nat) (neg : Bool) (m : Nat) (e : Int) (r : Nat) : Nat × FlagBits :=
  let (n, nx) := roundAt rm neg m e 0 r
  let lim := if neg then 2 ^ (w - 1) else 2 ^ (w - 1) - 1
  if lim < n then (if neg then 2 ^ (w - 1) else 2 ^ (w - 1) - 1, flOverflow)
  else (if neg then (2 ^ w - n) % 2 ^ w else n, flIf nx flInexact)

/-- Conversion of a value to a non-MX format under a rounding mode and SAT, with random word `r` (R56): the bits of
the result and the flags. -/
def convert (f : Nat) (rm : Nat) (sat : Bool) (v : FVal) (r : Nat) : Nat × FlagBits :=
  match floatFmtOf f with
  | some g =>
    match v with
    | .nan s => match g.sp with
      | .none => (0, flInvalid)
      | _ => (encodeNan g, flIf s flInvalid)
    | .inf neg => match g.sp with
      | .ieee => if sat then (encodeMax g neg, flOverflow) else (encodeInf g neg, flNone)
      | .nanOnly => (if sat then encodeMax g neg else encodeNan g, flOverflow)
      | .none => (encodeMax g neg, flOverflow)
    | .fin neg m e => if m = 0 then (if neg then 2 ^ (g.eb + g.mb) else 0, flNone) else roundFloat g rm sat neg m e r
  | Option.none =>
    let w := fmtWidth f
    match v with
    | .nan _ => (0, flInvalid)
    | .inf neg => (if neg then 2 ^ (w - 1) else 2 ^ (w - 1) - 1, flInvalid)
    | .fin neg m e => if m = 0 then (0, flNone) else roundInt w rm neg m e r

/-- The sum of two values before rounding (R54): an exact zero sum of opposite signs is +0, or −0 under RDN. -/
def fvAdd (rm : Nat) (a b : FVal) : FVal × FlagBits :=
  match a, b with
  | .nan s, y => (.nan false, flIf (s || y.isSNan) flInvalid)
  | _, .nan s => (.nan false, flIf s flInvalid)
  | .inf s, .inf t => if s = t then (.inf s, flNone) else (.nan false, flInvalid)
  | .inf s, _ => (.inf s, flNone)
  | _, .inf t => (.inf t, flNone)
  | .fin s m e, .fin t n f =>
    let q := min e f
    let x : Int := if s then -(shiftUp m e q : Int) else shiftUp m e q
    let y : Int := if t then -(shiftUp n f q : Int) else shiftUp n f q
    let z := x + y
    if z = 0 then (.fin (if s = t then s else decide (rm = 3)) 0 0, flNone)
    else (.fin (decide (z < 0)) z.natAbs q, flNone)

/-- The negation of a value, a NaN staying a NaN. -/
def fvNeg : FVal → FVal
  | .nan s => .nan s
  | .inf s => .inf (!s)
  | .fin s m e => .fin (!s) m e

/-- The magnitude of a value. -/
def fvAbs : FVal → FVal
  | .nan s => .nan s
  | .inf _ => .inf false
  | .fin _ m e => .fin false m e

/-- The product of two values before rounding (R54). -/
def fvMul (a b : FVal) : FVal × FlagBits :=
  match a, b with
  | .nan s, y => (.nan false, flIf (s || y.isSNan) flInvalid)
  | _, .nan s => (.nan false, flIf s flInvalid)
  | .inf s, .inf t => (.inf (s != t), flNone)
  | .inf s, .fin t n _ => if n = 0 then (.nan false, flInvalid) else (.inf (s != t), flNone)
  | .fin s m _, .inf t => if m = 0 then (.nan false, flInvalid) else (.inf (s != t), flNone)
  | .fin s m e, .fin t n f => (.fin (s != t) (m * n) (e + f), flNone)

/-- a × b + c before the one rounding (R54). Infinity times zero raises INVALID with a quiet NaN addend too, which IEEE 754
leaves open and the spec does not state (DESIGN CHOICE, log entry 89). -/
def fvFma (rm : Nat) (a b c : FVal) : FVal × FlagBits :=
  let (p, fl) := fvMul a b
  let (z, fl') := fvAdd rm p c
  (z, fl ||| fl' ||| flIf c.isSNan flInvalid)

/-- Exact comparison of two values that are no NaN: is a < b, with −0 equal to +0 (R122)? -/
def fvLt (a b : FVal) : Bool :=
  match a, b with
  | .nan _, _ => false
  | _, .nan _ => false
  | .inf s, .inf t => s && !t
  | .inf s, _ => s
  | _, .inf t => !t
  | .fin s m e, .fin t n f =>
    let q := min e f
    let x : Int := if s then -(shiftUp m e q : Int) else shiftUp m e q
    let y : Int := if t then -(shiftUp n f q : Int) else shiftUp n f q
    decide (x < y)

/-- Is a = b, with −0 equal to +0 and no NaN equal to anything (R122)? -/
def fvEq (a b : FVal) : Bool := !a.isNan && !b.isNan && !fvLt a b && !fvLt b a

/-- The sign of a value. -/
def FVal.isNeg : FVal → Bool
  | .nan _ => false
  | .inf s => s
  | .fin s _ _ => s

/-- The smaller of two values that are no NaN, −0 being below +0 (R121 table, IEEE 754 minimum). -/
def fvMin2 (a b : FVal) : FVal :=
  if fvLt a b then a else if fvLt b a then b else if a.isNeg then a else b

/-- The larger of two values that are no NaN, +0 being above −0. -/
def fvMax2 (a b : FVal) : FVal :=
  if fvLt a b then b else if fvLt b a then a else if a.isNeg then b else a

/-- minimum or maximum: a NaN input gives a NaN; a signalling NaN raises INVALID. -/
def fvMinMax (isMax : Bool) (a b : FVal) : FVal × FlagBits :=
  let fl := flIf (a.isSNan || b.isSNan) flInvalid
  if a.isNan || b.isNan then (.nan false, fl) else (if isMax then fvMax2 a b else fvMin2 a b, fl)

/-- minimumNumber or maximumNumber: a NaN input gives the other operand (R122). -/
def fvMinMaxNum (isMax : Bool) (a b : FVal) : FVal × FlagBits :=
  let fl := flIf (a.isSNan || b.isSNan) flInvalid
  if a.isNan && b.isNan then (.nan false, fl)
  else if a.isNan then (b, fl)
  else if b.isNan then (a, fl)
  else (if isMax then fvMax2 a b else fvMin2 a b, fl)

/-- a × 2^b for an INT32 b (SCALEB); b is held within ±4096, beyond which every format overflows or rounds as it does
there. -/
def fvScale (a : FVal) (b : Int) : FVal :=
  let b := max (-4096) (min 4096 b)
  match a with
  | .fin s m e => if m = 0 then .fin s 0 0 else .fin s m (e + b)
  | v => v

end Sys2Proof.Machine
end

