-- ==== Sys2Proof/Machine/Fp.lean ====
section
/-!
DEFINITION. Number formats and arithmetic of chapter 02 over whole values: microscaling blocks (R49, R52), the exact
accumulator and the running sum (R62 to R68), the pairwise tree (R71), the approximations within their bounds (R70),
and Philox-4x32-10 (R59).
-/

namespace Sys2Proof.Machine

/-- An FP32 word rounded from a value under roundTiesToEven. -/
def toFP32 (v : FVal) : Lane × FlagBits :=
  let (b, f) := convert 0 0 false v 0
  (BitVec.ofNat 32 b, f)

/-- The value of an FP32 word. -/
def ofFP32 (w : Lane) : FVal := decodeFloat fmtFP32 w.toNat

/-- FP32 addition under RNE (R68, R71). -/
def addFP32 (a b : Lane) : Lane × FlagBits :=
  let (v, f) := fvAdd 0 (ofFP32 a) (ofFP32 b)
  let (w, g) := toFP32 v
  (w, f ||| g)

/-- One level of the pairwise tree of R71. -/
def treeLevel {α : Type} (add : α → α → α × FlagBits) : List α → List α × FlagBits
  | a :: b :: r =>
    let (c, f) := add a b
    let (l, g) := treeLevel add r
    (c :: l, f ||| g)
  | l => (l, flNone)

/-- The pairwise tree of R71 over at most 2^fuel partials; no partial gives the default. -/
def treeSum {α : Type} (add : α → α → α × FlagBits) (dflt : α) : Nat → List α → α × FlagBits
  | _, [] => (dflt, flNone)
  | _, [a] => (a, flNone)
  | 0, a :: _ => (a, flNone)
  | n + 1, l =>
    let (l', f) := treeLevel add l
    let (r, g) := treeSum add dflt n l'
    (r, f ||| g)

/-- The sign-extended ANCHOR (R62). -/
def anchorOf (a : BitVec 9) : Int := a.toInt

/-- Is the element of a lane accumulator at its limit: would one more product make C exceed 2^24 (R65)? -/
def Acc.full : Acc → Bool
  | .exact _ c _ _ _ _ _ _ => decide (2 ^ 24 ≤ c.toNat)
  | _ => false

/-- The exact accumulator a product adds to: an empty or running one starts fresh (R119). -/
def Acc.asExact (anchor : BitVec 9) : Acc → Acc
  | .exact a c n p m r t k => .exact a c n p m r t k
  | _ => .exact 0 0 false false false false false anchor

/-- Add the product a × b × 2^s to an exact accumulator (R62); `scaleNan` says that a scale byte is 0xFF. -/
def Acc.addProduct (anchor : BitVec 9) (acc : Acc) (a b : FVal) (s : Int) (scaleNan : Bool) : Acc :=
  match acc.asExact anchor with
  | .exact w c n p m r t k =>
    let c' := c + 1
    if scaleNan || a.isNan || b.isNan then .exact w c' true p m r t k
    else
      match (fvMul a b).1 with
      | .nan _ => .exact w c' true p m r t k
      | .inf neg => .exact w c' n (p || !neg) (m || neg) r t k
      | .fin neg mm e =>
        let e := e + s
        if mm ≠ 0 ∧ ¬ magLt mm e 1 (anchorOf anchor + 39) then .exact w c' n (p || !neg) (m || neg) true t k
        else
          let q := anchorOf anchor - 64
          let sh := (q - e).toNat
          let u := if q ≤ e then shiftUp mm e q else mm / 2 ^ sh
          let lost := decide (e < q) && decide (mm % 2 ^ sh ≠ 0)
          .exact (if neg then w - BitVec.ofNat 128 u else w + BitVec.ofNat 128 u) c' n p m r (t || lost) k
  | x => x

/-- Add a product to an FP32 running sum (R67): the first product starts it. -/
def Acc.addRunning (acc : Acc) (a b : FVal) : Acc × FlagBits :=
  match acc with
  | .running v =>
    let (x, f) := fvFma 0 a b (ofFP32 v)
    let (w, g) := toFP32 x
    (.running w, f ||| g)
  | _ =>
    let (x, f) := fvMul a b
    let (w, g) := toFP32 x
    (.running w, f ||| g)

/-- The value of an accumulator as READOUT converts it, with INVALID and the sticky RANGE and TRUNC (R66, R95, R119). -/
def Acc.value : Acc → FVal × FlagBits
  | .empty => (.fin false 0 0, flNone)
  | .running v => (ofFP32 v, flNone)
  | .exact a _ n p m r t k =>
    let st := flIf r flRange ||| flIf t flTrunc
    if n || (p && m) then (.nan false, flInvalid ||| st)
    else if p then (.inf false, st)
    else if m then (.inf true, st)
    else (.fin (decide (a.toInt < 0)) a.toInt.natAbs (anchorOf k - 64), st)

/-- Merge exact accumulators (R64): A and C add, the flags OR. -/
def Acc.merge (x y : Acc) : Acc :=
  match x, y with
  | .exact a c n p m r t k, .exact a' c' n' p' m' r' t' _ =>
    .exact (a + a') (c + c') (n || n') (p || p') (m || m') (r || r') (t || t') k
  | .empty, y => y
  | x, _ => x

/-- The product count of an accumulator. -/
def Acc.count : Acc → Nat
  | .exact _ c _ _ _ _ _ _ => c.toNat
  | _ => 0

/-- Is the accumulator an exact one? -/
def Acc.isExact : Acc → Bool
  | .exact _ _ _ _ _ _ _ _ => true
  | _ => false

/-- Is the accumulator a running sum? -/
def Acc.isRunning : Acc → Bool
  | .running _ => true
  | _ => false

/-- The running sum as an FP32 word, an empty accumulator contributing zero (R124). -/
def Acc.word : Acc → Lane
  | .running v => v
  | _ => 0

/-- One round of Philox-4x32 (R59, as published by Salmon, Moraes, Dror and Shaw). -/
def philoxRound (c0 c1 c2 c3 k0 k1 : Nat) : Nat × Nat × Nat × Nat :=
  let p0 := 0xD2511F53 * c0
  let p1 := 0xCD9E8D57 * c2
  let hi0 := p0 / 2 ^ 32
  let lo0 := p0 % 2 ^ 32
  let hi1 := p1 / 2 ^ 32
  let lo1 := p1 % 2 ^ 32
  (Nat.xor (Nat.xor hi1 c1) k0, lo1, Nat.xor (Nat.xor hi0 c3) k1, lo0)

/-- n rounds of Philox-4x32, the key bumped between rounds. -/
def philoxRounds : Nat → Nat → Nat → Nat → Nat → Nat → Nat → Nat × Nat × Nat × Nat
  | 0, c0, c1, c2, c3, _, _ => (c0, c1, c2, c3)
  | n + 1, c0, c1, c2, c3, k0, k1 =>
    let (d0, d1, d2, d3) := philoxRound c0 c1 c2 c3 k0 k1
    philoxRounds n d0 d1 d2 d3 ((k0 + 0x9E3779B9) % 2 ^ 32) ((k1 + 0xBB67AE85) % 2 ^ 32)

/-- Philox-4x32-10 (R59): the four output words. -/
def philox (key : Word) (c0 c1 c2 c3 : Nat) : Nat × Nat × Nat × Nat :=
  philoxRounds 10 c0 c1 c2 c3 (key.toNat % 2 ^ 32) (key.toNat / 2 ^ 32)

/-- The SRS word of sequence number n (R59). -/
def srsWord (key : Word) (n lane stage x y stand : Nat) : Nat :=
  (philox key (n % 2 ^ 32) (n / 2 ^ 32 % 2 ^ 16 + lane * 2 ^ 16 + stage * 2 ^ 20)
    (x + y * 2 ^ 6 + stand * 2 ^ 12) 0).1

/-- The scale exponent of a scale byte (R49); none for 0xFF. -/
def scaleExp (x : Byte) : Option Int := if x = 0xFF then none else some ((x.toNat : Int) - 127)

/-- The value of an element under a scale byte (R49). -/
def mxValue (x : Byte) (v : FVal) : FVal :=
  match scaleExp x with
  | none => .nan false
  | some s => match v with
    | .fin n m e => .fin n m (e + s)
    | w => w

/-- emax of R52. -/
def mxEmax (f : Nat) : Int :=
  if f = 0x0A then 8 else if f = 0x0B then 15 else if f = 0x0C then 4 else if f = 0x0D then 2
  else if f = 0x0E then 2 else 0

/-- The larger magnitude of two finite values (amax of R52), as mantissa and exponent. -/
def magMax (a b : Nat × Int) : Nat × Int := if magLt a.1 a.2 b.1 b.2 then b else a

/-- Does m × 2^e lie above the largest magnitude of an element format (R52)? -/
def mxAbove (f : Nat) (neg : Bool) (m : Nat) (e : Int) : Bool :=
  match floatFmtOf f with
  | some g => magLt g.maxN g.maxQ m e
  | none => magLt (if neg then 128 else 127) 0 m e

/-- The element of an MX block: the source divided by the scale, rounded and saturated whatever SAT says (R52). A
value above the largest magnitude saturates, however it would round. An element that saturates raises OVERFLOW alone,
in each of the formats (log entry 56). -/
def mxElem (f rm : Nat) (s : Int) (v : FVal) (r : Nat) : Nat × FlagBits :=
  match v with
  | .fin n m e =>
    let g := if f = 0x0F then 8 else f
    let e := if f = 0x0F then e - s + 6 else e - s
    let (b, fl) := convert g rm true (.fin n m e) r
    if mxAbove g n m e then ((convert g 0 true (.fin n 1 1024) r).1, flOverflow) else (b, fl)
  | w => convert f rm true w r

/-- The elements of a block with their random words. -/
def mxElems (f rm : Nat) (s : Int) : List (FVal × Nat) → List Nat × FlagBits
  | [] => ([], flNone)
  | (v, r) :: vs =>
    let (b, fl) := mxElem f rm s v r
    let (bs, gl) := mxElems f rm s vs
    (b :: bs, fl ||| gl)

/-- Is the value a NaN or an infinity? -/
def FVal.special : FVal → Bool
  | .fin _ _ _ => false
  | _ => true

/-- A block of 32 values converted to an MX format (R52): scale byte, element bits, flags. -/
def mxBlock (f rm : Nat) (vs : List (FVal × Nat)) : Byte × List Nat × FlagBits :=
  if vs.any (fun v => v.1.special) then (0xFF, vs.map (fun _ => 0), flInvalid)
  else
    let amax := (vs.map (fun v => match v.1 with
      | .fin _ m e => (m, e)
      | _ => (0, (0 : Int)))).foldl magMax (0, 0)
    if amax.1 = 0 then (0, (mxElems f rm (-127) vs).1, flNone)
    else
      let s : Int := max (-127) (min 127 (amax.2 + (lg amax.1 : Nat) - mxEmax f))
      let (es, fl) := mxElems f rm s vs
      (BitVec.ofInt 8 (s + 127), es, fl)

/-- 2^(2^−i) × 2^80, truncated, for i from 1. -/
def exp2Table : List Nat :=
  [1709679290002018430137083, 1437663186196213140458842, 1318342954508437536241608, 1262449538323130218023826] ++
  [1235397847998530554068052, 1222090158679699302578122, 1215490167267850712533606, 1212203550026895909267883] ++
  [1210563575470544329506585, 1209744420392730641853729, 1209335050739664291965116, 1209130417864073012721891] ++
  [1209028114411448882261164, 1208976965931109249568920, 1208951392502392488940613, 1208938605990892366202392] ++
  [1208932212785856243445485, 1208929016196016588498135, 1208927417904266352854542, 1208926618759183631768056] ++
  [1208926219186840370255865, 1208926019400718264238436, 1208925919507669592412001, 1208925869561148351794054] ++
  [1208925844587888505308862, 1208925832101258775522206, 1208925825857943958992863, 1208925822736286562819187] ++
  [1208925821175457867755098, 1208925820395043520978741, 1208925820004836347779484, 1208925819809732761227086] ++
  [1208925819712180967962695, 1208925819663405071333451, 1208925819639017123019567, 1208925819626823148862810] ++
  [1208925819620726161784477, 1208925819617677668245323, 1208925819616153421475748, 1208925819615391298090962] ++
  [1208925819615010236398568, 1208925819614819705552372, 1208925819614724440129274, 1208925819614676807417725] ++
  [1208925819614652991061950, 1208925819614641082884063, 1208925819614635128795119, 1208925819614632151750647] ++
  [1208925819614630663228411, 1208925819614629918967293, 1208925819614629546836734, 1208925819614629360771455] ++
  [1208925819614629267738815, 1208925819614629221222495, 1208925819614629197964335, 1208925819614629186335255] ++
  [1208925819614629180520715, 1208925819614629177613445, 1208925819614629176159810, 1208925819614629175432993] ++
  [1208925819614629175069584, 1208925819614629174887880, 1208925819614629174797028, 1208925819614629174751602]

/-- 2^x × 2^80 for a fraction x = frac / 2^64, by the table. -/
def exp2Frac (frac : Nat) : Nat :=
  ((exp2Table.zip (List.range 64)).foldl
    (fun acc (t, i) => if natBit frac (63 - i) then acc * t / 2 ^ 80 else acc) (2 ^ 80))

/-- log2 of x / 2^80, x in [2^80, 2^81), in units of 2^−n, bit by bit. -/
def log2Bits : Nat → Nat → Nat → Nat
  | 0, _, acc => acc
  | n + 1, x, acc =>
    let y := x * x / 2 ^ 80
    if 2 ^ 81 ≤ y then log2Bits n (y / 2) (2 * acc + 1) else log2Bits n y (2 * acc)

/-- The integer square root of n, by bits from the highest. -/
def isqrtBits : Nat → Nat → Nat → Nat
  | 0, _, acc => acc
  | k + 1, n, acc =>
    let t := acc + 2 ^ k
    if t * t ≤ n then isqrtBits k n t else isqrtBits k n acc

/-- A rational number a / b × 2^e near the true value of an approximation, from which the bound of R70 is judged. -/
structure Ideal where
  neg : Bool
  num : Nat
  exp : Int
  deriving DecidableEq, Repr

/-- The ideal value of an approximation of a positive finite input m × 2^e: operation 0 RCP, 1 RSQRT, 3 LOG2; EXP2 (2)
of a signed input; each to about 60 significant bits. -/
def idealOf (op : Nat) (neg : Bool) (m : Nat) (e : Int) : Ideal :=
  if op = 0 then ⟨neg, 2 ^ 100 / m, -e - 100⟩
  else if op = 1 then
    let e2 := e % 2
    let mm := m * 2 ^ e2.toNat
    ⟨false, isqrtBits 90 (2 ^ 170 / mm) 0, -(e - e2) / 2 - 85⟩
  else if op = 2 then
    -- 2^x: x = ip + frac / 2^64
    let x : Int := if neg then -(m : Int) else m
    let sc : Int := if 0 ≤ e + 64 then x * 2 ^ (e + 64).toNat else x / 2 ^ (-(e + 64)).toNat
    let ip := sc / 2 ^ 64
    ⟨false, exp2Frac (sc % 2 ^ 64).toNat, ip - 80⟩
  else
    let l := lg m
    let x := m * 2 ^ 80 / 2 ^ l
    let b := log2Bits 64 x 0
    let v : Int := (e + l) * 2 ^ 64 + b
    ⟨decide (v < 0), v.natAbs, -64⟩

/-- |y − ideal| ≤ bound, where the bound is bn × 2^be; the comparison allows the ideal's own error of 2^−55 of it. -/
def withinBound (y : FVal) (i : Ideal) (bn : Nat) (be : Int) : Bool :=
  match y with
  | .fin s m e =>
    let q := min (min e i.exp) (min be (i.exp - 55))
    let yv : Int := if s then -(shiftUp m e q : Int) else shiftUp m e q
    let iv : Int := if i.neg then -(shiftUp i.num i.exp q : Int) else shiftUp i.num i.exp q
    decide ((yv - iv).natAbs ≤ shiftUp bn be q + shiftUp i.num (i.exp - 55) q)
  | _ => false

/-- The exponent of one ulp of FP32 at m × 2^e. -/
def ulpExp (m : Nat) (e : Int) : Int := max (e + (lg m : Nat) - 23) (-149)

/-- The bound of R70 at an ideal value, as bn × 2^be. -/
def approxBound (op : Nat) (m : Nat) (e : Int) (i : Ideal) : Nat × Int :=
  let u := ulpExp i.num i.exp
  if op = 0 then (1, u)
  else if op = 1 then (3, u - 1)
  else if op = 2 then (if i.exp + (lg i.num : Nat) < -126 then (1, -149) else (2, u))
  else
    -- inputs in [0.5, 2]: 2^-21 absolute
    if ¬ magLt m e 1 (-1) ∧ ¬ magLt 1 1 m e then (1, -21) else (2, u)

/-- An FP32 result near an ideal value (R70): the free bits of Config where they lie within the bound, else the nearest
value; with overflow to infinity. `exact`: the ideal is the exact result, and a format holds it. -/
def approxNear (op : Nat) (w : Lane) (m : Nat) (e : Int) (exact : Bool) (i : Ideal) : Lane × FlagBits :=
  let (b, fl) := toFP32 (.fin i.neg i.num i.exp)
  if (fl &&& flOverflow) ≠ 0 then (b, fl)
  else
    let (bn, be) := approxBound op m e i
    let c := Config.approx op w
    let y := if withinBound (ofFP32 c) i bn be then c else b
    let tiny := decide (i.exp + (lg i.num : Nat) < -126)
    if exact && y = b then (y, flNone) else (y, flInexact ||| flIf tiny flUnderflow)

/-- The FP32 result of an approximation on a finite input outside the special cases (R70). -/
def approxFinite (op : Nat) (w : Lane) (neg : Bool) (m : Nat) (e : Int) (exact : Bool) : Lane × FlagBits :=
  approxNear op w m e exact (idealOf op neg m e)

/-- Is m × 2^e a whole power of two, and which? -/
def pow2Of (m : Nat) (e : Int) : Option Int := if m = 2 ^ lg m then some (e + (lg m : Nat)) else none

/-- m × 2^e as an integer, if it is one. -/
def intOf (neg : Bool) (m : Nat) (e : Int) : Option Int :=
  let x : Int := if 0 ≤ e then m * 2 ^ (min e 200).toNat else m / 2 ^ (-e).toNat
  let exact : Bool := if 0 ≤ e then true else m % 2 ^ (-e).toNat = 0
  if exact then some (if neg then -x else x) else none

/-- The FP32 value of an approximation (R70): the special cases that the rule states, and otherwise the bounded result, for
the powers of two too (log entry 5). -/
def approxFP32 (op : Nat) (v : FVal) (w : Lane) : Lane × FlagBits :=
  match op, v with
  | _, .nan s => (0x7FC00000, flIf s flInvalid)
  | 0, .inf n => (if n then 0x80000000 else 0, flNone)
  | 0, .fin n m e =>
    if m = 0 then (if n then 0xFF800000 else 0x7F800000, flDivzero)
    else approxFinite 0 w n m e (pow2Of m e).isSome
  | 1, .inf n => if n then (0x7FC00000, flInvalid) else (0, flNone)
  | 1, .fin n m e =>
    if m = 0 then (if n then 0xFF800000 else 0x7F800000, flDivzero)
    else if n then (0x7FC00000, flInvalid)
    else approxFinite 1 w n m e ((pow2Of m e).any (fun k => k % 2 = 0))
  | 2, .inf n => (if n then 0 else 0x7F800000, flNone)
  | 2, .fin n m e =>
    if m = 0 then (0x3F800000, flNone)
    else if ¬ n ∧ ¬ magLt m e 128 0 then (0x7F800000, flOverflow ||| flInexact)
    else if n ∧ ¬ magLt m e 1024 0 then approxNear 2 w m e false ⟨false, 1, -1024⟩
    else match intOf n m e with
      | some k => if -149 ≤ k then toFP32 (.fin false 1 k) else approxFinite 2 w n m e false
      | none => approxFinite 2 w n m e false
  | _, .inf n => if n then (0x7FC00000, flInvalid) else (0x7F800000, flNone)
  | _, .fin n m e =>
    if m = 0 then (0xFF800000, flDivzero)
    else if n then (0x7FC00000, flInvalid)
    else if pow2Of m e = some 0 then (0, flNone)
    else approxFinite 3 w n m e (pow2Of m e).isSome

end Sys2Proof.Machine
end

