-- ==== Sys2Proof/Machine/Operands.lean ====
section
/-!
DEFINITION. The operand forms of a stage: the place of a stage, the fields of an op-program entry (R93), the sources
and destinations of R94, the operand-buffer pointers (R103) with their parity (R90), the elements of a lane word (R114),
and the random words of SRS and SRE (R59, R61).
-/

namespace Sys2Proof.Machine

/-- A stage by physical stand, array index, stage and logical coordinates. -/
structure Loc where
  p : Nat
  a : Nat
  st : Nat
  x : Nat
  y : Nat
  lg : Nat
  deriving DecidableEq, Repr

/-- The physical place of a stage named by logical coordinates (R22, R24). -/
def locOf (s : State) (l : StageLoc) : Option Loc :=
  (inService s l.stand.toNat).map (fun p =>
    ⟨p, arrIdx l.x.toNat l.y.toNat, l.stage.toNat, l.x.toNat, l.y.toNat, l.stand.toNat⟩)

def Loc.key (l : Loc) : Nat := stgKey l.p l.a l.st
def Loc.arr (l : Loc) : Nat := arrKey l.p l.a

/-- The fields of a register word as an entry (R93). -/
def entryOf (w : Word) : Entry where
  dvar := fldGet CaOp.dvar w = 1
  fmtA := BitVec.ofNat 5 (fldGet CaOp.fmtA w)
  fmtB := BitVec.ofNat 5 (fldGet CaOp.fmtB w)
  fmtD := BitVec.ofNat 5 (fldGet CaOp.fmtD w)
  rmode := BitVec.ofNat 3 (fldGet CaOp.rmode w)
  sat := fldGet CaOp.sat w = 1
  aux := BitVec.ofNat 9 (fldGet CaOp.aux w)
  srcA := BitVec.ofNat 4 (fldGet CaOp.srcA w)
  srcB := BitVec.ofNat 4 (fldGet CaOp.srcB w)
  dst := BitVec.ofNat 4 (fldGet CaOp.dst w)
  rpt := BitVec.ofNat 6 (fldGet CaOp.rept w)
  ctr := BitVec.ofNat 3 (fldGet CaOp.ctr w)
  clr := fldGet CaOp.clr w = 1
  last := fldGet CaOp.last w = 1
  fwd := fldGet CaOp.fwd w = 1

/-- The current repetition of a stage (R102). -/
def repOf (s : State) (l : Loc) : Nat := rf s (CaStageStatus.key l.p l.a l.st) CaStageStatus.rep

/-- The three pointers of an operand buffer at a repetition: BASE + STRIDE × REP modulo 128 (R103). -/
def ptrA (s : State) (l : Loc) (rep : Nat) : Nat :=
  (rf s (CaObPtr.key l.p l.a l.st) CaObPtr.aBase + rf s (CaObPtr.key l.p l.a l.st) CaObPtr.aStride * rep) % 128
def ptrB (s : State) (l : Loc) (rep : Nat) : Nat :=
  (rf s (CaObPtr.key l.p l.a l.st) CaObPtr.bBase + rf s (CaObPtr.key l.p l.a l.st) CaObPtr.bStride * rep) % 128
def ptrW (s : State) (l : Loc) (rep : Nat) : Nat :=
  (rf s (CaObPtr.key l.p l.a l.st) CaObPtr.wBase + rf s (CaObPtr.key l.p l.a l.st) CaObPtr.wStride * rep) % 128

/-- The key of a byte of an operand buffer: 128 × lane + byte (R78, R108). -/
def obKey (l : Loc) (lane b : Nat) : Nat := l.key * 2048 + lane * 128 + b % 128

/-- A byte of an operand buffer. -/
def obByte (s : State) (k : Nat) : Byte := smapGet memDflt s.ob k

/-- No parity error. -/
def badDflt (_ : Nat) : Bool := false

/-- `n` bytes of a lane column from byte `b`, wrapping from byte 127 to byte 0 (R114). -/
def obBytes (s : State) (l : Loc) (lane b : Nat) : Nat → List Byte
  | 0 => []
  | n + 1 => obByte s (obKey l lane b) :: obBytes s l lane (b + 1) n

/-- Does the parity bit of one of those bytes fail (R90)? -/
def obBadAt (s : State) (l : Loc) (lane b : Nat) : Nat → Bool
  | 0 => false
  | n + 1 => smapGet badDflt s.obBad (obKey l lane b) || obBadAt s l lane (b + 1) n

/-- Write bytes to a lane column with fresh parity (R90, R108, R116). -/
def obWrite (l : Loc) (lane b : Nat) : List Byte → State → State
  | [], s => s
  | v :: vs, s => obWrite l lane (b + 1) vs
      { s with ob := smapSet memDflt s.ob (obKey l lane b) v
               obBad := smapSet badDflt s.obBad (obKey l lane b) false }

/-- What reading a source gives: the sixteen lane words, a wait for the route-in latch (R87, cause 0x3), or the lanes
whose parity failed (R90). -/
inductive Opnd where
  | ok (ws : List Lane)
  | wait
  | parity (lanes : BitVec 16)
  deriving DecidableEq, Repr

/-- The route-in vector as lane words. -/
def routeWords (s : State) (l : Loc) : Opnd :=
  match (arrOf s l.arr).routeIn with
  | some (_, v) => .ok ((List.range 16).map (vecLane v))
  | none => .wait

/-- The mask of the lanes that satisfy a test. -/
def lanesOf (f : Nat → Bool) : BitVec 16 :=
  BitVec.ofNat 16 ((List.range 16).foldl (fun m i => if f i then m + 2 ^ i else m) 0)

/-- The lane words of an operand-buffer read of `n` bytes at a pointer. -/
def obWords (s : State) (l : Loc) (b n : Nat) : Opnd :=
  if lanesOf (fun i => obBadAt s l i b n) ≠ 0 then .parity (lanesOf (fun i => obBadAt s l i b n))
  else .ok ((List.range 16).map (fun i => BitVec.ofNat 32 (ofBytesLE (obBytes s l i b n))))

/-- A source of R94: UP (the upstream latch as the step began, the route-in latch for stage 0), the operand buffer at
pointer A or B with `n` bytes, the stage constant, or the route-in latch. -/
def readSrc (s : State) (l : Loc) (code n : Nat) : Opnd :=
  if code = 1 then
    if l.st = 0 then routeWords s l else .ok ((List.range 16).map (vecLane (stageOf s l.key).upStart))
  else if code = 2 then obWords s l (ptrA s l (repOf s l)) n
  else if code = 3 then obWords s l (ptrB s l (repOf s l)) n
  else if code = 4 then .ok (allLanes (BitVec.ofNat 32 (rf s (CaConst.key l.p l.a l.st) CaConst.value)))
  else if code = 6 then routeWords s l
  else .ok (allLanes 0)

/-- Does a source code read the route-in latch (R94)? -/
def readsRoute (l : Loc) (code : Nat) : Bool := code = 6 || (code = 1 && l.st = 0)

/-- The width at which an element of a format stands in a lane word: a 6-bit element takes 8 bits (R114). -/
def placeWidth (f : Nat) : Nat := if fmtWidth f = 6 then 8 else fmtWidth f

/-- Element i of a lane word for a format (R114). -/
def laneElem (f : Nat) (w : Lane) (i : Nat) : Nat := w.toNat / 2 ^ (placeWidth f * i) % 2 ^ fmtWidth f

/-- A lane word from its elements (R114): bits above the last element are 0. -/
def packElems (f : Nat) (es : List Nat) : Lane :=
  BitVec.ofNat 32 ((es.zip (List.range es.length)).foldl (fun a (e, i) => a + e * 2 ^ (placeWidth f * i)) 0)

/-- The bytes that `n` elements of a format take (R114). -/
def elemBytes (f n : Nat) : Nat := (n * placeWidth f + 7) / 8

/-- The SRS count of the step of a stage (R59, R75): CA_SR_COUNT, or what it held before a write during the step. -/
def srCountOf (s : State) (l : Loc) : Nat :=
  match (stageOf s l.key).srHeld with
  | some n => n.toNat
  | none => rf s (CaSrCount.key l.p l.a l.st) CaSrCount.count

/-- Does the entry round by SRS: RMODE SRS, or SRE with DVAR (R133)? -/
def usesSrs (e : Entry) : Bool := e.rmode = 4 || (e.rmode = 5 && e.dvar)

/-- Does the entry round by SRE (R61)? -/
def usesSre (e : Entry) : Bool := e.rmode = 5 && !e.dvar

/-- The random word of value i of a lane (R59, R61): the SRS word of the stage's count, or the next entropy words of
the stand's pool, `j` for each lane. Every other RMODE has the word 0, a reserved one written after the load among
them (DESIGN CHOICE, log entry 106). -/
def rndWord (s : State) (l : Loc) (e : Entry) (j lane i : Nat) : Nat :=
  if usesSrs e then srsWord s.srKey ((srCountOf s l + i) % 2 ^ 48) lane l.st l.x l.y l.lg
  else if usesSre e then (((standOf s l.p).pool)[lane * j + i]?.getD 0).toNat
  else 0

/-- The rounding mode of the conversions of an entry: SRE rounds as SRS does, by its own random word (R58). -/
def rmOf (e : Entry) : Nat := e.rmode.toNat

/-- Is the pool short of the `n` words an SRE step takes (R61, R87 cause 0x5)? -/
def poolShort (s : State) (l : Loc) (e : Entry) (n : Nat) : Bool := usesSre e && decide ((standOf s l.p).pool.length < n)

end Sys2Proof.Machine
end

