-- ==== Sys2Proof/Machine/StageMem.lean ====
section
/-!
DEFINITION. When a stage may complete its step, and in which order the stages of an array use what they share in one
array step: the counter chain with the baton queues by ascending stage number (R142, R143, R145), core memory by loads
first, then the store, then an external access (R91). The order holds however late a step completes (R85).
-/

namespace Sys2Proof.Machine

/-- ARRAY_STATE of an array (R105, R185): its register holds 4 stopped or 5 fenced; else it shows its stand's phase. -/
def arrState (s : State) (p a : Nat) : Nat :=
  let w := if isMemIdx a then rf s (MaStatus.key p a) MaStatus.arrayState else rf s (CaStatus.key p a) CaStatus.arrayState
  if 4 ≤ w then w else (standOf s p).phase

/-- The op-program entry at a stage's PC. -/
def curOp (s : State) (l : Loc) : Word :=
  rg s (CaOp.key l.p l.a l.st (rf s (CaStageStatus.key l.p l.a l.st) CaStageStatus.pc))

/-- The latency class of an entry (R79): slots of one step. -/
def latency (op fa : Nat) : Nat :=
  if op = 0x01 ∨ op = 0x02 then (if fa = 0 then 2 else 1)
  else if op = 0x13 ∨ op = 0x3A ∨ op = 0x3B ∨ op = 0x3C ∨ op = 0x3D ∨ op = 0x41 ∨ op = 0x47 then 2
  else if (0x30 ≤ op ∧ op ≤ 0x33) ∨ op = 0x3E then 4
  else 1

/-- The slots of one step of a stage's current entry. -/
def curLatency (s : State) (l : Loc) : Nat := latency (fldGet CaOp.opcode (curOp s l)) (fldGet CaOp.fmtA (curOp s l))

/-- May a stage complete its step: a compute array that runs, or one that has stopped, whose other stages end the steps
they have begun (R89); the stage not stopped, with a step in its last slot or late (R79, R84); not one that waits on an
uncorrectable word, which never ends (R87). -/
def canStep (s : State) (l : Loc) : Bool :=
  let t := stageOf s l.key
  let k := CaStageStatus.key l.p l.a l.st
  !isMemIdx l.a && t.begun && !t.done && decide (t.left = 0) && decide (rf s k CaStageStatus.state ≠ 3) &&
  decide (rf s k CaStageStatus.waitCause ≠ 6) && (decide (arrState s l.p l.a = 2) || decide (arrState s l.p l.a = 4))

/-- A counter's CA_CTR_STATE as the stage's step began (R129, R159). -/
def ctrAt (s : State) (l : Loc) (c : Nat) : Word := (stageOf s l.key).ctrStart.getD c 0

/-- The core-memory slot of a load or store (R129): V is taken before every advance that commits with the step. -/
def coreSlot (s : State) (l : Loc) (e : Entry) : Nat :=
  let c := natBits e.aux.toNat 8 6
  let v := if c < 6 then fldGet CaCtrState.value (ctrAt s l c) else 0
  (natBits (rf s (CaConst.key l.p l.a l.st) CaConst.value) 9 0 + natBits e.aux.toNat 5 0 * repOf s l + v) % 1024

/-- Lane 0 of a source as a core-memory slot number. -/
def laneSlot (s : State) (l : Loc) (src : Nat) : Option Nat :=
  match readSrc s l src 4 with
  | .ok ws => some ((ws.getD 0 0).toNat % 1024)
  | _ => none

/-- The slot that a stage's current entry loads, once its operand can be read (R129). -/
def loadTarget (s : State) (l : Loc) : Option Nat :=
  let e := entryOf (curOp s l)
  let op := fldGet CaOp.opcode (curOp s l)
  if op = 0x58 ∨ op = 0x59 then some (coreSlot s l e) else if op = 0x5A then laneSlot s l e.srcA.toNat else none

/-- The slot that a stage's current entry stores to, once its operands can be read, and whether it overwrites (R129). -/
def storeTarget (s : State) (l : Loc) : Option (Nat × Bool) :=
  let e := entryOf (curOp s l)
  let op := fldGet CaOp.opcode (curOp s l)
  if op = 0x5B ∨ op = 0x5C then (laneSlot s l e.srcA.toNat).map (fun _ => (coreSlot s l e, decide (op = 0x5C)))
  else if op = 0x5D then
    (match laneSlot s l e.srcA.toNat, laneSlot s l e.srcB.toNat with
      | some _, some n => some (n, false)
      | _, _ => none)
  else none

/-- Has a stage store or an external access used a core-memory slot in the slot in course (R91)? -/
def coreTouched (s : State) (p a n : Nat) : Bool := (arrOf s (arrKey p a)).touched.contains n

/-- Core-memory slot n has been used by a stage store or an external access. -/
def touchCore (p a n : Nat) (s : State) : State :=
  putArr (arrKey p a) { arrOf s (arrKey p a) with touched := n :: (arrOf s (arrKey p a)).touched } s

/-- Has a stage a load of slot n that its tag and its words let go now (R91, R92)? -/
def loadReady (s : State) (l : Loc) (n : Nat) : Bool :=
  canStep s l && decide (loadTarget s l = some n) && tagOf s (slotKey l.p l.a n) && !coreTouched s l.p l.a n &&
  (match readBytes s (sramKey l.p l.a (64 * n)) 64 with
    | .ok _ => true
    | .error _ => false)

/-- Has a stage a store to slot n that its tag lets go now (R91)? -/
def storeReady (s : State) (l : Loc) (n : Nat) : Bool :=
  canStep s l && (match storeTarget s l with
    | some (m, ow) => decide (m = n) && (ow || (!tagOf s (slotKey l.p l.a n) && !coreTouched s l.p l.a n))
    | none => false)

/-- Does a stage's current step use the counter chain or a baton queue (R139, R143, R145)? -/
def usesChain (s : State) (l : Loc) : Bool :=
  let w := curOp s l
  let op := fldGet CaOp.opcode w
  decide (op = 0x50 ∨ op = 0x52 ∨ op = 0x53 ∨ op = 0x54) ||
  decide (fldGet CaOp.ctr w < 6 ∧ repOf s l = fldGet CaOp.rept w)

/-- The eight stages of an array. -/
def stagesOf (s : State) (p a : Nat) : List Loc :=
  (List.range 8).map (fun i => ⟨p, a, i, a % 64, a / 64, logicalOf s p⟩)

/-- Must a step leave another stage of its array the first turn: in the counter chain a lower stage that uses it too, in
a core-memory slot a lower stage that loads it, and before a store any stage that loads it? -/
def mustFollow (s : State) (l : Loc) (chain : Bool) (load store : Option Nat) : Bool :=
  (stagesOf s l.p l.a).any (fun m =>
    (chain && decide (m.st < l.st) && canStep s m && usesChain s m) ||
    (match load with
      | some n => decide (m.st < l.st) && loadReady s m n
      | none => false) ||
    (match store with
      | some n => decide (m.st ≠ l.st) && loadReady s m n
      | none => false))

/-- Has a stage of the array an access to slot n that must come before an external one (R91)? -/
def stageFirst (s : State) (p a n : Nat) : Bool := (stagesOf s p a).any (fun m => loadReady s m n || storeReady s m n)

end Sys2Proof.Machine
end

