-- ==== Sys2Proof/Machine/Access.lean ====
section
/-!
DEFINITION. Device addresses and memory as its owning units serve it: the three ranges (R12, R37, R38, R268), slices
(R269, R272), slots with their tags (R169 to R174), the refusals of an access (R13, R23, R39), the journal of protected
DRAM (R499 to R505), tally numbers and tallies (R43, R315 to R320), and packets of the service mesh (R228, R230).
-/

namespace Sys2Proof.Machine

/-- The opposite direction. -/
def opp (d : Nat) : Nat := (d + 2) % 4

/-- The physical stand that a side faces; none for the ring. -/
def facing (p d : Nat) : Option Nat :=
  let q : Option Nat :=
    if d = 0 then (if 8 ≤ p then some (p - 8) else none)
    else if d = 1 then (if p % 8 < 7 then some (p + 1) else none)
    else if d = 2 then (if p < 56 then some (p + 8) else none)
    else (if 0 < p % 8 then some (p - 1) else none)
  match q with
  | some r => if isPhys r then some r else none
  | none => none

/-- Is a seam direction, as its receiving port sees it, dead (R26, R238)? -/
def seamDead (s : State) (p d : Nat) : Bool := decide (3 ≤ rf s (SeamStatus.key p d) SeamStatus.state)

/-- STATE of a tile (R462): 0 off, 1 ramping, 2 on, 3 tripped, 4 off by STAND_POWER. -/
def tileState (s : State) (p : Nat) : Nat := rf s (PwrTile.key p) PwrTile.state

/-- Stands that routers may pass packets through: neither fenced nor tripped (R229). -/
def passable (s : State) (p : Nat) : Bool := roleOf s p != 3 && roleOf s p != 5

/-- The stands that the ring reaches through its own seams, and those next to a stand, over seams that are not dead. -/
def ringStands (s : State) : List Nat := physList.filter (fun p => (List.range 4).any (fun d => (facing p d).isNone && !seamDead s p d))
def nextStands (s : State) (p : Nat) : List Nat :=
  (List.range 4).filterMap (fun d => (facing p d).bind (fun q => if seamDead s q (opp d) then none else some q))

/-- The stands that packets find from a front of stands, through stands that they may pass. -/
def standsFrom (s : State) : Nat → List Nat → List Nat → List Nat
  | 0, _, seen => seen
  | f + 1, front, seen =>
    let nx := (((front.filter (passable s)).flatMap (nextStands s)).dedup).filter (fun q => !seen.contains q)
    if nx.isEmpty then seen else standsFrom s f nx (seen ++ nx)

/-- Has a packet of the ring to a stand's hub a route (R36, R229)? -/
def ringRoute (s : State) (p : Nat) : Bool :=
  (ringStands s).contains p || (standsFrom s 60 (ringStands s) (ringStands s)).contains p

/-- Interleave mode and granule in force (R268), as any in-service hub's HUB_CFG holds them. -/
def hubCfgNow (s : State) : Word :=
  match servicePhys s with
  | p :: _ => rg s (HubCfg.key p)
  | [] => regReset (HubCfg.key 9)

/-- The granule in bytes (R268). -/
def granuleBytes (c : Nat) : Nat := if c = 0 then 256 else if c = 2 then 65536 else 4096

/-- The slice place of a DRAM address (R268): logical stand, slice, slice offset. -/
def dramPlace (mode g addr : Nat) : Nat × Nat × Nat :=
  if mode = 1 then
    let u := addr / g
    let k := u % 3584
    (k / 64, k % 64, u / 3584 * g + addr % g)
  else
    let r := addr % 0xA00000000
    (addr / 0xA00000000, r / g % 64, r / (64 * g) * g + r % g)

/-- The device address of a slice place (R268, R272). -/
def dramAddr (mode g lg sl off : Nat) : Nat :=
  if mode = 1 then (off / g * 3584 + lg * 64 + sl) * g + off % g
  else lg * 0xA00000000 + off / g * (64 * g) + sl * g + off % g

def dramPlaceOf (s : State) (addr : Nat) : Nat × Nat × Nat :=
  dramPlace (fldGet HubCfg.interleave (hubCfgNow s)) (granuleBytes (fldGet HubCfg.granule (hubCfgNow s))) addr
def dramAddrOf (s : State) (lg sl off : Nat) : Nat :=
  dramAddr (fldGet HubCfg.interleave (hubCfgNow s)) (granuleBytes (fldGet HubCfg.granule (hubCfgNow s))) lg sl off

/-- Where an access of `n` bytes goes: a slice, a slot, or the status that ends it. -/
inductive Place where
  | dram (p sl off : Nat)
  | sram (p a off : Nat)
  | bad (st : Status)
  deriving DecidableEq, Repr

/-- The stand that bears a logical number, or the status of an access that names it (R23). -/
def standPlace (s : State) (lg : Nat) : Except Status Nat :=
  match physOf s lg with
  | none => .error stStandFenced
  | some p => if roleOf s p = 1 then .ok p else .error stStandFenced

/-- The place of `n` bytes at a device address (R12, R13, R37 to R39). -/
def placeOf (s : State) (addr n : Nat) : Place :=
  if addr < 0x23000000000 then
    let (lg, sl, off) := dramPlaceOf s addr
    match standPlace s lg with
    | .ok p => .dram p sl off
    | .error st => .bad st
  else if natBit addr 47 && decide (addr < 2 ^ 48) && decide (natBits addr 46 37 = 0) && decide (natBits addr 36 31 < 56) then
    let a := arrIdx (natBits addr 24 19) (natBits addr 30 25)
    let off := natBits addr 18 0
    if !isMemIdx a && decide (0x10000 ≤ off) then .bad stAddrReserved
    else if n = 0 ∨ 64 < off % 64 + n then .bad stAddrAlign
    else
      match standPlace s (natBits addr 36 31) with
      | .error st => .bad st
      | .ok p => if arrState s p a = 5 then .bad stArrayFenced else .sram p a off
  else .bad stAddrReserved

/-- The blaze area and mirror band of every stand, where an image takes blazes (R499). -/
def inBlazeArea (s : State) (off : Nat) : Bool :=
  match imgBlaze s.image with
  | some (b, _, _) => decide (b ≤ off)
  | none => false

/-- May a program, host or peer write at a device address: not read-only data of the image nor the blaze area (R499,
R503)? -/
def dramWritable (s : State) (addr off : Nat) : Bool :=
  !inBlazeArea s off && (!hasImage s || decide (regionClass s.image addr ≠ 0))

def logDflt (_ : Nat) : ParityLog := .init
def logOf (s : State) (p : Nat) : ParityLog := smapGet logDflt s.logs p
def putLog (p : Nat) (v : ParityLog) (s : State) : State := { s with logs := smapSet logDflt s.logs p v }

/-- The records one log generation holds (R504). -/
def logLimit (s : State) : Nat :=
  match imgBlaze s.image with
  | some (_, _, l) => l / 14 / 72
  | none => 0

/-- Journal the change of one 64-byte slot of a slice (R504, R505). -/
def journal (p sl off : Nat) (old new : List Byte) (s : State) : State :=
  let g := logOf s p
  if g.full then s
  else if logLimit s ≤ g.cur.length then
    report stParityLogFull false 1 (locStand s p) 0 [] (putLog p { g with full := true } s)
  else putLog p { g with cur := g.cur ++ [⟨sl, off, ofVecBytes old ^^^ ofVecBytes new⟩] } s

/-- The bytes of a 64-byte slice location as stored. -/
def rawSlot (s : State) (p sl off : Nat) : List Byte := smapGetMany memDflt s.mem (dramKey p sl (off / 64 * 64)) 64

/-- Write at most 64 bytes within one location of a slice, journalled when the address is mutable protected (R504). -/
def dramWrite (p sl off addr : Nat) (bs : List Byte) (s : State) : State :=
  let old := rawSlot s p sl off
  let s := writeBytes (dramKey p sl off) bs s
  if (imgBlaze s.image).isSome && decide (regionClass s.image addr = 1) && decide (roleOf s p = 1) then
    journal p sl (off / 64 * 64) old (rawSlot s p sl off) s
  else s

/-- The record of an uncorrectable word in a slice (R272), and the report it raises. -/
def dramUncorrectable (p sl off : Nat) (s : State) : State :=
  let k := DslEcc.key p sl
  let s := if rf s k DslEcc.uncorr = 0 then rfput k DslEcc.uncorrAddr off s else s
  let s := rfsat k DslEcc.uncorr 1 s
  let addr := dramAddrOf s (logicalOf s p) sl off
  let data := 2 :: bytesLE 4 off
  report stUncorrectable true 1 (locUnit (logicalOf s p) p 0 0 0 0 sl) (BitVec.ofNat 64 addr) data (taint stUncorrectable (BitVec.ofNat 64 addr) s)

/-- Bytes whose contents the spec does not lay out: free values (log entry 4). -/
def freeBytes (c n : Nat) : List Byte := (List.range' c n).map (fun i => (Config.freeWord i).setWidth 8)

/-- Does a slice place lie in the log band of a blaze area or in the mirror band (R499, R500)? -/
def inLogBand (s : State) (sl off : Nat) : Bool :=
  match imgBlaze s.image with
  | some (b, u, l) =>
    let n := (off - b) / 0x10000 * 0x400000 + sl * 0x10000 + (off - b) % 0x10000
    decide (0x27F00000 ≤ off) || decide (b ≤ off ∧ 2 * u ≤ n ∧ n < 2 * u + l)
  | none => false

/-- Read at most 64 bytes of a slice (R272): the bytes, or none where a word is uncorrectable. The log and mirror bands
read as free values, since R500 and R504 give what they hold no places (log entry 46). -/
def dramRead (p sl off n : Nat) (s : State) : Option (List Byte) × State :=
  match readBytes s (dramKey p sl off) n with
  | .ok (bs, c) =>
    let s := if c = 0 then s else rfsat (DslEcc.key p sl) DslEcc.corrected c s
    if inLogBand s sl off then (some (freeBytes s.freeCtr n), { s with freeCtr := s.freeCtr + n }) else (some bs, s)
  | .error k => (none, dramUncorrectable p sl (k - dramKey p sl 0) s)

/-- Record an uncorrectable word of an SRAM array (R92, R174), once for the access that meets it. -/
def sramUncorrectable (p a off : Nat) (s : State) : State :=
  let addr := 2 ^ 47 + logicalOf s p * 2 ^ 31 + a * 2 ^ 19 + off
  let s := if isMemIdx a then
      (if rf s (MaEcc.key p a) MaEcc.uncorr = 1 then s
        else rfput (MaEcc.key p a) MaEcc.uncorr 1 (rfput (MaEcc.key p a) MaEcc.uncorrAddr off s))
    else
      (if rf s (CaCoreEcc.key p a) CaCoreEcc.uncorr = 1 then s
        else rfput (CaCoreEcc.key p a) CaCoreEcc.uncorr 1 (rfput (CaCoreEcc.key p a) CaCoreEcc.uncorrAddr off s))
  let loc := locUnit (logicalOf s p) p a 0 0 0 0
  let data := (if isMemIdx a then 1 else 0) :: bytesLE 4 off
  report stUncorrectable true 1 loc (BitVec.ofNat 64 addr) data (taint stUncorrectable (BitVec.ofNat 64 addr) s)

/-- Count words corrected on a read of an SRAM array. -/
def sramCorrected (p a c : Nat) (s : State) : State :=
  if c = 0 then s
  else if isMemIdx a then rfsat (MaEcc.key p a) MaEcc.corrected c s
  else rfsat (CaCoreEcc.key p a) CaCoreEcc.corrected c s

/-- Is slot n of an array inside an untagged region (R170, R194)? -/
def inUntagged (s : State) (p a n : Nat) : Bool :=
  isMemIdx a && (List.range 2).any (fun r =>
    let w := rg s (MaUntag.key p a r)
    decide (fldGet MaUntag.enable w = 1 ∧ fldGet MaUntag.first w ≤ n ∧ n ≤ fldGet MaUntag.last w))

/-- How an access to a slot ends: done, waits (on a tag, or on an uncorrectable word), refused. -/
inductive SlotEnd where
  | done (bs : List Byte)
  | wait
  | refuse (st : Status)
  deriving DecidableEq, Repr

/-- The key of a node of a physical stand. -/
def nodeKey (p n : Nat) : Nat := p * 1024 + n

/-- The slot of a generator's next access (R176, R177). A FIFO slot past the array's last, which R179 refuses at a load and
set-up writes can leave later, wraps to slot 0 as buffer addresses do (DESIGN CHOICE, log 81). -/
def genSlot (s : State) (p a g : Nat) : Nat :=
  let cfg := rg s (MaGenCfg.key p a g)
  let base := fldGet MaGenCfg.base cfg
  if fldGet MaGenCfg.mode cfg = 2 then (base + rf s (MaGenSeq.key p a g) MaGenSeq.fifoPos) % 8192
  else
    let ix := rg s (MaGenState.key p a g)
    let sum := (List.range (fldGet MaGenCfg.ctrsM1 cfg + 1)).foldl (fun acc k =>
      acc + natBits ix.toNat (16 * k + 15) (16 * k) * fldGet MaGenCtr.stride (rg s (MaGenCtr.key p a g k))) base
    sum % 8192

/-- May a generator attempt an access at a position: its array running, MODE not off, ACT bit set (R175, R185)? -/
def genActive (s : State) (p a g pos : Nat) : Bool :=
  decide (arrState s p a = 2) &&
  decide (rf s (MaGenCfg.key p a g) MaGenCfg.mode ≠ 0) && natBit (rg s (MaGenAct.key p a g)).toNat pos

def memArrDflt (_ : Nat) : MemArr := .init
def memArrOf (s : State) (p a : Nat) : MemArr := smapGet memArrDflt s.memArrs (arrKey p a)
def putMemArr (p a : Nat) (v : MemArr) (s : State) : State :=
  { s with memArrs := smapSet memArrDflt s.memArrs (arrKey p a) v }

/-- A scoreboard holds a generator at a slot of an untagged region (R182). -/
def sbHolds (s : State) (p a g n : Nat) : Bool :=
  inUntagged s p a n && (memArrOf s p a).sb.any (fun e => e.live && e.gens.contains g && decide (e.first ≤ n ∧ n ≤ e.last))

/-- Does the write generator attempt slot n in the slot in course: for a vector that reaches it, in a slot that is
neither a hold slot nor idle (R168, R175)? -/
def genAttempts (s : State) (p a n : Nat) : Bool :=
  s.moves.any (fun m => m.node = nodeKey p (a / 128 * 32 + a % 64 / 2) && m.port = 8 && !m.link && !m.baton) &&
  !(standOf s p).held && !(standOf s p).idleSlot && genActive s p a 2 (standOf s p).pos && decide (genSlot s p a 2 = n)

/-- Must an access to a slot from outside the array leave another unit the first turn in the slot in course (R91, R168)?
In core memory the array step's loads and store come first, and one external access is served in a slot; in a memory array the
write generator does, where it performs its access: the tag lets it, and no scoreboard holds it, which never holds an engine
(R182). -/
def slotTaken (s : State) (p a n : Nat) : Bool :=
  if isMemIdx a then
    genAttempts s p a n && !sbHolds s p a 2 n &&
    (inUntagged s p a n || decide (rf s (MaGenCfg.key p a 2) MaGenCfg.form = 1) || !tagOf s (slotKey p a n))
  else stageFirst s p a n || ((standOf s p).started && (arrOf s (arrKey p a)).ext)

/-- An access from outside has used a slot of a stand that runs (R91, R168): in core memory the one external access of the slot,
in a memory array one that has emptied a slot which the write generator found full. -/
def slotUsed (p a n : Nat) (consumed : Bool) (s : State) : State :=
  if (standOf s p).started = false then s
  else if isMemIdx a then
    (if consumed && !inUntagged s p a n && genAttempts s p a n then
      putMemArr p a { memArrOf s p a with emptied := n :: (memArrOf s p a).emptied } s else s)
  else
    let s := touchCore p a n s
    putArr (arrKey p a) { arrOf s (arrKey p a) with ext := true } s

/-- A read of a slot under a form (R169, R170, R174): the tag is obeyed, and an uncorrectable word holds the reader as
an EMPTY slot would. -/
def slotRead (p a off n form : Nat) (s : State) : SlotEnd × State :=
  let k := slotKey p a (off / 64)
  if form = 3 then (.refuse stTagMode, s)
  else
    let free := form = 2 ∨ inUntagged s p a (off / 64)
    if ¬free ∧ tagOf s k = false then (.wait, s)
    else
      match readBytes s (sramKey p a off) n with
      | .error w => (.wait, sramUncorrectable p a (w - sramKey p a 0) s)
      | .ok (bs, c) =>
        let s := sramCorrected p a c s
        (.done bs, if form = 0 ∧ ¬free then setTag k false s else s)

/-- A write of a slot under a form (R169, R170, R172): an UNTAGGED write outside an untagged region is refused. A
merge with an uncorrectable word stops it (R572). -/
def slotWrite (p a off form : Nat) (bs : List Byte) (s : State) : SlotEnd × State :=
  let k := slotKey p a (off / 64)
  let un := inUntagged s p a (off / 64)
  if form = 3 then (.refuse stTagMode, s)
  else if form = 2 ∧ un = false then (.refuse stTagMode, s)
  else if un = false ∧ form = 0 ∧ tagOf s k = true then (.wait, s)
  else
    match mergeFault s (sramKey p a off) bs.length with
    | some w => (.wait, sramUncorrectable p a (w - sramKey p a 0) s)
    | none =>
      let s := writeBytes (sramKey p a off) bs s
      (.done [], if un then s else setTag k true s)

/-- A read of a slot from outside its array (R91, R168): in its turn of the slot in course. -/
def extRead (p a off n form : Nat) (s : State) : SlotEnd × State :=
  if slotTaken s p a (off / 64) then (.wait, s)
  else
    match slotRead p a off n form s with
    | (.done bs, s) => (.done bs, slotUsed p a (off / 64) (form = 0) s)
    | r => r

/-- A write of a slot from outside its array (R91, R168). -/
def extWrite (p a off form : Nat) (bs : List Byte) (s : State) : SlotEnd × State :=
  if slotTaken s p a (off / 64) then (.wait, s)
  else
    match slotWrite p a off form bs s with
    | (.done bs, s) => (.done bs, slotUsed p a (off / 64) false s)
    | r => r

/-- The place of a tally number (R43): ring or stand, physical stand, index; the status of one that has none. -/
def tallyPlace (s : State) (n : Nat) : Except Status (Bool × Nat × Nat) :=
  if n < 0xE000 then
    match physOf s (n / 1024) with
    | none => .error stAddrReserved
    | some p => if roleOf s p = 1 then .ok (false, p, n % 1024) else .error stStandFenced
  else if n < 0xF000 then .ok (true, 0, n - 0xE000)
  else .error stAddrReserved

/-- COUNT of a tally (R331). -/
def tallyCount (s : State) (t : Bool × Nat × Nat) : Word := rg s (TlyCount.key t.1 t.2.1 t.2.2)

/-- Is a tally reached for a target (R317)? -/
def reached (count target : Word) : Bool := decide ((count - target).toNat < 2 ^ 63)

/-- Add an increment to a tally, modulo 2^64 (R315, R334). -/
def tallyBump (t : Bool × Nat × Nat) (n : Nat) (s : State) : State :=
  rfadd (TlyStatus.key t.1 t.2.1 t.2.2) TlyStatus.increments 1
    (rput (TlyCount.key t.1 t.2.1 t.2.2) (tallyCount s t + BitVec.ofNat 64 n) s)

/-- The patch router of an array (R228): py × 8 + px. -/
def patchRouter (a : Nat) : Nat := a / 64 / 8 * 8 + a % 64 / 8

/-- Send a request packet on the service mesh, with an identifier of the source's choice (R228; log entry 8). -/
def svcSend (p router : Nat) (k : SvcKind) (loc : Word) (s : State) : State :=
  { s with
    svc := s.svc ++ [⟨⟨BitVec.ofNat 6 p, BitVec.ofNat 7 router, s.svcId⟩, k, loc, false, false⟩]
    svcId := s.svcId + 1 }

/-- The wait of a waiter. -/
def waitOf (s : State) (w : Waiter) : Option TWait := s.waits.find? (fun x => x.who = w)

/-- End the waits of some waiters. A wait given up takes its TALLY_WAIT with it, and the wait that stands for it at the tally
(R334; DEDUCED, log entry 90). -/
def dropWaits (f : Waiter → Bool) (s : State) : State :=
  let ids := (s.waits.filter (fun x => f x.who && !x.done)).filterMap (·.via)
  { s with
    waits := s.waits.filter (fun x => !f x.who && !(match x.who with
      | .remote id => ids.contains id
      | _ => false))
    svc := s.svc.filter (fun r => !ids.contains r.src)
    svcResp := s.svcResp.filter (fun r => !ids.contains r.1) }

/-- End the wait of a waiter. -/
def dropWait (w : Waiter) (s : State) : State := dropWaits (fun x => x = w) s

/-- Register a wait (R326, R327). -/
def addWait (n : Nat) (t : Word) (w : Waiter) (via : Option MeshSrc) (s : State) : State :=
  { s with waits := s.waits ++ [⟨n, t, w, via, false, none⟩] }

/-- Is a tally one of the hub of a stand, or with 64 of the ring? -/
def ownTally (home : Nat) (t : Bool × Nat × Nat) : Bool := if t.1 then decide (home = 64) else decide (t.2.1 = home)

/-- The identifier that the next packet of a router takes. -/
def packetId (home router : Nat) (s : State) : MeshSrc := ⟨BitVec.ofNat 6 (home % 64), BitVec.ofNat 7 router, s.svcId⟩

/-- Is a tally, by its number, reached for a target (R317)? -/
def isReached (s : State) (n : Nat) (target : Word) : Bool :=
  match tallyPlace s n with
  | .ok t => reached (tallyCount s t) target
  | .error _ => false

/-- Wait on a tally (R276, R326, R327): met, not yet, or the status that ends the wait. A tally of another hub or of the ring
is asked by a TALLY_WAIT. A wait that has been met stays met, whatever becomes of COUNT. -/
def waitStep (home router : Nat) (loc : Word) (n : Nat) (target : Word) (who : Waiter) (s : State) :
    Except Status Bool × State :=
  match waitOf s who with
  | some w =>
    (match w.fail with
      | some st => (.error st, dropWait who s)
      | none =>
        if w.done then (.ok true, s)
        else if w.via.isNone && isReached s w.tally w.target then
          (.ok true, { s with waits := s.waits.map (fun x => if x.who = who then { x with done := true } else x) })
        else (.ok false, s))
  | none =>
    match tallyPlace s n with
    | .error st => (.error st, s)
    | .ok t =>
      if ownTally home t then
        (if reached (tallyCount s t) target then
            (.ok true, { s with waits := s.waits ++ [⟨n, target, who, none, true, none⟩] })
          else (.ok false, addWait n target who none s))
      else (.ok false, addWait n target who (some (packetId home router s))
        (svcSend (home % 64) router (.tallyWait (BitVec.ofNat 16 n) target) loc s))

/-- A DONE increment leaves (R278, R315, R320): at the tally at once where it is the sender's own hub's or the ring's, else
as a TALLY packet, whose identifier is given. The status is that of a tally which cannot take it. -/
def doneSend (home router : Nat) (loc : Word) (tally amount : Nat) (s : State) : Except Status (Option MeshSrc) × State :=
  match tallyPlace s tally with
  | .error st => (.error st, s)
  | .ok t =>
    if ownTally home t then (.ok none, tallyBump t amount s)
    else (.ok (some (packetId home router s)),
      svcSend (home % 64) router (.tally (BitVec.ofNat 16 tally) (BitVec.ofNat 64 amount)) loc s)

end Sys2Proof.Machine
end

