-- ==== Sys2Proof/Machine/SetupBase.lean ====
section
/-!
DEFINITION. How a set-up access reaches a register: who may (R27, R41, R338, R525, R529), which stands answer (R23, R41),
how a refused access is counted (R42), and what a write leaves in a register's bits (R14, R16).
-/

namespace Sys2Proof.Machine

/-- The SOURCE of an access in the ring's error record (R42). -/
def viaSrc : Via → Nat
  | .host p => 1 + p.toNat
  | .mgmt p => 5 + p.toNat
  | .debug => 8
  | .ranger => 0

/-- Does the access come through a host port? -/
def viaHost : Via → Bool
  | .host _ => true
  | _ => false

/-- The Rangers run once a firmware bundle has been verified (R27). -/
def fwVerified (s : State) : Bool := rf s RgrFwStatus.key RgrFwStatus.state = 2

/-- The registers that only a management port writes (R449, R529, R546). -/
def mgmtOnly (k : Nat) : Bool :=
  k = PwrCeiling.key || k = OtpStageAccess.key || k = OtpStageData.key || k = ClkTimeNext.key || k = ClkPpsCfg.key

/-- The firmware registers that only host ports write (R529). -/
def hostOnly (k : Nat) : Bool := k = RgrFwSrc.key 0 || k = RgrFwLen.key 0 || k = RgrFwCtl.key 0

/-- A Ranger mailbox register other than those that the boot ROM serves (R27). -/
def rangerServed (k : Nat) : Bool := suView k = 0 && suClass k = 1 && decide (0x20 ≤ suOff k)

/-- What becomes of an access: it is performed; it reads all ones or is discarded without more; or it ends so with a
status, counted in the error record or not. -/
inductive Gate where
  | go
  | silent
  | deny (st : Status) (counted : Bool)
  deriving DecidableEq, Repr

/-- Is a stand being brought up (R465, R488)? -/
def broughtUp (s : State) (p : Nat) : Bool := s.bring.kind != 0 || s.bring.heat.contains p || s.bring.single.contains p

/-- The gate of an access to the register at a canonical address. A host reaches a stand by its logical number only, and
a fenced or tripped stand ends its access (R23, R41), and so does the want of a route (R36). -/
def gateOf (via : Via) (write : Bool) (k : Nat) (s : State) : Gate :=
  if (regDescOf k).isNone then .deny stAddrReserved true
  else if suView k = 2 then
    let p := suStand k
    if !isPhys p then .deny stAddrReserved true
    else if viaHost via then
      (if roleOf s p = 1 then (if write && broughtUp s p then .deny stBadState true else routed p)
        else if logicalOf s p < 56 then .deny stStandFenced false
        else .deny stRoleDenied true)
    else if roleOf s p = 5 then .silent
    else if write && broughtUp s p then .deny stBadState true
    else routed p
  else if rangerServed k && !fwVerified s then .silent
  else if write && viaHost via && mgmtOnly k then .deny stRoleDenied true
  else if write && !viaHost via && hostOnly k then .deny stRoleDenied true
  else
    match via with
    | .host p => if write && suClass k = 9 && suIndex k != p.toNat then .deny stRoleDenied true else .go
    | _ => .go
where
  /-- An access to a stand goes over the service mesh (R36, R228). -/
  routed (p : Nat) : Gate := if ringRoute s p then .go else .deny stNoServiceRoute true

/-- The address that an access names: a host names a stand by its logical number (R40). -/
def addrSeen (via : Via) (k : Nat) (s : State) : Nat :=
  if suView k = 2 && viaHost via then 0xF10000000000 + logicalOf s (suStand k) * 2 ^ 34 + k % 2 ^ 34 else k

/-- Count the end of an access that its rule discards with a status. -/
def countVia (via : Via) (k : Nat) (st : Status) (s : State) : State := countErr st (viaSrc via) 0 (addrSeen via k s) s

/-- Count an access that the gate ends with a status; one that finds no route is reported too (R36). -/
def countDenied (via : Via) (k : Nat) (st : Status) (s : State) : State :=
  let s := countVia via k st s
  if st = stNoServiceRoute then
    report st false (if viaHost via then 2 else 0) (locStand s (suStand k)) (BitVec.ofNat 64 (addrSeen via k s)) [] s
  else s

/-- A write to the register at a canonical address: through the gate, then by `f`, which answers ST_DONE or the status
that discards the write and is counted (R42, R525). -/
def viaWrite (via : Via) (k : Nat) (f : State → Status × State) (s : State) : Status × State :=
  match gateOf via true k s with
  | .silent => (stDone, s)
  | .deny st c => (st, if c then countDenied via k st s else s)
  | .go =>
    let (st, t) := f s
    (st, if st = stDone then t else countVia via k st t)

/-- Answer a read (R15, R338, R525): the value that returns to who asked. -/
def answerRead (via : Via) (k : Nat) (v : Word) (s : State) : State := { s with suOut := s.suOut ++ [(via, k, v)] }

/-- A read that returns all ones. -/
def allOnes : Word := 0xFFFFFFFFFFFFFFFF

/-- A read of the register at a canonical address: through the gate, then by `f`, which answers the value, or the status
that makes it all ones. -/
def viaRead (via : Via) (k : Nat) (f : State → Except Status (Word × State)) (s : State) : Status × Word × State :=
  match gateOf via false k s with
  | .silent => (stDone, allOnes, s)
  | .deny st c => (st, allOnes, if c then countDenied via k st s else s)
  | .go =>
    match f s with
    | .ok (v, t) => (stDone, v, t)
    | .error st => (st, allOnes, countVia via k st s)

/-- The descriptor of a register, none of whose bits is writable where there is no register. -/
def descOf (k : Nat) : RegDesc := (regDescOf k).getD ⟨0, 0, 0, 0, 0, 0, 0⟩

/-- Write the bits that are RW and clear the bits written 1 that are W1C (R14, R16). -/
def plainWrite (k : Nat) (v : Word) (s : State) : State :=
  let d := descOf k
  let w := rg s k
  rput k (((w &&& ~~~d.rw) ||| (v &&& d.rw)) &&& ~~~(v &&& d.w1c)) s

/-- A descriptor of the stand controller retires on an engine of a stand (R292, R294): class 8 BLZ, 9 PCR. -/
def ctlDesc (p cls : Nat) (st : Status) (s : State) : State :=
  let s := rfadd (EngCount.key false p cls 0) EngCount.retired 1 s
  if st = stDone then s
  else rfput (EngStatus.key false p cls 0) EngStatus.queue 0x3F (rfput (EngStatus.key false p cls 0) EngStatus.lastStatus st.toNat s)

/-- May an array be configured by set-up writes: LOADED, DRAINED or STOPPED (R98, R154, R185)? -/
def arrConfigurable (s : State) (p a : Nat) : Bool :=
  let st := arrState s p a
  st = 1 || st = 3 || st = 4

/-- The memory array whose state a node's steering units and lap table follow (R154, R210). -/
def nodeMem (n : Nat) : Nat := arrIdx (2 * (n % 32) + 1) (2 * (n / 32) + 1)

end Sys2Proof.Machine
end

