-- ==== Sys2Proof/Machine/Cvu.lean ====
section
/-!
DEFINITION. Check-value units (R295 to R310): parameters, feeds, the running value, ownership, and the rows of the set-up
writes that feed them.
-/

namespace Sys2Proof.Machine

/-- The parameters that a configuration selects (R296). -/
def cvuParamsOf (cfg poly init xorout : Word) : CrcParams :=
  let q := fldGet CvuCfg.psel cfg
  let ri : Bool := fldGet CvuCfg.refin cfg = 1
  let ro : Bool := fldGet CvuCfg.refout cfg = 1
  if q = 0 then crc32cParams
  else if q = 1 then crc32Params
  else if q = 2 then crc64Params
  else if q = 3 then ⟨32, poly.toNat % 2 ^ 32, init.toNat % 2 ^ 32, ri, ro, xorout.toNat % 2 ^ 32⟩
  else ⟨64, poly.toNat, init.toNat, ri, ro, xorout.toNat⟩

/-- The parameters in force in a unit. -/
def cvuParams (s : State) (ring : Bool) (p u : Nat) : CrcParams :=
  cvuParamsOf (rg s (CvuCfg.key ring p u)) (rg s (CvuPoly.key ring p u)) (rg s (CvuInit.key ring p u))
    (rg s (CvuXorout.key ring p u))

/-- V, of W bits (R295, R299). -/
def cvuV (s : State) (ring : Bool) (p u : Nat) : Nat :=
  (rg s (CvuValue.key ring p u)).toNat % 2 ^ (cvuParams s ring p u).w

/-- R formed from V (R295). -/
def cvuR (s : State) (ring : Bool) (p u : Nat) : Word :=
  BitVec.ofNat 64 (crcResult (cvuParams s ring p u) (cvuV s ring p u))

/-- Set V and restart BYTES (R299). -/
def cvuSet (ring : Bool) (p u v : Nat) (s : State) : State :=
  rfput (CvuStatus.key ring p u) CvuStatus.bytes 0 (rput (CvuValue.key ring p u) (BitVec.ofNat 64 v) s)

/-- Feed bytes in order (R295, R297). -/
def cvuFeed (ring : Bool) (p u : Nat) (bs : List Byte) (s : State) : State :=
  rfadd (CvuStatus.key ring p u) CvuStatus.bytes bs.length
    (rput (CvuValue.key ring p u) (BitVec.ofNat 64 (crcFeed (cvuParams s ring p u) (cvuV s ring p u) bs)) s)

/-- Is a unit owned (R300)? -/
def cvuOwned (s : State) (ring : Bool) (p u : Nat) : Bool := rf s (CvuStatus.key ring p u) CvuStatus.owner ≠ 0

/-- A set-up write that an owned unit discards and counts (R301). -/
def cvuWrite (ring : Bool) (p u : Nat) (f : State → Status × State) (s : State) : Status × State :=
  if cvuOwned s ring p u then (stCvuBusy, rfsat (CvuStatus.key ring p u) CvuStatus.discards 1 s) else f s

/-- A write to a feed register: the low `n` bytes of the value, least significant first (R297). -/
def doCvuFeed (via : Via) (k : Nat) (ring : Bool) (p u n : Nat) (v : Word) (s : State) : Status × State :=
  viaWrite via k (cvuWrite ring p u (fun s => (stDone, cvuFeed ring p u (bytesLE n v.toNat) s))) s

def execCvuFeed8 (via : Via) (ring : Bool) (phys : BitVec 6) (unit : BitVec 4) (value : Word) (s : State) :
    Host.Outcome State Fault Refusal :=
  .next (doCvuFeed via (CvuFeed8.key ring phys.toNat unit.toNat) ring phys.toNat unit.toNat 1 value s).2
def execCvuFeed16 (via : Via) (ring : Bool) (phys : BitVec 6) (unit : BitVec 4) (value : Word) (s : State) :
    Host.Outcome State Fault Refusal :=
  .next (doCvuFeed via (CvuFeed16.key ring phys.toNat unit.toNat) ring phys.toNat unit.toNat 2 value s).2
def execCvuFeed32 (via : Via) (ring : Bool) (phys : BitVec 6) (unit : BitVec 4) (value : Word) (s : State) :
    Host.Outcome State Fault Refusal :=
  .next (doCvuFeed via (CvuFeed32.key ring phys.toNat unit.toNat) ring phys.toNat unit.toNat 4 value s).2
def execCvuFold (via : Via) (ring : Bool) (phys : BitVec 6) (unit : BitVec 4) (value : Word) (s : State) :
    Host.Outcome State Fault Refusal :=
  .next (doCvuFeed via (CvuFold.key ring phys.toNat unit.toNat) ring phys.toNat unit.toNat 8 value s).2

/-- A write to CVU_VALUE (R299): bits above W are ignored. -/
def doCvuValue (via : Via) (ring : Bool) (p u : Nat) (v : Word) (s : State) : Status × State :=
  viaWrite via (CvuValue.key ring p u) (cvuWrite ring p u (fun s =>
    (stDone, cvuSet ring p u (v.toNat % 2 ^ (cvuParams s ring p u).w) s))) s

def execCvuValueWrite (via : Via) (ring : Bool) (phys : BitVec 6) (unit : BitVec 4) (value : Word) (s : State) :
    Host.Outcome State Fault Refusal := .next (doCvuValue via ring phys.toNat unit.toNat value s).2

/-- A write to CVU_CFG (R299, R310): a reserved PSEL discards it whole; LOAD then sets V by the parameters written.
PSEL is judged before the owner (DESIGN CHOICE, log entry 110). -/
def doCvuCfg (via : Via) (ring : Bool) (p u : Nat) (v : Word) (s : State) : Status × State :=
  let k := CvuCfg.key ring p u
  viaWrite via k (fun s =>
    if 5 ≤ fldGet CvuCfg.psel v then (stFmtReserved, s)
    else cvuWrite ring p u (fun s =>
      let s := plainWrite k v s
      (stDone, if fldGet CvuCfg.load v = 1 then cvuSet ring p u (cvuParams s ring p u).init s else s)) s) s

def execCvuLoad (via : Via) (ring : Bool) (phys : BitVec 6) (unit : BitVec 4) (cfg : Word) (s : State) :
    Host.Outcome State Fault Refusal := .next (doCvuCfg via ring phys.toNat unit.toNat cfg s).2

/-- A write to CVU_POLY, CVU_INIT or CVU_XOROUT (R301, R310). -/
def doCvuParam (via : Via) (k : Nat) (ring : Bool) (p u : Nat) (v : Word) (s : State) : Status × State :=
  viaWrite via k (cvuWrite ring p u (fun s => (stDone, plainWrite k v s))) s

end Sys2Proof.Machine
end

