-- ==== Sys2Proof/Machine/Handles.lean ====
section
/-!
DEFINITION. The handle table (R198 to R200), and the indirect access to operand buffers (R98, R108), descriptor memory
(R293) and the fuse staging buffer (R548).
-/

namespace Sys2Proof.Machine

def lenDflt (_ : Nat) : Word := 0

/-- HUB_HDL_LEN_WRITE (R199): the length is held in the entry's staging register. -/
def stageHdlLen (p h : Nat) (v : Word) (s : State) : State :=
  { s with hdlStage := smapSet lenDflt s.hdlStage (p * 4096 + h) (fldOf HubHdlLen.length (fldGet HubHdlLen.length v)) }

def execHubHdlLenWrite (via : Via) (phys : BitVec 6) (handle : BitVec 12) (value : Word) (s : State) :
    Host.Outcome State Fault Refusal :=
  .next (viaWrite via (HubHdlLen.key phys.toNat handle.toNat)
    (fun s => (stDone, stageHdlLen phys.toNat handle.toNat value s)) s).2

/-- Does an entry name a region as its kind requires (R198, R199)? -/
def hdlNames (kind addr len : Nat) : Bool :=
  let arr : Bool := natBit addr 47 && decide (natBits addr 46 37 = 0) && decide (natBits addr 36 31 < 56)
  let a := arrIdx (natBits addr 24 19) (natBits addr 30 25)
  decide (addr % 64 = 0 ∧ len % 64 = 0 ∧ len ≠ 0) &&
  (if kind = 0 then decide (addr + len ≤ 0x23000000000)
    else if kind = 1 then arr && isMemIdx a && decide (natBits addr 18 0 + len ≤ 0x80000)
    else if kind = 2 then arr && !isMemIdx a && decide (natBits addr 18 0 + len ≤ 0x10000)
    else false)

/-- The commit of an entry (R199): address and staged length together, or ST_HANDLE_RANGE. -/
def commitHdl (p h : Nat) (v : Word) (s : State) : Status × State :=
  let len := fldGet HubHdlLen.length (smapGet lenDflt s.hdlStage (p * 4096 + h))
  if fldGet HubHdlAddr.valid v = 1 ∧ hdlNames (fldGet HubHdlAddr.kind v) (fldGet HubHdlAddr.addr v) len = false then
    (stHandleRange, s)
  else
    (stDone, rfadd (HubHdlLen.key p h) HubHdlLen.gen 1
      (rfput (HubHdlLen.key p h) HubHdlLen.length len (plainWrite (HubHdlAddr.key p h) v s)))

def execHubHdlAddrWrite (via : Via) (phys : BitVec 6) (handle : BitVec 12) (value : Word) (s : State) :
    Host.Outcome State Fault Refusal :=
  .next (viaWrite via (HubHdlAddr.key phys.toNat handle.toNat) (commitHdl phys.toNat handle.toNat value) s).2

/-- The eight bytes at the address of CA_OB_ACCESS (R108): stage, lane, first byte. -/
def obPlace (s : State) (p a : Nat) : Loc × Nat × Nat :=
  let w := rg s (CaObAccess.key p a)
  let ad := fldGet CaObAccess.addr w / 8 * 8
  (⟨p, a, fldGet CaObAccess.stage w, a % 64, a / 64, logicalOf s p⟩, ad / 128, ad % 128)

/-- The address advances by 8 after each access (R108). -/
def obAdvance (p a : Nat) (s : State) : State := rfadd (CaObAccess.key p a) CaObAccess.addr 8 s

/-- A write of CA_OB_DATA (R98, R108). -/
def obDataWrite (p a : Nat) (v : Word) (s : State) : Status × State :=
  if !arrConfigurable s p a then (stArrayBusy, s)
  else
    let (l, lane, b) := obPlace s p a
    (stDone, obAdvance p a (obWrite l lane b (bytesLE 8 v.toNat) s))

/-- A read of CA_OB_DATA (R98, R108). -/
def obDataRead (p a : Nat) (s : State) : Except Status (Word × State) :=
  if !arrConfigurable s p a then .error stArrayBusy
  else
    let (l, lane, b) := obPlace s p a
    .ok (BitVec.ofNat 64 (ofBytesLE (obBytes s l lane b 8)), obAdvance p a s)

/-- Carry out a data access, read or write. -/
def dataAccess (via : Via) (k : Nat) (write : Bool) (w : State → Status × State)
    (r : State → Except Status (Word × State)) (s : State) : State :=
  if write then (viaWrite via k w s).2
  else
    let (_, v, s) := viaRead via k r s
    answerRead via k v s

def execCaObDataAccess (via : Via) (phys : BitVec 6) (x y : BitVec 6) (write : Bool) (value : Word) (s : State) :
    Host.Outcome State Fault Refusal :=
  let a := arrIdx x.toNat y.toNat
  .next (dataAccess via (CaObData.key phys.toNat a) write (obDataWrite phys.toNat a value) (obDataRead phys.toNat a) s)

/-- Bytes of a hub's descriptor memory (R275, R293): key 65,536 × stand + 64 × slot + byte. -/
def descBytes (s : State) (p o n : Nat) : List Byte := smapGetMany memDflt s.descs (p * 65536 + o) n
def putDesc (p o : Nat) (bs : List Byte) (s : State) : State :=
  { s with descs := smapSetMany memDflt s.descs (p * 65536 + o) bs }

/-- May a hub's RW fields be written: every queue off, idle or held (R293)? -/
def hubQuiet (s : State) (p : Nat) : Bool :=
  (List.range 32).all (fun q =>
    let st := rf s (HubQState.key p q) HubQState.state
    st = 0 || st = 3)

/-- HUB_DESC_DATA (R293): eight bytes at ADDR, which advances after each access. -/
def descDataWrite (p : Nat) (v : Word) (s : State) : Status × State :=
  if !hubQuiet s p then (stArrayBusy, s)
  else (stDone, rfadd (HubDescAccess.key p) HubDescAccess.addr 8
    (putDesc p (rf s (HubDescAccess.key p) HubDescAccess.addr / 8 * 8) (bytesLE 8 v.toNat) s))
def descDataRead (p : Nat) (s : State) : Except Status (Word × State) :=
  .ok (BitVec.ofNat 64 (ofBytesLE (descBytes s p (rf s (HubDescAccess.key p) HubDescAccess.addr / 8 * 8) 8)),
    rfadd (HubDescAccess.key p) HubDescAccess.addr 8 s)

def execHubDescDataAccess (via : Via) (phys : BitVec 6) (write : Bool) (value : Word) (s : State) :
    Host.Outcome State Fault Refusal :=
  .next (dataAccess via (HubDescData.key phys.toNat) write (descDataWrite phys.toNat value) (descDataRead phys.toNat) s)

/-- OTP_STAGE_DATA (R548): eight bytes at ADDR of the staging buffer, which advances after each access. -/
def otpDataWrite (v : Word) (s : State) : Status × State :=
  (stDone, rfadd OtpStageAccess.key OtpStageAccess.addr 8
    { s with otpStage := smapSetMany memDflt s.otpStage (rf s OtpStageAccess.key OtpStageAccess.addr / 8 * 8)
                           (bytesLE 8 v.toNat) })
def otpDataRead (s : State) : Except Status (Word × State) :=
  .ok (BitVec.ofNat 64 (ofBytesLE (smapGetMany memDflt s.otpStage (rf s OtpStageAccess.key OtpStageAccess.addr / 8 * 8) 8)),
    rfadd OtpStageAccess.key OtpStageAccess.addr 8 s)

def execOtpStageDataAccess (via : Via) (write : Bool) (value : Word) (s : State) : Host.Outcome State Fault Refusal :=
  .next (dataAccess via OtpStageData.key write (otpDataWrite value) otpDataRead s)

end Sys2Proof.Machine
end

