-- ==== Sys2Proof/Machine/Retire.lean ====
section
/-!
DEFINITION. How a command issues and retires (R18, R345 to R347): the header's flags, the commands that hold it, its
WAIT_EN tally, its DONE increment, and the completion it leaves for its ring or session.
-/

namespace Sys2Proof

def Cmd.waitEn (c : Cmd) : Bool := Machine.natBit c.flags.toNat 0
def Cmd.doneEn (c : Cmd) : Bool := Machine.natBit c.flags.toNat 1
def Cmd.doneUnit (c : Cmd) : Bool := Machine.natBit c.flags.toNat 2
def Cmd.ordered (c : Cmd) : Bool := Machine.natBit c.flags.toNat 3
def Cmd.irq (c : Cmd) : Bool := Machine.natBit c.flags.toNat 4

/-- The little-endian number of `n` bytes at a byte offset of the command; the body begins at 16 (R346). -/
def Cmd.num (c : Cmd) (o n : Nat) : Nat := c.body.toNat / 2 ^ (8 * (o - 16)) % 2 ^ (8 * n)

/-- Are `n` bytes at an offset zero? -/
def Cmd.zero (c : Cmd) (o n : Nat) : Bool := c.num o n = 0

/-- Was the command issued by a host port? -/
def Cmd.fromHost (c : Cmd) : Bool :=
  match c.issuer with
  | .host _ _ => true
  | .mgmt _ _ => false

/-- The waiter of a command. -/
def Cmd.waiter (c : Cmd) : Machine.Waiter :=
  match c.issuer with
  | .host p r => .verb p.toNat r.toNat c.cmdId
  | .mgmt p i => .verb (4 + p.toNat) i.toNat c.cmdId

/-- The router that a command's packets leave from: its port's ring unit, or the ring's own for a session (log entry 12). -/
def Cmd.router (c : Cmd) : Nat :=
  match c.issuer with
  | .host p _ => 65 + p.toNat
  | .mgmt _ _ => 67

end Sys2Proof

namespace Sys2Proof.Machine

/-- The key of the session that issued a command: operator verbs come over the record protocol (R521). -/
def mgmtKey (p : BitVec 1) (i : BitVec 2) : Nat := sessKey p.toNat 1 i.toNat

/-- Is the command's session over while it runs on (R524)? -/
def isOrphan (s : State) (c : Cmd) : Bool := s.orphans.contains c

/-- The commands of the issuer that are in flight, in order: those of one session, which may be over. -/
def flightOf (s : State) (c : Cmd) : List Cmd :=
  if isOrphan s c then s.orphans.filter (fun x => x.issuer = c.issuer)
  else match c.issuer with
  | .host p r => (ringOf s p.toNat r.toNat).flight
  | .mgmt p i => ((sessOf s (mgmtKey p i)).map (·.flight)).getD []

/-- Set the commands in flight of an issuer. -/
def putFlight (c : Cmd) (l : List Cmd) (s : State) : State :=
  match c.issuer with
  | .host p r => putRing p.toNat r.toNat { ringOf s p.toNat r.toNat with flight := l } s
  | .mgmt p i =>
    match sessOf s (mgmtKey p i) with
    | some v => putSess (mgmtKey p i) (some { v with flight := l }) s
    | none => s

/-- A command is in flight from its fetch to its retirement. -/
def noteFlight (c : Cmd) (s : State) : State :=
  if (flightOf s c).contains c then s else putFlight c (flightOf s c ++ [c]) s

/-- A command leaves its flight. -/
def dropFlight (c : Cmd) (s : State) : State :=
  if isOrphan s c then { s with orphans := s.orphans.erase c } else putFlight c ((flightOf s c).erase c) s

/-- The commands of the same ring fetched before it and not yet retired. -/
def earlier (s : State) (c : Cmd) : List Cmd := (flightOf s c).takeWhile (fun x => x ≠ c)

/-- The status of a record that goes to no ring and no session: other than ST_DONE it still reaches the management network
as a report, once (R349, R524). ST_INPUT_FAULT is a refusal there (R461). -/
def discardRec (r : Retired) (s : State) : State :=
  if r.status = stDone || r.told then s
  else if r.status = stInputFault then reportRefusal r.status locNone (bytesLE 8 r.detail.toNat) s
  else report r.status false 0 locNone 0 (bytesLE 8 r.detail.toNat) s

/-- A command retires (R18, R347): its record waits for a free completion slot of its ring, or goes to its session. When
that is over, a status other than ST_DONE still goes to the management network as a report (R524). `told`: the descriptor's
retirement has reported it (R278). -/
def retireRec (told : Bool) (c : Cmd) (st : Status) (r0 r1 detail : Word) (cv nonrepeat : Bool) (s : State) : State :=
  let r : Retired := ⟨c.issuer, c.cmdId, st, r0, r1, detail, cv, nonrepeat, c.irq, told⟩
  let orphan := isOrphan s c
  let s := dropWait c.waiter (dropFlight c { s with fetchOrder := s.fetchOrder.erase c })
  if orphan then discardRec r s
  else match c.issuer with
  | .host p q =>
    let v := ringOf s p.toNat q.toNat
    putRing p.toNat q.toNat { v with done := v.done ++ [r], reserved := v.reserved.filter (fun x => x.1 ≠ c) } s
  | .mgmt p i =>
    match sessOf s (mgmtKey p i) with
    | some v => putSess (mgmtKey p i) (some { v with out := v.out ++ [.completion r] }) s
    | none => s

/-- A command that is no descriptor retires. -/
def retireCmd (c : Cmd) (st : Status) (r0 r1 detail : Word) (cv nonrepeat : Bool) (s : State) : State :=
  retireRec false c st r0 r1 detail cv nonrepeat s

/-- A verb retires (R346, R347): on ST_DONE with DONE_EN its tally advances by one packet first, and at a stand's tally that
takes a TALLY packet, whose answer it waits for (R278). `nonrepeat`: a read of its was late (R363). -/
def retireAs (nonrepeat : Bool) (c : Cmd) (st : Status) (r0 r1 detail : Word) (s : State) : State :=
  if st = stDone ∧ c.doneEn = true then
    match doneSend 64 c.router locNone c.doneTally.toNat 1 s with
    | (.ok none, s) => retireCmd c stDone r0 r1 detail false nonrepeat s
    | (.ok (some id), s) => noteFlight c { s with dones := s.dones ++ [⟨id, c, r0, r1, detail, nonrepeat⟩] }
    | (.error st, s) => retireCmd c st r0 r1 detail false nonrepeat s
  else retireCmd c st r0 r1 detail false nonrepeat s

/-- A verb retires none of whose reads was late. -/
def retireWith (c : Cmd) (st : Status) (r0 r1 detail : Word) (s : State) : State := retireAs false c st r0 r1 detail s

/-- A verb without RESULT1 retires. -/
def retireVerb (c : Cmd) (st : Status) (r0 detail : Word) (s : State) : State := retireWith c st r0 0 detail s

/-- The DONE increment of a verb is answered (R278, R320). -/
def verbDone (id : MeshSrc) (st : Status) (s : State) : State :=
  match s.dones.find? (fun d => d.src = id) with
  | none => s
  | some d => retireCmd d.cmd st d.result0 d.result1 d.detail false d.nonrepeat { s with dones := s.dones.filter (fun x => x.src ≠ id) }

/-- A refusal, which names its status and leaves what it addresses unchanged (R18). -/
def refuse (c : Cmd) (st : Status) (detail : Word) (s : State) : State := retireVerb c st 0 detail s

/-- A command waits on its WAIT_EN tally (R276, R326, R327): a ring tally is looked at, a stand's is asked. -/
def cmdWait (c : Cmd) (s : State) : Except Status Bool × State :=
  if c.waitEn then waitStep 64 c.router locNone c.waitTally.toNat c.waitTarget c.waiter s else (.ok true, s)

/-- Has the WAIT_EN tally of a command been reached (R276, R317)? -/
def waitMet (s : State) (c : Cmd) : Except Status Bool := (cmdWait c s).1

/-- A control verb: 0x01 to 0x0E and 0x20 to 0x2F (R345). -/
def isControl (code : Nat) : Bool := (1 ≤ code && code ≤ 0x0E) || (0x20 ≤ code && code ≤ 0x2F)

/-- An operator-role verb (R350). -/
def isOperator (code : Nat) : Bool := 0x20 ≤ code && code ≤ 0x2F

/-- Does the verb pass through the control arbiter (R345)? -/
def arbitrated (code : Nat) : Bool := isControl code && code != 0x0C

/-- Does a DMA_COPY wait for a CXL request tag (R345, R352): its source is read through the port, its reads are not all
under way, and the port has 4,096 outstanding? -/
def waitsTag (q : Port) (j : CopyJob) : Bool :=
  decide ((j.cmd.num 16 1 = 0 ∨ j.cmd.num 16 1 = 3) ∧ j.requested < j.cmd.num 40 8) &&
    decide (4096 ≤ (q.reads.filter (fun x => x.data.isNone)).length)

/-- Has a command in flight issued: does a ring DMA engine hold it with the tags that it needs, or a hub ring queue or
the control arbiter, or is its DONE increment on its way? -/
def issued (s : State) (c : Cmd) : Bool :=
  s.dones.any (fun d => d.cmd = c) || s.ports.any (fun x => x.2.copies.any (fun j => j.cmd = c && !waitsTag x.2 j)) || s.hubQs.any (fun x => x.2.ring.any (fun r => r.cmd = c)) ||
  (match s.arb with
    | some (_, a) => decide (a = c)
    | none => false)

/-- Must a command wait for earlier commands of its ring or session (R345, R524): every command for those that have not
issued, an ORDERED command and a control verb for those that have not retired? ABORT waits for none. -/
def heldBack (s : State) (code : Nat) (c : Cmd) : Bool :=
  code != 0x12 && (earlier s c).any (fun e => isControl code || c.ordered || !issued s e)

/-- The control verbs fetched before a command and not retired (R345). -/
def fetchedBefore (s : State) (c : Cmd) : List Cmd := s.fetchOrder.takeWhile (fun e => e ≠ c)

/-- Could a control verb that waits issue now: nothing of its ring before it, and its tally not awaited (R345)? -/
def couldIssue (s : State) (e : Cmd) : Bool := (earlier s e).isEmpty && decide (waitMet s e ≠ .ok false)

/-- Does a bring-up of any kind run (R464)? -/
def bringRuns (s : State) : Bool := s.bring.kind != 0 || !s.bring.heat.isEmpty || !s.bring.single.isEmpty

/-- Is a control verb refused at once because of a bring-up, without waiting for the arbiter (R464, R465): one that a module in
no module state does not accept, a STAND_POWER through a bring-up, a BRING_UP while a bring-up of any kind runs? -/
def refusedOutright (s : State) (code : Nat) : Bool :=
  (decide (s.mode = .none) && !(code = 0x2A || code = 0x2B)) || (s.bring.kind != 0 && code = 0x2A) || (bringRuns s && code = 0x2B)

/-- Must a verb wait for the control arbiter, which executes one at a time in fetch order (R345)? The verb that the arbiter
executes does. -/
def arbiterBusy (s : State) (code : Nat) (c : Cmd) : Bool :=
  arbitrated code && (s.arb.any (fun x => x.2 = c) ||
    (!refusedOutright s code && (s.arb.isSome || s.gul.blazing || (fetchedBefore s c).any (couldIssue s))))

/-- A verb stays in flight; one that the arbiter serves keeps its place in fetch order (R345). -/
def noteVerb (code : Nat) (c : Cmd) (s : State) : State :=
  noteFlight c (if arbitrated code && !s.fetchOrder.contains c then { s with fetchOrder := s.fetchOrder ++ [c] } else s)

/-- Is a command's session open, or is it one that runs on (R521, R524)? A ring needs none. -/
def senderThere (s : State) (c : Cmd) : Bool :=
  isOrphan s c ||
  match c.issuer with
  | .host _ _ => true
  | .mgmt p i => (sessOf s (mgmtKey p i)).isSome

/-- The verbs that a module in no module state accepts (R465): SET_POWER_CAP, ABORT, STAND_POWER and BRING_UP. -/
def allowedInNone (code : Nat) : Bool := code = 0x0C || code = 0x12 || code = 0x2A || code = 0x2B

/-- A COMMAND message of a session counts in its SEQ when it arrives (R523). -/
def cmdArrives (c : Cmd) (s : State) : State :=
  match c.issuer with
  | .host _ _ => s
  | .mgmt p i =>
    match sessOf s (mgmtKey p i) with
    | some v => if v.flight.contains c || isOrphan s c then s else putSess (mgmtKey p i) (some { v with seqIn := v.seqIn + 1 }) s
    | none => s

/-- DETAIL of a refusal that concerns no unit and no access (R347): a DMA_COPY gives an address, every other verb a LOCATION. -/
def noDetail (code : Nat) : Word := if code = 0x10 then 0 else locNone

/-- A command that its ring or session holds is judged (R345, R346, R350): it waits for earlier commands, for the control
arbiter and for its tally, staying in flight, and its row comes again (log entry 13); then role, header, body and the
module's being in a state (R465) are judged, and `run` performs it. -/
def judgeVerb (code : Nat) (c : Cmd) (bodyOk : Bool) (run : State → State) (s : State) : State :=
  if s.dones.any (fun d => d.cmd = c) then s
  else if heldBack s code c || arbiterBusy s code c then noteVerb code c s
  else
    match cmdWait c s with
    | (.error st, s) => refuse c st (noDetail code) s
    | (.ok false, s) => noteVerb code c s
    | (.ok true, s) =>
      if isOperator code && c.fromHost then refuse c stRoleDenied locNone s
      else if c.flags.toNat ≥ 32 ∨ (c.doneUnit = false ∧ code ≠ 0x10) ∨ bodyOk = false then refuse c stDescInvalid (noDetail code) s
      else if c.doneEn = true ∧ tallyPlace s c.doneTally.toNat = .error stAddrReserved then refuse c stAddrReserved (noDetail code) s
      else if s.mode = .none ∧ allowedInNone code = false then refuse c stBadState (noDetail code) s
      else run s

/-- Issue a command (R345, R524). A session that is not open sends nothing. -/
def issueVerb (code : Nat) (c : Cmd) (bodyOk : Bool) (run : State → State) (s : State) : State :=
  if senderThere s c then judgeVerb code c bodyOk run (cmdArrives c s) else s

/-- End the verb that holds the control arbiter. -/
def endLong (st : Status) (r0 detail : Word) (s : State) : State :=
  match s.arb with
  | some (_, c) => retireVerb c st r0 detail { s with arb := none }
  | none => s

/-- Take the control arbiter for a verb that ends by an event of its own. -/
def beginLong (code : Nat) (c : Cmd) (s : State) : State := noteFlight c { s with arb := some (code, c) }

end Sys2Proof.Machine
end

