-- ==== Sys2Proof/Machine/StageStep.lean ====
section
/-!
DEFINITION. One step of a stage (R81): what an operation's evaluation yields, the waits of R87, the stops of R89, the
replay of R90, and the one commit that every operation shares: destination, FWD, flags, SRS count, accumulators, core
memory, batons, counters (R139 to R145), trace (R416), and the move to the next repetition or entry (R93).
-/

namespace Sys2Proof.Machine

/-- The effects a completed step commits together (R81). -/
structure StepRes where
  out : Option (List Lane) := none
  nbytes : Nat := 4
  flags : FlagBits := 0
  srs : Nat := 0
  pool : Nat := 0
  acc : Option (List Acc) := none
  pred : Option (BitVec 16) := none
  sparse : Option (List SparseLane) := none
  maxq : Nat := 0
  qholds : Nat := 0
  half : Option (Option Vec) := none
  takeRoute : Bool := false
  clearFresh : Bool := false
  load : Option (Nat × Bool) := none
  corrected : Nat := 0
  store : Option (Nat × List Lane) := none
  btnTake : Bool := false
  btnSend : Option Byte := none
  ctrAdv : Option Nat := none
  service : List ServiceOut := []
  clearFlags : Bool := false
  fwd : Option (List Lane) := none
  marked : Bool := false
  laneReports : List (Status × Nat) := []
  endWait : Bool := false
  deriving DecidableEq, Repr

/-- How a step ends: it commits; it waits under a cause of R87; it stops under R89 with the lanes concerned and the
report's DATA; it replays after a parity failure (R90); its core-memory read meets an uncorrectable word (R92). -/
inductive StepEnd where
  | commit (r : StepRes)
  | wait (cause : Nat)
  | stop (st : Status) (lanes : BitVec 16) (data : List Byte)
  | replay (lanes : BitVec 16)
  | uncorrectable (key : Nat)
  deriving DecidableEq, Repr

/-- Why a completed evaluation cannot commit yet: a wait of R87, with the counter whose advance waits for its bound
(R158); another stage's turn comes first (R91, R142); or hold slots that the product queue still owes (R247). -/
inductive Blocked where
  | wait (cause : Nat) (ctr : Option Nat)
  | later
  | holds
  deriving DecidableEq, Repr

/-- The value of a baton and its tag (R136). -/
def batonValue (b : BitVec 16) : Nat := b.toNat % 256
def batonTag (b : BitVec 16) : Nat := b.toNat / 256

/-- One advance of counter c with its ripple to the parent (R139): the error is the counter whose pass waits for its bound
baton (cause 0x7). `bi` are the batons that wait, `em` the emissions so far as (counter, value). DESIGN CHOICE (log 76):
what only a set-up write after the load can bring about, and no rule judges, has no effect of its own: a PARENT that is
not a higher counter names none, and TRIPS_M1 or BOUND_SRC written then leaves BOUND as it stands. -/
def advCounter (p a : Nat) : Nat → Nat → List (BitVec 16) → List (Nat × Nat) → State →
    Except Nat (List (BitVec 16) × List (Nat × Nat) × State)
  | 0, _, bi, em, s => .ok (bi, em, s)
  | fuel + 1, c, bi, em, s =>
    let cfg := rg s (CaCtrCfg.key p a c)
    let lp := rg s (CaCtrLoop.key p a c)
    let ks := CaCtrState.key p a c
    let kt := CaCtrStatus.key p a c
    let fromBaton := decide (fldGet CaCtrCfg.boundSrc cfg = 1)
    let needs := fromBaton && decide (rf s kt CaCtrStatus.boundValid = 0)
    match needs, bi with
    | true, [] => .error c
    | _, _ =>
      let (bi, s) := match needs, bi with
        | true, b :: r => (r, rfput kt CaCtrStatus.boundValid 1 (rfput ks CaCtrState.bound (batonValue b) s))
        | _, _ => (bi, s)
      let s := rfput kt CaCtrStatus.waiting 0 s
      let idx := rf s ks CaCtrState.index + 1
      let bound := rf s ks CaCtrState.bound
      let s := rfadd ks CaCtrState.advTag 1 (rfadd ks CaCtrState.value (fldGet CaCtrLoop.step lp) s)
      let emit := fldGet CaCtrCfg.emit cfg
      if bound < idx then
        let s := rfput ks CaCtrState.value (fldGet CaCtrLoop.start lp) (rfput ks CaCtrState.index 0
          (rfadd ks CaCtrState.wrapTag 1 s))
        let s := if fromBaton then rfput kt CaCtrStatus.boundValid 0 s else s
        let em := if emit = 1 ∨ emit = 2 then em ++ [(c, fldGet CaCtrCfg.doneValue cfg)] else em
        let par := fldGet CaCtrCfg.parent cfg
        if c < par ∧ par < 6 then advCounter p a fuel par bi em s else .ok (bi, em, s)
      else
        let s := rfput ks CaCtrState.index idx s
        let em := if emit = 1 then em ++ [(c, fldGet CaCtrCfg.stepValue cfg)] else em
        .ok (bi, em, s)

/-- Advances one after another (R142). -/
def advCounters (p a : Nat) : List Nat → List (BitVec 16) → List (Nat × Nat) → State →
    Except Nat (List (BitVec 16) × List (Nat × Nat) × State)
  | [], bi, em, s => .ok (bi, em, s)
  | c :: cs, bi, em, s =>
    match advCounter p a 6 c bi em s with
    | .error c => .error c
    | .ok (bi, em, s) => advCounters p a cs bi em s

/-- The values of (number, value) pairs in ascending number, each number's in the order given (R145). -/
def sortEmits (em : List (Nat × Nat)) : List Nat := ((List.range 8).flatMap (fun c => em.filter (fun e => e.1 = c))).map (·.2)

/-- Place a step's emissions and BTNSENDs in the baton-out queue (R145): what the array step in course has placed there
stands in the order of emissions by ascending counter, then BTNSENDs by ascending stage, with consecutive tags of
OUT_SEQ. No baton of it has left, since one leaves only as a slot begins. -/
def pushBatons (p a : Nat) (em snd : List (Nat × Nat)) (s : State) : State :=
  let c := arrOf s (arrKey p a)
  let had := c.placed.length + c.sent.length
  let placed := c.placed ++ em
  let sent := c.sent ++ snd
  let vs := sortEmits placed ++ sortEmits sent
  let q := rf s (CaBtnState.key p a) CaBtnState.outSeq + 256 - had % 256
  let bs := (vs.zip (List.range vs.length)).map (fun (v, i) => BitVec.ofNat 16 ((q + i) % 256 * 256 + v % 256))
  rfadd (CaBtnState.key p a) CaBtnState.outSeq (em.length + snd.length)
    (putArr (arrKey p a)
      { c with btnOut := c.btnOut.take (c.btnOut.length - had) ++ bs, placed := placed, sent := sent } s)

/-- The tag a route-out vector takes from the state at the start of its step (R159). DESIGN CHOICE (log 76): a
reserved MODE 0b11, which only a set-up write after the load can leave, stamps as MODE 0b00 does, and a reserved TAG_CTR
names no counter and gives 0. -/
def routeTag (s : State) (l : Loc) : Nat :=
  let cfg := rg s (CaTagCfg.key l.p l.a)
  let c := fldGet CaTagCfg.tagCtr cfg
  if fldGet CaTagCfg.mode cfg = 1 then fldGet CaCtrState.advTag (ctrAt s l c)
  else if fldGet CaTagCfg.mode cfg = 2 then fldGet CaCtrState.wrapTag (ctrAt s l c)
  else (stageOf s l.key).seqStart.toNat

/-- Does the lap of a stand lie in the trace window (R416)? -/
def tracing (s : State) (p : Nat) : Bool :=
  s.traceEn && decide (s.traceFirst.toNat ≤ (standOf s p).laps ∧ (standOf s p).laps ≤ s.traceLast.toNat)

/-- A vector that a committed step of a stage writes goes to the array's trace where the lap lies in the window (R416). -/
def traceVec (l : Loc) (v : Vec) (s : State) : State :=
  if tracing s l.p then putArr l.arr { arrOf s l.arr with fed := (arrOf s l.arr).fed ++ [(l.st, v)] } s else s

/-- The trace of an array with what it has been fed in the slot in course, in ascending stage (R416); none before the
first lap of the window. -/
def traceNow (s : State) (k : Nat) : Option (BitVec 32) :=
  let c := arrOf s k
  let start := if c.traced then some c.trace else (standOf s (k / 4096)).trace
  if c.fed.isEmpty then start
  else
    let vs := (List.range 8).flatMap (fun i => (c.fed.filter (fun x => x.1 = i)).map (fun x => x.2))
    some (vs.foldl (fun t v => BitVec.ofNat 32 (crcFeed crc32cParams t.toNat (vecBytes v))) (start.getD 0xFFFFFFFF))

/-- A slot is over: what an array's trace was fed in it is in. -/
def traceSlot (p a : Nat) (s : State) : State :=
  let k := arrKey p a
  if (arrOf s k).fed.isEmpty then s
  else putArr k { arrOf s k with trace := (traceNow s k).getD 0xFFFFFFFF, traced := true, fed := [] } s

/-- Write the destination of a step (R94, R116): DOWN, pointer W, or the route-out latch with its tag; the per-vector
count advances for every vector, whichever tag it carries (R135). -/
def writeDst (l : Loc) (e : Entry) (r : StepRes) (s : State) : State :=
  match r.out with
  | none => s
  | some ws =>
    if e.dst = 1 then
      putStage l.key { stageOf s l.key with latch := ofLanes ws, fresh := true, wrote := true } s
    else if e.dst = 2 then
      let b := ptrW s l (repOf s l)
      (ws.zip (List.range 16)).foldl (fun s (w, i) => obWrite l i b (bytesLE r.nbytes w.toNat) s) s
    else if e.dst = 4 then
      let t := routeTag s l
      let s := rfadd (CaBtnState.key l.p l.a) CaBtnState.vecSeq 1 s
      traceVec l (ofLanes ws)
        (putArr l.arr { arrOf s l.arr with routeOut := some (.vector (BitVec.ofNat 8 t) (ofLanes ws)) } s)
    else s

/-- The advances that fall in the step (R142): the operation's own, then that of the entry's last repetition. -/
def stepAdvances (s : State) (l : Loc) (e : Entry) (r : StepRes) : List Nat :=
  (match r.ctrAdv with
    | some c => [c]
    | none => []) ++ (if repOf s l = e.rpt.toNat ∧ e.ctr.toNat < 6 then [e.ctr.toNat] else [])

/-- Move the stage to its next repetition, or to the next entry after the last one (R93). -/
def stepOn (l : Loc) (e : Entry) (s : State) : State :=
  let k := CaStageStatus.key l.p l.a l.st
  let rep := repOf s l
  let s := rfput k CaStageStatus.waitCause 0 (rfput k CaStageStatus.state 1 s)
  if rep < e.rpt.toNat then rfput k CaStageStatus.rep (rep + 1) s
  else rfput k CaStageStatus.pc (if e.last then 0 else rf s k CaStageStatus.pc + 1) (rfput k CaStageStatus.rep 0 s)

/-- The batons that the stages of a list, whose steps end in this array step too, place after one another: the emissions of
their advances, as far as their bounds let them go, and their BTNSENDs (R139, R142, R145). -/
def batonsOf : List Loc → List (BitVec 16) → State → Nat
  | [], _, _ => 0
  | m :: ms, bi, s =>
    let w := curOp s m
    let op := fldGet CaOp.opcode w
    if !canStep s m || !usesChain s m then batonsOf ms bi s
    else
      let bi := if op = 0x53 ∨ op = 0x54 then bi.drop 1 else bi
      let own := if op = 0x50 ∧ fldGet CaOp.aux w % 8 < 6 then [fldGet CaOp.aux w % 8] else []
      let last := if fldGet CaOp.ctr w < 6 ∧ repOf s m = fldGet CaOp.rept w then [fldGet CaOp.ctr w] else []
      let n := if op = 0x52 then 1 else 0
      match advCounters m.p m.a (own ++ last) bi [] s with
      | .ok (bi, em, t) => n + em.length + batonsOf ms bi t
      | .error _ => n + batonsOf ms bi s

/-- Has the baton-out queue room for all that the array step has still to place: a stage's `n` batons and those of the
stages above it, under the counters and the baton-in queue that the stage leaves (R145)? -/
def batonsFit (s t : State) (l : Loc) (bi : List (BitVec 16)) (n : Nat) : Bool :=
  n = 0 || decide ((arrOf s l.arr).btnOut.length + n +
    batonsOf ((stagesOf s l.p l.a).filter (fun m => decide (l.st < m.st))) bi t ≤ 4)

/-- The effects of a step on the stage's own state and registers. A count written during the step stands as written (R75). -/
def commitStage (l : Loc) (r : StepRes) (s : State) : State :=
  let t := stageOf s l.key
  let t := { t with
    acc := r.acc.getD t.acc
    pred := r.pred.getD t.pred
    sparse := r.sparse.getD t.sparse
    half := r.half.getD t.half
    left := 0, late := 0, attempts := 0, done := true, srHeld := none }
  let held := (stageOf s l.key).srHeld.isSome
  let s := putStage l.key t s
  let kf := CaArithFlags.key l.p l.a l.st
  let s := if r.clearFlags then rput kf (rg s kf &&& ~~~ CaArithFlags.desc.w1c) s else s
  let s := rput kf (rg s kf ||| r.flags.setWidth 64) s
  let s := if held then s else rfadd (CaSrCount.key l.p l.a l.st) CaSrCount.count r.srs s
  let s := if r.maxq ≤ rf s (CaSparse.key l.p l.a) CaSparse.maxq then s
    else rfput (CaSparse.key l.p l.a) CaSparse.maxq (min 8 r.maxq) s
  let d := standOf s l.p
  let s := if r.pool = 0 ∧ r.marked = false then s
    else putStand l.p { d with pool := d.pool.drop r.pool, markedSteps := d.markedSteps + (if r.marked then 1 else 0) } s
  let c := arrOf s l.arr
  putArr l.arr { c with routeTaken := c.routeTaken || r.takeRoute,
                        routeOut := if r.service.isEmpty then c.routeOut else some (.service l.st r.service) } s

/-- The effects of a step on the upstream stage's FRESH bit and on core memory (R79, R91, R129). -/
def commitStore (l : Loc) (r : StepRes) (s : State) : State :=
  let s := if r.clearFresh ∧ 0 < l.st then
      putStage (l.key - 1) { stageOf s (l.key - 1) with fresh := (stageOf s (l.key - 1)).wrote } s else s
  let s := match r.load with
    | some (n, true) => setTag (slotKey l.p l.a n) false s
    | _ => s
  let s := if r.corrected = 0 then s else rfsat (CaCoreEcc.key l.p l.a) CaCoreEcc.corrected r.corrected s
  let s := r.laneReports.foldl (fun s (st, i) => report st false 1 (locUnit l.lg l.p l.a l.st 0 i 0) 0 [] s) s
  let s := if r.endWait then dropWait (.stage l.p l.a l.st) s else s
  match r.store with
  | some (n, ws) =>
    traceVec l (ofLanes ws) (touchCore l.p l.a n
      (setTag (slotKey l.p l.a n) true (writeBytes (sramKey l.p l.a (64 * n)) (vecBytes (ofLanes ws)) s)))
  | none => s

/-- Does the step advance a counter or use a baton queue (R142, R143, R145)? -/
def chained (s : State) (l : Loc) (e : Entry) (r : StepRes) : Bool :=
  r.btnTake || r.btnSend.isSome || !(stepAdvances s l e r).isEmpty

/-- Commit a completed step (R81). It waits under cause 0x4 for the route-out latch, or 0x7 for a baton or for room in
the baton-out queue (R139, R143, R145); it is not complete while its product queue owes hold slots (R247), nor before a
stage whose turn comes first has taken it (R91, R142). -/
def commitStep (l : Loc) (e : Entry) (r : StepRes) (s : State) : Except Blocked State :=
  let usesOut := (r.out.isSome && e.dst = 4) || !r.service.isEmpty
  if (stageOf s l.key).heldFor < r.qholds then .error .holds
  else if mustFollow s l (chained s l e r) (r.load.map (·.1)) (r.store.map (·.1)) then .error .later
  else if usesOut && (arrOf s l.arr).routeOut.isSome then .error (.wait 4 none)
  else
    let bi := (arrOf s l.arr).btnIn
    match r.btnTake, bi with
    | true, [] => .error (.wait 7 none)
    | _, _ =>
      let bi := if r.btnTake then bi.drop 1 else bi
      let s1 := commitStore l r (commitStage l r (writeDst l e r s))
      match advCounters l.p l.a (stepAdvances s l e r) bi [] s1 with
      | .error c => .error (.wait 7 (some c))
      | .ok (bi, em, s2) =>
        let snd := match r.btnSend with
          | some v => [(l.st, v.toNat)]
          | none => []
        if !batonsFit s s2 l bi (em.length + snd.length) then .error (.wait 7 none)
        else
          let s3 := putArr l.arr { arrOf s2 l.arr with btnIn := bi } s2
          let s4 := pushBatons l.p l.a em snd s3
          let s5 := match r.fwd with
            | some ws => putStage l.key { stageOf s4 l.key with latch := ofLanes ws, fresh := true, wrote := true } s4
            | none => s4
          .ok (stepOn l e s5)

/-- A stage waits under a cause (R87); the counter whose advance waits for its bound shows it in WAITING (R158). -/
def stageWaits (l : Loc) (cause : Nat) (ctr : Option Nat) (s : State) : State :=
  let k := CaStageStatus.key l.p l.a l.st
  let s := rfput k CaStageStatus.waitCause cause (rfput k CaStageStatus.state 2 s)
  match ctr with
  | some c => rfput (CaCtrStatus.key l.p l.a c) CaCtrStatus.waiting 1 s
  | none => s

/-- The device address of a byte of core memory (R38). -/
def coreAddr (l : Loc) (off : Nat) : Nat := 2 ^ 47 + l.lg * 2 ^ 31 + l.a * 2 ^ 19 + off

/-- The lowest lane of a mask. -/
def lowLane (m : BitVec 16) : Nat := ((List.range 16).find? (fun i => natBit m.toNat i)).getD 0

/-- A stage stops (R89): nothing of its step commits; the status, the lanes, the array's state and the report. A third
parity failure taints the epoch (R90). -/
def stageStops (l : Loc) (st : Status) (lanes : BitVec 16) (data : List Byte) (s : State) : State :=
  let k := CaStageStatus.key l.p l.a l.st
  let s := rfput k CaStageStatus.stopCode st.toNat (rfput k CaStageStatus.lanes lanes.toNat
    (rfput k CaStageStatus.waitCause 0 (rfput k CaStageStatus.state 3 s)))
  let s := rfput (CaStatus.key l.p l.a) CaStatus.stoppedStages (rf s (CaStatus.key l.p l.a) CaStatus.stoppedStages + 1)
    (rfput (CaStatus.key l.p l.a) CaStatus.arrayState 4 s)
  let kf := CaArithFlags.key l.p l.a l.st
  let s := if st = stAccLimit then rfput kf CaArithFlags.accLimit 1 (rfput kf CaArithFlags.limitLanes lanes.toNat s)
    else s
  let s := if st = stSparseIndex ∧ rf s (CaSparse.key l.p l.a) CaSparse.cause = 0 then
      let k := CaSparse.key l.p l.a
      rfput k CaSparse.cause (data.getD 0 0).toNat (rfput k CaSparse.stage l.st (rfput k CaSparse.lane (lowLane lanes)
        (rfput k CaSparse.block (data.getD 1 0).toNat (rfput k CaSparse.group (data.getD 2 0).toNat s))))
    else s
  let loc := locUnit l.lg l.p l.a l.st 0 (lowLane lanes) 0
  let tainting := decide (st = stOperandParity)
  let s := if tainting then taint st (BitVec.ofNat 64 (coreAddr l 0)) s else s
  let s := putStage l.key { stageOf s l.key with left := 0, late := 0, attempts := 0, begun := false, done := false,
                                                 srHeld := none } s
  report st tainting 1 loc 0 (bytesLE 2 lanes.toNat ++ data) s

/-- A step that met a parity failure in some lanes (R90): replayed over the slots of its class, and stopped at the third
failure. -/
def stageReplays (l : Loc) (lanes : BitVec 16) (s : State) : State :=
  let t := stageOf s l.key
  if 2 ≤ t.attempts then stageStops l stOperandParity lanes [] s
  else putStage l.key { t with attempts := t.attempts + 1, left := curLatency s l } s

/-- A core-memory read meets an uncorrectable word (R92): the stage waits under cause 0x6, the epoch is tainted, the
address recorded and reported, once for the wait. -/
def stageUncorrectable (l : Loc) (key : Nat) (s : State) : State :=
  let k := CaStageStatus.key l.p l.a l.st
  if rf s k CaStageStatus.waitCause = 6 then s
  else
    let off := key - sramKey l.p l.a 0
    let s := rfput k CaStageStatus.waitCause 6 (rfput k CaStageStatus.state 2 s)
    let ke := CaCoreEcc.key l.p l.a
    let s := if rf s ke CaCoreEcc.uncorr = 1 then s
      else rfput ke CaCoreEcc.uncorr 1 (rfput ke CaCoreEcc.uncorrAddr off s)
    let loc := locUnit l.lg l.p l.a 0 0 0 0
    report stUncorrectable true 1 loc (BitVec.ofNat 64 (coreAddr l off)) (0 :: bytesLE 4 off)
      (taint stUncorrectable (BitVec.ofNat 64 (coreAddr l off)) s)

/-- One step of a stage under an operation's evaluation (R81, R84 to R92): commit, wait, stop, replay. A step whose
completion must fall later is left as it is. -/
def runStep (l : Loc) (e : Entry) (f : Loc → Entry → State → StepEnd) (s : State) : State :=
  if !canStep s l then s
  else
    match f l e s with
    | .commit r =>
      match commitStep l e r s with
      | .ok s' => s'
      | .error (.wait c k) => stageWaits l c k s
      | .error .later => s
      | .error .holds => s
    | .wait c => stageWaits l c none s
    | .stop st lanes data => stageStops l st lanes data s
    | .replay lanes => stageReplays l lanes s
    | .uncorrectable k => stageUncorrectable l k s

/-- A stage-operation row: one step of the operation at a stage named by logical coordinates (R93), under the fields of
the entry the row gives (log 78). A stage of a stand that is not in service takes no step. -/
def stageOp (l : StageLoc) (e : Entry) (f : Loc → Entry → State → StepEnd) (s : State) : State :=
  match locOf s l with
  | some c => runStep c e f s
  | none => s

/-- Read one source and go on, or wait for the route-in latch, or replay. -/
def withA (s : State) (l : Loc) (e : Entry) (n : Nat) (f : List Lane → StepEnd) : StepEnd :=
  match readSrc s l e.srcA.toNat n with
  | .ok a => f a
  | .wait => .wait 3
  | .parity m => .replay m

/-- The lanes whose parity failed in a read. -/
def Opnd.failed : Opnd → BitVec 16
  | .parity m => m
  | _ => 0

/-- Read both sources and go on. -/
def withAB (s : State) (l : Loc) (e : Entry) (na nb : Nat) (f : List Lane → List Lane → StepEnd) : StepEnd :=
  match readSrc s l e.srcA.toNat na, readSrc s l e.srcB.toNat nb with
  | .ok a, .ok b => f a b
  | .wait, _ => .wait 3
  | _, .wait => .wait 3
  | a, b => .replay (a.failed ||| b.failed)

/-- The second operand's words pass downstream when FWD is set (R93). -/
def fwdOf (e : Entry) (wb : List Lane) : Option (List Lane) := if e.fwd then some wb else none

/-- Does the step read the route-in latch, which its commit frees (R211)? -/
def takesRoute (l : Loc) (e : Entry) : Bool := readsRoute l e.srcA.toNat || readsRoute l e.srcB.toNat

end Sys2Proof.Machine
end

