-- ==== Sys2Proof/Machine/StageAlu.lean ====
section
/-!
DEFINITION. Elementwise arithmetic (0x10 to 0x1C), compare and select (0x20 to 0x28) and the approximations (0x30 to
0x33) of a stage (R54 to R58, R70, R114, R120 to R122).
-/

namespace Sys2Proof.Machine

/-- The element count of an entry: 32 over the widest place of its formats (R114). -/
def elemCount (fs : List Nat) : Nat := 32 / fs.foldl (fun m f => max m (placeWidth f)) 4

/-- Sixteen lanes of up to n results each, with their flags gathered. -/
def gather (rs : List (List (Nat × FlagBits))) : List (List Nat) × FlagBits :=
  (rs.map (fun r => r.map (·.1)), rs.foldl (fun f r => r.foldl (fun g x => g ||| x.2) f) flNone)

/-- The result of an elementwise operation: `n` elements per lane in FMT_D, each rounded once under RMODE (R120), with
the SRS count or the pool advanced (R59, R61). -/
def roundLanes (s : State) (l : Loc) (e : Entry) (n : Nat) (v : Nat → Nat → FVal × FlagBits) : StepRes :=
  let fd := e.fmtD.toNat
  let (rs, fl) := gather ((List.range 16).map (fun i => (List.range n).map (fun j =>
    let (x, f) := v i j
    let (b, g) := convert fd (rmOf e) e.sat x (rndWord s l e n i j)
    (b, f ||| g))))
  { out := some (rs.map (packElems fd)), nbytes := elemBytes fd n, flags := fl,
    srs := if usesSrs e then n else 0, pool := if usesSre e then 16 * n else 0, marked := usesSre e,
    takeRoute := takesRoute l e }

/-- An integer result of a lane: wrapped, or saturated with OVERFLOW (R120). -/
def intResult (sat : Bool) (v : Int) : Lane × FlagBits :=
  if sat && decide (v < -(2 ^ 31)) then (BitVec.ofInt 32 (-(2 ^ 31)), flOverflow)
  else if sat && decide ((2 ^ 31 : Int) ≤ v) then (BitVec.ofInt 32 (2 ^ 31 - 1), flOverflow)
  else (BitVec.ofInt 32 v, flNone)

/-- An INT32 elementwise operation of two operands. DEDUCED (log 24): R122's "even when the chosen value is exact" is
read of every result of the table's class, so an integer result also advances the SRS count by one (R59), consumes a
pool word under SRE (R61) and is marked then (R133). -/
def intLanes (l : Loc) (e : Entry) (wa wb : List Lane) (f : Int → Int → Int) : StepRes :=
  let rs := (List.range 16).map (fun i => intResult e.sat (f (wa.getD i 0).toInt (wb.getD i 0).toInt))
  { out := some (rs.map (·.1)), flags := rs.foldl (fun g r => g ||| r.2) flNone,
    srs := if usesSrs e then 1 else 0, pool := if usesSre e then 16 else 0, marked := usesSre e,
    takeRoute := takesRoute l e }

/-- An elementwise operation of two operands, float or INT32 (R120). -/
def evalArith (ff : Nat → FVal → FVal → FVal × FlagBits) (fi : Int → Int → Int) (l : Loc) (e : Entry) (s : State) :
    StepEnd :=
  let fa := e.fmtA.toNat
  let fb := e.fmtB.toNat
  let n := elemCount [fa, fb, e.fmtD.toNat]
  if poolShort s l e (16 * n) then .wait 5
  else
    withAB s l e (elemBytes fa n) (elemBytes fb n) (fun wa wb =>
      if fa = 0x10 then .commit { intLanes l e wa wb fi with fwd := fwdOf e wb }
      else .commit { roundLanes s l e n (fun i j => ff (rmOf e) (decodeElem fa (laneElem fa (wa.getD i 0) j))
                        (decodeElem fb (laneElem fb (wb.getD i 0) j))) with fwd := fwdOf e wb })

/-- An elementwise operation of one operand. -/
def evalArith1 (ff : FVal → FVal) (fi : Int → Int) (l : Loc) (e : Entry) (s : State) : StepEnd :=
  let fa := e.fmtA.toNat
  let n := elemCount [fa, e.fmtD.toNat]
  if poolShort s l e (16 * n) then .wait 5
  else
    withA s l e (elemBytes fa n) (fun wa =>
      if fa = 0x10 then .commit (intLanes l e wa wa (fun a _ => fi a))
      else .commit (roundLanes s l e n (fun i j => (ff (decodeElem fa (laneElem fa (wa.getD i 0) j)), flNone))))

/-- FMAW: W ← a × b + W with one rounding (R120). -/
def evalFmaw (l : Loc) (e : Entry) (s : State) : StepEnd :=
  let fa := e.fmtA.toNat
  let fb := e.fmtB.toNat
  let fd := e.fmtD.toNat
  let n := elemCount [fa, fb, fd]
  if poolShort s l e (16 * n) then .wait 5
  else
    withAB s l e (elemBytes fa n) (elemBytes fb n) (fun wa wb =>
      match obWords s l (ptrW s l (repOf s l)) (elemBytes fd n) with
      | .wait => .wait 3
      | .parity m => .replay m
      | .ok ww => .commit { roundLanes s l e n (fun i j => fvFma (rmOf e)
          (decodeElem fa (laneElem fa (wa.getD i 0) j)) (decodeElem fb (laneElem fb (wb.getD i 0) j))
          (decodeElem fd (laneElem fd (ww.getD i 0) j))) with fwd := fwdOf e wb })

/-- SCALEB: a × 2^b, b an INT32 in B, rounded once. -/
def evalScaleb (l : Loc) (e : Entry) (s : State) : StepEnd :=
  let fa := e.fmtA.toNat
  if poolShort s l e 16 then .wait 5
  else
    withAB s l e (elemBytes fa 1) 4 (fun wa wb =>
      .commit { roundLanes s l e 1 (fun i _ => (fvScale (decodeElem fa (laneElem fa (wa.getD i 0) 0))
        (wb.getD i 0).toInt, flNone)) with fwd := fwdOf e wb })

/-- An operation on the 32-bit lane words of two operands, which ignores formats (R120). -/
def evalBits (f : Lane → Lane → Lane) (l : Loc) (e : Entry) (s : State) : StepEnd :=
  withAB s l e 4 4 (fun wa wb =>
    .commit { out := some ((List.range 16).map (fun i => f (wa.getD i 0) (wb.getD i 0))), takeRoute := takesRoute l e,
              fwd := fwdOf e wb })

/-- MOV: a, unchanged. -/
def evalMov (l : Loc) (e : Entry) (s : State) : StepEnd :=
  withA s l e 4 (fun wa => .commit { out := some wa, takeRoute := takesRoute l e })

/-- A compare (R121, R122): the mask fields, and P from element 0 of each lane. `rel` gives the relation and whether a
NaN input of the pair raises INVALID. -/
def evalCompare (rel : FVal → FVal → Bool) (anyNan : Bool) (l : Loc) (e : Entry) (s : State) : StepEnd :=
  let fa := e.fmtA.toNat
  let fb := e.fmtB.toNat
  let w := max (placeWidth fa) (placeWidth fb)
  let n := 32 / w
  withAB s l e (elemBytes fa n) (elemBytes fb n) (fun wa wb =>
    let rs := (List.range 16).map (fun i => (List.range n).map (fun j =>
      let a := decodeElem fa (laneElem fa (wa.getD i 0) j)
      let b := decodeElem fb (laneElem fb (wb.getD i 0) j)
      (rel a b, flIf (if anyNan then a.isNan || b.isNan else a.isSNan || b.isSNan) flInvalid)))
    .commit { out := some (rs.map (fun r => BitVec.ofNat 32 ((r.zip (List.range n)).foldl
                (fun m (x, j) => m + (if x.1 then (2 ^ w - 1) * 2 ^ (w * j) else 0)) 0))),
              flags := rs.foldl (fun f r => r.foldl (fun g x => g ||| x.2) f) flNone,
              pred := some (BitVec.ofNat 16 ((rs.zip (List.range 16)).foldl
                (fun m (r, i) => m + (if (r.getD 0 (false, flNone)).1 then 2 ^ i else 0)) 0)),
              takeRoute := takesRoute l e, fwd := fwdOf e wb })

/-- SEL: lane l gets a where P[l] is 1, and b otherwise (R121). -/
def evalSel (l : Loc) (e : Entry) (s : State) : StepEnd :=
  withAB s l e 4 4 (fun wa wb =>
    .commit { out := some ((List.range 16).map (fun i =>
                if natBit (stageOf s l.key).pred.toNat i then wa.getD i 0 else wb.getD i 0)),
              takeRoute := takesRoute l e, fwd := fwdOf e wb })

/-- An approximation (R70): the FP32 result, rounded once to a 16-bit FMT_D under RMODE. -/
def evalApprox (op : Nat) (l : Loc) (e : Entry) (s : State) : StepEnd :=
  let fa := e.fmtA.toNat
  let n := elemCount [fa, e.fmtD.toNat]
  if poolShort s l e (16 * n) then .wait 5
  else
    withA s l e (elemBytes fa n) (fun wa =>
      .commit (roundLanes s l e n (fun i j =>
        let v := decodeElem fa (laneElem fa (wa.getD i 0) j)
        let (y, f) := approxFP32 op v (toFP32 v).1
        (ofFP32 y, f))))

def opSub (rm : Nat) (a b : FVal) : FVal × FlagBits := fvAdd rm a (fvNeg b)

def execAdd (l : StageLoc) (e : Entry) (s : State) : Host.Outcome State Fault Refusal :=
  .next (stageOp l e (evalArith fvAdd (· + ·)) s)
def execSub (l : StageLoc) (e : Entry) (s : State) : Host.Outcome State Fault Refusal :=
  .next (stageOp l e (evalArith opSub (· - ·)) s)
def execMul (l : StageLoc) (e : Entry) (s : State) : Host.Outcome State Fault Refusal :=
  .next (stageOp l e (evalArith (fun _ => fvMul) (· * ·)) s)
def execFmaw (l : StageLoc) (e : Entry) (s : State) : Host.Outcome State Fault Refusal :=
  .next (stageOp l e evalFmaw s)
def execAbs (l : StageLoc) (e : Entry) (s : State) : Host.Outcome State Fault Refusal :=
  .next (stageOp l e (evalArith1 fvAbs (fun a => a.natAbs)) s)
def execNeg (l : StageLoc) (e : Entry) (s : State) : Host.Outcome State Fault Refusal :=
  .next (stageOp l e (evalArith1 fvNeg (fun a => -a)) s)
def execScaleb (l : StageLoc) (e : Entry) (s : State) : Host.Outcome State Fault Refusal :=
  .next (stageOp l e evalScaleb s)
def execAnd (l : StageLoc) (e : Entry) (s : State) : Host.Outcome State Fault Refusal :=
  .next (stageOp l e (evalBits (· &&& ·)) s)
def execOr (l : StageLoc) (e : Entry) (s : State) : Host.Outcome State Fault Refusal :=
  .next (stageOp l e (evalBits (· ||| ·)) s)
def execXor (l : StageLoc) (e : Entry) (s : State) : Host.Outcome State Fault Refusal :=
  .next (stageOp l e (evalBits (· ^^^ ·)) s)
def execShl (l : StageLoc) (e : Entry) (s : State) : Host.Outcome State Fault Refusal :=
  .next (stageOp l e (evalBits (fun a b => a <<< (b.toNat % 32))) s)
def execShr (l : StageLoc) (e : Entry) (s : State) : Host.Outcome State Fault Refusal :=
  .next (stageOp l e (evalBits (fun a b => a >>> (b.toNat % 32))) s)
def execMov (l : StageLoc) (e : Entry) (s : State) : Host.Outcome State Fault Refusal :=
  .next (stageOp l e evalMov s)
def execCmpeq (l : StageLoc) (e : Entry) (s : State) : Host.Outcome State Fault Refusal :=
  .next (stageOp l e (evalCompare fvEq false) s)
def execCmplt (l : StageLoc) (e : Entry) (s : State) : Host.Outcome State Fault Refusal :=
  .next (stageOp l e (evalCompare fvLt true) s)
def execCmple (l : StageLoc) (e : Entry) (s : State) : Host.Outcome State Fault Refusal :=
  .next (stageOp l e (evalCompare (fun a b => fvLt a b || fvEq a b) true) s)
def execCmpun (l : StageLoc) (e : Entry) (s : State) : Host.Outcome State Fault Refusal :=
  .next (stageOp l e (evalCompare (fun a b => a.isNan || b.isNan) false) s)
def execSel (l : StageLoc) (e : Entry) (s : State) : Host.Outcome State Fault Refusal :=
  .next (stageOp l e evalSel s)
def execMin (l : StageLoc) (e : Entry) (s : State) : Host.Outcome State Fault Refusal :=
  .next (stageOp l e (evalArith (fun _ => fvMinMax false) min) s)
def execMax (l : StageLoc) (e : Entry) (s : State) : Host.Outcome State Fault Refusal :=
  .next (stageOp l e (evalArith (fun _ => fvMinMax true) max) s)
def execMinnum (l : StageLoc) (e : Entry) (s : State) : Host.Outcome State Fault Refusal :=
  .next (stageOp l e (evalArith (fun _ => fvMinMaxNum false) min) s)
def execMaxnum (l : StageLoc) (e : Entry) (s : State) : Host.Outcome State Fault Refusal :=
  .next (stageOp l e (evalArith (fun _ => fvMinMaxNum true) max) s)
def execRcp (l : StageLoc) (e : Entry) (s : State) : Host.Outcome State Fault Refusal :=
  .next (stageOp l e (evalApprox 0) s)
def execRsqrt (l : StageLoc) (e : Entry) (s : State) : Host.Outcome State Fault Refusal :=
  .next (stageOp l e (evalApprox 1) s)
def execExp2 (l : StageLoc) (e : Entry) (s : State) : Host.Outcome State Fault Refusal :=
  .next (stageOp l e (evalApprox 2) s)
def execLog2 (l : StageLoc) (e : Entry) (s : State) : Host.Outcome State Fault Refusal :=
  .next (stageOp l e (evalApprox 3) s)

end Sys2Proof.Machine
end

