-- ==== Sys2Proof/Machine/StageConv.lean ====
section
/-!
DEFINITION. Convert and pack (0x40 to 0x47) of a stage (R48, R52, R56, R125 to R127).
-/

namespace Sys2Proof.Machine

/-- CVT: FMT_A to FMT_D (R56). -/
def evalCvt (l : Loc) (e : Entry) (s : State) : StepEnd :=
  let fa := e.fmtA.toNat
  let n := elemCount [fa, e.fmtD.toNat]
  if poolShort s l e (16 * n) then .wait 5
  else
    withA s l e (elemBytes fa n) (fun wa =>
      .commit (roundLanes s l e n (fun i j => (decodeElem fa (laneElem fa (wa.getD i 0) j), flNone))))

/-- Elements packed by R48 from bit 0: element i at bits [w(i+1) − 1 : wi]. -/
def packBits (w : Nat) (es : List Nat) : Nat :=
  (es.zip (List.range es.length)).foldl (fun a (e, i) => a + e % 2 ^ w * 2 ^ (w * i)) 0

/-- Element i of a packed vector (R48). -/
def unpackBit (w : Nat) (v : Vec) (i : Nat) : Nat := v.toNat / 2 ^ (w * i) % 2 ^ w

/-- The vector of an MX block: packed elements and the scale in byte 48 (R125). -/
def mxVector (f rm : Nat) (vs : List (FVal × Nat)) : List Lane × FlagBits :=
  let (x, es, fl) := mxBlock f rm vs
  let v : Vec := BitVec.ofNat 512 (packBits (fmtWidth f) es + x.toNat * 2 ^ 384)
  ((List.range 16).map (vecLane v), fl)

/-- CVTMX: 32 values to one MX block, in one step of a 16-bit FMT_A or in the second of two of FP32 (R125). -/
def evalCvtmx (l : Loc) (e : Entry) (s : State) : StepEnd :=
  let fa := e.fmtA.toNat
  let fd := e.fmtD.toNat
  let rnd := fun i j => rndWord s l e 2 i j
  let done (vs : List (FVal × Nat)) (half : Option (Option Vec)) : StepEnd :=
    let (ws, fl) := mxVector fd (rmOf e) vs
    .commit { out := some ws, flags := fl, half := half, srs := if usesSrs e then 2 else 0,
              pool := if usesSre e then 32 else 0, marked := usesSre e, takeRoute := takesRoute l e }
  if fa = 0 then
    if repOf s l % 2 = 0 then
      withA s l e 4 (fun wa => .commit { half := some (some (ofLanes wa)), takeRoute := takesRoute l e })
    else if poolShort s l e 32 then .wait 5
    else
      withA s l e 4 (fun wa =>
        let h := ((stageOf s l.key).half).getD 0
        done ((List.range 32).map (fun v =>
          (ofFP32 (if v < 16 then vecLane h v else wa.getD (v - 16) 0), rnd (v % 16) (v / 16)))) (some none))
  else if poolShort s l e 32 then .wait 5
  else
    withA s l e 4 (fun wa =>
      done ((List.range 32).map (fun v =>
        (decodeElem fa (laneElem fa (wa.getD (v / 2) 0) (v % 2)), rnd (v / 2) (v % 2)))) none)

/-- The value of element i of a block vector (R125). -/
def mxVecValue (f : Nat) (v : Vec) (i : Nat) : FVal :=
  mxValue ((v >>> 384).setWidth 8) (decodeElem f (unpackBit (fmtWidth f) v i))

/-- DEMX: one MX block to 32 values, two per lane for a 16-bit FMT_D, in two steps for FP32 (R125). -/
def evalDemx (l : Loc) (e : Entry) (s : State) : StepEnd :=
  let fa := e.fmtA.toNat
  let wide := decide (e.fmtD = 0)
  let n := if wide then 1 else 2
  if poolShort s l e (16 * n) then .wait 5
  else if wide && decide (repOf s l % 2 = 1) then
    let h := ((stageOf s l.key).half).getD 0
    .commit { roundLanes s l e 1 (fun i _ => (mxVecValue fa h (16 + i), flNone)) with half := some none, takeRoute := false }
  else
    withA s l e 4 (fun wa =>
      let v := ofLanes wa
      .commit { roundLanes s l e n (fun i j => (mxVecValue fa v (if wide then i else 2 * i + j), flNone)) with
                half := if wide then some (some v) else none })

/-- PACK: element 0 of every lane packed from byte 0 (R126). -/
def evalPack (l : Loc) (e : Entry) (s : State) : StepEnd :=
  let f := e.fmtA.toNat
  withA s l e 4 (fun wa =>
    let v : Vec := BitVec.ofNat 512 (packBits (fmtWidth f) (wa.map (fun w => laneElem f w 0)))
    .commit { out := some ((List.range 16).map (vecLane v)), takeRoute := takesRoute l e })

/-- UNPACK: lane l gets element 16k + l of the packed vector (R126). -/
def evalUnpack (l : Loc) (e : Entry) (s : State) : StepEnd :=
  let f := e.fmtA.toNat
  let k := natBits e.aux.toNat 2 0
  withA s l e 4 (fun wa =>
    let v := ofLanes wa
    .commit { out := some ((List.range 16).map (fun i => BitVec.ofNat 32 (unpackBit (fmtWidth f) v (16 * k + i)))),
              takeRoute := takesRoute l e })

/-- PACK6: the four byte-form elements of a lane word to a 24-bit packed group (R126). -/
def evalPack6 (l : Loc) (e : Entry) (s : State) : StepEnd :=
  withA s l e 4 (fun wa =>
    .commit { out := some (wa.map (fun w => BitVec.ofNat 32 (packBits 6 ((List.range 4).map (fun i => laneElem 5 w i))))),
              takeRoute := takesRoute l e })

/-- UNPACK6: the packed group of a lane word to byte form. -/
def evalUnpack6 (l : Loc) (e : Entry) (s : State) : StepEnd :=
  withA s l e 4 (fun wa =>
    .commit { out := some (wa.map (fun w => packElems 5 ((List.range 4).map (fun i => w.toNat / 2 ^ (6 * i) % 64)))),
              takeRoute := takesRoute l e })

/-- FXCVT: the 64-bit fixed-point value of each lane pair, in units of 2^(AUX − 32), rounded once to FMT_D in the even
lane; the odd lane is 0 (R127). -/
def evalFxcvt (l : Loc) (e : Entry) (s : State) : StepEnd :=
  if poolShort s l e 16 then .wait 5
  else
    withA s l e 4 (fun wa =>
      .commit { roundLanes s l e 1 (fun i _ =>
        if i % 2 = 1 then (.fin false 0 0, flNone)
        else
          let v := natSigned 64 ((wa.getD i 0).toNat + (wa.getD (i + 1) 0).toNat * 2 ^ 32)
          (.fin (decide (v < 0)) v.natAbs (e.aux.toInt - 32), flNone)) with
        nbytes := elemBytes e.fmtD.toNat (32 / placeWidth e.fmtD.toNat) })

def execCvt (l : StageLoc) (e : Entry) (s : State) : Host.Outcome State Fault Refusal :=
  .next (stageOp l e evalCvt s)
def execCvtmx (l : StageLoc) (e : Entry) (s : State) : Host.Outcome State Fault Refusal :=
  .next (stageOp l e evalCvtmx s)
def execDemx (l : StageLoc) (e : Entry) (s : State) : Host.Outcome State Fault Refusal :=
  .next (stageOp l e evalDemx s)
def execPack (l : StageLoc) (e : Entry) (s : State) : Host.Outcome State Fault Refusal :=
  .next (stageOp l e evalPack s)
def execUnpack (l : StageLoc) (e : Entry) (s : State) : Host.Outcome State Fault Refusal :=
  .next (stageOp l e evalUnpack s)
def execPack6 (l : StageLoc) (e : Entry) (s : State) : Host.Outcome State Fault Refusal :=
  .next (stageOp l e evalPack6 s)
def execUnpack6 (l : StageLoc) (e : Entry) (s : State) : Host.Outcome State Fault Refusal :=
  .next (stageOp l e evalUnpack6 s)
def execFxcvt (l : StageLoc) (e : Entry) (s : State) : Host.Outcome State Fault Refusal :=
  .next (stageOp l e evalFxcvt s)

end Sys2Proof.Machine
end

