-- ==== Sys2Proof/Machine/StageDot.lean ====
section
/-!
DEFINITION. The dot and accumulator family (opcodes 0x00 to 0x08): NOP, DOT, DOTL, the sparse dots of chapter 08,
READOUT, ACCLOAD and ACCLOADX (R62 to R67, R117 to R119, R239 to R252).
-/

namespace Sys2Proof.Machine

/-- Is a dot format one of 8 bits or fewer (R62)? -/
def narrowFmt (f : Nat) : Bool := decide (fmtWidth f ≤ 8)

/-- Products per lane per step of a pairing (R80). -/
def dotProducts (fa fb : Nat) : Nat :=
  if fmtWidth fa = 4 ∧ fmtWidth fb = 4 then 4 else if narrowFmt fa ∧ narrowFmt fb then 2 else 1

/-- Is the source a latch (R118)? -/
def isLatch (code : Nat) : Bool := code = 1 || code = 6

/-- The words that the lanes of a dot use: a latch operand in broadcast form is the lane-0 word in every lane (R118). -/
def dotWords (bcast : Bool) (code : Nat) (ws : List Lane) : List Lane :=
  if bcast && isLatch code then allLanes (ws.getD 0 0) else ws

/-- The scale bytes of a dot operand (R49, R51, R118): none for a non-MX format (2^0); byte 4 of the vector in broadcast
form; bits [23:16] of the word in per-lane form and for a constant; byte 127 − b of the lane column for block b of an
operand-buffer operand. The second part is the lanes whose parity bit fails. -/
def dotScales (s : State) (l : Loc) (f code : Nat) (bcast : Bool) (ws : List Lane) (b : Nat) :
    List Byte × BitVec 16 :=
  if !fmtIsMX f then (List.replicate 16 127, 0)
  else if code = 2 ∨ code = 3 then
    ((List.range 16).map (fun i => obByte s (obKey l i (127 - b % 128))),
     lanesOf (fun i => obBadAt s l i (127 - b % 128) 1))
  else if bcast && isLatch code then (List.replicate 16 ((ws.getD 1 0).setWidth 8), 0)
  else (ws.map (fun (w : Lane) => (w >>> 16).setWidth 8), 0)

/-- One product added to a lane's accumulator, exact or running by the formats; none where C would pass 2^24 (R65). -/
def addOne (fa fb : Nat) (anchor : BitVec 9) (p : Product) (acc : Acc × FlagBits) : Option (Acc × FlagBits) :=
  let a := decodeElem fa p.a.toNat
  let b := decodeElem fb p.b.toNat
  if narrowFmt fa && narrowFmt fb then
    if acc.1.full then none
    else some (acc.1.addProduct anchor a b ((p.xa.toNat : Int) - 127 + ((p.xb.toNat : Int) - 127))
      (p.xa = 0xFF || p.xb = 0xFF), acc.2)
  else
    let (c, f) := acc.1.addRunning a b
    some (c, acc.2 ||| f)

/-- Products added in order. -/
def addMany (fa fb : Nat) (anchor : BitVec 9) : List Product → Acc × FlagBits → Option (Acc × FlagBits)
  | [], acc => some acc
  | p :: ps, acc =>
    match addOne fa fb anchor p acc with
    | some acc' => addMany fa fb anchor ps acc'
    | none => none

/-- One FP32 product of two FP32 operands, whose element bits are wider than a queue entry. -/
def addWide (a b : Lane) (acc : Acc × FlagBits) : Acc × FlagBits :=
  let (c, f) := acc.1.addRunning (ofFP32 a) (ofFP32 b)
  (c, acc.2 ||| f)

/-- The products of one lane of a dense dot step. -/
def laneProducts (fa fb k : Nat) (wa wb : Lane) (xa xb : Byte) : List Product :=
  (List.range k).map (fun i => ⟨BitVec.ofNat 16 (laneElem fa wa i), BitVec.ofNat 16 (laneElem fb wb i), xa, xb⟩)

/-- The new accumulators of the sixteen lanes, or the lanes at their limit. -/
def lanesResult (rs : List (Option (Acc × FlagBits))) : (List Acc × FlagBits) ⊕ BitVec 16 :=
  if rs.all (fun r => r.isSome) then
    .inl (rs.map (fun r => match r with
      | some x => x.1
      | none => .empty),
      rs.foldl (fun f r => match r with
        | some x => f ||| x.2
        | none => f) flNone)
  else .inr (BitVec.ofNat 16 ((rs.zip (List.range 16)).foldl (fun m (r, i) => if r.isNone then m + 2 ^ i else m) 0))

/-- DOT and DOTL (R117, R118): latch operands in broadcast or in per-lane form. -/
def evalDot (bcast : Bool) (l : Loc) (e : Entry) (s : State) : StepEnd :=
  let fa := e.fmtA.toNat
  let fb := e.fmtB.toNat
  let k := dotProducts fa fb
  withAB s l e (elemBytes fa k) (elemBytes fb k) (fun wa wb =>
    let blk := repOf s l * k / 32
    let (xa, ba) := dotScales s l fa e.srcA.toNat bcast wa blk
    let (xb, bb) := dotScales s l fb e.srcB.toNat bcast wb blk
    if ba ||| bb ≠ 0 then .replay (ba ||| bb)
    else
      let da := dotWords bcast e.srcA.toNat wa
      let db := dotWords bcast e.srcB.toNat wb
      let accs := (stageOf s l.key).acc
      let rs := (List.range 16).map (fun i =>
        let acc := (accs.getD i .empty, flNone)
        if fa = 0 then some (addWide (da.getD i 0) (db.getD i 0) acc)
        else addMany fa fb e.aux (laneProducts fa fb k (da.getD i 0) (db.getD i 0) (xa.getD i 127) (xb.getD i 127)) acc)
      match lanesResult rs with
      | .inr m => .stop stAccLimit m []
      | .inl (acc, fl) => .commit { acc := some acc, flags := fl, takeRoute := takesRoute l e,
                                    fwd := if e.fwd then some wb else none })

/-- The sparse forms: 2:4, 1:4, bitmap. -/
inductive SpForm where
  | s24
  | s14
  | bitmap
  deriving DecidableEq, Repr

/-- The window W and the products K of a pairing (R240). -/
def sparseShape (fa fb : Nat) : Nat × Nat :=
  if fmtWidth fa = 4 ∧ fmtWidth fb = 4 then (8, 4) else if narrowFmt fa then (4, 2) else (2, 1)

/-- Bytes that n values of a format take in a compressed block (R242). -/
def valueBytes (f n : Nat) : Nat := if fmtWidth f = 4 then (n + 1) / 2 else n * (placeWidth f / 8)

/-- Value j of a value region (R242). -/
def blockValue (f : Nat) (bs : List Byte) (j : Nat) : Nat :=
  if fmtWidth f = 4 then natBits (bs.getD (j / 2) 0).toNat (4 * (j % 2) + 3) (4 * (j % 2))
  else if fmtWidth f ≤ 8 then (bs.getD j 0).toNat % 2 ^ fmtWidth f
  else (bs.getD (2 * j) 0).toNat + 256 * (bs.getD (2 * j + 1) 0).toNat

/-- The set bits of a mask in ascending order, as positions below 32. -/
def maskPositions (m : Nat) : List Nat := (List.range 32).filter (natBit m)

/-- The positions of the stored values of a block, in value order, and the block's length (R243 to R245). -/
def blockIndex (sf : SpForm) (f : Nat) (bs : List Byte) : List Nat × Nat × Nat :=
  match sf with
  | .s24 =>
    let o := valueBytes f 16
    let ix := numAt bs o 4
    ((List.range 16).map (fun j => 4 * (j / 2) + natBits ix (2 * j + 1) (2 * j)), o + 4, 0)
  | .s14 =>
    let o := valueBytes f 8
    let ix := numAt bs o 2
    ((List.range 8).map (fun g => 4 * g + natBits ix (2 * g + 1) (2 * g)), o + 2, 0)
  | .bitmap =>
    let m := numAt bs 0 4
    (maskPositions m, 4 + valueBytes f (maskPositions m).length, 4)

/-- The first fault of R251 in a block, as (CAUSE, GROUP): `base` its first position, `m` the positions the entry
covers, `room` the bytes left of the sparse region. -/
def blockFault (sf : SpForm) (pos : List Nat) (len base m room : Nat) : Option (Nat × Nat) :=
  let eq := (List.range 8).find? (fun g => pos.getD (2 * g) 0 = pos.getD (2 * g + 1) 0)
  let gt := (List.range 8).find? (fun g => pos.getD (2 * g + 1) 0 < pos.getD (2 * g) 0)
  match (if sf = .s24 then eq else none), (if sf = .s24 then gt else none) with
  | some g, _ => some (1, g)
  | none, some g => some (2, g)
  | none, none => if pos.any (fun p => decide (m ≤ base + p)) then some (3, 0)
    else if room < len then some (4, 0) else none

/-- What a lane's step of a sparse dot gives: its new sparse state, accumulator, flags and hold slots; a fault of R251;
its accumulator limit; or a parity failure. -/
inductive SpLane where
  | ok (t : SparseLane) (acc : Acc) (fl : FlagBits) (holds : Nat)
  | fault (cause group : Nat)
  | limit
  | parity
  deriving DecidableEq, Repr

/-- One lane of a sparse step (R247, R248). -/
def sparseLane (s : State) (l : Loc) (e : Entry) (sf : SpForm) (i : Nat) (wb : Lane) (xb : Byte) : SpLane :=
  let fa := e.fmtA.toNat
  let fb := e.fmtB.toNat
  let (w, k) := sparseShape fa fb
  let rep := repOf s l
  let drains := sf = .bitmap || (sf = .s24 && fmtWidth fa = 16)
  let isDrain := drains && rep = e.rpt.toNat
  let m := w * (if drains then e.rpt.toNat else e.rpt.toNat + 1)
  let blocks := (m + 31) / 32
  let sreg := if fmtIsMX fa then blocks else 0
  let base := if e.srcA = 2 then ptrA s l 0 else ptrB s l 0
  let t := ((stageOf s l.key).sparse).getD i .init
  let t := if rep = 0 then { SparseLane.init with offset := base } else t
  let acc := ((stageOf s l.key).acc).getD i .empty
  let finish (t : SparseLane) : SpLane :=
    let q := t.queue.length
    let keep := if isDrain then 0 else 8
    let holds := if q ≤ k + keep then 0 else (q - k - keep + k - 1) / k
    let n := min q (k * (1 + holds))
    match addMany fa fb e.aux (t.queue.take n) (acc, flNone) with
    | some (acc', fl) => .ok { t with queue := t.queue.drop n } acc' fl holds
    | none => .limit
  if isDrain then finish t
  else
    let start := w * rep
    let append (t : SparseLane) : SpLane :=
      finish { t with queue := t.queue ++ ((List.range w).filterMap (fun j =>
        ((t.block.getD (start % 32 + j) none).map (fun a =>
          ⟨a, BitVec.ofNat 16 (laneElem fb wb j), t.scale, xb⟩)))) }
    if start % 32 = 0 then
      let b := start / 32
      let room := 128 - sreg - t.offset
      let bs := obBytes s l i t.offset 72
      let (pos, len, vo) := blockIndex sf fa bs
      if obBadAt s l i t.offset len || (fmtIsMX fa && obBadAt s l i (127 - b) 1) then .parity
      else
        match blockFault sf pos len start m room with
        | some (c, g) => .fault c g
        | none =>
          let vals := bs.drop vo
          let blk := (List.range 32).map (fun p => (findIdxSome (fun q => q = p) pos).map (fun j =>
            BitVec.ofNat 16 (blockValue fa vals j)))
          append { t with offset := (t.offset + len) % 128, block := blk,
                          scale := if fmtIsMX fa then obByte s (obKey l i (127 - b)) else 127 }
    else append t

/-- DOTS24, DOTS14 and DOTSBM (R239 to R252). -/
def evalSparse (sf : SpForm) (l : Loc) (e : Entry) (s : State) : StepEnd :=
  let fb := e.fmtB.toNat
  let (w, _) := sparseShape e.fmtA.toNat fb
  let rep := repOf s l
  let drains := sf = .bitmap || (sf = .s24 && fmtWidth e.fmtA.toNat = 16)
  let isDrain := drains && rep = e.rpt.toNat
  let run (raw wb : List Lane) (xb : List Byte) : StepEnd :=
    let rs := (List.range 16).map (fun i => sparseLane s l e sf i (wb.getD i 0) (xb.getD i 127))
    let failed := lanesOf (fun i => rs.getD i .limit = .parity)
    if failed ≠ 0 then .replay failed
    else
      let bad := (List.range 16).filterMap (fun i => match rs.getD i .parity with
        | .fault c g => some (i, c, g)
        | _ => none)
      let full := (List.range 16).filter (fun i => rs.getD i .parity = .limit)
      match bad, full with
      | (_, c, g) :: _, _ => .stop stSparseIndex (BitVec.ofNat 16 (bad.foldl (fun m (i, _, _) => m + 2 ^ i) 0))
          [BitVec.ofNat 8 c, BitVec.ofNat 8 (w * rep / 32), BitVec.ofNat 8 g]
      | [], _ :: _ => .stop stAccLimit (BitVec.ofNat 16 (full.foldl (fun m i => m + 2 ^ i) 0)) []
      | [], [] =>
        let oks := rs.filterMap (fun r => match r with
          | .ok t a f h => some (t, a, f, h)
          | _ => none)
        .commit { acc := some (oks.map (fun x => x.2.1)), sparse := some (oks.map (fun x => x.1)),
                  flags := oks.foldl (fun f x => f ||| x.2.2.1) flNone,
                  qholds := oks.foldl (fun m x => max m x.2.2.2) 0,
                  maxq := oks.foldl (fun m x => max m x.1.queue.length) 0,
                  takeRoute := !isDrain && readsRoute l e.srcB.toNat,
                  fwd := if e.fwd && !isDrain then some raw else none }
  if isDrain then run (allLanes 0) (allLanes 0) (List.replicate 16 127)
  else
    match readSrc s l e.srcB.toNat (elemBytes fb w) with
    | .wait => .wait 3
    | .parity m => .replay m
    | .ok wb =>
      let (xb, bad) := dotScales s l fb e.srcB.toNat true wb (w * rep / 32)
      if bad ≠ 0 then .replay bad else run wb (dotWords true e.srcB.toNat wb) xb

/-- READOUT (R66, R95, R119): one rounding into FMT_D; CLR empties the accumulator. -/
def evalReadout (l : Loc) (e : Entry) (s : State) : StepEnd :=
  if poolShort s l e 16 then .wait 5
  else
    let accs := (stageOf s l.key).acc
    let rs := (List.range 16).map (fun i =>
      let (v, fl) := (accs.getD i .empty).value
      let (b, gl) := match accs.getD i .empty, v with
        | .exact _ _ _ _ _ _ _ _, .fin _ 0 _ => (0, flNone)
        | _, _ => convert e.fmtD.toNat (rmOf e) e.sat v (rndWord s l e 1 i 0)
      (packElems e.fmtD.toNat [b], fl ||| gl))
    .commit { out := some (rs.map (·.1)), nbytes := elemBytes e.fmtD.toNat (32 / placeWidth e.fmtD.toNat),
              flags := rs.foldl (fun f r => f ||| r.2) flNone,
              srs := if usesSrs e then 1 else 0, pool := if usesSre e then 16 else 0, marked := usesSre e,
              acc := if e.clr then some (List.replicate 16 .empty) else none }

/-- ACCLOAD: the accumulator becomes a running sum equal to a (R119). -/
def evalAccload (l : Loc) (e : Entry) (s : State) : StepEnd :=
  withA s l e (elemBytes e.fmtA.toNat (32 / placeWidth e.fmtA.toNat)) (fun wa =>
    let rs := (List.range 16).map (fun i => toFP32 (decodeElem e.fmtA.toNat (laneElem e.fmtA.toNat (wa.getD i 0) 0)))
    .commit { acc := some (rs.map (fun r => .running r.1)), flags := rs.foldl (fun f r => f ||| r.2) flNone,
              takeRoute := takesRoute l e })

/-- ACCLOADX: the accumulator is cleared and a added as one product with s = 0 (R62). -/
def evalAccloadx (l : Loc) (e : Entry) (s : State) : StepEnd :=
  withA s l e (elemBytes e.fmtA.toNat (32 / placeWidth e.fmtA.toNat)) (fun wa =>
    .commit { acc := some ((List.range 16).map (fun i =>
                Acc.empty.addProduct e.aux (decodeElem e.fmtA.toNat (laneElem e.fmtA.toNat (wa.getD i 0) 0))
                  (.fin false 1 0) 0 false)),
              takeRoute := takesRoute l e })

/-- NOP: one step that does nothing. -/
def evalNop (_ : Loc) (_ : Entry) (_ : State) : StepEnd := .commit {}

def execNop (l : StageLoc) (e : Entry) (s : State) : Host.Outcome State Fault Refusal := .next (stageOp l e evalNop s)
def execDot (l : StageLoc) (e : Entry) (s : State) : Host.Outcome State Fault Refusal :=
  .next (stageOp l e (evalDot true) s)
def execDotl (l : StageLoc) (e : Entry) (s : State) : Host.Outcome State Fault Refusal :=
  .next (stageOp l e (evalDot false) s)
def execDots24 (l : StageLoc) (e : Entry) (s : State) : Host.Outcome State Fault Refusal :=
  .next (stageOp l e (evalSparse .s24) s)
def execDots14 (l : StageLoc) (e : Entry) (s : State) : Host.Outcome State Fault Refusal :=
  .next (stageOp l e (evalSparse .s14) s)
def execDotsbm (l : StageLoc) (e : Entry) (s : State) : Host.Outcome State Fault Refusal :=
  .next (stageOp l e (evalSparse .bitmap) s)
def execReadout (l : StageLoc) (e : Entry) (s : State) : Host.Outcome State Fault Refusal :=
  .next (stageOp l e evalReadout s)
def execAccload (l : StageLoc) (e : Entry) (s : State) : Host.Outcome State Fault Refusal :=
  .next (stageOp l e evalAccload s)
def execAccloadx (l : StageLoc) (e : Entry) (s : State) : Host.Outcome State Fault Refusal :=
  .next (stageOp l e evalAccloadx s)

end Sys2Proof.Machine
end

