-- ==== Sys2Proof/Machine/StageLane.lean ====
section
/-!
DEFINITION. Lane permute and lane reduce (0x38 to 0x3E) of a stage (R68, R123, R124).
-/

namespace Sys2Proof.Machine

/-- π(l) of PERM (R123). -/
def permLane (aux : BitVec 9) (l : Nat) : Nat :=
  let k := natBits aux.toNat 8 6
  let p := natBits aux.toNat 3 0
  if k = 0 then Nat.xor l p
  else if k = 1 then (l + p) % 16
  else if k = 2 then p
  else if k = 3 then 15 - l
  else if k = 4 then l % 2 * 8 + l / 2
  else l % 8 * 2 + l / 8

/-- PERM: lane l gets lane π(l) of A (R123). -/
def evalPerm (l : Loc) (e : Entry) (s : State) : StepEnd :=
  withA s l e 4 (fun wa =>
    .commit { out := some ((List.range 16).map (fun i => wa.getD (permLane e.aux i) 0)), takeRoute := takesRoute l e })

/-- PERMI: lane l gets the lane of A that bits [3:0] of lane l of B name. -/
def evalPermi (l : Loc) (e : Entry) (s : State) : StepEnd :=
  withAB s l e 4 4 (fun wa wb =>
    .commit { out := some ((List.range 16).map (fun i => wa.getD ((wb.getD i 0).toNat % 16) 0)),
              takeRoute := takesRoute l e, fwd := fwdOf e wb })

/-- One value in every lane, rounded once with the word of lane 0 (R124). -/
def reduceOut (s : State) (l : Loc) (e : Entry) (n : Nat) (v : FVal) (fl : FlagBits) : StepRes :=
  let fd := e.fmtD.toNat
  let (b, g) := convert fd (rmOf e) e.sat v (rndWord s l e 1 0 0)
  { out := some (allLanes (packElems fd [b])), nbytes := elemBytes fd n, flags := fl ||| g,
    srs := if usesSrs e then 1 else 0, pool := if usesSre e then 1 else 0, marked := usesSre e,
    takeRoute := takesRoute l e }

/-- LREDADD: element 0 of each lane widened to FP32, the tree of R68, one rounding to FMT_D (R124). -/
def evalLredadd (l : Loc) (e : Entry) (s : State) : StepEnd :=
  let fa := e.fmtA.toNat
  let n := elemCount [fa, e.fmtD.toNat]
  if poolShort s l e 1 then .wait 5
  else
    withA s l e (elemBytes fa n) (fun wa =>
      let xs := (List.range 16).map (fun i => toFP32 (decodeElem fa (laneElem fa (wa.getD i 0) 0)))
      let (sum, f) := treeSum addFP32 0 5 (xs.map (·.1))
      .commit (reduceOut s l e n (ofFP32 sum) (xs.foldl (fun g x => g ||| x.2) f)))

/-- LREDMAX and LREDMIN: the extreme of element 0 of the lanes by the rules of MAX and MIN, rounded once (R124). -/
def evalLredExt (isMax : Bool) (l : Loc) (e : Entry) (s : State) : StepEnd :=
  let fa := e.fmtA.toNat
  let n := elemCount [fa, e.fmtD.toNat]
  if poolShort s l e 1 then .wait 5
  else
    withA s l e (elemBytes fa n) (fun wa =>
      if fa = 0x10 then
        let v := (List.range 16).foldl (fun m i => if isMax then max m (wa.getD i 0).toInt else min m (wa.getD i 0).toInt)
          (wa.getD 0 0).toInt
        .commit { out := some (allLanes (BitVec.ofInt 32 v)), takeRoute := takesRoute l e,
                  srs := if usesSrs e then 1 else 0, pool := if usesSre e then 1 else 0, marked := usesSre e }
      else
        let xs := (List.range 16).map (fun i => decodeElem fa (laneElem fa (wa.getD i 0) 0))
        let (v, f) := (xs.drop 1).foldl (fun (m, f) x => let (y, g) := fvMinMax isMax m x; (y, f ||| g))
          (xs.getD 0 (.fin false 0 0), flIf ((xs.getD 0 (.fin false 0 0)).isSNan) flInvalid)
        .commit (reduceOut s l e n v f))

/-- LREDI: the INT32 sum of the lanes modulo 2^32. -/
def evalLredi (l : Loc) (e : Entry) (s : State) : StepEnd :=
  withA s l e 4 (fun wa =>
    .commit { out := some (allLanes (wa.foldl (· + ·) 0)), takeRoute := takesRoute l e })

/-- LREDACC: the sixteen accumulators merged into every lane (R64, R68, R124). -/
def evalLredacc (l : Loc) (_ : Entry) (s : State) : StepEnd :=
  let accs := (stageOf s l.key).acc
  if accs.any Acc.isRunning then
    let (sum, f) := treeSum addFP32 0 5 (accs.map Acc.word)
    .commit { acc := some (List.replicate 16 (.running sum)), flags := f }
  else if accs.any Acc.isExact then
    if 2 ^ 24 < accs.foldl (fun n a => n + a.count) 0 then .stop stAccLimit 0xFFFF []
    else .commit { acc := some (List.replicate 16 (accs.foldl Acc.merge .empty)) }
  else .commit {}

def execPerm (l : StageLoc) (e : Entry) (s : State) : Host.Outcome State Fault Refusal :=
  .next (stageOp l e evalPerm s)
def execPermi (l : StageLoc) (e : Entry) (s : State) : Host.Outcome State Fault Refusal :=
  .next (stageOp l e evalPermi s)
def execLredadd (l : StageLoc) (e : Entry) (s : State) : Host.Outcome State Fault Refusal :=
  .next (stageOp l e evalLredadd s)
def execLredmax (l : StageLoc) (e : Entry) (s : State) : Host.Outcome State Fault Refusal :=
  .next (stageOp l e (evalLredExt true) s)
def execLredmin (l : StageLoc) (e : Entry) (s : State) : Host.Outcome State Fault Refusal :=
  .next (stageOp l e (evalLredExt false) s)
def execLredi (l : StageLoc) (e : Entry) (s : State) : Host.Outcome State Fault Refusal :=
  .next (stageOp l e evalLredi s)
def execLredacc (l : StageLoc) (e : Entry) (s : State) : Host.Outcome State Fault Refusal :=
  .next (stageOp l e evalLredacc s)

end Sys2Proof.Machine
end

