-- ==== Sys2Proof/Machine/StageIo.lean ====
section
/-!
DEFINITION. Counter, baton and tally operations (0x50 to 0x56), core-memory loads and stores (0x58 to 0x5D), route send
and receive (0x60 to 0x63), remote atomics (0x68 to 0x6D) and read-sensor operations (0x70 to 0x77) of a stage (R128 to
R133, R139 to R145), and STAGE_STEP_COMPLETE, which runs the operation of the current entry (R81, R93).
-/

namespace Sys2Proof.Machine

/-- A counter number of AUX[2:0]. -/
def auxCtr (e : Entry) : Nat := natBits e.aux.toNat 2 0

/-- CTRADV: advances a counter of the chain (R139, R142). DESIGN CHOICE (log 76): AUX[2:0] of 6 or 7, which an image may not
hold, names no counter and advances none. -/
def evalCtradv (_ : Loc) (e : Entry) (_ : State) : StepEnd :=
  .commit { ctrAdv := if auxCtr e < 6 then some (auxCtr e) else none }

/-- CTRRD: a counter's VALUE, as it stands at the step's start, in every lane word (R139; DEDUCED from R129 and R159,
log 77). -/
def evalCtrrd (l : Loc) (e : Entry) (s : State) : StepEnd :=
  .commit { out := some (allLanes (BitVec.ofNat 32 (fldGet CaCtrState.value (ctrAt s l (auxCtr e))))) }

/-- BTNSEND: a baton of value AUX[7:0] (R145). -/
def evalBtnsend (_ : Loc) (e : Entry) (_ : State) : StepEnd := .commit { btnSend := some (e.aux.setWidth 8) }

/-- BTNRECV: the next baton's value and tag in every lane word (R143). -/
def evalBtnrecv (l : Loc) (_ : Entry) (s : State) : StepEnd :=
  match (arrOf s l.arr).btnIn with
  | [] => .wait 7
  | b :: _ => .commit { btnTake := true, out := some (allLanes (b.setWidth 32)) }

/-- BTNPRED: P all ones where the next baton's value equals AUX[7:0] (R121, R143). -/
def evalBtnpred (l : Loc) (e : Entry) (s : State) : StepEnd :=
  match (arrOf s l.arr).btnIn with
  | [] => .wait 7
  | b :: _ => .commit { btnTake := true,
                        pred := some (if batonValue b = natBits e.aux.toNat 7 0 then 0xFFFF else 0) }

/-- The tally number and target of TWAIT (R128). -/
def twaitArgs (wa : List Lane) : Nat × Word :=
  ((wa.getD 2 0).toNat % 65536, BitVec.ofNat 64 ((wa.getD 0 0).toNat + (wa.getD 1 0).toNat * 2 ^ 32))

/-- TWAIT: completes once the tally is reached (R128, R317, R326): one of the stage's own hub directly, another by its
request's WAIT_DONE (R327). A reserved tally or one with no owner stops the stage. -/
def evalTwait (l : Loc) (e : Entry) (s : State) : StepEnd :=
  withA s l e 4 (fun wa =>
    let (n, t) := twaitArgs wa
    let fin : StepRes := { takeRoute := takesRoute l e, endWait := true }
    let marked : Bool := (waitOf s (.stage l.p l.a l.st)).any (·.done)
    match tallyPlace s n with
    | .error st => if marked then .commit fin else if (waitOf s (.stage l.p l.a l.st)).isSome then .wait 8 else .stop st 7 []
    | .ok u => if marked || (ownTally l.p u && reached (tallyCount s u) t) then .commit fin else .wait 8)

/-- What a TWAIT that waits for the first time leaves behind: its wait, and a request to another hub (R327). -/
def twaitStart (l : Loc) (e : Entry) (s : State) : State :=
  match readSrc s l e.srcA.toNat 4 with
  | .ok wa =>
    let (n, t) := twaitArgs wa
    (waitStep l.p (patchRouter l.a) (locUnit l.lg l.p l.a l.st 0 0 0) n t (.stage l.p l.a l.st) s).2
  | _ => s

/-- TINC: AUX[7:0] + 1 packets for a tally, through the route-out latch (R116, R128). -/
def evalTinc (l : Loc) (e : Entry) (s : State) : StepEnd :=
  withA s l e 4 (fun wa =>
    let n := (wa.getD 0 0).toNat % 65536
    if tallyPlace s n = .error stAddrReserved then .stop stAddrReserved 1 []
    else .commit { service := [.tally (BitVec.ofNat 16 n) (natBits e.aux.toNat 7 0 + 1)], takeRoute := takesRoute l e })

/-- Load a core-memory slot (R129, R169, R92). A slot that a store or an external access has used in this slot is loaded
in a later one, since the array step's loads came before it (R91). -/
def loadSlot (s : State) (l : Loc) (n : Nat) (consume route : Bool) : StepEnd :=
  if tagOf s (slotKey l.p l.a n) = false ∨ coreTouched s l.p l.a n = true then .wait 1
  else
    match readBytes s (sramKey l.p l.a (64 * n)) 64 with
    | .error k => .uncorrectable k
    | .ok (bs, c) => .commit { out := some ((List.range 16).map (vecLane (ofVecBytes bs))), load := some (n, consume),
                               corrected := c, takeRoute := route }

/-- Store the words of a vector in a core-memory slot; a WAIT store needs it EMPTY (R129, R169), and not emptied by an
external access of the same slot, which comes after it (R91). -/
def storeSlot (s : State) (l : Loc) (e : Entry) (n : Nat) (owr : Bool) (wa : List Lane) (fwd : Option (List Lane)) : StepEnd :=
  if owr = false ∧ (tagOf s (slotKey l.p l.a n) = true ∨ coreTouched s l.p l.a n = true) then .wait 2
  else .commit { store := some (n, wa), takeRoute := takesRoute l e, fwd := fwd }

def evalLdcm (l : Loc) (e : Entry) (s : State) : StepEnd := loadSlot s l (coreSlot s l e) true false
def evalLdcmk (l : Loc) (e : Entry) (s : State) : StepEnd := loadSlot s l (coreSlot s l e) false false
def evalLdcmx (l : Loc) (e : Entry) (s : State) : StepEnd :=
  withA s l e 4 (fun wa => loadSlot s l ((wa.getD 0 0).toNat % 1024) true (takesRoute l e))
def evalStcm (l : Loc) (e : Entry) (s : State) : StepEnd :=
  withA s l e 4 (fun wa => storeSlot s l e (coreSlot s l e) false wa none)
def evalStcmo (l : Loc) (e : Entry) (s : State) : StepEnd :=
  withA s l e 4 (fun wa => storeSlot s l e (coreSlot s l e) true wa none)
def evalStcmx (l : Loc) (e : Entry) (s : State) : StepEnd :=
  withAB s l e 4 4 (fun wa wb => storeSlot s l e ((wb.getD 0 0).toNat % 1024) false wa (fwdOf e wb))

/-- SEND, and PASS with SRC_A UP: the vector of A to the destination, unchanged. -/
def evalSend (l : Loc) (e : Entry) (s : State) : StepEnd :=
  withA s l e 4 (fun wa => .commit { out := some wa, takeRoute := takesRoute l e })

/-- RECV: takes the route-in vector. -/
def evalRecv (l : Loc) (_ : Entry) (s : State) : StepEnd :=
  match routeWords s l with
  | .ok wa => .commit { out := some wa, takeRoute := true }
  | _ => .wait 3

/-- PASS: copies UP (R79). -/
def evalPass (l : Loc) (_ : Entry) (s : State) : StepEnd :=
  match readSrc s l 1 4 with
  | .ok wa => .commit { out := some wa, takeRoute := l.st = 0 }
  | _ => .wait 3

/-- What FWD passes downstream at a MERGE1 (R93): the vector that SRC_B holds, taken or not; nothing while it is the
route-in latch and empty (DESIGN CHOICE, log 79). -/
def mergeFwd (s : State) (l : Loc) (e : Entry) : Option (List Lane) :=
  match readSrc s l e.srcB.toNat 4 with
  | .ok wb => fwdOf e wb
  | _ => none

/-- Take one of MERGE1's two sources: UP (code 1) or the route-in latch. -/
def mergeTake (s : State) (l : Loc) (e : Entry) (code : Nat) (marked : Bool) : StepEnd :=
  if code = 1 then
    .commit { out := some ((List.range 16).map (vecLane (stageOf s l.key).upStart)), clearFresh := true, marked := marked,
              fwd := mergeFwd s l e }
  else
    match routeWords s l with
    | .ok wa => .commit { out := some wa, takeRoute := true, marked := marked, fwd := mergeFwd s l e }
    | _ => .wait 3

/-- MERGE1: first arrival, SRC_A when both are valid; with DVAR strict alternation (R130). A source valid as the step
starts comes before one that becomes valid later; where neither is, the one that becomes valid first, and the route-in latch
where both do in one slot (DESIGN CHOICE, log 79). -/
def evalMerge1 (l : Loc) (e : Entry) (s : State) : StepEnd :=
  if e.dvar then mergeTake s l e (if repOf s l % 2 = 0 then e.srcA.toNat else e.srcB.toNat) false
  else
    let t := stageOf s l.key
    let atStart (c : Nat) : Bool := if c = 1 then t.upFresh else t.routeStart
    let came (c : Nat) : Bool := c ≠ 1 && (arrOf s l.arr).routeIn.isSome
    if atStart e.srcA.toNat then mergeTake s l e e.srcA.toNat true
    else if atStart e.srcB.toNat then mergeTake s l e e.srcB.toNat true
    else if came e.srcA.toNat then mergeTake s l e e.srcA.toNat true
    else if came e.srcB.toNat then mergeTake s l e e.srcB.toNat true
    else .wait 3

/-- b as an integer in units of 2^(AUX − 32), truncated toward zero (R131), with its flags. -/
def fixedOf (aux : BitVec 9) (v : FVal) : Int × FlagBits :=
  match v with
  | .nan _ => (0, flInvalid)
  | .inf n => ((if n then -1 else 1) * (2 ^ 63 - 1 : Int), flOverflow)
  | .fin n m x =>
    let d := x - (aux.toInt - 32)
    let q : Nat := if 0 ≤ d then (if m = 0 then 0 else if d < 64 then m * 2 ^ d.toNat else 2 ^ 63) else m / 2 ^ (-d).toNat
    if 2 ^ 63 ≤ q then ((if n then -1 else 1) * (2 ^ 63 - 1 : Int), flOverflow)
    else ((if n then -1 else 1) * (q : Int), flNone)

/-- The region of the handle in the stage constant (R131, R198): base and length, none where the entry is invalid. -/
def stageHandle (s : State) (l : Loc) : Option (Nat × Nat) :=
  let h := natBits (rf s (CaConst.key l.p l.a l.st) CaConst.value) 27 16
  if rf s (HubHdlAddr.key l.p h) HubHdlAddr.valid = 1 then
    some (rf s (HubHdlAddr.key l.p h) HubHdlAddr.addr, rf s (HubHdlLen.key l.p h) HubHdlLen.length)
  else none

/-- The updates of a remote atomic step, and the lanes whose update ends unsent (R131). -/
def atomicLanes (s : State) (l : Loc) (size : Nat) (op : AtomicOp) (val : Lane → Word) (wa wb : List Lane) :
    List ServiceOut × List (Status × Nat) :=
  (List.range 16).foldl (fun (ms, rs) i =>
    let o := (wa.getD i 0).toNat
    if o = 0xFFFFFFFF then (ms, rs)
    else
      match stageHandle s l with
      | none => (ms, rs ++ [(stHandleRange, i)])
      | some (base, len) =>
        if o % size ≠ 0 ∨ len < o + size then (ms, rs ++ [(stHandleRange, i)])
        else (ms ++ [.atomic op (BitVec.ofNat 48 (base + o)) (val (wb.getD i 0)) (BitVec.ofNat 4 i)], rs)) ([], [])

/-- A remote atomic step on 32-bit words. -/
def evalAtomic (op : Entry → AtomicOp) (marked : Bool) (l : Loc) (e : Entry) (s : State) : StepEnd :=
  withAB s l e 4 4 (fun wa wb =>
    let (ms, rs) := atomicLanes s l 4 (op e) (fun w => w.setWidth 64) wa wb
    .commit { service := ms, laneReports := rs, takeRoute := takesRoute l e, marked := marked, fwd := fwdOf e wb })

/-- AADDF: FP32 under RMODE, or with DVAR fixed point on 64-bit words (R131). DESIGN CHOICE (log 80): with DVAR a lane
that names a word converts its value, and raises the conversion's flags, also where its update then ends with
ST_HANDLE_RANGE. -/
def evalAaddf (l : Loc) (e : Entry) (s : State) : StepEnd :=
  if e.dvar then
    withAB s l e 4 4 (fun wa wb =>
      let fix (w : Lane) := fixedOf e.aux (decodeElem 0 w.toNat)
      let (ms, rs) := atomicLanes s l 8 .addX (fun w => BitVec.ofInt 64 (fix w).1) wa wb
      let fl := (List.range 16).foldl (fun f i =>
        if wa.getD i 0 = 0xFFFFFFFF then f else f ||| (fix (wb.getD i 0)).2) flNone
      .commit { service := ms, laneReports := rs, flags := fl, takeRoute := takesRoute l e, fwd := fwdOf e wb })
  else evalAtomic (fun e => .addF (e.rmode.setWidth 2)) true l e s

/-- Lane words 0 and 1 of a 64-bit value, the others 0. -/
def pairLanes (v : Nat) : List Lane :=
  [BitVec.ofNat 32 v, BitVec.ofNat 32 (v / 2 ^ 32)] ++ List.replicate 14 0

/-- RDFLAGS: the flags as the step starts; AUX[0] clears the W1C bits. -/
def evalRdflags (l : Loc) (e : Entry) (s : State) : StepEnd :=
  .commit { out := some (allLanes ((rg s (CaArithFlags.key l.p l.a l.st)).setWidth 32)),
            clearFlags := natBit e.aux.toNat 0 }

/-- RDSRC: CA_SR_COUNT_s. -/
def evalRdsrc (l : Loc) (_ : Entry) (s : State) : StepEnd := .commit { out := some (pairLanes (srCountOf s l)) }

/-- RDCOORD: the stage's coordinates with the lane number. -/
def evalRdcoord (l : Loc) (_ : Entry) (_ : State) : StepEnd :=
  .commit { out := some ((List.range 16).map (fun i =>
    BitVec.ofNat 32 (l.x + l.y * 2 ^ 6 + l.lg * 2 ^ 12 + l.st * 2 ^ 18 + i * 2 ^ 21))) }

/-- RDLAP: the stand's completed laps (R132). -/
def evalRdlap (l : Loc) (_ : Entry) (s : State) : StepEnd := .commit { out := some (pairLanes (standOf s l.p).laps) }

/-- RDTIME: the time counter, with DVAR the RDLAP value (R133). -/
def evalRdtime (l : Loc) (e : Entry) (s : State) : StepEnd :=
  if e.dvar then evalRdlap l e s
  else .commit { out := some (pairLanes (timeNow s).toNat), marked := true }

/-- RDTEMP: the nearest sensor of the stand, an INT32 in 1/16 °C (R455). -/
def evalRdtemp (l : Loc) (_ : Entry) (s : State) : StepEnd :=
  let k := l.x / 32 + 2 * (l.y / 32)
  let v := natSigned 16 ((rg s (PwrStandTemp.key l.p)).toNat / 2 ^ (16 * k) % 65536)
  .commit { out := some (allLanes (BitVec.ofInt 32 v)), marked := true }

/-- RDOVR: the fields of CA_OVERRUN in lanes 0 to 3 (R106). -/
def evalRdovr (l : Loc) (_ : Entry) (s : State) : StepEnd :=
  let k := CaOverrun.key l.p l.a
  .commit { out := some ([rf s k CaOverrun.compute, rf s k CaOverrun.wait, rf s k CaOverrun.replay,
                          rf s k CaOverrun.longest].map (BitVec.ofNat 32) ++ List.replicate 12 0), marked := true }

/-- RDENT: one entropy word per lane (R61), with DVAR the word r of R59. -/
def evalRdent (l : Loc) (e : Entry) (s : State) : StepEnd :=
  if e.dvar then
    .commit { out := some ((List.range 16).map (fun i =>
      BitVec.ofNat 32 (srsWord s.srKey (srCountOf s l) i l.st l.x l.y l.lg))), srs := 1 }
  else if (standOf s l.p).pool.length < 16 then .wait 5
  else .commit { out := some ((standOf s l.p).pool.take 16), pool := 16, marked := true }

def execCtradv (l : StageLoc) (e : Entry) (s : State) : Host.Outcome State Fault Refusal :=
  .next (stageOp l e evalCtradv s)
def execCtrrd (l : StageLoc) (e : Entry) (s : State) : Host.Outcome State Fault Refusal :=
  .next (stageOp l e evalCtrrd s)
def execBtnsend (l : StageLoc) (e : Entry) (s : State) : Host.Outcome State Fault Refusal :=
  .next (stageOp l e evalBtnsend s)
def execBtnrecv (l : StageLoc) (e : Entry) (s : State) : Host.Outcome State Fault Refusal :=
  .next (stageOp l e evalBtnrecv s)
def execBtnpred (l : StageLoc) (e : Entry) (s : State) : Host.Outcome State Fault Refusal :=
  .next (stageOp l e evalBtnpred s)

/-- One step of TWAIT at a stage: where it waits, its wait is registered (R326). -/
def runTwait (l : Loc) (e : Entry) (s : State) : State :=
  if !canStep s l then s
  else
    let s1 := runStep l e evalTwait s
    match evalTwait l e s with
    | .wait 8 => twaitStart l e s1
    | .stop _ _ _ => dropWait (.stage l.p l.a l.st) s1
    | _ => s1

def execTwait (l : StageLoc) (e : Entry) (s : State) : Host.Outcome State Fault Refusal :=
  .next (match locOf s l with
    | some c => runTwait c e s
    | none => s)
def execTinc (l : StageLoc) (e : Entry) (s : State) : Host.Outcome State Fault Refusal :=
  .next (stageOp l e evalTinc s)
def execLdcm (l : StageLoc) (e : Entry) (s : State) : Host.Outcome State Fault Refusal :=
  .next (stageOp l e evalLdcm s)
def execLdcmk (l : StageLoc) (e : Entry) (s : State) : Host.Outcome State Fault Refusal :=
  .next (stageOp l e evalLdcmk s)
def execLdcmx (l : StageLoc) (e : Entry) (s : State) : Host.Outcome State Fault Refusal :=
  .next (stageOp l e evalLdcmx s)
def execStcm (l : StageLoc) (e : Entry) (s : State) : Host.Outcome State Fault Refusal :=
  .next (stageOp l e evalStcm s)
def execStcmo (l : StageLoc) (e : Entry) (s : State) : Host.Outcome State Fault Refusal :=
  .next (stageOp l e evalStcmo s)
def execStcmx (l : StageLoc) (e : Entry) (s : State) : Host.Outcome State Fault Refusal :=
  .next (stageOp l e evalStcmx s)
def execSend (l : StageLoc) (e : Entry) (s : State) : Host.Outcome State Fault Refusal :=
  .next (stageOp l e evalSend s)
def execRecv (l : StageLoc) (e : Entry) (s : State) : Host.Outcome State Fault Refusal :=
  .next (stageOp l e evalRecv s)
def execPass (l : StageLoc) (e : Entry) (s : State) : Host.Outcome State Fault Refusal :=
  .next (stageOp l e evalPass s)
def execMerge1 (l : StageLoc) (e : Entry) (s : State) : Host.Outcome State Fault Refusal :=
  .next (stageOp l e evalMerge1 s)
def execAaddi (l : StageLoc) (e : Entry) (s : State) : Host.Outcome State Fault Refusal :=
  .next (stageOp l e (evalAtomic (fun _ => .addI) false) s)
def execAaddf (l : StageLoc) (e : Entry) (s : State) : Host.Outcome State Fault Refusal :=
  .next (stageOp l e evalAaddf s)
def execAmaxf (l : StageLoc) (e : Entry) (s : State) : Host.Outcome State Fault Refusal :=
  .next (stageOp l e (evalAtomic (fun _ => .maxF) false) s)
def execAminf (l : StageLoc) (e : Entry) (s : State) : Host.Outcome State Fault Refusal :=
  .next (stageOp l e (evalAtomic (fun _ => .minF) false) s)
def execAor (l : StageLoc) (e : Entry) (s : State) : Host.Outcome State Fault Refusal :=
  .next (stageOp l e (evalAtomic (fun _ => .or) false) s)
def execAand (l : StageLoc) (e : Entry) (s : State) : Host.Outcome State Fault Refusal :=
  .next (stageOp l e (evalAtomic (fun _ => .and) false) s)
def execRdflags (l : StageLoc) (e : Entry) (s : State) : Host.Outcome State Fault Refusal :=
  .next (stageOp l e evalRdflags s)
def execRdsrc (l : StageLoc) (e : Entry) (s : State) : Host.Outcome State Fault Refusal :=
  .next (stageOp l e evalRdsrc s)
def execRdcoord (l : StageLoc) (e : Entry) (s : State) : Host.Outcome State Fault Refusal :=
  .next (stageOp l e evalRdcoord s)
def execRdlap (l : StageLoc) (e : Entry) (s : State) : Host.Outcome State Fault Refusal :=
  .next (stageOp l e evalRdlap s)
def execRdtime (l : StageLoc) (e : Entry) (s : State) : Host.Outcome State Fault Refusal :=
  .next (stageOp l e evalRdtime s)
def execRdtemp (l : StageLoc) (e : Entry) (s : State) : Host.Outcome State Fault Refusal :=
  .next (stageOp l e evalRdtemp s)
def execRdovr (l : StageLoc) (e : Entry) (s : State) : Host.Outcome State Fault Refusal :=
  .next (stageOp l e evalRdovr s)
def execRdent (l : StageLoc) (e : Entry) (s : State) : Host.Outcome State Fault Refusal :=
  .next (stageOp l e evalRdent s)

end Sys2Proof.Machine
end

