-- ==== Sys2Proof/Machine/StageRun.lean ====
section
/-!
DEFINITION. STAGE_STEP_COMPLETE: the step of the entry at the stage's PC (R81, R93), by the opcodes of the stage
operation list, with their latency classes (R79, R96).
-/

namespace Sys2Proof.Machine

/-- The evaluation that an opcode names (R111); none for a reserved one. -/
def evalOf (op : Nat) : Option (Loc → Entry → State → StepEnd) :=
  match op with
  | 0x00 => some evalNop
  | 0x01 => some (evalDot true)
  | 0x02 => some (evalDot false)
  | 0x03 => some (evalSparse .s24)
  | 0x04 => some (evalSparse .s14)
  | 0x05 => some (evalSparse .bitmap)
  | 0x06 => some evalReadout
  | 0x07 => some evalAccload
  | 0x08 => some evalAccloadx
  | 0x10 => some (evalArith fvAdd (· + ·))
  | 0x11 => some (evalArith opSub (· - ·))
  | 0x12 => some (evalArith (fun _ => fvMul) (· * ·))
  | 0x13 => some evalFmaw
  | 0x14 => some (evalArith1 fvAbs (fun a => a.natAbs))
  | 0x15 => some (evalArith1 fvNeg (fun a => -a))
  | 0x16 => some evalScaleb
  | 0x17 => some (evalBits (· &&& ·))
  | 0x18 => some (evalBits (· ||| ·))
  | 0x19 => some (evalBits (· ^^^ ·))
  | 0x1A => some (evalBits (fun a b => a <<< (b.toNat % 32)))
  | 0x1B => some (evalBits (fun a b => a >>> (b.toNat % 32)))
  | 0x1C => some evalMov
  | 0x20 => some (evalCompare fvEq false)
  | 0x21 => some (evalCompare fvLt true)
  | 0x22 => some (evalCompare (fun a b => fvLt a b || fvEq a b) true)
  | 0x23 => some (evalCompare (fun a b => a.isNan || b.isNan) false)
  | 0x24 => some evalSel
  | 0x25 => some (evalArith (fun _ => fvMinMax false) min)
  | 0x26 => some (evalArith (fun _ => fvMinMax true) max)
  | 0x27 => some (evalArith (fun _ => fvMinMaxNum false) min)
  | 0x28 => some (evalArith (fun _ => fvMinMaxNum true) max)
  | 0x30 => some (evalApprox 0)
  | 0x31 => some (evalApprox 1)
  | 0x32 => some (evalApprox 2)
  | 0x33 => some (evalApprox 3)
  | 0x38 => some evalPerm
  | 0x39 => some evalPermi
  | 0x3A => some evalLredadd
  | 0x3B => some (evalLredExt true)
  | 0x3C => some (evalLredExt false)
  | 0x3D => some evalLredi
  | 0x3E => some evalLredacc
  | 0x40 => some evalCvt
  | 0x41 => some evalCvtmx
  | 0x42 => some evalDemx
  | 0x43 => some evalPack
  | 0x44 => some evalUnpack
  | 0x45 => some evalPack6
  | 0x46 => some evalUnpack6
  | 0x47 => some evalFxcvt
  | 0x50 => some evalCtradv
  | 0x51 => some evalCtrrd
  | 0x52 => some evalBtnsend
  | 0x53 => some evalBtnrecv
  | 0x54 => some evalBtnpred
  | 0x55 => some evalTwait
  | 0x56 => some evalTinc
  | 0x58 => some evalLdcm
  | 0x59 => some evalLdcmk
  | 0x5A => some evalLdcmx
  | 0x5B => some evalStcm
  | 0x5C => some evalStcmo
  | 0x5D => some evalStcmx
  | 0x60 => some evalSend
  | 0x61 => some evalRecv
  | 0x62 => some evalPass
  | 0x63 => some evalMerge1
  | 0x68 => some (evalAtomic (fun _ => .addI) false)
  | 0x69 => some evalAaddf
  | 0x6A => some (evalAtomic (fun _ => .maxF) false)
  | 0x6B => some (evalAtomic (fun _ => .minF) false)
  | 0x6C => some (evalAtomic (fun _ => .or) false)
  | 0x6D => some (evalAtomic (fun _ => .and) false)
  | 0x70 => some evalRdflags
  | 0x71 => some evalRdsrc
  | 0x72 => some evalRdcoord
  | 0x73 => some evalRdlap
  | 0x74 => some evalRdtime
  | 0x75 => some evalRdtemp
  | 0x76 => some evalRdovr
  | 0x77 => some evalRdent
  | _ => none

/-- The evaluation of a stage's current entry: none for an entry with VALID 0 or a reserved opcode, which takes no step
(log entry 9). -/
def curEval (s : State) (l : Loc) : Option (Loc → Entry → State → StepEnd) :=
  if fldGet CaOp.valid (curOp s l) = 0 then none else evalOf (fldGet CaOp.opcode (curOp s l))

/-- Is the repetition of an entry a drain repetition, which reads no block and no operand B (R248)? -/
def drainRep (w : Word) (rep : Nat) : Bool :=
  rep = fldGet CaOp.rept w &&
    (fldGet CaOp.opcode w = 0x05 || (fldGet CaOp.opcode w = 0x03 && fmtWidth (fldGet CaOp.fmtA w) = 16))

/-- Does a repetition of an entry read the operand buffer of its stage (R94, R120, R248)? -/
def readsBuffer (w : Word) (rep : Nat) : Bool :=
  let b (c : Nat) : Bool := c = 2 || c = 3
  !drainRep w rep && (b (fldGet CaOp.srcA w) || b (fldGet CaOp.srcB w) || fldGet CaOp.opcode w = 0x13)

/-- An evaluation under transient upsets (R90): operand-buffer bytes of the lanes of a mask are read with a failing parity
bit that the stored bits do not show. A step that does not get to read them, since it waits, is as before. -/
def upsetEval (bad : BitVec 16) (f : Loc → Entry → State → StepEnd) (l : Loc) (e : Entry) (s : State) : StepEnd :=
  match f l e s with
  | .wait c => .wait c
  | .replay m => .replay (m ||| bad)
  | _ => .replay bad

/-- The step of the current entry, with the lanes whose operand-buffer read meets a transient upset (R90). -/
def stepCurrent (l : Loc) (bad : BitVec 16) (s : State) : State :=
  let w := curOp s l
  let upset := decide (bad ≠ 0) && readsBuffer w (repOf s l)
  match curEval s l with
  | none => s
  | some f =>
    if upset then runStep l (entryOf w) (upsetEval bad f) s
    else if fldGet CaOp.opcode w = 0x55 then runTwait l (entryOf w) s
    else runStep l (entryOf w) f s

/-- STAGE_STEP_COMPLETE (R81). -/
def execStageStepComplete (l : StageLoc) (badLanes : BitVec 16) (s : State) : Host.Outcome State Fault Refusal :=
  .next (match locOf s l with
    | some c => stepCurrent c badLanes s
    | none => s)

/-- How a stage stands at a boundary (R84, R86, R87): not late; late with all its inputs, its product queue owing the slot
or not (R247); waiting; replaying (R90); or behind a stage whose turn comes first. -/
inductive Lateness where
  | none
  | compute (queue : Bool)
  | waits
  | replays
  | behind
  deriving DecidableEq, Repr

/-- A stage that has its inputs again runs (R102). -/
def stageRuns (l : Loc) (s : State) : State :=
  let k := CaStageStatus.key l.p l.a l.st
  if rf s k CaStageStatus.state = 2 then rfput k CaStageStatus.waitCause 0 (rfput k CaStageStatus.state 1 s) else s

/-- Judge a stage at a boundary (R84 to R87, R92): a step that has come to its end without completing is late. What it
lacks is found by evaluating the step without committing it; a wait is recorded, with the request of a tally wait. -/
def judgeStage (l : Loc) (s : State) : Lateness × State :=
  let t := stageOf s l.key
  let k := CaStageStatus.key l.p l.a l.st
  let runs := !isMemIdx l.a && t.begun && !t.done && decide (rf s k CaStageStatus.state ≠ 3) &&
    (decide (arrState s l.p l.a = 2) || decide (arrState s l.p l.a = 4))
  if !runs || (decide (0 < t.left) && decide (t.attempts = 0)) then (.none, s)
  else if 0 < t.left then (.replays, s)
  else if rf s k CaStageStatus.waitCause = 6 then (.waits, s)
  else
    let e := entryOf (curOp s l)
    let own : Lateness := if 0 < t.attempts then .replays else .compute false
    match curEval s l with
    | Option.none => (.none, s)
    | some f =>
      match f l e s with
      | .wait c =>
        let s1 := stageWaits l c Option.none s
        (.waits, if c = 8 ∧ fldGet CaOp.opcode (curOp s l) = 0x55 then twaitStart l e s1 else s1)
      | .uncorrectable w => (.waits, stageUncorrectable l w s)
      | .commit r =>
        match commitStep l e r s with
        | .error (.wait c n) => (.waits, stageWaits l c n s)
        | .error .later => (.behind, s)
        | .error .holds => (.compute true, stageRuns l s)
        | .ok _ => (own, stageRuns l s)
      | _ => (own, stageRuns l s)

end Sys2Proof.Machine
end

