-- ==== Sys2Proof/Machine/Mesh.lean ====
section
/-!
DEFINITION. The data mesh: lap-table connections (R205 to R208), credits and slips (R211, R212), steering units (R146 to
R151), seam ports (R214 to R221) and the generators of memory arrays (R175 to R178, R182).
-/

namespace Sys2Proof.Machine

def linkDflt (_ : Nat) : LinkIn := ⟨none, none⟩
def creditDflt (_ : Nat) : Nat := 0
def steerDflt (_ : Nat) : Steer := .init
def nodeDflt (_ : Nat) : NodeSt := .init
def seamDflt (_ : Nat) : SeamPort := .init
def tapDflt (_ : Nat) : Tap := .init
def vtagDflt (_ : Nat) : Byte := 0

def connKey (p n pos k : Nat) : Nat := ((p * 1024 + n) * 64 + pos) * 8 + k
def linkOf (s : State) (p n d : Nat) : LinkIn := smapGet linkDflt s.links (nodeKey p n * 4 + d)
def putLink (p n d : Nat) (v : LinkIn) (s : State) : State :=
  { s with links := smapSet linkDflt s.links (nodeKey p n * 4 + d) v }
def creditOf (s : State) (c : Nat) : Nat := smapGet creditDflt s.credits c
def putCredit (c v : Nat) (s : State) : State := { s with credits := smapSet creditDflt s.credits c v }
def steerOf (s : State) (p n u : Nat) : Steer := smapGet steerDflt s.steers (nodeKey p n * 4 + u)
def putSteer (p n u : Nat) (v : Steer) (s : State) : State :=
  { s with steers := smapSet steerDflt s.steers (nodeKey p n * 4 + u) v }
def nodeOf (s : State) (p n : Nat) : NodeSt := smapGet nodeDflt s.nodes (nodeKey p n)
def putNode (p n : Nat) (v : NodeSt) (s : State) : State := { s with nodes := smapSet nodeDflt s.nodes (nodeKey p n) v }
def seamOf (s : State) (p d : Nat) : SeamPort := smapGet seamDflt s.seams (p * 4 + d)
def putSeam (p d : Nat) (v : SeamPort) (s : State) : State := { s with seams := smapSet seamDflt s.seams (p * 4 + d) v }
def tapOf (s : State) (p t : Nat) : Tap := smapGet tapDflt s.taps (p * 8 + t)
def putTap (p t : Nat) (v : Tap) (s : State) : State := { s with taps := smapSet tapDflt s.taps (p * 8 + t) v }

/-- Indices of a CLASS of a stand that hold a register at other than its reset value. -/
def unitsOf (s : State) (p cls : Nat) : List Nat :=
  ((s.regs.filter (fun e => suView e.1 = 2 && suStand e.1 = p && suClass e.1 = cls)).map (fun e => suIndex e.1)).dedup

/-- The neighbour of a node in a direction N, E, S, W within its stand. -/
def nodeNbr (n d : Nat) : Option Nat :=
  let x := n % 32
  let y := n / 32
  if d = 0 then (if 0 < y then some (n - 32) else none)
  else if d = 1 then (if x < 31 then some (n + 1) else none)
  else if d = 2 then (if y < 31 then some (n + 32) else none)
  else (if 0 < x then some (n - 1) else none)

/-- The edge-node position of an edge node on a side (R25). -/
def edgePos (n d : Nat) : Nat := if d % 2 = 0 then n % 32 else n / 32

/-- The edge node at a position of a side. -/
def edgeNode (d e : Nat) : Nat :=
  if d = 0 then e else if d = 1 then e * 32 + 31 else if d = 2 then 31 * 32 + e else e * 32

/-- A connection of a lap table (R206). -/
structure ConnE where
  key : Nat
  w : Word
  deriving DecidableEq, Repr

def ConnE.baton (c : ConnE) : Bool := fldGet LapConn.baton c.w = 1
def ConnE.inp (c : ConnE) : Nat := fldGet LapConn.inp c.w
def ConnE.out (c : ConnE) : Nat := fldGet LapConn.out c.w
def ConnE.start (c : ConnE) : Bool := fldGet LapConn.start c.w = 1
def ConnE.last (c : ConnE) : Bool := fldGet LapConn.last c.w = 1
def ConnE.expect (c : ConnE) : Bool := fldGet LapConn.expect c.w = 1

/-- The word of connection k of a node at a position. -/
def connWord (s : State) (p n pos k : Nat) : Word :=
  let w := rg s (NodeLap.key p n pos (k / 2))
  if k % 2 = 0 then w &&& 0xFFFFFFFF else w >>> 32

/-- The valid connections of a node at a position. -/
def connsAt (s : State) (p n pos : Nat) : List ConnE :=
  ((List.range 8).map (fun k => ⟨connKey p n pos k, connWord s p n pos k⟩)).filter
    (fun (c : ConnE) => fldGet LapConn.valid c.w = 1)

/-- The direction of a link port code (R205): none for the others. -/
def linkDir (port : Nat) : Option Nat := if 1 ≤ port ∧ port ≤ 4 then some (port - 1) else none

/-- The array at a local port of a node (R205): A(2nx + i mod 2, 2ny + i div 2). -/
def localArr (n i : Nat) : Nat := arrIdx (2 * (n % 32) + i % 2) (2 * (n / 32) + i / 2)

/-- The mesh port t of a hub tap of a node (R261). -/
def tapIdx (n j : Nat) : Option Nat :=
  (findIdxSome (fun m => decide (m = n)) [495, 496, 527, 528]).map (fun k => 2 * k + j)

/-- Is the link of a node in a direction seam-facing? -/
def seamFacing (n d : Nat) : Bool := (nodeNbr n d).isNone

/-- A credit begins its way back (R211): one freed as a slot ends starts in the next slot with `delay` 0, one freed while a
slot is in course with `delay` 1. -/
def addCredit (c delay : Nat) (s : State) : State := { s with creditFly := s.creditFly ++ [⟨c, delay⟩] }

/-- The connection of a place and the parts of its key. -/
def keyConn (s : State) (c : Nat) : ConnE := ⟨c, connWord s (c / 524288) (c / 512 % 1024) (c / 8 % 64) (c % 8)⟩

/-- Connections fanned from the same IN of the same kind at the same position (R208). -/
def siblings (s : State) (c : ConnE) : List ConnE :=
  (connsAt s (c.key / 524288) (c.key / 512 % 1024) (c.key / 8 % 64)).filter
    (fun d => d.inp = c.inp && d.baton = c.baton)

/-- The connection that drives the IN link of a connection: at the neighbour, one position before (R207). -/
def upstream (s : State) (c : ConnE) : Option ConnE :=
  match linkDir c.inp with
  | none => none
  | some d =>
    match nodeNbr (c.key / 512 % 1024) d with
    | none => none
    | some m =>
      let pos := c.key / 8 % 64
      let q := if pos = 0 then s.lapLen - 1 else pos - 1
      (connsAt s (c.key / 524288) m q).find? (fun e => e.out = opp d + 1 && e.baton = c.baton)

/-- One slot of the credits on their way (R211): a credit at a START connection joins its counter; at a fork it goes on
when every branch has one; else one hop back, at most two on a link in a slot. `keep` are those that wait, `moved` those
that have gone a hop in this slot, `used` the links used. -/
def creditStep : Nat → List Credit → List Credit → List Credit → List Nat → State → State
  | 0, _, keep, moved, _, s => { s with creditFly := keep ++ moved }
  | _ + 1, [], keep, moved, _, s => { s with creditFly := keep ++ moved }
  | fuel + 1, t :: ts, keep, moved, used, s =>
    if 0 < t.delay then creditStep fuel ts keep (moved ++ [⟨t.conn, t.delay - 1⟩]) used s
    else
      let c := keyConn s t.conn
      if c.start then creditStep fuel ts keep moved used (putCredit c.key (creditOf s c.key + 1) s)
      else
        let others := ((siblings s c).map (·.key)).filter (fun k => k ≠ c.key)
        if others.any (fun k => !ts.contains ⟨k, 0⟩ && !keep.contains ⟨k, 0⟩) then
          creditStep fuel ts (keep ++ [t]) moved used s
        else
          match upstream s c with
          | none => creditStep fuel ts keep moved used s
          | some u =>
            let link := c.key / 512 * 8 + c.inp
            if 2 ≤ used.count link then creditStep fuel ts (keep ++ [t]) moved used s
            else
              let drop (l : List Credit) := others.foldl (fun l k => l.erase ⟨k, 0⟩) l
              let inTs := others.filter (fun k => ts.contains ⟨k, 0⟩)
              let inKeep := others.filter (fun k => !ts.contains ⟨k, 0⟩)
              let ts' := inTs.foldl (fun l k => l.erase ⟨k, 0⟩) ts
              let keep' := if inKeep.isEmpty then keep else drop keep
              creditStep fuel ts' keep' (moved ++ [⟨u.key, 0⟩]) (link :: used) s

/-- All credits move one slot. -/
def creditsMove (s : State) : State := creditStep (s.creditFly.length + 1) s.creditFly [] [] [] s

/-- Advance the counters of a generator from counter k (R176): each wrap carries to the next; WRAP_TAG counts the wraps
of TAG_CTR. -/
def genCounters (p a g : Nat) : Nat → Nat → State → State
  | 0, _, s => s
  | fuel + 1, k, s =>
    let cfg := rg s (MaGenCfg.key p a g)
    let f : Fld := ⟨16 * k + 15, 16 * k⟩
    let ks := MaGenState.key p a g
    let i := rf s ks f + 1
    if rf s (MaGenCtr.key p a g k) MaGenCtr.tripsM1 < i then
      let s := rfput ks f 0 s
      let s := if fldGet MaGenCfg.tagCtr cfg = k then rfadd (MaGenSeq.key p a g) MaGenSeq.wrapTag 1 s else s
      if k < fldGet MaGenCfg.ctrsM1 cfg then genCounters p a g fuel (k + 1) s else s
    else rfput ks f i s

/-- A generator's address advances after a successful access (R175 to R177). -/
def genAdvance (p a g : Nat) (s : State) : State :=
  let cfg := rg s (MaGenCfg.key p a g)
  let s := rfadd (MaGenCount.key p a g) MaGenCount.steps 1 s
  if fldGet MaGenCfg.mode cfg = 2 then
    let q := (rf s (MaGenSeq.key p a g) MaGenSeq.fifoPos + 1) % (fldGet MaGenCfg.fifoSizeM1 cfg + 1)
    rfput (MaGenSeq.key p a g) MaGenSeq.fifoPos q s
  else genCounters p a g 4 0 s

/-- A memory array stops (R174, R185): state and code, with the report where a refused access stops it. -/
def memStops (p a : Nat) (st : Status) (s : State) : State :=
  rfput (MaStatus.key p a) MaStatus.stopCode st.toNat (rfput (MaStatus.key p a) MaStatus.arrayState 4 s)

/-- The stop of a generator whose access is refused (R185). -/
def genRefused (p a g n : Nat) (s : State) : State :=
  report stTagMode false 1 (locUnit (logicalOf s p) p a 0 0 0 0) 0 (BitVec.ofNat 8 g :: bytesLE 2 n) (memStops p a stTagMode s)

/-- A read generator's access (R175, R178, R182): the vector with its tag, or none where it waits, is held, or stops. The
per-vector count advances for every vector sent, whichever tag it carries (R135). -/
def genRead (p a g : Nat) (s : State) : Option (Byte × Vec) × State :=
  let n := genSlot s p a g
  let cfg := rg s (MaGenCfg.key p a g)
  let kc := MaGenCount.key p a g
  if sbHolds s p a g n then (none, rfsat kc MaGenCount.sbHolds 1 s)
  else
    match slotRead p a (64 * n) 64 (fldGet MaGenCfg.form cfg) s with
    | (.refuse _, s) => (none, genRefused p a g n s)
    | (.wait, s) =>
      let bad := match readBytes s (sramKey p a (64 * n)) 64 with
        | .error _ => tagOf s (slotKey p a n) || inUntagged s p a n || fldGet MaGenCfg.form cfg = 2
        | .ok _ => false
      (none, if bad then memStops p a stUncorrectable s else rfsat kc MaGenCount.tagWaits 1 s)
    | (.done bs, s) =>
      let kq := MaGenSeq.key p a g
      let tag : Byte :=
        if fldGet MaGenCfg.mode cfg = 2 then smapGet vtagDflt s.vtags (slotKey p a n)
        else if fldGet MaGenCfg.tagSrc cfg = 1 then BitVec.ofNat 8 (rf s kq MaGenSeq.wrapTag)
        else BitVec.ofNat 8 (rf s kq MaGenSeq.vecSeq)
      let s := rfadd kq MaGenSeq.vecSeq 1 s
      (some (tag, ofVecBytes bs), genAdvance p a g s)

/-- The write generator takes a vector (R175, R178, R182), or refuses it: a slot that was full in its turn too (R168). -/
def genWrite (p a : Nat) (tag : Byte) (v : Vec) (s : State) : Bool × State :=
  let n := genSlot s p a 2
  let cfg := rg s (MaGenCfg.key p a 2)
  let kc := MaGenCount.key p a 2
  if sbHolds s p a 2 n then (false, rfsat kc MaGenCount.sbHolds 1 s)
  else if (memArrOf s p a).emptied.contains n && decide (fldGet MaGenCfg.form cfg = 0) then (false, rfsat kc MaGenCount.tagWaits 1 s)
  else
    match slotWrite p a (64 * n) (fldGet MaGenCfg.form cfg) (vecBytes v) s with
    | (.refuse _, s) => (false, genRefused p a 2 n s)
    | (.wait, s) => (false, rfsat kc MaGenCount.tagWaits 1 s)
    | (.done _, s) =>
      let s := if fldGet MaGenCfg.mode cfg = 2 then
          { s with vtags := smapSet vtagDflt s.vtags (slotKey p a n) tag } else s
      (true, genAdvance p a 2 s)

/-- A steering unit stops (R147, R149, R151): the error register, the memory array of its node, which keeps the code of an
earlier stop (R197), the report. -/
def steerStops (p n u kind input expected received : Nat) (s : State) : State :=
  let k := NodeSteerErr.key p n u
  let s := rfput k NodeSteerErr.err 1 (rfput k NodeSteerErr.kind kind (rfput k NodeSteerErr.input input
    (rfput k NodeSteerErr.expected expected (rfput k NodeSteerErr.received received s))))
  let s := putSteer p n u { steerOf s p n u with stopped := true } s
  let km := MaStatus.key p (localArr n 3)
  let s := if 4 ≤ rf s km MaStatus.arrayState then s
    else rfput km MaStatus.arrayState 4 (rfput km MaStatus.stopCode stBatonOrder.toNat s)
  let data := [u, kind, input, expected, received].map (BitVec.ofNat 8)
  report stBatonOrder false 1 (locUnit (logicalOf s p) p 0 0 0 0 n) 0 data s

/-- A refused arrival counts a stall (R146). DESIGN CHOICE (log 82): one that is held upstream is presented, and where it
is refused counts, again in each later slot. -/
def steerStall (p n u : Nat) (s : State) : State := rfsat (NodeSteerCount.key p n u) NodeSteerCount.stall 1 s

/-- Accept one arrival at a steering unit (R149 step 2): true when it has been taken. DESIGN CHOICE (log 82): in the
slot in which the unit stops, the arrivals presented after the one that stops it are refused. A port that the unit's
mode does not use queues and counts its arrivals like the others (DESIGN CHOICE, log entry 108). -/
def steerAccept (p n u : Nat) (m : Move) (s : State) : Bool × State :=
  let t := steerOf s p n u
  let cfg := rg s (NodeSteerCfg.key p n u)
  if t.stopped then (false, s)
  else if m.baton then
    if 4 ≤ t.bq.length then (false, steerStall p n u s)
    else
      let nt := rf s (NodeSteerState.key p n u) NodeSteerState.nextBtnTag
      if batonTag m.btn ≠ nt then (false, steerStops p n u 0 2 nt (batonTag m.btn) s)
      else (true, rfadd (NodeSteerState.key p n u) NodeSteerState.nextBtnTag 1
        (putSteer p n u { t with bq := t.bq ++ [(m.btn, m.conn)] } s))
  else if fldGet NodeSteerCfg.mode cfg = 3 then
    if t.fwd.isSome then (false, steerStall p n u s)
    else
      let v := (m.vec.toNat / 2 ^ (8 * fldGet NodeSteerCfg.tokenByte cfg)) % 256
      (true, addCredit m.conn 0 (putSteer p n u { t with fwd := some (BitVec.ofNat 16 (m.tag.toNat * 256 + v)) } s))
  else if 0x0F ≤ m.port then
    if 4 ≤ t.dq1.length then (false, steerStall p n u s)
    else (true, putSteer p n u { t with dq1 := t.dq1 ++ [(m.tag, m.vec, m.conn)] } s)
  else
    if 4 ≤ t.dq0.length then (false, steerStall p n u s)
    else (true, putSteer p n u { t with dq0 := t.dq0 ++ [(m.tag, m.vec, m.conn)] } s)

/-- Open a group with the baton at the head of the queue (R149 step 3). While a forwarded baton is still held, no group
opens that would forward another, since no baton is lost (R146; log entry 10). -/
def steerOpen (p n u : Nat) (s : State) : State :=
  let t := steerOf s p n u
  let cfg := rg s (NodeSteerCfg.key p n u)
  let k := NodeSteerState.key p n u
  match t.bq with
  | [] => s
  | (b, _) :: _ =>
    if rf s k NodeSteerState.opened = 1 ∨ (fldGet NodeSteerCfg.btnFwd cfg = 1 ∧ t.fwd.isSome) then s
    else
      let sel := if natBit (batonValue b) (fldGet NodeSteerCfg.vbit cfg) then 1 else 0
      let s := rfput k NodeSteerState.opened 1 (rfput k NodeSteerState.curSel sel (rfput k NodeSteerState.curTag
        (batonTag b) (rfput k NodeSteerState.groupLeft (fldGet NodeSteerCfg.groupM1 cfg + 1) s)))
      if fldGet NodeSteerCfg.btnFwd cfg = 1 then putSteer p n u { t with fwd := some b } s else s

/-- Pair one vector (R149 step 3), when none is held. -/
def steerPair (p n u : Nat) (s : State) : State :=
  let cfg := rg s (NodeSteerCfg.key p n u)
  let mode := fldGet NodeSteerCfg.mode cfg
  if (steerOf s p n u).stopped ∨ (steerOf s p n u).paired.isSome ∨ (mode ≠ 1 ∧ mode ≠ 2) then s
  else
    let s := steerOpen p n u s
    let t := steerOf s p n u
    let k := NodeSteerState.key p n u
    if rf s k NodeSteerState.opened = 0 then s
    else
      let sel := rf s k NodeSteerState.curSel = 1
      let from1 := mode = 2 ∧ sel
      match (if from1 then t.dq1 else t.dq0) with
      | [] => s
      | (tag, _, _) :: _ =>
        if tag.toNat ≠ rf s k NodeSteerState.curTag then
          steerStops p n u 1 (if from1 then 1 else 0) (rf s k NodeSteerState.curTag) tag.toNat s
        else
          let left := rf s k NodeSteerState.groupLeft - 1
          let t := { t with paired := some (decide from1, decide (mode = 1 ∧ sel)) }
          let s := rfput k NodeSteerState.groupLeft left s
          if left = 0 then
            let s := rfput k NodeSteerState.opened 0 s
            let s := rfadd (NodeSteerCount.key p n u) NodeSteerCount.paired 1 s
            match t.bq with
            | (_, c) :: r => addCredit c 0 (putSteer p n u { t with bq := r } s)
            | [] => putSteer p n u t s
          else putSteer p n u t s

/-- The paired vector departs (R148): its queue entry is freed at the beginning of the slot, and its credit returns in the
next (R211). -/
def steerDepart (p n u : Nat) (s : State) : Option (Byte × Vec) × State :=
  let t := steerOf s p n u
  match t.paired with
  | none => (none, s)
  | some (from1, _) =>
    match (if from1 then t.dq1 else t.dq0) with
    | [] => (none, s)
    | (tag, v, c) :: r =>
      let t := { t with paired := none, dq1 := if from1 then r else t.dq1, dq0 := if from1 then t.dq0 else r }
      (some (tag, v), addCredit c 1 (putSteer p n u t s))

/-- A discarding out1 takes a paired vector in the slot it is sent (DROP1). -/
def steerDrop (p n u : Nat) (s : State) : State :=
  let t := steerOf s p n u
  match t.paired with
  | some (_, true) =>
    if rf s (NodeSteerCfg.key p n u) NodeSteerCfg.drop1 = 1 ∧ t.stopped = false then (steerDepart p n u s).2 else s
  | _ => s

/-- A baton refused for its tag stops its array (R144). -/
def batonStops (p a : Nat) (expected received : Nat) (s : State) : State :=
  let k := CaBtnError.key p a
  let s := rfput k CaBtnError.err 1 (rfput k CaBtnError.expected expected (rfput k CaBtnError.received received s))
  let s := rfput (CaStatus.key p a) CaStatus.arrayState 4 s
  report stBatonOrder false 1 (locUnit (logicalOf s p) p a 0 0 0 0) 0
    (bytesLE 5 0 ++ [BitVec.ofNat 8 expected, BitVec.ofNat 8 received]) s

/-- A baton arrives at the baton-in queue, which takes one a slot (R143, R144): true when it has been taken. -/
def batonArrives (p a : Nat) (b : BitVec 16) (conn : Nat) (s : State) : Bool × State :=
  let c := arrOf s (arrKey p a)
  if 4 ≤ c.btnIn.length ∨ c.btnCame = true then (false, s)
  else
    let nx := rf s (CaBtnState.key p a) CaBtnState.inNext
    if batonTag b ≠ nx then (false, batonStops p a nx (batonTag b) s)
    else (true, rfadd (CaBtnState.key p a) CaBtnState.inNext 1
      (putArr (arrKey p a) { c with
        btnIn := c.btnIn ++ [b], btnConns := c.btnConns ++ [conn], btnCame := (standOf s p).started } s))

/-- Deliver one move at the end of its slot (R207): what remains on its way when it is refused. A baton that a table
sends to a hub tap or a steering data port, which no check of R209 bars, enters as the vector it is not: zero (DESIGN
CHOICE, log entry 87). A baton for an array that has STOPPED stays at the node (DESIGN CHOICE, log entry 107). -/
def deliver (pos : Nat) (m : Move) (s : State) : Option Move × State :=
  let p := m.node / 1024
  let n := m.node % 1024
  let keep (r : Bool × State) : Option Move × State := (if r.1 then none else some m, r.2)
  if m.link then
    let d := m.port - 1
    let l := linkOf s p n d
    (none, putLink p n d (if m.baton then { l with btn := some m.btn } else { l with vec := some (m.tag, m.vec) }) s)
  else if 5 ≤ m.port ∧ m.port ≤ 8 then
    let a := localArr n (m.port - 5)
    if isMemIdx a then
      if genActive s p a 2 pos then
        let r := genWrite p a m.tag m.vec s
        if r.1 then (none, addCredit m.conn 0 r.2) else (some m, r.2)
      else (some m, s)
    else if m.baton then
      (if rf s (CaStatus.key p a) CaStatus.arrayState = 4 then (some m, s) else keep (batonArrives p a m.btn m.conn s))
    else
      let c := arrOf s (arrKey p a)
      if c.routeIn.isSome then (some m, s)
      else (none, putArr (arrKey p a) { c with routeIn := some (m.tag, m.vec), routeConn := m.conn } s)
  else if m.port = 9 ∨ m.port = 10 then
    match tapIdx n (m.port - 9) with
    | none => (none, s)
    | some t =>
      let q := tapOf s p t
      if 16 ≤ q.rx.length then (some m, s) else (none, putTap p t { q with rx := q.rx ++ [(m.vec, m.conn)] } s)
  else if 0x0B ≤ m.port ∧ m.port ≤ 0x16 then keep (steerAccept p n ((m.port - 0x0B) % 4) m s)
  else (none, s)

/-- Deliver every move of a stand; refused ones stay (R143, R146, R175). -/
def deliverAll (p pos : Nat) : List Move → List Move → State → State
  | [], keep, s => { s with moves := keep }
  | m :: ms, keep, s =>
    if m.node / 1024 ≠ p then deliverAll p pos ms (keep ++ [m]) s
    else
      match deliver pos m s with
      | (none, s) => deliverAll p pos ms keep s
      | (some m, s) => deliverAll p pos ms (keep ++ [m]) s

/-- Free the latches whose vector or batons the steps of the slot have taken (R211). -/
def freeLatches (p a : Nat) (s : State) : State :=
  let c := arrOf s (arrKey p a)
  let s := if c.routeTaken then
      addCredit c.routeConn 0 (putArr (arrKey p a) { c with routeIn := none, routeTaken := false } s) else s
  let c := arrOf s (arrKey p a)
  let n := c.btnConns.length - c.btnIn.length
  if n = 0 then s
  else (c.btnConns.take n).foldl (fun s k => addCredit k 0 s)
    (putArr (arrKey p a) { c with btnConns := c.btnConns.drop n } s)

/-- The lag of a seam-fed START connection (R217). -/
def seamLag (len q srcPos : Nat) : Nat := (((List.range 73).find? (fun k => srcPos + 6 ≤ k * len + q)).getD 0)

/-- The entry a seam-fed START connection takes: the oldest of its edge node, kind and sender position (R214). -/
def seamEntry (s : State) (p n d : Nat) (c : ConnE) : Option SeamEntry :=
  (seamOf s p d).rx.find? (fun e =>
    e.edge = edgePos n d && e.baton = c.baton && e.pos = fldGet LapConn.srcPos c.w)

/-- What a START connection's source holds for it (R205, R211, R216): a vector with its tag, or a baton. -/
inductive Due where
  | vec (tag : Byte) (v : Vec)
  | btn (b : BitVec 16)
  | gen (g : Nat)
  | nothing
  deriving DecidableEq, Repr

/-- Completed laps of a stand since its last start (R217). -/
def lapNow (s : State) (p : Nat) : Nat := (standOf s p).laps - (standOf s p).lapStart

/-- Does a START connection fire in a lap: one fed by a seam not before its lag (R217)? -/
def turned (s : State) (pos lap : Nat) (c : ConnE) : Bool :=
  (linkDir c.inp).isNone || decide (seamLag s.lapLen pos (fldGet LapConn.srcPos c.w) ≤ lap)

/-- The source of a START connection at the start of the slot of position pos of a lap. -/
def dueAt (s : State) (p n pos lap : Nat) (c : ConnE) : Due :=
  let i := c.inp
  match linkDir i with
  | some d =>
    if !turned s pos lap c then .nothing
    else
      match seamEntry s p n d c with
      | some e => if e.baton then .btn e.btn else .vec e.tag e.vec
      | none => .nothing
  | none =>
    if 5 ≤ i ∧ i ≤ 8 then
      let a := localArr n (i - 5)
      if isMemIdx a then
        (if c.baton then .nothing
         else if genActive s p a 0 pos then .gen 0 else if genActive s p a 1 pos then .gen 1 else .nothing)
      else
        let t := arrOf s (arrKey p a)
        if c.baton then
          match t.btnOut with
          | b :: _ => .btn b
          | [] => .nothing
        else
          match t.routeOut with
          | some (.vector g v) => .vec g v
          | _ => .nothing
    else if i = 9 ∨ i = 10 then
      match tapIdx n (i - 9) with
      | some t =>
        match (tapOf s p t).tx with
        | (g, v) :: _ => .vec (g.getD (BitVec.ofNat 8 (rf s (HubTap.key p t) HubTap.vecSeq))) v
        | [] => .nothing
      | none => .nothing
    else if 0x0B ≤ i ∧ i ≤ 0x12 then
      let t := steerOf s p n ((i - 0x0B) % 4)
      let out1 := decide (0x0F ≤ i)
      match t.paired with
      | some (from1, o1) =>
        if o1 = out1 ∧ t.stopped = false then
          match (if from1 then t.dq1 else t.dq0) with
          | (g, v, _) :: _ => .vec g v
          | [] => .nothing
        else .nothing
      | none => .nothing
    else if 0x13 ≤ i ∧ i ≤ 0x16 then
      let t := steerOf s p n ((i - 0x0B) % 4)
      match t.fwd with
      | some b => if t.stopped then .nothing else .btn b
      | none => .nothing
    else .nothing

/-- The source of a START connection in the lap in course. -/
def dueOf (s : State) (p n pos : Nat) (c : ConnE) : Due := dueAt s p n pos (lapNow s p) c

/-- Take the vector or baton from its source (R211). The credit of a seam entry crosses in a reverse frame (R218), unless
the direction is dead (R221). -/
def takeDue (p n : Nat) (c : ConnE) (s : State) : State :=
  let i := c.inp
  match linkDir i with
  | some d =>
    match seamEntry s p n d c with
    | none => s
    | some e =>
      let m := seamOf s p d
      let back : List Nat :=
        match facing p d with
        | none => []
        | some q =>
          ((connsAt s q (edgeNode (opp d) e.edge) e.pos).filter (fun x => x.out = opp d + 1 && x.baton = e.baton)).map (·.key)
      putSeam p d { m with rx := m.rx.erase e, credNew := if seamDead s p d then [] else m.credNew ++ back.take 1 } s
  | none =>
    if 5 ≤ i ∧ i ≤ 8 then
      let k := arrKey p (localArr n (i - 5))
      if c.baton then putArr k { arrOf s k with btnOut := (arrOf s k).btnOut.drop 1 } s
      else putArr k { arrOf s k with routeOut := none } s
    else if i = 9 ∨ i = 10 then
      match tapIdx n (i - 9) with
      | some t => rfadd (HubTap.key p t) HubTap.vecSeq 1 (putTap p t { tapOf s p t with tx := (tapOf s p t).tx.drop 1 } s)
      | none => s
    else if 0x0B ≤ i ∧ i ≤ 0x12 then (steerDepart p n ((i - 0x0B) % 4) s).2
    else if 0x13 ≤ i ∧ i ≤ 0x16 then putSteer p n ((i - 0x0B) % 4) { steerOf s p n ((i - 0x0B) % 4) with fwd := none } s
    else s

/-- Place a vector or baton on the OUT of a connection (R207): the neighbour's input, the seam frame of the slot
(R218), or the delivery at the end of the slot. -/
def putOut (p n pos : Nat) (c : ConnE) (tag : Byte) (v : Vec) (b : BitVec 16) (s : State) : State :=
  match linkDir c.out with
  | some d =>
    match nodeNbr n d with
    | some m => { s with moves := s.moves ++ [⟨nodeKey p m, opp d + 1, true, c.baton, tag, v, b, c.key⟩] }
    | none =>
      let m := seamOf s p d
      putSeam p d { m with cur := { m.cur with entries := m.cur.entries ++ [⟨pos, edgePos n d, c.baton, tag, v, b⟩] } } s
  | none => { s with moves := s.moves ++ [⟨nodeKey p n, c.out, false, c.baton, tag, v, b, c.key⟩] }

/-- A parity error on what a node receives (R224): the vector or baton is discarded and its credit lost. -/
def linkParity (p n port pos : Nat) (s : State) : State :=
  let k := NodeLinkErr.key p n
  let s := if rf s k NodeLinkErr.count = 0 then rfput k NodeLinkErr.port port (rfput k NodeLinkErr.pos pos s) else s
  let s := rfsat k NodeLinkErr.count 1 s
  let loc := locUnit (logicalOf s p) p 0 0 0 0 n
  report stMeshParity true 1 loc 0 [BitVec.ofNat 8 port, BitVec.ofNat 8 pos] (taint stMeshParity 0 s)

/-- Note that a node has moved something in the slot (R222). -/
def nodeMoved (p n : Nat) (s : State) : State := putNode p n { nodeOf s p n with moved := true } s

/-- A run of slips of a START connection (R212, R234). -/
def slipCount (p n key : Nat) (s : State) : State :=
  let t := nodeOf s p n
  let r := ((t.slipRuns.find? (fun e => e.1 = key)).map (·.2)).getD 0 + 1
  let s := putNode p n { t with slipRuns := (key, r) :: t.slipRuns.filter (fun e => e.1 ≠ key) } s
  let k := NodeSlip.key p n
  let s := rfsat k NodeSlip.slips 1 s
  if rf s k NodeSlip.longest < r then rfput k NodeSlip.longest (min r 65535) s else s

/-- A connection that sends ends its run of slips. -/
def slipEnd (p n key : Nat) (s : State) : State :=
  let t := nodeOf s p n
  if t.slipRuns.any (fun e => e.1 = key) then
    putNode p n { t with slipRuns := t.slipRuns.filter (fun e => e.1 ≠ key) } s
  else s

/-- Is an array's output discarded (R88)? -/
def muted (s : State) (p a : Nat) : Bool :=
  (List.range 8).any (fun i => rf s (CaStageStatus.key p a i) CaStageStatus.stopCode = stArrayNoCompletion.toNat)

/-- Are a stand's screening settings nominal (R417)? -/
def screenNominal (s : State) (p : Nat) : Bool :=
  rf s (PwrTile.key p) PwrTile.vmargin = 0 && rf s (ClkDiv.key p) ClkDiv.ratio = 1000

/-- Does a seam carry no data-mesh traffic since a stand at one of its ends is screened at other than nominal settings (R417)?
DESIGN CHOICE (log 105): its sources slip, and its credits wait, until the settings are nominal. -/
def seamScreened (s : State) (p d : Nat) : Bool :=
  !screenNominal s p || (facing p d).any (fun q => !screenNominal s q)

/-- Is a seam's sending direction closed (R221)? -/
def sendDead (s : State) (p d : Nat) : Bool :=
  seamDead s p d || (seamOf s p d).sendOff ||
  (match facing p d with
    | some q => seamDead s q (opp d)
    | none => false)

/-- Count the EXPECT-clear connections that found no vector in a lap in which they fire (R216, R217, R234). -/
def countAbsent (p n pos : Nat) (cs : List ConnE) (s : State) : State :=
  let k := (cs.filter (fun x => !x.expect && turned s pos (lapNow s p) x)).length
  if k = 0 then s else rfsat (NodeSlip.key p n) NodeSlip.absent k s

/-- Fire the START connections fanned from one source (R208, R211, R212, R216). -/
def fireStart (p n pos : Nat) (bad : Bool) (c : ConnE) (cs : List ConnE) (s : State) : State :=
  let due := dueOf s p n pos c
  if due = .nothing then countAbsent p n pos cs s
  else if 5 ≤ c.inp ∧ c.inp ≤ 8 ∧ !isMemIdx (localArr n (c.inp - 5)) ∧ muted s p (localArr n (c.inp - 5)) then
    takeDue p n c s
  else if cs.any (fun x => (linkDir x.out).any (fun d => seamFacing n d && (sendDead s p d || seamScreened s p d))) then slipCount p n c.key s
  else if cs.any (fun x => creditOf s x.key = 0) then slipCount p n c.key s
  else
    let send (tag : Byte) (v : Vec) (b : BitVec 16) (s : State) : State :=
      let s := cs.foldl (fun s x => putCredit x.key (creditOf s x.key - 1) s) (nodeMoved p n (slipEnd p n c.key s))
      if bad then linkParity p n c.inp pos s else cs.foldl (fun s x => putOut p n pos x tag v b s) s
    match due with
    | .vec tag v => send tag v 0 (takeDue p n c s)
    | .btn b => send 0 0 b (takeDue p n c s)
    | .gen g =>
      match genRead p (localArr n 3) g s with
      | (some (tag, v), s) => send tag v 0 s
      | (none, s) => countAbsent p n pos cs s
    | .nothing => s

/-- Fire the connections fanned from one link input (R207, R208). -/
def fireLink (p n pos d : Nat) (bad : Bool) (c : ConnE) (cs : List ConnE) (s : State) : State :=
  let l := linkOf s p n d
  let s := putLink p n d (if c.baton then { l with btn := none } else { l with vec := none }) s
  let go (tag : Byte) (v : Vec) (b : BitVec 16) (s : State) : State :=
    if bad then linkParity p n c.inp pos s
    else cs.foldl (fun s x => putOut p n pos x tag v b s) (nodeMoved p n s)
  if c.baton then
    match l.btn with
    | some b => go 0 0 b s
    | none => s
  else
    match l.vec with
    | some (tag, v) => go tag v 0 s
    | none => s

/-- The read generators of a node's memory array that no START connection serves at a position attempt their access all the
same (R175), read generator 0 first (R168). The checks of R179 leave none at a load; of one that set-up writes leave later, the
vector reaches no connection (DESIGN CHOICE, log 81). -/
def spareGens (p pos n : Nat) (cs : List ConnE) (s : State) : State :=
  let a := localArr n 3
  if !isMemIdx a then s
  else
    let on := [0, 1].filter (fun g => genActive s p a g pos)
    let free := if cs.any (fun c => c.start && !c.baton && c.inp = 8) then on.drop 1 else on
    free.foldl (fun s g => if arrState s p a = 2 then (genRead p a g s).2 else s) s

/-- Fire every connection of a node at a position, each source once (R207). -/
def fireNode (p pos : Nat) (bad : ConnE → Bool) (n : Nat) (s : State) : State :=
  let cs := connsAt s p n pos
  spareGens p pos n cs <| cs.foldl (fun s c =>
    let grp := cs.filter (fun d => d.inp = c.inp && d.baton = c.baton)
    if (grp.head?).map (·.key) ≠ some c.key then s
    else if c.start then fireStart p n pos (bad c) c grp s
    else
      match linkDir c.inp with
      | some d => fireLink p n pos d (bad c) c grp s
      | none => s) s

end Sys2Proof.Machine
end

