-- ==== Sys2Proof/Machine/Boundary.lean ====
section
/-!
DEFINITION. SLOT_BOUNDARY: overruns and hold slots (R84 to R89), port holds (R215), laps and idle laps (R202, R203,
R451), the firing of connections and generators, the beginning of steps (R79, R93, R96), the service path of route-out
latches (R116), seam frames (R219), scoreboards (R181) and nodes that wait (R222). With it the rows BATON_IN_ARRIVAL,
ARRAY_NO_COMPLETION, HEARTBEAT, MESH_NO_PROGRESS and those of the seams.
-/

namespace Sys2Proof.Machine

/-- The compute arrays of a stand that hold any configuration. -/
def computeUnits (s : State) (p : Nat) : List Nat := (unitsOf s p 15).filter (fun a => !isMemIdx a)

/-- Does an array keep its stand's lap held by a stop (R88, R89, R144)? -/
def arrStopped (s : State) (p a : Nat) : Bool :=
  rf s (CaBtnError.key p a) CaBtnError.err = 1 ||
  (List.range 8).any (fun i => rf s (CaStageStatus.key p a i) CaStageStatus.state = 3)

/-- What a hold slot does to a stage: its run of lateness under COMPUTE (R86, R88), the replay's slots (R90), and a MERGE1
that waits with neither source (cause 0x3), which sees UP afresh (R130). -/
def holdStage (l : Loc) (c : Lateness) (s : State) : State :=
  let t := stageOf s l.key
  match c with
  | .compute _ => putStage l.key { t with late := t.late + 1, heldFor := t.heldFor + 1 } s
  | .replays => putStage l.key { t with late := 0, left := t.left - 1 } s
  | .waits =>
    let w := curOp s l
    if fldGet CaOp.opcode w = 0x63 ∧ fldGet CaOp.dvar w = 0 ∧ 0 < l.st ∧
        rf s (CaStageStatus.key l.p l.a l.st) CaStageStatus.waitCause = 3 then
      let u := stageOf s (l.key - 1)
      putStage (l.key - 1) { u with wrote := false }
        (putStage l.key { t with late := 0, upStart := u.latch, upFresh := u.fresh } s)
    else putStage l.key { t with late := 0 } s
  | _ => if t.late = 0 then s else putStage l.key { t with late := 0 } s

/-- Count a hold slot for an array whose stages are late (R86, R106, R260), and what it does to them. The slot adds to
QHOLDS also where another stage's replay has it counted under REPLAY (DESIGN CHOICE, log entry 109). -/
def arrHold (p a : Nat) (causes : List Lateness) (s : State) : State :=
  let k := CaOverrun.key p a
  let s := if causes.contains .replays then rfsat k CaOverrun.replay 1 s
    else if causes.contains (.compute false) ∨ causes.contains (.compute true) then rfsat k CaOverrun.compute 1 s
    else rfsat k CaOverrun.wait 1 s
  let s := if causes.contains (.compute true) then rfsat (CaSparse.key p a) CaSparse.qholds 1 s else s
  let c := arrOf s (arrKey p a)
  let r := c.holdRun + 1
  let s := putArr (arrKey p a) { c with holdRun := r } s
  let s := if rf s k CaOverrun.longest < r then rfput k CaOverrun.longest (min r 65535) s else s
  ((stagesOf s p a).zip causes).foldl (fun s (l, c) => holdStage l c s) s

/-- The eight stages of an array judged (R84 to R87). -/
def arrCauses (p a : Nat) (s : State) : List Lateness × State :=
  (stagesOf s p a).foldl (fun (cs, s) l =>
    let (c, s) := judgeStage l s
    (cs ++ [c], s)) ([], s)

/-- The other stages of an array that has stopped go on with the steps they have begun (R89): a step in the middle of its
slots nears its end though the lap is held. -/
def endSteps (p a : Nat) (s : State) : State :=
  (stagesOf s p a).foldl (fun s l =>
    let t := stageOf s l.key
    if t.begun && !t.done && decide (0 < t.left) && decide (t.attempts = 0) then putStage l.key { t with left := t.left - 1 } s
    else s) s

/-- The hold of a stand by its own stages (R84): the stand's arrays counted; true when its lap is held, with whether a
counted hold slot follows and whether a stage waits under cause 0x5 or 0x8 (R401). -/
def stageHolds (p : Nat) (s : State) : Bool × Bool × Bool × State :=
  (computeUnits s p).foldl (fun (h, cnt, svc, s) a =>
    let (cs, s) := arrCauses p a s
    let stop := arrStopped s p a
    let s := if stop then endSteps p a s else s
    if cs.any (· ≠ .none) then
      let w := (List.range 8).any (fun i => cs.getD i .none = .waits &&
        (rf s (CaStageStatus.key p a i) CaStageStatus.waitCause = 5 || rf s (CaStageStatus.key p a i) CaStageStatus.waitCause = 8))
      (true, true, svc || w, arrHold p a cs s)
    else
      let c := arrOf s (arrKey p a)
      (h || stop, cnt, svc, if c.holdRun = 0 then s else putArr (arrKey p a) { c with holdRun := 0 } s))
    (false, false, false, s)

/-- The EXPECT connections of a node at a position of a lap that find nothing (R215): a dead seam holds nobody (R221), nor
one before its lag (R217). -/
def missing (s : State) (p n q lap : Nat) : List ConnE :=
  (connsAt s p n q).filter (fun c => c.start && c.expect && decide (dueAt s p n q lap c = .nothing) && turned s q lap c &&
    (linkDir c.inp).all (fun d => !seamDead s p d))

/-- Count a port hold slot at a node by its first missing connection (R215, R237; log entry 11). -/
def countPortHold (p n : Nat) (ms : List ConnE) (s : State) : State :=
  let t := nodeOf s p n
  match ms with
  | [] => if t.holdRun = 0 then s else putNode p n { t with holdRun := 0 } s
  | c :: _ =>
    let k := NodePorthold.key p n
    let f := match linkDir c.inp with
      | some d => if (seamOf s p d).replaying then NodePorthold.replay else NodePorthold.seam
      | none => NodePorthold.hub
    let r := t.holdRun + 1
    let s := putNode p n { t with holdRun := r } (rfsat k f 1 s)
    if rf s k NodePorthold.longest < r then rfput k NodePorthold.longest (min r 65535) s else s

/-- The port holds of a stand at the boundary to position q of a lap. -/
def portHolds (p q lap : Nat) (s : State) : Bool × State :=
  (unitsOf s p 14).foldl (fun (h, s) n =>
    let ms := missing s p n q lap
    (h || !ms.isEmpty, countPortHold p n ms s)) (false, s)

/-- Begin or go on with the steps of the stages of an array at position q (R79, R96). -/
def beginStages (p q a : Nat) (s : State) : State :=
  if arrState s p a ≠ 2 then s
  else
    let ups := (List.range 8).map (fun i => (stageOf s (stgKey p a i)).latch)
    let fr := (List.range 8).map (fun i => (stageOf s (stgKey p a i)).fresh)
    let cs := (List.range 6).map (fun c => rg s (CaCtrState.key p a c))
    let rt := (arrOf s (arrKey p a)).routeIn.isSome
    let sq := BitVec.ofNat 8 (rf s (CaBtnState.key p a) CaBtnState.vecSeq)
    let s := putArr (arrKey p a) { arrOf s (arrKey p a) with placed := [], sent := [] } s
    (stagesOf s p a).foldl (fun s l =>
      let i := l.st
      let t := { stageOf s l.key with wrote := false }
      let ks := CaStageStatus.key p a i
      if rf s (CaStageCfg.key p a i) CaStageCfg.active = 0 then putStage l.key { t with begun := false } s
      else if t.begun && !t.done then putStage l.key { t with left := t.left - 1 } s
      else if rf s ks CaStageStatus.state = 0 ∧ q ≠ rf s (CaStageCfg.key p a i) CaStageCfg.startPos then putStage l.key t s
      else
        let s := if rf s ks CaStageStatus.state = 0 then rfput ks CaStageStatus.state 1 s else s
        if (curEval s l).isNone then putStage l.key { t with begun := false } s
        else putStage l.key { t with begun := true, done := false, left := curLatency s l - 1, heldFor := 0, late := 0,
                                     attempts := 0, upStart := ups.getD (i - 1) 0, upFresh := fr.getD (i - 1) false,
                                     routeStart := rt, ctrStart := cs, seqStart := sq } s) s

/-- At the start of a lap in the trace window, its number is fed to the trace of every array of a stand (R416). -/
def traceLap (p : Nat) (s : State) : State :=
  if tracing s p then
    let d := standOf s p
    let feed (t : BitVec 32) : BitVec 32 := BitVec.ofNat 32 (crcFeed crc32cParams t.toNat (bytesLE 8 d.laps))
    let s := putStand p { d with trace := some (feed (d.trace.getD 0xFFFFFFFF)) } s
    (computeUnits s p).foldl (fun s a =>
      let c := arrOf s (arrKey p a)
      if c.traced then putArr (arrKey p a) { c with trace := feed c.trace } s else s) s
  else s

/-- Every trace begins anew (R416). -/
def clearTraces (s : State) : State :=
  { s with
    arrays := s.arrays.filterMap (fun (k, (c : CArray)) =>
      let c : CArray := { c with trace := 0xFFFFFFFF, traced := false, fed := [] }
      if c = CArray.init then none else some (k, c))
    stands := s.stands.filterMap (fun (k, (d : Stand)) =>
      let d : Stand := { d with trace := none }
      if d = Stand.init then none else some (k, d)) }

/-- The service messages of an array's route-out latch leave for the service mesh (R116). -/
def sendService (p a : Nat) (s : State) : State :=
  match (arrOf s (arrKey p a)).routeOut with
  | some (.service st msgs) =>
    let s := putArr (arrKey p a) { arrOf s (arrKey p a) with routeOut := none } s
    msgs.foldl (fun s m =>
      match m with
      | .tally n k => svcSend p (patchRouter a) (.tally n (BitVec.ofNat 64 k)) (locUnit (logicalOf s p) p a st 0 0 0) s
      | .heartbeat n => svcSend p (patchRouter a) (.tally n 1) (locUnit (logicalOf s p) p a st 0 0 0) s
      | .atomic op ad v i =>
        svcSend p (patchRouter a) (.atomic op ad v i) (locUnit (logicalOf s p) p a st 0 i.toNat 0) s) s
  | _ => s

/-- Does the lap count stand at a drain point of the image (R358)? -/
def atDrainLap (s : State) (laps : Nat) : Bool :=
  match imgDrain s.image with
  | some (f, per) => decide (f ≤ laps ∧ (laps = f ∨ (0 < per ∧ (laps - f) % per = 0)))
  | none => false

/-- CA_TRACE (R416): R of the trace computation; 0 when no lap of the window has passed. -/
def caTrace (s : State) (p a : Nat) : Nat :=
  match traceNow s (arrKey p a) with
  | some t => crcResult crc32cParams t.toNat
  | none => 0

/-- The trace area of a stand is written at a drain point (R416): four bytes per array, 0 for memory arrays. -/
def writeTraces (p : Nat) (s : State) : State :=
  if !s.traceEn then s
  else (List.range 256).foldl (fun s i =>
    let a := s.lsOn.base + 0x100000 + 0x4000 * logicalOf s p + 64 * i
    let bs := (List.range 16).flatMap (fun j => bytesLE 4 (if isMemIdx (16 * i + j) then 0 else caTrace s p (16 * i + j)))
    match placeOf s a 64 with
    | .dram q sl off => dramWrite q sl off a bs s
    | _ => s) s

/-- A lap is counted (R132): the lap count of its stand, and of the heartbeats of its arrays (R110). -/
def countLap (p : Nat) (s : State) : State :=
  let s := putStand p { standOf s p with laps := (standOf s p).laps + 1, lapped := true } s
  (computeUnits s p).foldl (fun s a =>
    if rf s (CaHeartbeat.key p a) CaHeartbeat.period = 0 then s
    else putArr (arrKey p a) { arrOf s (arrKey p a) with lapsBeat := (arrOf s (arrKey p a)).lapsBeat + 1 } s) s

/-- A lap boundary (R202, R451), which each wrap meets once: the lap is counted; the stand stops at a drain point it
drains to (R358); TL is applied, and an idle lap inserted when the accumulator overflows. -/
def lapBoundary (p : Nat) (s : State) : State :=
  let s := countLap p s
  let here := atDrainLap s (standOf s p).laps
  let s := if here then writeTraces p s else s
  if s.draining && here then
    putStand p { standOf s p with started := false, drained := true } s
  else
    let k := PwrStandCount.key p
    let tl := rf s PwrStatus.key PwrStatus.tl
    let a := rf s k PwrStandCount.acc + tl
    let s := rfput k PwrStandCount.tl tl s
    if 256 ≤ a then
      putStand p { standOf s p with idleLeft := s.lapLen } (rfadd k PwrStandCount.idleLaps 1 (rfput k PwrStandCount.acc (a - 256) s))
    else rfput k PwrStandCount.acc a s

/-- The node at whose local port an array stands (R205). -/
def nodeOfArr (a : Nat) : Nat := a / 64 / 2 * 32 + a % 64 / 2

/-- The slot of position q begins in a stand: connections fire, generators attempt their accesses, steering units send,
and stages begin their steps. -/
def slotBegins (p q : Nat) (bad : Nat → ConnE → Bool) (s : State) : State :=
  let s := putStand p { standOf s p with pos := q, held := false, idleSlot := false, lapped := false } s
  let s := if q = 0 then traceLap p s else s
  let nodes := unitsOf s p 14
  let s := nodes.foldl (fun s n => (List.range 4).foldl (fun s u => steerDrop p n u s) s) s
  let s := nodes.foldl (fun s n => fireNode p q (bad n) n s) s
  let others := ((unitsOf s p 15).filter (fun a => isMemIdx a && !nodes.contains (nodeOfArr a))).map nodeOfArr
  let s := others.foldl (fun s n => spareGens p q n [] s) s
  (computeUnits s p).foldl (fun s a => beginStages p q a s) s

/-- A slot of an idle lap ends the runs of port hold slots of a stand's nodes (R237). -/
def endPortRuns (p : Nat) (s : State) : State :=
  (unitsOf s p 14).foldl (fun s n =>
    let t := nodeOf s p n
    if t.holdRun = 0 then s else putNode p n { t with holdRun := 0 } s) s

/-- A hold slot or a slot of an idle lap follows. -/
def slotHeld (p : Nat) (idle : Bool) (s : State) : State :=
  let s := if idle then endPortRuns p s else s
  let d := standOf s p
  putStand p { d with held := !idle, idleSlot := idle, holdSlots := d.holdSlots + (if idle then 0 else 1) } s

/-- Nodes that wait without progress (R222, R235): hold slots included, idle laps excluded. -/
def nodeProgress (p n : Nat) (s : State) : State :=
  let t := nodeOf s p n
  let k := NodeNoprog.key p n
  if t.moved then
    rfput (NodeStatus.key p n) NodeStatus.noprog 0 (rfput k NodeNoprog.elapsed 0
      (putNode p n { t with moved := false, waiting := 0, told := false } s))
  else
    let q := (List.range 4).any (fun u =>
      let st := steerOf s p n u
      !st.dq0.isEmpty || !st.dq1.isEmpty || !st.bq.isEmpty || st.fwd.isSome)
    if q || !t.slipRuns.isEmpty || decide (0 < t.holdRun) then
      rfput k NodeNoprog.elapsed (min 65535 ((t.waiting + 1) / s.lapLen)) (putNode p n { t with waiting := t.waiting + 1 } s)
    else s

/-- The end of a stand's slot that was neither a hold slot nor idle: deliveries and pairing (R149, R207). -/
def slotEnds (p : Nat) (s : State) : State :=
  let d := standOf s p
  let s := deliverAll p d.pos s.moves [] s
  (unitsOf s p 14).foldl (fun s n => (List.range 4).foldl (fun s u => steerPair p n u s) s) s

/-- What an array's slot has seen is over (R91, R143). -/
def clearSlot (p a : Nat) (s : State) : State :=
  let s := traceSlot p a s
  let c := arrOf s (arrKey p a)
  if c.btnCame || !c.touched.isEmpty || c.ext then
    putArr (arrKey p a) { c with btnCame := false, touched := [], ext := false } s
  else s

/-- No slot of a stand's memory arrays counts as emptied in the slot that begins (R168). -/
def clearEmptied (p : Nat) (s : State) : State :=
  { s with memArrs := s.memArrs.filterMap (fun (k, (m : MemArr)) =>
      let m : MemArr := if k / 4096 = p then { m with emptied := [] } else m
      if m = MemArr.init then none else some (k, m)) }

/-- The end of the slot in course in a stand. The entries that steps have freed in it, a hold slot too, return their
credits (R211). Slots are counted from the first position 0 on (R401, R402). -/
def slotOver (p : Nat) (s : State) : State :=
  let d := standOf s p
  let s := (computeUnits s p).foldl (fun s a => freeLatches p a s) s
  let s := if d.held ∨ d.idleSlot ∨ s.lapLen ≤ d.pos then s else slotEnds p s
  let s := (computeUnits s p).foldl (fun s a => clearSlot p a s) s
  let s := clearEmptied p s
  putStand p { standOf s p with slots := d.slots + (if s.lapLen ≤ d.pos ∧ d.held = false then 0 else 1) } s

/-- Position q follows unless a port hold does (R215). -/
def slotOrHold (p q : Nat) (bad : Nat → ConnE → Bool) (s : State) : State :=
  let (ph, s) := portHolds p q (lapNow s p) s
  if ph then slotHeld p false s else slotBegins p q bad s

/-- The boundary of a stand whose own stages hold it (R84, R88): the port holds of the position that would follow are
counted with it (R215), save where the lap ends at a drain point at which the stand stops (R358). -/
def heldBoundary (p q : Nat) (wraps counted : Bool) (s : State) : State :=
  let d := standOf s p
  let stops := wraps && s.draining && atDrainLap s (d.laps + 1)
  let (ph, s) := if stops then (false, s) else portHolds p q (lapNow s p + if wraps then 1 else 0) s
  if counted ∨ ph then slotHeld p false s else putStand p { standOf s p with held := true } s

/-- One boundary of one stand with a lap position, the slot in course being over: its own stages may hold it; else a lap
that ends is counted, and may end in a stop or an idle lap; else position q follows or a port hold slot. -/
def standBoundary (bad : Nat → ConnE → Bool) (p : Nat) (s : State) : State :=
  let d := standOf s p
  if 1 < d.idleLeft then slotHeld p true (putStand p { standOf s p with idleLeft := d.idleLeft - 1 } s)
  else
    let (h, cnt, svc, s) := if d.idleLeft = 1 then (false, false, false, s) else stageHolds p s
    let wraps := decide (d.pos + 1 = s.lapLen) && decide (d.idleLeft = 0) && !d.lapped
    let q := if s.lapLen ≤ d.pos + 1 then 0 else d.pos + 1
    let s := if svc then putStand p { standOf s p with serviceHolds := (standOf s p).serviceHolds + 1 } s else s
    let s :=
      if h then heldBoundary p q wraps cnt s
      else
        let s := putStand p { standOf s p with idleLeft := 0 } s
        let s := if wraps then lapBoundary p s else s
        if (standOf s p).started = false then s
        else if 0 < (standOf s p).idleLeft then slotHeld p true s
        else slotOrHold p q bad s
    if (standOf s p).started && !(standOf s p).idleSlot then (unitsOf s p 14).foldl (fun s n => nodeProgress p n s) s else s

/-- Is a seam direction live, as its receiving port sees it (R238)? -/
def seamLive (s : State) (p d : Nat) : Bool :=
  decide (rf s (SeamStatus.key p d) SeamStatus.state = 1 ∨ rf s (SeamStatus.key p d) SeamStatus.state = 2)

/-- The boundaries that a frame meets on its way: sent at the end of slot t, it arrives in slot t + 5, so that what was framed
in slot t can be taken in slot t + 6 (R217, R220). -/
def frameCrossing : Nat := 4

/-- The slots from one replay request that a port hears to the next, and what is left of them when it resends (R220): the
resent frame arrives 14 slots after the copy that failed, and a request that crosses after that arrives 14 slots after
the one before. -/
def replayTurn : Nat := 14
def replayResend : Nat := 10

/-- The frames that a port keeps from SEQ n on, oldest first (R220). -/
def framesFrom (m : SeamPort) (n : Byte) : List SeamFrame :=
  (List.range 64).filterMap (fun i => m.sent.find? (fun f => f.seq = n + BitVec.ofNat 8 i))

/-- A replay request for frame n reaches the sending port (R220), which hears one request for each failure: those under way
when it turns round are the same one (DEDUCED, log 83). -/
def seamResend (p d : Nat) (n : Byte) (s : State) : State :=
  let m := seamOf s p d
  if m.turn = 0 then putSeam p d { m with turn := replayTurn, again := n } s else s

/-- A frame whose check has failed (R220): it is discarded, the error counted, and a replay requested, again where it is the
copy that was asked for. -/
def frameBad (p d : Nat) (f : SeamFrame) (s : State) : State :=
  let m := seamOf s p d
  let s := rfsat (SeamCount.key p d) SeamCount.frameErrors 1 s
  let s := if m.replaying = true ∧ f.seq ≠ m.want then s else rfsat (SeamCount.key p d) SeamCount.replays 1 s
  putSeam p d { m with replaying := true, failRun := if f.seq = m.want then m.failRun + 1 else m.failRun } s

/-- A frame with a good check (R214, R218, R219): its replay request is heard; the frame expected delivers its vectors and
batons to the receive queue and its credits to their connections; any other is discarded (R220). -/
def frameGood (p d : Nat) (f : SeamFrame) (s : State) : State :=
  let s := putSeam p d { seamOf s p d with silent := 0 } s
  let s := if f.request then seamResend p d (f.ack + 1) s else s
  let m := seamOf s p d
  if f.seq ≠ m.want then s
  else
    f.credits.foldl (fun s c => addCredit c 0 s) (rfput (SeamStatus.key p d) SeamStatus.lastSeq f.seq.toNat
      (putSeam p d { m with rx := m.rx ++ f.entries, want := f.seq + 1, replaying := false, failRun := 0 } s))

/-- The frames that arrived in the slot that ends with no SEAM_FRAME_RECEIVE of their own had a good check (DESIGN CHOICE,
log 83); those to a direction that is not live, or to the ring, are lost. -/
def seamArrivals (p d : Nat) (s : State) : State :=
  let due (f : SeamFrame) : Bool := decide (frameCrossing ≤ f.age)
  let m := seamOf s p d
  match facing p d with
  | none => if m.wire.isEmpty then s else putSeam p d { m with wire := [] } s
  | some q =>
    let fs := m.wire.filter due
    if fs.isEmpty then s
    else
      let s := putSeam p d { m with wire := m.wire.filter (fun f => !due f) } s
      if seamLive s q (opp d) then fs.foldl (fun s f => frameGood q (opp d) f s) s else s

/-- One slot of a seam port (R219): the frame of the slot that ends is closed with the credit returns that it has room
for, two per link-equivalent; one frame is sent, with the acknowledge and the replay request of that moment (DESIGN CHOICE,
log 83); and the frame of the next slot is opened. When the turn of a replay has come, the frames from the one asked for on are
sent again, and what is new behind them (R220). -/
def seamSlot (p d : Nat) (s : State) : State :=
  let m := seamOf s p d
  if !seamLive s p d then s
  else if m.sendOff then
    putSeam p d { m with silent := m.silent + 1, wire := m.wire.map (fun x => { x with age := x.age + 1 }) } s
  else
    let n := if seamScreened s p d then 0 else 2 * rf s (SeamStatus.key p d) SeamStatus.linkEquiv
    let q := m.queue ++ [{ m.cur with credits := m.credOut.take n }]
    let q := if m.turn = replayResend then (framesFrom m m.again).filter (fun f => !q.any (fun g => g.seq = f.seq)) ++ q else q
    let (q, f) : List SeamFrame × List SeamFrame := match q with
      | f :: r => (r, [{ f with ack := m.want - 1, request := m.replaying, age := 0 }])
      | [] => ([], [])
    putSeam p d { m with
      cur := ⟨m.cur.seq + 1, [], [], 0, false, 0⟩, credOut := m.credOut.drop n ++ m.credNew, credNew := [], queue := q
      wire := m.wire.map (fun x => { x with age := x.age + 1 }) ++ f, turn := m.turn - 1
      sent := f ++ (m.sent.filter (fun x => f.all (fun y => y.seq ≠ x.seq))).take 31, silent := m.silent + 1 } s

/-- Every seam port of a powered stand, in service or not, has its slot (R219): first the frames that have crossed arrive. -/
def seamSlots (s : State) : State :=
  let s := (s.seams.map (·.1)).foldl (fun s k => seamArrivals (k / 4) (k % 4) s) s
  (physList.filter (fun p => roleOf s p ≠ 4 && roleOf s p ≠ 5)).foldl (fun s p =>
    (List.range 4).foldl (fun s d => seamSlot p d s) s) s

/-- Scoreboard entries at a boundary (R181, R183): ended ones leave, arrived ones take effect, and posts that waited
enter as entries free. -/
def sbBoundary (k : Nat) (s : State) : State :=
  let m := smapGet memArrDflt s.memArrs k
  let sb := (m.sb.filter (fun e => !e.ending)).map (fun e => { e with live := true })
  let (sb, posts, acks) := m.posts.foldl (fun (sb, ps, ak) (src, e) =>
    if e.gens.all (fun g => decide ((sb.filter (fun x => x.gens.contains g)).length < 8)) then
      (sb ++ [e], ps, ak ++ [(src, SvcAnswer.posted)]) else (sb, ps ++ [(src, e)], ak)) (sb, [], [])
  { s with
    memArrs := smapSet memArrDflt s.memArrs k { m with sb := sb, posts := posts }
    svcResp := s.svcResp ++ acks
    svc := s.svc.map (fun r => if acks.any (fun x => x.1 = r.src) then { r with held := false } else r) }

/-- SLOT_BOUNDARY (R202): every in-service stand that has started. The slot that ends is over in all before an entry of
a scoreboard takes effect or leaves (R181). A vector and a baton that a node receives at a port of the lists come with a
parity error (R224). -/
def doSlotBoundary (badVectors badBatons : List (BitVec 6 × BitVec 10 × BitVec 5)) (s : State) : State :=
  let s := seamSlots (creditsMove s)
  let s := (servicePhys s).foldl (fun s p => (computeUnits s p).foldl (fun s a => sendService p a s) s) s
  let s := (servicePhys s).foldl (fun s p => if (standOf s p).started then slotOver p s else s) s
  let s := (s.memArrs.map (·.1)).foldl (fun s k => sbBoundary k s) s
  (servicePhys s).foldl (fun s p =>
    if (standOf s p).started then
      standBoundary (fun n c => (if c.baton then badBatons else badVectors).any (fun (a, b, i) =>
        a.toNat = p && b.toNat = n && i.toNat = c.inp)) p s
    else s) s

/-- BATON_IN_ARRIVAL (R143, R144): a baton at the baton-in queue of an array; a queue that is full or has taken its
one baton of the slot refuses it, and the node holds it for the next slot, as it does behind a baton it already holds.
A baton for an array that has STOPPED has no effect (DESIGN CHOICE, log entry 107). -/
def doBatonIn (a : ArrayLoc) (b : BitVec 16) (s : State) : State :=
  match inService s a.stand.toNat with
  | none => s
  | some p =>
    let i := arrIdx a.x.toNat a.y.toNat
    if isMemIdx i ∨ rf s (CaStatus.key p i) CaStatus.arrayState = 4 then s
    else
      let n := a.y.toNat / 2 * 32 + a.x.toNat / 2
      let port := 5 + a.y.toNat % 2 * 2 + a.x.toNat % 2
      let c := arrOf s (arrKey p i)
      let waits := s.moves.any (fun m => m.node = nodeKey p n && m.port = port && !m.link && m.baton)
      if 4 ≤ c.btnIn.length ∨ c.btnCame = true ∨ waits then
        { s with moves := s.moves ++ [⟨nodeKey p n, port, false, true, 0, 0, b, 0⟩] }
      else (batonArrives p i b 0 s).2

def execBatonInArrival (a : ArrayLoc) (baton : BitVec 16) (s : State) : Host.Outcome State Fault Refusal :=
  .next (doBatonIn a baton s)

/-- The overrun limit of an array: 0 is treated as 1 (R107). -/
def overrunLimit (s : State) (p a : Nat) : Nat := max 1 (rf s (CaOverrunLimit.key p a) CaOverrunLimit.limit)

/-- ARRAY_NO_COMPLETION (R88): a stage late under COMPUTE for more consecutive hold slots than its limit stops the
array; `lanes` are those that have not completed. -/
def doNoCompletion (l : StageLoc) (lanes : BitVec 16) (s : State) : State :=
  match locOf s l with
  | none => s
  | some c =>
    if isMemIdx c.a ∨ (stageOf s c.key).late ≤ overrunLimit s c.p c.a then s
    else stageStops c stArrayNoCompletion lanes [] s

def execArrayNoCompletion (l : LateStage) (s : State) : Host.Outcome State Fault Refusal :=
  .next (doNoCompletion l.loc l.lanes s)

/-- HEARTBEAT (R110): after PERIOD completed laps an array adds one packet to its tally, through the route-out latch. -/
def doHeartbeat (a : ArrayLoc) (s : State) : State :=
  match inService s a.stand.toNat with
  | none => s
  | some p =>
    let i := arrIdx a.x.toNat a.y.toNat
    let k := CaHeartbeat.key p i
    let c := arrOf s (arrKey p i)
    let per := rf s k CaHeartbeat.period
    if isMemIdx i ∨ per = 0 ∨ c.lapsBeat < per ∨ c.routeOut.isSome then s
    else putArr (arrKey p i) { c with lapsBeat := c.lapsBeat - per,
                                      routeOut := some (.service 0 [.heartbeat (BitVec.ofNat 16 (rf s k CaHeartbeat.tally))]) } s

def execHeartbeat (a : ArrayLoc) (s : State) : Host.Outcome State Fault Refusal := .next (doHeartbeat a s)

/-- Has a node waited to its limit without a report (R222, R235)? -/
def noProgress (s : State) (p n : Nat) : Bool :=
  let lim := rf s (NodeNoprog.key p n) NodeNoprog.limitLaps
  lim ≠ 0 && decide (lim * s.lapLen ≤ (nodeOf s p n).waiting) && !(nodeOf s p n).told

/-- START connections of a node, at every position. -/
def startConns (s : State) (p n : Nat) : List (Nat × ConnE) :=
  (List.range 64).flatMap (fun q => ((connsAt s p n q).filter (·.start)).map (fun c => (q, c)))

/-- Does a START connection's source hold an unsent vector (R233)? A read generator's does where its next slot can be
read. -/
def sourceHolds (s : State) (p n q : Nat) (c : ConnE) : Bool :=
  match dueOf s p n q c with
  | .nothing => false
  | .gen g =>
    let a := localArr n 3
    let k := genSlot s p a g
    !sbHolds s p a g k &&
      (tagOf s (slotKey p a k) || inUntagged s p a k || decide (rf s (MaGenCfg.key p a g) MaGenCfg.form = 2))
  | _ => true

/-- START connections whose source holds an unsent vector (R233). -/
def pendingConns (s : State) (p n : Nat) : List (Nat × ConnE) := (startConns s p n).filter (fun (q, c) => sourceHolds s p n q c)

/-- Does a connection of a node use a dead seam, one whose direction either port has marked (R233)? -/
def usesDeadSeam (s : State) (p n : Nat) : Bool :=
  let dead := (List.range 4).filter (fun d => seamFacing n d &&
    (seamDead s p d || (facing p d).any (fun q => seamDead s q (opp d))))
  !dead.isEmpty && (List.range 64).any (fun q => (connsAt s p n q).any (fun c =>
    dead.any (fun d => c.inp = d + 1 || c.out = d + 1)))

/-- The state of a steering unit as a no-progress record gives it (R573). -/
def steerByte (s : State) (p n u : Nat) : Byte :=
  let t := steerOf s p n u
  BitVec.ofNat 8 (t.bq.length % 8 + 8 * rf s (NodeSteerState.key p n u) NodeSteerState.opened + 16 * (t.dq0.length % 8) +
    128 * rf s (NodeSteerErr.key p n u) NodeSteerErr.err)

/-- The DATA of a no-progress record (R573). -/
def noProgData (s : State) (p n unnamed : Nat) : List Byte :=
  let ps := pendingConns s p n
  BitVec.ofNat 8 ps.length ::
    bytesAt ((ps.take 8).flatMap (fun (q, c) => [BitVec.ofNat 8 q, BitVec.ofNat 8 (creditOf s c.key)])) 0 16 ++
    (List.range 4).map (steerByte s p n) ++ [0] ++ bytesLE 2 unnamed

/-- MESH_NO_PROGRESS (R222): one report of up to 16 records, the lowest-numbered nodes first. -/
def doNoProgress (p : Nat) (s : State) : State :=
  let ns := ((unitsOf s p 14).filter (fun n => noProgress s p n)).mergeSort (fun a b => decide (a ≤ b))
  let named := ns.take 16
  let s := (named.zip (List.range named.length)).foldl (fun s (n, i) =>
    let rest := if i + 1 = named.length then ns.length - named.length else 0
    report stMeshNoProgress false 1 (locUnit (logicalOf s p) p 0 0 0 0 n) 0 (noProgData s p n rest) s) s
  ns.foldl (fun s n => rfput (NodeStatus.key p n) NodeStatus.noprog 1 (putNode p n { nodeOf s p n with told := true } s)) s

def execMeshNoProgress (phys : BitVec 6) (s : State) : Host.Outcome State Fault Refusal :=
  .next (doNoProgress phys.toNat s)

end Sys2Proof.Machine
end

