-- ==== Sys2Proof/Machine/Packet.lean ====
section
/-!
DEFINITION. Packets of the service mesh: which routers one may pass and how many it passes (R229), where a request goes,
and the flits of requests and responses (R228).
-/

namespace Sys2Proof.Machine

/-- A router: 128 × stand + router, the ring's stand being 64 (R228). -/
def routerId (stand r : Nat) : Nat := (if 65 ≤ r then 64 else stand) * 128 + r

/-- May packets pass the routers of a stand: in service or standby (R229)? -/
def openStand (s : State) (p : Nat) : Bool := roleOf s p = 1 || roleOf s p = 2

/-- The routers next to a router, through seams that are not dead (R25, R229). The crescent of a side is the one of the
same compass point, and the four crescents are joined (log entry 12). -/
def routerNbrs (s : State) (i : Nat) : List Nat :=
  let p := i / 128
  let r := i % 128
  if p = 64 then
    [65, 66, 67, 68].map (fun c => 64 * 128 + c) ++
    (physList.filter (fun q => openStand s q && (facing q (r - 65)).isNone && !seamDead s q (r - 65))).flatMap (fun q =>
      (List.range 8).map (fun j => q * 128 + edgeNode8 (r - 65) j))
  else if r = 64 then [27, 28, 35, 36].map (fun x => p * 128 + x)
  else
    (if [27, 28, 35, 36].contains r then [p * 128 + 64] else []) ++
    (List.range 4).flatMap (fun d =>
      let x := r % 8
      let y := r / 8
      let inner := (d = 0 && 0 < y) || (d = 1 && x < 7) || (d = 2 && y < 7) || (d = 3 && 0 < x)
      if inner then [p * 128 + (if d = 0 then r - 8 else if d = 1 then r + 1 else if d = 2 then r + 8 else r - 1)]
      else
        match facing p d with
        | none => if seamDead s p d then [] else [64 * 128 + 65 + d]
        | some q =>
          if openStand s q && !seamDead s q (opp d) then
            [q * 128 + edgeNode8 (opp d) (if d % 2 = 0 then x else y)] else [])
where
  /-- The edge patch router at a place of a side. -/
  edgeNode8 (d e : Nat) : Nat := if d = 0 then e else if d = 1 then e * 8 + 7 else if d = 2 then 56 + e else e * 8

/-- The crescent router of a port (R228, log entry 12). -/
def crescentId (p : Nat) : Nat := 64 * 128 + 65 + p

/-- The hops to a router over the open routers, found in widening rings: `n` of them lead to `front`. -/
def hopsIn (s : State) (dst : Nat) : Nat → Nat → List Nat → List Nat → Option Nat
  | 0, n, front, _ => if front.contains dst then some n else none
  | f + 1, n, front, seen =>
    if front.contains dst then some n
    else
      let nx := ((front.flatMap (routerNbrs s)).dedup).filter (fun x => !seen.contains x)
      if nx.isEmpty then none else hopsIn s dst f (n + 1) nx (seen ++ nx)

/-- The HOPS of a packet at its destination (R229): each router takes an open direction of least detour, so the path is a
shortest open one; none where it is longer than 63 or there is none. Which of several shortest paths a packet takes shows
nowhere (log entry 86). -/
def hopsTo (s : State) (src dst : Nat) : Option Nat := hopsIn s dst 63 0 [src] [src]

/-- Has a packet a path of at most 63 routers (R229)? -/
def reachable (s : State) (src dst : Nat) : Bool := (hopsTo s src dst).isSome

/-- The edge patch routers that a crescent's ring seams lead to (R25, R27), in stands that are powered and open. -/
def crescentSeams (s : State) (p : Nat) : List Nat :=
  (routerNbrs s (crescentId p)).filter (fun i => decide (i / 128 < 64) && tileState s (i / 128) = 2)

/-- Can a ring unit of a port's crescent reach a router through the ring seams of that crescent (R27, R229)? -/
def crescentReaches (s : State) (p dst : Nat) : Bool := (hopsIn s dst 62 1 (crescentSeams s p) (crescentSeams s p)).isSome

/-- Where a request goes: router identifier, or the status that ends it (R23, R228). -/
def svcDest (s : State) (k : SvcKind) : Except Status Nat :=
  let mem (addr : BitVec 48) (n : Nat) : Except Status Nat :=
    match placeOf s addr.toNat n with
    | .dram p _ _ => .ok (p * 128 + 64)
    | .sram p a _ => .ok (p * 128 + patchRouter a)
    | .bad st => .error st
  match k with
  | .read _ addr z => mem addr (z.toNat + 1)
  | .write _ addr z _ => mem addr (z.toNat + 1)
  | .atomic op addr _ _ => mem addr (if op = .addX then 8 else 4)
  | .tally n _ => (tallyPlace s n.toNat).map (fun (r, p, _) => if r then 64 * 128 + 67 else p * 128 + 64)
  | .tallyWait n _ => (tallyPlace s n.toNat).map (fun (r, p, _) => if r then 64 * 128 + 67 else p * 128 + 64)
  | .post a _ _ _ _ => (standPlace s a.stand.toNat).map (fun p => p * 128 + patchRouter (arrIdx a.x.toNat a.y.toNat))
  | .config _ addr _ =>
    if natBits addr.toNat 43 40 = 0 then .ok (64 * 128 + 67)
    else if natBits addr.toNat 43 40 = 1 then (standPlace s (natBits addr.toNat 39 34)).map (fun p => p * 128 + 64)
    else .ok (natBits addr.toNat 39 34 * 128 + 64)
  | .record _ _ _ _ => .ok (64 * 128 + 67)
  | .mgmt _ => .ok (64 * 128 + 67)

/-- The address that a NEGATIVE carries for a request. -/
def svcAddr (k : SvcKind) : BitVec 48 :=
  match k with
  | .read _ a _ => a
  | .write _ a _ _ => a
  | .atomic _ a _ _ => a
  | .tally n _ => n.setWidth 48
  | .tallyWait n _ => n.setWidth 48
  | .config _ a _ => a
  | _ => 0

/-- TYPE of a request packet (R228). -/
def SvcKind.type : SvcKind → Nat
  | .read _ _ _ => 0x0
  | .write _ _ _ _ => 0x1
  | .tally _ _ => 0x4
  | .post _ _ _ _ _ => 0x5
  | .atomic _ _ _ _ => 0x7
  | .config _ _ _ => 0x8
  | .record _ _ _ _ => 0x9
  | .mgmt _ => 0xA
  | .tallyWait _ _ => 0xB

/-- SIZE_M1 of a request packet (R228, R315): an amount above 256 has SIZE_M1 0. -/
def SvcKind.sizeM1 : SvcKind → Nat
  | .read _ _ z => z.toNat
  | .write _ _ z _ => z.toNat
  | .tally _ v => if v.toNat = 0 ∨ 256 < v.toNat then 0 else v.toNat - 1
  | .atomic op _ _ _ => if op = .addX then 7 else 3
  | _ => 0

/-- TAG_MODE of a request packet: loads and stores only (R169, R228). -/
def SvcKind.tagMode : SvcKind → Nat
  | .read f _ _ => f.toNat
  | .write f _ _ _ => f.toNat
  | _ => 0

/-- Eight bytes a flit, lowest first. -/
def wordsOf (n : Nat) (v : Nat) : List Word := (List.range n).map (fun i => BitVec.ofNat 64 (v / 2 ^ (64 * i)))

/-- The payload flits of a request (R228, R315). Those of a POST, an ATOMIC, a CONFIG write and a RECORD the spec does not
lay out (DESIGN CHOICE, log entry 86). -/
def SvcKind.payload : SvcKind → List Word
  | .write _ _ z d => wordsOf ((z.toNat + 8) / 8) (d.toNat % 2 ^ (8 * (z.toNat + 1)))
  | .tally _ v => if v.toNat = 0 ∨ 256 < v.toNat then [v] else []
  | .post _ first last w o => [BitVec.ofNat 64 (first.toNat + last.toNat * 2 ^ 13 + (if w then 2 ^ 26 else 0) + o.toNat * 2 ^ 27)]
  | .atomic _ _ v _ => [v]
  | .config w _ v => if w then [v] else []
  | .record st loc addr d => [st.setWidth 64, loc, addr] ++ wordsOf 3 d.toNat
  | .mgmt m => wordsOf 8 m.toNat
  | .tallyWait _ t => [t]
  | .read _ _ _ => []

/-- Header flit 0 (R228): stand 0 for a ring router. -/
def headerFlit (type len dst src hops vc id : Nat) : Word :=
  let stand (r : Nat) : Nat := if r / 128 = 64 then 0 else r / 128
  BitVec.ofNat 64 (type * 2 ^ 60 + len * 2 ^ 56 + stand dst * 2 ^ 50 + dst % 128 * 2 ^ 43 + stand src * 2 ^ 37 +
    src % 128 * 2 ^ 30 + hops * 2 ^ 24 + vc * 2 ^ 22 + id)

/-- The router of a source. -/
def srcRouter (src : MeshSrc) : Nat := routerId src.stand.toNat src.router.toNat

/-- The flits of a request packet as it reaches its destination (R228, R229). -/
def requestFlits (s : State) (src : MeshSrc) (k : SvcKind) (dst : Nat) : List Word :=
  let pay := k.payload
  [headerFlit k.type pay.length dst (srcRouter src) ((hopsTo s (srcRouter src) dst).getD 63) 0 src.id.toNat,
    BitVec.ofNat 64 (k.sizeM1 * 2 ^ 56 + k.tagMode * 2 ^ 54 + (svcAddr k).toNat)] ++ pay

/-- TYPE of a response packet (R228, R230). -/
def SvcAnswer.type : SvcAnswer → Nat
  | .data _ => 0x2
  | .done => 0x3
  | .posted => 0x6
  | .progress => 0xC
  | .acked => 0xD
  | .waited => 0xE
  | .negative _ _ => 0xF

/-- The flits of a response packet from a router as it reaches its source (R228): on virtual channel 1, with the request's
ID; a NEGATIVE carries status and address. `n` is the bytes that were asked for. -/
def answerFlits (s : State) (src : MeshSrc) (a : SvcAnswer) (dst n : Nat) : List Word :=
  let pay := match a with
    | .data v => wordsOf ((n + 7) / 8) v.toNat
    | _ => []
  let second : Word := match a with
    | .negative st addr => BitVec.ofNat 64 (st.toNat * 2 ^ 48 + addr.toNat)
    | _ => 0
  [headerFlit a.type pay.length (srcRouter src) dst ((hopsTo s dst (srcRouter src)).getD 63) 1 src.id.toNat, second] ++ pay

end Sys2Proof.Machine
end

