-- ==== Sys2Proof/Machine/Relay.lean ====
section
/-!
DEFINITION. The relay clock (R425 to R428, R430): markers, source selection, a switch, and holdover when a source is
lost.
-/

namespace Sys2Proof.Machine

def sideDflt (_ : Nat) : Side := .init
def sideOf (s : State) (p d : Nat) : Side := smapGet sideDflt s.sides (p * 4 + d)
def putSide (p d : Nat) (v : Side) (s : State) : State := { s with sides := smapSet sideDflt s.sides (p * 4 + d) v }

/-- STATE of CLK_SRC_STATUS (R441), and the side selected as source. -/
def clkState (s : State) (p : Nat) : Nat := rf s (ClkSrcStatus.key p) ClkSrcStatus.state
def clkSrc (s : State) (p : Nat) : Nat := rf s (ClkSrcSel.key p) ClkSrcSel.src

/-- Is a stand in holdover (R428)? -/
def inHoldover (s : State) (p : Nat) : Bool := clkState s p = 2 || clkState s p = 3

/-- Is a side READY (R426)? -/
def sideReady (s : State) (p d : Nat) : Bool := natBit (rf s (ClkSrcStatus.key p) ClkSrcStatus.ready) d

/-- The marker that a stand sends (R425). -/
def markerOf (s : State) (p : Nat) : Side :=
  ⟨rg s (ClkPath.key p), rf s (ClkSrcStatus.key p) ClkSrcStatus.depth, inHoldover s p⟩

/-- Does the PATH of a side contain the stand's own bit (R427)? -/
def sideLoops (s : State) (p d : Nat) : Bool := natBit (sideOf s p d).path.toNat p

/-- DEPTH, PATH and UPSTREAM_HOLD of a stand that follows its source (R426, R428). -/
def followSource (p : Nat) (s : State) : State :=
  let m := sideOf s p (clkSrc s p)
  let k := ClkSrcStatus.key p
  let s := rput (ClkPath.key p) (m.path ||| BitVec.ofNat 64 (2 ^ p)) s
  rfput k ClkSrcStatus.depth (m.depth + 1) (rfput k ClkSrcStatus.upstreamHold (if m.hold then 1 else 0) s)

/-- The live seams by which a stand may steer (R26, R428): those whose sender's PATH lacks the stand's own bit. -/
def steerSides (s : State) (p : Nat) : List Nat :=
  (List.range 4).filter (fun d => d != clkSrc s p &&
    (rf s (SeamStatus.key p d) SeamStatus.state = 1 || rf s (SeamStatus.key p d) SeamStatus.state = 2) && !sideLoops s p d)

/-- Steered holdover becomes free when no such seam remains (R428). -/
def steerCheck (p : Nat) (s : State) : State :=
  if clkState s p = 2 ∧ (steerSides s p).isEmpty = true then rfput (ClkSrcStatus.key p) ClkSrcStatus.state 3 s else s

/-- The marker of each stand of a list reaches its neighbours, and so on through those that follow them (R426). -/
def markersGo : Nat → List Nat → State → State
  | 0, _, s => s
  | _, [], s => s
  | n + 1, p :: ps, s =>
    let m := markerOf s p
    let (ps, s) := (List.range 4).foldl (fun (x : List Nat × State) d =>
      match facing p d with
      | none => x
      | some q =>
        let s := putSide q (opp d) m x.2
        if clkSrc s q = opp d ∧ (clkState s q = 1 ∨ clkState s q = 4) then
          let t := followSource q s
          (if markerOf t q = markerOf s q then (x.1, t) else (x.1 ++ [q], t))
        else (x.1, steerCheck q s)) (ps, s)
    markersGo n ps s

/-- A stand's marker has changed. -/
def sendMarker (p : Nat) (s : State) : State := markersGo 4096 [p] s

/-- What refuses a stand's selection of a side (R427). -/
def srcRefusal (s : State) (p d : Nat) : Option Status :=
  if !sideReady s p d then some stSrcNotReady
  else if sideLoops s p d then some stSrcLoop
  else if clkState s p = 4 then some stBadState
  else none

/-- An accepted selection: the stand switches, and leaves holdover (R427, R428). -/
def selectSource (p d : Nat) (s : State) : State :=
  let k := ClkSrcStatus.key p
  let s := rfput (ClkSrcSel.key p) ClkSrcSel.src d s
  sendMarker p (followSource p (rfsat k ClkSrcStatus.switches 1 (rfput k ClkSrcStatus.state 4 s)))

/-- A write to CLK_SRC_SEL (R427). -/
def doSrcSel (via : Via) (p : Nat) (v : Word) (s : State) : Status × State :=
  viaWrite via (ClkSrcSel.key p) (fun s =>
    let d := fldGet ClkSrcSel.src v
    match srcRefusal s p d with
    | some st => (st, rfput (ClkSrcStatus.key p) ClkSrcStatus.lastStatus st.toNat s)
    | none => (stDone, selectSource p d s)) s

/-- CLK_SRC_SEL_WRITE (R427). -/
def execClkSrcSelWrite (via : Via) (phys : BitVec 6) (value : Word) (s : State) : Host.Outcome State Fault Refusal :=
  .next (doSrcSel via phys.toNat value s).2

/-- CLK_SWITCH_COMPLETE (R427). -/
def execClkSwitchComplete (phys : BitVec 6) (s : State) : Host.Outcome State Fault Refusal :=
  .next (if clkState s phys.toNat = 4 then rfput (ClkSrcStatus.key phys.toNat) ClkSrcStatus.state 1 s else s)

/-- The physical indices of the neighbours whose PATH contains a stand (R428), as a mask. -/
def pathMask (s : State) (p : Nat) : Nat :=
  ((List.range 4).filterMap (facing p)).foldl (fun a q => if natBit (rg s (ClkPath.key q)).toNat p then a + 2 ^ q else a) 0

/-- READY and PRESENT of a side. -/
def putReady (p d : Nat) (b : Bool) (s : State) : State :=
  let k := ClkSrcStatus.key p
  let put (v : Nat) : Nat := if natBit v d = b then v else if b then v + 2 ^ d else v - 2 ^ d
  rfput k ClkSrcStatus.present (put (rf s k ClkSrcStatus.present)) (rfput k ClkSrcStatus.ready (put (rf s k ClkSrcStatus.ready)) s)

/-- A stand's source loses READY (R428). -/
def sourceLost (p : Nat) (s : State) : State :=
  let d := clkSrc s p
  let s := putReady p d false s
  if clkState s p = 1 ∨ clkState s p = 4 then
    let s := rfput (ClkSrcStatus.key p) ClkSrcStatus.state (if (steerSides s p).isEmpty then 3 else 2) s
    let s := sendMarker p s
    report stClkSourceLost false 1 (locUnit (logicalOf s p) p 0 0 0 0 d) 0
      (BitVec.ofNat 8 (clkState s p) :: bytesLE 8 (pathMask s p)) s
  else s

/-- CLK_SOURCE_LOST (R428). -/
def execClkSourceLost (phys : BitVec 6) (s : State) : Host.Outcome State Fault Refusal := .next (sourceLost phys.toNat s)

/-- Does a side show edges: fewer missing than LOSS_CYCLES (R426, R441)? A limit of 0 is treated as 1. -/
def sidePresent (s : State) (p : Nat) (w : SideShow) : Bool := w.missing.toNat < max 1 (rf s (ClkSrcCfg.key p) ClkSrcCfg.lossCycles)

/-- Is a side READY by what the stand detects on it (R426)? -/
def sideGood (s : State) (p : Nat) (w : SideShow) : Bool :=
  sidePresent s p w && w.locked && decide (w.phaseErr.toInt.natAbs ≤ max 1 (rf s (ClkSrcCfg.key p) ClkSrcCfg.phaseLimit))

/-- PRESENT of a side, and PHASE_ERR where it is the source, held to its eight bits (R441). -/
def putShown (p d : Nat) (w : SideShow) (s : State) : State :=
  let k := ClkSrcStatus.key p
  let v := rf s k ClkSrcStatus.present
  let b := sidePresent s p w
  let s := rfput k ClkSrcStatus.present (if natBit v d = b then v else if b then v + 2 ^ d else v - 2 ^ d) s
  if d = clkSrc s p then
    rfput k ClkSrcStatus.phaseErr (BitVec.ofInt 8 (max (-128) (min 127 w.phaseErr.toInt))).toNat s
  else s

/-- SIDE_READY_CHANGE (R425, R426, R428): what a stand detects on a side, with the marker that the lane carries. -/
def doSideReady (p d : Nat) (w : SideShow) (m : Side) (s : State) : State :=
  let ready := sideGood s p w
  if !ready && d = clkSrc s p then putShown p d w (sourceLost p s)
  else
    let s := putShown p d w (putReady p d ready (if ready then putSide p d m s else s))
    if ready ∧ d = clkSrc s p ∧ (clkState s p = 1 ∨ clkState s p = 4) then sendMarker p (followSource p s) else steerCheck p s

def execSideReadyChange (phys : BitVec 6) (side : BitVec 2) (ready : SideShow) (path : Word) (depth : Byte) (hold : Bool) (s : State) :
    Host.Outcome State Fault Refusal :=
  .next (doSideReady phys.toNat side.toNat ready ⟨path, depth.toNat, hold⟩ s)

end Sys2Proof.Machine
end

