-- ==== Sys2Proof/Machine/Service.lean ====
section
/-!
DEFINITION. The service mesh (R228 to R230): what a request does at its destination, and what its source does with the
response. With it the rows of the request and response packets, of
tally waits (R326, R327), and of the seams (R220, R221).
-/

namespace Sys2Proof.Machine

/-- The outstanding request of a source. -/
def svcOf (s : State) (src : MeshSrc) : Option SvcReq := s.svc.find? (fun r => r.src = src)

/-- End the outstanding request of a source; a wait that stood for it at a tally ends with it (R334). -/
def svcEnd (src : MeshSrc) (s : State) : State :=
  { s with svc := s.svc.filter (fun r => r.src ≠ src), waits := s.waits.filter (fun w => w.who ≠ .remote src) }

/-- The response that a source has received to a request (R230). -/
def gotAnswer (s : State) (id : MeshSrc) : Option SvcAnswer :=
  (s.svcGot.find? (fun x => decide (x.1 = id))).map (·.2)

/-- Count a status in the ring's error record for the source of a packet: a stand, or the ring (R42). -/
def srcErr (st : Status) (src : MeshSrc) (addr : Nat) (s : State) : State :=
  if 65 ≤ src.router.toNat then countErr st 0 0 addr s else countErr st 7 src.stand.toNat addr s

/-- Send the response to a source (R230): the destination holds its request no longer. -/
def respond (src : MeshSrc) (a : SvcAnswer) (s : State) : State :=
  { s with
    svcResp := s.svcResp ++ [(src, a)]
    svc := if a = .progress then s.svc else s.svc.map (fun r => if r.src = src then { r with held := false } else r) }

/-- Hold a request at its destination (R230): it is outstanding and sends PROGRESS packets. -/
def svcHold (src : MeshSrc) (k : SvcKind) (s : State) : State :=
  match svcOf s src with
  | some r => { s with svc := s.svc.map (fun x => if x.src = src then { r with held := true } else x) }
  | none => { s with svc := s.svc ++ [⟨src, k, locNone, true, false⟩] }

/-- Register a request packet of a source that has none outstanding. -/
def svcNote (src : MeshSrc) (k : SvcKind) (s : State) : State :=
  match svcOf s src with
  | some _ => s
  | none => { s with svc := s.svc ++ [⟨src, k, locNone, false, false⟩] }

/-- A packet that finds no route ends with ST_NO_SERVICE_ROUTE, with an error record (R36, R229). -/
def noRoute (src : MeshSrc) (addr : BitVec 48) (s : State) : State :=
  let p := src.stand.toNat
  let loc := if src.router.toNat < 65 then locStand s p else locNone
  respond src (.negative stNoServiceRoute addr) (report stNoServiceRoute false 1 loc (addr.setWidth 64) []
    (srcErr stNoServiceRoute src addr.toNat s))

/-- A request packet reaches its destination: route, stand and array are judged (R23, R36, R229), then it is performed. -/
def svcArrive (src : MeshSrc) (k : SvcKind) (f : State → State) (s : State) : State :=
  let s := svcNote src k s
  match svcDest s k with
  | .error st => respond src (.negative st (svcAddr k)) s
  | .ok dst => if reachable s (routerId src.stand.toNat src.router.toNat) dst then f s else noRoute src (svcAddr k) s

/-- READ_REQUEST (R169, R230, R265): an SRAM access obeys its tag, a DRAM access none (R267). -/
def doReadRequest (src : MeshSrc) (form : BitVec 2) (addr : BitVec 48) (z : BitVec 8) (s : State) : State :=
  let n := z.toNat + 1
  let k : SvcKind := .read form addr z
  svcArrive src k (fun s =>
    match placeOf s addr.toNat n with
    | .bad st => respond src (.negative st addr) s
    | .dram p sl off =>
      match dramRead p sl off n s with
      | (some bs, s) => respond src (.data (ofVecBytes bs)) s
      | (none, s) => svcHold src k s
    | .sram p a off =>
      match extRead p a off n form.toNat s with
      | (.done bs, s) => respond src (.data (ofVecBytes bs)) s
      | (.wait, s) => svcHold src k s
      | (.refuse st, s) => respond src (.negative st addr) s) s

def execReadRequest (src : MeshSrc) (form : BitVec 2) (addr : BitVec 48) (sizeM1 : BitVec 8) (s : State) :
    Host.Outcome State Fault Refusal := .next (doReadRequest src form addr sizeM1 s)

/-- WRITE_REQUEST (R169, R172, R230, R499, R503, R504, R572). -/
def doWriteRequest (src : MeshSrc) (form : BitVec 2) (addr : BitVec 48) (z : BitVec 8) (data : Vec) (s : State) : State :=
  let n := z.toNat + 1
  let k : SvcKind := .write form addr z data
  let bs := (vecBytes data).take n
  svcArrive src k (fun s =>
    match placeOf s addr.toNat n with
    | .bad st => respond src (.negative st addr) s
    | .dram p sl off =>
      if !dramWritable s addr.toNat off then respond src (.negative stAddrReserved addr) s
      else
        match mergeFault s (dramKey p sl off) bs.length with
        | some w => svcHold src k (dramUncorrectable p sl (w - dramKey p sl 0) s)
        | none => respond src .done (dramWrite p sl off addr.toNat bs s)
    | .sram p a off =>
      match extWrite p a off form.toNat bs s with
      | (.done _, s) => respond src .done s
      | (.wait, s) => svcHold src k s
      | (.refuse st, s) => respond src (.negative st addr) s) s

def execWriteRequest (src : MeshSrc) (form : BitVec 2) (addr : BitVec 48) (sizeM1 : BitVec 8) (data : Vec) (s : State) :
    Host.Outcome State Fault Refusal := .next (doWriteRequest src form addr sizeM1 data s)

/-- Can a held access of a request be tried again: no uncorrectable word stands in its way (R92, R174, R272)? A write meets one
only where it must merge (R572). -/
def retryable (s : State) (write : Bool) (addr n : Nat) : Bool :=
  let ok (k : Nat) : Bool := if write then (mergeFault s k n).isNone else
    match readBytes s k n with
    | .ok _ => true
    | .error _ => false
  match placeOf s addr n with
  | .sram p a off => ok (sramKey p a off)
  | .dram p sl off => ok (dramKey p sl off)
  | .bad _ => true

/-- The word an atomic leaves (R131): FP32 operations by the rules of ADD, MAX and MIN, without flags. -/
def atomicWord (op : AtomicOp) (w b : Word) : Word :=
  let f (v : FVal) (rm : Nat) : Word := BitVec.ofNat 64 (convert 0 rm false v 0).1
  let lo (x : Word) := decodeElem 0 (x.toNat % 2 ^ 32)
  match op with
  | .addI => (w.setWidth 32 + b.setWidth 32 : Lane).setWidth 64
  | .addF rm => f (fvAdd rm.toNat (lo w) (lo b)).1 rm.toNat
  | .addX => w + b
  | .maxF => f (fvMinMax true (lo w) (lo b)).1 0
  | .minF => f (fvMinMax false (lo w) (lo b)).1 0
  | .or => w ||| b
  | .and => w &&& b

/-- An atomic at the unit that owns its word (R131, R272), in its turn of the slot in course (R91, R168). -/
def atomicDo (src : MeshSrc) (k : SvcKind) (op : AtomicOp) (addr : BitVec 48) (value : Word) (s : State) : State :=
  let n := if op = .addX then 8 else 4
  match placeOf s addr.toNat n with
  | .bad st => respond src (.negative st addr) s
  | .dram p sl off =>
    if !dramWritable s addr.toNat off then respond src (.negative stAddrReserved addr) s
    else
      match dramRead p sl off n s with
      | (none, s) => svcHold src k s
      | (some bs, s) =>
        let r := atomicWord op (BitVec.ofNat 64 (ofBytesLE bs)) value
        respond src .acked (dramWrite p sl off addr.toNat (bytesLE n r.toNat) s)
  | .sram p a off =>
    if slotTaken s p a (off / 64) then svcHold src k s
    else
      match readBytes s (sramKey p a off) n with
      | .error w => svcHold src k (sramUncorrectable p a (w - sramKey p a 0) s)
      | .ok (bs, c) =>
        let r := atomicWord op (BitVec.ofNat 64 (ofBytesLE bs)) value
        respond src .acked (slotUsed p a (off / 64) false
          (writeBytes (sramKey p a off) (bytesLE n r.toNat) (sramCorrected p a c s)))

/-- In each slot the accesses held at their destinations are tried again, after every other access of the slot (R91,
R168, R230). -/
def svcRetry (s : State) : State :=
  (s.svc.filter (·.held)).foldl (fun s r =>
    match r.kind with
    | .read f a z => if retryable s false a.toNat (z.toNat + 1) then doReadRequest r.src f a z s else s
    | .write f a z d => if retryable s true a.toNat (z.toNat + 1) then doWriteRequest r.src f a z d s else s
    | .atomic op a v _ =>
      if retryable s false a.toNat (if op = .addX then 8 else 4) then svcArrive r.src r.kind (atomicDo r.src r.kind op a v) s else s
    | _ => s) s

/-- SLOT_BOUNDARY (R202), with the accesses that the service mesh holds. -/
def execSlotBoundary (badVectors badBatons : List (BitVec 6 × BitVec 10 × BitVec 5)) (s : State) :
    Host.Outcome State Fault Refusal := .next (svcRetry (doSlotBoundary badVectors badBatons s))

/-- TALLY_INCREMENT (R315, R316, R320). -/
def doTallyIncrement (src : MeshSrc) (n : BitVec 16) (amount : Word) (s : State) : State :=
  svcArrive src (.tally n amount) (fun s =>
    match tallyPlace s n.toNat with
    | .ok t => respond src .acked (tallyBump t amount.toNat s)
    | .error st => respond src (.negative st (n.setWidth 48)) s) s

def execTallyIncrement (src : MeshSrc) (tally : BitVec 16) (amount : Word) (s : State) :
    Host.Outcome State Fault Refusal := .next (doTallyIncrement src tally amount s)

/-- The generators whose scoreboard a range enters (R181): those of FORM UNTAGGED; a read range only the writer's. -/
def postGens (s : State) (p a : Nat) (write : Bool) : List Nat :=
  (if write then [0, 1, 2] else [2]).filter (fun g => rf s (MaGenCfg.key p a g) MaGenCfg.form = 2)

/-- POST (R180 to R183): a range of an untagged region enters the scoreboards, or waits for a free entry. One whose descriptor
has retired meanwhile leaves them from the next slot (R181). -/
def doPost (src : MeshSrc) (a : ArrayLoc) (first last : BitVec 13) (write : Bool) (owner : BitVec 6) (s : State) : State :=
  let i := arrIdx a.x.toNat a.y.toNat
  svcArrive src (.post a first last write owner) (fun s =>
    match inService s a.stand.toNat with
    | none => respond src (.negative stStandFenced 0) s
    | some p =>
      if arrState s p i = 5 then respond src (.negative stArrayFenced 0) s
      else
        let gs := postGens s p i write
        let e : SbEntry := ⟨src, src.stand.toNat * 64 + owner.toNat, gs, first.toNat, last.toNat, write, false,
          (svcOf s src).any (·.dead)⟩
        let m := memArrOf s p i
        if gs.all (fun g => decide ((m.sb.filter (fun x => x.gens.contains g)).length < 8)) then
          respond src .posted (if gs.isEmpty then s else putMemArr p i { m with sb := m.sb ++ [e] } s)
        else
          svcHold src (.post a first last write owner)
            (rfsat (MaSbStatus.key p i) MaSbStatus.postWaits 1 (putMemArr p i { m with posts := m.posts ++ [(src, e)] } s))) s

def execPost (src : MeshSrc) (a : ArrayLoc) (first last : BitVec 13) (write : Bool) (owner : BitVec 6) (s : State) :
    Host.Outcome State Fault Refusal := .next (doPost src a first last write owner s)

/-- ATOMIC_REQUEST (R131): indivisible at the owning unit, whatever the tag. -/
def doAtomic (src : MeshSrc) (op : AtomicOp) (addr : BitVec 48) (value : Word) (issuer : StageLoc) (lane : BitVec 4)
    (s : State) : State :=
  let k : SvcKind := .atomic op addr value lane
  let s := match svcOf s src with
    | some _ => s
    | none =>
      match inService s issuer.stand.toNat with
      | none => s
      | some p => { s with svc := s.svc ++ [⟨src, k, locUnit issuer.stand.toNat p (arrIdx issuer.x.toNat issuer.y.toNat)
                              issuer.stage.toNat 0 lane.toNat 0, false, false⟩] }
  svcArrive src k (atomicDo src k op addr value) s

def execAtomicRequest (src : MeshSrc) (op : AtomicOp) (addr : BitVec 48) (value : Word) (issuer : StageLoc)
    (lane : BitVec 4) (s : State) : Host.Outcome State Fault Refusal := .next (doAtomic src op addr value issuer lane s)

/-- RECORD (R36, R228): an error record toward the ring becomes a report. -/
def doRecord (src : MeshSrc) (st : Status) (location addr : Word) (data : BitVec 192) (s : State) : State :=
  svcArrive src (.record st location addr data)
    (fun s => respond src .acked (report st false 1 location addr (bytesLE 24 data.toNat) s)) s

def execRecord (src : MeshSrc) (status : Status) (location : Word) (addr : Word) (data : BitVec 192) (s : State) :
    Host.Outcome State Fault Refusal := .next (doRecord src status location addr data s)

/-- MGMT (R228): a management message is delivered and acknowledged; what the firmware does with its bytes, no rule
says. -/
def doMgmt (src : MeshSrc) (message : BitVec 512) (s : State) : State :=
  svcArrive src (.mgmt message) (fun s => respond src .acked { s with mgmtIn := s.mgmtIn ++ [message] }) s

def execMgmt (src : MeshSrc) (message : BitVec 512) (s : State) : Host.Outcome State Fault Refusal :=
  .next (doMgmt src message s)

/-- TALLY_WAIT (R327): answered once the tally is reached. -/
def doTallyWait (src : MeshSrc) (n : BitVec 16) (target : Word) (s : State) : State :=
  svcArrive src (.tallyWait n target) (fun s =>
    match tallyPlace s n.toNat with
    | .error st => respond src (.negative st (n.setWidth 48)) s
    | .ok t =>
      if reached (tallyCount s t) target then respond src .waited s
      else
        let s := svcHold src (.tallyWait n target) s
        match waitOf s (.remote src) with
        | some _ => s
        | none => addWait n.toNat target (.remote src) none s) s

def execTallyWait (src : MeshSrc) (tally : BitVec 16) (target : Word) (s : State) : Host.Outcome State Fault Refusal :=
  .next (doTallyWait src tally target s)

/-- TALLY_WAIT_COMPLETE (R326): every waiter of the tally, at its hub or the ring, whose target it has reached is released. -/
def doTallyWaitComplete (n : Nat) (s : State) : State :=
  match tallyPlace s n with
  | .error _ => s
  | .ok t =>
    let hit (w : TWait) : Bool := w.tally = n && w.via.isNone && !w.done && reached (tallyCount s t) w.target
    let rem := s.waits.filterMap (fun w =>
      if hit w then
        (match w.who with
          | .remote src => some src
          | _ => none)
      else none)
    let s := { s with waits := (s.waits.map (fun w => if hit w then { w with done := true } else w)).filter (fun w =>
      !(w.done && (match w.who with
        | .remote _ => true
        | _ => false))) }
    rem.foldl (fun s src => respond src .waited s) s

def execTallyWaitComplete (tally : BitVec 16) (s : State) : Host.Outcome State Fault Refusal :=
  .next (doTallyWaitComplete tally.toNat s)

/-- Remove the first response of a kind on its way to a source. -/
def takeResp (dst : MeshSrc) (f : SvcAnswer → Bool) (s : State) : State :=
  match s.svcResp.find? (fun (d, a) => d = dst && f a) with
  | some e => { s with svcResp := s.svcResp.erase e }
  | none => s

/-- A response reaches its source (R230): the access ends; one that arrives after the timeout is discarded and counted
in the ring's error record. -/
def gotResponse (dst : MeshSrc) (a : SvcAnswer) (f : SvcReq → State → State) (s : State) : State :=
  let s := takeResp dst (fun x => x = a) s
  match svcOf s dst with
  | none => srcErr stServiceTimeout dst 0 s
  | some r =>
    if r.dead then svcEnd dst s
    else f r { svcEnd dst s with svcGot := (dst, a) :: (s.svcGot.filter (fun e => e.1 ≠ dst)) }

def execReadResponse (dst : MeshSrc) (data : Vec) (s : State) : Host.Outcome State Fault Refusal :=
  .next (gotResponse dst (.data data) (fun _ s => s) s)
def execWriteAcknowledge (dst : MeshSrc) (s : State) : Host.Outcome State Fault Refusal :=
  .next (gotResponse dst .done (fun _ s => s) s)
def execPostAcknowledge (dst : MeshSrc) (s : State) : Host.Outcome State Fault Refusal :=
  .next (gotResponse dst .posted (fun _ s => s) s)

/-- WAIT_DONE (R327): the wait that asked is met. -/
def execWaitDone (dst : MeshSrc) (s : State) : Host.Outcome State Fault Refusal :=
  .next (gotResponse dst .waited (fun _ s =>
    { s with waits := s.waits.map (fun w => if w.via = some dst then { w with done := true } else w) }) s)

/-- PROGRESS_SEND (R230): every request held at its destination sends a PROGRESS packet. -/
def execProgressSend (s : State) : Host.Outcome State Fault Refusal :=
  .next ((s.svc.filter (·.held)).foldl (fun s r => respond r.src .progress s) s)

/-- PROGRESS (R230): the source's limit of 256 µs starts again; SERVICE_TIMEOUT is the event that it has passed. -/
def execProgress (dst : MeshSrc) (s : State) : Host.Outcome State Fault Refusal :=
  .next (takeResp dst (fun x => x = .progress) s)

/-- A tally wait is ended with a status (R327): a stage stops under R89, another waiter finds it when it looks. -/
def waitFails (id : MeshSrc) (st : Status) (s : State) : State :=
  match s.waits.find? (fun w => w.via = some id) with
  | none => s
  | some w =>
    match w.who with
    | .stage p a i => stageStops ⟨p, a, i, a % 64, a / 64, logicalOf s p⟩ st 7 [] (dropWait w.who s)
    | _ => { s with waits := s.waits.map (fun x => if x.via = some id then { x with fail := some st } else x) }

/-- What a request that ended without effect leaves at its source (R131, R320, R327): an increment of a stage or array or
an atomic is reported with its sender; a tally wait ends. -/
def svcFailed (st : Status) (r : SvcReq) (s : State) : State :=
  match r.kind with
  | .tally _ _ => if r.src.router.toNat < 64 then report st false 1 r.loc 0 [] s else s
  | .atomic _ a _ _ => report st false 1 r.loc (a.setWidth 64) [] s
  | .tallyWait _ _ => waitFails r.src st s
  | _ => s

/-- SERVICE_TIMEOUT (R230): a source that has had no response and no PROGRESS for 256 µs ends the access. Whether it took
effect, it does not know. The error record counts a response that comes after it (R42), not the timeout. -/
def doServiceTimeout (dst : MeshSrc) (s : State) : State :=
  match svcOf s dst with
  | none => s
  | some r => svcFailed stServiceTimeout r (svcEnd dst s)

/-- Requests under way whose route has gone end with ST_NO_SERVICE_ROUTE (R36, R229), and those held at a unit that is lost with
the status of its stand (R23, R327). -/
def svcReroute (s : State) : State :=
  s.svc.foldl (fun s r =>
    if s.svcResp.any (fun e => e.1 = r.src && decide (e.2 ≠ .progress)) then s
    else
      match svcDest s r.kind with
      | .error st =>
        if r.held then respond r.src (.negative st (svcAddr r.kind)) { s with waits := s.waits.filter (fun w => w.who ≠ .remote r.src) }
        else s
      | .ok dst =>
        if !r.held && !reachable s (routerId r.src.stand.toNat r.src.router.toNat) dst then noRoute r.src (svcAddr r.kind) s else s) s

/-- A seam direction is marked dead (R26, R221). -/
def seamDies (p d cause : Nat) (s : State) : State :=
  let k := SeamStatus.key p d
  if seamLive s p d then
    let s := putSeam p d { seamOf s p d with sendOff := true, replaying := false, credOut := [], credNew := [] } (rfput k SeamStatus.state cause s)
    let s := report stSeamDead false 1 (locUnit (logicalOf s p) p 0 0 0 0 d) 0
      [BitVec.ofNat 8 cause, BitVec.ofNat 8 (rf s k SeamStatus.lastSeq)] s
    svcReroute (steerCheck p s)
  else s

/-- The slots without a good frame that mark a seam direction dead: SILENCE × 16, 0 being treated as 1 (R221, R238). -/
def silenceLimit (s : State) (p d : Nat) : Nat := 16 * max 1 (rf s (SeamCfg.key p d) SeamCfg.silence)

/-- SEAM_DEAD_SILENCE (R221). -/
def execSeamDeadSilence (phys : BitVec 6) (side : BitVec 2) (s : State) : Host.Outcome State Fault Refusal :=
  .next (if silenceLimit s phys.toNat side.toNat ≤ (seamOf s phys.toNat side.toNat).silent
    then seamDies phys.toNat side.toNat 3 s else s)

/-- SEAM_DEAD_REPLAY_LIMIT (R221): after REPLAY_LIMIT failures of one frame in a row, 0 being treated as 1. -/
def execSeamDeadReplayLimit (phys : BitVec 6) (side : BitVec 2) (s : State) : Host.Outcome State Fault Refusal :=
  .next (if max 1 (rf s (SeamCfg.key phys.toNat side.toNat) SeamCfg.replayLimit) ≤ (seamOf s phys.toNat side.toNat).failRun
    then seamDies phys.toNat side.toNat 4 s else s)

/-- SEAM_FRAME_RECEIVE (R214, R219, R220): the oldest frame on its way to a seam port that is live arrives, in the slot in which
it has crossed. With a good check its SEQ, replay request and acknowledge are those that were sent, or the event is not so
(log entry 71); with a bad one they may be anything. -/
def doSeamFrame (p d : Nat) (seq : Byte) (good request : Bool) (ack : Byte) (s : State) : State :=
  match facing p d with
  | none => s
  | some q =>
    match (seamOf s q (opp d)).wire with
    | [] => s
    | f :: r =>
      if f.age < frameCrossing ∨ (good && !(decide (f.seq = seq) && f.request == request && decide (f.ack = ack))) = true then s
      else
        let s := putSeam q (opp d) { seamOf s q (opp d) with wire := r } s
        if !seamLive s p d then s else if good then frameGood p d f s else frameBad p d f s

def execSeamFrameReceive (phys : BitVec 6) (side : BitVec 2) (seq : Byte) (checkGood replayRequest : Bool) (ackSeq : Byte)
    (s : State) : Host.Outcome State Fault Refusal :=
  .next (doSeamFrame phys.toNat side.toNat seq checkGood replayRequest ackSeq s)

end Sys2Proof.Machine
end

