-- ==== Sys2Proof/Machine/Engine.lean ====
section
/-!
DEFINITION. How a hub engine executes a descriptor (R263 to R291): its fields, the checks of R279, its accesses, what
each operation reads as its next unit, and the compressing store (R254 to R259).
-/

namespace Sys2Proof.Machine

/-- The engine class of an OP code (R277); 0 for a reserved one. -/
def opClass (op : Nat) : Nat :=
  if op = 1 then 3 else if op = 0x10 ∨ op = 0x11 then 4 else if op = 0x20 then 5 else if op = 0x30 then 6
  else if op = 0x40 then 7 else 0

/-- The place of an engine in the requester order of R264, which is also its bit of ENGINES and its gate node. -/
def engineBit (cls i : Nat) : Nat :=
  if cls = 3 then i else if cls = 4 then 8 + i else if cls = 5 then 10 else if cls = 6 then 11 + i
  else if cls = 7 then 13 + i else cls + 7

/-- The concurrent descriptors of an engine (R276). -/
def engineContexts (cls : Nat) : Nat := if cls = 3 then 4 else if cls = 4 ∨ cls = 7 then 2 else 1

/-- The number of engines of a class. -/
def engineCount (cls : Nat) : Nat := if cls = 3 then 8 else if cls = 4 ∨ cls = 6 ∨ cls = 7 then 2 else 1

/-- A destination field as COPY has it: DST_SEL in [13:12], a tap at most 7 with offset and pitch 0 (R281, R282). -/
def dstOk (f off pitch : Nat) (discard : Bool) : Bool :=
  let sel := natBits f 13 12
  sel = 0 || (sel = 1 && decide (natBits f 11 0 ≤ 7 ∧ off = 0 ∧ pitch = 0)) || (sel = 2 && discard)

/-- Is a CV_EXPECT admissible (R305)? -/
def expectOk (mode expect psel : Nat) : Bool :=
  if mode = 1 then decide (expect = 0)
  else if mode = 2 then decide (expect < 2 ^ 32) || decide (psel = 2 ∨ psel = 4)
  else true

/-- Does a descriptor name a reserved format code (R45): SP_FMT of a COPY, LFMT of a SAMPLE, OUT_FMT of a REDUCE? -/
def descFormatBad (d : List Byte) : Bool :=
  let f := numAt d 21 1
  (numAt d 0 1 = 1 && decide (0x12 ≤ f % 32)) || (numAt d 0 1 = 0x20 && natBits (numAt d 16 2) 13 12 = 3) ||
  (numAt d 0 1 = 0x40 && decide (0x12 ≤ f ∧ f < 32))

/-- Is the CV_EXPECT of a descriptor admissible for the PSEL of its check-value unit (R305)? -/
def descExpectOk (d : List Byte) (psel : Nat) : Bool :=
  numAt d 0 1 != 1 || expectOk (natBits (numAt d 20 1) 3 2) (numAt d 56 8) psel

/-- The checks of a descriptor's fields that need no state (R279, R281, R282, R284, R286, R287, R289, R290). -/
def descOk (d : List Byte) : Bool :=
  let op := numAt d 0 1
  let z (o n : Nat) : Bool := numAt d o n = 0
  decide (numAt d 1 1 < 8) &&
  (if op = 1 then
      let src := numAt d 16 2
      let ctl := numAt d 20 1
      let sp := natBits ctl 1 0
      let ssel := natBits src 13 12
      (ssel = 0 || (ssel = 1 && decide (natBits src 11 0 ≤ 7) && z 32 6 && z 48 4) || (ssel = 2 && sp = 0)) &&
      dstOk (numAt d 18 2) (numAt d 40 6) (numAt d 52 4) true &&
      natBits ctl 3 2 != 3 && natBits ctl 7 6 = 0 && decide (numAt d 21 1 < 32) && decide (numAt d 24 2 < 1024) && z 27 1 &&
      z 38 2 && z 46 2 && (sp = 0 || (z 28 4 && z 48 4 && z 52 4))
    else if op = 0x10 ∨ op = 0x11 then
      natBits (numAt d 16 2) 13 12 = 0 && dstOk (numAt d 18 2) (numAt d 40 6) 0 false && natBits (numAt d 20 2) 13 12 = 0 &&
      z 22 2 && decide (1 ≤ numAt d 28 4 ∧ numAt d 28 4 ≤ 2 ^ 24) && z 38 2 && z 46 2 && z 60 4 &&
      (op = 0x10 || (z 52 4 && z 56 4 && ((List.range 11).map (fun i => 2 ^ (i + 6))).contains (numAt d 24 4)))
    else if op = 0x20 then
      natBits (numAt d 18 2) 13 12 = 0 && decide (numAt d 20 1 ≤ 1) && z 21 1 && decide (numAt d 22 2 ≤ 1024) &&
      decide (1 ≤ numAt d 24 4 ∧ numAt d 24 4 ≤ 1048576) && decide (numAt d 56 4 % 64 = 0) && decide (numAt d 60 4 % 64 = 0)
    else if op = 0x30 then
      natBits (numAt d 16 2) 13 12 = 0 && natBits (numAt d 18 2) 13 12 = 0 && decide (numAt d 20 1 ≤ 3) && z 21 3 &&
      decide (1 ≤ numAt d 24 4 ∧ numAt d 24 4 ≤ 65536) && decide (1 ≤ numAt d 28 4 ∧ numAt d 28 4 ≤ 65536) && z 38 2 &&
      z 46 2 && decide (numAt d 56 4 ≤ 65535) && z 60 4
    else if op = 0x40 then
      decide (numAt d 16 2 < 4096) && dstOk (numAt d 18 2) (numAt d 40 6) 0 false && decide (numAt d 20 1 ≤ 1) &&
      decide (numAt d 21 1 ≤ 2) && decide (1 ≤ numAt d 22 1 ∧ numAt d 22 1 ≤ 64) && z 23 5 &&
      decide (numAt d 28 4 % 16 = 0) && z 38 2 && z 46 18
    else false)

def hubQDflt (_ : Nat) : HubQ := .init
def hubQOf (s : State) (p q : Nat) : HubQ := smapGet hubQDflt s.hubQs (p * 32 + q)
def putHubQ (p q : Nat) (v : HubQ) (s : State) : State := { s with hubQs := smapSet hubQDflt s.hubQs (p * 32 + q) v }
def execOf (s : State) (p q : Nat) : Option Exec := (hubQOf s p q).exec
def putExec (p q : Nat) (e : Exec) (s : State) : State := putHubQ p q { hubQOf s p q with exec := some e } s

/-- Is a place in another stand than p (R265)? -/
def awayFrom (p : Nat) (pl : Place) : Bool :=
  match pl with
  | .dram q _ _ => decide (q ≠ p)
  | .sram q _ _ => decide (q ≠ p)
  | .bad _ => false

/-- The answer to the packet of a queue's access to another stand (R230, R265): `n` bytes of a READ's count. -/
def rpcAnswer (p q n : Nat) (id : MeshSrc) (s : State) : SlotEnd × State :=
  let fin (s : State) : State :=
    putHubQ p q { hubQOf s p q with rpc := none } { s with svcGot := s.svcGot.filter (fun x => x.1 ≠ id) }
  match gotAnswer s id with
  | some (.data v) => (.done ((vecBytes v).take n), fin s)
  | some (.negative st _) => (.refuse st, fin s)
  | some _ => (.done [], fin s)
  | none => if (svcOf s id).isSome then (.wait, s) else (.refuse stServiceTimeout, fin s)

/-- An access of an engine to another stand (R265): it travels as a packet, whose answer the engine waits for. `n` bytes of
a READ's answer count. -/
def engPacket (p q n : Nat) (k : SvcKind) (s : State) : SlotEnd × State :=
  let h := hubQOf s p q
  match h.rpc with
  | none => (.wait, svcSend p 64 k (locUnit (logicalOf s p) p 0 0 0 0 q) (putHubQ p q { h with rpc := some (packetId p 64 s) } s))
  | some id => rpcAnswer p q n id s

/-- A read of at most 64 bytes by an engine of queue q of hub p (R265, R267, R272, R173). -/
def engRead (p q addr n form : Nat) (s : State) : SlotEnd × State :=
  match placeOf s addr n with
  | .bad st => (.refuse st, s)
  | .dram r sl off =>
    if r ≠ p then engPacket p q n (.read 2 (BitVec.ofNat 48 addr) (BitVec.ofNat 8 (n - 1))) s
    else
      (match dramRead r sl off n s with
        | (some bs, s) => (.done bs, s)
        | (none, s) => (.wait, s))
  | .sram r a off =>
    if r ≠ p then engPacket p q n (.read (BitVec.ofNat 2 form) (BitVec.ofNat 48 addr) (BitVec.ofNat 8 (n - 1))) s
    else extRead r a off n form s

/-- A write of at most 64 bytes by an engine of queue q of hub p (R265, R499, R503, R572). -/
def engWrite (p q addr form : Nat) (bs : List Byte) (s : State) : SlotEnd × State :=
  let pkt (f : Nat) (s : State) : SlotEnd × State :=
    engPacket p q 0 (.write (BitVec.ofNat 2 f) (BitVec.ofNat 48 addr) (BitVec.ofNat 8 (bs.length - 1)) (ofVecBytes bs)) s
  match placeOf s addr bs.length with
  | .bad st => (.refuse st, s)
  | .dram r sl off =>
    if r ≠ p then pkt 1 s
    else if !dramWritable s addr off then (.refuse stAddrReserved, s)
    else
      (match mergeFault s (dramKey r sl off) bs.length with
        | some w => (.wait, dramUncorrectable r sl (w - dramKey r sl 0) s)
        | none => (.done [], dramWrite r sl off addr bs s))
  | .sram r a off => if r ≠ p then pkt form s else extWrite r a off form bs s

/-- Does an access of a place meet an uncorrectable word? -/
def uncorrectableAt (s : State) (addr n : Nat) : Bool :=
  match placeOf s addr n with
  | .dram q sl off => (match readBytes s (dramKey q sl off) n with
    | .ok _ => false
    | .error _ => true)
  | .sram q a off => (match readBytes s (sramKey q a off) n with
    | .ok _ => false
    | .error _ => true)
  | .bad _ => false

/-- The destination of a descriptor: 0 handle, 1 tap, 2 discard. -/
def Exec.dstSel (e : Exec) : Nat := natBits (numAt e.desc 18 2) 13 12
def Exec.srcSel (e : Exec) : Nat := natBits (numAt e.desc 16 2) 13 12
def Exec.dstForm (e : Exec) : Nat := natBits (numAt e.desc 18 2) 15 14
def Exec.srcForm (e : Exec) : Nat := natBits (numAt e.desc 16 2) 15 14
def Exec.op (e : Exec) : Nat := numAt e.desc 0 1
/-- CV_MODE of a COPY (R281); 0 for every other operation. -/
def Exec.cvMode (e : Exec) : Nat := if e.op = 1 then natBits (numAt e.desc 20 1) 3 2 else 0
def Exec.spfmt (e : Exec) : Nat := if e.op = 1 then natBits (numAt e.desc 20 1) 1 0 else 0

/-- What an operation has for its next unit: its end, data read for a destination offset, a wait on an access, or a
failed access. -/
inductive UnitRes where
  | fin (st : Status)
  | got (e : Exec) (out : List (Nat × List Byte))
  | wait (addr n : Nat) (write : Bool)
  | tapWait
  | bad (st : Status) (addr : Nat)
  deriving DecidableEq, Repr

/-- Is a tap free for a descriptor: no earlier one in execution names the same direction (R266)? -/
def tapTurn (s : State) (p : Nat) (send : Bool) (t order : Nat) : Bool :=
  (List.range 32).all (fun q =>
    match execOf s p q with
    | none => true
    | some x => !(decide (x.order < order) &&
        (if send then x.dstSel = 1 && natBits (numAt x.desc 18 2) 11 0 = t
          else x.op = 1 && x.srcSel = 1 && natBits (numAt x.desc 16 2) 11 0 = t)))

/-- A wait on an access: on its tag or word, or on a packet's answer. -/
def waitOn (p addr n : Nat) (write : Bool) (s : State) : UnitRes × State :=
  (if awayFrom p (placeOf s addr n) then .tapWait else .wait addr n write, s)

/-- Does an access still meet an uncorrectable word: a read any, a write one that it must merge with (R272, R572)? -/
def stillStuck (s : State) (addr n : Nat) (write : Bool) : Bool :=
  if write then
    match placeOf s addr n with
    | .dram q sl off => (mergeFault s (dramKey q sl off) n).isSome
    | .sram q a off => (mergeFault s (sramKey q a off) n).isSome
    | .bad _ => false
  else uncorrectableAt s addr n

/-- Read a 64-byte slot, or its part, of a side. -/
def readUnit (p q : Nat) (h : Hdl) (off n form : Nat) (s : State) (k : List Byte → State → UnitRes × State) :
    UnitRes × State :=
  match engRead p q (h.addr + off) n form s with
  | (.done bs, s) => k bs s
  | (.wait, s) => waitOn p (h.addr + off) n false s
  | (.refuse st, s) => (.bad st (h.addr + off), s)

/-- Offsets of the row that a COPY reads and writes next, in units of 64 bytes: source and destination (R282). -/
def copyAt (e : Exec) : Nat × Nat :=
  let d := e.desc
  let spr := numAt d 28 4 / 64
  let row := e.pos / spr
  let k := e.pos % spr
  (numAt d 32 6 + row * numAt d 48 4 + 64 * k, numAt d 40 6 + row * numAt d 52 4 + 64 * k)

/-- The next unit of COPY (R282): 64 bytes of a row. -/
def copyUnit (p q : Nat) (e : Exec) (s : State) : UnitRes × State :=
  let d := e.desc
  let (sof, dof) := copyAt e
  let put (bs : List Byte) (s : State) : UnitRes × State := (.got { e with pos := e.pos + 1 } [(dof, bs)], s)
  if numAt d 22 2 < e.pos / (numAt d 28 4 / 64) then (.fin stDone, s)
  else if e.srcSel = 2 then put (List.replicate 64 0) s
  else if e.srcSel = 1 then
    let t := natBits (numAt d 16 2) 11 0
    if !tapTurn s p false t e.order then (.tapWait, s)
    else
      match (tapOf s p t).rx with
      | [] => (.tapWait, s)
      | (v, c) :: r => put (vecBytes v) (addCredit c 1 (putTap p t { tapOf s p t with rx := r } s))
  else readUnit p q e.src sof 64 e.srcForm s put

/-- Read the slot of an index list or page table that holds entry `i` of width `w`, of `n` entries, into the engine's
buffer (R285, R286). -/
def bufUnit (p q : Nat) (e : Exec) (h : Hdl) (base form i w n : Nat) (s : State) (k : Exec → State → UnitRes × State) :
    UnitRes × State :=
  let j := i * w / 64
  if e.bufAt = j + 1 then k e s
  else readUnit p q h (base + 64 * j) (min 64 (w * n - 64 * j)) form s (fun bs s => k { e with buf := bs, bufAt := j + 1 } s)

/-- The next unit of GATHER_ROWS (R285). Rows of no bytes still have their indices read and judged. -/
def gatherRowsUnit (p q : Nat) (e : Exec) (s : State) : UnitRes × State :=
  let d := e.desc
  let spr := numAt d 24 4 / 64
  let row := if spr = 0 then e.pos else e.pos / spr
  let k := if spr = 0 then 0 else e.pos % spr
  let n := numAt d 28 4
  let dof := numAt d 40 6 + 64 * e.pos
  if n ≤ row then (.fin stDone, s)
  else bufUnit p q e e.aux (numAt d 48 4) (natBits (numAt d 20 2) 15 14) row 4 n s (fun e s =>
    let v := natSigned 32 (numAt e.buf (4 * row % 64) 4)
    let put (bs : List Byte) (s : State) : UnitRes × State := (.got { e with pos := e.pos + 1 } [(dof, bs)], s)
    if v < -1 ∨ (numAt d 56 4 : Int) ≤ v then (.bad stGatherIndex 0, s)
    else if spr = 0 then (.got { e with pos := e.pos + 1 } [], s)
    else if v = -1 then put (List.replicate 64 0) s
    else
      let off := numAt d 32 6 + v.toNat * numAt d 52 4 + 64 * k
      if e.src.len < off + 64 then (.bad stHandleRange (e.src.addr + off), s)
      else readUnit p q e.src off 64 e.srcForm s put)

/-- The next unit of GATHER_PAGES (R286). -/
def gatherPagesUnit (p q : Nat) (e : Exec) (s : State) : UnitRes × State :=
  let d := e.desc
  let bpp := numAt d 24 4
  let n := numAt d 28 4
  let i := e.pos * 64 / bpp
  let pos := numAt d 48 4 + i
  let j := pos * bpp / 65536
  if n ≤ i then (.fin stDone, s)
  else bufUnit p q e e.src (numAt d 32 6) e.srcForm j 8 ((numAt d 48 4 + n - 1) * bpp / 65536 + 1) s (fun e s =>
    let w := numAt e.buf (8 * j % 64) 8
    let page := natBits w 47 16 * 65536
    if natBit w 63 = false ∨ natBits w 62 48 ≠ 0 ∨ natBits w 15 0 ≠ 0 ∨ 0x23000000000 < page + 65536 then
      (.bad stPageInvalid 0, s)
    else
      readUnit p q ⟨true, 0, page, 65536⟩ (pos * bpp % 65536 + e.pos * 64 % bpp) 64 2 s (fun bs s =>
        (.got { e with pos := e.pos + 1 } [(numAt d 40 6 + 64 * e.pos, bs)], s)))

/-- A span of `n` bytes cut at multiples of 64: offsets from its first byte, and lengths. -/
def spanPieces (addr n : Nat) : List (Nat × Nat) :=
  let r := addr % 64
  (List.range ((r + n + 63) / 64)).map (fun i =>
    let lo := if i = 0 then 0 else 64 * i - r
    (lo, min n (64 * (i + 1) - r) - lo))

/-- The slots of a span (R39). -/
def slotsOf (addr n : Nat) : List (Nat × Nat) := (spanPieces addr n).map (fun x => (addr + x.1, x.2))

/-- Bytes to be written from an offset, cut at multiples of 64. -/
def cutOut (off : Nat) (bs : List Byte) : List (Nat × List Byte) :=
  (spanPieces off bs.length).map (fun x => (off + x.1, (bs.drop x.1).take x.2))

/-- The next unit of an operation that reads all its input before it writes (R263): the working buffer fills slot by slot, in
the order of a list of accesses, and then goes to `k`. -/
def wholeUnit (p q form : Nat) (xs : List (Nat × Nat)) (e : Exec) (s : State)
    (k : Exec → List Byte → State → UnitRes × State) : UnitRes × State :=
  match xs.drop e.workAt with
  | [] => k { e with work := [], workAt := 0 } e.work s
  | (addr, n) :: _ =>
    match engRead p q addr n form s with
    | (.done bs, s) => (.got { e with work := e.work ++ bs, workAt := e.workAt + 1 } [], s)
    | (.wait, s) => waitOn p addr n false s
    | (.refuse st, s) => (.bad st addr, s)

/-- The largest of a list of FP32 values that are no NaN. -/
def maxOf (l : List FVal) : FVal := l.foldl (fun a b => if fvLt a b then b else a) (.inf true)

/-- Is the value −∞? -/
def isNegInf (v : FVal) : Bool := v = .inf true

/-- FP32 product and difference under RNE. -/
def mul32 (a b : FVal) : FVal := ofFP32 (toFP32 (fvMul a b).1).1
def add32 (a b : FVal) : FVal := ofFP32 (toFP32 (fvAdd 0 a b).1).1

/-- Prefix sums in FP32 under RNE. -/
def prefixSums : FVal → List FVal → List FVal
  | _, [] => []
  | c, e :: r => let d := add32 c e; d :: prefixSums d r

/-- What a SAMPLE writes (R288): TOKEN, LOGP and KEPT, or none where every logit is −∞ or NaN. -/
def sampleOf (d : List Byte) (logits : List FVal) : Option (Nat × Lane × Nat) :=
  let mode := numAt d 20 1
  let z := logits.map (fun v => if v.isNan then FVal.inf true else v)
  let z := if mode = 1 then z.map (fun v => mul32 v (ofFP32 (BitVec.ofNat 32 (numAt d 28 4)))) else z
  if z.all isNegInf then none
  else
    let idx := (z.zip (List.range z.length)).mergeSort (fun a b => !fvLt a.1 b.1 && (fvLt b.1 a.1 || decide (a.2 ≤ b.2)))
    if mode = 0 then (idx.head?).map (fun x => (x.2, 0, 1))
    else
      let m := maxOf z
      let k := numAt d 22 2
      let l := if k = 0 then z.zip (List.range z.length) else idx.take (min k z.length)
      let ex (v : FVal) : FVal :=
        let x := mul32 (add32 v (fvNeg m)) (ofFP32 0x3FB8AA3B)
        ofFP32 (approxFP32 2 x (toFP32 x).1).1
      let e := l.map (fun x => ex x.1)
      let c := prefixSums (.fin false 0 0) e
      let total := c.getLast?.getD (.fin false 0 0)
      let topP := ofFP32 (BitVec.ofNat 32 (numAt d 32 4))
      let cut := if fvLt topP (.fin false 1 0) then
          (match findIdxSome (fun x => fvLt (mul32 topP total) x || fvEq x (mul32 topP total)) c with
            | some j => j + 1
            | none => l.length)
        else l.length
      let l := l.take cut
      let e := e.take cut
      let c := c.take cut
      let total := c.getLast?.getD total
      let ti := numAt d 48 8
      let r := (philox (BitVec.ofNat 64 (numAt d 40 8)) (ti % 2 ^ 32) (ti / 2 ^ 32) (numAt d 36 4) 0).1
      let t := mul32 (.fin false (r / 256) (-24)) total
      let j := (findIdxSome (fun x => fvLt t x) c).getD (l.length - 1)
      let lg2 (v : FVal) : FVal := ofFP32 (approxFP32 3 v (toFP32 v).1).1
      let lp := mul32 (add32 (lg2 (e.getD j total)) (fvNeg (lg2 total))) (ofFP32 0x3F317218)
      (l[j]?).map (fun x => (x.2, (toFP32 lp).1, l.length))

/-- The units of SAMPLE (R287, R288): its logits are read, then the result is formed. -/
def sampleUnit (p q : Nat) (e : Exec) (s : State) : UnitRes × State :=
  let d := e.desc
  if e.pos ≠ 0 then (.fin stDone, s)
  else
    let f := natBits (numAt d 16 2) 13 12
    let w := if f = 0 then 4 else 2
    let v := numAt d 24 4
    wholeUnit p q e.srcForm (slotsOf (e.src.addr + numAt d 56 4) (w * v)) e s (fun e bs s =>
      match sampleOf d ((List.range v).map (fun i => decodeElem f (numAt bs (w * i) w))) with
      | none => (.bad stSampleInvalid 0, s)
      | some (tok, lp, kept) =>
        (.got { e with pos := 1 } [(numAt d 60 4, bytesLE 4 tok ++ bytesLE 4 lp.toNat ++ bytesLE 4 kept ++ [0, 0, 0, 0])], s))

/-- Element `i` of `w` bits of a byte string (R48). -/
def elemAt (bs : List Byte) (w i : Nat) : Nat :=
  if w = 4 then natBits (numAt bs (i / 2) 1) (i % 2 * 4 + 3) (i % 2 * 4) else numAt bs (i * (w / 8)) (w / 8)

/-- Elements of `w` bits as bytes (R48). -/
def packRow (w : Nat) (es : List Nat) : List Byte :=
  if w = 4 then (List.range (es.length / 2)).map (fun i => BitVec.ofNat 8 (es.getD (2 * i) 0 + 16 * es.getD (2 * i + 1) 0))
  else es.flatMap (fun e => bytesLE (w / 8) e)

/-- The units of TRANSPOSE (R289): each batch is read whole and written row by row. -/
def transposeUnit (p q : Nat) (e : Exec) (s : State) : UnitRes × State :=
  let d := e.desc
  let w := 4 * 2 ^ numAt d 20 1
  let rows := numAt d 24 4
  let cols := numAt d 28 4
  let b := e.pos
  if numAt d 56 4 < b then (.fin stDone, s)
  else
    let rb := cols * w / 8
    wholeUnit p q e.srcForm ((List.range rows).flatMap (fun r =>
      slotsOf (e.src.addr + numAt d 32 6 + (b * rows + r) * numAt d 48 4) rb)) e s (fun e bs s =>
      let row (c : Nat) : List Byte := packRow w ((List.range rows).map (fun r => elemAt (bytesAt bs (r * rb) rb) w c))
      let out := (List.range cols).flatMap (fun c =>
        let x := row c
        (List.range (x.length / 64)).map (fun k =>
          (numAt d 40 6 + (b * cols + c) * numAt d 52 4 + 64 * k, bytesAt x (64 * k) 64)))
      (.got { e with pos := b + 1 } out, s))

/-- The combination of R291 of the partials of one element. -/
def reduceOf (rop fmt : Nat) (xs : List Lane) : Nat :=
  let r : Lane := if rop = 0 then (treeSum addFP32 0 7 xs).1
    else (treeSum (fun a b => let (v, f) := fvMinMax true (ofFP32 a) (ofFP32 b); ((toFP32 v).1, f)) 0 7 xs).1
  (convert fmt 0 false (ofFP32 r) 0).1

/-- A handle of the table as it stood at the issue of a descriptor (R200). -/
def hdlAt (e : Exec) (h : Nat) : Hdl := ((e.hdls.find? (fun x => x.1 = h)).map (·.2)).getD Hdl.none

/-- The partials that a list names (R290): the device address of each; none where one lies outside its handle (R200). -/
def partialsAt (e : Exec) (list : List Byte) (n ne : Nat) : Option (List Nat) :=
  (List.range n).foldr (fun i acc =>
    acc.bind (fun l =>
      let w := numAt list (8 * i) 8
      let h := hdlAt e (natBits w 11 0)
      let off := natBits w 63 16
      if h.valid = true ∧ off + 4 * ne ≤ h.len then some ((h.addr + off) :: l) else none)) (some [])

/-- The first and last slot of some spans of a memory array that a region holds (R180). -/
def spanSlots (first last : Nat) (spans : List (Nat × Nat)) : Option (Nat × Nat) :=
  spans.foldl (fun acc (addr, n) =>
    let lo := max first (natBits addr 18 0 / 64)
    let hi := min last ((natBits addr 18 0 + n - 1) / 64)
    if n = 0 ∨ hi < lo then acc
    else
      match acc with
      | none => some (lo, hi)
      | some (l, h) => some (min l lo, max h hi)) none

/-- Post the slots of a side's accesses that lie in the untagged regions of a memory array (R180): the accesses are the spans,
which one handle names. -/
def postSpans (p q side : Nat) (spans : List (Nat × Nat)) (write : Bool) (s : State) : List Posting × State :=
  let addr := ((spans.head?).map (·.1)).getD 0
  let a := arrIdx (natBits addr 24 19) (natBits addr 30 25)
  if natBit addr 47 = false ∨ isMemIdx a = false then ([], s)
  else
    match standPlace s (natBits addr 36 31) with
    | .error _ => ([], s)
    | .ok tp =>
      (List.range 2).foldl (fun (ids, s) r =>
        let w := rg s (MaUntag.key tp a r)
        match if fldGet MaUntag.enable w = 1 then spanSlots (fldGet MaUntag.first w) (fldGet MaUntag.last w) spans else none with
        | none => (ids, s)
        | some (lo, hi) =>
          (ids ++ [⟨side, arrKey tp a, packetId p 64 s⟩],
            svcSend p 64 (.post ⟨BitVec.ofNat 6 (natBits addr 36 31), BitVec.ofNat 6 (a % 64), BitVec.ofNat 6 (a / 64)⟩
              (BitVec.ofNat 13 lo) (BitVec.ofNat 13 hi) write (BitVec.ofNat 6 q))
              (locUnit (logicalOf s p) p 0 0 0 0 q) s)) ([], s)

/-- The accesses to the partials that a REDUCE has found: the slots of each, in order. -/
def partialSlots (e : Exec) : List (Nat × Nat) :=
  (List.range (e.buf.length / 8)).flatMap (fun i => slotsOf (numAt e.buf (8 * i) 8) (4 * numAt e.desc 28 4))

/-- The units of REDUCE (R290, R291): the list, then the partials it names, one range being posted for each array that
holds some (R180), then the result. List and partials are read whatever their tags, the descriptor giving no form (log
entry 15). -/
def reduceUnit (p q : Nat) (e : Exec) (s : State) : UnitRes × State :=
  let d := e.desc
  let n := numAt d 22 1
  let ne := numAt d 28 4
  if e.pos = 0 then
    wholeUnit p q 2 (slotsOf (e.src.addr + numAt d 32 6) (8 * n)) e s (fun e list s =>
      if (List.range n).any (fun i => natBits (numAt list (8 * i) 8) 63 16 % 64 ≠ 0) then (.bad stAddrAlign e.src.addr, s)
      else
        match partialsAt e list n ne with
        | none => (.bad stHandleRange e.src.addr, s)
        | some xs =>
          let (ids, s) := ((xs.map (· / 524288)).dedup).foldl (fun (ids, s) g =>
            let (js, s) := postSpans p q 3 ((xs.filter (fun a => a / 524288 = g)).map (fun a => (a, 4 * ne))) false s
            (ids ++ js, s)) (([] : List Posting), s)
          (.got { e with pos := 1, buf := xs.flatMap (bytesLE 8), posts := e.posts ++ ids } [], s))
  else if e.pos = 1 then
    wholeUnit p q 2 (partialSlots e) e s (fun e bs s =>
      let f := numAt d 21 1
      let w := fmtWidth f / 8
      let y := (List.range ne).flatMap (fun i =>
        bytesLE w (reduceOf (numAt d 20 1) f ((List.range n).map (fun k =>
          BitVec.ofNat 32 (numAt bs (4 * (k * ne + i)) 4)))))
      (.got { e with pos := 2 } (cutOut (numAt d 40 6) y), s))
  else (.fin stDone, s)

/-- A tile block of 32 elements (R254): the stored bits of each. -/
def denseBlock (w : Nat) (bs : List Byte) : List Nat :=
  let v := ofBytesLE bs
  (List.range 32).map (fun i => natBits v (w * i + w - 1) (w * i))

/-- Does an element encode +0 or −0 (R255)? -/
def elemZero (f x : Nat) : Bool :=
  match intWidthOf f with
  | some _ => x = 0
  | none => x % 2 ^ (fmtWidth f - 1) = 0

/-- The value region of a block (R242, R245): 4-bit elements two to a byte, 6- and 8-bit one, 16-bit two bytes. -/
def regionBytes (w : Nat) (es : List Nat) : List Byte :=
  if w = 4 then (List.range ((es.length + 1) / 2)).map (fun i => BitVec.ofNat 8 (es.getD (2 * i) 0 + 16 * es.getD (2 * i + 1) 0))
  else es.flatMap (fun e => bytesLE (if w = 16 then 2 else 1) e)

/-- The kept positions of a group of four under 2:4 or 1:4 with its padding (R255); none for a violating group. -/
def keptOf (f form : Nat) (g : List Nat) : Option (List Nat) :=
  let n := if form = 1 then 2 else 1
  let nz := (List.range 4).filter (fun i => !elemZero f (g.getD i 0))
  if n < nz.length then none
  else
    let free := ((List.range 4).filter (fun i => !nz.contains i)).take (n - nz.length)
    some ((List.range 4).filter (fun i => nz.contains i || free.contains i))

/-- A compressed block (R243 to R245), with the number of its violating groups. -/
def compressBlock (f form : Nat) (es : List Nat) : List Byte × Nat :=
  let w := fmtWidth f
  if form = 3 then
    let ks := (List.range 32).filter (fun i => !elemZero f (es.getD i 0))
    (bytesLE 4 ((ks.map (fun k => 2 ^ k)).sum) ++ regionBytes w (ks.map (fun k => es.getD k 0)), 0)
  else
    let gs := (List.range 8).map (fun g => (List.range 4).map (fun i => es.getD (4 * g + i) 0))
    let ks := gs.map (keptOf f form)
    let bad := (ks.filter Option.isNone).length
    let sel := (gs.zip ks).flatMap (fun (g, k) => (k.getD []).map (fun i => (if elemZero f (g.getD i 0) then 0 else g.getD i 0, i)))
    let idx := ((sel.zip (List.range sel.length)).map (fun ((_, i), j) => i * 4 ^ j)).sum
    (regionBytes w (sel.map (·.1)) ++ bytesLE (if form = 1 then 4 else 2) idx, bad)

/-- The bytes of a dense block, 6-bit elements packed (R242, R254). -/
def denseBlockBytes (f : Nat) : Nat := 4 * fmtWidth f

/-- The bytes of a bitmap tile's row table (R257). -/
def rowTable (rows : Nat) : Nat := 64 * ((4 * rows + 63) / 64)

/-- A stored tile (R256, R257): its bytes from offset 0, FORM, VIOLATIONS and SPARSE_BYTES; dense at least where `forced`. -/
def storedTile (f form rows blocks : Nat) (forced : Bool) (dense : List Byte) : List Byte × Nat × Nat × Nat :=
  let bb := denseBlockBytes f
  let db := rows * blocks * bb
  let rowsC := (List.range rows).map (fun r => (List.range blocks).map (fun b =>
    compressBlock f form (denseBlock (fmtWidth f) (bytesAt dense ((r * blocks + b) * bb) bb))))
  let viol := (rowsC.map (fun r => (r.map (·.2)).sum)).sum
  let rowB := rowsC.map (fun r => r.flatMap (·.1))
  let payload := rowB.flatMap id
  let tab := if form = 3 then rowTable rows else 0
  let sparse := tab + payload.length
  let isDense : Bool := forced || (if form = 3 then decide (db < sparse) else decide (viol ≠ 0))
  let sb := if form ≠ 3 ∧ viol ≠ 0 then 0 else sparse
  let offs := (rowB.foldl (fun (acc : List Nat × Nat) r => (acc.1 ++ [acc.2], acc.2 + r.length)) ([], 0)).1
  let table := offs.flatMap (bytesLE 4) ++ List.replicate (tab - 4 * rows) 0
  let hdr := [BitVec.ofNat 8 (if isDense then 0 else form), BitVec.ofNat 8 form, BitVec.ofNat 8 f, 0] ++ bytesLE 4 rows ++
    bytesLE 4 blocks ++ bytesLE 4 viol ++ bytesLE 8 db ++ bytesLE 8 sb ++ bytesLE 8 (if isDense then 64 else 64 + tab) ++
    List.replicate 24 0
  (hdr ++ (if isDense then dense else (if form = 3 then table else []) ++ payload), if isDense then 0 else form, viol, sb)

/-- The blocks of a tile that some read has completed: those that end after `m` and not after `n` bytes. -/
def newBlocks (f form : Nat) (work : List Byte) (m n : Nat) : List (List Byte × Nat) :=
  let bb := denseBlockBytes f
  (List.range' (m / bb) (n / bb - m / bb)).map (fun i => compressBlock f form (denseBlock (fmtWidth f) (bytesAt work (i * bb) bb)))

/-- A compressing store's tile as it is finally stored goes out (R256, R257, R259). -/
def tileOut (e : Exec) (bs : List Byte) (s : State) : UnitRes × State :=
  let d := e.desc
  let f := numAt d 21 1
  let rows := numAt d 22 2 + 1
  let blocks := natBits (numAt d 24 2) 9 0 + 1
  let db := rows * blocks * denseBlockBytes f
  let (t, fo, viol, sb) := storedTile f e.spfmt rows blocks (e.pos = 1) bs
  (.got { e with pos := 2
                 res1 := BitVec.ofNat 64 (fo * 2 ^ 60 + min viol (2 ^ 24 - 1) * 2 ^ 36 + db)
                 detail := BitVec.ofNat 64 sb }
    (cutOut (numAt d 40 6) t), s)

/-- The units of a compressing store (R254 to R259). The source is read slot by slot; at the first violating group, or
once the running size of a bitmap passes DENSE_BYTES, the pass is abandoned and the source read again from its first
byte for the dense one. `pos` 0 is the compressed pass, 1 the dense one; `bufAt` counts the bitmap's bytes. A tap
source gives its vectors once, and they serve both passes (log entry 14). Where the tile is no multiple of 64 bytes
the rest of the last vector of a tap is dropped (DESIGN CHOICE, log entry 14). -/
def compressUnit (p q : Nat) (e : Exec) (s : State) : UnitRes × State :=
  let d := e.desc
  let f := numAt d 21 1
  let form := e.spfmt
  let rows := numAt d 22 2 + 1
  let blocks := natBits (numAt d 24 2) 9 0 + 1
  let db := rows * blocks * denseBlockBytes f
  if e.pos = 2 then (.fin (if e.res1.toNat / 2 ^ 60 = 0 then stStoredDense else stDone), s)
  else if e.srcSel = 1 then
    let t := natBits (numAt d 16 2) 11 0
    if tapTurn s p false t e.order = false then (.tapWait, s)
    else if (db + 63) / 64 ≤ e.work.length / 64 then tileOut { e with work := [] } (e.work.take db) s
    else
      match (tapOf s p t).rx with
      | [] => (.tapWait, s)
      | (v, c) :: r =>
        (.got { e with work := e.work ++ vecBytes v } [], addCredit c 1 (putTap p t { tapOf s p t with rx := r } s))
  else
    match wholeUnit p q e.srcForm (slotsOf (e.src.addr + numAt d 32 6) db) e s (fun e bs s => tileOut e bs s) with
    | (.got g out, s) =>
      if g.pos ≠ 0 then (.got g out, s)
      else
        let bl := newBlocks f form g.work e.work.length g.work.length
        let size := e.bufAt + (bl.map (fun x => x.1.length)).sum
        if bl.any (fun x => x.2 ≠ 0) || (form = 3 && decide (db < rowTable rows + size)) then
          (.got { g with pos := 1, work := [], workAt := 0, bufAt := 0 } [], s)
        else (.got { g with bufAt := size } out, s)
    | r => r

/-- The next unit of a descriptor. -/
def nextUnit (p q : Nat) (e : Exec) (s : State) : UnitRes × State :=
  if e.op = 1 then (if e.spfmt = 0 then copyUnit p q e s else compressUnit p q e s)
  else if e.op = 0x10 then gatherRowsUnit p q e s
  else if e.op = 0x11 then gatherPagesUnit p q e s
  else if e.op = 0x20 then sampleUnit p q e s
  else if e.op = 0x30 then transposeUnit p q e s
  else reduceUnit p q e s

end Sys2Proof.Machine
end

