-- ==== Sys2Proof/Machine/Hub.lean ====
section
/-!
DEFINITION. Hub queues (R275 to R280): issue with its checks (R200, R258, R282, R284, R287, R289), execution, retirement
(R278), the descriptors of ring queues (R353), RELEASE (R517), the refresh and scrub of slices (R270, R271), and the
rows of the hub.
-/

namespace Sys2Proof.Machine

/-- The mode, class and index of a queue (R293). -/
def qMode (s : State) (p q : Nat) : Nat := rf s (HubQCfg.key p q) HubQCfg.mode
def qClass (s : State) (p q : Nat) : Nat := rf s (HubQCfg.key p q) HubQCfg.cls
def qIndex (s : State) (p q : Nat) : Nat := rf s (HubQCfg.key p q) HubQCfg.index

/-- The state of a gate node: 0 on, 1 off, 2 pending (R436, R437). -/
def gateDflt (_ : Nat) : Nat := 0
def gateSt (s : State) (p n : Nat) : Nat := smapGet gateDflt s.gates (p * 1024 + n)
def putGate (p n v : Nat) (s : State) : State := { s with gates := smapSet gateDflt s.gates (p * 1024 + n) v }

/-- The queues of a hub whose executing descriptor runs on an engine. -/
def engineQueues (s : State) (p cls i : Nat) : List Nat :=
  (List.range 32).filter (fun q => (execOf s p q).isSome && qClass s p q = cls && qIndex s p q = i)

/-- Has the engine a free context for a descriptor (R276, R302, R437)? A check takes its check-value unit alone. -/
def freeContext (s : State) (p cls i : Nat) (cv : Bool) : Bool :=
  let qs := engineQueues s p cls i
  decide (qs.length < engineContexts cls) && gateSt s p (0x10 + engineBit cls i) = 0 && gateSt s p 1 = 0 &&
  !(cv && (cvuOwned s false p i || qs.any (fun q => (execOf s p q).any (fun e => e.cvMode ≠ 0))))

/-- Does the blaze engine of a stand execute a descriptor: from the save to the commit of a blaze (R292, R506)? -/
def blzActive (s : State) (p : Nat) : Bool := s.saving.isSome && decide (roleOf s p = 1)

/-- A handle as it stands in the table (R200). -/
def resolveHdl (s : State) (p h : Nat) : Hdl :=
  let a := rg s (HubHdlAddr.key p h)
  ⟨fldGet HubHdlAddr.valid a = 1, fldGet HubHdlAddr.kind a, fldGet HubHdlAddr.addr a,
    fldGet HubHdlLen.length (rg s (HubHdlLen.key p h))⟩

/-- An extent that a descriptor will access through a handle: side, offset, bytes, form, write. -/
structure Extent where
  h : Hdl
  off : Nat
  n : Nat
  form : Nat
  write : Bool
  deriving DecidableEq, Repr

/-- The extents known at issue (R200). The rows of a gather are known when their index is read; that its table is VALID is known
at issue. -/
def extentsOf (e : Exec) : List Extent :=
  let d := e.desc
  let dst (n : Nat) : List Extent := if e.dstSel = 0 then [⟨e.dst, numAt d 40 6, n, e.dstForm, true⟩] else []
  if e.op = 1 then
    if e.spfmt = 0 then
      let rows := numAt d 22 2
      let rb := numAt d 28 4
      (if e.srcSel = 0 then [⟨e.src, numAt d 32 6, rows * numAt d 48 4 + rb, e.srcForm, false⟩] else []) ++
        dst (rows * numAt d 52 4 + rb)
    else
      let db := (numAt d 22 2 + 1) * (natBits (numAt d 24 2) 9 0 + 1) * denseBlockBytes (numAt d 21 1)
      (if e.srcSel = 0 then [⟨e.src, numAt d 32 6, db, e.srcForm, false⟩] else []) ++ dst (64 + db)
  else if e.op = 0x10 then
    [⟨e.aux, numAt d 48 4, 4 * numAt d 28 4, natBits (numAt d 20 2) 15 14, false⟩, ⟨e.src, 0, 0, e.srcForm, false⟩] ++
      dst (numAt d 28 4 * numAt d 24 4)
  else if e.op = 0x11 then
    let lo := numAt d 48 4 * numAt d 24 4 / 65536
    let hi := (numAt d 48 4 + numAt d 28 4 - 1) * numAt d 24 4 / 65536
    [⟨e.src, numAt d 32 6 + 8 * lo, 8 * (hi + 1 - lo), e.srcForm, false⟩] ++ dst (numAt d 28 4 * numAt d 24 4)
  else if e.op = 0x20 then
    [⟨e.src, numAt d 56 4, numAt d 24 4 * (if natBits (numAt d 16 2) 13 12 = 0 then 4 else 2), e.srcForm, false⟩,
      ⟨e.dst, numAt d 60 4, 16, e.dstForm, true⟩]
  else if e.op = 0x30 then
    let w := 4 * 2 ^ numAt d 20 1
    let b := numAt d 56 4 + 1
    [⟨e.src, numAt d 32 6, (b * numAt d 24 4 - 1) * numAt d 48 4 + numAt d 28 4 * w / 8, e.srcForm, false⟩,
      ⟨e.dst, numAt d 40 6, (b * numAt d 28 4 - 1) * numAt d 52 4 + numAt d 24 4 * w / 8, e.dstForm, true⟩]
  else
    [⟨e.src, numAt d 32 6, 8 * numAt d 22 1, 2, false⟩] ++ dst (numAt d 28 4 * fmtWidth (numAt d 21 1) / 8)

/-- The alignment rules of R282, R284 and R289. -/
def misaligned (e : Exec) : Bool :=
  let d := e.desc
  let odd (o n : Nat) : Bool := decide (numAt d o n % 64 ≠ 0)
  if e.op = 1 then odd 32 6 || odd 40 6 || (e.spfmt = 0 && (odd 28 4 || odd 48 4 || odd 52 4 || numAt d 28 4 = 0))
  else if e.op = 0x10 then odd 32 6 || odd 40 6 || odd 24 4 || odd 48 4 || odd 52 4
  else if e.op = 0x11 then odd 32 6 || odd 40 6
  else if e.op = 0x30 then
    let w := 4 * 2 ^ numAt d 20 1
    odd 32 6 || odd 40 6 || odd 48 4 || odd 52 4 || decide (numAt d 28 4 * w % 512 ≠ 0 ∨ numAt d 24 4 * w % 512 ≠ 0)
  else false

/-- Parameters of a sample under MODE 1 (R287). -/
def sampleParamBad (d : List Byte) : Bool :=
  let it := ofFP32 (BitVec.ofNat 32 (numAt d 28 4))
  let tp := ofFP32 (BitVec.ofNat 32 (numAt d 32 4))
  let pos (v : FVal) : Bool := match v with
    | .fin false m _ => decide (m ≠ 0)
    | _ => false
  numAt d 20 1 = 1 && (!pos it || !pos tp || fvLt (.fin false 1 0) tp ||
    (fvLt tp (.fin false 1 0) && numAt d 22 2 = 0))

/-- The formats that a compressing store takes (R254, R258). -/
def storeFmtOk (f : Nat) : Bool := (1 ≤ f && f ≤ 9) || fmtIsMX f

/-- Is a span of a memory array wholly inside one untagged region (R170)? -/
def spanUntagged (s : State) (addr n : Nat) : Bool :=
  let a := arrIdx (natBits addr 24 19) (natBits addr 30 25)
  match standPlace s (natBits addr 36 31) with
  | .error _ => true
  | .ok p => isMemIdx a && (List.range 2).any (fun r =>
      let w := rg s (MaUntag.key p a r)
      decide (fldGet MaUntag.enable w = 1 ∧ fldGet MaUntag.first w ≤ natBits addr 18 0 / 64 ∧
        (natBits addr 18 0 + n - 1) / 64 ≤ fldGet MaUntag.last w))

/-- May every byte of a DRAM extent be written (R499, R503)? -/
def extentWritable (s : State) (addr n : Nat) : Bool :=
  (List.range (n / 64 + 1)).all (fun i => decide (n ≤ 64 * i) || dramWritable s (addr + 64 * i) (dramPlaceOf s (addr + 64 * i)).2.2)

/-- The rows of a side: device address and bytes of each, within the handle. -/
def rowSpans (h : Hdl) (off count pitch n : Nat) : List (Nat × Nat) :=
  ((List.range count).filter (fun i => decide (off + i * pitch + n ≤ h.len))).map (fun i => (h.addr + off + i * pitch, n))

/-- The accesses of a side of a descriptor, as spans of device addresses (R180): 0 source, 1 destination, 2 index list. A
gather's table counts as far as its indices may reach (DESIGN CHOICE, log entry 113). -/
def sideSpans (e : Exec) (side : Nat) : List (Nat × Nat) :=
  let d := e.desc
  let w := 4 * 2 ^ numAt d 20 1
  if e.op = 1 ∧ e.spfmt = 0 then
    (if side = 0 ∧ e.srcSel = 0 then rowSpans e.src (numAt d 32 6) (numAt d 22 2 + 1) (numAt d 48 4) (numAt d 28 4)
      else if side = 1 ∧ e.dstSel = 0 then rowSpans e.dst (numAt d 40 6) (numAt d 22 2 + 1) (numAt d 52 4) (numAt d 28 4)
      else [])
  else if e.op = 0x10 ∧ side = 0 then rowSpans e.src (numAt d 32 6) (numAt d 56 4) (numAt d 52 4) (numAt d 24 4)
  else if e.op = 0x30 ∧ side = 0 then
    rowSpans e.src (numAt d 32 6) ((numAt d 56 4 + 1) * numAt d 24 4) (numAt d 48 4) (numAt d 28 4 * w / 8)
  else if e.op = 0x30 ∧ side = 1 then
    rowSpans e.dst (numAt d 40 6) ((numAt d 56 4 + 1) * numAt d 28 4) (numAt d 52 4) (numAt d 24 4 * w / 8)
  else ((extentsOf e).filter (fun x => (if x.write then 1 else if e.op = 0x10 then 2 else 0) = side && decide (0 < x.n))).map
    (fun x => (x.h.addr + x.off, x.n))

/-- Do the untagged regions of a memory array hold every slot of a span, together where they adjoin (R170)? -/
def slotsUntagged (s : State) (addr n : Nat) : Bool :=
  let a := arrIdx (natBits addr 24 19) (natBits addr 30 25)
  match standPlace s (natBits addr 36 31) with
  | .error _ => true
  | .ok p =>
    let lo := natBits addr 18 0 / 64
    let hi := (natBits addr 18 0 + n - 1) / 64
    let reg (r : Nat) : Option (Nat × Nat) :=
      let w := rg s (MaUntag.key p a r)
      if fldGet MaUntag.enable w = 1 then some (fldGet MaUntag.first w, fldGet MaUntag.last w) else none
    let both (x y : Option (Nat × Nat)) : Bool := match x, y with
      | some (f, l), some (g, m) => decide (f ≤ lo ∧ lo ≤ l ∧ g ≤ l + 1 ∧ hi ≤ m)
      | _, _ => false
    isMemIdx a && (both (reg 0) (reg 0) || both (reg 1) (reg 1) || both (reg 0) (reg 1) || both (reg 1) (reg 0))

/-- The spans of an extent that a descriptor writes: those of its rows (R170, R282). -/
def writeSpans (e : Exec) (x : Extent) : List (Nat × Nat) :=
  if (e.op = 1 ∧ e.spfmt = 0) ∨ e.op = 0x30 then sideSpans e 1 else [(x.h.addr + x.off, x.n)]

/-- What refuses a descriptor at its issue, before any data moves: the status and the address concerned (R43, R169,
R170, R200, R258, R282, R284, R287, R289, R499). The destination of a compressing store must lie in one untagged region from
DST_OFFSET to the handle's end (DESIGN CHOICE, log entry 102). -/
def issueFault (s : State) (e : Exec) : Option (Status × Nat) :=
  let d := e.desc
  let xs := extentsOf e
  let far (x : Extent) : Bool := !x.h.valid || decide (x.h.len < x.off + x.n)
  let st (b : Bool) (v : Status) (a : Nat) : Option (Status × Nat) := if b then some (v, a) else none
  (st (misaligned e) stAddrAlign 0).or
  ((st (descFormatBad d) stFmtReserved 0).or
  ((st (e.op = 0x20 && sampleParamBad d) stSampleParam 0).or
  ((st (e.spfmt ≠ 0 && !storeFmtOk (numAt d 21 1)) stFmtReserved 0).or
  ((st (e.spfmt ≠ 0 && (e.dstSel = 1 || (e.dstSel = 0 && decide (e.dst.kind ≠ 0) &&
      !spanUntagged s (e.dst.addr + numAt d 40 6) (e.dst.len - numAt d 40 6)))) stTagMode e.dst.addr).or
  ((st (e.spfmt ≠ 0 && e.srcSel = 0 && e.src.len ≠
      (numAt d 22 2 + 1) * (natBits (numAt d 24 2) 9 0 + 1) * denseBlockBytes (numAt d 21 1)) stHandleRange e.src.addr).or
  (((xs.find? far).map (fun x => (stHandleRange, x.h.addr + x.off))).or
  (((xs.find? (fun x => decide (x.h.kind ≠ 0) && (x.form = 3 || (x.form = 2 && x.write &&
      !(writeSpans e x).all (fun y => slotsUntagged s y.1 y.2))))).map (fun x => (stTagMode, x.h.addr + x.off))).or
  (((xs.find? (fun x => x.write && x.h.kind = 0 && !extentWritable s (x.h.addr + x.off) x.n)).map
      (fun x => (stAddrReserved, x.h.addr + x.off))).or
  (st (natBit (numAt d 1 1) 1 && tallyPlace s (numAt d 6 2) = .error stAddrReserved) stAddrReserved 0)))))))))

/-- The address that CV_FOLD folds (R283). -/
def foldAddr (e : Exec) : Nat :=
  let d := e.desc
  if e.dstSel = 2 then
    (if e.srcSel = 0 then e.src.addr + numAt d 32 6 else if e.srcSel = 1 then 2 ^ 63 + natBits (numAt d 16 2) 11 0 else 0)
  else if e.dstSel = 1 then 2 ^ 63 + natBits (numAt d 18 2) 11 0
  else e.dst.addr + numAt d 40 6

/-- Starting value of the check-value unit at issue (R303), with the address that CV_FOLD folds. -/
def cvBegin (p u : Nat) (e : Exec) (s : State) : Exec × State :=
  if e.cvMode = 0 then (e, s)
  else
    let v := if rf s (CvuCfg.key false p u) CvuCfg.chain = 1 then cvuV s false p u else (cvuParams s false p u).init
    let s := cvuSet false p u v s
    ({ e with cv := some v },
      if natBit (numAt e.desc 20 1) 4 then cvuFeed false p u (bytesLE 8 (foldAddr e)) s else s)

/-- A descriptor that executes with a check owns its unit (R300). -/
def cvOwn (p u : Nat) (e : Exec) (s : State) : State :=
  if e.cvMode = 0 then s else rfput (CvuStatus.key false p u) CvuStatus.owner 1 s

/-- The posts of a descriptor's accesses to untagged regions (R180). -/
def postAll (p q : Nat) (e : Exec) (s : State) : Exec × State :=
  [0, 1, 2].foldl (fun (e, s) side =>
    let (ids, s) := postSpans p q side (sideSpans e side) (side = 1) s
    ({ e with posts := e.posts ++ ids }, s)) (e, s)

/-- A descriptor at a slot, not yet issued. -/
def execAt (s : State) (p slot : Nat) : Exec :=
  let d := descBytes s p (64 * slot) 64
  let h (o : Nat) : Hdl := resolveHdl s p (natBits (numAt d o 2) 11 0)
  let ord := ((List.range 32).filterMap (fun q => (execOf s p q).map (·.order))).foldl max 0 + 1
  ⟨d, slot, ord, h 16, h 18, h 20, 0, [], [], 0, none, none, 0, 0, 0, none, [], 0, [], 0, [], none, none⟩

/-- Mark the scoreboard entries of some postings as ended, those that still wait for room too (R181, R183). -/
def endPosts (ids : List MeshSrc) (s : State) : State :=
  if ids.isEmpty then s
  else { s with memArrs := s.memArrs.map (fun (k, m) => (k, { m with
      sb := m.sb.map (fun x => if ids.contains x.post then { x with ending := true } else x)
      posts := m.posts.map (fun (i, x) => (i, if ids.contains i then { x with ending := true } else x)) })) }

/-- Has a descriptor made its last write (R181)? -/
def writesOver (e : Exec) : Bool :=
  let d := e.desc
  e.out.isEmpty && e.sent.isNone &&
  (if e.op = 1 then (if e.spfmt = 0 then decide (numAt d 22 2 < e.pos / (numAt d 28 4 / 64)) else decide (2 ≤ e.pos))
    else if e.op = 0x10 then decide (numAt d 28 4 * (numAt d 24 4 / 64) ≤ e.pos)
    else if e.op = 0x11 then decide (numAt d 28 4 * numAt d 24 4 ≤ 64 * e.pos)
    else if e.op = 0x20 then decide (e.pos ≠ 0)
    else if e.op = 0x30 then decide (numAt d 56 4 < e.pos)
    else decide (2 ≤ e.pos))

/-- Has a descriptor made its last access of a side in an array (R181)? -/
def sideOver (e : Exec) (side arr : Nat) : Bool :=
  let d := e.desc
  if side = 1 then writesOver e
  else if e.op = 1 then (if e.spfmt = 0 then decide (numAt d 22 2 < e.pos / (numAt d 28 4 / 64)) else decide (2 ≤ e.pos))
  else if e.op = 0x10 then
    (if side = 2 then decide (e.bufAt = (4 * numAt d 28 4 - 1) / 64 + 1)
      else decide (numAt d 28 4 * (numAt d 24 4 / 64) ≤ e.pos))
  else if e.op = 0x11 then
    decide (e.bufAt = (numAt d 48 4 + numAt d 28 4 - 1) * numAt d 24 4 / 65536 * 8 / 64 + 1)
  else if e.op = 0x20 then decide (e.pos ≠ 0)
  else if e.op = 0x30 then decide (numAt d 56 4 < e.pos)
  else if side = 0 then decide (1 ≤ e.pos)
  else decide (2 ≤ e.pos) || (decide (e.pos = 1) && ((partialSlots e).drop e.workAt).all (fun x =>
    natBit x.1 47 = false || decide (arrIdx (natBits x.1 24 19) (natBits x.1 30 25) ≠ arr % 4096)))

/-- The posts of an array end after the descriptor's last access to it (R181). -/
def endSides (e : Exec) (s : State) : Exec × State :=
  let gone (a : Posting) : Bool := (e.posts.filter (fun x => x.arr = a.arr)).all (fun x => sideOver e x.side x.arr)
  let ids := (e.posts.filter gone).map (·.id)
  if ids.isEmpty then (e, s) else ({ e with posts := e.posts.filter (fun x => !gone x) }, endPosts ids s)

/-- The end of every post of a descriptor. -/
def endAll (e : Exec) (s : State) : State := endPosts (e.posts.map (·.id)) s

/-- The packets of a descriptor that retires: those that have not been answered are dead, the answers are forgotten. -/
def dropPackets (ids : List MeshSrc) (s : State) : State :=
  { s with svc := s.svc.map (fun r => if ids.contains r.src then { r with dead := true } else r)
           svcGot := s.svcGot.filter (fun x => !ids.contains x.1) }

/-- The slot after the one that retires, with what becomes of NEXT, PASS and a Once queue (R276). -/
def queueAdvance (p q : Nat) (s : State) : State :=
  let k := HubQState.key p q
  let cfg := rg s (HubQCfg.key p q)
  let nx := rf s k HubQState.next
  let h := hubQOf s p q
  let mode := fldGet HubQCfg.mode cfg
  if nx ≠ fldGet HubQCfg.last cfg then rfput k HubQState.next (nx + 1) (putHubQ p q { h with ring := h.ring.drop 1 } s)
  else if mode = 1 then putHubQ p q { h with finished := true } s
  else
    let s := rfput k HubQState.next (fldGet HubQCfg.first cfg) (putHubQ p q { h with ring := h.ring.drop 1 } s)
    if mode = 2 then rfadd k HubQState.pass 1 s else s

/-- The completion record's results of a descriptor (R259, R305, R347). -/
def execResults (s : State) (p u : Nat) (e : Exec) (st : Status) : Word × Word × Word × Bool :=
  let ok : Bool := st = stDone || st = stStoredDense
  let cv : Bool := e.cv.isSome && (ok || st = stCheckMismatch)
  let r0 := if cv then cvuR s false p u else 0
  if e.spfmt ≠ 0 ∧ ok = true then (r0, e.res1, e.detail, cv)
  else (r0, BitVec.ofNat 64 e.moved, if ok then 0 else BitVec.ofNat 64 e.fail, cv)

/-- A descriptor retires (R18, R278): its queue and engine, its report and, on a ring queue, its completion record. -/
def retireDesc (p q : Nat) (e : Exec) (st : Status) (s : State) : State :=
  let cls := qClass s p q
  let i := qIndex s p q
  let ok : Bool := st = stDone || st = stStoredDense
  let (r0, r1, det, cv) := execResults s p i e st
  let s := if e.cvMode ≠ 0 ∧ (execOf s p q).isSome = true then rfput (CvuStatus.key false p i) CvuStatus.owner 0 s else s
  let s := dropPackets (e.posts.map (·.id) ++ (hubQOf s p q).rpc.toList ++ e.done.toList) (endAll e s)
  let k := HubQState.key p q
  let ek := EngCount.key false p cls i
  let s := rfadd ek EngCount.retired 1 s
  let s := if st = stStoredDense then rfsat ek EngCount.dense 1 s else s
  let cmd := ((hubQOf s p q).ring.head?).map (·.cmd)
  let s := dropWait (.queue p q) (putHubQ p q { hubQOf s p q with exec := none, rpc := none } s)
  let s :=
    if ok then queueAdvance p q (rfput k HubQState.state 0 s)
    else
      let s := rfput k HubQState.lastStatus st.toNat (rfput k HubQState.state 3 s)
      let s := rfput (EngStatus.key false p cls i) EngStatus.queue q
        (rfput (EngStatus.key false p cls i) EngStatus.lastStatus st.toNat (rfsat ek EngCount.held 1 s))
      if st = stAborted then s
      else report st false 1 (locUnit (logicalOf s p) p 0 0 0 0 q) (BitVec.ofNat 64 e.fail)
        (bytesLE 2 e.slot ++ bytesAt e.desc 2 2 ++ [BitVec.ofNat 8 (engineBit cls i)]) s
  match if 28 ≤ q then cmd else none with
  | some c => retireRec true c st r0 r1 det cv false s
  | none => s

/-- A descriptor that has met its end retires; a successful one with DONE_EN first advances its tally, at another hub or the
ring by a TALLY packet whose answer it waits for (R278, R315, R320). A compressing store counts one packet (R259). -/
def finishDesc (p q : Nat) (e : Exec) (st : Status) (s : State) : State :=
  if !(decide (st = stDone) || decide (st = stStoredDense)) || !natBit (numAt e.desc 1 1) 1 then retireDesc p q e st s
  else
    match e.done with
    | none =>
      (match doneSend p 64 (locUnit (logicalOf s p) p 0 0 0 0 q) (numAt e.desc 6 2)
          (if e.spfmt ≠ 0 ∨ natBit (numAt e.desc 1 1) 2 = true then 1 else e.moved) s with
        | (.ok none, s) => retireDesc p q e st s
        | (.ok (some id), s) => putExec p q { e with done := some id } s
        | (.error x, s) => retireDesc p q e x s)
    | some id =>
      match gotAnswer s id with
      | some (.negative x _) => retireDesc p q e x s
      | some _ => retireDesc p q e st s
      | none => if (svcOf s id).isSome then s else retireDesc p q e stServiceTimeout s

/-- A queue's wait on the tally of its descriptor (R276, R326, R327): reached, waiting, or the status that ends it. -/
def queueWait (p q : Nat) (d : List Byte) (s : State) : Except Status Bool × State :=
  if natBit (numAt d 1 1) 0 = false then (.ok true, s)
  else waitStep p 64 (locUnit (logicalOf s p) p 0 0 0 0 q) (numAt d 4 2)
    (BitVec.ofNat 64 (numAt d 8 8 + rf s (HubQState.key p q) HubQState.pass * rf s (HubQCfg.key p q) HubQCfg.step)) (.queue p q) s

/-- The valid entries of a hub's handle table (R200). -/
def handlesOf (s : State) (p : Nat) : List (Nat × Hdl) :=
  (List.range 4096).filterMap (fun h => if (resolveHdl s p h).valid then some (h, resolveHdl s p h) else none)

/-- Issue a descriptor (R200, R276, R300, R303): handles resolved, the unit owned, ranges posted; or what refuses it. -/
def issueDesc (p q : Nat) (e : Exec) (s : State) : State :=
  let s := cvOwn p (qIndex s p q) e (rfput (HubQState.key p q) HubQState.state 2 (dropWait (.queue p q) s))
  let e := if e.op = 0x40 then { e with hdls := handlesOf s p } else e
  match issueFault s e with
  | some (st, a) => putExec p q { e with result := some st, fail := a } s
  | none =>
    let (e, s) := cvBegin p (qIndex s p q) e s
    let (e, s) := postAll p q e s
    putExec p q e s

/-- May the queue examine descriptors (R276)? -/
def queueExamines (s : State) (p q : Nat) : Bool :=
  let h := hubQOf s p q
  h.exec.isNone && rf s (HubQState.key p q) HubQState.state != 3 && qMode s p q != 0 &&
  (if q < 28 then decide (s.mode = .running) && qMode s p q != 3 && !h.finished
    else !h.ring.isEmpty && (decide (s.mode = .loaded) || decide (s.mode = .running) || decide (s.mode = .drained) ||
      decide (s.mode = .fenced)))

/-- A queue examines the descriptor at NEXT (R276): it waits on its tally, and for a free context (R302). A descriptor
whose OP its engine does not run retires ST_DESC_INVALID. -/
def examineQueue (p q : Nat) (s : State) : State :=
  if !queueExamines s p q then s
  else
    let s := match (hubQOf s p q).ring.head? with
      | some r => if 28 ≤ q then rfput (HubQState.key p q) HubQState.next r.slot s else s
      | none => s
    let e := execAt s p (rf s (HubQState.key p q) HubQState.next)
    let cls := qClass s p q
    match queueWait p q e.desc s with
    | (.error st, s) => retireDesc p q e st s
    | (.ok false, s) => rfput (HubQState.key p q) HubQState.state 1 s
    | (.ok true, s) =>
      if cls < 3 ∨ 7 < cls ∨ engineCount cls ≤ qIndex s p q then s
      else if !freeContext s p cls (qIndex s p q) (e.cvMode ≠ 0) then rfput (HubQState.key p q) HubQState.state 1 s
      else if opClass e.op ≠ cls ∨ (descFormatBad e.desc = false ∧ descOk e.desc = false) then
        retireDesc p q e stDescInvalid s
      else issueDesc p q e s

/-- Have the posts of a descriptor been acknowledged (R180), or the status that ends it? -/
def postsReady (s : State) (e : Exec) : Except Status Bool :=
  e.posts.foldl (fun acc x =>
    match acc with
    | .error st => .error st
    | .ok b =>
      match gotAnswer s x.id with
      | some (.negative st _) => .error st
      | some _ => .ok b
      | none => if (svcOf s x.id).isSome then .ok false else .error stServiceTimeout) (.ok true)

/-- The end of a descriptor's data (R283, R305): a verify that differs is ST_CHECK_MISMATCH. Its posts end (R181). -/
def finishExec (p q : Nat) (e : Exec) (st : Status) (s : State) : State :=
  let bad : Bool := e.cvMode = 2 && cvuR s false p (qIndex s p q) != BitVec.ofNat 64 (numAt e.desc 56 8)
  endAll e (putExec p q { e with result := some (if bad then stCheckMismatch else st) } s)

/-- Write what has been read (R263, R266, R282): the bytes go to the handle, the tap or nowhere, and feed the check. A vector of
fewer than 64 bytes that goes to a tap is filled up with zeros (DESIGN CHOICE, log entry 103). -/
def writeOut (p q : Nat) (e : Exec) (off : Nat) (bs : List Byte) (s : State) : UnitRes × State :=
  let done (s : State) : UnitRes × State :=
    (.got { e with out := e.out.drop 1, moved := e.moved + (if e.dstSel = 2 then 0 else bs.length) } [],
      if e.cvMode = 0 then s else cvuFeed false p (qIndex s p q) bs s)
  if e.dstSel = 2 then done s
  else if e.dstSel = 1 then
    let t := natBits (numAt e.desc 18 2) 11 0
    if !tapTurn s p true t e.order ∨ 16 ≤ (tapOf s p t).tx.length then (.tapWait, s)
    else
      let tag : Option Byte := if e.op = 1 ∧ natBit (numAt e.desc 20 1) 5 = true then some (BitVec.ofNat 8 (numAt e.desc 26 1))
        else none
      done (putTap p t { tapOf s p t with tx := (tapOf s p t).tx ++ [(tag, ofVecBytes (bytesAt bs 0 64))] } s)
  else
    match engWrite p q (e.dst.addr + off) e.dstForm bs s with
    | (.done _, s) => done s
    | (.wait, s) => waitOn p (e.dst.addr + off) bs.length true s
    | (.refuse st, s) => (.bad st (e.dst.addr + off), s)

/-- Does the destination of a COPY lie in another stand? -/
def copyAway (s : State) (p : Nat) (e : Exec) : Bool :=
  e.dstSel = 0 && awayFrom p (placeOf s (e.dst.addr + (copyAt e).2) 64)

/-- A burst that has been read leaves in a WRITE packet for a destination in another stand, and feeds the check (R265, R304). -/
def copySend (p q : Nat) (e : Exec) (off : Nat) (bs : List Byte) (s : State) : UnitRes × State :=
  let s := (engWrite p q (e.dst.addr + off) e.dstForm bs s).2
  (.got { e with sent := some bs.length } [], if e.cvMode = 0 then s else cvuFeed false p (qIndex s p q) bs s)

/-- The WRITE packet of a burst is answered, or its answer is awaited (R230, R265). -/
def copySent (p q n : Nat) (e : Exec) (s : State) : UnitRes × State :=
  let at' := e.dst.addr + (copyAt e).2
  match (hubQOf s p q).rpc with
  | none => (.got { e with sent := none, pos := e.pos + 1, moved := e.moved + n } [], s)
  | some id =>
    match rpcAnswer p q 0 id s with
    | (.done _, s) => (.got { e with sent := none, pos := e.pos + 1, moved := e.moved + n } [], s)
    | (.wait, s) => (.tapWait, s)
    | (.refuse st, s) => (.bad st at', s)

/-- A burst of a COPY passes from its source to its destination without being held (R263): where the destination cannot take it,
nothing is read, though a merge that it stops at is recorded (R572), and the answer of a source in another stand stays with the
hub's router. For a destination in another stand the
packet holds it (R265). -/
def copyBurst (p q : Nat) (e : Exec) (s : State) : UnitRes × State :=
  match e.sent with
  | some n => copySent p q n e s
  | none =>
    match copyUnit p q e s with
    | (.got f ((off, bs) :: r), s1) =>
      if copyAway s p e then copySend p q e off bs s1
      else
        (match writeOut p q { f with out := (off, bs) :: r } off bs s1 with
          | (.got g out, s2) => (.got g out, s2)
          | (.bad st a, s2) => (.bad st a, s2)
          | (u, _) => (u, (writeOut p q f off bs s).2))
    | r => r

/-- What a descriptor does next: it writes what has been read, or takes its next unit. A tap serves it in its turn (R266). -/
def unitOf (p q : Nat) (e : Exec) (s : State) : UnitRes × State :=
  match e.out with
  | (off, bs) :: _ => writeOut p q e off bs s
  | [] =>
    if e.dstSel = 1 ∧ tapTurn s p true (natBits (numAt e.desc 18 2) 11 0) e.order = false then (.tapWait, s)
    else if e.op = 1 ∧ e.spfmt = 0 then copyBurst p q e s
    else nextUnit p q e s

/-- One unit of an executing descriptor (R180, R263, R272): whether another may follow at once. -/
def engineStep (p q : Nat) (s : State) : Bool × State :=
  match execOf s p q with
  | none => (false, s)
  | some e =>
    if e.result.isSome then (false, s)
    else
      match postsReady s e with
      | .error st => (false, endAll e (putExec p q { e with result := some st, fail := e.dst.addr } s))
      | .ok false => (false, s)
      | .ok true =>
        if e.stuckAt.any (fun (a, n, w) => stillStuck s a n w) then (false, s)
        else
          match unitOf p q { e with stuckAt := none } s with
          | (.got f out, s) =>
            let (f, s) := endSides { f with out := f.out ++ out } s
            (true, putExec p q f s)
          | (.fin st, s) => (false, finishExec p q e st s)
          | (.bad st a, s) => (false, endAll e (putExec p q { e with result := some st, fail := a } s))
          | (.tapWait, s) => (false, putExec p q { e with stuckAt := none } s)
          | (.wait a k w, s) => (false, putExec p q { e with stuckAt := if stillStuck s a k w then some (a, k, w) else none } s)

/-- Run a descriptor until it waits or ends, in at most `n` units. -/
def runExec (p q : Nat) : Nat → State → State
  | 0, s => s
  | n + 1, s =>
    match engineStep p q s with
    | (true, s) => runExec p q n s
    | (false, s) => s

/-- Units enough for the whole of a descriptor: one for each slot it reads or writes. -/
def execFuel (e : Exec) : Nat :=
  let d := e.desc
  let n :=
    if e.op = 1 then
      (if e.spfmt = 0 then (numAt d 22 2 + 1) * (numAt d 28 4 / 64)
        else 64 + (numAt d 22 2 + 1) * (natBits (numAt d 24 2) 9 0 + 1) * denseBlockBytes (numAt d 21 1) / 64)
    else if e.op = 0x10 ∨ e.op = 0x11 then numAt d 28 4 * (numAt d 24 4 / 64 + 1)
    else if e.op = 0x20 then numAt d 24 4 / 16
    else if e.op = 0x30 then (numAt d 56 4 + 1) * (1 + numAt d 28 4 * (numAt d 24 4 / 16 + 1))
    else (numAt d 22 1 + 1) * (numAt d 28 4 / 16 + 1)
  4 * n + 32

/-- Has a stand a lap position (R451)? -/
def hasLap (s : State) (p : Nat) : Bool := decide (s.mode = .running) && decide (roleOf s p = 1) && (standOf s p).started

/-- The hub cycles of a 2 µs window (R431, R447). -/
def windowCycles (s : State) (p : Nat) : Nat :=
  rf s ClkSlotStatus.key ClkSlotStatus.currentKhz * 2 / 1000 / max 1 (rf s (ClkDiv.key p) ClkDiv.hubDiv)

/-- Do the engines of a stand issue no new burst (R451): in an idle lap; or without a lap position in the first TL/256
of a window (DESIGN CHOICE, log entry 101)? -/
def throttled (s : State) (p : Nat) : Bool :=
  if hasLap s p then (standOf s p).idleSlot
  else decide (256 * ((s.power.window.find? (fun x => x.1 = p)).map (·.2)).getD 0 <
    rf s (PwrStandCount.key p) PwrStandCount.tl * windowCycles s p)

/-- A hub cycle of a stand passes in its window. -/
def windowStep (p : Nat) (s : State) : State :=
  let n := ((s.power.window.find? (fun x => x.1 = p)).map (·.2)).getD 0
  { s with power := { s.power with window := (p, n + 1) :: s.power.window.filter (fun x => x.1 ≠ p) } }

/-- An engine works on the executing descriptor of a queue until it waits or ends: the row of its operation (R282, R285, R286,
R288, R289, R291). No row of another operation moves it. HUB_CYCLE gives the bursts of several in their turns. -/
def doEngine (op p q : Nat) (s : State) : State :=
  match execOf s p q with
  | none => s
  | some e => if e.op ≠ op ∨ throttled s p = true then s else runExec p q (execFuel e) s

def execCopy (phys : BitVec 6) (queue : BitVec 6) (s : State) : Host.Outcome State Fault Refusal :=
  .next (doEngine 0x01 phys.toNat queue.toNat s)
def execGatherRows (phys : BitVec 6) (queue : BitVec 6) (s : State) : Host.Outcome State Fault Refusal :=
  .next (doEngine 0x10 phys.toNat queue.toNat s)
def execGatherPages (phys : BitVec 6) (queue : BitVec 6) (s : State) : Host.Outcome State Fault Refusal :=
  .next (doEngine 0x11 phys.toNat queue.toNat s)
def execSample (phys : BitVec 6) (queue : BitVec 6) (s : State) : Host.Outcome State Fault Refusal :=
  .next (doEngine 0x20 phys.toNat queue.toNat s)
def execTranspose (phys : BitVec 6) (queue : BitVec 6) (s : State) : Host.Outcome State Fault Refusal :=
  .next (doEngine 0x30 phys.toNat queue.toNat s)
def execReduce (phys : BitVec 6) (queue : BitVec 6) (s : State) : Host.Outcome State Fault Refusal :=
  .next (doEngine 0x40 phys.toNat queue.toNat s)

/-- The target port of an access in its hub (R264): slices 0 to 63, the patch routers from 64, the service agent 136.
Only memory arrays have ports on the patch path (R31): core memory is reached over the service mesh (R166). -/
def portOfPlace (p : Nat) (pl : Place) : Nat :=
  match pl with
  | .dram r sl _ => if r = p then sl else 136
  | .sram r a _ => if r = p ∧ isMemIdx a = true then 64 + patchRouter a else 136
  | .bad _ => 136

/-- The target of a descriptor's destination: the taps lie from 128. -/
def dstPort (s : State) (p : Nat) (e : Exec) (off : Nat) : Option Nat :=
  if e.dstSel = 2 then none
  else if e.dstSel = 1 then some (128 + natBits (numAt e.desc 18 2) 11 0)
  else some (portOfPlace p (placeOf s (e.dst.addr + off) 1))

/-- The device address that an operation reads next; none where it reads nothing. -/
def nextRead (e : Exec) : Option Nat :=
  let d := e.desc
  let whole (xs : List (Nat × Nat)) : Option Nat := (xs.drop e.workAt).head?.map (·.1)
  if e.op = 1 then
    (if e.spfmt = 0 then some (e.src.addr + (copyAt e).1)
      else if e.pos = 2 then none else some (e.src.addr + numAt d 32 6 + 64 * e.workAt))
  else if e.op = 0x10 then
    let spr := max 1 (numAt d 24 4 / 64)
    let row := e.pos / spr
    let v := natSigned 32 (numAt e.buf (4 * row % 64) 4)
    if numAt d 28 4 ≤ row then none
    else if e.bufAt ≠ 4 * row / 64 + 1 then some (e.aux.addr + numAt d 48 4 + 64 * (4 * row / 64))
    else if v < 0 then none
    else some (e.src.addr + numAt d 32 6 + v.toNat * numAt d 52 4 + 64 * (e.pos % spr))
  else if e.op = 0x11 then
    let bpp := numAt d 24 4
    let i := e.pos * 64 / bpp
    let j := (numAt d 48 4 + i) * bpp / 65536
    if numAt d 28 4 ≤ i then none
    else if e.bufAt ≠ j * 8 / 64 + 1 then some (e.src.addr + numAt d 32 6 + 64 * (j * 8 / 64))
    else some (natBits (numAt e.buf (8 * j % 64) 8) 47 16 * 65536 + (numAt d 48 4 + i) * bpp % 65536 + e.pos * 64 % bpp)
  else if e.op = 0x20 then
    (if e.pos ≠ 0 then none else some (e.src.addr + numAt d 56 4 + 64 * e.workAt))
  else if e.op = 0x30 then
    let rb := numAt d 28 4 * (4 * 2 ^ numAt d 20 1) / 8
    if numAt d 56 4 < e.pos then none
    else whole ((List.range (numAt d 24 4)).flatMap (fun r =>
      slotsOf (e.src.addr + numAt d 32 6 + (e.pos * numAt d 24 4 + r) * numAt d 48 4) rb))
  else if e.pos = 0 then some (e.src.addr + numAt d 32 6 + 64 * e.workAt)
  else if e.pos = 1 then whole (partialSlots e) else none

/-- The target that a descriptor's next burst asks for (R264): where it reads from, or where it writes what it has or
makes; none where it needs no port. -/
def targetOf (s : State) (p : Nat) (e : Exec) : Option Nat :=
  match e.out with
  | (off, _) :: _ => dstPort s p e off
  | [] =>
    if e.op = 1 ∧ e.srcSel = 1 then some (128 + natBits (numAt e.desc 16 2) 11 0)
    else if e.op = 1 ∧ e.srcSel = 2 then dstPort s p e (copyAt e).2
    else (nextRead e).map (fun a => portOfPlace p (placeOf s a 1))

/-- The ports that a descriptor's next burst needs (R261, R264): a burst of a COPY passes from its source to its destination and
needs both at once (R263); while a packet of it is not answered it needs none. -/
def portsOf (s : State) (p q : Nat) (e : Exec) : List Nat :=
  if e.sent.isSome ∨ (hubQOf s p q).rpc.isSome = true then []
  else if e.op = 1 ∧ e.spfmt = 0 then ((targetOf s p e).toList ++ (dstPort s p e (copyAt e).2).toList).dedup
  else (targetOf s p e).toList

/-- The executing descriptors of a hub that have not met their end, with their engines' places in the requester order and the
ports that their next bursts need. -/
def requests (s : State) (p : Nat) : List (Nat × Nat × List Nat) :=
  (List.range 32).filterMap (fun q => (execOf s p q).bind (fun e =>
    if e.result.isSome then none else some (q, engineBit (qClass s p q) (qIndex s p q), portsOf s p q e)))

/-- The requesters of a hub (R264): the engines, BLZ, PCR, the service agent and the eight mesh ports. -/
def requesters : Nat := 26

def zeroDflt (_ : Nat) : Nat := 0

/-- The round-robin pointer of a target port, and the queue an engine served last (R264, R276). -/
def xbarOf (s : State) (p t : Nat) : Nat := smapGet zeroDflt s.xbar (p * 256 + t)
def turnOf (s : State) (p b : Nat) : Nat := smapGet zeroDflt s.turns (p * 32 + b)

/-- The first of some numbers at or after a place in a circle of `n`. -/
def roundRobin (n start : Nat) (xs : List Nat) : Option Nat :=
  ((List.range n).map (fun i => (start + i) % n)).find? (fun x => xs.contains x)

/-- The memory arrays of the stand that a descriptor's next unit reaches over the patch path (R167, R261). -/
def patchArrays (s : State) (p : Nat) (e : Exec) : List Nat :=
  let arr (a : Nat) : List Nat := match placeOf s a 1 with
    | .sram r x _ => if r = p ∧ isMemIdx x = true then [x] else []
    | _ => []
  let dst (off : Nat) : List Nat := if e.dstSel = 0 then arr (e.dst.addr + off) else []
  match e.out with
  | (off, _) :: _ => dst off
  | [] => (if e.op = 1 ∧ e.srcSel ≠ 0 then [] else ((nextRead e).map arr).getD []) ++
      (if e.op = 1 ∧ e.spfmt = 0 then dst (copyAt e).2 else [])

/-- The most units that a burst has over some ports (R261): 256 bytes, but one vector over a mesh port. -/
def burstUnits (ts : List Nat) : Nat := if ts.any (fun t => 128 ≤ t && t < 136) then 1 else 4

/-- A burst over some ports (R261, R264, R276): the units of one descriptor while they need those ports, with at most one access
to each memory array. -/
def burst (p q : Nat) (ts : List Nat) : Nat → List Nat → State → State
  | 0, _, s => s
  | n + 1, seen, s =>
    match execOf s p q with
    | none => s
    | some e =>
      let here := patchArrays s p e
      if e.result.isNone && decide (portsOf s p q e = ts) && here.all (fun a => !seen.contains a) then
        (match engineStep p q s with
          | (true, s) => burst p q ts n (seen ++ here) s
          | (false, s) => s)
      else s

/-- A target that no burst of the cycle has taken grants one (R264): round robin among the requesters whose other port
is free too (DESIGN CHOICE, log entry 104), and within an engine among its descriptors (R276). The pointer of each port
that the burst takes moves past the winner. -/
def grant (p : Nat) (rs : List (Nat × Nat × List Nat)) (t : Nat) (x : List Nat × State) : List Nat × State :=
  let (taken, s) := x
  let mine := rs.filter (fun r => r.2.2.contains t && r.2.2.all (fun u => !taken.contains u))
  match roundRobin requesters (xbarOf s p t) (mine.map (·.2.1)) with
  | none => (taken, s)
  | some b =>
    match (roundRobin 32 ((turnOf s p b + 1) % 32) ((mine.filter (fun r => r.2.1 = b)).map (·.1))).bind
        (fun q => mine.find? (fun r => r.1 = q)) with
    | none => (taken, s)
    | some (q, _, ts) =>
      let s := ts.foldl (fun s u => { s with xbar := smapSet zeroDflt s.xbar (p * 256 + u) ((b + 1) % requesters) }) s
      (taken ++ ts, burst p q ts (burstUnits ts) [] { s with turns := smapSet zeroDflt s.turns (p * 32 + b) q })

/-- The bursts of a hub cycle (R264): what needs no port goes on, then each target grants one burst. -/
def grants (p : Nat) (s : State) : State :=
  let rs := requests s p
  let s := (rs.filter (fun r => r.2.2.isEmpty)).foldl (fun s r => (engineStep p r.1 s).2) s
  ((((rs.flatMap (·.2.2)).mergeSort (fun a b => decide (a ≤ b))).dedup).foldl (fun x t => grant p rs t x) ([], s)).2

/-- HUB_CYCLE (R264, R276): the executing descriptors' bursts are granted, save where the throttle holds them (R451), and the
queues examine in ascending order. -/
def doHubCycle (p : Nat) (s : State) : State :=
  if roleOf s p ≠ 1 then s
  else windowStep p ((List.range 32).foldl (fun s q => examineQueue p q s) (if throttled s p then s else grants p s))

def execHubCycle (phys : BitVec 6) (s : State) : Host.Outcome State Fault Refusal := .next (doHubCycle phys.toNat s)

/-- DESCRIPTOR_RETIRE (R278): a descriptor retires with the end its engine found, once its DONE increment has been taken. With
another status the event is not so (log entry 71). -/
def doDescriptorRetire (p q : Nat) (status : Status) (s : State) : State :=
  match execOf s p q with
  | none => s
  | some e =>
    match e.result with
    | some r => if r = status then finishDesc p q e r s else s
    | none => s

def execDescriptorRetire (phys : BitVec 6) (queue : BitVec 6) (status : Status) (s : State) : Host.Outcome State Fault Refusal :=
  .next (doDescriptorRetire phys.toNat queue.toNat status s)

/-- A refresh with its scrub of the next 64-byte location (R270, R271, R272, R274); a slice under test is not scrubbed
(R477, R479). -/
def doRefresh (p sl waiting : Nat) (s : State) : State :=
  if isPhys p = false then s
  else
    let s := rfsat (DslCount.key p sl) DslCount.waitCycles waiting (rfadd (DslCount.key p sl) DslCount.refreshes 1 s)
    let k := DslScrub.key p sl
    let pos := rf s k DslScrub.position
    if rf s (DslStatus.key p sl) DslStatus.state = 2 then s
    else
      let s := (List.range 8).foldl (fun s i =>
        let key := dramKey p sl (64 * pos + 8 * i)
        match readWord s key with
        | some (_, false) => s
        | some (w, true) => rfsat (DslEcc.key p sl) DslEcc.corrected 1 (writeRaw key (bytesLE 8 w.toNat) s)
        | none => dramUncorrectable p sl (64 * pos + 8 * i) s) s
      if pos + 1 = 10485760 then rfsat k DslScrub.passes 1 (rfput k DslScrub.position 0 s)
      else rfput k DslScrub.position (pos + 1) s

def execDramRefresh (phys : BitVec 6) (slice : BitVec 6) (burstsWaiting : BitVec 16) (s : State) :
    Host.Outcome State Fault Refusal := .next (doRefresh phys.toNat slice.toNat burstsWaiting.toNat s)

/-- Stop a queue's descriptor by ABORT or a stop of the module (R360): one that has met its end keeps it, and one that a ring
processor has posted and that is not yet examined ends too. A held queue's has retired. True when it ended aborted. -/
def abortQueue (p q : Nat) (st : Status) (s : State) : Bool × State :=
  match execOf s p q with
  | some e =>
    (match e.result with
      | some r =>
        if r = stDone ∨ r = stStoredDense then (false, finishDesc p q e r s) else (true, retireDesc p q e st s)
      | none => (true, retireDesc p q e st s))
  | none =>
    if rf s (HubQState.key p q) HubQState.state = 3 then (false, s)
    else
      match if 28 ≤ q then (hubQOf s p q).ring.head? else none with
      | some r => (true, retireDesc p q (execAt s p r.slot) st s)
      | none =>
        if rf s (HubQState.key p q) HubQState.state = 1 then
          (true, retireDesc p q (execAt s p (rf s (HubQState.key p q) HubQState.next)) st s)
        else (false, s)

/-- The bytes of a DMA_STAND as a descriptor (R353): OP 0x01, FLAGS[4:3] cleared, byte 27 zero. -/
def standDesc64 (c : Cmd) : List Byte :=
  let hdr : List Byte := [1, c.flags &&& 0xE7] ++ bytesLE 2 c.cmdId.toNat ++ bytesLE 2 c.waitTally.toNat ++
    bytesLE 2 c.doneTally.toNat ++ bytesLE 8 c.waitTarget.toNat
  (hdr ++ bytesLE 48 c.body.toNat).set 27 0

/-- A ring processor posts a descriptor to a ring queue (R279, R353): true when it is posted, else the refusal. -/
def postDesc (c : Cmd) (port : Nat) (s : State) : Status × State :=
  let lg := c.num 27 1
  if 55 < lg then (stAddrReserved, s)
  else
    match inService s lg with
    | none => (stStandFenced, s)
    | some p =>
      let q := 28 + port
      let d := standDesc64 c
      if descFormatBad d then (stFmtReserved, s)
      else if !descOk d || !descExpectOk d (rf s (CvuCfg.key false p (qIndex s p q)) CvuCfg.psel) then (stDescInvalid, s)
      else
        let cfg := rg s (HubQCfg.key p q)
        let first := fldGet HubQCfg.first cfg
        let size := fldGet HubQCfg.last cfg + 1 - first
        let h := hubQOf s p q
        if size ≤ h.ring.length then (stQueueFull, s)
        else
          let nx := rf s (HubQState.key p q) HubQState.next
          let nx := if first ≤ nx ∧ nx < first + size then nx else first
          let slot := match h.ring.getLast? with
            | some r => if r.slot + 1 < first + size then r.slot + 1 else first
            | none => nx
          if h.ring.any (fun r => r.slot = slot) then (stQueueFull, s)
          else (stDone, putDesc p (64 * slot) d (putHubQ p q { h with ring := h.ring ++ [⟨slot, c⟩] } s))

/-- DMA_STAND (R350, R353): posted to the stand's ring queue, where it waits, executes and retires. -/
def doDmaStand (c : Cmd) (s : State) : State :=
  if heldBack s 0x11 c then noteFlight c s
  else if issued s c then s
  else
    match c.issuer with
    | .mgmt _ _ => refuse c stRoleDenied 0 s
    | .host port _ =>
      if decide (s.mode = .none) || decide (s.mode = .idle) then refuse c stBadState 0 s
      else
        match postDesc c port.toNat s with
        | (st, s) => if st = stDone then noteFlight c s else refuse c st 0 s

def execDmaStand (c : Cmd) (s : State) : Host.Outcome State Fault Refusal := .next (doDmaStand c s)

/-- A queue leaves HELD (R517): the descriptor is issued again, passed over, or the queue is switched off. -/
def releaseQueue (p q action : Nat) (s : State) : State :=
  let k := HubQState.key p q
  let s := rfput k HubQState.lastStatus 0 (rfput k HubQState.state 0 s)
  if action = 0 then s
  else if action = 1 then queueAdvance p q s
  else rfput (HubQCfg.key p q) HubQCfg.mode 0 s

/-- RELEASE (R517). -/
def doRelease (c : Cmd) (s : State) : State :=
  let lg := c.num 16 1
  let q := c.num 17 1
  let action := c.num 18 1
  issueVerb 0x0B c (c.zero 19 45 && decide (action ≤ 2 ∧ q ≤ 31 ∧ ¬(action = 2 ∧ 28 ≤ q))) (fun s =>
    let other : Bool := match c.issuer with
      | .host p _ => decide (28 ≤ q) && q != 28 + p.toNat
      | .mgmt _ _ => false
    if 55 < lg then refuse c stAddrReserved locNone s
    else if other then refuse c stRoleDenied locNone s
    else
      match inService s lg with
      | none => refuse c stStandFenced (locUnit lg ((physOf s lg).getD 0) 0 0 0 0 0) s
      | some p =>
        if rf s (HubQState.key p q) HubQState.state ≠ 3 then refuse c stBadState (locUnit lg p 0 0 0 0 q) s
        else retireVerb c stDone 0 0 (releaseQueue p q action s)) s

def execRelease (c : Cmd) (s : State) : Host.Outcome State Fault Refusal := .next (doRelease c s)

end Sys2Proof.Machine
end

