-- ==== Sys2Proof/Machine/Host.lean ====
section
/-!
DEFINITION. The rings of a port (R339, R344 to R349): doorbells, fetch and round robin, completion records, ENABLE, and
what a link that goes down ends (R349, R364, R553, R554).
-/

namespace Sys2Proof.Machine

/-- The entries of a command ring and its completion ring (R347, R372). -/
def crEntries (s : State) (p r : Nat) : Nat := ringEntries (rg s (crCfgKey p r))

/-- STATE of a command ring (R349, R373): DISABLING ends when no command is in flight and no record waits. -/
def crState (q : CRing) : Nat := if q.state = 2 ∧ q.flight.isEmpty = true ∧ q.done.isEmpty = true then 0 else q.state

/-- COMMAND_RING_DOORBELL (R339). -/
def doCmdDoorbell (p r v : Nat) (s : State) : State :=
  if crEntries s p r ≤ v then countErr stDescInvalid (1 + p) 0 0 s
  else if crState (ringOf s p r) = 0 then countErr stBadState (1 + p) 0 0 s
  else putRing p r { ringOf s p r with tail := v } s

def execCommandRingDoorbell (port : BitVec 2) (ring : BitVec 6) (value : BitVec 16) (s : State) :
    Host.Outcome State Fault Refusal := .next (doCmdDoorbell port.toNat ring.toNat value.toNat s)

/-- COMPLETION_RING_DOORBELL (R339, R347): the slots up to the new HEAD are free. -/
def doCplDoorbell (p r v : Nat) (s : State) : State :=
  let n := crEntries s p r
  let q := ringOf s p r
  if n ≤ v then countErr stDescInvalid (1 + p) 0 0 s
  else if crState q = 0 then countErr stBadState (1 + p) 0 0 s
  else putRing p r { q with ccHead := v, ccUsed := q.ccUsed - (v + n - q.ccHead) % n } s

def execCompletionRingDoorbell (port : BitVec 2) (ring : BitVec 6) (value : BitVec 16) (s : State) :
    Host.Outcome State Fault Refusal := .next (doCplDoorbell port.toNat ring.toNat value.toNat s)

/-- EVENT_RING_DOORBELL (R339, R348). -/
def doEvDoorbell (p v : Nat) (s : State) : State :=
  let cfg := rg s (evqCfgKey p)
  let n := ringEntries cfg
  let q := portOf s p
  if n ≤ v then countErr stDescInvalid (1 + p) 0 0 s
  else if fldGet RingCfg.enable cfg = 0 then countErr stBadState (1 + p) 0 0 s
  else putPort p { q with evq := { q.evq with head := v, used := q.evq.used - (v + n - q.evq.head) % n } } s

def execEventRingDoorbell (port : BitVec 2) (value : BitVec 16) (s : State) : Host.Outcome State Fault Refusal :=
  .next (doEvDoorbell port.toNat value.toNat s)

/-- Does a Ranger run: firmware verified (R27) and not halted by the debug port (R540)? -/
def rangerRuns (s : State) (r : Nat) : Bool := fwVerified s && !s.dbg.halted.contains r

/-- May a command be fetched from a ring (R344, R347, R349)? -/
def fetchable (s : State) (p r : Nat) : Bool :=
  let q := ringOf s p r
  q.state = 1 && q.sqHead != q.tail && decide (q.ccUsed + q.done.length < crEntries s p r)

/-- The command that the 64 bytes of a ring entry spell (R346). -/
def cmdOf (who : Issuer) (slot : Nat) (e : BitVec 512) : Cmd :=
  let b := vecBytes e
  ⟨who, BitVec.ofNat 16 slot, BitVec.ofNat 8 (numAt b 1 1), BitVec.ofNat 16 (numAt b 2 2), BitVec.ofNat 16 (numAt b 4 2),
    BitVec.ofNat 16 (numAt b 6 2), BitVec.ofNat 64 (numAt b 8 8), (e >>> 128).setWidth 384⟩

/-- A verb code that the table of R350 and R528 does not list. -/
def reservedVerb (v : Nat) : Bool :=
  !((1 ≤ v && v ≤ 0x0E) || (0x10 ≤ v && v ≤ 0x12) || (0x20 ≤ v && v ≤ 0x23) || (0x28 ≤ v && v ≤ 0x2C))

/-- The commands of a reserved code retire where a command would issue (R345, R350, R528): in ring order, after the waits of
their headers. -/
def settleReserved (p r : Nat) (s : State) : State :=
  (ringOf s p r).reserved.foldl (fun s (c, st) =>
    let code := if st = stRoleDenied then 0x2F else 0
    if heldBack s code c then s
    else
      match cmdWait c s with
      | (.ok false, s) => s
      | (.error e, s) => retireCmd c e 0 0 locNone false false s
      | (.ok true, s) => retireCmd c st 0 0 locNone false false s) s

/-- COMMAND_FETCH (R27, R345, R346, R360): round robin among the rings that may be fetched. A slot whose command an ABORT
has ended is passed over; a reserved code issues in its turn only to be refused (R350, R528). -/
def doFetch (p : Nat) (entry : BitVec 512) (s : State) : State :=
  let port := portOf s p
  if !rangerRuns s p || !port.linkUp then s
  else
    match ((List.range 64).map (fun i => (port.turn + i) % 64)).find? (fetchable s p) with
    | none => s
    | some r =>
      let q := ringOf s p r
      let s := putPort p { port with turn := (r + 1) % 64 } s
      let nx := (q.sqHead + 1) % crEntries s p r
      if q.skip.contains q.sqHead then putRing p r { q with sqHead := nx, skip := q.skip.filter (· ≠ q.sqHead) } s
      else
        let c := cmdOf (.host (BitVec.ofNat 2 p) (BitVec.ofNat 6 r)) q.sqHead entry
        let v := numAt (vecBytes entry) 0 1
        let s := putRing p r { q with sqHead := nx, flight := q.flight ++ [c] } s
        if reservedVerb v then
          let st := if 0x20 ≤ v ∧ v ≤ 0x2F then stRoleDenied else stDescInvalid
          settleReserved p r (putRing p r { ringOf s p r with reserved := (ringOf s p r).reserved ++ [(c, st)] } s)
        else if arbitrated v then { s with fetchOrder := s.fetchOrder ++ [c] }
        else s

def execCommandFetch (port : BitVec 2) (entry : BitVec 512) (s : State) : Host.Outcome State Fault Refusal :=
  .next (doFetch port.toNat entry s)

/-- The 32 bytes of a completion record (R347). -/
def recordBytes (r : Retired) (sqHead ring : Nat) (phase : Bool) : List Byte :=
  bytesLE 2 r.cmdId.toNat ++ bytesLE 2 r.status.toNat ++ bytesLE 2 sqHead ++
  [BitVec.ofNat 8 ring, BitVec.ofNat 8 ((if phase then 1 else 0) + (if r.nonrepeat then 2 else 0) + (if r.cv then 4 else 0))] ++
  bytesLE 8 r.result0.toNat ++ bytesLE 8 r.result1.toNat ++ bytesLE 8 r.detail.toNat

/-- COMMAND_RETIRE (R336, R347, R349): the first record that waits is written where a slot is free, PHASE inverting at
each wrap; a record is discarded while the link is down. -/
def doRetire (p r : Nat) (s : State) : State :=
  let s := settleReserved p r s
  let q := ringOf s p r
  let n := crEntries s p r
  match q.done with
  | [] => s
  | d :: ds =>
    if !(portOf s p).linkUp then discardRec d (putRing p r { q with done := ds } s)
    else if n ≤ q.ccUsed then s
    else
      let nx := (q.ccPos + 1) % n
      let s := hostWrite (ringAddr (rg s (ccBaseKey p r)) + 32 * q.ccPos) (recordBytes d q.sqHead r q.phase) s
      let s := putRing p r { q with done := ds, ccPos := nx, ccUsed := q.ccUsed + 1, phase := if nx = 0 then !q.phase else q.phase } s
      if d.irq && fldGet RingCfg.irqEn (rg s (crCfgKey p r)) = 1 then raiseIrq p r s else s

def execCommandRetire (port : BitVec 2) (ring : BitVec 6) (s : State) : Host.Outcome State Fault Refusal :=
  .next (doRetire port.toNat ring.toNat s)

/-- What a write to a ring's configuration register asks (R349, R372): LOG2_ENTRIES may change only while ENABLE is 0. -/
inductive RingWrite where
  | bad
  | enable
  | disable
  | keep
  deriving DecidableEq, Repr

def ringWrite (old new : Word) : RingWrite :=
  let on := fldGet RingCfg.enable old = 1
  if on ∧ fldGet RingCfg.log2Entries old ≠ fldGet RingCfg.log2Entries new then .bad
  else if ¬on ∧ fldGet RingCfg.enable new = 1 then .enable
  else if on ∧ fldGet RingCfg.enable new = 0 then .disable
  else .keep

/-- A write to IOR_CR_CFG_r (R349). -/
def doCrCfg (via : Via) (p r : Nat) (v : Word) (s : State) : Status × State :=
  let k := crCfgKey p r
  viaWrite via k (fun s =>
    let q := ringOf s p r
    match ringWrite (rg s k) v with
    | .bad => (stBadState, s)
    | .enable => (stDone, putRing p r { q with state := 1, sqHead := 0, tail := 0, ccPos := 0, ccHead := 0, ccUsed := 0, phase := true, skip := [] }
        (plainWrite k v s))
    | .disable => (stDone, putRing p r { q with state := 2 } (plainWrite k v s))
    | .keep => (stDone, plainWrite k v s)) s

/-- RING_ENABLE (R349): the configuration with ENABLE set. -/
def execRingEnable (port : BitVec 2) (ring : BitVec 6) (cfg : Word) (s : State) : Host.Outcome State Fault Refusal :=
  .next (doCrCfg (.host port) port.toNat ring.toNat (fldSet RingCfg.enable cfg 1) s).2

/-- RING_DISABLE (R349): ENABLE cleared, the other fields as they stand. -/
def execRingDisable (port : BitVec 2) (ring : BitVec 6) (s : State) : Host.Outcome State Fault Refusal :=
  .next (doCrCfg (.host port) port.toNat ring.toNat (fldSet RingCfg.enable (rg s (crCfgKey port.toNat ring.toNat)) 0) s).2

/-- A write to IOR_EVQ_CFG (R348, R349). -/
def doEvqCfg (via : Via) (p : Nat) (v : Word) (s : State) : Status × State :=
  let k := evqCfgKey p
  viaWrite via k (fun s =>
    match ringWrite (rg s k) v with
    | .bad => (stBadState, s)
    | .enable => (stDone, putPort p { portOf s p with evq := .init } (plainWrite k v s))
    | _ => (stDone, plainWrite k v s)) s

/-- A write to a ring's base register (R349, R371): only while ENABLE, in the register of the given address, is 0. -/
def doRingBase (via : Via) (k cfg : Nat) (v : Word) (s : State) : Status × State :=
  viaWrite via k (fun s =>
    if fldGet RingCfg.enable (rg s cfg) = 1 then (stBadState, s) else (stDone, plainWrite k v s)) s

/-- Every command ring of a port begins DISABLING, and its records are discarded (R349). -/
def ringsDown (p : Nat) (s : State) : State :=
  (List.range 64).foldl (fun s r =>
    let q := ringOf s p r
    let s := rfput (crCfgKey p r) RingCfg.enable 0 s
    q.done.foldl (fun s d => discardRec d s) (putRing p r { q with state := if q.state = 1 then 2 else q.state, done := [] } s)) s

/-- A Gulem ring of a port. -/
def gringDflt (_ : Nat) : GRing := .init
def gringOf (s : State) (p q : Nat) : GRing := smapGet gringDflt s.gul.rings (p * 16 + q)
def putGring (p q : Nat) (v : GRing) (s : State) : State :=
  { s with gul := { s.gul with rings := smapSet gringDflt s.gul.rings (p * 16 + q) v } }

/-- A status record that cannot be written is discarded: its status still reaches the management network (R349), with
the session and the request it names. -/
def discardGRec (r : GRec) (s : State) : State :=
  report r.status false 0 locNone 0 (bytesLE 2 r.session ++ bytesLE 2 r.reqId.toNat) s

/-- Every Gulem ring of a port begins DISABLING (R349, R393). -/
def gringsDown (p : Nat) (s : State) : State :=
  (List.range 16).foldl (fun s q =>
    let g := gringOf s p q
    let s := g.recs.foldl (fun s r => discardGRec r s) s
    let s := rfput (gqCfgKey p q) RingCfg.enable 0 s
    putGring p q { g with state := if g.state = 1 then 2 else g.state, recs := [] } s) s

end Sys2Proof.Machine
end

