-- ==== Sys2Proof/Machine/Tally.lean ====
section
/-!
DEFINITION. Set-up accesses to tallies (R315, R319, R325, R330 to R334), the watches of ring tallies (R322), and the
number of waits that a tally shows.
-/

namespace Sys2Proof.Machine

/-- TLY_COUNT_WRITE (R315, R319, R331): a write sets COUNT. -/
def doTlyCount (via : Via) (ring : Bool) (p i : Nat) (v : Word) (s : State) : Status × State :=
  viaWrite via (TlyCount.key ring p i) (fun s => (stDone, rput (TlyCount.key ring p i) v s)) s

def execTlyCountWrite (via : Via) (ring : Bool) (phys : BitVec 6) (index : BitVec 12) (value : Word) (s : State) :
    Host.Outcome State Fault Refusal := .next (doTlyCount via ring phys.toNat index.toNat value s).2

/-- TLY_ADD (R315, R331): an increment that covers nothing. -/
def doTlyAdd (via : Via) (ring : Bool) (p i : Nat) (v : Word) (s : State) : Status × State :=
  viaWrite via (TlyAdd.key ring p i) (fun s => (stDone, tallyBump (ring, p, i) v.toNat s)) s

def execTlyAdd (via : Via) (ring : Bool) (phys : BitVec 6) (index : BitVec 12) (value : Word) (s : State) :
    Host.Outcome State Fault Refusal := .next (doTlyAdd via ring phys.toNat index.toNat value s).2

/-- The first and last watched byte of WATCH_BASE and WATCH_LIMIT (R333). -/
def watchSpan (base limit : Word) : Nat × Nat :=
  (fldGet TlyWatchBase.base base / 64 * 64, fldGet TlyWatchLimit.limit limit / 64 * 64 + 63)

/-- The first and last watched byte of a ring tally (R333). -/
def watchRange (s : State) (i : Nat) : Nat × Nat :=
  watchSpan (rg s (TlyWatchBase.key true 0 i)) (rg s (TlyWatchLimit.key true 0 i))

/-- Does a range lie within the DRAM range or within the SRAM window (R12, R38, R325)? -/
def watchable (r : Nat × Nat) : Bool :=
  decide (r.1 < 0x23000000000 ∧ r.2 < 0x23000000000) ||
  decide (0x800000000000 ≤ r.1 ∧ 0x800000000000 ≤ r.2 ∧ r.1 < 0x801C00000000 ∧ r.2 < 0x801C00000000)

/-- TLY_CFG_WRITE (R325, R332). -/
def doTlyCfg (via : Via) (i : Nat) (v : Word) (s : State) : Status × State :=
  let k := TlyCfg.key true 0 i
  viaWrite via k (fun s =>
    let on := rf s k TlyCfg.watchEn = 1
    if fldGet TlyCfg.watchEn v = 0 then
      (stDone, if on then rfput k TlyCfg.watchEn 0 s else plainWrite k v s)
    else if on then
      (if fldGet TlyCfg.unit v = rf s k TlyCfg.unit ∧ fldGet TlyCfg.ports v = rf s k TlyCfg.ports then (stDone, s)
        else (stTallyBusy, s))
    else if watchable (watchRange s i) then (stDone, plainWrite k v s)
    else (stAddrReserved, s)) s

def execTlyCfgWrite (via : Via) (index : BitVec 12) (value : Word) (s : State) : Host.Outcome State Fault Refusal :=
  .next (doTlyCfg via index.toNat value s).2

/-- TLY_WATCH_RANGE_WRITE (R325, R333). -/
def doTlyWatch (via : Via) (i : Nat) (limit : Bool) (v : Word) (s : State) : Status × State :=
  let k := if limit then TlyWatchLimit.key true 0 i else TlyWatchBase.key true 0 i
  viaWrite via k (fun s =>
    if rf s (TlyCfg.key true 0 i) TlyCfg.watchEn = 1 then (stTallyBusy, s) else (stDone, plainWrite k v s)) s

def execTlyWatchRangeWrite (via : Via) (index : BitVec 12) (limit : Bool) (value : Word) (s : State) :
    Host.Outcome State Fault Refusal := .next (doTlyWatch via index.toNat limit value s).2

/-- The watches that are on (R325): a request that arrives now is counted by them as they stand. -/
def watchesOn (s : State) : List Watch :=
  ((s.regs.filter (fun e => suView e.1 = 0 && suClass e.1 = 8 && suOff e.1 = 0x10 && fldGet TlyCfg.watchEn e.2 = 1)).map
    (fun e => ⟨suIndex e.1, e.2, rg s (TlyWatchBase.key true 0 (suIndex e.1)), rg s (TlyWatchLimit.key true 0 (suIndex e.1))⟩))

/-- A write that the lock-step tally counts has written the header of a slot (R411, R412). -/
def lsHeaderCame (i a : Nat) (s : State) : State :=
  if rf s RgrLsStatus.key RgrLsStatus.mode = 1 ∧ s.lsOn.mbox = i ∧ s.lsOn.base ≤ a ∧ a < s.lsOn.base + 0x400 then
    { s with lsOn := { s.lsOn with came := s.lsOn.came ++ [(a - s.lsOn.base) / 64] } }
  else s

/-- WATCH_COUNT (R322): a write from a port, as its pieces (device address, bytes, performed), counted by each watch that
was on when it arrived. -/
def watchCount (port : Nat) (watches : List Watch) (pieces : List (Nat × Nat × Bool)) (s : State) : State :=
  watches.foldl (fun s x =>
    let (i, cfg) := (x.tally, x.cfg)
    let (lo, hi) := watchSpan x.base x.limit
    if natBit (fldGet TlyCfg.ports cfg) port = false then s
    else if fldGet TlyCfg.unit cfg = 1 then
      (match pieces with
        | (a, _, _) :: _ =>
          if decide (lo ≤ a ∧ a ≤ hi) && pieces.all (fun x => x.2.2) then lsHeaderCame i a (tallyBump (true, 0, i) 1 s) else s
        | [] => s)
    else
      let n := ((pieces.filter (fun x => x.2.2)).map (fun x =>
        min (x.1 + x.2.1) (hi + 1) - max x.1 lo)).sum
      if n = 0 then s else tallyBump (true, 0, i) n s) s

/-- Waits pending on a tally, local and remote (R334): a wait on a tally of another hub pends there. -/
def waitersOf (s : State) (t : Bool × Nat × Nat) : Nat :=
  min 65535 (s.waits.filter (fun w => w.via.isNone && !w.done && (match tallyPlace s w.tally with
    | .ok u => decide (u = t)
    | .error _ => false))).length

end Sys2Proof.Machine
end

