-- ==== Sys2Proof/Machine/Port.lean ====
section
/-!
DEFINITION. CXL.mem and unordered-I/O requests from hosts and peers at a port (R335, R340 to R343, R365), and configuration
space (R340, R361, R375).
-/

namespace Sys2Proof.Machine

/-- The device address of a DPA (R340). -/
def devOfDpa (dpa : Nat) : Option Nat :=
  if dpa < 0x23000000000 then some dpa
  else if dpa < 0x24C00000000 then some (dpa + 0x7DD000000000)
  else none

def decoderDflt (_ : Nat) : Decoder := .init
def decoderOf (s : State) (p d : Nat) : Decoder := smapGet decoderDflt s.decoders (p * 8 + d)

/-- The first DPA of a decoder: the skips up to its own, and what the decoders below it map (R340, log entry 16). -/
def decoderDpa (s : State) (p d : Nat) : Nat :=
  ((List.range (d + 1)).map (fun i => (decoderOf s p i).skip.toNat)).sum +
    ((List.range d).map (fun i => (decoderOf s p i).size.toNat / 2 ^ (decoderOf s p i).ways.toNat)).sum

/-- The committed decoder of a port that covers a host address, and the DPA that it maps it to (R335, R340): of an interleaved
range a port holds one granule in each set of WAYS (log entry 16). -/
def decodeHpa (s : State) (p hpa : Nat) : Option (Nat × Nat) :=
  ((List.range 8).find? (fun d =>
    let x := decoderOf s p d
    x.committed && decide (x.base.toNat ≤ hpa ∧ hpa < x.base.toNat + x.size.toNat))).map (fun d =>
      let x := decoderOf s p d
      let g := 256 * 2 ^ x.granularity.toNat
      let o := hpa - x.base.toNat
      (d, decoderDpa s p d + o / (g * 2 ^ x.ways.toNat) * g + o % g))

/-- The device address of a host address. A DPA that is reserved, or a host address that no decoder covers, has none: 2^52 and
the address stand for it. -/
def pieceAddr (s : State) (p hpa : Nat) : Nat :=
  match decodeHpa s p hpa with
  | some (_, dpa) => (devOfDpa dpa).getD (2 ^ 52 + dpa)
  | none => 2 ^ 52 + hpa

/-- Can a ring unit of a port's crescent reach the unit that owns a place, through the ring seams of that crescent (R27,
R229)? -/
def portReach (s : State) (p : Nat) (pl : Place) : Bool :=
  match pl with
  | .dram q _ _ => crescentReaches s p (q * 128 + 64)
  | .sram q a _ => crescentReaches s p (q * 128 + patchRouter a)
  | .bad _ => true

/-- LOCATION of the stand that a place or a refused address names. -/
def placeLoc (s : State) (addr : Nat) : Word :=
  match placeOf s addr 1 with
  | .dram p _ _ => locStand s p
  | .sram p a _ => locUnit (logicalOf s p) p a 0 0 0 0
  | .bad st =>
    if st = stAddrReserved then locNone
    else if addr < 0x23000000000 then locUnit (dramPlaceOf s addr).1 ((physOf s (dramPlaceOf s addr).1).getD 0) 0 0 0 0 0
    else locUnit (natBits addr 36 31) ((physOf s (natBits addr 36 31)).getD 0)
      (arrIdx (natBits addr 24 19) (natBits addr 30 25)) 0 0 0 0

/-- A slot access that the port does not perform (R36, R42, R343): reported, a read answered with all ones. -/
def pieceFails (p : Nat) (st : Status) (x : Piece) (s : State) : Piece × State :=
  let s := if st = stHostHoldExpired ∨ st = stNoServiceRoute then countErr st (1 + p) 0 (x.addr % 2 ^ 52) s else s
  ({ x with st := 2, data := if x.data.isEmpty then List.replicate x.len 0xFF else x.data },
    report st false 2 (if 2 ^ 52 ≤ x.addr then locNone else placeLoc s x.addr) (BitVec.ofNat 64 (x.addr % 2 ^ 52)) [] s)

/-- One slot access (R314, R341, R343): a read is UNTAGGED and a write OVERWRITE; an uncorrectable word holds it. -/
def doPiece (p : Nat) (write : Bool) (x : Piece) (s : State) : Piece × State :=
  let pl := placeOf s x.addr x.len
  if x.st ≠ 0 then (x, s)
  else if 2 ^ 52 ≤ x.addr then pieceFails p stAddrReserved x s
  else if !portReach s p pl then pieceFails p stNoServiceRoute x s
  else
    match pl with
    | .bad st => pieceFails p st x s
    | .dram q sl off =>
      if write then
        (if !dramWritable s x.addr off then pieceFails p stAddrReserved x s
          else
            match mergeFault s (dramKey q sl off) x.len with
            | some w => (x, dramUncorrectable q sl (w - dramKey q sl 0) s)
            | none => ({ x with st := 1 }, dramWrite q sl off x.addr x.data s))
      else
        (match dramRead q sl off x.len s with
          | (some bs, s) => ({ x with st := 1, data := bs }, s)
          | (none, s) => (x, s))
    | .sram q a off =>
      match if write then extWrite q a off (if inUntagged s q a (off / 64) then 2 else 1) x.data s
        else extRead q a off x.len 2 s with
      | (.done bs, s) => ({ x with st := 1, data := if write then x.data else bs }, s)
      | (.wait, s) => (x, s)
      | (.refuse st, s) => pieceFails p st x s

/-- The slot accesses of a request, each judged alone (R343). -/
def doPieces (p : Nat) (write : Bool) : List Piece → State → List Piece × State
  | [], s => ([], s)
  | x :: xs, s =>
    let (y, s) := doPiece p write x s
    let (ys, s) := doPieces p write xs s
    (y :: ys, s)

/-- A request completes once every slot access has been performed or ended (R322, R323, R341, R343, R374): watches count
a write, and a read with Poison counts in POISONED. -/
def settleReq (p : Nat) (r : PortReq) (s : State) : State :=
  if r.pieces.any (fun x => x.st = 0) then
    let q := portOf s p
    putPort p { q with reqs := if q.reqs.any (fun y => y.id = r.id) then q.reqs.map (fun y => if y.id = r.id then r else y) else q.reqs ++ [r] } s
  else
    let s := if r.write then (if (crescentSeams s p).isEmpty then s else watchCount p r.watches (r.pieces.map (fun x => (x.addr, x.len, decide (x.st = 1)))) s)
      else if r.pieces.any (fun x => x.st = 2) then rfsat (IorPortCount.key p) IorPortCount.poisoned 1 s
      else s
    let q := portOf s p
    putPort p { q with reqs := q.reqs.filter (fun y => y.id ≠ r.id), answers := q.answers ++ [r] } s

/-- Does a held slot access still meet an uncorrectable word? -/
def stillHeld (s : State) (write : Bool) (x : Piece) : Bool :=
  match placeOf s x.addr x.len with
  | .dram q sl off => if write then (mergeFault s (dramKey q sl off) x.len).isSome
      else (match readBytes s (dramKey q sl off) x.len with
        | .ok _ => false
        | .error _ => true)
  | .sram q a off => if write then (mergeFault s (sramKey q a off) x.len).isSome
      else (match readBytes s (sramKey q a off) x.len with
        | .ok _ => false
        | .error _ => true)
  | .bad _ => false

/-- Try the held slot accesses of a port's requests again. -/
def retryReqs (p : Nat) (s : State) : State :=
  (portOf s p).reqs.foldl (fun s r =>
    if r.pieces.any (fun x => x.st = 0 && !stillHeld s r.write x) then
      let (ps, s) := (r.pieces.foldl (fun (acc, s) x =>
        if x.st = 0 && !stillHeld s r.write x then
          let (y, s) := doPiece p r.write x s
          (acc ++ [y], s)
        else (acc ++ [x], s)) (([] : List Piece), s))
      settleReq p { r with pieces := ps } s
    else s) s

/-- A request of a host or peer at a host address (R340, R341), with the cache state granted for it. -/
def doRequest (p : Nat) (write : Bool) (hpa n grant : Nat) (data : List Byte) (s : State) : State :=
  let id := (portOf s p).nextId
  let ps := (slotsOf hpa n).map (fun (a, k) => (⟨pieceAddr s p a, k, if write then (data.drop (a - hpa)).take k else [], 0⟩ : Piece))
  let r : PortReq := ⟨id, write, [], watchesOn s, grant⟩
  let s := putPort p { portOf s p with nextId := id + 1 } s
  let (ps, s) := doPieces p write ps s
  retryReqs p (settleReq p { r with pieces := ps } s)

/-- The least recently recorded line gives way (R342): a line that the host held modified is returned and takes effect as a
host write. -/
def evictLine (p : Nat) (returned : List (BitVec 52 × BitVec 512)) (s : State) : State :=
  match (portOf s p).lines with
  | [] => s
  | (line, modify) :: r =>
    let s := putPort p { portOf s p with lines := r, snoops := (portOf s p).snoops ++ [line] } s
    match returned.find? (fun x => x.1.toNat / 64 = line) with
    | some x => if modify then doRequest p true (64 * line) 64 0 (vecBytes x.2) s else s
    | none => s

/-- The presence filter records a line that the port has granted to the host, shared or to be modified (R342), in place of
the least recently recorded line when the filter is full. -/
def grantLine (p : Nat) (returned : List (BitVec 52 × BitVec 512)) (modify : Bool) (line : Nat) (s : State) : State :=
  let q := portOf s p
  let known := q.lines.any (fun x => x.1 = line)
  let s := if known || decide (q.lines.length < 1048576) then s else evictLine p returned s
  let q := portOf s p
  putPort p { q with lines := q.lines.filter (fun x => x.1 ≠ line) ++ [(line, modify)] } s

/-- The cache state that a read is granted (R342): what it asks, through a window with HOST_CACHE; else none. -/
def grantOf (s : State) (p : Nat) (write : Bool) (hpa asked : Nat) : Nat :=
  match decodeHpa s p hpa with
  | some (d, _) => if !write && rf s (IorWinAttr.key p d) IorWinAttr.hostCache = 1 then asked else 0
  | none => 0

/-- CXL_MEM_REQUEST (R340 to R342): a read through a window with HOST_CACHE is granted the state it asks, 0 none, 1 shared, 2
and 3 exclusive, and its lines are recorded. `returned` are the modified lines with which the host answers an eviction. -/
def doCxlMem (p : Nat) (write : Bool) (hpa asked : Nat) (data : List Byte) (n : Nat) (returned : List (BitVec 52 × BitVec 512))
    (s : State) : State :=
  if !(portOf s p).linkUp then s
  else
    let g := grantOf s p write hpa (min 2 asked)
    let s := doRequest p write hpa (if write then data.length else n) g data s
    if g = 0 then s else (slotsOf hpa n).foldl (fun s x => grantLine p returned (decide (g = 2)) (x.1 / 64) s) s

def execCxlMemRequest (port : BitVec 2) (write : Bool) (hpa : BitVec 52) (ask : HostAsk) (data : List Byte) (len : BitVec 12)
    (s : State) : Host.Outcome State Fault Refusal :=
  .next (doCxlMem port.toNat write hpa.toNat ask.state.toNat data len.toNat ask.returned s)

/-- An error that AER shows (R335): bit i of its uncorrectable status, which is reported as an advisory non-fatal error, bit 13
of the correctable status (log entry 94). -/
def aerNote (p i : Nat) (s : State) : State :=
  let q := portOf s p
  putPort p { q with aerUncor := q.aerUncor ||| BitVec.ofNat 32 (2 ^ i), aerCor := q.aerCor ||| BitVec.ofNat 32 (2 ^ 13) } s

/-- A peer request that is answered Unsupported Request (R335, R365). -/
def refusePeer (p hpa : Nat) (s : State) : State :=
  let a := pieceAddr s p hpa
  let s := countErr stRoleDenied (1 + p) 0 (if 2 ^ 52 ≤ a then 0 else a) s
  let q := portOf s p
  report stRoleDenied false 2 (if 2 ^ 52 ≤ a then locNone else placeLoc s a) (BitVec.ofNat 64 (a % 2 ^ 52)) []
    (aerNote p 20 (putPort p { q with refused := q.refused + 1 } s))

/-- Does the port refuse peer requests for want of an IDE stream (R365, R369)? -/
def ideMissing (s : State) (p : Nat) : Bool :=
  rf s (IorPortCfg.key p) IorPortCfg.ideReq = 1 && fldGet IorPortStatus.ide (portOf s p).status = 0

/-- UIO_WRITE and UIO_READ (R335, R341, R365). -/
def doUio (p : Nat) (write : Bool) (hpa n : Nat) (data : List Byte) (s : State) : State :=
  if !(portOf s p).linkUp then s
  else if ideMissing s p then refusePeer p hpa s
  else doRequest p write hpa n 0 data s

def execUioWrite (port : BitVec 2) (hpa : BitVec 52) (data : List Byte) (s : State) : Host.Outcome State Fault Refusal :=
  .next (doUio port.toNat true hpa.toNat data.length data s)

def execUioRead (port : BitVec 2) (hpa : BitVec 52) (len : BitVec 12) (s : State) : Host.Outcome State Fault Refusal :=
  .next (doUio port.toNat false hpa.toNat len.toNat [] s)

/-- PEER_POSTED_WRITE (R335, R42): answered Unsupported Request, counted and reported. -/
def doPeerPosted (p hpa : Nat) (s : State) : State := if !(portOf s p).linkUp then s else refusePeer p hpa s

def execPeerPostedWrite (port : BitVec 2) (hpa : BitVec 52) (s : State) : Host.Outcome State Fault Refusal :=
  .next (doPeerPosted port.toNat hpa.toNat s)

/-- HOST_HOLD_EXPIRED (R343): the slot accesses of the port's requests that are still held end. -/
def doHoldExpired (p : Nat) (s : State) : State :=
  let s := retryReqs p s
  (portOf s p).reqs.foldl (fun s r =>
    let (ps, s) := r.pieces.foldl (fun (acc, s) x =>
      if x.st = 0 then
        let (y, s) := pieceFails p stHostHoldExpired x s
        (acc ++ [y], s)
      else (acc ++ [x], s)) (([] : List Piece), s)
    settleReq p { r with pieces := ps } s) s

def execHostHoldExpired (port : BitVec 2) (s : State) : Host.Outcome State Fault Refusal := .next (doHoldExpired port.toNat s)

/-- The lines of every HOST_CACHE window that BISnpInv invalidates before device memory is rewritten (R342). The lines
leave the filter; the modified lines that a host returns, of those that it may have modified (log entry 93), are discarded
and counted. -/
def snoopAll (s : State) : State :=
  (List.range 4).foldl (fun s p =>
    let q := portOf s p
    let s := putPort p { q with lines := [], snoops := q.snoops ++ q.lines.map (·.1) } s
    let n := (q.lines.filter (·.2)).length
    if n = 0 then s
    else rfsat (IorPortCount.key p) IorPortCount.poisoned (min n (Config.linesModified s.freeCtr n)) { s with freeCtr := s.freeCtr + 1 }) s

/-- The HDM decoder settings that a port supports (R335): ways 1, 2 and 4, granularity 256 B to 16 KiB, in the codes of
CXL 3.1 (log entry 16). -/
def decoderOk (ways gran : BitVec 4) : Bool := decide (ways.toNat ≤ 2 ∧ gran.toNat ≤ 6)

/-- CONFIG_SPACE_ACCESS (R335, R336, R340, R361, R375). Of Device Control 2 the completion timeout is kept, and Completion
Timeout Disable, bit 4, is 0 whatever is written. A committed decoder changes only by a write that ends its commitment; its
base and size are multiples of 256 MiB. The Register Locator names BAR4 for the component registers, identifier 1, and the
device registers, identifier 3. Reads answer what stands. -/
def doConfigSpace (p : Nat) (w : ConfigAccess) (s : State) : State :=
  let tell (i : Nat) (v : Word) : Via × Nat × Word := (.host (BitVec.ofNat 2 p), i, v)
  match w with
  | .completionTimeout v => putPort p { portOf s p with timeout := v.setWidth 4 } s
  | .decoder d base size skip ways gran commit =>
    if (decoderOf s p d.toNat).committed && commit then s
    else
      let whole (w : Word) : Word := w >>> 28 <<< 28
      let x : Decoder := ⟨whole base, whole size, whole skip, ways, gran, commit && decoderOk ways gran⟩
      { s with decoders := smapSet decoderDflt s.decoders (p * 8 + d.toNat) x }
  | .msixControl enable maskAll =>
    let q := portOf s p
    putPort p { q with msix := msixSend { q.msix with enable := enable, maskAll := maskAll } } s
  | .msixVector v addr data masked =>
    let q := portOf s p
    if 64 < v.toNat then s
    else putPort p { q with msix := msixSend { q.msix with table := smapSet msixDflt q.msix.table v.toNat ⟨addr, data, masked⟩ } } s
  | .aerClear u c =>
    let q := portOf s p
    putPort p { q with aerUncor := q.aerUncor &&& ~~~u, aerCor := q.aerCor &&& ~~~c } s
  | .readTimeout => { s with suOut := s.suOut ++ [tell 0 ((portOf s p).timeout.setWidth 64)] }
  | .readDecoder d =>
    let x := decoderOf s p d.toNat
    { s with suOut := s.suOut ++ [tell 1 x.base, tell 2 x.size, tell 3 x.skip,
        tell 4 (BitVec.ofNat 64 (x.ways.toNat + 16 * x.granularity.toNat + (if x.committed then 256 else 0)))] }
  | .readMsix v =>
    let x := smapGet msixDflt (portOf s p).msix.table v.toNat
    { s with suOut := s.suOut ++ [tell 5 x.addr, tell 6 (x.data.setWidth 64), tell 7 (if x.masked then 1 else 0)] }
  | .readPending =>
    let bits := (portOf s p).msix.pending.foldl (fun a v => a + 2 ^ v) 0
    { s with suOut := s.suOut ++ [tell 8 (BitVec.ofNat 64 bits), tell 9 (BitVec.ofNat 64 (bits / 2 ^ 64))] }
  | .readAer => { s with suOut := s.suOut ++ [tell 10 ((portOf s p).aerUncor.setWidth 64), tell 11 ((portOf s p).aerCor.setWidth 64)] }
  | .readLocator => { s with suOut := s.suOut ++ [1, 3].map (fun i => tell (12 + i)
      (BitVec.ofNat 64 (4 + 256 * i + 65536 * (Config.bar4Offset i).toNat))) }

def execConfigSpaceAccess (port : BitVec 2) (what : ConfigAccess) (s : State) : Host.Outcome State Fault Refusal :=
  .next (doConfigSpace port.toNat what s)

end Sys2Proof.Machine
end

