-- ==== Sys2Proof/Machine/Sec.lean ====
section
/-!
DEFINITION. The security engine's states (R536, R537, R549) and the end of sessions (R524).
-/

namespace Sys2Proof.Machine

/-- STATE of SEC_STATUS (R549): 0 power-up tests, 1 operational, 2 on-demand test, 3 error. -/
def secState (s : State) : Nat := rf s SecStatus.key SecStatus.state

/-- Does the security engine serve? -/
def secServes (s : State) : Bool := secState s = 1 || secState s = 2

/-- The boot ROM waits for another bundle (R530, R532, R553), with the status of a refusal if any. -/
def fwWaits (st : Option Status) (s : State) : State :=
  let s := { s with fw := { s.fw with source := none, bytes := [], got := 0, total := 0 } }
  let s := rfput RgrFwStatus.key RgrFwStatus.source 0 (rfput RgrFwStatus.key RgrFwStatus.state 0 s)
  match st with
  | some st => rfput RgrFwStatus.key RgrFwStatus.lastStatus st.toNat s
  | none => s

/-- A bundle that its session has not finished is given up with the session (log entry 21). -/
def fwSessionGone (k : Nat) (s : State) : State :=
  if s.fw.source = some (.mgmt k) ∧ rf s RgrFwStatus.key RgrFwStatus.state = 1 then fwWaits none s else s

/-- The commands in flight of an open session. -/
def sessFlight (s : State) (k : Nat) : List Cmd := ((sessOf s k).map (·.flight)).getD []

/-- A session ends (R524): its commands run on, as orphans whose completions are discarded. -/
def endSession (k : Nat) (s : State) : State :=
  let s := fwSessionGone k s
  putSess k none { s with orphans := s.orphans ++ sessFlight s k }

/-- Every session that satisfies `f` ends. -/
def endSessionsOf (f : Nat → Bool) (s : State) : State :=
  ((s.sessions.map (·.1)).filter f).foldl (fun s k => endSession k s) s

/-- Every session ends. -/
def endSessions (s : State) : State := endSessionsOf (fun _ => true) s

/-- The error state (R537): keys are zeroised, the failed test is reported, sessions end and IDE streams stop. Pools are
refilled no more, and no service is performed. -/
def secError (test : Nat) (s : State) : State :=
  if secState s = 3 then s
  else
    let s := rfput SecStatus.key SecStatus.failedTest test (rfput SecStatus.key SecStatus.state 3 s)
    let s := report stSecSelftest false 0 locNone 0 (bytesLE 2 test) s
    (List.range 4).foldl (fun s p =>
      putPort p { portOf s p with ideKey := 0, status := fldSet IorPortStatus.ide (portOf s p).status 0 } s) (endSessions s)

/-- The number of a test that the spec does not name: a free value other than 0 (log entry 4). -/
def freeTest (s : State) : Nat × State := let (w, t) := draw s; (w.toNat % 65535 + 1, t)

end Sys2Proof.Machine
end

