-- ==== Sys2Proof/Machine/RingDma.lean ====
section
/-!
DEFINITION. DMA_COPY on the ring DMA engines (R352, R361 to R364), ABORT (R359, R360), and links that go down (R349,
R364, R553, R554) or come up.
-/

namespace Sys2Proof.Machine

/-- The fields of a DMA_COPY (R352). -/
def cpSrcKind (c : Cmd) : Nat := c.num 16 1
def cpDstKind (c : Cmd) : Nat := c.num 17 1
def cpForms (c : Cmd) : Nat := c.num 18 1
def cpCtl (c : Cmd) : Nat := c.num 19 1
def cpCvMode (c : Cmd) : Nat := natBits (cpCtl c) 1 0
def cpSrc (c : Cmd) : Nat := c.num 24 8
def cpDst (c : Cmd) : Nat := c.num 32 8
def cpLen (c : Cmd) : Nat := c.num 40 8
def cpReadForm (c : Cmd) : Nat := natBits (cpForms c) 1 0
def cpWriteForm (c : Cmd) : Nat := natBits (cpForms c) 3 2

/-- A slot access of a ring engine whose service-mesh packets find no route (R36). -/
def rdmaNoRoute (addr : Nat) (s : State) : SlotEnd × State :=
  (.refuse stNoServiceRoute, countErr stNoServiceRoute 0 0 addr s)

/-- A ring engine reads 64 bytes of device memory (R265, R352). -/
def rdmaRead (p addr form : Nat) (s : State) : SlotEnd × State :=
  let pl := placeOf s addr 64
  if !portReach s p pl then rdmaNoRoute addr s
  else
    match pl with
    | .bad st => (.refuse st, s)
    | .dram q sl off =>
      (match dramRead q sl off 64 s with
        | (some bs, s) => (.done bs, s)
        | (none, s) => (.wait, s))
    | .sram q a off => extRead q a off 64 form s

/-- A ring engine writes 64 bytes of device memory (R352, R499, R503). -/
def rdmaWrite (p addr form : Nat) (bs : List Byte) (s : State) : SlotEnd × State :=
  let pl := placeOf s addr bs.length
  if !portReach s p pl then rdmaNoRoute addr s
  else
    match pl with
    | .bad st => (.refuse st, s)
    | .dram q sl off => if !dramWritable s addr off then (.refuse stAddrReserved, s) else (.done [], dramWrite q sl off addr bs s)
    | .sram q a off => extWrite q a off form bs s

/-- The job of a number on a port. -/
def jobOf (s : State) (p id : Nat) : Option CopyJob := (portOf s p).copies.find? (fun j => j.id = id)
def putJob (p : Nat) (j : CopyJob) (s : State) : State :=
  let q := portOf s p
  putPort p { q with copies := q.copies.map (fun x => if x.id = j.id then j else x) } s

/-- The unit of class 0x6 and of class 0x7 that a port's engine is (R352). -/
def ringUnit (p eng : Nat) : Nat := 4 * p + eng

/-- A DMA_COPY retires (R294, R305, R347): engine registers, report, completion record. -/
def endCopy (p eng : Nat) (c : Cmd) (st : Status) (addr moved : Nat) (cv nonrep : Bool) (s : State) : State :=
  let u := ringUnit p eng
  let shown : Bool := cv && (st = stDone || st = stCheckMismatch)
  let r0 := if shown then cvuR s true 0 u else 0
  let s := if cv then rfput (CvuStatus.key true 0 u) CvuStatus.owner 0 s else s
  let s := rfadd (EngCount.key true 0 6 u) EngCount.retired 1 s
  let ring := match c.issuer with
    | .host _ r => r.toNat
    | .mgmt _ _ => 0
  let s := if st = stDone then s
    else rfput (EngStatus.key true 0 6 u) EngStatus.queue ring (rfput (EngStatus.key true 0 6 u) EngStatus.lastStatus st.toNat s)
  let det := if st = stDone ∨ st = stCheckMismatch then 0 else addr
  let s := if st = stDone ∨ st = stAborted then s
    else report st false 0 (locUnit 0xFF 0 0 0 0 0 ring) (BitVec.ofNat 64 det)
      (bytesLE 2 c.slot.toNat ++ bytesLE 2 c.cmdId.toNat ++ [BitVec.ofNat 8 u]) s
  retireRec true c st r0 (BitVec.ofNat 64 moved) (BitVec.ofNat 64 det) shown nonrep s

/-- Bytes that count as written: none under discard. -/
def jobMoved (j : CopyJob) : Nat := if cpDstKind j.cmd = 3 then 0 else j.written

/-- A job ends: its reads are forgotten, so that a completion that comes later is LATE (R364). -/
def endJob (p : Nat) (j : CopyJob) (st : Status) (addr : Nat) (s : State) : State :=
  let q := portOf s p
  let s := putPort p { q with copies := q.copies.filter (fun x => x.id ≠ j.id), reads := q.reads.filter (fun x => x.job ≠ j.id) } s
  endCopy p j.engine j.cmd st addr (jobMoved j) (decide (cpCvMode j.cmd ≠ 0)) j.nonrepeat s

/-- The answer to a job's DONE increment decides its end (R278, R320). -/
def jobAnswered (p : Nat) (j : CopyJob) (id : MeshSrc) (s : State) : State :=
  match gotAnswer s id with
  | some (.negative st _) => endJob p j st 0 s
  | some _ => endJob p j stDone 0 s
  | none => if (svcOf s id).isSome then s else endJob p j stServiceTimeout 0 s

/-- Every write has taken effect and every UIO completion has arrived (R352): a verify that differs ends so (R283). A successful
job with DONE_EN first advances its tally, at a stand by a TALLY packet whose answer it waits for (R278, R315). -/
def finishJob (p : Nat) (j : CopyJob) (s : State) : State :=
  let bad : Bool := cpCvMode j.cmd = 2 && cvuR s true 0 (ringUnit p j.engine) != BitVec.ofNat 64 (j.cmd.num 48 8)
  if bad then endJob p j stCheckMismatch 0 s
  else if !j.cmd.doneEn then endJob p j stDone 0 s
  else
    match j.done with
    | some id => jobAnswered p j id s
    | none =>
      match doneSend 64 (65 + p) locNone j.cmd.doneTally.toNat (if j.cmd.doneUnit then 1 else jobMoved j) s with
      | (.ok none, s) => endJob p j stDone 0 s
      | (.ok (some id), s) => putJob p { j with done := some id } s
      | (.error st, s) => endJob p j st 0 s

/-- Issue the reads of host memory or of a peer, of up to 256 bytes, 4,096 outstanding per port (R352). -/
def issueReads (p id : Nat) : Nat → State → State
  | 0, s => s
  | n + 1, s =>
    match jobOf s p id with
    | none => s
    | some j =>
      let q := portOf s p
      if cpLen j.cmd ≤ j.requested ∨ 4096 ≤ (q.reads.filter (fun x => x.data.isNone)).length then s
      else
        let k := min 256 (cpLen j.cmd - j.requested)
        let s := putPort p { q with
          reads := q.reads ++ [⟨q.nextTag, id, cpSrc j.cmd + j.requested, k, none⟩], nextTag := q.nextTag + 1 } s
        issueReads p id n (putJob p { j with requested := j.requested + k } s)

/-- What the next 64 bytes are: read, not yet there, or failed. -/
inductive CopyRes where
  | got (bs : List Byte)
  | wait
  | bad (st : Status) (addr : Nat)
  deriving DecidableEq, Repr

/-- Has the uncorrectable word that a job waits on become readable? -/
def jobStuck (s : State) (j : CopyJob) : Bool :=
  match j.stuckAt with
  | some a => uncorrectableAt s a 64
  | none => false

/-- The next 64 bytes of a job's source (R352, R361, R362). -/
def copyData (p : Nat) (j : CopyJob) (s : State) : CopyRes × State :=
  let a := cpSrc j.cmd + j.written
  match j.have64 with
  | some bs => (.got bs, s)
  | none =>
    if cpSrcKind j.cmd = 2 then (.got (List.replicate 64 0), s)
    else if cpSrcKind j.cmd = 1 then
      (match rdmaRead p a (cpReadForm j.cmd) s with
        | (.done bs, s) => (.got bs, s)
        | (.wait, s) => (.wait, putJob p { j with stuckAt := if uncorrectableAt s a 64 then some a else none } s)
        | (.refuse st, s) => (.bad st a, s))
    else if !(portOf s p).linkUp then (.bad stCxlLinkDown a, s)
    else
      let s := issueReads p j.id 4096 s
      match (portOf s p).reads.find? (fun x => x.job = j.id && decide (x.addr ≤ a ∧ a < x.addr + x.len)) with
      | some x =>
        (match x.data with
          | some bs => (.got (bytesAt bs (a - x.addr) 64), s)
          | none => (.wait, s))
      | none => (.wait, s)

/-- Write 64 bytes to a job's destination (R352): none when it waits. A write of whole words reads none of them (R572). -/
def copyPut (p : Nat) (j : CopyJob) (bs : List Byte) (s : State) : CopyRes × State :=
  let a := cpDst j.cmd + j.written
  if cpDstKind j.cmd = 3 then (.got [], s)
  else if !(portOf s p).linkUp && cpDstKind j.cmd != 1 then (.bad stCxlLinkDown a, s)
  else if cpDstKind j.cmd = 0 then (.got [], hostWrite a bs s)
  else if cpDstKind j.cmd = 2 then
    let q := portOf s p
    let s := putPort p { q with nextTag := q.nextTag + 1 } { s with peerMem := smapSetMany memDflt s.peerMem a bs }
    (.got [], putJob p { j with uio := j.uio ++ [(q.nextTag, a)] } s)
  else
    match rdmaWrite p a (cpWriteForm j.cmd) bs s with
    | (.done _, s) => (.got [], s)
    | (.wait, s) => (.wait, s)
    | (.refuse st, s) => (.bad st a, s)

/-- One slot of a job has been written: the check is fed (R283, R304), and a read that is used up is dropped. -/
def copyStep (p id : Nat) (bs : List Byte) (s : State) : State :=
  match jobOf s p id with
  | none => s
  | some j =>
    let a := cpSrc j.cmd + j.written + 64
    let s := if cpCvMode j.cmd = 0 then s else cvuFeed true 0 (ringUnit p j.engine) bs s
    let s := putJob p { j with written := j.written + 64, have64 := none, stuckAt := none } s
    let q := portOf s p
    if cpSrcKind j.cmd = 0 ∨ cpSrcKind j.cmd = 3 then
      putPort p { q with reads := q.reads.filter (fun x => !(x.job = id && decide (x.addr + x.len ≤ a))) } s
    else s

/-- Keep the 64 bytes that have been read and cannot be written yet. -/
def copyKeep (p id : Nat) (bs : List Byte) (s : State) : State :=
  match jobOf s p id with
  | some j => putJob p { j with have64 := some bs } s
  | none => s

/-- A job runs until it waits or ends, in at most `n` slots (R352, R362). -/
def runJob (p id : Nat) : Nat → State → State
  | 0, s => s
  | n + 1, s =>
    match jobOf s p id with
    | none => s
    | some j =>
      if cpLen j.cmd ≤ j.written then (if j.uio.isEmpty then finishJob p j s else s)
      else if jobStuck s j then s
      else
        match copyData p j s with
        | (.bad st a, s) => endJob p j st a s
        | (.wait, s) => s
        | (.got bs, s) =>
          let j := (jobOf s p id).getD j
          (match copyPut p j bs s with
            | (.bad st a, s) => endJob p j st a s
            | (.wait, s) => copyKeep p id bs s
            | (.got _, s) => runJob p id n (copyStep p id bs s))

/-- Slots enough for a whole job. -/
def jobFuel (c : Cmd) : Nat := cpLen c / 64 + 2

/-- Is the body of a DMA_COPY well formed (R305, R350, R352)? -/
def copyBodyOk (c : Cmd) (psel : Nat) : Bool :=
  decide (cpSrcKind c ≤ 3 ∧ cpDstKind c ≤ 3 ∧ cpForms c < 16 ∧ cpCtl c < 8 ∧ cpCvMode c ≠ 3 ∧ 64 ≤ cpLen c ∧ cpLen c ≤ 2 ^ 40) &&
  c.zero 20 4 && c.zero 56 8 && expectOk (cpCvMode c) (c.num 48 8) psel

/-- The slots of a device range, as offsets. -/
def copySlots (c : Cmd) : List Nat := (List.range (cpLen c / 64)).map (64 * ·)

/-- The first address of a range that is reserved, or that no write may reach (R12, R13, R38, R499, R503). -/
def rangeReserved (s : State) (c : Cmd) (write : Bool) : Option Nat :=
  let base := if write then cpDst c else cpSrc c
  ((copySlots c).find? (fun o =>
    match placeOf s (base + o) 64 with
    | .bad st => decide (st = stAddrReserved)
    | .dram _ _ off => write && !dramWritable s (base + o) off
    | .sram _ _ _ => false)).map (base + ·)

/-- The first address of a range that breaks the forms of R169 and R170. -/
def formBad (s : State) (c : Cmd) (write : Bool) : Option Nat :=
  let base := if write then cpDst c else cpSrc c
  let form := if write then cpWriteForm c else cpReadForm c
  ((copySlots c).find? (fun o =>
    natBit (base + o) 47 && (form = 3 || (write && form = 2 && !spanUntagged s (base + o) 64)))).map (base + ·)

/-- What refuses a DMA_COPY before any data moves (R352), in the order alignment, reserved addresses, forms: the status and the
address concerned (R347). -/
def copyRefusal (s : State) (c : Cmd) : Option (Status × Nat) :=
  let both (f : Bool → Option Nat) : Option Nat :=
    (if cpSrcKind c = 1 then f false else none).or (if cpDstKind c = 1 then f true else none)
  if cpSrcKind c ≠ 2 ∧ cpSrc c % 64 ≠ 0 then some (stAddrAlign, cpSrc c)
  else if cpDstKind c ≠ 3 ∧ cpDst c % 64 ≠ 0 then some (stAddrAlign, cpDst c)
  else if cpLen c % 64 ≠ 0 then some (stAddrAlign, if cpSrcKind c = 2 then cpDst c else cpSrc c)
  else ((both (rangeReserved s c)).map (fun a => (stAddrReserved, a))).or ((both (formBad s c)).map (fun a => (stTagMode, a)))

/-- The address that CV_FOLD folds (R283). -/
def copyFoldAddr (c : Cmd) : Nat :=
  if cpDstKind c = 3 then (if cpSrcKind c = 2 then 0 else cpSrc c) else cpDst c

/-- Start a DMA_COPY: its unit begins (R303). -/
def startCopy (p eng : Nat) (c : Cmd) (s : State) : State :=
  let u := ringUnit p eng
  let s := if cpCvMode c = 0 then s
    else
      let v := if rf s (CvuCfg.key true 0 u) CvuCfg.chain = 1 then cvuV s true 0 u else (cvuParams s true 0 u).init
      let s := rfput (CvuStatus.key true 0 u) CvuStatus.owner 1 (cvuSet true 0 u v s)
      if natBit (cpCtl c) 2 then cvuFeed true 0 u (bytesLE 8 (copyFoldAddr c)) s else s
  let q := portOf s p
  let s := putPort p { q with nextId := q.nextId + 1, copies := q.copies ++ [⟨q.nextId, c, eng, 0, 0, none, [], false, none, none⟩] } s
  runJob p q.nextId (jobFuel c) (noteFlight c s)

/-- Has a ring DMA engine a free context for a command (R302, R352)? -/
def copyContext (s : State) (p eng : Nat) (c : Cmd) : Bool :=
  decide (((portOf s p).copies.filter (fun j => j.engine = eng)).length < 4) &&
  !(cpCvMode c != 0 && cvuOwned s true 0 (ringUnit p eng))

/-- DMA_COPY (R352): issued where a context is free, or resumed; its row comes again while it waits (log entry 13). -/
def doDmaCopy (c : Cmd) (s : State) : State :=
  match c.issuer with
  | .mgmt _ _ => issueVerb 0x10 c true (refuse c stRoleDenied 0) s
  | .host port ring =>
    let p := port.toNat
    let eng := ring.toNat % 4
    match (portOf s p).copies.find? (fun j => j.cmd = c) with
    | some j => runJob p j.id (jobFuel c) s
    | none =>
      if !copyContext s p eng c then noteFlight c s
      else
        issueVerb 0x10 c (copyBodyOk c (rf s (CvuCfg.key true 0 (ringUnit p eng)) CvuCfg.psel)) (fun s =>
          match copyRefusal s c with
          | some (st, a) => endCopy p eng c st a 0 false false s
          | none => startCopy p eng c s) s

def execDmaCopy (c : Cmd) (s : State) : Host.Outcome State Fault Refusal := .next (doDmaCopy c s)

/-- HOST_COMPLETION_ARRIVAL (R361 to R364): late ones count in STALLS, and those whose request is gone in LATE, an Unexpected
Completion (R335). -/
def doCompletion (p : Nat) (tag : BitVec 16) (how : Completion) (lateUs : Nat) (data : List Byte) (s : State) : State :=
  let slow : Bool := decide (max 1 (rf s (IorPortCfg.key p) IorPortCfg.stallUs) < lateUs)
  let s := if slow then noteStall p s else s
  match (portOf s p).reads.find? (fun x => x.tag = tag && x.data.isNone) with
  | none => aerNote p 16 (rfsat (IorPortCount.key p) IorPortCount.late 1 s)
  | some x =>
    match jobOf s p x.job with
    | none => s
    | some j =>
      let j := { j with nonrepeat := j.nonrepeat || slow }
      let s := putJob p j s
      (match how with
        | .success =>
          let q := portOf s p
          runJob p j.id (jobFuel j.cmd) (putPort p { q with
            reads := q.reads.map (fun y => if y.tag = tag ∧ y.data.isNone = true then { y with data := some (bytesAt data 0 y.len) } else y) } s)
        | _ => endJob p j stCxlCompleterErr x.addr s)

def execHostCompletionArrival (port : BitVec 2) (tag : BitVec 16) (how : Completion) (lateUs : BitVec 32) (data : List Byte) (s : State) :
    Host.Outcome State Fault Refusal := .next (doCompletion port.toNat tag how lateUs.toNat data s)

/-- COMPLETION_TIMEOUT (R361, R364). -/
def doTimeout (p : Nat) (tag : BitVec 16) (s : State) : State :=
  match (portOf s p).reads.find? (fun x => x.tag = tag && x.data.isNone) with
  | none => s
  | some x =>
    match jobOf s p x.job with
    | none => s
    | some j => endJob p j stCxlTimeout x.addr s

def execCompletionTimeout (port : BitVec 2) (tag : BitVec 16) (s : State) : Host.Outcome State Fault Refusal :=
  .next (doTimeout port.toNat tag s)

/-- A DRAIN is given up before its drain point is reached (R360): the stands that have stopped go on. -/
def undrain (s : State) : State :=
  (servicePhys s).foldl (fun s p =>
    if (standOf s p).drained then putStand p { standOf s p with drained := false, started := true, pos := s.lapLen } s else s)
    { s with draining := false }

/-- The command of a ring or session that an ABORT may stop, at its arbitration point (R360): true when it ended
ST_ABORTED. -/
def abortTarget (t : Cmd) (s : State) : Bool × State :=
  match s.ports.findSome? (fun x => (x.2.copies.find? (fun j => j.cmd = t)).map (fun j => (x.1, j))) with
  | some (p, j) => if j.done.isSome then (false, s) else (true, endJob p j stAborted 0 s)
  | none =>
    if s.dones.any (fun d => d.cmd = t) then (false, s)
    else
    match s.hubQs.find? (fun x => x.2.ring.any (fun r => r.cmd = t)) with
    | some (k, h) =>
      if (h.ring.head?).map (·.cmd) = some t then abortQueue (k / 32) (k % 32) stAborted s
      else (true, retireCmd t stAborted 0 0 0 false false (putHubQ (k / 32) (k % 32) { h with ring := h.ring.filter (fun r => r.cmd ≠ t) } s))
    | none =>
      match s.arb with
      | some (code, a) =>
        if a = t then
          (if code = 3 ∧ (servicePhys s).all (fun p => (standOf s p).drained) = false then (true, endLong stAborted 0 0 (undrain s))
            else (false, s))
        else (true, retireCmd t stAborted 0 0 0 false false s)
      | none => (true, retireCmd t stAborted 0 0 0 false false s)

/-- Is a slot of a ring posted and not fetched (R344)? -/
def posted (s : State) (p r slot : Nat) : Bool :=
  let q := ringOf s p r
  let n := crEntries s p r
  decide ((slot + n - q.sqHead) % n < (q.tail + n - q.sqHead) % n) && !q.skip.contains slot

/-- ABORT (R359, R360, R524, R528): `entry` is what host memory holds at the target slot. -/
def doAbort (c : Cmd) (entry : BitVec 512) (s : State) : State :=
  let tr := c.num 16 1
  let slot := c.num 18 2
  let id := BitVec.ofNat 16 (c.num 20 2)
  let rest := c.zero 17 1 && c.zero 22 42
  issueVerb 0x12 c rest (fun s =>
    if s.mode = .none then retireVerb c stAbortNoEffect 0 0 s
    else
      match c.issuer with
      | .mgmt _ _ =>
        if tr ≠ 0 ∨ slot ≠ 0 then refuse c stDescInvalid locNone s
        else
          (match (flightOf s c).find? (fun t => t.cmdId = id && decide (t ≠ c)) with
            | none => retireVerb c stAbortNoEffect 0 0 s
            | some t =>
              let (done, s) := abortTarget t s
              retireVerb c (if done then stDone else stAbortNoEffect) 0 0 s)
      | .host port _ =>
        let p := port.toNat
        if 63 < tr then refuse c stDescInvalid locNone s
        else if (ringOf s p tr).state ≠ 1 ∨ crEntries s p tr ≤ slot then refuse c stDescInvalid locNone s
        else
          (match (ringOf s p tr).flight.find? (fun t => t.slot.toNat = slot && t.cmdId = id && decide (t ≠ c)) with
            | some t =>
              let (done, s) := abortTarget t s
              retireVerb c (if done then stDone else stAbortNoEffect) 0 0 s
            | none =>
              let t := cmdOf (.host port (BitVec.ofNat 6 tr)) slot entry
              if posted s p tr slot && decide (t.cmdId = id) then
                let q := ringOf s p tr
                retireVerb c stDone 0 0 (retireCmd t stAborted 0 0 0 false false (putRing p tr { q with skip := q.skip ++ [slot] } s))
              else retireVerb c stAbortNoEffect 0 0 s)) s

def execAbort (c : Cmd) (posted : BitVec 512) (s : State) : Host.Outcome State Fault Refusal := .next (doAbort c posted s)

/-- The jobs that own a request of a port whose link goes down, each with the address of its first one (R364). -/
def downJobs (s : State) (p : Nat) : List (CopyJob × Nat) :=
  let q := portOf s p
  q.copies.filterMap (fun j =>
    match q.reads.find? (fun x => x.job = j.id && x.data.isNone) with
    | some x => some (j, x.addr)
    | none => j.uio.head?.map (fun x => (j, x.2)))

/-- A firmware transfer through a port is abandoned (R553). -/
def fwAbandon (p : Nat) (s : State) : State :=
  if s.fw.source = some (.host p) ∧ rf s RgrFwStatus.key RgrFwStatus.state = 1 then
    fwWaits (some stCxlLinkDown) s
  else s

/-- A port's link goes down (R349, R364, R368). -/
def portDown (p : Nat) (s : State) : State :=
  let s := putPort p { portOf s p with linkUp := false, status := 0, ideKey := 0 } s
  let s := (downJobs s p).foldl (fun s (j, a) => endJob p j stCxlLinkDown a s) s
  let s := gringsDown p (ringsDown p s)
  let s := { s with gul := { s.gul with cut := p :: s.gul.cut.erase p } }
  let s := rfput (evqCfgKey p) RingCfg.enable 0 s
  let s := (portOf s p).reqs.foldl (fun s r =>
    settleReq p { r with pieces := r.pieces.map (fun x => if x.st = 0 then { x with st := 2 } else x) } s) s
  fwAbandon p s

end Sys2Proof.Machine
end

