-- ==== Sys2Proof/Machine/Answer.lean ====
section
/-!
DEFINITION. The answers that end a DONE increment of a verb or a DMA_COPY (R278, R320, R345): an ACK, a NEGATIVE or a timeout
of its TALLY packet. A hub's descriptor looks for its answer at DESCRIPTOR_RETIRE.
-/

namespace Sys2Proof.Machine

/-- The ring DMA job whose DONE increment a packet carries: its port and the job. -/
def doneJob (s : State) (id : MeshSrc) : Option (Nat × CopyJob) :=
  s.ports.findSome? (fun x => (x.2.copies.find? (fun j => j.done = some id)).map (fun j => (x.1, j)))

/-- The DONE increment that a packet carried has ended (R278, R320). -/
def doneAnswered (id : MeshSrc) (st : Status) (s : State) : State :=
  match doneJob s id with
  | some (p, j) => endJob p j st 0 s
  | none => verbDone id st s

/-- ACK (R230): the increment, atomic, record or message has been taken. -/
def execAck (dst : MeshSrc) (s : State) : Host.Outcome State Fault Refusal :=
  .next (gotResponse dst .acked (fun _ s => doneAnswered dst stDone s) s)

/-- NEGATIVE (R230): the request has ended without effect. -/
def execNegative (dst : MeshSrc) (status : Status) (addr : BitVec 48) (s : State) : Host.Outcome State Fault Refusal :=
  .next (gotResponse dst (.negative status addr) (fun r s => doneAnswered dst status (svcFailed status r s)) s)

/-- SERVICE_TIMEOUT (R230), with what it ends at its source. -/
def execServiceTimeout (dst : MeshSrc) (s : State) : Host.Outcome State Fault Refusal :=
  .next (if (svcOf s dst).isSome then doneAnswered dst stServiceTimeout (doServiceTimeout dst s) else s)

end Sys2Proof.Machine
end

