-- ==== Sys2Proof/Machine/Sha.lean ====
section
/-!
DEFINITION. SHA-384 (FIPS 180-4), the digest of firmware, keys, fuse generations and the image (R532, R539).
-/

namespace Sys2Proof.Machine

/-- The 80 round constants. -/
def shaK : List Word :=
  [0x428A2F98D728AE22, 0x7137449123EF65CD, 0xB5C0FBCFEC4D3B2F, 0xE9B5DBA58189DBBC] ++
  [0x3956C25BF348B538, 0x59F111F1B605D019, 0x923F82A4AF194F9B, 0xAB1C5ED5DA6D8118] ++
  [0xD807AA98A3030242, 0x12835B0145706FBE, 0x243185BE4EE4B28C, 0x550C7DC3D5FFB4E2] ++
  [0x72BE5D74F27B896F, 0x80DEB1FE3B1696B1, 0x9BDC06A725C71235, 0xC19BF174CF692694] ++
  [0xE49B69C19EF14AD2, 0xEFBE4786384F25E3, 0x0FC19DC68B8CD5B5, 0x240CA1CC77AC9C65] ++
  [0x2DE92C6F592B0275, 0x4A7484AA6EA6E483, 0x5CB0A9DCBD41FBD4, 0x76F988DA831153B5] ++
  [0x983E5152EE66DFAB, 0xA831C66D2DB43210, 0xB00327C898FB213F, 0xBF597FC7BEEF0EE4] ++
  [0xC6E00BF33DA88FC2, 0xD5A79147930AA725, 0x06CA6351E003826F, 0x142929670A0E6E70] ++
  [0x27B70A8546D22FFC, 0x2E1B21385C26C926, 0x4D2C6DFC5AC42AED, 0x53380D139D95B3DF] ++
  [0x650A73548BAF63DE, 0x766A0ABB3C77B2A8, 0x81C2C92E47EDAEE6, 0x92722C851482353B] ++
  [0xA2BFE8A14CF10364, 0xA81A664BBC423001, 0xC24B8B70D0F89791, 0xC76C51A30654BE30] ++
  [0xD192E819D6EF5218, 0xD69906245565A910, 0xF40E35855771202A, 0x106AA07032BBD1B8] ++
  [0x19A4C116B8D2D0C8, 0x1E376C085141AB53, 0x2748774CDF8EEB99, 0x34B0BCB5E19B48A8] ++
  [0x391C0CB3C5C95A63, 0x4ED8AA4AE3418ACB, 0x5B9CCA4F7763E373, 0x682E6FF3D6B2B8A3] ++
  [0x748F82EE5DEFB2FC, 0x78A5636F43172F60, 0x84C87814A1F0AB72, 0x8CC702081A6439EC] ++
  [0x90BEFFFA23631E28, 0xA4506CEBDE82BDE9, 0xBEF9A3F7B2C67915, 0xC67178F2E372532B] ++
  [0xCA273ECEEA26619C, 0xD186B8C721C0C207, 0xEADA7DD6CDE0EB1E, 0xF57D4F7FEE6ED178] ++
  [0x06F067AA72176FBA, 0x0A637DC5A2C898A6, 0x113F9804BEF90DAE, 0x1B710B35131C471B] ++
  [0x28DB77F523047D84, 0x32CAAB7B40C72493, 0x3C9EBE0A15C9BEBC, 0x431D67C49C100D4C] ++
  [0x4CC5D4BECB3E42B6, 0x597F299CFC657E2A, 0x5FCB6FAB3AD6FAEC, 0x6C44198C4A475817]

/-- The initial hash value of SHA-384. -/
def shaInit : List Word :=
  [0xCBBB9D5DC1059ED8, 0x629A292A367CD507, 0x9159015A3070DD17, 0x152FECD8F70E5939] ++
  [0x67332667FFC00B31, 0x8EB44A8768581511, 0xDB0C2E0D64F98FA7, 0x47B5481DBEFA4FA4]

def shaRotr (x : Word) (n : Nat) : Word := (x >>> n) ||| (x <<< (64 - n))

/-- The message length is padded to whole blocks of 128 bytes: 0x80, zeros, and the bit length in 16 bytes. -/
def shaPad (bs : List Byte) : List Byte :=
  let n := bs.length
  bs ++ [0x80] ++ List.replicate ((239 - n % 128) % 128) 0 ++ (bytesLE 16 (8 * n)).reverse

/-- The big-endian word of eight bytes. -/
def shaWord (bs : List Byte) : Word := BitVec.ofNat 64 (ofBytesLE (bs.take 8).reverse)

def shaSig0 (x : Word) : Word := shaRotr x 1 ^^^ shaRotr x 8 ^^^ (x >>> 7)
def shaSig1 (x : Word) : Word := shaRotr x 19 ^^^ shaRotr x 61 ^^^ (x >>> 6)
def shaSum0 (x : Word) : Word := shaRotr x 28 ^^^ shaRotr x 34 ^^^ shaRotr x 39
def shaSum1 (x : Word) : Word := shaRotr x 14 ^^^ shaRotr x 18 ^^^ shaRotr x 41

/-- The last sixteen words of the schedule, oldest first, give the next. -/
def shaNext (w : List Word) : Word :=
  shaSig1 (w[14]?.getD 0) + w[9]?.getD 0 + shaSig0 (w[1]?.getD 0) + w[0]?.getD 0

/-- One round on (a … h). -/
def shaRound (v : List Word) (k w : Word) : List Word :=
  let g (i : Nat) : Word := v[i]?.getD 0
  let t1 := g 7 + shaSum1 (g 4) + ((g 4 &&& g 5) ^^^ (~~~(g 4) &&& g 6)) + k + w
  let t2 := shaSum0 (g 0) + ((g 0 &&& g 1) ^^^ (g 0 &&& g 2) ^^^ (g 1 &&& g 2))
  [t1 + t2, g 0, g 1, g 2, g 3 + t1, g 4, g 5, g 6]

/-- The rounds, each with the oldest word of the schedule. -/
def shaRounds : List Word → List Word → List Word → List Word
  | [], _, v => v
  | k :: ks, w, v => shaRounds ks (w.drop 1 ++ [shaNext w]) (shaRound v k (w.headD 0))

def shaBlock (h : List Word) (bs : List Byte) : List Word :=
  let w := (List.range 16).map (fun i => shaWord (bs.drop (8 * i)))
  (h.zip (shaRounds shaK w h)).map (fun (a, b) => a + b)

/-- SHA-384 as bytes, the most significant first. -/
def sha384 (bs : List Byte) : List Byte :=
  let p := shaPad bs
  let h := (List.range (p.length / 128)).foldl (fun h i => shaBlock h ((p.drop (128 * i)).take 128)) shaInit
  (h.take 6).flatMap (fun w => (bytesLE 8 w.toNat).reverse)

/-- A digest as a number, its first byte most significant. -/
def digestNum (bs : List Byte) : BitVec 384 := BitVec.ofNat 384 (ofBytesLE bs.reverse)

/-- HMAC-SHA-384 (FIPS 198-1), under a key of at most one block. -/
def hmac384 (key msg : List Byte) : List Byte :=
  let k := key ++ List.replicate (128 - key.length) 0
  sha384 (k.map (· ^^^ 0x5C) ++ sha384 (k.map (· ^^^ 0x36) ++ msg))

/-- The first 48 bytes of HKDF-SHA-384 (RFC 5869) from a secret, without salt, in a context. -/
def hkdf384 (secret info : List Byte) : List Byte := hmac384 (hmac384 [] secret) (info ++ [1])

end Sys2Proof.Machine
end

