-- ==== Sys2Proof/Machine/Fuses.lean ====
section
/-!
DEFINITION. The fuse banks (R541 to R544): the records of a generation (R542), the cruise map (R466, R467), the values
in force, and what FUSE_WRITE judges (R543).
-/

namespace Sys2Proof.Machine

/-- A record of a generation: TYPE, the offset of its body in the content, and the body (R542). -/
structure FuseRec where
  type : Nat
  off : Nat
  body : List Byte
  deriving DecidableEq, Repr

/-- The records of a content from an offset, or the byte offset of the first fault (R542, R543): a cut or reserved
record, a byte that is not 0, a TYPE met before, a body that does not fit. -/
def fuseRecs (bs : List Byte) : Nat → Nat → List Nat → Except Nat (List FuseRec)
  | 0, _, _ => .ok []
  | n + 1, o, seen =>
    if bs.length ≤ o then .ok []
    else
      let t := numAt bs o 1
      let l := numAt bs (o + 4) 4
      if bs.length < o + 8 ∨ t = 0 ∨ 4 < t ∨ seen.contains t = true then .error o
      else if numAt bs (o + 1) 3 ≠ 0 then .error (o + 1)
      else if bs.length < o + 8 + l then .error (o + 4)
      else (fuseRecs bs n (o + 8 + l) (t :: seen)).map (fun rs => ⟨t, o + 8, bytesAt bs (o + 8) l⟩ :: rs)

/-- The records of a content. -/
def contentRecs (bs : List Byte) : Except Nat (List FuseRec) := fuseRecs bs (bs.length / 8 + 1) 0 []

/-- The record of a TYPE in a content, if its records are well formed. -/
def recOf (bs : List Byte) (t : Nat) : Option FuseRec :=
  match contentRecs bs with
  | .ok rs => rs.find? (fun r => r.type = t)
  | .error _ => none

/-- The check of a cruise map body (R542): CRC-32C over the body up to the check, after a fold of the generation
number. -/
def mapCheck (gen : Nat) (body : List Byte) : Nat := crc32c (bytesLE 8 gen ++ body.take (body.length - 4))

/-- A site entry (R542), when it names an existing site. -/
def siteEntry (w : Nat) : Option Site :=
  if isPhys (natBits w 5 0) && decide (natBits w 18 12 < 66) && decide (natBits w 31 19 = 0) then
    some ⟨BitVec.ofNat 6 (natBits w 5 0), BitVec.ofNat 6 (natBits w 11 6), BitVec.ofNat 7 (natBits w 18 12)⟩
  else none

/-- Lanes of a seam direction (R25), spares included: 80 of a stand-to-stand seam, 18 of a ring seam. -/
def seamLanes (p d : Nat) : Nat := if (facing p d).isSome then 80 else 18

/-- The side under which a seam's lanes are listed: that of the stand of lower physical index, or the stand's own for a
ring seam (R466). -/
def seamHome (p d : Nat) : Nat × Nat :=
  match facing p d with
  | some q => if q < p then (q, opp d) else (p, d)
  | none => (p, d)

/-- A lane entry (R542), when it names an existing lane, under its listing stand. -/
def laneEntry (w : Nat) : Option SeamLane :=
  let p := natBits w 5 0
  let d := natBits w 7 6
  if isPhys p && decide (natBits w 14 8 < seamLanes p d) && !natBit w 15 then
    let h := seamHome p d
    some ⟨BitVec.ofNat 6 h.1, BitVec.ofNat 2 h.2, BitVec.ofNat 7 (natBits w 14 8)⟩
  else none

/-- A repair entry (R542), when it names an existing slice, wafer and row. -/
def repairEntry (w : Nat) : Option Repair :=
  if isPhys (natBits w 5 0) && decide (natBits w 13 12 < 3) && decide (natBits w 63 41 = 0) then
    some ⟨⟨BitVec.ofNat 6 (natBits w 5 0), BitVec.ofNat 6 (natBits w 11 6), BitVec.ofNat 2 (natBits w 13 12),
      BitVec.ofNat 18 (natBits w 31 14), false⟩, BitVec.ofNat 9 (natBits w 40 32), true⟩
  else none

/-- `n` entries of width `w` from an offset, or the offset of the first that is not valid. -/
def entriesAt {α : Type} (f : Nat → Option α) (bs : List Byte) (w : Nat) : Nat → Nat → Except Nat (List α)
  | 0, _ => .ok []
  | n + 1, o =>
    if bs.length < o + w then .error o
    else
      match f (numAt bs o w) with
      | none => .error o
      | some a => (entriesAt f bs w n (o + w)).map (a :: ·)

/-- The physical indices that name no stand, as a mask. -/
def noStandMask : Nat := 2 ^ 0 + 2 ^ 7 + 2 ^ 56 + 2 ^ 63

/-- The entry of a standby list (R466): a stand, or 0 for unused. -/
def standbyEntry (w : Nat) : Option Nat := if w = 0 ∨ isPhys w = true then some w else none

/-- A cruise map body (R466, R467, R542) of a generation, or the byte offset of its first fault. -/
def cruiseMap (gen : Nat) (bs : List Byte) : Except Nat CruiseMap :=
  if bs.length < 8 ∨ Nat.land (numAt bs 0 8) noStandMask ≠ 0 then .error 0
  else do
    let sb ← entriesAt standbyEntry bs 1 8 8
    let ns := numAt bs 16 2
    let sites ← entriesAt siteEntry bs 4 ns 18
    let o := 18 + 4 * ns
    let nl := numAt bs o 2
    let lanes ← entriesAt laneEntry bs 2 nl (o + 2)
    let o := o + 2 + 2 * nl
    let nr := numAt bs o 4
    let reps ← entriesAt repairEntry bs 8 nr (o + 4)
    let o := o + 4 + 8 * nr
    if bs.length ≠ o + 4 ∨ numAt bs o 4 ≠ mapCheck gen bs then .error o
    else .ok ⟨gen, BitVec.ofNat 64 (numAt bs 0 8), sb, sites, lanes, reps⟩

def fuseDflt (_ : Nat) : FuseGen := .init
def fuseOf (s : State) (g : Nat) : FuseGen := smapGet fuseDflt s.fuses g
def putFuse (g : Nat) (v : FuseGen) (s : State) : State := { s with fuses := smapSet fuseDflt s.fuses g v }

/-- The spare generations that are valid, newest first (R541). -/
def validGens (s : State) : List Nat := [8, 7, 6, 5, 4, 3, 2, 1].filter (fun g => (fuseOf s g).state = 1)

/-- The record of a TYPE in the newest valid spare generation that carries one. -/
def newestRec (s : State) (t : Nat) : Option FuseRec := (validGens s).findSome? (fun g => recOf (fuseOf s g).content t)

/-- The spare generations that carry a cruise map, newest first, each with its map if valid; then the factory's. -/
def mapGens (s : State) : List (Nat × Option CruiseMap) :=
  (validGens s).filterMap (fun g => (recOf (fuseOf s g).content 1).map (fun r => (g, (cruiseMap g r.body).toOption))) ++
  [(0, (cruiseMap 0 Config.factoryMap).toOption)]

/-- The cruise map in use (R467). -/
def mapInForce (s : State) : Option CruiseMap := (mapGens s).findSome? (·.2)

/-- The newer generations whose map is invalid (R467). -/
def mapsInvalid (s : State) : List Nat := ((mapGens s).takeWhile (fun x => x.2.isNone)).map (·.1)

/-- The revoked key slots, and the SVN floor in force (R541): the union, and the highest. -/
def revokedSlots (s : State) : Nat :=
  (validGens s).foldl (fun a g => match recOf (fuseOf s g).content 2 with
    | some r => Nat.lor a (numAt r.body 0 1 % 16)
    | none => a) 0
def svnFloor (s : State) : Nat :=
  (validGens s).foldl (fun a g => match recOf (fuseOf s g).content 2 with
    | some r => max a (numAt r.body 4 4)
    | none => a) Config.svnFloor.toNat

/-- The operator ceiling that a cold bring-up reads (R449, R541): the fused ceiling without operator settings. -/
def opCeilingFused (s : State) : Nat :=
  match newestRec s 3 with
  | some r => numAt r.body 0 4
  | none => Config.powerCeilW

/-- DEBUG_ALLOWED (R540, R541). -/
def debugAllowed (s : State) : Bool :=
  match newestRec s 3 with
  | some r => natBit (numAt r.body 4 1) 0
  | none => false

/-- The operator trust anchors in force (R541, R542): an all-zero digest is unused. -/
def trustAnchors (s : State) : List (BitVec 384) :=
  (match newestRec s 4 with
    | some r => [digestNum (bytesAt r.body 0 48), digestNum (bytesAt r.body 48 48)]
    | none => [Config.factoryAnchor 0, Config.factoryAnchor 1]).filter (· ≠ 0)

/-- The fault of a record that is to be written to a generation (R543), as a byte offset from its header: LEN at 4, the
body at 8. -/
def recFault (s : State) (gen : Nat) (r : FuseRec) : Option Nat :=
  let b := r.body
  if r.type = 1 then
    match cruiseMap gen b with
    | .error o => some (8 + o)
    | .ok _ => none
  else if r.type = 2 then
    if b.length ≠ 8 then some 4
    else if numAt b 0 1 ≥ 16 ∨ Nat.lor (revokedSlots s) (numAt b 0 1) = 15 then some 8
    else if numAt b 1 3 ≠ 0 then some 9
    else none
  else if r.type = 3 then
    if b.length ≠ 8 then some 4
    else if numAt b 0 4 < 4000 ∨ Config.powerCeilW < numAt b 0 4 then some 8
    else if numAt b 4 1 ≥ 2 then some 12
    else if numAt b 5 3 ≠ 0 then some 13
    else none
  else
    if b.length ≠ 96 then some 4
    else if ofBytesLE b = 0 then some 8
    else none

/-- The byte offset of the first fault of a content that is to be written to a generation (R543), the records before a
malformed one judged first. -/
def contentFault (s : State) (gen : Nat) (bs : List Byte) : Option Nat :=
  let rec go : Nat → Nat → List Nat → Option Nat
    | 0, _, _ => none
    | n + 1, o, seen =>
      if bs.length ≤ o then none
      else
        let t := numAt bs o 1
        let l := numAt bs (o + 4) 4
        if bs.length < o + 8 ∨ t = 0 ∨ 4 < t ∨ seen.contains t = true then some o
        else if numAt bs (o + 1) 3 ≠ 0 then some (o + 1)
        else if bs.length < o + 8 + l then some (o + 4)
        else
          match recFault s gen ⟨t, o + 8, bytesAt bs (o + 8) l⟩ with
          | some f => some (o + f)
          | none => go n (o + 8 + l) (t :: seen)
  go (bs.length / 8 + 1) 0 []

/-- CONTENT of a generation's content (R548). -/
def contentBits (bs : List Byte) : Nat :=
  match contentRecs bs with
  | .ok rs => rs.foldl (fun a r => Nat.lor a (2 ^ (r.type - 1))) 0
  | .error _ => 0

/-- OTP_GEN_g (R541, R548): a valid generation whose cruise map is invalid reads STATE 0x3. -/
def otpGenWord (s : State) (g : Nat) : Word :=
  let mk (c st : Nat) : Word := fldSet OtpGen.content (fldOf OtpGen.state st) c
  if g = 0 then mk 0x0B (if (cruiseMap 0 Config.factoryMap).toOption.isSome then 1 else 3)
  else
    let f := fuseOf s g
    if f.state = 1 then
      let bad := match recOf f.content 1 with
        | some r => (cruiseMap g r.body).toOption.isNone
        | none => false
      mk (contentBits f.content) (if bad then 3 else 1)
    else mk 0 f.state

/-- OTP_KEYS and OTP_GRADE (R548). -/
def otpKeysWord (s : State) : Word := fldSet OtpKeys.svnFloor (fldOf OtpKeys.revoked (revokedSlots s)) (svnFloor s)
def orderCode : Nat :=
  match Config.grade with
  | .jw9200 => 9200
  | .jw7400 => 7400
  | .jw5600 => 5600
def otpGradeWord : Word :=
  fldSet OtpGrade.orderCode (fldSet OtpGrade.slotCeilMhz (fldSet OtpGrade.powerCeilW (fldOf OtpGrade.vcoreMv Config.vcoreMv)
    Config.powerCeilW) (Config.slotCeilKhz / 1000)) orderCode

/-- Measurement 4 (R539): SHA-384 of every valid fuse generation, in generation order; the factory generation's bytes
are Config's. -/
def fuseMeasurement (s : State) : BitVec 384 :=
  digestNum (sha384 ((List.range 65536).map Config.factoryByte ++
    [1, 2, 3, 4, 5, 6, 7, 8].flatMap (fun g => if (fuseOf s g).state = 1 then (fuseOf s g).content else [])))

end Sys2Proof.Machine
end

