-- ==== Sys2Proof/Machine/Gulem.lean ====
section
/-!
DEFINITION. The generation service (R376 to R400): its rings, its requests, sessions and pages, and the first five actions
of a boundary (R384). The blaze of a boundary stands in Blaze.lean.
-/

namespace Sys2Proof.Machine

/-- A session of the service. -/
def gsDflt (_ : Nat) : GSess := .init
def gsOf (s : State) (n : Nat) : GSess := smapGet gsDflt s.gul.sessions n
def putGs (n : Nat) (v : GSess) (s : State) : State := { s with gul := { s.gul with sessions := smapSet gsDflt s.gul.sessions n v } }

/-- POS_PER_PAGE, J and the pages of the pool (R376). -/
def Service.ppp (v : Service) : Nat := 65536 / v.bpp
def Service.j (v : Service) : Nat := v.maxContext / v.ppp
def Service.poolPages (v : Service) : Nat := v.poolLength / 65536

/-- Blocks that hold n positions. -/
def blocksFor (v : Service) (n : Nat) : Nat := (n + v.ppp - 1) / v.ppp

/-- Entries of a Gulem ring and its status ring (R377, R396). -/
def gqEntries (s : State) (p q : Nat) : Nat := ringEntries (rg s (gqCfgKey p q))

/-- STATE of a Gulem ring (R349, R397): DISABLING ends when no request is unanswered and no record waits. -/
def gqState (s : State) (p q : Nat) : Nat :=
  let g := gringOf s p q
  if g.state = 2 ∧ g.recs.isEmpty = true ∧ s.gul.reqs.all (fun r => !(r.port = p && r.ring = q)) = true then 0 else g.state

/-- The 32 bytes of a status record (R381). -/
def grecBytes (r : GRec) (q : Nat) (phase : Bool) : List Byte :=
  bytesLE 2 r.session ++ bytesLE 2 r.status.toNat ++ bytesLE 2 r.reqId.toNat ++ bytesLE 2 r.eventNo ++
  [if phase then 1 else 0, BitVec.ofNat 8 q, 0, 0] ++ bytesLE 4 r.tokens ++ bytesLE 8 r.step ++ bytesLE 8 r.detail.toNat

/-- Write the records that wait, while slots are free (R381, R378): a ring of n entries holds n − 1 (R344). -/
def flushRecs (p q : Nat) : Nat → State → State
  | 0, s => s
  | k + 1, s =>
    let g := gringOf s p q
    let n := gqEntries s p q
    match g.recs with
    | [] => s
    | r :: rs =>
      if g.state = 0 ∨ n ≤ g.used + 1 then s
      else
        let nx := (g.pos + 1) % n
        let s := hostWrite (ringAddr (rg s (gsBaseKey p q)) + 32 * g.pos) (grecBytes r q g.phase) s
        let s := putGring p q { g with recs := rs, pos := nx, used := g.used + 1, phase := if nx = 0 then !g.phase else g.phase } s
        let s := if r.irq && fldGet RingCfg.irqEn (rg s (gqCfgKey p q)) = 1 then raiseIrq p q s else s
        flushRecs p q k s

/-- A status record for a ring: while the link is down it is discarded, and its status goes to the management network
(R349); it is held in order while the ring is full. -/
def pushRec (p q : Nat) (r : GRec) (s : State) : State :=
  if !(portOf s p).linkUp then discardGRec r s
  else
    let g := gringOf s p q
    flushRecs p q (g.recs.length + 1) (putGring p q { g with recs := g.recs ++ [r] } s)

/-- GULEM_REQUEST_DOORBELL (R339, R378): recorded in every module state. -/
def doGqDoorbell (p q v : Nat) (s : State) : State :=
  if gqEntries s p q ≤ v then countErr stDescInvalid (1 + p) 0 0 s
  else if gqState s p q = 0 then countErr stBadState (1 + p) 0 0 s
  else putGring p q { gringOf s p q with tail := v } s

def execGulemRequestDoorbell (port : BitVec 2) (ring : BitVec 4) (value : BitVec 16) (s : State) : Host.Outcome State Fault Refusal :=
  .next (doGqDoorbell port.toNat ring.toNat value.toNat s)

/-- GULEM_STATUS_DOORBELL (R339, R378): slots up to the new HEAD are free, and records that waited are written. -/
def doGsDoorbell (p q v : Nat) (s : State) : State :=
  let n := gqEntries s p q
  let g := gringOf s p q
  if n ≤ v then countErr stDescInvalid (1 + p) 0 0 s
  else if gqState s p q = 0 then countErr stBadState (1 + p) 0 0 s
  else flushRecs p q g.recs.length (putGring p q { g with head := v, used := g.used - (v + n - g.head) % n } s)

def execGulemStatusDoorbell (port : BitVec 2) (ring : BitVec 4) (value : BitVec 16) (s : State) : Host.Outcome State Fault Refusal :=
  .next (doGsDoorbell port.toNat ring.toNat value.toNat s)

/-- A write to RGR_GQ_CFG_q (R349, R396). -/
def doGqCfg (via : Via) (p q : Nat) (v : Word) (s : State) : Status × State :=
  let k := gqCfgKey p q
  viaWrite via k (fun s =>
    let g := gringOf s p q
    match ringWrite (rg s k) v with
    | .bad => (stBadState, s)
    | .enable => (stDone, flushRecs p q g.recs.length (putGring p q
        { g with state := 1, sqHead := 0, tail := 0, pos := 0, head := 0, used := 0, phase := true, safeHead := 0 } (plainWrite k v s)))
    | .disable => (stDone, putGring p q { g with state := 2 } (plainWrite k v s))
    | .keep => (stDone, plainWrite k v s)) s

/-- Are requests fetched (R377, R385)? -/
def gulFetching (s : State) : Bool := decide (s.mode = .running) && (imgService s.image).isSome && !s.gul.waiting

/-- May a request ring be fetched (R381)? -/
def gqFetchable (s : State) (p q : Nat) : Bool :=
  let g := gringOf s p q
  g.state = 1 && g.sqHead != g.tail && g.recs.isEmpty && decide (g.used + 1 < gqEntries s p q)

/-- The next ring of a port. -/
def gulTurn (s : State) (p : Nat) : Nat := natBits s.gul.turn (4 * p + 3) (4 * p)

/-- GULEM_REQUEST_FETCH (R377, R384): one entry, round robin over the rings of a port, with its prompt. -/
def doGulFetch (p : Nat) (entry : BitVec 512) (prompt : List (BitVec 32)) (fail : Option (Status × Word)) (s : State) : State :=
  if !gulFetching s || !rangerRuns s p || !(portOf s p).linkUp then s
  else
    match ((List.range 16).map (fun i => (gulTurn s p + i) % 16)).find? (gqFetchable s p) with
    | none => s
    | some q =>
      let g := gringOf s p q
      let s := putGring p q { g with sqHead := (g.sqHead + 1) % gqEntries s p q } s
      let turn := s.gul.turn - gulTurn s p * 16 ^ p + (q + 1) % 16 * 16 ^ p
      { s with gul := { s.gul with reqs := s.gul.reqs ++ [⟨p, q, entry, prompt, fail⟩], turn := turn } }

def execGulemRequestFetch (port : BitVec 2) (entry : BitVec 512) (prompt : List (BitVec 32)) (promptFail : Option (Status × BitVec 64))
    (s : State) : Host.Outcome State Fault Refusal := .next (doGulFetch port.toNat entry prompt promptFail s)

/-- A field of a request (R379). -/
def rqNum (e : BitVec 512) (o n : Nat) : Nat := numAt (vecBytes e) o n
def rqKind (e : BitVec 512) : Nat := rqNum e 0 1
def rqFlag (e : BitVec 512) (i : Nat) : Bool := natBit (rqNum e 1 1) i
def rqSession (e : BitVec 512) : Nat := rqNum e 4 2
def rqPromptLen (e : BitVec 512) : Nat := rqNum e 16 4
def rqMaxNew (e : BitVec 512) : Nat := rqNum e 20 4
def rqOut (e : BitVec 512) : Nat := rqNum e 48 8

/-- The SAMPLE descriptor of a session's turn (R390). -/
def sampleDesc (v : Service) (e : BitVec 512) (index : Nat) : List Byte :=
  [0x20] ++ List.replicate 15 0 ++ bytesLE 2 (v.lfmt * 4096) ++ bytesLE 2 0 ++ [if rqFlag e 0 then 0 else 1, 0] ++ bytesLE 2 (rqNum e 6 2) ++
  bytesLE 4 v.v ++ bytesLE 4 (rqNum e 32 4) ++ bytesLE 4 (rqNum e 36 4) ++ bytesLE 4 0 ++ bytesLE 8 (rqNum e 24 8) ++ bytesLE 8 index ++
  bytesLE 8 0

/-- The reservation of a turn, in blocks (R387). -/
def reservation (v : Service) (g : GSess) (e : BitVec 512) : Nat :=
  let base := if rqKind e = 2 then g.held + 1 else 0
  blocksFor v (min v.maxContext (base + rqPromptLen e + rqMaxNew e - 1))

/-- A malformed request (R379, R380). -/
def rqMalformed (e : BitVec 512) : Bool :=
  rqKind e = 0 || decide (4 < rqKind e) || decide (8 ≤ rqNum e 1 1) || decide (16384 ≤ rqSession e) ||
  (3 ≤ rqKind e && (rqFlag e 0 || rqFlag e 1 || rqNum e 6 58 != 0)) || (rqKind e ≤ 2 && rqMaxNew e = 0)

/-- What refuses a request (R380): the first condition that holds. -/
def rqRefusal (s : State) (v : Service) (p : Nat) (e : BitVec 512) : Option Status :=
  let g := gsOf s (rqSession e)
  let k := rqKind e
  if rqMalformed e then some stDescInvalid
  else if v.maxSessions ≤ rqSession e then some stAddrReserved
  else if k ≠ 1 ∧ g.state ≠ 0 ∧ g.port ≠ p then some stSessionPort
  else if k = 1 ∧ g.state ≠ 0 then some stSessionBusy
  else if (k = 2 ∨ k = 4) ∧ g.state = 0 then some stSessionFree
  else if (k = 2 ∨ k = 4) ∧ g.state ≠ 4 then some stBadState
  else if 3 ≤ k then none
  else if rqNum e 8 8 % 64 ≠ 0 ∨ rqOut e % 64 ≠ 0 then some stAddrAlign
  else if sampleParamBad (sampleDesc v e 0) = true ∨ 1024 < rqNum e 6 2 then some stSampleParam
  else if (k = 1 ∧ (rqPromptLen e = 0 ∨ v.maxContext < rqPromptLen e)) ∨ (k = 2 ∧ v.maxContext < g.held + 1 + rqPromptLen e) then
    some stContextLimit
  else if rqNum e 56 8 < 64 + 16 * rqMaxNew e then some stAreaShort
  else if v.poolPages < reservation v g e * v.streams then some stPoolShort
  else none

/-- A status record of a session, or of a session number that a request names (R381). -/
def sessRec (n p q : Nat) (st : Status) (reqId : BitVec 16) (detail : Word) (irq : Bool) (s : State) : State :=
  let g := gsOf s n
  let ev := (g.eventNo + 1) % 65536
  pushRec p q ⟨n, st, reqId, ev, g.next, s.gul.step, detail, irq⟩ (putGs n { g with eventNo := ev } s)

/-- A record of a session on the ring that opened it (R381). -/
def turnRec (n : Nat) (st : Status) (detail : Word) (s : State) : State :=
  let g := gsOf s n
  sessRec n g.port g.ring st g.reqId detail (rqFlag g.entry 2) s

/-- The header of a completion area (R392, R393). -/
def writeHeader (n : Nat) (st : Nat) (s : State) : State :=
  let g := gsOf s n
  if !(portOf s g.port).linkUp then s
  else hostWrite (rqOut g.entry) (bytesLE 4 g.made ++ bytesLE 2 st ++ [0, 0] ++ bytesLE 4 g.first ++ List.replicate 52 0) s

/-- A page-table entry (R389). -/
def pteAddr (v : Service) (n t b : Nat) : Nat := v.ptBase + 8 * ((n * v.streams + t) * v.j + b)

/-- Write a page-table entry. -/
def writePte (v : Service) (n t b page : Nat) (valid : Bool) (s : State) : State :=
  let a := pteAddr v n t b
  match placeOf s a 8 with
  | .dram p sl off => dramWrite p sl off a (bytesLE 8 (page + if valid then 2 ^ 63 else 0)) s
  | _ => s

/-- Write the entries of a session's blocks from block b on. -/
def writeBlocks (v : Service) (n : Nat) (valid : Bool) : Nat → List (List Nat) → State → State
  | _, [], s => s
  | b, blk :: rest, s =>
    writeBlocks v n valid (b + 1) rest
      ((blk.zip (List.range blk.length)).foldl (fun s (page, t) => writePte v n t b page valid s) s)

/-- A session becomes FREE, and its pages are released (R384, R389). -/
def freeSession (v : Service) (n : Nat) (s : State) : State :=
  let g := gsOf s n
  let s := writeBlocks v n false 0 g.blocks s
  let s := { s with gul := { s.gul with
    awaiting := s.gul.awaiting ++ g.blocks.flatten, queue := s.gul.queue.filter (· ≠ n), parked := s.gul.parked.filter (· ≠ n) } }
  putGs n { GSess.init with eventNo := g.eventNo, next := g.next, port := g.port, ring := g.ring, entry := g.entry, reqId := g.reqId } s

/-- A turn that ends otherwise than by its own token (R384, R393): header, record, FREE. -/
def dropTurn (v : Service) (n : Nat) (st : Status) (detail : Word) (s : State) : State :=
  let s := if (gsOf s n).state = 2 ∨ (gsOf s n).state = 3 then writeHeader n st.toNat s else s
  freeSession v n (turnRec n st detail s)

/-- Accept an OPEN or an EXTEND (R379, R382, R386). A prompt whose reading failed, or that holds a token outside the
vocabulary, ends the session (R383). -/
def acceptTurn (v : Service) (r : GReq) (n : Nat) (s : State) : State :=
  let g := gsOf s n
  let e := r.entry
  let len := rqPromptLen e
  let toks := (r.prompt.take len) ++ List.replicate (len - r.prompt.length) 0
  let ext : Bool := rqKind e = 2
  let id := BitVec.ofNat 16 (rqNum e 2 2)
  let g' : GSess := if ext then { g with state := 1, entry := e, reqId := id, prompt := g.last :: toks, first := g.next, made := 0 }
    else ⟨1, r.port, r.ring, e, id, toks, 0, 0, 0, 0, 0, [], 0, 0⟩
  let s := putGs n g' { s with gul := { s.gul with parked := s.gul.parked.filter (· ≠ n), queue := s.gul.queue ++ [n] } }
  let s := sessRec n r.port r.ring stSessionQueued id 0 (rqFlag e 2) s
  match r.fail with
  | some (st, a) => dropTurn v n st a s
  | none =>
    match findIdxSome (fun t => decide (v.v ≤ t.toNat)) toks with
    | some i => dropTurn v n stTokenRange (BitVec.ofNat 64 (g'.held + (if ext then 1 else 0) + i)) s
    | none => s

/-- Apply a request (R380, R384). -/
def applyReq (v : Service) (s : State) (r : GReq) : State :=
  let e := r.entry
  let n := rqSession e
  let id := BitVec.ofNat 16 (rqNum e 2 2)
  let answer (st : Status) (s : State) : State := sessRec n r.port r.ring st id 0 (rqFlag e 2) s
  match rqRefusal s v r.port e with
  | some st =>
    if v.maxSessions ≤ n then pushRec r.port r.ring ⟨n, st, id, 0, 0, s.gul.step, 0, rqFlag e 2⟩ s else answer st s
  | none =>
    let g := gsOf s n
    if rqKind e ≤ 2 then acceptTurn v r n s
    else if rqKind e = 3 then
      (if g.state = 0 ∨ g.state = 4 then answer stAbortNoEffect s
        else
          let s := if g.state = 1 then s else writeHeader n stSessionCancelled.toNat s
          freeSession v n (answer stSessionCancelled s))
    else freeSession v n (answer stSessionClosed s)

/-- The positions that the step in course processes (R384): one per session in DECODE, and PREFILL_MAX over those in
PREFILL, in ascending session number. -/
def batchOf (s : State) (v : Service) : List (Nat × Nat) :=
  (s.gul.sessions.foldl (fun (x : List (Nat × Nat) × Nat) (n, g) =>
    if g.state = 3 then (x.1 ++ [(n, 1)], x.2)
    else if g.state = 2 then
      let k := min x.2 g.prompt.length
      (if k = 0 then x.1 else x.1 ++ [(n, k)], x.2 - k)
    else x) ([], v.prefillMax)).1

/-- The end condition of a turn after a token (R386). -/
def turnEnd (v : Service) (g : GSess) (tok : Nat) : Option Status :=
  if (tok = rqNum g.entry 40 4 ∨ tok = rqNum g.entry 44 4) ∧ tok ≠ 0xFFFFFFFF then some stSessionEndStop
  else if rqMaxNew g.entry ≤ g.made then some stSessionEndMax
  else if v.maxContext ≤ g.held then some stSessionEndContext
  else none

/-- The 16 bytes of a token record (R392). -/
def tokenBytes (tok : Nat) (lp : Lane) (index kept : Nat) (last : Bool) : List Byte :=
  bytesLE 4 tok ++ bytesLE 4 lp.toNat ++ bytesLE 4 index ++ bytesLE 2 (min kept 0xFFFF) ++ [if last then 1 else 0, 0]

/-- Commit a token (R384, R386, R392, R393). -/
def commitToken (v : Service) (n tok : Nat) (lp : Lane) (kept : Nat) (s : State) : State :=
  let g := gsOf s n
  let index := g.next
  let g := { g with next := index + 1, made := g.made + 1, last := BitVec.ofNat 32 tok, state := 3 }
  let fin := turnEnd v g tok
  let s := if (portOf s g.port).linkUp then
      hostWrite (rqOut g.entry + 64 + 16 * (g.made - 1)) (tokenBytes tok lp index kept fin.isSome) s else s
  let s := putGs n g s
  match fin with
  | none => writeHeader n 0xFFFF s
  | some st =>
    let s := turnRec n st 0 (writeHeader n st.toNat s)
    if rqFlag g.entry 1 then
      putGs n { gsOf s n with state := 4, reserved := 0 } { s with gul := { s.gul with parked := s.gul.parked ++ [n] } }
    else freeSession v n s

/-- The commit of one session of the batch (R384): its sampled token, from the logits of the step, where its last prompt
position is processed. The SAMPLE descriptor retires on the engine of a stand (R390, R294). Without a sample (R288) nothing
of it is committed. -/
def commitOne (v : Service) (logits : List (BitVec 16 × List (BitVec 32))) (s : State) (x : Nat × Nat) : State :=
  let (n, k) := x
  let g := gsOf s n
  let rest := if g.state = 2 then g.prompt.drop k else []
  let g' := { g with held := g.held + k, prompt := rest }
  if !rest.isEmpty then putGs n g' s
  else
    let ls := ((logits.find? (fun y => y.1.toNat = n)).map (·.2)).getD []
    let p := (physOf s ((Config.sampleStand n).toNat % 56)).getD 0
    match sampleOf (sampleDesc v g.entry g.next) ((ls.take v.v).map (fun w => decodeElem v.lfmt w.toNat)) with
    | none => report stSampleInvalid false 1 (locStand s p) 0 (bytesLE 2 n) (ctlDesc p (opClass 0x20) stSampleInvalid s)
    | some (tok, lp, kept) => commitToken v n tok lp kept (ctlDesc p (opClass 0x20) stDone (putGs n g' s))

/-- The sessions of ports whose link is down, or has been at the last boundary or since, end (R393). -/
def linkEnds (v : Service) (s : State) : State :=
  (s.gul.sessions.filter (fun x => 1 ≤ x.2.state && x.2.state ≤ 3 && (!(portOf s x.2.port).linkUp || s.gul.cut.contains x.2.port))).foldl
    (fun s x => dropTurn v x.1 stCxlLinkDown 0 s)
    { s with gul := { s.gul with cut := s.gul.cut.filter (fun p => !(portOf s p).linkUp) } }

/-- Sessions in PREFILL or DECODE, and the pages reserved and not yet allocated (R387, R399, R400). -/
def gulActive (s : State) : List (Nat × GSess) := s.gul.sessions.filter (fun x => x.2.state = 2 || x.2.state = 3)
def gulReserved (s : State) (v : Service) : Nat :=
  (gulActive s).foldl (fun a x => a + (x.2.reserved - x.2.blocks.length) * v.streams) 0

/-- Pages that no session has reserved (R387). -/
def unreserved (s : State) (v : Service) : Nat := s.gul.free.length - gulReserved s v

/-- Evict PARKED sessions in order until enough pages await release (R388). -/
def evictLoop (v : Service) (need : Nat) : Nat → State → State
  | 0, s => s
  | k + 1, s =>
    if need ≤ unreserved s v + s.gul.awaiting.length then s
    else
      match s.gul.parked with
      | [] => s
      | n :: _ => evictLoop v need k (freeSession v n (turnRec n stSessionEvicted 0 s))

/-- Eviction for the head of the queue (R388). -/
def evictFor (v : Service) (need : Nat) (s : State) : State :=
  let parked := s.gul.parked.foldl (fun a n => a + ((gsOf s n).blocks.map List.length).sum) 0
  if rf s RgrGulCfg.key RgrGulCfg.evictParked = 1 ∧ need ≤ unreserved s v + s.gul.awaiting.length + parked then
    evictLoop v need s.gul.parked.length s
  else s

/-- Admit QUEUED sessions in order (R387, R393). -/
def admitLoop (v : Service) : Nat → State → State
  | 0, s => s
  | k + 1, s =>
    match s.gul.queue with
    | [] => s
    | n :: rest =>
      let g := gsOf s n
      let r := reservation v g g.entry
      let need := (r - g.blocks.length) * v.streams
      if v.bMax ≤ (gulActive s).length then s
      else if need ≤ unreserved s v then
        let s := putGs n { g with state := 2, reserved := r } { s with gul := { s.gul with queue := rest } }
        admitLoop v k (turnRec n stSessionActive 0 (writeHeader n 0xFFFF s))
      else evictFor v need s

/-- Allocate blocks (R389). -/
def allocBlocks (v : Service) (n : Nat) : Nat → State → State
  | 0, s => s
  | k + 1, s =>
    let g := gsOf s n
    let pages := s.gul.free.take v.streams
    let s := writeBlocks v n true g.blocks.length [pages] { s with gul := { s.gul with free := s.gul.free.drop v.streams } }
    allocBlocks v n k (putGs n { g with blocks := g.blocks ++ [pages] } s)

/-- The blocks that the next step needs (R384, R389). -/
def allocate (v : Service) (s : State) : State :=
  (batchOf s v).foldl (fun s (n, k) =>
    let g := gsOf s n
    allocBlocks v n (blocksFor v (g.held + k) - g.blocks.length) s) s

/-- Actions 1 to 5 of a boundary (R384). -/
def gulActions (v : Service) (logits : List (BitVec 16 × List (BitVec 32))) (s : State) : State :=
  let s := (batchOf s v).foldl (commitOne v logits) s
  let s := linkEnds v s
  let rs := s.gul.reqs
  let s := rs.foldl (applyReq v) { s with gul := { s.gul with reqs := [] } }
  allocate v (admitLoop v (s.gul.queue.length + 1) s)

/-- Pages in ascending address order. -/
def sortPages (l : List Nat) : List Nat := l.mergeSort (· ≤ ·)

/-- A blaze has retired ST_DONE (R389, R394): pages join the free list, and the safe heads and the safe step advance. -/
def gulBlazed (s : State) : State :=
  let s := (s.gul.rings.map (·.1)).foldl (fun s k =>
    let g := gringOf s (k / 16) (k % 16)
    putGring (k / 16) (k % 16) { g with safeHead := g.sqHead } s) s
  let s := { s with gul := { s.gul with
    free := s.gul.free ++ sortPages s.gul.awaiting, awaiting := [], waiting := false, blazing := false } }
  if (imgService s.image).isSome then rput RgrGulSafe.key (BitVec.ofNat 64 s.gul.step) s else s

/-- The next step begins (R384, R385). -/
def gulNextStep (s : State) : State :=
  if s.gul.ended then { s with gul := { s.gul with step := s.gul.step + 1, ended := false, waiting := false } } else s

/-- The last step that has ended (R381). -/
def lastStep (s : State) : Nat := if s.gul.ended then s.gul.step else s.gul.step - 1

/-- LOAD_IMAGE ends every session and fills the free list (R377). Requests fetched and not applied still wait for a boundary:
each gets its record (R381). -/
def gulLoad (img : List Byte) (s : State) : State :=
  let s := { s with gul := { s.gul with step := lastStep s } }
  let s := (s.gul.sessions.filter (fun x => x.2.state ≠ 0)).foldl (fun s x =>
    let s := if x.2.state = 2 ∨ x.2.state = 3 then writeHeader x.1 stSessionUnloaded.toNat s else s
    turnRec x.1 stSessionUnloaded 0 s) s
  let free := match imgService img with
    | some v => (List.range v.poolPages).map (fun i => v.poolBase + 65536 * i)
    | none => []
  { s with gul := { Gul.init with rings := s.gul.rings, reqs := s.gul.reqs, turn := s.gul.turn, cut := s.gul.cut, free := free } }

/-- SERVICE, PARKED, QUEUED and ACTIVE of RGR_GUL_STATUS (R399). -/
def gulStatus (s : State) : Word :=
  let n (st : Nat) : Nat := (s.gul.sessions.filter (fun x => x.2.state = st)).length
  let svc := if (imgService s.image).isNone then 0 else if gulFetching s then 2 else 1
  fldSet RgrGulStatus.service (fldSet RgrGulStatus.parked (fldSet RgrGulStatus.queued
    (fldOf RgrGulStatus.active (gulActive s).length) (n 1)) (n 4)) svc

/-- RGR_GUL_PAGES (R400). -/
def gulPages (s : State) : Word :=
  match imgService s.image with
  | none => 0
  | some v => fldSet RgrGulPages.reserved (fldOf RgrGulPages.free s.gul.free.length) (gulReserved s v)

/-- RGR_GQ_STATE_q (R397). -/
def gqStateWord (s : State) (p q : Nat) : Word :=
  let g := gringOf s p q
  fldSet RgrGqState.state (fldSet RgrGqState.safeHead (fldSet RgrGqState.gsPos (fldOf RgrGqState.sqHead g.sqHead) g.pos) g.safeHead)
    (gqState s p q)

end Sys2Proof.Machine
end

