-- ==== Sys2Proof/Machine/Clocks.lean ====
section
/-!
DEFINITION. The ring clocks (R422, R423), the small domains (R431, R432) and the gating tree of a stand (R433 to R438).
-/

namespace Sys2Proof.Machine

/-- STATE of CLK_REF_STATUS (R440). -/
def refState (s : State) : Nat := rf s ClkRefStatus.key ClkRefStatus.state

/-- Does a slot clock, or the clock of a stand screened at its own ratio, lie above the fused ceiling (R5, R417; log entry
26)? -/
def aboveCeiling (s : State) (khz : Nat) : Bool :=
  decide (Config.slotCeilKhz < khz) ||
    physList.any (fun p => decide (1000 * Config.slotCeilKhz < khz * rf s (ClkDiv.key p) ClkDiv.ratio))

/-- What refuses a slot clock (R423). -/
def slotRefusal (s : State) (khz : Nat) : Option Status :=
  if khz < 250000 then some stClockRange
  else if aboveCeiling s khz then some stClockAboveCeiling
  else if hasImage s = true ∧ imgClock s.image < khz then some stImageClock
  else if refState s = 2 ∨ refState s = 3 then some stSrcNotReady
  else none

/-- Begin a glide to the requested slot clock (R423). Without a reference yet there is no clock to glide. -/
def startGlide (khz : Nat) (s : State) : State :=
  let s := rfput ClkSlotCfg.key ClkSlotCfg.khz khz s
  if refState s = 0 then s
  else rfput ClkSlotStatus.key ClkSlotStatus.gliding 1 { s with ringClk := { s.ringClk with glide := some khz } }

/-- A write to CLK_SLOT_CFG (R423). -/
def doSlotCfg (via : Via) (v : Word) (s : State) : Status × State :=
  viaWrite via ClkSlotCfg.key (fun s =>
    let khz := fldGet ClkSlotCfg.khz v
    if s.ringClk.glide.isSome = true ∧ refState s = 1 then (stBadState, s)
    else
      match slotRefusal s khz with
      | some st => (st, s)
      | none => (stDone, startGlide khz s)) s

/-- CLK_SLOT_CFG_WRITE (R423). -/
def execClkSlotCfgWrite (via : Via) (value : Word) (s : State) : Host.Outcome State Fault Refusal :=
  .next (doSlotCfg via value s).2

/-- The kHz of a SET_CLOCK (R350). -/
def setClockKhz (c : Cmd) : Nat := c.num 16 4

/-- The arbiter's code of a SET_CLOCK that waits for the end of a glide (R423). -/
def codeClockWaits : Nat := 0x10D

/-- SET_CLOCK (R423): after a glide in progress it applies its checks; it retires when its own glide ends. -/
def doSetClock (c : Cmd) (s : State) : State :=
  issueVerb 0x0D c (c.zero 20 44) (fun s =>
    if s.ringClk.glide.isSome = true ∧ refState s = 1 then beginLong codeClockWaits c s
    else
      match slotRefusal s (setClockKhz c) with
      | some st => refuse c st locNone s
      | none =>
        if refState s = 0 then retireVerb c stDone 0 0 (startGlide (setClockKhz c) s)
        else beginLong 0x0D c (startGlide (setClockKhz c) s)) s

def execSetClock (c : Cmd) (s : State) : Host.Outcome State Fault Refusal := .next (doSetClock c s)

/-- What the control arbiter does as a glide ends (R423). -/
def afterGlide (s : State) : State :=
  match s.arb with
  | some (code, c) =>
    if code = 0x0D then endLong stDone 0 0 s
    else if code = codeClockWaits then
      (match slotRefusal s (setClockKhz c) with
        | some st => endLong st 0 locNone s
        | none => startGlide (setClockKhz c) { s with arb := some (0x0D, c) })
    else s
  | none => s

/-- GLIDE_END (R423): the slot clock is at its target; a relock ends locked (R422). -/
def doGlideEnd (s : State) : State :=
  match s.ringClk.glide with
  | none => s
  | some khz =>
    let s := { s with ringClk := { s.ringClk with glide := none } }
    let s := rfput ClkSlotStatus.key ClkSlotStatus.gliding 0 (rfput ClkSlotStatus.key ClkSlotStatus.currentKhz khz s)
    let s := rfput ClkSlotStatus.key ClkSlotStatus.locked 1 (rfput ClkRefStatus.key ClkRefStatus.state 1 s)
    afterGlide s

def execGlideEnd (s : State) : Host.Outcome State Fault Refusal := .next (doGlideEnd s)

/-- Where between two frequencies an interrupted glide has come: a free value (log entry 4). -/
def glideStop (a b : Nat) (w : Word) : Nat := min a b + w.toNat % (max a b - min a b + 1)

/-- A glide is cut off: a SET_CLOCK that waited for its end applies its checks (R423). One whose own glide it was waits for
lock. -/
def glideCut (s : State) : State :=
  if s.arb.any (fun x => x.1 = codeClockWaits) then afterGlide s else s

/-- REF_LOST (R422, R545): the ring slot PLL enters holdover, its control word frozen. -/
def doRefLost (s : State) : State :=
  if refState s = 1 ∨ refState s = 3 then
    let cut := s.ringClk.glide.isSome
    let s := match s.ringClk.glide with
      | none => s
      | some khz =>
        let (w, s) := draw s
        rfput ClkSlotStatus.key ClkSlotStatus.currentKhz (glideStop (rf s ClkSlotStatus.key ClkSlotStatus.currentKhz) khz w) s
    let s := { s with ringClk := ⟨false, none⟩ }
    let s := rfput ClkSlotStatus.key ClkSlotStatus.gliding 0 (rfput ClkSlotStatus.key ClkSlotStatus.locked 0 s)
    let s := rfsat ClkRefStatus.key ClkRefStatus.losses 1 (rfput ClkRefStatus.key ClkRefStatus.state 2 s)
    let s := report stRefLost false 0 locNone 0 [] (rfput ClkPpsStatus.key ClkPpsStatus.refHold 1 s)
    if cut then glideCut s else s
  else if s.ringClk.refOk then
    report stRefLost false 0 locNone 0 [] (rfsat ClkRefStatus.key ClkRefStatus.losses 1 { s with ringClk := { s.ringClk with refOk := false } })
  else s

def execRefLost (s : State) : Host.Outcome State Fault Refusal := .next (doRefLost s)

/-- REFERENCE_RETURN (R422): the PLL stays in holdover; the first reference after power-on locks it. -/
def doRefReturn (s : State) : State :=
  if s.ringClk.refOk then s
  else
    let s := rfput ClkPpsStatus.key ClkPpsStatus.refHold 0 { s with ringClk := { s.ringClk with refOk := true } }
    if refState s = 0 then
      rfput ClkRefStatus.key ClkRefStatus.state 1 (rfput ClkSlotStatus.key ClkSlotStatus.locked 1
        (rfput ClkSlotStatus.key ClkSlotStatus.currentKhz (rf s ClkSlotCfg.key ClkSlotCfg.khz) s))
    else s

def execReferenceReturn (s : State) : Host.Outcome State Fault Refusal := .next (doRefReturn s)

/-- A write of 1 to REACQUIRE (R83, R422). -/
def doReacquire (via : Via) (s : State) : Status × State :=
  viaWrite via ClkRefCtl.key (fun s =>
    if !s.ringClk.refOk then (stRefLost, s)
    else if refState s = 2 then
      (let khz := rf s ClkSlotCfg.key ClkSlotCfg.khz
        if hasImage s = true ∧ imgClock s.image < khz then (stImageClock, s)
        else (stDone, startGlide khz (rfput ClkRefStatus.key ClkRefStatus.state 3 s)))
    else (stDone, s)) s

/-- REACQUIRE (R422). -/
def execReacquire (via : Via) (s : State) : Host.Outcome State Fault Refusal := .next (doReacquire via s).2

/-- The values of the dividers that are allowed (R431). -/
def divOk (v : Word) : Bool :=
  (let h := fldGet ClkDiv.hubDiv v; 1 ≤ h && h ≤ 4) &&
  (let d := fldGet ClkDiv.stdDiv v; d = 1 || d = 2 || d = 4) &&
  (let d := fldGet ClkDiv.dslDiv v; d = 1 || d = 8)

/-- The number of dividers that a write changes (R432). -/
def divChanges (old new : Word) : Nat :=
  ([ClkDiv.hubDiv, ClkDiv.stdDiv, ClkDiv.dslDiv].filter (fun f => fldGet f old ≠ fldGet f new)).length

/-- A write to CLK_DIV (R431, R432). -/
def doClkDiv (via : Via) (p : Nat) (v : Word) (s : State) : Status × State :=
  let k := ClkDiv.key p
  viaWrite via k (fun s =>
    let w := rg s k
    if !divOk v then (stClockRange, s)
    else if fldGet ClkDiv.dslDiv w ≠ fldGet ClkDiv.dslDiv v ∧ (roleOf s p = 1 ∨ roleOf s p = 2) then (stBadState, s)
    else (stDone, rfsat k ClkDiv.divSwitches (divChanges w v) (plainWrite k v s))) s

/-- CLK_DIV_WRITE (R431). -/
def execClkDivWrite (via : Via) (phys : BitVec 6) (value : Word) (s : State) : Host.Outcome State Fault Refusal :=
  .next (doClkDiv via phys.toNat value s).2

/-- The gate nodes (R433). -/
def isGate (n : Nat) : Bool := n ≤ 5 || (0x10 ≤ n && n ≤ 0x20) || (0x40 ≤ n && n ≤ 0xBF) || (0x100 ≤ n && n ≤ 0x2FF)

/-- The parent of a gate node within the stand (R433). -/
def gateParent (n : Nat) : Option Nat :=
  if n = 0 then none
  else if n ≤ 5 ∨ (0x80 ≤ n ∧ n ≤ 0xBF) then some 0
  else if n < 0x80 then some 1
  else some (0x80 + (n - 0x100) / 8)

/-- The ancestors of a gate node (R433). -/
def gateAnc : Nat → Nat → List Nat
  | 0, _ => []
  | k + 1, n =>
    match gateParent n with
    | some m => m :: gateAnc k m
    | none => []

/-- The descendants of a gate node (R433). -/
def gateDesc (n : Nat) : List Nat := (List.range 0x300).filter (fun m => isGate m && (gateAnc 3 m).contains n)

/-- The array indices of an array group (R433, R434). -/
def groupArrays (n : Nat) : List Nat :=
  let i := n - 0x100
  (List.range 8).map (fun j => arrIdx (8 * (i / 8 % 8) + j) (8 * (i / 64) + i % 8))

/-- Has an array an ACTIVE stage or an active generator (R101, R175, R435)? -/
def arrBusyUse (s : State) (p a : Nat) : Bool :=
  if isMemIdx a then (List.range 3).any (fun g => rf s (MaGenCfg.key p a g) MaGenCfg.mode != 0 && rg s (MaGenAct.key p a g) != 0)
  else (List.range 8).any (fun st => rf s (CaStageCfg.key p a st) CaStageCfg.active = 1)

/-- The class and index of the hub engine of a requester bit (R264). -/
def engineOfBit (b : Nat) : List (Nat × Nat) :=
  ((List.range 10).flatMap (fun c => (List.range 8).map (fun i => (c, i)))).filter
    (fun (c, i) => 3 ≤ c && decide (i < engineCount c) && engineBit c i = b)

/-- Is a gate node in use (R435)? A patch is while a descriptor's next access goes over its DRAM path. -/
def gateInUse (s : State) (p n : Nat) : Bool :=
  if n ≤ 1 ∨ (0x40 ≤ n ∧ n < 0x80) then roleOf s p = 1 || roleOf s p = 2
  else if n ≤ 5 then
    rf s (SeamStatus.key p (n - 2)) SeamStatus.state = 1 || rf s (SeamStatus.key p (n - 2)) SeamStatus.state = 2
  else if n ≤ 0x20 then
    (n = 0x1F && blzActive s p) || (engineOfBit (n - 0x10)).any (fun (c, i) => (List.range 32).any (fun q =>
      qClass s p q = c && qIndex s p q = i && qMode s p q != 0 && ((execOf s p q).isSome ||
        rf s (HubQState.key p q) HubQState.state = 1)))
  else if n ≤ 0xBF then (requests s p).any (fun x => x.2.2.contains (n - 0x40))
  else decide (s.mode = .running) && (groupArrays n).any (arrBusyUse s p)

/-- Can draining end a node's use (R435)? -/
def drainEnds (n : Nat) : Bool := (0x10 ≤ n && n ≤ 0x20) || 0x80 ≤ n

/-- The node with its ungated descendants (R436). -/
def gateTree (s : State) (p n : Nat) : List Nat := n :: (gateDesc n).filter (fun m => gateSt s p m ≠ 1)

/-- Gate a node and every descendant (R436). -/
def gateAll (p n : Nat) (s : State) : State := (n :: gateDesc n).foldl (fun s m => putGate p m 1 s) s

/-- The operations of CLK_GATE_CMD (R436). -/
inductive GateOp where
  | on
  | off
  | offAfterDrain
  | cancel
  deriving DecidableEq, Repr

/-- A gate command (R436). -/
def gateApply (op : GateOp) (p n : Nat) (s : State) : Status × State :=
  if !isGate n then (stAddrReserved, s)
  else
    match op with
    | .on => (stDone, (gateAnc 3 n).foldl (fun s m => if gateSt s p m = 1 then putGate p m 0 s else s) (putGate p n 0 s))
    | .off => if (gateTree s p n).any (gateInUse s p) then (stChildActive, s) else (stDone, gateAll p n s)
    | .offAfterDrain =>
      if (gateTree s p n).any (fun m => gateInUse s p m && !drainEnds m) then (stChildActive, s)
      else (stDone, if gateSt s p n = 1 then s else putGate p n 2 s)
    | .cancel => (stDone, if gateSt s p n = 2 then putGate p n 0 s else s)

/-- A write to CLK_GATE_CMD (R436): a refusal is counted and recorded. -/
def doGate (via : Via) (op : GateOp) (p n : Nat) (s : State) : Status × State :=
  viaWrite via (ClkGateCmd.key p) (fun s =>
    let (st, t) := gateApply op p n s
    (st, if st = stDone then t else rfput (ClkGateState.key p) ClkGateState.lastStatus st.toNat t)) s

/-- GATE_ON (R436). -/
def execGateOn (via : Via) (phys : BitVec 6) (node : BitVec 10) (s : State) : Host.Outcome State Fault Refusal :=
  .next (doGate via .on phys.toNat node.toNat s).2

/-- GATE_OFF (R436). -/
def execGateOff (via : Via) (phys : BitVec 6) (node : BitVec 10) (s : State) : Host.Outcome State Fault Refusal :=
  .next (doGate via .off phys.toNat node.toNat s).2

/-- GATE_OFF_AFTER_DRAIN (R436, R437). -/
def execGateOffAfterDrain (via : Via) (phys : BitVec 6) (node : BitVec 10) (s : State) : Host.Outcome State Fault Refusal :=
  .next (doGate via .offAfterDrain phys.toNat node.toNat s).2

/-- GATE_CANCEL (R436). -/
def execGateCancel (via : Via) (phys : BitVec 6) (node : BitVec 10) (s : State) : Host.Outcome State Fault Refusal :=
  .next (doGate via .cancel phys.toNat node.toNat s).2

/-- GATE_PENDING_COMPLETE (R437). -/
def execGatePendingComplete (phys : BitVec 6) (node : BitVec 10) (s : State) : Host.Outcome State Fault Refusal :=
  .next (if gateSt s phys.toNat node.toNat = 2 ∧ (gateTree s phys.toNat node.toNat).any (gateInUse s phys.toNat) = false
    then gateAll phys.toNat node.toNat s else s)

/-- LOAD_IMAGE sets ON every node of every in-service stand and cancels every pending state (R437). -/
def gatesOn (s : State) : State := { s with gates := s.gates.filter (fun x => roleOf s (x.1 / 1024) ≠ 1 && x.2 ≠ 2) }

/-- The first gate node that bars START and RESUME (R438). -/
def gateBars (s : State) : Option (Nat × Nat) :=
  (servicePhys s).findSome? (fun p =>
    ((List.range 0x300).find? (fun n => gateSt s p n != 0 && isGate n &&
      (0x100 ≤ n || (0x10 ≤ n && n ≤ 0x20 && (engineOfBit (n - 0x10)).any (fun (c, i) =>
        (List.range 28).any (fun q => qMode s p q != 0 && qClass s p q = c && qIndex s p q = i)))))).map (fun n => (p, n)))

/-- What refuses START and RESUME by R438: the LOCATION of the node. -/
def gateRefusal (s : State) : Option Word :=
  (gateBars s).map (fun (p, n) => locUnit (logicalOf s p) p 0 0 0 0 n)

end Sys2Proof.Machine
end

