-- ==== Sys2Proof/Machine/Lockstep.lean ====
section
/-!
DEFINITION. Lock-step (R407 to R415): SET_LOCKSTEP, the blocks and their sends, comparison and time-outs; the trace areas
(R416).
-/

namespace Sys2Proof.Machine

/-- Is lock-step mode on (R415)? -/
def lsMode (s : State) : Bool := rf s RgrLsStatus.key RgrLsStatus.mode = 1
def lsPort (s : State) : Nat := rf s RgrLsStatus.key RgrLsStatus.port

/-- The own and the inbound block of a slot (R406). -/
def lsDflt (_ : Nat) : Option LsBlock := none
def lsOwn (s : State) (k : Nat) : Option LsBlock := smapGet lsDflt s.lsOn.own k
def lsIn (s : State) (k : Nat) : Option LsBlock := smapGet lsDflt s.lsOn.inbound k
def putOwn (k : Nat) (v : Option LsBlock) (s : State) : State :=
  { s with lsOn := { s.lsOn with own := smapSet lsDflt s.lsOn.own k v } }
def putIn (k : Nat) (v : Option LsBlock) (s : State) : State :=
  { s with lsOn := { s.lsOn with inbound := smapSet lsDflt s.lsOn.inbound k v } }

/-- Read and write the lock-step region, whose words are raw DRAM bytes (R406). -/
def lsRead (s : State) (off n : Nat) : List Byte :=
  (slotsOf (s.lsOn.base + off) n).flatMap (fun (a, m) =>
    match placeOf s a m with
    | .dram p sl o => (smapGetMany memDflt s.mem (dramKey p sl o) m)
    | _ => List.replicate m 0)
def lsWrite (off : Nat) (bs : List Byte) (s : State) : State :=
  (slotsOf (s.lsOn.base + off) bs.length).foldl (fun s (a, m) =>
    match placeOf s a m with
    | .dram p sl o => dramWrite p sl o a (bytesAt bs (a - (s.lsOn.base + off)) m) s
    | _ => s) s

/-- The fields of a SET_LOCKSTEP (R407). -/
def slMode (c : Cmd) : Nat := c.num 16 1
def slTrace (c : Cmd) : Nat := c.num 17 1
def slTally (c : Cmd) : Nat := c.num 20 2
def slBase (c : Cmd) : Nat := c.num 24 8

/-- The first check of SET_LOCKSTEP (R407). -/
def slBodyOk (c : Cmd) : Bool :=
  decide (slMode c ≤ 1 ∧ slTrace c ≤ 1 ∧ c.num 18 1 ≤ 3 ∧ c.num 19 1 ≤ 2 ∧ 1 ≤ c.num 44 4 ∧ c.num 44 4 ≤ 600000 ∧ c.num 48 8 ≤ c.num 56 8) &&
  c.zero 22 2

/-- Does a DRAM range of an image overlap the lock-step region at a base (R407, R408)? -/
def imgOverlaps (img : List Byte) (base : Nat) : Bool :=
  (imgRegions img).any (fun r => decide (r.base < base + 0x200000 ∧ base < r.base + r.len))

/-- The operations that carry the mark with DVAR 0 (R133). -/
def markedOp (op : Nat) (dvar : Bool) : Bool :=
  !dvar && (op = 0x63 || op = 0x69 || op = 0x74 || op = 0x75 || op = 0x76 || op = 0x77)

/-- Does an op-program entry carry the mark (R133)? -/
def markedEntry (w : Word) : Bool :=
  let e := entryOf w
  let op := fldGet CaOp.opcode w
  fldGet CaOp.valid w = 1 && (usesSre e || markedOp op e.dvar)

/-- The op-program entries that an image's register lists hold: CONFIG, PLAN_SET and PARITY_SET (R134, R356). -/
def imgOps (img : List Byte) : List (Nat × Word) :=
  ((imgSectionList img).filter (fun x => x.type = 1 || x.type = 2 || x.type = 3)).flatMap (fun x =>
    (regList img x).filter (fun (a, _) => suClass a = 15 && decide (suOff a < 0x400) && !isMemIdx (suIndex a)))

/-- Does an image hold a marked entry (R134, R406)? -/
def imgMarked (img : List Byte) : Bool := (imgOps img).any (fun x => markedEntry x.2)

/-- What refuses a SET_LOCKSTEP whose first check passes (R407). The tally that lock-step itself has set is not busy. -/
def slRefusal (s : State) (c : Cmd) : Option Status :=
  let i := slTally c - 0xE000
  if slMode c = 0 ∧ slTrace c = 0 then none
  else if slBase c % 0x200000 ≠ 0 then some stAddrAlign
  else if 56 * 64 * sliceBytes < slBase c + 0x200000 ∨ imgOverlaps s.image (slBase c) = true ∨ slTally c < 0xE000 ∨ 0xEFFF < slTally c then
    some stAddrReserved
  else if rf s (TlyCfg.key true 0 i) TlyCfg.watchEn = 1 ∧ ¬(lsMode s = true ∧ s.lsOn.mbox = i) then some stTallyBusy
  else if slMode c = 1 ∧ (imgMarked s.image = true ∨ (imgService s.image).isSome = true) then some stImageNondet
  else none

/-- Accept a SET_LOCKSTEP (R407, R415). -/
def slAccept (c : Cmd) (s : State) : State :=
  let port := c.num 18 1
  let i := slTally c - 0xE000
  let s := if lsMode s then rfput (TlyCfg.key true 0 s.lsOn.mbox) TlyCfg.watchEn 0 s else s
  let s := rput RgrLsStatus.key (fldSet RgrLsStatus.mode (fldSet RgrLsStatus.traceEn (fldSet RgrLsStatus.port
    (fldOf RgrLsStatus.pairId (c.num 40 4)) port) (slTrace c)) (slMode c)) s
  let s := { s with traceEn := decide (slTrace c = 1), traceFirst := BitVec.ofNat 64 (c.num 48 8), traceLast := BitVec.ofNat 64 (c.num 56 8) }
  let s := clearTraces s
  let ls := { s.lsOn with sigPoly := c.num 19 1, base := slBase c, peerBase := c.num 32 8, timeoutMs := c.num 44 4 }
  if slMode c = 1 then
    let s := { s with lsOn := { ls with mbox := i, taken := 0, came := [], own := [], inbound := [], matched := [] } }
    let s := rput (TlyWatchBase.key true 0 i) (fldOf TlyWatchBase.base (slBase c)) s
    let s := rput (TlyWatchLimit.key true 0 i) (fldOf TlyWatchLimit.limit (slBase c + 0x3FF)) s
    let s := rput (TlyCfg.key true 0 i) (fldSet TlyCfg.ports (fldSet TlyCfg.unit (fldOf TlyCfg.watchEn 1) 1) (2 ^ port)) s
    let s := rput (TlyCount.key true 0 i) 0 s
    rput RgrLsCount.key 0 (rput RgrLsMismatch.key 0 (rput RgrLsMatch.key 0 s))
  else { s with lsOn := ls }

/-- SET_LOCKSTEP (R350, R407). -/
def doSetLockstep (c : Cmd) (s : State) : State :=
  issueVerb 0x0E c (slBodyOk c) (fun s =>
    if s.mode = .running ∨ s.mode = .fenced then refuse c stBadState locNone s
    else
      match slRefusal s c with
      | some st => refuse c st locNone s
      | none => retireVerb c stDone 0 0 (slAccept c s)) s

def execSetLockstep (c : Cmd) (s : State) : Host.Outcome State Fault Refusal := .next (doSetLockstep c s)

/-- A report whose EPOCH is a given one (R412, R413). -/
def reportEpoch (e : Nat) (st : Status) (data : List Byte) (s : State) : State :=
  let t := report st false 0 locNone 0 data { s with epoch := e }
  { t with epoch := s.epoch }

/-- An epoch that cannot be compared (R413, R415). -/
def lsCannot (e case : Nat) (s : State) : State :=
  let s := if case = 3 then rfsat RgrLsCount.key RgrLsCount.stale 1 s else rfsat RgrLsCount.key RgrLsCount.timeouts 1 s
  reportEpoch e stLockstepTimeout [BitVec.ofNat 8 case] s

/-- The epoch of a block that is replaced before it is compared (R413), which is reported once. -/
def lsLag (b : LsBlock) (s : State) : State := if b.told then s else lsCannot b.epoch 2 s

/-- The header of a block (R410). -/
def lsHeader (s : State) (e : Nat) (body : List Byte) : List Byte :=
  bytesLE 8 e ++ bytesLE 8 (imgId s.image) ++ bytesLE 4 (rf s RgrLsStatus.key RgrLsStatus.pairId) ++ [56, BitVec.ofNat 8 s.lsOn.sigPoly, 0, 0] ++
  bytesLE 4 (crc32c (bytesLE 8 e ++ body)) ++ List.replicate 36 0

/-- The cause of a mismatch between a header and body and the own block (R412), with the first differing stand and unit
and the mask. -/
def lsDiffers (s : State) (k e : Nat) : Nat × Nat × Nat × Nat :=
  let h := lsRead s (64 * k) 64
  let body := lsRead s (0x1000 + 0x1000 * k) 3584
  let oh := lsRead s (0x20000 + 0x1000 * k) 64
  let ob := lsRead s (0x20000 + 0x1000 * k + 64) 3584
  if numAt h 8 8 ≠ numAt oh 8 8 then (1, 0, 0, 0)
  else if numAt h 16 4 ≠ numAt oh 16 4 then (2, 0, 0, 0)
  else if numAt h 21 1 ≠ numAt oh 21 1 then (5, 0, 0, 0)
  else if numAt h 24 4 ≠ crc32c (bytesLE 8 e ++ body) then (3, 0, 0, 0)
  else
    let bad := (List.range 56).filter (fun l => bytesAt body (64 * l) 64 ≠ bytesAt ob (64 * l) 64)
    match bad with
    | [] => (0, 0, 0, 0)
    | l :: _ =>
      let u := ((List.range 8).find? (fun u => numAt body (64 * l + 8 * u) 8 ≠ numAt ob (64 * l + 8 * u) 8)).getD 0
      (4, l, u, bad.foldl (fun a i => a + 2 ^ i) 0)

/-- LAST_MATCH (R414): the highest epoch that matched, below FIRST_MISMATCH where there is one. -/
def lsLastMatch (s : State) : State :=
  let first := (rg s RgrLsMismatch.key).toNat
  rput RgrLsMatch.key (BitVec.ofNat 64 ((s.lsOn.matched.filter (fun e => first = 0 ∨ e < first)).foldl max 0)) s

/-- Compare the epoch of a slot in which both blocks stand (R412, R414, R415). -/
def lsCompare (k : Nat) (s : State) : State :=
  match lsOwn s k, lsIn s k with
  | some o, some b =>
    if o.epoch ≠ b.epoch then s
    else
      let (cause, l, u, mask) := lsDiffers s k o.epoch
      let s := putOwn k (some { o with compared := true }) (putIn k (some { b with compared := true }) s)
      let s := rfsat RgrLsCount.key RgrLsCount.compared 1 s
      let first := (rg s RgrLsMismatch.key).toNat
      if cause = 0 then lsLastMatch { s with lsOn := { s.lsOn with matched := o.epoch :: s.lsOn.matched.erase o.epoch } }
      else
        let s := rfsat RgrLsCount.key RgrLsCount.mismatches 1 s
        let s := if first = 0 ∨ o.epoch < first then lsLastMatch (rput RgrLsMismatch.key (BitVec.ofNat 64 o.epoch) s) else s
        reportEpoch o.epoch stLockstepMismatch
          ([BitVec.ofNat 8 cause, BitVec.ofNat 8 l, BitVec.ofNat 8 u] ++ List.replicate 5 0 ++ bytesLE 8 mask) s
  | _, _ => s

/-- An inbound header of epoch e stands in a slot (R412, R413). -/
def lsArrived (k e : Nat) (s : State) : State :=
  match lsOwn s k with
  | some o =>
    if e < o.epoch then putIn k none (lsCannot e 3 s)
    else
      let s := if o.epoch < e ∧ o.compared = false then lsLag o (putOwn k (some { o with compared := true }) s) else s
      let s := match lsIn s k with
        | some b => if b.epoch < e ∧ b.compared = false ∧ b.epoch ≠ o.epoch then lsLag b s else s
        | none => s
      lsCompare k (putIn k (some ⟨e, false, false⟩) s)
  | none =>
    let s := match lsIn s k with
      | some b => if b.epoch < e ∧ b.compared = false then lsLag b s else s
      | none => s
    putIn k (some ⟨e, false, false⟩) s

/-- The epoch in the inbound header of a slot. -/
def lsHeaderEpoch (s : State) (k : Nat) : Nat := numAt (lsRead s (64 * k) 8) 0 8

/-- LOCKSTEP_COMPARE (R412): every header that the tally has counted and that is not taken is read, in order of arrival, a slot
written twice as it stands. -/
def doLockstepCompare (s : State) : State :=
  let count := (rg s (TlyCount.key true 0 s.lsOn.mbox)).toNat
  if !lsMode s || !rangerRuns s (lsPort s) then s
  else
    let ks := s.lsOn.came
    let s := { s with lsOn := { s.lsOn with taken := max count s.lsOn.taken, came := [] } }
    let es := ks.dedup.map (fun k => (k, lsHeaderEpoch s k))
    let s := es.foldl (fun s (k, e) => lsArrived k e s) s
    (List.range 16).foldl (fun s k =>
      if ((lsOwn s k).map (·.compared)) = some false ∧ (lsIn s k).isSome = true then lsCompare k s else s) s

def execLockstepCompare (s : State) : Host.Outcome State Fault Refusal := .next (doLockstepCompare s)

/-- LOCKSTEP_TIMEOUT (R413): the own block of an epoch has waited TIMEOUT_MS; once. -/
def doLockstepTimeout (e : Nat) (s : State) : State :=
  let k := e % 16
  match lsOwn s k with
  | some o =>
    if lsMode s = true ∧ o.epoch = e ∧ o.compared = false ∧ o.told = false ∧ (lsIn s k).map (·.epoch) ≠ some e then
      lsCannot e 1 (putOwn k (some { o with told := true }) s)
    else s
  | none => s

def execLockstepTimeout (epoch : Word) (s : State) : Host.Outcome State Fault Refusal := .next (doLockstepTimeout epoch.toNat s)

/-- Tags for n UIO writes of a port. -/
def takeTags (p : Nat) : Nat → State → List (BitVec 16) × State
  | 0, s => ([], s)
  | n + 1, s =>
    let q := portOf s p
    let (ts, t) := takeTags p n (putPort p { q with nextTag := q.nextTag + 1 } s)
    (q.nextTag :: ts, t)

/-- Begin the send of a block: its body as UIO writes of 256 bytes (R411). The send takes none of the contexts or
registers of engine 4 × PORT + 3 (DEDUCED, log entry 112). -/
def lsSend (e : Nat) (body : List Byte) (s : State) : State :=
  let p := lsPort s
  if !(portOf s p).linkUp then report stCxlLinkDown false 0 locNone 0 (bytesLE 8 e) s
  else
    let (ts, s) := takeTags p 14 s
    let a := s.lsOn.peerBase + 0x1000 + 0x1000 * (e % 16)
    { s with peerMem := smapSetMany memDflt s.peerMem a body, lsOn := { s.lsOn with sends := s.lsOn.sends ++ [(e, false, ts)] } }

/-- The own block of an epoch (R409 to R411, R413): written, compared where the inbound block stands already, and sent. -/
def lsOwnBlock (e : Nat) (body : List Byte) (s : State) : State :=
  let k := e % 16
  let s := match lsOwn s k with
    | some o => if o.epoch ≠ e ∧ o.compared = false then lsLag o s else s
    | none => s
  let s := lsWrite (0x20000 + 0x1000 * k) (lsHeader s e body ++ body) s
  let s := match lsIn s k with
    | some b => if b.epoch < e ∧ b.compared = false ∧ (lsOwn s k).map (·.epoch) ≠ some b.epoch then lsLag b (putIn k none s) else s
    | none => s
  let s := putOwn k (some ⟨e, false, false⟩) s
  lsSend e body (lsCompare k s)

/-- A UIO completion for a lock-step send (R411): after the body's the header goes. One with status UR or CA ends the
send, which is reported and not made again (R364). -/
def lsCompletion (p : Nat) (tag : BitVec 16) (how : Completion) (s : State) : State :=
  if lsPort s ≠ p then s
  else
    match s.lsOn.sends.find? (fun x => x.2.2.contains tag) with
    | none => s
    | some (e, sent, ts) =>
      let rest := s.lsOn.sends.filter (fun x => !x.2.2.contains tag)
      let ts := ts.filter (· ≠ tag)
      if how ≠ .success then
        report stCxlCompleterErr false 0 locNone 0 (bytesLE 8 e) { s with lsOn := { s.lsOn with sends := rest } }
      else if !ts.isEmpty then { s with lsOn := { s.lsOn with sends := rest ++ [(e, sent, ts)] } }
      else if sent then { s with lsOn := { s.lsOn with sends := rest } }
      else
        let (t, s) := takeTags p 1 s
        let k := e % 16
        { s with
          peerMem := smapSetMany memDflt s.peerMem (s.lsOn.peerBase + 64 * k) (lsRead s (0x20000 + 0x1000 * k) 64)
          lsOn := { s.lsOn with sends := rest ++ [(e, true, t)] } }

/-- UIO_WRITE_COMPLETION (R323, R352, R364, R411). -/
def doUioCompletion (p : Nat) (d : UioDone) (s : State) : State :=
  match (portOf s p).copies.find? (fun j => j.uio.any (fun x => x.1 = d.tag)) with
  | some j =>
    if d.how = .success then runJob p j.id (jobFuel j.cmd) (putJob p { j with uio := j.uio.filter (fun x => x.1 ≠ d.tag) } s)
    else endJob p j stCxlCompleterErr (((j.uio.find? (fun x => x.1 = d.tag)).map (fun x => x.2)).getD 0) s
  | none => lsCompletion p d.tag d.how s

def execUioWriteCompletion (port : BitVec 2) (tag : UioDone) (s : State) : Host.Outcome State Fault Refusal :=
  .next (doUioCompletion port.toNat tag s)

/-- Sends of a port whose link goes down end, and are reported (R411). -/
def lsPortDown (p : Nat) (s : State) : State :=
  if lsPort s ≠ p then s
  else
    let sends := s.lsOn.sends
    sends.foldl (fun s x => report stCxlLinkDown false 0 locNone 0 (bytesLE 8 x.1) s) { s with lsOn := { s.lsOn with sends := [] } }

/-- A link goes down, if it is up. -/
def linkFalls (p : Nat) (s : State) : State := if (portOf s p).linkUp then lsPortDown p (portDown p s) else s

/-- LINK_DOWN (R349, R364). -/
def execLinkDown (port : BitVec 2) (s : State) : Host.Outcome State Fault Refusal := .next (linkFalls port.toNat s)

/-- PCIe configuration space as PCIe resets it (R553; PRESUMED, log entry 94): Device Control 2, MSI-X and AER. Messages sent
stay sent. -/
def configReset (q : Port) : Port :=
  { q with timeout := 0, msix := { Msix.init with sent := q.msix.sent }, aerUncor := 0, aerCor := 0 }

/-- PERST (R553): assertion takes the link down; deassertion resets PCIe configuration space. -/
def execPerst (port : BitVec 2) (asserted : Bool) (s : State) : Host.Outcome State Fault Refusal :=
  let p := port.toNat
  let s := if asserted then linkFalls p s else s
  .next (putPort p { (if asserted then portOf s p else configReset (portOf s p)) with perst := asserted } s)

/-- CPRSNT (R554): the cable-present signal deasserts. -/
def execCprsnt (port : BitVec 2) (s : State) : Host.Outcome State Fault Refusal :=
  let s := linkFalls port.toNat s
  .next (putPort port.toNat { portOf s port.toNat with cprsnt := false } s)

/-- CABLE_MATED (R554). -/
def execCableMated (port : BitVec 2) (s : State) : Host.Outcome State Fault Refusal :=
  .next (putPort port.toNat { portOf s port.toNat with cprsnt := true } s)

/-- LINK_TRAINED (R335, R368, R553, R554): x16 or x8 at 64 or 32 GT/s. -/
def doLinkTrained (p speed width : Nat) (loflit : Bool) (s : State) : State :=
  let q := portOf s p
  if q.linkUp || q.perst || !q.cprsnt || !s.ringClk.refOk || !(speed = 1 || speed = 2) || !(width = 8 || width = 16) then s
  else
    putPort p { q with
      linkUp := true
      status := fldSet IorPortStatus.speed (fldSet IorPortStatus.width (fldOf IorPortStatus.loflit (if loflit then 1 else 0)) width) speed } s

def execLinkTrained (port : BitVec 2) (speed : BitVec 4) (width : BitVec 6) (loflit : Bool) (s : State) :
    Host.Outcome State Fault Refusal := .next (doLinkTrained port.toNat speed.toNat width.toNat loflit s)

end Sys2Proof.Machine
end

