-- ==== Sys2Proof/Machine/Time.lean ====
section
/-!
DEFINITION. The time counter and its alignment to 1PPS (R545, R546).
-/

namespace Sys2Proof.Machine

/-- Set the time counter. -/
def putTime (t : Word) (s : State) : State := rput ClkTime.key t s

/-- The signed nanoseconds of a slew that one event removes: at most 10 ns (R545). -/
def slewPart (o : Int) : Int := max (-10) (min 10 o)

/-- The time counter over `n` reference cycles (R421, R545): 10 ns each, apart from what is withheld, and one increment
in every 10,000 withheld or doubled while an offset is slewed away. -/
def advanceTime (n : Nat) (s : State) : State :=
  let t := s.timeCtr
  let ns := 10 * n
  let held := min ns t.hold
  let slewing : Bool := t.slew ≠ 0
  let ph := if slewing then t.phase + n else 0
  let events := ph / 10000
  let (slew, add) := (List.range events).foldl (fun (x : Int × Int) _ => (x.1 - slewPart x.1, x.2 + slewPart x.1)) (t.slew, 0)
  let run := ((ns - held : Nat) : Int) + add
  let s := putTime (timeNow s + BitVec.ofInt 64 (max 0 run)) s
  let done : Bool := t.setAfter && decide (t.hold ≤ ns)
  let s := if done then rfput ClkPpsStatus.key ClkPpsStatus.set 1 s else s
  { s with timeCtr := { t with hold := t.hold - held, slew := slew, phase := ph % 10000, setAfter := t.setAfter && !done } }

/-- A report of a step (R545, R573): OFFSET, signed, in ns. -/
def reportStep (o : Int) (s : State) : State :=
  report stTimeStep false 0 locNone 0 (bytesLE 8 (BitVec.ofInt 64 o).toNat) (rfsat ClkPpsStatus.key ClkPpsStatus.steps 1 s)

/-- OFFSET of CLK_PPS_STATUS. -/
def putOffset (o : Int) (s : State) : State := rfput ClkPpsStatus.key ClkPpsStatus.offset (BitVec.ofInt 32 o).toNat s

/-- Is an edge valid (R545)? -/
def edgeValid (s : State) (c : Word) : Bool :=
  match s.timeCtr.edge with
  | none => true
  | some e => decide (999900000 ≤ (c - e).toNat ∧ (c - e).toNat ≤ 1000100000)

/-- The nearest multiple of 10^9 (R545). -/
def nearestSecond (c : Nat) : Nat := (c + 500000000) / 1000000000 * 1000000000

/-- A step of the counter from c to t: forward at once, backward by holding it still (R545). -/
def stepTime (c t : Word) (setBit : Bool) (s : State) : State :=
  let o : Int := (t.toNat : Int) - c.toNat
  let s := putOffset (if setBit then o else -o) s
  let s := { s with timeCtr := { s.timeCtr with edge := some t, next := none, slew := 0, phase := 0 } }
  let s := if c ≤ t then
      let s := putTime t { s with timeCtr := { s.timeCtr with hold := 0, setAfter := false } }
      if setBit then rfput ClkPpsStatus.key ClkPpsStatus.set 1 s else s
    else { s with timeCtr := { s.timeCtr with hold := (c - t).toNat, setAfter := setBit } }
  reportStep (if setBit then o else -o) s

/-- A valid edge with the counter at c (R545). -/
def validEdge (c : Word) (s : State) : State :=
  let s := rfput ClkPpsStatus.key ClkPpsStatus.state 1 (rput ClkPpsCapture.key c s)
  match s.timeCtr.next with
  | some t => stepTime c t true s
  | none =>
    let s := { s with timeCtr := { s.timeCtr with edge := some c } }
    if rf s ClkPpsCfg.key ClkPpsCfg.align = 0 then s
    else
      let m := nearestSecond c.toNat
      let o : Int := (c.toNat : Int) - m
      if o.natAbs ≤ rf s ClkPpsCfg.key ClkPpsCfg.stepNs then
        putOffset o { s with timeCtr := { s.timeCtr with slew := -o, phase := 0 } }
      else stepTime c (BitVec.ofNat 64 m) false s

/-- PPS_EDGE (R545): `now` is the counter at the edge, to 1 ns. The counter never decreases. -/
def doPpsEdge (now : Word) (s : State) : State :=
  let c := if now < timeNow s then timeNow s else now
  let s := putTime c s
  if edgeValid s c then validEdge c s else rfsat ClkPpsStatus.key ClkPpsStatus.badEdges 1 s

def execPpsEdge (now : Word) (s : State) : Host.Outcome State Fault Refusal := .next (doPpsEdge now s)

/-- A write to CLK_TIME_NEXT (R529, R545). -/
def doTimeNext (via : Via) (v : Word) (s : State) : Status × State :=
  viaWrite via ClkTimeNext.key (fun s => (stDone, { s with timeCtr := { s.timeCtr with next := some v } })) s

/-- CLK_TIME_NEXT_WRITE (R545). -/
def execClkTimeNextWrite (via : Via) (value : Word) (s : State) : Host.Outcome State Fault Refusal :=
  .next (doTimeNext via value s).2

/-- TIME_NEXT_EXPIRY (R545): a pending value that met no valid edge is discarded. -/
def execTimeNextExpiry (s : State) : Host.Outcome State Fault Refusal :=
  .next (if s.timeCtr.next.isSome then
      report stPpsLost false 0 locNone 0 [] { s with timeCtr := { s.timeCtr with next := none } }
    else s)

/-- PPS_LOST (R546): reported once, from TRACKING. -/
def execPpsLost (s : State) : Host.Outcome State Fault Refusal :=
  .next (if rf s ClkPpsStatus.key ClkPpsStatus.state = 1 then
      report stPpsLost false 0 locNone 0 [] (rfput ClkPpsStatus.key ClkPpsStatus.state 2
        { s with timeCtr := { s.timeCtr with edge := none } })
    else s)

end Sys2Proof.Machine
end

