-- ==== Sys2Proof/Machine/Power.lean ====
section
/-!
DEFINITION. Power and thermal (R445 to R459): caps and the throttle level, the tick, warnings, tiles that ramp, trips and
input faults.
-/

namespace Sys2Proof.Machine

/-- Set STATE of a tile. -/
def putTile (p v : Nat) (s : State) : State := rfput (PwrTile.key p) PwrTile.state v s

/-- Is a tile on or ramping? -/
def tilePowered (s : State) (p : Nat) : Bool := tileState s p = 1 || tileState s p = 2

/-- The effective cap (R449). -/
def effectiveCap (s : State) : Nat := min (rf s PwrCap.key PwrCap.cap) (rf s PwrCeiling.key PwrCeiling.opCeiling)

/-- A cap or operator ceiling has changed: EFFECTIVE follows, and ST_CAP_FLOOR is re-armed (R449, R452). -/
def capChanged (s : State) : State :=
  rfput PwrCap.key PwrCap.effective (effectiveCap s) { s with power := { s.power with floorRun := 0, floorTold := false } }

/-- SET_POWER_CAP (R345, R449): beside whatever the control arbiter holds. -/
def doSetPowerCap (c : Cmd) (s : State) : State :=
  issueVerb 0x0C c (c.zero 20 44) (fun s =>
    let w := c.num 16 4
    if w < 4000 then refuse c stCapRange locNone s
    else if Config.powerCeilW < w ∨ rf s PwrCeiling.key PwrCeiling.opCeiling < w then refuse c stCapAboveCeiling locNone s
    else retireVerb c stDone 0 0 (capChanged (rfput PwrCap.key PwrCap.cap w s))) s

def execSetPowerCap (c : Cmd) (s : State) : Host.Outcome State Fault Refusal := .next (doSetPowerCap c s)

/-- A write to OP_CEILING (R449, R452, R529): one that changes it re-arms ST_CAP_FLOOR. -/
def doOpCeiling (via : Via) (w : Nat) (s : State) : Status × State :=
  viaWrite via PwrCeiling.key (fun s =>
    if w < 4000 then (stCapRange, s)
    else if Config.powerCeilW < w then (stCapAboveCeiling, s)
    else if w = rf s PwrCeiling.key PwrCeiling.opCeiling then (stDone, s)
    else (stDone, capChanged (rfput PwrCeiling.key PwrCeiling.opCeiling w s))) s

/-- OP_CEILING_WRITE (R449). -/
def execOpCeilingWrite (via : Via) (watts : BitVec 32) (s : State) : Host.Outcome State Fault Refusal :=
  .next (doOpCeiling via watts.toNat s).2

/-- A sensor of a word of four, in 1/16 degC, signed (R462, R463). -/
def sensorOf (w : Word) (i : Nat) : Int := natSigned 16 (natBits w.toNat (16 * i + 15) (16 * i))

/-- The hottest of four readings (R447). -/
def hottest (w : Word) : Int := max (max (sensorOf w 0) (sensorOf w 1)) (max (sensorOf w 2) (sensorOf w 3))

/-- A sixteen-bit entry of a fused calibration table (R463). -/
def calib (s : State) (key : Nat → Nat) (i : Nat) : Nat := natBits (rg s (key (i / 4))).toNat (16 * (i % 4) + 15) (16 * (i % 4))

/-- The leakage at a temperature, in 1/160 W: interpolated linearly between the entries at 25 + 10 i degC (R447, R463). -/
def leak160 (s : State) (p : Nat) (t : Int) : Nat :=
  let u := (max 0 (min 2400 (t - 400))).toNat
  let i := min 14 (u / 160)
  calib s (PwrLeak.key p) i * (160 * (i + 1) - u) + calib s (PwrLeak.key p) (i + 1) * (u - 160 * i)

/-- Round to the nearest integer, a half upward. -/
def roundDiv (n d : Nat) : Nat := (2 * n + d) / (2 * d)

/-- The dynamic part of an estimate, in units of 1/16 pJ (R447). -/
def dynOf (s : State) (p : Nat) (counts : List Word) : Nat :=
  ((counts.take 15).zip (List.range 15)).foldl (fun a (c, k) => a + calib s (PwrWeight.key p) k * c.toNat) 0

/-- A stand's estimate at a tick (R447), with its leakage term. -/
def standEstimate (p : Nat) (counts : List Word) (s : State) : State :=
  let l := leak160 s p (hottest (rg s (PwrStandTemp.key p)))
  let k := PwrStandEst.key p
  rfput k PwrStandEst.leak (roundDiv l 160) (rfput k PwrStandEst.pStand (roundDiv (dynOf s p counts + l * 200000) 32000000) s)

/-- ST_THERMAL_WARN (R456): once per crossing, re-armed 2 degC below. -/
def thermalWarn (p : Nat) (s : State) : State :=
  let w := rg s (PwrStandTemp.key p)
  let thr : Int := 16 * rf s PwrTempCfg.key PwrTempCfg.warnC
  if thr ≤ hottest w then
    (if s.power.hot.contains p then s
      else
        report stThermalWarn false 1 (locStand s p) 0 (bytesLE 8 w.toNat)
          (rfsat (PwrStandCount.key p) PwrStandCount.warns 1 { s with power := { s.power with hot := s.power.hot ++ [p] } }))
  else if hottest w ≤ thr - 32 then { s with power := { s.power with hot := s.power.hot.filter (· ≠ p) } }
  else s

/-- ST_COOLANT_WARN (R456), both cases. -/
def coolantWarn (s : State) : State :=
  let w := rg s PwrRingTemp1.key
  let (s4, s5) := (sensorOf w 0, sensorOf w 1)
  let data (case : Nat) : List Byte := BitVec.ofNat 8 case :: bytesLE 4 (natBits w.toNat 31 0)
  let c : Int := 16 * rf s PwrTempCfg.key PwrTempCfg.coolantC
  let r : Int := 16 * rf s PwrTempCfg.key PwrTempCfg.riseK
  let s := if c < s4 then
      (if s.power.coolTold then s else report stCoolantWarn false 0 locNone 0 (data 1) { s with power := { s.power with coolTold := true } })
    else if s4 ≤ c - 32 then { s with power := { s.power with coolTold := false } } else s
  if r < s5 - s4 then
    (if s.power.riseTold then s else report stCoolantWarn false 0 locNone 0 (data 2) { s with power := { s.power with riseTold := true } })
  else if s5 - s4 ≤ r - 32 then { s with power := { s.power with riseTold := false } } else s

/-- The stands whose estimates E sums (R447): the powered ones in service or standby, and those in a bring-up, which have no
role yet (R469, R488). -/
def estStands (s : State) : List Nat := physList.filter (fun p => tileState s p = 2 && roleOf s p ≤ 2)

/-- Is a stand's value missing at a tick (R447): late, or not sent at the tick before by a controller that was halted? -/
def valueMissing (s : State) (late : BitVec 64) (p : Nat) : Bool := natBit late.toNat p || s.power.unsent.contains p

/-- The stand values that Ranger S uses at a tick (R447): those sent at the tick before, a missing one replaced by the
value used before and counted. -/
def takeValues (late : BitVec 64) (s : State) : State :=
  let vals := (estStands s).map (fun p =>
    (p, if valueMissing s late p then ((s.power.seen.find? (fun x => x.1 = p)).map (·.2)).getD 0
        else rf s (PwrStandEst.key p) PwrStandEst.pStand))
  let n := ((estStands s).filter (valueMissing s late)).length
  rfsat PwrCount.key PwrCount.lateEst n { s with power := { s.power with seen := vals } }

/-- The module estimate (R447). -/
def moduleEstimate (s : State) : Nat := s.power.seen.foldl (fun a x => a + x.2) 550

/-- The throttle level that follows from E and C (R450). -/
def nextTl (tl e c hyst : Nat) : Nat :=
  if c < e then min 255 (tl + max 1 ((256 * (e - c) + e - 1) / e))
  else if e + hyst < c ∧ 0 < tl then tl - 1
  else tl

/-- Ranger S at a tick (R447, R450). -/
def rangerTick (late : BitVec 64) (s : State) : State :=
  let s := takeValues late s
  let e := moduleEstimate s
  let c := effectiveCap s
  let tl := nextTl (rf s PwrStatus.key PwrStatus.tl) e c (rf s PwrCtl.key PwrCtl.hyst)
  let floor : Bool := decide (tl = 255 ∧ c < e)
  let k := PwrStatus.key
  let s := rfput k PwrStatus.estimate e (rfput k PwrStatus.tl tl (rfput k PwrStatus.floor (if floor then 1 else 0) s))
  let s := if 0 < tl then rfsat PwrCount.key PwrCount.throttled 1 s else s
  let s := if floor then rfsat PwrCount.key PwrCount.floorTicks 1 s else s
  { s with power := { s.power with floorRun := if floor then s.power.floorRun + 1 else 0 } }

/-- TL arrives at the stands (R450, R451): one without a lap position applies it to its engines from this window on. -/
def sendTl (s : State) : State :=
  let tl := rf s PwrStatus.key PwrStatus.tl
  (physList.filter (fun p => tileState s p = 2 && !hasLap s p)).foldl (fun s p =>
    rfput (PwrStandCount.key p) PwrStandCount.tl tl s) { s with power := { s.power with window := [] } }

/-- POWER_TICK (R447, R450, R453, R455, R456): every 200 reference cycles. -/
def doPowerTick (late : BitVec 64) (sensors : List (BitVec 6 × Word)) (ring0 ring1 input energy : Word)
    (counts : List (BitVec 6 × List Word)) (s : State) : State :=
  let s := advanceTime 200 s
  let s := rput PwrInput.key input (rput PwrEnergy.key (rg s PwrEnergy.key + energy) s)
  let s := coolantWarn (rput PwrRingTemp1.key ring1 (rput PwrRingTemp0.key ring0 s))
  let s := sensors.foldl (fun s x =>
    if tileState s x.1.toNat = 2 then thermalWarn x.1.toNat (rput (PwrStandTemp.key x.1.toNat) x.2 s) else s) s
  let s := sendTl (if rangerRuns s 2 then rangerTick late s else s)
  let on := physList.filter (fun p => tileState s p = 2)
  let mute (p : Nat) : Bool := s.dbg.halted.contains (64 + p)
  (on.filter (fun p => !mute p)).foldl (fun s p =>
    standEstimate p (((counts.find? (fun x => x.1.toNat = p)).map (·.2)).getD []) s)
    { s with power := { s.power with unsent := on.filter mute } }

def execPowerTick (late : BitVec 64) (sensors : List (BitVec 6 × BitVec 64)) (ring0 ring1 : Word) (input : Word) (energy : Word)
    (counts : List (BitVec 6 × List (BitVec 64))) (s : State) : Host.Outcome State Fault Refusal :=
  .next (doPowerTick late sensors ring0 ring1 input energy counts s)

/-- CAP_FLOOR (R452): after 500 ticks at the floor, once. -/
def doCapFloor (s : State) : State :=
  if 500 ≤ s.power.floorRun ∧ s.power.floorTold = false then
    report stCapFloor false 0 locNone 0 (bytesLE 4 (rf s PwrStatus.key PwrStatus.estimate) ++ bytesLE 4 (effectiveCap s) ++
      [BitVec.ofNat 8 (rf s PwrStatus.key PwrStatus.tl)]) { s with power := { s.power with floorTold := true } }
  else s

def execCapFloor (s : State) : Host.Outcome State Fault Refusal := .next (doCapFloor s)

/-- Enable a tile (R445): VAUX, VMEM and VCORE in turn. -/
def rampUp (p : Nat) (s : State) : State :=
  putTile p 1 { s with power := { s.power with ramps := s.power.ramps.filter (·.1 ≠ p) ++ [(p, 0, true, 2)] } }

/-- Switch a tile off in the reverse order (R445); `final` is the STATE it ends in. -/
def rampDown (p final : Nat) (s : State) : State :=
  if tileState s p = 2 ∨ tileState s p = 1 then
    putTile p 1 { s with power := { s.power with ramps := s.power.ramps.filter (·.1 ≠ p) ++ [(p, 3, false, final)] } }
  else s

/-- The ramp of a tile. -/
def rampOf (s : State) (p : Nat) : Option (Nat × Bool × Nat) := (s.power.ramps.find? (·.1 = p)).map (·.2)

/-- VCORE at the set point with its screening margin (R417, R443). -/
def vcoreReading (s : State) (p : Nat) : Nat :=
  let m := natSigned 8 (rf s (PwrTile.key p) PwrTile.vmargin)
  ((Config.vcoreMv : Int) * (1000 + m) / 1000).toNat

/-- TILE_POWER_GOOD (R445): a rail has reached 95 %, and the next is switched; after the last the tile is on. -/
def doTileGood (p : Nat) (s : State) : State :=
  match rampOf s p with
  | some (n, true, f) =>
    let rest := s.power.ramps.filter (·.1 ≠ p)
    if 2 ≤ n then
      rfput (PwrTile.key p) PwrTile.vcoreMv (vcoreReading s p) (putTile p f { s with power := { s.power with ramps := rest } })
    else { s with power := { s.power with ramps := rest ++ [(p, n + 1, true, f)] } }
  | _ => s

def execTilePowerGood (phys : BitVec 6) (s : State) : Host.Outcome State Fault Refusal := .next (doTileGood phys.toNat s)

/-- Does a memory key lie in a stand? -/
def keyOfStand (p k : Nat) : Bool :=
  if k < 2 ^ 47 then k / (64 * sliceBytes) = p else (k - 2 ^ 47) / 2 ^ 31 = p

/-- The state and the DRAM contents of a stand are lost (R459): all that stands under its physical index. -/
def standLost (p : Nat) (s : State) : State :=
  { s with
    regs := smapKeep (fun k => !(suView k = 2 && suStand k = p)) s.regs
    mem := smapKeep (fun k => !keyOfStand p k) s.mem
    upset := smapKeep (fun k => !keyOfStand p (8 * k)) s.upset
    tags := smapKeep (fun k => !keyOfStand p (64 * k)) s.tags
    vtags := smapKeep (fun k => !keyOfStand p (64 * k)) s.vtags
    ob := smapKeep (fun k => k / 2048 / 32768 ≠ p) s.ob
    obBad := smapKeep (fun k => k / 2048 / 32768 ≠ p) s.obBad
    stages := smapKeep (fun k => k / 32768 ≠ p) s.stages
    arrays := smapKeep (fun k => k / 4096 ≠ p) s.arrays
    stands := smapKeep (fun k => k ≠ p) s.stands
    links := smapKeep (fun k => k / 4096 ≠ p) s.links
    credits := smapKeep (fun k => k / 524288 ≠ p) s.credits
    creditFly := s.creditFly.filter (fun c => c.conn / 524288 ≠ p)
    moves := s.moves.filter (fun m => m.node / 1024 ≠ p)
    steers := smapKeep (fun k => k / 4096 ≠ p) s.steers
    nodes := smapKeep (fun k => k / 1024 ≠ p) s.nodes
    seams := smapKeep (fun k => k / 4 ≠ p) s.seams
    memArrs := smapKeep (fun k => k / 4096 ≠ p) s.memArrs
    taps := smapKeep (fun k => k / 8 ≠ p) s.taps
    svc := s.svc.filter (fun r => r.src.stand.toNat ≠ p)
    waits := s.waits.filter (fun w => match w.who with
      | .stage q _ _ => q ≠ p
      | .queue q _ => q ≠ p
      | .remote src => 65 ≤ src.router.toNat || src.stand.toNat ≠ p
      | _ => true)
    xbar := smapKeep (fun k => k / 256 ≠ p) s.xbar
    turns := smapKeep (fun k => k / 32 ≠ p) s.turns
    logs := smapKeep (fun k => k ≠ p) s.logs
    descs := smapKeep (fun k => k / 65536 ≠ p) s.descs
    hubQs := smapKeep (fun k => k / 32 ≠ p) s.hubQs
    hdlStage := smapKeep (fun k => k / 4096 ≠ p) s.hdlStage
    dirty := smapKeep (fun k => k / 1024 ≠ p) s.dirty
    gates := smapKeep (fun k => k / 1024 ≠ p) s.gates
    sides := smapKeep (fun k => k / 4 ≠ p) s.sides
    shifted := smapKeep (fun k => k / 64 ≠ p) s.shifted
    excBase := smapKeep (fun k => !(suView (k / 64) = 2 && suStand (k / 64) = p)) s.excBase
    drainExc := smapKeep (fun k => !(suView (k / 64) = 2 && suStand (k / 64) = p)) s.drainExc
    power := { s.power with
      hot := s.power.hot.filter (· ≠ p), seen := s.power.seen.filter (·.1 ≠ p), ramps := s.power.ramps.filter (·.1 ≠ p)
      window := s.power.window.filter (·.1 ≠ p), unsent := s.power.unsent.filter (· ≠ p)
      offQueue := s.power.offQueue.filter (fun x => x.2 ≠ p) } }

/-- The ring-queue descriptors of a lost stand retire (R459). -/
def ringDescsLost (p : Nat) (s : State) : State :=
  [28, 29, 30, 31].foldl (fun s q =>
    (hubQOf s p q).ring.foldl (fun s r => retireCmd r.cmd stStandFenced 0 0 (locStand s p) false false s) s) s

/-- The slices of a tripped stand (R274). -/
def slicesTripped (p : Nat) (s : State) : State :=
  (List.range 64).foldl (fun s sl => rfput (DslStatus.key p sl) DslStatus.state 4 s) s

/-- A group loses its parity (R507, R508). -/
def groupUnprotected (g : Nat) (s : State) : State :=
  report stGroupUnprotected false 0 locNone 0 [BitVec.ofNat 8 g]
    (rfput (RgrPar.key g) RgrPar.standby 0 (rfput (RgrPar.key g) RgrPar.state 3 s))

/-- What a trip of an in-service stand does to a BLAZE in progress, or to that of a Gulem boundary (R385, R508). -/
def tripBlaze (p : Nat) (s : State) : State :=
  match s.saving with
  | none => s
  | some _ =>
    let s := { s with saving := none }
    match s.arb with
    | some (4, _) => endLong stStandFenced 0 (locStand s p) s
    | _ =>
      if s.gul.blazing then
        report stStandFenced false 0 (locStand s p) 0 (bytesLE 8 s.gul.step) { s with gul := { s.gul with waiting := true, blazing := false } }
      else s

/-- REASON of IOR_BRINGUP_STAND_i (R490, R492). -/
def reasonOf (s : State) (p : Nat) : Nat := rf s (IorBringupStand.key p) IorBringupStand.reason
def putReason (p r : Nat) (s : State) : State := rfput (IorBringupStand.key p) IorBringupStand.reason r s

/-- Exclude a stand, its first cause standing. -/
def exclude (p r : Nat) (s : State) : State := if reasonOf s p = 0 then putReason p r s else s

/-- The tiles that a cold bring-up switches off go in reverse heat order, those of one heat together (R464). -/
def nextOff (s : State) : State :=
  if s.power.ramps.any (fun x => !x.2.2.1) then s
  else
    let h := s.power.offQueue.foldl (fun a x => max a x.1) 0
    let now := (s.power.offQueue.filter (fun x => x.1 = h)).map (·.2)
    now.foldl (fun s p => rampDown p 0 s) { s with power := { s.power with offQueue := s.power.offQueue.filter (fun x => x.1 ≠ h) } }

/-- The switch-off that STAND_POWER commanded retires when its tile is off, a trip changing nothing of it (R459, R460). -/
def offRetires (p : Nat) (s : State) : State :=
  match s.arb with
  | some (0x2A, c) => if c.num 17 1 = 0 ∧ c.num 16 1 = p then endLong stDone 0 0 s else s
  | _ => s

/-- What a trip does to a bring-up and to a switch-off (R459, R464, R476). -/
def tripAfter (p : Nat) (s : State) : State := nextOff (offRetires p (if s.bring.kind = 0 then s else exclude p 9 s))

/-- What a trip does (R459, R508): an in-service stand's trip taints the epoch (R348, R497), and one in a bring-up excludes the
stand (R476). -/
def tripEffect (p cause rail phase : Nat) (s : State) : State :=
  let role := roleOf s p
  let g := rf s (IorStandMap.key p) IorStandMap.parityGroup
  let data := [BitVec.ofNat 8 cause, BitVec.ofNat 8 rail, BitVec.ofNat 8 phase, BitVec.ofNat 8 g] ++
    bytesLE 8 (rg s (PwrStandTemp.key p)).toNat ++ bytesLE 4 (rf s (PwrStandEst.key p) PwrStandEst.pStand)
  let s := rfput (IorStandMap.key p) IorStandMap.role 5 s
  let k := PwrTile.key p
  let s := rfsat k PwrTile.trips 1 (rfput k PwrTile.phase phase (rfput k PwrTile.rail rail (rfput k PwrTile.cause cause
    (rfput k PwrTile.vcoreMv 0 (rfput k PwrTile.vmargin 0 (putTile p 3 s))))))
  let s := report stStandTripped (decide (role = 1)) 0 (locStand s p) 0 data s
  let s := if role = 1 then taint stStandTripped 0 (tripBlaze p s) else s
  let s := if role = 2 ∧ g < 4 then groupUnprotected g (rfput (IorStandMap.key p) IorStandMap.parityGroup 0xFF s) else s
  tripAfter p (svcReroute (slicesTripped p (standLost p (ringDescsLost p s))))

/-- A tile trips (R458, R459, R508). -/
def tripStand (p cause rail phase : Nat) (s : State) : State :=
  if !isPhys p || !tilePowered s p then s else tripEffect p cause rail phase s

/-- Every tile is switched off at once, and every stand becomes tripped, one whose tile is off too (R454, R457). -/
def tripAll (cause : Nat) (s : State) : State :=
  physList.foldl (fun s p => if tileState s p = 3 then s else tripEffect p cause 0 0xFF s) s

/-- INPUT_FAULT (R454): the busbar, in 10 mV units, below 44 V or above 60 V. -/
def doInputFault (v : Nat) (s : State) : State :=
  if 4400 ≤ v ∧ v ≤ 6000 then s
  else
    let told := s.power.inputFault
    let s := { s with power := { s.power with inputFault := true, busbarOk := false, coldNeeded := true } }
    let s := if told then s else report stInputFault false 0 locNone 0 (bytesLE 2 v) s
    tripAll 6 s

/-- BUSBAR_STABLE (R454, R470): the busbar has stayed from 48 V to 58 V for 1 s. -/
def execBusbarStable (s : State) : Host.Outcome State Fault Refusal :=
  .next { s with power := { s.power with inputFault := false, busbarOk := true } }

end Sys2Proof.Machine
end

