-- ==== Sys2Proof/Machine/Screen.lean ====
section
/-!
DEFINITION. Field screening (R417 to R419) and heartbeat checks (R495).
-/

namespace Sys2Proof.Machine

/-- Set VMARGIN and CLK_RATIO of a stand (R417, R429). -/
def putScreen (p : Nat) (m : Int) (ratio : Nat) (s : State) : State :=
  let s := rfput (ClkDiv.key p) ClkDiv.ratio ratio (rfput (PwrTile.key p) PwrTile.vmargin (BitVec.ofInt 8 m).toNat s)
  if tileState s p = 2 then rfput (PwrTile.key p) PwrTile.vcoreMv (vcoreReading s p) s else s

/-- What refuses a SCREEN_SET (R417). -/
def screenRefusal (s : State) (p : Nat) (m : Int) (ratio : Nat) : Option Status :=
  let nominal : Bool := decide (m = 0 ∧ ratio = 1000)
  if !isPhys p || roleOf s p ≠ 2 then some stBadState
  else if rf s (IorStandMap.key p) IorStandMap.parityGroup ≠ 0xFF ∧ nominal = false then some stBadState
  else if m < -50 ∨ 50 < m ∨ ratio < 1000 ∨ 1080 < ratio then some stScreenRange
  else if 1000 * Config.slotCeilKhz <
      max (rf s ClkSlotStatus.key ClkSlotStatus.currentKhz) (rf s ClkSlotCfg.key ClkSlotCfg.khz) * ratio then
    some stClockAboveCeiling
  else none

/-- SCREEN_SET (R417). -/
def doScreenSet (c : Cmd) (s : State) : State :=
  issueVerb 0x28 c (c.zero 17 1 && c.zero 22 42) (fun s =>
    let p := c.num 16 1
    let m := natSigned 16 (c.num 18 2)
    let ratio := c.num 20 2
    match screenRefusal s p m ratio with
    | some st => refuse c st locNone s
    | none => retireVerb c stDone 0 0 (putScreen p m ratio s)) s

def execScreenSet (c : Cmd) (s : State) : Host.Outcome State Fault Refusal := .next (doScreenSet c s)

/-- The partner of a mismatch (R418): under RAND_PAIR the array across the middle of the stand; else what the kernel names. -/
def pacerPartner (kernel pairing : Nat) (x : PacerMismatch) : Nat :=
  if kernel = 2 then (if pairing = 0 then arrIdx (x.x.toNat ^^^ 32) x.y.toNat else arrIdx x.x.toNat (x.y.toNat ^^^ 32))
  else x.partner.toNat

/-- A report of a mismatch (R419). -/
def reportMismatch (p kernel pairing : Nat) (s : State) (x : PacerMismatch) : State :=
  report stPacerMismatch false 1 (locUnit (logicalOf s p) p (arrIdx x.x.toNat x.y.toNat) x.stage.toNat 0 x.lane.toNat 0) 0
    (bytesLE 2 (pacerPartner kernel pairing x) ++ [BitVec.ofNat 8 kernel, x.fmt] ++ bytesLE 8 x.iteration.toNat ++ bytesLE 4 x.wordA.toNat ++
      bytesLE 4 x.wordB.toNat) s

/-- SCREEN_RUN (R418, R419): the kernel's comparisons, its hold slots and its mismatches are what the silicon shows. HEAT
discards its results: it compares nothing. -/
def doScreenRun (c : Cmd) (comparisons holds : Word) (found : List PacerMismatch) (s : State) : State :=
  let kernel := c.num 17 1
  let ok : Bool := decide (1 ≤ kernel ∧ kernel ≤ 4 ∧ c.num 18 1 ≤ 1 ∧ 1 ≤ c.num 32 8 ∧ c.num 32 8 ≤ 2 ^ 40)
  issueVerb 0x29 c (ok && c.zero 19 5 && c.zero 40 24) (fun s =>
    let p := c.num 16 1
    if !isPhys p || roleOf s p ≠ 2 then refuse c stBadState locNone s
    else if kernel = 4 ∧ rf s (IorStandMap.key p) IorStandMap.parityGroup ≠ 0xFF then refuse c stBadState locNone s
    else
      let found := if kernel = 3 then [] else found
      let comparisons := if kernel = 3 then 0 else comparisons
      let s := (found.take 256).foldl (reportMismatch p kernel (c.num 18 1)) s
      retireWith c stDone comparisons (BitVec.ofNat 64 found.length) holds (ctlDesc p 9 stDone s)) s

def execScreenRun (c : Cmd) (comparisons : Word) (holds : Word) (found : List PacerMismatch) (s : State) :
    Host.Outcome State Fault Refusal := .next (doScreenRun c comparisons holds found s)

/-- COUNT of a tally, by its number (R317). -/
def tallyByNumber (s : State) (n : Nat) : Word :=
  match tallyPlace s n with
  | .ok t => tallyCount s t
  | .error _ => 0

/-- The laps of a logical stand. -/
def lapsOf (s : State) (lg : Nat) : Nat :=
  match physOf s lg with
  | some p => (standOf s p).laps
  | none => 0

/-- One entry of the heartbeat table at a check (R495): with what it showed at the check before. -/
def hbCheckOne (e : Nat × Nat × Nat × Nat) (h : HbEntry) (s : State) : HbEntry × State :=
  let (lg, a, tally, period) := e
  let count := tallyByNumber s tally
  let laps := lapsOf s lg
  if count ≠ h.count then (⟨count, laps, false⟩, s)
  else if h.told = false ∧ h.laps + 2 * period ≤ laps then
    let p := (physOf s lg).getD 0
    (⟨count, laps, true⟩, report stHeartbeatMissed false 0 (locUnit lg p a 0 0 0 tally) 0 (bytesLE 8 laps) s)
  else (⟨count, laps, h.told⟩, s)

/-- The entries in turn. -/
def hbCheckAll : List (Nat × Nat × Nat × Nat) → List HbEntry → State → List HbEntry × State
  | e :: es, h :: hs, s =>
    let (h, s) := hbCheckOne e h s
    let (hs, s) := hbCheckAll es hs s
    (h :: hs, s)
  | _, _, s => ([], s)

/-- HEARTBEAT_CHECK (R495): Ranger N, while RUNNING; the first check of a run sets what the next compares with. -/
def doHeartbeatCheck (s : State) : State :=
  if s.mode ≠ .running ∨ rangerRuns s 0 = false then s
  else
    let es := imgHeartbeats s.image
    if s.hbs.length ≠ es.length then
      { s with hbs := es.map (fun (lg, _, tally, _) => ⟨tallyByNumber s tally, lapsOf s lg, false⟩) }
    else
      let (hs, s) := hbCheckAll es s.hbs s
      { s with hbs := hs }

def execHeartbeatCheck (s : State) : Host.Outcome State Fault Refusal := .next (doHeartbeatCheck s)

end Sys2Proof.Machine
end

