-- ==== Sys2Proof/Machine/BringUp.lean ====
section
/-!
DEFINITION. Bring-up and yield (R464 to R488): the ring checks, heats, seam training, DRAM repair, topology agreement,
roles, the warm restart and the single-stand bring-up; STAND_POWER (R460) and the junction trip (R457).
-/

namespace Sys2Proof.Machine

/-- PHASE and RESULT of the bring-up (R491). -/
def bringPhase (s : State) : Nat := rf s IorBringupStatus.key IorBringupStatus.phase
def bringResult (s : State) : Nat := rf s IorBringupStatus.key IorBringupStatus.result
def putPhase (n : Nat) (s : State) : State := rfput IorBringupStatus.key IorBringupStatus.phase n s

/-- ms from the start of the bring-up to now (R491). -/
def bringElapsed (s : State) : Nat := (timeNow s - s.bring.began).toNat / 1000000

/-- A bring-up ends (R464, R465, R491): its result and module state are set, and the verb, where one was issued, retires
with the status that ended it. -/
def endBring (result : Nat) (st : Status) (s : State) : State :=
  let k := IorBringupStatus.key
  let s := rfput k IorBringupStatus.elapsedMs (bringElapsed s) (rfput k IorBringupStatus.result result (putPhase 7 s))
  let s := { s with mode := if result = 3 then .none else .idle, bring := { s.bring with kind := 0, heat := [], failed := [] } }
  match s.arb with
  | some (0x2B, _) => if result = 3 then endLong st 0 locNone s else endLong stDone 0 0 s
  | _ => s

/-- A bring-up ends FAILED with a status, which is reported (R467, R470, R482, R487). -/
def failBring (st : Status) (loc : Word) (data : List Byte) (s : State) : State :=
  endBring 3 st (report st false 0 loc 0 data s)

/-- The candidate stands: those that the cruise map does not exclude (R471). -/
def candidates (s : State) : List Nat :=
  match s.bring.map with
  | some m => physList.filter (fun p => !natBit m.excl.toNat p)
  | none => []

/-- Is a stand live: entered and not excluded (R471)? -/
def isLive (s : State) (p : Nat) : Bool := s.bring.entered.contains p && decide (reasonOf s p = 0)
def liveStands (s : State) : List Nat := physList.filter (isLive s)

/-- Does a stand's outward relay-clock lane on a side show edges and frequency lock (R426, R471)? -/
def laneOut (s : State) (q d : Nat) : Bool :=
  natBit (((s.bring.relayReady.find? (fun x => x.1 = q)).map (·.2.toNat)).getD 0) d

/-- The sides by which a stand may be entered or sourced (R471): those facing the ring in the order N, E, S, W, but for
one whose relay-clock lane failed its training (R475); then those facing a stand of which `ok` holds and whose lane
toward it is ready, by lowest DEPTH, ties in the order N, E, S, W. -/
def entrySides (s : State) (ok : Nat → Bool) (p : Nat) : List Nat :=
  let bad := ((s.bring.laneBad.find? (fun x => x.1 = p)).map (·.2.toNat)).getD 0
  let ring := (List.range 4).filter (fun d => (facing p d).isNone && !natBit bad d)
  let live := (List.range 4).filter (fun d => match facing p d with
    | some q => ok q && laneOut s q (opp d)
    | none => false)
  let depth (d : Nat) : Nat := match facing p d with
    | some q => rf s (ClkSrcStatus.key q) ClkSrcStatus.depth
    | none => 0
  ring ++ live.mergeSort (fun a b => depth a ≤ depth b)

/-- Keep of each register what a mask of its description keeps; the other bits take their reset value (R17). -/
def resetRegs (mask : Nat → RegDesc → Word) (s : State) : State :=
  { s with
    regs := s.regs.filterMap (fun (k, v) =>
      let m := mask k (descOf k)
      let w := (v &&& m) ||| (regReset k &&& ~~~m)
      if w = regReset k then none else some (k, w)) }

/-- What a cold bring-up keeps of a register (R17). -/
def coldMask (_ : Nat) (d : RegDesc) : Word := d.cold

/-- The bits of some fields. -/
def fldBits (fs : List Fld) : Word := fs.foldl (fun w f => fldSet f w (fldMax f)) 0

/-- The fields of a register that go on showing, through a warm restart, what it does not touch (R485, R486): the slot clock,
tiles and rails, relay clocks, and seams and slices at their trained widths. -/
def warmShown (k : Nat) : Word :=
  let p := suStand k
  if k = ClkSlotStatus.key || k = PwrCap.key then allOnes
  else if suView k = 0 && suClass k = 4 && decide (0x100 ≤ suOff k ∧ suOff k < 0x300) then fldBits [PwrTile.vcoreMv, PwrTile.state]
  else if suView k ≠ 2 then 0
  else if k = ClkSrcStatus.key p then
    fldBits [ClkSrcStatus.depth, ClkSrcStatus.phaseErr, ClkSrcStatus.upstreamHold, ClkSrcStatus.state, ClkSrcStatus.ready,
      ClkSrcStatus.present, ClkSrcStatus.ringSides]
  else if k = ClkPath.key p then allOnes
  else if suClass k = 12 && suOff k = 0 then
    fldBits [SeamStatus.failedLanes, SeamStatus.sparesUsed, SeamStatus.activeLanes, SeamStatus.linkEquiv, SeamStatus.facing, SeamStatus.state]
  else if suClass k = 13 && suOff k = 0 then allOnes
  else 0

/-- What a warm restart keeps of a register (R17, R485, R486): what its description keeps, what goes on showing, and the
unions and the bring-up's own record (R491 to R493): of IOR_BRINGUP_STATUS, which is not kept, KIND, PHASE and RESULT of the
restart in course. A tally's COUNT is kept in the ring only (R331), and so are its watch settings (R332,
R333). -/
def warmMask (k : Nat) (d : RegDesc) : Word :=
  if suView k = 2 && suClass k = 11 then 0
  else if suView k = 0 && suClass k = 8 && decide (0x10 ≤ suOff k ∧ suOff k ≤ 0x20) then allOnes
  else if k = IorBringupStatus.key then fldBits [IorBringupStatus.kind, IorBringupStatus.phase, IorBringupStatus.result]
  else if (suView k = 0 && suClass k = 0 && decide (0xA00 ≤ suOff k ∧ suOff k < 0xD00)) ||
    (suView k = 2 && suClass k = 0 && decide (0x400 ≤ suOff k ∧ suOff k < 0x600)) then allOnes
  else d.warm ||| warmShown k

/-- The descriptor that a ring queue executes ends with its command (R300, R464): its check-value unit is free. -/
def ringExecEnds (p q : Nat) (s : State) : State :=
  match execOf s p q with
  | none => s
  | some e =>
    let s := if e.cvMode = 0 then s else rfput (CvuStatus.key false p (qIndex s p q)) CvuStatus.owner 0 s
    let s := dropPackets (e.posts.map (·.id) ++ (hubQOf s p q).rpc.toList ++ e.done.toList) (endAll e s)
    dropWait (.queue p q) (putHubQ p q { hubQOf s p q with exec := none, rpc := none } (rfput (HubQState.key p q) HubQState.state 0 s))

/-- Every command and Gulem ring begins DISABLING, and every command in flight retires ST_ABORTED (R464, R485). -/
def stopRings (c : Option Cmd) (s : State) : State :=
  let s := (List.range 256).foldl (fun s i =>
    let q := ringOf s (i / 64) (i % 64)
    let s := rfput (crCfgKey (i / 64) (i % 64)) RingCfg.enable 0 s
    putRing (i / 64) (i % 64) { q with state := if q.state = 1 then 2 else q.state, reserved := [] } s) s
  let s := (List.range 4).foldl (fun s p => gringsDown p s) s
  let cmds := s.rings.flatMap (fun x => x.2.flight) ++ s.sessions.flatMap (fun x => (x.2.map (·.flight)).getD []) ++ s.orphans
  let s := (cmds.filter (fun x => some x ≠ c)).foldl (fun s x => retireCmd x stAborted 0 0 locNone false false s) s
  let s := (List.range 16).foldl (fun s u => rfput (CvuStatus.key true 0 u) CvuStatus.owner 0 s) s
  let s := (s.hubQs.filter (fun x => decide (28 ≤ x.1 % 32))).foldl (fun s x => ringExecEnds (x.1 / 32) (x.1 % 32) s) s
  let s := { s with hubQs := s.hubQs.filterMap (fun (k, q) => if { q with ring := [] } = HubQ.init then none else some (k, { q with ring := [] })) }
  (List.range 4).foldl (fun s p => putPort p { portOf s p with copies := [], reads := [] } s) s

/-- Write the completion records that wait, as far as their rings have room; those left cannot be written and are
discarded, the configuration of their ring being reset (R17, R349). -/
def flushRecords (s : State) : State :=
  (List.range 256).foldl (fun s i =>
    let p := i / 64
    let r := i % 64
    let n := (ringOf s p r).done.length
    let s := (List.range n).foldl (fun s _ => doRetire p r s) s
    let s := (ringOf s p r).done.foldl (fun s d => discardRec d s) s
    putRing p r .init s) s

/-- All the state of stands beside registers and memory returns to its first value (R17, R485). -/
def unitsReset (s : State) : State :=
  { s with
    upset := smapKeep (fun k => decide (k < 2 ^ 44)) s.upset
    tags := []
    vtags := smapKeep (fun k => decide (k < 2 ^ 41)) s.vtags
    ob := []
    obBad := []
    stages := []
    arrays := []
    stands := []
    links := []
    credits := []
    creditFly := []
    moves := []
    steers := []
    nodes := []
    seams := []
    memArrs := []
    taps := []
    svc := []
    svcResp := []
    svcGot := []
    dones := []
    xbar := []
    turns := []
    fetchOrder := []
    drainTallies := []
    drainExc := []
    excSat := []
    waits := []
    logs := []
    descs := []
    hubQs := []
    hdlStage := []
    dirty := []
    shifted := []
    excBase := smapKeep (fun k => suView (k / 64) = 0) s.excBase
    mem := smapKeep (fun k => decide (k < 2 ^ 47)) s.mem }

/-- The loaded image, its epochs and the service are gone (R486). -/
def programReset (s : State) : State :=
  { s with
    epoch := 1
    tainted := false
    taints := []
    taintCount := 0
    srKey := 0
    lapLen := 1
    traceEn := false
    traceFirst := 0
    traceLast := 0
    draining := false
    image := []
    plan := 0
    arb := s.arb
    gul := .init
    lsOn := .init
    hbs := []
    snaps := []
    saving := none
    planSel := none
    planChanged := false
    reconFailed := false
    hostStall := false
    lapSet := 0
    measure5 := 0 }

/-- Is no tile on or ramping? -/
def allTilesOff (s : State) : Bool := physList.all (fun p => !tilePowered s p)

/-- The start of a cold bring-up (R17, R464, R469): the powered tiles begin to switch off in reverse heat order, every
field takes its reset value, and the ring checks begin. -/
def coldStart (s : State) : State :=
  let on := (physList.filter (tilePowered s)).map (fun p => (rf s (IorBringupStand.key p) IorBringupStand.heat, p))
  let s := flushRecords s
  let s := programReset (unitsReset (resetRegs coldMask s))
  let s := { s with
    mode := .none
    gates := []
    sides := []
    otpStage := s.otpStage
    power := { s.power with floorRun := 0, floorTold := false, hot := [], coolTold := false, riseTold := false, seen := [], ramps := [],
                              offQueue := on, unsent := [], window := [] }
    ringClk := { s.ringClk with glide := none }
    bring := { BringUp.init with kind := 1, began := timeNow s } }
  let s := nextOff (on.foldl (fun s x => putTile x.2 2 s) s)
  rfput IorBringupStatus.key IorBringupStatus.kind 1 (putPhase 1 s)

/-- COLD_BRING_UP_AUTO (R469, R532): once firmware is verified after standby power-on. -/
def doColdAuto (s : State) : State :=
  if fwVerified s = true ∧ s.bring.kind = 0 ∧ bringPhase s = 0 ∧ s.mode = .none then coldStart s else s

def execColdBringUpAuto (s : State) : Host.Outcome State Fault Refusal := .next (doColdAuto s)

/-- The start of a warm restart (R6, R485): W1, with the cap at the fused ceiling. -/
def warmStart (s : State) : State :=
  let s := { s with mode := .none, gul := .init, bring := { s.bring with kind := 2, warmDone := 0, began := timeNow s } }
  let s := capChanged (rput PwrCap.key (regReset PwrCap.key) s)
  let k := IorBringupStatus.key
  rfput k IorBringupStatus.result 0 (rfput k IorBringupStatus.kind 2 (putPhase 8 s))

/-- BRING_UP (R464). -/
def doBringUp (c : Cmd) (s : State) : State :=
  issueVerb 0x2B c (decide (c.num 16 1 ≤ 1) && c.zero 17 47) (fun s =>
    if bringRuns s then refuse c stBadState locNone s
    else if c.num 16 1 = 1 then
      (if rf s IorBringupStatus.key IorBringupStatus.kind = 0 ∨ bringResult s = 3 then refuse c stBadState locNone s
        else beginLong 0x2B c (warmStart (stopRings (some c) s)))
    else if s.power.inputFault then refuse c stInputFault locNone s
    else beginLong 0x2B c (coldStart (stopRings (some c) { s with power := { s.power with coldNeeded := false } }))) s

def execBringUp (c : Cmd) (s : State) : Host.Outcome State Fault Refusal := .next (doBringUp c s)

/-- BUSBAR_WAIT_TIMEOUT (R470): the ring checks have waited 60 s. -/
def execBusbarWaitTimeout (s : State) : Host.Outcome State Fault Refusal :=
  .next (if s.bring.kind = 1 ∧ bringPhase s = 1 ∧ s.power.busbarOk = false then
    failBring stInputFault locNone (bytesLE 2 (rf s PwrInput.key PwrInput.mainV)) s else s)

/-- Take stands into a heat (R471, R472): HEAT and the entry side are written, and the tiles enabled. -/
def enterStand (n : Nat) (p : Nat) (s : State) : State :=
  let d := ((entrySides s (isLive s) p).head?).getD 0
  let k := IorBringupStand.key p
  rampUp p (rfput (ClkSrcSel.key p) ClkSrcSel.src d (rfput k IorBringupStand.entrySide d (rfput k IorBringupStand.heat n s)))

/-- REFRESH and STATE of every slice of the stands under test (R478). -/
def slicesTest (ps : List Nat) (refresh state : Nat) (s : State) : State :=
  ps.foldl (fun s p => (List.range 64).foldl (fun s sl =>
    if rf s (DslStatus.key p sl) DslStatus.state = 3 ∨ rf s (DslStatus.key p sl) DslStatus.state = 4 then s
    else rfput (DslStatus.key p sl) DslStatus.refresh refresh (rfput (DslStatus.key p sl) DslStatus.state state s)) s) s

/-- DSL_DIV becomes 1 (R431, R432, R477). -/
def dslFast (p : Nat) (s : State) : State :=
  if rf s (ClkDiv.key p) ClkDiv.dslDiv = 1 then s
  else rfput (ClkDiv.key p) ClkDiv.dslDiv 1 (rfsat (ClkDiv.key p) ClkDiv.divSwitches 1 s)

/-- The march begins (R477): every slice of some stands at DSL_DIV 1, under test. -/
def marchBegin (ps : List Nat) (s : State) : State := slicesTest ps 0 2 (ps.foldl (fun s p => dslFast p s) s)

/-- The next heat, or the end of the heats (R471). -/
def nextHeat (s : State) : State :=
  let rest := (candidates s).filter (fun p => !s.bring.entered.contains p)
  let e := rest.filter (fun p => !(entrySides s (isLive s) p).isEmpty)
  match e.take 4 with
  | [] =>
    let s := rest.foldl (fun s p => exclude p 7 s) { s with bring := { s.bring with heat := [] } }
    putPhase 3 (marchBegin (liveStands s) s)
  | h =>
    let n := rf s IorBringupStatus.key IorBringupStatus.heats + 1
    let s := h.foldl (fun s p => enterStand n p s) (rfput IorBringupStatus.key IorBringupStatus.heats n s)
    { s with bring := { s.bring with heat := h } }

/-- The end of the ring checks (R470), in the order of its items; `unit` names a ring unit that failed: 1 to 4 Rangers
N, E, S, W, 5 the security engine, 0 none. -/
def ringChecks (unit : Nat) (s : State) : State :=
  if !s.power.busbarOk || !allTilesOff s then s
  else if !s.ringClk.refOk then failBring stRefLost locNone [] s
  else
    let s := rfput ClkRefStatus.key ClkRefStatus.state 1 (rfput ClkSlotStatus.key ClkSlotStatus.locked 1
      (rfput ClkSlotStatus.key ClkSlotStatus.gliding 0 (rfput ClkSlotStatus.key ClkSlotStatus.currentKhz Config.slotCeilKhz s)))
    let s := (mapsInvalid s).foldl (fun s g => report stCruiseMapInvalid false 0 locNone 0 [BitVec.ofNat 8 g] s) s
    match mapInForce s with
    | none => endBring 3 stCruiseMapInvalid s
    | some m =>
      let s := physList.foldl (fun s p => rfput (IorStandMap.key p) IorStandMap.fuseGen m.gen s) s
      if unit ≠ 0 then
        let s := if unit = 5 then (let (t, s) := freeTest s; secError t s) else s
        failBring stRingSelftest locNone [BitVec.ofNat 8 unit] s
      else
        let s := { s with bring := { s.bring with map := some m, repairs := m.repairs } }
        let s := rput PwrCap.key (regReset PwrCap.key) (rfput PwrCeiling.key PwrCeiling.opCeiling (opCeilingFused s) s)
        let s := rfput PwrStatus.key PwrStatus.tl 0 (capChanged s)
        let s := physList.foldl (fun s p => rput (IorBringupStand.key p) 0 s) s
        let s := (physList.filter (fun p => natBit m.excl.toNat p)).foldl (fun s p => exclude p 8 s) s
        nextHeat (putPhase 2 s)

/-- The failed sites of a row that its limits count (R28): even rows all alike; odd rows the compute and the memory
sites apart. -/
def rowOver (y : Nat) (cols : List Nat) : Bool :=
  if y % 2 = 0 then decide (2 < cols.length)
  else decide (1 < (cols.filter (fun c => c % 2 = 0)).length) || decide (1 < (cols.filter (fun c => c % 2 = 1)).length)

/-- STD_ROW_y from a row's excluded sites in ascending column, each with its being excluded by test only (R474, R493). -/
def rowWord (y : Nat) (l : List (Nat × Bool)) : Word :=
  let b (x : Bool) : Nat := if x then 1 else 0
  let w := fldOf StdRow.overLim (b (rowOver y (l.map (·.1))))
  let w := match l[0]? with
    | some (c, t) => fldSet StdRow.valid0 (fldSet StdRow.test0 (fldSet StdRow.col0 w c) (b t)) 1
    | none => w
  match l[1]? with
  | some (c, t) => fldSet StdRow.valid1 (fldSet StdRow.test1 (fldSet StdRow.col1 w c) (b t)) 1
  | none => w

/-- The excluded sites of a row, ascending, with test only. -/
def rowSites (s : State) (p y : Nat) : List (Nat × Bool) :=
  ((s.bring.sites.filter (fun f => f.item.phys.toNat = p && f.item.row.toNat = y)).map
    (fun f => (f.item.col.toNat, !f.fused))).mergeSort (fun a b => a.1 ≤ b.1)

/-- Write STD_ROW_y of every row of a stand. -/
def writeRows (p : Nat) (s : State) : State :=
  (List.range 64).foldl (fun s y => rput (StdRow.key p y) (rowWord y (rowSites s p y)) s) s

/-- Join a list of fused items with the items that failed a test (R468). -/
def joinFindings {α : Type} [DecidableEq α] (fused failed : List α) : List (Finding α) :=
  fused.map (fun a => ⟨a, true, failed.contains a⟩) ++
  ((failed.filter (fun a => !fused.contains a)).eraseDups).map (fun a => ⟨a, false, true⟩)

/-- Count the items of R468 that a bring-up adds to those it knew (R491). -/
def countItems {α : Type} [DecidableEq α] (known l : List (Finding α)) (s : State) : State :=
  let l := l.filter (fun f => !known.any (fun g => g.item = f.item))
  rfsat IorBringupCount.key IorBringupCount.fusedPass ((l.filter (fun f => f.fused && !f.test)).length)
    (rfsat IorBringupCount.key IorBringupCount.conflicts ((l.filter (fun f => !f.fused)).length) s)

/-- The items that tests have excluded until the next cold bring-up (R468). -/
def testOnly {α : Type} (l : List (Finding α)) : List α := (l.filter (fun f => !f.fused)).map (·.item)

/-- Every array group of a stand is off, its waves over (R473, R484). -/
def groupsOff (p : Nat) (s : State) : State := (List.range 512).foldl (fun s i => putGate p (0x100 + i) 1 s) s

/-- The patch waves of a stand (R473, R474): the union of its sites with the test exclusions that stand (R468), its rows, and
its array groups gated again. -/
def probeStand (p : Nat) (failed : List Site) (s : State) : State :=
  let fused := match s.bring.map with
    | some m => m.sites.filter (fun (x : Site) => x.phys.toNat = p)
    | none => []
  let known := s.bring.sites.filter (fun f => f.item.phys.toNat = p)
  let l := joinFindings fused.eraseDups (testOnly known ++ failed.filter (fun x => x.phys.toNat = p))
  let s := countItems known l { s with bring := { s.bring with sites := s.bring.sites.filter (fun f => f.item.phys.toNat ≠ p) ++ l } }
  let k := IorBringupStand.key p
  let s := rfput k IorBringupStand.sitesTest (min 255 (l.filter (fun f => !f.fused)).length) (rfput k IorBringupStand.sitesExcl l.length s)
  groupsOff p (writeRows p s)

/-- Has a stand reached H4, its hub on and its seams in training (R472)? -/
def trains (s : State) (p : Nat) : Bool := tileState s p = 2 && !([3, 4, 5, 7, 8, 9].contains (reasonOf s p)) && clkState s p != 0

/-- Active lanes and link-equivalents of a seam with a number of working lanes (R25, R475). -/
def seamWidth (ring : Bool) (lanes failed : Nat) : Nat × Nat :=
  let w := lanes - failed
  if ring then
    if failed ≤ 2 then (16, 7) else if 12 ≤ w then (12, 5) else if 8 ≤ w then (8, 3) else (0, 0)
  else if failed ≤ 8 then (72, 32)
  else if 64 ≤ w then (64, 28) else if 48 ≤ w then (48, 21) else if 32 ≤ w then (32, 14) else (0, 0)

/-- SEAM_STATUS of a trained seam's side (R238, R475): active lanes are the first of its lanes, spares the last. -/
def seamWord (ring : Bool) (failed : List Nat) : Word :=
  let lanes := if ring then 18 else 80
  let act := if ring then 16 else 72
  let (w, le) := seamWidth ring lanes failed.length
  let spares := min (lanes - act - (failed.filter (fun n => act ≤ n)).length) (failed.filter (fun n => n < act)).length
  fldSet SeamStatus.failedLanes (fldSet SeamStatus.sparesUsed (fldSet SeamStatus.activeLanes (fldSet SeamStatus.linkEquiv
    (fldSet SeamStatus.facing (fldOf SeamStatus.state (if w = 0 then 5 else if w = act then 1 else 2)) (if ring then 1 else 0)) le) w)
    spares) failed.length

/-- The mask of a list of lanes. -/
def laneMask (l : List Nat) : Nat := l.foldl (fun a n => Nat.lor a (2 ^ n)) 0

/-- A seam ends its training (R475): `failed` are the lanes that failed. A seam is trained once. -/
def trainSeam (p d : Nat) (failed : List Nat) (s : State) : State :=
  if rf s (SeamStatus.key p d) SeamStatus.state ≠ 0 then s
  else
    let h := seamHome p d
    let ring := (facing p d).isNone
    let item (n : Nat) : SeamLane := ⟨BitVec.ofNat 6 h.1, BitVec.ofNat 2 h.2, BitVec.ofNat 7 n⟩
    let fused := match s.bring.map with
      | some m => m.lanes.filter (fun (x : SeamLane) => x.phys.toNat = h.1 && x.side.toNat = h.2)
      | none => []
    let known := s.bring.lanes.filter (fun f => f.item.phys.toNat = h.1 && f.item.side.toNat = h.2)
    let l := joinFindings fused.eraseDups (testOnly known ++ failed.map item)
    let bad := (l.map (fun f => f.item.lane.toNat)).mergeSort (· ≤ ·)
    let w := seamWord ring bad
    let s := countItems known l { s with bring := { s.bring with lanes := s.bring.lanes.filter (fun f =>
      !(f.item.phys.toNat = h.1 && f.item.side.toNat = h.2)) ++ l } }
    let tests := (l.filter (fun f => !f.fused)).length
    let s := rfsat (IorBringupStand.key p) IorBringupStand.lanesTest tests (rput (SeamStatus.key p d) w s)
    let s := match facing p d with
      | some q => rfsat (IorBringupStand.key q) IorBringupStand.lanesTest tests (rput (SeamStatus.key q (opp d)) w s)
      | none => s
    if fldGet SeamStatus.state w = 1 then s
    else
      report stSeamNarrow false 0 (locUnit (logicalOf s h.1) h.1 0 0 0 0 h.2) 0
        ([BitVec.ofNat 8 ((facing h.1 h.2).getD 0), BitVec.ofNat 8 (fldGet SeamStatus.activeLanes w)] ++ bytesLE 10 (laneMask bad))
        (rfsat IorBringupCount.key IorBringupCount.narrow 1 s)

/-- The sides of a stand whose seams train: those facing the ring or a stand that trains too (R472). -/
def trainingSides (s : State) (p : Nat) : List Nat :=
  (List.range 4).filter (fun d => match facing p d with
    | none => true
    | some q => trains s q)

/-- A slice is trained, or has failed its training (R472). -/
def trainSlice (p sl : Nat) (good : Bool) (s : State) : State :=
  if rf s (DslStatus.key p sl) DslStatus.state ≠ 0 then s
  else
    rfput (DslStatus.key p sl) DslStatus.state (if good then 1 else 3)
      (if good then s else { s with bring := { s.bring with slicesBad := s.bring.slicesBad ++ [(p, sl)] } })

/-- READY of the sides of a stand and of those that face it, and the markers on its lanes (R425, R426, R471). -/
def lanesUp (p : Nat) (s : State) : State :=
  (List.range 4).foldl (fun s d =>
    match facing p d with
    | none => if natBit (((s.bring.laneBad.find? (fun x => x.1 = p)).map (·.2.toNat)).getD 0) d then s else putReady p d true s
    | some q =>
      let s := if laneOut s q (opp d) then putReady p d true (putSide p d (markerOf s q) s) else s
      if laneOut s p d && s.bring.entered.contains q then putReady q (opp d) true s else s) s

/-- H1 to H3 of a stand (R472), as its findings tell. -/
def heatEarly (f : HeatFinding) (s : State) : State :=
  let p := f.phys.toNat
  if tileState s p ≠ 2 ∨ f.powerGood = false then exclude p 9 s
  else if f.clockLock = false then exclude p 7 s
  else
    let s := { s with bring := { s.bring with relayReady := s.bring.relayReady.filter (fun x => x.1 ≠ p) ++ [(p, f.relayReady)] } }
    let s := lanesUp p s
    let s := sendMarker p (followSource p (rfput (ClkSrcStatus.key p) ClkSrcStatus.state 1 s))
    if f.controllerPass then s else exclude p 4 s

/-- H4 to H6 of a stand (R472): its hub is ungated, its waves run, and its engines. -/
def heatMid (f : HeatFinding) (s : State) : State :=
  let p := f.phys.toNat
  if reasonOf s p ≠ 0 then s
  else
    let s := probeStand p f.sitesFailed s
    if f.enginesPass = false then exclude p 5 s else s

/-- A side whose relay-clock lane failed its training is no source (R475). -/
def clockLanes (p : Nat) (failed : BitVec 4) (s : State) : State :=
  if failed = 0 then s
  else
    let s := { s with bring := { s.bring with laneBad := s.bring.laneBad.filter (fun x => x.1 ≠ p) ++ [(p, failed)] } }
    ((List.range 4).filter (fun d => natBit failed.toNat d)).foldl (fun s d =>
      if d = clkSrc s p then sourceLost p s else putReady p d false s) s

/-- H7 of a stand (R472, R475): a step that no stand takes which has failed an earlier one. -/
def heatLast (f : HeatFinding) (s : State) : State :=
  let p := f.phys.toNat
  if reasonOf s p ≠ 0 then s
  else
    let s := (List.range 64).foldl (fun s sl => trainSlice p sl (natBit f.slicesTrained.toNat sl) s) s
    let s := (trainingSides s p).foldl (fun s d =>
      let h := seamHome p d
      trainSeam p d ((f.lanesFailed.filter (fun x => seamHome x.phys.toNat x.side.toNat = h)).map (·.lane.toNat)) s) s
    let s := clockLanes p f.clockLanesFailed s
    if s.bring.slicesBad.any (fun x => x.1 = p) then exclude p 2 s else s

/-- H4 to H7 of the stands of a heat, all in parallel (R471, R472). -/
def heatLate (fs : List HeatFinding) (s : State) : State :=
  fs.foldl (fun s f => heatLast f s) (fs.foldl (fun s f => heatMid f s) s)

/-- What the heat's tests found of a stand; a stand not told of shows no power good. -/
def findingOf (found : List HeatFinding) (p : Nat) : HeatFinding :=
  (found.find? (fun f => f.phys.toNat = p)).getD ⟨BitVec.ofNat 6 p, false, false, false, false, 0, 0, [], [], 0⟩

/-- A new source for a stand in holdover or whose chain holds a lost stand (R427, R471, R476, R483). -/
def newSource (ok : Nat → Bool) (p : Nat) (s : State) : State :=
  match (entrySides s ok p).filter (fun d => !sideLoops s p d) with
  | d :: _ => selectSource p d (putReady p d true s)
  | [] => exclude p 7 s

/-- At the end of a heat (R476): tripped stands are excluded, and stands in holdover take a new source. -/
def heatMend (s : State) : State :=
  let s := (s.bring.entered.filter (fun p => tileState s p = 3)).foldl (fun s p => exclude p 9 s) s
  (s.bring.entered.filter (fun p => isLive s p && inHoldover s p)).foldl (fun s p => newSource (isLive s) p s) s

/-- A stand is switched off and excluded (R482, R483, R488); a tripped stand keeps its role. -/
def switchOut (p : Nat) (s : State) : State :=
  let k := IorStandMap.key p
  let s := if roleOf s p = 5 then s else rfput k IorStandMap.role 4 s
  rampDown p 0 (rfput k IorStandMap.parityGroup 0xFF (rfput k IorStandMap.logical 0xFF s))

/-- The report of an excluded stand (R480). -/
def reportExcluded (p : Nat) (s : State) : State :=
  report stStandExcluded false 0 (locStand s p) 0 [BitVec.ofNat 8 (reasonOf s p)] s

/-- HEAT_END of a single-stand bring-up (R488). -/
def singleHeatEnd (p : Nat) (found : List HeatFinding) (s : State) : State :=
  let f := findingOf found p
  let s := heatLate [f] (heatEarly f s)
  let s := { s with bring := { s.bring with heat := [] } }
  if reasonOf s p ≠ 0 then endLong stStandExcluded 0 (locStand s p) (switchOut p s)
  else
    endLong stDone 0 0 (marchBegin [p] (rfput (IorStandMap.key p) IorStandMap.role 0 { s with bring := { s.bring with single := s.bring.single ++ [p] } }))

/-- HEAT_END (R471, R472). -/
def doHeatEnd (found : List HeatFinding) (s : State) : State :=
  match s.bring.heat with
  | [] => s
  | h =>
    if s.bring.kind = 0 then singleHeatEnd (h.headD 0) found s
    else
      let s := { s with bring := { s.bring with entered := s.bring.entered ++ h } }
      let s := h.foldl (fun s p => heatEarly (findingOf found p) s) s
      let s := heatLate (h.map (findingOf found)) s
      nextHeat (heatMend s)

def execHeatEnd (found : List HeatFinding) (s : State) : Host.Outcome State Fault Refusal := .next (doHeatEnd found s)

/-- TRAINING_LIMIT (R472, R475): what has not trained by the limit fails. -/
def doTrainingLimit (s : State) : State :=
  s.bring.heat.foldl (fun s p =>
    if tileState s p ≠ 2 then s
    else
      let s := (List.range 64).foldl (fun s sl => trainSlice p sl false s) s
      ((List.range 4).filter (fun d => match facing p d with
        | none => true
        | some q => tileState s q = 2)).foldl (fun s d => trainSeam p d (List.range (seamLanes p d)) s) s) s

def execTrainingLimit (s : State) : Host.Outcome State Fault Refusal := .next (doTrainingLimit s)

/-- The end of the march (R477): its failed rows are listed and the first retention pattern is written and held. -/
def marchEnd (failed : List DramRow) (s : State) : State :=
  putPhase 4 (slicesTest (liveStands s) 2 2 { s with bring := { s.bring with failed := failed, patterns := 0 } })

/-- The end of the march of the stands in single-stand tests (R488). -/
def singleMarchEnd (failed : List DramRow) (s : State) : State :=
  slicesTest s.bring.single 2 2 { s with bring := { s.bring with failed := s.bring.failed ++ failed } }

/-- Is a spare row free and passing (R479)? -/
def spareFree (s : State) (failed : List DramRow) (r : DramRow) (n : Nat) : Bool :=
  !(failed.any (fun x => x.spare && x.phys = r.phys && x.slice = r.slice && x.wafer = r.wafer && x.row.toNat = n)) &&
  !(s.bring.repairs.any (fun x => x.row.phys = r.phys && x.row.slice = r.slice && x.row.wafer = r.wafer && x.spare.toNat = n))

/-- The row that needs a spare because a row failed (R479): the row itself unless it is repaired already; for a failed
spare, the row that it carries by a fused repair. -/
def needsSpare (s : State) (r : DramRow) : Option DramRow :=
  if r.spare then
    (s.bring.repairs.find? (fun x => x.fused && x.row.phys = r.phys && x.row.slice = r.slice && x.row.wafer = r.wafer &&
      x.spare.toNat = r.row.toNat)).map (·.row)
  else if s.bring.repairs.any (fun x => x.row = r) then none else some r

/-- Repair one failed row (R479), or fail its slice. -/
def repairRow (failed : List DramRow) (s : State) (r : DramRow) : State :=
  match needsSpare s r with
  | none => s
  | some w =>
    let p := w.phys.toNat
    let s := rfsat IorBringupCount.key IorBringupCount.conflicts 1 s
    match (List.range 512).find? (spareFree s failed w) with
    | some n =>
      let s := { s with bring := { s.bring with repairs := s.bring.repairs.filter (fun x => x.row ≠ w) ++ [⟨w, BitVec.ofNat 9 n, false⟩] } }
      rfsat IorBringupCount.key IorBringupCount.softRows 1 (rfsat (IorBringupStand.key p) IorBringupStand.softRows 1 s)
    | none =>
      exclude p 3 (rfput (DslStatus.key p w.slice.toNat) DslStatus.state 3
        { s with bring := { s.bring with noSpare := s.bring.noSpare ++ [w] } })

/-- The repairs of the stands under test (R479), and the fused rows that passed (R468). -/
def applyRepairs (ps : List Nat) (failed : List DramRow) (s : State) : State :=
  let fs := (failed.filter (fun r => ps.contains r.phys.toNat)).eraseDups
  let pass := (s.bring.repairs.filter (fun x => x.fused && ps.contains x.row.phys.toNat && !fs.contains x.row)).length
  fs.foldl (repairRow fs) (rfsat IorBringupCount.key IorBringupCount.fusedPass pass s)

/-- Does a stand have a seam trained to a live stand or to the ring (R20, R480)? -/
def seamsOut (s : State) (ok : Nat → Bool) (p : Nat) : Bool :=
  (List.range 4).any (fun d =>
    let st := rf s (SeamStatus.key p d) SeamStatus.state
    (st = 1 || st = 2) && (match facing p d with
      | none => true
      | some q => ok q))

/-- Topology agreement of one stand (R28, R480). -/
def agree (ok : Nat → Bool) (p : Nat) (s : State) : State :=
  if reasonOf s p ≠ 0 then s
  else if tileState s p ≠ 2 then exclude p 9 s
  else if (List.range 64).any (fun y => rf s (StdRow.key p y) StdRow.overLim = 1) then exclude p 1 s
  else if !seamsOut s ok p then exclude p 6 s
  else s

/-- Is a stand an ST_FUSE_TEST_CONFLICT item: good in the fuses, and excluded by a test (R468)? -/
def standConflict (s : State) (p : Nat) : Bool := reasonOf s p ≠ 0 && reasonOf s p ≠ 8

/-- The ST_FUSE_TEST_CONFLICT items of a set of stands (R480), by physical coordinates: a site's row and column; a lane; a
DRAM row's wafer and row; a stand. -/
def conflictItems (s : State) (ps : List Nat) : List (Word × List Byte) :=
  ((s.bring.sites.filter (fun f => !f.fused && ps.contains f.item.phys.toNat)).map (fun f =>
    (locUnit (logicalOf s f.item.phys.toNat) f.item.phys.toNat 0 0 0 0 0, [BitVec.ofNat 8 f.item.row.toNat, BitVec.ofNat 8 f.item.col.toNat]))) ++
  ((s.bring.lanes.filter (fun f => !f.fused && ps.contains f.item.phys.toNat)).map (fun f =>
    (locUnit (logicalOf s f.item.phys.toNat) f.item.phys.toNat 0 0 0 0 f.item.side.toNat, [BitVec.ofNat 8 f.item.lane.toNat]))) ++
  ((s.bring.repairs.filter (fun x => !x.fused && ps.contains x.row.phys.toNat)).map (fun x =>
    (locUnit (logicalOf s x.row.phys.toNat) x.row.phys.toNat 0 0 0 0 x.row.slice.toNat,
      BitVec.ofNat 8 x.row.wafer.toNat :: bytesLE 3 x.row.row.toNat))) ++
  ((s.bring.noSpare.filter (fun r => ps.contains r.phys.toNat)).map (fun r =>
    (locUnit (logicalOf s r.phys.toNat) r.phys.toNat 0 0 0 0 r.slice.toNat, BitVec.ofNat 8 r.wafer.toNat :: bytesLE 3 r.row.toNat))) ++
  ((ps.filter (standConflict s)).map (fun p => (locStand s p, [])))

/-- Report the conflict items that are not yet reported, at most 1,024 records in all (R480). -/
def reportConflicts (ps : List Nat) (s : State) : State :=
  let l := ((conflictItems s ps).filter (fun x => !s.bring.told.contains x)).take (1024 - s.bring.told.length)
  l.foldl (fun s (loc, data) => report stFuseTestConflict false 0 loc 0 data s) { s with bring := { s.bring with told := s.bring.told ++ l } }

/-- The eligible stands (R480). -/
def eligible (s : State) : List Nat := liveStands s

/-- Does the source chain of a stand hold one that is not eligible (R483)? -/
def sourceChainBad (s : State) (p : Nat) : Bool := physList.any (fun q => natBit (rg s (ClkPath.key p)).toNat q && !isLive s q)

/-- Remove excluded stands from every source chain (R483): each eligible stand whose CLK_PATH holds the bit of one that
is not eligible takes a new source among the eligible, in ascending DEPTH, and again while one that lost its source in this has
been excluded. -/
def cleanChains : Nat → State → State
  | 0, s => s
  | n + 1, s =>
    let depth (p : Nat) : Nat := rf s (ClkSrcStatus.key p) ClkSrcStatus.depth
    match ((eligible s).filter (sourceChainBad s)).mergeSort (fun a b => depth a ≤ depth b) with
    | [] => s
    | ps => cleanChains n (ps.foldl (fun s p => if sourceChainBad s p then newSource (isLive s) p s else s) s)

/-- The standby stands (R481): from the standby list in list order, then those of highest physical index. -/
def standbyOf (es list : List Nat) (k : Nat) : List Nat :=
  let a := (list.filter (fun p => es.contains p)).eraseDups.take k
  a ++ ((es.filter (fun p => !a.contains p)).reverse).take (k - a.length)

/-- Give a stand its role, number and group (R21, R22, R24). -/
def putRole (p role logical group : Nat) (s : State) : State :=
  let k := IorStandMap.key p
  rfput k IorStandMap.parityGroup group (rfput k IorStandMap.logical logical (rfput k IorStandMap.role role s))

/-- RGR_PAR of every group from the stand map (R482, R520): STATE 0x3 where the group has no standby. -/
def parityRegs (s : State) : State :=
  (List.range 4).foldl (fun s g =>
    match physList.find? (fun p => roleOf s p = 2 && rf s (IorStandMap.key p) IorStandMap.parityGroup = g) with
    | some p => rput (RgrPar.key g) (fldOf RgrPar.standby p) s
    | none => rput (RgrPar.key g) (fldOf RgrPar.state 3) s) s

/-- Assign the roles (R21, R22, R481). -/
def assignRoles (es : List Nat) (s : State) : State :=
  let list := (s.bring.map.map (·.standby)).getD []
  let sb := (standbyOf es list (min 4 (es.length - 56))).mergeSort (· ≤ ·)
  let svc := es.filter (fun p => !sb.contains p)
  let s := (svc.zip (List.range svc.length)).foldl (fun s (p, l) => putRole p 1 l (l / 14) s) s
  parityRegs ((sb.zip (List.range sb.length)).foldl (fun s (p, g) => putRole p 2 0xFF g s) s)

/-- The gates at READY (R484): every array group off, every other node on. -/
def gatesReady (s : State) : State :=
  { s with gates := (physList.filter (fun p => tileState s p = 2)).flatMap (fun p => (List.range 512).map (fun i => (p * 1024 + 0x100 + i, 1))) }

/-- The groups that no standby holds. -/
def unprotectedGroups (s : State) : List Nat :=
  (List.range 4).filter (fun g => rf s (RgrPar.key g) RgrPar.standby = 0)

/-- The slot clock is the fused ceiling (R423, R484), unless the reference is lost. -/
def slotCeiling (s : State) : State :=
  if refState s = 2 ∨ refState s = 3 then s
  else rfput ClkSlotStatus.key ClkSlotStatus.gliding 0 (rfput ClkSlotStatus.key ClkSlotStatus.currentKhz Config.slotCeilKhz
    (rfput ClkSlotCfg.key ClkSlotCfg.khz Config.slotCeilKhz { s with ringClk := { s.ringClk with glide := none } }))

/-- READY or REDUCED (R482, R484, R485): the module stands ready, and the end is reported; READY with four standby stands. A
cold bring-up names the groups that no standby holds. -/
def bringReady (cold : Bool) (e : Nat) (s : State) : State :=
  let gs := if cold then unprotectedGroups s else []
  let result := if 4 ≤ (physList.filter (fun p => roleOf s p = 2)).length then 1 else 2
  let on := physList.filter (fun p => tileState s p = 2)
  let s := slotCeiling (on.foldl (fun s p => dslFast p s) (gatesReady (slicesTest on 0 1 s)))
  let s := rfput IorBringupStatus.key IorBringupStatus.eligible e s
  let s := if gs.isEmpty then s else report stStandbyShort false 0 locNone 0 (gs.map (BitVec.ofNat 8)) s
  let c := IorBringupCount.key
  let s := report stBringupDone false 0 locNone 0 ([BitVec.ofNat 8 result, BitVec.ofNat 8 e,
    BitVec.ofNat 8 (rf s c IorBringupCount.excluded), BitVec.ofNat 8 (rf s c IorBringupCount.narrow)] ++
    bytesLE 2 (rf s c IorBringupCount.conflicts) ++ bytesLE 4 (bringElapsed s)) s
  endBring result stDone s

/-- Topology agreement, roles and the end of a cold bring-up (R480 to R484). -/
def bringRoles (s : State) : State :=
  let live := liveStands s
  let s := live.foldl (fun s p => agree (fun q => live.contains q) p s) (putPhase 5 s)
  let s := cleanChains 128 s
  let out := physList.filter (fun p => !isLive s p)
  let s := reportConflicts physList (rfsat IorBringupCount.key IorBringupCount.conflicts (out.filter (standConflict s)).length s)
  let s := out.foldl (fun s p => reportExcluded p s) (rfput IorBringupCount.key IorBringupCount.excluded out.length s)
  let es := eligible s
  let s := putPhase 6 (rfput IorBringupStatus.key IorBringupStatus.eligible es.length s)
  if es.length < 56 then
    failBring stStandsShort locNone [BitVec.ofNat 8 es.length] (physList.reverse.foldl (fun s p => rampDown p 0 s) s)
  else
    let s := out.foldl (fun s p => switchOut p s) s
    bringReady true es.length (assignRoles es s)

/-- RETENTION_HOLD_END (R478): the refresh interval is restored and the rows are compared; after the fourth pattern the
repairs are applied and the later phases follow. -/
def doRetention (failed : List DramRow) (s : State) : State :=
  if s.bring.kind ≠ 1 ∨ bringPhase s ≠ 4 then { s with bring := { s.bring with failed := s.bring.failed ++
    (if s.bring.kind = 0 then failed.filter (fun r => s.bring.single.contains r.phys.toNat) else []) } }
  else
    let s := slicesTest (liveStands s) 0 2 { s with bring := { s.bring with failed := s.bring.failed ++ failed, patterns := s.bring.patterns + 1 } }
    if s.bring.patterns < 4 then slicesTest (liveStands s) 2 2 s
    else
      let ps := liveStands s
      bringRoles (slicesTest ps 0 1 (applyRepairs ps s.bring.failed s))

def execRetentionHoldEnd (failed : List DramRow) (s : State) : Host.Outcome State Fault Refusal := .next (doRetention failed s)

/-- The stands that a warm restart judges (R487). -/
def warmStands (s : State) : List Nat := physList.filter (fun p => roleOf s p = 1 || roleOf s p = 2 || roleOf s p = 3)

/-- A warm restart ends FAILED, naming a stand and its REASON, which it adds to its findings (R487, R491). -/
def failWarm (p r : Nat) (s : State) : State :=
  failBring stWarmMismatch (locStand s p) [BitVec.ofNat 8 r] (rfsat IorBringupCount.key IorBringupCount.excluded 1 (exclude p r s))

/-- W7 (R480, R485): agreement against the kept map and unions; the conflicts found are reported, and the first stand that
agrees no longer ends the restart. -/
def warmAgree (s : State) : State :=
  let ps := warmStands s
  let s := reportConflicts ps (ps.foldl (fun s p => agree (fun q => ps.contains q) p s) s)
  match ps.find? (fun p => reasonOf s p ≠ 0) with
  | some p => failWarm p (reasonOf s p) s
  | none => s

/-- HUB_CFG has changed the device address of every DRAM word (R32, R268): a word that was written at an address of the other
parity is read as uncorrectable. `old` is HUB_CFG before. -/
def recodeDram (old : Word) (s : State) : State :=
  let new := hubCfgNow s
  let at' (c : Word) (lg sl off : Nat) : Nat := dramAddr (fldGet HubCfg.interleave c) (granuleBytes (fldGet HubCfg.granule c)) lg sl off
  if old = new then s
  else
    ((listedWords s).filter (fun w => decide (8 * w < 2 ^ 47))).foldl (fun s w =>
      let lg := logicalOf s (8 * w / (64 * sliceBytes))
      let (sl, off) := (8 * w / sliceBytes % 64, 8 * w % sliceBytes)
      if lg < 56 ∧ addrParity (at' old lg sl off) ≠ addrParity (at' new lg sl off) then flipParity w s else s) s

/-- W2 (R485, R486): the units are reset, and the registers that are not kept; the records that wait are written first, since
their rings go. A word of DRAM is then read by the reset HUB_CFG (R32). -/
def warmReset (s : State) : State :=
  let old := hubCfgNow s
  recodeDram old (capChanged (programReset (unitsReset (resetRegs warmMask (flushRecords s)))))

/-- What a step of a warm restart does (R485): W2 resets the units, W4 runs the patch waves of every stand, W7 agrees, W8 is
READY; the others show in what they find. -/
def warmEffect (n : Nat) (sites : List Site) (s : State) : State :=
  if n = 2 then warmReset s
  else if n = 4 then (warmStands s).foldl (fun s p => probeStand p sites s) s
  else if n = 7 then warmAgree s
  else if n = 8 then bringReady false ((physList.filter (fun p => roleOf s p = 1 || roleOf s p = 2)).length) (parityRegs s)
  else s

/-- A step of a warm restart ends (R485, R487), with the stands that failed it and the REASON of each. -/
def warmStep (n : Nat) (failed : List (BitVec 6 × BitVec 4)) (sites : List Site) (s : State) : State :=
  if s.bring.kind ≠ 2 ∨ n ≠ s.bring.warmDone + 1 ∨ 8 < n then s
  else
    let s := { s with bring := { s.bring with warmDone := n } }
    match (failed.filter (fun x => (warmStands s).contains x.1.toNat)).head? with
    | some (p, r) => failWarm p.toNat r.toNat s
    | none => warmEffect n sites s

/-- WARM_RESTART_TIMEOUT (R485): W8 has not been reached within 20 s. -/
def execWarmRestartTimeout (s : State) : Host.Outcome State Fault Refusal :=
  .next (if s.bring.kind = 2 then failBring stWarmMismatch locNone [] s else s)

/-- BRINGUP_PHASE_COMPLETE (R469, R475, R477, R485). -/
def doPhaseComplete (what : PhaseDone) (s : State) : State :=
  match what with
  | .ringChecks u => if s.bring.kind = 1 ∧ bringPhase s = 1 then ringChecks u.toNat s else s
  | .seamTraining p d f =>
    if s.bring.heat.contains p.toNat && decide (tileState s p.toNat = 2) && isPhys p.toNat then
      trainSeam p.toNat d.toNat ((List.range (seamLanes p.toNat d.toNat)).filter (fun n => natBit f.toNat n)) s
    else s
  | .sliceTraining p sl => if s.bring.heat.contains p.toNat && decide (tileState s p.toNat = 2) then trainSlice p.toNat sl.toNat true s else s
  | .march f => if s.bring.kind = 1 ∧ bringPhase s = 3 then marchEnd f s else if s.bring.kind = 0 then singleMarchEnd f s else s
  | .warmStep n f sites => warmStep n.toNat f sites s

def execBringupPhaseComplete (what : PhaseDone) (s : State) : Host.Outcome State Fault Refusal := .next (doPhaseComplete what s)

/-- STAND_POWER ON (R6, R460, R488): H1 begins, or no side is left to enter by. The cap in force is the fused ceiling. -/
def standOn (c : Cmd) (p : Nat) (s : State) : State :=
  let ok (q : Nat) : Bool := roleOf s q = 1 || roleOf s q = 2
  let s := capChanged (rput PwrCap.key (regReset PwrCap.key) s)
  let s := rput (IorBringupStand.key p) (fldOf IorBringupStand.heat (rf s (IorBringupStand.key p) IorBringupStand.heat)) s
  let s := { s with bring := { s.bring with
    slicesBad := s.bring.slicesBad.filter (fun x => x.1 ≠ p)
    laneBad := s.bring.laneBad.filter (fun x => x.1 ≠ p)
    failed := s.bring.failed.filter (fun r => r.phys.toNat ≠ p) } }
  let s := (List.range 64).foldl (fun s sl => rreset (DslStatus.key p sl) s) s
  match entrySides s ok p with
  | [] => refuse c stStandExcluded (locStand s p) (switchOut p (exclude p 7 s))
  | d :: _ =>
    let s := rfput (ClkSrcSel.key p) ClkSrcSel.src d (rfput (IorBringupStand.key p) IorBringupStand.entrySide d s)
    beginLong 0x2A c (rampUp p { s with bring := { s.bring with heat := [p] } })

/-- What refuses a STAND_POWER (R460). -/
def standPowerRefusal (s : State) (p op : Nat) : Option Status :=
  if s.mode = .none ∧ bringResult s ≠ 3 then some stBadState
  else if !isPhys p then some stAddrReserved
  else if op = 1 then
    if !(roleOf s p = 5 || (roleOf s p = 4 && !tilePowered s p)) || logicalOf s p ≠ 0xFF then some stBadState
    else if s.power.inputFault || s.power.coldNeeded then some stInputFault
    else none
  else if roleOf s p ≠ 2 then some stBadState
  else if rf s (IorStandMap.key p) IorStandMap.parityGroup ≠ 0xFF then some stChildActive
  else none

/-- STAND_POWER (R460). -/
def doStandPower (c : Cmd) (s : State) : State :=
  issueVerb 0x2A c (decide (c.num 17 1 ≤ 1) && c.zero 18 46) (fun s =>
    let p := c.num 16 1
    match standPowerRefusal s p (c.num 17 1) with
    | some st => refuse c st locNone s
    | none =>
      if c.num 17 1 = 1 then standOn c p s
      else beginLong 0x2A c (rampDown p 4 (rfput (IorStandMap.key p) IorStandMap.role 4 s))) s

def execStandPower (c : Cmd) (s : State) : Host.Outcome State Fault Refusal := .next (doStandPower c s)

/-- SINGLE_STAND_TEST_END (R488): the stand becomes standby without a group, or is excluded and switched off. -/
def doSingleEnd (p : Nat) (failed : List DramRow) (s : State) : State :=
  if !s.bring.single.contains p then s
  else
    let s := { s with bring := { s.bring with single := s.bring.single.filter (· ≠ p) } }
    let s := slicesTest [p] 0 1 (applyRepairs [p] (s.bring.failed ++ failed) s)
    let s := reportConflicts [p] (agree (fun q => roleOf s q = 1 || roleOf s q = 2) p s)
    if reasonOf s p ≠ 0 then reportExcluded p (switchOut p s)
    else
      let s := groupsOff p (putRole p 2 0xFF 0xFF s)
      report stBringupDone false 0 (locStand s p) 0 [] s

def execSingleStandTestEnd (phys : BitVec 6) (failed : List DramRow) (s : State) : Host.Outcome State Fault Refusal :=
  .next (doSingleEnd phys.toNat failed s)

/-- RAIL_SWITCH_OFF_DONE (R445): VCORE, the first, reads 0 (R462); the next rail is switched off, or the tile is off and what it
powered is lost: the switch-off that STAND_POWER commanded then retires, and the next tiles of a cold bring-up follow. -/
def doRailOff (p : Nat) (s : State) : State :=
  match rampOf s p with
  | some (n, false, f) =>
    let rest := s.power.ramps.filter (·.1 ≠ p)
    let s := rfput (PwrTile.key p) PwrTile.vcoreMv 0 s
    if 2 ≤ n then { s with power := { s.power with ramps := rest ++ [(p, n - 1, false, f)] } }
    else
      nextOff (offRetires p (standLost p (rfput (PwrTile.key p) PwrTile.vmargin 0
        (putTile p f { s with power := { s.power with ramps := rest } }))))
  | _ => s

def execRailSwitchOffDone (phys : BitVec 6) (s : State) : Host.Outcome State Fault Refusal := .next (doRailOff phys.toNat s)

/-- A stand of a warm restart has tripped: it fails the step in course (R476, R487). `s` is the state before. -/
def tripEnds (s t : State) : State :=
  if t.bring.kind ≠ 2 then t
  else
    match (warmStands s).find? (fun p => tileState s p ≠ 3 && tileState t p = 3) with
    | some p => failWarm p 9 t
    | none => t

/-- TILE_TRIP (R458, R459). -/
def execTileTrip (phys : BitVec 6) (cause rail : BitVec 4) (phase : Byte) (s : State) : Host.Outcome State Fault Refusal :=
  .next (tripEnds s (tripStand phys.toNat cause.toNat rail.toNat phase.toNat s))

def execInputFault (voltage : BitVec 16) (s : State) : Host.Outcome State Fault Refusal := .next (tripEnds s (doInputFault voltage.toNat s))

/-- JUNCTION_TRIP (R457, R476): one stand's tile, or every tile, which ends a bring-up. -/
def doJunctionTrip (p : Nat) (ring : Bool) (s : State) : State :=
  if !ring then tripEnds s (tripStand p 4 0 0xFF s)
  else
    let s := tripAll 4 s
    if s.bring.kind ≠ 0 then endBring 3 stStandTripped s else s

def execJunctionTrip (phys : BitVec 6) (ring : Bool) (s : State) : Host.Outcome State Fault Refusal :=
  .next (doJunctionTrip phys.toNat ring s)

end Sys2Proof.Machine
end

