-- ==== Sys2Proof/Machine/Derived.lean ====
section
/-!
DEFINITION. What a set-up register shows: the stored word, with the fields that are read from the state of their unit
put in (queue depths, counts of waits and descriptors in flight, gate and clock states, service, fuse and blaze state).
-/

namespace Sys2Proof.Machine

/-- A compute array's registers. LOAD_IMAGE leaves BOUND_VALID 1 in a counter whose BOUND_SRC is 0b00 (R154): while an image
is loaded the stored bit says whether that has since changed. -/
def shownCompute (s : State) (p a off : Nat) (w : Word) : Word :=
  let c := arrOf s (arrKey p a)
  if off = 0x6C8 then fldSet CaBtnState.outDepth (fldSet CaBtnState.inDepth w c.btnIn.length) c.btnOut.length
  else if off = 0x5C0 then BitVec.ofNat 64 (caTrace s p a)
  else if off = 0x580 then fldSet CaStatus.arrayState w (arrState s p a)
  else if 0x600 ≤ off ∧ off < 0x6C0 ∧ off % 0x20 = 0x18 ∧ rf s (CaCtrCfg.key p a ((off - 0x600) / 0x20)) CaCtrCfg.boundSrc = 0 ∧
      (standOf s p).phase ≠ 0 then
    fldSet CaCtrStatus.boundValid w (1 - fldGet CaCtrStatus.boundValid w)
  else w

/-- Scoreboard entries pending for a generator (R195). -/
def sbDepth (s : State) (p a g : Nat) : Nat := ((memArrOf s p a).sb.filter (fun e => e.gens.contains g)).length

/-- A node's registers (R163, R233). -/
def shownNode (s : State) (p n off : Nat) (w : Word) : Word :=
  if 0xC00 ≤ off ∧ off < 0xC80 ∧ off % 0x20 = 8 then
    let t := steerOf s p n ((off - 0xC00) / 0x20)
    fldSet NodeSteerState.bq (fldSet NodeSteerState.dq1 (fldSet NodeSteerState.dq0 w t.dq0.length) t.dq1.length) t.bq.length
  else if standKey p 14 n off = NodeStatus.key p n then fldSet NodeStatus.deadSeam
    (fldSet NodeStatus.pending w (pendingConns s p n).length) (if usesDeadSeam s p n then 1 else 0)
  else w

/-- Descriptors in flight in a hub (R275, R293; log entry 19): placed in a slot and not retired. A held queue's descriptor has
retired, and so have all of a Loop queue after its first pass but the one that executes or waits. -/
def hubInFlight (s : State) (p : Nat) : Nat :=
  ((List.range 32).map (fun q =>
    let c := rg s (HubQCfg.key p q)
    let st := rg s (HubQState.key p q)
    let mode := fldGet HubQCfg.mode c
    let h := hubQOf s p q
    let held := if fldGet HubQState.state st = 3 then 1 else 0
    let rest := fldGet HubQCfg.last c + 1 - fldGet HubQState.next st
    if 28 ≤ q then h.ring.length - held
    else if mode = 1 then (if h.finished then 0 else rest - held)
    else if mode = 2 then
      (if fldGet HubQState.pass st = 0 then rest - held
        else if fldGet HubQState.state st = 1 ∨ fldGet HubQState.state st = 2 then 1 else 0)
    else 0)).sum

/-- The engines that execute a descriptor (R293). -/
def hubEngines (s : State) (p : Nat) : Nat :=
  (List.range 5).foldl (fun a i =>
    let cls := i + 3
    (List.range (engineCount cls)).foldl (fun a j =>
      if (engineQueues s p cls j).isEmpty then a else a + 2 ^ engineBit cls j) a) (if blzActive s p then 2 ^ 15 else 0)

/-- A hub's registers (R293). -/
def shownHub (s : State) (p off : Nat) (w : Word) : Word :=
  if off = 8 then fldSet HubStatus.engines (fldOf HubStatus.inFlight (hubInFlight s p)) (hubEngines s p)
  else if off = 0x18 then
    BitVec.ofNat 64 (ofBytesLE (descBytes s p (rf s (HubDescAccess.key p) HubDescAccess.addr / 8 * 8) 8))
  else if 0x40 ≤ off ∧ off < 0x80 then
    let t := tapOf s p ((off - 0x40) / 8)
    fldSet HubTap.rxDepth (fldSet HubTap.txDepth w t.tx.length) t.rx.length
  else w

/-- CLK_GATE_STATE of the node in CLK_GATE_VIEW (R435, R441). -/
def gateWord (s : State) (p : Nat) (w : Word) : Word :=
  let n := rf s (ClkGateView.key p) ClkGateView.node
  if !isGate n then fldSet ClkGateState.state (fldSet ClkGateState.inUse (fldSet ClkGateState.descInUse w 0) 0) 0
  else
    fldSet ClkGateState.state (fldSet ClkGateState.inUse (fldSet ClkGateState.descInUse w
      (if (gateDesc n).any (fun m => gateSt s p m != 1 && gateInUse s p m) then 1 else 0))
      (if gateInUse s p n then 1 else 0)) (gateSt s p n)

/-- A stand controller's registers (R441). -/
def shownStand (s : State) (p off : Nat) (w : Word) : Word :=
  if off = 0x208 then
    fldSet ClkSrcStatus.ringSides w ((List.range 4).foldl (fun a d => if (facing p d).isNone then a + 2 ^ d else a) 0)
  else if off = 0x230 then gateWord s p w
  else w

/-- The refresh interval of a slice (R270, R274): 1.95 µs above 85 °C, unless under the retention test. -/
def shownRefresh (s : State) (p : Nat) (w : Word) : Word :=
  if fldGet DslStatus.refresh w = 2 then w
  else fldSet DslStatus.refresh w (if 85 * 16 < hottest (rg s (PwrStandTemp.key p)) then 1 else 0)

/-- A register of a stand. -/
def shownStandReg (s : State) (k : Nat) (w : Word) : Word :=
  let p := suStand k
  let u := suIndex k
  let off := suOff k
  let cls := suClass k
  if cls = 0 then shownStand s p off w
  else if cls = 1 then shownHub s p off w
  else if cls = 8 then (if off = 0 then fldSet EngStatus.active w (if blzActive s p then 1 else 0) else w)
  else if 3 ≤ cls ∧ cls ≤ 9 then (if off = 0 then fldSet EngStatus.active w (engineQueues s p cls u).length else w)
  else if cls = 10 then
    (if off = 0x28 then cvuR s false p u else if off = 0x20 then BitVec.ofNat 64 (cvuV s false p u) else w)
  else if cls = 11 then (if off = 0x28 then fldSet TlyStatus.waiters w (waitersOf s (false, p, u)) else w)
  else if cls = 13 then (if off = 0 then shownRefresh s p w else w)
  else if cls = 14 then shownNode s p u off w
  else if cls = 15 then
    if isMemIdx u then
      (if k = MaSbStatus.key p u then fldSet MaSbStatus.depthRag0 (fldSet MaSbStatus.depthRag1 (fldSet MaSbStatus.depthWag w
        (sbDepth s p u 2)) (sbDepth s p u 1)) (sbDepth s p u 0)
        else if k = MaStatus.key p u then fldSet MaStatus.arrayState w (arrState s p u) else w)
    else shownCompute s p u off w
  else w

/-- May the blaze before the last be restored (R514)? -/
def prevRestorable (s : State) : Bool :=
  match s.snaps with
  | _ :: x :: _ => !x.tainted && !s.reconFailed && rf s RgrBlzState.key RgrBlzState.substituted = 0 &&
      !s.logs.any (fun g => g.2.full)
  | _ => false

/-- RGR_BLZ_STATE (R520). -/
def blzStateWord (s : State) : Word :=
  fldSet RgrBlzState.taints (fldSet RgrBlzState.logFull (fldSet RgrBlzState.prevOk (fldSet RgrBlzState.tainted
    (rg s RgrBlzState.key) (if s.tainted then 1 else 0)) (if prevRestorable s then 1 else 0))
    (if s.logs.any (fun g => g.2.full) then 1 else 0)) (min 0xFFFF s.taintCount)

/-- A Ranger mailbox register (R397, R399, R400, R520). -/
def shownRanger (s : State) (u off : Nat) (w : Word) : Word :=
  if 0x400 ≤ off ∧ off < 0x600 ∧ off % 0x20 = 0x10 then gqStateWord s u ((off - 0x400) / 0x20)
  else if off = 0x608 then gulStatus s
  else if off = 0x610 then gulPages s
  else if off = 0x810 then blzStateWord s
  else w

/-- A CXL port's register (R368, R373). -/
def shownPort (s : State) (p off : Nat) (w : Word) : Word :=
  if 0x800 ≤ off ∧ off < 0x1000 ∧ off % 0x20 = 0x10 then
    let q := ringOf s p ((off - 0x800) / 0x20)
    fldSet IorCrState.inFlight (fldSet IorCrState.state (fldSet IorCrState.ccPos (fldOf IorCrState.sqHead q.sqHead) q.ccPos)
      (crState q)) q.flight.length
  else if off = 0 then (portOf s p).status
  else w

/-- The fuse banks (R548). -/
def shownFuse (s : State) (off : Nat) (w : Word) : Word :=
  if off = 8 then otpGradeWord
  else if off = 0x10 then otpKeysWord s
  else if off = 0x20 then
    BitVec.ofNat 64 (ofBytesLE (smapGetMany memDflt s.otpStage (rf s OtpStageAccess.key OtpStageAccess.addr / 8 * 8) 8))
  else if 0x40 ≤ off then otpGenWord s ((off - 0x40) / 8)
  else w

/-- The ring DMA engines of a ring unit that execute a command. -/
def ringActive (s : State) (u : Nat) : Nat := ((portOf s (u / 4)).copies.filter (fun j => j.engine = u % 4)).length

/-- A register of the ring. -/
def shownRingReg (s : State) (k : Nat) (w : Word) : Word :=
  let u := suIndex k
  let off := suOff k
  let cls := suClass k
  if cls = 0 then (if off = 0xC00 ∧ s.bring.kind ≠ 0 then fldSet IorBringupStatus.elapsedMs w (bringElapsed s) else w)
  else if cls = 1 then shownRanger s u off w
  else if cls = 5 then shownFuse s off w
  else if cls = 6 then (if off = 0 then fldSet EngStatus.active w (ringActive s u) else w)
  else if cls = 7 then
    (if off = 0x28 then cvuR s true 0 u else if off = 0x20 then BitVec.ofNat 64 (cvuV s true 0 u) else w)
  else if cls = 8 then (if off = 0x28 then fldSet TlyStatus.waiters w (waitersOf s (true, 0, u)) else w)
  else if cls = 9 then shownPort s u off w
  else w

/-- What a register shows, by its canonical address; its write-only bits read 0 (R14). -/
def shown (s : State) (k : Nat) : Word :=
  let w := rg s k &&& ~~~((regDescOf k).getD ⟨0, 0, 0, 0, 0, 0, 0⟩).wo
  if suView k = 2 then shownStandReg s k w else shownRingReg s k w

end Sys2Proof.Machine
end

