-- ==== Sys2Proof/Machine/ImageForm.lean ====
section
/-!
DEFINITION. The form of an image: header and section table (R354, R355, step 2 of R357), the addresses and contents of
its sections (R13, R355), its register lists (R356), and the configurations that they give (step 4 of R357). A
configuration is held in a State of its own whose stand registers are keyed by logical number.
-/

namespace Sys2Proof.Machine

/-- The first fault found: the status and LOCATION of the refusal. -/
abbrev Find := Option (Status × Word)

def firstFind (l : List Find) : Find := l.findSome? id
def need (ok : Bool) (st : Status) (loc : Word) : Find := if ok then none else some (st, loc)

/-- The image form of LOCATION (R347): section, or 0xFFFFF for the header and table, and byte offset. -/
def locImage (sec off : Nat) : Word := BitVec.ofNat 64 (2 ^ 60 + sec % 2 ^ 20 * 2 ^ 40 + off % 2 ^ 40)
def locTable (off : Nat) : Word := locImage 0xFFFFF off

/-- Section types with their content's entry width and the length that it must have, 0 for any (R355). -/
def secShape (t : Nat) : Nat × Nat :=
  if t = 1 ∨ t = 2 ∨ t = 3 then (16, 0) else if t = 5 then (2304, 2304) else if t = 7 then (24, 0)
  else if t = 8 ∨ t = 11 ∨ t = 13 then (8, 0) else if t = 9 then (32, 32) else if t = 10 then (16, 16)
  else if t = 12 then (64, 64) else if t = 14 then (16, 0) else (1, 0)

/-- Is a plan number one that a PLAN_SET may carry, or a PARITY_SET (R355)? -/
def planNumber (t n : Nat) : Bool := decide (0x100 ≤ n ∧ n ≤ 0x137) || (t = 3 && n = 0xFFFF)

/-- The header (R354), each field with its offset. -/
def headerFault (b : List Byte) (len : Nat) : Find :=
  let bad (ok : Bool) (o : Nat) : Find := need ok stImageInvalid (locTable o)
  firstFind [
    bad (64 ≤ b.length && imgMagic b = 0x31534B5A) 0, bad (imgVersion b = 1) 4, bad (numAt b 6 2 = 0) 6,
    bad (imgLength b = len && len = b.length) 8, bad (decide (1 ≤ imgP b ∧ imgP b ≤ 64)) 28,
    bad (decide (imgInterleave b ≤ 1)) 29, bad (decide (imgGranule b ≤ 2)) 30, bad (numAt b 31 1 = 0) 31,
    bad (decide (1 ≤ imgSections b ∧ imgSections b ≤ 2 ^ 20)) 44, bad (numAt b 52 12 = 0) 52]

/-- Do two sections share a byte? -/
def secOverlap (x y : Section) : Bool := decide (x.off < y.off + y.len ∧ y.off < x.off + x.len)

/-- Is a section the second of a type that an image holds once, or once per target (R355)? -/
def secRepeats (x y : Section) : Bool :=
  x.type = y.type && x.type != 1 && x.type != 4 && x.type != 6 &&
  (if x.type = 2 ∨ x.type = 3 ∨ x.type = 5 then x.target = y.target else true)

/-- Entry k of the section table (R354, R355) against the entries before it. -/
def tableFault (b : List Byte) (k : Nat) : Find :=
  let o := 64 + 32 * k
  let x := imgSection b k
  let before := (imgSectionList b).take k
  let bad (ok : Bool) (d : Nat) : Find := need ok stImageInvalid (locTable (o + d))
  let (w, n) := secShape x.type
  firstFind [
    bad (decide (1 ≤ x.type ∧ x.type ≤ 14) && !before.any (secRepeats x)) 0,
    bad (decide (x.flags = 0) || (x.type = 4 && decide (x.flags = 1))) 2, bad (numAt b (o + 4) 4 = 0) 4,
    bad (decide (x.off % 64 = 0 ∧ 64 + 32 * imgSections b ≤ x.off) && !before.any (secOverlap x)) 8,
    bad (decide (x.off + x.len ≤ imgLength b ∧ x.len % w = 0 ∧ (n = 0 ∨ x.len = n)) &&
      (x.type != 11 || decide (x.len ≤ 8 * 4096))) 16,
    bad (if x.type = 2 ∨ x.type = 3 then planNumber x.type x.target
      else x.type = 4 || x.type = 5 || x.type = 6 || decide (x.target = 0)) 24]

/-- Step 2 of R357: header, section table, and the sections of which an image holds exactly one. -/
def formFault (b : List Byte) (len : Nat) : Find :=
  firstFind ([headerFault b len] ++ (List.range (imgSections b)).map (tableFault b) ++
    [need ((imgOfType b 7).length = 1 && (imgOfType b 13).length = 1) stImageInvalid (locTable 64)])

/-- Where a piece of an SRAM-window range lies (R38): `none` when an address of it is reserved. -/
def sramTarget (a n : Nat) : Option (Nat × Nat × Nat) :=
  let arr := arrIdx (natBits a 24 19) (natBits a 30 25)
  let room := if isMemIdx arr then 0x80000 else 0x10000
  if a / 2 ^ 37 = 2 ^ 10 ∧ natBits a 36 31 < 56 ∧ natBits a 18 0 + n ≤ room then some (natBits a 36 31, arr, natBits a 18 0)
  else none

/-- The addresses that section k names (R13, R355): reserved ranges, then the fields that its type gives. A DRAIN
section of PERIOD 0 is refused with ST_IMAGE_INVALID (DESIGN CHOICE, log entry 111). -/
def addressFault (b : List Byte) (k : Nat) : Find :=
  let x := imgSection b k
  let es (w : Nat) : List (Nat × List Byte) := ((List.range (x.len / w)).map (w * ·)).zip (secEntries b x w)
  let bad (ok : Bool) (st : Status) (o : Nat) : Find := need ok st (locImage k o)
  if x.type = 4 then firstFind [bad ((sramPieces x.target x.len).all (fun y => (sramTarget y.1 y.2.1).isSome)) stAddrReserved 0,
    bad (x.target % 64 = 0) stImageInvalid 0]
  else if x.type = 5 then
    firstFind [bad (decide (natBits x.target 17 12 < 56)) stAddrReserved 0,
      bad (decide (x.target < 2 ^ 21) && !isMemIdx (arrIdx (natBits x.target 5 0) (natBits x.target 11 6))) stImageInvalid 0]
  else if x.type = 6 then
    firstFind [bad (decide (x.target + x.len ≤ 56 * 64 * sliceBytes)) stAddrReserved 0, bad (x.target % 64 = 0) stImageInvalid 0]
  else if x.type = 7 then
    (es 24).findSome? (fun (o, e) => firstFind [
      bad (decide (numAt e 0 8 + numAt e 8 8 ≤ 56 * 64 * sliceBytes)) stAddrReserved o,
      bad (decide (numAt e 0 8 % 64 = 0 ∧ numAt e 8 8 % 64 = 0 ∧ numAt e 16 8 ≤ 2)) stImageInvalid o])
  else if x.type = 8 then
    (es 8).findSome? (fun (o, e) =>
      let w := numAt e 0 8
      firstFind [bad (decide (natBits w 17 12 < 56)) stAddrReserved o,
        bad (decide (natBits w 30 18 ≤ natBits w 43 31 ∧ natBits w 45 44 ≤ 2 ∧ w < 2 ^ 46) &&
          isMemIdx (arrIdx (natBits w 5 0) (natBits w 11 6))) stImageInvalid o])
  else if x.type = 10 then bad (decide (numAt b (x.off + 8) 8 ≠ 0) && (imgOfType b 12).isEmpty) stImageInvalid 0
  else if x.type = 11 then
    (es 8).findSome? (fun (o, e) =>
      let w := numAt e 0 8
      firstFind [bad (decide (natBits w 17 12 < 56 ∧ natBits w 33 18 < 0xF000)) stAddrReserved o,
        bad (decide (w < 2 ^ 50) && !isMemIdx (arrIdx (natBits w 5 0) (natBits w 11 6))) stImageInvalid o])
  else if x.type = 14 then
    (es 16).findSome? (fun (o, e) => firstFind [bad (decide (numAt e 0 2 < 0xF000)) stAddrReserved o,
      bad (decide (numAt e 0 2 < 0xE000) && numAt e 2 6 = 0) stImageInvalid o])
  else none

/-- The stand register that an address of a register list names (R40, R356), keyed with the logical number in place of
the physical index. -/
def listKey (addr : Nat) : Option Nat :=
  if addr / 2 ^ 40 = 0xF1 ∧ suStand addr < 56 ∧ natBits addr 29 24 = 0 ∧ addr % 8 = 0 ∧
      (regDescOf (addr + 2 ^ 40)).isSome = true then some (addr + 2 ^ 40) else none

/-- May a register list name this register (R356)? CLK_SRC_SEL only in a PLAN_SET. -/
def listMay (planSet : Bool) (k : Nat) : Bool :=
  let cls := suClass k
  let off := suOff k
  if cls = 0 then planSet && off = 0x200
  else if cls = 1 then off = 0x10 || off = 0x18 || (decide (0x100 ≤ off ∧ off < 0x480) && off % 0x20 = 0)
  else if cls = 2 then true
  else if cls = 10 then decide (off ≤ 0x18)
  else if cls = 14 then decide (off < 0x800) || (decide (0xC00 ≤ off ∧ off < 0xC80) && off % 0x20 = 0)
  else if cls = 15 then
    if isMemIdx (suIndex k) then (decide (off < 0x180) && decide (off % 0x80 ≤ 0x28)) || off = 0x180 || off = 0x188
    else decide (off < 0x400) || decide (0x480 ≤ off ∧ off < 0x4C0) || decide (0x500 ≤ off ∧ off < 0x580) || off = 0x598 ||
      off = 0x5A0 || off = 0x6C0 || (decide (0x600 ≤ off ∧ off < 0x6C0) && decide (off % 0x20 ≤ 8))
  else false

/-- One entry of a register list takes effect (R199, R293, R356), on the machine or, `raw`, on a configuration, which keeps
the value as it is listed. -/
def listWrite (raw : Bool) (k : Nat) (v : Word) (s : State) : State :=
  let p := suStand k
  let u := suIndex k
  if suClass k = 15 ∧ suOff k = 0x5A0 ∧ isMemIdx u = false then
    let (l, lane, b) := obPlace s p u
    obAdvance p u (obWrite l lane b (bytesLE 8 v.toNat) s)
  else if k = HubDescData.key p then
    rfadd (HubDescAccess.key p) HubDescAccess.addr 8
      (putDesc p (rf s (HubDescAccess.key p) HubDescAccess.addr / 8 * 8) (bytesLE 8 v.toNat) s)
  else if k = HubHdlLen.key p u then stageHdlLen p u v s
  else if k = HubHdlAddr.key p u then
    if raw then
      rput k v (rfput (HubHdlLen.key p u) HubHdlLen.length
        (fldGet HubHdlLen.length (smapGet lenDflt s.hdlStage (p * 4096 + u))) s)
    else (commitHdl p u v s).2
  else if raw then rput k v s
  else plainWrite k v s

/-- The empty configuration of an image. -/
def bareConfig (b : List Byte) : State := { State.reset with image := b, lapLen := imgP b, plan := 0xFFFF }

/-- A configuration with a register list written over it. -/
def configWith (l : List (Nat × Word)) (t : State) : State :=
  l.foldl (fun t x =>
    match listKey x.1 with
    | some k => listWrite true k x.2 t
    | none => t) t

/-- The base configuration; the configuration of a plan; the parity set that runs under a plan, 0xFFFF for the base
(R226, R355, R507; log entry 17). -/
def baseConfig (b : List Byte) : State := configWith (imgConfig b) (bareConfig b)
def planConfig (b : List Byte) (n : Nat) : State := { configWith (imgPlan b n) (baseConfig b) with plan := n }
def parityConfig (b : List Byte) (n : Nat) : State :=
  configWith (imgParity b n) (if n = 0xFFFF then baseConfig b else planConfig b n)

/-- Numbers in ascending order, 0xFFFF first. -/
def planOrder (l : List Nat) : List Nat := (if l.contains 0xFFFF then [0xFFFF] else []) ++
  (List.range 0x38).filterMap (fun i => if l.contains (0x100 + i) then some (0x100 + i) else none)

/-- Every configuration in the order of step 4 of R357. -/
def imgConfigs (b : List Byte) : List State :=
  baseConfig b :: ((planOrder (imgPlans b)).map (planConfig b) ++
    (planOrder ((imgOfType b 3).map (·.target))).map (parityConfig b))

/-- Is a slot of descriptor memory in an image queue of a configuration (R275, R356)? -/
def slotQueued (t : State) (lg slot : Nat) : Bool :=
  (List.range 28).any (fun q =>
    let c := rg t (HubQCfg.key lg q)
    fldGet HubQCfg.mode c != 0 && decide (fldGet HubQCfg.first c ≤ slot ∧ slot ≤ fldGet HubQCfg.last c))

/-- One entry of a register list (R356), with the address that HUB_DESC_ACCESS holds for its stand. -/
def entryOk (base : State) (planSet : Bool) (addr : Nat) (v : Word) (t : State) : Bool :=
  match listKey addr with
  | none => false
  | some k =>
    let lg := suStand k
    listMay planSet k &&
    (if k = HubDescData.key lg then slotQueued base lg (rf t (HubDescAccess.key lg) HubDescAccess.addr / 64)
      else if suClass k = 10 ∧ suOff k = 0 then fldGet CvuCfg.load v = 0
      else true)

/-- The first entry that R356 refuses, from entry i on; `t` follows the HUB_DESC_ACCESS entries. -/
def listFault (base : State) (planSet : Bool) (sec : Nat) : Nat → List (Nat × Word) → State → Find
  | _, [], _ => none
  | i, (a, v) :: r, t =>
    if entryOk base planSet a v t then
      listFault base planSet sec (i + 1) r
        (match listKey a with
          | some k => if suClass k = 1 then listWrite true k v t else t
          | none => t)
    else some (stImageInvalid, locImage sec (16 * i))

/-- Every register list in table order (R356). The HUB_DESC_ACCESS address runs on from one CONFIG list to the next. -/
def listsFault (b : List Byte) : Find :=
  let base := baseConfig b
  let secs := (List.range (imgSections b)).map (fun k => (k, imgSection b k))
  let start := bareConfig b
  let upTo (k : Nat) : State := configWith ((secs.filter (fun x => x.2.type = 1 && decide (x.1 < k))).flatMap (fun x =>
    regList b x.2)) start
  secs.findSome? (fun (k, x) =>
    if x.type = 1 then listFault base false k 0 (regList b x) (upTo k)
    else if x.type = 2 ∨ x.type = 3 then listFault base (x.type = 2) k 0 (regList b x) base
    else none)

end Sys2Proof.Machine
end

