-- ==== Sys2Proof/Machine/ImageOps.lean ====
section
/-!
DEFINITION. What LOAD_IMAGE checks in the op programs of a configuration (R357 step 4): format codes and pairings (R45,
R69, R113), rounding modes (R57), the fields, sources and destinations that each operation uses (R97, R112, R115), lap
lengths and ports (R91, R96, R97, R116), accumulators (R97, R119), atomics (R131), marks (R134), counter chains (R140,
R155, R159), and sparse entries (R249, R253).
-/

namespace Sys2Proof.Machine

/-- The entry fields that an operation uses, by the family tables: 1 FMT_A, 2 FMT_B, 4 FMT_D, 8 RMODE, 16 SAT, 32 AUX
(R112). -/
def opUses (op : Nat) (dvar : Bool) : Nat :=
  if 0x01 ≤ op ∧ op ≤ 0x05 then 35
  else if op = 0x06 then 28
  else if op = 0x07 then 1
  else if op = 0x08 then 33
  else if op = 0x14 ∨ op = 0x15 then 29
  else if (0x10 ≤ op ∧ op ≤ 0x16) ∨ (0x25 ≤ op ∧ op ≤ 0x28) then 31
  else if 0x20 ≤ op ∧ op ≤ 0x23 then 3
  else if (0x30 ≤ op ∧ op ≤ 0x33) ∨ (0x3A ≤ op ∧ op ≤ 0x3C) ∨ (0x40 ≤ op ∧ op ≤ 0x42) then 29
  else if op = 0x3D ∨ op = 0x43 ∨ op = 0x45 ∨ op = 0x46 then 5
  else if op = 0x44 then 37
  else if op = 0x47 then 60
  else if op = 0x38 ∨ (0x50 ≤ op ∧ op ≤ 0x52) ∨ op = 0x54 ∨ op = 0x56 ∨ op = 0x58 ∨ op = 0x59 ∨ op = 0x5B ∨ op = 0x5C ∨
      op = 0x70 then 32
  else if op = 0x69 then (if dvar then 32 else 8)
  else 0

def uses (op : Nat) (e : Entry) (bit : Nat) : Bool := natBit (opUses op e.dvar) bit

/-- The codes of SRC_A, SRC_B and DST that an operation allows (R115). -/
def opCodes (op : Nat) : List Nat × List Nat × List Nat :=
  let src := [1, 2, 3, 4, 6]
  let out := [1, 2, 4]
  if op = 0x00 then ([0], [0], [0])
  else if 0x01 ≤ op ∧ op ≤ 0x05 then (src, src, [3])
  else if op = 0x06 then ([5], [0], out)
  else if op = 0x07 ∨ op = 0x08 then (src, [0], [3])
  else if op = 0x13 then (src, src, [2])
  else if op = 0x3E then ([0], [0], [3])
  else if op = 0x42 then ([1, 6], [0], out)
  else if (0x10 ≤ op ∧ op ≤ 0x12) ∨ (0x16 ≤ op ∧ op ≤ 0x1B) ∨ (0x20 ≤ op ∧ op ≤ 0x28) ∨ op = 0x39 then (src, src, out)
  else if (0x14 ≤ op ∧ op ≤ 0x47) then (src, [0], out)
  else if op = 0x50 then ([0], [0], [0])
  else if op = 0x51 ∨ op = 0x58 ∨ op = 0x59 ∨ 0x70 ≤ op then ([0], [0], out)
  else if op = 0x52 then ([0], [0], [6])
  else if op = 0x53 then ([7], [0], out)
  else if op = 0x54 then ([7], [0], [0])
  else if op = 0x55 ∨ op = 0x56 then ([1, 2, 3, 6], [0], [0])
  else if op = 0x5A then (src, [0], out)
  else if op = 0x5B ∨ op = 0x5C then (src, [0], [5])
  else if op = 0x5D then (src, src, [5])
  else if op = 0x60 then ([1, 2, 3, 4], [0], [4])
  else if op = 0x61 then ([6], [0], [1, 2])
  else if op = 0x62 then ([1], [0], [1])
  else if op = 0x63 then ([1, 6], [1, 6], out)
  else (src, src, [0])

def fmtWide (f : Nat) : Bool := decide (f ≤ 2)
def fmtPlain (f : Nat) : Bool := decide (f ≤ 9) || f = 0x10

/-- Does an operation accept its formats (R113, R120, R122, R124 to R127)? The pairings of dot operations are R69's. -/
def opFormats (op a b d : Nat) : Bool :=
  let int := a = 0x10 && d = 0x10
  if op = 0x06 then fmtPlain d
  else if op = 0x07 ∨ op = 0x08 then fmtWide a
  else if (0x10 ≤ op ∧ op ≤ 0x12) ∨ op = 0x25 ∨ op = 0x26 then (fmtWide a && fmtWide b && fmtWide d) || (int && b = 0x10)
  else if op = 0x13 ∨ op = 0x27 ∨ op = 0x28 then fmtWide a && fmtWide b && fmtWide d
  else if op = 0x14 ∨ op = 0x15 ∨ op = 0x3B ∨ op = 0x3C then (fmtWide a && fmtWide d) || int
  else if op = 0x16 then fmtWide a && b = 0x10 && fmtWide d
  else if 0x20 ≤ op ∧ op ≤ 0x22 then (fmtWide a && fmtWide b) || (a = 0x10 && b = 0x10)
  else if op = 0x23 then fmtWide a && fmtWide b
  else if (0x30 ≤ op ∧ op ≤ 0x33) ∨ op = 0x3A then fmtWide a && fmtWide d
  else if op = 0x3D then int
  else if op = 0x40 then fmtPlain a && fmtPlain d
  else if op = 0x41 then fmtWide a && fmtIsMX d
  else if op = 0x42 then fmtIsMX a && fmtWide d
  else if op = 0x43 ∨ op = 0x44 then a = d && decide (1 ≤ a ∧ a ≤ 9)
  else if op = 0x45 ∨ op = 0x46 then a = d && (a = 5 || a = 6)
  else if op = 0x47 then fmtWide d
  else true

/-- A pairing of dot operands that R69 or the sparse forms refuse. -/
def dotPairBad (op a b : Nat) : Bool :=
  decide (0x01 ≤ op ∧ op ≤ 0x05) &&
  !((narrowFmt a && narrowFmt b) || (fmtWidth a = 16 && fmtWidth b = 16) || (a = 0 && b = 0 && decide (op ≤ 2)))

/-- Is AUX admissible where the operation uses it (R123, R126, R129 and the family tables)? -/
def auxOk (op a aux : Nat) : Bool :=
  if op = 0x38 then natBits aux 5 4 = 0 && decide (natBits aux 8 6 < 6)
  else if op = 0x44 then decide (aux < (if fmtWidth a = 6 then 5 else 512 / (16 * fmtWidth a)))
  else if op = 0x50 ∨ op = 0x51 then decide (aux ≤ 5)
  else if op = 0x52 ∨ op = 0x54 ∨ op = 0x56 then decide (aux < 256)
  else if op = 0x58 ∨ op = 0x59 ∨ op = 0x5B ∨ op = 0x5C then natBits aux 8 6 != 6
  else if op = 0x70 then decide (aux ≤ 1)
  else true

/-- Has the operation a deterministic variant in the entry's configuration (R133)? -/
def hasVariant (op : Nat) (e : Entry) : Bool :=
  op = 0x69 || op = 0x63 || op = 0x74 || op = 0x77 || (uses op e 3 && e.rmode = 5)

/-- R97's first row: reserved codes and bits of an entry (R93, R94, R111). -/
def entryReserved (w : Word) : Bool :=
  let e := entryOf w
  (evalOf (fldGet CaOp.opcode w)).isNone || decide (8 ≤ e.srcA.toNat ∨ 8 ≤ e.srcB.toNat ∨ 7 ≤ e.dst.toNat) || e.ctr = 6 ||
    natBits w.toNat 2 0 != 0

/-- The cases of R112 (with R115, R123, R125, R126, R129 and R130). -/
def entryUnused (st : Nat) (w : Word) : Bool :=
  let op := fldGet CaOp.opcode w
  let e := entryOf w
  let (sa, sb, ds) := opCodes op
  (!uses op e 0 && e.fmtA != 0) || (!uses op e 1 && e.fmtB != 0) || (!uses op e 2 && e.fmtD != 0) ||
    (!uses op e 3 && e.rmode != 0) || (!uses op e 4 && e.sat) || (!uses op e 5 && e.aux != 0) ||
    !sa.contains e.srcA.toNat || !sb.contains e.srcB.toNat || !ds.contains e.dst.toNat ||
    (e.clr && op != 0x06) || (e.dvar && !hasVariant op e) || !auxOk op e.fmtA.toNat e.aux.toNat ||
    (op = 0x63 && (st = 0 || e.srcA = e.srcB)) ||
    (((op = 0x41 && e.fmtA = 0) || (op = 0x42 && e.fmtD = 0)) && e.rpt.toNat % 2 = 0)

/-- The units of a class of a configuration that it names, in ascending index. -/
def cfgArrays (t : State) (lg : Nat) (mem : Bool) : List Nat := (unitsOf t lg 15).filter (fun a => isMemIdx a = mem)

/-- The physical index that bears a logical number under a configuration's plan (R22, R510). -/
def planPhys (s t : State) (lg : Nat) : Nat :=
  if t.plan = 0x100 + lg then
    (physList.find? (fun p => roleOf s p = 2 && rf s (IorStandMap.key p) IorStandMap.parityGroup = lg / 14)).getD 0
  else (physOf s lg).getD 0

/-- The unit form of LOCATION of a unit of a configuration (R347). -/
def locCfg (s t : State) (lg arr stage entry lane tail : Nat) : Word :=
  locUnit lg (planPhys s t lg) arr stage entry lane tail

/-- The valid entries of a stage's program: those up to END, with their places (R93, R96). -/
def stageProgram (t : State) (lg a st : Nat) : List (Nat × Word) :=
  let all := (List.range 16).map (fun e => (e, rg t (CaOp.key lg a st e)))
  let valid := all.filter (fun x => fldGet CaOp.valid x.2 = 1)
  match valid.find? (fun x => fldGet CaOp.last x.2 = 1) with
  | some x => valid.filter (fun y => y.1 ≤ x.1)
  | none => valid

/-- The valid entries of a stand's op programs, in ascending array, stage and entry. -/
def standEntries (t : State) (lg : Nat) (f : Nat → Nat → Nat → Word → Find) : Find :=
  (cfgArrays t lg false).findSome? (fun a => (List.range 8).findSome? (fun st =>
    (List.range 16).findSome? (fun e =>
      let w := rg t (CaOp.key lg a st e)
      if fldGet CaOp.valid w = 1 then f a st e w else none)))

/-- Every valid entry of a configuration in the order of R357: `f` stand, array, stage, entry, word. -/
def overEntries (t : State) (f : Nat → Nat → Nat → Nat → Word → Find) : Find :=
  (List.range 56).findSome? (fun lg => standEntries t lg (f lg))

/-- A check that refuses single entries. -/
def entryCheck (s t : State) (bad : Nat → Word → Bool) (st : Status) : Find :=
  overEntries t (fun lg a k e w => need (!bad k w) st (locCfg s t lg a k e 0 0))

/-- R45, over op programs and the compressing stores of image queues. -/
def formatReserved (w : Word) : Bool :=
  let op := fldGet CaOp.opcode w
  let e := entryOf w
  let res (f : BitVec 5) : Bool := decide (0x12 ≤ f.toNat)
  let dot (f : BitVec 5) : Bool := decide (1 ≤ op ∧ op ≤ 5) && (f.toNat = 0x10 || f.toNat = 0x11)
  (uses op e 0 && (res e.fmtA || dot e.fmtA)) || (uses op e 1 && (res e.fmtB || dot e.fmtB)) || (uses op e 2 && res e.fmtD)

/-- R57. -/
def roundingReserved (w : Word) : Bool := uses (fldGet CaOp.opcode w) (entryOf w) 3 && decide (6 ≤ (entryOf w).rmode.toNat)

/-- The steps of a stage's program: the lap position at which each commits, its repetition and its entry (R96). -/
def programSteps (t : State) (lg a st : Nat) : List (Nat × Nat × Word) :=
  let start := rf t (CaStageCfg.key lg a st) CaStageCfg.startPos
  ((stageProgram t lg a st).foldl (fun (acc : Nat × List (Nat × Nat × Word)) x =>
    let l := latency (fldGet CaOp.opcode x.2) (fldGet CaOp.fmtA x.2)
    let n := fldGet CaOp.rept x.2 + 1
    (acc.1 + n * l, acc.2 ++ (List.range n).map (fun i => ((start + acc.1 + i * l + l - 1) % t.lapLen, i, x.2))))
    (0, [])).2

/-- The slots that a program takes in a lap. -/
def programLength (t : State) (lg a st : Nat) : Nat :=
  ((stageProgram t lg a st).map (fun x =>
    (fldGet CaOp.rept x.2 + 1) * latency (fldGet CaOp.opcode x.2) (fldGet CaOp.fmtA x.2))).sum

def stageActive (t : State) (lg a st : Nat) : Bool := rf t (CaStageCfg.key lg a st) CaStageCfg.active = 1

/-- Does a stage stand under the checks of its program: not one with ACTIVE 0 and no VALID entry, which R96 exempts? -/
def stageChecked (t : State) (lg a st : Nat) : Bool := stageActive t lg a st || !(stageProgram t lg a st).isEmpty

/-- R96 and the third row of R97. -/
def stageLapBad (t : State) (lg a st : Nat) : Bool :=
  let p := stageProgram t lg a st
  stageChecked t lg a st &&
  (programLength t lg a st != t.lapLen || decide (t.lapLen ≤ rf t (CaStageCfg.key lg a st) CaStageCfg.startPos) ||
    !p.any (fun x => fldGet CaOp.last x.2 = 1))

/-- Does repetition i of an entry write the route-out latch (R116)? The first of each two repetitions of a CVTMX with an
FP32 FMT_A writes nothing (R125). -/
def routesOut (i : Nat) (w : Word) : Bool :=
  let op := fldGet CaOp.opcode w
  let gathers := decide (op = 0x41 ∧ fldGet CaOp.fmtA w = 0 ∧ i % 2 = 0)
  (fldGet CaOp.dst w = 4 && !gathers) || op = 0x56 || decide (0x68 ≤ op ∧ op ≤ 0x6D)

/-- The fourth row of R97 within one entry. -/
def latchBad (st : Nat) (w : Word) : Bool :=
  let down := fldGet CaOp.dst w = 1
  let fwd := fldGet CaOp.fwd w = 1
  (st = 7 && (down || fwd)) || (down && fwd)

/-- Does the image's heartbeat table name an array (R110, R495)? -/
def beats (t : State) (lg a : Nat) : Bool := (imgHeartbeats t.image).any (fun (g, b, _, per) => g = lg && b = a && per != 0)

/-- The fourth row of R97 at one lap position of an array: route-out writes, and core-memory accesses (R91). A heartbeat is
a route-out write (R116), at position 0, where the lap that brings it is complete (DESIGN CHOICE, log 84). -/
def portsBad (beat : Bool) (steps : List (Nat × Nat × Word)) (pos : Nat) : Bool :=
  let here := steps.filter (fun x => x.1 = pos)
  let count (lo hi : Nat) := (here.filter (fun x =>
    lo ≤ fldGet CaOp.opcode x.2.2 && fldGet CaOp.opcode x.2.2 ≤ hi)).length
  decide (1 < (here.filter (fun x => routesOut x.2.1 x.2.2)).length + (if beat && pos = 0 then 1 else 0) ∨ 2 < count 0x58 0x5A ∨ 1 < count 0x5B 0x5D)

/-- What an entry does to its stage's accumulator: a clear, and a feed, exact or running, with the ANCHOR of a dot entry or
of ACCLOADX (R95, R97, R119). -/
inductive AccMark where
  | clear
  | feed (exact : Bool) (anchor : Option Nat)
  deriving DecidableEq, Repr

def accMarks (w : Word) : List AccMark :=
  let op := fldGet CaOp.opcode w
  let anchor := fldGet CaOp.aux w
  if 1 ≤ op ∧ op ≤ 5 then [.feed (narrowFmt (fldGet CaOp.fmtA w)) (some anchor)]
  else if op = 0x06 then (if fldGet CaOp.clr w = 1 then [.clear] else [])
  else if op = 0x07 then [.feed false none]
  else if op = 0x08 then [.clear, .feed true (some anchor)]
  else []

/-- The feeds between clears, each run apart; the program repeats, so the run before its first clear follows the last. -/
def accRuns (l : List AccMark) : List (List AccMark) :=
  let rec go : List AccMark → List AccMark → List (List AccMark)
    | [], run => [run]
    | .clear :: r, run => run :: go r []
    | m :: r, run => go r (run ++ [m])
  go (l.dropWhile (· != .clear) ++ l.takeWhile (· != .clear)) []

def anchorsMixed (run : List AccMark) : Bool :=
  1 < (run.filterMap (fun m => match m with | .feed _ a => a | .clear => none)).dedup.length
def kindsMixed (run : List AccMark) : Bool :=
  let has (x : Bool) : Bool := run.any (fun m => match m with | .feed e _ => e = x | .clear => false)
  has true && has false

/-- A check of every stage's accumulator runs. -/
def accCheck (bad : List AccMark → Bool) (t : State) (lg a st : Nat) : Bool :=
  (accRuns ((stageProgram t lg a st).flatMap (fun x => accMarks x.2))).any bad

/-- R97 over one array. -/
def arrayProgramFault (s t : State) (lg a : Nat) : Find :=
  let loc (st e : Nat) : Word := locCfg s t lg a st e 0 0
  let entries (f : Nat → Nat → Word → Find) : Find := (List.range 8).findSome? (fun st =>
    (List.range 16).findSome? (fun e =>
      let w := rg t (CaOp.key lg a st e)
      if fldGet CaOp.valid w = 1 then f st e w else none))
  let stages (bad : Nat → Bool) (x : Status) : Find := (List.range 8).findSome? (fun st => need (!bad st) x (loc st 0))
  let steps := ((List.range 8).filter (stageChecked t lg a)).flatMap (programSteps t lg a)
  firstFind [
    entries (fun st e w =>
      let late := ((stageProgram t lg a st).getLast?.map (·.1)).getD 16 < e
      firstFind [need (!entryReserved w && !late) stImageInvalid (loc st e),
        need (!dotPairBad (fldGet CaOp.opcode w) (fldGet CaOp.fmtA w) (fldGet CaOp.fmtB w)) stFmtReserved (loc st e)]),
    stages (stageLapBad t lg a) stImageLap,
    entries (fun st e w => need (!latchBad st w) stImagePorts (loc st e)),
    need (!(List.range t.lapLen).any (portsBad (beats t lg a) steps)) stImagePorts (loc 0 0),
    stages (accCheck anchorsMixed t lg a) stImageAnchor]

def overArrays (t : State) (mem : Bool) (f : Nat → Nat → Find) : Find :=
  (List.range 56).findSome? (fun lg => (cfgArrays t lg mem).findSome? (f lg))

/-- R131. -/
def atomicBad (w : Word) : Bool :=
  let e := entryOf w
  fldGet CaOp.opcode w = 0x69 && !e.dvar && (e.rmode = 4 || e.rmode = 5)

/-- The reserved codes and bits of CA_TAG_CFG (R159). -/
def tagCfgBad (w : Word) : Bool :=
  (w &&& ~~~CaTagCfg.desc.rw) != 0 || fldGet CaTagCfg.mode w = 3 || decide (6 ≤ fldGet CaTagCfg.tagCtr w)

/-- R140, with the reserved codes of R155 and R159 (log entry 18). -/
def chainBad (t : State) (lg a : Nat) : Bool :=
  (List.range 6).any (fun c =>
    let w := rg t (CaCtrCfg.key lg a c)
    let par := fldGet CaCtrCfg.parent w
    (w &&& ~~~CaCtrCfg.desc.rw) != 0 || decide (1 < fldGet CaCtrCfg.boundSrc w) || fldGet CaCtrCfg.emit w = 3 || par = 6 ||
      (par != 7 && decide (par ≤ c))) ||
  tagCfgBad (rg t (CaTagCfg.key lg a))

/-- The sparse form of an operation. -/
def sparseForm (op : Nat) : Option SpForm :=
  if op = 3 then some .s24 else if op = 4 then some .s14 else if op = 5 then some .bitmap else none

/-- The positions that a sparse entry covers, its blocks, and the base and end of its sparse region (R246, R248). -/
structure SparseShape where
  form : SpForm
  drains : Bool
  covers : Nat
  blocks : Nat
  base : Nat
  top : Nat

def sparseShapeOf (t : State) (lg a st : Nat) (w : Word) : Option SparseShape :=
  let e := entryOf w
  (sparseForm (fldGet CaOp.opcode w)).map (fun sf =>
    let drains := sf = .bitmap || (sf = .s24 && fmtWidth e.fmtA.toNat = 16)
    let covers := (sparseShape e.fmtA.toNat e.fmtB.toNat).1 * (if drains then e.rpt.toNat else e.rpt.toNat + 1)
    let blocks := (covers + 31) / 32
    let ptr := rg t (CaObPtr.key lg a st)
    ⟨sf, drains, covers, blocks, if e.srcA = 2 then fldGet CaObPtr.aBase ptr else fldGet CaObPtr.bBase ptr,
      128 - (if fmtIsMX e.fmtA.toNat then blocks else 0)⟩)

/-- R249. -/
def sparseBad (t : State) (lg a st : Nat) (w : Word) : Bool :=
  let e := entryOf w
  match sparseShapeOf t lg a st w with
  | none => false
  | some x =>
    let ptr := rg t (CaObPtr.key lg a st)
    let len := (blockIndex x.form e.fmtA.toNat []).2.1
    !(e.srcA = 2 || e.srcA = 3) ||
      (if e.srcA = 2 then fldGet CaObPtr.aStride ptr else fldGet CaObPtr.bStride ptr) != 0 ||
      (x.drains && e.rpt = 0) || (x.form != .bitmap && decide (x.top < x.base + x.blocks * len))

/-- The OB_INIT section of a stage: its 2,048 bytes and the bytes it declares constant (R99, R355). -/
def obInitOf (b : List Byte) (lg a st : Nat) : Option (List Byte × List Byte) :=
  ((imgOfType b 5).find? (fun x => natBits x.target 17 12 = lg &&
    arrIdx (natBits x.target 5 0) (natBits x.target 11 6) = a && natBits x.target 20 18 = st)).map
    (fun x => (bytesAt b x.off 2048, bytesAt b (x.off + 2048) 256))

/-- The blocks of one lane column from block k at a byte offset (R251, R253): the block number of the first that is
declared constant whole and fails. Past a block that is not, the next is judged where its place is known: in the forms
whose blocks have one length, and behind a bitmap whose mask is declared constant. -/
def laneBlocksBad (x : SparseShape) (f : Nat) (col : List Byte) (fixed : Nat → Bool) : Nat → Nat → Nat → Option Nat
  | 0, _, _ => none
  | n + 1, k, off =>
    let (pos, len, _) := blockIndex x.form f (bytesAt (col ++ col) off 72)
    let next := (off + len) % 128
    let const (m : Nat) : Bool := (List.range m).all (fun i => fixed ((off + i) % 128))
    if !const len then (if x.form = .bitmap && !const 4 then none else laneBlocksBad x f col fixed n (k + 1) next)
    else if (blockFault x.form pos len (32 * k) x.covers (x.top - off)).isSome then some k
    else laneBlocksBad x f col fixed n (k + 1) next

/-- R253 for one entry: the first lane and block. -/
def constBlockBad (t : State) (lg a st : Nat) (w : Word) : Option (Nat × Nat) :=
  match sparseShapeOf t lg a st w, obInitOf t.image lg a st with
  | some x, some (ob, mask) =>
    (List.range 16).findSome? (fun l =>
      (laneBlocksBad x (fldGet CaOp.fmtA w) (bytesAt ob (128 * l) 128)
        (fun i => natBit (mask.getD ((128 * l + i) / 8) 0).toNat ((128 * l + i) % 8)) x.blocks 0 x.base).map (fun k => (l, k)))
  | _, _ => none

end Sys2Proof.Machine
end

