-- ==== Sys2Proof/Machine/ImageCheck.lean ====
section
/-!
DEFINITION. The rest of what LOAD_IMAGE checks in step 4 of R357: steering units (R152), memory arrays (R179), handle
tables (R199), lap tables (R209, R211, R25), image queues (R279, R305), the service section (R376), lock-step (R408), the
topology (R489), and the blaze area with the save sizes (R499, R502); and the order in which every check is made.
-/

namespace Sys2Proof.Machine

/-- The connections of a node of a configuration, over all positions. -/
def nodeConns (t : State) (lg n : Nat) : List (Nat × ConnE) :=
  (List.range 64).flatMap (fun pos => (connsAt t lg n pos).map (fun c => (pos, c)))

/-- The nodes that a configuration names, in ascending index. -/
def cfgNodes (t : State) (lg : Nat) : List Nat := unitsOf t lg 14

def overNodes (t : State) (f : Nat → Nat → Find) : Find :=
  (List.range 56).findSome? (fun lg => (cfgNodes t lg).findSome? (f lg))

/-- Does a lap table connect a port as IN, or as OUT, for vectors or for batons? -/
def portJoined (t : State) (lg n port : Nat) (asIn baton : Bool) : Bool :=
  (nodeConns t lg n).any (fun x => (if asIn then x.2.inp else x.2.out) = port && x.2.baton = baton)

/-- R152 for one steering unit. -/
def steerBad (t : State) (lg n u : Nat) : Bool :=
  let w := rg t (NodeSteerCfg.key lg n u)
  let mode := fldGet NodeSteerCfg.mode w
  let drop1 := fldGet NodeSteerCfg.drop1 w = 1
  let fwd := fldGet NodeSteerCfg.btnFwd w = 1
  let takes (port : Nat) (baton : Bool) : Bool := portJoined t lg n (port + u) false baton
  let gives (port : Nat) (baton : Bool) : Bool := portJoined t lg n (port + u) true baton
  if mode = 1 then
    !(takes 0x0B false && gives 0x0B false && (drop1 || gives 0x0F false) && takes 0x13 true && (!fwd || gives 0x13 true))
  else if mode = 2 then
    drop1 || !(takes 0x0B false && takes 0x0F false && gives 0x0B false && takes 0x13 true && (!fwd || gives 0x13 true))
  else if mode = 3 then
    fldGet NodeSteerCfg.groupM1 w != 0 || drop1 || fwd || !(takes 0x0B false && gives 0x13 true)
  else false

/-- The slots that a buffer-mode or FIFO-mode generator can address (R176, R177). -/
def genReach (t : State) (lg a g : Nat) : List Nat :=
  let w := rg t (MaGenCfg.key lg a g)
  let base := fldGet MaGenCfg.base w
  if fldGet MaGenCfg.mode w = 2 then (List.range (fldGet MaGenCfg.fifoSizeM1 w + 1)).map (base + ·)
  else
    (List.range (fldGet MaGenCfg.ctrsM1 w + 1)).foldl (fun l k =>
      let c := rg t (MaGenCtr.key lg a g k)
      (l.flatMap (fun x => (List.range (min 8192 (fldGet MaGenCtr.tripsM1 c + 1))).map (fun i =>
        (x + i * fldGet MaGenCtr.stride c) % 8192))).dedup) [base]

/-- The untagged regions of a memory array of a configuration. -/
def cfgUntag (t : State) (lg a : Nat) : List (Nat × Nat) :=
  ((List.range 2).map (fun r => rg t (MaUntag.key lg a r))).filterMap (fun w =>
    if fldGet MaUntag.enable w = 1 then some (fldGet MaUntag.first w, fldGet MaUntag.last w) else none)

/-- The node of a memory array, which it serves at local port 3. -/
def memNode (a : Nat) : Nat := a / 64 / 2 * 32 + a % 64 / 2

/-- R179 for one memory array. -/
def memFault (t : State) (lg a : Nat) : Option Status :=
  let cfg (g : Nat) : Word := rg t (MaGenCfg.key lg a g)
  let mode (g : Nat) : Nat := fldGet MaGenCfg.mode (cfg g)
  let form (g : Nat) : Nat := fldGet MaGenCfg.form (cfg g)
  let base (g : Nat) : Nat := fldGet MaGenCfg.base (cfg g)
  let size (g : Nat) : Nat := fldGet MaGenCfg.fifoSizeM1 (cfg g)
  let act (g : Nat) : Nat := (rg t (MaGenAct.key lg a g)).toNat
  let at' (g pos : Nat) : Bool := mode g != 0 && natBit (act g) pos
  let conns := nodeConns t lg (memNode a)
  let regions := cfgUntag t lg a
  let genBad (g : Nat) : Bool :=
    mode g = 3 || form g = 3 || decide (2 ≤ fldGet MaGenCfg.tagSrc (cfg g)) ||
    (fldGet MaGenCfg.tagSrc (cfg g) != 0 && (mode g = 2 || g = 2)) ||
    decide (fldGet MaGenCfg.ctrsM1 (cfg g) < fldGet MaGenCfg.tagCtr (cfg g)) || (cfg g &&& ~~~MaGenCfg.desc.rw) != 0 ||
    (List.range 4).any (fun k => (rg t (MaGenCtr.key lg a g k) &&& ~~~MaGenCtr.desc.rw) != 0) ||
    (mode g = 2 && decide (8191 < base g + size g))
  let fifoBad (g : Nat) : Bool :=
    mode g = 2 && !(mode 2 = 2 && base g = base 2 && size g = size 2 && form g = 0 && form 2 = 0)
  let untagBad := (List.range 2).any (fun r =>
    (rg t (MaUntag.key lg a r) &&& ~~~MaUntag.desc.rw) != 0) || regions.any (fun x => decide (x.2 < x.1))
  let outside := mode 2 != 0 && form 2 = 2 &&
    (genReach t lg a 2).any (fun n => !regions.any (fun x => decide (x.1 ≤ n ∧ n ≤ x.2)))
  if (List.range 3).any genBad || fifoBad 0 || fifoBad 1 || (mode 0 = 2 && mode 1 = 2) || untagBad || outside ||
      conns.any (fun x => x.2.baton && (x.2.inp = 8 || x.2.out = 8)) then some stImageInvalid
  else if (List.range 3).any (fun g => act g / 2 ^ t.lapLen != 0) then some stImageLap
  else
    let reads (pos : Nat) : Bool := conns.any (fun x => x.1 = pos && !x.2.baton && x.2.inp = 8)
    let writes (pos : Nat) : Bool := conns.any (fun x => x.1 = pos && !x.2.baton && x.2.out = 8)
    if (List.range t.lapLen).any (fun pos =>
        (natBit (act 0) pos && natBit (act 1) pos) || reads pos != (at' 0 pos || at' 1 pos) || writes pos != at' 2 pos) then some stImagePorts
    else none

/-- The memory arrays that R179 concerns: those a configuration names, and those whose node it names. -/
def memArrays (t : State) (lg : Nat) : List Nat :=
  let l := cfgArrays t lg true ++ (cfgNodes t lg).map nodeMem
  (List.range 1024).filterMap (fun n => if l.contains (nodeMem n) then some (nodeMem n) else none)

/-- R199 for one entry of a handle table. -/
def handleBad (t : State) (lg h : Nat) : Bool :=
  let w := rg t (HubHdlAddr.key lg h)
  fldGet HubHdlAddr.valid w = 1 &&
    !hdlNames (fldGet HubHdlAddr.kind w) (fldGet HubHdlAddr.addr w) (rf t (HubHdlLen.key lg h) HubHdlLen.length)

/-- Source ports as IN and destination ports as OUT (R205): local ports, taps of a hub node, steering units, and
seam-facing links. -/
def unitPort (n port : Nat) : Bool := decide (5 ≤ port ∧ port ≤ 8) || decide (0x0B ≤ port ∧ port ≤ 0x16) ||
  ((port = 9 || port = 0xA) && (tapIdx n 0).isSome)
def endPort (n port : Nat) : Bool :=
  unitPort n port || (match linkDir port with
    | some d => seamFacing n d
    | none => false)

/-- A port code that is reserved at a node (R205). -/
def portReserved (n port : Nat) : Bool := decide (0x17 ≤ port) || ((port = 9 || port = 0xA) && (tapIdx n 0).isNone)

/-- The first row of R209 for one connection word: only the clause on a code of 0x00 asks for VALID. -/
def connInvalid (n : Nat) (w : Word) : Bool :=
  let c : ConnE := ⟨0, w⟩
  let seamIn := match linkDir c.inp with
    | some d => seamFacing n d
    | none => false
  let credits := fldGet LapConn.credits w
  portReserved n c.inp || portReserved n c.out || natBits w.toNat 5 0 != 0 ||
  (fldGet LapConn.valid w = 1 && (c.inp = 0 || c.out = 0)) || (c.start && (credits = 0 || decide (16 < credits))) ||
  (!c.start && (c.expect || fldGet LapConn.srcPos w != 0)) || (c.expect && !(seamIn || c.inp = 9 || c.inp = 0xA)) ||
  (c.baton && (c.inp = 8 || c.out = 8)) || c.start != endPort n c.inp || c.last != endPort n c.out

/-- The nodes, as stand and node in one number, that a connection's chain has come through (R208, R209). -/
def chainNodes (t : State) : Nat → ConnE → List Nat
  | 0, _ => []
  | n + 1, c => c.key / 512 :: (if c.start then [] else
      match upstream t c with
      | some e => chainNodes t n e
      | none => [])

/-- The START connection that a connection's chain begins at, if it has one (R208, R209). -/
def chainStart (t : State) : Nat → ConnE → Option ConnE
  | 0, _ => none
  | n + 1, c => if c.start then some c else (upstream t c).bind (chainStart t n)

/-- The connections at the far end of a link that a connection drives (R207). -/
def downstream (t : State) (c : ConnE) : List ConnE :=
  match linkDir c.out with
  | none => []
  | some d =>
    match nodeNbr (c.key / 512 % 1024) d with
    | none => []
    | some m => (connsAt t (c.key / 524288) m ((c.key / 8 % 64 + 1) % t.lapLen)).filter (fun e =>
        e.inp = opp d + 1 && e.baton = c.baton)

def chainFuel : Nat := 1024 * 64 * 8

/-- The second row of R209 for one connection. -/
def connLapBad (t : State) (pos : Nat) (cs : List ConnE) (c : ConnE) : Bool :=
  decide (t.lapLen ≤ pos) || (!c.start && (upstream t c).isNone) || (!c.last && (downstream t c).isEmpty) ||
  decide (1 < (cs.filter (fun e => e.out = c.out && e.baton = c.baton)).length) || (chainStart t chainFuel c).isNone

/-- The capacity of a destination (R211), by its OUT code and kind. -/
def outCapacity (out : Nat) (baton : Bool) : Nat :=
  if 1 ≤ out ∧ out ≤ 4 then 16 else if 5 ≤ out ∧ out ≤ 8 then (if baton then 4 else 1)
  else if out = 9 ∨ out = 0xA then 16 else 4

/-- The third row of R209 for one destination of a node: vectors and batons share a seam's queue. -/
def capacityBad (t : State) (lg n out : Nat) (baton : Bool) : Bool :=
  let seam := decide (1 ≤ out ∧ out ≤ 4)
  let ends := (nodeConns t lg n).filter (fun x => x.2.last && x.2.out = out && (seam || x.2.baton = baton))
  let starts := (ends.filterMap (fun x => chainStart t chainFuel x.2)).dedup
  decide (outCapacity out baton < ((starts.map (fun c => fldGet LapConn.credits c.w)).sum))

/-- The edge-node positions of a side at its trained width (R25). -/
def seamPositions (s : State) (p d : Nat) : List Nat :=
  let w := rf s (SeamStatus.key p d) SeamStatus.activeLanes
  if seamDead s p d then []
  else if (facing p d).isNone then
    (if w = 16 then [4, 8, 12, 16, 20, 24, 28] else if w = 12 then [8, 12, 16, 20, 24] else if w = 8 then [12, 16, 20] else [])
  else List.range (rf s (SeamStatus.key p d) SeamStatus.linkEquiv)

/-- The seam directions of a node whose links its lap table uses: as IN the stand's own receiving port counts, as OUT the
far side's. -/
def seamUsable (s : State) (p n d : Nat) (out : Bool) : Bool :=
  let (q, e) := match out, facing p d with
    | true, some q => (q, opp d)
    | _, _ => (p, d)
  (seamPositions s q e).contains (edgePos n d) && !seamDead s p d

/-- The logical stand that a configuration places at a physical place. -/
def cfgLogical (s t : State) (q : Nat) : Option Nat := (List.range 56).find? (fun lg => planPhys s t lg = q)

/-- The neighbour of an edge node over its outward link (R209): the facing stand's edge node at the same position. -/
def seamPartner (s t : State) (lg n d : Nat) : Option (Nat × Nat) :=
  ((facing (planPhys s t lg) d).bind (cfgLogical s t)).map (fun lq => (lq, edgeNode (opp d) (edgePos n d)))

/-- The second row of R209 on a seam-facing link, where SRC_POS stands for the position rule of R207 (R218): a START that the
facing edge node does not drive at its SRC_POS, or a driven link that no START there takes. A link without a
link-equivalent is left to the fourth row; the ring and a standby, which R489 lets a base table face, have no lap table to
hold it to. -/
def seamLapBad (s t : State) (lg n pos : Nat) (c : ConnE) : Bool :=
  let p := planPhys s t lg
  let meets (d : Nat) (f : ConnE → Nat → Bool) : Bool :=
    match seamPartner s t lg n d with
    | none => true
    | some (lq, m) => (nodeConns t lq m).any (fun x => x.2.baton = c.baton && f x.2 x.1)
  let takes := match linkDir c.inp with
    | some d => c.start && seamFacing n d && seamUsable s p n d false &&
        !meets d (fun e q => e.out = opp d + 1 && q = fldGet LapConn.srcPos c.w)
    | none => false
  let gives := match linkDir c.out with
    | some d => c.last && seamFacing n d && seamUsable s p n d true &&
        !meets d (fun e _ => e.start && e.inp = opp d + 1 && fldGet LapConn.srcPos e.w = pos)
    | none => false
  takes || gives

/-- The fourth row of R209 for one node: the side that fails first. -/
def seamShort (s t : State) (lg n : Nat) : Option Nat :=
  let p := planPhys s t lg
  (List.range 4).find? (fun d => seamFacing n d && (nodeConns t lg n).any (fun x =>
    (x.2.inp = d + 1 && !seamUsable s p n d false) || (x.2.out = d + 1 && !seamUsable s p n d true)))

/-- The third row of R209 for one node. -/
def creditFault (s t : State) (lg n : Nat) : Find :=
  need (!(List.range 0x17).any (fun out => endPort n out && (capacityBad t lg n out false || capacityBad t lg n out true)))
    stImageLap (locCfg s t lg 0 0 0 0 n)

/-- R209 for one node. -/
def lapFault (s t : State) (lg n : Nat) : Find :=
  let loc := locCfg s t lg 0 0 0 0 n
  let words := (List.range 64).flatMap (fun pos => (List.range 8).map (connWord t lg n pos))
  firstFind [
    need (!words.any (connInvalid n)) stImageInvalid loc,
    need (!(nodeConns t lg n).any (fun x => connLapBad t x.1 ((connsAt t lg n x.1)) x.2 || seamLapBad s t lg n x.1 x.2))
      stImageLap loc,
    creditFault s t lg n,
    (seamShort s t lg n).bind (fun d => some (stTopologyShort, locCfg s t lg 0 0 0 0 d))]

/-- The image queues of a stand, and those that are on, with their configuration (R275). -/
def allQueues (t : State) (lg : Nat) : List (Nat × Word) := (List.range 28).map (fun q => (q, rg t (HubQCfg.key lg q)))
def cfgQueues (t : State) (lg : Nat) : List (Nat × Word) := (allQueues t lg).filter (fun x => fldGet HubQCfg.mode x.2 != 0)

/-- The ranges of two queues meet. -/
def rangesMeet (v w : Word) : Bool := decide (fldGet HubQCfg.first v ≤ fldGet HubQCfg.last w ∧
  fldGet HubQCfg.first w ≤ fldGet HubQCfg.last v)

/-- A queue's own fields (R275, R279): reserved bits, and where it is on its engine and its range, which keeps off the ring
queues' slots. -/
def queueBad (w : Word) : Bool :=
  let cls := fldGet HubQCfg.cls w
  (fldGet HubQCfg.mode w != 0 &&
    decide (cls < 3 ∨ 7 < cls ∨ engineCount cls ≤ fldGet HubQCfg.index w ∨ fldGet HubQCfg.last w < fldGet HubQCfg.first w ∨
      896 ≤ fldGet HubQCfg.last w)) || (w &&& ~~~HubQCfg.desc.rw) != 0

/-- The slots of the image queues of a stand: queue configuration, slot, descriptor. -/
def cfgDescs (t : State) (lg : Nat) : List (Nat × Word × Nat × List Byte) :=
  (cfgQueues t lg).flatMap (fun x =>
    let f := fldGet HubQCfg.first x.2
    (List.range (fldGet HubQCfg.last x.2 + 1 - f)).map (fun i => (x.1, x.2, f + i, descBytes t lg (64 * (f + i)) 64)))

def descPsel (t : State) (lg : Nat) (q : Word) : Nat := rf t (CvuCfg.key false lg (fldGet HubQCfg.index q)) CvuCfg.psel

/-- R279 for one descriptor, its CV_EXPECT left to R305; the reserved tally numbers of R43 with it. -/
def descFault (q : Word) (d : List Byte) : Option Status :=
  if opClass (numAt d 0 1) ≠ fldGet HubQCfg.cls q ∨ descOk d = false then some stImageInvalid
  else if natBit (numAt d 1 1) 0 && decide (0xF000 ≤ numAt d 4 2) || natBit (numAt d 1 1) 1 && decide (0xF000 ≤ numAt d 6 2) then
    some stAddrReserved
  else none

/-- R279 for one stand. -/
def hubFault (s t : State) (lg : Nat) : Find :=
  let qs := cfgQueues t lg
  firstFind [
    (allQueues t lg).findSome? (fun x => need (!queueBad x.2 && (fldGet HubQCfg.mode x.2 == 0 || !qs.any (fun y => decide (y.1 < x.1) && rangesMeet x.2 y.2))) stImageInvalid
      (locCfg s t lg 0 0 0 0 x.1)),
    (cfgDescs t lg).findSome? (fun (q, w, _, d) =>
      (descFault w d).bind (fun st => some (st, locCfg s t lg 0 0 0 0 q)))]

/-- R305 for one stand, and the reserved PSEL that R310 refuses (log entry 18). -/
def checkValueFault (s t : State) (lg : Nat) : Find :=
  firstFind [
    (List.range 8).findSome? (fun u => need (decide (rf t (CvuCfg.key false lg u) CvuCfg.psel ≤ 4)) stImageInvalid
      (locCfg s t lg 0 u 0 0 0)),
    (cfgDescs t lg).findSome? (fun (q, w, _, d) =>
      need (descExpectOk d (descPsel t lg w)) stImageInvalid
        (locCfg s t lg 0 0 0 0 q))]

/-- Does a list of regions cover a range, without gaps? -/
def covered (l : List Region) : Nat → Nat → Nat → Bool
  | 0, _, _ => false
  | n + 1, lo, hi =>
    if hi ≤ lo then true
    else
      match l.find? (fun r => decide (r.base ≤ lo ∧ lo < r.base + r.len)) with
      | some r => covered l n (r.base + r.len) hi
      | none => false

def meets (a n b m : Nat) : Bool := decide (a < b + m ∧ b < a + n)

/-- The blaze areas with their mirror bands left out, as device-address ranges (R268, R499). -/
def blazeRanges (b : List Byte) : List (Nat × Nat) :=
  match imgBlaze b with
  | none => []
  | some (base, _, _) =>
    if imgInterleave b = 0 then
      (List.range 56).map (fun l => (l * (64 * sliceBytes) + 64 * base, 64 * (0x27F00000 - base)))
    else [(3584 * base, 3584 * (0x27F00000 - base))]

/-- R376, with the section's zero fields and R355's need of a BLAZE section. -/
def serviceBad (b : List Byte) : Bool :=
  match imgService b, (imgOfType b 12).head? with
  | some v, some x =>
    let perPage := 65536 / v.bpp
    let pts := v.maxSessions * v.streams * (v.maxContext / perPage) * 8
    let mutables := (imgRegions b).filter (fun r => r.cls = 1)
    let inside (a n : Nat) : Bool := covered mutables ((imgRegions b).length + 1) a (a + n)
    let apart (a n : Nat) : Bool := !(imgOfType b 6).any (fun y => meets a n y.target y.len) &&
      !(blazeRanges b).any (fun r => meets a n r.1 r.2)
    !(decide (1 ≤ v.maxSessions ∧ v.maxSessions ≤ 16384 ∧ 1 ≤ v.bMax ∧ v.bMax ≤ v.maxSessions ∧ 1 ≤ v.prefillMax ∧
        v.prefillMax ≤ 65536 ∧ 1 ≤ v.streams ∧ v.streams ≤ 2 ^ 20) &&
      ((List.range 11).map (fun i => 2 ^ (i + 6))).contains v.bpp &&
      decide (0 < v.maxContext ∧ v.maxContext % perPage = 0 ∧ v.maxContext ≤ 2 ^ 20 ∧ 1 ≤ v.v ∧ v.v ≤ 1048576 ∧ v.lfmt ≤ 2 ∧
        1 ≤ v.blazeEvery ∧ v.blazeEvery ≤ 256 ∧ v.poolBase % 65536 = 0 ∧ v.poolLength % 65536 = 0 ∧ 0 < v.poolLength ∧
        v.ptBase % 64 = 0) &&
      numAt b (x.off + 25) 1 = 0 && numAt b (x.off + 28) 4 = 0 && numAt b (x.off + 56) 8 = 0 && (imgBlaze b).isSome &&
      !meets v.poolBase v.poolLength v.ptBase pts && inside v.poolBase v.poolLength && inside v.ptBase pts &&
      apart v.poolBase v.poolLength && apart v.ptBase pts)
  | _, _ => false

/-- R408. -/
def lockstepFault (s : State) (b : List Byte) : Find :=
  if lsMode s then
    firstFind [need (imgService b).isNone stImageNondet locNone, need (!imgOverlaps b s.lsOn.base) stAddrReserved locNone]
  else none

/-- A seam record of the topology section (R355): stand or 0xFF, side, group, what it faces, which, positions. -/
structure SeamRec where
  stand : Nat
  side : Nat
  group : Nat
  faces : Nat
  faced : Nat
  used : Nat
  deriving DecidableEq, Repr

def imgTopology (b : List Byte) : List SeamRec :=
  (imgEntries b 13 8).map (fun e =>
    let w := numAt e 0 8
    ⟨natBits w 7 0, natBits w 9 8, natBits w 11 10, natBits w 13 12, natBits w 19 14, natBits w 63 32⟩)

/-- A record whose fields R355 does not admit. -/
def seamRecBad (r : SeamRec) (w : Nat) : Bool :=
  (decide (55 < r.stand) && r.stand != 0xFF) || (r.stand != 0xFF && r.group != 0) || r.faces = 3 ||
  (r.faces = 0 && decide (55 < r.faced)) || (r.faces = 1 && r.faced != 0) || (r.faces = 2 && decide (3 < r.faced)) ||
  natBits w 31 20 != 0

/-- The standby of a parity group. -/
def groupStandby (s : State) (g : Nat) : Option Nat :=
  physList.find? (fun p => roleOf s p = 2 && rf s (IorStandMap.key p) IorStandMap.parityGroup = g)

/-- One seam record against the stand map and the trained seams (R489). -/
def seamRecFault (s : State) (r : SeamRec) : Find :=
  let loc (p tail : Nat) : Word := locUnit r.stand p 0 0 0 0 tail
  match (if r.stand = 0xFF then groupStandby s r.group else physOf s r.stand) with
  | none => some (stTopologyShort, loc 0 (if r.stand = 0xFF then 0x100 + r.group else r.side))
  | some p =>
    let faced : Option Nat := if r.faces = 0 then physOf s r.faced else if r.faces = 2 then groupStandby s r.faced else none
    let right := if r.faces = 1 then (facing p r.side).isNone else faced.isSome && facing p r.side = faced
    let ok := right && !seamDead s p r.side &&
      (List.range 32).all (fun e => !natBit r.used e || (seamPositions s p r.side).contains e)
    need ok stTopologyShort (loc p r.side)

/-- R489: records in ascending logical stand, side and group; then the groups of the plans. -/
def topologyFault (s : State) (b : List Byte) : Find :=
  let secs := (List.range (imgSections b)).filter (fun k => (imgSection b k).type = 13)
  let raw := (imgEntries b 13 8).map (fun e => numAt e 0 8)
  let recs := imgTopology b
  let bad := findIdxSome (fun x : SeamRec × Nat => seamRecBad x.1 x.2) (recs.zip raw)
  let order := ((List.range 56) ++ [0xFF]).flatMap (fun l => (List.range 4).flatMap (fun d => (List.range 4).flatMap (fun g =>
    recs.filter (fun (r : SeamRec) => r.stand = l && r.side = d && r.group = g))))
  firstFind [
    bad.bind (fun i => some (stImageInvalid, locImage (secs.headD 0) (8 * i))),
    order.findSome? (seamRecFault s),
    (planOrder (imgPlans b)).findSome? (fun n =>
      need (groupStandby s ((n - 0x100) / 14)).isSome stTopologyShort (locUnit 0xFF 0 0 0 0 0 (0x100 + (n - 0x100) / 14)))]

/-- Bytes rounded up to 4 KiB. -/
def pageUp (n : Nat) : Nat := (n + 4095) / 4096 * 4096

/-- The live slots of a stand's memory arrays (R186, R502). -/
def liveSlots (b : List Byte) (lg : Nat) : Nat :=
  let arrs := (((imgSlotClasses b).filter (fun x => x.1 = lg)).map (fun x => x.2.1) ++
    ((imgSramInits b).filter (fun x => x.1 = lg)).map (fun x => x.2.1)).dedup.filter isMemIdx
  (arrs.map (fun a => ((List.range 8192).filter (fun n => slotClass b lg a n = 1)).length)).sum

/-- The lengths of the regions of a blaze of a logical stand, KIND 1 to 8 (R502). -/
def blazeRegions (b : List Byte) (lg : Nat) : List Nat :=
  [3072 * 65664, 64 * liveSlots b lg + 1048576, 16777216, 4194304, 131072, 8192, if lg = 0 then 65536 else 0,
    match imgService b with
    | some v => if lg = 0 then 64 * v.maxSessions + 8 * (v.poolLength / 65536) else 0
    | none => 0]

/-- The save size of a logical stand (R502). -/
def saveSize (b : List Byte) (lg : Nat) : Nat := 4096 + ((blazeRegions b lg).map pageUp).sum

/-- R499. -/
def blazeBad (b : List Byte) : Bool :=
  match imgBlaze b with
  | none => false
  | some (base, buf, log) =>
    let x := (imgOfType b 9).head?
    !(decide (base % 0x10000 = 0 ∧ base < 0x27F00000 ∧ buf % 0x400000 = 0 ∧ log % 0x400000 = 0 ∧
        2 * buf + log ≤ 64 * (0x27F00000 - base)) &&
      (List.range 56).all (fun lg => decide (saveSize b lg ≤ buf)) && (x.map (fun x => numAt b (x.off + 24) 8)).getD 0 = 0 &&
      !(imgRegions b).any (fun r => (blazeRanges b).any (fun a => meets r.base r.len a.1 a.2)))

/-- The checks of step 4 of R357 over the configurations, in its order; each runs over every configuration first. -/
def configFault (s : State) (b : List Byte) : Find :=
  let cs := imgConfigs b
  let each (f : State → Find) : Find := cs.findSome? f
  let entry (bad : Nat → Word → Bool) (st : Status) : Find := each (fun t => entryCheck s t bad st)
  let stands (f : State → Nat → Find) : Find := each (fun t => (List.range 56).findSome? (f t))
  let stages (bad : State → Nat → Nat → Nat → Bool) (st : Status) : Find := each (fun t => overArrays t false (fun lg a =>
    (List.range 8).findSome? (fun k => need (!bad t lg a k) st (locCfg s t lg a k 0 0 0))))
  let sparse (f : State → Nat → Nat → Nat → Nat → Word → Find) : Find := each (fun t => overEntries t (f t))
  firstFind [
    stands (fun t lg => firstFind [
      (cfgDescs t lg).findSome? (fun (q, _, _, d) => need (!descFormatBad d) stFmtReserved (locCfg s t lg 0 0 0 0 q)),
      standEntries t lg (fun a k e w => need (!formatReserved w) stFmtReserved (locCfg s t lg a k e 0 0))]),
    entry (fun _ w => roundingReserved w) stFmtReserved,
    each (fun t => overArrays t false (arrayProgramFault s t)),
    entry entryUnused stImageInvalid,
    entry (fun _ w => !opFormats (fldGet CaOp.opcode w) (fldGet CaOp.fmtA w) (fldGet CaOp.fmtB w) (fldGet CaOp.fmtD w)) stFmtReserved,
    stages (accCheck kindsMixed) stImageAccKind,
    entry (fun _ w => atomicBad w) stImageInvalid,
    if lsMode s then entry (fun _ w => markedEntry w) stImageNondet else none,
    each (fun t => overArrays t false (fun lg a => need (!chainBad t lg a) stImageInvalid (locCfg s t lg a 0 0 0 0))),
    each (fun t => overNodes t (fun lg n => (List.range 4).findSome? (fun u =>
      need (!steerBad t lg n u) stImageInvalid (locCfg s t lg 0 u 0 0 n)))),
    each (fun t => (List.range 56).findSome? (fun lg => (memArrays t lg).findSome? (fun a =>
      (memFault t lg a).bind (fun st => some (st, locCfg s t lg a 0 0 0 0))))),
    each (fun t => (List.range 56).findSome? (fun lg => (unitsOf t lg 2).findSome? (fun h =>
      need (!handleBad t lg h) stHandleRange (locCfg s t lg 0 0 0 0 h)))),
    each (fun t => overNodes t (lapFault s t)),
    sparse (fun t lg a k e w => need (!sparseBad t lg a k w) stImageInvalid (locCfg s t lg a k e 0 0)),
    sparse (fun t lg a k e w => (constBlockBad t lg a k w).bind (fun (l, blk) =>
      some (stSparseIndex, locCfg s t lg a k e l blk))),
    stands (hubFault s),
    stands (checkValueFault s)]

/-- Steps 2 to 4 of R357: the first fault of an image, in their order. -/
def imageFault (s : State) (b : List Byte) (len : Nat) : Find :=
  firstFind [
    formFault b len,
    need (imgCrc b = imgCheck b) stCheckMismatch (locTable 48),
    need (decide (rf s ClkSlotStatus.key ClkSlotStatus.currentKhz ≤ imgClock b)) stImageClock locNone,
    (List.range (imgSections b)).findSome? (addressFault b),
    listsFault b,
    configFault s b,
    need (!serviceBad b) stImageInvalid locNone,
    lockstepFault s b,
    topologyFault s b,
    need (!blazeBad b) stImageInvalid locNone]

end Sys2Proof.Machine
end

