-- ==== Sys2Proof/Machine/Load.lean ====
section
/-!
DEFINITION. LOAD_IMAGE (R351, R357): the stop of the module that it shares with a fence (R509), the reset of what an image
may configure, the application of the image's sections, and read-only parity (R503).
-/

namespace Sys2Proof.Machine

/-- A sparse map with a list of values at consecutive keys from `k`, all of them at once. -/
def smapSplice {α : Type} [DecidableEq α] (d : Nat → α) (m : List (Nat × α)) (k : Nat) (vs : List α) : List (Nat × α) :=
  smapKeep (fun j => decide (j < k)) m ++ ((List.range' k vs.length).zip vs).filter (fun x => decide (x.2 ≠ d x.1)) ++
    smapKeep (fun j => decide (k + vs.length ≤ j)) m

/-- Place bytes in memory with fresh check bits, as the load and recovery engines do. -/
def memSplice (k : Nat) (bs : List Byte) (s : State) : State :=
  { s with
    mem := smapSplice memDflt s.mem k bs
    upset := smapKeep (fun w => decide (8 * w + 8 ≤ k ∨ k + bs.length ≤ 8 * w)) s.upset }

/-- The arrays of a physical stand that are fenced, in ascending order. -/
def fencedArrays (s : State) (p : Nat) : List Nat :=
  (unitsOf s p 15).filter (fun a => arrState s p a = 5)

/-- The stands whose state refuses an image, a plan or a RESTORE: fenced, or tripped while bearing a logical number. -/
def standsOut (s : State) : List Nat :=
  physList.filter (fun p => roleOf s p = 3 || (roleOf s p = 5 && decide (logicalOf s p < 56)))

/-- What refuses LOAD_IMAGE (R351): the first fenced stand or mapped tripped stand, then the first fenced array. -/
def loadBarred (s : State) : Find :=
  firstFind [
    (standsOut s).head?.map (fun p => (stStandFenced, locStand s p)),
    (servicePhys s).findSome? (fun p => (fencedArrays s p).head?.map (fun a =>
      (stArrayFenced, locUnit (logicalOf s p) p a 0 0 0 0)))]

/-- Every in-service stand stops: no lap position advances and no step begins (R509), in an idle lap too. -/
def stopStands (s : State) : State :=
  (servicePhys s).foldl (fun s p => putStand p { standOf s p with started := false, idleLeft := 0, idleSlot := false } s) s

/-- The aborts of a fence or a load (R351, R509): descriptors executing or waiting in image queues, all descriptors of ring
queues, and every DMA_COPY that writes device memory. -/
def stopDescs (s : State) : State :=
  let s := (servicePhys s).foldl (fun s p => (List.range 28).foldl (fun s q =>
    if (execOf s p q).isSome ∨ rf s (HubQState.key p q) HubQState.state = 1 then
      settled p q (abortQueue p q stAborted s).2 else s) s) s
  let s := (s.hubQs.flatMap (fun x => x.2.ring.map (·.cmd))).foldl (fun s c => (abortTarget c s).2) s
  let s := ((s.hubQs.map (·.1)).filter (fun k => decide (28 ≤ k % 32))).foldl (fun s k => settled (k / 32) (k % 32) s) s
  (s.ports.flatMap (fun x => (x.2.copies.filter (fun j => cpDstKind j.cmd = 1)).map (·.cmd))).foldl
    (fun s c => (abortTarget c s).2) s
where
  /-- One that had done its work retires without the answer to its DONE increment. -/
  settled (p q : Nat) (s : State) : State :=
    match execOf s p q with
    | some e => retireDesc p q e (e.result.getD stAborted) s
    | none => s

/-- Steps 1 to 3 of R509, for a fence and for LOAD_IMAGE (R351). Gulem fetching stops with the module state. -/
def stopModule (s : State) : State := stopDescs (stopStands s)

/-- What LOAD_IMAGE keeps of a register of an in-service stand: everything but what a register list may name (R356) and
what other rules have it clear. CLK_SRC_SEL returns by a selection (log entry 20). -/
def loadKept (k : Nat) (w : Word) : Word :=
  let p := suStand k
  let u := suIndex k
  let cls := suClass k
  let off := suOff k
  if cls = 0 then
    (if k = PwrStandCount.key p then fldOf PwrStandCount.warns (fldGet PwrStandCount.warns w) else w)
  else if cls = 1 then (if off = 0 ∨ (0x10 ≤ off ∧ off < 0x480) then regReset k else w)
  else if cls = 2 then regReset k
  else if 3 ≤ cls ∧ cls ≤ 9 then (if off = 8 then 0 else w)
  else if cls = 10 then (if off < 0x28 then regReset k else w)
  else if cls = 11 then (if off = 0x28 ∨ off = 0 then 0 else w)
  else if cls = 12 then (if off = 8 then 0 else w)
  else if cls = 13 then (if off = 8 ∨ off = 0x10 then 0 else w)
  else if cls = 14 then (if k = NodeNoprog.key p u then fldSet NodeNoprog.elapsed w 0 else regReset k)
  else if cls = 15 then (if isMemIdx u = false ∧ k = CaOverrunLimit.key p u then w else regReset k)
  else w

/-- Put some stands' registers into the state in which the lists of an image find them. -/
def loadRegs (ps : List Nat) (s : State) : State :=
  { s with
    regs := s.regs.filterMap (fun (k, w) =>
      let v := if suView k = 2 ∧ ps.contains (suStand k) = true then loadKept k w else w
      if v = regReset k then none else some (k, v)) }

/-- SRAM, operand buffers and the state of the units of some stands are emptied (R119, R121, R154, R171, R204, R211). -/
def loadUnits (ps : List Nat) (s : State) : State :=
  let out (p : Nat) : Bool := !ps.contains p
  let keep (k : Nat) : Bool := decide (k < 2 ^ 47) || out ((k - 2 ^ 47) / 2 ^ 31)
  { s with
    mem := smapKeep keep s.mem
    upset := smapKeep (fun k => keep (8 * k)) s.upset
    tags := smapKeep (fun k => keep (64 * k)) s.tags
    vtags := smapKeep (fun k => keep (64 * k)) s.vtags
    ob := smapKeep (fun k => out (k / 2048 / 32768)) s.ob
    obBad := smapKeep (fun k => out (k / 2048 / 32768)) s.obBad
    stages := smapKeep (fun k => out (k / 32768)) s.stages
    arrays := smapKeep (fun k => out (k / 4096)) s.arrays
    links := smapKeep (fun k => out (k / 4096)) s.links
    credits := smapKeep (fun k => out (k / 524288)) s.credits
    creditFly := s.creditFly.filter (fun c => out (c.conn / 524288))
    moves := s.moves.filter (fun m => out (m.node / 1024))
    steers := smapKeep (fun k => out (k / 4096)) s.steers
    nodes := smapKeep (fun k => out (k / 1024)) s.nodes
    seams := s.seams.filterMap (fun (k, m) =>
      let m := if out (k / 4) then m else m.clear
      if m = SeamPort.init then none else some (k, m))
    memArrs := smapKeep (fun k => out (k / 4096)) s.memArrs
    taps := smapKeep (fun k => out (k / 8)) s.taps
    svc := s.svc.filter (fun r => out r.src.stand.toNat)
    svcResp := s.svcResp.filter (fun r => out r.1.stand.toNat)
    svcGot := s.svcGot.filter (fun r => out r.1.stand.toNat)
    waits := s.waits.filter (fun w => match w.who with
      | .stage q _ _ => out q
      | .queue q _ => out q
      | .remote src => out src.stand.toNat
      | _ => true)
    xbar := smapKeep (fun k => out (k / 256)) s.xbar
    turns := smapKeep (fun k => out (k / 32)) s.turns
    hubQs := smapKeep (fun k => out (k / 32)) s.hubQs
    dirty := smapKeep (fun k => out (k / 1024)) s.dirty }

/-- The stands' own records at a load (R132, R202): their arrays are LOADED. -/
def loadStands (ps : List Nat) (s : State) : State :=
  ps.foldl (fun s p => putStand p { Stand.init with pool := (standOf s p).pool, phase := 1 } s) s

/-- A register list of the image takes effect in the stands that bear its logical numbers (R356): the entries that `keep`
chooses, by the key they name. CLK_SRC_SEL is applied as R430 lays down. -/
def applyList (keep : Nat → Bool) (l : List (Nat × Word)) (s : State) : State :=
  l.foldl (fun s x =>
    match listKey x.1 with
    | none => s
    | some k =>
      match inService s (suStand k) with
      | none => s
      | some p =>
        if suClass k ≠ 0 ∧ keep k = true then listWrite false (k - suStand k * 2 ^ 34 + p * 2 ^ 34) x.2 s else s) s

/-- HUB_CFG of a stand from the header (R268, R357). -/
def loadHubCfg (b : List Byte) (p : Nat) (s : State) : State :=
  rput (HubCfg.key p) (fldSet HubCfg.granule (fldOf HubCfg.interleave (imgInterleave b)) (imgGranule b)) s

/-- What LOAD_IMAGE clears in every stand, in service or not (R238, R274, R294, R321, R334): the counts of its engines, seams
and slices, and its tallies. -/
def standbyRegs (p : Nat) (s : State) : State :=
  { s with regs := s.regs.filter (fun x => !(suView x.1 = 2 && suStand x.1 = p &&
      ((suOff x.1 = 8 && (suClass x.1 = 12 || decide (3 ≤ suClass x.1 ∧ suClass x.1 ≤ 9))) || (suClass x.1 = 13 && (suOff x.1 = 8 || suOff x.1 = 0x10)) || (suClass x.1 = 11 && (suOff x.1 = 0 || suOff x.1 = 0x28))))) }

/-- The counters of a stand as LOAD_IMAGE sets them (R154): VALUE from START, BOUND from TRIPS_M1. -/
def loadCounters (p : Nat) (s : State) : State :=
  (unitsOf s p 15).foldl (fun s a =>
    if isMemIdx a then s
    else (List.range 6).foldl (fun s c =>
      let w := rg s (CaCtrLoop.key p a c)
      rput (CaCtrState.key p a c) (fldSet CaCtrState.bound (fldOf CaCtrState.value (fldGet CaCtrLoop.start w))
        (fldGet CaCtrLoop.tripsM1 w)) s) s) s

/-- The initial value of each check-value unit of a stand (R307), and the first slot of each queue (R276, R293). -/
def loadHub (p : Nat) (s : State) : State :=
  let s := (List.range 8).foldl (fun s u => cvuSet false p u (cvuParams s false p u).init s) s
  (List.range 32).foldl (fun s q =>
    rput (HubQState.key p q) (fldOf HubQState.next (rf s (HubQCfg.key p q) HubQCfg.first)) s) s

/-- Every START connection of a stand takes its CREDITS (R211). -/
def loadCredits (p : Nat) (s : State) : State :=
  (unitsOf s p 14).foldl (fun s n => (startConns s p n).foldl (fun s x => putCredit x.2.key (fldGet LapConn.credits x.2.w) s) s) s

/-- The operand-buffer bytes of an OB_INIT section (R355): those that `pick` chooses by their mask bit. -/
def loadOb (b : List Byte) (pick : Bool → Bool) (x : Section) (s : State) : State :=
  let lg := natBits x.target 17 12
  let a := arrIdx (natBits x.target 5 0) (natBits x.target 11 6)
  match inService s lg with
  | none => s
  | some p =>
    let l : Loc := ⟨p, a, natBits x.target 20 18, a % 64, a / 64, lg⟩
    (List.range 2048).foldl (fun s i =>
      if pick (natBit (numAt b (x.off + 2048 + i / 8) 1) (i % 8)) then obWrite l (i / 128) (i % 128) (bytesAt b (x.off + i) 1) s
      else s) s

/-- An SRAM_INIT section (R171, R355): its bytes, and its slots' tags FULL outside untagged regions. -/
def loadSram (b : List Byte) (x : Section) (s : State) : State :=
  (sramPieces x.target x.len).foldl (fun s (at0, n, skip) =>
    match sramTarget at0 n with
    | none => s
    | some (lg, a, off) =>
      match inService s lg with
      | none => s
      | some p =>
        (List.range ((n + 63) / 64)).foldl (fun s i =>
          if inUntagged s p a (off / 64 + i) then s else setTag (slotKey p a (off / 64 + i)) true s)
          (memSplice (sramKey p a off) (bytesAt b (x.off + skip) n) s)) s

/-- A span of DRAM addresses as pieces that each lie in one granule (R268). -/
def granulePieces (g : Nat) : Nat → Nat → Nat → List (Nat × Nat)
  | 0, _, _ => []
  | f + 1, a, n =>
    if n = 0 then []
    else
      let k := min n (g - a % g)
      (a, k) :: granulePieces g f (a + k) (n - k)

/-- The bytes of a DRAM span are written, whatever their class (R357). -/
def loadDram (addr : Nat) (bs : List Byte) (s : State) : State :=
  let g := granuleBytes (fldGet HubCfg.granule (hubCfgNow s))
  (granulePieces g (bs.length / g + 2) addr bs.length).foldl (fun s (a, n) =>
    let (lg, sl, off) := dramPlaceOf s a
    match inService s lg with
    | some p => memSplice (dramKey p sl off) ((bs.drop (a - addr)).take n) s
    | none => s) s

/-- The parity group's stands in ascending logical number (R22). -/
def groupStands (s : State) (g : Nat) : List Nat := (List.range 14).filterMap (fun i => physOf s (14 * g + i))

/-- Place of a memory key in a stand's DRAM: slice and slice offset. -/
def keySlice (k : Nat) : Nat × Nat := (k / sliceBytes % 64, k % sliceBytes)

/-- The class of a DRAM byte of a stand by the image's regions (R503): 0 read-only, 1 mutable protected, 4 blaze area or
mirror band, else unprotected. -/
def cellClass (s : State) (lg : Nat) (k : Nat) : Nat :=
  let (sl, off) := keySlice k
  if inBlazeArea s off then 4 else regionClass s.image (dramAddrOf s lg sl off)

/-- The XOR, at slice places, of the DRAM bytes of some stands that `pick` chooses by stand and key, laid on the slices of
a target stand (R503, R506, R512). -/
def xorCells (target : Nat) (ps : List Nat) (pick : Nat → Nat → Bool) (m : List Host.Cell) : List Host.Cell :=
  (m.filter (fun c => decide (c.1 < 2 ^ 47) && ps.contains (c.1 / (64 * sliceBytes)) && pick (c.1 / (64 * sliceBytes)) c.1)).foldl
    (fun acc c =>
      let k := dramKey target 0 0 + c.1 % (64 * sliceBytes)
      smapSet memDflt acc k (smapGet memDflt acc k ^^^ c.2)) []

/-- Put a list of cells of one stand's DRAM in place of those that `drop` chooses. -/
def putCells (p : Nat) (drop : Nat → Bool) (cells : List Host.Cell) (s : State) : State :=
  let mine (k : Nat) : Bool := decide (k < 2 ^ 47) && k / (64 * sliceBytes) = p
  let t := { s with
    mem := smapKeep (fun k => !(mine k && drop k)) s.mem
    upset := smapKeep (fun w => !(mine (8 * w) && drop (8 * w))) s.upset }
  { t with mem := cells.foldl (fun m c => smapSet memDflt m c.1 c.2) t.mem }

/-- The parity of a group's protected regions as they stand (R503, R505): read-only and mutable protected. -/
def buildParity (g : Nat) (s : State) : State :=
  match groupStandby s g with
  | none => s
  | some p =>
    let area (k : Nat) : Bool := inBlazeArea s (keySlice k).2
    putCells p (fun k => !area k)
      (xorCells p (groupStands s g) (fun q k => decide (cellClass s (logicalOf s q) k ≤ 1)) s.mem) s

/-- RGR_PAR of every group after a load (R520). -/
def loadParityRegs (s : State) : State :=
  (List.range 4).foldl (fun s g =>
    match groupStandby s g with
    | some p => rput (RgrPar.key g) (fldSet RgrPar.state (fldOf RgrPar.standby p) 1) s
    | none => rput (RgrPar.key g) (fldOf RgrPar.state 3) s) s

/-- The module's own state at a load (R377, R416, R450, R451, R496, R520). -/
def loadModule (b : List Byte) (s : State) : State :=
  let s := { s with
    mode := .loaded
    epoch := 1
    tainted := false
    taints := []
    taintCount := 0
    srKey := BitVec.ofNat 64 (imgSrKey b)
    lapLen := imgP b
    draining := false
    image := b
    plan := 0
    logs := []
    hbs := []
    snaps := []
    saving := none
    planSel := none
    planChanged := false
    reconFailed := false
    hostStall := s.ports.any (fun x => x.2.epochStalls ≠ 0)
    lapSet := 0
    excBase := []
    excSat := []
    measure5 := digestNum (sha384 b) }
  let s := rreset RgrBlzLast.key (rreset RgrBlzTime.key (rreset RgrBlzState.key (rreset RgrGulSafe.key s)))
  rfput PwrStatus.key PwrStatus.tl 0 s

/-- CLK_SRC_SEL, which a list of a plan may name, returns to its reset value, side N (R356, R357): as a selection where
R427 admits it, and else in the register alone (log entry 20). -/
def resetSources (ps : List Nat) (s : State) : State :=
  ps.foldl (fun s p =>
    if clkSrc s p = 0 then s
    else if (srcRefusal s p 0).isNone then selectSource p 0 s
    else rfput (ClkSrcSel.key p) ClkSrcSel.src 0 s) s

/-- Step 5 of R357: the image is applied. -/
def applyImage (b : List Byte) (s : State) : State :=
  let old := hubCfgNow s
  let s := snoopAll (stopModule s)
  let ps := servicePhys s
  let s := gulLoad b s
  let s := loadModule b (loadStands ps (loadUnits ps (loadRegs ps (resetSources ps s))))
  let s := { s with descs := smapKeep (fun k => !ps.contains (k / 65536)) s.descs
                    hdlStage := smapKeep (fun k => !ps.contains (k / 4096)) s.hdlStage }
  let s := recodeDram old (physList.foldl (fun s p => standbyRegs p (loadHubCfg b p s)) s)
  let s := applyList (fun _ => true) (imgConfig b) s
  let s := (imgOfType b 5).foldl (fun s x => loadOb b (fun _ => true) x s) s
  let s := (imgOfType b 4).foldl (fun s x => loadSram b x s) s
  let s := (imgOfType b 6).foldl (fun s x => loadDram x.target (secBytes b x) s) s
  let s := (imgEntries b 14 16).foldl (fun s e =>
    match tallyPlace s (numAt e 0 2) with
    | .ok t => rput (TlyCount.key t.1 t.2.1 t.2.2) (BitVec.ofNat 64 (numAt e 8 8)) s
    | .error _ => s) s
  let s := (imgHeartbeats b).foldl (fun s (lg, a, n, per) =>
    match inService s lg with
    | some p => rput (CaHeartbeat.key p a) (fldSet CaHeartbeat.period (fldOf CaHeartbeat.tally n) per) s
    | none => s) s
  let s := ps.foldl (fun s p => loadCredits p (loadHub p (loadCounters p s))) s
  loadParityRegs ((List.range 4).foldl (fun s g => buildParity g s) (gatesOn s))

/-- The body of LOAD_IMAGE (R357): a host address of 4 KiB alignment, a length, the ports. -/
def loadBodyOk (c : Cmd) : Bool :=
  decide (c.num 16 8 % 4096 = 0 ∧ c.num 24 8 % 64 = 0 ∧ c.num 24 8 ≤ 2 ^ 40 ∧ c.num 32 1 < 16) && c.zero 33 31

/-- The port through which a section is read (R357): the named ones in turn, or the issuing one. -/
def sectionPort (c : Cmd) (k : Nat) : Nat :=
  let named := (List.range 4).filter (fun i => natBit (c.num 32 1) i)
  let own := match c.issuer with
    | .host p _ => p.toNat
    | .mgmt _ _ => 0
  if named.isEmpty then own else named.getD (k % named.length) 0

/-- Is the link of every port that reads a section up (R357, R364)? -/
def sectionLinks (c : Cmd) (img : List Byte) (s : State) : Bool :=
  (List.range (imgSections img)).all (fun k => (portOf s (sectionPort c k)).linkUp)

/-- A read of LOAD_IMAGE that failed (R364): its status and host address. -/
def readFault (r : LoadReads) : Find := r.fail.map (fun x => (x.1, x.2))

/-- Was the read that failed one of the header or the section table (R357)? -/
def headFault (c : Cmd) (img : List Byte) (r : LoadReads) : Find :=
  match r.fail with
  | some (st, a) => if a.toNat < c.num 16 8 + 64 + 32 * imgSections img then some (st, a) else none
  | none => none

/-- Steps 2 to 4 of R357: the first fault found, the reads that fail among them. -/
def loadFault (c : Cmd) (img : List Byte) (r : LoadReads) (s : State) : Find :=
  firstFind [headFault c img r, formFault img (c.num 24 8), need (sectionLinks c img s) stCxlLinkDown locNone, readFault r,
    imageFault s img (c.num 24 8)]

/-- LOAD_IMAGE (R351, R357, R528): `img` is what the named ports read at ADDR, `r` how the reads came (R363, R364). -/
def doLoadImage (c : Cmd) (img : List Byte) (r : LoadReads) (s : State) : State :=
  issueVerb 1 c (loadBodyOk c || !c.fromHost) (fun s =>
    if !c.fromHost then refuse c stRoleDenied locNone s
    else
      match loadBarred s with
      | some (st, loc) => refuse c st loc s
      | none =>
        let nr := !r.late.isEmpty
        let s := r.late.foldl (fun s p => noteStall p.toNat s) s
        match loadFault c img r s with
        | some (st, loc) => retireAs nr c st 0 0 loc s
        | none => retireAs nr c stDone (BitVec.ofNat 64 (imgId img)) 0 0 (applyImage img s)) s

def execLoadImage (c : Cmd) (image : List Byte) (readFail : LoadReads) (s : State) : Host.Outcome State Fault Refusal :=
  .next (doLoadImage c image readFail s)

end Sys2Proof.Machine
end

