-- ==== Sys2Proof/Machine/Blaze.lean ====
section
/-!
DEFINITION. Drain points and blazes: DRAIN (R358), what a blaze finds not drained (R153, R186, R225, R280, R321), the
exception record (R401 to R403, R405), the buffers of the blaze area (R498 to R502), BLAZE and its commit (R506 to R508),
and the boundary of a service image (R384, R385).
-/

namespace Sys2Proof.Machine

/-- The in-service stands in ascending logical number. -/
def logicalPhys (s : State) : List Nat := (List.range 56).filterMap (inService s)

/-- The module's stands take a phase: the ARRAY_STATE of their arrays. -/
def putPhases (v : Nat) (s : State) : State :=
  (servicePhys s).foldl (fun s p => putStand p { standOf s p with phase := v } s) s

/-- Every in-service stand begins again before position 0 (R202, R217, R451). -/
def startStands (s : State) : State :=
  (servicePhys s).foldl (fun s p =>
    let d := standOf s p
    rfput (PwrStandCount.key p) PwrStandCount.acc 0 (putStand p
      { d with pos := s.lapLen, started := true, idleLeft := 0, held := false, idleSlot := false, lapStart := d.laps, drained := false,
               phase := 2 } s)) s

/-- The in-service stands go on at a boundary of a service image that neither START nor RESUME ends: the accumulator of the
throttle stays (R451). -/
def goOnStands (s : State) : State :=
  let accs := (servicePhys s).map (fun p => (p, rf s (PwrStandCount.key p) PwrStandCount.acc))
  accs.foldl (fun s (p, a) => rfput (PwrStandCount.key p) PwrStandCount.acc a s) (startStands s)

/-- Is a register the COUNT of a tally? -/
def isTallyCount (k : Nat) : Bool := suOff k = 0 && ((suView k = 0 && suClass k = 8) || (suView k = 2 && suClass k = 11))

/-- DRAIN (R350, R358). -/
def doDrain (c : Cmd) (s : State) : State :=
  issueVerb 3 c (c.zero 16 48) (fun s =>
    if s.mode ≠ .running ∨ ((imgDrain s.image).isNone = true ∧ (imgService s.image).isNone = true) then refuse c stBadState locNone s
    else beginLong 3 c { s with draining := true }) s

def execDrain (c : Cmd) (s : State) : Host.Outcome State Fault Refusal := .next (doDrain c s)

/-- A steering unit that is not as a drain point leaves it (R153). -/
def steerBusy (s : State) (p n u : Nat) : Bool :=
  let t := steerOf s p n u
  !t.dq0.isEmpty || !t.dq1.isEmpty || !t.bq.isEmpty || t.fwd.isSome || t.paired.isSome ||
    rf s (NodeSteerState.key p n u) NodeSteerState.opened = 1

/-- A memory array that is not drained (R186, R280): a scoreboard entry or posting pending, or a FULL slot in a FIFO region. -/
def memBusy (s : State) (p a : Nat) : Bool :=
  let m := memArrOf s p a
  let here (r : SvcReq) : Bool := match r.kind with
    | .post l _ _ _ _ => decide (l.stand.toNat = logicalOf s p ∧ arrIdx l.x.toNat l.y.toNat = a) && !s.svcResp.any (fun x => x.1 = r.src)
    | _ => false
  !m.sb.isEmpty || !m.posts.isEmpty || s.svc.any here || (List.range 3).any (fun g =>
    let w := rg s (MaGenCfg.key p a g)
    fldGet MaGenCfg.mode w = 2 && (List.range (fldGet MaGenCfg.fifoSizeM1 w + 1)).any (fun i =>
      tagOf s (slotKey p a (fldGet MaGenCfg.base w + i))))

/-- A node with a source that holds a vector, or a START counter below its CREDITS (R225). -/
def nodeBusy (s : State) (p n : Nat) : Bool :=
  !(pendingConns s p n).isEmpty ||
    (startConns s p n).any (fun x => creditOf s x.2.key != fldGet LapConn.credits x.2.w) ||
    s.moves.any (fun m => m.node = nodeKey p n)

/-- A seam with a receive queue or a credit field in use (R225). -/
def seamBusy (s : State) (p d : Nat) : Bool :=
  (seamOf s p d).busy || s.creditFly.any (fun c => c.conn / 524288 = p)

/-- A hub that is not drained (R280): an image queue's descriptor executes, or a tap queue is not empty. -/
def hubBusy (s : State) (p : Nat) : Bool :=
  (List.range 28).any (fun q => (execOf s p q).isSome) ||
  (List.range 8).any (fun t => !(tapOf s p t).tx.isEmpty || !(tapOf s p t).rx.isEmpty)

/-- The increment to a stand tally that is still in flight on the service mesh (R321): one that has not reached it. -/
def tallyInFlight (s : State) : Option Nat :=
  s.svc.findSome? (fun r => match r.kind with
    | .tally n _ => if n.toNat < 0xE000 ∧ s.svcResp.any (fun e => e.1 = r.src) = false then some n.toNat else none
    | _ => none)

/-- What a BLAZE finds not drained in one stand: the LOCATION of the first array or unit, node or seam, or hub. -/
def standNotDrained (s : State) (p : Nat) : Option Word :=
  let lg := logicalOf s p
  let arrs := unitsOf s p 15
  let nodes := unitsOf s p 14
  let name (l : List Nat) (bad : Nat → Bool) (f : Nat → Word) : Option Word := (l.find? bad).map f
  (name arrs (fun a => !isMemIdx a && (!(arrOf s (arrKey p a)).btnIn.isEmpty || !(arrOf s (arrKey p a)).btnOut.isEmpty))
    (fun a => locUnit lg p a 0 0 0 0)).or
  ((nodes.findSome? (fun n => (((List.range 4).find? (steerBusy s p n))).map (fun _ => locUnit lg p 0 0 0 0 n))).or
  ((name arrs (fun a => isMemIdx a && memBusy s p a) (fun a => locUnit lg p a 0 0 0 0)).or
  ((name nodes (nodeBusy s p) (fun n => locUnit lg p 0 0 0 0 n)).or
  ((name (List.range 4) (seamBusy s p) (fun d => locUnit lg p 0 0 0 0 d)).or
  (if hubBusy s p then some (locUnit lg p 0 0 0 0 0) else none)))))

/-- What refuses a BLAZE with ST_NOT_DRAINED (R153, R186, R225, R280, R321). -/
def notDrained (s : State) : Option Word :=
  ((logicalPhys s).findSome? (standNotDrained s)).or ((tallyInFlight s).map (fun n => locUnit 0xFF 0 0 0 0 0 n))

/-- The source counters of an exception record (R401), by register: field and number of the count. -/
def excSource (k : Nat) : List (Fld × Nat) :=
  let p := suStand k
  let u := suIndex k
  let cls := suClass k
  if suView k ≠ 2 then []
  else if cls = 15 ∧ isMemIdx u = false then
    (if k = CaOverrun.key p u then [(CaOverrun.compute, 0), (CaOverrun.wait, 1), (CaOverrun.replay, 2)]
      else if k = CaSparse.key p u then [(CaSparse.qholds, 3)] else [])
  else if cls = 12 then (if k = SeamCount.key p u then [(SeamCount.replays, 4)] else [])
  else if cls = 14 then
    (if k = NodePorthold.key p u then [(NodePorthold.seam, 5), (NodePorthold.replay, 6), (NodePorthold.hub, 7)]
      else if k = NodeSlip.key p u then [(NodeSlip.slips, 9)]
      else if (List.range 4).any (fun i => k = NodeSteerCount.key p u i) then [(NodeSteerCount.stall, 10)] else [])
  else if cls = 13 then (if k = DslCount.key p u then [(DslCount.waitCycles, 8)] else [])
  else if k = PwrStandCount.key p then [(PwrStandCount.idleLaps, 11)]
  else []

/-- The key under which a source counter's value at the last drain point of a blaze stands; a stand's own key holds its
lap count there. -/
def excKey (k : Nat) (f : Fld) : Nat := k * 64 + f.lo

def excDflt (_ : Nat) : Int := 0

/-- The key under which the epoch stalls of a port stand at the drain point. -/
def stallKey (p : Nat) : Nat := excKey (IorPortCount.key p) IorPortCount.stalls

/-- A DRAM stand's source counters that have reached their top: IDLE_LAPS goes on from 0 (R451). -/
def satStands (s : State) : List Nat :=
  (s.regs.filter (fun x => (excSource x.1).any (fun f => f.2 != 11 && fldGet f.1 x.2 = fldMax f.1))).map (fun x => suStand x.1)

/-- What a blaze takes as it stands at the drain point: the counts of the stand and ring tallies (R321), CLK_TIME (R501), the
source counters of the exception record (R401), and the end of what the logs hold (R515). -/
def holdDrain (s : State) : State :=
  { s with
    drainTallies := smapSet regReset (s.regs.filter (fun x => isTallyCount x.1)) ClkTime.key (timeNow s)
    drainExc := s.ports.foldl (fun m x => smapSet excDflt m (stallKey x.1) (x.2.epochStalls : Int))
      (s.regs.foldl (fun m x => (excSource x.1).foldl (fun m f => smapSet excDflt m (excKey x.1 f.1) (fldGet f.1 x.2 : Int)) m) [])
    excSat := (satStands s ++ s.excSat).dedup
    logs := s.logs.map (fun (p, l) => (p, { l with mark := l.cur.length })) }

/-- CLK_TIME at the drain point (R501). -/
def drainTime (s : State) : Word := smapGet regReset s.drainTallies ClkTime.key

/-- DRAIN_POINT_REACHED (R358): every stand has stopped. -/
def doDrainPoint (s : State) : State :=
  match s.arb with
  | some (3, _) =>
    if s.draining = true ∧ s.gul.blazing = false ∧ (servicePhys s).all (fun p => (standOf s p).drained) = true then
      endLong stDone 0 0 (holdDrain (putPhases 3 { s with draining := false, mode := .drained }))
    else s
  | _ => s

def execDrainPointReached (s : State) : Host.Outcome State Fault Refusal := .next (doDrainPoint s)

/-- The source counters of a stand, each with its count, its value at the drain point and its value at the epoch's beginning. -/
def excList (s : State) (p : Nat) : List (Nat × Int × Int) :=
  let keys : List Nat := (((s.drainExc ++ s.excBase).map (fun (r : Nat × Int) => r.1 / 64)).dedup).filter
    (fun k => suView k = 2 && suStand k = p)
  keys.flatMap (fun k => (excSource k).map (fun (x : Fld × Nat) =>
    (x.2, smapGet excDflt s.drainExc (excKey k x.1), smapGet excDflt s.excBase (excKey k x.1))))

/-- The increase of one count over the epoch; IDLE_LAPS counts modulo 2^32. -/
def excIncrease (l : List (Nat × Int × Int)) (n : Nat) : Nat :=
  let one (x : Nat × Int × Int) : Nat :=
    let d : Int := x.2.1 - x.2.2
    if n = 11 then (d % (2 ^ 32 : Int)).toNat else d.toNat
  ((l.filter (fun x => x.1 = n)).map one).sum

/-- The counts of a stand record in the order of R401 from LAPS to MARKED_STEPS, and whether a source counter saturated. -/
def standCounts (s : State) (p : Nat) : List Nat × Bool :=
  let d := standOf s p
  let l := excList s p
  let n := excIncrease l
  let laps := ((d.laps : Int) - smapGet excDflt s.excBase p).toNat
  ([laps, d.slots, d.holdSlots, n 11, n 0 - n 3, n 3, n 2, n 1, d.serviceHolds, n 4, n 5, n 6, n 7, n 8, n 9, n 10, 0, d.markedSteps],
    s.excSat.contains p)

/-- A count of a record. -/
def countAt (l : List Nat) (i : Nat) : Nat := (l[i]?).getD 0

/-- FLAGS of a record (R401, R403, R406). -/
def excFlags (s : State) (c : List Nat) (sat : Bool) : Nat :=
  let b (x : Bool) (i : Nat) : Nat := if x then 2 ^ i else 0
  b ([3, 4, 6, 8, 9, 12, 13, 16].any (fun i => countAt c i != 0) || s.planChanged || sat) 0 + b (countAt c 17 != 0) 1 +
    b s.planChanged 2 + b s.tainted 3 + b (lsMode s) 4 + b sat 5

/-- The plan of a record: 0 for the base set. -/
def excPlan (s : State) : Nat := if s.plan < 0x100 then 0 else s.plan

/-- The 128 bytes of an exception record (R401). -/
def excBytes (e : Nat) (c : List Nat) (plan flags : Nat) : List Byte :=
  bytesLE 8 e ++ bytesLE 8 (countAt c 0) ++ bytesLE 8 (countAt c 1) ++
  (List.range 16).flatMap (fun i => bytesLE 4 (min (2 ^ 32 - 1) (countAt c (i + 2)))) ++ bytesLE 2 plan ++ bytesLE 2 flags ++ List.replicate 36 0

/-- The record of a stand. -/
def standExc (s : State) (p : Nat) : List Byte :=
  let (c, sat) := standCounts s p
  excBytes s.epoch c (excPlan s) (excFlags s c sat)

/-- The module record (R401, R403): sums over the stands, LAPS and SLOTS of logical stand 0, the ports' epoch stalls. -/
def moduleExc (s : State) : List Byte :=
  let cs := (logicalPhys s).map (standCounts s)
  let zero := match inService s 0 with
    | some p => (standCounts s p).1
    | none => []
  let stalls := ((List.range 4).map (fun p => (smapGet excDflt s.drainExc (stallKey p)).toNat)).sum
  let c := (List.range 18).map (fun i =>
    if i < 2 then countAt zero i else if i = 16 then stalls else (cs.map (fun x => countAt x.1 i)).sum)
  let fl := cs.foldl (fun a x => a ||| excFlags s x.1 x.2) (excFlags s c (cs.any (·.2)))
  excBytes s.epoch c (excPlan s) (if s.hostStall && decide (stalls ≠ 0) then fl ||| 1 else fl)

/-- CA_OVERRUN of a compute array. -/
def isOverrun (k : Nat) : Bool := suView k = 2 && suClass k = 15 && !isMemIdx (suIndex k) && suOff k = suOff (CaOverrun.key 0 0)

/-- The stalls of the ports that a record has taken leave the count of the epoch that follows. -/
def portsEpoch (held : List (Nat × Int)) (m : List (Nat × Port)) : List (Nat × Port) :=
  m.filterMap (fun (p, q) =>
    let q := { q with epochStalls := q.epochStalls - (smapGet excDflt held (stallKey p)).toNat }
    if q = Port.init then none else some (p, q))

/-- The counts restart at a blaze or a RESTORE: the values of the drain point become the beginning of the epoch;
CA_OVERRUN is cleared (R106, R401, R514). -/
def excRestart (s : State) : State :=
  let ports := portsEpoch s.drainExc s.ports
  let s := { s with
    regs := s.regs.filter (fun x => !isOverrun x.1)
    ports := ports
    excSat := []
    hostStall := ports.any (fun x => x.2.epochStalls ≠ 0) }
  let s := (servicePhys s).foldl (fun s p => putStand p { standOf s p with slots := 0, holdSlots := 0, serviceHolds := 0, markedSteps := 0 } s) s
  let laps := (servicePhys s).foldl (fun m p => smapSet excDflt m p ((standOf s p).laps : Int)) []
  let base := s.drainExc.filter (fun x => suView (x.1 / 64) = 2 && !isOverrun (x.1 / 64))
  { s with excBase := base.foldl (fun m x => smapSet excDflt m x.1 x.2) laps }

/-- The memory key of byte b of a stand's blaze area (R500). -/
def blzKey (base p b : Nat) : Nat := dramKey p (b / 0x10000 % 64) (base + b / 0x400000 * 0x10000 + b % 0x10000)

/-- The byte of the blaze area at a slice place. -/
def blzByteOf (base sl off : Nat) : Nat := (off - base) / 0x10000 * 0x400000 + sl * 0x10000 + (off - base) % 0x10000

/-- Put bytes into a blaze area. -/
def blzPut (base p b : Nat) (bs : List Byte) (s : State) : State :=
  (granulePieces 0x10000 (bs.length / 0x10000 + 2) b bs.length).foldl
    (fun s (a, n) => memSplice (blzKey base p a) ((bs.drop (a - b)).take n) s) s

/-- Bytes of a blaze area. -/
def blzGet (s : State) (base p b n : Nat) : List Byte := (List.range' b n).map (fun i => memByte s (blzKey base p i))

/-- Does a DRAM key of a stand lie in a range of its blaze area? -/
def inBlz (base p lo len k : Nat) : Bool :=
  let (sl, off) := keySlice k
  k < 2 ^ 47 && k / (64 * sliceBytes) = p && decide (base ≤ off ∧ off < 0x27F00000 ∧ lo ≤ blzByteOf base sl off ∧ blzByteOf base sl off < lo + len)

/-- Array and offset of an SRAM key. -/
def sramPlace (k : Nat) : Nat × Nat := ((k - 2 ^ 47) / 2 ^ 19 % 4096, (k - 2 ^ 47) % 2 ^ 19)

/-- Is an SRAM byte of a stand saved by a blaze: core memory, or a live slot of a memory array (R99, R186)? -/
def sramSaved (s : State) (lg k : Nat) : Bool :=
  let (a, o) := sramPlace k
  if isMemIdx a then slotClass s.image lg a (o / 64) = 1 else decide (o < 0x10000)

/-- An uncorrectable word of the SRAM that a blaze saves of a stand is listed (R498). -/
def saveWord (p : Nat) (s : State) (w : Nat) : State :=
  if keyOfStand p (8 * w) = true ∧ 2 ^ 47 ≤ 8 * w ∧ sramSaved s (logicalOf s p) (8 * w) = true ∧ (readWord s (8 * w)).isNone = true then
    taint stUncorrectable (BitVec.ofNat 64 (8 * w - p * 2 ^ 31 + logicalOf s p * 2 ^ 31)) s
  else s

/-- SRAM as BLZ_SAVE delivers it: corrected, and zeros in a slot with an uncorrectable word (R498). -/
def deliveredMem (s : State) (p : Nat) : List Host.Cell :=
  let mine := s.upset.filter (fun x => keyOfStand p (8 * x.1) && decide (2 ^ 47 ≤ 8 * x.1))
  let m := mine.foldl (fun m x => match readWord s (8 * x.1) with
    | some (d, _) => smapSplice memDflt m (8 * x.1) (bytesLE 8 d.toNat)
    | none => m) (s.mem.filter (fun c => decide (2 ^ 47 ≤ c.1) && keyOfStand p c.1))
  (mine.filter (fun x => (readWord s (8 * x.1)).isNone)).foldl (fun m x =>
    smapSplice memDflt m (8 * x.1 / 64 * 64) (List.replicate 64 0)) m

/-- The registers that a blaze saves and a RESTORE puts back (R99, R153, R186, R201, R280, R321). -/
def snapReg (k : Nat) : Bool :=
  let u := suIndex k
  let cls := suClass k
  let off := suOff k
  if suView k = 0 then cls = 8 && off = 0
  else if suView k ≠ 2 then false
  else if cls = 1 then (decide (0x40 ≤ off ∧ off < 0x80)) || (decide (0x100 ≤ off ∧ off < 0x500) && off % 0x20 = 8)
  else if cls = 2 then true
  else if cls = 11 then off = 0
  else if cls = 14 then (List.range 4).any (fun i => off = suOff (NodeSteerState.key 0 0 i))
  else if cls = 15 then
    if isMemIdx u then (List.range 3).any (fun g => off = suOff (MaGenState.key 0 u g) || off = suOff (MaGenSeq.key 0 u g))
    else off = suOff (CaBtnState.key 0 u) || (List.range 6).any (fun c => off = suOff (CaCtrState.key 0 u c) || off = suOff (CaCtrStatus.key 0 u c)) ||
      (List.range 8).any (fun i => off = suOff (CaArithFlags.key 0 u i) || off = suOff (CaSrCount.key 0 u i) ||
        off = suOff (CaStageStatus.key 0 u i))
  else false

/-- The BOUND_VALID bits (as keys of CA_CTR_STATUS_c) of the counters of the in-service stands whose bound comes from a
baton: the others store the bit inverted (R154, R158). -/
def batonBounds (s : State) : List Nat :=
  let ps := servicePhys s
  (s.regs.filter (fun x => suView x.1 = 2 && suClass x.1 = 15 && !isMemIdx (suIndex x.1) && ps.contains (suStand x.1) &&
    decide (0x600 ≤ suOff x.1 ∧ suOff x.1 < 0x6C0) && suOff x.1 % 0x20 = 0 && fldGet CaCtrCfg.boundSrc x.2 = 1)).map (fun x =>
      CaCtrStatus.key (suStand x.1) (suIndex x.1) ((suOff x.1 - 0x600) / 0x20))

/-- The blaze of the current epoch as it is taken (R502), in the in-service stands. -/
def takeSnap (s : State) : Snap :=
  let ps := servicePhys s
  let mine (k : Nat) : Bool := ps.any (fun p => keyOfStand p k && sramSaved s (logicalOf s p) k)
  { epoch := s.epoch, time := drainTime s
    regs := (s.regs.filter (fun x => !isTallyCount x.1) ++ s.drainTallies).filter (fun x =>
      snapReg x.1 && (suView x.1 = 0 || ps.contains (suStand x.1)))
    mem := (ps.flatMap (deliveredMem s)).filter (fun c => mine c.1)
    tags := s.tags.filter (fun t => mine (64 * t.1))
    laps := ps.foldl (fun m p => smapSet (fun _ => (0 : Nat)) m p (standOf s p).laps)
      ((s.arrays.filter (fun x => x.2.lapsBeat ≠ 0)).map (fun x => (x.1, x.2.lapsBeat)))
    finished := (s.hubQs.filter (fun x => x.2.finished && decide (x.1 % 32 < 28) && ps.contains (x.1 / 32))).map (·.1)
    gul := s.gul, tainted := s.tainted, taints := s.taints, parityOf := [], bound := batonBounds s }

/-- The number of compute arrays, or of memory arrays, below an array in ascending y × 64 + x. -/
def computeRank (a : Nat) : Nat :=
  let (x, y) := (a % 64, a / 64)
  y / 2 * 96 + if y % 2 = 0 then x else 64 + x / 2
def memRank (a : Nat) : Nat := a / 64 / 2 * 32 + a % 64 / 2

/-- The live slots of a logical stand in the order in which a blaze saves them (R502). -/
def liveList (b : List Byte) (lg : Nat) : List (Nat × Nat) :=
  let arrs := ((((imgSlotClasses b).filter (fun x => x.1 = lg)).map (fun x => x.2.1) ++
    ((imgSramInits b).filter (fun x => x.1 = lg)).map (fun x => x.2.1)).dedup.filter isMemIdx).mergeSort (· ≤ ·)
  arrs.flatMap (fun a => ((List.range 8192).filter (fun n => slotClass b lg a n = 1)).map (fun n => (a, n)))

/-- Tag bits of the slots of an array as bytes, slot 0 in bit 0 of the first. -/
def tagBytes (s : State) (p a n : Nat) : List Byte :=
  (List.range (n / 8)).map (fun i => BitVec.ofNat 8 ((List.range 8).foldl (fun v j => v + if tagOf s (slotKey p a (8 * i + j)) then 2 ^ j else 0) 0))

/-- Put an array's tag bits where any is FULL; the buffer has been cleared. -/
def putTagBytes (base p a n b : Nat) (s : State) : State :=
  if s.tags.any (fun t => t.1 / 8192 = slotKey p a 0 / 8192) then blzPut base p b (tagBytes s p a n) s else s

/-- A register-block image of a unit: each register at its offset, as it shows (R502); those below `low` left out. -/
def blockImage (s : State) (p cls u low : Nat) : List Byte :=
  (List.range 512).flatMap (fun i =>
    let k := standKey p cls u (8 * i)
    bytesLE 8 (if low ≤ 8 * i ∧ (regDescOf k).isSome then (shown s k).toNat else 0))

/-- The offsets of the regions of a buffer, from its beginning: KIND, offset, length; a region of length 0 is omitted. -/
def regionTable (b : List Byte) (lg : Nat) : List (Nat × Nat × Nat) :=
  ((blazeRegions b lg).foldl (fun (x : List (Nat × Nat × Nat) × Nat × Nat) n =>
    let (l, kind, off) := x
    (if n = 0 then l else l ++ [(kind, off, n)], kind + 1, off + pageUp n)) ([], 1, 4096)).1

/-- The 4 KiB header of a buffer (R501), HDR_CHECK as given. -/
def blzHeader (s : State) (p check : Nat) : List Byte :=
  let lg := logicalOf s p
  let rt := regionTable s.image lg
  let b (x : Bool) (i : Nat) : Nat := if x then 2 ^ i else 0
  let taints := s.taints.flatMap (fun (st, a) =>
    bytesLE 8 a.toNat ++ bytesLE 2 st.toNat ++ [if a.toNat < 2 ^ 47 then 1 else 0] ++ List.replicate 5 0)
  bytesAt (bytesLE 8 s.epoch ++ bytesLE 8 (imgId s.image) ++ [BitVec.ofNat 8 lg, BitVec.ofNat 8 p] ++ bytesLE 2 s.plan ++ bytesLE 4 check ++
    bytesLE 8 (standOf s p).laps ++ bytesLE 8 (drainTime s).toNat ++ bytesLE 4 (saveSize s.image lg) ++ bytesLE 2 rt.length ++
    bytesLE 2 s.taints.length ++
    bytesLE 4 (b s.tainted 0 + b (lg = 0) 1 + b (decide (32 < s.taintCount)) 2) ++ List.replicate 12 0 ++ standExc s p ++
    bytesAt taints 0 512 ++
    rt.flatMap (fun (k, o, n) => bytesLE 8 o ++ bytesLE 4 n ++ bytesLE 2 k ++ bytesLE 2 0xFFFF)) 0 4096

/-- What HDR_CHECK covers (R308, R501): the fold of EPOCH × 256 or the logical stand, then the header with the field 0. -/
def blzCovered (epoch lg : Nat) (hdr : List Byte) : List Byte :=
  bytesLE 8 (epoch * 256 + lg) ++ hdr.take 20 ++ List.replicate 4 0 ++ hdr.drop 24

/-- HDR_CHECK (R308, R501): CRC-32C. -/
def blzCheck (epoch lg : Nat) (hdr : List Byte) : Nat :=
  crcResult crc32cParams (crcFeed crc32cParams crc32cParams.init (blzCovered epoch lg hdr))

/-- A list of bit vectors or numbers as numbers, with its length before it. -/
def natList {α : Type} (f : α → Nat) (l : List α) : List Nat := l.length :: l.map f

/-- A session as numbers. -/
def sessNats (x : Nat × GSess) : List Nat :=
  let g := x.2
  [x.1, g.state, g.port, g.ring, g.entry.toNat, g.reqId.toNat, g.held, g.next, g.first, g.made, g.eventNo, g.reserved, g.last.toNat] ++
    natList (fun t => t.toNat) g.prompt ++ natList id g.blocks.flatten

/-- What the regions of KIND 0x5, 0x7 and 0x8 of a stand hold (R502), as numbers: hub, queue and tap state with the
handle table; ring tallies, Gulem ring heads and taints; sessions, queue order, reservations, the free list and the
pages that await release. -/
def regionState (s : State) (p kind : Nat) : List Nat :=
  if kind = 5 then
    (s.regs.filter (fun x => suView x.1 = 2 && suStand x.1 = p && (suClass x.1 = 1 || suClass x.1 = 2) && snapReg x.1)).flatMap (fun x =>
      [suClass x.1, suIndex x.1, suOff x.1, x.2.toNat]) ++
    natList (fun x => x.1 % 32) (s.hubQs.filter (fun x => x.2.finished && x.1 / 32 = p && decide (x.1 % 32 < 28)))
  else if kind = 7 then
    (s.drainTallies.filter (fun x => suView x.1 = 0 && suClass x.1 = 8)).flatMap (fun x => [x.1, x.2.toNat]) ++
    (s.gul.rings.flatMap (fun x => [x.1, x.2.sqHead])) ++ s.taints.flatMap (fun x => [x.1.toNat, x.2.toNat])
  else (s.gul.step :: s.gul.sessions.flatMap sessNats) ++ natList id s.gul.queue ++ natList id s.gul.parked ++ natList id s.gul.free ++
    natList id s.gul.awaiting

/-- One region of a buffer (R502). Its bytes where their layout is given: core memories, live slots, register images and
tallies; in the others free values that only what the region holds decides (log entry 46). -/
def saveRegion (base p at0 : Nat) (m : List Host.Cell) (s : State) (r : Nat × Nat × Nat) : State :=
  let (kind, off, n) := r
  let lg := logicalOf s p
  let b := at0 + off
  let arrs := List.range 4096
  if kind = 1 then
    let s := m.foldl (fun s c =>
      let (a, o) := sramPlace c.1
      if isMemIdx a then s else blzPut base p (b + computeRank a * 65664 + o) [c.2] s) s
    (arrs.filter (fun a => !isMemIdx a)).foldl (fun s a => putTagBytes base p a 1024 (b + computeRank a * 65664 + 65536) s) s
  else if kind = 2 then
    let l := liveList s.image lg
    let s := (l.zip (List.range l.length)).foldl (fun s ((a, sl), i) =>
      let bs := smapGetMany memDflt m (sramKey p a (64 * sl)) 64
      if bs.all (· = 0) then s else blzPut base p (b + 64 * i) bs s) s
    (arrs.filter isMemIdx).foldl (fun s a => putTagBytes base p a 8192 (b + 64 * l.length + 1024 * memRank a) s) s
  else if kind = 3 then arrs.foldl (fun s a => blzPut base p (b + 4096 * a) (blockImage s p 15 a 0) s) s
  else if kind = 4 then (List.range 1024).foldl (fun s u => blzPut base p (b + 4096 * u) (blockImage s p 14 u 0x800) s) s
  else if kind = 6 then
    blzPut base p b ((List.range 1024).flatMap (fun i => bytesLE 8 (smapGet regReset s.drainTallies (TlyCount.key false p i)).toNat)) s
  else
    let held := regionState s p kind
    blzPut base p b ((List.range n).map (fun i => (Config.regionWord kind held i).setWidth 8)) s

/-- The blaze engine feeds a check-value unit of its stand by parameters of its own (R308, R309): V and BYTES stay behind. -/
def blzFeed (poly : CrcParams) (p u : Nat) (bs : List Byte) (s : State) : State :=
  rfput (CvuStatus.key false p u) CvuStatus.bytes bs.length
    (rput (CvuValue.key false p u) (BitVec.ofNat 64 (crcFeed poly poly.init bs)) s)

/-- Is one of the first `n` check-value units of an in-service stand owned (R302, R309)? -/
def unitsOwned (s : State) (n : Nat) : Bool :=
  (servicePhys s).any (fun p => (List.range n).any (fun u => cvuOwned s false p u))

/-- BLZ_SAVE in one stand (R308, R498, R500 to R502): its buffer of the epoch is written whole. -/
def saveStand (s : State) (p : Nat) : State :=
  match imgBlaze s.image with
  | none => s
  | some (base, len, _) =>
    let lg := logicalOf s p
    let at0 := s.epoch % 2 * len
    let s := putCells p (inBlz base p at0 (saveSize s.image lg)) [] s
    let s := (regionTable s.image lg).foldl (saveRegion base p at0 (deliveredMem s p)) s
    let s := blzPut base p at0 (blzHeader s p (blzCheck s.epoch lg (blzHeader s p 0))) s
    ctlDesc p 8 stDone (blzFeed crc32cParams p 0 (blzCovered s.epoch lg (blzHeader s p 0)) s)

/-- BLZ_SAVE in every in-service stand, the events that it finds being listed first (R497, R498). -/
def blazeSave (s : State) : State :=
  let ps := logicalPhys s
  let s := (ps.flatMap (fun p => s.upset.map (fun x => (p, x.1)))).foldl (fun s (p, w) => saveWord p s w) s
  let snap := takeSnap s
  { ps.foldl saveStand s with saving := some snap }

/-- What refuses a blaze (R358, R508, R153): its status and LOCATION. -/
def blazeRefusal (s : State) : Find :=
  if (imgBlaze s.image).isNone then some (stBadState, locNone)
  else
    match (standsOut s).head? with
    | some p => some (stStandFenced, locStand s p)
    | none => (notDrained s).map (fun l => (stNotDrained, l))

/-- BLAZE (R350, R506): steps 1 to 3. It waits while a descriptor owns unit 0 of a stand (R302, R308). -/
def doBlaze (c : Cmd) (s : State) : State :=
  issueVerb 4 c (c.zero 16 48) (fun s =>
    if s.mode ≠ .drained then refuse c stBadState locNone s
    else
      match blazeRefusal s with
      | some (st, loc) => refuse c st loc s
      | none => if unitsOwned s 1 then noteVerb 4 c s else beginLong 4 c (blazeSave s)) s

def execBlaze (c : Cmd) (s : State) : Host.Outcome State Fault Refusal := .next (doBlaze c s)

/-- What unit k covers of a stand's signature (R309, R410): its fold, and its part of the committed state, which is the buffer
without the header and from the ring record on. -/
def signPart (s : State) (base len p e lg k : Nat) : List Byte :=
  let n := (((blazeRegions s.image lg).take 6).map pageUp).sum
  let part := (n / 8 + 63) / 64 * 64
  let lo := min n (part * k)
  bytesLE 8 (e * 65536 + lg * 256 + k) ++ blzGet s base p (e % 2 * len + 4096 + lo) (min n (part * (k + 1)) - lo)

/-- The signature of a stand (R309, R409): eight results, one of each unit. -/
def signStand (poly : CrcParams) (s : State) (e lg : Nat) : List Byte :=
  match imgBlaze s.image, inService s lg with
  | some (base, len, _), some p =>
    (List.range 8).flatMap (fun k => bytesLE 8 (crcResult poly (crcFeed poly poly.init (signPart s base len p e lg k))))
  | _, _ => List.replicate 64 0

/-- The polynomial that SIG_POLY of the SET_LOCKSTEP in force names (R309). -/
def signPoly (s : State) : CrcParams :=
  if s.lsOn.sigPoly = 0 then crc64Params else if s.lsOn.sigPoly = 1 then crc32cParams else crc32Params

/-- The units of a stand that has signed. -/
def signUnits (e p : Nat) (s : State) : State :=
  match imgBlaze s.image with
  | some (base, len, _) =>
    ctlDesc p 8 stDone ((List.range 8).foldl (fun t k =>
      blzFeed (signPoly s) p k (signPart s base len p e (logicalOf s p) k) t) s)
  | none => s

/-- BLZ_SIGN in every stand, and the own block of the epoch (R309, R409). -/
def blazeSign (e : Nat) (s : State) : State :=
  if lsMode s then
    let block := (List.range 56).flatMap (signStand (signPoly s) s e)
    lsOwnBlock e block ((logicalPhys s).foldl (fun s p => signUnits e p s) s)
  else s

/-- XOR a log's records into a stand's slices (R506, R514). -/
def applyLog (p : Nat) (l : List LogRec) (s : State) : State :=
  l.foldl (fun s r =>
    let k := dramKey p r.slice r.off
    let old := smapGetMany memDflt s.mem k 64
    memSplice k (vecBytes (ofVecBytes old ^^^ r.xor)) s) s

/-- BLZ_PARITY of the stands of one group (R292, R505, R506): the parity of the buffer written, and of the mutable
regions by what the 14 logs hold up to the drain point, or from the regions themselves, less what has been written since
then, where a log of the group is full. -/
def commitGroup (e g : Nat) (s : State) : State :=
  match groupStandby s g, imgBlaze s.image with
  | some p, some (base, len, _) =>
    let ps := groupStands s g
    let early (q : Nat) : List LogRec := (logOf s q).cur.take (logOf s q).mark
    let late (q : Nat) : List LogRec := (logOf s q).cur.drop (logOf s q).mark
    let s := if ps.any (fun q => (logOf s q).full) then ps.foldl (fun s q => applyLog p (late q) s) (buildParity g s)
      else ps.foldl (fun s q => applyLog p (early q) s) s
    let s := putCells p (inBlz base p (e % 2 * len) len) (xorCells p ps (fun q k => inBlz base q (e % 2 * len) len k) s.mem) s
    let s := ps.foldl (fun s q => ctlDesc q 8 stDone s) s
    rput (RgrPar.key g) (fldSet RgrPar.prot (fldSet RgrPar.state (fldOf RgrPar.standby p) 1) e) s
  | _, _ => s

/-- Steps 4 to 6 of R506 after a save: groups commit, logs rotate, the epoch is retired and the next begins. What was written
after the drain point is of the next epoch (R321, R515). -/
def blazeCommit (x : Snap) (s : State) : State :=
  let e := s.epoch
  let s := blazeSign e s
  let s := (List.range 4).foldl (fun s g => commitGroup e g s) s
  let exc := moduleExc s
  let s := (List.range 16).foldl (fun s k => rput (RgrExc.key k) (BitVec.ofNat 64 (numAt exc (8 * k) 8)) s) s
  let snap : Snap := { x with tainted := s.tainted, taints := s.taints, parityOf := (List.range 4).filter (fun g => (groupStandby s g).isSome) }
  let old := if s.logs.any (fun l => l.2.full) || rf s RgrBlzState.key RgrBlzState.substituted = 1 then [] else s.snaps.take 1
  let s := excRestart s
  let s := rput RgrBlzTime.key x.time (rput RgrBlzLast.key (BitVec.ofNat 64 e) (rfput RgrBlzState.key RgrBlzState.substituted 0 s))
  gulBlazed { s with
    logs := s.logs.filterMap (fun (p, l) => if l.cur.isEmpty then none
      else some (p, ⟨l.cur.drop l.mark, l.cur.take l.mark, false, 0⟩))
    snaps := snap :: old, saving := none, epoch := e + 1, tainted := false, taints := [], taintCount := 0, planChanged := false }

/-- The boundary of a service image whose blaze has ended goes on to the next step, unless a DRAIN holds it (R384, R385). -/
def boundaryGoesOn (s : State) : State :=
  if s.draining then s else goOnStands (gulNextStep { s with mode := .running })

/-- BLAZE_COMMIT (R506): every protected group has staged its logs. A signature waits until every unit is free (R309). -/
def doBlazeCommit (s : State) : State :=
  match s.saving with
  | none => s
  | some x =>
    if lsMode s && unitsOwned s 8 then s
    else
    let at0 := s.gul.blazing
    let s := blazeCommit x s
    if at0 then boundaryGoesOn s
    else endLong stDone (BitVec.ofNat 64 x.epoch) 0 s

def execBlazeCommit (s : State) : Host.Outcome State Fault Refusal := .next (doBlazeCommit s)

/-- The blaze of a boundary has failed (R385): the module stays DRAINED there, and the status is reported. -/
def boundaryFails (st : Status) (loc : Word) (s : State) : State :=
  report st false 0 loc 0 (bytesLE 8 s.gul.step) { s with gul := { s.gul with waiting := true, blazing := false } }

/-- Does a stand's lap end with the slot in course, or stands it before its first position (R202, R358)? A lap that its own
stages hold, and an idle lap, go on. -/
def atLapEnd (s : State) (p : Nat) : Bool :=
  let d := standOf s p
  !d.started || decide (s.lapLen ≤ d.pos) ||
    (decide (d.pos + 1 = s.lapLen) && decide (d.idleLeft = 0) && !(stageHolds p s).1)

/-- A stand that runs ends its slot, which ends its lap. -/
def endLap (p : Nat) (s : State) : State :=
  let wraps := (standOf s p).started && decide ((standOf s p).pos + 1 = s.lapLen) && !(standOf s p).lapped
  let s := if (standOf s p).started then slotOver p s else s
  if wraps then countLap p s else s

/-- The stands stop at a boundary of a service image, where a lap ends (R358, R384). -/
def boundaryStops (s : State) : State :=
  let ps := servicePhys s
  let s := ps.foldl (fun s p => putStand p { standOf s p with started := false, drained := true } (endLap p s))
    { s with gul := { s.gul with waiting := true } }
  holdDrain (ps.foldl (fun s p => writeTraces p s) s)

/-- GULEM_BOUNDARY (R384, R385): the first five actions; then the blaze of a step that is a multiple of BLAZE_EVERY, a
drain that has been asked for, or the next step. A blaze waits for unit 0 of every stand (R302). The boundary that stops
the module falls where the lap of every stand ends, and every boundary is a drain point, at which the traces are written
(R358, R416). -/
def doGulemBoundary (logits : List (BitVec 16 × List (BitVec 32))) (s : State) : State :=
  match imgService s.image with
  | none => s
  | some v =>
    let blaze : Bool := v.blazeEvery ≠ 0 ∧ s.gul.step % v.blazeEvery = 0
    if s.mode ≠ .running ∨ s.gul.waiting = true ∨ (List.range 4).all (rangerRuns s) = false ∨ (blaze && unitsOwned s 1) = true ∨
        ((blaze || s.draining) && !(servicePhys s).all (atLapEnd s)) = true then s
    else
      let s := gulActions v logits s
      let s := { s with gul := { s.gul with ended := true } }
      if blaze then
        let s := putPhases 3 (boundaryStops { s with mode := .drained })
        match blazeRefusal s with
        | some (st, loc) => boundaryFails st loc s
        | none =>
          let s := blazeSave s
          { s with gul := { s.gul with blazing := true } }
      else if s.draining then boundaryStops s
      else gulNextStep ((servicePhys s).foldl (fun s p => writeTraces p s) s)

def execGulemBoundary (logits : List (BitVec 16 × List (BitVec 32))) (s : State) : Host.Outcome State Fault Refusal :=
  .next (doGulemBoundary logits s)

end Sys2Proof.Machine
end

