-- ==== Sys2Proof/Machine/Mgmt.lean ====
section
/-!
DEFINITION. Management sessions (R521 to R527), firmware (R530 to R532), the security engine's services and tests (R535
to R537), SPDM (R539), the debug port (R540), FUSE_WRITE (R543, R544) and standby power (R27, R561).
-/

namespace Sys2Proof.Machine

/-- Send a message to a session. -/
def sessSend (k : Nat) (m : MgmtMsg) (s : State) : State :=
  match sessOf s k with
  | some v => putSess k (some { v with out := v.out ++ [m] }) s
  | none => s

/-- A message of a session counts in its SEQ (R523). -/
def sessCount (k : Nat) (s : State) : State :=
  match sessOf s k with
  | some v => putSess k (some { v with seqIn := v.seqIn + 1 }) s
  | none => s

/-- A message arrives with a SEQ (R523): a wrong one ends the session. A session that is not open sends nothing. -/
def sessMsg (k : Nat) (seq : Word) (f : State → State) (s : State) : State :=
  match sessOf s k with
  | none => s
  | some v => if seq.toNat = v.seqIn then f (sessCount k s) else endSession k s

/-- The first free session of a protocol on a port, of four (R521). -/
def openSlot (s : State) (m proto : Nat) : Option Nat :=
  (List.range 4).find? (fun i => (sessOf s (sessKey m proto i)).isNone)

/-- Is a management port's link down (R557)? -/
def cageDown (s : State) (m : Nat) : Bool := smapGet tagDflt s.cages m

/-- Does a port serve a protocol: the boot sessions of the boot ROM before firmware runs, the others from then (R27,
R530)? -/
def protoServed (s : State) (proto : Nat) : Bool := if fwVerified s then proto == 0 || proto == 1 else proto == 2

/-- MGMT_SESSION_OPEN (R521, R522, R530): a connection beyond four is closed without a handshake; a client whose chain ends
in no trust anchor in force, or that does not prove its key, fails. -/
def doSessionOpen (m proto : Nat) (peer : BitVec 128) (anchor : BitVec 384) (proved : Bool) (s : State) : State :=
  if cageDown s m || !protoServed s proto || !secServes s then s
  else
    match openSlot s m proto with
    | none => s
    | some i =>
      if proved && (trustAnchors s).contains anchor then
        putSess (sessKey m proto i) (some ⟨BitVec.ofNat 2 proto, peer, 0, 0, [], false, [], [], []⟩) s
      else
        report stMgmtAuthFail false 0 locNone 0 (bytesLE 1 m ++ bytesLE 16 peer.toNat) { s with authFails := s.authFails + 1 }

def execMgmtSessionOpen (mport : BitVec 1) (proto : BitVec 2) (peer : BitVec 128) (chainAnchor : BitVec 384) (proved : Bool)
    (s : State) : Host.Outcome State Fault Refusal :=
  .next (doSessionOpen mport.toNat proto.toNat peer chainAnchor proved s)

/-- MGMT_SESSION_END (R524): the client closes it, or the port's link is lost. -/
def execMgmtSessionEnd (mport : BitVec 1) (proto : BitVec 2) (session : BitVec 2) (s : State) :
    Host.Outcome State Fault Refusal :=
  .next (endSession (sessKey mport.toNat proto.toNat session.toNat) s)

/-- SUBSCRIBE (R523, R526). -/
def doSubscribe (k : Nat) (seq kinds : Word) (s : State) : State :=
  sessMsg k seq (fun s => match sessOf s k with
    | some v => putSess k (some { v with kinds := kinds }) s
    | none => s) s

def execSubscribe (mport : BitVec 1) (session : BitVec 2) (seq : Word) (kinds : Word) (s : State) :
    Host.Outcome State Fault Refusal :=
  .next (doSubscribe (mgmtKey mport session) seq kinds s)

/-- TRANSCEIVER_CHANGE (R557): an unsupported transceiver leaves its port down, and removal ends its sessions. -/
def doTransceiver (m : Nat) (up : Bool) (s : State) : State :=
  let s := { s with cages := smapSet tagDflt s.cages m (!up) }
  if up then s else endSessionsOf (fun k => k / 16 == m) s

def execTransceiverChange (mport : BitVec 1) (inserted : Bool) (supported : Bool) (s : State) :
    Host.Outcome State Fault Refusal := .next (doTransceiver mport.toNat (inserted && supported) s)

/-- FUSE_WRITE's LEN and CHECK (R543). -/
def fuseLen (c : Cmd) : Nat := c.num 16 4
def fuseCheck (c : Cmd) : Nat := c.num 20 4

/-- The lowest blank spare generation (R543). -/
def blankGen (s : State) : Option Nat := [1, 2, 3, 4, 5, 6, 7, 8].find? (fun g => (fuseOf s g).state = 0)

/-- The staged content of a FUSE_WRITE. -/
def staged (s : State) (n : Nat) : List Byte := smapGetMany memDflt s.otpStage 0 n

/-- FUSE_WRITE past its body (R543, R544). -/
def fuseWriteRun (c : Cmd) (bad : Bool) (s : State) : State :=
  if fuseLen c = 0 ∨ 65536 < fuseLen c then refuse c stDescInvalid locNone s
  else
    match blankGen s with
    | none => refuse c stFuseExhausted locNone s
    | some g =>
      let bs := staged s (fuseLen c)
      if crc32c bs ≠ fuseCheck c then refuse c stFuseInvalid 0 s
      else
        match contentFault s g bs with
        | some o => refuse c stFuseInvalid (BitVec.ofNat 64 o) s
        | none =>
          if bad then retireVerb c stFuseProgramFail 0 locNone (putFuse g ⟨2, []⟩ s)
          else retireVerb c stDone (BitVec.ofNat 64 g) 0 (putFuse g ⟨1, bs⟩ s)

/-- FUSE_WRITE (R543). -/
def doFuseWrite (c : Cmd) (bad : Bool) (s : State) : State :=
  issueVerb 0x20 c (c.zero 24 40) (fuseWriteRun c bad) s

def execFuseWrite (c : Cmd) (readBackFails : Bool) (s : State) : Host.Outcome State Fault Refusal :=
  .next (doFuseWrite c readBackFails s)

/-- DEBUG_OPEN (R540). -/
def doDebugOpen (c : Cmd) (s : State) : State :=
  issueVerb 0x21 c (c.zero 18 46) (fun s =>
    let m := c.num 16 2
    if m = 0 ∨ 1440 < m then refuse c stDescInvalid locNone s
    else if !debugAllowed s then refuse c stDebugDenied locNone s
    else retireVerb c stDone 0 0 (report stDebugOpen false 0 locNone 0 []
      { s with dbg := { s.dbg with minutes := some m, ever := true } })) s

def execDebugOpen (c : Cmd) (s : State) : Host.Outcome State Fault Refusal := .next (doDebugOpen c s)

/-- The debug port closes. -/
def closeDebug (s : State) : State := { s with dbg := { s.dbg with minutes := none } }

/-- DEBUG_CLOSE (R540). -/
def execDebugClose (c : Cmd) (s : State) : Host.Outcome State Fault Refusal :=
  .next (issueVerb 0x22 c (c.zero 16 48) (fun s => retireVerb c stDone 0 0 (closeDebug s)) s)

/-- DEBUG_TIMEOUT (R540): the MINUTES have elapsed. -/
def execDebugTimeout (s : State) : Host.Outcome State Fault Refusal := .next (closeDebug s)

/-- SELFTEST (R536, R537), with the test that fails, 0 for none. -/
def doSelftest (c : Cmd) (failed : Nat) (s : State) : State :=
  issueVerb 0x23 c (c.zero 16 48) (fun s =>
    if failed = 0 ∧ secState s ≠ 3 then retireVerb c stDone 0 0 s
    else secError failed (retireVerb c stSecSelftest 0 locNone s)) s

def execSelftest (c : Cmd) (failedTest : BitVec 16) (s : State) : Host.Outcome State Fault Refusal :=
  .next (doSelftest c failedTest.toNat s)

/-- ENTROPY_TEST_FAIL (R536, R537): counted, and the engine enters its error state. -/
def doEntropyFail (test : Nat) (s : State) : State :=
  if secState s = 3 then s else secError test (rfsat SecStatus.key SecStatus.healthFails 1 s)

def execEntropyTestFail (test : BitVec 16) (s : State) : Host.Outcome State Fault Refusal :=
  .next (doEntropyFail test.toNat s)

/-- ENTROPY_POOL_REFILL (R61, R535): none in the error state (R537). -/
def doPoolRefill (p : Nat) (ws : List Lane) (s : State) : State :=
  if secServes s && isPhys p then putStand p { standOf s p with pool := (standOf s p).pool ++ ws } s else s

def execEntropyPoolRefill (phys : BitVec 6) (words : List Lane) (s : State) : Host.Outcome State Fault Refusal :=
  .next (doPoolRefill phys.toNat words s)

/-- IDE_KEY_PROGRAMMING (R535, R536): each programming has its known-answer test. -/
def doIdeKey (p : Nat) (key : BitVec 256) (pass : Bool) (s : State) : State :=
  if !secServes s then s
  else if !pass then (let (t, s) := freeTest s; secError t s)
  else
    let q := portOf s p
    putPort p { q with ideKey := key, status := if q.linkUp then fldSet IorPortStatus.ide q.status 1 else q.status } s

def execIdeKeyProgramming (port : BitVec 2) (key : BitVec 256) (katPass : Bool) (s : State) :
    Host.Outcome State Fault Refusal := .next (doIdeKey port.toNat key katPass s)

/-- A bundle's source as RGR_FW_STATUS shows it (R549). -/
def fwSourceCode : FwSource → Nat
  | .host _ => 2
  | .mgmt _ => 1

/-- A transfer begins (R530): STATE loading. -/
def fwBegins (src : FwSource) (total : Nat) (s : State) : State :=
  rfput RgrFwStatus.key RgrFwStatus.source (fwSourceCode src) (rfput RgrFwStatus.key RgrFwStatus.state 1
    { s with fw := { s.fw with source := some src, total := total, bytes := [], got := 0 } })

/-- A refusal of a bundle (R532): answered on its source, where a host port reads LAST_STATUS, and reported; the boot ROM
waits for another. -/
def fwRefused (st : Status) (s : State) : State :=
  let s := match s.fw.source with
    | some (.mgmt k) => sessSend k (.fw st) s
    | _ => s
  report st false 0 locNone 0 [] (fwWaits (some st) s)

/-- The bytes of a bundle that arrive at an offset. -/
def fwTake (o : Nat) (bs : List Byte) (s : State) : State :=
  { s with fw := { s.fw with bytes := smapSetMany memDflt s.fw.bytes o bs, got := s.fw.got + bs.length } }

/-- The longest bundle (R531). -/
def fwMax : Nat := 16777216

/-- A write of 1 to RGR_FW_CTL.GO starts the read of a bundle through the port (R530). -/
def fwGoes (p : Nat) (v : Word) (s : State) : Status × State :=
  if fldGet RgrFwCtl.go v = 0 then (stDone, s)
  else if rf s RgrFwStatus.key RgrFwStatus.state ≠ 0 then (stBadState, s)
  else (stDone, fwBegins (.host p) (rf s (RgrFwLen.key 0) RgrFwLen.len) s)

/-- Does a port's read of a bundle wait for its bytes, the write of GO having come by another row (log entry 23)? -/
def fwAwaits (s : State) (p : Nat) : Bool :=
  decide (rf s RgrFwStatus.key RgrFwStatus.state = 1 ∧ s.fw.source = some (.host p) ∧ s.fw.got = 0 ∧ s.fw.total ≠ 0)

/-- The bundle is read, or the read fails (R530, R553). -/
def fwRead (bundle : List Byte) (bad : Option Status) (s : State) : State :=
  match bad with
  | some st => fwRefused st s
  | none => fwTake 0 (bytesAt bundle 0 (min s.fw.total fwMax)) s

/-- FW_GO (R530): the write of GO with the bundle that the port then reads. -/
def doFwGo (p : Nat) (v : Word) (bundle : List Byte) (bad : Option Status) (s : State) : State :=
  if fwAwaits s p then fwRead bundle bad s
  else
    (viaWrite (.host (BitVec.ofNat 2 p)) (RgrFwCtl.key 0) (fun s =>
      let (st, t) := fwGoes p v s
      (st, if st = stDone ∧ fldGet RgrFwCtl.go v = 1 then fwRead bundle bad t else t)) s).2

def execFwGo (port : BitVec 2) (value : Word) (bundle : List Byte) (readFail : Option Status) (s : State) :
    Host.Outcome State Fault Refusal := .next (doFwGo port.toNat value bundle readFail s)

/-- The session that an FW_PUSH comes from: a boot session, or one of the record protocol once firmware runs. -/
def pushKey (s : State) (m i : Nat) : Nat :=
  if (sessOf s (sessKey m 2 i)).isSome then sessKey m 2 i else sessKey m 1 i

/-- FW_PUSH (R523, R530): the first source to begin is served; a verified module takes no further bundle. -/
def doFwPush (k o total : Nat) (bs : List Byte) (s : State) : State :=
  if (sessOf s k).isNone then s
  else if 65536 < bs.length then endSession k s
  else
    let s := sessCount k s
    let st := rf s RgrFwStatus.key RgrFwStatus.state
    if st = 2 ∨ (st = 1 ∧ s.fw.source ≠ some (.mgmt k)) then sessSend k (.fw stBadState) s
    else
      let s := if st = 0 then fwBegins (.mgmt k) total s else s
      if s.fw.total < o + bs.length ∨ fwMax < s.fw.total then fwRefused stFwInvalid s else fwTake o bs s

def execFwPush (mport : BitVec 1) (session : BitVec 2) (offset total : Word) (bytes : List Byte) (s : State) :
    Host.Outcome State Fault Refusal :=
  .next (doFwPush (pushKey s mport.toNat session.toNat) offset.toNat total.toNat bytes s)

/-- A component of a bundle by its table entry (R531). -/
structure FwComp where
  type : Nat
  offset : Nat
  length : Nat
  digest : BitVec 384
  deriving DecidableEq, Repr

/-- The entry of the component table at an offset, with its zero bytes (R531). -/
def fwComp (b : List Byte) (o : Nat) : FwComp × Bool :=
  (⟨numAt b o 1, numAt b (o + 4) 4, numAt b (o + 8) 4, digestNum (bytesAt b (o + 12) 48)⟩, numAt b (o + 1) 3 = 0)

/-- Is a component's extent within the bundle (R531, R532)? -/
def fwCompIn (b : List Byte) (x : FwComp) : Bool := decide (352 ≤ x.offset ∧ x.offset + x.length ≤ b.length)

/-- Step 1 of R532: MAGIC, the header's layout with one component of each TYPE, and the extents. -/
def fwLayout (b : List Byte) : Bool :=
  let x := fwComp b 24
  let y := fwComp b 84
  decide (352 ≤ b.length ∧ b.length ≤ fwMax ∧ numAt b 0 4 = 0x3157464A ∧ numAt b 4 1 ≤ 3 ∧ numAt b 5 3 = 0 ∧
    numAt b 12 4 = 2 ∧ numAt b 241 3 = 0 ∧ numAt b 340 12 = 0) &&
  decide ((x.1.type = 1 ∧ y.1.type = 2) ∨ (x.1.type = 2 ∧ y.1.type = 1)) && x.2 && y.2 && fwCompIn b x.1 && fwCompIn b y.1

/-- The component of a TYPE. -/
def fwCompOf (b : List Byte) (t : Nat) : FwComp := if (fwComp b 24).1.type = t then (fwComp b 24).1 else (fwComp b 84).1

/-- The digest of a component's bytes. -/
def fwDigest (b : List Byte) (x : FwComp) : BitVec 384 := digestNum (sha384 (bytesAt b x.offset x.length))

/-- The first failing step of R532. -/
def fwRefusal (s : State) (b : List Byte) : Option Status :=
  let slot := numAt b 4 1
  if fwLayout b = false then some stFwInvalid
  else if digestNum (sha384 (bytesAt b 144 97)) ≠ Config.keyHash slot then some stFwInvalid
  else if natBit (revokedSlots s) slot then some stFwKeyRevoked
  else if Config.ecdsaVerify (bytesAt b 144 97) (b.take 244) (bytesAt b 244 96) = false then some stFwInvalid
  else if numAt b 8 4 < svnFloor s then some stFwRollback
  else if fwDigest b (fwCompOf b 1) ≠ (fwCompOf b 1).digest ∨ fwDigest b (fwCompOf b 2) ≠ (fwCompOf b 2).digest then
    some stFwInvalid
  else none

/-- The bundle received. -/
def fwBundle (s : State) : List Byte := smapGetMany memDflt s.fw.bytes 0 s.fw.total

/-- FW_VERIFY (R532): a complete bundle is verified, and the Rangers start. -/
def doFwVerify (s : State) : State :=
  if rf s RgrFwStatus.key RgrFwStatus.state ≠ 1 ∨ s.fw.got < s.fw.total ∧ s.fw.got < fwMax ∨ secServes s = false then s
  else if fwMax < s.fw.total then fwRefused stFwInvalid s
  else
    let b := fwBundle s
    match fwRefusal s b with
    | some st => fwRefused st s
    | none =>
      rfput RgrFwStatus.key RgrFwStatus.svn (numAt b 8 4) (rfput RgrFwStatus.key RgrFwStatus.state 2
        { s with fw := { s.fw with
            ranger := some (fwDigest b (fwCompOf b 1))
            controller := some (fwDigest b (fwCompOf b 2))
            version := BitVec.ofNat 64 (numAt b 16 8) } })

def execFwVerify (s : State) : Host.Outcome State Fault Refusal := .next (doFwVerify s)

/-- A digest as the bytes of its measurement, the first byte most significant. -/
def digestBytes (d : BitVec 384) : List Byte := (bytesLE 48 d.toNat).reverse

/-- A measurement (R539). -/
def measurement (s : State) (i : Nat) : Option (List Byte) :=
  if i = 1 then some (digestBytes (Config.measurement 1))
  else if i = 2 then some (digestBytes (s.fw.ranger.getD 0))
  else if i = 3 then some (digestBytes (s.fw.controller.getD 0))
  else if i = 4 then some (digestBytes (fuseMeasurement s))
  else if i = 5 then some (digestBytes s.measure5)
  else if i = 6 then some [if s.dbg.minutes.isSome then 1 else if s.dbg.ever then 2 else 0]
  else if i = 7 then some (digestBytes (Config.measurement 7))
  else none

/-- CDI_0 and the DeviceID key (R538), the same at every power-up. -/
def cdi0 : List Byte := hmac384 Config.uds (digestBytes (Config.measurement 1))
def deviceKey : List Byte := hkdf384 cdi0 (Config.hkdfInfo 0)

/-- CDI_1 and the Alias key of verified firmware (R538). -/
def cdi1 (s : State) : List Byte := hmac384 cdi0 (digestBytes (s.fw.ranger.getD 0) ++ digestBytes (s.fw.controller.getD 0))
def aliasKey (s : State) : List Byte := hkdf384 (cdi1 s) (Config.hkdfInfo 1)

/-- The certificate chain of slot 0 (R538, R539), once firmware has been verified: the DeviceID certificate and the Alias
certificate that the DeviceID key issued. -/
def aliasChain (s : State) : Option (List Byte) :=
  if s.fw.ranger.isSome && s.fw.controller.isSome then
    some (Config.deviceCert ++ Config.aliasCert deviceKey (Config.p384Public (aliasKey s)))
  else none

/-- The response code of a request (SPDM 1.2), 0x7F ERROR for one that is not offered; a measurement's value, the
certificate chain or its digest stands in the response. -/
def spdmAnswer (s : State) : Spdm → Byte × Option (List Byte)
  | .getDigests =>
    (match aliasChain s with
      | some c => (0x01, some (sha384 c))
      | none => (0x7F, none))
  | .getCertificate slot =>
    (match aliasChain s with
      | some c => if slot = 0 then (0x02, some c) else (0x7F, none)
      | none => (0x7F, none))
  | .challenge _ => (0x03, none)
  | .getVersion => (0x04, none)
  | .getMeasurements i =>
    (match measurement s i.toNat with
      | some bs => (0x60, some bs)
      | none => (0x7F, none))
  | .getCapabilities => (0x61, none)
  | .negotiateAlgorithms => (0x63, none)
  | .keyExchange => (0x64, none)
  | .finish => (0x65, none)
  | .heartbeat => (0x68, none)
  | .keyUpdate => (0x69, none)
  | .endSession => (0x6C, none)
  | .other => (0x7F, none)

/-- The bytes of a response: its code and its content, which SPDM 1.2 lays down and the spec does not (a free value,
log entry 4), but for a measurement's value and the certificate chain (log entry 95). -/
def spdmBytes (req : Spdm) (s : State) : List Byte × State :=
  match spdmAnswer s req with
  | (c, some bs) => (c :: bs, s)
  | (c, none) => let (w, t) := draw s; (c :: bytesLE 8 w.toNat, t)

/-- Answer a host's DOE mailbox: the words of the response, under key 0. -/
def doeAnswer (via : Via) (bs : List Byte) (s : State) : State :=
  (List.range ((bs.length + 7) / 8)).foldl (fun s i => answerRead via 0 (BitVec.ofNat 64 (numAt bs (8 * i) 8)) s) s

/-- SPDM_REQUEST (R523, R539): by the DOE mailbox of a CXL port, or by the record protocol. -/
def doSpdm (via : Via) (i : BitVec 2) (req : Spdm) (s : State) : State :=
  match via with
  | .host p =>
    if !secServes s || !(portOf s p.toNat).linkUp then s
    else
      let (bs, s) := spdmBytes req s
      doeAnswer via bs s
  | .mgmt m =>
    if (sessOf s (mgmtKey m i)).isNone then s
    else
      let s := sessCount (mgmtKey m i) s
      if !secServes s then s
      else
        let (bs, s) := spdmBytes req s
        sessSend (mgmtKey m i) (.spdm bs) s
  | .debug => s
  | .ranger => s

def execSpdmRequest (via : Via) (session : BitVec 2) (req : Spdm) (s : State) : Host.Outcome State Fault Refusal :=
  .next (doSpdm via session req s)

/-- A module state as a number, in the order of R350. -/
def modeNum : ModState → Nat
  | .none => 0
  | .idle => 1
  | .loaded => 2
  | .running => 3
  | .drained => 4
  | .fenced => 5

def natWord (n : Nat) : Word := BitVec.ofNat 64 n

/-- Debug state, as measurement 6 gives it (R539). -/
def debugCode (s : State) : Nat := if s.dbg.minutes.isSome then 1 else if s.dbg.ever then 2 else 0

/-- The contents of a Redfish resource (R527), in the order of the table. -/
def redfishValues (s : State) (events : List (BitVec 16)) : Redfish → Nat × List Word
  | .root => (0, [])
  | .chassis => (1, [natWord orderCode, Config.fipsCertificate, rg s OtpId.key, otpGradeWord, natWord (modeNum s.mode), natWord (bringResult s)])
  | .sensors => (2, physList.map (fun p => rg s (PwrStandTemp.key p)) ++ [rg s PwrRingTemp0.key, rg s PwrRingTemp1.key,
      rg s PwrInput.key, natWord (rf s PwrStatus.key PwrStatus.estimate), rg s PwrEnergy.key])
  | .power => (3, [natWord (rf s PwrCap.key PwrCap.cap), natWord (rf s PwrCeiling.key PwrCeiling.opCeiling),
      natWord (effectiveCap s), natWord (rf s PwrStatus.key PwrStatus.tl)])
  | .managers => (4, [s.fw.version, natWord (rf s RgrFwStatus.key RgrFwStatus.svn), natWord (debugCode s),
      natWord (secState s), rg s ClkTime.key, rg s ClkPpsStatus.key])
  | .events => (5, events.map (fun e => natWord e.toNat))
  | .subscribe _ => (5, events.map (fun e => natWord e.toNat))
  | .unsubscribe _ => (5, events.map (fun e => natWord e.toNat))

/-- The event subscriptions after a request (R527). -/
def redfishEvents (l : List (BitVec 16)) : Redfish → List (BitVec 16)
  | .subscribe i => if l.contains i then l else l ++ [i]
  | .unsubscribe i => l.filter (· ≠ i)
  | _ => l

/-- REDFISH_REQUEST (R526, R527): read-only, but for event subscriptions; a session with one receives reports of every
kind. -/
def doRedfish (k : Nat) (req : Redfish) (s : State) : State :=
  match sessOf s k with
  | none => s
  | some v =>
    let es := redfishEvents v.events req
    let (r, vs) := redfishValues s es req
    putSess k (some { v with events := es, kinds := if es.isEmpty then 0 else 0xF, out := v.out ++ [.redfish r vs] }) s

def execRedfishRequest (mport : BitVec 1) (session : BitVec 2) (req : Redfish) (s : State) :
    Host.Outcome State Fault Refusal := .next (doRedfish (sessKey mport.toNat 0 session.toNat) req s)

/-- Loss of standby power (R561): every state of the module is lost but the fuses. What lies outside the module stays: the
memories of hosts and peers, cables, PERST, transceivers, and the commands that wait. -/
def powerLost (s : State) : State :=
  { State.reset with
    pending := s.pending
    freeCtr := s.freeCtr
    fuses := s.fuses
    hostMem := s.hostMem
    peerMem := s.peerMem
    cages := s.cages
    ports := ((List.range 4).foldl (fun (t : State) p =>
      putPort p { Port.init with perst := (portOf s p).perst, cprsnt := (portOf s p).cprsnt } t) State.reset).ports }

def execStandbyPowerLoss (s : State) : Host.Outcome State Fault Refusal := .next (powerLost s)

/-- STANDBY_POWER_ON (R17, R27, R536): every register at its reset value, and the power-up tests run, with the test that
fails, 0 for none. -/
def doPowerOn (serial : Word) (failed : Nat) (s : State) : State :=
  let s := rput OtpId.key serial (powerLost s)
  if failed = 0 then rfput SecStatus.key SecStatus.state 1 s else secError failed s

def execStandbyPowerOn (serial : Word) (selfTestFails : BitVec 16) (s : State) : Host.Outcome State Fault Refusal :=
  .next (doPowerOn serial selfTestFails.toNat s)

end Sys2Proof.Machine
end

