-- ==== Sys2Proof/Machine/Recover.lean ====
section
/-!
DEFINITION. The recovery sequence: START and RESUME with the check of changed lap tables (R210, R350, R438), fences (R509),
plans (R510), RELOCATE (R226, R430, R511 to R513) and ASSIGN_PARITY (R518). RESTORE is in Restore.lean.
-/

namespace Sys2Proof.Machine

/-- The live registers as a configuration: the stands' registers keyed by logical number. -/
def liveView (s : State) : State :=
  { s with
    plan := 0xFFFF
    regs := (List.range 56).flatMap (fun lg =>
      match inService s lg with
      | none => []
      | some p => (s.regs.filter (fun x => decide (suView x.1 = 2 ∧ suStand x.1 = p))).map (fun x =>
          (x.1 - p * 2 ^ 34 + lg * 2 ^ 34, x.2))) }

/-- A node of a logical stand whose lap table or steering units a set-up write has changed (R210). -/
def changedNode (s : State) (lg n : Nat) : Bool :=
  match inService s lg with
  | none => false
  | some p => s.dirty.any (fun x => x.1 = nodeKey p n)

/-- A node that a changed table meets: it is changed, or a neighbour of it is, over a link or over a seam. -/
def meetsChanged (s t : State) (lg n : Nat) : Bool :=
  changedNode s lg n || (List.range 4).any (fun d => match nodeNbr n d with
    | some m => changedNode s lg m
    | none => match seamPartner s t lg n d with
      | some (lq, m) => changedNode s lq m
      | none => false)

/-- A node at which a route ends that comes through a changed table, however far off. -/
def endsChanged (s t : State) (lg n : Nat) : Bool :=
  (nodeConns t lg n).any (fun x => x.2.last &&
    (chainNodes t chainFuel x.2).any (fun k => changedNode s (k / 1024) (k % 1024)))

/-- What R209 finds at a node that a changed table meets, or at the end of a route through one (R210). -/
def recheckNode (s t : State) (lg n : Nat) : Find :=
  if meetsChanged s t lg n then lapFault s t lg n else if endsChanged s t lg n then creditFault s t lg n else none

/-- What START and RESUME find wrong in changed lap tables and steering units (R152, R209, R210). -/
def recheck (s : State) : Find :=
  let t := liveView s
  let each (f : Nat → Nat → Find) : Find := (List.range 56).findSome? (fun lg => (List.range 1024).findSome? (f lg))
  if s.dirty.isEmpty then none
  else firstFind [
    each (fun lg n => if meetsChanged s t lg n then
      (List.range 4).findSome? (fun u => need (!steerBad t lg n u) stImageInvalid (locCfg s t lg 0 u 0 0 n)) else none),
    each (recheckNode s t)]

/-- The module runs from position 0. -/
def setRunning (s : State) : State := startStands { s with dirty := [], mode := .running }

/-- What bars START and RESUME in an allowed state. -/
def startRefusal (s : State) : Find :=
  firstFind [recheck s, (gateRefusal s).map (fun loc => (stBadState, loc))]

/-- START (R202, R210, R350, R438). -/
def doStart (c : Cmd) (s : State) : State :=
  issueVerb 2 c (c.zero 16 48) (fun s =>
    if s.mode ≠ .loaded then refuse c stBadState locNone s
    else
      match startRefusal s with
      | some (st, loc) => refuse c st loc s
      | none => retireVerb c stDone 0 0 (setRunning s)) s

def execStart (c : Cmd) (s : State) : Host.Outcome State Fault Refusal := .next (doStart c s)

/-- RESUME (R202, R210, R350, R385, R438): a service image begins its next step. -/
def doResume (c : Cmd) (s : State) : State :=
  issueVerb 6 c (c.zero 16 48) (fun s =>
    if s.mode ≠ .drained then refuse c stBadState locNone s
    else
      match startRefusal s with
      | some (st, loc) => refuse c st loc s
      | none => retireVerb c stDone 0 0 (setRunning (gulNextStep s))) s

def execResume (c : Cmd) (s : State) : Host.Outcome State Fault Refusal := .next (doResume c s)

/-- Set ARRAY_STATE of an array as its register holds it; STOP_CODE is 0 when a memory array is not stopped (R197). -/
def putArrState (p a v : Nat) (s : State) : State :=
  if isMemIdx a then rfput (MaStatus.key p a) MaStatus.arrayState v
    (if v = 4 then s else rfput (MaStatus.key p a) MaStatus.stopCode 0 s)
  else rfput (CaStatus.key p a) CaStatus.arrayState v s

/-- The module states in which a fence is allowed (R350). -/
def fenceAllowed (s : State) : Bool := decide (s.mode = .running ∨ s.mode = .drained ∨ s.mode = .fenced)

/-- A fence (R509): the module stops, `mark` fences what is named, and the module is FENCED, not relocated. What travels
to the fenced stand, or through it, ends (R23, R229). -/
def fence (mark : State → State) (s : State) : State :=
  svcReroute (rfput RgrBlzState.key RgrBlzState.relocated 0 (mark { stopModule s with mode := .fenced }))

/-- FENCE_ARRAY (R350, R509). -/
def doFenceArray (c : Cmd) (s : State) : State :=
  let lg := c.num 16 1
  let x := c.num 17 1
  let y := c.num 18 1
  issueVerb 7 c (c.zero 19 45) (fun s =>
    if !fenceAllowed s then refuse c stBadState locNone s
    else if 55 < lg ∨ 63 < x ∨ 63 < y then refuse c stAddrReserved locNone s
    else retireVerb c stDone 0 0 (fence (fun s =>
      match physOf s lg with
      | some p => if roleOf s p = 5 then s else putArrState p (arrIdx x y) 5 s
      | none => s) s)) s

def execFenceArray (c : Cmd) (s : State) : Host.Outcome State Fault Refusal := .next (doFenceArray c s)

/-- FENCE_STAND (R350, R509). -/
def doFenceStand (c : Cmd) (s : State) : State :=
  let lg := c.num 16 1
  issueVerb 8 c (c.zero 17 47) (fun s =>
    if !fenceAllowed s then refuse c stBadState locNone s
    else if 55 < lg then refuse c stAddrReserved locNone s
    else retireVerb c stDone 0 0 (fence (fun s =>
      match physOf s lg with
      | some p => if roleOf s p = 5 then s else rfput (IorStandMap.key p) IorStandMap.role 3 s
      | none => s) s)) s

def execFenceStand (c : Cmd) (s : State) : Host.Outcome State Fault Refusal := .next (doFenceStand c s)

def shiftedDflt (_ : Nat) : List Nat := []

/-- The physical columns that a row of a stand passes over: its excluded sites (R474) and those that plans have shifted
past. -/
def rowOut (s : State) (p y : Nat) : List Nat := (rowSites s p y).map (·.1) ++ smapGet shiftedDflt s.shifted (p * 64 + y)

/-- The physical column of a logical array of a row that passes over some columns (R28, R29): even rows use their working
sites in order, odd rows those of each kind. -/
def colOf (out : List Nat) (y x : Nat) : Nat :=
  let work := (List.range 66).filter (fun c => !out.contains c && (y % 2 = 0 || c % 2 = x % 2))
  (work[if y % 2 = 0 then x else x / 2]?).getD 0

/-- The fenced arrays of every in-service stand: physical stand and array, in ascending logical number and index. -/
def allFenced (s : State) : List (Nat × Nat) := (logicalPhys s).flatMap (fun p => (fencedArrays s p).map (fun a => (p, a)))

/-- Does the row of a fenced array hold a working spare site of its kind, as for every fenced array of it (R30, R510)? -/
def shiftable (s : State) (x : Nat × Nat) : Bool :=
  let (p, a) := x
  let y := a / 64
  let out := rowOut s p y
  !rowOver y (out ++ ((fencedArrays s p).filter (fun b => b / 64 = y)).map (fun b => colOf out y (b % 64)))

/-- Does a plan apply (R510)? -/
def planApplies (s : State) (n : Nat) : Bool :=
  if n = 0 then (standsOut s).isEmpty
  else if n = 1 then (standsOut s).isEmpty && (allFenced s).all (shiftable s)
  else (standsOut s).map (logicalOf s) = [n - 0x100] && (groupStandby s ((n - 0x100) / 14)).isSome &&
    (imgPlans s.image).contains n && (allFenced s).all (shiftable s)

/-- SELECT_PLAN (R350, R510). -/
def doSelectPlan (c : Cmd) (s : State) : State :=
  let n := c.num 16 2
  issueVerb 9 c (c.zero 18 46) (fun s =>
    if s.mode ≠ .fenced then refuse c stBadState locNone s
    else if !(decide (n ≤ 1) || decide (0x100 ≤ n ∧ n ≤ 0x137)) then refuse c stDescInvalid locNone s
    else if !planApplies s n then refuse c stNoPlan locNone s
    else retireVerb c stDone 0 0 { s with planSel := some n }) s

def execSelectPlan (c : Cmd) (s : State) : Host.Outcome State Fault Refusal := .next (doSelectPlan c s)

/-- The stand that bears a logical number under a plan (R510). -/
def physUnder (s : State) (n lg : Nat) : Option Nat := if n = 0x100 + lg then groupStandby s (lg / 14) else physOf s lg

/-- The relay-clock sources of a plan, in ascending DEPTH of the new sources (R430): stand and side. -/
def planSources (s : State) (n : Nat) : List (Nat × Nat) :=
  let l := (imgPlan s.image n).filterMap (fun x =>
    match listKey x.1 with
    | some k => if k = ClkSrcSel.key (suStand k) then (physUnder s n (suStand k)).map (fun p => (p, fldGet ClkSrcSel.src x.2)) else none
    | none => none)
  l.mergeSort (fun a b => (sideOf s a.1 a.2).depth ≤ (sideOf s b.1 b.2).depth)

/-- Apply relay-clock sources in order (R430): the status and LOCATION of the first that R427 refuses, or the result. -/
def applySources : List (Nat × Nat) → State → Except (Status × Word) State
  | [], s => .ok s
  | (p, d) :: r, s =>
    match srcRefusal s p d with
    | some st => .error (st, locUnit (logicalOf s p) p 0 0 0 0 d)
    | none => applySources r (selectSource p d s)

/-- The keys that a register list names, by logical number. -/
def listedKeys (l : List (Nat × Word)) : List Nat := l.filterMap (fun x => listKey x.1)

/-- What RELOCATE writes in a stand that stays in service (R226, R511): the registers that the plan's set or the set last
applied lists, every register of a node that they list, and the arrays of shifted rows. Keys name logical stands. -/
def relocKeep (listed : List Nat) (rows : List (Nat × Nat)) (k : Nat) : Bool :=
  suClass k != 2 &&
  (listed.contains k ||
    (suClass k = 14 && listed.any (fun j => suClass j = 14 && suStand j = suStand k && suIndex j = suIndex k)) ||
    (suClass k = 15 && rows.contains (suStand k, suIndex k / 64)))

/-- A register's key with its stand's logical number in place of its physical index. -/
def logicalKey (s : State) (k : Nat) : Nat := k - suStand k * 2 ^ 34 + logicalOf s (suStand k) * 2 ^ 34

/-- Steps 5 and 6 of R511 in the stands that stay in service. -/
def relocWrites (n : Nat) (rows : List (Nat × Nat)) (s : State) : State :=
  let listed := listedKeys (imgPlan s.image n ++ imgPlan s.image s.lapSet)
  let keep := relocKeep listed rows
  let s := { s with regs := s.regs.filter (fun x =>
    !(suView x.1 = 2 && roleOf s (suStand x.1) = 1 && suClass x.1 != 0 && keep (logicalKey s x.1) && listMay false (logicalKey s x.1))) }
  let s := applyList keep (imgConfig s.image) s
  applyList (fun k => suClass k != 2 && (decide (0x100 ≤ n) || keep k)) (imgPlan s.image n) s

/-- The handle list of a plan is committed (R201). -/
def planHandles (n : Nat) (s : State) : State := applyList (fun k => suClass k = 2) (imgPlan s.image n) s

/-- A map keyed by units, `w` keys each from unit 0 at `b` × w, whose units move as `dst` says, or are lost. -/
def moveUnits {α : Type} [DecidableEq α] (d : Nat → α) (w b : Nat) (dst : Nat → Option Nat) (m : List (Nat × α)) : List (Nat × α) :=
  m.foldl (fun acc (k, v) =>
    if k / w < b then smapSet d acc k v
    else
      match dst (k / w - b) with
      | none => acc
      | some u => smapSet d acc ((u + b) * w + k % w) v) []

/-- The contents of arrays move with their sites: `dst` says, by stand × 4096 + array, which array a site now serves. -/
def moveContents (dst : Nat → Option Nat) (s : State) : State :=
  { s with
    mem := moveUnits memDflt (2 ^ 19) (2 ^ 28) dst s.mem
    upset := moveUnits upsetDflt (2 ^ 16) (2 ^ 28) dst s.upset
    tags := moveUnits tagDflt (2 ^ 13) (2 ^ 28) dst s.tags
    vtags := moveUnits vtagDflt (2 ^ 13) (2 ^ 28) dst s.vtags
    ob := moveUnits memDflt 16384 0 dst s.ob
    obBad := moveUnits badDflt 16384 0 dst s.obBad }

/-- The words of moved arrays of one row are read at addresses of the arrays that their sites now serve (R32). -/
def recodeRow (dst : Nat → Option Nat) (s : State) : State :=
  ((listedWords s).filter (fun w => decide (2 ^ 47 ≤ 8 * w))).foldl (fun s w =>
    let u := (8 * w - 2 ^ 47) / 2 ^ 19
    match dst u with
    | some v => if addrParity (2 ^ 19 * (u % 4096)) ≠ addrParity (2 ^ 19 * (v % 4096)) then flipParity w s else s
    | none => s) s

/-- The array that a site serves after a row's passed-over columns change from `o` to `o'`. The probe has left a site that
is new to the row zero and EMPTY (R473). -/
def rowMoves (p y : Nat) (o o' : List Nat) (u : Nat) : Option Nat :=
  if u / 4096 = p ∧ u % 4096 / 64 = y then
    ((List.range 64).find? (fun x => colOf o' y x = colOf o y (u % 64))).map (fun x => p * 4096 + arrIdx x y)
  else some u

/-- One fenced array of step 7 of R511: its site, or under a shift the site that is new to its row, is probed; it then
leaves ARRAY_STATE 0x5. `site` is the column that the array held when the RELOCATE began. The column when the probe fails. -/
def mendArray (n : Nat) (failed : List Site) (p a site : Nat) (s : State) : Except Nat State :=
  let y := a / 64
  let out := rowOut s p y
  let bad (c : Nat) : Bool := failed.any (fun x => x.phys.toNat = p && x.row.toNat = y && x.col.toNat = c)
  if n = 0 then
    if bad site then .error site
    else .ok (putArrState p a 0 (moveContents (fun u => if u = arrKey p a then none else some u) s))
  else
    let out' := out ++ [site]
    let used (o : List Nat) : List Nat := (List.range 64).map (colOf o y)
    let c := ((used out').find? (fun c => !(used out).contains c)).getD 0
    if bad c then .error c
    else
      let old := smapGet shiftedDflt s.shifted (p * 64 + y)
      .ok (putArrState p a 0 (moveContents (rowMoves p y out out') (recodeRow (rowMoves p y out out')
        { s with shifted := smapSet shiftedDflt s.shifted (p * 64 + y) (old ++ [site]) })))

/-- Step 7 of R511 over the fenced arrays in turn: the LOCATION of the first whose site fails, with what was done before it.
`at0` is the state in which the first array of the row in course found its row: a row in which a probe fails keeps the shift
it had. -/
def mendAll (n : Nat) (failed : List Site) : List (Nat × Nat × Nat) → Option (Nat × Nat × State) → State → Option Word × State
  | [], _, s => (none, s)
  | (p, a, site) :: r, at0, s =>
    let s0 := match at0 with
      | some (q, y, t) => if n ≠ 0 ∧ q = p ∧ y = a / 64 then t else s
      | none => s
    match mendArray n failed p a site s with
    | .error col => (some (locUnit (logicalOf s p) p a 0 0 0 col), s0)
    | .ok t => mendAll n failed r (some (p, a / 64, s0)) t

/-- Is a DRAM byte of a stand protected (R503): read-only, mutable protected, or in a blaze buffer? -/
def cellProtected (s : State) (p lg k : Nat) : Bool :=
  decide (cellClass s lg k ≤ 1) ||
    (match imgBlaze s.image with
      | some (base, len, _) => inBlz base p 0 (2 * len) k
      | none => false)

/-- The DRAM of some stands as its words are delivered, corrected where they can be. -/
def deliveredDram (ps : List Nat) (s : State) : State :=
  (s.upset.filter (fun x => decide (8 * x.1 < 2 ^ 47) && ps.contains (8 * x.1 / (64 * sliceBytes)))).foldl (fun s x =>
    match readWord s (8 * x.1) with
    | some (d, _) => memSplice (8 * x.1) (bytesLE 8 d.toNat) s
    | none => s) s

/-- Some stands' DRAM at the last blaze: present contents and current logs (R512, R518). -/
def atLastBlaze (ps : List Nat) (s : State) : State :=
  ps.foldl (fun s p => applyLog p (logOf s p).cur s) (deliveredDram ps s)

/-- BLZ_RECON (R512): the lost stand's protected bytes, laid on the substitute, from its parity and the survivors; with the
LOCATION of the first uncorrectable word that a stripe needs, whose regions stay zero. -/
def recon (lg sub : Nat) (survivors : List Nat) (s : State) : Option Word × List Host.Cell :=
  let mine (k : Nat) : Nat := dramKey sub 0 0 + k % (64 * sliceBytes)
  let lost := s.upset.filterMap (fun x =>
    let k := 8 * x.1
    let q := k / (64 * sliceBytes)
    if k < 2 ^ 47 ∧ (sub :: survivors).contains q = true ∧ cellProtected s sub lg (mine k) = true ∧ (readWord s k).isNone = true then
      some (q, mine k) else none)
  let region (k : Nat) : Option Region :=
    let addr := dramAddrOf s lg (keySlice k).1 (keySlice k).2
    (imgRegions s.image).find? (fun r => decide (r.base ≤ addr ∧ addr < r.base + r.len))
  let buffer (k : Nat) : Option Nat := match imgBlaze s.image with
    | some (base, len, _) => if inBlz base sub 0 (2 * len) k then some (blzByteOf base (keySlice k).1 (keySlice k).2 / len) else none
    | none => none
  let spoiled (k : Nat) : Bool := lost.any (fun x => buffer x.2 = buffer k && (if (buffer k).isSome then true else region x.2 = region k))
  let t := atLastBlaze survivors (deliveredDram [sub] s)
  let cells := xorCells sub (sub :: survivors) (fun q k => q = sub || cellProtected t q (logicalOf t q) k) t.mem
  (lost.head?.map (fun x => locUnit (logicalOf s x.1) x.1 0 0 0 0 (keySlice x.2).1),
    cells.filter (fun c => cellProtected s sub lg c.1 && !spoiled c.1))

/-- The DRAM of one stand copied whole onto another (R511). -/
def copyDram (old sub : Nat) (s : State) : State :=
  let move (k : Nat) : Nat := dramKey sub 0 0 + k % (64 * sliceBytes)
  let t := putCells sub (fun _ => true) ((s.mem.filter (fun c => decide (c.1 < 2 ^ 47) && c.1 / (64 * sliceBytes) = old)).map
    (fun c => (move c.1, c.2))) s
  let bad := s.upset.filter (fun x => decide (8 * x.1 < 2 ^ 47) && 8 * x.1 / (64 * sliceBytes) = old)
  { t with upset := bad.foldl (fun m x => smapSet upsetDflt m (move (8 * x.1) / 8) x.2) t.upset }

/-- The blazes under the substitute's physical index; the older of two is no longer restorable (R514). -/
def snapMoved (old sub : Nat) (x : Snap) : Snap :=
  let unit (w b k : Nat) (n : Nat) : Nat := if k / w = b + old * n then k - old * n * w + sub * n * w else k
  let re {α : Type} [DecidableEq α] (d : Nat → α) (f : Nat → Nat) (m : List (Nat × α)) : List (Nat × α) :=
    m.foldl (fun acc y => smapSet d acc (f y.1) y.2) []
  { x with
    regs := x.regs.map (fun y => (if suView y.1 = 2 ∧ suStand y.1 = old then y.1 - old * 2 ^ 34 + sub * 2 ^ 34 else y.1, y.2))
    mem := re memDflt (fun k => unit (2 ^ 31) (2 ^ 16) k 1) x.mem
    tags := re tagDflt (fun k => unit (2 ^ 25) (2 ^ 16) k 1) x.tags
    laps := x.laps.map (fun y => (if y.1 = old then sub else if y.1 / 4096 = old then sub * 4096 + y.1 % 4096 else y.1, y.2))
    finished := x.finished.map (fun k => if k / 32 = old then sub * 32 + k % 32 else k) }

/-- Step 5 of R511 in the substitute, once it bears the logical number: its configuration from the image and the plan. -/
def configureStand (n lg sub : Nat) (s : State) : State :=
  let b := s.image
  let s := loadStands [sub] (loadUnits [sub] (loadRegs [sub] s))
  let s := { s with
    descs := smapKeep (fun k => k / 65536 ≠ sub) s.descs
    hdlStage := smapKeep (fun k => k / 4096 ≠ sub) s.hdlStage
    gates := smapKeep (fun k => k / 1024 ≠ sub) s.gates
    logs := smapKeep (fun k => k ≠ sub) s.logs }
  let mine (k : Nat) : Bool := suStand k = lg
  let s := applyList mine (imgPlan b n) (applyList mine (imgConfig b) (loadHubCfg b sub s))
  let s := ((imgOfType b 5).filter (fun x => natBits x.target 17 12 = lg)).foldl (fun s x => loadOb b (fun _ => true) x s) s
  let s := ((imgHeartbeats b).filter (fun x => x.1 = lg)).foldl (fun s (_, a, t, per) =>
    rput (CaHeartbeat.key sub a) (fldSet CaHeartbeat.period (fldOf CaHeartbeat.tally t) per) s) s
  loadCredits sub (loadHub sub (loadCounters sub s))

/-- Steps 3 to 5 of R511 for a substitution: `old` bears the number, `sub` is to take it and has its data and its
configuration, which the map does not show yet. The LOCATION is that of a word that bars the rebuilding of a region
(R512). What an earlier RELOCATE that ended in a failed probe has rebuilt stays: it has taken the parity's place (DESIGN
CHOICE, log entry 39). -/
def prepare (n old sub : Nat) (s : State) : Option Word × State :=
  let lg := n - 0x100
  let g := lg / 14
  let survivors := (groupStands s g).filter (· ≠ old)
  let maps (s : State) : Word × Word := (rg s (IorStandMap.key old), rg s (IorStandMap.key sub))
  let parity : Bool := rf s (RgrPar.key g) RgrPar.state != 3
  let s := groupUnprotected g s
  let (lost, s) :=
    if roleOf s old = 5 then
      if !parity then (none, s)
      else
      let (lost, cells) := recon lg sub survivors s
      (lost, ctlDesc sub 8 (if lost.isSome then stReconFailed else stDone) (putCells sub (fun _ => true) cells s))
    else (none, copyDram old sub s)
  let (o, w) := maps s
  let s := configureStand n lg sub (putRole sub 1 lg g (putRole old 3 0xFF 0xFF s))
  (lost, rput (IorStandMap.key old) o (rput (IorStandMap.key sub) w s))

/-- The map changes as the RELOCATE retires (R23, R511): the substitute bears the number, and its blazes with it. The log of a
stand that was copied goes with its data; that of a rebuilt one starts empty (R512). -/
def substitute (n old sub : Nat) (s : State) : State :=
  let lg := n - 0x100
  let g := lg / 14
  let tripped : Bool := roleOf s old = 5
  let log : ParityLog := if tripped then .init else { logOf s old with prev := [] }
  let s := if tripped then putRole old 5 0xFF 0xFF s
    else (List.range 0x200).foldl (fun s i => putGate old (0x100 + i) 1 s) (putRole old 2 0xFF 0xFF s)
  let s := putLog sub log (putLog old .init (putRole sub 1 lg g (putScreen sub 0 1000 s)))
  rfput RgrBlzState.key RgrBlzState.substituted 1 { s with snaps := (s.snaps.take 1).map (snapMoved old sub) }

/-- The end of a RELOCATE that has changed the placement. -/
def relocated (n : Nat) (lost : Option Word) (s : State) : State :=
  rfput RgrBlzState.key RgrBlzState.relocated (if lost.isSome then 0 else 1)
    { s with plan := n, lapSet := if 0x100 ≤ n then n else 0, planChanged := true, dirty := [],
             reconFailed := s.reconFailed || lost.isSome }

/-- RELOCATE of a plan (R511 to R513): status, LOCATION and result. -/
def relocate (n : Nat) (failed : List Site) (s : State) : Status × Word × State :=
  if !planApplies s n then (stNoPlan, locNone, s)
  else
    match applySources (planSources s n) s with
    | .error (st, loc) => (st, loc, s)
    | .ok t =>
      let s := snoopAll t
      let fenced := allFenced s
      let rows := if n = 0 then [] else fenced.map (fun (p, a) => (logicalOf s p, a / 64))
      let sites := fenced.map (fun (p, a) => (p, a, colOf (rowOut s p (a / 64)) (a / 64) (a % 64)))
      let pair : Option (Nat × Nat) := if n < 0x100 then none else
        match physOf s (n - 0x100), groupStandby s ((n - 0x100) / 14) with
        | some old, some sub => some (old, sub)
        | _, _ => none
      let (lost, s) := match pair with
        | some (old, sub) => prepare n old sub s
        | none => (none, s)
      let (miss, s) := mendAll n failed sites none (planHandles n (relocWrites n rows s))
      match miss with
      | some loc => (stNoPlan, loc, { s with reconFailed := s.reconFailed || lost.isSome })
      | none =>
        match pair with
        | some (old, sub) =>
          let s := substitute n old sub s
          (if lost.isSome then stReconFailed else stDone, lost.getD 0, relocated n lost s)
        | none => (stDone, 0, relocated n none s)

/-- RELOCATE (R350, R511): FENCED after SELECT_PLAN. The plan is used up however it ends (R513). -/
def doRelocate (c : Cmd) (failed : List Site) (s : State) : State :=
  issueVerb 0x0A c (c.zero 16 48) (fun s =>
    match s.planSel with
    | none => refuse c stBadState locNone s
    | some n =>
      if s.mode ≠ .fenced then refuse c stBadState locNone s
      else
        let (st, loc, t) := relocate n failed { s with planSel := none }
        let t := if st = stDone ∨ st = stReconFailed then t else rfput RgrBlzState.key RgrBlzState.relocated 0 t
        retireVerb c st 0 loc t) s

def execRelocate (c : Cmd) (probeFailed : List Site) (s : State) : Host.Outcome State Fault Refusal :=
  .next (doRelocate c probeFailed s)

/-- The parity set that runs: that of the plan in force, 0xFFFF for the base (R355, R507). -/
def paritySet (s : State) : Nat := if 0x100 ≤ s.plan then s.plan else 0xFFFF

/-- The image carries parity routes to a standby for a group (R507, R518): a parity set for the plan in force, and every
seam that it records of the group's standby as it is trained at that stand. -/
def parityRoutes (s : State) (p g : Nat) : Bool :=
  let t := rfput (IorStandMap.key p) IorStandMap.parityGroup g s
  ((imgOfType s.image 3).map (·.target)).contains (paritySet s) &&
    (imgTopology s.image).all (fun r =>
      !((r.stand = 0xFF && r.group = g) || (r.faces = 2 && r.faced = g)) || (seamRecFault t r).isNone)

/-- What refuses ASSIGN_PARITY (R518). -/
def parityRefusal (s : State) (p g : Nat) : Option Status :=
  if 3 < g then some stDescInvalid
  else if !isPhys p || roleOf s p ≠ 2 || rf s (IorStandMap.key p) IorStandMap.parityGroup ≠ 0xFF || (groupStandby s g).isSome then
    some stBadState
  else if !screenNominal s p then some stBadState
  else if !parityRoutes s p g then some stTopologyShort
  else none

/-- A standby takes a group and its parity at the last blaze (R518). -/
def assignParity (p g : Nat) (s : State) : State :=
  let ps := groupStands s g
  let t := atLastBlaze ps s
  let cells := xorCells p ps (fun q k => cellProtected t q (logicalOf t q) k) t.mem
  let area (k : Nat) : Bool := inBlazeArea s (keySlice k).2 && !cellProtected s p 0 k
  let s := putCells p (fun k => !area k) cells (rfput (IorStandMap.key p) IorStandMap.parityGroup g s)
  let s := rput (RgrPar.key g) (fldSet RgrPar.prot (fldSet RgrPar.state (fldOf RgrPar.standby p) 1)
    (rg s RgrBlzLast.key).toNat) s
  match s.snaps with
  | x :: r => { s with snaps := { x with parityOf := x.parityOf ++ [g] } :: r }
  | [] => s

/-- ASSIGN_PARITY (R518). -/
def doAssignParity (c : Cmd) (s : State) : State :=
  let p := c.num 16 1
  let g := c.num 17 1
  issueVerb 0x2C c (c.zero 18 46) (fun s =>
    if s.mode ≠ .loaded ∧ s.mode ≠ .drained then refuse c stBadState locNone s
    else
      match parityRefusal s p g with
      | some st => refuse c st locNone s
      | none => retireVerb c stDone 0 0 (assignParity p g s)) s

def execAssignParity (c : Cmd) (s : State) : Host.Outcome State Fault Refusal := .next (doAssignParity c s)

end Sys2Proof.Machine
end

