-- ==== Sys2Proof/Machine/Restore.lean ====
section
/-!
DEFINITION. RESTORE (R496, R514 to R516): the epochs that can be restored, the rollback of mutable regions, the rebuilding of
DRAM words and buffers, and the state that a blaze saved (R99, R153, R186, R201, R280, R307, R321, R394).
-/

namespace Sys2Proof.Machine

/-- The blaze that RESTORE of an epoch takes back, and whether it is the one before the last (R514). Epoch 0 names the
newest that is restorable. -/
def restoreTarget (s : State) (e : Nat) : Option (Snap × Bool) :=
  let last : Option (Snap × Bool) := match s.snaps with
    | x :: _ => if !x.tainted && !s.reconFailed && (e = 0 || e = x.epoch) then some (x, false) else none
    | [] => none
  let prev : Option (Snap × Bool) := match s.snaps with
    | _ :: x :: _ => if prevRestorable s && (e = 0 || e = x.epoch) then some (x, true) else none
    | _ => none
  last.or prev

/-- The module states in which RESTORE is allowed (R514): DRAINED, or FENCED after a RELOCATE, with nothing fenced or lost. -/
def restoreAllowed (s : State) : Bool :=
  (decide (s.mode = .drained) ||
    (decide (s.mode = .fenced) && (rf s RgrBlzState.key RgrBlzState.relocated = 1 || s.reconFailed))) &&
  (standsOut s).isEmpty && (allFenced s).isEmpty

/-- The protected DRAM words on the taint lists of the current epoch and of those that a RESTORE discards (R514), by stand and
memory key. -/
def taintedWords (s : State) (prev : Bool) : List (Nat × Nat) :=
  let lists := s.taints ++ (if prev then (s.snaps.take 1).flatMap (·.taints) else [])
  (lists.filterMap (fun x =>
    let (lg, sl, off) := dramPlaceOf s (x.2.toNat / 8 * 8)
    if x.1 = stUncorrectable ∧ x.2.toNat < 2 ^ 47 then
      (inService s lg).bind (fun p => if cellProtected s p lg (dramKey p sl off) then some (p, dramKey p sl off) else none)
    else none)).dedup

/-- The parity group of a stand. -/
def groupOf (s : State) (p : Nat) : Nat := logicalOf s p / 14

/-- A protected word rebuilt from its group's parity and the other stands (R514), where all of them can be read. -/
def rebuildWord (p k : Nat) (s : State) : State :=
  match groupStandby s (groupOf s p) with
  | none => s
  | some b =>
    let (sl, off) := keySlice k
    let qs := b :: (groupStands s (groupOf s p)).filter (· ≠ p)
    let words := qs.map (fun q => (q, dramKey q sl off, readWord s (dramKey q sl off)))
    if words.any (fun w => w.2.2.isNone) then s
    else
      let byte (i : Nat) : Byte := words.foldl (fun a w =>
        if w.1 = b || cellProtected s w.1 (logicalOf s w.1) (w.2.1 + i) then
          a ^^^ BitVec.setWidth 8 ((((w.2.2.map (fun (r : Word × Bool) => r.1)).getD (0 : Word)) : Word) >>> (8 * i))
        else a) 0
      memSplice k ((List.range 8).map byte) s

/-- Step 1 of R514: mutable protected regions return to the drain point of the epoch, and the parity with them. -/
def rollback (prev : Bool) (s : State) : State :=
  let logs := s.logs
  let s := logs.foldl (fun s x => applyLog x.1 x.2.cur s) s
  let s := if prev then
      logs.foldl (fun s x =>
        let s := applyLog x.1 x.2.prev s
        match groupStandby s (groupOf s x.1) with
        | some b => applyLog b x.2.prev s
        | none => s) s
    else s
  { s with logs := logs.filterMap (fun (p, g) =>
      let g : ParityLog := ⟨[], if prev then [] else g.prev, g.full, 0⟩
      if g = ParityLog.init then none else some (p, g)) }

/-- The uncorrectable words of a stand's buffer of an epoch. -/
def badBuffer (s : State) (e p : Nat) : List Nat :=
  match imgBlaze s.image with
  | none => []
  | some (base, len, _) =>
    (s.upset.map (fun x => 8 * x.1)).filter (fun k =>
      inBlz base p (e % 2 * len) (saveSize s.image (logicalOf s p)) k && (readWord s k).isNone)

/-- The uncorrectable words of a stand's buffer are rebuilt, where the blaze is protected in its group. -/
def rebuildBuffer (x : Snap) (p : Nat) (s : State) : State :=
  if x.parityOf.contains (groupOf s p) then (badBuffer s x.epoch p).foldl (fun s k => rebuildWord p k s) s else s

/-- Does a stand's buffer hold the blaze of an epoch (R308, R501)? -/
def bufferGood (s : State) (e p : Nat) : Bool :=
  match imgBlaze s.image with
  | none => false
  | some (base, len, _) =>
    let hdr := blzGet s base p (e % 2 * len) 4096
    (badBuffer s e p).isEmpty && numAt hdr 20 4 = blzCheck e (logicalOf s p) hdr

/-- BLZ_RESTORE of one stand begins (R292, R294, R308): unit 0 checks the header, and the descriptor ends as that says. -/
def checkBuffer (e p : Nat) (s : State) : State :=
  match imgBlaze s.image with
  | none => s
  | some (base, len, _) =>
    let hdr := blzGet s base p (e % 2 * len) 4096
    ctlDesc p 8 (if bufferGood s e p then stDone else stBlazeCorrupt) (blzFeed crc32cParams p 0 (blzCovered e (logicalOf s p) hdr) s)

/-- What RESTORE leaves of a register before the saved ones return: the saved registers and the check-value units at reset,
the records of errors and stops cleared (R109, R161, R196, R236, R260, R517). -/
def restoreKept (k : Nat) (w : Word) : Word :=
  let p := suStand k
  let u := suIndex k
  let cls := suClass k
  if snapReg k = true ∨ (cls = 10 ∧ k ≠ CvuStatus.key false p u) then regReset k
  else if cls = 13 then (if k = DslEcc.key p u then 0 else w)
  else if cls = 14 then
    (if k = NodeLinkErr.key p u ∨ (List.range 4).any (fun i => k = NodeSteerErr.key p u i) = true then 0
      else if k = NodeNoprog.key p u then fldSet NodeNoprog.elapsed w 0
      else if k = NodeStatus.key p u then fldSet NodeStatus.noprog w 0 else w)
  else if cls = 15 then
    if isMemIdx u then (if k = MaEcc.key p u ∨ k = MaStatus.key p u then 0 else w)
    else if k = CaCoreEcc.key p u ∨ k = CaBtnError.key p u ∨ k = CaStatus.key p u then 0
    else if k = CaSparse.key p u then fldSet CaSparse.maxq (fldOf CaSparse.qholds (fldGet CaSparse.qholds w)) (fldGet CaSparse.maxq w)
    else w
  else w

/-- A saved register as RESTORE writes it: the hold with ST_ACC_LIMIT and the stop of a stage are clear (R75, R517). -/
def savedWord (k : Nat) (w : Word) : Word :=
  let p := suStand k
  let u := suIndex k
  if suView k = 2 ∧ suClass k = 15 ∧ isMemIdx u = false then
    (if (List.range 8).any (fun i => k = CaArithFlags.key p u i) then fldSet CaArithFlags.accLimit (fldSet CaArithFlags.limitLanes w 0) 0
      else if (List.range 8).any (fun i => k = CaStageStatus.key p u i) then
        fldSet CaStageStatus.stopCode (fldSet CaStageStatus.lanes (fldSet CaStageStatus.state (fldSet CaStageStatus.waitCause w 0) 0) 0) 0
      else w)
  else w

/-- The registers of a blaze return, in the in-service stands and in the ring tallies; DSL_ECC clears in every stand
(R274). A BOUND_VALID saved under another BOUND_SRC than the counter has now returns as it showed (R153, R158). -/
def restoreRegs (x : Snap) (s : State) : State :=
  let ps := servicePhys s
  let s := { s with
    regs := s.regs.filterMap (fun (k, w) =>
      let v := if (suView k = 2 ∧ ps.contains (suStand k) = true) ∨ (suView k = 0 ∧ snapReg k = true) then restoreKept k w
        else if suView k = 2 ∧ suClass k = 13 ∧ suOff k = 8 then 0 else w
      if v = regReset k then none else some (k, v)) }
  let s := (x.regs.filter (fun y => snapReg y.1)).foldl (fun s y => rput y.1 (savedWord y.1 y.2) s) s
  let now := batonBounds s
  ((x.bound.filter (fun k => ps.contains (suStand k) && !now.contains k)) ++ now.filter (fun k => !x.bound.contains k)).foldl
    (fun s k => rput k (rg s k ^^^ fldOf CaCtrStatus.boundValid 1) s) s

/-- The requests on the service mesh of a hub's ring queues, which RESTORE leaves. -/
def ringIds (s : State) : List MeshSrc :=
  (s.hubQs.filter (fun x => decide (28 ≤ x.1 % 32))).flatMap (fun x => x.2.rpc.toList ++
    ((x.2.exec.map (fun e => e.posts.map (·.id) ++ e.done.toList)).getD [])) ++
  s.waits.filterMap (fun w => match w.who with
    | .queue _ q => if 28 ≤ q then w.via else none
    | _ => none)

/-- The units of the in-service stands are emptied; the ring queues of their hubs go on. -/
def restoreUnits (s : State) : State :=
  let ps := servicePhys s
  let out (p : Nat) : Bool := !ps.contains p
  let ids := ringIds s
  let keeps (i : MeshSrc) : Bool := out i.stand.toNat || ids.contains i
  let t := loadUnits ps s
  { t with
    hubQs := smapKeep (fun k => out (k / 32) || decide (28 ≤ k % 32)) s.hubQs
    svc := s.svc.filter (fun r => keeps r.src)
    svcResp := s.svcResp.filter (fun r => keeps r.1)
    svcGot := s.svcGot.filter (fun r => keeps r.1)
    waits := s.waits.filter (fun w => match w.who with
      | .stage q _ _ => out q
      | .queue q i => out q || decide (28 ≤ i)
      | .remote i => keeps i
      | _ => true)
    memArrs := s.memArrs.filterMap (fun (k, m) =>
      let m : MemArr := if out (k / 4096) then m else { m with sb := m.sb.filter (fun e => decide (28 ≤ e.owner % 64)), posts := m.posts.filter (fun y => keeps y.1), emptied := [] }
      if m = MemArr.init then none else some (k, m)) }

/-- The constant slots of memory arrays return from the image (R186): the bytes of SRAM_INIT, every tag FULL. -/
def constSlots (s : State) : State :=
  let b := s.image
  let full (lg a n : Nat) (s : State) : State :=
    match inService s lg with
    | some p => if isMemIdx a && slotClass b lg a n = 0 && !inUntagged s p a n then setTag (slotKey p a n) true s else s
    | none => s
  let s := (imgSlotClasses b).foldl (fun s (lg, a, f, t, _) => (List.range' f (t + 1 - f)).foldl (fun s n => full lg a n s) s) s
  (imgOfType b 4).foldl (fun s x =>
    (sramPieces x.target x.len).foldl (fun s (at0, n, skip) =>
      match sramTarget at0 n with
      | none => s
      | some (lg, a, off) =>
        match inService s lg with
        | none => s
        | some p =>
          (List.range ((n + 63) / 64)).foldl (fun s i =>
            if isMemIdx a && slotClass b lg a (off / 64 + i) = 0 then
              full lg a (off / 64 + i) (memSplice (sramKey p a (off + 64 * i)) (bytesAt b (x.off + skip + 64 * i) (min 64 (n - 64 * i))) s)
            else s) s) s) s

/-- Core memories and live slots as the blaze saved them, with their tags (R186), in a region that is untagged at the
RESTORE too, where R171 would have the tag EMPTY (DESIGN CHOICE, log entry 88). -/
def savedSram (x : Snap) (s : State) : State :=
  { s with
    mem := x.mem.foldl (fun m c => smapSet memDflt m c.1 c.2) s.mem
    tags := x.tags.foldl (fun m c => smapSet tagDflt m c.1 c.2) s.tags }

/-- The check-value units from the image and the plan in force, each at its initial value (R307). A unit that a
ring-queue descriptor owns keeps its OWNER alone (DEDUCED, log entry 43). -/
def restoreCvus (s : State) : State :=
  let s := applyList (fun k => suClass k = 10) (imgConfig s.image ++ imgPlan s.image s.plan) s
  (servicePhys s).foldl (fun s p => (List.range 8).foldl (fun s u => cvuSet false p u (cvuParams s false p u).init s) s) s

/-- The service state of a blaze (R394), as it stands once the blaze has retired (R389). The rings keep all but
SQ_HEAD and SAFE_HEAD, and the safe step is that of the blaze. -/
def restoreGul (x : Snap) (s : State) : State :=
  let head (k : Nat) : Nat := (smapGet (fun _ => GRing.init) x.gul.rings k).sqHead
  let rings := s.gul.rings.map (fun (k, g) => (k, { g with sqHead := head k, safeHead := head k }))
  let s := if (imgService s.image).isSome then rput RgrGulSafe.key (BitVec.ofNat 64 x.gul.step) s else s
  { s with gul := { x.gul with
    rings := rings, turn := s.gul.turn, cut := s.gul.cut, free := x.gul.free ++ sortPages x.gul.awaiting, awaiting := [], waiting := false, blazing := false } }

/-- The stands stand at the drain point of the blaze: its lap counts, position 0. -/
def restoreStands (x : Snap) (s : State) : State :=
  let s := (servicePhys s).foldl (fun s p => putStand p
    { Stand.init with laps := smapGet (fun _ => 0) x.laps p, pool := (standOf s p).pool, drained := true, phase := 3 } s) s
  x.laps.foldl (fun s y => if 4096 ≤ y.1 then putArr y.1 { arrOf s y.1 with lapsBeat := y.2 } s else s) s

/-- Steps 3 and 4 of R514 over a good buffer: the state of the drain point. -/
def restoreState (x : Snap) (s : State) : State :=
  let s := restoreStands x (savedSram x (restoreRegs x (restoreUnits s)))
  let s := (imgOfType s.image 5).foldl (fun s y => loadOb s.image id y s) (constSlots s)
  let s := x.finished.foldl (fun s k => putHubQ (k / 32) (k % 32) { hubQOf s (k / 32) (k % 32) with finished := true } s) s
  let s := (servicePhys s).foldl (fun s p => loadCredits p s) (restoreGul x (restoreCvus s))
  excRestart (holdDrain (if 0x100 ≤ s.plan then planHandles s.plan s else s))

/-- The epochs after a RESTORE (R496): e + 1 is current, untainted, and those above e are discarded. -/
def restoreEpoch (x : Snap) (prev : Bool) (s : State) : State :=
  let s := { s with
    mode := .drained
    epoch := x.epoch + 1
    tainted := false
    taints := []
    taintCount := 0
    snaps := if prev then s.snaps.drop 1 else s.snaps
    saving := none
    lsOn := { s.lsOn with taken := min s.lsOn.taken (rg s (TlyCount.key true 0 s.lsOn.mbox)).toNat }
    draining := false
    planSel := none
    hbs := [] }
  rfput RgrBlzState.key RgrBlzState.relocated 0 (rput RgrBlzTime.key x.time (rput RgrBlzLast.key (BitVec.ofNat 64 x.epoch) s))

/-- RESTORE of a blaze (R514): status, LOCATION and result. -/
def restoreBlaze (x : Snap) (prev : Bool) (s : State) : Status × Word × State :=
  let words := taintedWords s prev
  match words.find? (fun w => (groupStandby s (groupOf s w.1)).isNone) with
  | some (p, k) => (stEpochUnavailable, locUnit (logicalOf s p) p 0 0 0 0 (keySlice k).1, s)
  | none =>
    let s := words.foldl (fun s w => rebuildWord w.1 w.2 s) (rollback prev (snoopAll s))
    let s := (logicalPhys s).foldl (fun s p => rebuildBuffer x p s) s
    let s := (logicalPhys s).foldl (fun s p => checkBuffer x.epoch p s) s
    match (logicalPhys s).find? (fun p => !bufferGood s x.epoch p) with
    | some p => (stBlazeCorrupt, locStand s p, s)
    | none => (stDone, 0, restoreEpoch x prev (restoreState x s))

/-- RESTORE (R350, R514). It waits while a descriptor owns unit 0 of a stand (R302, R308). -/
def doRestore (c : Cmd) (s : State) : State :=
  issueVerb 5 c (c.zero 24 40) (fun s =>
    if !restoreAllowed s then refuse c stBadState locNone s
    else
      match restoreTarget s (c.num 16 8) with
      | none => refuse c stEpochUnavailable locNone s
      | some (x, prev) =>
        if unitsOwned s 1 then noteVerb 5 c s
        else
        let (st, loc, t) := restoreBlaze x prev s
        retireVerb c st (if st = stDone then BitVec.ofNat 64 x.epoch else 0) loc t) s

def execRestore (c : Cmd) (s : State) : Host.Outcome State Fault Refusal := .next (doRestore c s)

end Sys2Proof.Machine
end

