-- ==== Sys2Proof/Machine/Setup.lean ====
section
/-!
DEFINITION. Set-up accesses by address (R14 to R16, R40, R41, R337, R338): where an address leads, what a write does to
the register there, what a read returns and clears, and the rows that make them: SETUP_WRITE, REGISTER_READ_CLEAR,
BAR0_ACCESS, REG_READ, REG_WRITE, CONFIG and JTAG_ACCESS.
-/

namespace Sys2Proof.Machine

/-- An access that R15 admits: eight or four bytes, naturally aligned. -/
def sizeOk (addr size : Nat) : Bool := decide ((size = 8 ∧ addr % 8 = 0) ∨ (size = 4 ∧ addr % 4 = 0))

/-- The first bit that an access reaches, and the bits (R15). -/
def accessShift (addr : Nat) : Nat := if addr % 8 = 4 then 32 else 0
def accessMask (addr size : Nat) : Word :=
  if size = 8 then allOnes else BitVec.ofNat 64 (0xFFFFFFFF * 2 ^ accessShift addr)

/-- The forms that a check-value unit's registers admit (R297): the feed registers take 64 bits or their low half, and
CVU_FOLD 64 bits only. -/
def formOk (k : Nat) (m : Word) : Bool :=
  let cvu : Bool := (suView k = 2 && suClass k = 10) || (suView k = 0 && suClass k = 7)
  if cvu && decide (0x30 ≤ suOff k ∧ suOff k ≤ 0x40) then m != 0xFFFFFFFF00000000
  else if cvu && suOff k = 0x48 then m == allOnes
  else true

/-- The canonical address of the register that a set-up address names (R23, R40, R41), or the status that ends the access
and whether it is counted. -/
def suReach (via : Via) (addr : Nat) (s : State) : Except (Status × Bool) Nat :=
  let st := natBits addr 39 34
  let cls := natBits addr 33 30
  let idx := natBits addr 23 12
  let off := natBits addr 11 3 * 8
  if natBits addr 47 44 ≠ 15 ∨ natBits addr 29 24 ≠ 0 then .error (stAddrReserved, true)
  else if natBits addr 43 40 = 0 then
    if st ≠ 0 then .error (stAddrReserved, true)
    else .ok (ringKey cls (if cls = 1 ∧ idx < 4 ∧ rgrWide off = true then 0 else idx) off)
  else if natBits addr 43 40 = 1 then
    if 56 ≤ st then .error (stAddrReserved, true)
    else
      match standPlace s st with
      | .ok p => .ok (standKey p cls idx off)
      | .error e => .error (e, false)
  else if natBits addr 43 40 = 2 then
    if viaHost via then .error (stRoleDenied, true) else .ok (standKey st cls idx off)
  else .error (stAddrReserved, true)

/-- What the fields of a register hold, for the half that a 32-bit write leaves. -/
def heldValue (s : State) (k : Nat) : Word :=
  let p := suStand k
  let u := suIndex k
  if k = HubHdlLen.key p u then smapGet lenDflt s.hdlStage (p * 4096 + u)
  else if k = ClkTimeNext.key then s.timeCtr.next.getD 0
  else if k = CaObData.key p u then
    (let (l, lane, b) := obPlace s p u
     BitVec.ofNat 64 (ofBytesLE (obBytes s l lane b 8)))
  else shown s k

/-- The value that a write leaves in a register's fields: the bits of the access, and the half that it does not reach as
it stands. -/
def mergeWrite (s : State) (k : Nat) (m v : Word) : Word :=
  let d := descOf k
  let keep := if k = ClkTimeNext.key then d.rw ||| d.wo else d.rw
  (heldValue s k &&& keep &&& ~~~m) ||| (v &&& m)

/-- A write that sets fields and does no more (R14, R16). -/
def putPlain (via : Via) (k : Nat) (v : Word) (s : State) : Status × State :=
  viaWrite via k (fun s => (stDone, plainWrite k v s)) s

/-- A write to a check-value unit (R297 to R301, R310). -/
def putCvu (via : Via) (k : Nat) (ring : Bool) (p u : Nat) (v : Word) (s : State) : Status × State :=
  let off := suOff k
  if off = 0 then doCvuCfg via ring p u v s
  else if off < 0x20 then doCvuParam via k ring p u v s
  else if off = 0x20 then doCvuValue via ring p u v s
  else if off = 0x30 then doCvuFeed via k ring p u 1 v s
  else if off = 0x38 then doCvuFeed via k ring p u 2 v s
  else if off = 0x40 then doCvuFeed via k ring p u 4 v s
  else if off = 0x48 then doCvuFeed via k ring p u 8 v s
  else putPlain via k v s

/-- A write to a tally (R325, R331 to R333): a stand tally has no watch. -/
def putTally (via : Via) (k : Nat) (ring : Bool) (p u : Nat) (v : Word) (s : State) : Status × State :=
  let off := suOff k
  if off = 0 then doTlyCount via ring p u v s
  else if off = 8 then doTlyAdd via ring p u v s
  else if off = 0x10 ∨ off = 0x18 ∨ off = 0x20 then
    if ring = false then viaWrite via k (fun s => (stDone, s)) s
    else if off = 0x10 then doTlyCfg via u v s
    else doTlyWatch via u (off = 0x20) v s
  else putPlain via k v s

/-- A write to a hub's registers (R293): ring queues keep MODE, and a queue that is set anew is no longer finished (log
entry 22). -/
def putHub (via : Via) (k p : Nat) (v : Word) (s : State) : Status × State :=
  viaWrite via k (fun s =>
    let off := suOff k
    let q := (off - 0x100) / 0x20
    if !hubQuiet s p then (stArrayBusy, s)
    else if off = 0x18 then descDataWrite p v s
    else if off < 0x100 then (stDone, plainWrite k v s)
    else if k = HubQCfg.key p q ∧ 28 ≤ q then (stDone, plainWrite k (fldSet HubQCfg.mode v 3) s)
    else (stDone, putHubQ p q { hubQOf s p q with finished := false } (plainWrite k v s))) s

/-- A write to a node (R154, R210): a changed lap table or steering configuration is checked at the next START or
RESUME. -/
def putNodeReg (via : Via) (k p n : Nat) (v : Word) (s : State) : Status × State :=
  viaWrite via k (fun s =>
    let off := suOff k
    let cfg : Bool := off < 0x800 || (0xC00 ≤ off && off % 0x20 = 0)
    if (off < 0x800 ∨ 0xC00 ≤ off) ∧ (descOf k).rw ≠ 0 ∧ arrConfigurable s p (nodeMem n) = false then (stArrayBusy, s)
    else
      let s := plainWrite k v s
      (stDone, if cfg then { s with dirty := smapSet tagDflt s.dirty (nodeKey p n) true } else s)) s

/-- The registers of a compute array that only a LOADED, DRAINED or STOPPED array takes (R98, R154). -/
def caGuarded (off : Nat) : Bool :=
  off < 0x400 || (0x480 ≤ off && off < 0x4C0) || (0x500 ≤ off && off < 0x580) || off = 0x5A0 || (0x600 ≤ off && off < 0x700)

/-- A change of BOUND_SRC leaves BOUND_VALID as it shows (R154, R158): its stored bit says whether it differs from what
LOAD_IMAGE left there. -/
def keepBoundValid (p a c : Nat) (old : Nat) (s : State) : State :=
  if (standOf s p).phase ≠ 0 ∧ (decide (old = 0) != decide (rf s (CaCtrCfg.key p a c) CaCtrCfg.boundSrc = 0)) = true then
    rfput (CaCtrStatus.key p a c) CaCtrStatus.boundValid (1 - rf s (CaCtrStatus.key p a c) CaCtrStatus.boundValid) s
  else s

/-- BOUND_VALID as a set-up write stores it, so that it reads back as written (R154, R158). -/
def boundWritten (s : State) (p a c : Nat) (v : Word) : Word :=
  if (standOf s p).phase ≠ 0 ∧ rf s (CaCtrCfg.key p a c) CaCtrCfg.boundSrc = 0 then
    fldSet CaCtrStatus.boundValid v (1 - fldGet CaCtrStatus.boundValid v)
  else v

/-- The count that a step in course goes on with while CA_SR_COUNT_st is written (R75). -/
def holdCount (p a st : Nat) (s : State) : State :=
  let k := stgKey p a st
  let t := stageOf s k
  if t.begun && !t.done && t.srHeld.isNone then putStage k { t with srHeld := some ((rg s (CaSrCount.key p a st)).setWidth 48) } s
  else s

/-- A write to a compute array (R75, R98, R108, R154). -/
def putCompute (via : Via) (k p a : Nat) (v : Word) (s : State) : Status × State :=
  viaWrite via k (fun s =>
    let off := suOff k
    let c := (off - 0x600) / 0x20
    if caGuarded off ∧ (descOf k).rw ≠ 0 ∧ arrConfigurable s p a = false then (stArrayBusy, s)
    else if off = 0x5A0 then obDataWrite p a v s
    else if 0x600 ≤ off ∧ off < 0x6C0 ∧ off % 0x20 = 0 then
      (stDone, keepBoundValid p a c (rf s (CaCtrCfg.key p a c) CaCtrCfg.boundSrc) (plainWrite k v s))
    else if 0x600 ≤ off ∧ off < 0x6C0 ∧ off % 0x20 = 0x18 then (stDone, plainWrite k (boundWritten s p a c v) s)
    else if 0x440 ≤ off ∧ off < 0x480 then (stDone, plainWrite k v (holdCount p a ((off - 0x440) / 8) s))
    else (stDone, plainWrite k v s)) s

/-- A reserved code in a generator's configuration (R188). -/
def genReserved (v : Word) : Bool :=
  fldGet MaGenCfg.mode v = 3 || fldGet MaGenCfg.form v = 3 || 2 ≤ fldGet MaGenCfg.tagSrc v

/-- A write to a memory array (R185, R188). -/
def putMemory (via : Via) (k p a : Nat) (v : Word) (s : State) : Status × State :=
  viaWrite via k (fun s =>
    if (descOf k).rw ≠ 0 ∧ arrConfigurable s p a = false then (stArrayBusy, s)
    else if suOff k < 0x180 ∧ suOff k % 0x80 = 0 ∧ genReserved v = true then (stFmtReserved, s)
    else (stDone, plainWrite k v s)) s

/-- The gate operation of an OP code (R436, R441). -/
def gateOpOf (op : Nat) : GateOp :=
  if op = 0 then .on else if op = 1 then .off else if op = 2 then .offAfterDrain else .cancel

/-- A write to a register of a stand. -/
def putStandReg (via : Via) (k : Nat) (v : Word) (s : State) : Status × State :=
  let p := suStand k
  let cls := suClass k
  let u := suIndex k
  let off := suOff k
  if cls = 0 then
    if off = 0x200 then doSrcSel via p v s
    else if off = 0x218 then doClkDiv via p v s
    else if off = 0x220 then doGate via (gateOpOf (fldGet ClkGateCmd.op v)) p (fldGet ClkGateCmd.node v) s
    else putPlain via k v s
  else if cls = 1 then putHub via k p v s
  else if cls = 2 then
    (if off = 0 then viaWrite via k (commitHdl p u v) s else viaWrite via k (fun s => (stDone, stageHdlLen p u v s)) s)
  else if cls = 10 then putCvu via k false p u v s
  else if cls = 11 then putTally via k false p u v s
  else if cls = 14 then putNodeReg via k p u v s
  else if cls = 15 then (if isMemIdx u then putMemory via k p u v s else putCompute via k p u v s)
  else putPlain via k v s

/-- A write to a port's block (R349, R371, R372, R375). -/
def putPort9 (via : Via) (k u : Nat) (v : Word) (s : State) : Status × State :=
  let off := suOff k
  let r := (off - 0x800) / 0x20
  if off = 0x18 then doRingBase via k (evqCfgKey u) v s
  else if off = 0x20 then doEvqCfg via u v s
  else if 0x40 ≤ off ∧ off < 0x80 then
    viaWrite via k (fun s =>
      if (decoderOf s u ((off - 0x40) / 8)).committed then (stBadState, s) else (stDone, plainWrite k v s)) s
  else if 0x800 ≤ off ∧ (off % 0x20 = 0 ∨ off % 0x20 = 0x18) then doRingBase via k (crCfgKey u r) v s
  else if 0x800 ≤ off ∧ off % 0x20 = 8 then doCrCfg via u r v s
  else putPlain via k v s

/-- A write to a Ranger mailbox (R377, R396, R530): GO begins the transfer of a bundle, whose bytes FW_GO brings. -/
def putRanger (via : Via) (k u : Nat) (v : Word) (s : State) : Status × State :=
  let off := suOff k
  let q := (off - 0x400) / 0x20
  if off = 0x18 then
    match via with
    | .host p => viaWrite via k (fwGoes p.toNat v) s
    | _ => putPlain via k v s
  else if 0x400 ≤ off ∧ off < 0x600 ∧ (off % 0x20 = 0 ∨ off % 0x20 = 0x18) then doRingBase via k (gqCfgKey u q) v s
  else if 0x400 ≤ off ∧ off < 0x600 ∧ off % 0x20 = 8 then doGqCfg via u q v s
  else putPlain via k v s

/-- A write to a register of the ring. -/
def putRingReg (via : Via) (k : Nat) (v : Word) (s : State) : Status × State :=
  let cls := suClass k
  let u := suIndex k
  let off := suOff k
  if cls = 1 then putRanger via k u v s
  else if cls = 3 then
    if off = 8 then (if fldGet ClkRefCtl.reacquire v = 1 then doReacquire via s else putPlain via k v s)
    else if off = 0x10 then doSlotCfg via v s
    else if off = 0x108 then doTimeNext via v s
    else putPlain via k v s
  else if cls = 4 then (if off = 0 then doOpCeiling via (fldGet PwrCeiling.opCeiling v) s else putPlain via k v s)
  else if cls = 5 then (if off = 0x20 then viaWrite via k (otpDataWrite v) s else putPlain via k v s)
  else if cls = 7 then putCvu via k true 0 u v s
  else if cls = 8 then putTally via k true 0 u v s
  else if cls = 9 then putPort9 via k u v s
  else putPlain via k v s

/-- A write of the bits `m` to a register: it passes the gate, and where it reaches no field that a write changes it does
no more (R14). A committed decoder has every write to IOR_WIN_ATTR_d discarded and counted (R375). -/
def putReg (via : Via) (k : Nat) (m v : Word) (s : State) : Status × State :=
  let d := descOf k
  let v := mergeWrite s k m v
  let attr : Bool := suView k = 0 && suClass k = 9 && decide (0x40 ≤ suOff k ∧ suOff k < 0x80)
  if m &&& (d.rw ||| d.wo ||| d.w1c) = 0 ∧ attr = false then viaWrite via k (fun s => (stDone, s)) s
  else if suView k = 2 then putStandReg via k v s
  else putRingReg via k v s

/-- Clear the RC fields that a read reaches (R14), the epoch's exception counts being kept (R401). -/
def clearRc (k : Nat) (m : Word) (s : State) : State :=
  let c := (descOf k).rc &&& m
  if c = 0 then s
  else
    let s := (excSource k).foldl (fun s x =>
      if c &&& fldOf x.1 (fldMax x.1) = 0 then s
      else
        let v : Int := rf s k x.1
        { s with
          excBase := smapMod excDflt s.excBase (excKey k x.1) (fun b => b - v)
          drainExc := smapMod excDflt s.drainExc (excKey k x.1) (fun b => b - v)
          excSat := if x.2 ≠ 11 ∧ rf s k x.1 = fldMax x.1 then (suStand k :: s.excSat.erase (suStand k)) else s.excSat }) s
    rput k (rg s k &&& ~~~c) s

/-- The value that a read of a register returns, and what the read does (R14, R108, R293, R331, R548). -/
def getReg (k : Nat) (m : Word) (s : State) : Except Status (Word × State) :=
  let p := suStand k
  let u := suIndex k
  if k = CaObData.key p u ∧ isMemIdx u = false then obDataRead p u s
  else if k = HubDescData.key p then descDataRead p s
  else if k = OtpStageData.key then otpDataRead s
  else if suView k = 2 ∧ suClass k = 11 ∧ 0x10 ≤ suOff k ∧ suOff k < 0x28 then .ok (0, s)
  else .ok (shown s k, clearRc k m s)

/-- Count the end of an access by the address it names. -/
def countAddr (via : Via) (addr : Nat) (st : Status) (s : State) : State := countErr st (viaSrc via) 0 addr s

/-- A set-up write (R15, R16, R40). -/
def setupPut (via : Via) (addr size : Nat) (v : Word) (s : State) : Status × State :=
  if !sizeOk addr size then (stAddrAlign, countAddr via addr stAddrAlign s)
  else
    match suReach via addr s with
    | .error (st, c) => (st, if c then countAddr via addr st s else s)
    | .ok k =>
      let m := accessMask addr size
      if formOk k m then putReg via k m (v <<< accessShift addr) s else (stAddrAlign, countAddr via addr stAddrAlign s)

/-- A set-up read (R15, R40): all ones where it is refused. -/
def setupGet (via : Via) (addr size : Nat) (s : State) : Status × Word × State :=
  let m := accessMask addr size
  let part (v : Word) : Word := (v &&& m) >>> accessShift addr
  if !sizeOk addr size then (stAddrAlign, allOnes, countAddr via addr stAddrAlign s)
  else
    match suReach via addr s with
    | .error (st, c) => (st, part allOnes, if c then countAddr via addr st s else s)
    | .ok k =>
      if formOk k m then
        let (st, v, s) := viaRead via k (getReg k m) s
        (st, part v, s)
      else (stAddrAlign, part allOnes, countAddr via addr stAddrAlign s)

/-- SETUP_WRITE (R14 to R16, R40 to R42). -/
def execSetupWrite (via : Via) (addr : BitVec 48) (size : BitVec 4) (value : Word) (s : State) :
    Host.Outcome State Fault Refusal := .next (setupPut via addr.toNat size.toNat value s).2

/-- A set-up read with its answer. -/
def doSetupRead (via : Via) (addr size : Nat) (s : State) : State :=
  let (_, v, s) := setupGet via addr size s
  answerRead via addr v s

/-- REGISTER_READ_CLEAR (R14): a read returns the value and clears the RC fields, in one step. -/
def execRegisterReadClear (via : Via) (addr : BitVec 48) (s : State) : Host.Outcome State Fault Refusal :=
  .next (doSetupRead via addr.toNat 8 s)

/-- Where a BAR0 offset leads (R337): the port's own block, the aperture, or the reserved range between. -/
def bar0Addr (s : State) (p off : Nat) : Option Nat :=
  if off < 0x1000 then some (ringKey 9 p 0 + off)
  else if off < 0x200000 then none
  else some (fldGet IorAperture.base (rg s (IorAperture.key p)) * 2 ^ 21 + (off - 0x200000))

/-- BAR0_ACCESS (R337, R338). -/
def doBar0 (p : BitVec 2) (write : Bool) (off size : Nat) (v : Word) (s : State) : State :=
  match bar0Addr s p.toNat off with
  | some a => if write then (setupPut (.host p) a size v s).2 else doSetupRead (.host p) a size s
  | none => if write then s else answerRead (.host p) off allOnes s

def execBar0Access (port : BitVec 2) (write : Bool) (offset : BitVec 22) (size : BitVec 4) (value : Word) (s : State) :
    Host.Outcome State Fault Refusal := .next (doBar0 port write offset.toNat size.toNat value s)

/-- REG_READ (R523, R525): a read of any register, answered by one REG_RESULT. -/
def doRegRead (m : BitVec 1) (i : BitVec 2) (seq : Word) (addr : BitVec 48) (s : State) : State :=
  sessMsg (mgmtKey m i) seq (fun s =>
    let (st, v, s) := setupGet (.mgmt m) addr.toNat 8 s
    sessSend (mgmtKey m i) (.regResult (addr.setWidth 64) v st) s) s

def execRegRead (mport : BitVec 1) (session : BitVec 2) (seq : Word) (addr : BitVec 48) (s : State) :
    Host.Outcome State Fault Refusal := .next (doRegRead mport session seq addr s)

/-- REG_WRITE (R523, R525): a write of any register, answered by one REG_RESULT. -/
def doRegWrite (m : BitVec 1) (i : BitVec 2) (seq : Word) (addr : BitVec 48) (v : Word) (s : State) : State :=
  sessMsg (mgmtKey m i) seq (fun s =>
    let (st, s) := setupPut (.mgmt m) addr.toNat 8 v s
    sessSend (mgmtKey m i) (.regResult (addr.setWidth 64) v st) s) s

def execRegWrite (mport : BitVec 1) (session : BitVec 2) (seq : Word) (addr : BitVec 48) (value : Word) (s : State) :
    Host.Outcome State Fault Refusal := .next (doRegWrite mport session seq addr value s)

/-- CONFIG (R36, R228, R230): a set-up access over the service mesh; a write is acknowledged, a read answered with its
value, and a refused access with a NEGATIVE. -/
def doConfig (src : MeshSrc) (write : Bool) (addr : BitVec 48) (v : Word) (s : State) : State :=
  svcArrive src (.config write addr v) (fun s =>
    if write then
      let (st, s) := setupPut .ranger addr.toNat 8 v s
      respond src (if st = stDone then .acked else .negative st addr) s
    else
      let (st, v, s) := setupGet .ranger addr.toNat 8 s
      respond src (if st = stDone then .data (v.setWidth 512) else .negative st addr) s) s

def execConfig (src : MeshSrc) (write : Bool) (addr : BitVec 48) (value : Word) (s : State) :
    Host.Outcome State Fault Refusal := .next (doConfig src write addr value s)

/-- Halt or resume a processor (R540). -/
def setHalted (n : Nat) (halt : Bool) (s : State) : State :=
  { s with dbg := { s.dbg with
      halted := if halt then (if s.dbg.halted.contains n then s.dbg.halted else s.dbg.halted ++ [n])
        else s.dbg.halted.filter (· ≠ n) } }

/-- JTAG_ACCESS (R540, R558): while the port is closed every input is ignored. A step runs a processor's own instruction,
which no rule describes. -/
def doJtag (w : JtagAccess) (s : State) : State :=
  if s.dbg.minutes.isNone then s
  else
    match w with
    | .haltRanger r => setHalted r.toNat true s
    | .stepRanger _ => s
    | .resumeRanger r => setHalted r.toNat false s
    | .haltController p => if isPhys p.toNat then setHalted (64 + p.toNat) true s else s
    | .stepController _ => s
    | .resumeController p => setHalted (64 + p.toNat) false s
    | .read addr => doSetupRead .debug addr.toNat 8 s
    | .write addr v => (setupPut .debug addr.toNat 8 v s).2

def execJtagAccess (what : JtagAccess) (s : State) : Host.Outcome State Fault Refusal := .next (doJtag what s)

end Sys2Proof.Machine
end

