-- ==== Sys2Proof/Machine/Dispatch.lean ====
section
/-! DEFINITION. The meaning of each command: one arm per constructor of Instr. -/

namespace Sys2Proof.Machine

def exec (i : Instr) (s : State) : Host.Outcome State Fault Refusal :=
  match i with
  | .loadImage c image readFail => Sys2Proof.Machine.execLoadImage c image readFail s
  | .start c => Sys2Proof.Machine.execStart c s
  | .drain c => Sys2Proof.Machine.execDrain c s
  | .drainPointReached => Sys2Proof.Machine.execDrainPointReached s
  | .blaze c => Sys2Proof.Machine.execBlaze c s
  | .blazeCommit => Sys2Proof.Machine.execBlazeCommit s
  | .restore c => Sys2Proof.Machine.execRestore c s
  | .resume c => Sys2Proof.Machine.execResume c s
  | .fenceArray c => Sys2Proof.Machine.execFenceArray c s
  | .fenceStand c => Sys2Proof.Machine.execFenceStand c s
  | .selectPlan c => Sys2Proof.Machine.execSelectPlan c s
  | .relocate c probeFailed => Sys2Proof.Machine.execRelocate c probeFailed s
  | .release c => Sys2Proof.Machine.execRelease c s
  | .setPowerCap c => Sys2Proof.Machine.execSetPowerCap c s
  | .setClock c => Sys2Proof.Machine.execSetClock c s
  | .setLockstep c => Sys2Proof.Machine.execSetLockstep c s
  | .dmaCopy c => Sys2Proof.Machine.execDmaCopy c s
  | .dmaStand c => Sys2Proof.Machine.execDmaStand c s
  | .abort c posted => Sys2Proof.Machine.execAbort c posted s
  | .fuseWrite c readBackFails => Sys2Proof.Machine.execFuseWrite c readBackFails s
  | .debugOpen c => Sys2Proof.Machine.execDebugOpen c s
  | .debugClose c => Sys2Proof.Machine.execDebugClose c s
  | .debugTimeout => Sys2Proof.Machine.execDebugTimeout s
  | .selftest c failedTest => Sys2Proof.Machine.execSelftest c failedTest s
  | .screenSet c => Sys2Proof.Machine.execScreenSet c s
  | .screenRun c comparisons holds found => Sys2Proof.Machine.execScreenRun c comparisons holds found s
  | .standPower c => Sys2Proof.Machine.execStandPower c s
  | .singleStandTestEnd phys failed => Sys2Proof.Machine.execSingleStandTestEnd phys failed s
  | .bringUp c => Sys2Proof.Machine.execBringUp c s
  | .coldBringUpAuto => Sys2Proof.Machine.execColdBringUpAuto s
  | .busbarWaitTimeout => Sys2Proof.Machine.execBusbarWaitTimeout s
  | .heatEnd found => Sys2Proof.Machine.execHeatEnd found s
  | .trainingLimit => Sys2Proof.Machine.execTrainingLimit s
  | .retentionHoldEnd failed => Sys2Proof.Machine.execRetentionHoldEnd failed s
  | .warmRestartTimeout => Sys2Proof.Machine.execWarmRestartTimeout s
  | .assignParity c => Sys2Proof.Machine.execAssignParity c s
  | .commandRingDoorbell port ring value => Sys2Proof.Machine.execCommandRingDoorbell port ring value s
  | .completionRingDoorbell port ring value => Sys2Proof.Machine.execCompletionRingDoorbell port ring value s
  | .eventRingDoorbell port value => Sys2Proof.Machine.execEventRingDoorbell port value s
  | .commandFetch port entry => Sys2Proof.Machine.execCommandFetch port entry s
  | .commandRetire port ring => Sys2Proof.Machine.execCommandRetire port ring s
  | .ringEnable port ring cfg => Sys2Proof.Machine.execRingEnable port ring cfg s
  | .ringDisable port ring => Sys2Proof.Machine.execRingDisable port ring s
  | .cxlMemRequest port write hpa ask data len => Sys2Proof.Machine.execCxlMemRequest port write hpa ask data len s
  | .uioWrite port dpa data => Sys2Proof.Machine.execUioWrite port dpa data s
  | .uioRead port dpa len => Sys2Proof.Machine.execUioRead port dpa len s
  | .peerPostedWrite port dpa => Sys2Proof.Machine.execPeerPostedWrite port dpa s
  | .bar0Access port write offset size value => Sys2Proof.Machine.execBar0Access port write offset size value s
  | .hostHoldExpired port => Sys2Proof.Machine.execHostHoldExpired port s
  | .hostCompletionArrival port tag how lateUs data => Sys2Proof.Machine.execHostCompletionArrival port tag how lateUs data s
  | .completionTimeout port tag => Sys2Proof.Machine.execCompletionTimeout port tag s
  | .linkDown port => Sys2Proof.Machine.execLinkDown port s
  | .perst port asserted => Sys2Proof.Machine.execPerst port asserted s
  | .cprsnt port => Sys2Proof.Machine.execCprsnt port s
  | .gulemRequestDoorbell port ring value => Sys2Proof.Machine.execGulemRequestDoorbell port ring value s
  | .gulemStatusDoorbell port ring value => Sys2Proof.Machine.execGulemStatusDoorbell port ring value s
  | .gulemRequestFetch port entry prompt promptFail => Sys2Proof.Machine.execGulemRequestFetch port entry prompt promptFail s
  | .gulemBoundary logits => Sys2Proof.Machine.execGulemBoundary logits s
  | .slotBoundary badVectors badBatons => Sys2Proof.Machine.execSlotBoundary badVectors badBatons s
  | .batonInArrival a baton => Sys2Proof.Machine.execBatonInArrival a baton s
  | .stageStepComplete l badLanes => Sys2Proof.Machine.execStageStepComplete l badLanes s
  | .arrayNoCompletion l => Sys2Proof.Machine.execArrayNoCompletion l s
  | .heartbeat a => Sys2Proof.Machine.execHeartbeat a s
  | .heartbeatCheck => Sys2Proof.Machine.execHeartbeatCheck s
  | .nop l e => Sys2Proof.Machine.execNop l e s
  | .dot l e => Sys2Proof.Machine.execDot l e s
  | .dotl l e => Sys2Proof.Machine.execDotl l e s
  | .dots24 l e => Sys2Proof.Machine.execDots24 l e s
  | .dots14 l e => Sys2Proof.Machine.execDots14 l e s
  | .dotsbm l e => Sys2Proof.Machine.execDotsbm l e s
  | .readout l e => Sys2Proof.Machine.execReadout l e s
  | .accload l e => Sys2Proof.Machine.execAccload l e s
  | .accloadx l e => Sys2Proof.Machine.execAccloadx l e s
  | .add l e => Sys2Proof.Machine.execAdd l e s
  | .sub l e => Sys2Proof.Machine.execSub l e s
  | .mul l e => Sys2Proof.Machine.execMul l e s
  | .fmaw l e => Sys2Proof.Machine.execFmaw l e s
  | .abs l e => Sys2Proof.Machine.execAbs l e s
  | .neg l e => Sys2Proof.Machine.execNeg l e s
  | .scaleb l e => Sys2Proof.Machine.execScaleb l e s
  | .and l e => Sys2Proof.Machine.execAnd l e s
  | .or l e => Sys2Proof.Machine.execOr l e s
  | .xor l e => Sys2Proof.Machine.execXor l e s
  | .shl l e => Sys2Proof.Machine.execShl l e s
  | .shr l e => Sys2Proof.Machine.execShr l e s
  | .mov l e => Sys2Proof.Machine.execMov l e s
  | .cmpeq l e => Sys2Proof.Machine.execCmpeq l e s
  | .cmplt l e => Sys2Proof.Machine.execCmplt l e s
  | .cmple l e => Sys2Proof.Machine.execCmple l e s
  | .cmpun l e => Sys2Proof.Machine.execCmpun l e s
  | .sel l e => Sys2Proof.Machine.execSel l e s
  | .min l e => Sys2Proof.Machine.execMin l e s
  | .max l e => Sys2Proof.Machine.execMax l e s
  | .minnum l e => Sys2Proof.Machine.execMinnum l e s
  | .maxnum l e => Sys2Proof.Machine.execMaxnum l e s
  | .rcp l e => Sys2Proof.Machine.execRcp l e s
  | .rsqrt l e => Sys2Proof.Machine.execRsqrt l e s
  | .exp2 l e => Sys2Proof.Machine.execExp2 l e s
  | .log2 l e => Sys2Proof.Machine.execLog2 l e s
  | .perm l e => Sys2Proof.Machine.execPerm l e s
  | .permi l e => Sys2Proof.Machine.execPermi l e s
  | .lredadd l e => Sys2Proof.Machine.execLredadd l e s
  | .lredmax l e => Sys2Proof.Machine.execLredmax l e s
  | .lredmin l e => Sys2Proof.Machine.execLredmin l e s
  | .lredi l e => Sys2Proof.Machine.execLredi l e s
  | .lredacc l e => Sys2Proof.Machine.execLredacc l e s
  | .cvt l e => Sys2Proof.Machine.execCvt l e s
  | .cvtmx l e => Sys2Proof.Machine.execCvtmx l e s
  | .demx l e => Sys2Proof.Machine.execDemx l e s
  | .pack l e => Sys2Proof.Machine.execPack l e s
  | .unpack l e => Sys2Proof.Machine.execUnpack l e s
  | .pack6 l e => Sys2Proof.Machine.execPack6 l e s
  | .unpack6 l e => Sys2Proof.Machine.execUnpack6 l e s
  | .fxcvt l e => Sys2Proof.Machine.execFxcvt l e s
  | .ctradv l e => Sys2Proof.Machine.execCtradv l e s
  | .ctrrd l e => Sys2Proof.Machine.execCtrrd l e s
  | .btnsend l e => Sys2Proof.Machine.execBtnsend l e s
  | .btnrecv l e => Sys2Proof.Machine.execBtnrecv l e s
  | .btnpred l e => Sys2Proof.Machine.execBtnpred l e s
  | .twait l e => Sys2Proof.Machine.execTwait l e s
  | .tinc l e => Sys2Proof.Machine.execTinc l e s
  | .ldcm l e => Sys2Proof.Machine.execLdcm l e s
  | .ldcmk l e => Sys2Proof.Machine.execLdcmk l e s
  | .ldcmx l e => Sys2Proof.Machine.execLdcmx l e s
  | .stcm l e => Sys2Proof.Machine.execStcm l e s
  | .stcmo l e => Sys2Proof.Machine.execStcmo l e s
  | .stcmx l e => Sys2Proof.Machine.execStcmx l e s
  | .send l e => Sys2Proof.Machine.execSend l e s
  | .recv l e => Sys2Proof.Machine.execRecv l e s
  | .pass l e => Sys2Proof.Machine.execPass l e s
  | .merge1 l e => Sys2Proof.Machine.execMerge1 l e s
  | .aaddi l e => Sys2Proof.Machine.execAaddi l e s
  | .aaddf l e => Sys2Proof.Machine.execAaddf l e s
  | .amaxf l e => Sys2Proof.Machine.execAmaxf l e s
  | .aminf l e => Sys2Proof.Machine.execAminf l e s
  | .aor l e => Sys2Proof.Machine.execAor l e s
  | .aand l e => Sys2Proof.Machine.execAand l e s
  | .rdflags l e => Sys2Proof.Machine.execRdflags l e s
  | .rdsrc l e => Sys2Proof.Machine.execRdsrc l e s
  | .rdcoord l e => Sys2Proof.Machine.execRdcoord l e s
  | .rdlap l e => Sys2Proof.Machine.execRdlap l e s
  | .rdtime l e => Sys2Proof.Machine.execRdtime l e s
  | .rdtemp l e => Sys2Proof.Machine.execRdtemp l e s
  | .rdovr l e => Sys2Proof.Machine.execRdovr l e s
  | .rdent l e => Sys2Proof.Machine.execRdent l e s
  | .hubCycle phys => Sys2Proof.Machine.execHubCycle phys s
  | .descriptorRetire phys queue status => Sys2Proof.Machine.execDescriptorRetire phys queue status s
  | .copy phys queue => Sys2Proof.Machine.execCopy phys queue s
  | .gatherRows phys queue => Sys2Proof.Machine.execGatherRows phys queue s
  | .gatherPages phys queue => Sys2Proof.Machine.execGatherPages phys queue s
  | .sample phys queue => Sys2Proof.Machine.execSample phys queue s
  | .transpose phys queue => Sys2Proof.Machine.execTranspose phys queue s
  | .reduce phys queue => Sys2Proof.Machine.execReduce phys queue s
  | .dramRefresh phys slice burstsWaiting => Sys2Proof.Machine.execDramRefresh phys slice burstsWaiting s
  | .readRequest src form addr sizeM1 => Sys2Proof.Machine.execReadRequest src form addr sizeM1 s
  | .writeRequest src form addr sizeM1 data => Sys2Proof.Machine.execWriteRequest src form addr sizeM1 data s
  | .readResponse dst data => Sys2Proof.Machine.execReadResponse dst data s
  | .writeAcknowledge dst => Sys2Proof.Machine.execWriteAcknowledge dst s
  | .tallyIncrement src tally amount => Sys2Proof.Machine.execTallyIncrement src tally amount s
  | .post src a first last write owner => Sys2Proof.Machine.execPost src a first last write owner s
  | .postAcknowledge dst => Sys2Proof.Machine.execPostAcknowledge dst s
  | .atomicRequest src op addr value issuer lane => Sys2Proof.Machine.execAtomicRequest src op addr value issuer lane s
  | .config src write addr value => Sys2Proof.Machine.execConfig src write addr value s
  | .record src status location addr data => Sys2Proof.Machine.execRecord src status location addr data s
  | .mgmt src message => Sys2Proof.Machine.execMgmt src message s
  | .tallyWait src tally target => Sys2Proof.Machine.execTallyWait src tally target s
  | .waitDone dst => Sys2Proof.Machine.execWaitDone dst s
  | .progressSend => Sys2Proof.Machine.execProgressSend s
  | .progress dst => Sys2Proof.Machine.execProgress dst s
  | .ack dst => Sys2Proof.Machine.execAck dst s
  | .negative dst status addr => Sys2Proof.Machine.execNegative dst status addr s
  | .serviceTimeout dst => Sys2Proof.Machine.execServiceTimeout dst s
  | .tallyWaitComplete tally => Sys2Proof.Machine.execTallyWaitComplete tally s
  | .seamFrameReceive phys side seq checkGood replayRequest ackSeq => Sys2Proof.Machine.execSeamFrameReceive phys side seq checkGood replayRequest ackSeq s
  | .seamDeadSilence phys side => Sys2Proof.Machine.execSeamDeadSilence phys side s
  | .seamDeadReplayLimit phys side => Sys2Proof.Machine.execSeamDeadReplayLimit phys side s
  | .meshNoProgress phys => Sys2Proof.Machine.execMeshNoProgress phys s
  | .lockstepCompare => Sys2Proof.Machine.execLockstepCompare s
  | .lockstepTimeout epoch => Sys2Proof.Machine.execLockstepTimeout epoch s
  | .powerTick late sensors ring0 ring1 input energy counts => Sys2Proof.Machine.execPowerTick late sensors ring0 ring1 input energy counts s
  | .capFloor => Sys2Proof.Machine.execCapFloor s
  | .tilePowerGood phys => Sys2Proof.Machine.execTilePowerGood phys s
  | .tileTrip phys cause rail phase => Sys2Proof.Machine.execTileTrip phys cause rail phase s
  | .junctionTrip phys ring => Sys2Proof.Machine.execJunctionTrip phys ring s
  | .inputFault voltage => Sys2Proof.Machine.execInputFault voltage s
  | .standbyPowerOn serial selfTestFails => Sys2Proof.Machine.execStandbyPowerOn serial selfTestFails s
  | .standbyPowerLoss => Sys2Proof.Machine.execStandbyPowerLoss s
  | .refLost => Sys2Proof.Machine.execRefLost s
  | .reacquire via => Sys2Proof.Machine.execReacquire via s
  | .clkSlotCfgWrite via value => Sys2Proof.Machine.execClkSlotCfgWrite via value s
  | .glideEnd => Sys2Proof.Machine.execGlideEnd s
  | .clkSrcSelWrite via phys value => Sys2Proof.Machine.execClkSrcSelWrite via phys value s
  | .clkSwitchComplete phys => Sys2Proof.Machine.execClkSwitchComplete phys s
  | .clkSourceLost phys => Sys2Proof.Machine.execClkSourceLost phys s
  | .clkDivWrite via phys value => Sys2Proof.Machine.execClkDivWrite via phys value s
  | .gateOn via phys node => Sys2Proof.Machine.execGateOn via phys node s
  | .gateOff via phys node => Sys2Proof.Machine.execGateOff via phys node s
  | .gateOffAfterDrain via phys node => Sys2Proof.Machine.execGateOffAfterDrain via phys node s
  | .gateCancel via phys node => Sys2Proof.Machine.execGateCancel via phys node s
  | .gatePendingComplete phys node => Sys2Proof.Machine.execGatePendingComplete phys node s
  | .ppsEdge now => Sys2Proof.Machine.execPpsEdge now s
  | .clkTimeNextWrite via value => Sys2Proof.Machine.execClkTimeNextWrite via value s
  | .timeNextExpiry => Sys2Proof.Machine.execTimeNextExpiry s
  | .ppsLost => Sys2Proof.Machine.execPpsLost s
  | .fwGo port value bundle readFail => Sys2Proof.Machine.execFwGo port value bundle readFail s
  | .fwPush mport session offset total bytes => Sys2Proof.Machine.execFwPush mport session offset total bytes s
  | .fwVerify => Sys2Proof.Machine.execFwVerify s
  | .mgmtSessionOpen mport proto peer chainAnchor proved => Sys2Proof.Machine.execMgmtSessionOpen mport proto peer chainAnchor proved s
  | .regRead mport session seq addr => Sys2Proof.Machine.execRegRead mport session seq addr s
  | .regWrite mport session seq addr value => Sys2Proof.Machine.execRegWrite mport session seq addr value s
  | .subscribe mport session seq kinds => Sys2Proof.Machine.execSubscribe mport session seq kinds s
  | .spdmRequest via session req => Sys2Proof.Machine.execSpdmRequest via session req s
  | .redfishRequest mport session req => Sys2Proof.Machine.execRedfishRequest mport session req s
  | .ideKeyProgramming port key katPass => Sys2Proof.Machine.execIdeKeyProgramming port key katPass s
  | .transceiverChange mport inserted supported => Sys2Proof.Machine.execTransceiverChange mport inserted supported s
  | .entropyTestFail test => Sys2Proof.Machine.execEntropyTestFail test s
  | .hubHdlLenWrite via phys handle value => Sys2Proof.Machine.execHubHdlLenWrite via phys handle value s
  | .hubHdlAddrWrite via phys handle value => Sys2Proof.Machine.execHubHdlAddrWrite via phys handle value s
  | .caObDataAccess via phys x y write value => Sys2Proof.Machine.execCaObDataAccess via phys x y write value s
  | .hubDescDataAccess via phys write value => Sys2Proof.Machine.execHubDescDataAccess via phys write value s
  | .otpStageDataAccess via write value => Sys2Proof.Machine.execOtpStageDataAccess via write value s
  | .cvuFeed8 via ring phys unit value => Sys2Proof.Machine.execCvuFeed8 via ring phys unit value s
  | .cvuFeed16 via ring phys unit value => Sys2Proof.Machine.execCvuFeed16 via ring phys unit value s
  | .cvuFeed32 via ring phys unit value => Sys2Proof.Machine.execCvuFeed32 via ring phys unit value s
  | .cvuFold via ring phys unit value => Sys2Proof.Machine.execCvuFold via ring phys unit value s
  | .cvuValueWrite via ring phys unit value => Sys2Proof.Machine.execCvuValueWrite via ring phys unit value s
  | .cvuLoad via ring phys unit cfg => Sys2Proof.Machine.execCvuLoad via ring phys unit cfg s
  | .tlyCountWrite via ring phys index value => Sys2Proof.Machine.execTlyCountWrite via ring phys index value s
  | .tlyAdd via ring phys index value => Sys2Proof.Machine.execTlyAdd via ring phys index value s
  | .tlyCfgWrite via index value => Sys2Proof.Machine.execTlyCfgWrite via index value s
  | .tlyWatchRangeWrite via index limit value => Sys2Proof.Machine.execTlyWatchRangeWrite via index limit value s
  | .opCeilingWrite via watts => Sys2Proof.Machine.execOpCeilingWrite via watts s
  | .registerReadClear via addr => Sys2Proof.Machine.execRegisterReadClear via addr s
  | .setupWrite via addr size value => Sys2Proof.Machine.execSetupWrite via addr size value s
  | .referenceReturn => Sys2Proof.Machine.execReferenceReturn s
  | .linkTrained port speed width loflit => Sys2Proof.Machine.execLinkTrained port speed width loflit s
  | .cableMated port => Sys2Proof.Machine.execCableMated port s
  | .busbarStable => Sys2Proof.Machine.execBusbarStable s
  | .uioWriteCompletion port tag => Sys2Proof.Machine.execUioWriteCompletion port tag s
  | .railSwitchOffDone phys => Sys2Proof.Machine.execRailSwitchOffDone phys s
  | .sideReadyChange phys side ready path depth hold => Sys2Proof.Machine.execSideReadyChange phys side ready path depth hold s
  | .entropyPoolRefill phys words => Sys2Proof.Machine.execEntropyPoolRefill phys words s
  | .mgmtSessionEnd mport proto session => Sys2Proof.Machine.execMgmtSessionEnd mport proto session s
  | .bringupPhaseComplete what => Sys2Proof.Machine.execBringupPhaseComplete what s
  | .configSpaceAccess port what => Sys2Proof.Machine.execConfigSpaceAccess port what s
  | .jtagAccess what => Sys2Proof.Machine.execJtagAccess what s

end Sys2Proof.Machine
end

