-- ==== Sys2Proof/WellFormed.lean ====
section
/-!
DEFINITION. Which commands name things that exist: the 60 stands and their ring (R5, R40), the 56 logical stands (R24),
the array sites and seam lanes of the factory map (R466), the hub queues (R261), the access sizes of R15, the four
SPDM and record sessions. The meanings are total and need none of this; the checks say which rows an honest sender
presents.
-/

namespace Sys2Proof

/-- A physical index that names a stand: the corners of the 8 × 8 grid are empty (R40). -/
def physNamed (p : BitVec 6) : Bool := p != 0 && p != 7 && p != 56 && p != 63

/-- A logical stand number (R24). -/
def logicalNamed (l : BitVec 6) : Bool := decide (l.toNat < 56)

/-- An array site: physical columns 0 to 65 (R466). -/
def Site.named (t : Site) : Bool := physNamed t.phys && decide (t.col.toNat < 66)

/-- A seam lane: at most 80 lanes a side (R466). -/
def SeamLane.named (t : SeamLane) : Bool := physNamed t.phys && decide (t.lane.toNat < 80)

/-- A DRAM row of an existing stand. -/
def DramRow.named (t : DramRow) : Bool := physNamed t.phys

/-- What a heat found, at existing places. -/
def HeatFinding.named (f : HeatFinding) : Bool :=
  physNamed f.phys && f.sitesFailed.all Site.named && f.lanesFailed.all SeamLane.named

/-- The two access sizes of R15, at a naturally aligned place. -/
def sizeNamed (addr : Nat) (size : BitVec 4) : Bool :=
  (size == 4 && decide (addr % 4 = 0)) || (size == 8 && decide (addr % 8 = 0))

/-- A hub queue: image queues 0 to 27 and ring queues 28 to 31 (R261). -/
def queueNamed (q : BitVec 6) : Bool := decide (q.toNat < 32)

/-- A router of a stand, 0 to 63 the patches and 64 the hub, or one of the ring's (R228). -/
def MeshSrc.named (m : MeshSrc) : Bool := decide (65 ≤ m.router.toNat) || (physNamed m.stand && decide (m.router.toNat < 65))

/-- The stands that the end of a bring-up phase names. -/
def PhaseDone.named : PhaseDone → Bool
  | .ringChecks _ => true
  | .seamTraining p _ _ => physNamed p
  | .sliceTraining p _ => physNamed p
  | .march failed => failed.all DramRow.named
  | .warmStep _ failed sites => failed.all (fun f => physNamed f.1) && sites.all Site.named

/-- The controller a JTAG access names. -/
def JtagAccess.named : JtagAccess → Bool
  | .haltRanger _ => true
  | .stepRanger _ => true
  | .resumeRanger _ => true
  | .haltController p => physNamed p
  | .stepController p => physNamed p
  | .resumeController p => physNamed p
  | .read a => decide (a.toNat % 8 = 0)
  | .write a _ => decide (a.toNat % 8 = 0)

/-- The protocols of a management port (R521, R530): 0 Redfish, 1 record sessions, 2 boot. -/
def protoNamed (p : BitVec 2) : Bool := p != 3

/-- The unit of a register access: the ring, or a stand that exists. -/
def unitNamed (ring : Bool) (p : BitVec 6) : Bool := ring || physNamed p

/-- Does a command name only things that exist? The rows not listed name nothing that could be absent. -/
def Instr.wellFormed : Instr → Bool
  | .relocate _ probeFailed => probeFailed.all Site.named
  | .singleStandTestEnd p failed => physNamed p && failed.all DramRow.named
  | .heatEnd found => found.all HeatFinding.named
  | .retentionHoldEnd failed => failed.all DramRow.named
  | .bar0Access _ _ off size _ => sizeNamed off.toNat size
  | .setupWrite _ addr size _ => sizeNamed addr.toNat size
  | .registerReadClear _ addr => decide (addr.toNat % 8 = 0)
  | .slotBoundary v b => (v ++ b).all (fun x => physNamed x.1)
  | .batonInArrival a _ => logicalNamed a.stand
  | .stageStepComplete l _ => logicalNamed l.stand
  | .arrayNoCompletion l => logicalNamed l.loc.stand
  | .heartbeat a => logicalNamed a.stand
  | .hubCycle p => physNamed p
  | .descriptorRetire p q _ => physNamed p && queueNamed q
  | .copy p q => physNamed p && queueNamed q
  | .gatherRows p q => physNamed p && queueNamed q
  | .gatherPages p q => physNamed p && queueNamed q
  | .sample p q => physNamed p && queueNamed q
  | .transpose p q => physNamed p && queueNamed q
  | .reduce p q => physNamed p && queueNamed q
  | .dramRefresh p _ _ => physNamed p
  | .readRequest src _ _ _ => src.named
  | .writeRequest src _ _ _ _ => src.named
  | .readResponse dst _ => dst.named
  | .writeAcknowledge dst => dst.named
  | .tallyIncrement src _ _ => src.named
  | .post src a _ _ _ _ => src.named && logicalNamed a.stand
  | .postAcknowledge dst => dst.named
  | .atomicRequest src _ _ _ issuer _ => src.named && logicalNamed issuer.stand
  | .config src _ addr _ => src.named && decide (addr.toNat % 8 = 0)
  | .record src _ _ _ _ => src.named
  | .mgmt src _ => src.named
  | .tallyWait src _ _ => src.named
  | .waitDone dst => dst.named
  | .progress dst => dst.named
  | .ack dst => dst.named
  | .negative dst _ _ => dst.named
  | .serviceTimeout dst => dst.named
  | .seamFrameReceive p _ _ _ _ _ => physNamed p
  | .seamDeadSilence p _ => physNamed p
  | .seamDeadReplayLimit p _ => physNamed p
  | .meshNoProgress p => physNamed p
  | .tilePowerGood p => physNamed p
  | .tileTrip p _ _ _ => physNamed p
  | .junctionTrip p ring => unitNamed ring p
  | .clkSrcSelWrite _ p _ => physNamed p
  | .clkSwitchComplete p => physNamed p
  | .clkSourceLost p => physNamed p
  | .clkDivWrite _ p _ => physNamed p
  | .gateOn _ p _ => physNamed p
  | .gateOff _ p _ => physNamed p
  | .gateOffAfterDrain _ p _ => physNamed p
  | .gateCancel _ p _ => physNamed p
  | .gatePendingComplete p _ => physNamed p
  | .mgmtSessionOpen _ proto _ _ _ => protoNamed proto
  | .entropyTestFail t => t != 0
  | .hubHdlLenWrite _ p _ _ => physNamed p
  | .hubHdlAddrWrite _ p _ _ => physNamed p
  | .caObDataAccess _ p _ _ _ _ => physNamed p
  | .hubDescDataAccess _ p _ _ => physNamed p
  | .cvuFeed8 _ ring p _ _ => unitNamed ring p
  | .cvuFeed16 _ ring p _ _ => unitNamed ring p
  | .cvuFeed32 _ ring p _ _ => unitNamed ring p
  | .cvuFold _ ring p _ _ => unitNamed ring p
  | .cvuValueWrite _ ring p _ _ => unitNamed ring p
  | .cvuLoad _ ring p _ _ => unitNamed ring p
  | .tlyCountWrite _ ring p _ _ => unitNamed ring p
  | .tlyAdd _ ring p _ _ => unitNamed ring p
  | .railSwitchOffDone p => physNamed p
  | .sideReadyChange p _ _ _ _ _ => physNamed p
  | .entropyPoolRefill p _ => physNamed p
  | .mgmtSessionEnd _ proto _ => protoNamed proto
  | .bringupPhaseComplete what => what.named
  | .jtagAccess what => what.named
  | .loadImage _ _ _ => true
  | .start _ => true
  | .drain _ => true
  | .drainPointReached => true
  | .blaze _ => true
  | .blazeCommit => true
  | .restore _ => true
  | .resume _ => true
  | .fenceArray _ => true
  | .fenceStand _ => true
  | .selectPlan _ => true
  | .release _ => true
  | .setPowerCap _ => true
  | .setClock _ => true
  | .setLockstep _ => true
  | .dmaCopy _ => true
  | .dmaStand _ => true
  | .abort _ _ => true
  | .fuseWrite _ _ => true
  | .debugOpen _ => true
  | .debugClose _ => true
  | .debugTimeout => true
  | .selftest _ _ => true
  | .screenSet _ => true
  | .screenRun _ _ _ _ => true
  | .standPower _ => true
  | .bringUp _ => true
  | .coldBringUpAuto => true
  | .busbarWaitTimeout => true
  | .trainingLimit => true
  | .warmRestartTimeout => true
  | .assignParity _ => true
  | .commandRingDoorbell _ _ _ => true
  | .completionRingDoorbell _ _ _ => true
  | .eventRingDoorbell _ _ => true
  | .commandFetch _ _ => true
  | .commandRetire _ _ => true
  | .ringEnable _ _ _ => true
  | .ringDisable _ _ => true
  | .cxlMemRequest _ _ _ _ _ _ => true
  | .uioWrite _ _ _ => true
  | .uioRead _ _ _ => true
  | .peerPostedWrite _ _ => true
  | .hostHoldExpired _ => true
  | .hostCompletionArrival _ _ _ _ _ => true
  | .completionTimeout _ _ => true
  | .linkDown _ => true
  | .perst _ _ => true
  | .cprsnt _ => true
  | .gulemRequestDoorbell _ _ _ => true
  | .gulemStatusDoorbell _ _ _ => true
  | .gulemRequestFetch _ _ _ _ => true
  | .gulemBoundary _ => true
  | .heartbeatCheck => true
  | .nop l _ => logicalNamed l.stand
  | .dot l _ => logicalNamed l.stand
  | .dotl l _ => logicalNamed l.stand
  | .dots24 l _ => logicalNamed l.stand
  | .dots14 l _ => logicalNamed l.stand
  | .dotsbm l _ => logicalNamed l.stand
  | .readout l _ => logicalNamed l.stand
  | .accload l _ => logicalNamed l.stand
  | .accloadx l _ => logicalNamed l.stand
  | .add l _ => logicalNamed l.stand
  | .sub l _ => logicalNamed l.stand
  | .mul l _ => logicalNamed l.stand
  | .fmaw l _ => logicalNamed l.stand
  | .abs l _ => logicalNamed l.stand
  | .neg l _ => logicalNamed l.stand
  | .scaleb l _ => logicalNamed l.stand
  | .and l _ => logicalNamed l.stand
  | .or l _ => logicalNamed l.stand
  | .xor l _ => logicalNamed l.stand
  | .shl l _ => logicalNamed l.stand
  | .shr l _ => logicalNamed l.stand
  | .mov l _ => logicalNamed l.stand
  | .cmpeq l _ => logicalNamed l.stand
  | .cmplt l _ => logicalNamed l.stand
  | .cmple l _ => logicalNamed l.stand
  | .cmpun l _ => logicalNamed l.stand
  | .sel l _ => logicalNamed l.stand
  | .min l _ => logicalNamed l.stand
  | .max l _ => logicalNamed l.stand
  | .minnum l _ => logicalNamed l.stand
  | .maxnum l _ => logicalNamed l.stand
  | .rcp l _ => logicalNamed l.stand
  | .rsqrt l _ => logicalNamed l.stand
  | .exp2 l _ => logicalNamed l.stand
  | .log2 l _ => logicalNamed l.stand
  | .perm l _ => logicalNamed l.stand
  | .permi l _ => logicalNamed l.stand
  | .lredadd l _ => logicalNamed l.stand
  | .lredmax l _ => logicalNamed l.stand
  | .lredmin l _ => logicalNamed l.stand
  | .lredi l _ => logicalNamed l.stand
  | .lredacc l _ => logicalNamed l.stand
  | .cvt l _ => logicalNamed l.stand
  | .cvtmx l _ => logicalNamed l.stand
  | .demx l _ => logicalNamed l.stand
  | .pack l _ => logicalNamed l.stand
  | .unpack l _ => logicalNamed l.stand
  | .pack6 l _ => logicalNamed l.stand
  | .unpack6 l _ => logicalNamed l.stand
  | .fxcvt l _ => logicalNamed l.stand
  | .ctradv l _ => logicalNamed l.stand
  | .ctrrd l _ => logicalNamed l.stand
  | .btnsend l _ => logicalNamed l.stand
  | .btnrecv l _ => logicalNamed l.stand
  | .btnpred l _ => logicalNamed l.stand
  | .twait l _ => logicalNamed l.stand
  | .tinc l _ => logicalNamed l.stand
  | .ldcm l _ => logicalNamed l.stand
  | .ldcmk l _ => logicalNamed l.stand
  | .ldcmx l _ => logicalNamed l.stand
  | .stcm l _ => logicalNamed l.stand
  | .stcmo l _ => logicalNamed l.stand
  | .stcmx l _ => logicalNamed l.stand
  | .send l _ => logicalNamed l.stand
  | .recv l _ => logicalNamed l.stand
  | .pass l _ => logicalNamed l.stand
  | .merge1 l _ => logicalNamed l.stand
  | .aaddi l _ => logicalNamed l.stand
  | .aaddf l _ => logicalNamed l.stand
  | .amaxf l _ => logicalNamed l.stand
  | .aminf l _ => logicalNamed l.stand
  | .aor l _ => logicalNamed l.stand
  | .aand l _ => logicalNamed l.stand
  | .rdflags l _ => logicalNamed l.stand
  | .rdsrc l _ => logicalNamed l.stand
  | .rdcoord l _ => logicalNamed l.stand
  | .rdlap l _ => logicalNamed l.stand
  | .rdtime l _ => logicalNamed l.stand
  | .rdtemp l _ => logicalNamed l.stand
  | .rdovr l _ => logicalNamed l.stand
  | .rdent l _ => logicalNamed l.stand
  | .progressSend => true
  | .tallyWaitComplete _ => true
  | .lockstepCompare => true
  | .lockstepTimeout _ => true
  | .powerTick _ _ _ _ _ _ _ => true
  | .capFloor => true
  | .inputFault _ => true
  | .standbyPowerOn _ _ => true
  | .standbyPowerLoss => true
  | .refLost => true
  | .reacquire _ => true
  | .clkSlotCfgWrite _ _ => true
  | .glideEnd => true
  | .ppsEdge _ => true
  | .clkTimeNextWrite _ _ => true
  | .timeNextExpiry => true
  | .ppsLost => true
  | .fwGo _ _ _ _ => true
  | .fwPush _ _ _ _ _ => true
  | .fwVerify => true
  | .regRead _ _ _ _ => true
  | .regWrite _ _ _ _ _ => true
  | .subscribe _ _ _ _ => true
  | .spdmRequest _ _ _ => true
  | .redfishRequest _ _ _ => true
  | .ideKeyProgramming _ _ _ => true
  | .transceiverChange _ _ _ => true
  | .otpStageDataAccess _ _ _ => true
  | .tlyCfgWrite _ _ _ => true
  | .tlyWatchRangeWrite _ _ _ _ => true
  | .opCeilingWrite _ _ => true
  | .referenceReturn => true
  | .linkTrained _ _ _ _ => true
  | .cableMated _ => true
  | .busbarStable => true
  | .uioWriteCompletion _ _ => true
  | .configSpaceAccess _ _ => true

end Sys2Proof
end

