-- ==== Sys2Proof/Safety.lean ====
section
/-!
DEFINITION. What a well-kept state is, in the terms the statements use: the byte memories and the register file in
their one form (Machine/Store.lean), the slot clocks within the ceiling (R5), the queue's commands naming only things
that exist; and what a verb, an access, a request and a stage operation need to have their own effect.
-/

namespace Sys2Proof.Machine

/-- Every byte memory of the block lists its bytes with strictly rising addresses and no byte that reads as an unlisted
one: SRAM and DRAM, the operand buffers, the memories of hosts and of lock-step peers, the descriptors of the hubs and
the staging buffer of FUSE_WRITE. -/
def Memory.wf (s : State) : Bool :=
  smapOk memDflt s.mem && smapOk memDflt s.ob && smapOk memDflt s.hostMem && smapOk memDflt s.peerMem &&
    smapOk memDflt s.descs && smapOk memDflt s.otpStage

/-- The register file lists only registers that do not stand at their reset value, with rising addresses. -/
def Registers.wf (s : State) : Bool := smapOk regReset s.regs

/-- The error patterns, the slot tags and the bad operand slots in the one form. -/
def Codes.wf (s : State) : Bool := smapOk upsetDflt s.upset && smapOk tagDflt s.tags && smapOk badDflt s.obBad

/-- Every command that waits names only things that exist. -/
def queueOk (s : State) : Bool := s.pending.all Instr.wellFormed

/-- The state in which a verb's own conditions are judged: its message has arrived (R523), and the wait of its WAIT_EN tally,
if it has one, is met (R276, R317). -/
def verbReady (c : Cmd) (s : State) : State := (cmdWait c (cmdArrives c s)).2

/-- A verb is past everything that is judged before its own conditions (R345, R346, R350, R465): its sender is there, it has
not ended already, no earlier command and no arbiter holds it, its WAIT_EN tally is reached, its role, header and body are
right, and the module is in a state that accepts it. -/
def verbIssues (code : Nat) (c : Cmd) (bodyOk : Bool) (s : State) : Bool :=
  let t := cmdArrives c s
  let u := verbReady c s
  senderThere s c && !(t.dones.any (fun d => d.cmd = c)) && !(heldBack t code c || arbiterBusy t code c) &&
    decide (waitMet t c = .ok true) && !(isOperator code && c.fromHost) && decide (c.flags.toNat < 32) &&
    (c.doneUnit || decide (code = 0x10)) && bodyOk &&
    !(c.doneEn && decide (tallyPlace u c.doneTally.toNat = .error stAddrReserved)) &&
    !(decide (u.mode = .none) && !allowedInNone code)

/-- A set-up access passes the gate of the register it names (R23, R41, R338). -/
def passes (via : Via) (write : Bool) (k : Nat) (s : State) : Prop := gateOf via write k s = .go

/-- A set-up access of `n` bytes at an address reaches the register of a canonical address, in a form that it admits, and its
gate lets it pass (R15, R23, R40, R297, R338). -/
def reaches (via : Via) (write : Bool) (a n k : Nat) (s : State) : Prop :=
  sizeOk a n = true ∧ suReach via a s = .ok k ∧ formOk k (accessMask a n) = true ∧ passes via write k s

/-- The registers whose set-up write sets their fields and does no more (R14, R16); a write to any other has an effect that a
rule of its own gives. -/
def plainReg (k : Nat) : Bool :=
  let c := suClass k
  let o := suOff k
  let ring : Bool := o % 0x20 = 0 || o % 0x20 = 8 || o % 0x20 = 0x18
  if suView k = 2 then
    !([1, 2, 10, 11, 14, 15].contains c) && !(c = 0 && [0x200, 0x218, 0x220].contains o)
  else
    !([7, 8].contains c) && !(c = 1 && (o = 0x18 || (0x400 ≤ o && o < 0x600 && ring))) && !(c = 3 && [8, 0x10, 0x108].contains o) &&
      !(c = 4 && o = 0) && !(c = 5 && o = 0x20) &&
      !(c = 9 && (o = 0x18 || o = 0x20 || (0x40 ≤ o && o < 0x80) || (0x800 ≤ o && ring)))

/-- What a set-up write of some bits leaves in a register that it only sets (R14, R16): RW bits as written, a 32-bit
write leaving the other half as it stands; W1C bits cleared where 1 is written; every other bit as it was. -/
def writtenWord (s : State) (k : Nat) (mask v : Word) : Word :=
  let d := descOf k
  let x := mergeWrite s k mask v
  if mask &&& (d.rw ||| d.wo ||| d.w1c) = 0 then rg s k
  else ((rg s k &&& ~~~d.rw) ||| (x &&& d.rw)) &&& ~~~(x &&& d.w1c)

/-- One register has come to hold a word, and every other register and the memories are as before. -/
def onlyWrote (k : Nat) (w : Word) (s t : State) : Prop := rg t k = w ∧ (∀ j, j ≠ k → rg t j = rg s j) ∧ t.mem = s.mem

/-- The registers whose read gives what they show: all but the data windows, which advance (R108, R293, R548), and the watch
registers, which a stand's tally lacks (R330). -/
def plainRead (k : Nat) : Bool :=
  !(decide (k = CaObData.key (suStand k) (suIndex k)) && !isMemIdx (suIndex k)) && decide (k ≠ HubDescData.key (suStand k)) &&
    decide (k ≠ OtpStageData.key) && !(decide (suView k = 2 ∧ suClass k = 11 ∧ 0x10 ≤ suOff k ∧ suOff k < 0x28))

/-- The value that a read of `n` bytes returns, and what it leaves, its RC bits cleared (R14, R15). -/
def readValue (s : State) (k a n : Nat) : Word := (shown s k &&& accessMask a n) >>> accessShift a
def readLeaves (s : State) (k a n : Nat) : Word := rg s k &&& ~~~((descOf k).rc &&& accessMask a n)

/-- A request packet finds its destination and a path to it (R228, R229). -/
def arrives (src : MeshSrc) (k : SvcKind) (s : State) : Prop :=
  ∃ d, svcDest (svcNote src k s) k = .ok d ∧
    reachable (svcNote src k s) (routerId src.stand.toNat src.router.toNat) d = true

/-- The answer that a request's destination has put on its way to its source, the newest first. -/
def answered (s : State) (src : MeshSrc) : Option SvcAnswer :=
  (s.svcResp.reverse.find? (fun x => x.1 = src)).map (·.2)

/-- The lane words that a committing evaluation writes. -/
def stepWords (x : StepEnd) : Option (List Lane) :=
  match x with
  | .commit r => r.out
  | _ => none

/-- What a step changes when it commits (R81): accumulators, predicate, latch, the SRS count, the operand buffers, core
memory with its tags. -/
structure StepEffects where
  acc : List Acc
  pred : BitVec 16
  latch : Vec
  srs : Nat
  ob : List Host.Cell
  mem : List Host.Cell
  tags : List (Nat × Bool)
  deriving DecidableEq, Repr

/-- The effects of a stage's steps as they stand. -/
def stepEffects (s : State) (l : Loc) : StepEffects :=
  ⟨(stageOf s l.key).acc, (stageOf s l.key).pred, (stageOf s l.key).latch,
    rf s (CaSrCount.key l.p l.a l.st) CaSrCount.count, s.ob, s.mem, s.tags⟩

/-- Can an engine go on with the descriptor of a queue: it executes, its end is open, it awaits no post and no word that it has
found uncorrectable, and its stand is not throttled (R180, R272, R451)? -/
def engineReady (s : State) (p q : Nat) (e : Exec) : Prop :=
  execOf s p q = some e ∧ e.result = none ∧ e.posts = [] ∧ e.stuckAt = none ∧ throttled s p = false

/-- A gate node that bars START and RESUME (R438): off or pending, and an array group of an in-service stand or an engine
that an image queue names. -/
def gateBarred (s : State) (p n : Nat) : Prop :=
  p ∈ servicePhys s ∧ isGate n = true ∧ gateSt s p n ≠ 0 ∧
    (0x100 ≤ n ∨ ∃ q, q < 28 ∧ qMode s p q ≠ 0 ∧ (qClass s p q, qIndex s p q) ∈ engineOfBit (n - 0x10) ∧ 0x10 ≤ n ∧ n ≤ 0x20)

/-- The slot clock, the clock that is configured and the one a glide goes to are within the fused ceiling (R5). -/
def slotClockOk (s : State) : Prop :=
  rf s ClkSlotStatus.key ClkSlotStatus.currentKhz ≤ Config.slotCeilKhz ∧
    rf s ClkSlotCfg.key ClkSlotCfg.khz ≤ Config.slotCeilKhz ∧
    ∀ khz, s.ringClk.glide = some khz → khz ≤ Config.slotCeilKhz

/-- The rows of the stage operations other than TWAIT, with what evaluates each (R111 to R134). -/
def stageRow : Instr → Option (StageLoc × Entry × (Loc → Entry → State → StepEnd))
  | .nop l e => some (l, e, evalNop)
  | .dot l e => some (l, e, evalDot true)
  | .dotl l e => some (l, e, evalDot false)
  | .dots24 l e => some (l, e, evalSparse .s24)
  | .dots14 l e => some (l, e, evalSparse .s14)
  | .dotsbm l e => some (l, e, evalSparse .bitmap)
  | .readout l e => some (l, e, evalReadout)
  | .accload l e => some (l, e, evalAccload)
  | .accloadx l e => some (l, e, evalAccloadx)
  | .add l e => some (l, e, evalArith fvAdd (· + ·))
  | .sub l e => some (l, e, evalArith opSub (· - ·))
  | .mul l e => some (l, e, evalArith (fun _ => fvMul) (· * ·))
  | .fmaw l e => some (l, e, evalFmaw)
  | .abs l e => some (l, e, evalArith1 fvAbs (fun a => a.natAbs))
  | .neg l e => some (l, e, evalArith1 fvNeg (fun a => -a))
  | .scaleb l e => some (l, e, evalScaleb)
  | .and l e => some (l, e, evalBits (· &&& ·))
  | .or l e => some (l, e, evalBits (· ||| ·))
  | .xor l e => some (l, e, evalBits (· ^^^ ·))
  | .shl l e => some (l, e, evalBits (fun a b => a <<< (b.toNat % 32)))
  | .shr l e => some (l, e, evalBits (fun a b => a >>> (b.toNat % 32)))
  | .mov l e => some (l, e, evalMov)
  | .cmpeq l e => some (l, e, evalCompare fvEq false)
  | .cmplt l e => some (l, e, evalCompare fvLt true)
  | .cmple l e => some (l, e, evalCompare (fun a b => fvLt a b || fvEq a b) true)
  | .cmpun l e => some (l, e, evalCompare (fun a b => a.isNan || b.isNan) false)
  | .sel l e => some (l, e, evalSel)
  | .min l e => some (l, e, evalArith (fun _ => fvMinMax false) min)
  | .max l e => some (l, e, evalArith (fun _ => fvMinMax true) max)
  | .minnum l e => some (l, e, evalArith (fun _ => fvMinMaxNum false) min)
  | .maxnum l e => some (l, e, evalArith (fun _ => fvMinMaxNum true) max)
  | .rcp l e => some (l, e, evalApprox 0)
  | .rsqrt l e => some (l, e, evalApprox 1)
  | .exp2 l e => some (l, e, evalApprox 2)
  | .log2 l e => some (l, e, evalApprox 3)
  | .perm l e => some (l, e, evalPerm)
  | .permi l e => some (l, e, evalPermi)
  | .lredadd l e => some (l, e, evalLredadd)
  | .lredmax l e => some (l, e, evalLredExt true)
  | .lredmin l e => some (l, e, evalLredExt false)
  | .lredi l e => some (l, e, evalLredi)
  | .lredacc l e => some (l, e, evalLredacc)
  | .cvt l e => some (l, e, evalCvt)
  | .cvtmx l e => some (l, e, evalCvtmx)
  | .demx l e => some (l, e, evalDemx)
  | .pack l e => some (l, e, evalPack)
  | .unpack l e => some (l, e, evalUnpack)
  | .pack6 l e => some (l, e, evalPack6)
  | .unpack6 l e => some (l, e, evalUnpack6)
  | .fxcvt l e => some (l, e, evalFxcvt)
  | .ctradv l e => some (l, e, evalCtradv)
  | .ctrrd l e => some (l, e, evalCtrrd)
  | .btnsend l e => some (l, e, evalBtnsend)
  | .btnrecv l e => some (l, e, evalBtnrecv)
  | .btnpred l e => some (l, e, evalBtnpred)
  | .tinc l e => some (l, e, evalTinc)
  | .ldcm l e => some (l, e, evalLdcm)
  | .ldcmk l e => some (l, e, evalLdcmk)
  | .ldcmx l e => some (l, e, evalLdcmx)
  | .stcm l e => some (l, e, evalStcm)
  | .stcmo l e => some (l, e, evalStcmo)
  | .stcmx l e => some (l, e, evalStcmx)
  | .send l e => some (l, e, evalSend)
  | .recv l e => some (l, e, evalRecv)
  | .pass l e => some (l, e, evalPass)
  | .merge1 l e => some (l, e, evalMerge1)
  | .aaddi l e => some (l, e, evalAtomic (fun _ => .addI) false)
  | .aaddf l e => some (l, e, evalAaddf)
  | .amaxf l e => some (l, e, evalAtomic (fun _ => .maxF) false)
  | .aminf l e => some (l, e, evalAtomic (fun _ => .minF) false)
  | .aor l e => some (l, e, evalAtomic (fun _ => .or) false)
  | .aand l e => some (l, e, evalAtomic (fun _ => .and) false)
  | .rdflags l e => some (l, e, evalRdflags)
  | .rdsrc l e => some (l, e, evalRdsrc)
  | .rdcoord l e => some (l, e, evalRdcoord)
  | .rdlap l e => some (l, e, evalRdlap)
  | .rdtime l e => some (l, e, evalRdtime)
  | .rdtemp l e => some (l, e, evalRdtemp)
  | .rdovr l e => some (l, e, evalRdovr)
  | .rdent l e => some (l, e, evalRdent)
  | _ => none

/-- The rows that never store to SRAM or DRAM: the stage operations but the stores to core memory, the doorbells and
fetches, the verbs and events that move no data, the responses, the sessions and the register rows. -/
def keepsMemory (i : Instr) : Bool :=
  match i with
  | .stcm _ _ => false
  | .stcmo _ _ => false
  | .stcmx _ _ => false
  | .ack _ => true
  | .arrayNoCompletion _ => true
  | .batonInArrival _ _ => true
  | .busbarStable => true
  | .busbarWaitTimeout => true
  | .caObDataAccess _ _ _ _ _ _ => true
  | .cableMated _ => true
  | .capFloor => true
  | .clkDivWrite _ _ _ => true
  | .clkSlotCfgWrite _ _ => true
  | .clkSourceLost _ => true
  | .clkSrcSelWrite _ _ _ => true
  | .clkSwitchComplete _ => true
  | .clkTimeNextWrite _ _ => true
  | .commandFetch _ _ => true
  | .commandRetire _ _ => true
  | .commandRingDoorbell _ _ _ => true
  | .completionRingDoorbell _ _ _ => true
  | .configSpaceAccess _ _ => true
  | .cvuFeed16 _ _ _ _ _ => true
  | .cvuFeed32 _ _ _ _ _ => true
  | .cvuFeed8 _ _ _ _ _ => true
  | .cvuFold _ _ _ _ _ => true
  | .cvuLoad _ _ _ _ _ => true
  | .cvuValueWrite _ _ _ _ _ => true
  | .debugClose _ => true
  | .debugOpen _ => true
  | .debugTimeout => true
  | .dmaStand _ => true
  | .drain _ => true
  | .drainPointReached => true
  | .entropyPoolRefill _ _ => true
  | .entropyTestFail _ => true
  | .eventRingDoorbell _ _ => true
  | .fuseWrite _ _ => true
  | .fwGo _ _ _ _ => true
  | .fwPush _ _ _ _ _ => true
  | .fwVerify => true
  | .glideEnd => true
  | .gulemRequestDoorbell _ _ _ => true
  | .gulemRequestFetch _ _ _ _ => true
  | .heartbeat _ => true
  | .heartbeatCheck => true
  | .heatEnd _ => true
  | .hubDescDataAccess _ _ _ _ => true
  | .hubHdlAddrWrite _ _ _ _ => true
  | .hubHdlLenWrite _ _ _ _ => true
  | .ideKeyProgramming _ _ _ => true
  | .linkTrained _ _ _ _ => true
  | .lockstepCompare => true
  | .lockstepTimeout _ => true
  | .meshNoProgress _ => true
  | .mgmt _ _ => true
  | .mgmtSessionEnd _ _ _ => true
  | .mgmtSessionOpen _ _ _ _ _ => true
  | .negative _ _ _ => true
  | .opCeilingWrite _ _ => true
  | .otpStageDataAccess _ _ _ => true
  | .peerPostedWrite _ _ => true
  | .post _ _ _ _ _ _ => true
  | .postAcknowledge _ => true
  | .powerTick _ _ _ _ _ _ _ => true
  | .ppsEdge _ => true
  | .ppsLost => true
  | .progress _ => true
  | .progressSend => true
  | .reacquire _ => true
  | .readRequest _ _ _ _ => true
  | .readResponse _ _ => true
  | .record _ _ _ _ _ => true
  | .redfishRequest _ _ _ => true
  | .refLost => true
  | .referenceReturn => true
  | .release _ => true
  | .retentionHoldEnd _ => true
  | .ringDisable _ _ => true
  | .ringEnable _ _ _ => true
  | .screenRun _ _ _ _ => true
  | .screenSet _ => true
  | .seamDeadReplayLimit _ _ => true
  | .seamDeadSilence _ _ => true
  | .seamFrameReceive _ _ _ _ _ _ => true
  | .selectPlan _ => true
  | .selftest _ _ => true
  | .serviceTimeout _ => true
  | .setClock _ => true
  | .setLockstep _ => true
  | .setPowerCap _ => true
  | .sideReadyChange _ _ _ _ _ _ => true
  | .singleStandTestEnd _ _ => true
  | .spdmRequest _ _ _ => true
  | .standPower _ => true
  | .start _ => true
  | .subscribe _ _ _ _ => true
  | .tallyIncrement _ _ _ => true
  | .tallyWait _ _ _ => true
  | .tallyWaitComplete _ => true
  | .tilePowerGood _ => true
  | .timeNextExpiry => true
  | .tlyAdd _ _ _ _ _ => true
  | .tlyCfgWrite _ _ _ => true
  | .tlyCountWrite _ _ _ _ _ => true
  | .tlyWatchRangeWrite _ _ _ _ => true
  | .trainingLimit => true
  | .transceiverChange _ _ _ => true
  | .waitDone _ => true
  | .warmRestartTimeout => true
  | .writeAcknowledge _ => true
  | .twait _ _ => true
  | _ => (stageRow i).isSome

end Sys2Proof.Machine
end

