-- ==== Sys2Proof/Certificates/Slice0/Obligations.lean ====
section
/-!
DEFINITION. The statements put to the provers: the machine as a whole, the stages, the verbs, the host interface, the
hubs and the service mesh, the seams, power, clocks and time, management, and the register rows. Those of one family
name the rows that they cover. A statement about a row says for which states and operands the row has its own effect,
and what the next state then holds.
-/

open Sys2Proof Sys2Proof.Machine

/-! ### The block as a whole -/

/-- A step runs the command at the front of the queue, in the state with the queue's rest; on an empty queue the block
idles (DESIGN CHOICE, log entry 7: the table has no row for a tick). -/
def Obligations.StepRunsFrontCommand : Prop :=
  (∀ (i : Instr) (rest : List Instr) (s : State),
    step { s with pending := i :: rest } = exec i { s with pending := rest }) ∧
  ∀ s : State, s.pending = [] → step s = .next s

/-- Every step keeps every byte memory in its one form: strictly rising addresses, and no byte that reads as an unlisted
one (log entry 1 names what an unlisted byte reads as). -/
def Obligations.StepKeepsMemoryForm : Prop :=
  ∀ s t : State, Memory.wf s = true → step s = .next t → Memory.wf t = true

/-- Every step keeps the register file in its one form: rising addresses, and no register listed that stands at its
reset value. -/
def Obligations.StepKeepsRegisterForm : Prop :=
  ∀ s t : State, Registers.wf s = true → step s = .next t → Registers.wf t = true

/-- At reset the queue is empty, the memories and the register file list nothing and so are in their one form, no module
state stands (R465) and no fuse generation but the factory's is written. -/
def Obligations.ResetIsWellFormed : Prop :=
  Memory.wf State.reset = true ∧ Registers.wf State.reset = true ∧ State.reset.pending = [] ∧
    State.reset.mode = .none ∧ (∀ k, rg State.reset k = regReset k) ∧ ∀ k, memByte State.reset k = 0

/-- The fuses are written by FUSE_WRITE and by no other command: not by a bring-up, a load, a fault, nor by the loss of
standby power (R541 to R544, R561). -/
def Obligations.OnlyFuseWriteChangesFuses : Prop :=
  ∀ (i : Instr) (s t : State), (∀ c bad, i ≠ .fuseWrite c bad) → exec i s = .next t → t.fuses = s.fuses

/-- A write to memory: the bytes written read back, every other byte reads as before, no word that the write touches keeps an
error pattern and every other word keeps its own (R32, R572), and the memory stays in its one form. -/
def Obligations.WriteThenRead : Prop :=
  ∀ (k : Nat) (bs : List Byte) (s : State),
    (∀ j, j < bs.length → memByte (writeRaw k bs s) (k + j) = bs.getD j 0) ∧
    (∀ a, a < k ∨ k + bs.length ≤ a → memByte (writeRaw k bs s) a = memByte s a) ∧
    (∀ w, smapGet upsetDflt (writeRaw k bs s).upset w =
      if k / 8 ≤ w ∧ w < (k + bs.length + 7) / 8 then upsetDflt w else smapGet upsetDflt s.upset w) ∧
    (Memory.wf s = true → Memory.wf (writeRaw k bs s) = true)

/-- Every error of one or two of the 79 positions that are stored and read is corrected (R32): the word reads as it was
written, and the correction is seen. An error at position 15, where the decoder puts the A of the read's address, is never
corrected: a word read at an address of another A than it was written at fails, be it whole or with one bit wrong. -/
def Obligations.CodeCorrectsTwoErrors : Prop :=
  (∀ i j : Nat, i < 80 → j < 80 → i ≠ 15 → j ≠ 15 →
    eccRead (BitVec.ofNat 80 (2 ^ i)) = some (0, true) ∧
    (i ≠ j → eccRead (BitVec.ofNat 80 (2 ^ i + 2 ^ j)) = some (0, true))) ∧
  eccRead (BitVec.ofNat 80 (2 ^ 15)) = none ∧
  ∀ i : Nat, i < 80 → i ≠ 15 → eccRead (BitVec.ofNat 80 (2 ^ 15 + 2 ^ i)) = none

/-! ### Stages (R77 to R134) -/

/-- A stage operation completes (R81, R93): where the stage may take a step, its operands are there and its destination
has room, the row's next state is the committed step, which leaves the accumulators, P, the sparse lanes and the first
half of DEMX as the operation gives them. So does TWAIT once its tally is reached (R128, R317: TallyReached says when),
and STAGE_STEP_COMPLETE commits the step of the entry at the stage's PC. -/
def Obligations.StageOperationCommits : Prop :=
  (∀ (i : Instr) (l : StageLoc) (e : Entry) (f : Loc → Entry → State → StepEnd) (c : Loc) (r : StepRes) (s t : State),
    stageRow i = some (l, e, f) → locOf s l = some c → canStep s c = true → f c e s = .commit r →
    commitStep c e r s = .ok t →
    exec i s = .next t ∧
    (stageOf t c.key).acc = r.acc.getD (stageOf s c.key).acc ∧
    (stageOf t c.key).pred = r.pred.getD (stageOf s c.key).pred ∧
    (stageOf t c.key).sparse = r.sparse.getD (stageOf s c.key).sparse ∧
    (stageOf t c.key).half = r.half.getD (stageOf s c.key).half) ∧
  (∀ (l : StageLoc) (e : Entry) (c : Loc) (r : StepRes) (s t : State),
    locOf s l = some c → canStep s c = true → evalTwait c e s = .commit r → commitStep c e r s = .ok t →
    exec (.twait l e) s = .next t) ∧
  (∀ (l : StageLoc) (c : Loc) (f : Loc → Entry → State → StepEnd) (r : StepRes) (s t : State),
    locOf s l = some c → canStep s c = true → fldGet CaOp.valid (curOp s c) = 1 →
    fldGet CaOp.opcode (curOp s c) ≠ 0x55 → evalOf (fldGet CaOp.opcode (curOp s c)) = some f →
    f c (entryOf (curOp s c)) s = .commit r → commitStep c (entryOf (curOp s c)) r s = .ok t →
    exec (.stageStepComplete l 0) s = .next t)

/-- All effects of a step commit together, and only when the step completes (R81): after a step of any operation either
all of them stand as the committed step leaves them, or none has changed; and none has where the step is replayed or
stopped, the stage's flags included, apart from the record that a stop with ST_ACC_LIMIT itself leaves in them (R89). -/
def Obligations.StepEffectsCommitTogether : Prop :=
  (∀ (i : Instr) (n : StageLoc) (l : Loc) (e : Entry) (f : Loc → Entry → State → StepEnd) (s t : State),
    stageRow i = some (n, e, f) → locOf s n = some l → exec i s = .next t →
    stepEffects t l = stepEffects s l ∨
      ∃ r u, canStep s l = true ∧ f l e s = .commit r ∧ commitStep l e r s = .ok u ∧ t = u) ∧
  (∀ (n : StageLoc) (l : Loc) (e : Entry) (f : Loc → Entry → State → StepEnd) (s : State), locOf s n = some l →
    (∀ bad, f l e s = .replay bad → stepEffects (runStep l e f s) l = stepEffects s l ∧
      rg (runStep l e f s) (CaArithFlags.key l.p l.a l.st) = rg s (CaArithFlags.key l.p l.a l.st)) ∧
    (∀ st lanes data, f l e s = .stop st lanes data → stepEffects (runStep l e f s) l = stepEffects s l ∧
      (st ≠ stAccLimit →
        rg (runStep l e f s) (CaArithFlags.key l.p l.a l.st) = rg s (CaArithFlags.key l.p l.a l.st))))

/-- The frame of the rows that store nothing to SRAM or DRAM: every byte reads as before and no error pattern changes; and a
stage operation leaves the accumulators, P, the latch and the sparse lanes of every other stage as they were (R78, R81). -/
def Obligations.CommandsThatStoreNothing : Prop :=
  (∀ (i : Instr) (s t : State), keepsMemory i = true → exec i s = .next t →
    (∀ a, memByte t a = memByte s a) ∧ ∀ w, smapGet upsetDflt t.upset w = smapGet upsetDflt s.upset w) ∧
  (∀ (i : Instr) (l : StageLoc) (e : Entry) (f : Loc → Entry → State → StepEnd) (c : Loc) (s t : State),
    stageRow i = some (l, e, f) → locOf s l = some c → exec i s = .next t →
    t.mode = s.mode ∧ t.descs = s.descs ∧ t.image = s.image ∧
    ∀ k, k ≠ c.key → (stageOf t k).acc = (stageOf s k).acc ∧ (stageOf t k).pred = (stageOf s k).pred ∧
      (stageOf t k).latch = (stageOf s k).latch ∧ (stageOf t k).sparse = (stageOf s k).sparse)

/-- A store writes one 64-byte slot of the stage's own core memory and no other byte (R38, R129): STCM, STCMO, STCMX.
The slot is the one that the evaluation names. -/
def Obligations.CoreStoreStaysInItsSlot : Prop :=
  ∀ (l : StageLoc) (e : Entry) (c : Loc) (s t : State), locOf s l = some c →
    (exec (.stcm l e) s = .next t → ∀ a,
      (∀ n ws r, evalStcm c e s = .commit r → r.store = some (n, ws) →
        a < sramKey c.p c.a (64 * n) ∨ sramKey c.p c.a (64 * n) + 64 ≤ a) → memByte t a = memByte s a) ∧
    (exec (.stcmo l e) s = .next t → ∀ a,
      (∀ n ws r, evalStcmo c e s = .commit r → r.store = some (n, ws) →
        a < sramKey c.p c.a (64 * n) ∨ sramKey c.p c.a (64 * n) + 64 ≤ a) → memByte t a = memByte s a) ∧
    (exec (.stcmx l e) s = .next t → ∀ a,
      (∀ n ws r, evalStcmx c e s = .commit r → r.store = some (n, ws) →
        a < sramKey c.p c.a (64 * n) ∨ sramKey c.p c.a (64 * n) + 64 ≤ a) → memByte t a = memByte s a)

/-- What the elementwise and the lane operations write (R120 to R124): INT32 results wrap modulo 2^32, or saturate with
OVERFLOW when SAT is 1; ADD and SUB of INT32 operands and the bitwise operations act lane by lane; PERM sets lane l of the
result to lane π(l) of A, PERMI to the lane that B names, LREDI every lane to the sum modulo 2^32, and SEL to A where P
is 1. -/
def Obligations.LaneResults : Prop :=
  (∀ v : Int,
    intResult false v = (BitVec.ofInt 32 v, flNone) ∧
    (intResult true v).1.toInt = max (-(2 ^ 31)) (min (2 ^ 31 - 1) v) ∧
    ((intResult true v).2 = flOverflow ↔ v < -(2 ^ 31) ∨ 2 ^ 31 ≤ v)) ∧
  (∀ (c : Loc) (e : Entry) (s : State) (wa wb : List Lane),
    readSrc s c e.srcA.toNat 4 = .ok wa → readSrc s c e.srcB.toNat 4 = .ok wb →
    let a (i : Nat) := wa.getD i 0
    let b (i : Nat) := wb.getD i 0
    let lanes (g : Nat → Lane) := some ((List.range 16).map g)
    (e.rmode = 0 → e.fmtA = 0x10 → e.fmtB = 0x10 → e.fmtD = 0x10 → e.sat = false →
      stepWords (evalArith fvAdd (· + ·) c e s) = lanes (fun i => a i + b i) ∧
      stepWords (evalArith opSub (· - ·) c e s) = lanes (fun i => a i - b i)) ∧
    stepWords (evalBits (· &&& ·) c e s) = lanes (fun i => a i &&& b i) ∧
    stepWords (evalBits (· ||| ·) c e s) = lanes (fun i => a i ||| b i) ∧
    stepWords (evalBits (· ^^^ ·) c e s) = lanes (fun i => a i ^^^ b i) ∧
    stepWords (evalBits (fun x y => x <<< (y.toNat % 32)) c e s) = lanes (fun i => a i <<< ((b i).toNat % 32)) ∧
    stepWords (evalBits (fun x y => x >>> (y.toNat % 32)) c e s) = lanes (fun i => a i >>> ((b i).toNat % 32)) ∧
    (natBits e.aux.toNat 8 6 = 0 →
      stepWords (evalPerm c e s) = lanes (fun i => a (Nat.xor i (natBits e.aux.toNat 3 0)))) ∧
    (natBits e.aux.toNat 8 6 = 1 →
      stepWords (evalPerm c e s) = lanes (fun i => a ((i + natBits e.aux.toNat 3 0) % 16))) ∧
    (natBits e.aux.toNat 8 6 = 2 → stepWords (evalPerm c e s) = lanes (fun _ => a (natBits e.aux.toNat 3 0))) ∧
    (natBits e.aux.toNat 8 6 = 3 → stepWords (evalPerm c e s) = lanes (fun i => a (15 - i))) ∧
    stepWords (evalPermi c e s) = lanes (fun i => a ((b i).toNat % 16)) ∧
    stepWords (evalLredi c e s) = lanes (fun _ => wa.foldl (· + ·) 0) ∧
    stepWords (evalSel c e s) =
      lanes (fun i => if natBit (stageOf s c.key).pred.toNat i then a i else b i))

/-- Exact accumulators merge in any order (R64): A and C add and the flags OR, whatever the order of three parts that
one ANCHOR feeds. -/
def Obligations.ExactAccumulatorsCommute : Prop :=
  ∀ (a b d : BitVec 128) (c c' c'' : BitVec 25) (n n' n'' p p' p'' m m' m'' r r' r'' t t' t'' : Bool) (k : BitVec 9),
    let x := Acc.exact a c n p m r t k
    let y := Acc.exact b c' n' p' m' r' t' k
    let z := Acc.exact d c'' n'' p'' m'' r'' t'' k
    Acc.merge x y = Acc.merge y x ∧ Acc.merge (Acc.merge x y) z = Acc.merge x (Acc.merge y z) ∧
      Acc.merge .empty x = x ∧ Acc.merge x .empty = x

/-- The canonical NaNs are 0x7FC0_0000 in FP32, 0x7FC0 in BF16, 0x7E00 in FP16, 0x7E in FP8 E5M2 and 0x7F in FP8 E4M3 (R55):
what any NaN becomes in each of these formats under every rounding mode; and the arithmetic operations give a NaN, and so
the canonical NaN of their output format, for a NaN input. (MINNUM and MAXNUM state otherwise, R122.) -/
def Obligations.CanonicalNaNs : Prop :=
  (∀ (v : FVal) (rm r : Nat) (sat : Bool), v.isNan = true →
    (convert 0x00 rm sat v r).1 = 0x7FC00000 ∧ (convert 0x01 rm sat v r).1 = 0x7FC0 ∧
    (convert 0x02 rm sat v r).1 = 0x7E00 ∧ (convert 0x04 rm sat v r).1 = 0x7E ∧
    (convert 0x03 rm sat v r).1 = 0x7F) ∧
  (∀ (rm : Nat) (big : Bool) (a b c : FVal), a.isNan = true ∨ b.isNan = true →
    (fvAdd rm a b).1.isNan = true ∧ (opSub rm a b).1.isNan = true ∧ (fvMul a b).1.isNan = true ∧
    (fvFma rm a b c).1.isNan = true ∧ (fvMinMax big a b).1.isNan = true) ∧
  (∀ (rm : Nat) (a b c : FVal), c.isNan = true → (fvFma rm a b c).1.isNan = true) ∧
  (∀ (op : Nat) (n : Int) (w : Lane) (a : FVal), a.isNan = true →
    (fvAbs a).isNan = true ∧ (fvNeg a).isNan = true ∧ (fvScale a n).isNan = true ∧
    (approxFP32 op a w).1 = 0x7FC00000)


/-! ### Verbs (R345 to R360, R402 to R420, R449, R460, R464, R502 to R520, R528, R540 to R544) -/

/-- LOAD_IMAGE of a well-formed image in a module with nothing fenced, over links that are up, all of whose reads are answered, applies it and leaves the
module LOADED, in epoch 1 and not tainted, and retires ST_DONE (R351, R357, R496), marked TIMING_NONREPEAT where an answer was late (R363); a read
that fails, in an image that has no fault of form, refuses it with that read's status and address (R364). -/
def Obligations.LoadImageApplies : Prop :=
  ∀ (c : Cmd) (img : List Byte) (late : List (BitVec 2)) (s : State), verbIssues 1 c (loadBodyOk c) s = true → c.fromHost = true →
    loadBarred (verbReady c s) = none →
    let m := late.foldl (fun s p => noteStall p.toNat s) (verbReady c s)
    formFault img (c.num 24 8) = none → sectionLinks c img m = true →
    (imageFault m img (c.num 24 8) = none →
      ∃ u, exec (.loadImage c img ⟨none, late⟩) s =
          .next (retireAs (!late.isEmpty) c stDone (BitVec.ofNat 64 (imgId img)) 0 0 u) ∧
        u.mode = .loaded ∧ u.image = img ∧ u.epoch = 1 ∧ u.tainted = false ∧ u.taints = []) ∧
    (∀ (st : Status) (a : Word),
      exec (.loadImage c img ⟨some (st, a), late⟩) s = .next (retireAs (!late.isEmpty) c st 0 0 a m))

/-- START of a LOADED module and RESUME of a DRAINED one leave it RUNNING and retire ST_DONE (R350). -/
def Obligations.StartAndResumeRun : Prop :=
  (∀ (c : Cmd) (s : State), verbIssues 2 c (c.zero 16 48) s = true → (verbReady c s).mode = .loaded →
    startRefusal (verbReady c s) = none →
    ∃ u, exec (.start c) s = .next (retireVerb c stDone 0 0 u) ∧ u.mode = .running ∧ u.dirty = []) ∧
  (∀ (c : Cmd) (s : State), verbIssues 6 c (c.zero 16 48) s = true → (verbReady c s).mode = .drained →
    startRefusal (verbReady c s) = none →
    ∃ u, exec (.resume c) s = .next (retireVerb c stDone 0 0 u) ∧ u.mode = .running ∧ u.dirty = [])

/-- START and RESUME are refused with ST_BAD_STATE, naming the node found (R438 gives the search no order), where an array
group of an in-service stand or an engine that an image queue names is off or pending (R438). -/
def Obligations.GatedUnitsBarStart : Prop :=
  ∀ (c : Cmd) (p n : Nat) (s : State),
    let u := verbReady c s
    let named (i : Instr) : Prop := ∃ q m, gateBarred u q m ∧
      exec i s = .next (refuse c stBadState (locUnit (logicalOf u q) q 0 0 0 0 m) u)
    recheck u = none → gateBarred u p n →
    (verbIssues 2 c (c.zero 16 48) s = true → u.mode = .loaded → named (.start c)) ∧
    (verbIssues 6 c (c.zero 16 48) s = true → u.mode = .drained → named (.resume c))

/-- DRAIN holds the control arbiter until every stand has stopped at its drain point; the module is then DRAINED and the
DRAIN retires ST_DONE (R350, R358). -/
def Obligations.DrainEndsAtDrainPoint : Prop :=
  (∀ (c : Cmd) (s : State), verbIssues 3 c (c.zero 16 48) s = true → (verbReady c s).mode = .running →
    ((imgDrain (verbReady c s).image).isSome = true ∨ (imgService (verbReady c s).image).isSome = true) →
    ∃ t, exec (.drain c) s = .next t ∧ t.draining = true ∧ t.arb = some (3, c) ∧ t.mode = .running) ∧
  (∀ (c : Cmd) (s : State), s.arb = some (3, c) → s.draining = true → s.gul.blazing = false →
    (∀ p ∈ servicePhys s, (standOf s p).drained = true) →
    ∃ u, exec .drainPointReached s = .next (retireVerb c stDone 0 0 u) ∧ u.mode = .drained ∧ u.draining = false ∧
      u.arb = none)

/-- BLAZE of a DRAINED module whose check units are free saves its stands and holds the arbiter until its groups commit; the commit retires the
epoch, begins the next, untainted, and retires the BLAZE with the epoch as its result (R496, R506). -/
def Obligations.BlazeRetiresEpoch : Prop :=
  (∀ (c : Cmd) (s : State), verbIssues 4 c (c.zero 16 48) s = true → (verbReady c s).mode = .drained →
    blazeRefusal (verbReady c s) = none → unitsOwned (verbReady c s) 1 = false →
    ∃ t, exec (.blaze c) s = .next t ∧ t.arb = some (4, c) ∧ t.saving.isSome = true ∧ t.mode = .drained) ∧
  (∀ (c : Cmd) (x : Snap) (s : State), s.arb = some (4, c) → s.saving = some x → s.gul.blazing = false →
    (lsMode s && unitsOwned s 8) = false →
    ∃ u, exec .blazeCommit s = .next (retireVerb c stDone (BitVec.ofNat 64 x.epoch) 0 u) ∧ u.epoch = s.epoch + 1 ∧
      u.saving = none ∧ u.tainted = false ∧ u.taints = [] ∧ u.arb = none)

/-- RESTORE of a restorable epoch leaves the module DRAINED in the epoch after it, untainted, and retires ST_DONE with
the epoch restored (R496, R514). -/
def Obligations.RestoreReturnsToEpoch : Prop :=
  ∀ (c : Cmd) (x : Snap) (prev : Bool) (s : State), verbIssues 5 c (c.zero 24 40) s = true →
    restoreAllowed (verbReady c s) = true → restoreTarget (verbReady c s) (c.num 16 8) = some (x, prev) →
    unitsOwned (verbReady c s) 1 = false → (restoreBlaze x prev (verbReady c s)).1 = stDone →
    ∃ u, exec (.restore c) s = .next (retireVerb c stDone (BitVec.ofNat 64 x.epoch) 0 u) ∧ u.mode = .drained ∧
      u.epoch = x.epoch + 1 ∧ u.tainted = false ∧ u.taints = []

/-- FENCE_ARRAY and FENCE_STAND stop the module, fence what they name and leave the module FENCED (R350, R509). A stand
that has tripped keeps its role. -/
def Obligations.FencesFence : Prop :=
  (∀ (c : Cmd) (p : Nat) (s : State), verbIssues 7 c (c.zero 19 45) s = true → fenceAllowed (verbReady c s) = true →
    c.num 16 1 ≤ 55 → c.num 17 1 ≤ 63 → c.num 18 1 ≤ 63 → physOf (verbReady c s) (c.num 16 1) = some p →
    roleOf (verbReady c s) p ≠ 5 →
    ∃ u, exec (.fenceArray c) s = .next (retireVerb c stDone 0 0 u) ∧ u.mode = .fenced ∧
      arrState u p (arrIdx (c.num 17 1) (c.num 18 1)) = 5) ∧
  (∀ (c : Cmd) (p : Nat) (s : State), verbIssues 8 c (c.zero 17 47) s = true → fenceAllowed (verbReady c s) = true →
    c.num 16 1 ≤ 55 → physOf (verbReady c s) (c.num 16 1) = some p → roleOf (verbReady c s) p ≠ 5 →
    ∃ u, exec (.fenceStand c) s = .next (retireVerb c stDone 0 0 u) ∧ u.mode = .fenced ∧ roleOf u p = 3)

/-- SELECT_PLAN of a plan that applies stores it, and RELOCATE that succeeds puts it in force and uses it up (R510 to
R513; that a SELECT is used up however RELOCATE ends is the model's inference, DEDUCED, log entry 25). -/
def Obligations.PlansAreSelectedAndUsed : Prop :=
  (∀ (c : Cmd) (s : State), verbIssues 9 c (c.zero 18 46) s = true → (verbReady c s).mode = .fenced →
    (c.num 16 2 ≤ 1 ∨ (0x100 ≤ c.num 16 2 ∧ c.num 16 2 ≤ 0x137)) → planApplies (verbReady c s) (c.num 16 2) = true →
    exec (.selectPlan c) s = .next (retireVerb c stDone 0 0 { verbReady c s with planSel := some (c.num 16 2) })) ∧
  (∀ (c : Cmd) (failed : List Site) (n : Nat) (s : State), verbIssues 0x0A c (c.zero 16 48) s = true →
    (verbReady c s).planSel = some n → (verbReady c s).mode = .fenced →
    (relocate n failed { verbReady c s with planSel := none }).1 = stDone →
    ∃ u, exec (.relocate c failed) s = .next (retireVerb c stDone 0 0 u) ∧ u.planSel = none ∧ u.plan = n ∧
      u.planChanged = true)

/-- RELEASE of a HELD queue of an in-service stand, by a session or a port's own ring: ACTION 0 lets the descriptor be
examined again, ACTION 2 switches the queue off (R517). -/
def Obligations.ReleaseFreesHeldQueue : Prop :=
  ∀ (c : Cmd) (p : Nat) (s : State),
    verbIssues 0x0B c (c.zero 19 45 && decide (c.num 18 1 ≤ 2 ∧ c.num 17 1 ≤ 31 ∧ ¬(c.num 18 1 = 2 ∧ 28 ≤ c.num 17 1))) s
      = true →
    c.num 16 1 ≤ 55 → (∀ h r, c.issuer = .host h r → 28 ≤ c.num 17 1 → c.num 17 1 = 28 + h.toNat) →
    inService (verbReady c s) (c.num 16 1) = some p →
    rf (verbReady c s) (HubQState.key p (c.num 17 1)) HubQState.state = 3 →
    ∃ u, exec (.release c) s = .next (retireVerb c stDone 0 0 u) ∧
      u = releaseQueue p (c.num 17 1) (c.num 18 1) (verbReady c s) ∧
      (c.num 18 1 ≠ 1 → rf u (HubQState.key p (c.num 17 1)) HubQState.state = 0 ∧
        rf u (HubQState.key p (c.num 17 1)) HubQState.lastStatus = 0) ∧
      (c.num 18 1 = 2 → rf u (HubQCfg.key p (c.num 17 1)) HubQCfg.mode = 0)

/-- SET_POWER_CAP within the ceilings sets the cap, OP_CEILING_WRITE the operator's ceiling, and CAP_FLOOR reports once;
a cap above the fused ceiling is refused with ST_CAP_ABOVE_CEILING and leaves the cap in force unchanged, and every
bring-up, cold, warm or of one stand, begins at the fused ceiling (R6, R449, R452). -/
def Obligations.PowerCapsAreSet : Prop :=
  (∀ (c : Cmd) (s : State), verbIssues 0x0C c (c.zero 20 44) s = true → 4000 ≤ c.num 16 4 →
    c.num 16 4 ≤ Config.powerCeilW → c.num 16 4 ≤ rf (verbReady c s) PwrCeiling.key PwrCeiling.opCeiling →
    ∃ u, exec (.setPowerCap c) s = .next (retireVerb c stDone 0 0 u) ∧ rf u PwrCap.key PwrCap.cap = c.num 16 4 ∧
      rf u PwrCap.key PwrCap.effective = effectiveCap u) ∧
  (∀ (c : Cmd) (s : State), verbIssues 0x0C c (c.zero 20 44) s = true → Config.powerCeilW < c.num 16 4 →
    exec (.setPowerCap c) s = .next (refuse c stCapAboveCeiling locNone (verbReady c s)) ∧
      rf (refuse c stCapAboveCeiling locNone (verbReady c s)) PwrCap.key PwrCap.cap = rf s PwrCap.key PwrCap.cap) ∧
  (∀ (via : Via) (w : BitVec 32) (s : State), passes via true PwrCeiling.key s → 4000 ≤ w.toNat →
    w.toNat ≤ Config.powerCeilW →
    ∃ t, exec (.opCeilingWrite via w) s = .next t ∧ rf t PwrCeiling.key PwrCeiling.opCeiling = w.toNat) ∧
  (∀ s : State, 500 ≤ s.power.floorRun → s.power.floorTold = false →
    ∃ t, exec .capFloor s = .next t ∧ t.power.floorTold = true ∧ t.reportSeq = s.reportSeq + 1) ∧
  (∀ s : State, fwVerified s = true → s.bring.kind = 0 → bringPhase s = 0 → s.mode = .none →
    ∃ t, exec .coldBringUpAuto s = .next t ∧ rf t PwrCap.key PwrCap.cap = Config.powerCeilW) ∧
  (∀ (c : Cmd) (s : State), verbIssues 0x2B c (decide (c.num 16 1 ≤ 1) && c.zero 17 47) s = true →
    bringRuns (verbReady c s) = false → c.num 16 1 = 1 →
    rf (verbReady c s) IorBringupStatus.key IorBringupStatus.kind ≠ 0 → bringResult (verbReady c s) ≠ 3 →
    ∃ t, exec (.bringUp c) s = .next t ∧ rf t PwrCap.key PwrCap.cap = Config.powerCeilW) ∧
  (∀ (c : Cmd) (s : State), verbIssues 0x2A c (decide (c.num 17 1 ≤ 1) && c.zero 18 46) s = true → c.num 17 1 = 1 →
    standPowerRefusal (verbReady c s) (c.num 16 1) 1 = none →
    ∃ t, exec (.standPower c) s = .next t ∧ rf t PwrCap.key PwrCap.cap = Config.powerCeilW)

/-- SET_CLOCK and a write of CLK_SLOT_CFG begin a glide that GLIDE_END ends at the clock asked for (R423). -/
def Obligations.SlotClockGlides : Prop :=
  (∀ (c : Cmd) (s : State), verbIssues 0x0D c (c.zero 20 44) s = true → refState (verbReady c s) = 1 →
    (verbReady c s).ringClk.glide = none → slotRefusal (verbReady c s) (setClockKhz c) = none →
    ∃ t, exec (.setClock c) s = .next t ∧ t.arb = some (0x0D, c) ∧ t.ringClk.glide = some (setClockKhz c) ∧
      rf t ClkSlotCfg.key ClkSlotCfg.khz = setClockKhz c) ∧
  (∀ (via : Via) (v : Word) (s : State), passes via true ClkSlotCfg.key s → refState s = 1 → s.ringClk.glide = none →
    slotRefusal s (fldGet ClkSlotCfg.khz v) = none →
    ∃ t, exec (.clkSlotCfgWrite via v) s = .next t ∧ t.ringClk.glide = some (fldGet ClkSlotCfg.khz v) ∧
      rf t ClkSlotCfg.key ClkSlotCfg.khz = fldGet ClkSlotCfg.khz v) ∧
  (∀ (khz : Nat) (s : State), s.ringClk.glide = some khz → s.arb = none → khz < 2 ^ 32 →
    ∃ t, exec .glideEnd s = .next t ∧ t.ringClk.glide = none ∧
      rf t ClkSlotStatus.key ClkSlotStatus.currentKhz = khz ∧ rf t ClkSlotStatus.key ClkSlotStatus.locked = 1 ∧
      rf t ClkSlotStatus.key ClkSlotStatus.gliding = 0 ∧ refState t = 1)

/-- The slot clock never exceeds the fused ceiling, on any path: every step keeps it, the configured clock and a glide's
target within the ceiling; a command or a set-up write that asks for more, for the ring or for a stand under screening, is
refused with ST_CLOCK_ABOVE_CEILING and leaves the running slot clock unchanged; and a SCREEN_SET takes no stand above the
ceiling (R5). -/
def Obligations.SlotClockNeverExceedsCeiling : Prop :=
  (∀ s t : State, slotClockOk s → step s = .next t → slotClockOk t) ∧
  (∀ (c : Cmd) (s : State), verbIssues 0x0D c (c.zero 20 44) s = true → (verbReady c s).ringClk.glide = none →
    Config.slotCeilKhz < setClockKhz c ∨ (250000 ≤ setClockKhz c ∧ aboveCeiling s (setClockKhz c) = true) →
    ∃ t, exec (.setClock c) s = .next t ∧ t = refuse c stClockAboveCeiling locNone (verbReady c s) ∧
      rg t ClkSlotStatus.key = rg s ClkSlotStatus.key ∧ t.ringClk = s.ringClk) ∧
  (∀ (via : Via) (v : Word) (s : State), passes via true ClkSlotCfg.key s → s.ringClk.glide = none →
    Config.slotCeilKhz < fldGet ClkSlotCfg.khz v ∨
      (250000 ≤ fldGet ClkSlotCfg.khz v ∧ aboveCeiling s (fldGet ClkSlotCfg.khz v) = true) →
    ∃ t, exec (.clkSlotCfgWrite via v) s = .next t ∧ t = countVia via ClkSlotCfg.key stClockAboveCeiling s ∧
      rg t ClkSlotStatus.key = rg s ClkSlotStatus.key ∧ t.ringClk = s.ringClk) ∧
  (∀ (c : Cmd) (s : State), verbIssues 0x28 c (c.zero 17 1 && c.zero 22 42) s = true →
    let u := verbReady c s
    isPhys (c.num 16 1) = true → roleOf u (c.num 16 1) = 2 →
    rf u (IorStandMap.key (c.num 16 1)) IorStandMap.parityGroup = 0xFF → -50 ≤ natSigned 16 (c.num 18 2) →
    natSigned 16 (c.num 18 2) ≤ 50 → 1000 ≤ c.num 20 2 → c.num 20 2 ≤ 1080 →
    1000 * Config.slotCeilKhz < rf u ClkSlotStatus.key ClkSlotStatus.currentKhz * c.num 20 2 →
    exec (.screenSet c) s = .next (refuse c stClockAboveCeiling locNone u)) ∧
  (∀ (c : Cmd) (s t : State) (p : Nat), p ∈ physList → exec (.screenSet c) s = .next t →
    rf s ClkSlotStatus.key ClkSlotStatus.currentKhz * rf s (ClkDiv.key p) ClkDiv.ratio ≤ 1000 * Config.slotCeilKhz →
    rf t ClkSlotStatus.key ClkSlotStatus.currentKhz * rf t (ClkDiv.key p) ClkDiv.ratio ≤ 1000 * Config.slotCeilKhz)

/-- The reference is lost, returns and is reacquired (R422): the PLL holds over until REACQUIRE, which glides back to the
configured clock; where the loaded image's clock is below that one, REACQUIRE is refused with ST_IMAGE_CLOCK (R83). -/
def Obligations.ReferenceLossAndReturn : Prop :=
  (∀ s : State, refState s = 1 → s.ringClk.glide = none →
    ∃ t, exec .refLost s = .next t ∧ refState t = 2 ∧ t.ringClk.refOk = false ∧
      rf t ClkSlotStatus.key ClkSlotStatus.locked = 0 ∧ rf t ClkPpsStatus.key ClkPpsStatus.refHold = 1) ∧
  (∀ s : State, s.ringClk.refOk = false → refState s ≠ 0 →
    ∃ t, exec .referenceReturn s = .next t ∧ t.ringClk.refOk = true ∧ refState t = refState s ∧
      rf t ClkPpsStatus.key ClkPpsStatus.refHold = 0) ∧
  (∀ (via : Via) (s : State), passes via true ClkRefCtl.key s → s.ringClk.refOk = true → refState s = 2 →
    (¬(hasImage s = true ∧ imgClock s.image < rf s ClkSlotCfg.key ClkSlotCfg.khz) →
      ∃ t, exec (.reacquire via) s = .next t ∧ refState t = 3 ∧
        t.ringClk.glide = some (rf s ClkSlotCfg.key ClkSlotCfg.khz)) ∧
    (hasImage s = true → imgClock s.image < rf s ClkSlotCfg.key ClkSlotCfg.khz →
      exec (.reacquire via) s = .next (countVia via ClkRefCtl.key stImageClock s)))

/-- SET_LOCKSTEP sets the mode that it names where nothing refuses it, and turning it on empties every slot (R407, R415), LOCKSTEP_COMPARE takes every header
that has come (R412), and LOCKSTEP_TIMEOUT tells of an own block once (R413). -/
def Obligations.LockstepModeAndBlocks : Prop :=
  (∀ (c : Cmd) (s : State), verbIssues 0x0E c (slBodyOk c) s = true → (verbReady c s).mode ≠ .running →
    (verbReady c s).mode ≠ .fenced → slRefusal (verbReady c s) c = none →
    ∃ u, exec (.setLockstep c) s = .next (retireVerb c stDone 0 0 u) ∧
      rf u RgrLsStatus.key RgrLsStatus.mode = slMode c ∧ rf u RgrLsStatus.key RgrLsStatus.traceEn = slTrace c ∧
      rf u RgrLsStatus.key RgrLsStatus.port = c.num 18 1 ∧ u.traceEn = decide (slTrace c = 1) ∧
      (slMode c = 1 → u.lsOn.came = [] ∧ ∀ k, lsOwn u k = none ∧ lsIn u k = none)) ∧
  (∀ s : State, lsMode s = true → rangerRuns s (lsPort s) = true →
    ∃ t, exec .lockstepCompare s = .next t ∧
      t.lsOn.taken = max (rg s (TlyCount.key true 0 s.lsOn.mbox)).toNat s.lsOn.taken ∧
      t.lsOn.came = []) ∧
  (∀ (e : Word) (o : LsBlock) (s : State), lsMode s = true → lsOwn s (e.toNat % 16) = some o → o.epoch = e.toNat →
    o.compared = false → o.told = false → (lsIn s (e.toNat % 16)).map (·.epoch) ≠ some e.toNat →
    ∃ t, exec (.lockstepTimeout e) s = .next t ∧ lsOwn t (e.toNat % 16) = some { o with told := true } ∧
      rf t RgrLsCount.key RgrLsCount.timeouts = satAdd 0xFFFF (rf s RgrLsCount.key RgrLsCount.timeouts) 1)

/-- DMA_COPY of a well-formed body starts on a free context of its ring's engine (R352); DMA_STAND is posted to the
stand's ring queue of its port (R353); ABORT of a posted slot that has not been fetched ends that command (R360). -/
def Obligations.DmaVerbsAndAbort : Prop :=
  (∀ (c : Cmd) (p : BitVec 2) (r : BitVec 6) (s : State), c.issuer = .host p r →
    (portOf s p.toNat).copies.find? (fun j => j.cmd = c) = none → copyContext s p.toNat (r.toNat % 4) c = true →
    verbIssues 0x10 c (copyBodyOk c (rf s (CvuCfg.key true 0 (ringUnit p.toNat (r.toNat % 4))) CvuCfg.psel)) s = true →
    copyRefusal (verbReady c s) c = none →
    exec (.dmaCopy c) s = .next (startCopy p.toNat (r.toNat % 4) c (verbReady c s))) ∧
  (∀ (c : Cmd) (p : BitVec 2) (r : BitVec 6) (q : Nat) (u s : State), c.issuer = .host p r → heldBack s 0x11 c = false →
    issued s c = false → s.mode ≠ .none → s.mode ≠ .idle → inService s (c.num 27 1) = some q → postDesc c p.toNat s = (stDone, u) →
    ∃ t, exec (.dmaStand c) s = .next t ∧
      ((hubQOf t q (28 + p.toNat)).ring.getLast?).map (·.cmd) = some c) ∧
  (∀ (c : Cmd) (e : BitVec 512) (p : BitVec 2) (r : BitVec 6) (s : State), c.issuer = .host p r →
    let v := verbReady c s
    verbIssues 0x12 c (c.zero 17 1 && c.zero 22 42) s = true → v.mode ≠ .none → c.num 16 1 ≤ 63 →
    (ringOf v p.toNat (c.num 16 1)).state = 1 → c.num 18 2 < crEntries v p.toNat (c.num 16 1) →
    (ringOf v p.toNat (c.num 16 1)).flight = [] → posted v p.toNat (c.num 16 1) (c.num 18 2) = true →
    (cmdOf (.host p (BitVec.ofNat 6 (c.num 16 1))) (c.num 18 2) e).cmdId = BitVec.ofNat 16 (c.num 20 2) →
    ∃ u, exec (.abort c e) s = .next (retireVerb c stDone 0 0 u) ∧
      c.num 18 2 ∈ (ringOf u p.toNat (c.num 16 1)).skip)

/-- FUSE_WRITE programs the first blank generation with the bytes staged (R543); DEBUG_OPEN opens the debug port for its
minutes, DEBUG_CLOSE and DEBUG_TIMEOUT close it (R540); SELFTEST that finds no failure changes nothing (R537). -/
def Obligations.FusesDebugAndSelftest : Prop :=
  (∀ (c : Cmd) (g : Nat) (s : State), verbIssues 0x20 c (c.zero 24 40) s = true → 1 ≤ fuseLen c → fuseLen c ≤ 65536 →
    blankGen (verbReady c s) = some g → crc32c (staged (verbReady c s) (fuseLen c)) = fuseCheck c →
    contentFault (verbReady c s) g (staged (verbReady c s) (fuseLen c)) = none →
    ∃ u, exec (.fuseWrite c false) s = .next (retireVerb c stDone (BitVec.ofNat 64 g) 0 u) ∧
      smapGet fuseDflt u.fuses g = ⟨1, staged (verbReady c s) (fuseLen c)⟩) ∧
  (∀ (c : Cmd) (s : State), verbIssues 0x21 c (c.zero 18 46) s = true → 1 ≤ c.num 16 2 → c.num 16 2 ≤ 1440 →
    debugAllowed (verbReady c s) = true →
    ∃ u, exec (.debugOpen c) s = .next (retireVerb c stDone 0 0 u) ∧ u.dbg.minutes = some (c.num 16 2) ∧
      u.dbg.ever = true) ∧
  (∀ (c : Cmd) (s : State), verbIssues 0x22 c (c.zero 16 48) s = true →
    ∃ u, exec (.debugClose c) s = .next (retireVerb c stDone 0 0 u) ∧ u.dbg.minutes = none) ∧
  (∀ s : State, ∃ t, exec .debugTimeout s = .next t ∧ t.dbg.minutes = none ∧ t.dbg.ever = s.dbg.ever) ∧
  (∀ (c : Cmd) (s : State), verbIssues 0x23 c (c.zero 16 48) s = true → secState (verbReady c s) ≠ 3 →
    exec (.selftest c 0) s = .next (retireVerb c stDone 0 0 (verbReady c s)))

/-- SCREEN_SET sets a standby stand's margin and ratio (R417, R429), and SCREEN_RUN retires with its comparisons, its
mismatches and its hold slots (R418, R419); HEAT, which discards its results, with none of the first two. -/
def Obligations.ScreeningVerbs : Prop :=
  (∀ (c : Cmd) (s : State), verbIssues 0x28 c (c.zero 17 1 && c.zero 22 42) s = true →
    screenRefusal (verbReady c s) (c.num 16 1) (natSigned 16 (c.num 18 2)) (c.num 20 2) = none →
    ∃ u, exec (.screenSet c) s = .next (retireVerb c stDone 0 0 u) ∧
      rf u (ClkDiv.key (c.num 16 1)) ClkDiv.ratio = c.num 20 2 ∧
      rf u (PwrTile.key (c.num 16 1)) PwrTile.vmargin = (BitVec.ofInt 8 (natSigned 16 (c.num 18 2))).toNat) ∧
  (∀ (c : Cmd) (comparisons holds : Word) (found : List PacerMismatch) (s : State),
    verbIssues 0x29 c (decide (1 ≤ c.num 17 1 ∧ c.num 17 1 ≤ 4 ∧ c.num 18 1 ≤ 1 ∧ 1 ≤ c.num 32 8 ∧ c.num 32 8 ≤ 2 ^ 40) &&
      c.zero 19 5 && c.zero 40 24) s = true →
    isPhys (c.num 16 1) = true → roleOf (verbReady c s) (c.num 16 1) = 2 →
    (c.num 17 1 = 4 → rf (verbReady c s) (IorStandMap.key (c.num 16 1)) IorStandMap.parityGroup = 0xFF) →
    let n := if c.num 17 1 = 3 then 0 else found.length
    ∃ u, exec (.screenRun c comparisons holds found) s =
        .next (retireWith c stDone (if c.num 17 1 = 3 then 0 else comparisons) (BitVec.ofNat 64 n) holds u) ∧
      u.reportSeq = (verbReady c s).reportSeq + BitVec.ofNat 32 (min 256 n))

/-- STAND_POWER switches a standby stand without a group off, or a tripped or switched-off one on by a side (R460, R488);
BRING_UP starts a cold bring-up or a warm restart (R464, R485); ASSIGN_PARITY gives a standby a group (R518); the end of
a single stand's tests takes it out of the list of those under test (R488). -/
def Obligations.StandAndModuleBringUp : Prop :=
  (∀ (c : Cmd) (s : State), verbIssues 0x2A c (decide (c.num 17 1 ≤ 1) && c.zero 18 46) s = true → c.num 17 1 = 0 →
    standPowerRefusal (verbReady c s) (c.num 16 1) 0 = none →
    ∃ t, exec (.standPower c) s = .next t ∧ t.arb = some (0x2A, c) ∧ roleOf t (c.num 16 1) = 4) ∧
  (∀ (c : Cmd) (s : State), verbIssues 0x2A c (decide (c.num 17 1 ≤ 1) && c.zero 18 46) s = true → c.num 17 1 = 1 →
    standPowerRefusal (verbReady c s) (c.num 16 1) 1 = none →
    entrySides (verbReady c s) (fun q => roleOf (verbReady c s) q = 1 || roleOf (verbReady c s) q = 2) (c.num 16 1) ≠ [] →
    ∃ t, exec (.standPower c) s = .next t ∧ t.arb = some (0x2A, c) ∧ t.bring.heat = [c.num 16 1] ∧
      tileState t (c.num 16 1) = 1) ∧
  (∀ (c : Cmd) (s : State), verbIssues 0x2B c (decide (c.num 16 1 ≤ 1) && c.zero 17 47) s = true →
    bringRuns (verbReady c s) = false →
    (c.num 16 1 = 0 → (verbReady c s).power.inputFault = false →
      ∃ t, exec (.bringUp c) s = .next t ∧ t.arb = some (0x2B, c) ∧ t.bring.kind = 1 ∧ t.mode = .none ∧ bringPhase t = 1) ∧
    (c.num 16 1 = 1 → rf (verbReady c s) IorBringupStatus.key IorBringupStatus.kind ≠ 0 →
      bringResult (verbReady c s) ≠ 3 →
      ∃ t, exec (.bringUp c) s = .next t ∧ t.arb = some (0x2B, c) ∧ t.bring.kind = 2 ∧ t.mode = .none)) ∧
  (∀ (c : Cmd) (s : State), verbIssues 0x2C c (c.zero 18 46) s = true →
    ((verbReady c s).mode = .loaded ∨ (verbReady c s).mode = .drained) →
    parityRefusal (verbReady c s) (c.num 16 1) (c.num 17 1) = none →
    ∃ u, exec (.assignParity c) s = .next (retireVerb c stDone 0 0 u) ∧
      rf u (IorStandMap.key (c.num 16 1)) IorStandMap.parityGroup = c.num 17 1 ∧
      rf u (RgrPar.key (c.num 17 1)) RgrPar.standby = c.num 16 1) ∧
  (∀ (p : BitVec 6) (failed : List DramRow) (s : State), p.toNat ∈ s.bring.single →
    ∃ t, exec (.singleStandTestEnd p failed) s = .next t ∧ p.toNat ∉ t.bring.single)

/-- The verbs of the operator role are refused to a host with ST_ROLE_DENIED, whatever their bodies hold (R350, R521). -/
def Obligations.OperatorVerbsNeedASession : Prop :=
  ∀ (c : Cmd) (bad : Bool) (t : BitVec 16) (x y : Word) (found : List PacerMismatch) (s : State), c.fromHost = true →
    s.arb = none → s.gul.blazing = false → c.waitEn = false → (∀ code, heldBack s code c = false) →
    fetchedBefore s c = [] → s.dones.any (fun d => d.cmd = c) = false →
    let denied := Host.Outcome.next (φ := Fault) (ρ := Refusal) (refuse c stRoleDenied locNone s)
    exec (.fuseWrite c bad) s = denied ∧ exec (.debugOpen c) s = denied ∧ exec (.debugClose c) s = denied ∧
    exec (.selftest c t) s = denied ∧ exec (.screenSet c) s = denied ∧ exec (.screenRun c x y found) s = denied ∧
    exec (.standPower c) s = denied ∧ exec (.bringUp c) s = denied ∧ exec (.assignParity c) s = denied

/-- A verb retires (R347): a host's record waits at the end of its ring with the command's number, the status and the
results, and the command is in flight no more; every other ring, the memories and the module's state are untouched. -/
def Obligations.RetirementLeavesARecord : Prop :=
  ∀ (c : Cmd) (st : Status) (r0 detail : Word) (p : BitVec 2) (r : BitVec 6) (s : State), c.issuer = .host p r →
    isOrphan s c = false → c.doneEn = false → (ringOf s p.toNat r.toNat).flight = [c] →
    let t := retireVerb c st r0 detail s
    (ringOf t p.toNat r.toNat).flight = [] ∧
    (ringOf t p.toNat r.toNat).done =
      (ringOf s p.toNat r.toNat).done ++ [⟨c.issuer, c.cmdId, st, r0, 0, detail, false, false, c.irq, false⟩] ∧
    t.mem = s.mem ∧ t.regs = s.regs ∧ t.mode = s.mode ∧ t.image = s.image ∧ t.hostMem = s.hostMem

/-! ### Bring-up events (R469 to R488) -/

/-- A cold bring-up begins by itself once firmware is verified (R469); it ends FAILED when the busbar does not come
within its wait (R470), and a warm restart when W8 is not reached in time (R485, R487): no module state, RESULT failed,
one report, and the verb that began it, where one did, ended with the same status. -/
def Obligations.BringUpBeginsAndFails : Prop :=
  (∀ s : State, fwVerified s = true → s.bring.kind = 0 → bringPhase s = 0 → s.mode = .none →
    ∃ t, exec .coldBringUpAuto s = .next t ∧ t.bring.kind = 1 ∧ t.mode = .none ∧ bringPhase t = 1 ∧
      rf t IorBringupStatus.key IorBringupStatus.kind = 1) ∧
  (∀ s : State, s.bring.kind = 1 → bringPhase s = 1 → s.power.busbarOk = false →
    ∃ t, exec .busbarWaitTimeout s = .next t ∧
      t = failBring stInputFault locNone (bytesLE 2 (rf s PwrInput.key PwrInput.mainV)) s ∧ t.bring.kind = 0 ∧
      t.mode = .none ∧ bringResult t = 3 ∧ (s.arb = none → t.reportSeq = s.reportSeq + 1)) ∧
  (∀ s : State, s.bring.kind = 2 →
    ∃ t, exec .warmRestartTimeout s = .next t ∧ t = failBring stWarmMismatch locNone [] s ∧ t.bring.kind = 0 ∧
      t.mode = .none ∧ bringResult t = 3 ∧ (s.arb = none → t.reportSeq = s.reportSeq + 1))

/-- The events of a cold bring-up (R471 to R478): a heat's end enters its stands, the training limit fails what has not
trained, a march goes on to the retention patterns, a retention hold counts its pattern, and a slice or a seam that ends
its training takes its state. -/
def Obligations.BringUpEventsAdvance : Prop :=
  (∀ (found : List HeatFinding) (p : Nat) (ps : List Nat) (s : State), s.bring.kind = 1 → s.bring.heat = p :: ps →
    ∃ t, exec (.heatEnd found) s = .next t ∧ ∀ q ∈ p :: ps, q ∈ t.bring.entered) ∧
  (∀ (p sl : Nat) (s : State), s.bring.heat = [p] → isPhys p = true → tileState s p = 2 → sl < 64 →
    rf s (DslStatus.key p sl) DslStatus.state = 0 →
    ∃ t, exec .trainingLimit s = .next t ∧ rf t (DslStatus.key p sl) DslStatus.state = 3) ∧
  (∀ (failed : List DramRow) (s : State), s.bring.kind = 1 → bringPhase s = 4 → s.bring.patterns < 3 →
    ∃ t, exec (.retentionHoldEnd failed) s = .next t ∧ t.bring.patterns = s.bring.patterns + 1 ∧
      t.bring.failed = s.bring.failed ++ failed ∧ bringPhase t = 4) ∧
  (∀ (failed : List DramRow) (s : State), s.bring.kind = 1 → bringPhase s = 3 →
    ∃ t, exec (.bringupPhaseComplete (.march failed)) s = .next t ∧ bringPhase t = 4 ∧ t.bring.patterns = 0 ∧
      t.bring.failed = failed) ∧
  (∀ (p sl : BitVec 6) (s : State), isPhys p.toNat = true → p.toNat ∈ s.bring.heat → tileState s p.toNat = 2 →
    rf s (DslStatus.key p.toNat sl.toNat) DslStatus.state = 0 →
    ∃ t, exec (.bringupPhaseComplete (.sliceTraining p sl)) s = .next t ∧
      rf t (DslStatus.key p.toNat sl.toNat) DslStatus.state = 1)

/-! ### Rings (R339, R344 to R349) -/

/-- The doorbells of an enabled ring take a value within the ring (R339, R347, R348, R378); a value beyond it is counted
with ST_DESC_INVALID and one for a disabled ring with ST_BAD_STATE, and neither changes the ring. -/
def Obligations.DoorbellsMoveRings : Prop :=
  (∀ (p : BitVec 2) (r : BitVec 6) (v : BitVec 16) (s : State),
    (v.toNat < crEntries s p.toNat r.toNat → crState (ringOf s p.toNat r.toNat) ≠ 0 →
      (∃ t, exec (.commandRingDoorbell p r v) s = .next t ∧
        ringOf t p.toNat r.toNat = { ringOf s p.toNat r.toNat with tail := v.toNat }) ∧
      (∃ t, exec (.completionRingDoorbell p r v) s = .next t ∧ (ringOf t p.toNat r.toNat).ccHead = v.toNat ∧
        (ringOf t p.toNat r.toNat).ccPos = (ringOf s p.toNat r.toNat).ccPos)) ∧
    (crEntries s p.toNat r.toNat ≤ v.toNat →
      exec (.commandRingDoorbell p r v) s = .next (countErr stDescInvalid (1 + p.toNat) 0 0 s) ∧
      exec (.completionRingDoorbell p r v) s = .next (countErr stDescInvalid (1 + p.toNat) 0 0 s)) ∧
    (v.toNat < crEntries s p.toNat r.toNat → crState (ringOf s p.toNat r.toNat) = 0 →
      exec (.commandRingDoorbell p r v) s = .next (countErr stBadState (1 + p.toNat) 0 0 s) ∧
      exec (.completionRingDoorbell p r v) s = .next (countErr stBadState (1 + p.toNat) 0 0 s))) ∧
  (∀ (p : BitVec 2) (v : BitVec 16) (s : State), fldGet RingCfg.enable (rg s (evqCfgKey p.toNat)) = 1 →
    v.toNat < ringEntries (rg s (evqCfgKey p.toNat)) →
    ∃ t, exec (.eventRingDoorbell p v) s = .next t ∧ (portOf t p.toNat).evq.head = v.toNat ∧
      (portOf t p.toNat).evq.pos = (portOf s p.toNat).evq.pos) ∧
  (∀ (p : BitVec 2) (q : BitVec 4) (v : BitVec 16) (s : State), v.toNat < gqEntries s p.toNat q.toNat →
    gqState s p.toNat q.toNat ≠ 0 →
    (∃ t, exec (.gulemRequestDoorbell p q v) s = .next t ∧
      gringOf t p.toNat q.toNat = { gringOf s p.toNat q.toNat with tail := v.toNat }) ∧
    (∃ t, exec (.gulemStatusDoorbell p q v) s = .next t ∧ (gringOf t p.toNat q.toNat).head = v.toNat))

/-- COMMAND_FETCH takes the entry at the head of the first fetchable ring after the port's turn, and the command is then
in flight (R344 to R346); COMMAND_RETIRE writes the oldest record to the slot at the ring's position with its phase
(R347); RING_ENABLE resets the ring and RING_DISABLE lets it drain (R349). -/
def Obligations.RingsFetchAndRetire : Prop :=
  (∀ (p : BitVec 2) (e : BitVec 512) (r : Nat) (s : State), rangerRuns s p.toNat = true → (portOf s p.toNat).linkUp = true →
    (∀ i, i < 64 → ∀ k, k < i → ((portOf s p.toNat).turn + i) % 64 = r → fetchable s p.toNat (((portOf s p.toNat).turn + k) % 64) = false) →
    r < 64 → fetchable s p.toNat r = true → (ringOf s p.toNat r).skip = [] →
    reservedVerb (numAt (vecBytes e) 0 1) = false →
    ∃ t, exec (.commandFetch p e) s = .next t ∧
      (ringOf t p.toNat r).sqHead = ((ringOf s p.toNat r).sqHead + 1) % crEntries s p.toNat r ∧
      (ringOf t p.toNat r).flight = (ringOf s p.toNat r).flight ++
        [cmdOf (.host p (BitVec.ofNat 6 r)) (ringOf s p.toNat r).sqHead e] ∧
      (portOf t p.toNat).turn = (r + 1) % 64) ∧
  (∀ (p : BitVec 2) (r : BitVec 6) (d : Retired) (ds : List Retired) (s : State),
    (ringOf s p.toNat r.toNat).done = d :: ds → (portOf s p.toNat).linkUp = true →
    (ringOf s p.toNat r.toNat).ccUsed < crEntries s p.toNat r.toNat → (ringOf s p.toNat r.toNat).reserved = [] →
    ∃ t, exec (.commandRetire p r) s = .next t ∧ (ringOf t p.toNat r.toNat).done = ds ∧
      (ringOf t p.toNat r.toNat).ccPos = ((ringOf s p.toNat r.toNat).ccPos + 1) % crEntries s p.toNat r.toNat ∧
      smapGetMany memDflt t.hostMem
          (ringAddr (rg s (ccBaseKey p.toNat r.toNat)) + 32 * (ringOf s p.toNat r.toNat).ccPos) 32 =
        recordBytes d (ringOf s p.toNat r.toNat).sqHead r.toNat (ringOf s p.toNat r.toNat).phase ∧
      (∀ a, a < ringAddr (rg s (ccBaseKey p.toNat r.toNat)) + 32 * (ringOf s p.toNat r.toNat).ccPos ∨
          ringAddr (rg s (ccBaseKey p.toNat r.toNat)) + 32 * (ringOf s p.toNat r.toNat).ccPos + 32 ≤ a →
        smapGet memDflt t.hostMem a = smapGet memDflt s.hostMem a) ∧ t.mem = s.mem) ∧
  (∀ (p : BitVec 2) (r : BitVec 6) (cfg : Word) (s : State), passes (.host p) true (crCfgKey p.toNat r.toNat) s →
    fldGet RingCfg.enable (rg s (crCfgKey p.toNat r.toNat)) = 0 →
    ∃ t, exec (.ringEnable p r cfg) s = .next t ∧ (ringOf t p.toNat r.toNat).state = 1 ∧
      (ringOf t p.toNat r.toNat).sqHead = 0 ∧ (ringOf t p.toNat r.toNat).tail = 0 ∧
      (ringOf t p.toNat r.toNat).ccPos = 0 ∧ (ringOf t p.toNat r.toNat).phase = true) ∧
  (∀ (p : BitVec 2) (r : BitVec 6) (s : State), passes (.host p) true (crCfgKey p.toNat r.toNat) s →
    fldGet RingCfg.enable (rg s (crCfgKey p.toNat r.toNat)) = 1 →
    ∃ t, exec (.ringDisable p r) s = .next t ∧ (ringOf t p.toNat r.toNat).state = 2 ∧
      fldGet RingCfg.enable (rg t (crCfgKey p.toNat r.toNat)) = 0)

/-! ### CXL ports (R335 to R365, R535, R553, R554) -/

/-- A CXL.mem or UIO request is divided into slot accesses and performed (R341): it takes the port's next number, and is
afterwards either answered or held under that number. One that lies within one 64-byte slot of reachable DRAM, at the device
address that the port's decoders give its host address (R340), is answered: a read with the bytes that stand there, a write
once its bytes stand there. -/
def Obligations.PortRequestsAreTaken : Prop :=
  (∀ (p : BitVec 2) (hpa : BitVec 52) (ask : HostAsk) (data : List Byte) (len : BitVec 12) (s : State), (portOf s p.toNat).linkUp = true →
    let held (t : State) (w : Bool) : Prop :=
      ∃ r, (r ∈ (portOf t p.toNat).reqs ∨ r ∈ (portOf t p.toNat).answers) ∧ r.id = (portOf s p.toNat).nextId ∧ r.write = w
    (∃ t, exec (.cxlMemRequest p false hpa ask data len) s = .next t ∧ held t false) ∧
    (∃ t, exec (.cxlMemRequest p true hpa ask data len) s = .next t ∧ held t true) ∧
    (ideMissing s p.toNat = false →
      (∃ t, exec (.uioWrite p hpa data) s = .next t ∧ held t true) ∧
      (∃ t, exec (.uioRead p hpa len) s = .next t ∧ held t false))) ∧
  (∀ (p : BitVec 2) (hpa : BitVec 52) (ask : HostAsk) (data : List Byte) (len : BitVec 12) (q sl off : Nat) (s : State),
    let a := pieceAddr s p.toNat hpa.toNat
    let answers (t : State) (w : Bool) (bs : List Byte) (granted : Nat) : Prop :=
      (portOf t p.toNat).answers = (portOf s p.toNat).answers ++
        [⟨(portOf s p.toNat).nextId, w, [⟨a, bs.length, bs, 1⟩], watchesOn s, granted⟩]
    (portOf s p.toNat).linkUp = true → (portOf s p.toNat).reqs = [] → a < 2 ^ 52 →
    portReach s p.toNat (.dram q sl off) = true →
    (∀ bs, 0 < len.toNat → hpa.toNat % 64 + len.toNat ≤ 64 → placeOf s a len.toNat = .dram q sl off →
      (dramRead q sl off len.toNat s).1 = some bs →
      ((portOf s p.toNat).lines.length < 1048576 →
        ∃ t, exec (.cxlMemRequest p false hpa ask [] len) s = .next t ∧
          answers t false bs (grantOf s p.toNat false hpa.toNat (min 2 ask.state.toNat)) ∧ t.mem = s.mem) ∧
      (ideMissing s p.toNat = false → ∃ t, exec (.uioRead p hpa len) s = .next t ∧ answers t false bs 0 ∧ t.mem = s.mem)) ∧
    (0 < data.length → hpa.toNat % 64 + data.length ≤ 64 → placeOf s a data.length = .dram q sl off →
      dramWritable s a off = true → mergeFault s (dramKey q sl off) data.length = none →
      let stored (t : State) : Prop := answers t true data 0 ∧
        ∀ i, i < data.length → memByte t (dramKey q sl off + i) = data.getD i 0
      (∃ t, exec (.cxlMemRequest p true hpa ask data len) s = .next t ∧ stored t) ∧
      (ideMissing s p.toNat = false → ∃ t, exec (.uioWrite p hpa data) s = .next t ∧ stored t)))

/-- The link and its signals (R335, R349, R364, R365, R535, R553, R554): training brings a port up, PERST, CPRSNT and a
lost link take it down with its IDE key, and a peer's posted write is answered Unsupported Request. -/
def Obligations.LinkEvents : Prop :=
  (∀ (p : BitVec 2) (speed : BitVec 4) (width : BitVec 6) (lof : Bool) (s : State), (portOf s p.toNat).linkUp = false →
    (portOf s p.toNat).perst = false → (portOf s p.toNat).cprsnt = true → s.ringClk.refOk = true →
    (speed = 1 ∨ speed = 2) → (width = 8 ∨ width = 16) →
    ∃ t, exec (.linkTrained p speed width lof) s = .next t ∧ (portOf t p.toNat).linkUp = true ∧
      fldGet IorPortStatus.speed (portOf t p.toNat).status = speed.toNat ∧
      fldGet IorPortStatus.width (portOf t p.toNat).status = width.toNat) ∧
  (∀ (p : BitVec 2) (s : State), (portOf s p.toNat).linkUp = true →
    ∃ t, exec (.linkDown p) s = .next t ∧ (portOf t p.toNat).linkUp = false ∧ (portOf t p.toNat).ideKey = 0 ∧
      fldGet RingCfg.enable (rg t (evqCfgKey p.toNat)) = 0) ∧
  (∀ (p : BitVec 2) (s : State),
    (∃ t, exec (.perst p true) s = .next t ∧ (portOf t p.toNat).perst = true ∧ (portOf t p.toNat).linkUp = false) ∧
    (∃ t, exec (.perst p false) s = .next t ∧ (portOf t p.toNat).perst = false ∧ (portOf t p.toNat).timeout = 0) ∧
    (∃ t, exec (.cprsnt p) s = .next t ∧ (portOf t p.toNat).cprsnt = false ∧ (portOf t p.toNat).linkUp = false) ∧
    (∃ t, exec (.cableMated p) s = .next t ∧ portOf t p.toNat = { portOf s p.toNat with cprsnt := true })) ∧
  (∀ (p : BitVec 2) (hpa : BitVec 52) (s : State), (portOf s p.toNat).linkUp = true →
    ∃ t, exec (.peerPostedWrite p hpa) s = .next t ∧ (portOf t p.toNat).refused = (portOf s p.toNat).refused + 1 ∧
      t.mem = s.mem ∧ t.reportSeq = s.reportSeq + 1)

/-- Completions (R361 to R364): one for no request counts in LATE; one that arrives gives its DMA_COPY the bytes, and the job
runs on with them; an error or a timeout ends the DMA_COPY it belongs to, and the job is then gone. HOST_HOLD_EXPIRED leaves
no request waiting (R343), and a read whose slot accesses still meet their uncorrectable words is answered with all ones. The
configuration space keeps the timeout and the decoders that are written to it (R340, R361). -/
def Obligations.CompletionsAndConfigSpace : Prop :=
  (∀ (p : BitVec 2) (tag : BitVec 16) (data : List Byte) (s : State),
    (portOf s p.toNat).reads.find? (fun x => x.tag = tag && x.data.isNone) = none →
    exec (.hostCompletionArrival p tag .success 0 data) s =
      .next (aerNote p.toNat 16 (rfsat (IorPortCount.key p.toNat) IorPortCount.late 1 s))) ∧
  (∀ (p : BitVec 2) (tag : BitVec 16) (data : List Byte) (x : ReadReq) (j : CopyJob) (s : State),
    (portOf s p.toNat).reads.find? (fun x => x.tag = tag && x.data.isNone) = some x → jobOf s p.toNat x.job = some j →
    let u := putJob p.toNat j s
    let arrives (y : ReadReq) : ReadReq :=
      if y.tag = tag ∧ y.data.isNone = true then { y with data := some (bytesAt data 0 y.len) } else y
    exec (.hostCompletionArrival p tag .success 0 data) s = .next (runJob p.toNat j.id (jobFuel j.cmd)
      (putPort p.toNat { portOf u p.toNat with reads := (portOf u p.toNat).reads.map arrives } u)) ∧
    exec (.hostCompletionArrival p tag .abort 0 []) s = .next (endJob p.toNat j stCxlCompleterErr x.addr u) ∧
    ∃ t, exec (.completionTimeout p tag) s = .next t ∧ t = endJob p.toNat j stCxlTimeout x.addr s ∧
      jobOf t p.toNat x.job = none) ∧
  (∀ (p : BitVec 2) (s : State), ∃ t, exec (.hostHoldExpired p) s = .next t ∧ (portOf t p.toNat).reqs = []) ∧
  (∀ (p : BitVec 2) (r : PortReq) (s : State), (portOf s p.toNat).reqs = [r] → r.write = false →
    (∀ x ∈ r.pieces, x.st = 0 ∧ x.data = [] ∧ stillHeld s false x = true) →
    ∃ t, exec (.hostHoldExpired p) s = .next t ∧ (portOf t p.toNat).answers = (portOf s p.toNat).answers ++
      [{ r with pieces := r.pieces.map (fun x => { x with st := 2, data := List.replicate x.len 0xFF }) }]) ∧
  (∀ (p : BitVec 2) (v : BitVec 16) (d : BitVec 3) (b z k : Word) (w g : BitVec 4) (s : State),
    (∃ t, exec (.configSpaceAccess p (.completionTimeout v)) s = .next t ∧ (portOf t p.toNat).timeout = v.setWidth 4) ∧
    ((decoderOf s p.toNat d.toNat).committed = false → decoderOk w g = true →
      let whole (a : Word) : Word := a >>> 28 <<< 28
      ∃ t, exec (.configSpaceAccess p (.decoder d b z k w g true)) s = .next t ∧
        decoderOf t p.toNat d.toNat = ⟨whole b, whole z, whole k, w, g, true⟩)) ∧
  (∀ (p : BitVec 2) (tag : BitVec 16) (a : Nat) (j : CopyJob) (s : State),
    (portOf s p.toNat).copies.find? (fun j => j.uio.any (fun x => x.1 = tag)) = some j →
    j.uio.find? (fun x => x.1 = tag) = some (tag, a) →
    exec (.uioWriteCompletion p ⟨tag, .success⟩) s = .next (runJob p.toNat j.id (jobFuel j.cmd)
      (putJob p.toNat { j with uio := j.uio.filter (fun x => x.1 ≠ tag) } s)) ∧
    exec (.uioWriteCompletion p ⟨tag, .abort⟩) s = .next (endJob p.toNat j stCxlCompleterErr a s)) ∧
  (∀ (p : BitVec 2) (tag : BitVec 16) (s : State),
    (portOf s p.toNat).copies.find? (fun j => j.uio.any (fun x => x.1 = tag)) = none →
    exec (.uioWriteCompletion p ⟨tag, .success⟩) s = .next (lsCompletion p.toNat tag .success s) ∧
    (∀ (e : Nat) (sent : Bool) (ts : List (BitVec 16)), lsPort s = p.toNat →
      s.lsOn.sends.find? (fun x => x.2.2.contains tag) = some (e, sent, ts) →
      ∃ t, exec (.uioWriteCompletion p ⟨tag, .abort⟩) s = .next t ∧ t.reportSeq = s.reportSeq + 1 ∧
        t.lsOn.sends = s.lsOn.sends.filter (fun x => !x.2.2.contains tag)))

/-! ### Gulem (R376 to R400) -/

/-- GULEM_REQUEST_FETCH takes one entry of the first fetchable ring after the port's turn, with its prompt (R377); a
boundary of running service whose step is no multiple of BLAZE_EVERY, with no drain asked for, applies every request that has
been fetched and begins the next step (R384). -/
def Obligations.GulemFetchesAndSteps : Prop :=
  (∀ (p : BitVec 2) (e : BitVec 512) (prompt : List (BitVec 32)) (fail : Option (Status × BitVec 64)) (q : Nat) (s : State),
    gulFetching s = true → rangerRuns s p.toNat = true → (portOf s p.toNat).linkUp = true →
    (List.map (fun i => (gulTurn s p.toNat + i) % 16) (List.range 16)).find? (gqFetchable s p.toNat) = some q →
    ∃ t, exec (.gulemRequestFetch p e prompt fail) s = .next t ∧
      t.gul.reqs = s.gul.reqs ++ [⟨p.toNat, q, e, prompt, fail⟩] ∧
      (gringOf t p.toNat q).sqHead = ((gringOf s p.toNat q).sqHead + 1) % gqEntries s p.toNat q ∧
      (∀ r i, (r, i) ≠ (p.toNat, q) → r < 4 → i < 16 → gringOf t r i = gringOf s r i) ∧ t.mem = s.mem) ∧
  (∀ (logits : List (BitVec 16 × List (BitVec 32))) (v : Service) (s : State), imgService s.image = some v →
    s.mode = .running → s.gul.waiting = false → (∀ r, r < 4 → rangerRuns s r = true) →
    s.gul.step % v.blazeEvery ≠ 0 → s.draining = false →
    ∃ t, exec (.gulemBoundary logits) s = .next t ∧ t.gul.step = s.gul.step + 1 ∧ t.gul.reqs = [] ∧
      t.gul.waiting = false ∧ t.mode = .running)

/-! ### Slots, batons and heartbeats (R84 to R110, R143, R144, R202, R401, R495) -/

/-- A slot boundary counts one slot in every stand that runs in its lap (R202, R401), whatever its stages, links and
holds do in it. -/
def Obligations.SlotBoundaryCountsSlots : Prop :=
  ∀ (badVectors badBatons : List (BitVec 6 × BitVec 10 × BitVec 5)) (s : State),
    ∃ t, exec (.slotBoundary badVectors badBatons) s = .next t ∧
      ∀ p ∈ servicePhys s, (standOf s p).started = true → (standOf s p).pos < s.lapLen →
        (standOf t p).slots = (standOf s p).slots + 1

/-- A baton with the tag that the queue expects enters it and IN_NEXT advances (R143); one with any other tag is
refused, its tags are recorded and the array's error is set (R144); and one that comes to a full queue, or to one that has
taken a baton in this slot or has one before it at the node, stays there in its turn. -/
def Obligations.BatonsArriveInOrder : Prop :=
  ∀ (a : ArrayLoc) (b : BitVec 16) (p : Nat) (s : State), inService s a.stand.toNat = some p →
    let i := arrIdx a.x.toNat a.y.toNat
    let n := a.y.toNat / 2 * 32 + a.x.toNat / 2
    let port := 5 + a.y.toNat % 2 * 2 + a.x.toNat % 2
    let takes : Prop := (arrOf s (arrKey p i)).btnIn.length < 4 ∧ (arrOf s (arrKey p i)).btnCame = false ∧
      ∀ m ∈ s.moves, ¬(m.node = nodeKey p n ∧ m.port = port ∧ m.link = false ∧ m.baton = true)
    isMemIdx i = false → rf s (CaStatus.key p i) CaStatus.arrayState ≠ 4 →
    (¬takes → exec (.batonInArrival a b) s = .next { s with
      moves := s.moves ++ [⟨nodeKey p n, port, false, true, 0, 0, b, 0⟩] }) ∧
    (takes → batonTag b = rf s (CaBtnState.key p i) CaBtnState.inNext →
      ∃ t, exec (.batonInArrival a b) s = .next t ∧
        (arrOf t (arrKey p i)).btnIn = (arrOf s (arrKey p i)).btnIn ++ [b] ∧
        rf t (CaBtnState.key p i) CaBtnState.inNext = (batonTag b + 1) % 256) ∧
    (takes → batonTag b ≠ rf s (CaBtnState.key p i) CaBtnState.inNext →
      ∃ t, exec (.batonInArrival a b) s = .next t ∧
        (arrOf t (arrKey p i)).btnIn = (arrOf s (arrKey p i)).btnIn ∧
        rf t (CaBtnError.key p i) CaBtnError.err = 1 ∧ rf t (CaBtnError.key p i) CaBtnError.received = batonTag b ∧
        rf t (CaBtnError.key p i) CaBtnError.expected = rf s (CaBtnState.key p i) CaBtnState.inNext ∧
        rf t (CaStatus.key p i) CaStatus.arrayState = 4)

/-- A stage late beyond its limit stops its array (R88); an array whose laps reach its period sends its heartbeat
through the route-out latch (R110); a heartbeat check keeps one entry for each entry of the image (R495). -/
def Obligations.StopsAndHeartbeats : Prop :=
  (∀ (l : StageLoc) (lanes : BitVec 16) (c : Loc) (s : State), locOf s l = some c → isMemIdx c.a = false →
    overrunLimit s c.p c.a < (stageOf s c.key).late →
    ∃ t, exec (.arrayNoCompletion ⟨l, lanes⟩) s = .next t ∧ rf t (CaStatus.key c.p c.a) CaStatus.arrayState = 4 ∧
      rf t (CaStageStatus.key c.p c.a c.st) CaStageStatus.state = 3 ∧
      rf t (CaStageStatus.key c.p c.a c.st) CaStageStatus.stopCode = stArrayNoCompletion.toNat ∧
      rf t (CaStageStatus.key c.p c.a c.st) CaStageStatus.lanes = lanes.toNat ∧ t.mem = s.mem) ∧
  (∀ (a : ArrayLoc) (p : Nat) (s : State), inService s a.stand.toNat = some p →
    let i := arrIdx a.x.toNat a.y.toNat
    let per := rf s (CaHeartbeat.key p i) CaHeartbeat.period
    isMemIdx i = false → per ≠ 0 → per ≤ (arrOf s (arrKey p i)).lapsBeat → (arrOf s (arrKey p i)).routeOut = none →
    ∃ t, exec (.heartbeat a) s = .next t ∧ arrOf t (arrKey p i) = { arrOf s (arrKey p i) with
      lapsBeat := (arrOf s (arrKey p i)).lapsBeat - per,
      routeOut := some (.service 0 [.heartbeat (BitVec.ofNat 16 (rf s (CaHeartbeat.key p i) CaHeartbeat.tally))]) }) ∧
  (∀ s : State, s.mode = .running → rangerRuns s 0 = true →
    ∃ t, exec .heartbeatCheck s = .next t ∧ t.hbs.length = (imgHeartbeats s.image).length ∧ t.mem = s.mem)

/-! ### Hubs (R261 to R294) -/

/-- What the engine rows and the rows that move a queue do (R276, R278, R282 to R291).
A hub cycle of a stand outside the service changes nothing; in one whose engines are idle, the one queue that examines, and
whose descriptor waits on nothing, is of its engine's class and is refused by no check, executes that descriptor (R276).
COPY moves its last 64 bytes from source to destination, GATHER_ROWS the last 64 bytes of the row its index names, or zeros for
the index -1 (R285), and GATHER_PAGES those of the page that its entry names (R286); SAMPLE writes the token that R287 chooses of
the logits read; REDUCE the combination of its partials (R291); TRANSPOSE its last bytes, in rows that hold each column's elements in
order (R289). Each descriptor then has its end, ST_DONE, with those bytes counted.
A descriptor that has ended retires and leaves its queue, once its DONE increment, where it has one, has been taken by the tally:
the queue is free again after ST_DONE and HELD with the status after a failure (R276, R278). -/
def Obligations.HubEnginesWork : Prop :=
  (∀ (p : BitVec 6) (s : State), roleOf s p.toNat ≠ 1 → exec (.hubCycle p) s = .next s) ∧
  (∀ (p : BitVec 6) (q : Nat) (s : State), roleOf s p.toNat = 1 → isPhys p.toNat = true → (∀ r, r < 32 → execOf s p.toNat r = none) →
    q < 28 → (∀ r, r < 32 → r ≠ q → queueExamines s p.toNat r = false) → queueExamines s p.toNat q = true →
    let n := rf s (HubQState.key p.toNat q) HubQState.next
    let e := execAt s p.toNat n
    natBit (numAt e.desc 1 1) 0 = false → opClass e.op = qClass s p.toNat q → 3 ≤ opClass e.op →
    qIndex s p.toNat q < engineCount (opClass e.op) → descOk e.desc = true →
    issueFault (rfput (HubQState.key p.toNat q) HubQState.state 2 (dropWait (.queue p.toNat q) s)) e = none →
    e.op ≠ 1 → e.op ≠ 0x40 →
    ∃ t, exec (.hubCycle p) s = .next t ∧ rf t (HubQState.key p.toNat q) HubQState.state = 2 ∧
      ∃ x, execOf t p.toNat q = some x ∧ x.desc = e.desc ∧ x.slot = n ∧ x.result = none ∧ x.pos = 0) ∧
  (∀ (p q : BitVec 6) (e : Exec) (bs x : List Byte) (u v s : State), engineReady s p.toNat q.toNat e → e.op = 1 → e.spfmt = 0 →
    e.cvMode = 0 → e.srcSel = 0 → e.dstSel = 0 → e.out = [] → e.sent = none → copyAway s p.toNat e = false →
    e.pos / (numAt e.desc 28 4 / 64) ≤ numAt e.desc 22 2 → numAt e.desc 22 2 < (e.pos + 1) / (numAt e.desc 28 4 / 64) →
    engRead p.toNat q.toNat (e.src.addr + (copyAt e).1) 64 e.srcForm s = (.done bs, u) →
    engWrite p.toNat q.toNat (e.dst.addr + (copyAt e).2) e.dstForm bs u = (.done x, v) →
    ∃ t, exec (.copy p q) s = .next t ∧ t.mem = v.mem ∧
      execOf t p.toNat q.toNat = some { e with pos := e.pos + 1, moved := e.moved + bs.length, result := some stDone }) ∧
  (∀ (p q : BitVec 6) (e : Exec) (s : State), engineReady s p.toNat q.toNat e → e.op = 0x10 → e.dstSel = 0 → e.out = [] →
    let spr := numAt e.desc 24 4 / 64
    let row := e.pos / spr
    let i := natSigned 32 (numAt e.buf (4 * row % 64) 4)
    let off := numAt e.desc 40 6 + 64 * e.pos
    let goes (bs : List Byte) (u : State) : Prop := ∀ (x : List Byte) (v : State),
      engWrite p.toNat q.toNat (e.dst.addr + off) e.dstForm bs
        (putExec p.toNat q.toNat { e with pos := e.pos + 1, out := [(off, bs)] } u) = (.done x, v) →
      ∃ t, exec (.gatherRows p q) s = .next t ∧ t.mem = v.mem ∧
        execOf t p.toNat q.toNat = some { e with pos := e.pos + 1, moved := e.moved + bs.length, result := some stDone }
    spr ≠ 0 → row < numAt e.desc 28 4 → numAt e.desc 28 4 ≤ (e.pos + 1) / spr → e.bufAt = 4 * row / 64 + 1 →
    (i = -1 → goes (List.replicate 64 0) s) ∧
    (∀ (bs : List Byte) (u : State), 0 ≤ i → i < numAt e.desc 56 4 →
      numAt e.desc 32 6 + i.toNat * numAt e.desc 52 4 + 64 * (e.pos % spr) + 64 ≤ e.src.len →
      engRead p.toNat q.toNat (e.src.addr + (numAt e.desc 32 6 + i.toNat * numAt e.desc 52 4 + 64 * (e.pos % spr))) 64 e.srcForm s =
        (.done bs, u) → goes bs u)) ∧
  (∀ (p q : BitVec 6) (e : Exec) (bs x : List Byte) (u v s : State), engineReady s p.toNat q.toNat e → e.op = 0x11 →
    e.dstSel = 0 → e.out = [] →
    let bpp := numAt e.desc 24 4
    let i := numAt e.desc 48 4 + e.pos * 64 / bpp
    let w := numAt e.buf (8 * (i * bpp / 65536) % 64) 8
    let page := natBits w 47 16 * 65536
    let off := numAt e.desc 40 6 + 64 * e.pos
    e.pos * 64 / bpp < numAt e.desc 28 4 → numAt e.desc 28 4 ≤ (e.pos + 1) * 64 / bpp →
    e.bufAt = i * bpp / 65536 * 8 / 64 + 1 → natBit w 63 = true → natBits w 62 48 = 0 → natBits w 15 0 = 0 →
    page + 65536 ≤ 0x23000000000 →
    engRead p.toNat q.toNat (page + (i * bpp % 65536 + e.pos * 64 % bpp)) 64 2 s = (.done bs, u) →
    engWrite p.toNat q.toNat (e.dst.addr + off) e.dstForm bs
      (putExec p.toNat q.toNat { e with pos := e.pos + 1, out := [(off, bs)] } u) = (.done x, v) →
    ∃ t, exec (.gatherPages p q) s = .next t ∧ t.mem = v.mem ∧
      execOf t p.toNat q.toNat = some { e with pos := e.pos + 1, moved := e.moved + bs.length, result := some stDone }) ∧
  (∀ (p q : BitVec 6) (e : Exec) (tok n : Nat) (lp : Lane) (x : List Byte) (v s : State), engineReady s p.toNat q.toNat e →
    e.op = 0x20 → e.dstSel = 0 → e.out = [] → e.pos = 0 →
    let f := natBits (numAt e.desc 16 2) 13 12
    let w := if f = 0 then 4 else 2
    let bs := bytesLE 4 tok ++ bytesLE 4 lp.toNat ++ bytesLE 4 n ++ [0, 0, 0, 0]
    let g : Exec := { e with pos := 1, work := [], workAt := 0 }
    (slotsOf (e.src.addr + numAt e.desc 56 4) (w * numAt e.desc 24 4)).length ≤ e.workAt →
    sampleOf e.desc ((List.range (numAt e.desc 24 4)).map (fun i => decodeElem f (numAt e.work (w * i) w))) = some (tok, lp, n) →
    engWrite p.toNat q.toNat (e.dst.addr + numAt e.desc 60 4) e.dstForm bs
      (putExec p.toNat q.toNat { g with out := [(numAt e.desc 60 4, bs)] } s) = (.done x, v) →
    ∃ t, exec (.sample p q) s = .next t ∧ t.mem = v.mem ∧
      execOf t p.toNat q.toNat = some { g with moved := e.moved + 16, result := some stDone }) ∧
  (∀ (p q : BitVec 6) (e : Exec) (off : Nat) (bs x : List Byte) (v s : State), engineReady s p.toNat q.toNat e → e.op = 0x30 →
    e.dstSel = 0 → e.out = [(off, bs)] → numAt e.desc 56 4 < e.pos →
    engWrite p.toNat q.toNat (e.dst.addr + off) e.dstForm bs s = (.done x, v) →
    ∃ t, exec (.transpose p q) s = .next t ∧ t.mem = v.mem ∧
      execOf t p.toNat q.toNat = some { e with out := [], moved := e.moved + bs.length, result := some stDone }) ∧
  (∀ (w i : Nat) (es : List Nat), w = 4 ∨ w = 8 ∨ w = 16 ∨ w = 32 → i < es.length → (w = 4 → es.length % 2 = 0) →
    (∀ x ∈ es, x < 2 ^ w) → elemAt (packRow w es) w i = es.getD i 0) ∧
  (∀ (p q : BitVec 6) (e : Exec) (off : Nat) (bs x : List Byte) (v s : State), engineReady s p.toNat q.toNat e → e.op = 0x40 →
    e.dstSel = 0 → e.out = [] → e.pos = 1 → (partialSlots e).length ≤ e.workAt →
    let f := numAt e.desc 21 1
    let ne := numAt e.desc 28 4
    let g : Exec := { e with pos := 2, work := [], workAt := 0 }
    cutOut (numAt e.desc 40 6) ((List.range ne).flatMap (fun i => bytesLE (fmtWidth f / 8) (reduceOf (numAt e.desc 20 1) f
      ((List.range (numAt e.desc 22 1)).map (fun k => BitVec.ofNat 32 (numAt e.work (4 * (k * ne + i)) 4)))))) = [(off, bs)] →
    engWrite p.toNat q.toNat (e.dst.addr + off) e.dstForm bs
      (putExec p.toNat q.toNat { g with out := [(off, bs)] } s) = (.done x, v) →
    ∃ t, exec (.reduce p q) s = .next t ∧ t.mem = v.mem ∧
      execOf t p.toNat q.toNat = some { g with moved := e.moved + bs.length, result := some stDone }) ∧
  (∀ (p q : BitVec 6) (e : Exec) (r : Status) (s : State), execOf s p.toNat q.toNat = some e → e.result = some r →
    isPhys p.toNat = true → q.toNat < 32 → 3 ≤ qClass s p.toNat q.toNat → qClass s p.toNat q.toNat ≤ 7 →
    qIndex s p.toNat q.toNat < engineCount (qClass s p.toNat q.toNat) →
    let ok : Prop := r = stDone ∨ r = stStoredDense
    (ok ∧ natBit (numAt e.desc 1 1) 1 = true → ∃ id, e.done = some id ∧ gotAnswer s id = some .acked) →
    ∃ t, exec (.descriptorRetire p q r) s = .next t ∧ execOf t p.toNat q.toNat = none ∧
      (ok → rf t (HubQState.key p.toNat q.toNat) HubQState.state = 0) ∧
      (¬ok → rf t (HubQState.key p.toNat q.toNat) HubQState.state = 3 ∧
        rf t (HubQState.key p.toNat q.toNat) HubQState.lastStatus = r.toNat))

/-- A refresh of a slice counts itself and scrubs the next 64-byte location (R270, R271, R274): POSITION moves on, and
begins again after the last with one more pass. A slice under test is refreshed and not scrubbed (R477). -/
def Obligations.RefreshScrubs : Prop :=
  ∀ (p sl : BitVec 6) (w : BitVec 16) (s : State), isPhys p.toNat = true →
    let pos := rf s (DslScrub.key p.toNat sl.toNat) DslScrub.position
    let passes := rf s (DslScrub.key p.toNat sl.toNat) DslScrub.passes
    ∃ t, exec (.dramRefresh p sl w) s = .next t ∧
      rf t (DslCount.key p.toNat sl.toNat) DslCount.refreshes =
        (rf s (DslCount.key p.toNat sl.toNat) DslCount.refreshes + 1) % 2 ^ 32 ∧
      (rf s (DslStatus.key p.toNat sl.toNat) DslStatus.state ≠ 2 → pos < 10485760 →
        rf t (DslScrub.key p.toNat sl.toNat) DslScrub.position = (pos + 1) % 10485760 ∧
        rf t (DslScrub.key p.toNat sl.toNat) DslScrub.passes =
          (if pos + 1 = 10485760 then min 0xFFFF (passes + 1) else passes)) ∧
      (rf s (DslStatus.key p.toNat sl.toNat) DslStatus.state = 2 →
        rg t (DslScrub.key p.toNat sl.toNat) = rg s (DslScrub.key p.toNat sl.toNat) ∧ t.mem = s.mem)

/-! ### Service mesh (R228 to R230, R315 to R327) -/

/-- A memory request that reaches its place is performed and answered (R169, R230, R267, R315): reads with the data, a
write with its bytes stored, atomics and increments acknowledged with their effect. -/
def Obligations.MemoryRequestsAreAnswered : Prop :=
  (∀ (src : MeshSrc) (form : BitVec 2) (a : BitVec 48) (z : BitVec 8) (s : State), arrives src (.read form a z) s →
    let u := svcNote src (.read form a z) s
    (∀ p sl off bs, placeOf u a.toNat (z.toNat + 1) = .dram p sl off → (dramRead p sl off (z.toNat + 1) u).1 = some bs →
      ∃ t, exec (.readRequest src form a z) s = .next t ∧ answered t src = some (.data (ofVecBytes bs)) ∧ t.mem = s.mem) ∧
    (∀ p x off bs, placeOf u a.toNat (z.toNat + 1) = .sram p x off →
      (extRead p x off (z.toNat + 1) form.toNat u).1 = .done bs →
      ∃ t, exec (.readRequest src form a z) s = .next t ∧ answered t src = some (.data (ofVecBytes bs)) ∧ t.mem = s.mem)) ∧
  (∀ (src : MeshSrc) (form : BitVec 2) (a : BitVec 48) (z : BitVec 8) (v : Vec) (p sl off : Nat) (s : State),
    arrives src (.write form a z v) s → z.toNat < 64 →
    placeOf (svcNote src (.write form a z v) s) a.toNat (z.toNat + 1) = .dram p sl off →
    dramWritable (svcNote src (.write form a z v) s) a.toNat off = true →
    mergeFault s (dramKey p sl off) (z.toNat + 1) = none →
    ∃ t, exec (.writeRequest src form a z v) s = .next t ∧ answered t src = some .done ∧
      ∀ i, i < z.toNat + 1 → memByte t (dramKey p sl off + i) = (vecBytes v).getD i 0) ∧
  (∀ (src : MeshSrc) (form : BitVec 2) (a : BitVec 48) (z : BitVec 8) (v : Vec) (p x off : Nat) (s : State),
    arrives src (.write form a z v) s → z.toNat < 64 →
    let u := svcNote src (.write form a z v) s
    placeOf u a.toNat (z.toNat + 1) = .sram p x off →
    (extWrite p x off form.toNat ((vecBytes v).take (z.toNat + 1)) u).1 = .done [] →
    ∃ t, exec (.writeRequest src form a z v) s = .next t ∧ answered t src = some .done ∧
      ∀ i, i < z.toNat + 1 → memByte t (sramKey p x off + i) = (vecBytes v).getD i 0) ∧
  (∀ (src : MeshSrc) (n : BitVec 16) (amount : Word) (x : Bool × Nat × Nat) (s : State),
    arrives src (.tally n amount) s → tallyPlace s n.toNat = .ok x →
    ∃ t, exec (.tallyIncrement src n amount) s = .next t ∧ answered t src = some .acked ∧
      tallyCount t x = tallyCount s x + amount) ∧
  (∀ (src : MeshSrc) (op : AtomicOp) (a : BitVec 48) (v : Word) (l : StageLoc) (lane : BitVec 4) (r : SvcReq)
    (p sl off : Nat) (bs : List Byte) (s : State), svcOf s src = some r → arrives src (.atomic op a v lane) s →
    placeOf s a.toNat (if op = .addX then 8 else 4) = .dram p sl off → dramWritable s a.toNat off = true →
    (dramRead p sl off (if op = .addX then 8 else 4) s).1 = some bs →
    ∃ t, exec (.atomicRequest src op a v l lane) s = .next t ∧ answered t src = some .acked ∧
      ∀ i, i < (if op = .addX then 8 else 4) → memByte t (dramKey p sl off + i) =
        (bytesLE (if op = .addX then 8 else 4) (atomicWord op (BitVec.ofNat 64 (ofBytesLE bs)) v).toNat).getD i 0)

/-- The other requests that arrive are performed and answered (R180, R183, R228, R327): a post with a free entry, a
set-up access, an error record, a management message, a wait for a tally that is reached. -/
def Obligations.OtherRequestsAreAnswered : Prop :=
  (∀ (src : MeshSrc) (a : ArrayLoc) (f l : BitVec 13) (w : Bool) (o : BitVec 6) (p : Nat) (s : State),
    arrives src (.post a f l w o) s → inService s a.stand.toNat = some p →
    let i := arrIdx a.x.toNat a.y.toNat
    arrState s p i ≠ 5 →
    (∀ g ∈ postGens s p i w, ((memArrOf s p i).sb.filter (fun x => x.gens.contains g)).length < 8) →
    ∃ t, exec (.post src a f l w o) s = .next t ∧ answered t src = some .posted ∧
      (postGens s p i w ≠ [] → (memArrOf t p i).sb = (memArrOf s p i).sb ++
        [⟨src, src.stand.toNat * 64 + o.toNat, postGens s p i w, f.toNat, l.toNat, w, false,
          (svcOf (svcNote src (.post a f l w o) s) src).any (·.dead)⟩])) ∧
  (∀ (src : MeshSrc) (a : BitVec 48) (v : Word) (s : State),
    (arrives src (.config true a v) s → (setupPut .ranger a.toNat 8 v (svcNote src (.config true a v) s)).1 = stDone →
      ∃ t, exec (.config src true a v) s = .next t ∧ answered t src = some .acked) ∧
    (arrives src (.config false a v) s → (setupGet .ranger a.toNat 8 (svcNote src (.config false a v) s)).1 = stDone →
      ∃ t, exec (.config src false a v) s = .next t ∧ answered t src =
        some (.data ((setupGet .ranger a.toNat 8 (svcNote src (.config false a v) s)).2.1.setWidth 512)))) ∧
  (∀ (src : MeshSrc) (st : Status) (loc a : Word) (d : BitVec 192) (s : State), arrives src (.record st loc a d) s →
    ∃ t, exec (.record src st loc a d) s = .next t ∧ answered t src = some .acked ∧ t.reportSeq = s.reportSeq + 1) ∧
  (∀ (src : MeshSrc) (m : BitVec 512) (s : State), arrives src (.mgmt m) s →
    ∃ t, exec (.mgmt src m) s = .next t ∧ answered t src = some .acked ∧ t.mgmtIn = s.mgmtIn ++ [m]) ∧
  (∀ (src : MeshSrc) (n : BitVec 16) (target : Word) (x : Bool × Nat × Nat) (s : State),
    arrives src (.tallyWait n target) s → tallyPlace s n.toNat = .ok x → reached (tallyCount s x) target = true →
    ∃ t, exec (.tallyWait src n target) s = .next t ∧ answered t src = some .waited)

/-- A response ends the request of its source and is kept as its answer, but for one whose sender has gone; SERVICE_TIMEOUT
ends it without one, and leaves what a failed request leaves; a response that comes later is discarded and counted (R230,
R42). WAIT_DONE meets the wait that asked (R327). PROGRESS_SEND
answers every held request with PROGRESS, and PROGRESS ends nothing. TALLY_WAIT_COMPLETE releases every waiter at the tally
whose target is reached (R326). -/
def Obligations.ResponsesEndRequests : Prop :=
  (∀ (d : MeshSrc) (r : SvcReq) (v : Vec) (st : Status) (a : BitVec 48) (s : State), svcOf s d = some r →
    let ends (t : State) (x : SvcAnswer) : Prop := svcOf t d = none ∧ (r.dead = false → gotAnswer t d = some x)
    (∃ t, exec (.readResponse d v) s = .next t ∧ ends t (.data v)) ∧
    (∃ t, exec (.writeAcknowledge d) s = .next t ∧ ends t .done) ∧
    (∃ t, exec (.postAcknowledge d) s = .next t ∧ ends t .posted) ∧
    (∃ t, exec (.ack d) s = .next t ∧ ends t .acked) ∧
    (∃ t, exec (.waitDone d) s = .next t ∧ ends t .waited ∧
      (r.dead = false → ∀ w ∈ t.waits, w.via = some d → w.done = true)) ∧
    (∃ t, exec (.negative d st a) s = .next t ∧ ends t (.negative st a)) ∧
    (∃ t, exec (.serviceTimeout d) s = .next t ∧ svcOf t d = none ∧
      t = doneAnswered d stServiceTimeout (svcFailed stServiceTimeout r (svcEnd d s)))) ∧
  (∀ (d : MeshSrc) (v : Vec) (s : State), svcOf s d = none →
    ∃ t, exec (.readResponse d v) s = .next t ∧ t.svc = s.svc ∧ t.svcGot = s.svcGot ∧
      rf t (IorErr.key (errIndex stServiceTimeout)) IorErr.count =
        satAdd (fldMax IorErr.count) (rf s (IorErr.key (errIndex stServiceTimeout)) IorErr.count) 1) ∧
  (∀ s : State, ∃ t, exec .progressSend s = .next t ∧ (∀ r ∈ s.svc, r.held = true → (r.src, .progress) ∈ t.svcResp) ∧
    t.svc = s.svc) ∧
  (∀ (d : MeshSrc) (s : State), ∃ t, exec (.progress d) s = .next t ∧ t.svc = s.svc ∧ t.svcGot = s.svcGot) ∧
  (∀ (n : BitVec 16) (x : Bool × Nat × Nat) (s : State), tallyPlace s n.toNat = .ok x →
    ∃ t, exec (.tallyWaitComplete n) s = .next t ∧
      ∀ w ∈ t.waits, w.tally = n.toNat → w.via = none → reached (tallyCount s x) w.target = true → w.done = true)

/-! ### Seams (R214 to R222) -/

/-- A frame that has crossed to a live seam port with a good check and in sequence is delivered to its receive queue, and its credits
go to their connections (R214, R218, R219); one whose check fails is counted and a replay asked for (R220); silence and the
replay limit mark a seam that works dead, by their own causes (R221). -/
def Obligations.SeamFramesAndDeaths : Prop :=
  (∀ (p : BitVec 6) (d : BitVec 2) (q : Nat) (f : SeamFrame) (r : List SeamFrame) (s : State),
    seamLive s p.toNat d.toNat = true → facing p.toNat d.toNat = some q → (seamOf s q (opp d.toNat)).wire = f :: r → frameCrossing ≤ f.age →
    (f.seq = (seamOf s p.toNat d.toNat).want →
      ∃ t, exec (.seamFrameReceive p d f.seq true f.request f.ack) s = .next t ∧ (seamOf t q (opp d.toNat)).wire = r ∧
        (seamOf t p.toNat d.toNat).want = f.seq + 1 ∧
        (seamOf t p.toNat d.toNat).rx = (seamOf s p.toNat d.toNat).rx ++ f.entries ∧
        (seamOf t p.toNat d.toNat).replaying = false ∧ (seamOf t p.toNat d.toNat).failRun = 0 ∧
        (seamOf t p.toNat d.toNat).silent = 0 ∧ t.creditFly = s.creditFly ++ f.credits.map (fun c => ⟨c, 0⟩) ∧
        rf t (SeamStatus.key p.toNat d.toNat) SeamStatus.lastSeq = f.seq.toNat) ∧
    (∀ seq request ack, ∃ t, exec (.seamFrameReceive p d seq false request ack) s = .next t ∧ (seamOf t q (opp d.toNat)).wire = r ∧
      (seamOf t p.toNat d.toNat).replaying = true ∧ (seamOf t p.toNat d.toNat).rx = (seamOf s p.toNat d.toNat).rx ∧
      rf t (SeamCount.key p.toNat d.toNat) SeamCount.frameErrors =
        min 0xFFFFFFFF (rf s (SeamCount.key p.toNat d.toNat) SeamCount.frameErrors + 1))) ∧
  (∀ (p : BitVec 6) (d : BitVec 2) (s : State), seamLive s p.toNat d.toNat = true →
    (silenceLimit s p.toNat d.toNat ≤ (seamOf s p.toNat d.toNat).silent →
      ∃ t, exec (.seamDeadSilence p d) s = .next t ∧ rf t (SeamStatus.key p.toNat d.toNat) SeamStatus.state = 3) ∧
    (max 1 (rf s (SeamCfg.key p.toNat d.toNat) SeamCfg.replayLimit) ≤ (seamOf s p.toNat d.toNat).failRun →
      ∃ t, exec (.seamDeadReplayLimit p d) s = .next t ∧ rf t (SeamStatus.key p.toNat d.toNat) SeamStatus.state = 4)) ∧
  (∀ (p : BitVec 6) (s : State), ∃ t, exec (.meshNoProgress p) s = .next t ∧
    (∀ n ∈ unitsOf s p.toNat 14, noProgress s p.toNat n = true → rf t (NodeStatus.key p.toNat n) NodeStatus.noprog = 1) ∧
    t.mem = s.mem)

/-! ### Power (R445 to R462) -/

/-- The sensors' tick, the rails, trips and the busbar (R445, R447, R454, R457 to R459, R470, R536, R561): what each event
leaves of the tiles' states, of the energy counter and of the input. -/
def Obligations.PowerEvents : Prop :=
  (∀ (late : BitVec 64) (sens : List (BitVec 6 × BitVec 64)) (ring0 ring1 input energy : Word)
      (counts : List (BitVec 6 × List (BitVec 64))) (s : State),
    ∃ t, exec (.powerTick late sens ring0 ring1 input energy counts) s = .next t ∧ rg t PwrInput.key = input ∧
      rg t PwrEnergy.key = rg s PwrEnergy.key + energy ∧ rg t PwrRingTemp0.key = ring0 ∧ rg t PwrRingTemp1.key = ring1 ∧
      t.mem = s.mem) ∧
  (∀ (p : BitVec 6) (n : Nat) (s : State), rampOf s p.toNat = some (n, true, 2) →
    ∃ t, exec (.tilePowerGood p) s = .next t ∧ (2 ≤ n → tileState t p.toNat = 2 ∧ rampOf t p.toNat = none) ∧
      (n < 2 → rampOf t p.toNat = some (n + 1, true, 2))) ∧
  (∀ (p : BitVec 6) (cause rail : BitVec 4) (ph : Byte) (s : State), isPhys p.toNat = true →
    tilePowered s p.toNat = true →
    ∃ t, exec (.tileTrip p cause rail ph) s = .next t ∧ tileState t p.toNat = 3 ∧ roleOf t p.toNat = 5 ∧
      rf t (PwrTile.key p.toNat) PwrTile.cause = cause.toNat ∧ rf t (PwrTile.key p.toNat) PwrTile.rail = rail.toNat ∧
      rf t (PwrTile.key p.toNat) PwrTile.phase = ph.toNat ∧ ∀ a, a < 0x28000000 * 64 →
        memByte t (dramKey p.toNat 0 0 + a) = memDflt (dramKey p.toNat 0 0 + a)) ∧
  (∀ (p : BitVec 6) (s : State), ∃ t, exec (.junctionTrip p true) s = .next t ∧
    ∀ q, isPhys q = true → tilePowered s q = true → tileState t q = 3) ∧
  (∀ (v : BitVec 16) (s : State), v.toNat < 4400 ∨ 6000 < v.toNat →
    ∃ t, exec (.inputFault v) s = .next t ∧ t.power.inputFault = true ∧ t.power.busbarOk = false ∧
      ∀ q, isPhys q = true → tilePowered s q = true → tileState t q = 3) ∧
  (∀ (serial : Word) (f : BitVec 16) (s : State), ∃ t, exec (.standbyPowerOn serial f) s = .next t ∧
    rg t OtpId.key = serial ∧ secState t = (if f = 0 then 1 else 3) ∧ t.fuses = s.fuses ∧ t.mode = .none ∧ t.mem = []) ∧
  (∀ s : State, ∃ t, exec .standbyPowerLoss s = .next t ∧ t.fuses = s.fuses ∧ t.mode = .none ∧
    (∀ k, rg t k = regReset k) ∧ ∀ k, memByte t k = memDflt k) ∧
  (∀ s : State, exec .busbarStable s = .next { s with power := { s.power with inputFault := false, busbarOk := true } }) ∧
  (∀ (p : BitVec 6) (n f : Nat) (s : State), isPhys p.toNat = true → rampOf s p.toNat = some (n, false, f) → f < 8 →
    ∃ t, exec (.railSwitchOffDone p) s = .next t ∧ (n < 2 → tileState t p.toNat = f ∧ rampOf t p.toNat = none) ∧
      (2 ≤ n → rampOf t p.toNat = some (n - 1, false, f)))

/-! ### Clocks and time (R421 to R441, R545, R546) -/

/-- A stand's clock source, its dividers and its gates (R426 to R428, R431, R435 to R437): a refused selection leaves the
source as it was, a stand that loses its source goes over to steered or free holdover, and a gate command does to the
node and its relatives what it names. -/
def Obligations.ClockSourcesAndGates : Prop :=
  (∀ (via : Via) (p : BitVec 6) (v : Word) (s : State), passes via true (ClkSrcSel.key p.toNat) s →
    (srcRefusal s p.toNat (fldGet ClkSrcSel.src v) = none →
      ∃ t, exec (.clkSrcSelWrite via p v) s = .next t ∧ clkSrc t p.toNat = fldGet ClkSrcSel.src v ∧
        clkState t p.toNat = 4) ∧
    (∀ st, srcRefusal s p.toNat (fldGet ClkSrcSel.src v) = some st →
      ∃ t, exec (.clkSrcSelWrite via p v) s = .next t ∧ clkSrc t p.toNat = clkSrc s p.toNat ∧
        clkState t p.toNat = clkState s p.toNat ∧
        rf t (ClkSrcStatus.key p.toNat) ClkSrcStatus.lastStatus = st.toNat)) ∧
  (∀ (p : BitVec 6) (s : State), clkState s p.toNat = 4 →
    ∃ t, exec (.clkSwitchComplete p) s = .next t ∧ clkState t p.toNat = 1 ∧ clkSrc t p.toNat = clkSrc s p.toNat) ∧
  (∀ (p : BitVec 6) (s : State), isPhys p.toNat = true → clkState s p.toNat = 1 ∨ clkState s p.toNat = 4 →
    ∃ t, exec (.clkSourceLost p) s = .next t ∧ clkState t p.toNat = (if (steerSides s p.toNat).isEmpty then 3 else 2) ∧
      sideReady t p.toNat (clkSrc s p.toNat) = false ∧ t.reportSeq = s.reportSeq + 1) ∧
  (∀ (via : Via) (p : BitVec 6) (v : Word) (s : State), passes via true (ClkDiv.key p.toNat) s → divOk v = true →
    fldGet ClkDiv.dslDiv v = rf s (ClkDiv.key p.toNat) ClkDiv.dslDiv →
    ∃ t, exec (.clkDivWrite via p v) s = .next t ∧
      rf t (ClkDiv.key p.toNat) ClkDiv.hubDiv = fldGet ClkDiv.hubDiv v ∧
      rf t (ClkDiv.key p.toNat) ClkDiv.stdDiv = fldGet ClkDiv.stdDiv v) ∧
  (∀ (p : BitVec 6) (d : BitVec 2) (w : SideShow) (hold : Bool) (path : Word) (depth : Byte) (s : State), isPhys p.toNat = true →
    ∃ t, exec (.sideReadyChange p d w path depth hold) s = .next t ∧
      (sideReady t p.toNat d.toNat = true ↔ sidePresent s p.toNat w = true ∧ w.locked = true ∧
        w.phaseErr.toInt.natAbs ≤ max 1 (rf s (ClkSrcCfg.key p.toNat) ClkSrcCfg.phaseLimit)) ∧
      natBit (rf t (ClkSrcStatus.key p.toNat) ClkSrcStatus.present) d.toNat = sidePresent s p.toNat w) ∧
  (∀ (via : Via) (p : BitVec 6) (n : BitVec 10) (s : State), passes via true (ClkGateCmd.key p.toNat) s →
    isGate n.toNat = true →
    (∃ t, exec (.gateOn via p n) s = .next t ∧ gateSt t p.toNat n.toNat = 0 ∧
      ∀ m ∈ gateAnc 3 n.toNat, gateSt t p.toNat m ≠ 1) ∧
    ((gateTree s p.toNat n.toNat).any (gateInUse s p.toNat) = false →
      ∃ t, exec (.gateOff via p n) s = .next t ∧ ∀ m ∈ n.toNat :: gateDesc n.toNat, gateSt t p.toNat m = 1) ∧
    ((gateTree s p.toNat n.toNat).any (fun m => gateInUse s p.toNat m && !drainEnds m) = false →
      gateSt s p.toNat n.toNat ≠ 1 →
      ∃ t, exec (.gateOffAfterDrain via p n) s = .next t ∧ gateSt t p.toNat n.toNat = 2) ∧
    (gateSt s p.toNat n.toNat = 2 → ∃ t, exec (.gateCancel via p n) s = .next t ∧ gateSt t p.toNat n.toNat = 0)) ∧
  (∀ (p : BitVec 6) (n : BitVec 10) (s : State), gateSt s p.toNat n.toNat = 2 →
    (gateTree s p.toNat n.toNat).any (gateInUse s p.toNat) = false →
    ∃ t, exec (.gatePendingComplete p n) s = .next t ∧
      ∀ m ∈ n.toNat :: gateDesc n.toNat, gateSt t p.toNat m = 1)

/-- The time of day (R545, R546): a pending value waits for the next valid edge, at which the counter takes it, or holds
still where it lies behind; an edge out of its window counts and moves nothing; a value that met no edge is discarded
with a report, and so is told the loss of the edges, once. -/
def Obligations.TimeOfDay : Prop :=
  (∀ (via : Via) (v : Word) (s : State), passes via true ClkTimeNext.key s →
    ∃ t, exec (.clkTimeNextWrite via v) s = .next t ∧ t.timeCtr.next = some v ∧ timeNow t = timeNow s) ∧
  (∀ (now : Word) (s : State), timeNow s ≤ now → edgeValid s now = true →
    ∃ t, exec (.ppsEdge now) s = .next t ∧ rf t ClkPpsStatus.key ClkPpsStatus.state = 1 ∧ rg t ClkPpsCapture.key = now ∧
      t.timeCtr.next = none ∧
      (∀ v, s.timeCtr.next = some v → now ≤ v →
        timeNow t = v ∧ rf t ClkPpsStatus.key ClkPpsStatus.set = 1 ∧ t.reportSeq = s.reportSeq + 1) ∧
      (∀ v, s.timeCtr.next = some v → v < now → timeNow t = now ∧ t.timeCtr.hold = (now - v).toNat) ∧
      (s.timeCtr.next = none → rf s ClkPpsCfg.key ClkPpsCfg.align = 0 → timeNow t = now ∧ t.timeCtr.edge = some now)) ∧
  (∀ (now : Word) (s : State), timeNow s ≤ now → edgeValid s now = false →
    ∃ t, exec (.ppsEdge now) s = .next t ∧ timeNow t = now ∧ t.timeCtr = s.timeCtr ∧
      rf t ClkPpsStatus.key ClkPpsStatus.badEdges =
        satAdd (fldMax ClkPpsStatus.badEdges) (rf s ClkPpsStatus.key ClkPpsStatus.badEdges) 1) ∧
  (∀ s : State, s.timeCtr.next.isSome = true →
    ∃ t, exec .timeNextExpiry s = .next t ∧ t.timeCtr.next = none ∧ t.reportSeq = s.reportSeq + 1) ∧
  (∀ s : State, rf s ClkPpsStatus.key ClkPpsStatus.state = 1 →
    ∃ t, exec .ppsLost s = .next t ∧ rf t ClkPpsStatus.key ClkPpsStatus.state = 2 ∧ t.reportSeq = s.reportSeq + 1)

/-! ### Management, firmware and security (R521 to R540, R557, R558) -/

/-- A bundle is taken and verified (R530, R532): by GO of a port, by FW_PUSH of a session, and by FW_VERIFY once it is
whole and no step of the verification refuses it, after which the firmware runs with its security version. -/
def Obligations.FirmwareIsLoaded : Prop :=
  (∀ (p : BitVec 2) (v : Word) (b : List Byte) (s : State), passes (.host p) true (RgrFwCtl.key 0) s →
    fldGet RgrFwCtl.go v = 1 → rf s RgrFwStatus.key RgrFwStatus.state = 0 →
    ∃ t, exec (.fwGo p v b none) s = .next t ∧ rf t RgrFwStatus.key RgrFwStatus.state = 1 ∧
      t.fw.source = some (.host p.toNat) ∧ t.fw.total = rf s (RgrFwLen.key 0) RgrFwLen.len) ∧
  (∀ (m : BitVec 1) (i : BitVec 2) (o n : Word) (b : List Byte) (s : State),
    (sessOf s (pushKey s m.toNat i.toNat)).isSome = true → b.length ≤ 65536 →
    rf s RgrFwStatus.key RgrFwStatus.state = 0 → o.toNat + b.length ≤ n.toNat → n.toNat ≤ fwMax →
    ∃ t, exec (.fwPush m i o n b) s = .next t ∧ rf t RgrFwStatus.key RgrFwStatus.state = 1 ∧
      t.fw.source = some (.mgmt (pushKey s m.toNat i.toNat)) ∧ t.fw.total = n.toNat ∧ t.fw.got = b.length ∧
      smapGetMany memDflt t.fw.bytes o.toNat b.length = b) ∧
  (∀ s : State, rf s RgrFwStatus.key RgrFwStatus.state = 1 → s.fw.total ≤ s.fw.got → s.fw.total ≤ fwMax →
    secServes s = true → ∃ t, exec .fwVerify s = .next t ∧
      (fwRefusal s (fwBundle s) = none → fwVerified t = true ∧
        rf t RgrFwStatus.key RgrFwStatus.svn = numAt (fwBundle s) 8 4) ∧
      (∀ st, fwRefusal s (fwBundle s) = some st → t = fwRefused st s))

/-- The sessions of the management ports and their messages (R521 to R527, R539, R557): a session opens on the first free
of four, each message in sequence is answered in turn, one out of sequence ends the session, and a session that has
ended is there no more. REG_READ answers what a register shows, and clears its RC fields; REG_WRITE sets a register's fields. -/
def Obligations.SessionsAnswerInTurn : Prop :=
  (∀ (m : BitVec 1) (pr : BitVec 2) (peer : BitVec 128) (a : BitVec 384) (i : Nat) (s : State), cageDown s m.toNat = false →
    protoServed s pr.toNat = true → secServes s = true → openSlot s m.toNat pr.toNat = some i →
    ((trustAnchors s).contains a = true → ∃ t, exec (.mgmtSessionOpen m pr peer a true) s = .next t ∧
      (sessOf t (sessKey m.toNat pr.toNat i)).map (fun v => (v.peer, v.seqIn, v.out)) = some (peer, 0, [])) ∧
    (∃ t, exec (.mgmtSessionOpen m pr peer a false) s = .next t ∧ sessOf t (sessKey m.toNat pr.toNat i) = none ∧
      t.authFails = s.authFails + 1 ∧ t.reportSeq = s.reportSeq + 1)) ∧
  (∀ (m : BitVec 1) (pr i : BitVec 2) (s : State), ∃ t, exec (.mgmtSessionEnd m pr i) s = .next t ∧
    sessOf t (sessKey m.toNat pr.toNat i.toNat) = none ∧
    t.orphans = s.orphans ++ sessFlight s (sessKey m.toNat pr.toNat i.toNat)) ∧
  (∀ (m : BitVec 1) (i : BitVec 2) (seq : Word) (a : BitVec 48) (v kinds : Word) (x : Session) (s : State),
    sessOf s (mgmtKey m i) = some x →
    let u := sessCount (mgmtKey m i) s
    let last (t : State) : Option MgmtMsg := (sessOf t (mgmtKey m i)).bind (·.out.getLast?)
    (seq.toNat = x.seqIn →
      (∃ t, exec (.regRead m i seq a) s = .next t ∧ last t =
        some (.regResult (a.setWidth 64) (setupGet (.mgmt m) a.toNat 8 u).2.1 (setupGet (.mgmt m) a.toNat 8 u).1)) ∧
      (∃ t, exec (.regWrite m i seq a v) s = .next t ∧ last t =
        some (.regResult (a.setWidth 64) v (setupPut (.mgmt m) a.toNat 8 v u).1)) ∧
      (∀ k, plainRead k = true → reaches (.mgmt m) false a.toNat 8 k u →
        ∃ t, exec (.regRead m i seq a) s = .next t ∧
          last t = some (.regResult (a.setWidth 64) (readValue u k a.toNat 8) stDone) ∧
          onlyWrote k (readLeaves s k a.toNat 8) s t) ∧
      (∀ k, plainReg k = true → reaches (.mgmt m) true a.toNat 8 k u →
        ∃ t, exec (.regWrite m i seq a v) s = .next t ∧ last t = some (.regResult (a.setWidth 64) v stDone) ∧
          onlyWrote k (writtenWord u k allOnes v) s t) ∧
      (∃ t, exec (.subscribe m i seq kinds) s = .next t ∧
        (sessOf t (mgmtKey m i)).map (·.kinds) = some kinds)) ∧
    (seq.toNat ≠ x.seqIn →
      exec (.regRead m i seq a) s = .next (endSession (mgmtKey m i) s) ∧
      exec (.regWrite m i seq a v) s = .next (endSession (mgmtKey m i) s) ∧
      exec (.subscribe m i seq kinds) s = .next (endSession (mgmtKey m i) s)) ∧
    (∀ q, secServes s = true → ∃ t bs, exec (.spdmRequest (.mgmt m) i q) s = .next t ∧ last t = some (.spdm bs))) ∧
  (∀ (m : BitVec 1) (i : BitVec 2) (x : Session) (q : Redfish) (s : State), sessOf s (sessKey m.toNat 0 i.toNat) = some x →
    ∃ t, exec (.redfishRequest m i q) s = .next t ∧ (sessOf t (sessKey m.toNat 0 i.toNat)).bind (·.out.getLast?) =
      some (.redfish (redfishValues s (redfishEvents x.events q) q).1 (redfishValues s (redfishEvents x.events q) q).2)) ∧
  (∀ (m : BitVec 1) (up ok : Bool) (s : State), ∃ t, exec (.transceiverChange m up ok) s = .next t ∧
    cageDown t m.toNat = !(up && ok) ∧ ((up && ok) = false → ∀ k, k / 16 = m.toNat → sessOf t k = none))

/-- The security engine and the debug port (R535 to R537, R540): a key that passes its known-answer test is in force, a
failed test or a failed health test of the entropy source leaves the engine in its error state with its keys gone, pools
are filled from the sources, and the debug port does nothing while it is closed. -/
def Obligations.SecurityEngineAndDebug : Prop :=
  (∀ (p : BitVec 2) (key : BitVec 256) (s : State), secServes s = true →
    (∃ t, exec (.ideKeyProgramming p key true) s = .next t ∧ (portOf t p.toNat).ideKey = key) ∧
    (∃ t, exec (.ideKeyProgramming p key false) s = .next t ∧ secState t = 3 ∧ ∀ q, q < 4 → (portOf t q).ideKey = 0)) ∧
  (∀ (f : BitVec 16) (s : State), secState s ≠ 3 → ∃ t, exec (.entropyTestFail f) s = .next t ∧ secState t = 3 ∧
    rf t SecStatus.key SecStatus.failedTest = f.toNat ∧
    rf t SecStatus.key SecStatus.healthFails =
      satAdd (fldMax SecStatus.healthFails) (rf s SecStatus.key SecStatus.healthFails) 1 ∧
    (∀ q, q < 4 → (portOf t q).ideKey = 0) ∧ ∀ k, sessOf t k = none) ∧
  (∀ (p : BitVec 6) (ws : List Lane) (s : State), isPhys p.toNat = true → secServes s = true →
    ∃ t, exec (.entropyPoolRefill p ws) s = .next t ∧
      standOf t p.toNat = { standOf s p.toNat with pool := (standOf s p.toNat).pool ++ ws }) ∧
  (∀ (w : JtagAccess) (s : State), s.dbg.minutes = none → exec (.jtagAccess w) s = .next s) ∧
  (∀ (r : BitVec 2) (s : State), s.dbg.minutes.isSome = true →
    (∃ t, exec (.jtagAccess (.haltRanger r)) s = .next t ∧ t.dbg.halted.contains r.toNat = true) ∧
    (∃ t, exec (.jtagAccess (.resumeRanger r)) s = .next t ∧ t.dbg.halted.contains r.toNat = false))

/-! ### Registers (R14 to R16, R98, R108, R198, R199, R293, R295 to R301, R315 to R334, R337, R338, R548) -/

/-- The register rows (R14 to R16, R40, R108, R199, R293, R337, R548): a write that reaches a register which it only sets leaves
its RW bits as written, clears the W1C bits written 1, and changes nothing else; a read answers what the register shows and
clears its RC bits; the reserved range of BAR0 reads all ones and discards writes. A
handle's address and length become valid together; and the data windows of the operand buffers, of the descriptors and
of the fuse staging buffer store eight bytes at their address, which then advances. -/
def Obligations.RegisterRows : Prop :=
  (∀ (via : Via) (a : BitVec 48) (n : BitVec 4) (v : Word) (s : State),
    exec (.setupWrite via a n v) s = .next (setupPut via a.toNat n.toNat v s).2 ∧
    ∀ k, plainReg k = true → reaches via true a.toNat n.toNat k s →
      ∃ t, exec (.setupWrite via a n v) s = .next t ∧
        onlyWrote k (writtenWord s k (accessMask a.toNat n.toNat) (v <<< accessShift a.toNat)) s t ∧
        (n = 8 → rg t k = ((rg s k &&& ~~~(descOf k).rw) ||| (v &&& (descOf k).rw)) &&& ~~~(v &&& (descOf k).w1c))) ∧
  (∀ (via : Via) (a : BitVec 48) (s : State),
    (∃ t, exec (.registerReadClear via a) s = .next t ∧
      t.suOut = (setupGet via a.toNat 8 s).2.2.suOut ++ [(via, a.toNat, (setupGet via a.toNat 8 s).2.1)]) ∧
    ∀ k, plainRead k = true → reaches via false a.toNat 8 k s →
      ∃ t, exec (.registerReadClear via a) s = .next t ∧ t.suOut = s.suOut ++ [(via, a.toNat, shown s k)] ∧
        onlyWrote k (rg s k &&& ~~~(descOf k).rc) s t) ∧
  (∀ (p : BitVec 2) (o : BitVec 22) (n : BitVec 4) (v : Word) (a : Nat) (s : State), bar0Addr s p.toNat o.toNat = some a →
    exec (.bar0Access p true o n v) s = .next (setupPut (.host p) a n.toNat v s).2 ∧
    (∃ t, exec (.bar0Access p false o n v) s = .next t ∧
      t.suOut.getLast? = some (.host p, a, (setupGet (.host p) a n.toNat s).2.1)) ∧
    (∀ k, plainReg k = true → reaches (.host p) true a n.toNat k s →
      ∃ t, exec (.bar0Access p true o n v) s = .next t ∧
        onlyWrote k (writtenWord s k (accessMask a n.toNat) (v <<< accessShift a)) s t) ∧
    (∀ k, plainRead k = true → reaches (.host p) false a n.toNat k s →
      ∃ t, exec (.bar0Access p false o n v) s = .next t ∧ t.suOut = s.suOut ++ [(.host p, a, readValue s k a n.toNat)] ∧
        onlyWrote k (readLeaves s k a n.toNat) s t)) ∧
  (∀ (p : BitVec 2) (o : BitVec 22) (n : BitVec 4) (v : Word) (s : State), bar0Addr s p.toNat o.toNat = none →
    exec (.bar0Access p true o n v) s = .next s ∧
    exec (.bar0Access p false o n v) s = .next { s with suOut := s.suOut ++ [(.host p, o.toNat, allOnes)] }) ∧
  (∀ (via : Via) (p : BitVec 6) (h : BitVec 12) (v : Word) (s : State),
    (passes via true (HubHdlLen.key p.toNat h.toNat) s →
      ∃ t, exec (.hubHdlLenWrite via p h v) s = .next t ∧ t.regs = s.regs ∧
        fldGet HubHdlLen.length (smapGet lenDflt t.hdlStage (p.toNat * 4096 + h.toNat)) = fldGet HubHdlLen.length v) ∧
    (passes via true (HubHdlAddr.key p.toNat h.toNat) s →
      let len := fldGet HubHdlLen.length (smapGet lenDflt s.hdlStage (p.toNat * 4096 + h.toNat))
      (hdlNames (fldGet HubHdlAddr.kind v) (fldGet HubHdlAddr.addr v) len = true →
        ∃ t, exec (.hubHdlAddrWrite via p h v) s = .next t ∧
          rf t (HubHdlAddr.key p.toNat h.toNat) HubHdlAddr.addr = fldGet HubHdlAddr.addr v ∧
          rf t (HubHdlAddr.key p.toNat h.toNat) HubHdlAddr.valid = fldGet HubHdlAddr.valid v ∧
          rf t (HubHdlLen.key p.toNat h.toNat) HubHdlLen.length = len) ∧
      (fldGet HubHdlAddr.valid v = 1 → hdlNames (fldGet HubHdlAddr.kind v) (fldGet HubHdlAddr.addr v) len = false →
        exec (.hubHdlAddrWrite via p h v) s =
          .next (countVia via (HubHdlAddr.key p.toNat h.toNat) stHandleRange s)))) ∧
  (∀ (via : Via) (p x y : BitVec 6) (v : Word) (s : State),
    passes via true (CaObData.key p.toNat (arrIdx x.toNat y.toNat)) s →
    arrConfigurable s p.toNat (arrIdx x.toNat y.toNat) = true →
    let q := obPlace s p.toNat (arrIdx x.toNat y.toNat)
    ∃ t, exec (.caObDataAccess via p x y true v) s = .next t ∧ obBytes t q.1 q.2.1 q.2.2 8 = bytesLE 8 v.toNat ∧
      t.mem = s.mem) ∧
  (∀ (via : Via) (p : BitVec 6) (v : Word) (s : State), passes via true (HubDescData.key p.toNat) s →
    hubQuiet s p.toNat = true →
    ∃ t, exec (.hubDescDataAccess via p true v) s = .next t ∧ t.mem = s.mem ∧
      descBytes t p.toNat (rf s (HubDescAccess.key p.toNat) HubDescAccess.addr / 8 * 8) 8 = bytesLE 8 v.toNat) ∧
  (∀ (via : Via) (v : Word) (s : State), passes via true OtpStageData.key s →
    ∃ t, exec (.otpStageDataAccess via true v) s = .next t ∧ t.fuses = s.fuses ∧
      smapGetMany memDflt t.otpStage (rf s OtpStageAccess.key OtpStageAccess.addr / 8 * 8) 8 = bytesLE 8 v.toNat)

/-- The rows of the check units (R295 to R301, R310): a feed register takes its bytes, least significant first, CVU_VALUE
sets V, and LOAD restarts it, unless the unit is owned, when every write of these is discarded and counted. The rows of
the tallies (R315, R325, R331 to R334): a write of TLY_COUNT sets COUNT, TLY_ADD adds modulo 2^64, and a watched tally's
unit, ports and range stay as they are until its watch ends. -/
def Obligations.CheckUnitAndTallyRows : Prop :=
  (∀ (via : Via) (ring : Bool) (p : BitVec 6) (u : BitVec 4) (v : Word) (s : State),
    let k := p.toNat
    let n := u.toNat
    let par := cvuParams s ring k n
    (∀ key, key = CvuFeed8.key ring k n ∨ key = CvuFeed16.key ring k n ∨ key = CvuFeed32.key ring k n ∨
        key = CvuFold.key ring k n ∨ key = CvuValue.key ring k n ∨ key = CvuCfg.key ring k n → passes via true key s) →
    let fed (t : State) (m : Nat) : Prop :=
      (rg t (CvuValue.key ring k n)).toNat = crcFeed par (cvuV s ring k n) (bytesLE m v.toNat) ∧
      rf t (CvuStatus.key ring k n) CvuStatus.bytes =
        (rf s (CvuStatus.key ring k n) CvuStatus.bytes + m) % (fldMax CvuStatus.bytes + 1)
    (cvuOwned s ring k n = false →
      (∃ t, exec (.cvuFeed8 via ring p u v) s = .next t ∧ fed t 1) ∧
      (∃ t, exec (.cvuFeed16 via ring p u v) s = .next t ∧ fed t 2) ∧
      (∃ t, exec (.cvuFeed32 via ring p u v) s = .next t ∧ fed t 4) ∧
      (∃ t, exec (.cvuFold via ring p u v) s = .next t ∧ fed t 8) ∧
      (∃ t, exec (.cvuValueWrite via ring p u v) s = .next t ∧
        cvuV t ring k n = v.toNat % 2 ^ par.w ∧ rf t (CvuStatus.key ring k n) CvuStatus.bytes = 0) ∧
      (fldGet CvuCfg.psel v < 5 → fldGet CvuCfg.load v = 1 →
        ∃ t, exec (.cvuLoad via ring p u v) s = .next t ∧
          (rg t (CvuValue.key ring k n)).toNat = (cvuParams t ring k n).init ∧
          rf t (CvuCfg.key ring k n) CvuCfg.psel = fldGet CvuCfg.psel v)) ∧
    (cvuOwned s ring k n = true →
      let u' := rfsat (CvuStatus.key ring k n) CvuStatus.discards 1 s
      exec (.cvuFeed8 via ring p u v) s = .next (countVia via (CvuFeed8.key ring k n) stCvuBusy u') ∧
      exec (.cvuFold via ring p u v) s = .next (countVia via (CvuFold.key ring k n) stCvuBusy u') ∧
      exec (.cvuValueWrite via ring p u v) s = .next (countVia via (CvuValue.key ring k n) stCvuBusy u'))) ∧
  (∀ (via : Via) (ring : Bool) (p : BitVec 6) (i : BitVec 12) (v : Word) (s : State),
    (passes via true (TlyCount.key ring p.toNat i.toNat) s →
      ∃ t, exec (.tlyCountWrite via ring p i v) s = .next t ∧ tallyCount t (ring, p.toNat, i.toNat) = v) ∧
    (passes via true (TlyAdd.key ring p.toNat i.toNat) s →
      ∃ t, exec (.tlyAdd via ring p i v) s = .next t ∧
        tallyCount t (ring, p.toNat, i.toNat) = tallyCount s (ring, p.toNat, i.toNat) + v)) ∧
  (∀ (via : Via) (i : BitVec 12) (v : Word) (lim : Bool) (s : State),
    let k := TlyCfg.key true 0 i.toNat
    let w := if lim then TlyWatchLimit.key true 0 i.toNat else TlyWatchBase.key true 0 i.toNat
    (passes via true k s →
      (rf s k TlyCfg.watchEn = 1 → fldGet TlyCfg.watchEn v = 0 →
        ∃ t, exec (.tlyCfgWrite via i v) s = .next t ∧ rf t k TlyCfg.watchEn = 0 ∧
          rf t k TlyCfg.unit = rf s k TlyCfg.unit ∧ rf t k TlyCfg.ports = rf s k TlyCfg.ports) ∧
      (rf s k TlyCfg.watchEn = 0 → watchable (watchRange s i.toNat) = true →
        ∃ t, exec (.tlyCfgWrite via i v) s = .next t ∧ rf t k TlyCfg.watchEn = fldGet TlyCfg.watchEn v ∧
          rf t k TlyCfg.unit = fldGet TlyCfg.unit v ∧ rf t k TlyCfg.ports = fldGet TlyCfg.ports v)) ∧
    (passes via true w s →
      (rf s k TlyCfg.watchEn = 0 → ∃ t, exec (.tlyWatchRangeWrite via i lim v) s = .next t ∧ t = plainWrite w v s) ∧
      (rf s k TlyCfg.watchEn = 1 →
        exec (.tlyWatchRangeWrite via i lim v) s = .next (countVia via w stTallyBusy s))))

/-- A tally is reached for a target T when (COUNT − T) mod 2^64 is below 2^63; it stays reached as its count grows, until COUNT
passes T by 2^63; and TWAIT and a descriptor's WAIT_TARGET both mean this when they look (R317, R128, R276). A wait that has been
released before stays met (R326). -/
def Obligations.TallyReached : Prop :=
  (∀ count target : Word, reached count target = decide (((count.toNat : Int) - target.toNat) % 2 ^ 64 < 2 ^ 63)) ∧
  (∀ (target : Word) (n : Nat), n < 2 ^ 63 → reached (target + BitVec.ofNat 64 n) target = true) ∧
  (∀ (target : Word) (n : Nat), 2 ^ 63 ≤ n → n < 2 ^ 64 → reached (target + BitVec.ofNat 64 n) target = false) ∧
  (∀ (l : Loc) (e : Entry) (wa : List Lane) (u : Nat) (s : State), readSrc s l e.srcA.toNat 4 = .ok wa →
    tallyPlace s (twaitArgs wa).1 = .ok (false, l.p, u) →
    let met := StepEnd.commit { takeRoute := takesRoute l e, endWait := true }
    ((waitOf s (.stage l.p l.a l.st)).any (·.done) = false →
      evalTwait l e s = if reached (tallyCount s (false, l.p, u)) (twaitArgs wa).2 then met else .wait 8) ∧
    ((waitOf s (.stage l.p l.a l.st)).any (·.done) = true → evalTwait l e s = met)) ∧
  (∀ (p q u : Nat) (d : List Byte) (s : State), natBit (numAt d 1 1) 0 = true →
    tallyPlace s (numAt d 4 2) = .ok (false, p, u) → waitOf s (.queue p q) = none →
    ∃ b t, queueWait p q d s = (.ok b, t) ∧ b = reached (tallyCount s (false, p, u))
      (BitVec.ofNat 64 (numAt d 8 8 + rf s (HubQState.key p q) HubQState.pass * rf s (HubQCfg.key p q) HubQCfg.step)))
end

