-- ==== Sys2Proof/Laws/Store.lean ====
section
/-!
SUPPORT. The laws of the sparse maps: what a read gives after each operation, that each keeps the one form, and that two
maps of that form which read alike are equal; the laws of bit fields and of little-endian bytes.
-/

namespace Sys2Proof.Laws

open Sys2Proof.Machine

variable {α : Type}

@[simp] theorem smapGet_nil (d : Nat → α) (k : Nat) : smapGet d [] k = d k := rfl

theorem smapGet_cons (d : Nat → α) (j k : Nat) (v : α) (r : List (Nat × α)) :
    smapGet d ((j, v) :: r) k = if j = k then v else smapGet d r k := rfl

/-- A key that no entry has reads as the default. -/
theorem smapGet_absent (d : Nat → α) (m : List (Nat × α)) (k : Nat) (h : ∀ e ∈ m, e.1 ≠ k) : smapGet d m k = d k := by
  induction m with
  | nil => rfl
  | cons e r ih =>
    obtain ⟨j, v⟩ := e
    rw [smapGet_cons, if_neg (h (j, v) (by simp))]
    exact ih (fun e he => h e (by simp [he]))

theorem smapGet_smapPut (d : Nat → α) (m : List (Nat × α)) (k j : Nat) (v : α) (h : ∀ e ∈ m, e.1 ≠ k) :
    smapGet d (smapPut k v m) j = if j = k then v else smapGet d m j := by
  induction m with
  | nil => simp [smapPut, smapGet_cons, eq_comm]
  | cons e r ih =>
    obtain ⟨i, w⟩ := e
    have hi : i ≠ k := h (i, w) (by simp)
    have hr := ih (fun e he => h e (by simp [he]))
    simp only [smapPut]
    split
    · simp only [smapGet_cons, eq_comm]
    · rw [smapGet_cons, hr, smapGet_cons]
      by_cases h1 : i = j
      · subst h1
        simp [hi]
      · simp [h1]

theorem smapGet_smapKeep (d : Nat → α) (p : Nat → Bool) (m : List (Nat × α)) (j : Nat) :
    smapGet d (smapKeep p m) j = if p j then smapGet d m j else d j := by
  induction m with
  | nil => simp [smapKeep]
  | cons e r ih =>
    obtain ⟨i, w⟩ := e
    unfold smapKeep at ih ⊢
    by_cases hp : p i = true
    · rw [List.filter_cons_of_pos (by simpa using hp), smapGet_cons, ih, smapGet_cons]
      by_cases h1 : i = j
      · subst h1
        simp [hp]
      · simp [h1]
    · rw [List.filter_cons_of_neg (by simpa using hp), ih, smapGet_cons]
      by_cases h1 : i = j
      · subst h1
        simp [hp]
      · simp [h1]

theorem smapKeep_absent (m : List (Nat × α)) (k : Nat) : ∀ e ∈ smapKeep (fun j => decide (j ≠ k)) m, e.1 ≠ k := by
  intro e he
  simpa using (List.mem_filter.mp he).2

variable [DecidableEq α]

/-- A read after a write. -/
theorem smapGet_smapSet (d : Nat → α) (m : List (Nat × α)) (k j : Nat) (v : α) :
    smapGet d (smapSet d m k v) j = if j = k then v else smapGet d m j := by
  unfold smapSet
  by_cases hv : v = d k
  · simp only [hv, if_true, smapGet_smapKeep]
    by_cases h : j = k <;> simp [h]
  · simp only [hv, if_false]
    rw [smapGet_smapPut _ _ _ _ _ (smapKeep_absent m k), smapGet_smapKeep]
    by_cases h : j = k <;> simp [h]

@[simp] theorem smapGet_smapSet_self (d : Nat → α) (m : List (Nat × α)) (k : Nat) (v : α) :
    smapGet d (smapSet d m k v) k = v := by simp [smapGet_smapSet]

theorem smapGet_smapSet_other (d : Nat → α) (m : List (Nat × α)) (k j : Nat) (v : α) (h : j ≠ k) :
    smapGet d (smapSet d m k v) j = smapGet d m j := by simp [smapGet_smapSet, h]

/-- A read after writes at consecutive keys. -/
theorem smapGet_smapSetMany (d : Nat → α) (vs : List α) : ∀ (m : List (Nat × α)) (k j : Nat),
    smapGet d (smapSetMany d m k vs) j = if k ≤ j ∧ j < k + vs.length then vs.getD (j - k) (d j) else smapGet d m j := by
  induction vs with
  | nil => intro m k j; simp [smapSetMany]
  | cons v vs ih =>
    intro m k j
    simp only [smapSetMany, ih, smapGet_smapSet, List.length_cons]
    by_cases h1 : j = k
    · subst h1
      simp
    · by_cases h2 : k + 1 ≤ j ∧ j < k + 1 + vs.length
      · have h3 : k ≤ j ∧ j < k + (vs.length + 1) := by omega
        rw [if_pos h2, if_pos h3, show j - k = (j - (k + 1)) + 1 by omega]
        simp
      · have h3 : ¬ (k ≤ j ∧ j < k + (vs.length + 1)) := by omega
        rw [if_neg h2, if_neg h3, if_neg h1]

omit [DecidableEq α] in
@[simp] theorem length_smapGetMany (d : Nat → α) (m : List (Nat × α)) (n : Nat) : ∀ k, (smapGetMany d m k n).length = n := by
  induction n with
  | zero => intro k; rfl
  | succ n ih => intro k; simp [smapGetMany, ih]

omit [DecidableEq α] in
theorem getElem?_smapGetMany (d : Nat → α) (m : List (Nat × α)) (n : Nat) : ∀ k i, i < n →
    (smapGetMany d m k n)[i]? = some (smapGet d m (k + i)) := by
  induction n with
  | zero => intro k i h; omega
  | succ n ih =>
    intro k i h
    cases i with
    | zero => simp [smapGetMany]
    | succ i =>
      simp only [smapGetMany, List.getElem?_cons_succ]
      rw [ih (k + 1) i (by omega), show k + 1 + i = k + (i + 1) by omega]

/-- What was written at consecutive keys is read back. -/
theorem smapGetMany_smapSetMany (d : Nat → α) (m : List (Nat × α)) (k : Nat) (vs : List α) :
    smapGetMany d (smapSetMany d m k vs) k vs.length = vs := by
  apply List.ext_getElem?
  intro i
  by_cases h : i < vs.length
  · rw [getElem?_smapGetMany _ _ _ _ _ h, smapGet_smapSetMany, if_pos (by omega), show k + i - k = i by omega]
    simp [List.getD, h]
  · rw [List.getElem?_eq_none (by simpa using h), List.getElem?_eq_none (by simpa using h)]

/-! ### The one form -/

theorem smapOkFrom_le (d : Nat → α) (m : List (Nat × α)) (a b : Nat) (hab : a ≤ b) (h : smapOkFrom d b m = true) :
    smapOkFrom d a m = true := by
  cases m with
  | nil => rfl
  | cons e r =>
    obtain ⟨k, v⟩ := e
    simp only [smapOkFrom, Bool.and_eq_true, decide_eq_true_eq] at h ⊢
    exact ⟨⟨by omega, h.1.2⟩, h.2⟩

theorem smapOkFrom_keep (d : Nat → α) (p : Nat → Bool) (m : List (Nat × α)) : ∀ lo, smapOkFrom d lo m = true →
    smapOkFrom d lo (smapKeep p m) = true := by
  induction m with
  | nil => intro lo _; rfl
  | cons e r ih =>
    intro lo h
    obtain ⟨k, v⟩ := e
    simp only [smapOkFrom, Bool.and_eq_true, decide_eq_true_eq] at h
    have hr := ih _ h.2
    unfold smapKeep at hr ⊢
    by_cases hp : p k = true
    · rw [List.filter_cons_of_pos (by simpa using hp)]
      simp [smapOkFrom, h.1.1, h.1.2, hr]
    · rw [List.filter_cons_of_neg (by simpa using hp)]
      exact smapOkFrom_le d _ _ _ (by omega) hr

theorem smapOkFrom_put (d : Nat → α) (k : Nat) (v : α) (hv : v ≠ d k) (m : List (Nat × α)) : ∀ lo, lo ≤ k →
    smapOkFrom d lo m = true → (∀ e ∈ m, e.1 ≠ k) → smapOkFrom d lo (smapPut k v m) = true := by
  induction m with
  | nil => intro lo hlo _ _; simp [smapPut, smapOkFrom, hlo, hv]
  | cons e r ih =>
    intro lo hlo h hk
    obtain ⟨i, w⟩ := e
    have hi : i ≠ k := hk (i, w) (by simp)
    simp only [smapOkFrom, Bool.and_eq_true, decide_eq_true_eq] at h
    simp only [smapPut]
    split
    · simp only [smapOkFrom, Bool.and_eq_true, decide_eq_true_eq]
      exact ⟨⟨hlo, hv⟩, ⟨⟨by omega, h.1.2⟩, h.2⟩⟩
    · simp only [smapOkFrom, Bool.and_eq_true, decide_eq_true_eq]
      exact ⟨h.1, ih _ (by omega) h.2 (fun e he => hk e (by simp [he]))⟩

/-- The form survives the loss of entries. -/
theorem smapOk_smapKeep (d : Nat → α) (p : Nat → Bool) (m : List (Nat × α)) (h : smapOk d m = true) :
    smapOk d (smapKeep p m) = true := smapOkFrom_keep d p m 0 h

/-- A write keeps the form. -/
theorem smapOk_smapSet (d : Nat → α) (m : List (Nat × α)) (k : Nat) (v : α) (h : smapOk d m = true) :
    smapOk d (smapSet d m k v) = true := by
  unfold smapSet
  by_cases hv : v = d k
  · simp only [hv, if_true]
    exact smapOk_smapKeep d _ m h
  · simp only [hv, if_false]
    exact smapOkFrom_put d k v hv _ 0 (by omega) (smapOk_smapKeep d _ m h) (smapKeep_absent m k)

theorem smapOk_smapSetMany (d : Nat → α) (vs : List α) : ∀ (m : List (Nat × α)) (k : Nat), smapOk d m = true →
    smapOk d (smapSetMany d m k vs) = true := by
  induction vs with
  | nil => intro m k h; exact h
  | cons v vs ih => intro m k h; exact ih _ _ (smapOk_smapSet d m k v h)

theorem smapOk_smapMod (d : Nat → α) (m : List (Nat × α)) (k : Nat) (f : α → α) (h : smapOk d m = true) :
    smapOk d (smapMod d m k f) = true := smapOk_smapSet d m k _ h

@[simp] theorem smapOk_nil (d : Nat → α) : smapOk d [] = true := rfl

theorem smapOkFrom_key (d : Nat → α) (m : List (Nat × α)) : ∀ lo, smapOkFrom d lo m = true → ∀ e ∈ m, lo ≤ e.1 := by
  induction m with
  | nil => intro lo _ e he; simp at he
  | cons x r ih =>
    intro lo h e he
    obtain ⟨k, v⟩ := x
    simp only [smapOkFrom, Bool.and_eq_true, decide_eq_true_eq] at h
    rcases List.mem_cons.mp he with he | he
    · subst he; exact h.1.1
    · have := ih _ h.2 e he
      omega

/-- Two maps of the one form that read alike are equal. -/
theorem smap_ext (d : Nat → α) : ∀ (m n : List (Nat × α)) (lo : Nat), smapOkFrom d lo m = true → smapOkFrom d lo n = true →
    (∀ k, smapGet d m k = smapGet d n k) → m = n := by
  intro m
  induction m with
  | nil =>
    intro n lo _ hn h
    cases n with
    | nil => rfl
    | cons e r =>
      obtain ⟨k, v⟩ := e
      simp only [smapOkFrom, Bool.and_eq_true, decide_eq_true_eq] at hn
      have hk := h k
      rw [smapGet_nil, smapGet_cons, if_pos rfl] at hk
      exact absurd hk.symm hn.1.2
  | cons e r ih =>
    intro n lo hm hn h
    obtain ⟨k, v⟩ := e
    simp only [smapOkFrom, Bool.and_eq_true, decide_eq_true_eq] at hm
    cases n with
    | nil =>
      have hk := h k
      rw [smapGet_nil, smapGet_cons, if_pos rfl] at hk
      exact absurd hk hm.1.2
    | cons f q =>
      obtain ⟨j, w⟩ := f
      simp only [smapOkFrom, Bool.and_eq_true, decide_eq_true_eq] at hn
      have habs (a b : Nat) (l : List (Nat × α)) (hl : smapOkFrom d (b + 1) l = true) (hab : a < b + 1) :
          smapGet d l a = d a := smapGet_absent d l a (fun e he => by
        have := smapOkFrom_key d l _ hl e he
        omega)
      have hkj : k = j := by
        rcases Nat.lt_trichotomy k j with hlt | heq | hgt
        · have hk := h k
          rw [smapGet_cons, if_pos rfl, smapGet_cons, if_neg (by omega), habs k j q hn.2 (by omega)] at hk
          exact absurd hk hm.1.2
        · exact heq
        · have hk := h j
          rw [smapGet_cons, if_neg (by omega), smapGet_cons, if_pos rfl, habs j k r hm.2 (by omega)] at hk
          exact absurd hk.symm hn.1.2
      subst hkj
      have hvw := h k
      rw [smapGet_cons, if_pos rfl, smapGet_cons, if_pos rfl] at hvw
      subst hvw
      rw [ih q (k + 1) hm.2 hn.2 (fun i => by
        by_cases hi : i = k
        · subst hi
          rw [habs i i r hm.2 (by omega), habs i i q hn.2 (by omega)]
        · have := h i
          rwa [smapGet_cons, if_neg (by omega), smapGet_cons, if_neg (by omega)] at this)]

/-! ### Bit fields -/

theorem fldMask_testBit (f : Fld) (i : Nat) : (fldMask f).getLsbD i = (decide (i < 64) && decide (f.lo ≤ i) && decide (i < f.hi + 1)) := by
  unfold fldMask
  rw [BitVec.getLsbD_ofNat, Nat.testBit_mul_two_pow, Nat.testBit_two_pow_sub_one]
  by_cases h1 : i < 64 <;> by_cases h2 : f.lo ≤ i <;> simp [h1, h2]
  omega

theorem fldSet_testBit (f : Fld) (w : Word) (v i : Nat) : (fldSet f w v).getLsbD i =
    (decide (i < 64) && (if f.lo ≤ i ∧ i < f.hi + 1 then v.testBit (i - f.lo) else w.getLsbD i)) := by
  unfold fldSet
  rw [BitVec.getLsbD_or, BitVec.getLsbD_and, BitVec.getLsbD_not, fldMask_testBit, BitVec.getLsbD_ofNat, Nat.testBit_mul_two_pow, Nat.testBit_mod_two_pow]
  by_cases h1 : i < 64
  · by_cases h2 : f.lo ≤ i
    · by_cases h3 : i < f.hi + 1
      · have : i - f.lo < f.hi + 1 - f.lo := by omega
        simp [h1, h2, h3, this]
      · have : ¬ i - f.lo < f.hi + 1 - f.lo := by omega
        simp [h1, h2, h3, this]
    · simp [h1, h2]
  · simp [h1]

theorem fldGet_testBit (f : Fld) (w : Word) (i : Nat) : (fldGet f w).testBit i =
    (decide (i < f.hi + 1 - f.lo) && w.getLsbD (f.lo + i)) := by
  unfold fldGet
  rw [Nat.testBit_mod_two_pow, Nat.testBit_div_two_pow, BitVec.getLsbD, Nat.add_comm i f.lo]

/-- A field that lies within the word reads as it was set, modulo its width. -/
theorem fldGet_fldSet (f : Fld) (w : Word) (v : Nat) (h : f.hi < 64) : fldGet f (fldSet f w v) = v % 2 ^ (f.hi + 1 - f.lo) := by
  apply Nat.eq_of_testBit_eq
  intro i
  rw [fldGet_testBit, fldSet_testBit, Nat.testBit_mod_two_pow]
  by_cases h1 : i < f.hi + 1 - f.lo
  · have h2 : f.lo + i < 64 := by omega
    have h3 : f.lo + i < f.hi + 1 := by omega
    simp [h1, h2, h3]
  · simp [h1]

/-- A field keeps its value when one that shares no bit with it is set. -/
theorem fldGet_fldSet_other (f g : Fld) (w : Word) (v : Nat) (h : f.hi < g.lo ∨ g.hi < f.lo) :
    fldGet f (fldSet g w v) = fldGet f w := by
  apply Nat.eq_of_testBit_eq
  intro i
  rw [fldGet_testBit, fldSet_testBit, fldGet_testBit]
  by_cases h1 : i < f.hi + 1 - f.lo
  · have h2 : ¬ (g.lo ≤ f.lo + i ∧ f.lo + i < g.hi + 1) := by omega
    rw [if_neg h2]
    by_cases h3 : f.lo + i < 64
    · simp [h3]
    · rw [BitVec.getLsbD_of_ge w (f.lo + i) (by omega)]
      simp
  · simp [h1]

theorem fldGet_lt (f : Fld) (w : Word) : fldGet f w < 2 ^ (f.hi + 1 - f.lo) := Nat.mod_lt _ (Nat.two_pow_pos _)

/-! ### Little-endian bytes -/

@[simp] theorem length_bytesLE (n : Nat) : ∀ v, (bytesLE n v).length = n := by
  induction n with
  | zero => intro v; rfl
  | succ n ih => intro v; simp [bytesLE, ih]

theorem ofBytesLE_bytesLE (n : Nat) : ∀ v, ofBytesLE (bytesLE n v) = v % 256 ^ n := by
  induction n with
  | zero => intro v; simp [bytesLE, ofBytesLE, Nat.mod_one]
  | succ n ih =>
    intro v
    simp only [bytesLE, ofBytesLE, ih, BitVec.toNat_ofNat]
    rw [show 256 ^ (n + 1) = 256 * 256 ^ n from Nat.pow_succ', Nat.mod_mul]

theorem bytesLE_ofBytesLE (bs : List Byte) : bytesLE bs.length (ofBytesLE bs) = bs := by
  induction bs with
  | nil => rfl
  | cons b bs ih =>
    have hb : b.toNat < 256 := b.isLt
    simp only [List.length_cons, ofBytesLE, bytesLE]
    rw [show (b.toNat + 256 * ofBytesLE bs) / 256 = ofBytesLE bs by omega, ih]
    congr 1
    apply BitVec.eq_of_toNat_eq
    simp only [BitVec.toNat_ofNat]
    omega

end Sys2Proof.Laws
end

