-- ==== Sys2Proof/Laws/State.lean ====
section
/-!
SUPPORT. What each update of the state leaves alone: for every named update and every field of State that it does not
write, and for every named reading of another field, the update does not show.
-/

namespace Sys2Proof.Laws

open Sys2Proof.Machine

variable (s : State)

/-! ### rput -/

@[simp] theorem rput_pending (k : Nat) (w : Word) : (rput k w s).pending = s.pending := rfl
@[simp] theorem rput_freeCtr (k : Nat) (w : Word) : (rput k w s).freeCtr = s.freeCtr := rfl
@[simp] theorem rput_mem (k : Nat) (w : Word) : (rput k w s).mem = s.mem := rfl
@[simp] theorem rput_upset (k : Nat) (w : Word) : (rput k w s).upset = s.upset := rfl
@[simp] theorem rput_tags (k : Nat) (w : Word) : (rput k w s).tags = s.tags := rfl
@[simp] theorem rput_ob (k : Nat) (w : Word) : (rput k w s).ob = s.ob := rfl
@[simp] theorem rput_obBad (k : Nat) (w : Word) : (rput k w s).obBad = s.obBad := rfl
@[simp] theorem rput_hostMem (k : Nat) (w : Word) : (rput k w s).hostMem = s.hostMem := rfl
@[simp] theorem rput_peerMem (k : Nat) (w : Word) : (rput k w s).peerMem = s.peerMem := rfl
@[simp] theorem rput_stages (k : Nat) (w : Word) : (rput k w s).stages = s.stages := rfl
@[simp] theorem rput_arrays (k : Nat) (w : Word) : (rput k w s).arrays = s.arrays := rfl
@[simp] theorem rput_stands (k : Nat) (w : Word) : (rput k w s).stands = s.stands := rfl
@[simp] theorem rput_ports (k : Nat) (w : Word) : (rput k w s).ports = s.ports := rfl
@[simp] theorem rput_rings (k : Nat) (w : Word) : (rput k w s).rings = s.rings := rfl
@[simp] theorem rput_sessions (k : Nat) (w : Word) : (rput k w s).sessions = s.sessions := rfl
@[simp] theorem rput_orphans (k : Nat) (w : Word) : (rput k w s).orphans = s.orphans := rfl
@[simp] theorem rput_reportSeq (k : Nat) (w : Word) : (rput k w s).reportSeq = s.reportSeq := rfl
@[simp] theorem rput_mode (k : Nat) (w : Word) : (rput k w s).mode = s.mode := rfl
@[simp] theorem rput_epoch (k : Nat) (w : Word) : (rput k w s).epoch = s.epoch := rfl
@[simp] theorem rput_tainted (k : Nat) (w : Word) : (rput k w s).tainted = s.tainted := rfl
@[simp] theorem rput_taints (k : Nat) (w : Word) : (rput k w s).taints = s.taints := rfl
@[simp] theorem rput_taintCount (k : Nat) (w : Word) : (rput k w s).taintCount = s.taintCount := rfl
@[simp] theorem rput_srKey (k : Nat) (w : Word) : (rput k w s).srKey = s.srKey := rfl
@[simp] theorem rput_lapLen (k : Nat) (w : Word) : (rput k w s).lapLen = s.lapLen := rfl
@[simp] theorem rput_traceEn (k : Nat) (w : Word) : (rput k w s).traceEn = s.traceEn := rfl
@[simp] theorem rput_traceFirst (k : Nat) (w : Word) : (rput k w s).traceFirst = s.traceFirst := rfl
@[simp] theorem rput_traceLast (k : Nat) (w : Word) : (rput k w s).traceLast = s.traceLast := rfl
@[simp] theorem rput_vtags (k : Nat) (w : Word) : (rput k w s).vtags = s.vtags := rfl
@[simp] theorem rput_links (k : Nat) (w : Word) : (rput k w s).links = s.links := rfl
@[simp] theorem rput_credits (k : Nat) (w : Word) : (rput k w s).credits = s.credits := rfl
@[simp] theorem rput_creditFly (k : Nat) (w : Word) : (rput k w s).creditFly = s.creditFly := rfl
@[simp] theorem rput_moves (k : Nat) (w : Word) : (rput k w s).moves = s.moves := rfl
@[simp] theorem rput_steers (k : Nat) (w : Word) : (rput k w s).steers = s.steers := rfl
@[simp] theorem rput_nodes (k : Nat) (w : Word) : (rput k w s).nodes = s.nodes := rfl
@[simp] theorem rput_seams (k : Nat) (w : Word) : (rput k w s).seams = s.seams := rfl
@[simp] theorem rput_memArrs (k : Nat) (w : Word) : (rput k w s).memArrs = s.memArrs := rfl
@[simp] theorem rput_taps (k : Nat) (w : Word) : (rput k w s).taps = s.taps := rfl
@[simp] theorem rput_svc (k : Nat) (w : Word) : (rput k w s).svc = s.svc := rfl
@[simp] theorem rput_svcResp (k : Nat) (w : Word) : (rput k w s).svcResp = s.svcResp := rfl
@[simp] theorem rput_svcGot (k : Nat) (w : Word) : (rput k w s).svcGot = s.svcGot := rfl
@[simp] theorem rput_svcId (k : Nat) (w : Word) : (rput k w s).svcId = s.svcId := rfl
@[simp] theorem rput_mgmtIn (k : Nat) (w : Word) : (rput k w s).mgmtIn = s.mgmtIn := rfl
@[simp] theorem rput_waits (k : Nat) (w : Word) : (rput k w s).waits = s.waits := rfl
@[simp] theorem rput_dones (k : Nat) (w : Word) : (rput k w s).dones = s.dones := rfl
@[simp] theorem rput_xbar (k : Nat) (w : Word) : (rput k w s).xbar = s.xbar := rfl
@[simp] theorem rput_turns (k : Nat) (w : Word) : (rput k w s).turns = s.turns := rfl
@[simp] theorem rput_draining (k : Nat) (w : Word) : (rput k w s).draining = s.draining := rfl
@[simp] theorem rput_drainTallies (k : Nat) (w : Word) : (rput k w s).drainTallies = s.drainTallies := rfl
@[simp] theorem rput_drainExc (k : Nat) (w : Word) : (rput k w s).drainExc = s.drainExc := rfl
@[simp] theorem rput_excSat (k : Nat) (w : Word) : (rput k w s).excSat = s.excSat := rfl
@[simp] theorem rput_image (k : Nat) (w : Word) : (rput k w s).image = s.image := rfl
@[simp] theorem rput_plan (k : Nat) (w : Word) : (rput k w s).plan = s.plan := rfl
@[simp] theorem rput_logs (k : Nat) (w : Word) : (rput k w s).logs = s.logs := rfl
@[simp] theorem rput_descs (k : Nat) (w : Word) : (rput k w s).descs = s.descs := rfl
@[simp] theorem rput_hubQs (k : Nat) (w : Word) : (rput k w s).hubQs = s.hubQs := rfl
@[simp] theorem rput_hdlStage (k : Nat) (w : Word) : (rput k w s).hdlStage = s.hdlStage := rfl
@[simp] theorem rput_dirty (k : Nat) (w : Word) : (rput k w s).dirty = s.dirty := rfl
@[simp] theorem rput_otpStage (k : Nat) (w : Word) : (rput k w s).otpStage = s.otpStage := rfl
@[simp] theorem rput_gates (k : Nat) (w : Word) : (rput k w s).gates = s.gates := rfl
@[simp] theorem rput_suOut (k : Nat) (w : Word) : (rput k w s).suOut = s.suOut := rfl
@[simp] theorem rput_arb (k : Nat) (w : Word) : (rput k w s).arb = s.arb := rfl
@[simp] theorem rput_fetchOrder (k : Nat) (w : Word) : (rput k w s).fetchOrder = s.fetchOrder := rfl
@[simp] theorem rput_decoders (k : Nat) (w : Word) : (rput k w s).decoders = s.decoders := rfl
@[simp] theorem rput_gul (k : Nat) (w : Word) : (rput k w s).gul = s.gul := rfl
@[simp] theorem rput_lsOn (k : Nat) (w : Word) : (rput k w s).lsOn = s.lsOn := rfl
@[simp] theorem rput_hbs (k : Nat) (w : Word) : (rput k w s).hbs = s.hbs := rfl
@[simp] theorem rput_snaps (k : Nat) (w : Word) : (rput k w s).snaps = s.snaps := rfl
@[simp] theorem rput_saving (k : Nat) (w : Word) : (rput k w s).saving = s.saving := rfl
@[simp] theorem rput_planSel (k : Nat) (w : Word) : (rput k w s).planSel = s.planSel := rfl
@[simp] theorem rput_planChanged (k : Nat) (w : Word) : (rput k w s).planChanged = s.planChanged := rfl
@[simp] theorem rput_reconFailed (k : Nat) (w : Word) : (rput k w s).reconFailed = s.reconFailed := rfl
@[simp] theorem rput_hostStall (k : Nat) (w : Word) : (rput k w s).hostStall = s.hostStall := rfl
@[simp] theorem rput_lapSet (k : Nat) (w : Word) : (rput k w s).lapSet = s.lapSet := rfl
@[simp] theorem rput_excBase (k : Nat) (w : Word) : (rput k w s).excBase = s.excBase := rfl
@[simp] theorem rput_sides (k : Nat) (w : Word) : (rput k w s).sides = s.sides := rfl
@[simp] theorem rput_ringClk (k : Nat) (w : Word) : (rput k w s).ringClk = s.ringClk := rfl
@[simp] theorem rput_power (k : Nat) (w : Word) : (rput k w s).power = s.power := rfl
@[simp] theorem rput_bring (k : Nat) (w : Word) : (rput k w s).bring = s.bring := rfl
@[simp] theorem rput_fuses (k : Nat) (w : Word) : (rput k w s).fuses = s.fuses := rfl
@[simp] theorem rput_fw (k : Nat) (w : Word) : (rput k w s).fw = s.fw := rfl
@[simp] theorem rput_dbg (k : Nat) (w : Word) : (rput k w s).dbg = s.dbg := rfl
@[simp] theorem rput_timeCtr (k : Nat) (w : Word) : (rput k w s).timeCtr = s.timeCtr := rfl
@[simp] theorem rput_measure5 (k : Nat) (w : Word) : (rput k w s).measure5 = s.measure5 := rfl
@[simp] theorem rput_cages (k : Nat) (w : Word) : (rput k w s).cages = s.cages := rfl
@[simp] theorem rput_shifted (k : Nat) (w : Word) : (rput k w s).shifted = s.shifted := rfl
@[simp] theorem rput_authFails (k : Nat) (w : Word) : (rput k w s).authFails = s.authFails := rfl
@[simp] theorem rput_memByte (k : Nat) (w : Word) (i : Nat) : memByte (rput k w s) i = memByte s i := rfl
@[simp] theorem rput_tagOf (k : Nat) (w : Word) (i : Nat) : tagOf (rput k w s) i = tagOf s i := rfl
@[simp] theorem rput_portOf (k : Nat) (w : Word) (i : Nat) : portOf (rput k w s) i = portOf s i := rfl
@[simp] theorem rput_ringOf (k : Nat) (w : Word) (i j : Nat) : ringOf (rput k w s) i j = ringOf s i j := rfl
@[simp] theorem rput_standOf (k : Nat) (w : Word) (i : Nat) : standOf (rput k w s) i = standOf s i := rfl
@[simp] theorem rput_stageOf (k : Nat) (w : Word) (i : Nat) : stageOf (rput k w s) i = stageOf s i := rfl
@[simp] theorem rput_arrOf (k : Nat) (w : Word) (i : Nat) : arrOf (rput k w s) i = arrOf s i := rfl
@[simp] theorem rput_sessOf (k : Nat) (w : Word) (i : Nat) : sessOf (rput k w s) i = sessOf s i := rfl
@[simp] theorem rput_hubQOf (k : Nat) (w : Word) (i j : Nat) : hubQOf (rput k w s) i j = hubQOf s i j := rfl
@[simp] theorem rput_execOf (k : Nat) (w : Word) (i j : Nat) : execOf (rput k w s) i j = execOf s i j := rfl
@[simp] theorem rput_gateSt (k : Nat) (w : Word) (i j : Nat) : gateSt (rput k w s) i j = gateSt s i j := rfl
@[simp] theorem rput_linkOf (k : Nat) (w : Word) (i j l : Nat) : linkOf (rput k w s) i j l = linkOf s i j l := rfl
@[simp] theorem rput_creditOf (k : Nat) (w : Word) (i : Nat) : creditOf (rput k w s) i = creditOf s i := rfl
@[simp] theorem rput_steerOf (k : Nat) (w : Word) (i j l : Nat) : steerOf (rput k w s) i j l = steerOf s i j l := rfl
@[simp] theorem rput_nodeOf (k : Nat) (w : Word) (i j : Nat) : nodeOf (rput k w s) i j = nodeOf s i j := rfl
@[simp] theorem rput_seamOf (k : Nat) (w : Word) (i j : Nat) : seamOf (rput k w s) i j = seamOf s i j := rfl
@[simp] theorem rput_memArrOf (k : Nat) (w : Word) (i j : Nat) : memArrOf (rput k w s) i j = memArrOf s i j := rfl
@[simp] theorem rput_tapOf (k : Nat) (w : Word) (i j : Nat) : tapOf (rput k w s) i j = tapOf s i j := rfl
@[simp] theorem rput_logOf (k : Nat) (w : Word) (i : Nat) : logOf (rput k w s) i = logOf s i := rfl
@[simp] theorem rput_waitOf (k : Nat) (w : Word) (y : Waiter) : waitOf (rput k w s) y = waitOf s y := rfl
@[simp] theorem rput_sideOf (k : Nat) (w : Word) (i j : Nat) : sideOf (rput k w s) i j = sideOf s i j := rfl
@[simp] theorem rput_fuseOf (k : Nat) (w : Word) (i : Nat) : fuseOf (rput k w s) i = fuseOf s i := rfl
@[simp] theorem rput_gsOf (k : Nat) (w : Word) (i : Nat) : gsOf (rput k w s) i = gsOf s i := rfl
@[simp] theorem rput_gringOf (k : Nat) (w : Word) (i j : Nat) : gringOf (rput k w s) i j = gringOf s i j := rfl
@[simp] theorem rput_lsOwn (k : Nat) (w : Word) (i : Nat) : lsOwn (rput k w s) i = lsOwn s i := rfl
@[simp] theorem rput_lsIn (k : Nat) (w : Word) (i : Nat) : lsIn (rput k w s) i = lsIn s i := rfl
@[simp] theorem rput_descBytes (k : Nat) (w : Word) (i j l : Nat) : descBytes (rput k w s) i j l = descBytes s i j l := rfl
@[simp] theorem rput_svcOf (k : Nat) (w : Word) (y : MeshSrc) : svcOf (rput k w s) y = svcOf s y := rfl

/-! ### rfput -/

@[simp] theorem rfput_pending (k : Nat) (f : Fld) (v : Nat) : (rfput k f v s).pending = s.pending := rfl
@[simp] theorem rfput_freeCtr (k : Nat) (f : Fld) (v : Nat) : (rfput k f v s).freeCtr = s.freeCtr := rfl
@[simp] theorem rfput_mem (k : Nat) (f : Fld) (v : Nat) : (rfput k f v s).mem = s.mem := rfl
@[simp] theorem rfput_upset (k : Nat) (f : Fld) (v : Nat) : (rfput k f v s).upset = s.upset := rfl
@[simp] theorem rfput_tags (k : Nat) (f : Fld) (v : Nat) : (rfput k f v s).tags = s.tags := rfl
@[simp] theorem rfput_ob (k : Nat) (f : Fld) (v : Nat) : (rfput k f v s).ob = s.ob := rfl
@[simp] theorem rfput_obBad (k : Nat) (f : Fld) (v : Nat) : (rfput k f v s).obBad = s.obBad := rfl
@[simp] theorem rfput_hostMem (k : Nat) (f : Fld) (v : Nat) : (rfput k f v s).hostMem = s.hostMem := rfl
@[simp] theorem rfput_peerMem (k : Nat) (f : Fld) (v : Nat) : (rfput k f v s).peerMem = s.peerMem := rfl
@[simp] theorem rfput_stages (k : Nat) (f : Fld) (v : Nat) : (rfput k f v s).stages = s.stages := rfl
@[simp] theorem rfput_arrays (k : Nat) (f : Fld) (v : Nat) : (rfput k f v s).arrays = s.arrays := rfl
@[simp] theorem rfput_stands (k : Nat) (f : Fld) (v : Nat) : (rfput k f v s).stands = s.stands := rfl
@[simp] theorem rfput_ports (k : Nat) (f : Fld) (v : Nat) : (rfput k f v s).ports = s.ports := rfl
@[simp] theorem rfput_rings (k : Nat) (f : Fld) (v : Nat) : (rfput k f v s).rings = s.rings := rfl
@[simp] theorem rfput_sessions (k : Nat) (f : Fld) (v : Nat) : (rfput k f v s).sessions = s.sessions := rfl
@[simp] theorem rfput_orphans (k : Nat) (f : Fld) (v : Nat) : (rfput k f v s).orphans = s.orphans := rfl
@[simp] theorem rfput_reportSeq (k : Nat) (f : Fld) (v : Nat) : (rfput k f v s).reportSeq = s.reportSeq := rfl
@[simp] theorem rfput_mode (k : Nat) (f : Fld) (v : Nat) : (rfput k f v s).mode = s.mode := rfl
@[simp] theorem rfput_epoch (k : Nat) (f : Fld) (v : Nat) : (rfput k f v s).epoch = s.epoch := rfl
@[simp] theorem rfput_tainted (k : Nat) (f : Fld) (v : Nat) : (rfput k f v s).tainted = s.tainted := rfl
@[simp] theorem rfput_taints (k : Nat) (f : Fld) (v : Nat) : (rfput k f v s).taints = s.taints := rfl
@[simp] theorem rfput_taintCount (k : Nat) (f : Fld) (v : Nat) : (rfput k f v s).taintCount = s.taintCount := rfl
@[simp] theorem rfput_srKey (k : Nat) (f : Fld) (v : Nat) : (rfput k f v s).srKey = s.srKey := rfl
@[simp] theorem rfput_lapLen (k : Nat) (f : Fld) (v : Nat) : (rfput k f v s).lapLen = s.lapLen := rfl
@[simp] theorem rfput_traceEn (k : Nat) (f : Fld) (v : Nat) : (rfput k f v s).traceEn = s.traceEn := rfl
@[simp] theorem rfput_traceFirst (k : Nat) (f : Fld) (v : Nat) : (rfput k f v s).traceFirst = s.traceFirst := rfl
@[simp] theorem rfput_traceLast (k : Nat) (f : Fld) (v : Nat) : (rfput k f v s).traceLast = s.traceLast := rfl
@[simp] theorem rfput_vtags (k : Nat) (f : Fld) (v : Nat) : (rfput k f v s).vtags = s.vtags := rfl
@[simp] theorem rfput_links (k : Nat) (f : Fld) (v : Nat) : (rfput k f v s).links = s.links := rfl
@[simp] theorem rfput_credits (k : Nat) (f : Fld) (v : Nat) : (rfput k f v s).credits = s.credits := rfl
@[simp] theorem rfput_creditFly (k : Nat) (f : Fld) (v : Nat) : (rfput k f v s).creditFly = s.creditFly := rfl
@[simp] theorem rfput_moves (k : Nat) (f : Fld) (v : Nat) : (rfput k f v s).moves = s.moves := rfl
@[simp] theorem rfput_steers (k : Nat) (f : Fld) (v : Nat) : (rfput k f v s).steers = s.steers := rfl
@[simp] theorem rfput_nodes (k : Nat) (f : Fld) (v : Nat) : (rfput k f v s).nodes = s.nodes := rfl
@[simp] theorem rfput_seams (k : Nat) (f : Fld) (v : Nat) : (rfput k f v s).seams = s.seams := rfl
@[simp] theorem rfput_memArrs (k : Nat) (f : Fld) (v : Nat) : (rfput k f v s).memArrs = s.memArrs := rfl
@[simp] theorem rfput_taps (k : Nat) (f : Fld) (v : Nat) : (rfput k f v s).taps = s.taps := rfl
@[simp] theorem rfput_svc (k : Nat) (f : Fld) (v : Nat) : (rfput k f v s).svc = s.svc := rfl
@[simp] theorem rfput_svcResp (k : Nat) (f : Fld) (v : Nat) : (rfput k f v s).svcResp = s.svcResp := rfl
@[simp] theorem rfput_svcGot (k : Nat) (f : Fld) (v : Nat) : (rfput k f v s).svcGot = s.svcGot := rfl
@[simp] theorem rfput_svcId (k : Nat) (f : Fld) (v : Nat) : (rfput k f v s).svcId = s.svcId := rfl
@[simp] theorem rfput_mgmtIn (k : Nat) (f : Fld) (v : Nat) : (rfput k f v s).mgmtIn = s.mgmtIn := rfl
@[simp] theorem rfput_waits (k : Nat) (f : Fld) (v : Nat) : (rfput k f v s).waits = s.waits := rfl
@[simp] theorem rfput_dones (k : Nat) (f : Fld) (v : Nat) : (rfput k f v s).dones = s.dones := rfl
@[simp] theorem rfput_xbar (k : Nat) (f : Fld) (v : Nat) : (rfput k f v s).xbar = s.xbar := rfl
@[simp] theorem rfput_turns (k : Nat) (f : Fld) (v : Nat) : (rfput k f v s).turns = s.turns := rfl
@[simp] theorem rfput_draining (k : Nat) (f : Fld) (v : Nat) : (rfput k f v s).draining = s.draining := rfl
@[simp] theorem rfput_drainTallies (k : Nat) (f : Fld) (v : Nat) : (rfput k f v s).drainTallies = s.drainTallies := rfl
@[simp] theorem rfput_drainExc (k : Nat) (f : Fld) (v : Nat) : (rfput k f v s).drainExc = s.drainExc := rfl
@[simp] theorem rfput_excSat (k : Nat) (f : Fld) (v : Nat) : (rfput k f v s).excSat = s.excSat := rfl
@[simp] theorem rfput_image (k : Nat) (f : Fld) (v : Nat) : (rfput k f v s).image = s.image := rfl
@[simp] theorem rfput_plan (k : Nat) (f : Fld) (v : Nat) : (rfput k f v s).plan = s.plan := rfl
@[simp] theorem rfput_logs (k : Nat) (f : Fld) (v : Nat) : (rfput k f v s).logs = s.logs := rfl
@[simp] theorem rfput_descs (k : Nat) (f : Fld) (v : Nat) : (rfput k f v s).descs = s.descs := rfl
@[simp] theorem rfput_hubQs (k : Nat) (f : Fld) (v : Nat) : (rfput k f v s).hubQs = s.hubQs := rfl
@[simp] theorem rfput_hdlStage (k : Nat) (f : Fld) (v : Nat) : (rfput k f v s).hdlStage = s.hdlStage := rfl
@[simp] theorem rfput_dirty (k : Nat) (f : Fld) (v : Nat) : (rfput k f v s).dirty = s.dirty := rfl
@[simp] theorem rfput_otpStage (k : Nat) (f : Fld) (v : Nat) : (rfput k f v s).otpStage = s.otpStage := rfl
@[simp] theorem rfput_gates (k : Nat) (f : Fld) (v : Nat) : (rfput k f v s).gates = s.gates := rfl
@[simp] theorem rfput_suOut (k : Nat) (f : Fld) (v : Nat) : (rfput k f v s).suOut = s.suOut := rfl
@[simp] theorem rfput_arb (k : Nat) (f : Fld) (v : Nat) : (rfput k f v s).arb = s.arb := rfl
@[simp] theorem rfput_fetchOrder (k : Nat) (f : Fld) (v : Nat) : (rfput k f v s).fetchOrder = s.fetchOrder := rfl
@[simp] theorem rfput_decoders (k : Nat) (f : Fld) (v : Nat) : (rfput k f v s).decoders = s.decoders := rfl
@[simp] theorem rfput_gul (k : Nat) (f : Fld) (v : Nat) : (rfput k f v s).gul = s.gul := rfl
@[simp] theorem rfput_lsOn (k : Nat) (f : Fld) (v : Nat) : (rfput k f v s).lsOn = s.lsOn := rfl
@[simp] theorem rfput_hbs (k : Nat) (f : Fld) (v : Nat) : (rfput k f v s).hbs = s.hbs := rfl
@[simp] theorem rfput_snaps (k : Nat) (f : Fld) (v : Nat) : (rfput k f v s).snaps = s.snaps := rfl
@[simp] theorem rfput_saving (k : Nat) (f : Fld) (v : Nat) : (rfput k f v s).saving = s.saving := rfl
@[simp] theorem rfput_planSel (k : Nat) (f : Fld) (v : Nat) : (rfput k f v s).planSel = s.planSel := rfl
@[simp] theorem rfput_planChanged (k : Nat) (f : Fld) (v : Nat) : (rfput k f v s).planChanged = s.planChanged := rfl
@[simp] theorem rfput_reconFailed (k : Nat) (f : Fld) (v : Nat) : (rfput k f v s).reconFailed = s.reconFailed := rfl
@[simp] theorem rfput_hostStall (k : Nat) (f : Fld) (v : Nat) : (rfput k f v s).hostStall = s.hostStall := rfl
@[simp] theorem rfput_lapSet (k : Nat) (f : Fld) (v : Nat) : (rfput k f v s).lapSet = s.lapSet := rfl
@[simp] theorem rfput_excBase (k : Nat) (f : Fld) (v : Nat) : (rfput k f v s).excBase = s.excBase := rfl
@[simp] theorem rfput_sides (k : Nat) (f : Fld) (v : Nat) : (rfput k f v s).sides = s.sides := rfl
@[simp] theorem rfput_ringClk (k : Nat) (f : Fld) (v : Nat) : (rfput k f v s).ringClk = s.ringClk := rfl
@[simp] theorem rfput_power (k : Nat) (f : Fld) (v : Nat) : (rfput k f v s).power = s.power := rfl
@[simp] theorem rfput_bring (k : Nat) (f : Fld) (v : Nat) : (rfput k f v s).bring = s.bring := rfl
@[simp] theorem rfput_fuses (k : Nat) (f : Fld) (v : Nat) : (rfput k f v s).fuses = s.fuses := rfl
@[simp] theorem rfput_fw (k : Nat) (f : Fld) (v : Nat) : (rfput k f v s).fw = s.fw := rfl
@[simp] theorem rfput_dbg (k : Nat) (f : Fld) (v : Nat) : (rfput k f v s).dbg = s.dbg := rfl
@[simp] theorem rfput_timeCtr (k : Nat) (f : Fld) (v : Nat) : (rfput k f v s).timeCtr = s.timeCtr := rfl
@[simp] theorem rfput_measure5 (k : Nat) (f : Fld) (v : Nat) : (rfput k f v s).measure5 = s.measure5 := rfl
@[simp] theorem rfput_cages (k : Nat) (f : Fld) (v : Nat) : (rfput k f v s).cages = s.cages := rfl
@[simp] theorem rfput_shifted (k : Nat) (f : Fld) (v : Nat) : (rfput k f v s).shifted = s.shifted := rfl
@[simp] theorem rfput_authFails (k : Nat) (f : Fld) (v : Nat) : (rfput k f v s).authFails = s.authFails := rfl
@[simp] theorem rfput_memByte (k : Nat) (f : Fld) (v : Nat) (i : Nat) : memByte (rfput k f v s) i = memByte s i := rfl
@[simp] theorem rfput_tagOf (k : Nat) (f : Fld) (v : Nat) (i : Nat) : tagOf (rfput k f v s) i = tagOf s i := rfl
@[simp] theorem rfput_portOf (k : Nat) (f : Fld) (v : Nat) (i : Nat) : portOf (rfput k f v s) i = portOf s i := rfl
@[simp] theorem rfput_ringOf (k : Nat) (f : Fld) (v : Nat) (i j : Nat) : ringOf (rfput k f v s) i j = ringOf s i j := rfl
@[simp] theorem rfput_standOf (k : Nat) (f : Fld) (v : Nat) (i : Nat) : standOf (rfput k f v s) i = standOf s i := rfl
@[simp] theorem rfput_stageOf (k : Nat) (f : Fld) (v : Nat) (i : Nat) : stageOf (rfput k f v s) i = stageOf s i := rfl
@[simp] theorem rfput_arrOf (k : Nat) (f : Fld) (v : Nat) (i : Nat) : arrOf (rfput k f v s) i = arrOf s i := rfl
@[simp] theorem rfput_sessOf (k : Nat) (f : Fld) (v : Nat) (i : Nat) : sessOf (rfput k f v s) i = sessOf s i := rfl
@[simp] theorem rfput_hubQOf (k : Nat) (f : Fld) (v : Nat) (i j : Nat) : hubQOf (rfput k f v s) i j = hubQOf s i j := rfl
@[simp] theorem rfput_execOf (k : Nat) (f : Fld) (v : Nat) (i j : Nat) : execOf (rfput k f v s) i j = execOf s i j := rfl
@[simp] theorem rfput_gateSt (k : Nat) (f : Fld) (v : Nat) (i j : Nat) : gateSt (rfput k f v s) i j = gateSt s i j := rfl
@[simp] theorem rfput_linkOf (k : Nat) (f : Fld) (v : Nat) (i j l : Nat) : linkOf (rfput k f v s) i j l = linkOf s i j l := rfl
@[simp] theorem rfput_creditOf (k : Nat) (f : Fld) (v : Nat) (i : Nat) : creditOf (rfput k f v s) i = creditOf s i := rfl
@[simp] theorem rfput_steerOf (k : Nat) (f : Fld) (v : Nat) (i j l : Nat) : steerOf (rfput k f v s) i j l = steerOf s i j l := rfl
@[simp] theorem rfput_nodeOf (k : Nat) (f : Fld) (v : Nat) (i j : Nat) : nodeOf (rfput k f v s) i j = nodeOf s i j := rfl
@[simp] theorem rfput_seamOf (k : Nat) (f : Fld) (v : Nat) (i j : Nat) : seamOf (rfput k f v s) i j = seamOf s i j := rfl
@[simp] theorem rfput_memArrOf (k : Nat) (f : Fld) (v : Nat) (i j : Nat) : memArrOf (rfput k f v s) i j = memArrOf s i j := rfl
@[simp] theorem rfput_tapOf (k : Nat) (f : Fld) (v : Nat) (i j : Nat) : tapOf (rfput k f v s) i j = tapOf s i j := rfl
@[simp] theorem rfput_logOf (k : Nat) (f : Fld) (v : Nat) (i : Nat) : logOf (rfput k f v s) i = logOf s i := rfl
@[simp] theorem rfput_waitOf (k : Nat) (f : Fld) (v : Nat) (y : Waiter) : waitOf (rfput k f v s) y = waitOf s y := rfl
@[simp] theorem rfput_sideOf (k : Nat) (f : Fld) (v : Nat) (i j : Nat) : sideOf (rfput k f v s) i j = sideOf s i j := rfl
@[simp] theorem rfput_fuseOf (k : Nat) (f : Fld) (v : Nat) (i : Nat) : fuseOf (rfput k f v s) i = fuseOf s i := rfl
@[simp] theorem rfput_gsOf (k : Nat) (f : Fld) (v : Nat) (i : Nat) : gsOf (rfput k f v s) i = gsOf s i := rfl
@[simp] theorem rfput_gringOf (k : Nat) (f : Fld) (v : Nat) (i j : Nat) : gringOf (rfput k f v s) i j = gringOf s i j := rfl
@[simp] theorem rfput_lsOwn (k : Nat) (f : Fld) (v : Nat) (i : Nat) : lsOwn (rfput k f v s) i = lsOwn s i := rfl
@[simp] theorem rfput_lsIn (k : Nat) (f : Fld) (v : Nat) (i : Nat) : lsIn (rfput k f v s) i = lsIn s i := rfl
@[simp] theorem rfput_descBytes (k : Nat) (f : Fld) (v : Nat) (i j l : Nat) : descBytes (rfput k f v s) i j l = descBytes s i j l := rfl
@[simp] theorem rfput_svcOf (k : Nat) (f : Fld) (v : Nat) (y : MeshSrc) : svcOf (rfput k f v s) y = svcOf s y := rfl

/-! ### rfsat -/

@[simp] theorem rfsat_pending (k : Nat) (f : Fld) (v : Nat) : (rfsat k f v s).pending = s.pending := rfl
@[simp] theorem rfsat_freeCtr (k : Nat) (f : Fld) (v : Nat) : (rfsat k f v s).freeCtr = s.freeCtr := rfl
@[simp] theorem rfsat_mem (k : Nat) (f : Fld) (v : Nat) : (rfsat k f v s).mem = s.mem := rfl
@[simp] theorem rfsat_upset (k : Nat) (f : Fld) (v : Nat) : (rfsat k f v s).upset = s.upset := rfl
@[simp] theorem rfsat_tags (k : Nat) (f : Fld) (v : Nat) : (rfsat k f v s).tags = s.tags := rfl
@[simp] theorem rfsat_ob (k : Nat) (f : Fld) (v : Nat) : (rfsat k f v s).ob = s.ob := rfl
@[simp] theorem rfsat_obBad (k : Nat) (f : Fld) (v : Nat) : (rfsat k f v s).obBad = s.obBad := rfl
@[simp] theorem rfsat_hostMem (k : Nat) (f : Fld) (v : Nat) : (rfsat k f v s).hostMem = s.hostMem := rfl
@[simp] theorem rfsat_peerMem (k : Nat) (f : Fld) (v : Nat) : (rfsat k f v s).peerMem = s.peerMem := rfl
@[simp] theorem rfsat_stages (k : Nat) (f : Fld) (v : Nat) : (rfsat k f v s).stages = s.stages := rfl
@[simp] theorem rfsat_arrays (k : Nat) (f : Fld) (v : Nat) : (rfsat k f v s).arrays = s.arrays := rfl
@[simp] theorem rfsat_stands (k : Nat) (f : Fld) (v : Nat) : (rfsat k f v s).stands = s.stands := rfl
@[simp] theorem rfsat_ports (k : Nat) (f : Fld) (v : Nat) : (rfsat k f v s).ports = s.ports := rfl
@[simp] theorem rfsat_rings (k : Nat) (f : Fld) (v : Nat) : (rfsat k f v s).rings = s.rings := rfl
@[simp] theorem rfsat_sessions (k : Nat) (f : Fld) (v : Nat) : (rfsat k f v s).sessions = s.sessions := rfl
@[simp] theorem rfsat_orphans (k : Nat) (f : Fld) (v : Nat) : (rfsat k f v s).orphans = s.orphans := rfl
@[simp] theorem rfsat_reportSeq (k : Nat) (f : Fld) (v : Nat) : (rfsat k f v s).reportSeq = s.reportSeq := rfl
@[simp] theorem rfsat_mode (k : Nat) (f : Fld) (v : Nat) : (rfsat k f v s).mode = s.mode := rfl
@[simp] theorem rfsat_epoch (k : Nat) (f : Fld) (v : Nat) : (rfsat k f v s).epoch = s.epoch := rfl
@[simp] theorem rfsat_tainted (k : Nat) (f : Fld) (v : Nat) : (rfsat k f v s).tainted = s.tainted := rfl
@[simp] theorem rfsat_taints (k : Nat) (f : Fld) (v : Nat) : (rfsat k f v s).taints = s.taints := rfl
@[simp] theorem rfsat_taintCount (k : Nat) (f : Fld) (v : Nat) : (rfsat k f v s).taintCount = s.taintCount := rfl
@[simp] theorem rfsat_srKey (k : Nat) (f : Fld) (v : Nat) : (rfsat k f v s).srKey = s.srKey := rfl
@[simp] theorem rfsat_lapLen (k : Nat) (f : Fld) (v : Nat) : (rfsat k f v s).lapLen = s.lapLen := rfl
@[simp] theorem rfsat_traceEn (k : Nat) (f : Fld) (v : Nat) : (rfsat k f v s).traceEn = s.traceEn := rfl
@[simp] theorem rfsat_traceFirst (k : Nat) (f : Fld) (v : Nat) : (rfsat k f v s).traceFirst = s.traceFirst := rfl
@[simp] theorem rfsat_traceLast (k : Nat) (f : Fld) (v : Nat) : (rfsat k f v s).traceLast = s.traceLast := rfl
@[simp] theorem rfsat_vtags (k : Nat) (f : Fld) (v : Nat) : (rfsat k f v s).vtags = s.vtags := rfl
@[simp] theorem rfsat_links (k : Nat) (f : Fld) (v : Nat) : (rfsat k f v s).links = s.links := rfl
@[simp] theorem rfsat_credits (k : Nat) (f : Fld) (v : Nat) : (rfsat k f v s).credits = s.credits := rfl
@[simp] theorem rfsat_creditFly (k : Nat) (f : Fld) (v : Nat) : (rfsat k f v s).creditFly = s.creditFly := rfl
@[simp] theorem rfsat_moves (k : Nat) (f : Fld) (v : Nat) : (rfsat k f v s).moves = s.moves := rfl
@[simp] theorem rfsat_steers (k : Nat) (f : Fld) (v : Nat) : (rfsat k f v s).steers = s.steers := rfl
@[simp] theorem rfsat_nodes (k : Nat) (f : Fld) (v : Nat) : (rfsat k f v s).nodes = s.nodes := rfl
@[simp] theorem rfsat_seams (k : Nat) (f : Fld) (v : Nat) : (rfsat k f v s).seams = s.seams := rfl
@[simp] theorem rfsat_memArrs (k : Nat) (f : Fld) (v : Nat) : (rfsat k f v s).memArrs = s.memArrs := rfl
@[simp] theorem rfsat_taps (k : Nat) (f : Fld) (v : Nat) : (rfsat k f v s).taps = s.taps := rfl
@[simp] theorem rfsat_svc (k : Nat) (f : Fld) (v : Nat) : (rfsat k f v s).svc = s.svc := rfl
@[simp] theorem rfsat_svcResp (k : Nat) (f : Fld) (v : Nat) : (rfsat k f v s).svcResp = s.svcResp := rfl
@[simp] theorem rfsat_svcGot (k : Nat) (f : Fld) (v : Nat) : (rfsat k f v s).svcGot = s.svcGot := rfl
@[simp] theorem rfsat_svcId (k : Nat) (f : Fld) (v : Nat) : (rfsat k f v s).svcId = s.svcId := rfl
@[simp] theorem rfsat_mgmtIn (k : Nat) (f : Fld) (v : Nat) : (rfsat k f v s).mgmtIn = s.mgmtIn := rfl
@[simp] theorem rfsat_waits (k : Nat) (f : Fld) (v : Nat) : (rfsat k f v s).waits = s.waits := rfl
@[simp] theorem rfsat_dones (k : Nat) (f : Fld) (v : Nat) : (rfsat k f v s).dones = s.dones := rfl
@[simp] theorem rfsat_xbar (k : Nat) (f : Fld) (v : Nat) : (rfsat k f v s).xbar = s.xbar := rfl
@[simp] theorem rfsat_turns (k : Nat) (f : Fld) (v : Nat) : (rfsat k f v s).turns = s.turns := rfl
@[simp] theorem rfsat_draining (k : Nat) (f : Fld) (v : Nat) : (rfsat k f v s).draining = s.draining := rfl
@[simp] theorem rfsat_drainTallies (k : Nat) (f : Fld) (v : Nat) : (rfsat k f v s).drainTallies = s.drainTallies := rfl
@[simp] theorem rfsat_drainExc (k : Nat) (f : Fld) (v : Nat) : (rfsat k f v s).drainExc = s.drainExc := rfl
@[simp] theorem rfsat_excSat (k : Nat) (f : Fld) (v : Nat) : (rfsat k f v s).excSat = s.excSat := rfl
@[simp] theorem rfsat_image (k : Nat) (f : Fld) (v : Nat) : (rfsat k f v s).image = s.image := rfl
@[simp] theorem rfsat_plan (k : Nat) (f : Fld) (v : Nat) : (rfsat k f v s).plan = s.plan := rfl
@[simp] theorem rfsat_logs (k : Nat) (f : Fld) (v : Nat) : (rfsat k f v s).logs = s.logs := rfl
@[simp] theorem rfsat_descs (k : Nat) (f : Fld) (v : Nat) : (rfsat k f v s).descs = s.descs := rfl
@[simp] theorem rfsat_hubQs (k : Nat) (f : Fld) (v : Nat) : (rfsat k f v s).hubQs = s.hubQs := rfl
@[simp] theorem rfsat_hdlStage (k : Nat) (f : Fld) (v : Nat) : (rfsat k f v s).hdlStage = s.hdlStage := rfl
@[simp] theorem rfsat_dirty (k : Nat) (f : Fld) (v : Nat) : (rfsat k f v s).dirty = s.dirty := rfl
@[simp] theorem rfsat_otpStage (k : Nat) (f : Fld) (v : Nat) : (rfsat k f v s).otpStage = s.otpStage := rfl
@[simp] theorem rfsat_gates (k : Nat) (f : Fld) (v : Nat) : (rfsat k f v s).gates = s.gates := rfl
@[simp] theorem rfsat_suOut (k : Nat) (f : Fld) (v : Nat) : (rfsat k f v s).suOut = s.suOut := rfl
@[simp] theorem rfsat_arb (k : Nat) (f : Fld) (v : Nat) : (rfsat k f v s).arb = s.arb := rfl
@[simp] theorem rfsat_fetchOrder (k : Nat) (f : Fld) (v : Nat) : (rfsat k f v s).fetchOrder = s.fetchOrder := rfl
@[simp] theorem rfsat_decoders (k : Nat) (f : Fld) (v : Nat) : (rfsat k f v s).decoders = s.decoders := rfl
@[simp] theorem rfsat_gul (k : Nat) (f : Fld) (v : Nat) : (rfsat k f v s).gul = s.gul := rfl
@[simp] theorem rfsat_lsOn (k : Nat) (f : Fld) (v : Nat) : (rfsat k f v s).lsOn = s.lsOn := rfl
@[simp] theorem rfsat_hbs (k : Nat) (f : Fld) (v : Nat) : (rfsat k f v s).hbs = s.hbs := rfl
@[simp] theorem rfsat_snaps (k : Nat) (f : Fld) (v : Nat) : (rfsat k f v s).snaps = s.snaps := rfl
@[simp] theorem rfsat_saving (k : Nat) (f : Fld) (v : Nat) : (rfsat k f v s).saving = s.saving := rfl
@[simp] theorem rfsat_planSel (k : Nat) (f : Fld) (v : Nat) : (rfsat k f v s).planSel = s.planSel := rfl
@[simp] theorem rfsat_planChanged (k : Nat) (f : Fld) (v : Nat) : (rfsat k f v s).planChanged = s.planChanged := rfl
@[simp] theorem rfsat_reconFailed (k : Nat) (f : Fld) (v : Nat) : (rfsat k f v s).reconFailed = s.reconFailed := rfl
@[simp] theorem rfsat_hostStall (k : Nat) (f : Fld) (v : Nat) : (rfsat k f v s).hostStall = s.hostStall := rfl
@[simp] theorem rfsat_lapSet (k : Nat) (f : Fld) (v : Nat) : (rfsat k f v s).lapSet = s.lapSet := rfl
@[simp] theorem rfsat_excBase (k : Nat) (f : Fld) (v : Nat) : (rfsat k f v s).excBase = s.excBase := rfl
@[simp] theorem rfsat_sides (k : Nat) (f : Fld) (v : Nat) : (rfsat k f v s).sides = s.sides := rfl
@[simp] theorem rfsat_ringClk (k : Nat) (f : Fld) (v : Nat) : (rfsat k f v s).ringClk = s.ringClk := rfl
@[simp] theorem rfsat_power (k : Nat) (f : Fld) (v : Nat) : (rfsat k f v s).power = s.power := rfl
@[simp] theorem rfsat_bring (k : Nat) (f : Fld) (v : Nat) : (rfsat k f v s).bring = s.bring := rfl
@[simp] theorem rfsat_fuses (k : Nat) (f : Fld) (v : Nat) : (rfsat k f v s).fuses = s.fuses := rfl
@[simp] theorem rfsat_fw (k : Nat) (f : Fld) (v : Nat) : (rfsat k f v s).fw = s.fw := rfl
@[simp] theorem rfsat_dbg (k : Nat) (f : Fld) (v : Nat) : (rfsat k f v s).dbg = s.dbg := rfl
@[simp] theorem rfsat_timeCtr (k : Nat) (f : Fld) (v : Nat) : (rfsat k f v s).timeCtr = s.timeCtr := rfl
@[simp] theorem rfsat_measure5 (k : Nat) (f : Fld) (v : Nat) : (rfsat k f v s).measure5 = s.measure5 := rfl
@[simp] theorem rfsat_cages (k : Nat) (f : Fld) (v : Nat) : (rfsat k f v s).cages = s.cages := rfl
@[simp] theorem rfsat_shifted (k : Nat) (f : Fld) (v : Nat) : (rfsat k f v s).shifted = s.shifted := rfl
@[simp] theorem rfsat_authFails (k : Nat) (f : Fld) (v : Nat) : (rfsat k f v s).authFails = s.authFails := rfl
@[simp] theorem rfsat_memByte (k : Nat) (f : Fld) (v : Nat) (i : Nat) : memByte (rfsat k f v s) i = memByte s i := rfl
@[simp] theorem rfsat_tagOf (k : Nat) (f : Fld) (v : Nat) (i : Nat) : tagOf (rfsat k f v s) i = tagOf s i := rfl
@[simp] theorem rfsat_portOf (k : Nat) (f : Fld) (v : Nat) (i : Nat) : portOf (rfsat k f v s) i = portOf s i := rfl
@[simp] theorem rfsat_ringOf (k : Nat) (f : Fld) (v : Nat) (i j : Nat) : ringOf (rfsat k f v s) i j = ringOf s i j := rfl
@[simp] theorem rfsat_standOf (k : Nat) (f : Fld) (v : Nat) (i : Nat) : standOf (rfsat k f v s) i = standOf s i := rfl
@[simp] theorem rfsat_stageOf (k : Nat) (f : Fld) (v : Nat) (i : Nat) : stageOf (rfsat k f v s) i = stageOf s i := rfl
@[simp] theorem rfsat_arrOf (k : Nat) (f : Fld) (v : Nat) (i : Nat) : arrOf (rfsat k f v s) i = arrOf s i := rfl
@[simp] theorem rfsat_sessOf (k : Nat) (f : Fld) (v : Nat) (i : Nat) : sessOf (rfsat k f v s) i = sessOf s i := rfl
@[simp] theorem rfsat_hubQOf (k : Nat) (f : Fld) (v : Nat) (i j : Nat) : hubQOf (rfsat k f v s) i j = hubQOf s i j := rfl
@[simp] theorem rfsat_execOf (k : Nat) (f : Fld) (v : Nat) (i j : Nat) : execOf (rfsat k f v s) i j = execOf s i j := rfl
@[simp] theorem rfsat_gateSt (k : Nat) (f : Fld) (v : Nat) (i j : Nat) : gateSt (rfsat k f v s) i j = gateSt s i j := rfl
@[simp] theorem rfsat_linkOf (k : Nat) (f : Fld) (v : Nat) (i j l : Nat) : linkOf (rfsat k f v s) i j l = linkOf s i j l := rfl
@[simp] theorem rfsat_creditOf (k : Nat) (f : Fld) (v : Nat) (i : Nat) : creditOf (rfsat k f v s) i = creditOf s i := rfl
@[simp] theorem rfsat_steerOf (k : Nat) (f : Fld) (v : Nat) (i j l : Nat) : steerOf (rfsat k f v s) i j l = steerOf s i j l := rfl
@[simp] theorem rfsat_nodeOf (k : Nat) (f : Fld) (v : Nat) (i j : Nat) : nodeOf (rfsat k f v s) i j = nodeOf s i j := rfl
@[simp] theorem rfsat_seamOf (k : Nat) (f : Fld) (v : Nat) (i j : Nat) : seamOf (rfsat k f v s) i j = seamOf s i j := rfl
@[simp] theorem rfsat_memArrOf (k : Nat) (f : Fld) (v : Nat) (i j : Nat) : memArrOf (rfsat k f v s) i j = memArrOf s i j := rfl
@[simp] theorem rfsat_tapOf (k : Nat) (f : Fld) (v : Nat) (i j : Nat) : tapOf (rfsat k f v s) i j = tapOf s i j := rfl
@[simp] theorem rfsat_logOf (k : Nat) (f : Fld) (v : Nat) (i : Nat) : logOf (rfsat k f v s) i = logOf s i := rfl
@[simp] theorem rfsat_waitOf (k : Nat) (f : Fld) (v : Nat) (y : Waiter) : waitOf (rfsat k f v s) y = waitOf s y := rfl
@[simp] theorem rfsat_sideOf (k : Nat) (f : Fld) (v : Nat) (i j : Nat) : sideOf (rfsat k f v s) i j = sideOf s i j := rfl
@[simp] theorem rfsat_fuseOf (k : Nat) (f : Fld) (v : Nat) (i : Nat) : fuseOf (rfsat k f v s) i = fuseOf s i := rfl
@[simp] theorem rfsat_gsOf (k : Nat) (f : Fld) (v : Nat) (i : Nat) : gsOf (rfsat k f v s) i = gsOf s i := rfl
@[simp] theorem rfsat_gringOf (k : Nat) (f : Fld) (v : Nat) (i j : Nat) : gringOf (rfsat k f v s) i j = gringOf s i j := rfl
@[simp] theorem rfsat_lsOwn (k : Nat) (f : Fld) (v : Nat) (i : Nat) : lsOwn (rfsat k f v s) i = lsOwn s i := rfl
@[simp] theorem rfsat_lsIn (k : Nat) (f : Fld) (v : Nat) (i : Nat) : lsIn (rfsat k f v s) i = lsIn s i := rfl
@[simp] theorem rfsat_descBytes (k : Nat) (f : Fld) (v : Nat) (i j l : Nat) : descBytes (rfsat k f v s) i j l = descBytes s i j l := rfl
@[simp] theorem rfsat_svcOf (k : Nat) (f : Fld) (v : Nat) (y : MeshSrc) : svcOf (rfsat k f v s) y = svcOf s y := rfl

/-! ### rfadd -/

@[simp] theorem rfadd_pending (k : Nat) (f : Fld) (v : Nat) : (rfadd k f v s).pending = s.pending := rfl
@[simp] theorem rfadd_freeCtr (k : Nat) (f : Fld) (v : Nat) : (rfadd k f v s).freeCtr = s.freeCtr := rfl
@[simp] theorem rfadd_mem (k : Nat) (f : Fld) (v : Nat) : (rfadd k f v s).mem = s.mem := rfl
@[simp] theorem rfadd_upset (k : Nat) (f : Fld) (v : Nat) : (rfadd k f v s).upset = s.upset := rfl
@[simp] theorem rfadd_tags (k : Nat) (f : Fld) (v : Nat) : (rfadd k f v s).tags = s.tags := rfl
@[simp] theorem rfadd_ob (k : Nat) (f : Fld) (v : Nat) : (rfadd k f v s).ob = s.ob := rfl
@[simp] theorem rfadd_obBad (k : Nat) (f : Fld) (v : Nat) : (rfadd k f v s).obBad = s.obBad := rfl
@[simp] theorem rfadd_hostMem (k : Nat) (f : Fld) (v : Nat) : (rfadd k f v s).hostMem = s.hostMem := rfl
@[simp] theorem rfadd_peerMem (k : Nat) (f : Fld) (v : Nat) : (rfadd k f v s).peerMem = s.peerMem := rfl
@[simp] theorem rfadd_stages (k : Nat) (f : Fld) (v : Nat) : (rfadd k f v s).stages = s.stages := rfl
@[simp] theorem rfadd_arrays (k : Nat) (f : Fld) (v : Nat) : (rfadd k f v s).arrays = s.arrays := rfl
@[simp] theorem rfadd_stands (k : Nat) (f : Fld) (v : Nat) : (rfadd k f v s).stands = s.stands := rfl
@[simp] theorem rfadd_ports (k : Nat) (f : Fld) (v : Nat) : (rfadd k f v s).ports = s.ports := rfl
@[simp] theorem rfadd_rings (k : Nat) (f : Fld) (v : Nat) : (rfadd k f v s).rings = s.rings := rfl
@[simp] theorem rfadd_sessions (k : Nat) (f : Fld) (v : Nat) : (rfadd k f v s).sessions = s.sessions := rfl
@[simp] theorem rfadd_orphans (k : Nat) (f : Fld) (v : Nat) : (rfadd k f v s).orphans = s.orphans := rfl
@[simp] theorem rfadd_reportSeq (k : Nat) (f : Fld) (v : Nat) : (rfadd k f v s).reportSeq = s.reportSeq := rfl
@[simp] theorem rfadd_mode (k : Nat) (f : Fld) (v : Nat) : (rfadd k f v s).mode = s.mode := rfl
@[simp] theorem rfadd_epoch (k : Nat) (f : Fld) (v : Nat) : (rfadd k f v s).epoch = s.epoch := rfl
@[simp] theorem rfadd_tainted (k : Nat) (f : Fld) (v : Nat) : (rfadd k f v s).tainted = s.tainted := rfl
@[simp] theorem rfadd_taints (k : Nat) (f : Fld) (v : Nat) : (rfadd k f v s).taints = s.taints := rfl
@[simp] theorem rfadd_taintCount (k : Nat) (f : Fld) (v : Nat) : (rfadd k f v s).taintCount = s.taintCount := rfl
@[simp] theorem rfadd_srKey (k : Nat) (f : Fld) (v : Nat) : (rfadd k f v s).srKey = s.srKey := rfl
@[simp] theorem rfadd_lapLen (k : Nat) (f : Fld) (v : Nat) : (rfadd k f v s).lapLen = s.lapLen := rfl
@[simp] theorem rfadd_traceEn (k : Nat) (f : Fld) (v : Nat) : (rfadd k f v s).traceEn = s.traceEn := rfl
@[simp] theorem rfadd_traceFirst (k : Nat) (f : Fld) (v : Nat) : (rfadd k f v s).traceFirst = s.traceFirst := rfl
@[simp] theorem rfadd_traceLast (k : Nat) (f : Fld) (v : Nat) : (rfadd k f v s).traceLast = s.traceLast := rfl
@[simp] theorem rfadd_vtags (k : Nat) (f : Fld) (v : Nat) : (rfadd k f v s).vtags = s.vtags := rfl
@[simp] theorem rfadd_links (k : Nat) (f : Fld) (v : Nat) : (rfadd k f v s).links = s.links := rfl
@[simp] theorem rfadd_credits (k : Nat) (f : Fld) (v : Nat) : (rfadd k f v s).credits = s.credits := rfl
@[simp] theorem rfadd_creditFly (k : Nat) (f : Fld) (v : Nat) : (rfadd k f v s).creditFly = s.creditFly := rfl
@[simp] theorem rfadd_moves (k : Nat) (f : Fld) (v : Nat) : (rfadd k f v s).moves = s.moves := rfl
@[simp] theorem rfadd_steers (k : Nat) (f : Fld) (v : Nat) : (rfadd k f v s).steers = s.steers := rfl
@[simp] theorem rfadd_nodes (k : Nat) (f : Fld) (v : Nat) : (rfadd k f v s).nodes = s.nodes := rfl
@[simp] theorem rfadd_seams (k : Nat) (f : Fld) (v : Nat) : (rfadd k f v s).seams = s.seams := rfl
@[simp] theorem rfadd_memArrs (k : Nat) (f : Fld) (v : Nat) : (rfadd k f v s).memArrs = s.memArrs := rfl
@[simp] theorem rfadd_taps (k : Nat) (f : Fld) (v : Nat) : (rfadd k f v s).taps = s.taps := rfl
@[simp] theorem rfadd_svc (k : Nat) (f : Fld) (v : Nat) : (rfadd k f v s).svc = s.svc := rfl
@[simp] theorem rfadd_svcResp (k : Nat) (f : Fld) (v : Nat) : (rfadd k f v s).svcResp = s.svcResp := rfl
@[simp] theorem rfadd_svcGot (k : Nat) (f : Fld) (v : Nat) : (rfadd k f v s).svcGot = s.svcGot := rfl
@[simp] theorem rfadd_svcId (k : Nat) (f : Fld) (v : Nat) : (rfadd k f v s).svcId = s.svcId := rfl
@[simp] theorem rfadd_mgmtIn (k : Nat) (f : Fld) (v : Nat) : (rfadd k f v s).mgmtIn = s.mgmtIn := rfl
@[simp] theorem rfadd_waits (k : Nat) (f : Fld) (v : Nat) : (rfadd k f v s).waits = s.waits := rfl
@[simp] theorem rfadd_dones (k : Nat) (f : Fld) (v : Nat) : (rfadd k f v s).dones = s.dones := rfl
@[simp] theorem rfadd_xbar (k : Nat) (f : Fld) (v : Nat) : (rfadd k f v s).xbar = s.xbar := rfl
@[simp] theorem rfadd_turns (k : Nat) (f : Fld) (v : Nat) : (rfadd k f v s).turns = s.turns := rfl
@[simp] theorem rfadd_draining (k : Nat) (f : Fld) (v : Nat) : (rfadd k f v s).draining = s.draining := rfl
@[simp] theorem rfadd_drainTallies (k : Nat) (f : Fld) (v : Nat) : (rfadd k f v s).drainTallies = s.drainTallies := rfl
@[simp] theorem rfadd_drainExc (k : Nat) (f : Fld) (v : Nat) : (rfadd k f v s).drainExc = s.drainExc := rfl
@[simp] theorem rfadd_excSat (k : Nat) (f : Fld) (v : Nat) : (rfadd k f v s).excSat = s.excSat := rfl
@[simp] theorem rfadd_image (k : Nat) (f : Fld) (v : Nat) : (rfadd k f v s).image = s.image := rfl
@[simp] theorem rfadd_plan (k : Nat) (f : Fld) (v : Nat) : (rfadd k f v s).plan = s.plan := rfl
@[simp] theorem rfadd_logs (k : Nat) (f : Fld) (v : Nat) : (rfadd k f v s).logs = s.logs := rfl
@[simp] theorem rfadd_descs (k : Nat) (f : Fld) (v : Nat) : (rfadd k f v s).descs = s.descs := rfl
@[simp] theorem rfadd_hubQs (k : Nat) (f : Fld) (v : Nat) : (rfadd k f v s).hubQs = s.hubQs := rfl
@[simp] theorem rfadd_hdlStage (k : Nat) (f : Fld) (v : Nat) : (rfadd k f v s).hdlStage = s.hdlStage := rfl
@[simp] theorem rfadd_dirty (k : Nat) (f : Fld) (v : Nat) : (rfadd k f v s).dirty = s.dirty := rfl
@[simp] theorem rfadd_otpStage (k : Nat) (f : Fld) (v : Nat) : (rfadd k f v s).otpStage = s.otpStage := rfl
@[simp] theorem rfadd_gates (k : Nat) (f : Fld) (v : Nat) : (rfadd k f v s).gates = s.gates := rfl
@[simp] theorem rfadd_suOut (k : Nat) (f : Fld) (v : Nat) : (rfadd k f v s).suOut = s.suOut := rfl
@[simp] theorem rfadd_arb (k : Nat) (f : Fld) (v : Nat) : (rfadd k f v s).arb = s.arb := rfl
@[simp] theorem rfadd_fetchOrder (k : Nat) (f : Fld) (v : Nat) : (rfadd k f v s).fetchOrder = s.fetchOrder := rfl
@[simp] theorem rfadd_decoders (k : Nat) (f : Fld) (v : Nat) : (rfadd k f v s).decoders = s.decoders := rfl
@[simp] theorem rfadd_gul (k : Nat) (f : Fld) (v : Nat) : (rfadd k f v s).gul = s.gul := rfl
@[simp] theorem rfadd_lsOn (k : Nat) (f : Fld) (v : Nat) : (rfadd k f v s).lsOn = s.lsOn := rfl
@[simp] theorem rfadd_hbs (k : Nat) (f : Fld) (v : Nat) : (rfadd k f v s).hbs = s.hbs := rfl
@[simp] theorem rfadd_snaps (k : Nat) (f : Fld) (v : Nat) : (rfadd k f v s).snaps = s.snaps := rfl
@[simp] theorem rfadd_saving (k : Nat) (f : Fld) (v : Nat) : (rfadd k f v s).saving = s.saving := rfl
@[simp] theorem rfadd_planSel (k : Nat) (f : Fld) (v : Nat) : (rfadd k f v s).planSel = s.planSel := rfl
@[simp] theorem rfadd_planChanged (k : Nat) (f : Fld) (v : Nat) : (rfadd k f v s).planChanged = s.planChanged := rfl
@[simp] theorem rfadd_reconFailed (k : Nat) (f : Fld) (v : Nat) : (rfadd k f v s).reconFailed = s.reconFailed := rfl
@[simp] theorem rfadd_hostStall (k : Nat) (f : Fld) (v : Nat) : (rfadd k f v s).hostStall = s.hostStall := rfl
@[simp] theorem rfadd_lapSet (k : Nat) (f : Fld) (v : Nat) : (rfadd k f v s).lapSet = s.lapSet := rfl
@[simp] theorem rfadd_excBase (k : Nat) (f : Fld) (v : Nat) : (rfadd k f v s).excBase = s.excBase := rfl
@[simp] theorem rfadd_sides (k : Nat) (f : Fld) (v : Nat) : (rfadd k f v s).sides = s.sides := rfl
@[simp] theorem rfadd_ringClk (k : Nat) (f : Fld) (v : Nat) : (rfadd k f v s).ringClk = s.ringClk := rfl
@[simp] theorem rfadd_power (k : Nat) (f : Fld) (v : Nat) : (rfadd k f v s).power = s.power := rfl
@[simp] theorem rfadd_bring (k : Nat) (f : Fld) (v : Nat) : (rfadd k f v s).bring = s.bring := rfl
@[simp] theorem rfadd_fuses (k : Nat) (f : Fld) (v : Nat) : (rfadd k f v s).fuses = s.fuses := rfl
@[simp] theorem rfadd_fw (k : Nat) (f : Fld) (v : Nat) : (rfadd k f v s).fw = s.fw := rfl
@[simp] theorem rfadd_dbg (k : Nat) (f : Fld) (v : Nat) : (rfadd k f v s).dbg = s.dbg := rfl
@[simp] theorem rfadd_timeCtr (k : Nat) (f : Fld) (v : Nat) : (rfadd k f v s).timeCtr = s.timeCtr := rfl
@[simp] theorem rfadd_measure5 (k : Nat) (f : Fld) (v : Nat) : (rfadd k f v s).measure5 = s.measure5 := rfl
@[simp] theorem rfadd_cages (k : Nat) (f : Fld) (v : Nat) : (rfadd k f v s).cages = s.cages := rfl
@[simp] theorem rfadd_shifted (k : Nat) (f : Fld) (v : Nat) : (rfadd k f v s).shifted = s.shifted := rfl
@[simp] theorem rfadd_authFails (k : Nat) (f : Fld) (v : Nat) : (rfadd k f v s).authFails = s.authFails := rfl
@[simp] theorem rfadd_memByte (k : Nat) (f : Fld) (v : Nat) (i : Nat) : memByte (rfadd k f v s) i = memByte s i := rfl
@[simp] theorem rfadd_tagOf (k : Nat) (f : Fld) (v : Nat) (i : Nat) : tagOf (rfadd k f v s) i = tagOf s i := rfl
@[simp] theorem rfadd_portOf (k : Nat) (f : Fld) (v : Nat) (i : Nat) : portOf (rfadd k f v s) i = portOf s i := rfl
@[simp] theorem rfadd_ringOf (k : Nat) (f : Fld) (v : Nat) (i j : Nat) : ringOf (rfadd k f v s) i j = ringOf s i j := rfl
@[simp] theorem rfadd_standOf (k : Nat) (f : Fld) (v : Nat) (i : Nat) : standOf (rfadd k f v s) i = standOf s i := rfl
@[simp] theorem rfadd_stageOf (k : Nat) (f : Fld) (v : Nat) (i : Nat) : stageOf (rfadd k f v s) i = stageOf s i := rfl
@[simp] theorem rfadd_arrOf (k : Nat) (f : Fld) (v : Nat) (i : Nat) : arrOf (rfadd k f v s) i = arrOf s i := rfl
@[simp] theorem rfadd_sessOf (k : Nat) (f : Fld) (v : Nat) (i : Nat) : sessOf (rfadd k f v s) i = sessOf s i := rfl
@[simp] theorem rfadd_hubQOf (k : Nat) (f : Fld) (v : Nat) (i j : Nat) : hubQOf (rfadd k f v s) i j = hubQOf s i j := rfl
@[simp] theorem rfadd_execOf (k : Nat) (f : Fld) (v : Nat) (i j : Nat) : execOf (rfadd k f v s) i j = execOf s i j := rfl
@[simp] theorem rfadd_gateSt (k : Nat) (f : Fld) (v : Nat) (i j : Nat) : gateSt (rfadd k f v s) i j = gateSt s i j := rfl
@[simp] theorem rfadd_linkOf (k : Nat) (f : Fld) (v : Nat) (i j l : Nat) : linkOf (rfadd k f v s) i j l = linkOf s i j l := rfl
@[simp] theorem rfadd_creditOf (k : Nat) (f : Fld) (v : Nat) (i : Nat) : creditOf (rfadd k f v s) i = creditOf s i := rfl
@[simp] theorem rfadd_steerOf (k : Nat) (f : Fld) (v : Nat) (i j l : Nat) : steerOf (rfadd k f v s) i j l = steerOf s i j l := rfl
@[simp] theorem rfadd_nodeOf (k : Nat) (f : Fld) (v : Nat) (i j : Nat) : nodeOf (rfadd k f v s) i j = nodeOf s i j := rfl
@[simp] theorem rfadd_seamOf (k : Nat) (f : Fld) (v : Nat) (i j : Nat) : seamOf (rfadd k f v s) i j = seamOf s i j := rfl
@[simp] theorem rfadd_memArrOf (k : Nat) (f : Fld) (v : Nat) (i j : Nat) : memArrOf (rfadd k f v s) i j = memArrOf s i j := rfl
@[simp] theorem rfadd_tapOf (k : Nat) (f : Fld) (v : Nat) (i j : Nat) : tapOf (rfadd k f v s) i j = tapOf s i j := rfl
@[simp] theorem rfadd_logOf (k : Nat) (f : Fld) (v : Nat) (i : Nat) : logOf (rfadd k f v s) i = logOf s i := rfl
@[simp] theorem rfadd_waitOf (k : Nat) (f : Fld) (v : Nat) (y : Waiter) : waitOf (rfadd k f v s) y = waitOf s y := rfl
@[simp] theorem rfadd_sideOf (k : Nat) (f : Fld) (v : Nat) (i j : Nat) : sideOf (rfadd k f v s) i j = sideOf s i j := rfl
@[simp] theorem rfadd_fuseOf (k : Nat) (f : Fld) (v : Nat) (i : Nat) : fuseOf (rfadd k f v s) i = fuseOf s i := rfl
@[simp] theorem rfadd_gsOf (k : Nat) (f : Fld) (v : Nat) (i : Nat) : gsOf (rfadd k f v s) i = gsOf s i := rfl
@[simp] theorem rfadd_gringOf (k : Nat) (f : Fld) (v : Nat) (i j : Nat) : gringOf (rfadd k f v s) i j = gringOf s i j := rfl
@[simp] theorem rfadd_lsOwn (k : Nat) (f : Fld) (v : Nat) (i : Nat) : lsOwn (rfadd k f v s) i = lsOwn s i := rfl
@[simp] theorem rfadd_lsIn (k : Nat) (f : Fld) (v : Nat) (i : Nat) : lsIn (rfadd k f v s) i = lsIn s i := rfl
@[simp] theorem rfadd_descBytes (k : Nat) (f : Fld) (v : Nat) (i j l : Nat) : descBytes (rfadd k f v s) i j l = descBytes s i j l := rfl
@[simp] theorem rfadd_svcOf (k : Nat) (f : Fld) (v : Nat) (y : MeshSrc) : svcOf (rfadd k f v s) y = svcOf s y := rfl

/-! ### countErr -/

@[simp] theorem countErr_pending (x : Status) (a b c : Nat) : (countErr x a b c s).pending = s.pending := rfl
@[simp] theorem countErr_freeCtr (x : Status) (a b c : Nat) : (countErr x a b c s).freeCtr = s.freeCtr := rfl
@[simp] theorem countErr_mem (x : Status) (a b c : Nat) : (countErr x a b c s).mem = s.mem := rfl
@[simp] theorem countErr_upset (x : Status) (a b c : Nat) : (countErr x a b c s).upset = s.upset := rfl
@[simp] theorem countErr_tags (x : Status) (a b c : Nat) : (countErr x a b c s).tags = s.tags := rfl
@[simp] theorem countErr_ob (x : Status) (a b c : Nat) : (countErr x a b c s).ob = s.ob := rfl
@[simp] theorem countErr_obBad (x : Status) (a b c : Nat) : (countErr x a b c s).obBad = s.obBad := rfl
@[simp] theorem countErr_hostMem (x : Status) (a b c : Nat) : (countErr x a b c s).hostMem = s.hostMem := rfl
@[simp] theorem countErr_peerMem (x : Status) (a b c : Nat) : (countErr x a b c s).peerMem = s.peerMem := rfl
@[simp] theorem countErr_stages (x : Status) (a b c : Nat) : (countErr x a b c s).stages = s.stages := rfl
@[simp] theorem countErr_arrays (x : Status) (a b c : Nat) : (countErr x a b c s).arrays = s.arrays := rfl
@[simp] theorem countErr_stands (x : Status) (a b c : Nat) : (countErr x a b c s).stands = s.stands := rfl
@[simp] theorem countErr_ports (x : Status) (a b c : Nat) : (countErr x a b c s).ports = s.ports := rfl
@[simp] theorem countErr_rings (x : Status) (a b c : Nat) : (countErr x a b c s).rings = s.rings := rfl
@[simp] theorem countErr_sessions (x : Status) (a b c : Nat) : (countErr x a b c s).sessions = s.sessions := rfl
@[simp] theorem countErr_orphans (x : Status) (a b c : Nat) : (countErr x a b c s).orphans = s.orphans := rfl
@[simp] theorem countErr_reportSeq (x : Status) (a b c : Nat) : (countErr x a b c s).reportSeq = s.reportSeq := rfl
@[simp] theorem countErr_mode (x : Status) (a b c : Nat) : (countErr x a b c s).mode = s.mode := rfl
@[simp] theorem countErr_epoch (x : Status) (a b c : Nat) : (countErr x a b c s).epoch = s.epoch := rfl
@[simp] theorem countErr_tainted (x : Status) (a b c : Nat) : (countErr x a b c s).tainted = s.tainted := rfl
@[simp] theorem countErr_taints (x : Status) (a b c : Nat) : (countErr x a b c s).taints = s.taints := rfl
@[simp] theorem countErr_taintCount (x : Status) (a b c : Nat) : (countErr x a b c s).taintCount = s.taintCount := rfl
@[simp] theorem countErr_srKey (x : Status) (a b c : Nat) : (countErr x a b c s).srKey = s.srKey := rfl
@[simp] theorem countErr_lapLen (x : Status) (a b c : Nat) : (countErr x a b c s).lapLen = s.lapLen := rfl
@[simp] theorem countErr_traceEn (x : Status) (a b c : Nat) : (countErr x a b c s).traceEn = s.traceEn := rfl
@[simp] theorem countErr_traceFirst (x : Status) (a b c : Nat) : (countErr x a b c s).traceFirst = s.traceFirst := rfl
@[simp] theorem countErr_traceLast (x : Status) (a b c : Nat) : (countErr x a b c s).traceLast = s.traceLast := rfl
@[simp] theorem countErr_vtags (x : Status) (a b c : Nat) : (countErr x a b c s).vtags = s.vtags := rfl
@[simp] theorem countErr_links (x : Status) (a b c : Nat) : (countErr x a b c s).links = s.links := rfl
@[simp] theorem countErr_credits (x : Status) (a b c : Nat) : (countErr x a b c s).credits = s.credits := rfl
@[simp] theorem countErr_creditFly (x : Status) (a b c : Nat) : (countErr x a b c s).creditFly = s.creditFly := rfl
@[simp] theorem countErr_moves (x : Status) (a b c : Nat) : (countErr x a b c s).moves = s.moves := rfl
@[simp] theorem countErr_steers (x : Status) (a b c : Nat) : (countErr x a b c s).steers = s.steers := rfl
@[simp] theorem countErr_nodes (x : Status) (a b c : Nat) : (countErr x a b c s).nodes = s.nodes := rfl
@[simp] theorem countErr_seams (x : Status) (a b c : Nat) : (countErr x a b c s).seams = s.seams := rfl
@[simp] theorem countErr_memArrs (x : Status) (a b c : Nat) : (countErr x a b c s).memArrs = s.memArrs := rfl
@[simp] theorem countErr_taps (x : Status) (a b c : Nat) : (countErr x a b c s).taps = s.taps := rfl
@[simp] theorem countErr_svc (x : Status) (a b c : Nat) : (countErr x a b c s).svc = s.svc := rfl
@[simp] theorem countErr_svcResp (x : Status) (a b c : Nat) : (countErr x a b c s).svcResp = s.svcResp := rfl
@[simp] theorem countErr_svcGot (x : Status) (a b c : Nat) : (countErr x a b c s).svcGot = s.svcGot := rfl
@[simp] theorem countErr_svcId (x : Status) (a b c : Nat) : (countErr x a b c s).svcId = s.svcId := rfl
@[simp] theorem countErr_mgmtIn (x : Status) (a b c : Nat) : (countErr x a b c s).mgmtIn = s.mgmtIn := rfl
@[simp] theorem countErr_waits (x : Status) (a b c : Nat) : (countErr x a b c s).waits = s.waits := rfl
@[simp] theorem countErr_dones (x : Status) (a b c : Nat) : (countErr x a b c s).dones = s.dones := rfl
@[simp] theorem countErr_xbar (x : Status) (a b c : Nat) : (countErr x a b c s).xbar = s.xbar := rfl
@[simp] theorem countErr_turns (x : Status) (a b c : Nat) : (countErr x a b c s).turns = s.turns := rfl
@[simp] theorem countErr_draining (x : Status) (a b c : Nat) : (countErr x a b c s).draining = s.draining := rfl
@[simp] theorem countErr_drainTallies (x : Status) (a b c : Nat) : (countErr x a b c s).drainTallies = s.drainTallies := rfl
@[simp] theorem countErr_drainExc (x : Status) (a b c : Nat) : (countErr x a b c s).drainExc = s.drainExc := rfl
@[simp] theorem countErr_excSat (x : Status) (a b c : Nat) : (countErr x a b c s).excSat = s.excSat := rfl
@[simp] theorem countErr_image (x : Status) (a b c : Nat) : (countErr x a b c s).image = s.image := rfl
@[simp] theorem countErr_plan (x : Status) (a b c : Nat) : (countErr x a b c s).plan = s.plan := rfl
@[simp] theorem countErr_logs (x : Status) (a b c : Nat) : (countErr x a b c s).logs = s.logs := rfl
@[simp] theorem countErr_descs (x : Status) (a b c : Nat) : (countErr x a b c s).descs = s.descs := rfl
@[simp] theorem countErr_hubQs (x : Status) (a b c : Nat) : (countErr x a b c s).hubQs = s.hubQs := rfl
@[simp] theorem countErr_hdlStage (x : Status) (a b c : Nat) : (countErr x a b c s).hdlStage = s.hdlStage := rfl
@[simp] theorem countErr_dirty (x : Status) (a b c : Nat) : (countErr x a b c s).dirty = s.dirty := rfl
@[simp] theorem countErr_otpStage (x : Status) (a b c : Nat) : (countErr x a b c s).otpStage = s.otpStage := rfl
@[simp] theorem countErr_gates (x : Status) (a b c : Nat) : (countErr x a b c s).gates = s.gates := rfl
@[simp] theorem countErr_suOut (x : Status) (a b c : Nat) : (countErr x a b c s).suOut = s.suOut := rfl
@[simp] theorem countErr_arb (x : Status) (a b c : Nat) : (countErr x a b c s).arb = s.arb := rfl
@[simp] theorem countErr_fetchOrder (x : Status) (a b c : Nat) : (countErr x a b c s).fetchOrder = s.fetchOrder := rfl
@[simp] theorem countErr_decoders (x : Status) (a b c : Nat) : (countErr x a b c s).decoders = s.decoders := rfl
@[simp] theorem countErr_gul (x : Status) (a b c : Nat) : (countErr x a b c s).gul = s.gul := rfl
@[simp] theorem countErr_lsOn (x : Status) (a b c : Nat) : (countErr x a b c s).lsOn = s.lsOn := rfl
@[simp] theorem countErr_hbs (x : Status) (a b c : Nat) : (countErr x a b c s).hbs = s.hbs := rfl
@[simp] theorem countErr_snaps (x : Status) (a b c : Nat) : (countErr x a b c s).snaps = s.snaps := rfl
@[simp] theorem countErr_saving (x : Status) (a b c : Nat) : (countErr x a b c s).saving = s.saving := rfl
@[simp] theorem countErr_planSel (x : Status) (a b c : Nat) : (countErr x a b c s).planSel = s.planSel := rfl
@[simp] theorem countErr_planChanged (x : Status) (a b c : Nat) : (countErr x a b c s).planChanged = s.planChanged := rfl
@[simp] theorem countErr_reconFailed (x : Status) (a b c : Nat) : (countErr x a b c s).reconFailed = s.reconFailed := rfl
@[simp] theorem countErr_hostStall (x : Status) (a b c : Nat) : (countErr x a b c s).hostStall = s.hostStall := rfl
@[simp] theorem countErr_lapSet (x : Status) (a b c : Nat) : (countErr x a b c s).lapSet = s.lapSet := rfl
@[simp] theorem countErr_excBase (x : Status) (a b c : Nat) : (countErr x a b c s).excBase = s.excBase := rfl
@[simp] theorem countErr_sides (x : Status) (a b c : Nat) : (countErr x a b c s).sides = s.sides := rfl
@[simp] theorem countErr_ringClk (x : Status) (a b c : Nat) : (countErr x a b c s).ringClk = s.ringClk := rfl
@[simp] theorem countErr_power (x : Status) (a b c : Nat) : (countErr x a b c s).power = s.power := rfl
@[simp] theorem countErr_bring (x : Status) (a b c : Nat) : (countErr x a b c s).bring = s.bring := rfl
@[simp] theorem countErr_fuses (x : Status) (a b c : Nat) : (countErr x a b c s).fuses = s.fuses := rfl
@[simp] theorem countErr_fw (x : Status) (a b c : Nat) : (countErr x a b c s).fw = s.fw := rfl
@[simp] theorem countErr_dbg (x : Status) (a b c : Nat) : (countErr x a b c s).dbg = s.dbg := rfl
@[simp] theorem countErr_timeCtr (x : Status) (a b c : Nat) : (countErr x a b c s).timeCtr = s.timeCtr := rfl
@[simp] theorem countErr_measure5 (x : Status) (a b c : Nat) : (countErr x a b c s).measure5 = s.measure5 := rfl
@[simp] theorem countErr_cages (x : Status) (a b c : Nat) : (countErr x a b c s).cages = s.cages := rfl
@[simp] theorem countErr_shifted (x : Status) (a b c : Nat) : (countErr x a b c s).shifted = s.shifted := rfl
@[simp] theorem countErr_authFails (x : Status) (a b c : Nat) : (countErr x a b c s).authFails = s.authFails := rfl
@[simp] theorem countErr_memByte (x : Status) (a b c : Nat) (i : Nat) : memByte (countErr x a b c s) i = memByte s i := rfl
@[simp] theorem countErr_tagOf (x : Status) (a b c : Nat) (i : Nat) : tagOf (countErr x a b c s) i = tagOf s i := rfl
@[simp] theorem countErr_portOf (x : Status) (a b c : Nat) (i : Nat) : portOf (countErr x a b c s) i = portOf s i := rfl
@[simp] theorem countErr_ringOf (x : Status) (a b c : Nat) (i j : Nat) : ringOf (countErr x a b c s) i j = ringOf s i j := rfl
@[simp] theorem countErr_standOf (x : Status) (a b c : Nat) (i : Nat) : standOf (countErr x a b c s) i = standOf s i := rfl
@[simp] theorem countErr_stageOf (x : Status) (a b c : Nat) (i : Nat) : stageOf (countErr x a b c s) i = stageOf s i := rfl
@[simp] theorem countErr_arrOf (x : Status) (a b c : Nat) (i : Nat) : arrOf (countErr x a b c s) i = arrOf s i := rfl
@[simp] theorem countErr_sessOf (x : Status) (a b c : Nat) (i : Nat) : sessOf (countErr x a b c s) i = sessOf s i := rfl
@[simp] theorem countErr_hubQOf (x : Status) (a b c : Nat) (i j : Nat) : hubQOf (countErr x a b c s) i j = hubQOf s i j := rfl
@[simp] theorem countErr_execOf (x : Status) (a b c : Nat) (i j : Nat) : execOf (countErr x a b c s) i j = execOf s i j := rfl
@[simp] theorem countErr_gateSt (x : Status) (a b c : Nat) (i j : Nat) : gateSt (countErr x a b c s) i j = gateSt s i j := rfl
@[simp] theorem countErr_linkOf (x : Status) (a b c : Nat) (i j l : Nat) : linkOf (countErr x a b c s) i j l = linkOf s i j l := rfl
@[simp] theorem countErr_creditOf (x : Status) (a b c : Nat) (i : Nat) : creditOf (countErr x a b c s) i = creditOf s i := rfl
@[simp] theorem countErr_steerOf (x : Status) (a b c : Nat) (i j l : Nat) : steerOf (countErr x a b c s) i j l = steerOf s i j l := rfl
@[simp] theorem countErr_nodeOf (x : Status) (a b c : Nat) (i j : Nat) : nodeOf (countErr x a b c s) i j = nodeOf s i j := rfl
@[simp] theorem countErr_seamOf (x : Status) (a b c : Nat) (i j : Nat) : seamOf (countErr x a b c s) i j = seamOf s i j := rfl
@[simp] theorem countErr_memArrOf (x : Status) (a b c : Nat) (i j : Nat) : memArrOf (countErr x a b c s) i j = memArrOf s i j := rfl
@[simp] theorem countErr_tapOf (x : Status) (a b c : Nat) (i j : Nat) : tapOf (countErr x a b c s) i j = tapOf s i j := rfl
@[simp] theorem countErr_logOf (x : Status) (a b c : Nat) (i : Nat) : logOf (countErr x a b c s) i = logOf s i := rfl
@[simp] theorem countErr_waitOf (x : Status) (a b c : Nat) (y : Waiter) : waitOf (countErr x a b c s) y = waitOf s y := rfl
@[simp] theorem countErr_sideOf (x : Status) (a b c : Nat) (i j : Nat) : sideOf (countErr x a b c s) i j = sideOf s i j := rfl
@[simp] theorem countErr_fuseOf (x : Status) (a b c : Nat) (i : Nat) : fuseOf (countErr x a b c s) i = fuseOf s i := rfl
@[simp] theorem countErr_gsOf (x : Status) (a b c : Nat) (i : Nat) : gsOf (countErr x a b c s) i = gsOf s i := rfl
@[simp] theorem countErr_gringOf (x : Status) (a b c : Nat) (i j : Nat) : gringOf (countErr x a b c s) i j = gringOf s i j := rfl
@[simp] theorem countErr_lsOwn (x : Status) (a b c : Nat) (i : Nat) : lsOwn (countErr x a b c s) i = lsOwn s i := rfl
@[simp] theorem countErr_lsIn (x : Status) (a b c : Nat) (i : Nat) : lsIn (countErr x a b c s) i = lsIn s i := rfl
@[simp] theorem countErr_descBytes (x : Status) (a b c : Nat) (i j l : Nat) : descBytes (countErr x a b c s) i j l = descBytes s i j l := rfl
@[simp] theorem countErr_svcOf (x : Status) (a b c : Nat) (y : MeshSrc) : svcOf (countErr x a b c s) y = svcOf s y := rfl

/-! ### setTag -/

@[simp] theorem setTag_pending (k : Nat) (b : Bool) : (setTag k b s).pending = s.pending := rfl
@[simp] theorem setTag_freeCtr (k : Nat) (b : Bool) : (setTag k b s).freeCtr = s.freeCtr := rfl
@[simp] theorem setTag_regs (k : Nat) (b : Bool) : (setTag k b s).regs = s.regs := rfl
@[simp] theorem setTag_mem (k : Nat) (b : Bool) : (setTag k b s).mem = s.mem := rfl
@[simp] theorem setTag_upset (k : Nat) (b : Bool) : (setTag k b s).upset = s.upset := rfl
@[simp] theorem setTag_ob (k : Nat) (b : Bool) : (setTag k b s).ob = s.ob := rfl
@[simp] theorem setTag_obBad (k : Nat) (b : Bool) : (setTag k b s).obBad = s.obBad := rfl
@[simp] theorem setTag_hostMem (k : Nat) (b : Bool) : (setTag k b s).hostMem = s.hostMem := rfl
@[simp] theorem setTag_peerMem (k : Nat) (b : Bool) : (setTag k b s).peerMem = s.peerMem := rfl
@[simp] theorem setTag_stages (k : Nat) (b : Bool) : (setTag k b s).stages = s.stages := rfl
@[simp] theorem setTag_arrays (k : Nat) (b : Bool) : (setTag k b s).arrays = s.arrays := rfl
@[simp] theorem setTag_stands (k : Nat) (b : Bool) : (setTag k b s).stands = s.stands := rfl
@[simp] theorem setTag_ports (k : Nat) (b : Bool) : (setTag k b s).ports = s.ports := rfl
@[simp] theorem setTag_rings (k : Nat) (b : Bool) : (setTag k b s).rings = s.rings := rfl
@[simp] theorem setTag_sessions (k : Nat) (b : Bool) : (setTag k b s).sessions = s.sessions := rfl
@[simp] theorem setTag_orphans (k : Nat) (b : Bool) : (setTag k b s).orphans = s.orphans := rfl
@[simp] theorem setTag_reportSeq (k : Nat) (b : Bool) : (setTag k b s).reportSeq = s.reportSeq := rfl
@[simp] theorem setTag_mode (k : Nat) (b : Bool) : (setTag k b s).mode = s.mode := rfl
@[simp] theorem setTag_epoch (k : Nat) (b : Bool) : (setTag k b s).epoch = s.epoch := rfl
@[simp] theorem setTag_tainted (k : Nat) (b : Bool) : (setTag k b s).tainted = s.tainted := rfl
@[simp] theorem setTag_taints (k : Nat) (b : Bool) : (setTag k b s).taints = s.taints := rfl
@[simp] theorem setTag_taintCount (k : Nat) (b : Bool) : (setTag k b s).taintCount = s.taintCount := rfl
@[simp] theorem setTag_srKey (k : Nat) (b : Bool) : (setTag k b s).srKey = s.srKey := rfl
@[simp] theorem setTag_lapLen (k : Nat) (b : Bool) : (setTag k b s).lapLen = s.lapLen := rfl
@[simp] theorem setTag_traceEn (k : Nat) (b : Bool) : (setTag k b s).traceEn = s.traceEn := rfl
@[simp] theorem setTag_traceFirst (k : Nat) (b : Bool) : (setTag k b s).traceFirst = s.traceFirst := rfl
@[simp] theorem setTag_traceLast (k : Nat) (b : Bool) : (setTag k b s).traceLast = s.traceLast := rfl
@[simp] theorem setTag_vtags (k : Nat) (b : Bool) : (setTag k b s).vtags = s.vtags := rfl
@[simp] theorem setTag_links (k : Nat) (b : Bool) : (setTag k b s).links = s.links := rfl
@[simp] theorem setTag_credits (k : Nat) (b : Bool) : (setTag k b s).credits = s.credits := rfl
@[simp] theorem setTag_creditFly (k : Nat) (b : Bool) : (setTag k b s).creditFly = s.creditFly := rfl
@[simp] theorem setTag_moves (k : Nat) (b : Bool) : (setTag k b s).moves = s.moves := rfl
@[simp] theorem setTag_steers (k : Nat) (b : Bool) : (setTag k b s).steers = s.steers := rfl
@[simp] theorem setTag_nodes (k : Nat) (b : Bool) : (setTag k b s).nodes = s.nodes := rfl
@[simp] theorem setTag_seams (k : Nat) (b : Bool) : (setTag k b s).seams = s.seams := rfl
@[simp] theorem setTag_memArrs (k : Nat) (b : Bool) : (setTag k b s).memArrs = s.memArrs := rfl
@[simp] theorem setTag_taps (k : Nat) (b : Bool) : (setTag k b s).taps = s.taps := rfl
@[simp] theorem setTag_svc (k : Nat) (b : Bool) : (setTag k b s).svc = s.svc := rfl
@[simp] theorem setTag_svcResp (k : Nat) (b : Bool) : (setTag k b s).svcResp = s.svcResp := rfl
@[simp] theorem setTag_svcGot (k : Nat) (b : Bool) : (setTag k b s).svcGot = s.svcGot := rfl
@[simp] theorem setTag_svcId (k : Nat) (b : Bool) : (setTag k b s).svcId = s.svcId := rfl
@[simp] theorem setTag_mgmtIn (k : Nat) (b : Bool) : (setTag k b s).mgmtIn = s.mgmtIn := rfl
@[simp] theorem setTag_waits (k : Nat) (b : Bool) : (setTag k b s).waits = s.waits := rfl
@[simp] theorem setTag_dones (k : Nat) (b : Bool) : (setTag k b s).dones = s.dones := rfl
@[simp] theorem setTag_xbar (k : Nat) (b : Bool) : (setTag k b s).xbar = s.xbar := rfl
@[simp] theorem setTag_turns (k : Nat) (b : Bool) : (setTag k b s).turns = s.turns := rfl
@[simp] theorem setTag_draining (k : Nat) (b : Bool) : (setTag k b s).draining = s.draining := rfl
@[simp] theorem setTag_drainTallies (k : Nat) (b : Bool) : (setTag k b s).drainTallies = s.drainTallies := rfl
@[simp] theorem setTag_drainExc (k : Nat) (b : Bool) : (setTag k b s).drainExc = s.drainExc := rfl
@[simp] theorem setTag_excSat (k : Nat) (b : Bool) : (setTag k b s).excSat = s.excSat := rfl
@[simp] theorem setTag_image (k : Nat) (b : Bool) : (setTag k b s).image = s.image := rfl
@[simp] theorem setTag_plan (k : Nat) (b : Bool) : (setTag k b s).plan = s.plan := rfl
@[simp] theorem setTag_logs (k : Nat) (b : Bool) : (setTag k b s).logs = s.logs := rfl
@[simp] theorem setTag_descs (k : Nat) (b : Bool) : (setTag k b s).descs = s.descs := rfl
@[simp] theorem setTag_hubQs (k : Nat) (b : Bool) : (setTag k b s).hubQs = s.hubQs := rfl
@[simp] theorem setTag_hdlStage (k : Nat) (b : Bool) : (setTag k b s).hdlStage = s.hdlStage := rfl
@[simp] theorem setTag_dirty (k : Nat) (b : Bool) : (setTag k b s).dirty = s.dirty := rfl
@[simp] theorem setTag_otpStage (k : Nat) (b : Bool) : (setTag k b s).otpStage = s.otpStage := rfl
@[simp] theorem setTag_gates (k : Nat) (b : Bool) : (setTag k b s).gates = s.gates := rfl
@[simp] theorem setTag_suOut (k : Nat) (b : Bool) : (setTag k b s).suOut = s.suOut := rfl
@[simp] theorem setTag_arb (k : Nat) (b : Bool) : (setTag k b s).arb = s.arb := rfl
@[simp] theorem setTag_fetchOrder (k : Nat) (b : Bool) : (setTag k b s).fetchOrder = s.fetchOrder := rfl
@[simp] theorem setTag_decoders (k : Nat) (b : Bool) : (setTag k b s).decoders = s.decoders := rfl
@[simp] theorem setTag_gul (k : Nat) (b : Bool) : (setTag k b s).gul = s.gul := rfl
@[simp] theorem setTag_lsOn (k : Nat) (b : Bool) : (setTag k b s).lsOn = s.lsOn := rfl
@[simp] theorem setTag_hbs (k : Nat) (b : Bool) : (setTag k b s).hbs = s.hbs := rfl
@[simp] theorem setTag_snaps (k : Nat) (b : Bool) : (setTag k b s).snaps = s.snaps := rfl
@[simp] theorem setTag_saving (k : Nat) (b : Bool) : (setTag k b s).saving = s.saving := rfl
@[simp] theorem setTag_planSel (k : Nat) (b : Bool) : (setTag k b s).planSel = s.planSel := rfl
@[simp] theorem setTag_planChanged (k : Nat) (b : Bool) : (setTag k b s).planChanged = s.planChanged := rfl
@[simp] theorem setTag_reconFailed (k : Nat) (b : Bool) : (setTag k b s).reconFailed = s.reconFailed := rfl
@[simp] theorem setTag_hostStall (k : Nat) (b : Bool) : (setTag k b s).hostStall = s.hostStall := rfl
@[simp] theorem setTag_lapSet (k : Nat) (b : Bool) : (setTag k b s).lapSet = s.lapSet := rfl
@[simp] theorem setTag_excBase (k : Nat) (b : Bool) : (setTag k b s).excBase = s.excBase := rfl
@[simp] theorem setTag_sides (k : Nat) (b : Bool) : (setTag k b s).sides = s.sides := rfl
@[simp] theorem setTag_ringClk (k : Nat) (b : Bool) : (setTag k b s).ringClk = s.ringClk := rfl
@[simp] theorem setTag_power (k : Nat) (b : Bool) : (setTag k b s).power = s.power := rfl
@[simp] theorem setTag_bring (k : Nat) (b : Bool) : (setTag k b s).bring = s.bring := rfl
@[simp] theorem setTag_fuses (k : Nat) (b : Bool) : (setTag k b s).fuses = s.fuses := rfl
@[simp] theorem setTag_fw (k : Nat) (b : Bool) : (setTag k b s).fw = s.fw := rfl
@[simp] theorem setTag_dbg (k : Nat) (b : Bool) : (setTag k b s).dbg = s.dbg := rfl
@[simp] theorem setTag_timeCtr (k : Nat) (b : Bool) : (setTag k b s).timeCtr = s.timeCtr := rfl
@[simp] theorem setTag_measure5 (k : Nat) (b : Bool) : (setTag k b s).measure5 = s.measure5 := rfl
@[simp] theorem setTag_cages (k : Nat) (b : Bool) : (setTag k b s).cages = s.cages := rfl
@[simp] theorem setTag_shifted (k : Nat) (b : Bool) : (setTag k b s).shifted = s.shifted := rfl
@[simp] theorem setTag_authFails (k : Nat) (b : Bool) : (setTag k b s).authFails = s.authFails := rfl
@[simp] theorem setTag_rg (k : Nat) (b : Bool) (i : Nat) : rg (setTag k b s) i = rg s i := rfl
@[simp] theorem setTag_rf (k : Nat) (b : Bool) (i : Nat) (g : Fld) : rf (setTag k b s) i g = rf s i g := rfl
@[simp] theorem setTag_memByte (k : Nat) (b : Bool) (i : Nat) : memByte (setTag k b s) i = memByte s i := rfl
@[simp] theorem setTag_portOf (k : Nat) (b : Bool) (i : Nat) : portOf (setTag k b s) i = portOf s i := rfl
@[simp] theorem setTag_ringOf (k : Nat) (b : Bool) (i j : Nat) : ringOf (setTag k b s) i j = ringOf s i j := rfl
@[simp] theorem setTag_standOf (k : Nat) (b : Bool) (i : Nat) : standOf (setTag k b s) i = standOf s i := rfl
@[simp] theorem setTag_stageOf (k : Nat) (b : Bool) (i : Nat) : stageOf (setTag k b s) i = stageOf s i := rfl
@[simp] theorem setTag_arrOf (k : Nat) (b : Bool) (i : Nat) : arrOf (setTag k b s) i = arrOf s i := rfl
@[simp] theorem setTag_sessOf (k : Nat) (b : Bool) (i : Nat) : sessOf (setTag k b s) i = sessOf s i := rfl
@[simp] theorem setTag_hubQOf (k : Nat) (b : Bool) (i j : Nat) : hubQOf (setTag k b s) i j = hubQOf s i j := rfl
@[simp] theorem setTag_execOf (k : Nat) (b : Bool) (i j : Nat) : execOf (setTag k b s) i j = execOf s i j := rfl
@[simp] theorem setTag_gateSt (k : Nat) (b : Bool) (i j : Nat) : gateSt (setTag k b s) i j = gateSt s i j := rfl
@[simp] theorem setTag_linkOf (k : Nat) (b : Bool) (i j l : Nat) : linkOf (setTag k b s) i j l = linkOf s i j l := rfl
@[simp] theorem setTag_creditOf (k : Nat) (b : Bool) (i : Nat) : creditOf (setTag k b s) i = creditOf s i := rfl
@[simp] theorem setTag_steerOf (k : Nat) (b : Bool) (i j l : Nat) : steerOf (setTag k b s) i j l = steerOf s i j l := rfl
@[simp] theorem setTag_nodeOf (k : Nat) (b : Bool) (i j : Nat) : nodeOf (setTag k b s) i j = nodeOf s i j := rfl
@[simp] theorem setTag_seamOf (k : Nat) (b : Bool) (i j : Nat) : seamOf (setTag k b s) i j = seamOf s i j := rfl
@[simp] theorem setTag_memArrOf (k : Nat) (b : Bool) (i j : Nat) : memArrOf (setTag k b s) i j = memArrOf s i j := rfl
@[simp] theorem setTag_tapOf (k : Nat) (b : Bool) (i j : Nat) : tapOf (setTag k b s) i j = tapOf s i j := rfl
@[simp] theorem setTag_logOf (k : Nat) (b : Bool) (i : Nat) : logOf (setTag k b s) i = logOf s i := rfl
@[simp] theorem setTag_waitOf (k : Nat) (b : Bool) (y : Waiter) : waitOf (setTag k b s) y = waitOf s y := rfl
@[simp] theorem setTag_sideOf (k : Nat) (b : Bool) (i j : Nat) : sideOf (setTag k b s) i j = sideOf s i j := rfl
@[simp] theorem setTag_fuseOf (k : Nat) (b : Bool) (i : Nat) : fuseOf (setTag k b s) i = fuseOf s i := rfl
@[simp] theorem setTag_gsOf (k : Nat) (b : Bool) (i : Nat) : gsOf (setTag k b s) i = gsOf s i := rfl
@[simp] theorem setTag_gringOf (k : Nat) (b : Bool) (i j : Nat) : gringOf (setTag k b s) i j = gringOf s i j := rfl
@[simp] theorem setTag_lsOwn (k : Nat) (b : Bool) (i : Nat) : lsOwn (setTag k b s) i = lsOwn s i := rfl
@[simp] theorem setTag_lsIn (k : Nat) (b : Bool) (i : Nat) : lsIn (setTag k b s) i = lsIn s i := rfl
@[simp] theorem setTag_descBytes (k : Nat) (b : Bool) (i j l : Nat) : descBytes (setTag k b s) i j l = descBytes s i j l := rfl
@[simp] theorem setTag_svcOf (k : Nat) (b : Bool) (y : MeshSrc) : svcOf (setTag k b s) y = svcOf s y := rfl
@[simp] theorem setTag_timeNow (k : Nat) (b : Bool) : timeNow (setTag k b s)  = timeNow s := rfl

/-! ### putPort -/

@[simp] theorem putPort_pending (p : Nat) (v : Port) : (putPort p v s).pending = s.pending := rfl
@[simp] theorem putPort_freeCtr (p : Nat) (v : Port) : (putPort p v s).freeCtr = s.freeCtr := rfl
@[simp] theorem putPort_regs (p : Nat) (v : Port) : (putPort p v s).regs = s.regs := rfl
@[simp] theorem putPort_mem (p : Nat) (v : Port) : (putPort p v s).mem = s.mem := rfl
@[simp] theorem putPort_upset (p : Nat) (v : Port) : (putPort p v s).upset = s.upset := rfl
@[simp] theorem putPort_tags (p : Nat) (v : Port) : (putPort p v s).tags = s.tags := rfl
@[simp] theorem putPort_ob (p : Nat) (v : Port) : (putPort p v s).ob = s.ob := rfl
@[simp] theorem putPort_obBad (p : Nat) (v : Port) : (putPort p v s).obBad = s.obBad := rfl
@[simp] theorem putPort_hostMem (p : Nat) (v : Port) : (putPort p v s).hostMem = s.hostMem := rfl
@[simp] theorem putPort_peerMem (p : Nat) (v : Port) : (putPort p v s).peerMem = s.peerMem := rfl
@[simp] theorem putPort_stages (p : Nat) (v : Port) : (putPort p v s).stages = s.stages := rfl
@[simp] theorem putPort_arrays (p : Nat) (v : Port) : (putPort p v s).arrays = s.arrays := rfl
@[simp] theorem putPort_stands (p : Nat) (v : Port) : (putPort p v s).stands = s.stands := rfl
@[simp] theorem putPort_rings (p : Nat) (v : Port) : (putPort p v s).rings = s.rings := rfl
@[simp] theorem putPort_sessions (p : Nat) (v : Port) : (putPort p v s).sessions = s.sessions := rfl
@[simp] theorem putPort_orphans (p : Nat) (v : Port) : (putPort p v s).orphans = s.orphans := rfl
@[simp] theorem putPort_reportSeq (p : Nat) (v : Port) : (putPort p v s).reportSeq = s.reportSeq := rfl
@[simp] theorem putPort_mode (p : Nat) (v : Port) : (putPort p v s).mode = s.mode := rfl
@[simp] theorem putPort_epoch (p : Nat) (v : Port) : (putPort p v s).epoch = s.epoch := rfl
@[simp] theorem putPort_tainted (p : Nat) (v : Port) : (putPort p v s).tainted = s.tainted := rfl
@[simp] theorem putPort_taints (p : Nat) (v : Port) : (putPort p v s).taints = s.taints := rfl
@[simp] theorem putPort_taintCount (p : Nat) (v : Port) : (putPort p v s).taintCount = s.taintCount := rfl
@[simp] theorem putPort_srKey (p : Nat) (v : Port) : (putPort p v s).srKey = s.srKey := rfl
@[simp] theorem putPort_lapLen (p : Nat) (v : Port) : (putPort p v s).lapLen = s.lapLen := rfl
@[simp] theorem putPort_traceEn (p : Nat) (v : Port) : (putPort p v s).traceEn = s.traceEn := rfl
@[simp] theorem putPort_traceFirst (p : Nat) (v : Port) : (putPort p v s).traceFirst = s.traceFirst := rfl
@[simp] theorem putPort_traceLast (p : Nat) (v : Port) : (putPort p v s).traceLast = s.traceLast := rfl
@[simp] theorem putPort_vtags (p : Nat) (v : Port) : (putPort p v s).vtags = s.vtags := rfl
@[simp] theorem putPort_links (p : Nat) (v : Port) : (putPort p v s).links = s.links := rfl
@[simp] theorem putPort_credits (p : Nat) (v : Port) : (putPort p v s).credits = s.credits := rfl
@[simp] theorem putPort_creditFly (p : Nat) (v : Port) : (putPort p v s).creditFly = s.creditFly := rfl
@[simp] theorem putPort_moves (p : Nat) (v : Port) : (putPort p v s).moves = s.moves := rfl
@[simp] theorem putPort_steers (p : Nat) (v : Port) : (putPort p v s).steers = s.steers := rfl
@[simp] theorem putPort_nodes (p : Nat) (v : Port) : (putPort p v s).nodes = s.nodes := rfl
@[simp] theorem putPort_seams (p : Nat) (v : Port) : (putPort p v s).seams = s.seams := rfl
@[simp] theorem putPort_memArrs (p : Nat) (v : Port) : (putPort p v s).memArrs = s.memArrs := rfl
@[simp] theorem putPort_taps (p : Nat) (v : Port) : (putPort p v s).taps = s.taps := rfl
@[simp] theorem putPort_svc (p : Nat) (v : Port) : (putPort p v s).svc = s.svc := rfl
@[simp] theorem putPort_svcResp (p : Nat) (v : Port) : (putPort p v s).svcResp = s.svcResp := rfl
@[simp] theorem putPort_svcGot (p : Nat) (v : Port) : (putPort p v s).svcGot = s.svcGot := rfl
@[simp] theorem putPort_svcId (p : Nat) (v : Port) : (putPort p v s).svcId = s.svcId := rfl
@[simp] theorem putPort_mgmtIn (p : Nat) (v : Port) : (putPort p v s).mgmtIn = s.mgmtIn := rfl
@[simp] theorem putPort_waits (p : Nat) (v : Port) : (putPort p v s).waits = s.waits := rfl
@[simp] theorem putPort_dones (p : Nat) (v : Port) : (putPort p v s).dones = s.dones := rfl
@[simp] theorem putPort_xbar (p : Nat) (v : Port) : (putPort p v s).xbar = s.xbar := rfl
@[simp] theorem putPort_turns (p : Nat) (v : Port) : (putPort p v s).turns = s.turns := rfl
@[simp] theorem putPort_draining (p : Nat) (v : Port) : (putPort p v s).draining = s.draining := rfl
@[simp] theorem putPort_drainTallies (p : Nat) (v : Port) : (putPort p v s).drainTallies = s.drainTallies := rfl
@[simp] theorem putPort_drainExc (p : Nat) (v : Port) : (putPort p v s).drainExc = s.drainExc := rfl
@[simp] theorem putPort_excSat (p : Nat) (v : Port) : (putPort p v s).excSat = s.excSat := rfl
@[simp] theorem putPort_image (p : Nat) (v : Port) : (putPort p v s).image = s.image := rfl
@[simp] theorem putPort_plan (p : Nat) (v : Port) : (putPort p v s).plan = s.plan := rfl
@[simp] theorem putPort_logs (p : Nat) (v : Port) : (putPort p v s).logs = s.logs := rfl
@[simp] theorem putPort_descs (p : Nat) (v : Port) : (putPort p v s).descs = s.descs := rfl
@[simp] theorem putPort_hubQs (p : Nat) (v : Port) : (putPort p v s).hubQs = s.hubQs := rfl
@[simp] theorem putPort_hdlStage (p : Nat) (v : Port) : (putPort p v s).hdlStage = s.hdlStage := rfl
@[simp] theorem putPort_dirty (p : Nat) (v : Port) : (putPort p v s).dirty = s.dirty := rfl
@[simp] theorem putPort_otpStage (p : Nat) (v : Port) : (putPort p v s).otpStage = s.otpStage := rfl
@[simp] theorem putPort_gates (p : Nat) (v : Port) : (putPort p v s).gates = s.gates := rfl
@[simp] theorem putPort_suOut (p : Nat) (v : Port) : (putPort p v s).suOut = s.suOut := rfl
@[simp] theorem putPort_arb (p : Nat) (v : Port) : (putPort p v s).arb = s.arb := rfl
@[simp] theorem putPort_fetchOrder (p : Nat) (v : Port) : (putPort p v s).fetchOrder = s.fetchOrder := rfl
@[simp] theorem putPort_decoders (p : Nat) (v : Port) : (putPort p v s).decoders = s.decoders := rfl
@[simp] theorem putPort_gul (p : Nat) (v : Port) : (putPort p v s).gul = s.gul := rfl
@[simp] theorem putPort_lsOn (p : Nat) (v : Port) : (putPort p v s).lsOn = s.lsOn := rfl
@[simp] theorem putPort_hbs (p : Nat) (v : Port) : (putPort p v s).hbs = s.hbs := rfl
@[simp] theorem putPort_snaps (p : Nat) (v : Port) : (putPort p v s).snaps = s.snaps := rfl
@[simp] theorem putPort_saving (p : Nat) (v : Port) : (putPort p v s).saving = s.saving := rfl
@[simp] theorem putPort_planSel (p : Nat) (v : Port) : (putPort p v s).planSel = s.planSel := rfl
@[simp] theorem putPort_planChanged (p : Nat) (v : Port) : (putPort p v s).planChanged = s.planChanged := rfl
@[simp] theorem putPort_reconFailed (p : Nat) (v : Port) : (putPort p v s).reconFailed = s.reconFailed := rfl
@[simp] theorem putPort_hostStall (p : Nat) (v : Port) : (putPort p v s).hostStall = s.hostStall := rfl
@[simp] theorem putPort_lapSet (p : Nat) (v : Port) : (putPort p v s).lapSet = s.lapSet := rfl
@[simp] theorem putPort_excBase (p : Nat) (v : Port) : (putPort p v s).excBase = s.excBase := rfl
@[simp] theorem putPort_sides (p : Nat) (v : Port) : (putPort p v s).sides = s.sides := rfl
@[simp] theorem putPort_ringClk (p : Nat) (v : Port) : (putPort p v s).ringClk = s.ringClk := rfl
@[simp] theorem putPort_power (p : Nat) (v : Port) : (putPort p v s).power = s.power := rfl
@[simp] theorem putPort_bring (p : Nat) (v : Port) : (putPort p v s).bring = s.bring := rfl
@[simp] theorem putPort_fuses (p : Nat) (v : Port) : (putPort p v s).fuses = s.fuses := rfl
@[simp] theorem putPort_fw (p : Nat) (v : Port) : (putPort p v s).fw = s.fw := rfl
@[simp] theorem putPort_dbg (p : Nat) (v : Port) : (putPort p v s).dbg = s.dbg := rfl
@[simp] theorem putPort_timeCtr (p : Nat) (v : Port) : (putPort p v s).timeCtr = s.timeCtr := rfl
@[simp] theorem putPort_measure5 (p : Nat) (v : Port) : (putPort p v s).measure5 = s.measure5 := rfl
@[simp] theorem putPort_cages (p : Nat) (v : Port) : (putPort p v s).cages = s.cages := rfl
@[simp] theorem putPort_shifted (p : Nat) (v : Port) : (putPort p v s).shifted = s.shifted := rfl
@[simp] theorem putPort_authFails (p : Nat) (v : Port) : (putPort p v s).authFails = s.authFails := rfl
@[simp] theorem putPort_rg (p : Nat) (v : Port) (i : Nat) : rg (putPort p v s) i = rg s i := rfl
@[simp] theorem putPort_rf (p : Nat) (v : Port) (i : Nat) (g : Fld) : rf (putPort p v s) i g = rf s i g := rfl
@[simp] theorem putPort_memByte (p : Nat) (v : Port) (i : Nat) : memByte (putPort p v s) i = memByte s i := rfl
@[simp] theorem putPort_tagOf (p : Nat) (v : Port) (i : Nat) : tagOf (putPort p v s) i = tagOf s i := rfl
@[simp] theorem putPort_ringOf (p : Nat) (v : Port) (i j : Nat) : ringOf (putPort p v s) i j = ringOf s i j := rfl
@[simp] theorem putPort_standOf (p : Nat) (v : Port) (i : Nat) : standOf (putPort p v s) i = standOf s i := rfl
@[simp] theorem putPort_stageOf (p : Nat) (v : Port) (i : Nat) : stageOf (putPort p v s) i = stageOf s i := rfl
@[simp] theorem putPort_arrOf (p : Nat) (v : Port) (i : Nat) : arrOf (putPort p v s) i = arrOf s i := rfl
@[simp] theorem putPort_sessOf (p : Nat) (v : Port) (i : Nat) : sessOf (putPort p v s) i = sessOf s i := rfl
@[simp] theorem putPort_hubQOf (p : Nat) (v : Port) (i j : Nat) : hubQOf (putPort p v s) i j = hubQOf s i j := rfl
@[simp] theorem putPort_execOf (p : Nat) (v : Port) (i j : Nat) : execOf (putPort p v s) i j = execOf s i j := rfl
@[simp] theorem putPort_gateSt (p : Nat) (v : Port) (i j : Nat) : gateSt (putPort p v s) i j = gateSt s i j := rfl
@[simp] theorem putPort_linkOf (p : Nat) (v : Port) (i j l : Nat) : linkOf (putPort p v s) i j l = linkOf s i j l := rfl
@[simp] theorem putPort_creditOf (p : Nat) (v : Port) (i : Nat) : creditOf (putPort p v s) i = creditOf s i := rfl
@[simp] theorem putPort_steerOf (p : Nat) (v : Port) (i j l : Nat) : steerOf (putPort p v s) i j l = steerOf s i j l := rfl
@[simp] theorem putPort_nodeOf (p : Nat) (v : Port) (i j : Nat) : nodeOf (putPort p v s) i j = nodeOf s i j := rfl
@[simp] theorem putPort_seamOf (p : Nat) (v : Port) (i j : Nat) : seamOf (putPort p v s) i j = seamOf s i j := rfl
@[simp] theorem putPort_memArrOf (p : Nat) (v : Port) (i j : Nat) : memArrOf (putPort p v s) i j = memArrOf s i j := rfl
@[simp] theorem putPort_tapOf (p : Nat) (v : Port) (i j : Nat) : tapOf (putPort p v s) i j = tapOf s i j := rfl
@[simp] theorem putPort_logOf (p : Nat) (v : Port) (i : Nat) : logOf (putPort p v s) i = logOf s i := rfl
@[simp] theorem putPort_waitOf (p : Nat) (v : Port) (y : Waiter) : waitOf (putPort p v s) y = waitOf s y := rfl
@[simp] theorem putPort_sideOf (p : Nat) (v : Port) (i j : Nat) : sideOf (putPort p v s) i j = sideOf s i j := rfl
@[simp] theorem putPort_fuseOf (p : Nat) (v : Port) (i : Nat) : fuseOf (putPort p v s) i = fuseOf s i := rfl
@[simp] theorem putPort_gsOf (p : Nat) (v : Port) (i : Nat) : gsOf (putPort p v s) i = gsOf s i := rfl
@[simp] theorem putPort_gringOf (p : Nat) (v : Port) (i j : Nat) : gringOf (putPort p v s) i j = gringOf s i j := rfl
@[simp] theorem putPort_lsOwn (p : Nat) (v : Port) (i : Nat) : lsOwn (putPort p v s) i = lsOwn s i := rfl
@[simp] theorem putPort_lsIn (p : Nat) (v : Port) (i : Nat) : lsIn (putPort p v s) i = lsIn s i := rfl
@[simp] theorem putPort_descBytes (p : Nat) (v : Port) (i j l : Nat) : descBytes (putPort p v s) i j l = descBytes s i j l := rfl
@[simp] theorem putPort_svcOf (p : Nat) (v : Port) (y : MeshSrc) : svcOf (putPort p v s) y = svcOf s y := rfl
@[simp] theorem putPort_timeNow (p : Nat) (v : Port) : timeNow (putPort p v s)  = timeNow s := rfl

/-! ### putRing -/

@[simp] theorem putRing_pending (p r : Nat) (v : CRing) : (putRing p r v s).pending = s.pending := rfl
@[simp] theorem putRing_freeCtr (p r : Nat) (v : CRing) : (putRing p r v s).freeCtr = s.freeCtr := rfl
@[simp] theorem putRing_regs (p r : Nat) (v : CRing) : (putRing p r v s).regs = s.regs := rfl
@[simp] theorem putRing_mem (p r : Nat) (v : CRing) : (putRing p r v s).mem = s.mem := rfl
@[simp] theorem putRing_upset (p r : Nat) (v : CRing) : (putRing p r v s).upset = s.upset := rfl
@[simp] theorem putRing_tags (p r : Nat) (v : CRing) : (putRing p r v s).tags = s.tags := rfl
@[simp] theorem putRing_ob (p r : Nat) (v : CRing) : (putRing p r v s).ob = s.ob := rfl
@[simp] theorem putRing_obBad (p r : Nat) (v : CRing) : (putRing p r v s).obBad = s.obBad := rfl
@[simp] theorem putRing_hostMem (p r : Nat) (v : CRing) : (putRing p r v s).hostMem = s.hostMem := rfl
@[simp] theorem putRing_peerMem (p r : Nat) (v : CRing) : (putRing p r v s).peerMem = s.peerMem := rfl
@[simp] theorem putRing_stages (p r : Nat) (v : CRing) : (putRing p r v s).stages = s.stages := rfl
@[simp] theorem putRing_arrays (p r : Nat) (v : CRing) : (putRing p r v s).arrays = s.arrays := rfl
@[simp] theorem putRing_stands (p r : Nat) (v : CRing) : (putRing p r v s).stands = s.stands := rfl
@[simp] theorem putRing_ports (p r : Nat) (v : CRing) : (putRing p r v s).ports = s.ports := rfl
@[simp] theorem putRing_sessions (p r : Nat) (v : CRing) : (putRing p r v s).sessions = s.sessions := rfl
@[simp] theorem putRing_orphans (p r : Nat) (v : CRing) : (putRing p r v s).orphans = s.orphans := rfl
@[simp] theorem putRing_reportSeq (p r : Nat) (v : CRing) : (putRing p r v s).reportSeq = s.reportSeq := rfl
@[simp] theorem putRing_mode (p r : Nat) (v : CRing) : (putRing p r v s).mode = s.mode := rfl
@[simp] theorem putRing_epoch (p r : Nat) (v : CRing) : (putRing p r v s).epoch = s.epoch := rfl
@[simp] theorem putRing_tainted (p r : Nat) (v : CRing) : (putRing p r v s).tainted = s.tainted := rfl
@[simp] theorem putRing_taints (p r : Nat) (v : CRing) : (putRing p r v s).taints = s.taints := rfl
@[simp] theorem putRing_taintCount (p r : Nat) (v : CRing) : (putRing p r v s).taintCount = s.taintCount := rfl
@[simp] theorem putRing_srKey (p r : Nat) (v : CRing) : (putRing p r v s).srKey = s.srKey := rfl
@[simp] theorem putRing_lapLen (p r : Nat) (v : CRing) : (putRing p r v s).lapLen = s.lapLen := rfl
@[simp] theorem putRing_traceEn (p r : Nat) (v : CRing) : (putRing p r v s).traceEn = s.traceEn := rfl
@[simp] theorem putRing_traceFirst (p r : Nat) (v : CRing) : (putRing p r v s).traceFirst = s.traceFirst := rfl
@[simp] theorem putRing_traceLast (p r : Nat) (v : CRing) : (putRing p r v s).traceLast = s.traceLast := rfl
@[simp] theorem putRing_vtags (p r : Nat) (v : CRing) : (putRing p r v s).vtags = s.vtags := rfl
@[simp] theorem putRing_links (p r : Nat) (v : CRing) : (putRing p r v s).links = s.links := rfl
@[simp] theorem putRing_credits (p r : Nat) (v : CRing) : (putRing p r v s).credits = s.credits := rfl
@[simp] theorem putRing_creditFly (p r : Nat) (v : CRing) : (putRing p r v s).creditFly = s.creditFly := rfl
@[simp] theorem putRing_moves (p r : Nat) (v : CRing) : (putRing p r v s).moves = s.moves := rfl
@[simp] theorem putRing_steers (p r : Nat) (v : CRing) : (putRing p r v s).steers = s.steers := rfl
@[simp] theorem putRing_nodes (p r : Nat) (v : CRing) : (putRing p r v s).nodes = s.nodes := rfl
@[simp] theorem putRing_seams (p r : Nat) (v : CRing) : (putRing p r v s).seams = s.seams := rfl
@[simp] theorem putRing_memArrs (p r : Nat) (v : CRing) : (putRing p r v s).memArrs = s.memArrs := rfl
@[simp] theorem putRing_taps (p r : Nat) (v : CRing) : (putRing p r v s).taps = s.taps := rfl
@[simp] theorem putRing_svc (p r : Nat) (v : CRing) : (putRing p r v s).svc = s.svc := rfl
@[simp] theorem putRing_svcResp (p r : Nat) (v : CRing) : (putRing p r v s).svcResp = s.svcResp := rfl
@[simp] theorem putRing_svcGot (p r : Nat) (v : CRing) : (putRing p r v s).svcGot = s.svcGot := rfl
@[simp] theorem putRing_svcId (p r : Nat) (v : CRing) : (putRing p r v s).svcId = s.svcId := rfl
@[simp] theorem putRing_mgmtIn (p r : Nat) (v : CRing) : (putRing p r v s).mgmtIn = s.mgmtIn := rfl
@[simp] theorem putRing_waits (p r : Nat) (v : CRing) : (putRing p r v s).waits = s.waits := rfl
@[simp] theorem putRing_dones (p r : Nat) (v : CRing) : (putRing p r v s).dones = s.dones := rfl
@[simp] theorem putRing_xbar (p r : Nat) (v : CRing) : (putRing p r v s).xbar = s.xbar := rfl
@[simp] theorem putRing_turns (p r : Nat) (v : CRing) : (putRing p r v s).turns = s.turns := rfl
@[simp] theorem putRing_draining (p r : Nat) (v : CRing) : (putRing p r v s).draining = s.draining := rfl
@[simp] theorem putRing_drainTallies (p r : Nat) (v : CRing) : (putRing p r v s).drainTallies = s.drainTallies := rfl
@[simp] theorem putRing_drainExc (p r : Nat) (v : CRing) : (putRing p r v s).drainExc = s.drainExc := rfl
@[simp] theorem putRing_excSat (p r : Nat) (v : CRing) : (putRing p r v s).excSat = s.excSat := rfl
@[simp] theorem putRing_image (p r : Nat) (v : CRing) : (putRing p r v s).image = s.image := rfl
@[simp] theorem putRing_plan (p r : Nat) (v : CRing) : (putRing p r v s).plan = s.plan := rfl
@[simp] theorem putRing_logs (p r : Nat) (v : CRing) : (putRing p r v s).logs = s.logs := rfl
@[simp] theorem putRing_descs (p r : Nat) (v : CRing) : (putRing p r v s).descs = s.descs := rfl
@[simp] theorem putRing_hubQs (p r : Nat) (v : CRing) : (putRing p r v s).hubQs = s.hubQs := rfl
@[simp] theorem putRing_hdlStage (p r : Nat) (v : CRing) : (putRing p r v s).hdlStage = s.hdlStage := rfl
@[simp] theorem putRing_dirty (p r : Nat) (v : CRing) : (putRing p r v s).dirty = s.dirty := rfl
@[simp] theorem putRing_otpStage (p r : Nat) (v : CRing) : (putRing p r v s).otpStage = s.otpStage := rfl
@[simp] theorem putRing_gates (p r : Nat) (v : CRing) : (putRing p r v s).gates = s.gates := rfl
@[simp] theorem putRing_suOut (p r : Nat) (v : CRing) : (putRing p r v s).suOut = s.suOut := rfl
@[simp] theorem putRing_arb (p r : Nat) (v : CRing) : (putRing p r v s).arb = s.arb := rfl
@[simp] theorem putRing_fetchOrder (p r : Nat) (v : CRing) : (putRing p r v s).fetchOrder = s.fetchOrder := rfl
@[simp] theorem putRing_decoders (p r : Nat) (v : CRing) : (putRing p r v s).decoders = s.decoders := rfl
@[simp] theorem putRing_gul (p r : Nat) (v : CRing) : (putRing p r v s).gul = s.gul := rfl
@[simp] theorem putRing_lsOn (p r : Nat) (v : CRing) : (putRing p r v s).lsOn = s.lsOn := rfl
@[simp] theorem putRing_hbs (p r : Nat) (v : CRing) : (putRing p r v s).hbs = s.hbs := rfl
@[simp] theorem putRing_snaps (p r : Nat) (v : CRing) : (putRing p r v s).snaps = s.snaps := rfl
@[simp] theorem putRing_saving (p r : Nat) (v : CRing) : (putRing p r v s).saving = s.saving := rfl
@[simp] theorem putRing_planSel (p r : Nat) (v : CRing) : (putRing p r v s).planSel = s.planSel := rfl
@[simp] theorem putRing_planChanged (p r : Nat) (v : CRing) : (putRing p r v s).planChanged = s.planChanged := rfl
@[simp] theorem putRing_reconFailed (p r : Nat) (v : CRing) : (putRing p r v s).reconFailed = s.reconFailed := rfl
@[simp] theorem putRing_hostStall (p r : Nat) (v : CRing) : (putRing p r v s).hostStall = s.hostStall := rfl
@[simp] theorem putRing_lapSet (p r : Nat) (v : CRing) : (putRing p r v s).lapSet = s.lapSet := rfl
@[simp] theorem putRing_excBase (p r : Nat) (v : CRing) : (putRing p r v s).excBase = s.excBase := rfl
@[simp] theorem putRing_sides (p r : Nat) (v : CRing) : (putRing p r v s).sides = s.sides := rfl
@[simp] theorem putRing_ringClk (p r : Nat) (v : CRing) : (putRing p r v s).ringClk = s.ringClk := rfl
@[simp] theorem putRing_power (p r : Nat) (v : CRing) : (putRing p r v s).power = s.power := rfl
@[simp] theorem putRing_bring (p r : Nat) (v : CRing) : (putRing p r v s).bring = s.bring := rfl
@[simp] theorem putRing_fuses (p r : Nat) (v : CRing) : (putRing p r v s).fuses = s.fuses := rfl
@[simp] theorem putRing_fw (p r : Nat) (v : CRing) : (putRing p r v s).fw = s.fw := rfl
@[simp] theorem putRing_dbg (p r : Nat) (v : CRing) : (putRing p r v s).dbg = s.dbg := rfl
@[simp] theorem putRing_timeCtr (p r : Nat) (v : CRing) : (putRing p r v s).timeCtr = s.timeCtr := rfl
@[simp] theorem putRing_measure5 (p r : Nat) (v : CRing) : (putRing p r v s).measure5 = s.measure5 := rfl
@[simp] theorem putRing_cages (p r : Nat) (v : CRing) : (putRing p r v s).cages = s.cages := rfl
@[simp] theorem putRing_shifted (p r : Nat) (v : CRing) : (putRing p r v s).shifted = s.shifted := rfl
@[simp] theorem putRing_authFails (p r : Nat) (v : CRing) : (putRing p r v s).authFails = s.authFails := rfl
@[simp] theorem putRing_rg (p r : Nat) (v : CRing) (i : Nat) : rg (putRing p r v s) i = rg s i := rfl
@[simp] theorem putRing_rf (p r : Nat) (v : CRing) (i : Nat) (g : Fld) : rf (putRing p r v s) i g = rf s i g := rfl
@[simp] theorem putRing_memByte (p r : Nat) (v : CRing) (i : Nat) : memByte (putRing p r v s) i = memByte s i := rfl
@[simp] theorem putRing_tagOf (p r : Nat) (v : CRing) (i : Nat) : tagOf (putRing p r v s) i = tagOf s i := rfl
@[simp] theorem putRing_portOf (p r : Nat) (v : CRing) (i : Nat) : portOf (putRing p r v s) i = portOf s i := rfl
@[simp] theorem putRing_standOf (p r : Nat) (v : CRing) (i : Nat) : standOf (putRing p r v s) i = standOf s i := rfl
@[simp] theorem putRing_stageOf (p r : Nat) (v : CRing) (i : Nat) : stageOf (putRing p r v s) i = stageOf s i := rfl
@[simp] theorem putRing_arrOf (p r : Nat) (v : CRing) (i : Nat) : arrOf (putRing p r v s) i = arrOf s i := rfl
@[simp] theorem putRing_sessOf (p r : Nat) (v : CRing) (i : Nat) : sessOf (putRing p r v s) i = sessOf s i := rfl
@[simp] theorem putRing_hubQOf (p r : Nat) (v : CRing) (i j : Nat) : hubQOf (putRing p r v s) i j = hubQOf s i j := rfl
@[simp] theorem putRing_execOf (p r : Nat) (v : CRing) (i j : Nat) : execOf (putRing p r v s) i j = execOf s i j := rfl
@[simp] theorem putRing_gateSt (p r : Nat) (v : CRing) (i j : Nat) : gateSt (putRing p r v s) i j = gateSt s i j := rfl
@[simp] theorem putRing_linkOf (p r : Nat) (v : CRing) (i j l : Nat) : linkOf (putRing p r v s) i j l = linkOf s i j l := rfl
@[simp] theorem putRing_creditOf (p r : Nat) (v : CRing) (i : Nat) : creditOf (putRing p r v s) i = creditOf s i := rfl
@[simp] theorem putRing_steerOf (p r : Nat) (v : CRing) (i j l : Nat) : steerOf (putRing p r v s) i j l = steerOf s i j l := rfl
@[simp] theorem putRing_nodeOf (p r : Nat) (v : CRing) (i j : Nat) : nodeOf (putRing p r v s) i j = nodeOf s i j := rfl
@[simp] theorem putRing_seamOf (p r : Nat) (v : CRing) (i j : Nat) : seamOf (putRing p r v s) i j = seamOf s i j := rfl
@[simp] theorem putRing_memArrOf (p r : Nat) (v : CRing) (i j : Nat) : memArrOf (putRing p r v s) i j = memArrOf s i j := rfl
@[simp] theorem putRing_tapOf (p r : Nat) (v : CRing) (i j : Nat) : tapOf (putRing p r v s) i j = tapOf s i j := rfl
@[simp] theorem putRing_logOf (p r : Nat) (v : CRing) (i : Nat) : logOf (putRing p r v s) i = logOf s i := rfl
@[simp] theorem putRing_waitOf (p r : Nat) (v : CRing) (y : Waiter) : waitOf (putRing p r v s) y = waitOf s y := rfl
@[simp] theorem putRing_sideOf (p r : Nat) (v : CRing) (i j : Nat) : sideOf (putRing p r v s) i j = sideOf s i j := rfl
@[simp] theorem putRing_fuseOf (p r : Nat) (v : CRing) (i : Nat) : fuseOf (putRing p r v s) i = fuseOf s i := rfl
@[simp] theorem putRing_gsOf (p r : Nat) (v : CRing) (i : Nat) : gsOf (putRing p r v s) i = gsOf s i := rfl
@[simp] theorem putRing_gringOf (p r : Nat) (v : CRing) (i j : Nat) : gringOf (putRing p r v s) i j = gringOf s i j := rfl
@[simp] theorem putRing_lsOwn (p r : Nat) (v : CRing) (i : Nat) : lsOwn (putRing p r v s) i = lsOwn s i := rfl
@[simp] theorem putRing_lsIn (p r : Nat) (v : CRing) (i : Nat) : lsIn (putRing p r v s) i = lsIn s i := rfl
@[simp] theorem putRing_descBytes (p r : Nat) (v : CRing) (i j l : Nat) : descBytes (putRing p r v s) i j l = descBytes s i j l := rfl
@[simp] theorem putRing_svcOf (p r : Nat) (v : CRing) (y : MeshSrc) : svcOf (putRing p r v s) y = svcOf s y := rfl
@[simp] theorem putRing_timeNow (p r : Nat) (v : CRing) : timeNow (putRing p r v s)  = timeNow s := rfl

/-! ### putStand -/

@[simp] theorem putStand_pending (p : Nat) (v : Stand) : (putStand p v s).pending = s.pending := rfl
@[simp] theorem putStand_freeCtr (p : Nat) (v : Stand) : (putStand p v s).freeCtr = s.freeCtr := rfl
@[simp] theorem putStand_regs (p : Nat) (v : Stand) : (putStand p v s).regs = s.regs := rfl
@[simp] theorem putStand_mem (p : Nat) (v : Stand) : (putStand p v s).mem = s.mem := rfl
@[simp] theorem putStand_upset (p : Nat) (v : Stand) : (putStand p v s).upset = s.upset := rfl
@[simp] theorem putStand_tags (p : Nat) (v : Stand) : (putStand p v s).tags = s.tags := rfl
@[simp] theorem putStand_ob (p : Nat) (v : Stand) : (putStand p v s).ob = s.ob := rfl
@[simp] theorem putStand_obBad (p : Nat) (v : Stand) : (putStand p v s).obBad = s.obBad := rfl
@[simp] theorem putStand_hostMem (p : Nat) (v : Stand) : (putStand p v s).hostMem = s.hostMem := rfl
@[simp] theorem putStand_peerMem (p : Nat) (v : Stand) : (putStand p v s).peerMem = s.peerMem := rfl
@[simp] theorem putStand_stages (p : Nat) (v : Stand) : (putStand p v s).stages = s.stages := rfl
@[simp] theorem putStand_arrays (p : Nat) (v : Stand) : (putStand p v s).arrays = s.arrays := rfl
@[simp] theorem putStand_ports (p : Nat) (v : Stand) : (putStand p v s).ports = s.ports := rfl
@[simp] theorem putStand_rings (p : Nat) (v : Stand) : (putStand p v s).rings = s.rings := rfl
@[simp] theorem putStand_sessions (p : Nat) (v : Stand) : (putStand p v s).sessions = s.sessions := rfl
@[simp] theorem putStand_orphans (p : Nat) (v : Stand) : (putStand p v s).orphans = s.orphans := rfl
@[simp] theorem putStand_reportSeq (p : Nat) (v : Stand) : (putStand p v s).reportSeq = s.reportSeq := rfl
@[simp] theorem putStand_mode (p : Nat) (v : Stand) : (putStand p v s).mode = s.mode := rfl
@[simp] theorem putStand_epoch (p : Nat) (v : Stand) : (putStand p v s).epoch = s.epoch := rfl
@[simp] theorem putStand_tainted (p : Nat) (v : Stand) : (putStand p v s).tainted = s.tainted := rfl
@[simp] theorem putStand_taints (p : Nat) (v : Stand) : (putStand p v s).taints = s.taints := rfl
@[simp] theorem putStand_taintCount (p : Nat) (v : Stand) : (putStand p v s).taintCount = s.taintCount := rfl
@[simp] theorem putStand_srKey (p : Nat) (v : Stand) : (putStand p v s).srKey = s.srKey := rfl
@[simp] theorem putStand_lapLen (p : Nat) (v : Stand) : (putStand p v s).lapLen = s.lapLen := rfl
@[simp] theorem putStand_traceEn (p : Nat) (v : Stand) : (putStand p v s).traceEn = s.traceEn := rfl
@[simp] theorem putStand_traceFirst (p : Nat) (v : Stand) : (putStand p v s).traceFirst = s.traceFirst := rfl
@[simp] theorem putStand_traceLast (p : Nat) (v : Stand) : (putStand p v s).traceLast = s.traceLast := rfl
@[simp] theorem putStand_vtags (p : Nat) (v : Stand) : (putStand p v s).vtags = s.vtags := rfl
@[simp] theorem putStand_links (p : Nat) (v : Stand) : (putStand p v s).links = s.links := rfl
@[simp] theorem putStand_credits (p : Nat) (v : Stand) : (putStand p v s).credits = s.credits := rfl
@[simp] theorem putStand_creditFly (p : Nat) (v : Stand) : (putStand p v s).creditFly = s.creditFly := rfl
@[simp] theorem putStand_moves (p : Nat) (v : Stand) : (putStand p v s).moves = s.moves := rfl
@[simp] theorem putStand_steers (p : Nat) (v : Stand) : (putStand p v s).steers = s.steers := rfl
@[simp] theorem putStand_nodes (p : Nat) (v : Stand) : (putStand p v s).nodes = s.nodes := rfl
@[simp] theorem putStand_seams (p : Nat) (v : Stand) : (putStand p v s).seams = s.seams := rfl
@[simp] theorem putStand_memArrs (p : Nat) (v : Stand) : (putStand p v s).memArrs = s.memArrs := rfl
@[simp] theorem putStand_taps (p : Nat) (v : Stand) : (putStand p v s).taps = s.taps := rfl
@[simp] theorem putStand_svc (p : Nat) (v : Stand) : (putStand p v s).svc = s.svc := rfl
@[simp] theorem putStand_svcResp (p : Nat) (v : Stand) : (putStand p v s).svcResp = s.svcResp := rfl
@[simp] theorem putStand_svcGot (p : Nat) (v : Stand) : (putStand p v s).svcGot = s.svcGot := rfl
@[simp] theorem putStand_svcId (p : Nat) (v : Stand) : (putStand p v s).svcId = s.svcId := rfl
@[simp] theorem putStand_mgmtIn (p : Nat) (v : Stand) : (putStand p v s).mgmtIn = s.mgmtIn := rfl
@[simp] theorem putStand_waits (p : Nat) (v : Stand) : (putStand p v s).waits = s.waits := rfl
@[simp] theorem putStand_dones (p : Nat) (v : Stand) : (putStand p v s).dones = s.dones := rfl
@[simp] theorem putStand_xbar (p : Nat) (v : Stand) : (putStand p v s).xbar = s.xbar := rfl
@[simp] theorem putStand_turns (p : Nat) (v : Stand) : (putStand p v s).turns = s.turns := rfl
@[simp] theorem putStand_draining (p : Nat) (v : Stand) : (putStand p v s).draining = s.draining := rfl
@[simp] theorem putStand_drainTallies (p : Nat) (v : Stand) : (putStand p v s).drainTallies = s.drainTallies := rfl
@[simp] theorem putStand_drainExc (p : Nat) (v : Stand) : (putStand p v s).drainExc = s.drainExc := rfl
@[simp] theorem putStand_excSat (p : Nat) (v : Stand) : (putStand p v s).excSat = s.excSat := rfl
@[simp] theorem putStand_image (p : Nat) (v : Stand) : (putStand p v s).image = s.image := rfl
@[simp] theorem putStand_plan (p : Nat) (v : Stand) : (putStand p v s).plan = s.plan := rfl
@[simp] theorem putStand_logs (p : Nat) (v : Stand) : (putStand p v s).logs = s.logs := rfl
@[simp] theorem putStand_descs (p : Nat) (v : Stand) : (putStand p v s).descs = s.descs := rfl
@[simp] theorem putStand_hubQs (p : Nat) (v : Stand) : (putStand p v s).hubQs = s.hubQs := rfl
@[simp] theorem putStand_hdlStage (p : Nat) (v : Stand) : (putStand p v s).hdlStage = s.hdlStage := rfl
@[simp] theorem putStand_dirty (p : Nat) (v : Stand) : (putStand p v s).dirty = s.dirty := rfl
@[simp] theorem putStand_otpStage (p : Nat) (v : Stand) : (putStand p v s).otpStage = s.otpStage := rfl
@[simp] theorem putStand_gates (p : Nat) (v : Stand) : (putStand p v s).gates = s.gates := rfl
@[simp] theorem putStand_suOut (p : Nat) (v : Stand) : (putStand p v s).suOut = s.suOut := rfl
@[simp] theorem putStand_arb (p : Nat) (v : Stand) : (putStand p v s).arb = s.arb := rfl
@[simp] theorem putStand_fetchOrder (p : Nat) (v : Stand) : (putStand p v s).fetchOrder = s.fetchOrder := rfl
@[simp] theorem putStand_decoders (p : Nat) (v : Stand) : (putStand p v s).decoders = s.decoders := rfl
@[simp] theorem putStand_gul (p : Nat) (v : Stand) : (putStand p v s).gul = s.gul := rfl
@[simp] theorem putStand_lsOn (p : Nat) (v : Stand) : (putStand p v s).lsOn = s.lsOn := rfl
@[simp] theorem putStand_hbs (p : Nat) (v : Stand) : (putStand p v s).hbs = s.hbs := rfl
@[simp] theorem putStand_snaps (p : Nat) (v : Stand) : (putStand p v s).snaps = s.snaps := rfl
@[simp] theorem putStand_saving (p : Nat) (v : Stand) : (putStand p v s).saving = s.saving := rfl
@[simp] theorem putStand_planSel (p : Nat) (v : Stand) : (putStand p v s).planSel = s.planSel := rfl
@[simp] theorem putStand_planChanged (p : Nat) (v : Stand) : (putStand p v s).planChanged = s.planChanged := rfl
@[simp] theorem putStand_reconFailed (p : Nat) (v : Stand) : (putStand p v s).reconFailed = s.reconFailed := rfl
@[simp] theorem putStand_hostStall (p : Nat) (v : Stand) : (putStand p v s).hostStall = s.hostStall := rfl
@[simp] theorem putStand_lapSet (p : Nat) (v : Stand) : (putStand p v s).lapSet = s.lapSet := rfl
@[simp] theorem putStand_excBase (p : Nat) (v : Stand) : (putStand p v s).excBase = s.excBase := rfl
@[simp] theorem putStand_sides (p : Nat) (v : Stand) : (putStand p v s).sides = s.sides := rfl
@[simp] theorem putStand_ringClk (p : Nat) (v : Stand) : (putStand p v s).ringClk = s.ringClk := rfl
@[simp] theorem putStand_power (p : Nat) (v : Stand) : (putStand p v s).power = s.power := rfl
@[simp] theorem putStand_bring (p : Nat) (v : Stand) : (putStand p v s).bring = s.bring := rfl
@[simp] theorem putStand_fuses (p : Nat) (v : Stand) : (putStand p v s).fuses = s.fuses := rfl
@[simp] theorem putStand_fw (p : Nat) (v : Stand) : (putStand p v s).fw = s.fw := rfl
@[simp] theorem putStand_dbg (p : Nat) (v : Stand) : (putStand p v s).dbg = s.dbg := rfl
@[simp] theorem putStand_timeCtr (p : Nat) (v : Stand) : (putStand p v s).timeCtr = s.timeCtr := rfl
@[simp] theorem putStand_measure5 (p : Nat) (v : Stand) : (putStand p v s).measure5 = s.measure5 := rfl
@[simp] theorem putStand_cages (p : Nat) (v : Stand) : (putStand p v s).cages = s.cages := rfl
@[simp] theorem putStand_shifted (p : Nat) (v : Stand) : (putStand p v s).shifted = s.shifted := rfl
@[simp] theorem putStand_authFails (p : Nat) (v : Stand) : (putStand p v s).authFails = s.authFails := rfl
@[simp] theorem putStand_rg (p : Nat) (v : Stand) (i : Nat) : rg (putStand p v s) i = rg s i := rfl
@[simp] theorem putStand_rf (p : Nat) (v : Stand) (i : Nat) (g : Fld) : rf (putStand p v s) i g = rf s i g := rfl
@[simp] theorem putStand_memByte (p : Nat) (v : Stand) (i : Nat) : memByte (putStand p v s) i = memByte s i := rfl
@[simp] theorem putStand_tagOf (p : Nat) (v : Stand) (i : Nat) : tagOf (putStand p v s) i = tagOf s i := rfl
@[simp] theorem putStand_portOf (p : Nat) (v : Stand) (i : Nat) : portOf (putStand p v s) i = portOf s i := rfl
@[simp] theorem putStand_ringOf (p : Nat) (v : Stand) (i j : Nat) : ringOf (putStand p v s) i j = ringOf s i j := rfl
@[simp] theorem putStand_stageOf (p : Nat) (v : Stand) (i : Nat) : stageOf (putStand p v s) i = stageOf s i := rfl
@[simp] theorem putStand_arrOf (p : Nat) (v : Stand) (i : Nat) : arrOf (putStand p v s) i = arrOf s i := rfl
@[simp] theorem putStand_sessOf (p : Nat) (v : Stand) (i : Nat) : sessOf (putStand p v s) i = sessOf s i := rfl
@[simp] theorem putStand_hubQOf (p : Nat) (v : Stand) (i j : Nat) : hubQOf (putStand p v s) i j = hubQOf s i j := rfl
@[simp] theorem putStand_execOf (p : Nat) (v : Stand) (i j : Nat) : execOf (putStand p v s) i j = execOf s i j := rfl
@[simp] theorem putStand_gateSt (p : Nat) (v : Stand) (i j : Nat) : gateSt (putStand p v s) i j = gateSt s i j := rfl
@[simp] theorem putStand_linkOf (p : Nat) (v : Stand) (i j l : Nat) : linkOf (putStand p v s) i j l = linkOf s i j l := rfl
@[simp] theorem putStand_creditOf (p : Nat) (v : Stand) (i : Nat) : creditOf (putStand p v s) i = creditOf s i := rfl
@[simp] theorem putStand_steerOf (p : Nat) (v : Stand) (i j l : Nat) : steerOf (putStand p v s) i j l = steerOf s i j l := rfl
@[simp] theorem putStand_nodeOf (p : Nat) (v : Stand) (i j : Nat) : nodeOf (putStand p v s) i j = nodeOf s i j := rfl
@[simp] theorem putStand_seamOf (p : Nat) (v : Stand) (i j : Nat) : seamOf (putStand p v s) i j = seamOf s i j := rfl
@[simp] theorem putStand_memArrOf (p : Nat) (v : Stand) (i j : Nat) : memArrOf (putStand p v s) i j = memArrOf s i j := rfl
@[simp] theorem putStand_tapOf (p : Nat) (v : Stand) (i j : Nat) : tapOf (putStand p v s) i j = tapOf s i j := rfl
@[simp] theorem putStand_logOf (p : Nat) (v : Stand) (i : Nat) : logOf (putStand p v s) i = logOf s i := rfl
@[simp] theorem putStand_waitOf (p : Nat) (v : Stand) (y : Waiter) : waitOf (putStand p v s) y = waitOf s y := rfl
@[simp] theorem putStand_sideOf (p : Nat) (v : Stand) (i j : Nat) : sideOf (putStand p v s) i j = sideOf s i j := rfl
@[simp] theorem putStand_fuseOf (p : Nat) (v : Stand) (i : Nat) : fuseOf (putStand p v s) i = fuseOf s i := rfl
@[simp] theorem putStand_gsOf (p : Nat) (v : Stand) (i : Nat) : gsOf (putStand p v s) i = gsOf s i := rfl
@[simp] theorem putStand_gringOf (p : Nat) (v : Stand) (i j : Nat) : gringOf (putStand p v s) i j = gringOf s i j := rfl
@[simp] theorem putStand_lsOwn (p : Nat) (v : Stand) (i : Nat) : lsOwn (putStand p v s) i = lsOwn s i := rfl
@[simp] theorem putStand_lsIn (p : Nat) (v : Stand) (i : Nat) : lsIn (putStand p v s) i = lsIn s i := rfl
@[simp] theorem putStand_descBytes (p : Nat) (v : Stand) (i j l : Nat) : descBytes (putStand p v s) i j l = descBytes s i j l := rfl
@[simp] theorem putStand_svcOf (p : Nat) (v : Stand) (y : MeshSrc) : svcOf (putStand p v s) y = svcOf s y := rfl
@[simp] theorem putStand_timeNow (p : Nat) (v : Stand) : timeNow (putStand p v s)  = timeNow s := rfl

/-! ### putStage -/

@[simp] theorem putStage_pending (k : Nat) (v : Stage) : (putStage k v s).pending = s.pending := rfl
@[simp] theorem putStage_freeCtr (k : Nat) (v : Stage) : (putStage k v s).freeCtr = s.freeCtr := rfl
@[simp] theorem putStage_regs (k : Nat) (v : Stage) : (putStage k v s).regs = s.regs := rfl
@[simp] theorem putStage_mem (k : Nat) (v : Stage) : (putStage k v s).mem = s.mem := rfl
@[simp] theorem putStage_upset (k : Nat) (v : Stage) : (putStage k v s).upset = s.upset := rfl
@[simp] theorem putStage_tags (k : Nat) (v : Stage) : (putStage k v s).tags = s.tags := rfl
@[simp] theorem putStage_ob (k : Nat) (v : Stage) : (putStage k v s).ob = s.ob := rfl
@[simp] theorem putStage_obBad (k : Nat) (v : Stage) : (putStage k v s).obBad = s.obBad := rfl
@[simp] theorem putStage_hostMem (k : Nat) (v : Stage) : (putStage k v s).hostMem = s.hostMem := rfl
@[simp] theorem putStage_peerMem (k : Nat) (v : Stage) : (putStage k v s).peerMem = s.peerMem := rfl
@[simp] theorem putStage_arrays (k : Nat) (v : Stage) : (putStage k v s).arrays = s.arrays := rfl
@[simp] theorem putStage_stands (k : Nat) (v : Stage) : (putStage k v s).stands = s.stands := rfl
@[simp] theorem putStage_ports (k : Nat) (v : Stage) : (putStage k v s).ports = s.ports := rfl
@[simp] theorem putStage_rings (k : Nat) (v : Stage) : (putStage k v s).rings = s.rings := rfl
@[simp] theorem putStage_sessions (k : Nat) (v : Stage) : (putStage k v s).sessions = s.sessions := rfl
@[simp] theorem putStage_orphans (k : Nat) (v : Stage) : (putStage k v s).orphans = s.orphans := rfl
@[simp] theorem putStage_reportSeq (k : Nat) (v : Stage) : (putStage k v s).reportSeq = s.reportSeq := rfl
@[simp] theorem putStage_mode (k : Nat) (v : Stage) : (putStage k v s).mode = s.mode := rfl
@[simp] theorem putStage_epoch (k : Nat) (v : Stage) : (putStage k v s).epoch = s.epoch := rfl
@[simp] theorem putStage_tainted (k : Nat) (v : Stage) : (putStage k v s).tainted = s.tainted := rfl
@[simp] theorem putStage_taints (k : Nat) (v : Stage) : (putStage k v s).taints = s.taints := rfl
@[simp] theorem putStage_taintCount (k : Nat) (v : Stage) : (putStage k v s).taintCount = s.taintCount := rfl
@[simp] theorem putStage_srKey (k : Nat) (v : Stage) : (putStage k v s).srKey = s.srKey := rfl
@[simp] theorem putStage_lapLen (k : Nat) (v : Stage) : (putStage k v s).lapLen = s.lapLen := rfl
@[simp] theorem putStage_traceEn (k : Nat) (v : Stage) : (putStage k v s).traceEn = s.traceEn := rfl
@[simp] theorem putStage_traceFirst (k : Nat) (v : Stage) : (putStage k v s).traceFirst = s.traceFirst := rfl
@[simp] theorem putStage_traceLast (k : Nat) (v : Stage) : (putStage k v s).traceLast = s.traceLast := rfl
@[simp] theorem putStage_vtags (k : Nat) (v : Stage) : (putStage k v s).vtags = s.vtags := rfl
@[simp] theorem putStage_links (k : Nat) (v : Stage) : (putStage k v s).links = s.links := rfl
@[simp] theorem putStage_credits (k : Nat) (v : Stage) : (putStage k v s).credits = s.credits := rfl
@[simp] theorem putStage_creditFly (k : Nat) (v : Stage) : (putStage k v s).creditFly = s.creditFly := rfl
@[simp] theorem putStage_moves (k : Nat) (v : Stage) : (putStage k v s).moves = s.moves := rfl
@[simp] theorem putStage_steers (k : Nat) (v : Stage) : (putStage k v s).steers = s.steers := rfl
@[simp] theorem putStage_nodes (k : Nat) (v : Stage) : (putStage k v s).nodes = s.nodes := rfl
@[simp] theorem putStage_seams (k : Nat) (v : Stage) : (putStage k v s).seams = s.seams := rfl
@[simp] theorem putStage_memArrs (k : Nat) (v : Stage) : (putStage k v s).memArrs = s.memArrs := rfl
@[simp] theorem putStage_taps (k : Nat) (v : Stage) : (putStage k v s).taps = s.taps := rfl
@[simp] theorem putStage_svc (k : Nat) (v : Stage) : (putStage k v s).svc = s.svc := rfl
@[simp] theorem putStage_svcResp (k : Nat) (v : Stage) : (putStage k v s).svcResp = s.svcResp := rfl
@[simp] theorem putStage_svcGot (k : Nat) (v : Stage) : (putStage k v s).svcGot = s.svcGot := rfl
@[simp] theorem putStage_svcId (k : Nat) (v : Stage) : (putStage k v s).svcId = s.svcId := rfl
@[simp] theorem putStage_mgmtIn (k : Nat) (v : Stage) : (putStage k v s).mgmtIn = s.mgmtIn := rfl
@[simp] theorem putStage_waits (k : Nat) (v : Stage) : (putStage k v s).waits = s.waits := rfl
@[simp] theorem putStage_dones (k : Nat) (v : Stage) : (putStage k v s).dones = s.dones := rfl
@[simp] theorem putStage_xbar (k : Nat) (v : Stage) : (putStage k v s).xbar = s.xbar := rfl
@[simp] theorem putStage_turns (k : Nat) (v : Stage) : (putStage k v s).turns = s.turns := rfl
@[simp] theorem putStage_draining (k : Nat) (v : Stage) : (putStage k v s).draining = s.draining := rfl
@[simp] theorem putStage_drainTallies (k : Nat) (v : Stage) : (putStage k v s).drainTallies = s.drainTallies := rfl
@[simp] theorem putStage_drainExc (k : Nat) (v : Stage) : (putStage k v s).drainExc = s.drainExc := rfl
@[simp] theorem putStage_excSat (k : Nat) (v : Stage) : (putStage k v s).excSat = s.excSat := rfl
@[simp] theorem putStage_image (k : Nat) (v : Stage) : (putStage k v s).image = s.image := rfl
@[simp] theorem putStage_plan (k : Nat) (v : Stage) : (putStage k v s).plan = s.plan := rfl
@[simp] theorem putStage_logs (k : Nat) (v : Stage) : (putStage k v s).logs = s.logs := rfl
@[simp] theorem putStage_descs (k : Nat) (v : Stage) : (putStage k v s).descs = s.descs := rfl
@[simp] theorem putStage_hubQs (k : Nat) (v : Stage) : (putStage k v s).hubQs = s.hubQs := rfl
@[simp] theorem putStage_hdlStage (k : Nat) (v : Stage) : (putStage k v s).hdlStage = s.hdlStage := rfl
@[simp] theorem putStage_dirty (k : Nat) (v : Stage) : (putStage k v s).dirty = s.dirty := rfl
@[simp] theorem putStage_otpStage (k : Nat) (v : Stage) : (putStage k v s).otpStage = s.otpStage := rfl
@[simp] theorem putStage_gates (k : Nat) (v : Stage) : (putStage k v s).gates = s.gates := rfl
@[simp] theorem putStage_suOut (k : Nat) (v : Stage) : (putStage k v s).suOut = s.suOut := rfl
@[simp] theorem putStage_arb (k : Nat) (v : Stage) : (putStage k v s).arb = s.arb := rfl
@[simp] theorem putStage_fetchOrder (k : Nat) (v : Stage) : (putStage k v s).fetchOrder = s.fetchOrder := rfl
@[simp] theorem putStage_decoders (k : Nat) (v : Stage) : (putStage k v s).decoders = s.decoders := rfl
@[simp] theorem putStage_gul (k : Nat) (v : Stage) : (putStage k v s).gul = s.gul := rfl
@[simp] theorem putStage_lsOn (k : Nat) (v : Stage) : (putStage k v s).lsOn = s.lsOn := rfl
@[simp] theorem putStage_hbs (k : Nat) (v : Stage) : (putStage k v s).hbs = s.hbs := rfl
@[simp] theorem putStage_snaps (k : Nat) (v : Stage) : (putStage k v s).snaps = s.snaps := rfl
@[simp] theorem putStage_saving (k : Nat) (v : Stage) : (putStage k v s).saving = s.saving := rfl
@[simp] theorem putStage_planSel (k : Nat) (v : Stage) : (putStage k v s).planSel = s.planSel := rfl
@[simp] theorem putStage_planChanged (k : Nat) (v : Stage) : (putStage k v s).planChanged = s.planChanged := rfl
@[simp] theorem putStage_reconFailed (k : Nat) (v : Stage) : (putStage k v s).reconFailed = s.reconFailed := rfl
@[simp] theorem putStage_hostStall (k : Nat) (v : Stage) : (putStage k v s).hostStall = s.hostStall := rfl
@[simp] theorem putStage_lapSet (k : Nat) (v : Stage) : (putStage k v s).lapSet = s.lapSet := rfl
@[simp] theorem putStage_excBase (k : Nat) (v : Stage) : (putStage k v s).excBase = s.excBase := rfl
@[simp] theorem putStage_sides (k : Nat) (v : Stage) : (putStage k v s).sides = s.sides := rfl
@[simp] theorem putStage_ringClk (k : Nat) (v : Stage) : (putStage k v s).ringClk = s.ringClk := rfl
@[simp] theorem putStage_power (k : Nat) (v : Stage) : (putStage k v s).power = s.power := rfl
@[simp] theorem putStage_bring (k : Nat) (v : Stage) : (putStage k v s).bring = s.bring := rfl
@[simp] theorem putStage_fuses (k : Nat) (v : Stage) : (putStage k v s).fuses = s.fuses := rfl
@[simp] theorem putStage_fw (k : Nat) (v : Stage) : (putStage k v s).fw = s.fw := rfl
@[simp] theorem putStage_dbg (k : Nat) (v : Stage) : (putStage k v s).dbg = s.dbg := rfl
@[simp] theorem putStage_timeCtr (k : Nat) (v : Stage) : (putStage k v s).timeCtr = s.timeCtr := rfl
@[simp] theorem putStage_measure5 (k : Nat) (v : Stage) : (putStage k v s).measure5 = s.measure5 := rfl
@[simp] theorem putStage_cages (k : Nat) (v : Stage) : (putStage k v s).cages = s.cages := rfl
@[simp] theorem putStage_shifted (k : Nat) (v : Stage) : (putStage k v s).shifted = s.shifted := rfl
@[simp] theorem putStage_authFails (k : Nat) (v : Stage) : (putStage k v s).authFails = s.authFails := rfl
@[simp] theorem putStage_rg (k : Nat) (v : Stage) (i : Nat) : rg (putStage k v s) i = rg s i := rfl
@[simp] theorem putStage_rf (k : Nat) (v : Stage) (i : Nat) (g : Fld) : rf (putStage k v s) i g = rf s i g := rfl
@[simp] theorem putStage_memByte (k : Nat) (v : Stage) (i : Nat) : memByte (putStage k v s) i = memByte s i := rfl
@[simp] theorem putStage_tagOf (k : Nat) (v : Stage) (i : Nat) : tagOf (putStage k v s) i = tagOf s i := rfl
@[simp] theorem putStage_portOf (k : Nat) (v : Stage) (i : Nat) : portOf (putStage k v s) i = portOf s i := rfl
@[simp] theorem putStage_ringOf (k : Nat) (v : Stage) (i j : Nat) : ringOf (putStage k v s) i j = ringOf s i j := rfl
@[simp] theorem putStage_standOf (k : Nat) (v : Stage) (i : Nat) : standOf (putStage k v s) i = standOf s i := rfl
@[simp] theorem putStage_arrOf (k : Nat) (v : Stage) (i : Nat) : arrOf (putStage k v s) i = arrOf s i := rfl
@[simp] theorem putStage_sessOf (k : Nat) (v : Stage) (i : Nat) : sessOf (putStage k v s) i = sessOf s i := rfl
@[simp] theorem putStage_hubQOf (k : Nat) (v : Stage) (i j : Nat) : hubQOf (putStage k v s) i j = hubQOf s i j := rfl
@[simp] theorem putStage_execOf (k : Nat) (v : Stage) (i j : Nat) : execOf (putStage k v s) i j = execOf s i j := rfl
@[simp] theorem putStage_gateSt (k : Nat) (v : Stage) (i j : Nat) : gateSt (putStage k v s) i j = gateSt s i j := rfl
@[simp] theorem putStage_linkOf (k : Nat) (v : Stage) (i j l : Nat) : linkOf (putStage k v s) i j l = linkOf s i j l := rfl
@[simp] theorem putStage_creditOf (k : Nat) (v : Stage) (i : Nat) : creditOf (putStage k v s) i = creditOf s i := rfl
@[simp] theorem putStage_steerOf (k : Nat) (v : Stage) (i j l : Nat) : steerOf (putStage k v s) i j l = steerOf s i j l := rfl
@[simp] theorem putStage_nodeOf (k : Nat) (v : Stage) (i j : Nat) : nodeOf (putStage k v s) i j = nodeOf s i j := rfl
@[simp] theorem putStage_seamOf (k : Nat) (v : Stage) (i j : Nat) : seamOf (putStage k v s) i j = seamOf s i j := rfl
@[simp] theorem putStage_memArrOf (k : Nat) (v : Stage) (i j : Nat) : memArrOf (putStage k v s) i j = memArrOf s i j := rfl
@[simp] theorem putStage_tapOf (k : Nat) (v : Stage) (i j : Nat) : tapOf (putStage k v s) i j = tapOf s i j := rfl
@[simp] theorem putStage_logOf (k : Nat) (v : Stage) (i : Nat) : logOf (putStage k v s) i = logOf s i := rfl
@[simp] theorem putStage_waitOf (k : Nat) (v : Stage) (y : Waiter) : waitOf (putStage k v s) y = waitOf s y := rfl
@[simp] theorem putStage_sideOf (k : Nat) (v : Stage) (i j : Nat) : sideOf (putStage k v s) i j = sideOf s i j := rfl
@[simp] theorem putStage_fuseOf (k : Nat) (v : Stage) (i : Nat) : fuseOf (putStage k v s) i = fuseOf s i := rfl
@[simp] theorem putStage_gsOf (k : Nat) (v : Stage) (i : Nat) : gsOf (putStage k v s) i = gsOf s i := rfl
@[simp] theorem putStage_gringOf (k : Nat) (v : Stage) (i j : Nat) : gringOf (putStage k v s) i j = gringOf s i j := rfl
@[simp] theorem putStage_lsOwn (k : Nat) (v : Stage) (i : Nat) : lsOwn (putStage k v s) i = lsOwn s i := rfl
@[simp] theorem putStage_lsIn (k : Nat) (v : Stage) (i : Nat) : lsIn (putStage k v s) i = lsIn s i := rfl
@[simp] theorem putStage_descBytes (k : Nat) (v : Stage) (i j l : Nat) : descBytes (putStage k v s) i j l = descBytes s i j l := rfl
@[simp] theorem putStage_svcOf (k : Nat) (v : Stage) (y : MeshSrc) : svcOf (putStage k v s) y = svcOf s y := rfl
@[simp] theorem putStage_timeNow (k : Nat) (v : Stage) : timeNow (putStage k v s)  = timeNow s := rfl

/-! ### putArr -/

@[simp] theorem putArr_pending (k : Nat) (v : CArray) : (putArr k v s).pending = s.pending := rfl
@[simp] theorem putArr_freeCtr (k : Nat) (v : CArray) : (putArr k v s).freeCtr = s.freeCtr := rfl
@[simp] theorem putArr_regs (k : Nat) (v : CArray) : (putArr k v s).regs = s.regs := rfl
@[simp] theorem putArr_mem (k : Nat) (v : CArray) : (putArr k v s).mem = s.mem := rfl
@[simp] theorem putArr_upset (k : Nat) (v : CArray) : (putArr k v s).upset = s.upset := rfl
@[simp] theorem putArr_tags (k : Nat) (v : CArray) : (putArr k v s).tags = s.tags := rfl
@[simp] theorem putArr_ob (k : Nat) (v : CArray) : (putArr k v s).ob = s.ob := rfl
@[simp] theorem putArr_obBad (k : Nat) (v : CArray) : (putArr k v s).obBad = s.obBad := rfl
@[simp] theorem putArr_hostMem (k : Nat) (v : CArray) : (putArr k v s).hostMem = s.hostMem := rfl
@[simp] theorem putArr_peerMem (k : Nat) (v : CArray) : (putArr k v s).peerMem = s.peerMem := rfl
@[simp] theorem putArr_stages (k : Nat) (v : CArray) : (putArr k v s).stages = s.stages := rfl
@[simp] theorem putArr_stands (k : Nat) (v : CArray) : (putArr k v s).stands = s.stands := rfl
@[simp] theorem putArr_ports (k : Nat) (v : CArray) : (putArr k v s).ports = s.ports := rfl
@[simp] theorem putArr_rings (k : Nat) (v : CArray) : (putArr k v s).rings = s.rings := rfl
@[simp] theorem putArr_sessions (k : Nat) (v : CArray) : (putArr k v s).sessions = s.sessions := rfl
@[simp] theorem putArr_orphans (k : Nat) (v : CArray) : (putArr k v s).orphans = s.orphans := rfl
@[simp] theorem putArr_reportSeq (k : Nat) (v : CArray) : (putArr k v s).reportSeq = s.reportSeq := rfl
@[simp] theorem putArr_mode (k : Nat) (v : CArray) : (putArr k v s).mode = s.mode := rfl
@[simp] theorem putArr_epoch (k : Nat) (v : CArray) : (putArr k v s).epoch = s.epoch := rfl
@[simp] theorem putArr_tainted (k : Nat) (v : CArray) : (putArr k v s).tainted = s.tainted := rfl
@[simp] theorem putArr_taints (k : Nat) (v : CArray) : (putArr k v s).taints = s.taints := rfl
@[simp] theorem putArr_taintCount (k : Nat) (v : CArray) : (putArr k v s).taintCount = s.taintCount := rfl
@[simp] theorem putArr_srKey (k : Nat) (v : CArray) : (putArr k v s).srKey = s.srKey := rfl
@[simp] theorem putArr_lapLen (k : Nat) (v : CArray) : (putArr k v s).lapLen = s.lapLen := rfl
@[simp] theorem putArr_traceEn (k : Nat) (v : CArray) : (putArr k v s).traceEn = s.traceEn := rfl
@[simp] theorem putArr_traceFirst (k : Nat) (v : CArray) : (putArr k v s).traceFirst = s.traceFirst := rfl
@[simp] theorem putArr_traceLast (k : Nat) (v : CArray) : (putArr k v s).traceLast = s.traceLast := rfl
@[simp] theorem putArr_vtags (k : Nat) (v : CArray) : (putArr k v s).vtags = s.vtags := rfl
@[simp] theorem putArr_links (k : Nat) (v : CArray) : (putArr k v s).links = s.links := rfl
@[simp] theorem putArr_credits (k : Nat) (v : CArray) : (putArr k v s).credits = s.credits := rfl
@[simp] theorem putArr_creditFly (k : Nat) (v : CArray) : (putArr k v s).creditFly = s.creditFly := rfl
@[simp] theorem putArr_moves (k : Nat) (v : CArray) : (putArr k v s).moves = s.moves := rfl
@[simp] theorem putArr_steers (k : Nat) (v : CArray) : (putArr k v s).steers = s.steers := rfl
@[simp] theorem putArr_nodes (k : Nat) (v : CArray) : (putArr k v s).nodes = s.nodes := rfl
@[simp] theorem putArr_seams (k : Nat) (v : CArray) : (putArr k v s).seams = s.seams := rfl
@[simp] theorem putArr_memArrs (k : Nat) (v : CArray) : (putArr k v s).memArrs = s.memArrs := rfl
@[simp] theorem putArr_taps (k : Nat) (v : CArray) : (putArr k v s).taps = s.taps := rfl
@[simp] theorem putArr_svc (k : Nat) (v : CArray) : (putArr k v s).svc = s.svc := rfl
@[simp] theorem putArr_svcResp (k : Nat) (v : CArray) : (putArr k v s).svcResp = s.svcResp := rfl
@[simp] theorem putArr_svcGot (k : Nat) (v : CArray) : (putArr k v s).svcGot = s.svcGot := rfl
@[simp] theorem putArr_svcId (k : Nat) (v : CArray) : (putArr k v s).svcId = s.svcId := rfl
@[simp] theorem putArr_mgmtIn (k : Nat) (v : CArray) : (putArr k v s).mgmtIn = s.mgmtIn := rfl
@[simp] theorem putArr_waits (k : Nat) (v : CArray) : (putArr k v s).waits = s.waits := rfl
@[simp] theorem putArr_dones (k : Nat) (v : CArray) : (putArr k v s).dones = s.dones := rfl
@[simp] theorem putArr_xbar (k : Nat) (v : CArray) : (putArr k v s).xbar = s.xbar := rfl
@[simp] theorem putArr_turns (k : Nat) (v : CArray) : (putArr k v s).turns = s.turns := rfl
@[simp] theorem putArr_draining (k : Nat) (v : CArray) : (putArr k v s).draining = s.draining := rfl
@[simp] theorem putArr_drainTallies (k : Nat) (v : CArray) : (putArr k v s).drainTallies = s.drainTallies := rfl
@[simp] theorem putArr_drainExc (k : Nat) (v : CArray) : (putArr k v s).drainExc = s.drainExc := rfl
@[simp] theorem putArr_excSat (k : Nat) (v : CArray) : (putArr k v s).excSat = s.excSat := rfl
@[simp] theorem putArr_image (k : Nat) (v : CArray) : (putArr k v s).image = s.image := rfl
@[simp] theorem putArr_plan (k : Nat) (v : CArray) : (putArr k v s).plan = s.plan := rfl
@[simp] theorem putArr_logs (k : Nat) (v : CArray) : (putArr k v s).logs = s.logs := rfl
@[simp] theorem putArr_descs (k : Nat) (v : CArray) : (putArr k v s).descs = s.descs := rfl
@[simp] theorem putArr_hubQs (k : Nat) (v : CArray) : (putArr k v s).hubQs = s.hubQs := rfl
@[simp] theorem putArr_hdlStage (k : Nat) (v : CArray) : (putArr k v s).hdlStage = s.hdlStage := rfl
@[simp] theorem putArr_dirty (k : Nat) (v : CArray) : (putArr k v s).dirty = s.dirty := rfl
@[simp] theorem putArr_otpStage (k : Nat) (v : CArray) : (putArr k v s).otpStage = s.otpStage := rfl
@[simp] theorem putArr_gates (k : Nat) (v : CArray) : (putArr k v s).gates = s.gates := rfl
@[simp] theorem putArr_suOut (k : Nat) (v : CArray) : (putArr k v s).suOut = s.suOut := rfl
@[simp] theorem putArr_arb (k : Nat) (v : CArray) : (putArr k v s).arb = s.arb := rfl
@[simp] theorem putArr_fetchOrder (k : Nat) (v : CArray) : (putArr k v s).fetchOrder = s.fetchOrder := rfl
@[simp] theorem putArr_decoders (k : Nat) (v : CArray) : (putArr k v s).decoders = s.decoders := rfl
@[simp] theorem putArr_gul (k : Nat) (v : CArray) : (putArr k v s).gul = s.gul := rfl
@[simp] theorem putArr_lsOn (k : Nat) (v : CArray) : (putArr k v s).lsOn = s.lsOn := rfl
@[simp] theorem putArr_hbs (k : Nat) (v : CArray) : (putArr k v s).hbs = s.hbs := rfl
@[simp] theorem putArr_snaps (k : Nat) (v : CArray) : (putArr k v s).snaps = s.snaps := rfl
@[simp] theorem putArr_saving (k : Nat) (v : CArray) : (putArr k v s).saving = s.saving := rfl
@[simp] theorem putArr_planSel (k : Nat) (v : CArray) : (putArr k v s).planSel = s.planSel := rfl
@[simp] theorem putArr_planChanged (k : Nat) (v : CArray) : (putArr k v s).planChanged = s.planChanged := rfl
@[simp] theorem putArr_reconFailed (k : Nat) (v : CArray) : (putArr k v s).reconFailed = s.reconFailed := rfl
@[simp] theorem putArr_hostStall (k : Nat) (v : CArray) : (putArr k v s).hostStall = s.hostStall := rfl
@[simp] theorem putArr_lapSet (k : Nat) (v : CArray) : (putArr k v s).lapSet = s.lapSet := rfl
@[simp] theorem putArr_excBase (k : Nat) (v : CArray) : (putArr k v s).excBase = s.excBase := rfl
@[simp] theorem putArr_sides (k : Nat) (v : CArray) : (putArr k v s).sides = s.sides := rfl
@[simp] theorem putArr_ringClk (k : Nat) (v : CArray) : (putArr k v s).ringClk = s.ringClk := rfl
@[simp] theorem putArr_power (k : Nat) (v : CArray) : (putArr k v s).power = s.power := rfl
@[simp] theorem putArr_bring (k : Nat) (v : CArray) : (putArr k v s).bring = s.bring := rfl
@[simp] theorem putArr_fuses (k : Nat) (v : CArray) : (putArr k v s).fuses = s.fuses := rfl
@[simp] theorem putArr_fw (k : Nat) (v : CArray) : (putArr k v s).fw = s.fw := rfl
@[simp] theorem putArr_dbg (k : Nat) (v : CArray) : (putArr k v s).dbg = s.dbg := rfl
@[simp] theorem putArr_timeCtr (k : Nat) (v : CArray) : (putArr k v s).timeCtr = s.timeCtr := rfl
@[simp] theorem putArr_measure5 (k : Nat) (v : CArray) : (putArr k v s).measure5 = s.measure5 := rfl
@[simp] theorem putArr_cages (k : Nat) (v : CArray) : (putArr k v s).cages = s.cages := rfl
@[simp] theorem putArr_shifted (k : Nat) (v : CArray) : (putArr k v s).shifted = s.shifted := rfl
@[simp] theorem putArr_authFails (k : Nat) (v : CArray) : (putArr k v s).authFails = s.authFails := rfl
@[simp] theorem putArr_rg (k : Nat) (v : CArray) (i : Nat) : rg (putArr k v s) i = rg s i := rfl
@[simp] theorem putArr_rf (k : Nat) (v : CArray) (i : Nat) (g : Fld) : rf (putArr k v s) i g = rf s i g := rfl
@[simp] theorem putArr_memByte (k : Nat) (v : CArray) (i : Nat) : memByte (putArr k v s) i = memByte s i := rfl
@[simp] theorem putArr_tagOf (k : Nat) (v : CArray) (i : Nat) : tagOf (putArr k v s) i = tagOf s i := rfl
@[simp] theorem putArr_portOf (k : Nat) (v : CArray) (i : Nat) : portOf (putArr k v s) i = portOf s i := rfl
@[simp] theorem putArr_ringOf (k : Nat) (v : CArray) (i j : Nat) : ringOf (putArr k v s) i j = ringOf s i j := rfl
@[simp] theorem putArr_standOf (k : Nat) (v : CArray) (i : Nat) : standOf (putArr k v s) i = standOf s i := rfl
@[simp] theorem putArr_stageOf (k : Nat) (v : CArray) (i : Nat) : stageOf (putArr k v s) i = stageOf s i := rfl
@[simp] theorem putArr_sessOf (k : Nat) (v : CArray) (i : Nat) : sessOf (putArr k v s) i = sessOf s i := rfl
@[simp] theorem putArr_hubQOf (k : Nat) (v : CArray) (i j : Nat) : hubQOf (putArr k v s) i j = hubQOf s i j := rfl
@[simp] theorem putArr_execOf (k : Nat) (v : CArray) (i j : Nat) : execOf (putArr k v s) i j = execOf s i j := rfl
@[simp] theorem putArr_gateSt (k : Nat) (v : CArray) (i j : Nat) : gateSt (putArr k v s) i j = gateSt s i j := rfl
@[simp] theorem putArr_linkOf (k : Nat) (v : CArray) (i j l : Nat) : linkOf (putArr k v s) i j l = linkOf s i j l := rfl
@[simp] theorem putArr_creditOf (k : Nat) (v : CArray) (i : Nat) : creditOf (putArr k v s) i = creditOf s i := rfl
@[simp] theorem putArr_steerOf (k : Nat) (v : CArray) (i j l : Nat) : steerOf (putArr k v s) i j l = steerOf s i j l := rfl
@[simp] theorem putArr_nodeOf (k : Nat) (v : CArray) (i j : Nat) : nodeOf (putArr k v s) i j = nodeOf s i j := rfl
@[simp] theorem putArr_seamOf (k : Nat) (v : CArray) (i j : Nat) : seamOf (putArr k v s) i j = seamOf s i j := rfl
@[simp] theorem putArr_memArrOf (k : Nat) (v : CArray) (i j : Nat) : memArrOf (putArr k v s) i j = memArrOf s i j := rfl
@[simp] theorem putArr_tapOf (k : Nat) (v : CArray) (i j : Nat) : tapOf (putArr k v s) i j = tapOf s i j := rfl
@[simp] theorem putArr_logOf (k : Nat) (v : CArray) (i : Nat) : logOf (putArr k v s) i = logOf s i := rfl
@[simp] theorem putArr_waitOf (k : Nat) (v : CArray) (y : Waiter) : waitOf (putArr k v s) y = waitOf s y := rfl
@[simp] theorem putArr_sideOf (k : Nat) (v : CArray) (i j : Nat) : sideOf (putArr k v s) i j = sideOf s i j := rfl
@[simp] theorem putArr_fuseOf (k : Nat) (v : CArray) (i : Nat) : fuseOf (putArr k v s) i = fuseOf s i := rfl
@[simp] theorem putArr_gsOf (k : Nat) (v : CArray) (i : Nat) : gsOf (putArr k v s) i = gsOf s i := rfl
@[simp] theorem putArr_gringOf (k : Nat) (v : CArray) (i j : Nat) : gringOf (putArr k v s) i j = gringOf s i j := rfl
@[simp] theorem putArr_lsOwn (k : Nat) (v : CArray) (i : Nat) : lsOwn (putArr k v s) i = lsOwn s i := rfl
@[simp] theorem putArr_lsIn (k : Nat) (v : CArray) (i : Nat) : lsIn (putArr k v s) i = lsIn s i := rfl
@[simp] theorem putArr_descBytes (k : Nat) (v : CArray) (i j l : Nat) : descBytes (putArr k v s) i j l = descBytes s i j l := rfl
@[simp] theorem putArr_svcOf (k : Nat) (v : CArray) (y : MeshSrc) : svcOf (putArr k v s) y = svcOf s y := rfl
@[simp] theorem putArr_timeNow (k : Nat) (v : CArray) : timeNow (putArr k v s)  = timeNow s := rfl

/-! ### putSess -/

@[simp] theorem putSess_pending (k : Nat) (v : Option Session) : (putSess k v s).pending = s.pending := rfl
@[simp] theorem putSess_freeCtr (k : Nat) (v : Option Session) : (putSess k v s).freeCtr = s.freeCtr := rfl
@[simp] theorem putSess_regs (k : Nat) (v : Option Session) : (putSess k v s).regs = s.regs := rfl
@[simp] theorem putSess_mem (k : Nat) (v : Option Session) : (putSess k v s).mem = s.mem := rfl
@[simp] theorem putSess_upset (k : Nat) (v : Option Session) : (putSess k v s).upset = s.upset := rfl
@[simp] theorem putSess_tags (k : Nat) (v : Option Session) : (putSess k v s).tags = s.tags := rfl
@[simp] theorem putSess_ob (k : Nat) (v : Option Session) : (putSess k v s).ob = s.ob := rfl
@[simp] theorem putSess_obBad (k : Nat) (v : Option Session) : (putSess k v s).obBad = s.obBad := rfl
@[simp] theorem putSess_hostMem (k : Nat) (v : Option Session) : (putSess k v s).hostMem = s.hostMem := rfl
@[simp] theorem putSess_peerMem (k : Nat) (v : Option Session) : (putSess k v s).peerMem = s.peerMem := rfl
@[simp] theorem putSess_stages (k : Nat) (v : Option Session) : (putSess k v s).stages = s.stages := rfl
@[simp] theorem putSess_arrays (k : Nat) (v : Option Session) : (putSess k v s).arrays = s.arrays := rfl
@[simp] theorem putSess_stands (k : Nat) (v : Option Session) : (putSess k v s).stands = s.stands := rfl
@[simp] theorem putSess_ports (k : Nat) (v : Option Session) : (putSess k v s).ports = s.ports := rfl
@[simp] theorem putSess_rings (k : Nat) (v : Option Session) : (putSess k v s).rings = s.rings := rfl
@[simp] theorem putSess_orphans (k : Nat) (v : Option Session) : (putSess k v s).orphans = s.orphans := rfl
@[simp] theorem putSess_reportSeq (k : Nat) (v : Option Session) : (putSess k v s).reportSeq = s.reportSeq := rfl
@[simp] theorem putSess_mode (k : Nat) (v : Option Session) : (putSess k v s).mode = s.mode := rfl
@[simp] theorem putSess_epoch (k : Nat) (v : Option Session) : (putSess k v s).epoch = s.epoch := rfl
@[simp] theorem putSess_tainted (k : Nat) (v : Option Session) : (putSess k v s).tainted = s.tainted := rfl
@[simp] theorem putSess_taints (k : Nat) (v : Option Session) : (putSess k v s).taints = s.taints := rfl
@[simp] theorem putSess_taintCount (k : Nat) (v : Option Session) : (putSess k v s).taintCount = s.taintCount := rfl
@[simp] theorem putSess_srKey (k : Nat) (v : Option Session) : (putSess k v s).srKey = s.srKey := rfl
@[simp] theorem putSess_lapLen (k : Nat) (v : Option Session) : (putSess k v s).lapLen = s.lapLen := rfl
@[simp] theorem putSess_traceEn (k : Nat) (v : Option Session) : (putSess k v s).traceEn = s.traceEn := rfl
@[simp] theorem putSess_traceFirst (k : Nat) (v : Option Session) : (putSess k v s).traceFirst = s.traceFirst := rfl
@[simp] theorem putSess_traceLast (k : Nat) (v : Option Session) : (putSess k v s).traceLast = s.traceLast := rfl
@[simp] theorem putSess_vtags (k : Nat) (v : Option Session) : (putSess k v s).vtags = s.vtags := rfl
@[simp] theorem putSess_links (k : Nat) (v : Option Session) : (putSess k v s).links = s.links := rfl
@[simp] theorem putSess_credits (k : Nat) (v : Option Session) : (putSess k v s).credits = s.credits := rfl
@[simp] theorem putSess_creditFly (k : Nat) (v : Option Session) : (putSess k v s).creditFly = s.creditFly := rfl
@[simp] theorem putSess_moves (k : Nat) (v : Option Session) : (putSess k v s).moves = s.moves := rfl
@[simp] theorem putSess_steers (k : Nat) (v : Option Session) : (putSess k v s).steers = s.steers := rfl
@[simp] theorem putSess_nodes (k : Nat) (v : Option Session) : (putSess k v s).nodes = s.nodes := rfl
@[simp] theorem putSess_seams (k : Nat) (v : Option Session) : (putSess k v s).seams = s.seams := rfl
@[simp] theorem putSess_memArrs (k : Nat) (v : Option Session) : (putSess k v s).memArrs = s.memArrs := rfl
@[simp] theorem putSess_taps (k : Nat) (v : Option Session) : (putSess k v s).taps = s.taps := rfl
@[simp] theorem putSess_svc (k : Nat) (v : Option Session) : (putSess k v s).svc = s.svc := rfl
@[simp] theorem putSess_svcResp (k : Nat) (v : Option Session) : (putSess k v s).svcResp = s.svcResp := rfl
@[simp] theorem putSess_svcGot (k : Nat) (v : Option Session) : (putSess k v s).svcGot = s.svcGot := rfl
@[simp] theorem putSess_svcId (k : Nat) (v : Option Session) : (putSess k v s).svcId = s.svcId := rfl
@[simp] theorem putSess_mgmtIn (k : Nat) (v : Option Session) : (putSess k v s).mgmtIn = s.mgmtIn := rfl
@[simp] theorem putSess_waits (k : Nat) (v : Option Session) : (putSess k v s).waits = s.waits := rfl
@[simp] theorem putSess_dones (k : Nat) (v : Option Session) : (putSess k v s).dones = s.dones := rfl
@[simp] theorem putSess_xbar (k : Nat) (v : Option Session) : (putSess k v s).xbar = s.xbar := rfl
@[simp] theorem putSess_turns (k : Nat) (v : Option Session) : (putSess k v s).turns = s.turns := rfl
@[simp] theorem putSess_draining (k : Nat) (v : Option Session) : (putSess k v s).draining = s.draining := rfl
@[simp] theorem putSess_drainTallies (k : Nat) (v : Option Session) : (putSess k v s).drainTallies = s.drainTallies := rfl
@[simp] theorem putSess_drainExc (k : Nat) (v : Option Session) : (putSess k v s).drainExc = s.drainExc := rfl
@[simp] theorem putSess_excSat (k : Nat) (v : Option Session) : (putSess k v s).excSat = s.excSat := rfl
@[simp] theorem putSess_image (k : Nat) (v : Option Session) : (putSess k v s).image = s.image := rfl
@[simp] theorem putSess_plan (k : Nat) (v : Option Session) : (putSess k v s).plan = s.plan := rfl
@[simp] theorem putSess_logs (k : Nat) (v : Option Session) : (putSess k v s).logs = s.logs := rfl
@[simp] theorem putSess_descs (k : Nat) (v : Option Session) : (putSess k v s).descs = s.descs := rfl
@[simp] theorem putSess_hubQs (k : Nat) (v : Option Session) : (putSess k v s).hubQs = s.hubQs := rfl
@[simp] theorem putSess_hdlStage (k : Nat) (v : Option Session) : (putSess k v s).hdlStage = s.hdlStage := rfl
@[simp] theorem putSess_dirty (k : Nat) (v : Option Session) : (putSess k v s).dirty = s.dirty := rfl
@[simp] theorem putSess_otpStage (k : Nat) (v : Option Session) : (putSess k v s).otpStage = s.otpStage := rfl
@[simp] theorem putSess_gates (k : Nat) (v : Option Session) : (putSess k v s).gates = s.gates := rfl
@[simp] theorem putSess_suOut (k : Nat) (v : Option Session) : (putSess k v s).suOut = s.suOut := rfl
@[simp] theorem putSess_arb (k : Nat) (v : Option Session) : (putSess k v s).arb = s.arb := rfl
@[simp] theorem putSess_fetchOrder (k : Nat) (v : Option Session) : (putSess k v s).fetchOrder = s.fetchOrder := rfl
@[simp] theorem putSess_decoders (k : Nat) (v : Option Session) : (putSess k v s).decoders = s.decoders := rfl
@[simp] theorem putSess_gul (k : Nat) (v : Option Session) : (putSess k v s).gul = s.gul := rfl
@[simp] theorem putSess_lsOn (k : Nat) (v : Option Session) : (putSess k v s).lsOn = s.lsOn := rfl
@[simp] theorem putSess_hbs (k : Nat) (v : Option Session) : (putSess k v s).hbs = s.hbs := rfl
@[simp] theorem putSess_snaps (k : Nat) (v : Option Session) : (putSess k v s).snaps = s.snaps := rfl
@[simp] theorem putSess_saving (k : Nat) (v : Option Session) : (putSess k v s).saving = s.saving := rfl
@[simp] theorem putSess_planSel (k : Nat) (v : Option Session) : (putSess k v s).planSel = s.planSel := rfl
@[simp] theorem putSess_planChanged (k : Nat) (v : Option Session) : (putSess k v s).planChanged = s.planChanged := rfl
@[simp] theorem putSess_reconFailed (k : Nat) (v : Option Session) : (putSess k v s).reconFailed = s.reconFailed := rfl
@[simp] theorem putSess_hostStall (k : Nat) (v : Option Session) : (putSess k v s).hostStall = s.hostStall := rfl
@[simp] theorem putSess_lapSet (k : Nat) (v : Option Session) : (putSess k v s).lapSet = s.lapSet := rfl
@[simp] theorem putSess_excBase (k : Nat) (v : Option Session) : (putSess k v s).excBase = s.excBase := rfl
@[simp] theorem putSess_sides (k : Nat) (v : Option Session) : (putSess k v s).sides = s.sides := rfl
@[simp] theorem putSess_ringClk (k : Nat) (v : Option Session) : (putSess k v s).ringClk = s.ringClk := rfl
@[simp] theorem putSess_power (k : Nat) (v : Option Session) : (putSess k v s).power = s.power := rfl
@[simp] theorem putSess_bring (k : Nat) (v : Option Session) : (putSess k v s).bring = s.bring := rfl
@[simp] theorem putSess_fuses (k : Nat) (v : Option Session) : (putSess k v s).fuses = s.fuses := rfl
@[simp] theorem putSess_fw (k : Nat) (v : Option Session) : (putSess k v s).fw = s.fw := rfl
@[simp] theorem putSess_dbg (k : Nat) (v : Option Session) : (putSess k v s).dbg = s.dbg := rfl
@[simp] theorem putSess_timeCtr (k : Nat) (v : Option Session) : (putSess k v s).timeCtr = s.timeCtr := rfl
@[simp] theorem putSess_measure5 (k : Nat) (v : Option Session) : (putSess k v s).measure5 = s.measure5 := rfl
@[simp] theorem putSess_cages (k : Nat) (v : Option Session) : (putSess k v s).cages = s.cages := rfl
@[simp] theorem putSess_shifted (k : Nat) (v : Option Session) : (putSess k v s).shifted = s.shifted := rfl
@[simp] theorem putSess_authFails (k : Nat) (v : Option Session) : (putSess k v s).authFails = s.authFails := rfl
@[simp] theorem putSess_rg (k : Nat) (v : Option Session) (i : Nat) : rg (putSess k v s) i = rg s i := rfl
@[simp] theorem putSess_rf (k : Nat) (v : Option Session) (i : Nat) (g : Fld) : rf (putSess k v s) i g = rf s i g := rfl
@[simp] theorem putSess_memByte (k : Nat) (v : Option Session) (i : Nat) : memByte (putSess k v s) i = memByte s i := rfl
@[simp] theorem putSess_tagOf (k : Nat) (v : Option Session) (i : Nat) : tagOf (putSess k v s) i = tagOf s i := rfl
@[simp] theorem putSess_portOf (k : Nat) (v : Option Session) (i : Nat) : portOf (putSess k v s) i = portOf s i := rfl
@[simp] theorem putSess_ringOf (k : Nat) (v : Option Session) (i j : Nat) : ringOf (putSess k v s) i j = ringOf s i j := rfl
@[simp] theorem putSess_standOf (k : Nat) (v : Option Session) (i : Nat) : standOf (putSess k v s) i = standOf s i := rfl
@[simp] theorem putSess_stageOf (k : Nat) (v : Option Session) (i : Nat) : stageOf (putSess k v s) i = stageOf s i := rfl
@[simp] theorem putSess_arrOf (k : Nat) (v : Option Session) (i : Nat) : arrOf (putSess k v s) i = arrOf s i := rfl
@[simp] theorem putSess_hubQOf (k : Nat) (v : Option Session) (i j : Nat) : hubQOf (putSess k v s) i j = hubQOf s i j := rfl
@[simp] theorem putSess_execOf (k : Nat) (v : Option Session) (i j : Nat) : execOf (putSess k v s) i j = execOf s i j := rfl
@[simp] theorem putSess_gateSt (k : Nat) (v : Option Session) (i j : Nat) : gateSt (putSess k v s) i j = gateSt s i j := rfl
@[simp] theorem putSess_linkOf (k : Nat) (v : Option Session) (i j l : Nat) : linkOf (putSess k v s) i j l = linkOf s i j l := rfl
@[simp] theorem putSess_creditOf (k : Nat) (v : Option Session) (i : Nat) : creditOf (putSess k v s) i = creditOf s i := rfl
@[simp] theorem putSess_steerOf (k : Nat) (v : Option Session) (i j l : Nat) : steerOf (putSess k v s) i j l = steerOf s i j l := rfl
@[simp] theorem putSess_nodeOf (k : Nat) (v : Option Session) (i j : Nat) : nodeOf (putSess k v s) i j = nodeOf s i j := rfl
@[simp] theorem putSess_seamOf (k : Nat) (v : Option Session) (i j : Nat) : seamOf (putSess k v s) i j = seamOf s i j := rfl
@[simp] theorem putSess_memArrOf (k : Nat) (v : Option Session) (i j : Nat) : memArrOf (putSess k v s) i j = memArrOf s i j := rfl
@[simp] theorem putSess_tapOf (k : Nat) (v : Option Session) (i j : Nat) : tapOf (putSess k v s) i j = tapOf s i j := rfl
@[simp] theorem putSess_logOf (k : Nat) (v : Option Session) (i : Nat) : logOf (putSess k v s) i = logOf s i := rfl
@[simp] theorem putSess_waitOf (k : Nat) (v : Option Session) (y : Waiter) : waitOf (putSess k v s) y = waitOf s y := rfl
@[simp] theorem putSess_sideOf (k : Nat) (v : Option Session) (i j : Nat) : sideOf (putSess k v s) i j = sideOf s i j := rfl
@[simp] theorem putSess_fuseOf (k : Nat) (v : Option Session) (i : Nat) : fuseOf (putSess k v s) i = fuseOf s i := rfl
@[simp] theorem putSess_gsOf (k : Nat) (v : Option Session) (i : Nat) : gsOf (putSess k v s) i = gsOf s i := rfl
@[simp] theorem putSess_gringOf (k : Nat) (v : Option Session) (i j : Nat) : gringOf (putSess k v s) i j = gringOf s i j := rfl
@[simp] theorem putSess_lsOwn (k : Nat) (v : Option Session) (i : Nat) : lsOwn (putSess k v s) i = lsOwn s i := rfl
@[simp] theorem putSess_lsIn (k : Nat) (v : Option Session) (i : Nat) : lsIn (putSess k v s) i = lsIn s i := rfl
@[simp] theorem putSess_descBytes (k : Nat) (v : Option Session) (i j l : Nat) : descBytes (putSess k v s) i j l = descBytes s i j l := rfl
@[simp] theorem putSess_svcOf (k : Nat) (v : Option Session) (y : MeshSrc) : svcOf (putSess k v s) y = svcOf s y := rfl
@[simp] theorem putSess_timeNow (k : Nat) (v : Option Session) : timeNow (putSess k v s)  = timeNow s := rfl

/-! ### putHubQ -/

@[simp] theorem putHubQ_pending (p q : Nat) (v : HubQ) : (putHubQ p q v s).pending = s.pending := rfl
@[simp] theorem putHubQ_freeCtr (p q : Nat) (v : HubQ) : (putHubQ p q v s).freeCtr = s.freeCtr := rfl
@[simp] theorem putHubQ_regs (p q : Nat) (v : HubQ) : (putHubQ p q v s).regs = s.regs := rfl
@[simp] theorem putHubQ_mem (p q : Nat) (v : HubQ) : (putHubQ p q v s).mem = s.mem := rfl
@[simp] theorem putHubQ_upset (p q : Nat) (v : HubQ) : (putHubQ p q v s).upset = s.upset := rfl
@[simp] theorem putHubQ_tags (p q : Nat) (v : HubQ) : (putHubQ p q v s).tags = s.tags := rfl
@[simp] theorem putHubQ_ob (p q : Nat) (v : HubQ) : (putHubQ p q v s).ob = s.ob := rfl
@[simp] theorem putHubQ_obBad (p q : Nat) (v : HubQ) : (putHubQ p q v s).obBad = s.obBad := rfl
@[simp] theorem putHubQ_hostMem (p q : Nat) (v : HubQ) : (putHubQ p q v s).hostMem = s.hostMem := rfl
@[simp] theorem putHubQ_peerMem (p q : Nat) (v : HubQ) : (putHubQ p q v s).peerMem = s.peerMem := rfl
@[simp] theorem putHubQ_stages (p q : Nat) (v : HubQ) : (putHubQ p q v s).stages = s.stages := rfl
@[simp] theorem putHubQ_arrays (p q : Nat) (v : HubQ) : (putHubQ p q v s).arrays = s.arrays := rfl
@[simp] theorem putHubQ_stands (p q : Nat) (v : HubQ) : (putHubQ p q v s).stands = s.stands := rfl
@[simp] theorem putHubQ_ports (p q : Nat) (v : HubQ) : (putHubQ p q v s).ports = s.ports := rfl
@[simp] theorem putHubQ_rings (p q : Nat) (v : HubQ) : (putHubQ p q v s).rings = s.rings := rfl
@[simp] theorem putHubQ_sessions (p q : Nat) (v : HubQ) : (putHubQ p q v s).sessions = s.sessions := rfl
@[simp] theorem putHubQ_orphans (p q : Nat) (v : HubQ) : (putHubQ p q v s).orphans = s.orphans := rfl
@[simp] theorem putHubQ_reportSeq (p q : Nat) (v : HubQ) : (putHubQ p q v s).reportSeq = s.reportSeq := rfl
@[simp] theorem putHubQ_mode (p q : Nat) (v : HubQ) : (putHubQ p q v s).mode = s.mode := rfl
@[simp] theorem putHubQ_epoch (p q : Nat) (v : HubQ) : (putHubQ p q v s).epoch = s.epoch := rfl
@[simp] theorem putHubQ_tainted (p q : Nat) (v : HubQ) : (putHubQ p q v s).tainted = s.tainted := rfl
@[simp] theorem putHubQ_taints (p q : Nat) (v : HubQ) : (putHubQ p q v s).taints = s.taints := rfl
@[simp] theorem putHubQ_taintCount (p q : Nat) (v : HubQ) : (putHubQ p q v s).taintCount = s.taintCount := rfl
@[simp] theorem putHubQ_srKey (p q : Nat) (v : HubQ) : (putHubQ p q v s).srKey = s.srKey := rfl
@[simp] theorem putHubQ_lapLen (p q : Nat) (v : HubQ) : (putHubQ p q v s).lapLen = s.lapLen := rfl
@[simp] theorem putHubQ_traceEn (p q : Nat) (v : HubQ) : (putHubQ p q v s).traceEn = s.traceEn := rfl
@[simp] theorem putHubQ_traceFirst (p q : Nat) (v : HubQ) : (putHubQ p q v s).traceFirst = s.traceFirst := rfl
@[simp] theorem putHubQ_traceLast (p q : Nat) (v : HubQ) : (putHubQ p q v s).traceLast = s.traceLast := rfl
@[simp] theorem putHubQ_vtags (p q : Nat) (v : HubQ) : (putHubQ p q v s).vtags = s.vtags := rfl
@[simp] theorem putHubQ_links (p q : Nat) (v : HubQ) : (putHubQ p q v s).links = s.links := rfl
@[simp] theorem putHubQ_credits (p q : Nat) (v : HubQ) : (putHubQ p q v s).credits = s.credits := rfl
@[simp] theorem putHubQ_creditFly (p q : Nat) (v : HubQ) : (putHubQ p q v s).creditFly = s.creditFly := rfl
@[simp] theorem putHubQ_moves (p q : Nat) (v : HubQ) : (putHubQ p q v s).moves = s.moves := rfl
@[simp] theorem putHubQ_steers (p q : Nat) (v : HubQ) : (putHubQ p q v s).steers = s.steers := rfl
@[simp] theorem putHubQ_nodes (p q : Nat) (v : HubQ) : (putHubQ p q v s).nodes = s.nodes := rfl
@[simp] theorem putHubQ_seams (p q : Nat) (v : HubQ) : (putHubQ p q v s).seams = s.seams := rfl
@[simp] theorem putHubQ_memArrs (p q : Nat) (v : HubQ) : (putHubQ p q v s).memArrs = s.memArrs := rfl
@[simp] theorem putHubQ_taps (p q : Nat) (v : HubQ) : (putHubQ p q v s).taps = s.taps := rfl
@[simp] theorem putHubQ_svc (p q : Nat) (v : HubQ) : (putHubQ p q v s).svc = s.svc := rfl
@[simp] theorem putHubQ_svcResp (p q : Nat) (v : HubQ) : (putHubQ p q v s).svcResp = s.svcResp := rfl
@[simp] theorem putHubQ_svcGot (p q : Nat) (v : HubQ) : (putHubQ p q v s).svcGot = s.svcGot := rfl
@[simp] theorem putHubQ_svcId (p q : Nat) (v : HubQ) : (putHubQ p q v s).svcId = s.svcId := rfl
@[simp] theorem putHubQ_mgmtIn (p q : Nat) (v : HubQ) : (putHubQ p q v s).mgmtIn = s.mgmtIn := rfl
@[simp] theorem putHubQ_waits (p q : Nat) (v : HubQ) : (putHubQ p q v s).waits = s.waits := rfl
@[simp] theorem putHubQ_dones (p q : Nat) (v : HubQ) : (putHubQ p q v s).dones = s.dones := rfl
@[simp] theorem putHubQ_xbar (p q : Nat) (v : HubQ) : (putHubQ p q v s).xbar = s.xbar := rfl
@[simp] theorem putHubQ_turns (p q : Nat) (v : HubQ) : (putHubQ p q v s).turns = s.turns := rfl
@[simp] theorem putHubQ_draining (p q : Nat) (v : HubQ) : (putHubQ p q v s).draining = s.draining := rfl
@[simp] theorem putHubQ_drainTallies (p q : Nat) (v : HubQ) : (putHubQ p q v s).drainTallies = s.drainTallies := rfl
@[simp] theorem putHubQ_drainExc (p q : Nat) (v : HubQ) : (putHubQ p q v s).drainExc = s.drainExc := rfl
@[simp] theorem putHubQ_excSat (p q : Nat) (v : HubQ) : (putHubQ p q v s).excSat = s.excSat := rfl
@[simp] theorem putHubQ_image (p q : Nat) (v : HubQ) : (putHubQ p q v s).image = s.image := rfl
@[simp] theorem putHubQ_plan (p q : Nat) (v : HubQ) : (putHubQ p q v s).plan = s.plan := rfl
@[simp] theorem putHubQ_logs (p q : Nat) (v : HubQ) : (putHubQ p q v s).logs = s.logs := rfl
@[simp] theorem putHubQ_descs (p q : Nat) (v : HubQ) : (putHubQ p q v s).descs = s.descs := rfl
@[simp] theorem putHubQ_hdlStage (p q : Nat) (v : HubQ) : (putHubQ p q v s).hdlStage = s.hdlStage := rfl
@[simp] theorem putHubQ_dirty (p q : Nat) (v : HubQ) : (putHubQ p q v s).dirty = s.dirty := rfl
@[simp] theorem putHubQ_otpStage (p q : Nat) (v : HubQ) : (putHubQ p q v s).otpStage = s.otpStage := rfl
@[simp] theorem putHubQ_gates (p q : Nat) (v : HubQ) : (putHubQ p q v s).gates = s.gates := rfl
@[simp] theorem putHubQ_suOut (p q : Nat) (v : HubQ) : (putHubQ p q v s).suOut = s.suOut := rfl
@[simp] theorem putHubQ_arb (p q : Nat) (v : HubQ) : (putHubQ p q v s).arb = s.arb := rfl
@[simp] theorem putHubQ_fetchOrder (p q : Nat) (v : HubQ) : (putHubQ p q v s).fetchOrder = s.fetchOrder := rfl
@[simp] theorem putHubQ_decoders (p q : Nat) (v : HubQ) : (putHubQ p q v s).decoders = s.decoders := rfl
@[simp] theorem putHubQ_gul (p q : Nat) (v : HubQ) : (putHubQ p q v s).gul = s.gul := rfl
@[simp] theorem putHubQ_lsOn (p q : Nat) (v : HubQ) : (putHubQ p q v s).lsOn = s.lsOn := rfl
@[simp] theorem putHubQ_hbs (p q : Nat) (v : HubQ) : (putHubQ p q v s).hbs = s.hbs := rfl
@[simp] theorem putHubQ_snaps (p q : Nat) (v : HubQ) : (putHubQ p q v s).snaps = s.snaps := rfl
@[simp] theorem putHubQ_saving (p q : Nat) (v : HubQ) : (putHubQ p q v s).saving = s.saving := rfl
@[simp] theorem putHubQ_planSel (p q : Nat) (v : HubQ) : (putHubQ p q v s).planSel = s.planSel := rfl
@[simp] theorem putHubQ_planChanged (p q : Nat) (v : HubQ) : (putHubQ p q v s).planChanged = s.planChanged := rfl
@[simp] theorem putHubQ_reconFailed (p q : Nat) (v : HubQ) : (putHubQ p q v s).reconFailed = s.reconFailed := rfl
@[simp] theorem putHubQ_hostStall (p q : Nat) (v : HubQ) : (putHubQ p q v s).hostStall = s.hostStall := rfl
@[simp] theorem putHubQ_lapSet (p q : Nat) (v : HubQ) : (putHubQ p q v s).lapSet = s.lapSet := rfl
@[simp] theorem putHubQ_excBase (p q : Nat) (v : HubQ) : (putHubQ p q v s).excBase = s.excBase := rfl
@[simp] theorem putHubQ_sides (p q : Nat) (v : HubQ) : (putHubQ p q v s).sides = s.sides := rfl
@[simp] theorem putHubQ_ringClk (p q : Nat) (v : HubQ) : (putHubQ p q v s).ringClk = s.ringClk := rfl
@[simp] theorem putHubQ_power (p q : Nat) (v : HubQ) : (putHubQ p q v s).power = s.power := rfl
@[simp] theorem putHubQ_bring (p q : Nat) (v : HubQ) : (putHubQ p q v s).bring = s.bring := rfl
@[simp] theorem putHubQ_fuses (p q : Nat) (v : HubQ) : (putHubQ p q v s).fuses = s.fuses := rfl
@[simp] theorem putHubQ_fw (p q : Nat) (v : HubQ) : (putHubQ p q v s).fw = s.fw := rfl
@[simp] theorem putHubQ_dbg (p q : Nat) (v : HubQ) : (putHubQ p q v s).dbg = s.dbg := rfl
@[simp] theorem putHubQ_timeCtr (p q : Nat) (v : HubQ) : (putHubQ p q v s).timeCtr = s.timeCtr := rfl
@[simp] theorem putHubQ_measure5 (p q : Nat) (v : HubQ) : (putHubQ p q v s).measure5 = s.measure5 := rfl
@[simp] theorem putHubQ_cages (p q : Nat) (v : HubQ) : (putHubQ p q v s).cages = s.cages := rfl
@[simp] theorem putHubQ_shifted (p q : Nat) (v : HubQ) : (putHubQ p q v s).shifted = s.shifted := rfl
@[simp] theorem putHubQ_authFails (p q : Nat) (v : HubQ) : (putHubQ p q v s).authFails = s.authFails := rfl
@[simp] theorem putHubQ_rg (p q : Nat) (v : HubQ) (i : Nat) : rg (putHubQ p q v s) i = rg s i := rfl
@[simp] theorem putHubQ_rf (p q : Nat) (v : HubQ) (i : Nat) (g : Fld) : rf (putHubQ p q v s) i g = rf s i g := rfl
@[simp] theorem putHubQ_memByte (p q : Nat) (v : HubQ) (i : Nat) : memByte (putHubQ p q v s) i = memByte s i := rfl
@[simp] theorem putHubQ_tagOf (p q : Nat) (v : HubQ) (i : Nat) : tagOf (putHubQ p q v s) i = tagOf s i := rfl
@[simp] theorem putHubQ_portOf (p q : Nat) (v : HubQ) (i : Nat) : portOf (putHubQ p q v s) i = portOf s i := rfl
@[simp] theorem putHubQ_ringOf (p q : Nat) (v : HubQ) (i j : Nat) : ringOf (putHubQ p q v s) i j = ringOf s i j := rfl
@[simp] theorem putHubQ_standOf (p q : Nat) (v : HubQ) (i : Nat) : standOf (putHubQ p q v s) i = standOf s i := rfl
@[simp] theorem putHubQ_stageOf (p q : Nat) (v : HubQ) (i : Nat) : stageOf (putHubQ p q v s) i = stageOf s i := rfl
@[simp] theorem putHubQ_arrOf (p q : Nat) (v : HubQ) (i : Nat) : arrOf (putHubQ p q v s) i = arrOf s i := rfl
@[simp] theorem putHubQ_sessOf (p q : Nat) (v : HubQ) (i : Nat) : sessOf (putHubQ p q v s) i = sessOf s i := rfl
@[simp] theorem putHubQ_gateSt (p q : Nat) (v : HubQ) (i j : Nat) : gateSt (putHubQ p q v s) i j = gateSt s i j := rfl
@[simp] theorem putHubQ_linkOf (p q : Nat) (v : HubQ) (i j l : Nat) : linkOf (putHubQ p q v s) i j l = linkOf s i j l := rfl
@[simp] theorem putHubQ_creditOf (p q : Nat) (v : HubQ) (i : Nat) : creditOf (putHubQ p q v s) i = creditOf s i := rfl
@[simp] theorem putHubQ_steerOf (p q : Nat) (v : HubQ) (i j l : Nat) : steerOf (putHubQ p q v s) i j l = steerOf s i j l := rfl
@[simp] theorem putHubQ_nodeOf (p q : Nat) (v : HubQ) (i j : Nat) : nodeOf (putHubQ p q v s) i j = nodeOf s i j := rfl
@[simp] theorem putHubQ_seamOf (p q : Nat) (v : HubQ) (i j : Nat) : seamOf (putHubQ p q v s) i j = seamOf s i j := rfl
@[simp] theorem putHubQ_memArrOf (p q : Nat) (v : HubQ) (i j : Nat) : memArrOf (putHubQ p q v s) i j = memArrOf s i j := rfl
@[simp] theorem putHubQ_tapOf (p q : Nat) (v : HubQ) (i j : Nat) : tapOf (putHubQ p q v s) i j = tapOf s i j := rfl
@[simp] theorem putHubQ_logOf (p q : Nat) (v : HubQ) (i : Nat) : logOf (putHubQ p q v s) i = logOf s i := rfl
@[simp] theorem putHubQ_waitOf (p q : Nat) (v : HubQ) (y : Waiter) : waitOf (putHubQ p q v s) y = waitOf s y := rfl
@[simp] theorem putHubQ_sideOf (p q : Nat) (v : HubQ) (i j : Nat) : sideOf (putHubQ p q v s) i j = sideOf s i j := rfl
@[simp] theorem putHubQ_fuseOf (p q : Nat) (v : HubQ) (i : Nat) : fuseOf (putHubQ p q v s) i = fuseOf s i := rfl
@[simp] theorem putHubQ_gsOf (p q : Nat) (v : HubQ) (i : Nat) : gsOf (putHubQ p q v s) i = gsOf s i := rfl
@[simp] theorem putHubQ_gringOf (p q : Nat) (v : HubQ) (i j : Nat) : gringOf (putHubQ p q v s) i j = gringOf s i j := rfl
@[simp] theorem putHubQ_lsOwn (p q : Nat) (v : HubQ) (i : Nat) : lsOwn (putHubQ p q v s) i = lsOwn s i := rfl
@[simp] theorem putHubQ_lsIn (p q : Nat) (v : HubQ) (i : Nat) : lsIn (putHubQ p q v s) i = lsIn s i := rfl
@[simp] theorem putHubQ_descBytes (p q : Nat) (v : HubQ) (i j l : Nat) : descBytes (putHubQ p q v s) i j l = descBytes s i j l := rfl
@[simp] theorem putHubQ_svcOf (p q : Nat) (v : HubQ) (y : MeshSrc) : svcOf (putHubQ p q v s) y = svcOf s y := rfl
@[simp] theorem putHubQ_timeNow (p q : Nat) (v : HubQ) : timeNow (putHubQ p q v s)  = timeNow s := rfl

/-! ### putGate -/

@[simp] theorem putGate_pending (p n v : Nat) : (putGate p n v s).pending = s.pending := rfl
@[simp] theorem putGate_freeCtr (p n v : Nat) : (putGate p n v s).freeCtr = s.freeCtr := rfl
@[simp] theorem putGate_regs (p n v : Nat) : (putGate p n v s).regs = s.regs := rfl
@[simp] theorem putGate_mem (p n v : Nat) : (putGate p n v s).mem = s.mem := rfl
@[simp] theorem putGate_upset (p n v : Nat) : (putGate p n v s).upset = s.upset := rfl
@[simp] theorem putGate_tags (p n v : Nat) : (putGate p n v s).tags = s.tags := rfl
@[simp] theorem putGate_ob (p n v : Nat) : (putGate p n v s).ob = s.ob := rfl
@[simp] theorem putGate_obBad (p n v : Nat) : (putGate p n v s).obBad = s.obBad := rfl
@[simp] theorem putGate_hostMem (p n v : Nat) : (putGate p n v s).hostMem = s.hostMem := rfl
@[simp] theorem putGate_peerMem (p n v : Nat) : (putGate p n v s).peerMem = s.peerMem := rfl
@[simp] theorem putGate_stages (p n v : Nat) : (putGate p n v s).stages = s.stages := rfl
@[simp] theorem putGate_arrays (p n v : Nat) : (putGate p n v s).arrays = s.arrays := rfl
@[simp] theorem putGate_stands (p n v : Nat) : (putGate p n v s).stands = s.stands := rfl
@[simp] theorem putGate_ports (p n v : Nat) : (putGate p n v s).ports = s.ports := rfl
@[simp] theorem putGate_rings (p n v : Nat) : (putGate p n v s).rings = s.rings := rfl
@[simp] theorem putGate_sessions (p n v : Nat) : (putGate p n v s).sessions = s.sessions := rfl
@[simp] theorem putGate_orphans (p n v : Nat) : (putGate p n v s).orphans = s.orphans := rfl
@[simp] theorem putGate_reportSeq (p n v : Nat) : (putGate p n v s).reportSeq = s.reportSeq := rfl
@[simp] theorem putGate_mode (p n v : Nat) : (putGate p n v s).mode = s.mode := rfl
@[simp] theorem putGate_epoch (p n v : Nat) : (putGate p n v s).epoch = s.epoch := rfl
@[simp] theorem putGate_tainted (p n v : Nat) : (putGate p n v s).tainted = s.tainted := rfl
@[simp] theorem putGate_taints (p n v : Nat) : (putGate p n v s).taints = s.taints := rfl
@[simp] theorem putGate_taintCount (p n v : Nat) : (putGate p n v s).taintCount = s.taintCount := rfl
@[simp] theorem putGate_srKey (p n v : Nat) : (putGate p n v s).srKey = s.srKey := rfl
@[simp] theorem putGate_lapLen (p n v : Nat) : (putGate p n v s).lapLen = s.lapLen := rfl
@[simp] theorem putGate_traceEn (p n v : Nat) : (putGate p n v s).traceEn = s.traceEn := rfl
@[simp] theorem putGate_traceFirst (p n v : Nat) : (putGate p n v s).traceFirst = s.traceFirst := rfl
@[simp] theorem putGate_traceLast (p n v : Nat) : (putGate p n v s).traceLast = s.traceLast := rfl
@[simp] theorem putGate_vtags (p n v : Nat) : (putGate p n v s).vtags = s.vtags := rfl
@[simp] theorem putGate_links (p n v : Nat) : (putGate p n v s).links = s.links := rfl
@[simp] theorem putGate_credits (p n v : Nat) : (putGate p n v s).credits = s.credits := rfl
@[simp] theorem putGate_creditFly (p n v : Nat) : (putGate p n v s).creditFly = s.creditFly := rfl
@[simp] theorem putGate_moves (p n v : Nat) : (putGate p n v s).moves = s.moves := rfl
@[simp] theorem putGate_steers (p n v : Nat) : (putGate p n v s).steers = s.steers := rfl
@[simp] theorem putGate_nodes (p n v : Nat) : (putGate p n v s).nodes = s.nodes := rfl
@[simp] theorem putGate_seams (p n v : Nat) : (putGate p n v s).seams = s.seams := rfl
@[simp] theorem putGate_memArrs (p n v : Nat) : (putGate p n v s).memArrs = s.memArrs := rfl
@[simp] theorem putGate_taps (p n v : Nat) : (putGate p n v s).taps = s.taps := rfl
@[simp] theorem putGate_svc (p n v : Nat) : (putGate p n v s).svc = s.svc := rfl
@[simp] theorem putGate_svcResp (p n v : Nat) : (putGate p n v s).svcResp = s.svcResp := rfl
@[simp] theorem putGate_svcGot (p n v : Nat) : (putGate p n v s).svcGot = s.svcGot := rfl
@[simp] theorem putGate_svcId (p n v : Nat) : (putGate p n v s).svcId = s.svcId := rfl
@[simp] theorem putGate_mgmtIn (p n v : Nat) : (putGate p n v s).mgmtIn = s.mgmtIn := rfl
@[simp] theorem putGate_waits (p n v : Nat) : (putGate p n v s).waits = s.waits := rfl
@[simp] theorem putGate_dones (p n v : Nat) : (putGate p n v s).dones = s.dones := rfl
@[simp] theorem putGate_xbar (p n v : Nat) : (putGate p n v s).xbar = s.xbar := rfl
@[simp] theorem putGate_turns (p n v : Nat) : (putGate p n v s).turns = s.turns := rfl
@[simp] theorem putGate_draining (p n v : Nat) : (putGate p n v s).draining = s.draining := rfl
@[simp] theorem putGate_drainTallies (p n v : Nat) : (putGate p n v s).drainTallies = s.drainTallies := rfl
@[simp] theorem putGate_drainExc (p n v : Nat) : (putGate p n v s).drainExc = s.drainExc := rfl
@[simp] theorem putGate_excSat (p n v : Nat) : (putGate p n v s).excSat = s.excSat := rfl
@[simp] theorem putGate_image (p n v : Nat) : (putGate p n v s).image = s.image := rfl
@[simp] theorem putGate_plan (p n v : Nat) : (putGate p n v s).plan = s.plan := rfl
@[simp] theorem putGate_logs (p n v : Nat) : (putGate p n v s).logs = s.logs := rfl
@[simp] theorem putGate_descs (p n v : Nat) : (putGate p n v s).descs = s.descs := rfl
@[simp] theorem putGate_hubQs (p n v : Nat) : (putGate p n v s).hubQs = s.hubQs := rfl
@[simp] theorem putGate_hdlStage (p n v : Nat) : (putGate p n v s).hdlStage = s.hdlStage := rfl
@[simp] theorem putGate_dirty (p n v : Nat) : (putGate p n v s).dirty = s.dirty := rfl
@[simp] theorem putGate_otpStage (p n v : Nat) : (putGate p n v s).otpStage = s.otpStage := rfl
@[simp] theorem putGate_suOut (p n v : Nat) : (putGate p n v s).suOut = s.suOut := rfl
@[simp] theorem putGate_arb (p n v : Nat) : (putGate p n v s).arb = s.arb := rfl
@[simp] theorem putGate_fetchOrder (p n v : Nat) : (putGate p n v s).fetchOrder = s.fetchOrder := rfl
@[simp] theorem putGate_decoders (p n v : Nat) : (putGate p n v s).decoders = s.decoders := rfl
@[simp] theorem putGate_gul (p n v : Nat) : (putGate p n v s).gul = s.gul := rfl
@[simp] theorem putGate_lsOn (p n v : Nat) : (putGate p n v s).lsOn = s.lsOn := rfl
@[simp] theorem putGate_hbs (p n v : Nat) : (putGate p n v s).hbs = s.hbs := rfl
@[simp] theorem putGate_snaps (p n v : Nat) : (putGate p n v s).snaps = s.snaps := rfl
@[simp] theorem putGate_saving (p n v : Nat) : (putGate p n v s).saving = s.saving := rfl
@[simp] theorem putGate_planSel (p n v : Nat) : (putGate p n v s).planSel = s.planSel := rfl
@[simp] theorem putGate_planChanged (p n v : Nat) : (putGate p n v s).planChanged = s.planChanged := rfl
@[simp] theorem putGate_reconFailed (p n v : Nat) : (putGate p n v s).reconFailed = s.reconFailed := rfl
@[simp] theorem putGate_hostStall (p n v : Nat) : (putGate p n v s).hostStall = s.hostStall := rfl
@[simp] theorem putGate_lapSet (p n v : Nat) : (putGate p n v s).lapSet = s.lapSet := rfl
@[simp] theorem putGate_excBase (p n v : Nat) : (putGate p n v s).excBase = s.excBase := rfl
@[simp] theorem putGate_sides (p n v : Nat) : (putGate p n v s).sides = s.sides := rfl
@[simp] theorem putGate_ringClk (p n v : Nat) : (putGate p n v s).ringClk = s.ringClk := rfl
@[simp] theorem putGate_power (p n v : Nat) : (putGate p n v s).power = s.power := rfl
@[simp] theorem putGate_bring (p n v : Nat) : (putGate p n v s).bring = s.bring := rfl
@[simp] theorem putGate_fuses (p n v : Nat) : (putGate p n v s).fuses = s.fuses := rfl
@[simp] theorem putGate_fw (p n v : Nat) : (putGate p n v s).fw = s.fw := rfl
@[simp] theorem putGate_dbg (p n v : Nat) : (putGate p n v s).dbg = s.dbg := rfl
@[simp] theorem putGate_timeCtr (p n v : Nat) : (putGate p n v s).timeCtr = s.timeCtr := rfl
@[simp] theorem putGate_measure5 (p n v : Nat) : (putGate p n v s).measure5 = s.measure5 := rfl
@[simp] theorem putGate_cages (p n v : Nat) : (putGate p n v s).cages = s.cages := rfl
@[simp] theorem putGate_shifted (p n v : Nat) : (putGate p n v s).shifted = s.shifted := rfl
@[simp] theorem putGate_authFails (p n v : Nat) : (putGate p n v s).authFails = s.authFails := rfl
@[simp] theorem putGate_rg (p n v : Nat) (i : Nat) : rg (putGate p n v s) i = rg s i := rfl
@[simp] theorem putGate_rf (p n v : Nat) (i : Nat) (g : Fld) : rf (putGate p n v s) i g = rf s i g := rfl
@[simp] theorem putGate_memByte (p n v : Nat) (i : Nat) : memByte (putGate p n v s) i = memByte s i := rfl
@[simp] theorem putGate_tagOf (p n v : Nat) (i : Nat) : tagOf (putGate p n v s) i = tagOf s i := rfl
@[simp] theorem putGate_portOf (p n v : Nat) (i : Nat) : portOf (putGate p n v s) i = portOf s i := rfl
@[simp] theorem putGate_ringOf (p n v : Nat) (i j : Nat) : ringOf (putGate p n v s) i j = ringOf s i j := rfl
@[simp] theorem putGate_standOf (p n v : Nat) (i : Nat) : standOf (putGate p n v s) i = standOf s i := rfl
@[simp] theorem putGate_stageOf (p n v : Nat) (i : Nat) : stageOf (putGate p n v s) i = stageOf s i := rfl
@[simp] theorem putGate_arrOf (p n v : Nat) (i : Nat) : arrOf (putGate p n v s) i = arrOf s i := rfl
@[simp] theorem putGate_sessOf (p n v : Nat) (i : Nat) : sessOf (putGate p n v s) i = sessOf s i := rfl
@[simp] theorem putGate_hubQOf (p n v : Nat) (i j : Nat) : hubQOf (putGate p n v s) i j = hubQOf s i j := rfl
@[simp] theorem putGate_execOf (p n v : Nat) (i j : Nat) : execOf (putGate p n v s) i j = execOf s i j := rfl
@[simp] theorem putGate_linkOf (p n v : Nat) (i j l : Nat) : linkOf (putGate p n v s) i j l = linkOf s i j l := rfl
@[simp] theorem putGate_creditOf (p n v : Nat) (i : Nat) : creditOf (putGate p n v s) i = creditOf s i := rfl
@[simp] theorem putGate_steerOf (p n v : Nat) (i j l : Nat) : steerOf (putGate p n v s) i j l = steerOf s i j l := rfl
@[simp] theorem putGate_nodeOf (p n v : Nat) (i j : Nat) : nodeOf (putGate p n v s) i j = nodeOf s i j := rfl
@[simp] theorem putGate_seamOf (p n v : Nat) (i j : Nat) : seamOf (putGate p n v s) i j = seamOf s i j := rfl
@[simp] theorem putGate_memArrOf (p n v : Nat) (i j : Nat) : memArrOf (putGate p n v s) i j = memArrOf s i j := rfl
@[simp] theorem putGate_tapOf (p n v : Nat) (i j : Nat) : tapOf (putGate p n v s) i j = tapOf s i j := rfl
@[simp] theorem putGate_logOf (p n v : Nat) (i : Nat) : logOf (putGate p n v s) i = logOf s i := rfl
@[simp] theorem putGate_waitOf (p n v : Nat) (y : Waiter) : waitOf (putGate p n v s) y = waitOf s y := rfl
@[simp] theorem putGate_sideOf (p n v : Nat) (i j : Nat) : sideOf (putGate p n v s) i j = sideOf s i j := rfl
@[simp] theorem putGate_fuseOf (p n v : Nat) (i : Nat) : fuseOf (putGate p n v s) i = fuseOf s i := rfl
@[simp] theorem putGate_gsOf (p n v : Nat) (i : Nat) : gsOf (putGate p n v s) i = gsOf s i := rfl
@[simp] theorem putGate_gringOf (p n v : Nat) (i j : Nat) : gringOf (putGate p n v s) i j = gringOf s i j := rfl
@[simp] theorem putGate_lsOwn (p n v : Nat) (i : Nat) : lsOwn (putGate p n v s) i = lsOwn s i := rfl
@[simp] theorem putGate_lsIn (p n v : Nat) (i : Nat) : lsIn (putGate p n v s) i = lsIn s i := rfl
@[simp] theorem putGate_descBytes (p n v : Nat) (i j l : Nat) : descBytes (putGate p n v s) i j l = descBytes s i j l := rfl
@[simp] theorem putGate_svcOf (p n v : Nat) (y : MeshSrc) : svcOf (putGate p n v s) y = svcOf s y := rfl
@[simp] theorem putGate_timeNow (p n v : Nat) : timeNow (putGate p n v s)  = timeNow s := rfl

/-! ### putLink -/

@[simp] theorem putLink_pending (p n d : Nat) (v : LinkIn) : (putLink p n d v s).pending = s.pending := rfl
@[simp] theorem putLink_freeCtr (p n d : Nat) (v : LinkIn) : (putLink p n d v s).freeCtr = s.freeCtr := rfl
@[simp] theorem putLink_regs (p n d : Nat) (v : LinkIn) : (putLink p n d v s).regs = s.regs := rfl
@[simp] theorem putLink_mem (p n d : Nat) (v : LinkIn) : (putLink p n d v s).mem = s.mem := rfl
@[simp] theorem putLink_upset (p n d : Nat) (v : LinkIn) : (putLink p n d v s).upset = s.upset := rfl
@[simp] theorem putLink_tags (p n d : Nat) (v : LinkIn) : (putLink p n d v s).tags = s.tags := rfl
@[simp] theorem putLink_ob (p n d : Nat) (v : LinkIn) : (putLink p n d v s).ob = s.ob := rfl
@[simp] theorem putLink_obBad (p n d : Nat) (v : LinkIn) : (putLink p n d v s).obBad = s.obBad := rfl
@[simp] theorem putLink_hostMem (p n d : Nat) (v : LinkIn) : (putLink p n d v s).hostMem = s.hostMem := rfl
@[simp] theorem putLink_peerMem (p n d : Nat) (v : LinkIn) : (putLink p n d v s).peerMem = s.peerMem := rfl
@[simp] theorem putLink_stages (p n d : Nat) (v : LinkIn) : (putLink p n d v s).stages = s.stages := rfl
@[simp] theorem putLink_arrays (p n d : Nat) (v : LinkIn) : (putLink p n d v s).arrays = s.arrays := rfl
@[simp] theorem putLink_stands (p n d : Nat) (v : LinkIn) : (putLink p n d v s).stands = s.stands := rfl
@[simp] theorem putLink_ports (p n d : Nat) (v : LinkIn) : (putLink p n d v s).ports = s.ports := rfl
@[simp] theorem putLink_rings (p n d : Nat) (v : LinkIn) : (putLink p n d v s).rings = s.rings := rfl
@[simp] theorem putLink_sessions (p n d : Nat) (v : LinkIn) : (putLink p n d v s).sessions = s.sessions := rfl
@[simp] theorem putLink_orphans (p n d : Nat) (v : LinkIn) : (putLink p n d v s).orphans = s.orphans := rfl
@[simp] theorem putLink_reportSeq (p n d : Nat) (v : LinkIn) : (putLink p n d v s).reportSeq = s.reportSeq := rfl
@[simp] theorem putLink_mode (p n d : Nat) (v : LinkIn) : (putLink p n d v s).mode = s.mode := rfl
@[simp] theorem putLink_epoch (p n d : Nat) (v : LinkIn) : (putLink p n d v s).epoch = s.epoch := rfl
@[simp] theorem putLink_tainted (p n d : Nat) (v : LinkIn) : (putLink p n d v s).tainted = s.tainted := rfl
@[simp] theorem putLink_taints (p n d : Nat) (v : LinkIn) : (putLink p n d v s).taints = s.taints := rfl
@[simp] theorem putLink_taintCount (p n d : Nat) (v : LinkIn) : (putLink p n d v s).taintCount = s.taintCount := rfl
@[simp] theorem putLink_srKey (p n d : Nat) (v : LinkIn) : (putLink p n d v s).srKey = s.srKey := rfl
@[simp] theorem putLink_lapLen (p n d : Nat) (v : LinkIn) : (putLink p n d v s).lapLen = s.lapLen := rfl
@[simp] theorem putLink_traceEn (p n d : Nat) (v : LinkIn) : (putLink p n d v s).traceEn = s.traceEn := rfl
@[simp] theorem putLink_traceFirst (p n d : Nat) (v : LinkIn) : (putLink p n d v s).traceFirst = s.traceFirst := rfl
@[simp] theorem putLink_traceLast (p n d : Nat) (v : LinkIn) : (putLink p n d v s).traceLast = s.traceLast := rfl
@[simp] theorem putLink_vtags (p n d : Nat) (v : LinkIn) : (putLink p n d v s).vtags = s.vtags := rfl
@[simp] theorem putLink_credits (p n d : Nat) (v : LinkIn) : (putLink p n d v s).credits = s.credits := rfl
@[simp] theorem putLink_creditFly (p n d : Nat) (v : LinkIn) : (putLink p n d v s).creditFly = s.creditFly := rfl
@[simp] theorem putLink_moves (p n d : Nat) (v : LinkIn) : (putLink p n d v s).moves = s.moves := rfl
@[simp] theorem putLink_steers (p n d : Nat) (v : LinkIn) : (putLink p n d v s).steers = s.steers := rfl
@[simp] theorem putLink_nodes (p n d : Nat) (v : LinkIn) : (putLink p n d v s).nodes = s.nodes := rfl
@[simp] theorem putLink_seams (p n d : Nat) (v : LinkIn) : (putLink p n d v s).seams = s.seams := rfl
@[simp] theorem putLink_memArrs (p n d : Nat) (v : LinkIn) : (putLink p n d v s).memArrs = s.memArrs := rfl
@[simp] theorem putLink_taps (p n d : Nat) (v : LinkIn) : (putLink p n d v s).taps = s.taps := rfl
@[simp] theorem putLink_svc (p n d : Nat) (v : LinkIn) : (putLink p n d v s).svc = s.svc := rfl
@[simp] theorem putLink_svcResp (p n d : Nat) (v : LinkIn) : (putLink p n d v s).svcResp = s.svcResp := rfl
@[simp] theorem putLink_svcGot (p n d : Nat) (v : LinkIn) : (putLink p n d v s).svcGot = s.svcGot := rfl
@[simp] theorem putLink_svcId (p n d : Nat) (v : LinkIn) : (putLink p n d v s).svcId = s.svcId := rfl
@[simp] theorem putLink_mgmtIn (p n d : Nat) (v : LinkIn) : (putLink p n d v s).mgmtIn = s.mgmtIn := rfl
@[simp] theorem putLink_waits (p n d : Nat) (v : LinkIn) : (putLink p n d v s).waits = s.waits := rfl
@[simp] theorem putLink_dones (p n d : Nat) (v : LinkIn) : (putLink p n d v s).dones = s.dones := rfl
@[simp] theorem putLink_xbar (p n d : Nat) (v : LinkIn) : (putLink p n d v s).xbar = s.xbar := rfl
@[simp] theorem putLink_turns (p n d : Nat) (v : LinkIn) : (putLink p n d v s).turns = s.turns := rfl
@[simp] theorem putLink_draining (p n d : Nat) (v : LinkIn) : (putLink p n d v s).draining = s.draining := rfl
@[simp] theorem putLink_drainTallies (p n d : Nat) (v : LinkIn) : (putLink p n d v s).drainTallies = s.drainTallies := rfl
@[simp] theorem putLink_drainExc (p n d : Nat) (v : LinkIn) : (putLink p n d v s).drainExc = s.drainExc := rfl
@[simp] theorem putLink_excSat (p n d : Nat) (v : LinkIn) : (putLink p n d v s).excSat = s.excSat := rfl
@[simp] theorem putLink_image (p n d : Nat) (v : LinkIn) : (putLink p n d v s).image = s.image := rfl
@[simp] theorem putLink_plan (p n d : Nat) (v : LinkIn) : (putLink p n d v s).plan = s.plan := rfl
@[simp] theorem putLink_logs (p n d : Nat) (v : LinkIn) : (putLink p n d v s).logs = s.logs := rfl
@[simp] theorem putLink_descs (p n d : Nat) (v : LinkIn) : (putLink p n d v s).descs = s.descs := rfl
@[simp] theorem putLink_hubQs (p n d : Nat) (v : LinkIn) : (putLink p n d v s).hubQs = s.hubQs := rfl
@[simp] theorem putLink_hdlStage (p n d : Nat) (v : LinkIn) : (putLink p n d v s).hdlStage = s.hdlStage := rfl
@[simp] theorem putLink_dirty (p n d : Nat) (v : LinkIn) : (putLink p n d v s).dirty = s.dirty := rfl
@[simp] theorem putLink_otpStage (p n d : Nat) (v : LinkIn) : (putLink p n d v s).otpStage = s.otpStage := rfl
@[simp] theorem putLink_gates (p n d : Nat) (v : LinkIn) : (putLink p n d v s).gates = s.gates := rfl
@[simp] theorem putLink_suOut (p n d : Nat) (v : LinkIn) : (putLink p n d v s).suOut = s.suOut := rfl
@[simp] theorem putLink_arb (p n d : Nat) (v : LinkIn) : (putLink p n d v s).arb = s.arb := rfl
@[simp] theorem putLink_fetchOrder (p n d : Nat) (v : LinkIn) : (putLink p n d v s).fetchOrder = s.fetchOrder := rfl
@[simp] theorem putLink_decoders (p n d : Nat) (v : LinkIn) : (putLink p n d v s).decoders = s.decoders := rfl
@[simp] theorem putLink_gul (p n d : Nat) (v : LinkIn) : (putLink p n d v s).gul = s.gul := rfl
@[simp] theorem putLink_lsOn (p n d : Nat) (v : LinkIn) : (putLink p n d v s).lsOn = s.lsOn := rfl
@[simp] theorem putLink_hbs (p n d : Nat) (v : LinkIn) : (putLink p n d v s).hbs = s.hbs := rfl
@[simp] theorem putLink_snaps (p n d : Nat) (v : LinkIn) : (putLink p n d v s).snaps = s.snaps := rfl
@[simp] theorem putLink_saving (p n d : Nat) (v : LinkIn) : (putLink p n d v s).saving = s.saving := rfl
@[simp] theorem putLink_planSel (p n d : Nat) (v : LinkIn) : (putLink p n d v s).planSel = s.planSel := rfl
@[simp] theorem putLink_planChanged (p n d : Nat) (v : LinkIn) : (putLink p n d v s).planChanged = s.planChanged := rfl
@[simp] theorem putLink_reconFailed (p n d : Nat) (v : LinkIn) : (putLink p n d v s).reconFailed = s.reconFailed := rfl
@[simp] theorem putLink_hostStall (p n d : Nat) (v : LinkIn) : (putLink p n d v s).hostStall = s.hostStall := rfl
@[simp] theorem putLink_lapSet (p n d : Nat) (v : LinkIn) : (putLink p n d v s).lapSet = s.lapSet := rfl
@[simp] theorem putLink_excBase (p n d : Nat) (v : LinkIn) : (putLink p n d v s).excBase = s.excBase := rfl
@[simp] theorem putLink_sides (p n d : Nat) (v : LinkIn) : (putLink p n d v s).sides = s.sides := rfl
@[simp] theorem putLink_ringClk (p n d : Nat) (v : LinkIn) : (putLink p n d v s).ringClk = s.ringClk := rfl
@[simp] theorem putLink_power (p n d : Nat) (v : LinkIn) : (putLink p n d v s).power = s.power := rfl
@[simp] theorem putLink_bring (p n d : Nat) (v : LinkIn) : (putLink p n d v s).bring = s.bring := rfl
@[simp] theorem putLink_fuses (p n d : Nat) (v : LinkIn) : (putLink p n d v s).fuses = s.fuses := rfl
@[simp] theorem putLink_fw (p n d : Nat) (v : LinkIn) : (putLink p n d v s).fw = s.fw := rfl
@[simp] theorem putLink_dbg (p n d : Nat) (v : LinkIn) : (putLink p n d v s).dbg = s.dbg := rfl
@[simp] theorem putLink_timeCtr (p n d : Nat) (v : LinkIn) : (putLink p n d v s).timeCtr = s.timeCtr := rfl
@[simp] theorem putLink_measure5 (p n d : Nat) (v : LinkIn) : (putLink p n d v s).measure5 = s.measure5 := rfl
@[simp] theorem putLink_cages (p n d : Nat) (v : LinkIn) : (putLink p n d v s).cages = s.cages := rfl
@[simp] theorem putLink_shifted (p n d : Nat) (v : LinkIn) : (putLink p n d v s).shifted = s.shifted := rfl
@[simp] theorem putLink_authFails (p n d : Nat) (v : LinkIn) : (putLink p n d v s).authFails = s.authFails := rfl
@[simp] theorem putLink_rg (p n d : Nat) (v : LinkIn) (i : Nat) : rg (putLink p n d v s) i = rg s i := rfl
@[simp] theorem putLink_rf (p n d : Nat) (v : LinkIn) (i : Nat) (g : Fld) : rf (putLink p n d v s) i g = rf s i g := rfl
@[simp] theorem putLink_memByte (p n d : Nat) (v : LinkIn) (i : Nat) : memByte (putLink p n d v s) i = memByte s i := rfl
@[simp] theorem putLink_tagOf (p n d : Nat) (v : LinkIn) (i : Nat) : tagOf (putLink p n d v s) i = tagOf s i := rfl
@[simp] theorem putLink_portOf (p n d : Nat) (v : LinkIn) (i : Nat) : portOf (putLink p n d v s) i = portOf s i := rfl
@[simp] theorem putLink_ringOf (p n d : Nat) (v : LinkIn) (i j : Nat) : ringOf (putLink p n d v s) i j = ringOf s i j := rfl
@[simp] theorem putLink_standOf (p n d : Nat) (v : LinkIn) (i : Nat) : standOf (putLink p n d v s) i = standOf s i := rfl
@[simp] theorem putLink_stageOf (p n d : Nat) (v : LinkIn) (i : Nat) : stageOf (putLink p n d v s) i = stageOf s i := rfl
@[simp] theorem putLink_arrOf (p n d : Nat) (v : LinkIn) (i : Nat) : arrOf (putLink p n d v s) i = arrOf s i := rfl
@[simp] theorem putLink_sessOf (p n d : Nat) (v : LinkIn) (i : Nat) : sessOf (putLink p n d v s) i = sessOf s i := rfl
@[simp] theorem putLink_hubQOf (p n d : Nat) (v : LinkIn) (i j : Nat) : hubQOf (putLink p n d v s) i j = hubQOf s i j := rfl
@[simp] theorem putLink_execOf (p n d : Nat) (v : LinkIn) (i j : Nat) : execOf (putLink p n d v s) i j = execOf s i j := rfl
@[simp] theorem putLink_gateSt (p n d : Nat) (v : LinkIn) (i j : Nat) : gateSt (putLink p n d v s) i j = gateSt s i j := rfl
@[simp] theorem putLink_creditOf (p n d : Nat) (v : LinkIn) (i : Nat) : creditOf (putLink p n d v s) i = creditOf s i := rfl
@[simp] theorem putLink_steerOf (p n d : Nat) (v : LinkIn) (i j l : Nat) : steerOf (putLink p n d v s) i j l = steerOf s i j l := rfl
@[simp] theorem putLink_nodeOf (p n d : Nat) (v : LinkIn) (i j : Nat) : nodeOf (putLink p n d v s) i j = nodeOf s i j := rfl
@[simp] theorem putLink_seamOf (p n d : Nat) (v : LinkIn) (i j : Nat) : seamOf (putLink p n d v s) i j = seamOf s i j := rfl
@[simp] theorem putLink_memArrOf (p n d : Nat) (v : LinkIn) (i j : Nat) : memArrOf (putLink p n d v s) i j = memArrOf s i j := rfl
@[simp] theorem putLink_tapOf (p n d : Nat) (v : LinkIn) (i j : Nat) : tapOf (putLink p n d v s) i j = tapOf s i j := rfl
@[simp] theorem putLink_logOf (p n d : Nat) (v : LinkIn) (i : Nat) : logOf (putLink p n d v s) i = logOf s i := rfl
@[simp] theorem putLink_waitOf (p n d : Nat) (v : LinkIn) (y : Waiter) : waitOf (putLink p n d v s) y = waitOf s y := rfl
@[simp] theorem putLink_sideOf (p n d : Nat) (v : LinkIn) (i j : Nat) : sideOf (putLink p n d v s) i j = sideOf s i j := rfl
@[simp] theorem putLink_fuseOf (p n d : Nat) (v : LinkIn) (i : Nat) : fuseOf (putLink p n d v s) i = fuseOf s i := rfl
@[simp] theorem putLink_gsOf (p n d : Nat) (v : LinkIn) (i : Nat) : gsOf (putLink p n d v s) i = gsOf s i := rfl
@[simp] theorem putLink_gringOf (p n d : Nat) (v : LinkIn) (i j : Nat) : gringOf (putLink p n d v s) i j = gringOf s i j := rfl
@[simp] theorem putLink_lsOwn (p n d : Nat) (v : LinkIn) (i : Nat) : lsOwn (putLink p n d v s) i = lsOwn s i := rfl
@[simp] theorem putLink_lsIn (p n d : Nat) (v : LinkIn) (i : Nat) : lsIn (putLink p n d v s) i = lsIn s i := rfl
@[simp] theorem putLink_descBytes (p n d : Nat) (v : LinkIn) (i j l : Nat) : descBytes (putLink p n d v s) i j l = descBytes s i j l := rfl
@[simp] theorem putLink_svcOf (p n d : Nat) (v : LinkIn) (y : MeshSrc) : svcOf (putLink p n d v s) y = svcOf s y := rfl
@[simp] theorem putLink_timeNow (p n d : Nat) (v : LinkIn) : timeNow (putLink p n d v s)  = timeNow s := rfl

/-! ### putCredit -/

@[simp] theorem putCredit_pending (c v : Nat) : (putCredit c v s).pending = s.pending := rfl
@[simp] theorem putCredit_freeCtr (c v : Nat) : (putCredit c v s).freeCtr = s.freeCtr := rfl
@[simp] theorem putCredit_regs (c v : Nat) : (putCredit c v s).regs = s.regs := rfl
@[simp] theorem putCredit_mem (c v : Nat) : (putCredit c v s).mem = s.mem := rfl
@[simp] theorem putCredit_upset (c v : Nat) : (putCredit c v s).upset = s.upset := rfl
@[simp] theorem putCredit_tags (c v : Nat) : (putCredit c v s).tags = s.tags := rfl
@[simp] theorem putCredit_ob (c v : Nat) : (putCredit c v s).ob = s.ob := rfl
@[simp] theorem putCredit_obBad (c v : Nat) : (putCredit c v s).obBad = s.obBad := rfl
@[simp] theorem putCredit_hostMem (c v : Nat) : (putCredit c v s).hostMem = s.hostMem := rfl
@[simp] theorem putCredit_peerMem (c v : Nat) : (putCredit c v s).peerMem = s.peerMem := rfl
@[simp] theorem putCredit_stages (c v : Nat) : (putCredit c v s).stages = s.stages := rfl
@[simp] theorem putCredit_arrays (c v : Nat) : (putCredit c v s).arrays = s.arrays := rfl
@[simp] theorem putCredit_stands (c v : Nat) : (putCredit c v s).stands = s.stands := rfl
@[simp] theorem putCredit_ports (c v : Nat) : (putCredit c v s).ports = s.ports := rfl
@[simp] theorem putCredit_rings (c v : Nat) : (putCredit c v s).rings = s.rings := rfl
@[simp] theorem putCredit_sessions (c v : Nat) : (putCredit c v s).sessions = s.sessions := rfl
@[simp] theorem putCredit_orphans (c v : Nat) : (putCredit c v s).orphans = s.orphans := rfl
@[simp] theorem putCredit_reportSeq (c v : Nat) : (putCredit c v s).reportSeq = s.reportSeq := rfl
@[simp] theorem putCredit_mode (c v : Nat) : (putCredit c v s).mode = s.mode := rfl
@[simp] theorem putCredit_epoch (c v : Nat) : (putCredit c v s).epoch = s.epoch := rfl
@[simp] theorem putCredit_tainted (c v : Nat) : (putCredit c v s).tainted = s.tainted := rfl
@[simp] theorem putCredit_taints (c v : Nat) : (putCredit c v s).taints = s.taints := rfl
@[simp] theorem putCredit_taintCount (c v : Nat) : (putCredit c v s).taintCount = s.taintCount := rfl
@[simp] theorem putCredit_srKey (c v : Nat) : (putCredit c v s).srKey = s.srKey := rfl
@[simp] theorem putCredit_lapLen (c v : Nat) : (putCredit c v s).lapLen = s.lapLen := rfl
@[simp] theorem putCredit_traceEn (c v : Nat) : (putCredit c v s).traceEn = s.traceEn := rfl
@[simp] theorem putCredit_traceFirst (c v : Nat) : (putCredit c v s).traceFirst = s.traceFirst := rfl
@[simp] theorem putCredit_traceLast (c v : Nat) : (putCredit c v s).traceLast = s.traceLast := rfl
@[simp] theorem putCredit_vtags (c v : Nat) : (putCredit c v s).vtags = s.vtags := rfl
@[simp] theorem putCredit_links (c v : Nat) : (putCredit c v s).links = s.links := rfl
@[simp] theorem putCredit_creditFly (c v : Nat) : (putCredit c v s).creditFly = s.creditFly := rfl
@[simp] theorem putCredit_moves (c v : Nat) : (putCredit c v s).moves = s.moves := rfl
@[simp] theorem putCredit_steers (c v : Nat) : (putCredit c v s).steers = s.steers := rfl
@[simp] theorem putCredit_nodes (c v : Nat) : (putCredit c v s).nodes = s.nodes := rfl
@[simp] theorem putCredit_seams (c v : Nat) : (putCredit c v s).seams = s.seams := rfl
@[simp] theorem putCredit_memArrs (c v : Nat) : (putCredit c v s).memArrs = s.memArrs := rfl
@[simp] theorem putCredit_taps (c v : Nat) : (putCredit c v s).taps = s.taps := rfl
@[simp] theorem putCredit_svc (c v : Nat) : (putCredit c v s).svc = s.svc := rfl
@[simp] theorem putCredit_svcResp (c v : Nat) : (putCredit c v s).svcResp = s.svcResp := rfl
@[simp] theorem putCredit_svcGot (c v : Nat) : (putCredit c v s).svcGot = s.svcGot := rfl
@[simp] theorem putCredit_svcId (c v : Nat) : (putCredit c v s).svcId = s.svcId := rfl
@[simp] theorem putCredit_mgmtIn (c v : Nat) : (putCredit c v s).mgmtIn = s.mgmtIn := rfl
@[simp] theorem putCredit_waits (c v : Nat) : (putCredit c v s).waits = s.waits := rfl
@[simp] theorem putCredit_dones (c v : Nat) : (putCredit c v s).dones = s.dones := rfl
@[simp] theorem putCredit_xbar (c v : Nat) : (putCredit c v s).xbar = s.xbar := rfl
@[simp] theorem putCredit_turns (c v : Nat) : (putCredit c v s).turns = s.turns := rfl
@[simp] theorem putCredit_draining (c v : Nat) : (putCredit c v s).draining = s.draining := rfl
@[simp] theorem putCredit_drainTallies (c v : Nat) : (putCredit c v s).drainTallies = s.drainTallies := rfl
@[simp] theorem putCredit_drainExc (c v : Nat) : (putCredit c v s).drainExc = s.drainExc := rfl
@[simp] theorem putCredit_excSat (c v : Nat) : (putCredit c v s).excSat = s.excSat := rfl
@[simp] theorem putCredit_image (c v : Nat) : (putCredit c v s).image = s.image := rfl
@[simp] theorem putCredit_plan (c v : Nat) : (putCredit c v s).plan = s.plan := rfl
@[simp] theorem putCredit_logs (c v : Nat) : (putCredit c v s).logs = s.logs := rfl
@[simp] theorem putCredit_descs (c v : Nat) : (putCredit c v s).descs = s.descs := rfl
@[simp] theorem putCredit_hubQs (c v : Nat) : (putCredit c v s).hubQs = s.hubQs := rfl
@[simp] theorem putCredit_hdlStage (c v : Nat) : (putCredit c v s).hdlStage = s.hdlStage := rfl
@[simp] theorem putCredit_dirty (c v : Nat) : (putCredit c v s).dirty = s.dirty := rfl
@[simp] theorem putCredit_otpStage (c v : Nat) : (putCredit c v s).otpStage = s.otpStage := rfl
@[simp] theorem putCredit_gates (c v : Nat) : (putCredit c v s).gates = s.gates := rfl
@[simp] theorem putCredit_suOut (c v : Nat) : (putCredit c v s).suOut = s.suOut := rfl
@[simp] theorem putCredit_arb (c v : Nat) : (putCredit c v s).arb = s.arb := rfl
@[simp] theorem putCredit_fetchOrder (c v : Nat) : (putCredit c v s).fetchOrder = s.fetchOrder := rfl
@[simp] theorem putCredit_decoders (c v : Nat) : (putCredit c v s).decoders = s.decoders := rfl
@[simp] theorem putCredit_gul (c v : Nat) : (putCredit c v s).gul = s.gul := rfl
@[simp] theorem putCredit_lsOn (c v : Nat) : (putCredit c v s).lsOn = s.lsOn := rfl
@[simp] theorem putCredit_hbs (c v : Nat) : (putCredit c v s).hbs = s.hbs := rfl
@[simp] theorem putCredit_snaps (c v : Nat) : (putCredit c v s).snaps = s.snaps := rfl
@[simp] theorem putCredit_saving (c v : Nat) : (putCredit c v s).saving = s.saving := rfl
@[simp] theorem putCredit_planSel (c v : Nat) : (putCredit c v s).planSel = s.planSel := rfl
@[simp] theorem putCredit_planChanged (c v : Nat) : (putCredit c v s).planChanged = s.planChanged := rfl
@[simp] theorem putCredit_reconFailed (c v : Nat) : (putCredit c v s).reconFailed = s.reconFailed := rfl
@[simp] theorem putCredit_hostStall (c v : Nat) : (putCredit c v s).hostStall = s.hostStall := rfl
@[simp] theorem putCredit_lapSet (c v : Nat) : (putCredit c v s).lapSet = s.lapSet := rfl
@[simp] theorem putCredit_excBase (c v : Nat) : (putCredit c v s).excBase = s.excBase := rfl
@[simp] theorem putCredit_sides (c v : Nat) : (putCredit c v s).sides = s.sides := rfl
@[simp] theorem putCredit_ringClk (c v : Nat) : (putCredit c v s).ringClk = s.ringClk := rfl
@[simp] theorem putCredit_power (c v : Nat) : (putCredit c v s).power = s.power := rfl
@[simp] theorem putCredit_bring (c v : Nat) : (putCredit c v s).bring = s.bring := rfl
@[simp] theorem putCredit_fuses (c v : Nat) : (putCredit c v s).fuses = s.fuses := rfl
@[simp] theorem putCredit_fw (c v : Nat) : (putCredit c v s).fw = s.fw := rfl
@[simp] theorem putCredit_dbg (c v : Nat) : (putCredit c v s).dbg = s.dbg := rfl
@[simp] theorem putCredit_timeCtr (c v : Nat) : (putCredit c v s).timeCtr = s.timeCtr := rfl
@[simp] theorem putCredit_measure5 (c v : Nat) : (putCredit c v s).measure5 = s.measure5 := rfl
@[simp] theorem putCredit_cages (c v : Nat) : (putCredit c v s).cages = s.cages := rfl
@[simp] theorem putCredit_shifted (c v : Nat) : (putCredit c v s).shifted = s.shifted := rfl
@[simp] theorem putCredit_authFails (c v : Nat) : (putCredit c v s).authFails = s.authFails := rfl
@[simp] theorem putCredit_rg (c v : Nat) (i : Nat) : rg (putCredit c v s) i = rg s i := rfl
@[simp] theorem putCredit_rf (c v : Nat) (i : Nat) (g : Fld) : rf (putCredit c v s) i g = rf s i g := rfl
@[simp] theorem putCredit_memByte (c v : Nat) (i : Nat) : memByte (putCredit c v s) i = memByte s i := rfl
@[simp] theorem putCredit_tagOf (c v : Nat) (i : Nat) : tagOf (putCredit c v s) i = tagOf s i := rfl
@[simp] theorem putCredit_portOf (c v : Nat) (i : Nat) : portOf (putCredit c v s) i = portOf s i := rfl
@[simp] theorem putCredit_ringOf (c v : Nat) (i j : Nat) : ringOf (putCredit c v s) i j = ringOf s i j := rfl
@[simp] theorem putCredit_standOf (c v : Nat) (i : Nat) : standOf (putCredit c v s) i = standOf s i := rfl
@[simp] theorem putCredit_stageOf (c v : Nat) (i : Nat) : stageOf (putCredit c v s) i = stageOf s i := rfl
@[simp] theorem putCredit_arrOf (c v : Nat) (i : Nat) : arrOf (putCredit c v s) i = arrOf s i := rfl
@[simp] theorem putCredit_sessOf (c v : Nat) (i : Nat) : sessOf (putCredit c v s) i = sessOf s i := rfl
@[simp] theorem putCredit_hubQOf (c v : Nat) (i j : Nat) : hubQOf (putCredit c v s) i j = hubQOf s i j := rfl
@[simp] theorem putCredit_execOf (c v : Nat) (i j : Nat) : execOf (putCredit c v s) i j = execOf s i j := rfl
@[simp] theorem putCredit_gateSt (c v : Nat) (i j : Nat) : gateSt (putCredit c v s) i j = gateSt s i j := rfl
@[simp] theorem putCredit_linkOf (c v : Nat) (i j l : Nat) : linkOf (putCredit c v s) i j l = linkOf s i j l := rfl
@[simp] theorem putCredit_steerOf (c v : Nat) (i j l : Nat) : steerOf (putCredit c v s) i j l = steerOf s i j l := rfl
@[simp] theorem putCredit_nodeOf (c v : Nat) (i j : Nat) : nodeOf (putCredit c v s) i j = nodeOf s i j := rfl
@[simp] theorem putCredit_seamOf (c v : Nat) (i j : Nat) : seamOf (putCredit c v s) i j = seamOf s i j := rfl
@[simp] theorem putCredit_memArrOf (c v : Nat) (i j : Nat) : memArrOf (putCredit c v s) i j = memArrOf s i j := rfl
@[simp] theorem putCredit_tapOf (c v : Nat) (i j : Nat) : tapOf (putCredit c v s) i j = tapOf s i j := rfl
@[simp] theorem putCredit_logOf (c v : Nat) (i : Nat) : logOf (putCredit c v s) i = logOf s i := rfl
@[simp] theorem putCredit_waitOf (c v : Nat) (y : Waiter) : waitOf (putCredit c v s) y = waitOf s y := rfl
@[simp] theorem putCredit_sideOf (c v : Nat) (i j : Nat) : sideOf (putCredit c v s) i j = sideOf s i j := rfl
@[simp] theorem putCredit_fuseOf (c v : Nat) (i : Nat) : fuseOf (putCredit c v s) i = fuseOf s i := rfl
@[simp] theorem putCredit_gsOf (c v : Nat) (i : Nat) : gsOf (putCredit c v s) i = gsOf s i := rfl
@[simp] theorem putCredit_gringOf (c v : Nat) (i j : Nat) : gringOf (putCredit c v s) i j = gringOf s i j := rfl
@[simp] theorem putCredit_lsOwn (c v : Nat) (i : Nat) : lsOwn (putCredit c v s) i = lsOwn s i := rfl
@[simp] theorem putCredit_lsIn (c v : Nat) (i : Nat) : lsIn (putCredit c v s) i = lsIn s i := rfl
@[simp] theorem putCredit_descBytes (c v : Nat) (i j l : Nat) : descBytes (putCredit c v s) i j l = descBytes s i j l := rfl
@[simp] theorem putCredit_svcOf (c v : Nat) (y : MeshSrc) : svcOf (putCredit c v s) y = svcOf s y := rfl
@[simp] theorem putCredit_timeNow (c v : Nat) : timeNow (putCredit c v s)  = timeNow s := rfl

/-! ### putSteer -/

@[simp] theorem putSteer_pending (p n u : Nat) (v : Steer) : (putSteer p n u v s).pending = s.pending := rfl
@[simp] theorem putSteer_freeCtr (p n u : Nat) (v : Steer) : (putSteer p n u v s).freeCtr = s.freeCtr := rfl
@[simp] theorem putSteer_regs (p n u : Nat) (v : Steer) : (putSteer p n u v s).regs = s.regs := rfl
@[simp] theorem putSteer_mem (p n u : Nat) (v : Steer) : (putSteer p n u v s).mem = s.mem := rfl
@[simp] theorem putSteer_upset (p n u : Nat) (v : Steer) : (putSteer p n u v s).upset = s.upset := rfl
@[simp] theorem putSteer_tags (p n u : Nat) (v : Steer) : (putSteer p n u v s).tags = s.tags := rfl
@[simp] theorem putSteer_ob (p n u : Nat) (v : Steer) : (putSteer p n u v s).ob = s.ob := rfl
@[simp] theorem putSteer_obBad (p n u : Nat) (v : Steer) : (putSteer p n u v s).obBad = s.obBad := rfl
@[simp] theorem putSteer_hostMem (p n u : Nat) (v : Steer) : (putSteer p n u v s).hostMem = s.hostMem := rfl
@[simp] theorem putSteer_peerMem (p n u : Nat) (v : Steer) : (putSteer p n u v s).peerMem = s.peerMem := rfl
@[simp] theorem putSteer_stages (p n u : Nat) (v : Steer) : (putSteer p n u v s).stages = s.stages := rfl
@[simp] theorem putSteer_arrays (p n u : Nat) (v : Steer) : (putSteer p n u v s).arrays = s.arrays := rfl
@[simp] theorem putSteer_stands (p n u : Nat) (v : Steer) : (putSteer p n u v s).stands = s.stands := rfl
@[simp] theorem putSteer_ports (p n u : Nat) (v : Steer) : (putSteer p n u v s).ports = s.ports := rfl
@[simp] theorem putSteer_rings (p n u : Nat) (v : Steer) : (putSteer p n u v s).rings = s.rings := rfl
@[simp] theorem putSteer_sessions (p n u : Nat) (v : Steer) : (putSteer p n u v s).sessions = s.sessions := rfl
@[simp] theorem putSteer_orphans (p n u : Nat) (v : Steer) : (putSteer p n u v s).orphans = s.orphans := rfl
@[simp] theorem putSteer_reportSeq (p n u : Nat) (v : Steer) : (putSteer p n u v s).reportSeq = s.reportSeq := rfl
@[simp] theorem putSteer_mode (p n u : Nat) (v : Steer) : (putSteer p n u v s).mode = s.mode := rfl
@[simp] theorem putSteer_epoch (p n u : Nat) (v : Steer) : (putSteer p n u v s).epoch = s.epoch := rfl
@[simp] theorem putSteer_tainted (p n u : Nat) (v : Steer) : (putSteer p n u v s).tainted = s.tainted := rfl
@[simp] theorem putSteer_taints (p n u : Nat) (v : Steer) : (putSteer p n u v s).taints = s.taints := rfl
@[simp] theorem putSteer_taintCount (p n u : Nat) (v : Steer) : (putSteer p n u v s).taintCount = s.taintCount := rfl
@[simp] theorem putSteer_srKey (p n u : Nat) (v : Steer) : (putSteer p n u v s).srKey = s.srKey := rfl
@[simp] theorem putSteer_lapLen (p n u : Nat) (v : Steer) : (putSteer p n u v s).lapLen = s.lapLen := rfl
@[simp] theorem putSteer_traceEn (p n u : Nat) (v : Steer) : (putSteer p n u v s).traceEn = s.traceEn := rfl
@[simp] theorem putSteer_traceFirst (p n u : Nat) (v : Steer) : (putSteer p n u v s).traceFirst = s.traceFirst := rfl
@[simp] theorem putSteer_traceLast (p n u : Nat) (v : Steer) : (putSteer p n u v s).traceLast = s.traceLast := rfl
@[simp] theorem putSteer_vtags (p n u : Nat) (v : Steer) : (putSteer p n u v s).vtags = s.vtags := rfl
@[simp] theorem putSteer_links (p n u : Nat) (v : Steer) : (putSteer p n u v s).links = s.links := rfl
@[simp] theorem putSteer_credits (p n u : Nat) (v : Steer) : (putSteer p n u v s).credits = s.credits := rfl
@[simp] theorem putSteer_creditFly (p n u : Nat) (v : Steer) : (putSteer p n u v s).creditFly = s.creditFly := rfl
@[simp] theorem putSteer_moves (p n u : Nat) (v : Steer) : (putSteer p n u v s).moves = s.moves := rfl
@[simp] theorem putSteer_nodes (p n u : Nat) (v : Steer) : (putSteer p n u v s).nodes = s.nodes := rfl
@[simp] theorem putSteer_seams (p n u : Nat) (v : Steer) : (putSteer p n u v s).seams = s.seams := rfl
@[simp] theorem putSteer_memArrs (p n u : Nat) (v : Steer) : (putSteer p n u v s).memArrs = s.memArrs := rfl
@[simp] theorem putSteer_taps (p n u : Nat) (v : Steer) : (putSteer p n u v s).taps = s.taps := rfl
@[simp] theorem putSteer_svc (p n u : Nat) (v : Steer) : (putSteer p n u v s).svc = s.svc := rfl
@[simp] theorem putSteer_svcResp (p n u : Nat) (v : Steer) : (putSteer p n u v s).svcResp = s.svcResp := rfl
@[simp] theorem putSteer_svcGot (p n u : Nat) (v : Steer) : (putSteer p n u v s).svcGot = s.svcGot := rfl
@[simp] theorem putSteer_svcId (p n u : Nat) (v : Steer) : (putSteer p n u v s).svcId = s.svcId := rfl
@[simp] theorem putSteer_mgmtIn (p n u : Nat) (v : Steer) : (putSteer p n u v s).mgmtIn = s.mgmtIn := rfl
@[simp] theorem putSteer_waits (p n u : Nat) (v : Steer) : (putSteer p n u v s).waits = s.waits := rfl
@[simp] theorem putSteer_dones (p n u : Nat) (v : Steer) : (putSteer p n u v s).dones = s.dones := rfl
@[simp] theorem putSteer_xbar (p n u : Nat) (v : Steer) : (putSteer p n u v s).xbar = s.xbar := rfl
@[simp] theorem putSteer_turns (p n u : Nat) (v : Steer) : (putSteer p n u v s).turns = s.turns := rfl
@[simp] theorem putSteer_draining (p n u : Nat) (v : Steer) : (putSteer p n u v s).draining = s.draining := rfl
@[simp] theorem putSteer_drainTallies (p n u : Nat) (v : Steer) : (putSteer p n u v s).drainTallies = s.drainTallies := rfl
@[simp] theorem putSteer_drainExc (p n u : Nat) (v : Steer) : (putSteer p n u v s).drainExc = s.drainExc := rfl
@[simp] theorem putSteer_excSat (p n u : Nat) (v : Steer) : (putSteer p n u v s).excSat = s.excSat := rfl
@[simp] theorem putSteer_image (p n u : Nat) (v : Steer) : (putSteer p n u v s).image = s.image := rfl
@[simp] theorem putSteer_plan (p n u : Nat) (v : Steer) : (putSteer p n u v s).plan = s.plan := rfl
@[simp] theorem putSteer_logs (p n u : Nat) (v : Steer) : (putSteer p n u v s).logs = s.logs := rfl
@[simp] theorem putSteer_descs (p n u : Nat) (v : Steer) : (putSteer p n u v s).descs = s.descs := rfl
@[simp] theorem putSteer_hubQs (p n u : Nat) (v : Steer) : (putSteer p n u v s).hubQs = s.hubQs := rfl
@[simp] theorem putSteer_hdlStage (p n u : Nat) (v : Steer) : (putSteer p n u v s).hdlStage = s.hdlStage := rfl
@[simp] theorem putSteer_dirty (p n u : Nat) (v : Steer) : (putSteer p n u v s).dirty = s.dirty := rfl
@[simp] theorem putSteer_otpStage (p n u : Nat) (v : Steer) : (putSteer p n u v s).otpStage = s.otpStage := rfl
@[simp] theorem putSteer_gates (p n u : Nat) (v : Steer) : (putSteer p n u v s).gates = s.gates := rfl
@[simp] theorem putSteer_suOut (p n u : Nat) (v : Steer) : (putSteer p n u v s).suOut = s.suOut := rfl
@[simp] theorem putSteer_arb (p n u : Nat) (v : Steer) : (putSteer p n u v s).arb = s.arb := rfl
@[simp] theorem putSteer_fetchOrder (p n u : Nat) (v : Steer) : (putSteer p n u v s).fetchOrder = s.fetchOrder := rfl
@[simp] theorem putSteer_decoders (p n u : Nat) (v : Steer) : (putSteer p n u v s).decoders = s.decoders := rfl
@[simp] theorem putSteer_gul (p n u : Nat) (v : Steer) : (putSteer p n u v s).gul = s.gul := rfl
@[simp] theorem putSteer_lsOn (p n u : Nat) (v : Steer) : (putSteer p n u v s).lsOn = s.lsOn := rfl
@[simp] theorem putSteer_hbs (p n u : Nat) (v : Steer) : (putSteer p n u v s).hbs = s.hbs := rfl
@[simp] theorem putSteer_snaps (p n u : Nat) (v : Steer) : (putSteer p n u v s).snaps = s.snaps := rfl
@[simp] theorem putSteer_saving (p n u : Nat) (v : Steer) : (putSteer p n u v s).saving = s.saving := rfl
@[simp] theorem putSteer_planSel (p n u : Nat) (v : Steer) : (putSteer p n u v s).planSel = s.planSel := rfl
@[simp] theorem putSteer_planChanged (p n u : Nat) (v : Steer) : (putSteer p n u v s).planChanged = s.planChanged := rfl
@[simp] theorem putSteer_reconFailed (p n u : Nat) (v : Steer) : (putSteer p n u v s).reconFailed = s.reconFailed := rfl
@[simp] theorem putSteer_hostStall (p n u : Nat) (v : Steer) : (putSteer p n u v s).hostStall = s.hostStall := rfl
@[simp] theorem putSteer_lapSet (p n u : Nat) (v : Steer) : (putSteer p n u v s).lapSet = s.lapSet := rfl
@[simp] theorem putSteer_excBase (p n u : Nat) (v : Steer) : (putSteer p n u v s).excBase = s.excBase := rfl
@[simp] theorem putSteer_sides (p n u : Nat) (v : Steer) : (putSteer p n u v s).sides = s.sides := rfl
@[simp] theorem putSteer_ringClk (p n u : Nat) (v : Steer) : (putSteer p n u v s).ringClk = s.ringClk := rfl
@[simp] theorem putSteer_power (p n u : Nat) (v : Steer) : (putSteer p n u v s).power = s.power := rfl
@[simp] theorem putSteer_bring (p n u : Nat) (v : Steer) : (putSteer p n u v s).bring = s.bring := rfl
@[simp] theorem putSteer_fuses (p n u : Nat) (v : Steer) : (putSteer p n u v s).fuses = s.fuses := rfl
@[simp] theorem putSteer_fw (p n u : Nat) (v : Steer) : (putSteer p n u v s).fw = s.fw := rfl
@[simp] theorem putSteer_dbg (p n u : Nat) (v : Steer) : (putSteer p n u v s).dbg = s.dbg := rfl
@[simp] theorem putSteer_timeCtr (p n u : Nat) (v : Steer) : (putSteer p n u v s).timeCtr = s.timeCtr := rfl
@[simp] theorem putSteer_measure5 (p n u : Nat) (v : Steer) : (putSteer p n u v s).measure5 = s.measure5 := rfl
@[simp] theorem putSteer_cages (p n u : Nat) (v : Steer) : (putSteer p n u v s).cages = s.cages := rfl
@[simp] theorem putSteer_shifted (p n u : Nat) (v : Steer) : (putSteer p n u v s).shifted = s.shifted := rfl
@[simp] theorem putSteer_authFails (p n u : Nat) (v : Steer) : (putSteer p n u v s).authFails = s.authFails := rfl
@[simp] theorem putSteer_rg (p n u : Nat) (v : Steer) (i : Nat) : rg (putSteer p n u v s) i = rg s i := rfl
@[simp] theorem putSteer_rf (p n u : Nat) (v : Steer) (i : Nat) (g : Fld) : rf (putSteer p n u v s) i g = rf s i g := rfl
@[simp] theorem putSteer_memByte (p n u : Nat) (v : Steer) (i : Nat) : memByte (putSteer p n u v s) i = memByte s i := rfl
@[simp] theorem putSteer_tagOf (p n u : Nat) (v : Steer) (i : Nat) : tagOf (putSteer p n u v s) i = tagOf s i := rfl
@[simp] theorem putSteer_portOf (p n u : Nat) (v : Steer) (i : Nat) : portOf (putSteer p n u v s) i = portOf s i := rfl
@[simp] theorem putSteer_ringOf (p n u : Nat) (v : Steer) (i j : Nat) : ringOf (putSteer p n u v s) i j = ringOf s i j := rfl
@[simp] theorem putSteer_standOf (p n u : Nat) (v : Steer) (i : Nat) : standOf (putSteer p n u v s) i = standOf s i := rfl
@[simp] theorem putSteer_stageOf (p n u : Nat) (v : Steer) (i : Nat) : stageOf (putSteer p n u v s) i = stageOf s i := rfl
@[simp] theorem putSteer_arrOf (p n u : Nat) (v : Steer) (i : Nat) : arrOf (putSteer p n u v s) i = arrOf s i := rfl
@[simp] theorem putSteer_sessOf (p n u : Nat) (v : Steer) (i : Nat) : sessOf (putSteer p n u v s) i = sessOf s i := rfl
@[simp] theorem putSteer_hubQOf (p n u : Nat) (v : Steer) (i j : Nat) : hubQOf (putSteer p n u v s) i j = hubQOf s i j := rfl
@[simp] theorem putSteer_execOf (p n u : Nat) (v : Steer) (i j : Nat) : execOf (putSteer p n u v s) i j = execOf s i j := rfl
@[simp] theorem putSteer_gateSt (p n u : Nat) (v : Steer) (i j : Nat) : gateSt (putSteer p n u v s) i j = gateSt s i j := rfl
@[simp] theorem putSteer_linkOf (p n u : Nat) (v : Steer) (i j l : Nat) : linkOf (putSteer p n u v s) i j l = linkOf s i j l := rfl
@[simp] theorem putSteer_creditOf (p n u : Nat) (v : Steer) (i : Nat) : creditOf (putSteer p n u v s) i = creditOf s i := rfl
@[simp] theorem putSteer_nodeOf (p n u : Nat) (v : Steer) (i j : Nat) : nodeOf (putSteer p n u v s) i j = nodeOf s i j := rfl
@[simp] theorem putSteer_seamOf (p n u : Nat) (v : Steer) (i j : Nat) : seamOf (putSteer p n u v s) i j = seamOf s i j := rfl
@[simp] theorem putSteer_memArrOf (p n u : Nat) (v : Steer) (i j : Nat) : memArrOf (putSteer p n u v s) i j = memArrOf s i j := rfl
@[simp] theorem putSteer_tapOf (p n u : Nat) (v : Steer) (i j : Nat) : tapOf (putSteer p n u v s) i j = tapOf s i j := rfl
@[simp] theorem putSteer_logOf (p n u : Nat) (v : Steer) (i : Nat) : logOf (putSteer p n u v s) i = logOf s i := rfl
@[simp] theorem putSteer_waitOf (p n u : Nat) (v : Steer) (y : Waiter) : waitOf (putSteer p n u v s) y = waitOf s y := rfl
@[simp] theorem putSteer_sideOf (p n u : Nat) (v : Steer) (i j : Nat) : sideOf (putSteer p n u v s) i j = sideOf s i j := rfl
@[simp] theorem putSteer_fuseOf (p n u : Nat) (v : Steer) (i : Nat) : fuseOf (putSteer p n u v s) i = fuseOf s i := rfl
@[simp] theorem putSteer_gsOf (p n u : Nat) (v : Steer) (i : Nat) : gsOf (putSteer p n u v s) i = gsOf s i := rfl
@[simp] theorem putSteer_gringOf (p n u : Nat) (v : Steer) (i j : Nat) : gringOf (putSteer p n u v s) i j = gringOf s i j := rfl
@[simp] theorem putSteer_lsOwn (p n u : Nat) (v : Steer) (i : Nat) : lsOwn (putSteer p n u v s) i = lsOwn s i := rfl
@[simp] theorem putSteer_lsIn (p n u : Nat) (v : Steer) (i : Nat) : lsIn (putSteer p n u v s) i = lsIn s i := rfl
@[simp] theorem putSteer_descBytes (p n u : Nat) (v : Steer) (i j l : Nat) : descBytes (putSteer p n u v s) i j l = descBytes s i j l := rfl
@[simp] theorem putSteer_svcOf (p n u : Nat) (v : Steer) (y : MeshSrc) : svcOf (putSteer p n u v s) y = svcOf s y := rfl
@[simp] theorem putSteer_timeNow (p n u : Nat) (v : Steer) : timeNow (putSteer p n u v s)  = timeNow s := rfl

/-! ### putNode -/

@[simp] theorem putNode_pending (p n : Nat) (v : NodeSt) : (putNode p n v s).pending = s.pending := rfl
@[simp] theorem putNode_freeCtr (p n : Nat) (v : NodeSt) : (putNode p n v s).freeCtr = s.freeCtr := rfl
@[simp] theorem putNode_regs (p n : Nat) (v : NodeSt) : (putNode p n v s).regs = s.regs := rfl
@[simp] theorem putNode_mem (p n : Nat) (v : NodeSt) : (putNode p n v s).mem = s.mem := rfl
@[simp] theorem putNode_upset (p n : Nat) (v : NodeSt) : (putNode p n v s).upset = s.upset := rfl
@[simp] theorem putNode_tags (p n : Nat) (v : NodeSt) : (putNode p n v s).tags = s.tags := rfl
@[simp] theorem putNode_ob (p n : Nat) (v : NodeSt) : (putNode p n v s).ob = s.ob := rfl
@[simp] theorem putNode_obBad (p n : Nat) (v : NodeSt) : (putNode p n v s).obBad = s.obBad := rfl
@[simp] theorem putNode_hostMem (p n : Nat) (v : NodeSt) : (putNode p n v s).hostMem = s.hostMem := rfl
@[simp] theorem putNode_peerMem (p n : Nat) (v : NodeSt) : (putNode p n v s).peerMem = s.peerMem := rfl
@[simp] theorem putNode_stages (p n : Nat) (v : NodeSt) : (putNode p n v s).stages = s.stages := rfl
@[simp] theorem putNode_arrays (p n : Nat) (v : NodeSt) : (putNode p n v s).arrays = s.arrays := rfl
@[simp] theorem putNode_stands (p n : Nat) (v : NodeSt) : (putNode p n v s).stands = s.stands := rfl
@[simp] theorem putNode_ports (p n : Nat) (v : NodeSt) : (putNode p n v s).ports = s.ports := rfl
@[simp] theorem putNode_rings (p n : Nat) (v : NodeSt) : (putNode p n v s).rings = s.rings := rfl
@[simp] theorem putNode_sessions (p n : Nat) (v : NodeSt) : (putNode p n v s).sessions = s.sessions := rfl
@[simp] theorem putNode_orphans (p n : Nat) (v : NodeSt) : (putNode p n v s).orphans = s.orphans := rfl
@[simp] theorem putNode_reportSeq (p n : Nat) (v : NodeSt) : (putNode p n v s).reportSeq = s.reportSeq := rfl
@[simp] theorem putNode_mode (p n : Nat) (v : NodeSt) : (putNode p n v s).mode = s.mode := rfl
@[simp] theorem putNode_epoch (p n : Nat) (v : NodeSt) : (putNode p n v s).epoch = s.epoch := rfl
@[simp] theorem putNode_tainted (p n : Nat) (v : NodeSt) : (putNode p n v s).tainted = s.tainted := rfl
@[simp] theorem putNode_taints (p n : Nat) (v : NodeSt) : (putNode p n v s).taints = s.taints := rfl
@[simp] theorem putNode_taintCount (p n : Nat) (v : NodeSt) : (putNode p n v s).taintCount = s.taintCount := rfl
@[simp] theorem putNode_srKey (p n : Nat) (v : NodeSt) : (putNode p n v s).srKey = s.srKey := rfl
@[simp] theorem putNode_lapLen (p n : Nat) (v : NodeSt) : (putNode p n v s).lapLen = s.lapLen := rfl
@[simp] theorem putNode_traceEn (p n : Nat) (v : NodeSt) : (putNode p n v s).traceEn = s.traceEn := rfl
@[simp] theorem putNode_traceFirst (p n : Nat) (v : NodeSt) : (putNode p n v s).traceFirst = s.traceFirst := rfl
@[simp] theorem putNode_traceLast (p n : Nat) (v : NodeSt) : (putNode p n v s).traceLast = s.traceLast := rfl
@[simp] theorem putNode_vtags (p n : Nat) (v : NodeSt) : (putNode p n v s).vtags = s.vtags := rfl
@[simp] theorem putNode_links (p n : Nat) (v : NodeSt) : (putNode p n v s).links = s.links := rfl
@[simp] theorem putNode_credits (p n : Nat) (v : NodeSt) : (putNode p n v s).credits = s.credits := rfl
@[simp] theorem putNode_creditFly (p n : Nat) (v : NodeSt) : (putNode p n v s).creditFly = s.creditFly := rfl
@[simp] theorem putNode_moves (p n : Nat) (v : NodeSt) : (putNode p n v s).moves = s.moves := rfl
@[simp] theorem putNode_steers (p n : Nat) (v : NodeSt) : (putNode p n v s).steers = s.steers := rfl
@[simp] theorem putNode_seams (p n : Nat) (v : NodeSt) : (putNode p n v s).seams = s.seams := rfl
@[simp] theorem putNode_memArrs (p n : Nat) (v : NodeSt) : (putNode p n v s).memArrs = s.memArrs := rfl
@[simp] theorem putNode_taps (p n : Nat) (v : NodeSt) : (putNode p n v s).taps = s.taps := rfl
@[simp] theorem putNode_svc (p n : Nat) (v : NodeSt) : (putNode p n v s).svc = s.svc := rfl
@[simp] theorem putNode_svcResp (p n : Nat) (v : NodeSt) : (putNode p n v s).svcResp = s.svcResp := rfl
@[simp] theorem putNode_svcGot (p n : Nat) (v : NodeSt) : (putNode p n v s).svcGot = s.svcGot := rfl
@[simp] theorem putNode_svcId (p n : Nat) (v : NodeSt) : (putNode p n v s).svcId = s.svcId := rfl
@[simp] theorem putNode_mgmtIn (p n : Nat) (v : NodeSt) : (putNode p n v s).mgmtIn = s.mgmtIn := rfl
@[simp] theorem putNode_waits (p n : Nat) (v : NodeSt) : (putNode p n v s).waits = s.waits := rfl
@[simp] theorem putNode_dones (p n : Nat) (v : NodeSt) : (putNode p n v s).dones = s.dones := rfl
@[simp] theorem putNode_xbar (p n : Nat) (v : NodeSt) : (putNode p n v s).xbar = s.xbar := rfl
@[simp] theorem putNode_turns (p n : Nat) (v : NodeSt) : (putNode p n v s).turns = s.turns := rfl
@[simp] theorem putNode_draining (p n : Nat) (v : NodeSt) : (putNode p n v s).draining = s.draining := rfl
@[simp] theorem putNode_drainTallies (p n : Nat) (v : NodeSt) : (putNode p n v s).drainTallies = s.drainTallies := rfl
@[simp] theorem putNode_drainExc (p n : Nat) (v : NodeSt) : (putNode p n v s).drainExc = s.drainExc := rfl
@[simp] theorem putNode_excSat (p n : Nat) (v : NodeSt) : (putNode p n v s).excSat = s.excSat := rfl
@[simp] theorem putNode_image (p n : Nat) (v : NodeSt) : (putNode p n v s).image = s.image := rfl
@[simp] theorem putNode_plan (p n : Nat) (v : NodeSt) : (putNode p n v s).plan = s.plan := rfl
@[simp] theorem putNode_logs (p n : Nat) (v : NodeSt) : (putNode p n v s).logs = s.logs := rfl
@[simp] theorem putNode_descs (p n : Nat) (v : NodeSt) : (putNode p n v s).descs = s.descs := rfl
@[simp] theorem putNode_hubQs (p n : Nat) (v : NodeSt) : (putNode p n v s).hubQs = s.hubQs := rfl
@[simp] theorem putNode_hdlStage (p n : Nat) (v : NodeSt) : (putNode p n v s).hdlStage = s.hdlStage := rfl
@[simp] theorem putNode_dirty (p n : Nat) (v : NodeSt) : (putNode p n v s).dirty = s.dirty := rfl
@[simp] theorem putNode_otpStage (p n : Nat) (v : NodeSt) : (putNode p n v s).otpStage = s.otpStage := rfl
@[simp] theorem putNode_gates (p n : Nat) (v : NodeSt) : (putNode p n v s).gates = s.gates := rfl
@[simp] theorem putNode_suOut (p n : Nat) (v : NodeSt) : (putNode p n v s).suOut = s.suOut := rfl
@[simp] theorem putNode_arb (p n : Nat) (v : NodeSt) : (putNode p n v s).arb = s.arb := rfl
@[simp] theorem putNode_fetchOrder (p n : Nat) (v : NodeSt) : (putNode p n v s).fetchOrder = s.fetchOrder := rfl
@[simp] theorem putNode_decoders (p n : Nat) (v : NodeSt) : (putNode p n v s).decoders = s.decoders := rfl
@[simp] theorem putNode_gul (p n : Nat) (v : NodeSt) : (putNode p n v s).gul = s.gul := rfl
@[simp] theorem putNode_lsOn (p n : Nat) (v : NodeSt) : (putNode p n v s).lsOn = s.lsOn := rfl
@[simp] theorem putNode_hbs (p n : Nat) (v : NodeSt) : (putNode p n v s).hbs = s.hbs := rfl
@[simp] theorem putNode_snaps (p n : Nat) (v : NodeSt) : (putNode p n v s).snaps = s.snaps := rfl
@[simp] theorem putNode_saving (p n : Nat) (v : NodeSt) : (putNode p n v s).saving = s.saving := rfl
@[simp] theorem putNode_planSel (p n : Nat) (v : NodeSt) : (putNode p n v s).planSel = s.planSel := rfl
@[simp] theorem putNode_planChanged (p n : Nat) (v : NodeSt) : (putNode p n v s).planChanged = s.planChanged := rfl
@[simp] theorem putNode_reconFailed (p n : Nat) (v : NodeSt) : (putNode p n v s).reconFailed = s.reconFailed := rfl
@[simp] theorem putNode_hostStall (p n : Nat) (v : NodeSt) : (putNode p n v s).hostStall = s.hostStall := rfl
@[simp] theorem putNode_lapSet (p n : Nat) (v : NodeSt) : (putNode p n v s).lapSet = s.lapSet := rfl
@[simp] theorem putNode_excBase (p n : Nat) (v : NodeSt) : (putNode p n v s).excBase = s.excBase := rfl
@[simp] theorem putNode_sides (p n : Nat) (v : NodeSt) : (putNode p n v s).sides = s.sides := rfl
@[simp] theorem putNode_ringClk (p n : Nat) (v : NodeSt) : (putNode p n v s).ringClk = s.ringClk := rfl
@[simp] theorem putNode_power (p n : Nat) (v : NodeSt) : (putNode p n v s).power = s.power := rfl
@[simp] theorem putNode_bring (p n : Nat) (v : NodeSt) : (putNode p n v s).bring = s.bring := rfl
@[simp] theorem putNode_fuses (p n : Nat) (v : NodeSt) : (putNode p n v s).fuses = s.fuses := rfl
@[simp] theorem putNode_fw (p n : Nat) (v : NodeSt) : (putNode p n v s).fw = s.fw := rfl
@[simp] theorem putNode_dbg (p n : Nat) (v : NodeSt) : (putNode p n v s).dbg = s.dbg := rfl
@[simp] theorem putNode_timeCtr (p n : Nat) (v : NodeSt) : (putNode p n v s).timeCtr = s.timeCtr := rfl
@[simp] theorem putNode_measure5 (p n : Nat) (v : NodeSt) : (putNode p n v s).measure5 = s.measure5 := rfl
@[simp] theorem putNode_cages (p n : Nat) (v : NodeSt) : (putNode p n v s).cages = s.cages := rfl
@[simp] theorem putNode_shifted (p n : Nat) (v : NodeSt) : (putNode p n v s).shifted = s.shifted := rfl
@[simp] theorem putNode_authFails (p n : Nat) (v : NodeSt) : (putNode p n v s).authFails = s.authFails := rfl
@[simp] theorem putNode_rg (p n : Nat) (v : NodeSt) (i : Nat) : rg (putNode p n v s) i = rg s i := rfl
@[simp] theorem putNode_rf (p n : Nat) (v : NodeSt) (i : Nat) (g : Fld) : rf (putNode p n v s) i g = rf s i g := rfl
@[simp] theorem putNode_memByte (p n : Nat) (v : NodeSt) (i : Nat) : memByte (putNode p n v s) i = memByte s i := rfl
@[simp] theorem putNode_tagOf (p n : Nat) (v : NodeSt) (i : Nat) : tagOf (putNode p n v s) i = tagOf s i := rfl
@[simp] theorem putNode_portOf (p n : Nat) (v : NodeSt) (i : Nat) : portOf (putNode p n v s) i = portOf s i := rfl
@[simp] theorem putNode_ringOf (p n : Nat) (v : NodeSt) (i j : Nat) : ringOf (putNode p n v s) i j = ringOf s i j := rfl
@[simp] theorem putNode_standOf (p n : Nat) (v : NodeSt) (i : Nat) : standOf (putNode p n v s) i = standOf s i := rfl
@[simp] theorem putNode_stageOf (p n : Nat) (v : NodeSt) (i : Nat) : stageOf (putNode p n v s) i = stageOf s i := rfl
@[simp] theorem putNode_arrOf (p n : Nat) (v : NodeSt) (i : Nat) : arrOf (putNode p n v s) i = arrOf s i := rfl
@[simp] theorem putNode_sessOf (p n : Nat) (v : NodeSt) (i : Nat) : sessOf (putNode p n v s) i = sessOf s i := rfl
@[simp] theorem putNode_hubQOf (p n : Nat) (v : NodeSt) (i j : Nat) : hubQOf (putNode p n v s) i j = hubQOf s i j := rfl
@[simp] theorem putNode_execOf (p n : Nat) (v : NodeSt) (i j : Nat) : execOf (putNode p n v s) i j = execOf s i j := rfl
@[simp] theorem putNode_gateSt (p n : Nat) (v : NodeSt) (i j : Nat) : gateSt (putNode p n v s) i j = gateSt s i j := rfl
@[simp] theorem putNode_linkOf (p n : Nat) (v : NodeSt) (i j l : Nat) : linkOf (putNode p n v s) i j l = linkOf s i j l := rfl
@[simp] theorem putNode_creditOf (p n : Nat) (v : NodeSt) (i : Nat) : creditOf (putNode p n v s) i = creditOf s i := rfl
@[simp] theorem putNode_steerOf (p n : Nat) (v : NodeSt) (i j l : Nat) : steerOf (putNode p n v s) i j l = steerOf s i j l := rfl
@[simp] theorem putNode_seamOf (p n : Nat) (v : NodeSt) (i j : Nat) : seamOf (putNode p n v s) i j = seamOf s i j := rfl
@[simp] theorem putNode_memArrOf (p n : Nat) (v : NodeSt) (i j : Nat) : memArrOf (putNode p n v s) i j = memArrOf s i j := rfl
@[simp] theorem putNode_tapOf (p n : Nat) (v : NodeSt) (i j : Nat) : tapOf (putNode p n v s) i j = tapOf s i j := rfl
@[simp] theorem putNode_logOf (p n : Nat) (v : NodeSt) (i : Nat) : logOf (putNode p n v s) i = logOf s i := rfl
@[simp] theorem putNode_waitOf (p n : Nat) (v : NodeSt) (y : Waiter) : waitOf (putNode p n v s) y = waitOf s y := rfl
@[simp] theorem putNode_sideOf (p n : Nat) (v : NodeSt) (i j : Nat) : sideOf (putNode p n v s) i j = sideOf s i j := rfl
@[simp] theorem putNode_fuseOf (p n : Nat) (v : NodeSt) (i : Nat) : fuseOf (putNode p n v s) i = fuseOf s i := rfl
@[simp] theorem putNode_gsOf (p n : Nat) (v : NodeSt) (i : Nat) : gsOf (putNode p n v s) i = gsOf s i := rfl
@[simp] theorem putNode_gringOf (p n : Nat) (v : NodeSt) (i j : Nat) : gringOf (putNode p n v s) i j = gringOf s i j := rfl
@[simp] theorem putNode_lsOwn (p n : Nat) (v : NodeSt) (i : Nat) : lsOwn (putNode p n v s) i = lsOwn s i := rfl
@[simp] theorem putNode_lsIn (p n : Nat) (v : NodeSt) (i : Nat) : lsIn (putNode p n v s) i = lsIn s i := rfl
@[simp] theorem putNode_descBytes (p n : Nat) (v : NodeSt) (i j l : Nat) : descBytes (putNode p n v s) i j l = descBytes s i j l := rfl
@[simp] theorem putNode_svcOf (p n : Nat) (v : NodeSt) (y : MeshSrc) : svcOf (putNode p n v s) y = svcOf s y := rfl
@[simp] theorem putNode_timeNow (p n : Nat) (v : NodeSt) : timeNow (putNode p n v s)  = timeNow s := rfl

/-! ### putSeam -/

@[simp] theorem putSeam_pending (p d : Nat) (v : SeamPort) : (putSeam p d v s).pending = s.pending := rfl
@[simp] theorem putSeam_freeCtr (p d : Nat) (v : SeamPort) : (putSeam p d v s).freeCtr = s.freeCtr := rfl
@[simp] theorem putSeam_regs (p d : Nat) (v : SeamPort) : (putSeam p d v s).regs = s.regs := rfl
@[simp] theorem putSeam_mem (p d : Nat) (v : SeamPort) : (putSeam p d v s).mem = s.mem := rfl
@[simp] theorem putSeam_upset (p d : Nat) (v : SeamPort) : (putSeam p d v s).upset = s.upset := rfl
@[simp] theorem putSeam_tags (p d : Nat) (v : SeamPort) : (putSeam p d v s).tags = s.tags := rfl
@[simp] theorem putSeam_ob (p d : Nat) (v : SeamPort) : (putSeam p d v s).ob = s.ob := rfl
@[simp] theorem putSeam_obBad (p d : Nat) (v : SeamPort) : (putSeam p d v s).obBad = s.obBad := rfl
@[simp] theorem putSeam_hostMem (p d : Nat) (v : SeamPort) : (putSeam p d v s).hostMem = s.hostMem := rfl
@[simp] theorem putSeam_peerMem (p d : Nat) (v : SeamPort) : (putSeam p d v s).peerMem = s.peerMem := rfl
@[simp] theorem putSeam_stages (p d : Nat) (v : SeamPort) : (putSeam p d v s).stages = s.stages := rfl
@[simp] theorem putSeam_arrays (p d : Nat) (v : SeamPort) : (putSeam p d v s).arrays = s.arrays := rfl
@[simp] theorem putSeam_stands (p d : Nat) (v : SeamPort) : (putSeam p d v s).stands = s.stands := rfl
@[simp] theorem putSeam_ports (p d : Nat) (v : SeamPort) : (putSeam p d v s).ports = s.ports := rfl
@[simp] theorem putSeam_rings (p d : Nat) (v : SeamPort) : (putSeam p d v s).rings = s.rings := rfl
@[simp] theorem putSeam_sessions (p d : Nat) (v : SeamPort) : (putSeam p d v s).sessions = s.sessions := rfl
@[simp] theorem putSeam_orphans (p d : Nat) (v : SeamPort) : (putSeam p d v s).orphans = s.orphans := rfl
@[simp] theorem putSeam_reportSeq (p d : Nat) (v : SeamPort) : (putSeam p d v s).reportSeq = s.reportSeq := rfl
@[simp] theorem putSeam_mode (p d : Nat) (v : SeamPort) : (putSeam p d v s).mode = s.mode := rfl
@[simp] theorem putSeam_epoch (p d : Nat) (v : SeamPort) : (putSeam p d v s).epoch = s.epoch := rfl
@[simp] theorem putSeam_tainted (p d : Nat) (v : SeamPort) : (putSeam p d v s).tainted = s.tainted := rfl
@[simp] theorem putSeam_taints (p d : Nat) (v : SeamPort) : (putSeam p d v s).taints = s.taints := rfl
@[simp] theorem putSeam_taintCount (p d : Nat) (v : SeamPort) : (putSeam p d v s).taintCount = s.taintCount := rfl
@[simp] theorem putSeam_srKey (p d : Nat) (v : SeamPort) : (putSeam p d v s).srKey = s.srKey := rfl
@[simp] theorem putSeam_lapLen (p d : Nat) (v : SeamPort) : (putSeam p d v s).lapLen = s.lapLen := rfl
@[simp] theorem putSeam_traceEn (p d : Nat) (v : SeamPort) : (putSeam p d v s).traceEn = s.traceEn := rfl
@[simp] theorem putSeam_traceFirst (p d : Nat) (v : SeamPort) : (putSeam p d v s).traceFirst = s.traceFirst := rfl
@[simp] theorem putSeam_traceLast (p d : Nat) (v : SeamPort) : (putSeam p d v s).traceLast = s.traceLast := rfl
@[simp] theorem putSeam_vtags (p d : Nat) (v : SeamPort) : (putSeam p d v s).vtags = s.vtags := rfl
@[simp] theorem putSeam_links (p d : Nat) (v : SeamPort) : (putSeam p d v s).links = s.links := rfl
@[simp] theorem putSeam_credits (p d : Nat) (v : SeamPort) : (putSeam p d v s).credits = s.credits := rfl
@[simp] theorem putSeam_creditFly (p d : Nat) (v : SeamPort) : (putSeam p d v s).creditFly = s.creditFly := rfl
@[simp] theorem putSeam_moves (p d : Nat) (v : SeamPort) : (putSeam p d v s).moves = s.moves := rfl
@[simp] theorem putSeam_steers (p d : Nat) (v : SeamPort) : (putSeam p d v s).steers = s.steers := rfl
@[simp] theorem putSeam_nodes (p d : Nat) (v : SeamPort) : (putSeam p d v s).nodes = s.nodes := rfl
@[simp] theorem putSeam_memArrs (p d : Nat) (v : SeamPort) : (putSeam p d v s).memArrs = s.memArrs := rfl
@[simp] theorem putSeam_taps (p d : Nat) (v : SeamPort) : (putSeam p d v s).taps = s.taps := rfl
@[simp] theorem putSeam_svc (p d : Nat) (v : SeamPort) : (putSeam p d v s).svc = s.svc := rfl
@[simp] theorem putSeam_svcResp (p d : Nat) (v : SeamPort) : (putSeam p d v s).svcResp = s.svcResp := rfl
@[simp] theorem putSeam_svcGot (p d : Nat) (v : SeamPort) : (putSeam p d v s).svcGot = s.svcGot := rfl
@[simp] theorem putSeam_svcId (p d : Nat) (v : SeamPort) : (putSeam p d v s).svcId = s.svcId := rfl
@[simp] theorem putSeam_mgmtIn (p d : Nat) (v : SeamPort) : (putSeam p d v s).mgmtIn = s.mgmtIn := rfl
@[simp] theorem putSeam_waits (p d : Nat) (v : SeamPort) : (putSeam p d v s).waits = s.waits := rfl
@[simp] theorem putSeam_dones (p d : Nat) (v : SeamPort) : (putSeam p d v s).dones = s.dones := rfl
@[simp] theorem putSeam_xbar (p d : Nat) (v : SeamPort) : (putSeam p d v s).xbar = s.xbar := rfl
@[simp] theorem putSeam_turns (p d : Nat) (v : SeamPort) : (putSeam p d v s).turns = s.turns := rfl
@[simp] theorem putSeam_draining (p d : Nat) (v : SeamPort) : (putSeam p d v s).draining = s.draining := rfl
@[simp] theorem putSeam_drainTallies (p d : Nat) (v : SeamPort) : (putSeam p d v s).drainTallies = s.drainTallies := rfl
@[simp] theorem putSeam_drainExc (p d : Nat) (v : SeamPort) : (putSeam p d v s).drainExc = s.drainExc := rfl
@[simp] theorem putSeam_excSat (p d : Nat) (v : SeamPort) : (putSeam p d v s).excSat = s.excSat := rfl
@[simp] theorem putSeam_image (p d : Nat) (v : SeamPort) : (putSeam p d v s).image = s.image := rfl
@[simp] theorem putSeam_plan (p d : Nat) (v : SeamPort) : (putSeam p d v s).plan = s.plan := rfl
@[simp] theorem putSeam_logs (p d : Nat) (v : SeamPort) : (putSeam p d v s).logs = s.logs := rfl
@[simp] theorem putSeam_descs (p d : Nat) (v : SeamPort) : (putSeam p d v s).descs = s.descs := rfl
@[simp] theorem putSeam_hubQs (p d : Nat) (v : SeamPort) : (putSeam p d v s).hubQs = s.hubQs := rfl
@[simp] theorem putSeam_hdlStage (p d : Nat) (v : SeamPort) : (putSeam p d v s).hdlStage = s.hdlStage := rfl
@[simp] theorem putSeam_dirty (p d : Nat) (v : SeamPort) : (putSeam p d v s).dirty = s.dirty := rfl
@[simp] theorem putSeam_otpStage (p d : Nat) (v : SeamPort) : (putSeam p d v s).otpStage = s.otpStage := rfl
@[simp] theorem putSeam_gates (p d : Nat) (v : SeamPort) : (putSeam p d v s).gates = s.gates := rfl
@[simp] theorem putSeam_suOut (p d : Nat) (v : SeamPort) : (putSeam p d v s).suOut = s.suOut := rfl
@[simp] theorem putSeam_arb (p d : Nat) (v : SeamPort) : (putSeam p d v s).arb = s.arb := rfl
@[simp] theorem putSeam_fetchOrder (p d : Nat) (v : SeamPort) : (putSeam p d v s).fetchOrder = s.fetchOrder := rfl
@[simp] theorem putSeam_decoders (p d : Nat) (v : SeamPort) : (putSeam p d v s).decoders = s.decoders := rfl
@[simp] theorem putSeam_gul (p d : Nat) (v : SeamPort) : (putSeam p d v s).gul = s.gul := rfl
@[simp] theorem putSeam_lsOn (p d : Nat) (v : SeamPort) : (putSeam p d v s).lsOn = s.lsOn := rfl
@[simp] theorem putSeam_hbs (p d : Nat) (v : SeamPort) : (putSeam p d v s).hbs = s.hbs := rfl
@[simp] theorem putSeam_snaps (p d : Nat) (v : SeamPort) : (putSeam p d v s).snaps = s.snaps := rfl
@[simp] theorem putSeam_saving (p d : Nat) (v : SeamPort) : (putSeam p d v s).saving = s.saving := rfl
@[simp] theorem putSeam_planSel (p d : Nat) (v : SeamPort) : (putSeam p d v s).planSel = s.planSel := rfl
@[simp] theorem putSeam_planChanged (p d : Nat) (v : SeamPort) : (putSeam p d v s).planChanged = s.planChanged := rfl
@[simp] theorem putSeam_reconFailed (p d : Nat) (v : SeamPort) : (putSeam p d v s).reconFailed = s.reconFailed := rfl
@[simp] theorem putSeam_hostStall (p d : Nat) (v : SeamPort) : (putSeam p d v s).hostStall = s.hostStall := rfl
@[simp] theorem putSeam_lapSet (p d : Nat) (v : SeamPort) : (putSeam p d v s).lapSet = s.lapSet := rfl
@[simp] theorem putSeam_excBase (p d : Nat) (v : SeamPort) : (putSeam p d v s).excBase = s.excBase := rfl
@[simp] theorem putSeam_sides (p d : Nat) (v : SeamPort) : (putSeam p d v s).sides = s.sides := rfl
@[simp] theorem putSeam_ringClk (p d : Nat) (v : SeamPort) : (putSeam p d v s).ringClk = s.ringClk := rfl
@[simp] theorem putSeam_power (p d : Nat) (v : SeamPort) : (putSeam p d v s).power = s.power := rfl
@[simp] theorem putSeam_bring (p d : Nat) (v : SeamPort) : (putSeam p d v s).bring = s.bring := rfl
@[simp] theorem putSeam_fuses (p d : Nat) (v : SeamPort) : (putSeam p d v s).fuses = s.fuses := rfl
@[simp] theorem putSeam_fw (p d : Nat) (v : SeamPort) : (putSeam p d v s).fw = s.fw := rfl
@[simp] theorem putSeam_dbg (p d : Nat) (v : SeamPort) : (putSeam p d v s).dbg = s.dbg := rfl
@[simp] theorem putSeam_timeCtr (p d : Nat) (v : SeamPort) : (putSeam p d v s).timeCtr = s.timeCtr := rfl
@[simp] theorem putSeam_measure5 (p d : Nat) (v : SeamPort) : (putSeam p d v s).measure5 = s.measure5 := rfl
@[simp] theorem putSeam_cages (p d : Nat) (v : SeamPort) : (putSeam p d v s).cages = s.cages := rfl
@[simp] theorem putSeam_shifted (p d : Nat) (v : SeamPort) : (putSeam p d v s).shifted = s.shifted := rfl
@[simp] theorem putSeam_authFails (p d : Nat) (v : SeamPort) : (putSeam p d v s).authFails = s.authFails := rfl
@[simp] theorem putSeam_rg (p d : Nat) (v : SeamPort) (i : Nat) : rg (putSeam p d v s) i = rg s i := rfl
@[simp] theorem putSeam_rf (p d : Nat) (v : SeamPort) (i : Nat) (g : Fld) : rf (putSeam p d v s) i g = rf s i g := rfl
@[simp] theorem putSeam_memByte (p d : Nat) (v : SeamPort) (i : Nat) : memByte (putSeam p d v s) i = memByte s i := rfl
@[simp] theorem putSeam_tagOf (p d : Nat) (v : SeamPort) (i : Nat) : tagOf (putSeam p d v s) i = tagOf s i := rfl
@[simp] theorem putSeam_portOf (p d : Nat) (v : SeamPort) (i : Nat) : portOf (putSeam p d v s) i = portOf s i := rfl
@[simp] theorem putSeam_ringOf (p d : Nat) (v : SeamPort) (i j : Nat) : ringOf (putSeam p d v s) i j = ringOf s i j := rfl
@[simp] theorem putSeam_standOf (p d : Nat) (v : SeamPort) (i : Nat) : standOf (putSeam p d v s) i = standOf s i := rfl
@[simp] theorem putSeam_stageOf (p d : Nat) (v : SeamPort) (i : Nat) : stageOf (putSeam p d v s) i = stageOf s i := rfl
@[simp] theorem putSeam_arrOf (p d : Nat) (v : SeamPort) (i : Nat) : arrOf (putSeam p d v s) i = arrOf s i := rfl
@[simp] theorem putSeam_sessOf (p d : Nat) (v : SeamPort) (i : Nat) : sessOf (putSeam p d v s) i = sessOf s i := rfl
@[simp] theorem putSeam_hubQOf (p d : Nat) (v : SeamPort) (i j : Nat) : hubQOf (putSeam p d v s) i j = hubQOf s i j := rfl
@[simp] theorem putSeam_execOf (p d : Nat) (v : SeamPort) (i j : Nat) : execOf (putSeam p d v s) i j = execOf s i j := rfl
@[simp] theorem putSeam_gateSt (p d : Nat) (v : SeamPort) (i j : Nat) : gateSt (putSeam p d v s) i j = gateSt s i j := rfl
@[simp] theorem putSeam_linkOf (p d : Nat) (v : SeamPort) (i j l : Nat) : linkOf (putSeam p d v s) i j l = linkOf s i j l := rfl
@[simp] theorem putSeam_creditOf (p d : Nat) (v : SeamPort) (i : Nat) : creditOf (putSeam p d v s) i = creditOf s i := rfl
@[simp] theorem putSeam_steerOf (p d : Nat) (v : SeamPort) (i j l : Nat) : steerOf (putSeam p d v s) i j l = steerOf s i j l := rfl
@[simp] theorem putSeam_nodeOf (p d : Nat) (v : SeamPort) (i j : Nat) : nodeOf (putSeam p d v s) i j = nodeOf s i j := rfl
@[simp] theorem putSeam_memArrOf (p d : Nat) (v : SeamPort) (i j : Nat) : memArrOf (putSeam p d v s) i j = memArrOf s i j := rfl
@[simp] theorem putSeam_tapOf (p d : Nat) (v : SeamPort) (i j : Nat) : tapOf (putSeam p d v s) i j = tapOf s i j := rfl
@[simp] theorem putSeam_logOf (p d : Nat) (v : SeamPort) (i : Nat) : logOf (putSeam p d v s) i = logOf s i := rfl
@[simp] theorem putSeam_waitOf (p d : Nat) (v : SeamPort) (y : Waiter) : waitOf (putSeam p d v s) y = waitOf s y := rfl
@[simp] theorem putSeam_sideOf (p d : Nat) (v : SeamPort) (i j : Nat) : sideOf (putSeam p d v s) i j = sideOf s i j := rfl
@[simp] theorem putSeam_fuseOf (p d : Nat) (v : SeamPort) (i : Nat) : fuseOf (putSeam p d v s) i = fuseOf s i := rfl
@[simp] theorem putSeam_gsOf (p d : Nat) (v : SeamPort) (i : Nat) : gsOf (putSeam p d v s) i = gsOf s i := rfl
@[simp] theorem putSeam_gringOf (p d : Nat) (v : SeamPort) (i j : Nat) : gringOf (putSeam p d v s) i j = gringOf s i j := rfl
@[simp] theorem putSeam_lsOwn (p d : Nat) (v : SeamPort) (i : Nat) : lsOwn (putSeam p d v s) i = lsOwn s i := rfl
@[simp] theorem putSeam_lsIn (p d : Nat) (v : SeamPort) (i : Nat) : lsIn (putSeam p d v s) i = lsIn s i := rfl
@[simp] theorem putSeam_descBytes (p d : Nat) (v : SeamPort) (i j l : Nat) : descBytes (putSeam p d v s) i j l = descBytes s i j l := rfl
@[simp] theorem putSeam_svcOf (p d : Nat) (v : SeamPort) (y : MeshSrc) : svcOf (putSeam p d v s) y = svcOf s y := rfl
@[simp] theorem putSeam_timeNow (p d : Nat) (v : SeamPort) : timeNow (putSeam p d v s)  = timeNow s := rfl

/-! ### putMemArr -/

@[simp] theorem putMemArr_pending (p a : Nat) (v : MemArr) : (putMemArr p a v s).pending = s.pending := rfl
@[simp] theorem putMemArr_freeCtr (p a : Nat) (v : MemArr) : (putMemArr p a v s).freeCtr = s.freeCtr := rfl
@[simp] theorem putMemArr_regs (p a : Nat) (v : MemArr) : (putMemArr p a v s).regs = s.regs := rfl
@[simp] theorem putMemArr_mem (p a : Nat) (v : MemArr) : (putMemArr p a v s).mem = s.mem := rfl
@[simp] theorem putMemArr_upset (p a : Nat) (v : MemArr) : (putMemArr p a v s).upset = s.upset := rfl
@[simp] theorem putMemArr_tags (p a : Nat) (v : MemArr) : (putMemArr p a v s).tags = s.tags := rfl
@[simp] theorem putMemArr_ob (p a : Nat) (v : MemArr) : (putMemArr p a v s).ob = s.ob := rfl
@[simp] theorem putMemArr_obBad (p a : Nat) (v : MemArr) : (putMemArr p a v s).obBad = s.obBad := rfl
@[simp] theorem putMemArr_hostMem (p a : Nat) (v : MemArr) : (putMemArr p a v s).hostMem = s.hostMem := rfl
@[simp] theorem putMemArr_peerMem (p a : Nat) (v : MemArr) : (putMemArr p a v s).peerMem = s.peerMem := rfl
@[simp] theorem putMemArr_stages (p a : Nat) (v : MemArr) : (putMemArr p a v s).stages = s.stages := rfl
@[simp] theorem putMemArr_arrays (p a : Nat) (v : MemArr) : (putMemArr p a v s).arrays = s.arrays := rfl
@[simp] theorem putMemArr_stands (p a : Nat) (v : MemArr) : (putMemArr p a v s).stands = s.stands := rfl
@[simp] theorem putMemArr_ports (p a : Nat) (v : MemArr) : (putMemArr p a v s).ports = s.ports := rfl
@[simp] theorem putMemArr_rings (p a : Nat) (v : MemArr) : (putMemArr p a v s).rings = s.rings := rfl
@[simp] theorem putMemArr_sessions (p a : Nat) (v : MemArr) : (putMemArr p a v s).sessions = s.sessions := rfl
@[simp] theorem putMemArr_orphans (p a : Nat) (v : MemArr) : (putMemArr p a v s).orphans = s.orphans := rfl
@[simp] theorem putMemArr_reportSeq (p a : Nat) (v : MemArr) : (putMemArr p a v s).reportSeq = s.reportSeq := rfl
@[simp] theorem putMemArr_mode (p a : Nat) (v : MemArr) : (putMemArr p a v s).mode = s.mode := rfl
@[simp] theorem putMemArr_epoch (p a : Nat) (v : MemArr) : (putMemArr p a v s).epoch = s.epoch := rfl
@[simp] theorem putMemArr_tainted (p a : Nat) (v : MemArr) : (putMemArr p a v s).tainted = s.tainted := rfl
@[simp] theorem putMemArr_taints (p a : Nat) (v : MemArr) : (putMemArr p a v s).taints = s.taints := rfl
@[simp] theorem putMemArr_taintCount (p a : Nat) (v : MemArr) : (putMemArr p a v s).taintCount = s.taintCount := rfl
@[simp] theorem putMemArr_srKey (p a : Nat) (v : MemArr) : (putMemArr p a v s).srKey = s.srKey := rfl
@[simp] theorem putMemArr_lapLen (p a : Nat) (v : MemArr) : (putMemArr p a v s).lapLen = s.lapLen := rfl
@[simp] theorem putMemArr_traceEn (p a : Nat) (v : MemArr) : (putMemArr p a v s).traceEn = s.traceEn := rfl
@[simp] theorem putMemArr_traceFirst (p a : Nat) (v : MemArr) : (putMemArr p a v s).traceFirst = s.traceFirst := rfl
@[simp] theorem putMemArr_traceLast (p a : Nat) (v : MemArr) : (putMemArr p a v s).traceLast = s.traceLast := rfl
@[simp] theorem putMemArr_vtags (p a : Nat) (v : MemArr) : (putMemArr p a v s).vtags = s.vtags := rfl
@[simp] theorem putMemArr_links (p a : Nat) (v : MemArr) : (putMemArr p a v s).links = s.links := rfl
@[simp] theorem putMemArr_credits (p a : Nat) (v : MemArr) : (putMemArr p a v s).credits = s.credits := rfl
@[simp] theorem putMemArr_creditFly (p a : Nat) (v : MemArr) : (putMemArr p a v s).creditFly = s.creditFly := rfl
@[simp] theorem putMemArr_moves (p a : Nat) (v : MemArr) : (putMemArr p a v s).moves = s.moves := rfl
@[simp] theorem putMemArr_steers (p a : Nat) (v : MemArr) : (putMemArr p a v s).steers = s.steers := rfl
@[simp] theorem putMemArr_nodes (p a : Nat) (v : MemArr) : (putMemArr p a v s).nodes = s.nodes := rfl
@[simp] theorem putMemArr_seams (p a : Nat) (v : MemArr) : (putMemArr p a v s).seams = s.seams := rfl
@[simp] theorem putMemArr_taps (p a : Nat) (v : MemArr) : (putMemArr p a v s).taps = s.taps := rfl
@[simp] theorem putMemArr_svc (p a : Nat) (v : MemArr) : (putMemArr p a v s).svc = s.svc := rfl
@[simp] theorem putMemArr_svcResp (p a : Nat) (v : MemArr) : (putMemArr p a v s).svcResp = s.svcResp := rfl
@[simp] theorem putMemArr_svcGot (p a : Nat) (v : MemArr) : (putMemArr p a v s).svcGot = s.svcGot := rfl
@[simp] theorem putMemArr_svcId (p a : Nat) (v : MemArr) : (putMemArr p a v s).svcId = s.svcId := rfl
@[simp] theorem putMemArr_mgmtIn (p a : Nat) (v : MemArr) : (putMemArr p a v s).mgmtIn = s.mgmtIn := rfl
@[simp] theorem putMemArr_waits (p a : Nat) (v : MemArr) : (putMemArr p a v s).waits = s.waits := rfl
@[simp] theorem putMemArr_dones (p a : Nat) (v : MemArr) : (putMemArr p a v s).dones = s.dones := rfl
@[simp] theorem putMemArr_xbar (p a : Nat) (v : MemArr) : (putMemArr p a v s).xbar = s.xbar := rfl
@[simp] theorem putMemArr_turns (p a : Nat) (v : MemArr) : (putMemArr p a v s).turns = s.turns := rfl
@[simp] theorem putMemArr_draining (p a : Nat) (v : MemArr) : (putMemArr p a v s).draining = s.draining := rfl
@[simp] theorem putMemArr_drainTallies (p a : Nat) (v : MemArr) : (putMemArr p a v s).drainTallies = s.drainTallies := rfl
@[simp] theorem putMemArr_drainExc (p a : Nat) (v : MemArr) : (putMemArr p a v s).drainExc = s.drainExc := rfl
@[simp] theorem putMemArr_excSat (p a : Nat) (v : MemArr) : (putMemArr p a v s).excSat = s.excSat := rfl
@[simp] theorem putMemArr_image (p a : Nat) (v : MemArr) : (putMemArr p a v s).image = s.image := rfl
@[simp] theorem putMemArr_plan (p a : Nat) (v : MemArr) : (putMemArr p a v s).plan = s.plan := rfl
@[simp] theorem putMemArr_logs (p a : Nat) (v : MemArr) : (putMemArr p a v s).logs = s.logs := rfl
@[simp] theorem putMemArr_descs (p a : Nat) (v : MemArr) : (putMemArr p a v s).descs = s.descs := rfl
@[simp] theorem putMemArr_hubQs (p a : Nat) (v : MemArr) : (putMemArr p a v s).hubQs = s.hubQs := rfl
@[simp] theorem putMemArr_hdlStage (p a : Nat) (v : MemArr) : (putMemArr p a v s).hdlStage = s.hdlStage := rfl
@[simp] theorem putMemArr_dirty (p a : Nat) (v : MemArr) : (putMemArr p a v s).dirty = s.dirty := rfl
@[simp] theorem putMemArr_otpStage (p a : Nat) (v : MemArr) : (putMemArr p a v s).otpStage = s.otpStage := rfl
@[simp] theorem putMemArr_gates (p a : Nat) (v : MemArr) : (putMemArr p a v s).gates = s.gates := rfl
@[simp] theorem putMemArr_suOut (p a : Nat) (v : MemArr) : (putMemArr p a v s).suOut = s.suOut := rfl
@[simp] theorem putMemArr_arb (p a : Nat) (v : MemArr) : (putMemArr p a v s).arb = s.arb := rfl
@[simp] theorem putMemArr_fetchOrder (p a : Nat) (v : MemArr) : (putMemArr p a v s).fetchOrder = s.fetchOrder := rfl
@[simp] theorem putMemArr_decoders (p a : Nat) (v : MemArr) : (putMemArr p a v s).decoders = s.decoders := rfl
@[simp] theorem putMemArr_gul (p a : Nat) (v : MemArr) : (putMemArr p a v s).gul = s.gul := rfl
@[simp] theorem putMemArr_lsOn (p a : Nat) (v : MemArr) : (putMemArr p a v s).lsOn = s.lsOn := rfl
@[simp] theorem putMemArr_hbs (p a : Nat) (v : MemArr) : (putMemArr p a v s).hbs = s.hbs := rfl
@[simp] theorem putMemArr_snaps (p a : Nat) (v : MemArr) : (putMemArr p a v s).snaps = s.snaps := rfl
@[simp] theorem putMemArr_saving (p a : Nat) (v : MemArr) : (putMemArr p a v s).saving = s.saving := rfl
@[simp] theorem putMemArr_planSel (p a : Nat) (v : MemArr) : (putMemArr p a v s).planSel = s.planSel := rfl
@[simp] theorem putMemArr_planChanged (p a : Nat) (v : MemArr) : (putMemArr p a v s).planChanged = s.planChanged := rfl
@[simp] theorem putMemArr_reconFailed (p a : Nat) (v : MemArr) : (putMemArr p a v s).reconFailed = s.reconFailed := rfl
@[simp] theorem putMemArr_hostStall (p a : Nat) (v : MemArr) : (putMemArr p a v s).hostStall = s.hostStall := rfl
@[simp] theorem putMemArr_lapSet (p a : Nat) (v : MemArr) : (putMemArr p a v s).lapSet = s.lapSet := rfl
@[simp] theorem putMemArr_excBase (p a : Nat) (v : MemArr) : (putMemArr p a v s).excBase = s.excBase := rfl
@[simp] theorem putMemArr_sides (p a : Nat) (v : MemArr) : (putMemArr p a v s).sides = s.sides := rfl
@[simp] theorem putMemArr_ringClk (p a : Nat) (v : MemArr) : (putMemArr p a v s).ringClk = s.ringClk := rfl
@[simp] theorem putMemArr_power (p a : Nat) (v : MemArr) : (putMemArr p a v s).power = s.power := rfl
@[simp] theorem putMemArr_bring (p a : Nat) (v : MemArr) : (putMemArr p a v s).bring = s.bring := rfl
@[simp] theorem putMemArr_fuses (p a : Nat) (v : MemArr) : (putMemArr p a v s).fuses = s.fuses := rfl
@[simp] theorem putMemArr_fw (p a : Nat) (v : MemArr) : (putMemArr p a v s).fw = s.fw := rfl
@[simp] theorem putMemArr_dbg (p a : Nat) (v : MemArr) : (putMemArr p a v s).dbg = s.dbg := rfl
@[simp] theorem putMemArr_timeCtr (p a : Nat) (v : MemArr) : (putMemArr p a v s).timeCtr = s.timeCtr := rfl
@[simp] theorem putMemArr_measure5 (p a : Nat) (v : MemArr) : (putMemArr p a v s).measure5 = s.measure5 := rfl
@[simp] theorem putMemArr_cages (p a : Nat) (v : MemArr) : (putMemArr p a v s).cages = s.cages := rfl
@[simp] theorem putMemArr_shifted (p a : Nat) (v : MemArr) : (putMemArr p a v s).shifted = s.shifted := rfl
@[simp] theorem putMemArr_authFails (p a : Nat) (v : MemArr) : (putMemArr p a v s).authFails = s.authFails := rfl
@[simp] theorem putMemArr_rg (p a : Nat) (v : MemArr) (i : Nat) : rg (putMemArr p a v s) i = rg s i := rfl
@[simp] theorem putMemArr_rf (p a : Nat) (v : MemArr) (i : Nat) (g : Fld) : rf (putMemArr p a v s) i g = rf s i g := rfl
@[simp] theorem putMemArr_memByte (p a : Nat) (v : MemArr) (i : Nat) : memByte (putMemArr p a v s) i = memByte s i := rfl
@[simp] theorem putMemArr_tagOf (p a : Nat) (v : MemArr) (i : Nat) : tagOf (putMemArr p a v s) i = tagOf s i := rfl
@[simp] theorem putMemArr_portOf (p a : Nat) (v : MemArr) (i : Nat) : portOf (putMemArr p a v s) i = portOf s i := rfl
@[simp] theorem putMemArr_ringOf (p a : Nat) (v : MemArr) (i j : Nat) : ringOf (putMemArr p a v s) i j = ringOf s i j := rfl
@[simp] theorem putMemArr_standOf (p a : Nat) (v : MemArr) (i : Nat) : standOf (putMemArr p a v s) i = standOf s i := rfl
@[simp] theorem putMemArr_stageOf (p a : Nat) (v : MemArr) (i : Nat) : stageOf (putMemArr p a v s) i = stageOf s i := rfl
@[simp] theorem putMemArr_arrOf (p a : Nat) (v : MemArr) (i : Nat) : arrOf (putMemArr p a v s) i = arrOf s i := rfl
@[simp] theorem putMemArr_sessOf (p a : Nat) (v : MemArr) (i : Nat) : sessOf (putMemArr p a v s) i = sessOf s i := rfl
@[simp] theorem putMemArr_hubQOf (p a : Nat) (v : MemArr) (i j : Nat) : hubQOf (putMemArr p a v s) i j = hubQOf s i j := rfl
@[simp] theorem putMemArr_execOf (p a : Nat) (v : MemArr) (i j : Nat) : execOf (putMemArr p a v s) i j = execOf s i j := rfl
@[simp] theorem putMemArr_gateSt (p a : Nat) (v : MemArr) (i j : Nat) : gateSt (putMemArr p a v s) i j = gateSt s i j := rfl
@[simp] theorem putMemArr_linkOf (p a : Nat) (v : MemArr) (i j l : Nat) : linkOf (putMemArr p a v s) i j l = linkOf s i j l := rfl
@[simp] theorem putMemArr_creditOf (p a : Nat) (v : MemArr) (i : Nat) : creditOf (putMemArr p a v s) i = creditOf s i := rfl
@[simp] theorem putMemArr_steerOf (p a : Nat) (v : MemArr) (i j l : Nat) : steerOf (putMemArr p a v s) i j l = steerOf s i j l := rfl
@[simp] theorem putMemArr_nodeOf (p a : Nat) (v : MemArr) (i j : Nat) : nodeOf (putMemArr p a v s) i j = nodeOf s i j := rfl
@[simp] theorem putMemArr_seamOf (p a : Nat) (v : MemArr) (i j : Nat) : seamOf (putMemArr p a v s) i j = seamOf s i j := rfl
@[simp] theorem putMemArr_tapOf (p a : Nat) (v : MemArr) (i j : Nat) : tapOf (putMemArr p a v s) i j = tapOf s i j := rfl
@[simp] theorem putMemArr_logOf (p a : Nat) (v : MemArr) (i : Nat) : logOf (putMemArr p a v s) i = logOf s i := rfl
@[simp] theorem putMemArr_waitOf (p a : Nat) (v : MemArr) (y : Waiter) : waitOf (putMemArr p a v s) y = waitOf s y := rfl
@[simp] theorem putMemArr_sideOf (p a : Nat) (v : MemArr) (i j : Nat) : sideOf (putMemArr p a v s) i j = sideOf s i j := rfl
@[simp] theorem putMemArr_fuseOf (p a : Nat) (v : MemArr) (i : Nat) : fuseOf (putMemArr p a v s) i = fuseOf s i := rfl
@[simp] theorem putMemArr_gsOf (p a : Nat) (v : MemArr) (i : Nat) : gsOf (putMemArr p a v s) i = gsOf s i := rfl
@[simp] theorem putMemArr_gringOf (p a : Nat) (v : MemArr) (i j : Nat) : gringOf (putMemArr p a v s) i j = gringOf s i j := rfl
@[simp] theorem putMemArr_lsOwn (p a : Nat) (v : MemArr) (i : Nat) : lsOwn (putMemArr p a v s) i = lsOwn s i := rfl
@[simp] theorem putMemArr_lsIn (p a : Nat) (v : MemArr) (i : Nat) : lsIn (putMemArr p a v s) i = lsIn s i := rfl
@[simp] theorem putMemArr_descBytes (p a : Nat) (v : MemArr) (i j l : Nat) : descBytes (putMemArr p a v s) i j l = descBytes s i j l := rfl
@[simp] theorem putMemArr_svcOf (p a : Nat) (v : MemArr) (y : MeshSrc) : svcOf (putMemArr p a v s) y = svcOf s y := rfl
@[simp] theorem putMemArr_timeNow (p a : Nat) (v : MemArr) : timeNow (putMemArr p a v s)  = timeNow s := rfl

/-! ### putTap -/

@[simp] theorem putTap_pending (p t : Nat) (v : Tap) : (putTap p t v s).pending = s.pending := rfl
@[simp] theorem putTap_freeCtr (p t : Nat) (v : Tap) : (putTap p t v s).freeCtr = s.freeCtr := rfl
@[simp] theorem putTap_regs (p t : Nat) (v : Tap) : (putTap p t v s).regs = s.regs := rfl
@[simp] theorem putTap_mem (p t : Nat) (v : Tap) : (putTap p t v s).mem = s.mem := rfl
@[simp] theorem putTap_upset (p t : Nat) (v : Tap) : (putTap p t v s).upset = s.upset := rfl
@[simp] theorem putTap_tags (p t : Nat) (v : Tap) : (putTap p t v s).tags = s.tags := rfl
@[simp] theorem putTap_ob (p t : Nat) (v : Tap) : (putTap p t v s).ob = s.ob := rfl
@[simp] theorem putTap_obBad (p t : Nat) (v : Tap) : (putTap p t v s).obBad = s.obBad := rfl
@[simp] theorem putTap_hostMem (p t : Nat) (v : Tap) : (putTap p t v s).hostMem = s.hostMem := rfl
@[simp] theorem putTap_peerMem (p t : Nat) (v : Tap) : (putTap p t v s).peerMem = s.peerMem := rfl
@[simp] theorem putTap_stages (p t : Nat) (v : Tap) : (putTap p t v s).stages = s.stages := rfl
@[simp] theorem putTap_arrays (p t : Nat) (v : Tap) : (putTap p t v s).arrays = s.arrays := rfl
@[simp] theorem putTap_stands (p t : Nat) (v : Tap) : (putTap p t v s).stands = s.stands := rfl
@[simp] theorem putTap_ports (p t : Nat) (v : Tap) : (putTap p t v s).ports = s.ports := rfl
@[simp] theorem putTap_rings (p t : Nat) (v : Tap) : (putTap p t v s).rings = s.rings := rfl
@[simp] theorem putTap_sessions (p t : Nat) (v : Tap) : (putTap p t v s).sessions = s.sessions := rfl
@[simp] theorem putTap_orphans (p t : Nat) (v : Tap) : (putTap p t v s).orphans = s.orphans := rfl
@[simp] theorem putTap_reportSeq (p t : Nat) (v : Tap) : (putTap p t v s).reportSeq = s.reportSeq := rfl
@[simp] theorem putTap_mode (p t : Nat) (v : Tap) : (putTap p t v s).mode = s.mode := rfl
@[simp] theorem putTap_epoch (p t : Nat) (v : Tap) : (putTap p t v s).epoch = s.epoch := rfl
@[simp] theorem putTap_tainted (p t : Nat) (v : Tap) : (putTap p t v s).tainted = s.tainted := rfl
@[simp] theorem putTap_taints (p t : Nat) (v : Tap) : (putTap p t v s).taints = s.taints := rfl
@[simp] theorem putTap_taintCount (p t : Nat) (v : Tap) : (putTap p t v s).taintCount = s.taintCount := rfl
@[simp] theorem putTap_srKey (p t : Nat) (v : Tap) : (putTap p t v s).srKey = s.srKey := rfl
@[simp] theorem putTap_lapLen (p t : Nat) (v : Tap) : (putTap p t v s).lapLen = s.lapLen := rfl
@[simp] theorem putTap_traceEn (p t : Nat) (v : Tap) : (putTap p t v s).traceEn = s.traceEn := rfl
@[simp] theorem putTap_traceFirst (p t : Nat) (v : Tap) : (putTap p t v s).traceFirst = s.traceFirst := rfl
@[simp] theorem putTap_traceLast (p t : Nat) (v : Tap) : (putTap p t v s).traceLast = s.traceLast := rfl
@[simp] theorem putTap_vtags (p t : Nat) (v : Tap) : (putTap p t v s).vtags = s.vtags := rfl
@[simp] theorem putTap_links (p t : Nat) (v : Tap) : (putTap p t v s).links = s.links := rfl
@[simp] theorem putTap_credits (p t : Nat) (v : Tap) : (putTap p t v s).credits = s.credits := rfl
@[simp] theorem putTap_creditFly (p t : Nat) (v : Tap) : (putTap p t v s).creditFly = s.creditFly := rfl
@[simp] theorem putTap_moves (p t : Nat) (v : Tap) : (putTap p t v s).moves = s.moves := rfl
@[simp] theorem putTap_steers (p t : Nat) (v : Tap) : (putTap p t v s).steers = s.steers := rfl
@[simp] theorem putTap_nodes (p t : Nat) (v : Tap) : (putTap p t v s).nodes = s.nodes := rfl
@[simp] theorem putTap_seams (p t : Nat) (v : Tap) : (putTap p t v s).seams = s.seams := rfl
@[simp] theorem putTap_memArrs (p t : Nat) (v : Tap) : (putTap p t v s).memArrs = s.memArrs := rfl
@[simp] theorem putTap_svc (p t : Nat) (v : Tap) : (putTap p t v s).svc = s.svc := rfl
@[simp] theorem putTap_svcResp (p t : Nat) (v : Tap) : (putTap p t v s).svcResp = s.svcResp := rfl
@[simp] theorem putTap_svcGot (p t : Nat) (v : Tap) : (putTap p t v s).svcGot = s.svcGot := rfl
@[simp] theorem putTap_svcId (p t : Nat) (v : Tap) : (putTap p t v s).svcId = s.svcId := rfl
@[simp] theorem putTap_mgmtIn (p t : Nat) (v : Tap) : (putTap p t v s).mgmtIn = s.mgmtIn := rfl
@[simp] theorem putTap_waits (p t : Nat) (v : Tap) : (putTap p t v s).waits = s.waits := rfl
@[simp] theorem putTap_dones (p t : Nat) (v : Tap) : (putTap p t v s).dones = s.dones := rfl
@[simp] theorem putTap_xbar (p t : Nat) (v : Tap) : (putTap p t v s).xbar = s.xbar := rfl
@[simp] theorem putTap_turns (p t : Nat) (v : Tap) : (putTap p t v s).turns = s.turns := rfl
@[simp] theorem putTap_draining (p t : Nat) (v : Tap) : (putTap p t v s).draining = s.draining := rfl
@[simp] theorem putTap_drainTallies (p t : Nat) (v : Tap) : (putTap p t v s).drainTallies = s.drainTallies := rfl
@[simp] theorem putTap_drainExc (p t : Nat) (v : Tap) : (putTap p t v s).drainExc = s.drainExc := rfl
@[simp] theorem putTap_excSat (p t : Nat) (v : Tap) : (putTap p t v s).excSat = s.excSat := rfl
@[simp] theorem putTap_image (p t : Nat) (v : Tap) : (putTap p t v s).image = s.image := rfl
@[simp] theorem putTap_plan (p t : Nat) (v : Tap) : (putTap p t v s).plan = s.plan := rfl
@[simp] theorem putTap_logs (p t : Nat) (v : Tap) : (putTap p t v s).logs = s.logs := rfl
@[simp] theorem putTap_descs (p t : Nat) (v : Tap) : (putTap p t v s).descs = s.descs := rfl
@[simp] theorem putTap_hubQs (p t : Nat) (v : Tap) : (putTap p t v s).hubQs = s.hubQs := rfl
@[simp] theorem putTap_hdlStage (p t : Nat) (v : Tap) : (putTap p t v s).hdlStage = s.hdlStage := rfl
@[simp] theorem putTap_dirty (p t : Nat) (v : Tap) : (putTap p t v s).dirty = s.dirty := rfl
@[simp] theorem putTap_otpStage (p t : Nat) (v : Tap) : (putTap p t v s).otpStage = s.otpStage := rfl
@[simp] theorem putTap_gates (p t : Nat) (v : Tap) : (putTap p t v s).gates = s.gates := rfl
@[simp] theorem putTap_suOut (p t : Nat) (v : Tap) : (putTap p t v s).suOut = s.suOut := rfl
@[simp] theorem putTap_arb (p t : Nat) (v : Tap) : (putTap p t v s).arb = s.arb := rfl
@[simp] theorem putTap_fetchOrder (p t : Nat) (v : Tap) : (putTap p t v s).fetchOrder = s.fetchOrder := rfl
@[simp] theorem putTap_decoders (p t : Nat) (v : Tap) : (putTap p t v s).decoders = s.decoders := rfl
@[simp] theorem putTap_gul (p t : Nat) (v : Tap) : (putTap p t v s).gul = s.gul := rfl
@[simp] theorem putTap_lsOn (p t : Nat) (v : Tap) : (putTap p t v s).lsOn = s.lsOn := rfl
@[simp] theorem putTap_hbs (p t : Nat) (v : Tap) : (putTap p t v s).hbs = s.hbs := rfl
@[simp] theorem putTap_snaps (p t : Nat) (v : Tap) : (putTap p t v s).snaps = s.snaps := rfl
@[simp] theorem putTap_saving (p t : Nat) (v : Tap) : (putTap p t v s).saving = s.saving := rfl
@[simp] theorem putTap_planSel (p t : Nat) (v : Tap) : (putTap p t v s).planSel = s.planSel := rfl
@[simp] theorem putTap_planChanged (p t : Nat) (v : Tap) : (putTap p t v s).planChanged = s.planChanged := rfl
@[simp] theorem putTap_reconFailed (p t : Nat) (v : Tap) : (putTap p t v s).reconFailed = s.reconFailed := rfl
@[simp] theorem putTap_hostStall (p t : Nat) (v : Tap) : (putTap p t v s).hostStall = s.hostStall := rfl
@[simp] theorem putTap_lapSet (p t : Nat) (v : Tap) : (putTap p t v s).lapSet = s.lapSet := rfl
@[simp] theorem putTap_excBase (p t : Nat) (v : Tap) : (putTap p t v s).excBase = s.excBase := rfl
@[simp] theorem putTap_sides (p t : Nat) (v : Tap) : (putTap p t v s).sides = s.sides := rfl
@[simp] theorem putTap_ringClk (p t : Nat) (v : Tap) : (putTap p t v s).ringClk = s.ringClk := rfl
@[simp] theorem putTap_power (p t : Nat) (v : Tap) : (putTap p t v s).power = s.power := rfl
@[simp] theorem putTap_bring (p t : Nat) (v : Tap) : (putTap p t v s).bring = s.bring := rfl
@[simp] theorem putTap_fuses (p t : Nat) (v : Tap) : (putTap p t v s).fuses = s.fuses := rfl
@[simp] theorem putTap_fw (p t : Nat) (v : Tap) : (putTap p t v s).fw = s.fw := rfl
@[simp] theorem putTap_dbg (p t : Nat) (v : Tap) : (putTap p t v s).dbg = s.dbg := rfl
@[simp] theorem putTap_timeCtr (p t : Nat) (v : Tap) : (putTap p t v s).timeCtr = s.timeCtr := rfl
@[simp] theorem putTap_measure5 (p t : Nat) (v : Tap) : (putTap p t v s).measure5 = s.measure5 := rfl
@[simp] theorem putTap_cages (p t : Nat) (v : Tap) : (putTap p t v s).cages = s.cages := rfl
@[simp] theorem putTap_shifted (p t : Nat) (v : Tap) : (putTap p t v s).shifted = s.shifted := rfl
@[simp] theorem putTap_authFails (p t : Nat) (v : Tap) : (putTap p t v s).authFails = s.authFails := rfl
@[simp] theorem putTap_rg (p t : Nat) (v : Tap) (i : Nat) : rg (putTap p t v s) i = rg s i := rfl
@[simp] theorem putTap_rf (p t : Nat) (v : Tap) (i : Nat) (g : Fld) : rf (putTap p t v s) i g = rf s i g := rfl
@[simp] theorem putTap_memByte (p t : Nat) (v : Tap) (i : Nat) : memByte (putTap p t v s) i = memByte s i := rfl
@[simp] theorem putTap_tagOf (p t : Nat) (v : Tap) (i : Nat) : tagOf (putTap p t v s) i = tagOf s i := rfl
@[simp] theorem putTap_portOf (p t : Nat) (v : Tap) (i : Nat) : portOf (putTap p t v s) i = portOf s i := rfl
@[simp] theorem putTap_ringOf (p t : Nat) (v : Tap) (i j : Nat) : ringOf (putTap p t v s) i j = ringOf s i j := rfl
@[simp] theorem putTap_standOf (p t : Nat) (v : Tap) (i : Nat) : standOf (putTap p t v s) i = standOf s i := rfl
@[simp] theorem putTap_stageOf (p t : Nat) (v : Tap) (i : Nat) : stageOf (putTap p t v s) i = stageOf s i := rfl
@[simp] theorem putTap_arrOf (p t : Nat) (v : Tap) (i : Nat) : arrOf (putTap p t v s) i = arrOf s i := rfl
@[simp] theorem putTap_sessOf (p t : Nat) (v : Tap) (i : Nat) : sessOf (putTap p t v s) i = sessOf s i := rfl
@[simp] theorem putTap_hubQOf (p t : Nat) (v : Tap) (i j : Nat) : hubQOf (putTap p t v s) i j = hubQOf s i j := rfl
@[simp] theorem putTap_execOf (p t : Nat) (v : Tap) (i j : Nat) : execOf (putTap p t v s) i j = execOf s i j := rfl
@[simp] theorem putTap_gateSt (p t : Nat) (v : Tap) (i j : Nat) : gateSt (putTap p t v s) i j = gateSt s i j := rfl
@[simp] theorem putTap_linkOf (p t : Nat) (v : Tap) (i j l : Nat) : linkOf (putTap p t v s) i j l = linkOf s i j l := rfl
@[simp] theorem putTap_creditOf (p t : Nat) (v : Tap) (i : Nat) : creditOf (putTap p t v s) i = creditOf s i := rfl
@[simp] theorem putTap_steerOf (p t : Nat) (v : Tap) (i j l : Nat) : steerOf (putTap p t v s) i j l = steerOf s i j l := rfl
@[simp] theorem putTap_nodeOf (p t : Nat) (v : Tap) (i j : Nat) : nodeOf (putTap p t v s) i j = nodeOf s i j := rfl
@[simp] theorem putTap_seamOf (p t : Nat) (v : Tap) (i j : Nat) : seamOf (putTap p t v s) i j = seamOf s i j := rfl
@[simp] theorem putTap_memArrOf (p t : Nat) (v : Tap) (i j : Nat) : memArrOf (putTap p t v s) i j = memArrOf s i j := rfl
@[simp] theorem putTap_logOf (p t : Nat) (v : Tap) (i : Nat) : logOf (putTap p t v s) i = logOf s i := rfl
@[simp] theorem putTap_waitOf (p t : Nat) (v : Tap) (y : Waiter) : waitOf (putTap p t v s) y = waitOf s y := rfl
@[simp] theorem putTap_sideOf (p t : Nat) (v : Tap) (i j : Nat) : sideOf (putTap p t v s) i j = sideOf s i j := rfl
@[simp] theorem putTap_fuseOf (p t : Nat) (v : Tap) (i : Nat) : fuseOf (putTap p t v s) i = fuseOf s i := rfl
@[simp] theorem putTap_gsOf (p t : Nat) (v : Tap) (i : Nat) : gsOf (putTap p t v s) i = gsOf s i := rfl
@[simp] theorem putTap_gringOf (p t : Nat) (v : Tap) (i j : Nat) : gringOf (putTap p t v s) i j = gringOf s i j := rfl
@[simp] theorem putTap_lsOwn (p t : Nat) (v : Tap) (i : Nat) : lsOwn (putTap p t v s) i = lsOwn s i := rfl
@[simp] theorem putTap_lsIn (p t : Nat) (v : Tap) (i : Nat) : lsIn (putTap p t v s) i = lsIn s i := rfl
@[simp] theorem putTap_descBytes (p t : Nat) (v : Tap) (i j l : Nat) : descBytes (putTap p t v s) i j l = descBytes s i j l := rfl
@[simp] theorem putTap_svcOf (p t : Nat) (v : Tap) (y : MeshSrc) : svcOf (putTap p t v s) y = svcOf s y := rfl
@[simp] theorem putTap_timeNow (p t : Nat) (v : Tap) : timeNow (putTap p t v s)  = timeNow s := rfl

/-! ### putLog -/

@[simp] theorem putLog_pending (p : Nat) (v : ParityLog) : (putLog p v s).pending = s.pending := rfl
@[simp] theorem putLog_freeCtr (p : Nat) (v : ParityLog) : (putLog p v s).freeCtr = s.freeCtr := rfl
@[simp] theorem putLog_regs (p : Nat) (v : ParityLog) : (putLog p v s).regs = s.regs := rfl
@[simp] theorem putLog_mem (p : Nat) (v : ParityLog) : (putLog p v s).mem = s.mem := rfl
@[simp] theorem putLog_upset (p : Nat) (v : ParityLog) : (putLog p v s).upset = s.upset := rfl
@[simp] theorem putLog_tags (p : Nat) (v : ParityLog) : (putLog p v s).tags = s.tags := rfl
@[simp] theorem putLog_ob (p : Nat) (v : ParityLog) : (putLog p v s).ob = s.ob := rfl
@[simp] theorem putLog_obBad (p : Nat) (v : ParityLog) : (putLog p v s).obBad = s.obBad := rfl
@[simp] theorem putLog_hostMem (p : Nat) (v : ParityLog) : (putLog p v s).hostMem = s.hostMem := rfl
@[simp] theorem putLog_peerMem (p : Nat) (v : ParityLog) : (putLog p v s).peerMem = s.peerMem := rfl
@[simp] theorem putLog_stages (p : Nat) (v : ParityLog) : (putLog p v s).stages = s.stages := rfl
@[simp] theorem putLog_arrays (p : Nat) (v : ParityLog) : (putLog p v s).arrays = s.arrays := rfl
@[simp] theorem putLog_stands (p : Nat) (v : ParityLog) : (putLog p v s).stands = s.stands := rfl
@[simp] theorem putLog_ports (p : Nat) (v : ParityLog) : (putLog p v s).ports = s.ports := rfl
@[simp] theorem putLog_rings (p : Nat) (v : ParityLog) : (putLog p v s).rings = s.rings := rfl
@[simp] theorem putLog_sessions (p : Nat) (v : ParityLog) : (putLog p v s).sessions = s.sessions := rfl
@[simp] theorem putLog_orphans (p : Nat) (v : ParityLog) : (putLog p v s).orphans = s.orphans := rfl
@[simp] theorem putLog_reportSeq (p : Nat) (v : ParityLog) : (putLog p v s).reportSeq = s.reportSeq := rfl
@[simp] theorem putLog_mode (p : Nat) (v : ParityLog) : (putLog p v s).mode = s.mode := rfl
@[simp] theorem putLog_epoch (p : Nat) (v : ParityLog) : (putLog p v s).epoch = s.epoch := rfl
@[simp] theorem putLog_tainted (p : Nat) (v : ParityLog) : (putLog p v s).tainted = s.tainted := rfl
@[simp] theorem putLog_taints (p : Nat) (v : ParityLog) : (putLog p v s).taints = s.taints := rfl
@[simp] theorem putLog_taintCount (p : Nat) (v : ParityLog) : (putLog p v s).taintCount = s.taintCount := rfl
@[simp] theorem putLog_srKey (p : Nat) (v : ParityLog) : (putLog p v s).srKey = s.srKey := rfl
@[simp] theorem putLog_lapLen (p : Nat) (v : ParityLog) : (putLog p v s).lapLen = s.lapLen := rfl
@[simp] theorem putLog_traceEn (p : Nat) (v : ParityLog) : (putLog p v s).traceEn = s.traceEn := rfl
@[simp] theorem putLog_traceFirst (p : Nat) (v : ParityLog) : (putLog p v s).traceFirst = s.traceFirst := rfl
@[simp] theorem putLog_traceLast (p : Nat) (v : ParityLog) : (putLog p v s).traceLast = s.traceLast := rfl
@[simp] theorem putLog_vtags (p : Nat) (v : ParityLog) : (putLog p v s).vtags = s.vtags := rfl
@[simp] theorem putLog_links (p : Nat) (v : ParityLog) : (putLog p v s).links = s.links := rfl
@[simp] theorem putLog_credits (p : Nat) (v : ParityLog) : (putLog p v s).credits = s.credits := rfl
@[simp] theorem putLog_creditFly (p : Nat) (v : ParityLog) : (putLog p v s).creditFly = s.creditFly := rfl
@[simp] theorem putLog_moves (p : Nat) (v : ParityLog) : (putLog p v s).moves = s.moves := rfl
@[simp] theorem putLog_steers (p : Nat) (v : ParityLog) : (putLog p v s).steers = s.steers := rfl
@[simp] theorem putLog_nodes (p : Nat) (v : ParityLog) : (putLog p v s).nodes = s.nodes := rfl
@[simp] theorem putLog_seams (p : Nat) (v : ParityLog) : (putLog p v s).seams = s.seams := rfl
@[simp] theorem putLog_memArrs (p : Nat) (v : ParityLog) : (putLog p v s).memArrs = s.memArrs := rfl
@[simp] theorem putLog_taps (p : Nat) (v : ParityLog) : (putLog p v s).taps = s.taps := rfl
@[simp] theorem putLog_svc (p : Nat) (v : ParityLog) : (putLog p v s).svc = s.svc := rfl
@[simp] theorem putLog_svcResp (p : Nat) (v : ParityLog) : (putLog p v s).svcResp = s.svcResp := rfl
@[simp] theorem putLog_svcGot (p : Nat) (v : ParityLog) : (putLog p v s).svcGot = s.svcGot := rfl
@[simp] theorem putLog_svcId (p : Nat) (v : ParityLog) : (putLog p v s).svcId = s.svcId := rfl
@[simp] theorem putLog_mgmtIn (p : Nat) (v : ParityLog) : (putLog p v s).mgmtIn = s.mgmtIn := rfl
@[simp] theorem putLog_waits (p : Nat) (v : ParityLog) : (putLog p v s).waits = s.waits := rfl
@[simp] theorem putLog_dones (p : Nat) (v : ParityLog) : (putLog p v s).dones = s.dones := rfl
@[simp] theorem putLog_xbar (p : Nat) (v : ParityLog) : (putLog p v s).xbar = s.xbar := rfl
@[simp] theorem putLog_turns (p : Nat) (v : ParityLog) : (putLog p v s).turns = s.turns := rfl
@[simp] theorem putLog_draining (p : Nat) (v : ParityLog) : (putLog p v s).draining = s.draining := rfl
@[simp] theorem putLog_drainTallies (p : Nat) (v : ParityLog) : (putLog p v s).drainTallies = s.drainTallies := rfl
@[simp] theorem putLog_drainExc (p : Nat) (v : ParityLog) : (putLog p v s).drainExc = s.drainExc := rfl
@[simp] theorem putLog_excSat (p : Nat) (v : ParityLog) : (putLog p v s).excSat = s.excSat := rfl
@[simp] theorem putLog_image (p : Nat) (v : ParityLog) : (putLog p v s).image = s.image := rfl
@[simp] theorem putLog_plan (p : Nat) (v : ParityLog) : (putLog p v s).plan = s.plan := rfl
@[simp] theorem putLog_descs (p : Nat) (v : ParityLog) : (putLog p v s).descs = s.descs := rfl
@[simp] theorem putLog_hubQs (p : Nat) (v : ParityLog) : (putLog p v s).hubQs = s.hubQs := rfl
@[simp] theorem putLog_hdlStage (p : Nat) (v : ParityLog) : (putLog p v s).hdlStage = s.hdlStage := rfl
@[simp] theorem putLog_dirty (p : Nat) (v : ParityLog) : (putLog p v s).dirty = s.dirty := rfl
@[simp] theorem putLog_otpStage (p : Nat) (v : ParityLog) : (putLog p v s).otpStage = s.otpStage := rfl
@[simp] theorem putLog_gates (p : Nat) (v : ParityLog) : (putLog p v s).gates = s.gates := rfl
@[simp] theorem putLog_suOut (p : Nat) (v : ParityLog) : (putLog p v s).suOut = s.suOut := rfl
@[simp] theorem putLog_arb (p : Nat) (v : ParityLog) : (putLog p v s).arb = s.arb := rfl
@[simp] theorem putLog_fetchOrder (p : Nat) (v : ParityLog) : (putLog p v s).fetchOrder = s.fetchOrder := rfl
@[simp] theorem putLog_decoders (p : Nat) (v : ParityLog) : (putLog p v s).decoders = s.decoders := rfl
@[simp] theorem putLog_gul (p : Nat) (v : ParityLog) : (putLog p v s).gul = s.gul := rfl
@[simp] theorem putLog_lsOn (p : Nat) (v : ParityLog) : (putLog p v s).lsOn = s.lsOn := rfl
@[simp] theorem putLog_hbs (p : Nat) (v : ParityLog) : (putLog p v s).hbs = s.hbs := rfl
@[simp] theorem putLog_snaps (p : Nat) (v : ParityLog) : (putLog p v s).snaps = s.snaps := rfl
@[simp] theorem putLog_saving (p : Nat) (v : ParityLog) : (putLog p v s).saving = s.saving := rfl
@[simp] theorem putLog_planSel (p : Nat) (v : ParityLog) : (putLog p v s).planSel = s.planSel := rfl
@[simp] theorem putLog_planChanged (p : Nat) (v : ParityLog) : (putLog p v s).planChanged = s.planChanged := rfl
@[simp] theorem putLog_reconFailed (p : Nat) (v : ParityLog) : (putLog p v s).reconFailed = s.reconFailed := rfl
@[simp] theorem putLog_hostStall (p : Nat) (v : ParityLog) : (putLog p v s).hostStall = s.hostStall := rfl
@[simp] theorem putLog_lapSet (p : Nat) (v : ParityLog) : (putLog p v s).lapSet = s.lapSet := rfl
@[simp] theorem putLog_excBase (p : Nat) (v : ParityLog) : (putLog p v s).excBase = s.excBase := rfl
@[simp] theorem putLog_sides (p : Nat) (v : ParityLog) : (putLog p v s).sides = s.sides := rfl
@[simp] theorem putLog_ringClk (p : Nat) (v : ParityLog) : (putLog p v s).ringClk = s.ringClk := rfl
@[simp] theorem putLog_power (p : Nat) (v : ParityLog) : (putLog p v s).power = s.power := rfl
@[simp] theorem putLog_bring (p : Nat) (v : ParityLog) : (putLog p v s).bring = s.bring := rfl
@[simp] theorem putLog_fuses (p : Nat) (v : ParityLog) : (putLog p v s).fuses = s.fuses := rfl
@[simp] theorem putLog_fw (p : Nat) (v : ParityLog) : (putLog p v s).fw = s.fw := rfl
@[simp] theorem putLog_dbg (p : Nat) (v : ParityLog) : (putLog p v s).dbg = s.dbg := rfl
@[simp] theorem putLog_timeCtr (p : Nat) (v : ParityLog) : (putLog p v s).timeCtr = s.timeCtr := rfl
@[simp] theorem putLog_measure5 (p : Nat) (v : ParityLog) : (putLog p v s).measure5 = s.measure5 := rfl
@[simp] theorem putLog_cages (p : Nat) (v : ParityLog) : (putLog p v s).cages = s.cages := rfl
@[simp] theorem putLog_shifted (p : Nat) (v : ParityLog) : (putLog p v s).shifted = s.shifted := rfl
@[simp] theorem putLog_authFails (p : Nat) (v : ParityLog) : (putLog p v s).authFails = s.authFails := rfl
@[simp] theorem putLog_rg (p : Nat) (v : ParityLog) (i : Nat) : rg (putLog p v s) i = rg s i := rfl
@[simp] theorem putLog_rf (p : Nat) (v : ParityLog) (i : Nat) (g : Fld) : rf (putLog p v s) i g = rf s i g := rfl
@[simp] theorem putLog_memByte (p : Nat) (v : ParityLog) (i : Nat) : memByte (putLog p v s) i = memByte s i := rfl
@[simp] theorem putLog_tagOf (p : Nat) (v : ParityLog) (i : Nat) : tagOf (putLog p v s) i = tagOf s i := rfl
@[simp] theorem putLog_portOf (p : Nat) (v : ParityLog) (i : Nat) : portOf (putLog p v s) i = portOf s i := rfl
@[simp] theorem putLog_ringOf (p : Nat) (v : ParityLog) (i j : Nat) : ringOf (putLog p v s) i j = ringOf s i j := rfl
@[simp] theorem putLog_standOf (p : Nat) (v : ParityLog) (i : Nat) : standOf (putLog p v s) i = standOf s i := rfl
@[simp] theorem putLog_stageOf (p : Nat) (v : ParityLog) (i : Nat) : stageOf (putLog p v s) i = stageOf s i := rfl
@[simp] theorem putLog_arrOf (p : Nat) (v : ParityLog) (i : Nat) : arrOf (putLog p v s) i = arrOf s i := rfl
@[simp] theorem putLog_sessOf (p : Nat) (v : ParityLog) (i : Nat) : sessOf (putLog p v s) i = sessOf s i := rfl
@[simp] theorem putLog_hubQOf (p : Nat) (v : ParityLog) (i j : Nat) : hubQOf (putLog p v s) i j = hubQOf s i j := rfl
@[simp] theorem putLog_execOf (p : Nat) (v : ParityLog) (i j : Nat) : execOf (putLog p v s) i j = execOf s i j := rfl
@[simp] theorem putLog_gateSt (p : Nat) (v : ParityLog) (i j : Nat) : gateSt (putLog p v s) i j = gateSt s i j := rfl
@[simp] theorem putLog_linkOf (p : Nat) (v : ParityLog) (i j l : Nat) : linkOf (putLog p v s) i j l = linkOf s i j l := rfl
@[simp] theorem putLog_creditOf (p : Nat) (v : ParityLog) (i : Nat) : creditOf (putLog p v s) i = creditOf s i := rfl
@[simp] theorem putLog_steerOf (p : Nat) (v : ParityLog) (i j l : Nat) : steerOf (putLog p v s) i j l = steerOf s i j l := rfl
@[simp] theorem putLog_nodeOf (p : Nat) (v : ParityLog) (i j : Nat) : nodeOf (putLog p v s) i j = nodeOf s i j := rfl
@[simp] theorem putLog_seamOf (p : Nat) (v : ParityLog) (i j : Nat) : seamOf (putLog p v s) i j = seamOf s i j := rfl
@[simp] theorem putLog_memArrOf (p : Nat) (v : ParityLog) (i j : Nat) : memArrOf (putLog p v s) i j = memArrOf s i j := rfl
@[simp] theorem putLog_tapOf (p : Nat) (v : ParityLog) (i j : Nat) : tapOf (putLog p v s) i j = tapOf s i j := rfl
@[simp] theorem putLog_waitOf (p : Nat) (v : ParityLog) (y : Waiter) : waitOf (putLog p v s) y = waitOf s y := rfl
@[simp] theorem putLog_sideOf (p : Nat) (v : ParityLog) (i j : Nat) : sideOf (putLog p v s) i j = sideOf s i j := rfl
@[simp] theorem putLog_fuseOf (p : Nat) (v : ParityLog) (i : Nat) : fuseOf (putLog p v s) i = fuseOf s i := rfl
@[simp] theorem putLog_gsOf (p : Nat) (v : ParityLog) (i : Nat) : gsOf (putLog p v s) i = gsOf s i := rfl
@[simp] theorem putLog_gringOf (p : Nat) (v : ParityLog) (i j : Nat) : gringOf (putLog p v s) i j = gringOf s i j := rfl
@[simp] theorem putLog_lsOwn (p : Nat) (v : ParityLog) (i : Nat) : lsOwn (putLog p v s) i = lsOwn s i := rfl
@[simp] theorem putLog_lsIn (p : Nat) (v : ParityLog) (i : Nat) : lsIn (putLog p v s) i = lsIn s i := rfl
@[simp] theorem putLog_descBytes (p : Nat) (v : ParityLog) (i j l : Nat) : descBytes (putLog p v s) i j l = descBytes s i j l := rfl
@[simp] theorem putLog_svcOf (p : Nat) (v : ParityLog) (y : MeshSrc) : svcOf (putLog p v s) y = svcOf s y := rfl
@[simp] theorem putLog_timeNow (p : Nat) (v : ParityLog) : timeNow (putLog p v s)  = timeNow s := rfl

/-! ### addWait -/

@[simp] theorem addWait_pending (n : Nat) (x : Word) (w : Waiter) (v : Option MeshSrc) : (addWait n x w v s).pending = s.pending := rfl
@[simp] theorem addWait_freeCtr (n : Nat) (x : Word) (w : Waiter) (v : Option MeshSrc) : (addWait n x w v s).freeCtr = s.freeCtr := rfl
@[simp] theorem addWait_regs (n : Nat) (x : Word) (w : Waiter) (v : Option MeshSrc) : (addWait n x w v s).regs = s.regs := rfl
@[simp] theorem addWait_mem (n : Nat) (x : Word) (w : Waiter) (v : Option MeshSrc) : (addWait n x w v s).mem = s.mem := rfl
@[simp] theorem addWait_upset (n : Nat) (x : Word) (w : Waiter) (v : Option MeshSrc) : (addWait n x w v s).upset = s.upset := rfl
@[simp] theorem addWait_tags (n : Nat) (x : Word) (w : Waiter) (v : Option MeshSrc) : (addWait n x w v s).tags = s.tags := rfl
@[simp] theorem addWait_ob (n : Nat) (x : Word) (w : Waiter) (v : Option MeshSrc) : (addWait n x w v s).ob = s.ob := rfl
@[simp] theorem addWait_obBad (n : Nat) (x : Word) (w : Waiter) (v : Option MeshSrc) : (addWait n x w v s).obBad = s.obBad := rfl
@[simp] theorem addWait_hostMem (n : Nat) (x : Word) (w : Waiter) (v : Option MeshSrc) : (addWait n x w v s).hostMem = s.hostMem := rfl
@[simp] theorem addWait_peerMem (n : Nat) (x : Word) (w : Waiter) (v : Option MeshSrc) : (addWait n x w v s).peerMem = s.peerMem := rfl
@[simp] theorem addWait_stages (n : Nat) (x : Word) (w : Waiter) (v : Option MeshSrc) : (addWait n x w v s).stages = s.stages := rfl
@[simp] theorem addWait_arrays (n : Nat) (x : Word) (w : Waiter) (v : Option MeshSrc) : (addWait n x w v s).arrays = s.arrays := rfl
@[simp] theorem addWait_stands (n : Nat) (x : Word) (w : Waiter) (v : Option MeshSrc) : (addWait n x w v s).stands = s.stands := rfl
@[simp] theorem addWait_ports (n : Nat) (x : Word) (w : Waiter) (v : Option MeshSrc) : (addWait n x w v s).ports = s.ports := rfl
@[simp] theorem addWait_rings (n : Nat) (x : Word) (w : Waiter) (v : Option MeshSrc) : (addWait n x w v s).rings = s.rings := rfl
@[simp] theorem addWait_sessions (n : Nat) (x : Word) (w : Waiter) (v : Option MeshSrc) : (addWait n x w v s).sessions = s.sessions := rfl
@[simp] theorem addWait_orphans (n : Nat) (x : Word) (w : Waiter) (v : Option MeshSrc) : (addWait n x w v s).orphans = s.orphans := rfl
@[simp] theorem addWait_reportSeq (n : Nat) (x : Word) (w : Waiter) (v : Option MeshSrc) : (addWait n x w v s).reportSeq = s.reportSeq := rfl
@[simp] theorem addWait_mode (n : Nat) (x : Word) (w : Waiter) (v : Option MeshSrc) : (addWait n x w v s).mode = s.mode := rfl
@[simp] theorem addWait_epoch (n : Nat) (x : Word) (w : Waiter) (v : Option MeshSrc) : (addWait n x w v s).epoch = s.epoch := rfl
@[simp] theorem addWait_tainted (n : Nat) (x : Word) (w : Waiter) (v : Option MeshSrc) : (addWait n x w v s).tainted = s.tainted := rfl
@[simp] theorem addWait_taints (n : Nat) (x : Word) (w : Waiter) (v : Option MeshSrc) : (addWait n x w v s).taints = s.taints := rfl
@[simp] theorem addWait_taintCount (n : Nat) (x : Word) (w : Waiter) (v : Option MeshSrc) : (addWait n x w v s).taintCount = s.taintCount := rfl
@[simp] theorem addWait_srKey (n : Nat) (x : Word) (w : Waiter) (v : Option MeshSrc) : (addWait n x w v s).srKey = s.srKey := rfl
@[simp] theorem addWait_lapLen (n : Nat) (x : Word) (w : Waiter) (v : Option MeshSrc) : (addWait n x w v s).lapLen = s.lapLen := rfl
@[simp] theorem addWait_traceEn (n : Nat) (x : Word) (w : Waiter) (v : Option MeshSrc) : (addWait n x w v s).traceEn = s.traceEn := rfl
@[simp] theorem addWait_traceFirst (n : Nat) (x : Word) (w : Waiter) (v : Option MeshSrc) : (addWait n x w v s).traceFirst = s.traceFirst := rfl
@[simp] theorem addWait_traceLast (n : Nat) (x : Word) (w : Waiter) (v : Option MeshSrc) : (addWait n x w v s).traceLast = s.traceLast := rfl
@[simp] theorem addWait_vtags (n : Nat) (x : Word) (w : Waiter) (v : Option MeshSrc) : (addWait n x w v s).vtags = s.vtags := rfl
@[simp] theorem addWait_links (n : Nat) (x : Word) (w : Waiter) (v : Option MeshSrc) : (addWait n x w v s).links = s.links := rfl
@[simp] theorem addWait_credits (n : Nat) (x : Word) (w : Waiter) (v : Option MeshSrc) : (addWait n x w v s).credits = s.credits := rfl
@[simp] theorem addWait_creditFly (n : Nat) (x : Word) (w : Waiter) (v : Option MeshSrc) : (addWait n x w v s).creditFly = s.creditFly := rfl
@[simp] theorem addWait_moves (n : Nat) (x : Word) (w : Waiter) (v : Option MeshSrc) : (addWait n x w v s).moves = s.moves := rfl
@[simp] theorem addWait_steers (n : Nat) (x : Word) (w : Waiter) (v : Option MeshSrc) : (addWait n x w v s).steers = s.steers := rfl
@[simp] theorem addWait_nodes (n : Nat) (x : Word) (w : Waiter) (v : Option MeshSrc) : (addWait n x w v s).nodes = s.nodes := rfl
@[simp] theorem addWait_seams (n : Nat) (x : Word) (w : Waiter) (v : Option MeshSrc) : (addWait n x w v s).seams = s.seams := rfl
@[simp] theorem addWait_memArrs (n : Nat) (x : Word) (w : Waiter) (v : Option MeshSrc) : (addWait n x w v s).memArrs = s.memArrs := rfl
@[simp] theorem addWait_taps (n : Nat) (x : Word) (w : Waiter) (v : Option MeshSrc) : (addWait n x w v s).taps = s.taps := rfl
@[simp] theorem addWait_svc (n : Nat) (x : Word) (w : Waiter) (v : Option MeshSrc) : (addWait n x w v s).svc = s.svc := rfl
@[simp] theorem addWait_svcResp (n : Nat) (x : Word) (w : Waiter) (v : Option MeshSrc) : (addWait n x w v s).svcResp = s.svcResp := rfl
@[simp] theorem addWait_svcGot (n : Nat) (x : Word) (w : Waiter) (v : Option MeshSrc) : (addWait n x w v s).svcGot = s.svcGot := rfl
@[simp] theorem addWait_svcId (n : Nat) (x : Word) (w : Waiter) (v : Option MeshSrc) : (addWait n x w v s).svcId = s.svcId := rfl
@[simp] theorem addWait_mgmtIn (n : Nat) (x : Word) (w : Waiter) (v : Option MeshSrc) : (addWait n x w v s).mgmtIn = s.mgmtIn := rfl
@[simp] theorem addWait_dones (n : Nat) (x : Word) (w : Waiter) (v : Option MeshSrc) : (addWait n x w v s).dones = s.dones := rfl
@[simp] theorem addWait_xbar (n : Nat) (x : Word) (w : Waiter) (v : Option MeshSrc) : (addWait n x w v s).xbar = s.xbar := rfl
@[simp] theorem addWait_turns (n : Nat) (x : Word) (w : Waiter) (v : Option MeshSrc) : (addWait n x w v s).turns = s.turns := rfl
@[simp] theorem addWait_draining (n : Nat) (x : Word) (w : Waiter) (v : Option MeshSrc) : (addWait n x w v s).draining = s.draining := rfl
@[simp] theorem addWait_drainTallies (n : Nat) (x : Word) (w : Waiter) (v : Option MeshSrc) : (addWait n x w v s).drainTallies = s.drainTallies := rfl
@[simp] theorem addWait_drainExc (n : Nat) (x : Word) (w : Waiter) (v : Option MeshSrc) : (addWait n x w v s).drainExc = s.drainExc := rfl
@[simp] theorem addWait_excSat (n : Nat) (x : Word) (w : Waiter) (v : Option MeshSrc) : (addWait n x w v s).excSat = s.excSat := rfl
@[simp] theorem addWait_image (n : Nat) (x : Word) (w : Waiter) (v : Option MeshSrc) : (addWait n x w v s).image = s.image := rfl
@[simp] theorem addWait_plan (n : Nat) (x : Word) (w : Waiter) (v : Option MeshSrc) : (addWait n x w v s).plan = s.plan := rfl
@[simp] theorem addWait_logs (n : Nat) (x : Word) (w : Waiter) (v : Option MeshSrc) : (addWait n x w v s).logs = s.logs := rfl
@[simp] theorem addWait_descs (n : Nat) (x : Word) (w : Waiter) (v : Option MeshSrc) : (addWait n x w v s).descs = s.descs := rfl
@[simp] theorem addWait_hubQs (n : Nat) (x : Word) (w : Waiter) (v : Option MeshSrc) : (addWait n x w v s).hubQs = s.hubQs := rfl
@[simp] theorem addWait_hdlStage (n : Nat) (x : Word) (w : Waiter) (v : Option MeshSrc) : (addWait n x w v s).hdlStage = s.hdlStage := rfl
@[simp] theorem addWait_dirty (n : Nat) (x : Word) (w : Waiter) (v : Option MeshSrc) : (addWait n x w v s).dirty = s.dirty := rfl
@[simp] theorem addWait_otpStage (n : Nat) (x : Word) (w : Waiter) (v : Option MeshSrc) : (addWait n x w v s).otpStage = s.otpStage := rfl
@[simp] theorem addWait_gates (n : Nat) (x : Word) (w : Waiter) (v : Option MeshSrc) : (addWait n x w v s).gates = s.gates := rfl
@[simp] theorem addWait_suOut (n : Nat) (x : Word) (w : Waiter) (v : Option MeshSrc) : (addWait n x w v s).suOut = s.suOut := rfl
@[simp] theorem addWait_arb (n : Nat) (x : Word) (w : Waiter) (v : Option MeshSrc) : (addWait n x w v s).arb = s.arb := rfl
@[simp] theorem addWait_fetchOrder (n : Nat) (x : Word) (w : Waiter) (v : Option MeshSrc) : (addWait n x w v s).fetchOrder = s.fetchOrder := rfl
@[simp] theorem addWait_decoders (n : Nat) (x : Word) (w : Waiter) (v : Option MeshSrc) : (addWait n x w v s).decoders = s.decoders := rfl
@[simp] theorem addWait_gul (n : Nat) (x : Word) (w : Waiter) (v : Option MeshSrc) : (addWait n x w v s).gul = s.gul := rfl
@[simp] theorem addWait_lsOn (n : Nat) (x : Word) (w : Waiter) (v : Option MeshSrc) : (addWait n x w v s).lsOn = s.lsOn := rfl
@[simp] theorem addWait_hbs (n : Nat) (x : Word) (w : Waiter) (v : Option MeshSrc) : (addWait n x w v s).hbs = s.hbs := rfl
@[simp] theorem addWait_snaps (n : Nat) (x : Word) (w : Waiter) (v : Option MeshSrc) : (addWait n x w v s).snaps = s.snaps := rfl
@[simp] theorem addWait_saving (n : Nat) (x : Word) (w : Waiter) (v : Option MeshSrc) : (addWait n x w v s).saving = s.saving := rfl
@[simp] theorem addWait_planSel (n : Nat) (x : Word) (w : Waiter) (v : Option MeshSrc) : (addWait n x w v s).planSel = s.planSel := rfl
@[simp] theorem addWait_planChanged (n : Nat) (x : Word) (w : Waiter) (v : Option MeshSrc) : (addWait n x w v s).planChanged = s.planChanged := rfl
@[simp] theorem addWait_reconFailed (n : Nat) (x : Word) (w : Waiter) (v : Option MeshSrc) : (addWait n x w v s).reconFailed = s.reconFailed := rfl
@[simp] theorem addWait_hostStall (n : Nat) (x : Word) (w : Waiter) (v : Option MeshSrc) : (addWait n x w v s).hostStall = s.hostStall := rfl
@[simp] theorem addWait_lapSet (n : Nat) (x : Word) (w : Waiter) (v : Option MeshSrc) : (addWait n x w v s).lapSet = s.lapSet := rfl
@[simp] theorem addWait_excBase (n : Nat) (x : Word) (w : Waiter) (v : Option MeshSrc) : (addWait n x w v s).excBase = s.excBase := rfl
@[simp] theorem addWait_sides (n : Nat) (x : Word) (w : Waiter) (v : Option MeshSrc) : (addWait n x w v s).sides = s.sides := rfl
@[simp] theorem addWait_ringClk (n : Nat) (x : Word) (w : Waiter) (v : Option MeshSrc) : (addWait n x w v s).ringClk = s.ringClk := rfl
@[simp] theorem addWait_power (n : Nat) (x : Word) (w : Waiter) (v : Option MeshSrc) : (addWait n x w v s).power = s.power := rfl
@[simp] theorem addWait_bring (n : Nat) (x : Word) (w : Waiter) (v : Option MeshSrc) : (addWait n x w v s).bring = s.bring := rfl
@[simp] theorem addWait_fuses (n : Nat) (x : Word) (w : Waiter) (v : Option MeshSrc) : (addWait n x w v s).fuses = s.fuses := rfl
@[simp] theorem addWait_fw (n : Nat) (x : Word) (w : Waiter) (v : Option MeshSrc) : (addWait n x w v s).fw = s.fw := rfl
@[simp] theorem addWait_dbg (n : Nat) (x : Word) (w : Waiter) (v : Option MeshSrc) : (addWait n x w v s).dbg = s.dbg := rfl
@[simp] theorem addWait_timeCtr (n : Nat) (x : Word) (w : Waiter) (v : Option MeshSrc) : (addWait n x w v s).timeCtr = s.timeCtr := rfl
@[simp] theorem addWait_measure5 (n : Nat) (x : Word) (w : Waiter) (v : Option MeshSrc) : (addWait n x w v s).measure5 = s.measure5 := rfl
@[simp] theorem addWait_cages (n : Nat) (x : Word) (w : Waiter) (v : Option MeshSrc) : (addWait n x w v s).cages = s.cages := rfl
@[simp] theorem addWait_shifted (n : Nat) (x : Word) (w : Waiter) (v : Option MeshSrc) : (addWait n x w v s).shifted = s.shifted := rfl
@[simp] theorem addWait_authFails (n : Nat) (x : Word) (w : Waiter) (v : Option MeshSrc) : (addWait n x w v s).authFails = s.authFails := rfl
@[simp] theorem addWait_rg (n : Nat) (x : Word) (w : Waiter) (v : Option MeshSrc) (i : Nat) : rg (addWait n x w v s) i = rg s i := rfl
@[simp] theorem addWait_rf (n : Nat) (x : Word) (w : Waiter) (v : Option MeshSrc) (i : Nat) (g : Fld) : rf (addWait n x w v s) i g = rf s i g := rfl
@[simp] theorem addWait_memByte (n : Nat) (x : Word) (w : Waiter) (v : Option MeshSrc) (i : Nat) : memByte (addWait n x w v s) i = memByte s i := rfl
@[simp] theorem addWait_tagOf (n : Nat) (x : Word) (w : Waiter) (v : Option MeshSrc) (i : Nat) : tagOf (addWait n x w v s) i = tagOf s i := rfl
@[simp] theorem addWait_portOf (n : Nat) (x : Word) (w : Waiter) (v : Option MeshSrc) (i : Nat) : portOf (addWait n x w v s) i = portOf s i := rfl
@[simp] theorem addWait_ringOf (n : Nat) (x : Word) (w : Waiter) (v : Option MeshSrc) (i j : Nat) : ringOf (addWait n x w v s) i j = ringOf s i j := rfl
@[simp] theorem addWait_standOf (n : Nat) (x : Word) (w : Waiter) (v : Option MeshSrc) (i : Nat) : standOf (addWait n x w v s) i = standOf s i := rfl
@[simp] theorem addWait_stageOf (n : Nat) (x : Word) (w : Waiter) (v : Option MeshSrc) (i : Nat) : stageOf (addWait n x w v s) i = stageOf s i := rfl
@[simp] theorem addWait_arrOf (n : Nat) (x : Word) (w : Waiter) (v : Option MeshSrc) (i : Nat) : arrOf (addWait n x w v s) i = arrOf s i := rfl
@[simp] theorem addWait_sessOf (n : Nat) (x : Word) (w : Waiter) (v : Option MeshSrc) (i : Nat) : sessOf (addWait n x w v s) i = sessOf s i := rfl
@[simp] theorem addWait_hubQOf (n : Nat) (x : Word) (w : Waiter) (v : Option MeshSrc) (i j : Nat) : hubQOf (addWait n x w v s) i j = hubQOf s i j := rfl
@[simp] theorem addWait_execOf (n : Nat) (x : Word) (w : Waiter) (v : Option MeshSrc) (i j : Nat) : execOf (addWait n x w v s) i j = execOf s i j := rfl
@[simp] theorem addWait_gateSt (n : Nat) (x : Word) (w : Waiter) (v : Option MeshSrc) (i j : Nat) : gateSt (addWait n x w v s) i j = gateSt s i j := rfl
@[simp] theorem addWait_linkOf (n : Nat) (x : Word) (w : Waiter) (v : Option MeshSrc) (i j l : Nat) : linkOf (addWait n x w v s) i j l = linkOf s i j l := rfl
@[simp] theorem addWait_creditOf (n : Nat) (x : Word) (w : Waiter) (v : Option MeshSrc) (i : Nat) : creditOf (addWait n x w v s) i = creditOf s i := rfl
@[simp] theorem addWait_steerOf (n : Nat) (x : Word) (w : Waiter) (v : Option MeshSrc) (i j l : Nat) : steerOf (addWait n x w v s) i j l = steerOf s i j l := rfl
@[simp] theorem addWait_nodeOf (n : Nat) (x : Word) (w : Waiter) (v : Option MeshSrc) (i j : Nat) : nodeOf (addWait n x w v s) i j = nodeOf s i j := rfl
@[simp] theorem addWait_seamOf (n : Nat) (x : Word) (w : Waiter) (v : Option MeshSrc) (i j : Nat) : seamOf (addWait n x w v s) i j = seamOf s i j := rfl
@[simp] theorem addWait_memArrOf (n : Nat) (x : Word) (w : Waiter) (v : Option MeshSrc) (i j : Nat) : memArrOf (addWait n x w v s) i j = memArrOf s i j := rfl
@[simp] theorem addWait_tapOf (n : Nat) (x : Word) (w : Waiter) (v : Option MeshSrc) (i j : Nat) : tapOf (addWait n x w v s) i j = tapOf s i j := rfl
@[simp] theorem addWait_logOf (n : Nat) (x : Word) (w : Waiter) (v : Option MeshSrc) (i : Nat) : logOf (addWait n x w v s) i = logOf s i := rfl
@[simp] theorem addWait_sideOf (n : Nat) (x : Word) (w : Waiter) (v : Option MeshSrc) (i j : Nat) : sideOf (addWait n x w v s) i j = sideOf s i j := rfl
@[simp] theorem addWait_fuseOf (n : Nat) (x : Word) (w : Waiter) (v : Option MeshSrc) (i : Nat) : fuseOf (addWait n x w v s) i = fuseOf s i := rfl
@[simp] theorem addWait_gsOf (n : Nat) (x : Word) (w : Waiter) (v : Option MeshSrc) (i : Nat) : gsOf (addWait n x w v s) i = gsOf s i := rfl
@[simp] theorem addWait_gringOf (n : Nat) (x : Word) (w : Waiter) (v : Option MeshSrc) (i j : Nat) : gringOf (addWait n x w v s) i j = gringOf s i j := rfl
@[simp] theorem addWait_lsOwn (n : Nat) (x : Word) (w : Waiter) (v : Option MeshSrc) (i : Nat) : lsOwn (addWait n x w v s) i = lsOwn s i := rfl
@[simp] theorem addWait_lsIn (n : Nat) (x : Word) (w : Waiter) (v : Option MeshSrc) (i : Nat) : lsIn (addWait n x w v s) i = lsIn s i := rfl
@[simp] theorem addWait_descBytes (n : Nat) (x : Word) (w : Waiter) (v : Option MeshSrc) (i j l : Nat) : descBytes (addWait n x w v s) i j l = descBytes s i j l := rfl
@[simp] theorem addWait_svcOf (n : Nat) (x : Word) (w : Waiter) (v : Option MeshSrc) (y : MeshSrc) : svcOf (addWait n x w v s) y = svcOf s y := rfl
@[simp] theorem addWait_timeNow (n : Nat) (x : Word) (w : Waiter) (v : Option MeshSrc) : timeNow (addWait n x w v s)  = timeNow s := rfl

/-! ### dropWait -/

@[simp] theorem dropWait_pending (w : Waiter) : (dropWait w s).pending = s.pending := rfl
@[simp] theorem dropWait_freeCtr (w : Waiter) : (dropWait w s).freeCtr = s.freeCtr := rfl
@[simp] theorem dropWait_regs (w : Waiter) : (dropWait w s).regs = s.regs := rfl
@[simp] theorem dropWait_mem (w : Waiter) : (dropWait w s).mem = s.mem := rfl
@[simp] theorem dropWait_upset (w : Waiter) : (dropWait w s).upset = s.upset := rfl
@[simp] theorem dropWait_tags (w : Waiter) : (dropWait w s).tags = s.tags := rfl
@[simp] theorem dropWait_ob (w : Waiter) : (dropWait w s).ob = s.ob := rfl
@[simp] theorem dropWait_obBad (w : Waiter) : (dropWait w s).obBad = s.obBad := rfl
@[simp] theorem dropWait_hostMem (w : Waiter) : (dropWait w s).hostMem = s.hostMem := rfl
@[simp] theorem dropWait_peerMem (w : Waiter) : (dropWait w s).peerMem = s.peerMem := rfl
@[simp] theorem dropWait_stages (w : Waiter) : (dropWait w s).stages = s.stages := rfl
@[simp] theorem dropWait_arrays (w : Waiter) : (dropWait w s).arrays = s.arrays := rfl
@[simp] theorem dropWait_stands (w : Waiter) : (dropWait w s).stands = s.stands := rfl
@[simp] theorem dropWait_ports (w : Waiter) : (dropWait w s).ports = s.ports := rfl
@[simp] theorem dropWait_rings (w : Waiter) : (dropWait w s).rings = s.rings := rfl
@[simp] theorem dropWait_sessions (w : Waiter) : (dropWait w s).sessions = s.sessions := rfl
@[simp] theorem dropWait_orphans (w : Waiter) : (dropWait w s).orphans = s.orphans := rfl
@[simp] theorem dropWait_reportSeq (w : Waiter) : (dropWait w s).reportSeq = s.reportSeq := rfl
@[simp] theorem dropWait_mode (w : Waiter) : (dropWait w s).mode = s.mode := rfl
@[simp] theorem dropWait_epoch (w : Waiter) : (dropWait w s).epoch = s.epoch := rfl
@[simp] theorem dropWait_tainted (w : Waiter) : (dropWait w s).tainted = s.tainted := rfl
@[simp] theorem dropWait_taints (w : Waiter) : (dropWait w s).taints = s.taints := rfl
@[simp] theorem dropWait_taintCount (w : Waiter) : (dropWait w s).taintCount = s.taintCount := rfl
@[simp] theorem dropWait_srKey (w : Waiter) : (dropWait w s).srKey = s.srKey := rfl
@[simp] theorem dropWait_lapLen (w : Waiter) : (dropWait w s).lapLen = s.lapLen := rfl
@[simp] theorem dropWait_traceEn (w : Waiter) : (dropWait w s).traceEn = s.traceEn := rfl
@[simp] theorem dropWait_traceFirst (w : Waiter) : (dropWait w s).traceFirst = s.traceFirst := rfl
@[simp] theorem dropWait_traceLast (w : Waiter) : (dropWait w s).traceLast = s.traceLast := rfl
@[simp] theorem dropWait_vtags (w : Waiter) : (dropWait w s).vtags = s.vtags := rfl
@[simp] theorem dropWait_links (w : Waiter) : (dropWait w s).links = s.links := rfl
@[simp] theorem dropWait_credits (w : Waiter) : (dropWait w s).credits = s.credits := rfl
@[simp] theorem dropWait_creditFly (w : Waiter) : (dropWait w s).creditFly = s.creditFly := rfl
@[simp] theorem dropWait_moves (w : Waiter) : (dropWait w s).moves = s.moves := rfl
@[simp] theorem dropWait_steers (w : Waiter) : (dropWait w s).steers = s.steers := rfl
@[simp] theorem dropWait_nodes (w : Waiter) : (dropWait w s).nodes = s.nodes := rfl
@[simp] theorem dropWait_seams (w : Waiter) : (dropWait w s).seams = s.seams := rfl
@[simp] theorem dropWait_memArrs (w : Waiter) : (dropWait w s).memArrs = s.memArrs := rfl
@[simp] theorem dropWait_taps (w : Waiter) : (dropWait w s).taps = s.taps := rfl
@[simp] theorem dropWait_svcGot (w : Waiter) : (dropWait w s).svcGot = s.svcGot := rfl
@[simp] theorem dropWait_svcId (w : Waiter) : (dropWait w s).svcId = s.svcId := rfl
@[simp] theorem dropWait_mgmtIn (w : Waiter) : (dropWait w s).mgmtIn = s.mgmtIn := rfl
@[simp] theorem dropWait_dones (w : Waiter) : (dropWait w s).dones = s.dones := rfl
@[simp] theorem dropWait_xbar (w : Waiter) : (dropWait w s).xbar = s.xbar := rfl
@[simp] theorem dropWait_turns (w : Waiter) : (dropWait w s).turns = s.turns := rfl
@[simp] theorem dropWait_draining (w : Waiter) : (dropWait w s).draining = s.draining := rfl
@[simp] theorem dropWait_drainTallies (w : Waiter) : (dropWait w s).drainTallies = s.drainTallies := rfl
@[simp] theorem dropWait_drainExc (w : Waiter) : (dropWait w s).drainExc = s.drainExc := rfl
@[simp] theorem dropWait_excSat (w : Waiter) : (dropWait w s).excSat = s.excSat := rfl
@[simp] theorem dropWait_image (w : Waiter) : (dropWait w s).image = s.image := rfl
@[simp] theorem dropWait_plan (w : Waiter) : (dropWait w s).plan = s.plan := rfl
@[simp] theorem dropWait_logs (w : Waiter) : (dropWait w s).logs = s.logs := rfl
@[simp] theorem dropWait_descs (w : Waiter) : (dropWait w s).descs = s.descs := rfl
@[simp] theorem dropWait_hubQs (w : Waiter) : (dropWait w s).hubQs = s.hubQs := rfl
@[simp] theorem dropWait_hdlStage (w : Waiter) : (dropWait w s).hdlStage = s.hdlStage := rfl
@[simp] theorem dropWait_dirty (w : Waiter) : (dropWait w s).dirty = s.dirty := rfl
@[simp] theorem dropWait_otpStage (w : Waiter) : (dropWait w s).otpStage = s.otpStage := rfl
@[simp] theorem dropWait_gates (w : Waiter) : (dropWait w s).gates = s.gates := rfl
@[simp] theorem dropWait_suOut (w : Waiter) : (dropWait w s).suOut = s.suOut := rfl
@[simp] theorem dropWait_arb (w : Waiter) : (dropWait w s).arb = s.arb := rfl
@[simp] theorem dropWait_fetchOrder (w : Waiter) : (dropWait w s).fetchOrder = s.fetchOrder := rfl
@[simp] theorem dropWait_decoders (w : Waiter) : (dropWait w s).decoders = s.decoders := rfl
@[simp] theorem dropWait_gul (w : Waiter) : (dropWait w s).gul = s.gul := rfl
@[simp] theorem dropWait_lsOn (w : Waiter) : (dropWait w s).lsOn = s.lsOn := rfl
@[simp] theorem dropWait_hbs (w : Waiter) : (dropWait w s).hbs = s.hbs := rfl
@[simp] theorem dropWait_snaps (w : Waiter) : (dropWait w s).snaps = s.snaps := rfl
@[simp] theorem dropWait_saving (w : Waiter) : (dropWait w s).saving = s.saving := rfl
@[simp] theorem dropWait_planSel (w : Waiter) : (dropWait w s).planSel = s.planSel := rfl
@[simp] theorem dropWait_planChanged (w : Waiter) : (dropWait w s).planChanged = s.planChanged := rfl
@[simp] theorem dropWait_reconFailed (w : Waiter) : (dropWait w s).reconFailed = s.reconFailed := rfl
@[simp] theorem dropWait_hostStall (w : Waiter) : (dropWait w s).hostStall = s.hostStall := rfl
@[simp] theorem dropWait_lapSet (w : Waiter) : (dropWait w s).lapSet = s.lapSet := rfl
@[simp] theorem dropWait_excBase (w : Waiter) : (dropWait w s).excBase = s.excBase := rfl
@[simp] theorem dropWait_sides (w : Waiter) : (dropWait w s).sides = s.sides := rfl
@[simp] theorem dropWait_ringClk (w : Waiter) : (dropWait w s).ringClk = s.ringClk := rfl
@[simp] theorem dropWait_power (w : Waiter) : (dropWait w s).power = s.power := rfl
@[simp] theorem dropWait_bring (w : Waiter) : (dropWait w s).bring = s.bring := rfl
@[simp] theorem dropWait_fuses (w : Waiter) : (dropWait w s).fuses = s.fuses := rfl
@[simp] theorem dropWait_fw (w : Waiter) : (dropWait w s).fw = s.fw := rfl
@[simp] theorem dropWait_dbg (w : Waiter) : (dropWait w s).dbg = s.dbg := rfl
@[simp] theorem dropWait_timeCtr (w : Waiter) : (dropWait w s).timeCtr = s.timeCtr := rfl
@[simp] theorem dropWait_measure5 (w : Waiter) : (dropWait w s).measure5 = s.measure5 := rfl
@[simp] theorem dropWait_cages (w : Waiter) : (dropWait w s).cages = s.cages := rfl
@[simp] theorem dropWait_shifted (w : Waiter) : (dropWait w s).shifted = s.shifted := rfl
@[simp] theorem dropWait_authFails (w : Waiter) : (dropWait w s).authFails = s.authFails := rfl
@[simp] theorem dropWait_rg (w : Waiter) (i : Nat) : rg (dropWait w s) i = rg s i := rfl
@[simp] theorem dropWait_rf (w : Waiter) (i : Nat) (g : Fld) : rf (dropWait w s) i g = rf s i g := rfl
@[simp] theorem dropWait_memByte (w : Waiter) (i : Nat) : memByte (dropWait w s) i = memByte s i := rfl
@[simp] theorem dropWait_tagOf (w : Waiter) (i : Nat) : tagOf (dropWait w s) i = tagOf s i := rfl
@[simp] theorem dropWait_portOf (w : Waiter) (i : Nat) : portOf (dropWait w s) i = portOf s i := rfl
@[simp] theorem dropWait_ringOf (w : Waiter) (i j : Nat) : ringOf (dropWait w s) i j = ringOf s i j := rfl
@[simp] theorem dropWait_standOf (w : Waiter) (i : Nat) : standOf (dropWait w s) i = standOf s i := rfl
@[simp] theorem dropWait_stageOf (w : Waiter) (i : Nat) : stageOf (dropWait w s) i = stageOf s i := rfl
@[simp] theorem dropWait_arrOf (w : Waiter) (i : Nat) : arrOf (dropWait w s) i = arrOf s i := rfl
@[simp] theorem dropWait_sessOf (w : Waiter) (i : Nat) : sessOf (dropWait w s) i = sessOf s i := rfl
@[simp] theorem dropWait_hubQOf (w : Waiter) (i j : Nat) : hubQOf (dropWait w s) i j = hubQOf s i j := rfl
@[simp] theorem dropWait_execOf (w : Waiter) (i j : Nat) : execOf (dropWait w s) i j = execOf s i j := rfl
@[simp] theorem dropWait_gateSt (w : Waiter) (i j : Nat) : gateSt (dropWait w s) i j = gateSt s i j := rfl
@[simp] theorem dropWait_linkOf (w : Waiter) (i j l : Nat) : linkOf (dropWait w s) i j l = linkOf s i j l := rfl
@[simp] theorem dropWait_creditOf (w : Waiter) (i : Nat) : creditOf (dropWait w s) i = creditOf s i := rfl
@[simp] theorem dropWait_steerOf (w : Waiter) (i j l : Nat) : steerOf (dropWait w s) i j l = steerOf s i j l := rfl
@[simp] theorem dropWait_nodeOf (w : Waiter) (i j : Nat) : nodeOf (dropWait w s) i j = nodeOf s i j := rfl
@[simp] theorem dropWait_seamOf (w : Waiter) (i j : Nat) : seamOf (dropWait w s) i j = seamOf s i j := rfl
@[simp] theorem dropWait_memArrOf (w : Waiter) (i j : Nat) : memArrOf (dropWait w s) i j = memArrOf s i j := rfl
@[simp] theorem dropWait_tapOf (w : Waiter) (i j : Nat) : tapOf (dropWait w s) i j = tapOf s i j := rfl
@[simp] theorem dropWait_logOf (w : Waiter) (i : Nat) : logOf (dropWait w s) i = logOf s i := rfl
@[simp] theorem dropWait_sideOf (w : Waiter) (i j : Nat) : sideOf (dropWait w s) i j = sideOf s i j := rfl
@[simp] theorem dropWait_fuseOf (w : Waiter) (i : Nat) : fuseOf (dropWait w s) i = fuseOf s i := rfl
@[simp] theorem dropWait_gsOf (w : Waiter) (i : Nat) : gsOf (dropWait w s) i = gsOf s i := rfl
@[simp] theorem dropWait_gringOf (w : Waiter) (i j : Nat) : gringOf (dropWait w s) i j = gringOf s i j := rfl
@[simp] theorem dropWait_lsOwn (w : Waiter) (i : Nat) : lsOwn (dropWait w s) i = lsOwn s i := rfl
@[simp] theorem dropWait_lsIn (w : Waiter) (i : Nat) : lsIn (dropWait w s) i = lsIn s i := rfl
@[simp] theorem dropWait_descBytes (w : Waiter) (i j l : Nat) : descBytes (dropWait w s) i j l = descBytes s i j l := rfl
@[simp] theorem dropWait_timeNow (w : Waiter) : timeNow (dropWait w s)  = timeNow s := rfl

/-! ### putSide -/

@[simp] theorem putSide_pending (p d : Nat) (v : Side) : (putSide p d v s).pending = s.pending := rfl
@[simp] theorem putSide_freeCtr (p d : Nat) (v : Side) : (putSide p d v s).freeCtr = s.freeCtr := rfl
@[simp] theorem putSide_regs (p d : Nat) (v : Side) : (putSide p d v s).regs = s.regs := rfl
@[simp] theorem putSide_mem (p d : Nat) (v : Side) : (putSide p d v s).mem = s.mem := rfl
@[simp] theorem putSide_upset (p d : Nat) (v : Side) : (putSide p d v s).upset = s.upset := rfl
@[simp] theorem putSide_tags (p d : Nat) (v : Side) : (putSide p d v s).tags = s.tags := rfl
@[simp] theorem putSide_ob (p d : Nat) (v : Side) : (putSide p d v s).ob = s.ob := rfl
@[simp] theorem putSide_obBad (p d : Nat) (v : Side) : (putSide p d v s).obBad = s.obBad := rfl
@[simp] theorem putSide_hostMem (p d : Nat) (v : Side) : (putSide p d v s).hostMem = s.hostMem := rfl
@[simp] theorem putSide_peerMem (p d : Nat) (v : Side) : (putSide p d v s).peerMem = s.peerMem := rfl
@[simp] theorem putSide_stages (p d : Nat) (v : Side) : (putSide p d v s).stages = s.stages := rfl
@[simp] theorem putSide_arrays (p d : Nat) (v : Side) : (putSide p d v s).arrays = s.arrays := rfl
@[simp] theorem putSide_stands (p d : Nat) (v : Side) : (putSide p d v s).stands = s.stands := rfl
@[simp] theorem putSide_ports (p d : Nat) (v : Side) : (putSide p d v s).ports = s.ports := rfl
@[simp] theorem putSide_rings (p d : Nat) (v : Side) : (putSide p d v s).rings = s.rings := rfl
@[simp] theorem putSide_sessions (p d : Nat) (v : Side) : (putSide p d v s).sessions = s.sessions := rfl
@[simp] theorem putSide_orphans (p d : Nat) (v : Side) : (putSide p d v s).orphans = s.orphans := rfl
@[simp] theorem putSide_reportSeq (p d : Nat) (v : Side) : (putSide p d v s).reportSeq = s.reportSeq := rfl
@[simp] theorem putSide_mode (p d : Nat) (v : Side) : (putSide p d v s).mode = s.mode := rfl
@[simp] theorem putSide_epoch (p d : Nat) (v : Side) : (putSide p d v s).epoch = s.epoch := rfl
@[simp] theorem putSide_tainted (p d : Nat) (v : Side) : (putSide p d v s).tainted = s.tainted := rfl
@[simp] theorem putSide_taints (p d : Nat) (v : Side) : (putSide p d v s).taints = s.taints := rfl
@[simp] theorem putSide_taintCount (p d : Nat) (v : Side) : (putSide p d v s).taintCount = s.taintCount := rfl
@[simp] theorem putSide_srKey (p d : Nat) (v : Side) : (putSide p d v s).srKey = s.srKey := rfl
@[simp] theorem putSide_lapLen (p d : Nat) (v : Side) : (putSide p d v s).lapLen = s.lapLen := rfl
@[simp] theorem putSide_traceEn (p d : Nat) (v : Side) : (putSide p d v s).traceEn = s.traceEn := rfl
@[simp] theorem putSide_traceFirst (p d : Nat) (v : Side) : (putSide p d v s).traceFirst = s.traceFirst := rfl
@[simp] theorem putSide_traceLast (p d : Nat) (v : Side) : (putSide p d v s).traceLast = s.traceLast := rfl
@[simp] theorem putSide_vtags (p d : Nat) (v : Side) : (putSide p d v s).vtags = s.vtags := rfl
@[simp] theorem putSide_links (p d : Nat) (v : Side) : (putSide p d v s).links = s.links := rfl
@[simp] theorem putSide_credits (p d : Nat) (v : Side) : (putSide p d v s).credits = s.credits := rfl
@[simp] theorem putSide_creditFly (p d : Nat) (v : Side) : (putSide p d v s).creditFly = s.creditFly := rfl
@[simp] theorem putSide_moves (p d : Nat) (v : Side) : (putSide p d v s).moves = s.moves := rfl
@[simp] theorem putSide_steers (p d : Nat) (v : Side) : (putSide p d v s).steers = s.steers := rfl
@[simp] theorem putSide_nodes (p d : Nat) (v : Side) : (putSide p d v s).nodes = s.nodes := rfl
@[simp] theorem putSide_seams (p d : Nat) (v : Side) : (putSide p d v s).seams = s.seams := rfl
@[simp] theorem putSide_memArrs (p d : Nat) (v : Side) : (putSide p d v s).memArrs = s.memArrs := rfl
@[simp] theorem putSide_taps (p d : Nat) (v : Side) : (putSide p d v s).taps = s.taps := rfl
@[simp] theorem putSide_svc (p d : Nat) (v : Side) : (putSide p d v s).svc = s.svc := rfl
@[simp] theorem putSide_svcResp (p d : Nat) (v : Side) : (putSide p d v s).svcResp = s.svcResp := rfl
@[simp] theorem putSide_svcGot (p d : Nat) (v : Side) : (putSide p d v s).svcGot = s.svcGot := rfl
@[simp] theorem putSide_svcId (p d : Nat) (v : Side) : (putSide p d v s).svcId = s.svcId := rfl
@[simp] theorem putSide_mgmtIn (p d : Nat) (v : Side) : (putSide p d v s).mgmtIn = s.mgmtIn := rfl
@[simp] theorem putSide_waits (p d : Nat) (v : Side) : (putSide p d v s).waits = s.waits := rfl
@[simp] theorem putSide_dones (p d : Nat) (v : Side) : (putSide p d v s).dones = s.dones := rfl
@[simp] theorem putSide_xbar (p d : Nat) (v : Side) : (putSide p d v s).xbar = s.xbar := rfl
@[simp] theorem putSide_turns (p d : Nat) (v : Side) : (putSide p d v s).turns = s.turns := rfl
@[simp] theorem putSide_draining (p d : Nat) (v : Side) : (putSide p d v s).draining = s.draining := rfl
@[simp] theorem putSide_drainTallies (p d : Nat) (v : Side) : (putSide p d v s).drainTallies = s.drainTallies := rfl
@[simp] theorem putSide_drainExc (p d : Nat) (v : Side) : (putSide p d v s).drainExc = s.drainExc := rfl
@[simp] theorem putSide_excSat (p d : Nat) (v : Side) : (putSide p d v s).excSat = s.excSat := rfl
@[simp] theorem putSide_image (p d : Nat) (v : Side) : (putSide p d v s).image = s.image := rfl
@[simp] theorem putSide_plan (p d : Nat) (v : Side) : (putSide p d v s).plan = s.plan := rfl
@[simp] theorem putSide_logs (p d : Nat) (v : Side) : (putSide p d v s).logs = s.logs := rfl
@[simp] theorem putSide_descs (p d : Nat) (v : Side) : (putSide p d v s).descs = s.descs := rfl
@[simp] theorem putSide_hubQs (p d : Nat) (v : Side) : (putSide p d v s).hubQs = s.hubQs := rfl
@[simp] theorem putSide_hdlStage (p d : Nat) (v : Side) : (putSide p d v s).hdlStage = s.hdlStage := rfl
@[simp] theorem putSide_dirty (p d : Nat) (v : Side) : (putSide p d v s).dirty = s.dirty := rfl
@[simp] theorem putSide_otpStage (p d : Nat) (v : Side) : (putSide p d v s).otpStage = s.otpStage := rfl
@[simp] theorem putSide_gates (p d : Nat) (v : Side) : (putSide p d v s).gates = s.gates := rfl
@[simp] theorem putSide_suOut (p d : Nat) (v : Side) : (putSide p d v s).suOut = s.suOut := rfl
@[simp] theorem putSide_arb (p d : Nat) (v : Side) : (putSide p d v s).arb = s.arb := rfl
@[simp] theorem putSide_fetchOrder (p d : Nat) (v : Side) : (putSide p d v s).fetchOrder = s.fetchOrder := rfl
@[simp] theorem putSide_decoders (p d : Nat) (v : Side) : (putSide p d v s).decoders = s.decoders := rfl
@[simp] theorem putSide_gul (p d : Nat) (v : Side) : (putSide p d v s).gul = s.gul := rfl
@[simp] theorem putSide_lsOn (p d : Nat) (v : Side) : (putSide p d v s).lsOn = s.lsOn := rfl
@[simp] theorem putSide_hbs (p d : Nat) (v : Side) : (putSide p d v s).hbs = s.hbs := rfl
@[simp] theorem putSide_snaps (p d : Nat) (v : Side) : (putSide p d v s).snaps = s.snaps := rfl
@[simp] theorem putSide_saving (p d : Nat) (v : Side) : (putSide p d v s).saving = s.saving := rfl
@[simp] theorem putSide_planSel (p d : Nat) (v : Side) : (putSide p d v s).planSel = s.planSel := rfl
@[simp] theorem putSide_planChanged (p d : Nat) (v : Side) : (putSide p d v s).planChanged = s.planChanged := rfl
@[simp] theorem putSide_reconFailed (p d : Nat) (v : Side) : (putSide p d v s).reconFailed = s.reconFailed := rfl
@[simp] theorem putSide_hostStall (p d : Nat) (v : Side) : (putSide p d v s).hostStall = s.hostStall := rfl
@[simp] theorem putSide_lapSet (p d : Nat) (v : Side) : (putSide p d v s).lapSet = s.lapSet := rfl
@[simp] theorem putSide_excBase (p d : Nat) (v : Side) : (putSide p d v s).excBase = s.excBase := rfl
@[simp] theorem putSide_ringClk (p d : Nat) (v : Side) : (putSide p d v s).ringClk = s.ringClk := rfl
@[simp] theorem putSide_power (p d : Nat) (v : Side) : (putSide p d v s).power = s.power := rfl
@[simp] theorem putSide_bring (p d : Nat) (v : Side) : (putSide p d v s).bring = s.bring := rfl
@[simp] theorem putSide_fuses (p d : Nat) (v : Side) : (putSide p d v s).fuses = s.fuses := rfl
@[simp] theorem putSide_fw (p d : Nat) (v : Side) : (putSide p d v s).fw = s.fw := rfl
@[simp] theorem putSide_dbg (p d : Nat) (v : Side) : (putSide p d v s).dbg = s.dbg := rfl
@[simp] theorem putSide_timeCtr (p d : Nat) (v : Side) : (putSide p d v s).timeCtr = s.timeCtr := rfl
@[simp] theorem putSide_measure5 (p d : Nat) (v : Side) : (putSide p d v s).measure5 = s.measure5 := rfl
@[simp] theorem putSide_cages (p d : Nat) (v : Side) : (putSide p d v s).cages = s.cages := rfl
@[simp] theorem putSide_shifted (p d : Nat) (v : Side) : (putSide p d v s).shifted = s.shifted := rfl
@[simp] theorem putSide_authFails (p d : Nat) (v : Side) : (putSide p d v s).authFails = s.authFails := rfl
@[simp] theorem putSide_rg (p d : Nat) (v : Side) (i : Nat) : rg (putSide p d v s) i = rg s i := rfl
@[simp] theorem putSide_rf (p d : Nat) (v : Side) (i : Nat) (g : Fld) : rf (putSide p d v s) i g = rf s i g := rfl
@[simp] theorem putSide_memByte (p d : Nat) (v : Side) (i : Nat) : memByte (putSide p d v s) i = memByte s i := rfl
@[simp] theorem putSide_tagOf (p d : Nat) (v : Side) (i : Nat) : tagOf (putSide p d v s) i = tagOf s i := rfl
@[simp] theorem putSide_portOf (p d : Nat) (v : Side) (i : Nat) : portOf (putSide p d v s) i = portOf s i := rfl
@[simp] theorem putSide_ringOf (p d : Nat) (v : Side) (i j : Nat) : ringOf (putSide p d v s) i j = ringOf s i j := rfl
@[simp] theorem putSide_standOf (p d : Nat) (v : Side) (i : Nat) : standOf (putSide p d v s) i = standOf s i := rfl
@[simp] theorem putSide_stageOf (p d : Nat) (v : Side) (i : Nat) : stageOf (putSide p d v s) i = stageOf s i := rfl
@[simp] theorem putSide_arrOf (p d : Nat) (v : Side) (i : Nat) : arrOf (putSide p d v s) i = arrOf s i := rfl
@[simp] theorem putSide_sessOf (p d : Nat) (v : Side) (i : Nat) : sessOf (putSide p d v s) i = sessOf s i := rfl
@[simp] theorem putSide_hubQOf (p d : Nat) (v : Side) (i j : Nat) : hubQOf (putSide p d v s) i j = hubQOf s i j := rfl
@[simp] theorem putSide_execOf (p d : Nat) (v : Side) (i j : Nat) : execOf (putSide p d v s) i j = execOf s i j := rfl
@[simp] theorem putSide_gateSt (p d : Nat) (v : Side) (i j : Nat) : gateSt (putSide p d v s) i j = gateSt s i j := rfl
@[simp] theorem putSide_linkOf (p d : Nat) (v : Side) (i j l : Nat) : linkOf (putSide p d v s) i j l = linkOf s i j l := rfl
@[simp] theorem putSide_creditOf (p d : Nat) (v : Side) (i : Nat) : creditOf (putSide p d v s) i = creditOf s i := rfl
@[simp] theorem putSide_steerOf (p d : Nat) (v : Side) (i j l : Nat) : steerOf (putSide p d v s) i j l = steerOf s i j l := rfl
@[simp] theorem putSide_nodeOf (p d : Nat) (v : Side) (i j : Nat) : nodeOf (putSide p d v s) i j = nodeOf s i j := rfl
@[simp] theorem putSide_seamOf (p d : Nat) (v : Side) (i j : Nat) : seamOf (putSide p d v s) i j = seamOf s i j := rfl
@[simp] theorem putSide_memArrOf (p d : Nat) (v : Side) (i j : Nat) : memArrOf (putSide p d v s) i j = memArrOf s i j := rfl
@[simp] theorem putSide_tapOf (p d : Nat) (v : Side) (i j : Nat) : tapOf (putSide p d v s) i j = tapOf s i j := rfl
@[simp] theorem putSide_logOf (p d : Nat) (v : Side) (i : Nat) : logOf (putSide p d v s) i = logOf s i := rfl
@[simp] theorem putSide_waitOf (p d : Nat) (v : Side) (y : Waiter) : waitOf (putSide p d v s) y = waitOf s y := rfl
@[simp] theorem putSide_fuseOf (p d : Nat) (v : Side) (i : Nat) : fuseOf (putSide p d v s) i = fuseOf s i := rfl
@[simp] theorem putSide_gsOf (p d : Nat) (v : Side) (i : Nat) : gsOf (putSide p d v s) i = gsOf s i := rfl
@[simp] theorem putSide_gringOf (p d : Nat) (v : Side) (i j : Nat) : gringOf (putSide p d v s) i j = gringOf s i j := rfl
@[simp] theorem putSide_lsOwn (p d : Nat) (v : Side) (i : Nat) : lsOwn (putSide p d v s) i = lsOwn s i := rfl
@[simp] theorem putSide_lsIn (p d : Nat) (v : Side) (i : Nat) : lsIn (putSide p d v s) i = lsIn s i := rfl
@[simp] theorem putSide_descBytes (p d : Nat) (v : Side) (i j l : Nat) : descBytes (putSide p d v s) i j l = descBytes s i j l := rfl
@[simp] theorem putSide_svcOf (p d : Nat) (v : Side) (y : MeshSrc) : svcOf (putSide p d v s) y = svcOf s y := rfl
@[simp] theorem putSide_timeNow (p d : Nat) (v : Side) : timeNow (putSide p d v s)  = timeNow s := rfl

/-! ### putFuse -/

@[simp] theorem putFuse_pending (n : Nat) (v : FuseGen) : (putFuse n v s).pending = s.pending := rfl
@[simp] theorem putFuse_freeCtr (n : Nat) (v : FuseGen) : (putFuse n v s).freeCtr = s.freeCtr := rfl
@[simp] theorem putFuse_regs (n : Nat) (v : FuseGen) : (putFuse n v s).regs = s.regs := rfl
@[simp] theorem putFuse_mem (n : Nat) (v : FuseGen) : (putFuse n v s).mem = s.mem := rfl
@[simp] theorem putFuse_upset (n : Nat) (v : FuseGen) : (putFuse n v s).upset = s.upset := rfl
@[simp] theorem putFuse_tags (n : Nat) (v : FuseGen) : (putFuse n v s).tags = s.tags := rfl
@[simp] theorem putFuse_ob (n : Nat) (v : FuseGen) : (putFuse n v s).ob = s.ob := rfl
@[simp] theorem putFuse_obBad (n : Nat) (v : FuseGen) : (putFuse n v s).obBad = s.obBad := rfl
@[simp] theorem putFuse_hostMem (n : Nat) (v : FuseGen) : (putFuse n v s).hostMem = s.hostMem := rfl
@[simp] theorem putFuse_peerMem (n : Nat) (v : FuseGen) : (putFuse n v s).peerMem = s.peerMem := rfl
@[simp] theorem putFuse_stages (n : Nat) (v : FuseGen) : (putFuse n v s).stages = s.stages := rfl
@[simp] theorem putFuse_arrays (n : Nat) (v : FuseGen) : (putFuse n v s).arrays = s.arrays := rfl
@[simp] theorem putFuse_stands (n : Nat) (v : FuseGen) : (putFuse n v s).stands = s.stands := rfl
@[simp] theorem putFuse_ports (n : Nat) (v : FuseGen) : (putFuse n v s).ports = s.ports := rfl
@[simp] theorem putFuse_rings (n : Nat) (v : FuseGen) : (putFuse n v s).rings = s.rings := rfl
@[simp] theorem putFuse_sessions (n : Nat) (v : FuseGen) : (putFuse n v s).sessions = s.sessions := rfl
@[simp] theorem putFuse_orphans (n : Nat) (v : FuseGen) : (putFuse n v s).orphans = s.orphans := rfl
@[simp] theorem putFuse_reportSeq (n : Nat) (v : FuseGen) : (putFuse n v s).reportSeq = s.reportSeq := rfl
@[simp] theorem putFuse_mode (n : Nat) (v : FuseGen) : (putFuse n v s).mode = s.mode := rfl
@[simp] theorem putFuse_epoch (n : Nat) (v : FuseGen) : (putFuse n v s).epoch = s.epoch := rfl
@[simp] theorem putFuse_tainted (n : Nat) (v : FuseGen) : (putFuse n v s).tainted = s.tainted := rfl
@[simp] theorem putFuse_taints (n : Nat) (v : FuseGen) : (putFuse n v s).taints = s.taints := rfl
@[simp] theorem putFuse_taintCount (n : Nat) (v : FuseGen) : (putFuse n v s).taintCount = s.taintCount := rfl
@[simp] theorem putFuse_srKey (n : Nat) (v : FuseGen) : (putFuse n v s).srKey = s.srKey := rfl
@[simp] theorem putFuse_lapLen (n : Nat) (v : FuseGen) : (putFuse n v s).lapLen = s.lapLen := rfl
@[simp] theorem putFuse_traceEn (n : Nat) (v : FuseGen) : (putFuse n v s).traceEn = s.traceEn := rfl
@[simp] theorem putFuse_traceFirst (n : Nat) (v : FuseGen) : (putFuse n v s).traceFirst = s.traceFirst := rfl
@[simp] theorem putFuse_traceLast (n : Nat) (v : FuseGen) : (putFuse n v s).traceLast = s.traceLast := rfl
@[simp] theorem putFuse_vtags (n : Nat) (v : FuseGen) : (putFuse n v s).vtags = s.vtags := rfl
@[simp] theorem putFuse_links (n : Nat) (v : FuseGen) : (putFuse n v s).links = s.links := rfl
@[simp] theorem putFuse_credits (n : Nat) (v : FuseGen) : (putFuse n v s).credits = s.credits := rfl
@[simp] theorem putFuse_creditFly (n : Nat) (v : FuseGen) : (putFuse n v s).creditFly = s.creditFly := rfl
@[simp] theorem putFuse_moves (n : Nat) (v : FuseGen) : (putFuse n v s).moves = s.moves := rfl
@[simp] theorem putFuse_steers (n : Nat) (v : FuseGen) : (putFuse n v s).steers = s.steers := rfl
@[simp] theorem putFuse_nodes (n : Nat) (v : FuseGen) : (putFuse n v s).nodes = s.nodes := rfl
@[simp] theorem putFuse_seams (n : Nat) (v : FuseGen) : (putFuse n v s).seams = s.seams := rfl
@[simp] theorem putFuse_memArrs (n : Nat) (v : FuseGen) : (putFuse n v s).memArrs = s.memArrs := rfl
@[simp] theorem putFuse_taps (n : Nat) (v : FuseGen) : (putFuse n v s).taps = s.taps := rfl
@[simp] theorem putFuse_svc (n : Nat) (v : FuseGen) : (putFuse n v s).svc = s.svc := rfl
@[simp] theorem putFuse_svcResp (n : Nat) (v : FuseGen) : (putFuse n v s).svcResp = s.svcResp := rfl
@[simp] theorem putFuse_svcGot (n : Nat) (v : FuseGen) : (putFuse n v s).svcGot = s.svcGot := rfl
@[simp] theorem putFuse_svcId (n : Nat) (v : FuseGen) : (putFuse n v s).svcId = s.svcId := rfl
@[simp] theorem putFuse_mgmtIn (n : Nat) (v : FuseGen) : (putFuse n v s).mgmtIn = s.mgmtIn := rfl
@[simp] theorem putFuse_waits (n : Nat) (v : FuseGen) : (putFuse n v s).waits = s.waits := rfl
@[simp] theorem putFuse_dones (n : Nat) (v : FuseGen) : (putFuse n v s).dones = s.dones := rfl
@[simp] theorem putFuse_xbar (n : Nat) (v : FuseGen) : (putFuse n v s).xbar = s.xbar := rfl
@[simp] theorem putFuse_turns (n : Nat) (v : FuseGen) : (putFuse n v s).turns = s.turns := rfl
@[simp] theorem putFuse_draining (n : Nat) (v : FuseGen) : (putFuse n v s).draining = s.draining := rfl
@[simp] theorem putFuse_drainTallies (n : Nat) (v : FuseGen) : (putFuse n v s).drainTallies = s.drainTallies := rfl
@[simp] theorem putFuse_drainExc (n : Nat) (v : FuseGen) : (putFuse n v s).drainExc = s.drainExc := rfl
@[simp] theorem putFuse_excSat (n : Nat) (v : FuseGen) : (putFuse n v s).excSat = s.excSat := rfl
@[simp] theorem putFuse_image (n : Nat) (v : FuseGen) : (putFuse n v s).image = s.image := rfl
@[simp] theorem putFuse_plan (n : Nat) (v : FuseGen) : (putFuse n v s).plan = s.plan := rfl
@[simp] theorem putFuse_logs (n : Nat) (v : FuseGen) : (putFuse n v s).logs = s.logs := rfl
@[simp] theorem putFuse_descs (n : Nat) (v : FuseGen) : (putFuse n v s).descs = s.descs := rfl
@[simp] theorem putFuse_hubQs (n : Nat) (v : FuseGen) : (putFuse n v s).hubQs = s.hubQs := rfl
@[simp] theorem putFuse_hdlStage (n : Nat) (v : FuseGen) : (putFuse n v s).hdlStage = s.hdlStage := rfl
@[simp] theorem putFuse_dirty (n : Nat) (v : FuseGen) : (putFuse n v s).dirty = s.dirty := rfl
@[simp] theorem putFuse_otpStage (n : Nat) (v : FuseGen) : (putFuse n v s).otpStage = s.otpStage := rfl
@[simp] theorem putFuse_gates (n : Nat) (v : FuseGen) : (putFuse n v s).gates = s.gates := rfl
@[simp] theorem putFuse_suOut (n : Nat) (v : FuseGen) : (putFuse n v s).suOut = s.suOut := rfl
@[simp] theorem putFuse_arb (n : Nat) (v : FuseGen) : (putFuse n v s).arb = s.arb := rfl
@[simp] theorem putFuse_fetchOrder (n : Nat) (v : FuseGen) : (putFuse n v s).fetchOrder = s.fetchOrder := rfl
@[simp] theorem putFuse_decoders (n : Nat) (v : FuseGen) : (putFuse n v s).decoders = s.decoders := rfl
@[simp] theorem putFuse_gul (n : Nat) (v : FuseGen) : (putFuse n v s).gul = s.gul := rfl
@[simp] theorem putFuse_lsOn (n : Nat) (v : FuseGen) : (putFuse n v s).lsOn = s.lsOn := rfl
@[simp] theorem putFuse_hbs (n : Nat) (v : FuseGen) : (putFuse n v s).hbs = s.hbs := rfl
@[simp] theorem putFuse_snaps (n : Nat) (v : FuseGen) : (putFuse n v s).snaps = s.snaps := rfl
@[simp] theorem putFuse_saving (n : Nat) (v : FuseGen) : (putFuse n v s).saving = s.saving := rfl
@[simp] theorem putFuse_planSel (n : Nat) (v : FuseGen) : (putFuse n v s).planSel = s.planSel := rfl
@[simp] theorem putFuse_planChanged (n : Nat) (v : FuseGen) : (putFuse n v s).planChanged = s.planChanged := rfl
@[simp] theorem putFuse_reconFailed (n : Nat) (v : FuseGen) : (putFuse n v s).reconFailed = s.reconFailed := rfl
@[simp] theorem putFuse_hostStall (n : Nat) (v : FuseGen) : (putFuse n v s).hostStall = s.hostStall := rfl
@[simp] theorem putFuse_lapSet (n : Nat) (v : FuseGen) : (putFuse n v s).lapSet = s.lapSet := rfl
@[simp] theorem putFuse_excBase (n : Nat) (v : FuseGen) : (putFuse n v s).excBase = s.excBase := rfl
@[simp] theorem putFuse_sides (n : Nat) (v : FuseGen) : (putFuse n v s).sides = s.sides := rfl
@[simp] theorem putFuse_ringClk (n : Nat) (v : FuseGen) : (putFuse n v s).ringClk = s.ringClk := rfl
@[simp] theorem putFuse_power (n : Nat) (v : FuseGen) : (putFuse n v s).power = s.power := rfl
@[simp] theorem putFuse_bring (n : Nat) (v : FuseGen) : (putFuse n v s).bring = s.bring := rfl
@[simp] theorem putFuse_fw (n : Nat) (v : FuseGen) : (putFuse n v s).fw = s.fw := rfl
@[simp] theorem putFuse_dbg (n : Nat) (v : FuseGen) : (putFuse n v s).dbg = s.dbg := rfl
@[simp] theorem putFuse_timeCtr (n : Nat) (v : FuseGen) : (putFuse n v s).timeCtr = s.timeCtr := rfl
@[simp] theorem putFuse_measure5 (n : Nat) (v : FuseGen) : (putFuse n v s).measure5 = s.measure5 := rfl
@[simp] theorem putFuse_cages (n : Nat) (v : FuseGen) : (putFuse n v s).cages = s.cages := rfl
@[simp] theorem putFuse_shifted (n : Nat) (v : FuseGen) : (putFuse n v s).shifted = s.shifted := rfl
@[simp] theorem putFuse_authFails (n : Nat) (v : FuseGen) : (putFuse n v s).authFails = s.authFails := rfl
@[simp] theorem putFuse_rg (n : Nat) (v : FuseGen) (i : Nat) : rg (putFuse n v s) i = rg s i := rfl
@[simp] theorem putFuse_rf (n : Nat) (v : FuseGen) (i : Nat) (g : Fld) : rf (putFuse n v s) i g = rf s i g := rfl
@[simp] theorem putFuse_memByte (n : Nat) (v : FuseGen) (i : Nat) : memByte (putFuse n v s) i = memByte s i := rfl
@[simp] theorem putFuse_tagOf (n : Nat) (v : FuseGen) (i : Nat) : tagOf (putFuse n v s) i = tagOf s i := rfl
@[simp] theorem putFuse_portOf (n : Nat) (v : FuseGen) (i : Nat) : portOf (putFuse n v s) i = portOf s i := rfl
@[simp] theorem putFuse_ringOf (n : Nat) (v : FuseGen) (i j : Nat) : ringOf (putFuse n v s) i j = ringOf s i j := rfl
@[simp] theorem putFuse_standOf (n : Nat) (v : FuseGen) (i : Nat) : standOf (putFuse n v s) i = standOf s i := rfl
@[simp] theorem putFuse_stageOf (n : Nat) (v : FuseGen) (i : Nat) : stageOf (putFuse n v s) i = stageOf s i := rfl
@[simp] theorem putFuse_arrOf (n : Nat) (v : FuseGen) (i : Nat) : arrOf (putFuse n v s) i = arrOf s i := rfl
@[simp] theorem putFuse_sessOf (n : Nat) (v : FuseGen) (i : Nat) : sessOf (putFuse n v s) i = sessOf s i := rfl
@[simp] theorem putFuse_hubQOf (n : Nat) (v : FuseGen) (i j : Nat) : hubQOf (putFuse n v s) i j = hubQOf s i j := rfl
@[simp] theorem putFuse_execOf (n : Nat) (v : FuseGen) (i j : Nat) : execOf (putFuse n v s) i j = execOf s i j := rfl
@[simp] theorem putFuse_gateSt (n : Nat) (v : FuseGen) (i j : Nat) : gateSt (putFuse n v s) i j = gateSt s i j := rfl
@[simp] theorem putFuse_linkOf (n : Nat) (v : FuseGen) (i j l : Nat) : linkOf (putFuse n v s) i j l = linkOf s i j l := rfl
@[simp] theorem putFuse_creditOf (n : Nat) (v : FuseGen) (i : Nat) : creditOf (putFuse n v s) i = creditOf s i := rfl
@[simp] theorem putFuse_steerOf (n : Nat) (v : FuseGen) (i j l : Nat) : steerOf (putFuse n v s) i j l = steerOf s i j l := rfl
@[simp] theorem putFuse_nodeOf (n : Nat) (v : FuseGen) (i j : Nat) : nodeOf (putFuse n v s) i j = nodeOf s i j := rfl
@[simp] theorem putFuse_seamOf (n : Nat) (v : FuseGen) (i j : Nat) : seamOf (putFuse n v s) i j = seamOf s i j := rfl
@[simp] theorem putFuse_memArrOf (n : Nat) (v : FuseGen) (i j : Nat) : memArrOf (putFuse n v s) i j = memArrOf s i j := rfl
@[simp] theorem putFuse_tapOf (n : Nat) (v : FuseGen) (i j : Nat) : tapOf (putFuse n v s) i j = tapOf s i j := rfl
@[simp] theorem putFuse_logOf (n : Nat) (v : FuseGen) (i : Nat) : logOf (putFuse n v s) i = logOf s i := rfl
@[simp] theorem putFuse_waitOf (n : Nat) (v : FuseGen) (y : Waiter) : waitOf (putFuse n v s) y = waitOf s y := rfl
@[simp] theorem putFuse_sideOf (n : Nat) (v : FuseGen) (i j : Nat) : sideOf (putFuse n v s) i j = sideOf s i j := rfl
@[simp] theorem putFuse_gsOf (n : Nat) (v : FuseGen) (i : Nat) : gsOf (putFuse n v s) i = gsOf s i := rfl
@[simp] theorem putFuse_gringOf (n : Nat) (v : FuseGen) (i j : Nat) : gringOf (putFuse n v s) i j = gringOf s i j := rfl
@[simp] theorem putFuse_lsOwn (n : Nat) (v : FuseGen) (i : Nat) : lsOwn (putFuse n v s) i = lsOwn s i := rfl
@[simp] theorem putFuse_lsIn (n : Nat) (v : FuseGen) (i : Nat) : lsIn (putFuse n v s) i = lsIn s i := rfl
@[simp] theorem putFuse_descBytes (n : Nat) (v : FuseGen) (i j l : Nat) : descBytes (putFuse n v s) i j l = descBytes s i j l := rfl
@[simp] theorem putFuse_svcOf (n : Nat) (v : FuseGen) (y : MeshSrc) : svcOf (putFuse n v s) y = svcOf s y := rfl
@[simp] theorem putFuse_timeNow (n : Nat) (v : FuseGen) : timeNow (putFuse n v s)  = timeNow s := rfl

/-! ### putGs -/

@[simp] theorem putGs_pending (n : Nat) (v : GSess) : (putGs n v s).pending = s.pending := rfl
@[simp] theorem putGs_freeCtr (n : Nat) (v : GSess) : (putGs n v s).freeCtr = s.freeCtr := rfl
@[simp] theorem putGs_regs (n : Nat) (v : GSess) : (putGs n v s).regs = s.regs := rfl
@[simp] theorem putGs_mem (n : Nat) (v : GSess) : (putGs n v s).mem = s.mem := rfl
@[simp] theorem putGs_upset (n : Nat) (v : GSess) : (putGs n v s).upset = s.upset := rfl
@[simp] theorem putGs_tags (n : Nat) (v : GSess) : (putGs n v s).tags = s.tags := rfl
@[simp] theorem putGs_ob (n : Nat) (v : GSess) : (putGs n v s).ob = s.ob := rfl
@[simp] theorem putGs_obBad (n : Nat) (v : GSess) : (putGs n v s).obBad = s.obBad := rfl
@[simp] theorem putGs_hostMem (n : Nat) (v : GSess) : (putGs n v s).hostMem = s.hostMem := rfl
@[simp] theorem putGs_peerMem (n : Nat) (v : GSess) : (putGs n v s).peerMem = s.peerMem := rfl
@[simp] theorem putGs_stages (n : Nat) (v : GSess) : (putGs n v s).stages = s.stages := rfl
@[simp] theorem putGs_arrays (n : Nat) (v : GSess) : (putGs n v s).arrays = s.arrays := rfl
@[simp] theorem putGs_stands (n : Nat) (v : GSess) : (putGs n v s).stands = s.stands := rfl
@[simp] theorem putGs_ports (n : Nat) (v : GSess) : (putGs n v s).ports = s.ports := rfl
@[simp] theorem putGs_rings (n : Nat) (v : GSess) : (putGs n v s).rings = s.rings := rfl
@[simp] theorem putGs_sessions (n : Nat) (v : GSess) : (putGs n v s).sessions = s.sessions := rfl
@[simp] theorem putGs_orphans (n : Nat) (v : GSess) : (putGs n v s).orphans = s.orphans := rfl
@[simp] theorem putGs_reportSeq (n : Nat) (v : GSess) : (putGs n v s).reportSeq = s.reportSeq := rfl
@[simp] theorem putGs_mode (n : Nat) (v : GSess) : (putGs n v s).mode = s.mode := rfl
@[simp] theorem putGs_epoch (n : Nat) (v : GSess) : (putGs n v s).epoch = s.epoch := rfl
@[simp] theorem putGs_tainted (n : Nat) (v : GSess) : (putGs n v s).tainted = s.tainted := rfl
@[simp] theorem putGs_taints (n : Nat) (v : GSess) : (putGs n v s).taints = s.taints := rfl
@[simp] theorem putGs_taintCount (n : Nat) (v : GSess) : (putGs n v s).taintCount = s.taintCount := rfl
@[simp] theorem putGs_srKey (n : Nat) (v : GSess) : (putGs n v s).srKey = s.srKey := rfl
@[simp] theorem putGs_lapLen (n : Nat) (v : GSess) : (putGs n v s).lapLen = s.lapLen := rfl
@[simp] theorem putGs_traceEn (n : Nat) (v : GSess) : (putGs n v s).traceEn = s.traceEn := rfl
@[simp] theorem putGs_traceFirst (n : Nat) (v : GSess) : (putGs n v s).traceFirst = s.traceFirst := rfl
@[simp] theorem putGs_traceLast (n : Nat) (v : GSess) : (putGs n v s).traceLast = s.traceLast := rfl
@[simp] theorem putGs_vtags (n : Nat) (v : GSess) : (putGs n v s).vtags = s.vtags := rfl
@[simp] theorem putGs_links (n : Nat) (v : GSess) : (putGs n v s).links = s.links := rfl
@[simp] theorem putGs_credits (n : Nat) (v : GSess) : (putGs n v s).credits = s.credits := rfl
@[simp] theorem putGs_creditFly (n : Nat) (v : GSess) : (putGs n v s).creditFly = s.creditFly := rfl
@[simp] theorem putGs_moves (n : Nat) (v : GSess) : (putGs n v s).moves = s.moves := rfl
@[simp] theorem putGs_steers (n : Nat) (v : GSess) : (putGs n v s).steers = s.steers := rfl
@[simp] theorem putGs_nodes (n : Nat) (v : GSess) : (putGs n v s).nodes = s.nodes := rfl
@[simp] theorem putGs_seams (n : Nat) (v : GSess) : (putGs n v s).seams = s.seams := rfl
@[simp] theorem putGs_memArrs (n : Nat) (v : GSess) : (putGs n v s).memArrs = s.memArrs := rfl
@[simp] theorem putGs_taps (n : Nat) (v : GSess) : (putGs n v s).taps = s.taps := rfl
@[simp] theorem putGs_svc (n : Nat) (v : GSess) : (putGs n v s).svc = s.svc := rfl
@[simp] theorem putGs_svcResp (n : Nat) (v : GSess) : (putGs n v s).svcResp = s.svcResp := rfl
@[simp] theorem putGs_svcGot (n : Nat) (v : GSess) : (putGs n v s).svcGot = s.svcGot := rfl
@[simp] theorem putGs_svcId (n : Nat) (v : GSess) : (putGs n v s).svcId = s.svcId := rfl
@[simp] theorem putGs_mgmtIn (n : Nat) (v : GSess) : (putGs n v s).mgmtIn = s.mgmtIn := rfl
@[simp] theorem putGs_waits (n : Nat) (v : GSess) : (putGs n v s).waits = s.waits := rfl
@[simp] theorem putGs_dones (n : Nat) (v : GSess) : (putGs n v s).dones = s.dones := rfl
@[simp] theorem putGs_xbar (n : Nat) (v : GSess) : (putGs n v s).xbar = s.xbar := rfl
@[simp] theorem putGs_turns (n : Nat) (v : GSess) : (putGs n v s).turns = s.turns := rfl
@[simp] theorem putGs_draining (n : Nat) (v : GSess) : (putGs n v s).draining = s.draining := rfl
@[simp] theorem putGs_drainTallies (n : Nat) (v : GSess) : (putGs n v s).drainTallies = s.drainTallies := rfl
@[simp] theorem putGs_drainExc (n : Nat) (v : GSess) : (putGs n v s).drainExc = s.drainExc := rfl
@[simp] theorem putGs_excSat (n : Nat) (v : GSess) : (putGs n v s).excSat = s.excSat := rfl
@[simp] theorem putGs_image (n : Nat) (v : GSess) : (putGs n v s).image = s.image := rfl
@[simp] theorem putGs_plan (n : Nat) (v : GSess) : (putGs n v s).plan = s.plan := rfl
@[simp] theorem putGs_logs (n : Nat) (v : GSess) : (putGs n v s).logs = s.logs := rfl
@[simp] theorem putGs_descs (n : Nat) (v : GSess) : (putGs n v s).descs = s.descs := rfl
@[simp] theorem putGs_hubQs (n : Nat) (v : GSess) : (putGs n v s).hubQs = s.hubQs := rfl
@[simp] theorem putGs_hdlStage (n : Nat) (v : GSess) : (putGs n v s).hdlStage = s.hdlStage := rfl
@[simp] theorem putGs_dirty (n : Nat) (v : GSess) : (putGs n v s).dirty = s.dirty := rfl
@[simp] theorem putGs_otpStage (n : Nat) (v : GSess) : (putGs n v s).otpStage = s.otpStage := rfl
@[simp] theorem putGs_gates (n : Nat) (v : GSess) : (putGs n v s).gates = s.gates := rfl
@[simp] theorem putGs_suOut (n : Nat) (v : GSess) : (putGs n v s).suOut = s.suOut := rfl
@[simp] theorem putGs_arb (n : Nat) (v : GSess) : (putGs n v s).arb = s.arb := rfl
@[simp] theorem putGs_fetchOrder (n : Nat) (v : GSess) : (putGs n v s).fetchOrder = s.fetchOrder := rfl
@[simp] theorem putGs_decoders (n : Nat) (v : GSess) : (putGs n v s).decoders = s.decoders := rfl
@[simp] theorem putGs_lsOn (n : Nat) (v : GSess) : (putGs n v s).lsOn = s.lsOn := rfl
@[simp] theorem putGs_hbs (n : Nat) (v : GSess) : (putGs n v s).hbs = s.hbs := rfl
@[simp] theorem putGs_snaps (n : Nat) (v : GSess) : (putGs n v s).snaps = s.snaps := rfl
@[simp] theorem putGs_saving (n : Nat) (v : GSess) : (putGs n v s).saving = s.saving := rfl
@[simp] theorem putGs_planSel (n : Nat) (v : GSess) : (putGs n v s).planSel = s.planSel := rfl
@[simp] theorem putGs_planChanged (n : Nat) (v : GSess) : (putGs n v s).planChanged = s.planChanged := rfl
@[simp] theorem putGs_reconFailed (n : Nat) (v : GSess) : (putGs n v s).reconFailed = s.reconFailed := rfl
@[simp] theorem putGs_hostStall (n : Nat) (v : GSess) : (putGs n v s).hostStall = s.hostStall := rfl
@[simp] theorem putGs_lapSet (n : Nat) (v : GSess) : (putGs n v s).lapSet = s.lapSet := rfl
@[simp] theorem putGs_excBase (n : Nat) (v : GSess) : (putGs n v s).excBase = s.excBase := rfl
@[simp] theorem putGs_sides (n : Nat) (v : GSess) : (putGs n v s).sides = s.sides := rfl
@[simp] theorem putGs_ringClk (n : Nat) (v : GSess) : (putGs n v s).ringClk = s.ringClk := rfl
@[simp] theorem putGs_power (n : Nat) (v : GSess) : (putGs n v s).power = s.power := rfl
@[simp] theorem putGs_bring (n : Nat) (v : GSess) : (putGs n v s).bring = s.bring := rfl
@[simp] theorem putGs_fuses (n : Nat) (v : GSess) : (putGs n v s).fuses = s.fuses := rfl
@[simp] theorem putGs_fw (n : Nat) (v : GSess) : (putGs n v s).fw = s.fw := rfl
@[simp] theorem putGs_dbg (n : Nat) (v : GSess) : (putGs n v s).dbg = s.dbg := rfl
@[simp] theorem putGs_timeCtr (n : Nat) (v : GSess) : (putGs n v s).timeCtr = s.timeCtr := rfl
@[simp] theorem putGs_measure5 (n : Nat) (v : GSess) : (putGs n v s).measure5 = s.measure5 := rfl
@[simp] theorem putGs_cages (n : Nat) (v : GSess) : (putGs n v s).cages = s.cages := rfl
@[simp] theorem putGs_shifted (n : Nat) (v : GSess) : (putGs n v s).shifted = s.shifted := rfl
@[simp] theorem putGs_authFails (n : Nat) (v : GSess) : (putGs n v s).authFails = s.authFails := rfl
@[simp] theorem putGs_rg (n : Nat) (v : GSess) (i : Nat) : rg (putGs n v s) i = rg s i := rfl
@[simp] theorem putGs_rf (n : Nat) (v : GSess) (i : Nat) (g : Fld) : rf (putGs n v s) i g = rf s i g := rfl
@[simp] theorem putGs_memByte (n : Nat) (v : GSess) (i : Nat) : memByte (putGs n v s) i = memByte s i := rfl
@[simp] theorem putGs_tagOf (n : Nat) (v : GSess) (i : Nat) : tagOf (putGs n v s) i = tagOf s i := rfl
@[simp] theorem putGs_portOf (n : Nat) (v : GSess) (i : Nat) : portOf (putGs n v s) i = portOf s i := rfl
@[simp] theorem putGs_ringOf (n : Nat) (v : GSess) (i j : Nat) : ringOf (putGs n v s) i j = ringOf s i j := rfl
@[simp] theorem putGs_standOf (n : Nat) (v : GSess) (i : Nat) : standOf (putGs n v s) i = standOf s i := rfl
@[simp] theorem putGs_stageOf (n : Nat) (v : GSess) (i : Nat) : stageOf (putGs n v s) i = stageOf s i := rfl
@[simp] theorem putGs_arrOf (n : Nat) (v : GSess) (i : Nat) : arrOf (putGs n v s) i = arrOf s i := rfl
@[simp] theorem putGs_sessOf (n : Nat) (v : GSess) (i : Nat) : sessOf (putGs n v s) i = sessOf s i := rfl
@[simp] theorem putGs_hubQOf (n : Nat) (v : GSess) (i j : Nat) : hubQOf (putGs n v s) i j = hubQOf s i j := rfl
@[simp] theorem putGs_execOf (n : Nat) (v : GSess) (i j : Nat) : execOf (putGs n v s) i j = execOf s i j := rfl
@[simp] theorem putGs_gateSt (n : Nat) (v : GSess) (i j : Nat) : gateSt (putGs n v s) i j = gateSt s i j := rfl
@[simp] theorem putGs_linkOf (n : Nat) (v : GSess) (i j l : Nat) : linkOf (putGs n v s) i j l = linkOf s i j l := rfl
@[simp] theorem putGs_creditOf (n : Nat) (v : GSess) (i : Nat) : creditOf (putGs n v s) i = creditOf s i := rfl
@[simp] theorem putGs_steerOf (n : Nat) (v : GSess) (i j l : Nat) : steerOf (putGs n v s) i j l = steerOf s i j l := rfl
@[simp] theorem putGs_nodeOf (n : Nat) (v : GSess) (i j : Nat) : nodeOf (putGs n v s) i j = nodeOf s i j := rfl
@[simp] theorem putGs_seamOf (n : Nat) (v : GSess) (i j : Nat) : seamOf (putGs n v s) i j = seamOf s i j := rfl
@[simp] theorem putGs_memArrOf (n : Nat) (v : GSess) (i j : Nat) : memArrOf (putGs n v s) i j = memArrOf s i j := rfl
@[simp] theorem putGs_tapOf (n : Nat) (v : GSess) (i j : Nat) : tapOf (putGs n v s) i j = tapOf s i j := rfl
@[simp] theorem putGs_logOf (n : Nat) (v : GSess) (i : Nat) : logOf (putGs n v s) i = logOf s i := rfl
@[simp] theorem putGs_waitOf (n : Nat) (v : GSess) (y : Waiter) : waitOf (putGs n v s) y = waitOf s y := rfl
@[simp] theorem putGs_sideOf (n : Nat) (v : GSess) (i j : Nat) : sideOf (putGs n v s) i j = sideOf s i j := rfl
@[simp] theorem putGs_fuseOf (n : Nat) (v : GSess) (i : Nat) : fuseOf (putGs n v s) i = fuseOf s i := rfl
@[simp] theorem putGs_lsOwn (n : Nat) (v : GSess) (i : Nat) : lsOwn (putGs n v s) i = lsOwn s i := rfl
@[simp] theorem putGs_lsIn (n : Nat) (v : GSess) (i : Nat) : lsIn (putGs n v s) i = lsIn s i := rfl
@[simp] theorem putGs_descBytes (n : Nat) (v : GSess) (i j l : Nat) : descBytes (putGs n v s) i j l = descBytes s i j l := rfl
@[simp] theorem putGs_svcOf (n : Nat) (v : GSess) (y : MeshSrc) : svcOf (putGs n v s) y = svcOf s y := rfl
@[simp] theorem putGs_timeNow (n : Nat) (v : GSess) : timeNow (putGs n v s)  = timeNow s := rfl

/-! ### putGring -/

@[simp] theorem putGring_pending (p q : Nat) (v : GRing) : (putGring p q v s).pending = s.pending := rfl
@[simp] theorem putGring_freeCtr (p q : Nat) (v : GRing) : (putGring p q v s).freeCtr = s.freeCtr := rfl
@[simp] theorem putGring_regs (p q : Nat) (v : GRing) : (putGring p q v s).regs = s.regs := rfl
@[simp] theorem putGring_mem (p q : Nat) (v : GRing) : (putGring p q v s).mem = s.mem := rfl
@[simp] theorem putGring_upset (p q : Nat) (v : GRing) : (putGring p q v s).upset = s.upset := rfl
@[simp] theorem putGring_tags (p q : Nat) (v : GRing) : (putGring p q v s).tags = s.tags := rfl
@[simp] theorem putGring_ob (p q : Nat) (v : GRing) : (putGring p q v s).ob = s.ob := rfl
@[simp] theorem putGring_obBad (p q : Nat) (v : GRing) : (putGring p q v s).obBad = s.obBad := rfl
@[simp] theorem putGring_hostMem (p q : Nat) (v : GRing) : (putGring p q v s).hostMem = s.hostMem := rfl
@[simp] theorem putGring_peerMem (p q : Nat) (v : GRing) : (putGring p q v s).peerMem = s.peerMem := rfl
@[simp] theorem putGring_stages (p q : Nat) (v : GRing) : (putGring p q v s).stages = s.stages := rfl
@[simp] theorem putGring_arrays (p q : Nat) (v : GRing) : (putGring p q v s).arrays = s.arrays := rfl
@[simp] theorem putGring_stands (p q : Nat) (v : GRing) : (putGring p q v s).stands = s.stands := rfl
@[simp] theorem putGring_ports (p q : Nat) (v : GRing) : (putGring p q v s).ports = s.ports := rfl
@[simp] theorem putGring_rings (p q : Nat) (v : GRing) : (putGring p q v s).rings = s.rings := rfl
@[simp] theorem putGring_sessions (p q : Nat) (v : GRing) : (putGring p q v s).sessions = s.sessions := rfl
@[simp] theorem putGring_orphans (p q : Nat) (v : GRing) : (putGring p q v s).orphans = s.orphans := rfl
@[simp] theorem putGring_reportSeq (p q : Nat) (v : GRing) : (putGring p q v s).reportSeq = s.reportSeq := rfl
@[simp] theorem putGring_mode (p q : Nat) (v : GRing) : (putGring p q v s).mode = s.mode := rfl
@[simp] theorem putGring_epoch (p q : Nat) (v : GRing) : (putGring p q v s).epoch = s.epoch := rfl
@[simp] theorem putGring_tainted (p q : Nat) (v : GRing) : (putGring p q v s).tainted = s.tainted := rfl
@[simp] theorem putGring_taints (p q : Nat) (v : GRing) : (putGring p q v s).taints = s.taints := rfl
@[simp] theorem putGring_taintCount (p q : Nat) (v : GRing) : (putGring p q v s).taintCount = s.taintCount := rfl
@[simp] theorem putGring_srKey (p q : Nat) (v : GRing) : (putGring p q v s).srKey = s.srKey := rfl
@[simp] theorem putGring_lapLen (p q : Nat) (v : GRing) : (putGring p q v s).lapLen = s.lapLen := rfl
@[simp] theorem putGring_traceEn (p q : Nat) (v : GRing) : (putGring p q v s).traceEn = s.traceEn := rfl
@[simp] theorem putGring_traceFirst (p q : Nat) (v : GRing) : (putGring p q v s).traceFirst = s.traceFirst := rfl
@[simp] theorem putGring_traceLast (p q : Nat) (v : GRing) : (putGring p q v s).traceLast = s.traceLast := rfl
@[simp] theorem putGring_vtags (p q : Nat) (v : GRing) : (putGring p q v s).vtags = s.vtags := rfl
@[simp] theorem putGring_links (p q : Nat) (v : GRing) : (putGring p q v s).links = s.links := rfl
@[simp] theorem putGring_credits (p q : Nat) (v : GRing) : (putGring p q v s).credits = s.credits := rfl
@[simp] theorem putGring_creditFly (p q : Nat) (v : GRing) : (putGring p q v s).creditFly = s.creditFly := rfl
@[simp] theorem putGring_moves (p q : Nat) (v : GRing) : (putGring p q v s).moves = s.moves := rfl
@[simp] theorem putGring_steers (p q : Nat) (v : GRing) : (putGring p q v s).steers = s.steers := rfl
@[simp] theorem putGring_nodes (p q : Nat) (v : GRing) : (putGring p q v s).nodes = s.nodes := rfl
@[simp] theorem putGring_seams (p q : Nat) (v : GRing) : (putGring p q v s).seams = s.seams := rfl
@[simp] theorem putGring_memArrs (p q : Nat) (v : GRing) : (putGring p q v s).memArrs = s.memArrs := rfl
@[simp] theorem putGring_taps (p q : Nat) (v : GRing) : (putGring p q v s).taps = s.taps := rfl
@[simp] theorem putGring_svc (p q : Nat) (v : GRing) : (putGring p q v s).svc = s.svc := rfl
@[simp] theorem putGring_svcResp (p q : Nat) (v : GRing) : (putGring p q v s).svcResp = s.svcResp := rfl
@[simp] theorem putGring_svcGot (p q : Nat) (v : GRing) : (putGring p q v s).svcGot = s.svcGot := rfl
@[simp] theorem putGring_svcId (p q : Nat) (v : GRing) : (putGring p q v s).svcId = s.svcId := rfl
@[simp] theorem putGring_mgmtIn (p q : Nat) (v : GRing) : (putGring p q v s).mgmtIn = s.mgmtIn := rfl
@[simp] theorem putGring_waits (p q : Nat) (v : GRing) : (putGring p q v s).waits = s.waits := rfl
@[simp] theorem putGring_dones (p q : Nat) (v : GRing) : (putGring p q v s).dones = s.dones := rfl
@[simp] theorem putGring_xbar (p q : Nat) (v : GRing) : (putGring p q v s).xbar = s.xbar := rfl
@[simp] theorem putGring_turns (p q : Nat) (v : GRing) : (putGring p q v s).turns = s.turns := rfl
@[simp] theorem putGring_draining (p q : Nat) (v : GRing) : (putGring p q v s).draining = s.draining := rfl
@[simp] theorem putGring_drainTallies (p q : Nat) (v : GRing) : (putGring p q v s).drainTallies = s.drainTallies := rfl
@[simp] theorem putGring_drainExc (p q : Nat) (v : GRing) : (putGring p q v s).drainExc = s.drainExc := rfl
@[simp] theorem putGring_excSat (p q : Nat) (v : GRing) : (putGring p q v s).excSat = s.excSat := rfl
@[simp] theorem putGring_image (p q : Nat) (v : GRing) : (putGring p q v s).image = s.image := rfl
@[simp] theorem putGring_plan (p q : Nat) (v : GRing) : (putGring p q v s).plan = s.plan := rfl
@[simp] theorem putGring_logs (p q : Nat) (v : GRing) : (putGring p q v s).logs = s.logs := rfl
@[simp] theorem putGring_descs (p q : Nat) (v : GRing) : (putGring p q v s).descs = s.descs := rfl
@[simp] theorem putGring_hubQs (p q : Nat) (v : GRing) : (putGring p q v s).hubQs = s.hubQs := rfl
@[simp] theorem putGring_hdlStage (p q : Nat) (v : GRing) : (putGring p q v s).hdlStage = s.hdlStage := rfl
@[simp] theorem putGring_dirty (p q : Nat) (v : GRing) : (putGring p q v s).dirty = s.dirty := rfl
@[simp] theorem putGring_otpStage (p q : Nat) (v : GRing) : (putGring p q v s).otpStage = s.otpStage := rfl
@[simp] theorem putGring_gates (p q : Nat) (v : GRing) : (putGring p q v s).gates = s.gates := rfl
@[simp] theorem putGring_suOut (p q : Nat) (v : GRing) : (putGring p q v s).suOut = s.suOut := rfl
@[simp] theorem putGring_arb (p q : Nat) (v : GRing) : (putGring p q v s).arb = s.arb := rfl
@[simp] theorem putGring_fetchOrder (p q : Nat) (v : GRing) : (putGring p q v s).fetchOrder = s.fetchOrder := rfl
@[simp] theorem putGring_decoders (p q : Nat) (v : GRing) : (putGring p q v s).decoders = s.decoders := rfl
@[simp] theorem putGring_lsOn (p q : Nat) (v : GRing) : (putGring p q v s).lsOn = s.lsOn := rfl
@[simp] theorem putGring_hbs (p q : Nat) (v : GRing) : (putGring p q v s).hbs = s.hbs := rfl
@[simp] theorem putGring_snaps (p q : Nat) (v : GRing) : (putGring p q v s).snaps = s.snaps := rfl
@[simp] theorem putGring_saving (p q : Nat) (v : GRing) : (putGring p q v s).saving = s.saving := rfl
@[simp] theorem putGring_planSel (p q : Nat) (v : GRing) : (putGring p q v s).planSel = s.planSel := rfl
@[simp] theorem putGring_planChanged (p q : Nat) (v : GRing) : (putGring p q v s).planChanged = s.planChanged := rfl
@[simp] theorem putGring_reconFailed (p q : Nat) (v : GRing) : (putGring p q v s).reconFailed = s.reconFailed := rfl
@[simp] theorem putGring_hostStall (p q : Nat) (v : GRing) : (putGring p q v s).hostStall = s.hostStall := rfl
@[simp] theorem putGring_lapSet (p q : Nat) (v : GRing) : (putGring p q v s).lapSet = s.lapSet := rfl
@[simp] theorem putGring_excBase (p q : Nat) (v : GRing) : (putGring p q v s).excBase = s.excBase := rfl
@[simp] theorem putGring_sides (p q : Nat) (v : GRing) : (putGring p q v s).sides = s.sides := rfl
@[simp] theorem putGring_ringClk (p q : Nat) (v : GRing) : (putGring p q v s).ringClk = s.ringClk := rfl
@[simp] theorem putGring_power (p q : Nat) (v : GRing) : (putGring p q v s).power = s.power := rfl
@[simp] theorem putGring_bring (p q : Nat) (v : GRing) : (putGring p q v s).bring = s.bring := rfl
@[simp] theorem putGring_fuses (p q : Nat) (v : GRing) : (putGring p q v s).fuses = s.fuses := rfl
@[simp] theorem putGring_fw (p q : Nat) (v : GRing) : (putGring p q v s).fw = s.fw := rfl
@[simp] theorem putGring_dbg (p q : Nat) (v : GRing) : (putGring p q v s).dbg = s.dbg := rfl
@[simp] theorem putGring_timeCtr (p q : Nat) (v : GRing) : (putGring p q v s).timeCtr = s.timeCtr := rfl
@[simp] theorem putGring_measure5 (p q : Nat) (v : GRing) : (putGring p q v s).measure5 = s.measure5 := rfl
@[simp] theorem putGring_cages (p q : Nat) (v : GRing) : (putGring p q v s).cages = s.cages := rfl
@[simp] theorem putGring_shifted (p q : Nat) (v : GRing) : (putGring p q v s).shifted = s.shifted := rfl
@[simp] theorem putGring_authFails (p q : Nat) (v : GRing) : (putGring p q v s).authFails = s.authFails := rfl
@[simp] theorem putGring_rg (p q : Nat) (v : GRing) (i : Nat) : rg (putGring p q v s) i = rg s i := rfl
@[simp] theorem putGring_rf (p q : Nat) (v : GRing) (i : Nat) (g : Fld) : rf (putGring p q v s) i g = rf s i g := rfl
@[simp] theorem putGring_memByte (p q : Nat) (v : GRing) (i : Nat) : memByte (putGring p q v s) i = memByte s i := rfl
@[simp] theorem putGring_tagOf (p q : Nat) (v : GRing) (i : Nat) : tagOf (putGring p q v s) i = tagOf s i := rfl
@[simp] theorem putGring_portOf (p q : Nat) (v : GRing) (i : Nat) : portOf (putGring p q v s) i = portOf s i := rfl
@[simp] theorem putGring_ringOf (p q : Nat) (v : GRing) (i j : Nat) : ringOf (putGring p q v s) i j = ringOf s i j := rfl
@[simp] theorem putGring_standOf (p q : Nat) (v : GRing) (i : Nat) : standOf (putGring p q v s) i = standOf s i := rfl
@[simp] theorem putGring_stageOf (p q : Nat) (v : GRing) (i : Nat) : stageOf (putGring p q v s) i = stageOf s i := rfl
@[simp] theorem putGring_arrOf (p q : Nat) (v : GRing) (i : Nat) : arrOf (putGring p q v s) i = arrOf s i := rfl
@[simp] theorem putGring_sessOf (p q : Nat) (v : GRing) (i : Nat) : sessOf (putGring p q v s) i = sessOf s i := rfl
@[simp] theorem putGring_hubQOf (p q : Nat) (v : GRing) (i j : Nat) : hubQOf (putGring p q v s) i j = hubQOf s i j := rfl
@[simp] theorem putGring_execOf (p q : Nat) (v : GRing) (i j : Nat) : execOf (putGring p q v s) i j = execOf s i j := rfl
@[simp] theorem putGring_gateSt (p q : Nat) (v : GRing) (i j : Nat) : gateSt (putGring p q v s) i j = gateSt s i j := rfl
@[simp] theorem putGring_linkOf (p q : Nat) (v : GRing) (i j l : Nat) : linkOf (putGring p q v s) i j l = linkOf s i j l := rfl
@[simp] theorem putGring_creditOf (p q : Nat) (v : GRing) (i : Nat) : creditOf (putGring p q v s) i = creditOf s i := rfl
@[simp] theorem putGring_steerOf (p q : Nat) (v : GRing) (i j l : Nat) : steerOf (putGring p q v s) i j l = steerOf s i j l := rfl
@[simp] theorem putGring_nodeOf (p q : Nat) (v : GRing) (i j : Nat) : nodeOf (putGring p q v s) i j = nodeOf s i j := rfl
@[simp] theorem putGring_seamOf (p q : Nat) (v : GRing) (i j : Nat) : seamOf (putGring p q v s) i j = seamOf s i j := rfl
@[simp] theorem putGring_memArrOf (p q : Nat) (v : GRing) (i j : Nat) : memArrOf (putGring p q v s) i j = memArrOf s i j := rfl
@[simp] theorem putGring_tapOf (p q : Nat) (v : GRing) (i j : Nat) : tapOf (putGring p q v s) i j = tapOf s i j := rfl
@[simp] theorem putGring_logOf (p q : Nat) (v : GRing) (i : Nat) : logOf (putGring p q v s) i = logOf s i := rfl
@[simp] theorem putGring_waitOf (p q : Nat) (v : GRing) (y : Waiter) : waitOf (putGring p q v s) y = waitOf s y := rfl
@[simp] theorem putGring_sideOf (p q : Nat) (v : GRing) (i j : Nat) : sideOf (putGring p q v s) i j = sideOf s i j := rfl
@[simp] theorem putGring_fuseOf (p q : Nat) (v : GRing) (i : Nat) : fuseOf (putGring p q v s) i = fuseOf s i := rfl
@[simp] theorem putGring_lsOwn (p q : Nat) (v : GRing) (i : Nat) : lsOwn (putGring p q v s) i = lsOwn s i := rfl
@[simp] theorem putGring_lsIn (p q : Nat) (v : GRing) (i : Nat) : lsIn (putGring p q v s) i = lsIn s i := rfl
@[simp] theorem putGring_descBytes (p q : Nat) (v : GRing) (i j l : Nat) : descBytes (putGring p q v s) i j l = descBytes s i j l := rfl
@[simp] theorem putGring_svcOf (p q : Nat) (v : GRing) (y : MeshSrc) : svcOf (putGring p q v s) y = svcOf s y := rfl
@[simp] theorem putGring_timeNow (p q : Nat) (v : GRing) : timeNow (putGring p q v s)  = timeNow s := rfl

/-! ### putOwn -/

@[simp] theorem putOwn_pending (k : Nat) (v : Option LsBlock) : (putOwn k v s).pending = s.pending := rfl
@[simp] theorem putOwn_freeCtr (k : Nat) (v : Option LsBlock) : (putOwn k v s).freeCtr = s.freeCtr := rfl
@[simp] theorem putOwn_regs (k : Nat) (v : Option LsBlock) : (putOwn k v s).regs = s.regs := rfl
@[simp] theorem putOwn_mem (k : Nat) (v : Option LsBlock) : (putOwn k v s).mem = s.mem := rfl
@[simp] theorem putOwn_upset (k : Nat) (v : Option LsBlock) : (putOwn k v s).upset = s.upset := rfl
@[simp] theorem putOwn_tags (k : Nat) (v : Option LsBlock) : (putOwn k v s).tags = s.tags := rfl
@[simp] theorem putOwn_ob (k : Nat) (v : Option LsBlock) : (putOwn k v s).ob = s.ob := rfl
@[simp] theorem putOwn_obBad (k : Nat) (v : Option LsBlock) : (putOwn k v s).obBad = s.obBad := rfl
@[simp] theorem putOwn_hostMem (k : Nat) (v : Option LsBlock) : (putOwn k v s).hostMem = s.hostMem := rfl
@[simp] theorem putOwn_peerMem (k : Nat) (v : Option LsBlock) : (putOwn k v s).peerMem = s.peerMem := rfl
@[simp] theorem putOwn_stages (k : Nat) (v : Option LsBlock) : (putOwn k v s).stages = s.stages := rfl
@[simp] theorem putOwn_arrays (k : Nat) (v : Option LsBlock) : (putOwn k v s).arrays = s.arrays := rfl
@[simp] theorem putOwn_stands (k : Nat) (v : Option LsBlock) : (putOwn k v s).stands = s.stands := rfl
@[simp] theorem putOwn_ports (k : Nat) (v : Option LsBlock) : (putOwn k v s).ports = s.ports := rfl
@[simp] theorem putOwn_rings (k : Nat) (v : Option LsBlock) : (putOwn k v s).rings = s.rings := rfl
@[simp] theorem putOwn_sessions (k : Nat) (v : Option LsBlock) : (putOwn k v s).sessions = s.sessions := rfl
@[simp] theorem putOwn_orphans (k : Nat) (v : Option LsBlock) : (putOwn k v s).orphans = s.orphans := rfl
@[simp] theorem putOwn_reportSeq (k : Nat) (v : Option LsBlock) : (putOwn k v s).reportSeq = s.reportSeq := rfl
@[simp] theorem putOwn_mode (k : Nat) (v : Option LsBlock) : (putOwn k v s).mode = s.mode := rfl
@[simp] theorem putOwn_epoch (k : Nat) (v : Option LsBlock) : (putOwn k v s).epoch = s.epoch := rfl
@[simp] theorem putOwn_tainted (k : Nat) (v : Option LsBlock) : (putOwn k v s).tainted = s.tainted := rfl
@[simp] theorem putOwn_taints (k : Nat) (v : Option LsBlock) : (putOwn k v s).taints = s.taints := rfl
@[simp] theorem putOwn_taintCount (k : Nat) (v : Option LsBlock) : (putOwn k v s).taintCount = s.taintCount := rfl
@[simp] theorem putOwn_srKey (k : Nat) (v : Option LsBlock) : (putOwn k v s).srKey = s.srKey := rfl
@[simp] theorem putOwn_lapLen (k : Nat) (v : Option LsBlock) : (putOwn k v s).lapLen = s.lapLen := rfl
@[simp] theorem putOwn_traceEn (k : Nat) (v : Option LsBlock) : (putOwn k v s).traceEn = s.traceEn := rfl
@[simp] theorem putOwn_traceFirst (k : Nat) (v : Option LsBlock) : (putOwn k v s).traceFirst = s.traceFirst := rfl
@[simp] theorem putOwn_traceLast (k : Nat) (v : Option LsBlock) : (putOwn k v s).traceLast = s.traceLast := rfl
@[simp] theorem putOwn_vtags (k : Nat) (v : Option LsBlock) : (putOwn k v s).vtags = s.vtags := rfl
@[simp] theorem putOwn_links (k : Nat) (v : Option LsBlock) : (putOwn k v s).links = s.links := rfl
@[simp] theorem putOwn_credits (k : Nat) (v : Option LsBlock) : (putOwn k v s).credits = s.credits := rfl
@[simp] theorem putOwn_creditFly (k : Nat) (v : Option LsBlock) : (putOwn k v s).creditFly = s.creditFly := rfl
@[simp] theorem putOwn_moves (k : Nat) (v : Option LsBlock) : (putOwn k v s).moves = s.moves := rfl
@[simp] theorem putOwn_steers (k : Nat) (v : Option LsBlock) : (putOwn k v s).steers = s.steers := rfl
@[simp] theorem putOwn_nodes (k : Nat) (v : Option LsBlock) : (putOwn k v s).nodes = s.nodes := rfl
@[simp] theorem putOwn_seams (k : Nat) (v : Option LsBlock) : (putOwn k v s).seams = s.seams := rfl
@[simp] theorem putOwn_memArrs (k : Nat) (v : Option LsBlock) : (putOwn k v s).memArrs = s.memArrs := rfl
@[simp] theorem putOwn_taps (k : Nat) (v : Option LsBlock) : (putOwn k v s).taps = s.taps := rfl
@[simp] theorem putOwn_svc (k : Nat) (v : Option LsBlock) : (putOwn k v s).svc = s.svc := rfl
@[simp] theorem putOwn_svcResp (k : Nat) (v : Option LsBlock) : (putOwn k v s).svcResp = s.svcResp := rfl
@[simp] theorem putOwn_svcGot (k : Nat) (v : Option LsBlock) : (putOwn k v s).svcGot = s.svcGot := rfl
@[simp] theorem putOwn_svcId (k : Nat) (v : Option LsBlock) : (putOwn k v s).svcId = s.svcId := rfl
@[simp] theorem putOwn_mgmtIn (k : Nat) (v : Option LsBlock) : (putOwn k v s).mgmtIn = s.mgmtIn := rfl
@[simp] theorem putOwn_waits (k : Nat) (v : Option LsBlock) : (putOwn k v s).waits = s.waits := rfl
@[simp] theorem putOwn_dones (k : Nat) (v : Option LsBlock) : (putOwn k v s).dones = s.dones := rfl
@[simp] theorem putOwn_xbar (k : Nat) (v : Option LsBlock) : (putOwn k v s).xbar = s.xbar := rfl
@[simp] theorem putOwn_turns (k : Nat) (v : Option LsBlock) : (putOwn k v s).turns = s.turns := rfl
@[simp] theorem putOwn_draining (k : Nat) (v : Option LsBlock) : (putOwn k v s).draining = s.draining := rfl
@[simp] theorem putOwn_drainTallies (k : Nat) (v : Option LsBlock) : (putOwn k v s).drainTallies = s.drainTallies := rfl
@[simp] theorem putOwn_drainExc (k : Nat) (v : Option LsBlock) : (putOwn k v s).drainExc = s.drainExc := rfl
@[simp] theorem putOwn_excSat (k : Nat) (v : Option LsBlock) : (putOwn k v s).excSat = s.excSat := rfl
@[simp] theorem putOwn_image (k : Nat) (v : Option LsBlock) : (putOwn k v s).image = s.image := rfl
@[simp] theorem putOwn_plan (k : Nat) (v : Option LsBlock) : (putOwn k v s).plan = s.plan := rfl
@[simp] theorem putOwn_logs (k : Nat) (v : Option LsBlock) : (putOwn k v s).logs = s.logs := rfl
@[simp] theorem putOwn_descs (k : Nat) (v : Option LsBlock) : (putOwn k v s).descs = s.descs := rfl
@[simp] theorem putOwn_hubQs (k : Nat) (v : Option LsBlock) : (putOwn k v s).hubQs = s.hubQs := rfl
@[simp] theorem putOwn_hdlStage (k : Nat) (v : Option LsBlock) : (putOwn k v s).hdlStage = s.hdlStage := rfl
@[simp] theorem putOwn_dirty (k : Nat) (v : Option LsBlock) : (putOwn k v s).dirty = s.dirty := rfl
@[simp] theorem putOwn_otpStage (k : Nat) (v : Option LsBlock) : (putOwn k v s).otpStage = s.otpStage := rfl
@[simp] theorem putOwn_gates (k : Nat) (v : Option LsBlock) : (putOwn k v s).gates = s.gates := rfl
@[simp] theorem putOwn_suOut (k : Nat) (v : Option LsBlock) : (putOwn k v s).suOut = s.suOut := rfl
@[simp] theorem putOwn_arb (k : Nat) (v : Option LsBlock) : (putOwn k v s).arb = s.arb := rfl
@[simp] theorem putOwn_fetchOrder (k : Nat) (v : Option LsBlock) : (putOwn k v s).fetchOrder = s.fetchOrder := rfl
@[simp] theorem putOwn_decoders (k : Nat) (v : Option LsBlock) : (putOwn k v s).decoders = s.decoders := rfl
@[simp] theorem putOwn_gul (k : Nat) (v : Option LsBlock) : (putOwn k v s).gul = s.gul := rfl
@[simp] theorem putOwn_hbs (k : Nat) (v : Option LsBlock) : (putOwn k v s).hbs = s.hbs := rfl
@[simp] theorem putOwn_snaps (k : Nat) (v : Option LsBlock) : (putOwn k v s).snaps = s.snaps := rfl
@[simp] theorem putOwn_saving (k : Nat) (v : Option LsBlock) : (putOwn k v s).saving = s.saving := rfl
@[simp] theorem putOwn_planSel (k : Nat) (v : Option LsBlock) : (putOwn k v s).planSel = s.planSel := rfl
@[simp] theorem putOwn_planChanged (k : Nat) (v : Option LsBlock) : (putOwn k v s).planChanged = s.planChanged := rfl
@[simp] theorem putOwn_reconFailed (k : Nat) (v : Option LsBlock) : (putOwn k v s).reconFailed = s.reconFailed := rfl
@[simp] theorem putOwn_hostStall (k : Nat) (v : Option LsBlock) : (putOwn k v s).hostStall = s.hostStall := rfl
@[simp] theorem putOwn_lapSet (k : Nat) (v : Option LsBlock) : (putOwn k v s).lapSet = s.lapSet := rfl
@[simp] theorem putOwn_excBase (k : Nat) (v : Option LsBlock) : (putOwn k v s).excBase = s.excBase := rfl
@[simp] theorem putOwn_sides (k : Nat) (v : Option LsBlock) : (putOwn k v s).sides = s.sides := rfl
@[simp] theorem putOwn_ringClk (k : Nat) (v : Option LsBlock) : (putOwn k v s).ringClk = s.ringClk := rfl
@[simp] theorem putOwn_power (k : Nat) (v : Option LsBlock) : (putOwn k v s).power = s.power := rfl
@[simp] theorem putOwn_bring (k : Nat) (v : Option LsBlock) : (putOwn k v s).bring = s.bring := rfl
@[simp] theorem putOwn_fuses (k : Nat) (v : Option LsBlock) : (putOwn k v s).fuses = s.fuses := rfl
@[simp] theorem putOwn_fw (k : Nat) (v : Option LsBlock) : (putOwn k v s).fw = s.fw := rfl
@[simp] theorem putOwn_dbg (k : Nat) (v : Option LsBlock) : (putOwn k v s).dbg = s.dbg := rfl
@[simp] theorem putOwn_timeCtr (k : Nat) (v : Option LsBlock) : (putOwn k v s).timeCtr = s.timeCtr := rfl
@[simp] theorem putOwn_measure5 (k : Nat) (v : Option LsBlock) : (putOwn k v s).measure5 = s.measure5 := rfl
@[simp] theorem putOwn_cages (k : Nat) (v : Option LsBlock) : (putOwn k v s).cages = s.cages := rfl
@[simp] theorem putOwn_shifted (k : Nat) (v : Option LsBlock) : (putOwn k v s).shifted = s.shifted := rfl
@[simp] theorem putOwn_authFails (k : Nat) (v : Option LsBlock) : (putOwn k v s).authFails = s.authFails := rfl
@[simp] theorem putOwn_rg (k : Nat) (v : Option LsBlock) (i : Nat) : rg (putOwn k v s) i = rg s i := rfl
@[simp] theorem putOwn_rf (k : Nat) (v : Option LsBlock) (i : Nat) (g : Fld) : rf (putOwn k v s) i g = rf s i g := rfl
@[simp] theorem putOwn_memByte (k : Nat) (v : Option LsBlock) (i : Nat) : memByte (putOwn k v s) i = memByte s i := rfl
@[simp] theorem putOwn_tagOf (k : Nat) (v : Option LsBlock) (i : Nat) : tagOf (putOwn k v s) i = tagOf s i := rfl
@[simp] theorem putOwn_portOf (k : Nat) (v : Option LsBlock) (i : Nat) : portOf (putOwn k v s) i = portOf s i := rfl
@[simp] theorem putOwn_ringOf (k : Nat) (v : Option LsBlock) (i j : Nat) : ringOf (putOwn k v s) i j = ringOf s i j := rfl
@[simp] theorem putOwn_standOf (k : Nat) (v : Option LsBlock) (i : Nat) : standOf (putOwn k v s) i = standOf s i := rfl
@[simp] theorem putOwn_stageOf (k : Nat) (v : Option LsBlock) (i : Nat) : stageOf (putOwn k v s) i = stageOf s i := rfl
@[simp] theorem putOwn_arrOf (k : Nat) (v : Option LsBlock) (i : Nat) : arrOf (putOwn k v s) i = arrOf s i := rfl
@[simp] theorem putOwn_sessOf (k : Nat) (v : Option LsBlock) (i : Nat) : sessOf (putOwn k v s) i = sessOf s i := rfl
@[simp] theorem putOwn_hubQOf (k : Nat) (v : Option LsBlock) (i j : Nat) : hubQOf (putOwn k v s) i j = hubQOf s i j := rfl
@[simp] theorem putOwn_execOf (k : Nat) (v : Option LsBlock) (i j : Nat) : execOf (putOwn k v s) i j = execOf s i j := rfl
@[simp] theorem putOwn_gateSt (k : Nat) (v : Option LsBlock) (i j : Nat) : gateSt (putOwn k v s) i j = gateSt s i j := rfl
@[simp] theorem putOwn_linkOf (k : Nat) (v : Option LsBlock) (i j l : Nat) : linkOf (putOwn k v s) i j l = linkOf s i j l := rfl
@[simp] theorem putOwn_creditOf (k : Nat) (v : Option LsBlock) (i : Nat) : creditOf (putOwn k v s) i = creditOf s i := rfl
@[simp] theorem putOwn_steerOf (k : Nat) (v : Option LsBlock) (i j l : Nat) : steerOf (putOwn k v s) i j l = steerOf s i j l := rfl
@[simp] theorem putOwn_nodeOf (k : Nat) (v : Option LsBlock) (i j : Nat) : nodeOf (putOwn k v s) i j = nodeOf s i j := rfl
@[simp] theorem putOwn_seamOf (k : Nat) (v : Option LsBlock) (i j : Nat) : seamOf (putOwn k v s) i j = seamOf s i j := rfl
@[simp] theorem putOwn_memArrOf (k : Nat) (v : Option LsBlock) (i j : Nat) : memArrOf (putOwn k v s) i j = memArrOf s i j := rfl
@[simp] theorem putOwn_tapOf (k : Nat) (v : Option LsBlock) (i j : Nat) : tapOf (putOwn k v s) i j = tapOf s i j := rfl
@[simp] theorem putOwn_logOf (k : Nat) (v : Option LsBlock) (i : Nat) : logOf (putOwn k v s) i = logOf s i := rfl
@[simp] theorem putOwn_waitOf (k : Nat) (v : Option LsBlock) (y : Waiter) : waitOf (putOwn k v s) y = waitOf s y := rfl
@[simp] theorem putOwn_sideOf (k : Nat) (v : Option LsBlock) (i j : Nat) : sideOf (putOwn k v s) i j = sideOf s i j := rfl
@[simp] theorem putOwn_fuseOf (k : Nat) (v : Option LsBlock) (i : Nat) : fuseOf (putOwn k v s) i = fuseOf s i := rfl
@[simp] theorem putOwn_gsOf (k : Nat) (v : Option LsBlock) (i : Nat) : gsOf (putOwn k v s) i = gsOf s i := rfl
@[simp] theorem putOwn_gringOf (k : Nat) (v : Option LsBlock) (i j : Nat) : gringOf (putOwn k v s) i j = gringOf s i j := rfl
@[simp] theorem putOwn_descBytes (k : Nat) (v : Option LsBlock) (i j l : Nat) : descBytes (putOwn k v s) i j l = descBytes s i j l := rfl
@[simp] theorem putOwn_svcOf (k : Nat) (v : Option LsBlock) (y : MeshSrc) : svcOf (putOwn k v s) y = svcOf s y := rfl
@[simp] theorem putOwn_timeNow (k : Nat) (v : Option LsBlock) : timeNow (putOwn k v s)  = timeNow s := rfl

/-! ### putIn -/

@[simp] theorem putIn_pending (k : Nat) (v : Option LsBlock) : (putIn k v s).pending = s.pending := rfl
@[simp] theorem putIn_freeCtr (k : Nat) (v : Option LsBlock) : (putIn k v s).freeCtr = s.freeCtr := rfl
@[simp] theorem putIn_regs (k : Nat) (v : Option LsBlock) : (putIn k v s).regs = s.regs := rfl
@[simp] theorem putIn_mem (k : Nat) (v : Option LsBlock) : (putIn k v s).mem = s.mem := rfl
@[simp] theorem putIn_upset (k : Nat) (v : Option LsBlock) : (putIn k v s).upset = s.upset := rfl
@[simp] theorem putIn_tags (k : Nat) (v : Option LsBlock) : (putIn k v s).tags = s.tags := rfl
@[simp] theorem putIn_ob (k : Nat) (v : Option LsBlock) : (putIn k v s).ob = s.ob := rfl
@[simp] theorem putIn_obBad (k : Nat) (v : Option LsBlock) : (putIn k v s).obBad = s.obBad := rfl
@[simp] theorem putIn_hostMem (k : Nat) (v : Option LsBlock) : (putIn k v s).hostMem = s.hostMem := rfl
@[simp] theorem putIn_peerMem (k : Nat) (v : Option LsBlock) : (putIn k v s).peerMem = s.peerMem := rfl
@[simp] theorem putIn_stages (k : Nat) (v : Option LsBlock) : (putIn k v s).stages = s.stages := rfl
@[simp] theorem putIn_arrays (k : Nat) (v : Option LsBlock) : (putIn k v s).arrays = s.arrays := rfl
@[simp] theorem putIn_stands (k : Nat) (v : Option LsBlock) : (putIn k v s).stands = s.stands := rfl
@[simp] theorem putIn_ports (k : Nat) (v : Option LsBlock) : (putIn k v s).ports = s.ports := rfl
@[simp] theorem putIn_rings (k : Nat) (v : Option LsBlock) : (putIn k v s).rings = s.rings := rfl
@[simp] theorem putIn_sessions (k : Nat) (v : Option LsBlock) : (putIn k v s).sessions = s.sessions := rfl
@[simp] theorem putIn_orphans (k : Nat) (v : Option LsBlock) : (putIn k v s).orphans = s.orphans := rfl
@[simp] theorem putIn_reportSeq (k : Nat) (v : Option LsBlock) : (putIn k v s).reportSeq = s.reportSeq := rfl
@[simp] theorem putIn_mode (k : Nat) (v : Option LsBlock) : (putIn k v s).mode = s.mode := rfl
@[simp] theorem putIn_epoch (k : Nat) (v : Option LsBlock) : (putIn k v s).epoch = s.epoch := rfl
@[simp] theorem putIn_tainted (k : Nat) (v : Option LsBlock) : (putIn k v s).tainted = s.tainted := rfl
@[simp] theorem putIn_taints (k : Nat) (v : Option LsBlock) : (putIn k v s).taints = s.taints := rfl
@[simp] theorem putIn_taintCount (k : Nat) (v : Option LsBlock) : (putIn k v s).taintCount = s.taintCount := rfl
@[simp] theorem putIn_srKey (k : Nat) (v : Option LsBlock) : (putIn k v s).srKey = s.srKey := rfl
@[simp] theorem putIn_lapLen (k : Nat) (v : Option LsBlock) : (putIn k v s).lapLen = s.lapLen := rfl
@[simp] theorem putIn_traceEn (k : Nat) (v : Option LsBlock) : (putIn k v s).traceEn = s.traceEn := rfl
@[simp] theorem putIn_traceFirst (k : Nat) (v : Option LsBlock) : (putIn k v s).traceFirst = s.traceFirst := rfl
@[simp] theorem putIn_traceLast (k : Nat) (v : Option LsBlock) : (putIn k v s).traceLast = s.traceLast := rfl
@[simp] theorem putIn_vtags (k : Nat) (v : Option LsBlock) : (putIn k v s).vtags = s.vtags := rfl
@[simp] theorem putIn_links (k : Nat) (v : Option LsBlock) : (putIn k v s).links = s.links := rfl
@[simp] theorem putIn_credits (k : Nat) (v : Option LsBlock) : (putIn k v s).credits = s.credits := rfl
@[simp] theorem putIn_creditFly (k : Nat) (v : Option LsBlock) : (putIn k v s).creditFly = s.creditFly := rfl
@[simp] theorem putIn_moves (k : Nat) (v : Option LsBlock) : (putIn k v s).moves = s.moves := rfl
@[simp] theorem putIn_steers (k : Nat) (v : Option LsBlock) : (putIn k v s).steers = s.steers := rfl
@[simp] theorem putIn_nodes (k : Nat) (v : Option LsBlock) : (putIn k v s).nodes = s.nodes := rfl
@[simp] theorem putIn_seams (k : Nat) (v : Option LsBlock) : (putIn k v s).seams = s.seams := rfl
@[simp] theorem putIn_memArrs (k : Nat) (v : Option LsBlock) : (putIn k v s).memArrs = s.memArrs := rfl
@[simp] theorem putIn_taps (k : Nat) (v : Option LsBlock) : (putIn k v s).taps = s.taps := rfl
@[simp] theorem putIn_svc (k : Nat) (v : Option LsBlock) : (putIn k v s).svc = s.svc := rfl
@[simp] theorem putIn_svcResp (k : Nat) (v : Option LsBlock) : (putIn k v s).svcResp = s.svcResp := rfl
@[simp] theorem putIn_svcGot (k : Nat) (v : Option LsBlock) : (putIn k v s).svcGot = s.svcGot := rfl
@[simp] theorem putIn_svcId (k : Nat) (v : Option LsBlock) : (putIn k v s).svcId = s.svcId := rfl
@[simp] theorem putIn_mgmtIn (k : Nat) (v : Option LsBlock) : (putIn k v s).mgmtIn = s.mgmtIn := rfl
@[simp] theorem putIn_waits (k : Nat) (v : Option LsBlock) : (putIn k v s).waits = s.waits := rfl
@[simp] theorem putIn_dones (k : Nat) (v : Option LsBlock) : (putIn k v s).dones = s.dones := rfl
@[simp] theorem putIn_xbar (k : Nat) (v : Option LsBlock) : (putIn k v s).xbar = s.xbar := rfl
@[simp] theorem putIn_turns (k : Nat) (v : Option LsBlock) : (putIn k v s).turns = s.turns := rfl
@[simp] theorem putIn_draining (k : Nat) (v : Option LsBlock) : (putIn k v s).draining = s.draining := rfl
@[simp] theorem putIn_drainTallies (k : Nat) (v : Option LsBlock) : (putIn k v s).drainTallies = s.drainTallies := rfl
@[simp] theorem putIn_drainExc (k : Nat) (v : Option LsBlock) : (putIn k v s).drainExc = s.drainExc := rfl
@[simp] theorem putIn_excSat (k : Nat) (v : Option LsBlock) : (putIn k v s).excSat = s.excSat := rfl
@[simp] theorem putIn_image (k : Nat) (v : Option LsBlock) : (putIn k v s).image = s.image := rfl
@[simp] theorem putIn_plan (k : Nat) (v : Option LsBlock) : (putIn k v s).plan = s.plan := rfl
@[simp] theorem putIn_logs (k : Nat) (v : Option LsBlock) : (putIn k v s).logs = s.logs := rfl
@[simp] theorem putIn_descs (k : Nat) (v : Option LsBlock) : (putIn k v s).descs = s.descs := rfl
@[simp] theorem putIn_hubQs (k : Nat) (v : Option LsBlock) : (putIn k v s).hubQs = s.hubQs := rfl
@[simp] theorem putIn_hdlStage (k : Nat) (v : Option LsBlock) : (putIn k v s).hdlStage = s.hdlStage := rfl
@[simp] theorem putIn_dirty (k : Nat) (v : Option LsBlock) : (putIn k v s).dirty = s.dirty := rfl
@[simp] theorem putIn_otpStage (k : Nat) (v : Option LsBlock) : (putIn k v s).otpStage = s.otpStage := rfl
@[simp] theorem putIn_gates (k : Nat) (v : Option LsBlock) : (putIn k v s).gates = s.gates := rfl
@[simp] theorem putIn_suOut (k : Nat) (v : Option LsBlock) : (putIn k v s).suOut = s.suOut := rfl
@[simp] theorem putIn_arb (k : Nat) (v : Option LsBlock) : (putIn k v s).arb = s.arb := rfl
@[simp] theorem putIn_fetchOrder (k : Nat) (v : Option LsBlock) : (putIn k v s).fetchOrder = s.fetchOrder := rfl
@[simp] theorem putIn_decoders (k : Nat) (v : Option LsBlock) : (putIn k v s).decoders = s.decoders := rfl
@[simp] theorem putIn_gul (k : Nat) (v : Option LsBlock) : (putIn k v s).gul = s.gul := rfl
@[simp] theorem putIn_hbs (k : Nat) (v : Option LsBlock) : (putIn k v s).hbs = s.hbs := rfl
@[simp] theorem putIn_snaps (k : Nat) (v : Option LsBlock) : (putIn k v s).snaps = s.snaps := rfl
@[simp] theorem putIn_saving (k : Nat) (v : Option LsBlock) : (putIn k v s).saving = s.saving := rfl
@[simp] theorem putIn_planSel (k : Nat) (v : Option LsBlock) : (putIn k v s).planSel = s.planSel := rfl
@[simp] theorem putIn_planChanged (k : Nat) (v : Option LsBlock) : (putIn k v s).planChanged = s.planChanged := rfl
@[simp] theorem putIn_reconFailed (k : Nat) (v : Option LsBlock) : (putIn k v s).reconFailed = s.reconFailed := rfl
@[simp] theorem putIn_hostStall (k : Nat) (v : Option LsBlock) : (putIn k v s).hostStall = s.hostStall := rfl
@[simp] theorem putIn_lapSet (k : Nat) (v : Option LsBlock) : (putIn k v s).lapSet = s.lapSet := rfl
@[simp] theorem putIn_excBase (k : Nat) (v : Option LsBlock) : (putIn k v s).excBase = s.excBase := rfl
@[simp] theorem putIn_sides (k : Nat) (v : Option LsBlock) : (putIn k v s).sides = s.sides := rfl
@[simp] theorem putIn_ringClk (k : Nat) (v : Option LsBlock) : (putIn k v s).ringClk = s.ringClk := rfl
@[simp] theorem putIn_power (k : Nat) (v : Option LsBlock) : (putIn k v s).power = s.power := rfl
@[simp] theorem putIn_bring (k : Nat) (v : Option LsBlock) : (putIn k v s).bring = s.bring := rfl
@[simp] theorem putIn_fuses (k : Nat) (v : Option LsBlock) : (putIn k v s).fuses = s.fuses := rfl
@[simp] theorem putIn_fw (k : Nat) (v : Option LsBlock) : (putIn k v s).fw = s.fw := rfl
@[simp] theorem putIn_dbg (k : Nat) (v : Option LsBlock) : (putIn k v s).dbg = s.dbg := rfl
@[simp] theorem putIn_timeCtr (k : Nat) (v : Option LsBlock) : (putIn k v s).timeCtr = s.timeCtr := rfl
@[simp] theorem putIn_measure5 (k : Nat) (v : Option LsBlock) : (putIn k v s).measure5 = s.measure5 := rfl
@[simp] theorem putIn_cages (k : Nat) (v : Option LsBlock) : (putIn k v s).cages = s.cages := rfl
@[simp] theorem putIn_shifted (k : Nat) (v : Option LsBlock) : (putIn k v s).shifted = s.shifted := rfl
@[simp] theorem putIn_authFails (k : Nat) (v : Option LsBlock) : (putIn k v s).authFails = s.authFails := rfl
@[simp] theorem putIn_rg (k : Nat) (v : Option LsBlock) (i : Nat) : rg (putIn k v s) i = rg s i := rfl
@[simp] theorem putIn_rf (k : Nat) (v : Option LsBlock) (i : Nat) (g : Fld) : rf (putIn k v s) i g = rf s i g := rfl
@[simp] theorem putIn_memByte (k : Nat) (v : Option LsBlock) (i : Nat) : memByte (putIn k v s) i = memByte s i := rfl
@[simp] theorem putIn_tagOf (k : Nat) (v : Option LsBlock) (i : Nat) : tagOf (putIn k v s) i = tagOf s i := rfl
@[simp] theorem putIn_portOf (k : Nat) (v : Option LsBlock) (i : Nat) : portOf (putIn k v s) i = portOf s i := rfl
@[simp] theorem putIn_ringOf (k : Nat) (v : Option LsBlock) (i j : Nat) : ringOf (putIn k v s) i j = ringOf s i j := rfl
@[simp] theorem putIn_standOf (k : Nat) (v : Option LsBlock) (i : Nat) : standOf (putIn k v s) i = standOf s i := rfl
@[simp] theorem putIn_stageOf (k : Nat) (v : Option LsBlock) (i : Nat) : stageOf (putIn k v s) i = stageOf s i := rfl
@[simp] theorem putIn_arrOf (k : Nat) (v : Option LsBlock) (i : Nat) : arrOf (putIn k v s) i = arrOf s i := rfl
@[simp] theorem putIn_sessOf (k : Nat) (v : Option LsBlock) (i : Nat) : sessOf (putIn k v s) i = sessOf s i := rfl
@[simp] theorem putIn_hubQOf (k : Nat) (v : Option LsBlock) (i j : Nat) : hubQOf (putIn k v s) i j = hubQOf s i j := rfl
@[simp] theorem putIn_execOf (k : Nat) (v : Option LsBlock) (i j : Nat) : execOf (putIn k v s) i j = execOf s i j := rfl
@[simp] theorem putIn_gateSt (k : Nat) (v : Option LsBlock) (i j : Nat) : gateSt (putIn k v s) i j = gateSt s i j := rfl
@[simp] theorem putIn_linkOf (k : Nat) (v : Option LsBlock) (i j l : Nat) : linkOf (putIn k v s) i j l = linkOf s i j l := rfl
@[simp] theorem putIn_creditOf (k : Nat) (v : Option LsBlock) (i : Nat) : creditOf (putIn k v s) i = creditOf s i := rfl
@[simp] theorem putIn_steerOf (k : Nat) (v : Option LsBlock) (i j l : Nat) : steerOf (putIn k v s) i j l = steerOf s i j l := rfl
@[simp] theorem putIn_nodeOf (k : Nat) (v : Option LsBlock) (i j : Nat) : nodeOf (putIn k v s) i j = nodeOf s i j := rfl
@[simp] theorem putIn_seamOf (k : Nat) (v : Option LsBlock) (i j : Nat) : seamOf (putIn k v s) i j = seamOf s i j := rfl
@[simp] theorem putIn_memArrOf (k : Nat) (v : Option LsBlock) (i j : Nat) : memArrOf (putIn k v s) i j = memArrOf s i j := rfl
@[simp] theorem putIn_tapOf (k : Nat) (v : Option LsBlock) (i j : Nat) : tapOf (putIn k v s) i j = tapOf s i j := rfl
@[simp] theorem putIn_logOf (k : Nat) (v : Option LsBlock) (i : Nat) : logOf (putIn k v s) i = logOf s i := rfl
@[simp] theorem putIn_waitOf (k : Nat) (v : Option LsBlock) (y : Waiter) : waitOf (putIn k v s) y = waitOf s y := rfl
@[simp] theorem putIn_sideOf (k : Nat) (v : Option LsBlock) (i j : Nat) : sideOf (putIn k v s) i j = sideOf s i j := rfl
@[simp] theorem putIn_fuseOf (k : Nat) (v : Option LsBlock) (i : Nat) : fuseOf (putIn k v s) i = fuseOf s i := rfl
@[simp] theorem putIn_gsOf (k : Nat) (v : Option LsBlock) (i : Nat) : gsOf (putIn k v s) i = gsOf s i := rfl
@[simp] theorem putIn_gringOf (k : Nat) (v : Option LsBlock) (i j : Nat) : gringOf (putIn k v s) i j = gringOf s i j := rfl
@[simp] theorem putIn_descBytes (k : Nat) (v : Option LsBlock) (i j l : Nat) : descBytes (putIn k v s) i j l = descBytes s i j l := rfl
@[simp] theorem putIn_svcOf (k : Nat) (v : Option LsBlock) (y : MeshSrc) : svcOf (putIn k v s) y = svcOf s y := rfl
@[simp] theorem putIn_timeNow (k : Nat) (v : Option LsBlock) : timeNow (putIn k v s)  = timeNow s := rfl

/-! ### putDesc -/

@[simp] theorem putDesc_pending (p o : Nat) (v : List Byte) : (putDesc p o v s).pending = s.pending := rfl
@[simp] theorem putDesc_freeCtr (p o : Nat) (v : List Byte) : (putDesc p o v s).freeCtr = s.freeCtr := rfl
@[simp] theorem putDesc_regs (p o : Nat) (v : List Byte) : (putDesc p o v s).regs = s.regs := rfl
@[simp] theorem putDesc_mem (p o : Nat) (v : List Byte) : (putDesc p o v s).mem = s.mem := rfl
@[simp] theorem putDesc_upset (p o : Nat) (v : List Byte) : (putDesc p o v s).upset = s.upset := rfl
@[simp] theorem putDesc_tags (p o : Nat) (v : List Byte) : (putDesc p o v s).tags = s.tags := rfl
@[simp] theorem putDesc_ob (p o : Nat) (v : List Byte) : (putDesc p o v s).ob = s.ob := rfl
@[simp] theorem putDesc_obBad (p o : Nat) (v : List Byte) : (putDesc p o v s).obBad = s.obBad := rfl
@[simp] theorem putDesc_hostMem (p o : Nat) (v : List Byte) : (putDesc p o v s).hostMem = s.hostMem := rfl
@[simp] theorem putDesc_peerMem (p o : Nat) (v : List Byte) : (putDesc p o v s).peerMem = s.peerMem := rfl
@[simp] theorem putDesc_stages (p o : Nat) (v : List Byte) : (putDesc p o v s).stages = s.stages := rfl
@[simp] theorem putDesc_arrays (p o : Nat) (v : List Byte) : (putDesc p o v s).arrays = s.arrays := rfl
@[simp] theorem putDesc_stands (p o : Nat) (v : List Byte) : (putDesc p o v s).stands = s.stands := rfl
@[simp] theorem putDesc_ports (p o : Nat) (v : List Byte) : (putDesc p o v s).ports = s.ports := rfl
@[simp] theorem putDesc_rings (p o : Nat) (v : List Byte) : (putDesc p o v s).rings = s.rings := rfl
@[simp] theorem putDesc_sessions (p o : Nat) (v : List Byte) : (putDesc p o v s).sessions = s.sessions := rfl
@[simp] theorem putDesc_orphans (p o : Nat) (v : List Byte) : (putDesc p o v s).orphans = s.orphans := rfl
@[simp] theorem putDesc_reportSeq (p o : Nat) (v : List Byte) : (putDesc p o v s).reportSeq = s.reportSeq := rfl
@[simp] theorem putDesc_mode (p o : Nat) (v : List Byte) : (putDesc p o v s).mode = s.mode := rfl
@[simp] theorem putDesc_epoch (p o : Nat) (v : List Byte) : (putDesc p o v s).epoch = s.epoch := rfl
@[simp] theorem putDesc_tainted (p o : Nat) (v : List Byte) : (putDesc p o v s).tainted = s.tainted := rfl
@[simp] theorem putDesc_taints (p o : Nat) (v : List Byte) : (putDesc p o v s).taints = s.taints := rfl
@[simp] theorem putDesc_taintCount (p o : Nat) (v : List Byte) : (putDesc p o v s).taintCount = s.taintCount := rfl
@[simp] theorem putDesc_srKey (p o : Nat) (v : List Byte) : (putDesc p o v s).srKey = s.srKey := rfl
@[simp] theorem putDesc_lapLen (p o : Nat) (v : List Byte) : (putDesc p o v s).lapLen = s.lapLen := rfl
@[simp] theorem putDesc_traceEn (p o : Nat) (v : List Byte) : (putDesc p o v s).traceEn = s.traceEn := rfl
@[simp] theorem putDesc_traceFirst (p o : Nat) (v : List Byte) : (putDesc p o v s).traceFirst = s.traceFirst := rfl
@[simp] theorem putDesc_traceLast (p o : Nat) (v : List Byte) : (putDesc p o v s).traceLast = s.traceLast := rfl
@[simp] theorem putDesc_vtags (p o : Nat) (v : List Byte) : (putDesc p o v s).vtags = s.vtags := rfl
@[simp] theorem putDesc_links (p o : Nat) (v : List Byte) : (putDesc p o v s).links = s.links := rfl
@[simp] theorem putDesc_credits (p o : Nat) (v : List Byte) : (putDesc p o v s).credits = s.credits := rfl
@[simp] theorem putDesc_creditFly (p o : Nat) (v : List Byte) : (putDesc p o v s).creditFly = s.creditFly := rfl
@[simp] theorem putDesc_moves (p o : Nat) (v : List Byte) : (putDesc p o v s).moves = s.moves := rfl
@[simp] theorem putDesc_steers (p o : Nat) (v : List Byte) : (putDesc p o v s).steers = s.steers := rfl
@[simp] theorem putDesc_nodes (p o : Nat) (v : List Byte) : (putDesc p o v s).nodes = s.nodes := rfl
@[simp] theorem putDesc_seams (p o : Nat) (v : List Byte) : (putDesc p o v s).seams = s.seams := rfl
@[simp] theorem putDesc_memArrs (p o : Nat) (v : List Byte) : (putDesc p o v s).memArrs = s.memArrs := rfl
@[simp] theorem putDesc_taps (p o : Nat) (v : List Byte) : (putDesc p o v s).taps = s.taps := rfl
@[simp] theorem putDesc_svc (p o : Nat) (v : List Byte) : (putDesc p o v s).svc = s.svc := rfl
@[simp] theorem putDesc_svcResp (p o : Nat) (v : List Byte) : (putDesc p o v s).svcResp = s.svcResp := rfl
@[simp] theorem putDesc_svcGot (p o : Nat) (v : List Byte) : (putDesc p o v s).svcGot = s.svcGot := rfl
@[simp] theorem putDesc_svcId (p o : Nat) (v : List Byte) : (putDesc p o v s).svcId = s.svcId := rfl
@[simp] theorem putDesc_mgmtIn (p o : Nat) (v : List Byte) : (putDesc p o v s).mgmtIn = s.mgmtIn := rfl
@[simp] theorem putDesc_waits (p o : Nat) (v : List Byte) : (putDesc p o v s).waits = s.waits := rfl
@[simp] theorem putDesc_dones (p o : Nat) (v : List Byte) : (putDesc p o v s).dones = s.dones := rfl
@[simp] theorem putDesc_xbar (p o : Nat) (v : List Byte) : (putDesc p o v s).xbar = s.xbar := rfl
@[simp] theorem putDesc_turns (p o : Nat) (v : List Byte) : (putDesc p o v s).turns = s.turns := rfl
@[simp] theorem putDesc_draining (p o : Nat) (v : List Byte) : (putDesc p o v s).draining = s.draining := rfl
@[simp] theorem putDesc_drainTallies (p o : Nat) (v : List Byte) : (putDesc p o v s).drainTallies = s.drainTallies := rfl
@[simp] theorem putDesc_drainExc (p o : Nat) (v : List Byte) : (putDesc p o v s).drainExc = s.drainExc := rfl
@[simp] theorem putDesc_excSat (p o : Nat) (v : List Byte) : (putDesc p o v s).excSat = s.excSat := rfl
@[simp] theorem putDesc_image (p o : Nat) (v : List Byte) : (putDesc p o v s).image = s.image := rfl
@[simp] theorem putDesc_plan (p o : Nat) (v : List Byte) : (putDesc p o v s).plan = s.plan := rfl
@[simp] theorem putDesc_logs (p o : Nat) (v : List Byte) : (putDesc p o v s).logs = s.logs := rfl
@[simp] theorem putDesc_hubQs (p o : Nat) (v : List Byte) : (putDesc p o v s).hubQs = s.hubQs := rfl
@[simp] theorem putDesc_hdlStage (p o : Nat) (v : List Byte) : (putDesc p o v s).hdlStage = s.hdlStage := rfl
@[simp] theorem putDesc_dirty (p o : Nat) (v : List Byte) : (putDesc p o v s).dirty = s.dirty := rfl
@[simp] theorem putDesc_otpStage (p o : Nat) (v : List Byte) : (putDesc p o v s).otpStage = s.otpStage := rfl
@[simp] theorem putDesc_gates (p o : Nat) (v : List Byte) : (putDesc p o v s).gates = s.gates := rfl
@[simp] theorem putDesc_suOut (p o : Nat) (v : List Byte) : (putDesc p o v s).suOut = s.suOut := rfl
@[simp] theorem putDesc_arb (p o : Nat) (v : List Byte) : (putDesc p o v s).arb = s.arb := rfl
@[simp] theorem putDesc_fetchOrder (p o : Nat) (v : List Byte) : (putDesc p o v s).fetchOrder = s.fetchOrder := rfl
@[simp] theorem putDesc_decoders (p o : Nat) (v : List Byte) : (putDesc p o v s).decoders = s.decoders := rfl
@[simp] theorem putDesc_gul (p o : Nat) (v : List Byte) : (putDesc p o v s).gul = s.gul := rfl
@[simp] theorem putDesc_lsOn (p o : Nat) (v : List Byte) : (putDesc p o v s).lsOn = s.lsOn := rfl
@[simp] theorem putDesc_hbs (p o : Nat) (v : List Byte) : (putDesc p o v s).hbs = s.hbs := rfl
@[simp] theorem putDesc_snaps (p o : Nat) (v : List Byte) : (putDesc p o v s).snaps = s.snaps := rfl
@[simp] theorem putDesc_saving (p o : Nat) (v : List Byte) : (putDesc p o v s).saving = s.saving := rfl
@[simp] theorem putDesc_planSel (p o : Nat) (v : List Byte) : (putDesc p o v s).planSel = s.planSel := rfl
@[simp] theorem putDesc_planChanged (p o : Nat) (v : List Byte) : (putDesc p o v s).planChanged = s.planChanged := rfl
@[simp] theorem putDesc_reconFailed (p o : Nat) (v : List Byte) : (putDesc p o v s).reconFailed = s.reconFailed := rfl
@[simp] theorem putDesc_hostStall (p o : Nat) (v : List Byte) : (putDesc p o v s).hostStall = s.hostStall := rfl
@[simp] theorem putDesc_lapSet (p o : Nat) (v : List Byte) : (putDesc p o v s).lapSet = s.lapSet := rfl
@[simp] theorem putDesc_excBase (p o : Nat) (v : List Byte) : (putDesc p o v s).excBase = s.excBase := rfl
@[simp] theorem putDesc_sides (p o : Nat) (v : List Byte) : (putDesc p o v s).sides = s.sides := rfl
@[simp] theorem putDesc_ringClk (p o : Nat) (v : List Byte) : (putDesc p o v s).ringClk = s.ringClk := rfl
@[simp] theorem putDesc_power (p o : Nat) (v : List Byte) : (putDesc p o v s).power = s.power := rfl
@[simp] theorem putDesc_bring (p o : Nat) (v : List Byte) : (putDesc p o v s).bring = s.bring := rfl
@[simp] theorem putDesc_fuses (p o : Nat) (v : List Byte) : (putDesc p o v s).fuses = s.fuses := rfl
@[simp] theorem putDesc_fw (p o : Nat) (v : List Byte) : (putDesc p o v s).fw = s.fw := rfl
@[simp] theorem putDesc_dbg (p o : Nat) (v : List Byte) : (putDesc p o v s).dbg = s.dbg := rfl
@[simp] theorem putDesc_timeCtr (p o : Nat) (v : List Byte) : (putDesc p o v s).timeCtr = s.timeCtr := rfl
@[simp] theorem putDesc_measure5 (p o : Nat) (v : List Byte) : (putDesc p o v s).measure5 = s.measure5 := rfl
@[simp] theorem putDesc_cages (p o : Nat) (v : List Byte) : (putDesc p o v s).cages = s.cages := rfl
@[simp] theorem putDesc_shifted (p o : Nat) (v : List Byte) : (putDesc p o v s).shifted = s.shifted := rfl
@[simp] theorem putDesc_authFails (p o : Nat) (v : List Byte) : (putDesc p o v s).authFails = s.authFails := rfl
@[simp] theorem putDesc_rg (p o : Nat) (v : List Byte) (i : Nat) : rg (putDesc p o v s) i = rg s i := rfl
@[simp] theorem putDesc_rf (p o : Nat) (v : List Byte) (i : Nat) (g : Fld) : rf (putDesc p o v s) i g = rf s i g := rfl
@[simp] theorem putDesc_memByte (p o : Nat) (v : List Byte) (i : Nat) : memByte (putDesc p o v s) i = memByte s i := rfl
@[simp] theorem putDesc_tagOf (p o : Nat) (v : List Byte) (i : Nat) : tagOf (putDesc p o v s) i = tagOf s i := rfl
@[simp] theorem putDesc_portOf (p o : Nat) (v : List Byte) (i : Nat) : portOf (putDesc p o v s) i = portOf s i := rfl
@[simp] theorem putDesc_ringOf (p o : Nat) (v : List Byte) (i j : Nat) : ringOf (putDesc p o v s) i j = ringOf s i j := rfl
@[simp] theorem putDesc_standOf (p o : Nat) (v : List Byte) (i : Nat) : standOf (putDesc p o v s) i = standOf s i := rfl
@[simp] theorem putDesc_stageOf (p o : Nat) (v : List Byte) (i : Nat) : stageOf (putDesc p o v s) i = stageOf s i := rfl
@[simp] theorem putDesc_arrOf (p o : Nat) (v : List Byte) (i : Nat) : arrOf (putDesc p o v s) i = arrOf s i := rfl
@[simp] theorem putDesc_sessOf (p o : Nat) (v : List Byte) (i : Nat) : sessOf (putDesc p o v s) i = sessOf s i := rfl
@[simp] theorem putDesc_hubQOf (p o : Nat) (v : List Byte) (i j : Nat) : hubQOf (putDesc p o v s) i j = hubQOf s i j := rfl
@[simp] theorem putDesc_execOf (p o : Nat) (v : List Byte) (i j : Nat) : execOf (putDesc p o v s) i j = execOf s i j := rfl
@[simp] theorem putDesc_gateSt (p o : Nat) (v : List Byte) (i j : Nat) : gateSt (putDesc p o v s) i j = gateSt s i j := rfl
@[simp] theorem putDesc_linkOf (p o : Nat) (v : List Byte) (i j l : Nat) : linkOf (putDesc p o v s) i j l = linkOf s i j l := rfl
@[simp] theorem putDesc_creditOf (p o : Nat) (v : List Byte) (i : Nat) : creditOf (putDesc p o v s) i = creditOf s i := rfl
@[simp] theorem putDesc_steerOf (p o : Nat) (v : List Byte) (i j l : Nat) : steerOf (putDesc p o v s) i j l = steerOf s i j l := rfl
@[simp] theorem putDesc_nodeOf (p o : Nat) (v : List Byte) (i j : Nat) : nodeOf (putDesc p o v s) i j = nodeOf s i j := rfl
@[simp] theorem putDesc_seamOf (p o : Nat) (v : List Byte) (i j : Nat) : seamOf (putDesc p o v s) i j = seamOf s i j := rfl
@[simp] theorem putDesc_memArrOf (p o : Nat) (v : List Byte) (i j : Nat) : memArrOf (putDesc p o v s) i j = memArrOf s i j := rfl
@[simp] theorem putDesc_tapOf (p o : Nat) (v : List Byte) (i j : Nat) : tapOf (putDesc p o v s) i j = tapOf s i j := rfl
@[simp] theorem putDesc_logOf (p o : Nat) (v : List Byte) (i : Nat) : logOf (putDesc p o v s) i = logOf s i := rfl
@[simp] theorem putDesc_waitOf (p o : Nat) (v : List Byte) (y : Waiter) : waitOf (putDesc p o v s) y = waitOf s y := rfl
@[simp] theorem putDesc_sideOf (p o : Nat) (v : List Byte) (i j : Nat) : sideOf (putDesc p o v s) i j = sideOf s i j := rfl
@[simp] theorem putDesc_fuseOf (p o : Nat) (v : List Byte) (i : Nat) : fuseOf (putDesc p o v s) i = fuseOf s i := rfl
@[simp] theorem putDesc_gsOf (p o : Nat) (v : List Byte) (i : Nat) : gsOf (putDesc p o v s) i = gsOf s i := rfl
@[simp] theorem putDesc_gringOf (p o : Nat) (v : List Byte) (i j : Nat) : gringOf (putDesc p o v s) i j = gringOf s i j := rfl
@[simp] theorem putDesc_lsOwn (p o : Nat) (v : List Byte) (i : Nat) : lsOwn (putDesc p o v s) i = lsOwn s i := rfl
@[simp] theorem putDesc_lsIn (p o : Nat) (v : List Byte) (i : Nat) : lsIn (putDesc p o v s) i = lsIn s i := rfl
@[simp] theorem putDesc_svcOf (p o : Nat) (v : List Byte) (y : MeshSrc) : svcOf (putDesc p o v s) y = svcOf s y := rfl
@[simp] theorem putDesc_timeNow (p o : Nat) (v : List Byte) : timeNow (putDesc p o v s)  = timeNow s := rfl

end Sys2Proof.Laws
end

