-- ==== Sys2Proof/Laws/Ops.lean ====
section
/-!
SUPPORT. The laws of the shared operations: a register, a field or a unit reads as it was last set; what a report, a
retirement, a memory write and a response do, each said once; and that every memory operation keeps the memories' form.
-/

namespace Sys2Proof.Laws

open Sys2Proof.Machine

/-! ### A unit reads as it was last set -/

theorem rg_rput (s : State) (k : Nat) (w : Word) (i : Nat) : rg (rput k w s) i = if i = k then w else rg s i := smapGet_smapSet _ _ _ _ _
@[simp] theorem rg_rput_self (s : State) (k : Nat) (w : Word) : rg (rput k w s) k = w := smapGet_smapSet_self _ _ _ _

theorem tagOf_setTag (s : State) (k : Nat) (b : Bool) (i : Nat) : tagOf (setTag k b s) i = if i = k then b else tagOf s i := smapGet_smapSet _ _ _ _ _
@[simp] theorem tagOf_setTag_self (s : State) (k : Nat) (b : Bool) : tagOf (setTag k b s) k = b := smapGet_smapSet_self _ _ _ _

theorem portOf_putPort (s : State) (p : Nat) (v : Port) (i : Nat) : portOf (putPort p v s) i = if i = p then v else portOf s i := smapGet_smapSet _ _ _ _ _
@[simp] theorem portOf_putPort_self (s : State) (p : Nat) (v : Port) : portOf (putPort p v s) p = v := smapGet_smapSet_self _ _ _ _

theorem ringOf_putRing (s : State) (p r : Nat) (v : CRing) (i j : Nat) : ringOf (putRing p r v s) i j = if i * 64 + j = p * 64 + r then v else ringOf s i j := smapGet_smapSet _ _ _ _ _
@[simp] theorem ringOf_putRing_self (s : State) (p r : Nat) (v : CRing) : ringOf (putRing p r v s) p r = v := smapGet_smapSet_self _ _ _ _

theorem standOf_putStand (s : State) (p : Nat) (v : Stand) (i : Nat) : standOf (putStand p v s) i = if i = p then v else standOf s i := smapGet_smapSet _ _ _ _ _
@[simp] theorem standOf_putStand_self (s : State) (p : Nat) (v : Stand) : standOf (putStand p v s) p = v := smapGet_smapSet_self _ _ _ _

theorem stageOf_putStage (s : State) (k : Nat) (v : Stage) (i : Nat) : stageOf (putStage k v s) i = if i = k then v else stageOf s i := smapGet_smapSet _ _ _ _ _
@[simp] theorem stageOf_putStage_self (s : State) (k : Nat) (v : Stage) : stageOf (putStage k v s) k = v := smapGet_smapSet_self _ _ _ _

theorem arrOf_putArr (s : State) (k : Nat) (v : CArray) (i : Nat) : arrOf (putArr k v s) i = if i = k then v else arrOf s i := smapGet_smapSet _ _ _ _ _
@[simp] theorem arrOf_putArr_self (s : State) (k : Nat) (v : CArray) : arrOf (putArr k v s) k = v := smapGet_smapSet_self _ _ _ _

theorem sessOf_putSess (s : State) (k : Nat) (v : Option Session) (i : Nat) : sessOf (putSess k v s) i = if i = k then v else sessOf s i := smapGet_smapSet _ _ _ _ _
@[simp] theorem sessOf_putSess_self (s : State) (k : Nat) (v : Option Session) : sessOf (putSess k v s) k = v := smapGet_smapSet_self _ _ _ _

theorem hubQOf_putHubQ (s : State) (p q : Nat) (v : HubQ) (i j : Nat) : hubQOf (putHubQ p q v s) i j = if i * 32 + j = p * 32 + q then v else hubQOf s i j := smapGet_smapSet _ _ _ _ _
@[simp] theorem hubQOf_putHubQ_self (s : State) (p q : Nat) (v : HubQ) : hubQOf (putHubQ p q v s) p q = v := smapGet_smapSet_self _ _ _ _

theorem gateSt_putGate (s : State) (p n v : Nat) (i j : Nat) : gateSt (putGate p n v s) i j = if i * 1024 + j = p * 1024 + n then v else gateSt s i j := smapGet_smapSet _ _ _ _ _
@[simp] theorem gateSt_putGate_self (s : State) (p n v : Nat) : gateSt (putGate p n v s) p n = v := smapGet_smapSet_self _ _ _ _

theorem linkOf_putLink (s : State) (p n d : Nat) (v : LinkIn) (i j l : Nat) : linkOf (putLink p n d v s) i j l = if nodeKey i j * 4 + l = nodeKey p n * 4 + d then v else linkOf s i j l := smapGet_smapSet _ _ _ _ _
@[simp] theorem linkOf_putLink_self (s : State) (p n d : Nat) (v : LinkIn) : linkOf (putLink p n d v s) p n d = v := smapGet_smapSet_self _ _ _ _

theorem creditOf_putCredit (s : State) (c v : Nat) (i : Nat) : creditOf (putCredit c v s) i = if i = c then v else creditOf s i := smapGet_smapSet _ _ _ _ _
@[simp] theorem creditOf_putCredit_self (s : State) (c v : Nat) : creditOf (putCredit c v s) c = v := smapGet_smapSet_self _ _ _ _

theorem steerOf_putSteer (s : State) (p n u : Nat) (v : Steer) (i j l : Nat) : steerOf (putSteer p n u v s) i j l = if nodeKey i j * 4 + l = nodeKey p n * 4 + u then v else steerOf s i j l := smapGet_smapSet _ _ _ _ _
@[simp] theorem steerOf_putSteer_self (s : State) (p n u : Nat) (v : Steer) : steerOf (putSteer p n u v s) p n u = v := smapGet_smapSet_self _ _ _ _

theorem nodeOf_putNode (s : State) (p n : Nat) (v : NodeSt) (i j : Nat) : nodeOf (putNode p n v s) i j = if nodeKey i j = nodeKey p n then v else nodeOf s i j := smapGet_smapSet _ _ _ _ _
@[simp] theorem nodeOf_putNode_self (s : State) (p n : Nat) (v : NodeSt) : nodeOf (putNode p n v s) p n = v := smapGet_smapSet_self _ _ _ _

theorem seamOf_putSeam (s : State) (p d : Nat) (v : SeamPort) (i j : Nat) : seamOf (putSeam p d v s) i j = if i * 4 + j = p * 4 + d then v else seamOf s i j := smapGet_smapSet _ _ _ _ _
@[simp] theorem seamOf_putSeam_self (s : State) (p d : Nat) (v : SeamPort) : seamOf (putSeam p d v s) p d = v := smapGet_smapSet_self _ _ _ _

theorem memArrOf_putMemArr (s : State) (p a : Nat) (v : MemArr) (i j : Nat) : memArrOf (putMemArr p a v s) i j = if arrKey i j = arrKey p a then v else memArrOf s i j := smapGet_smapSet _ _ _ _ _
@[simp] theorem memArrOf_putMemArr_self (s : State) (p a : Nat) (v : MemArr) : memArrOf (putMemArr p a v s) p a = v := smapGet_smapSet_self _ _ _ _

theorem tapOf_putTap (s : State) (p t : Nat) (v : Tap) (i j : Nat) : tapOf (putTap p t v s) i j = if i * 8 + j = p * 8 + t then v else tapOf s i j := smapGet_smapSet _ _ _ _ _
@[simp] theorem tapOf_putTap_self (s : State) (p t : Nat) (v : Tap) : tapOf (putTap p t v s) p t = v := smapGet_smapSet_self _ _ _ _

theorem logOf_putLog (s : State) (p : Nat) (v : ParityLog) (i : Nat) : logOf (putLog p v s) i = if i = p then v else logOf s i := smapGet_smapSet _ _ _ _ _
@[simp] theorem logOf_putLog_self (s : State) (p : Nat) (v : ParityLog) : logOf (putLog p v s) p = v := smapGet_smapSet_self _ _ _ _

theorem sideOf_putSide (s : State) (p d : Nat) (v : Side) (i j : Nat) : sideOf (putSide p d v s) i j = if i * 4 + j = p * 4 + d then v else sideOf s i j := smapGet_smapSet _ _ _ _ _
@[simp] theorem sideOf_putSide_self (s : State) (p d : Nat) (v : Side) : sideOf (putSide p d v s) p d = v := smapGet_smapSet_self _ _ _ _

theorem fuseOf_putFuse (s : State) (n : Nat) (v : FuseGen) (i : Nat) : fuseOf (putFuse n v s) i = if i = n then v else fuseOf s i := smapGet_smapSet _ _ _ _ _
@[simp] theorem fuseOf_putFuse_self (s : State) (n : Nat) (v : FuseGen) : fuseOf (putFuse n v s) n = v := smapGet_smapSet_self _ _ _ _

theorem gsOf_putGs (s : State) (n : Nat) (v : GSess) (i : Nat) : gsOf (putGs n v s) i = if i = n then v else gsOf s i := smapGet_smapSet _ _ _ _ _
@[simp] theorem gsOf_putGs_self (s : State) (n : Nat) (v : GSess) : gsOf (putGs n v s) n = v := smapGet_smapSet_self _ _ _ _

theorem gringOf_putGring (s : State) (p q : Nat) (v : GRing) (i j : Nat) : gringOf (putGring p q v s) i j = if i * 16 + j = p * 16 + q then v else gringOf s i j := smapGet_smapSet _ _ _ _ _
@[simp] theorem gringOf_putGring_self (s : State) (p q : Nat) (v : GRing) : gringOf (putGring p q v s) p q = v := smapGet_smapSet_self _ _ _ _

theorem lsOwn_putOwn (s : State) (k : Nat) (v : Option LsBlock) (i : Nat) : lsOwn (putOwn k v s) i = if i = k then v else lsOwn s i := smapGet_smapSet _ _ _ _ _
@[simp] theorem lsOwn_putOwn_self (s : State) (k : Nat) (v : Option LsBlock) : lsOwn (putOwn k v s) k = v := smapGet_smapSet_self _ _ _ _

theorem lsIn_putIn (s : State) (k : Nat) (v : Option LsBlock) (i : Nat) : lsIn (putIn k v s) i = if i = k then v else lsIn s i := smapGet_smapSet _ _ _ _ _
@[simp] theorem lsIn_putIn_self (s : State) (k : Nat) (v : Option LsBlock) : lsIn (putIn k v s) k = v := smapGet_smapSet_self _ _ _ _

/-! ### Fields of registers -/

/-- A field that lies within its register reads as it was set, modulo its width. -/
theorem rf_rfput_self (s : State) (k : Nat) (f : Fld) (v : Nat) (h : f.hi < 64) :
    rf (rfput k f v s) k f = v % 2 ^ (f.hi + 1 - f.lo) := by
  unfold rf rfput
  rw [rg_rput_self, fldGet_fldSet f _ v h]

/-- Another field of the same register stays. -/
theorem rf_rfput_field (s : State) (k : Nat) (f g : Fld) (v : Nat) (h : f.hi < g.lo ∨ g.hi < f.lo) :
    rf (rfput k g v s) k f = rf s k f := by
  unfold rf rfput
  rw [rg_rput_self, fldGet_fldSet_other f g _ v h]

/-- Every other register stays. -/
theorem rg_rfput_key (s : State) (k j : Nat) (f : Fld) (v : Nat) (h : j ≠ k) : rg (rfput k f v s) j = rg s j := by
  unfold rfput
  rw [rg_rput, if_neg h]

theorem rf_rfput_key (s : State) (k j : Nat) (f g : Fld) (v : Nat) (h : j ≠ k) : rf (rfput k f v s) j g = rf s j g := by
  unfold rf
  rw [rg_rfput_key s k j f v h]

theorem rf_rput_key (s : State) (k j : Nat) (w : Word) (g : Fld) (h : j ≠ k) : rf (rput k w s) j g = rf s j g := by
  unfold rf
  rw [rg_rput, if_neg h]

theorem rf_rput_self (s : State) (k : Nat) (w : Word) (g : Fld) : rf (rput k w s) k g = fldGet g w := by
  unfold rf
  rw [rg_rput_self]

/-- A saturating field takes the sum, at most its largest value. -/
theorem rf_rfsat_self (s : State) (k : Nat) (f : Fld) (n : Nat) (h : f.hi < 64) :
    rf (rfsat k f n s) k f = min (fldMax f) (rf s k f + n) := by
  unfold rfsat
  rw [rf_rfput_self s k f _ h]
  apply Nat.mod_eq_of_lt
  unfold satAdd fldMax
  have := Nat.two_pow_pos (f.hi + 1 - f.lo)
  omega

/-- A counting field adds modulo its width. -/
theorem rf_rfadd_self (s : State) (k : Nat) (f : Fld) (n : Nat) (h : f.hi < 64) :
    rf (rfadd k f n s) k f = (rf s k f + n) % 2 ^ (f.hi + 1 - f.lo) := by
  unfold rfadd
  exact rf_rfput_self s k f _ h

theorem rg_rfsat_key (s : State) (k j : Nat) (f : Fld) (n : Nat) (h : j ≠ k) : rg (rfsat k f n s) j = rg s j :=
  rg_rfput_key s k j f _ h

theorem rg_rfadd_key (s : State) (k j : Nat) (f : Fld) (n : Nat) (h : j ≠ k) : rg (rfadd k f n s) j = rg s j :=
  rg_rfput_key s k j f _ h

theorem regs_wf_rput (s : State) (k : Nat) (w : Word) (h : Registers.wf s = true) : Registers.wf (rput k w s) = true :=
  smapOk_smapSet _ _ _ _ h

theorem regs_wf_rfput (s : State) (k : Nat) (f : Fld) (v : Nat) (h : Registers.wf s = true) :
    Registers.wf (rfput k f v s) = true := regs_wf_rput _ _ _ h

theorem regs_wf_rfsat (s : State) (k : Nat) (f : Fld) (v : Nat) (h : Registers.wf s = true) :
    Registers.wf (rfsat k f v s) = true := regs_wf_rput _ _ _ h

theorem regs_wf_rfadd (s : State) (k : Nat) (f : Fld) (v : Nat) (h : Registers.wf s = true) :
    Registers.wf (rfadd k f v s) = true := regs_wf_rput _ _ _ h

theorem regs_wf_countErr (s : State) (x : Status) (a b c : Nat) (h : Registers.wf s = true) :
    Registers.wf (countErr x a b c s) = true := regs_wf_rput _ _ _ (regs_wf_rput _ _ _ (regs_wf_rfsat _ _ _ _ h))

/-- The helper that finds a value first gives the function's value there. -/
@[simp] theorem withNat_eq {α : Type} (v : Nat) (f : Nat → α) : withNat v f = f v := by
  cases v <;> rfl

/-! ### Memory -/

theorem memByte_writeRaw (s : State) (k j : Nat) (bs : List Byte) :
    memByte (writeRaw k bs s) j = if k ≤ j ∧ j < k + bs.length then bs.getD (j - k) 0 else memByte s j :=
  smapGet_smapSetMany memDflt bs s.mem k j

theorem memory_wf_writeRaw (s : State) (k : Nat) (bs : List Byte) (h : Memory.wf s = true) :
    Memory.wf (writeRaw k bs s) = true := by
  simp only [Memory.wf, Bool.and_eq_true, writeRaw] at h ⊢
  exact ⟨⟨⟨⟨⟨smapOk_smapSetMany _ _ _ _ h.1.1.1.1.1, h.1.1.1.1.2⟩, h.1.1.1.2⟩, h.1.1.2⟩, h.1.2⟩, h.2⟩

/-- Everything a memory write can change. -/
theorem writeRaw_frame (k : Nat) (bs : List Byte) (s : State) : ∃ m u, writeRaw k bs s = { s with mem := m, upset := u } :=
  ⟨_, _, rfl⟩

theorem writeBytes_frame (k : Nat) (bs : List Byte) (s : State) : ∃ m u, writeBytes k bs s = { s with mem := m, upset := u } := by
  have raw (k : Nat) (bs : List Byte) (t : State) (h : ∃ m u, t = { s with mem := m, upset := u }) :
      ∃ m u, writeRaw k bs t = { s with mem := m, upset := u } := by
    obtain ⟨m, u, e⟩ := h
    rw [e]
    exact ⟨_, _, rfl⟩
  have fix (w : Nat) (t : State) (h : ∃ m u, t = { s with mem := m, upset := u }) : ∃ m u, (match readWord t (8 * w) with
      | some (d, true) => writeRaw (8 * w) (bytesLE 8 d.toNat) t
      | _ => t) = { s with mem := m, upset := u } := by
    split
    · exact raw _ _ _ h
    · exact h
  unfold writeBytes
  split
  · exact ⟨s.mem, s.upset, rfl⟩
  · exact raw _ _ _ (fix _ _ (fix _ _ ⟨s.mem, s.upset, rfl⟩))

theorem memory_wf_writeBytes (s : State) (k : Nat) (bs : List Byte) (h : Memory.wf s = true) :
    Memory.wf (writeBytes k bs s) = true := by
  have fix (w : Nat) (s : State) (h : Memory.wf s = true) : Memory.wf (match readWord s (8 * w) with
      | some (d, true) => writeRaw (8 * w) (bytesLE 8 d.toNat) s
      | _ => s) = true := by
    split
    · exact memory_wf_writeRaw _ _ _ h
    · exact h
  unfold writeBytes
  split
  · exact h
  · exact memory_wf_writeRaw _ _ _ (fix _ _ (fix _ _ h))

/-- Writing bytes leaves every byte outside its words, and writes those given. -/
theorem memByte_writeBytes_in (s : State) (k j : Nat) (bs : List Byte) (h : k ≤ j ∧ j < k + bs.length) :
    memByte (writeBytes k bs s) j = bs.getD (j - k) 0 := by
  unfold writeBytes
  rw [if_neg (by omega), memByte_writeRaw, if_pos h]

theorem memory_wf_obWrite (l : Loc) (lane : Nat) (bs : List Byte) : ∀ (b : Nat) (s : State), Memory.wf s = true →
    Memory.wf (obWrite l lane b bs s) = true := by
  induction bs with
  | nil => intro b s h; exact h
  | cons v vs ih =>
    intro b s h
    refine ih _ _ ?_
    simp only [Memory.wf, Bool.and_eq_true] at h ⊢
    exact ⟨⟨⟨⟨⟨h.1.1.1.1.1, smapOk_smapSet _ _ _ _ h.1.1.1.1.2⟩, h.1.1.1.2⟩, h.1.1.2⟩, h.1.2⟩, h.2⟩

theorem memory_wf_hostWrite (s : State) (a : Nat) (bs : List Byte) (h : Memory.wf s = true) :
    Memory.wf (hostWrite a bs s) = true := by
  simp only [Memory.wf, Bool.and_eq_true, hostWrite] at h ⊢
  exact ⟨⟨⟨⟨⟨h.1.1.1.1.1, h.1.1.1.1.2⟩, smapOk_smapSetMany _ _ _ _ h.1.1.1.2⟩, h.1.1.2⟩, h.1.2⟩, h.2⟩

theorem memory_wf_putDesc (s : State) (p o : Nat) (bs : List Byte) (h : Memory.wf s = true) :
    Memory.wf (putDesc p o bs s) = true := by
  simp only [Memory.wf, Bool.and_eq_true, putDesc] at h ⊢
  exact ⟨⟨h.1.1, smapOk_smapSetMany _ _ _ _ h.1.2⟩, h.2⟩

/-- What was written to core memory, DRAM or a host is read back. -/
theorem hostWrite_reads (s : State) (a : Nat) (bs : List Byte) :
    smapGetMany memDflt (hostWrite a bs s).hostMem a bs.length = bs := smapGetMany_smapSetMany _ _ _ _

/-! ### Reports (R348, R526) -/

theorem raiseIrq_frame (p v : Nat) (s : State) : ∃ q, raiseIrq p v s = { s with ports := q } := by
  exact ⟨_, rfl⟩

/-- A copy of a report changes its port, host memory and the counter of lost events. -/
theorem eventCopy_frame (r : Report) (p : Nat) (s : State) :
    ∃ g q h, eventCopy r p s = { s with regs := g, ports := q, hostMem := h } := by
  unfold eventCopy
  dsimp only
  split
  · exact ⟨s.regs, s.ports, s.hostMem, rfl⟩
  · split
    · exact ⟨_, _, s.hostMem, rfl⟩
    · split
      · obtain ⟨q, e⟩ := raiseIrq_frame p 64 (putPort p _ (hostWrite _ _ s))
        rw [e]
        exact ⟨s.regs, q, _, rfl⟩
      · exact ⟨s.regs, _, _, rfl⟩

/-- Everything a report changes: the sequence number, the sessions' backlogs, and the ports with their rings. -/
theorem report_frame (st : Status) (b : Bool) (src : Nat) (loc a : Word) (data : List Byte) (s : State) :
    ∃ g q h, report st b src loc a data s = { s with
      reportSeq := s.reportSeq + 1
      sessions := sessionCopies ⟨st, b, BitVec.ofNat 8 src, s.reportSeq, timeNow s, loc, BitVec.ofNat 64 s.epoch, a, data⟩ s.sessions
      regs := g, ports := q, hostMem := h } := by
  unfold report
  dsimp only
  obtain ⟨g0, q0, h0, e0⟩ := eventCopy_frame ⟨st, b, BitVec.ofNat 8 src, s.reportSeq, timeNow s, loc, BitVec.ofNat 64 s.epoch, a, data⟩ 0
    { s with
      reportSeq := s.reportSeq + 1
      sessions := sessionCopies ⟨st, b, BitVec.ofNat 8 src, s.reportSeq, timeNow s, loc, BitVec.ofNat 64 s.epoch, a, data⟩ s.sessions }
  rw [e0]
  obtain ⟨g1, q1, h1, e1⟩ := eventCopy_frame ⟨st, b, BitVec.ofNat 8 src, s.reportSeq, timeNow s, loc, BitVec.ofNat 64 s.epoch, a, data⟩ 1
    { s with
      reportSeq := s.reportSeq + 1
      sessions := sessionCopies ⟨st, b, BitVec.ofNat 8 src, s.reportSeq, timeNow s, loc, BitVec.ofNat 64 s.epoch, a, data⟩ s.sessions
      regs := g0, ports := q0, hostMem := h0 }
  rw [e1]
  obtain ⟨g2, q2, h2, e2⟩ := eventCopy_frame ⟨st, b, BitVec.ofNat 8 src, s.reportSeq, timeNow s, loc, BitVec.ofNat 64 s.epoch, a, data⟩ 2
    { s with
      reportSeq := s.reportSeq + 1
      sessions := sessionCopies ⟨st, b, BitVec.ofNat 8 src, s.reportSeq, timeNow s, loc, BitVec.ofNat 64 s.epoch, a, data⟩ s.sessions
      regs := g1, ports := q1, hostMem := h1 }
  rw [e2]
  obtain ⟨g3, q3, h3, e3⟩ := eventCopy_frame ⟨st, b, BitVec.ofNat 8 src, s.reportSeq, timeNow s, loc, BitVec.ofNat 64 s.epoch, a, data⟩ 3
    { s with
      reportSeq := s.reportSeq + 1
      sessions := sessionCopies ⟨st, b, BitVec.ofNat 8 src, s.reportSeq, timeNow s, loc, BitVec.ofNat 64 s.epoch, a, data⟩ s.sessions
      regs := g2, ports := q2, hostMem := h2 }
  rw [e3]
  exact ⟨g3, q3, h3, rfl⟩

@[simp] theorem report_reportSeq (st : Status) (b : Bool) (src : Nat) (loc a : Word) (data : List Byte) (s : State) :
    (report st b src loc a data s).reportSeq = s.reportSeq + 1 := by
  obtain ⟨_, _, _, e⟩ := report_frame st b src loc a data s
  rw [e]

@[simp] theorem report_pending (st : Status) (b : Bool) (src : Nat) (loc a : Word) (data : List Byte) (s : State) : (report st b src loc a data s).pending = s.pending := by
  obtain ⟨_, _, _, e⟩ := report_frame st b src loc a data s
  rw [e]
@[simp] theorem report_freeCtr (st : Status) (b : Bool) (src : Nat) (loc a : Word) (data : List Byte) (s : State) : (report st b src loc a data s).freeCtr = s.freeCtr := by
  obtain ⟨_, _, _, e⟩ := report_frame st b src loc a data s
  rw [e]
@[simp] theorem report_mem (st : Status) (b : Bool) (src : Nat) (loc a : Word) (data : List Byte) (s : State) : (report st b src loc a data s).mem = s.mem := by
  obtain ⟨_, _, _, e⟩ := report_frame st b src loc a data s
  rw [e]
@[simp] theorem report_upset (st : Status) (b : Bool) (src : Nat) (loc a : Word) (data : List Byte) (s : State) : (report st b src loc a data s).upset = s.upset := by
  obtain ⟨_, _, _, e⟩ := report_frame st b src loc a data s
  rw [e]
@[simp] theorem report_tags (st : Status) (b : Bool) (src : Nat) (loc a : Word) (data : List Byte) (s : State) : (report st b src loc a data s).tags = s.tags := by
  obtain ⟨_, _, _, e⟩ := report_frame st b src loc a data s
  rw [e]
@[simp] theorem report_ob (st : Status) (b : Bool) (src : Nat) (loc a : Word) (data : List Byte) (s : State) : (report st b src loc a data s).ob = s.ob := by
  obtain ⟨_, _, _, e⟩ := report_frame st b src loc a data s
  rw [e]
@[simp] theorem report_obBad (st : Status) (b : Bool) (src : Nat) (loc a : Word) (data : List Byte) (s : State) : (report st b src loc a data s).obBad = s.obBad := by
  obtain ⟨_, _, _, e⟩ := report_frame st b src loc a data s
  rw [e]
@[simp] theorem report_peerMem (st : Status) (b : Bool) (src : Nat) (loc a : Word) (data : List Byte) (s : State) : (report st b src loc a data s).peerMem = s.peerMem := by
  obtain ⟨_, _, _, e⟩ := report_frame st b src loc a data s
  rw [e]
@[simp] theorem report_stages (st : Status) (b : Bool) (src : Nat) (loc a : Word) (data : List Byte) (s : State) : (report st b src loc a data s).stages = s.stages := by
  obtain ⟨_, _, _, e⟩ := report_frame st b src loc a data s
  rw [e]
@[simp] theorem report_arrays (st : Status) (b : Bool) (src : Nat) (loc a : Word) (data : List Byte) (s : State) : (report st b src loc a data s).arrays = s.arrays := by
  obtain ⟨_, _, _, e⟩ := report_frame st b src loc a data s
  rw [e]
@[simp] theorem report_stands (st : Status) (b : Bool) (src : Nat) (loc a : Word) (data : List Byte) (s : State) : (report st b src loc a data s).stands = s.stands := by
  obtain ⟨_, _, _, e⟩ := report_frame st b src loc a data s
  rw [e]
@[simp] theorem report_rings (st : Status) (b : Bool) (src : Nat) (loc a : Word) (data : List Byte) (s : State) : (report st b src loc a data s).rings = s.rings := by
  obtain ⟨_, _, _, e⟩ := report_frame st b src loc a data s
  rw [e]
@[simp] theorem report_orphans (st : Status) (b : Bool) (src : Nat) (loc a : Word) (data : List Byte) (s : State) : (report st b src loc a data s).orphans = s.orphans := by
  obtain ⟨_, _, _, e⟩ := report_frame st b src loc a data s
  rw [e]
@[simp] theorem report_mode (st : Status) (b : Bool) (src : Nat) (loc a : Word) (data : List Byte) (s : State) : (report st b src loc a data s).mode = s.mode := by
  obtain ⟨_, _, _, e⟩ := report_frame st b src loc a data s
  rw [e]
@[simp] theorem report_epoch (st : Status) (b : Bool) (src : Nat) (loc a : Word) (data : List Byte) (s : State) : (report st b src loc a data s).epoch = s.epoch := by
  obtain ⟨_, _, _, e⟩ := report_frame st b src loc a data s
  rw [e]
@[simp] theorem report_tainted (st : Status) (b : Bool) (src : Nat) (loc a : Word) (data : List Byte) (s : State) : (report st b src loc a data s).tainted = s.tainted := by
  obtain ⟨_, _, _, e⟩ := report_frame st b src loc a data s
  rw [e]
@[simp] theorem report_taints (st : Status) (b : Bool) (src : Nat) (loc a : Word) (data : List Byte) (s : State) : (report st b src loc a data s).taints = s.taints := by
  obtain ⟨_, _, _, e⟩ := report_frame st b src loc a data s
  rw [e]
@[simp] theorem report_taintCount (st : Status) (b : Bool) (src : Nat) (loc a : Word) (data : List Byte) (s : State) : (report st b src loc a data s).taintCount = s.taintCount := by
  obtain ⟨_, _, _, e⟩ := report_frame st b src loc a data s
  rw [e]
@[simp] theorem report_srKey (st : Status) (b : Bool) (src : Nat) (loc a : Word) (data : List Byte) (s : State) : (report st b src loc a data s).srKey = s.srKey := by
  obtain ⟨_, _, _, e⟩ := report_frame st b src loc a data s
  rw [e]
@[simp] theorem report_lapLen (st : Status) (b : Bool) (src : Nat) (loc a : Word) (data : List Byte) (s : State) : (report st b src loc a data s).lapLen = s.lapLen := by
  obtain ⟨_, _, _, e⟩ := report_frame st b src loc a data s
  rw [e]
@[simp] theorem report_traceEn (st : Status) (b : Bool) (src : Nat) (loc a : Word) (data : List Byte) (s : State) : (report st b src loc a data s).traceEn = s.traceEn := by
  obtain ⟨_, _, _, e⟩ := report_frame st b src loc a data s
  rw [e]
@[simp] theorem report_traceFirst (st : Status) (b : Bool) (src : Nat) (loc a : Word) (data : List Byte) (s : State) : (report st b src loc a data s).traceFirst = s.traceFirst := by
  obtain ⟨_, _, _, e⟩ := report_frame st b src loc a data s
  rw [e]
@[simp] theorem report_traceLast (st : Status) (b : Bool) (src : Nat) (loc a : Word) (data : List Byte) (s : State) : (report st b src loc a data s).traceLast = s.traceLast := by
  obtain ⟨_, _, _, e⟩ := report_frame st b src loc a data s
  rw [e]
@[simp] theorem report_vtags (st : Status) (b : Bool) (src : Nat) (loc a : Word) (data : List Byte) (s : State) : (report st b src loc a data s).vtags = s.vtags := by
  obtain ⟨_, _, _, e⟩ := report_frame st b src loc a data s
  rw [e]
@[simp] theorem report_links (st : Status) (b : Bool) (src : Nat) (loc a : Word) (data : List Byte) (s : State) : (report st b src loc a data s).links = s.links := by
  obtain ⟨_, _, _, e⟩ := report_frame st b src loc a data s
  rw [e]
@[simp] theorem report_credits (st : Status) (b : Bool) (src : Nat) (loc a : Word) (data : List Byte) (s : State) : (report st b src loc a data s).credits = s.credits := by
  obtain ⟨_, _, _, e⟩ := report_frame st b src loc a data s
  rw [e]
@[simp] theorem report_creditFly (st : Status) (b : Bool) (src : Nat) (loc a : Word) (data : List Byte) (s : State) : (report st b src loc a data s).creditFly = s.creditFly := by
  obtain ⟨_, _, _, e⟩ := report_frame st b src loc a data s
  rw [e]
@[simp] theorem report_moves (st : Status) (b : Bool) (src : Nat) (loc a : Word) (data : List Byte) (s : State) : (report st b src loc a data s).moves = s.moves := by
  obtain ⟨_, _, _, e⟩ := report_frame st b src loc a data s
  rw [e]
@[simp] theorem report_steers (st : Status) (b : Bool) (src : Nat) (loc a : Word) (data : List Byte) (s : State) : (report st b src loc a data s).steers = s.steers := by
  obtain ⟨_, _, _, e⟩ := report_frame st b src loc a data s
  rw [e]
@[simp] theorem report_nodes (st : Status) (b : Bool) (src : Nat) (loc a : Word) (data : List Byte) (s : State) : (report st b src loc a data s).nodes = s.nodes := by
  obtain ⟨_, _, _, e⟩ := report_frame st b src loc a data s
  rw [e]
@[simp] theorem report_seams (st : Status) (b : Bool) (src : Nat) (loc a : Word) (data : List Byte) (s : State) : (report st b src loc a data s).seams = s.seams := by
  obtain ⟨_, _, _, e⟩ := report_frame st b src loc a data s
  rw [e]
@[simp] theorem report_memArrs (st : Status) (b : Bool) (src : Nat) (loc a : Word) (data : List Byte) (s : State) : (report st b src loc a data s).memArrs = s.memArrs := by
  obtain ⟨_, _, _, e⟩ := report_frame st b src loc a data s
  rw [e]
@[simp] theorem report_taps (st : Status) (b : Bool) (src : Nat) (loc a : Word) (data : List Byte) (s : State) : (report st b src loc a data s).taps = s.taps := by
  obtain ⟨_, _, _, e⟩ := report_frame st b src loc a data s
  rw [e]
@[simp] theorem report_svc (st : Status) (b : Bool) (src : Nat) (loc a : Word) (data : List Byte) (s : State) : (report st b src loc a data s).svc = s.svc := by
  obtain ⟨_, _, _, e⟩ := report_frame st b src loc a data s
  rw [e]
@[simp] theorem report_svcResp (st : Status) (b : Bool) (src : Nat) (loc a : Word) (data : List Byte) (s : State) : (report st b src loc a data s).svcResp = s.svcResp := by
  obtain ⟨_, _, _, e⟩ := report_frame st b src loc a data s
  rw [e]
@[simp] theorem report_svcGot (st : Status) (b : Bool) (src : Nat) (loc a : Word) (data : List Byte) (s : State) : (report st b src loc a data s).svcGot = s.svcGot := by
  obtain ⟨_, _, _, e⟩ := report_frame st b src loc a data s
  rw [e]
@[simp] theorem report_svcId (st : Status) (b : Bool) (src : Nat) (loc a : Word) (data : List Byte) (s : State) : (report st b src loc a data s).svcId = s.svcId := by
  obtain ⟨_, _, _, e⟩ := report_frame st b src loc a data s
  rw [e]
@[simp] theorem report_mgmtIn (st : Status) (b : Bool) (src : Nat) (loc a : Word) (data : List Byte) (s : State) : (report st b src loc a data s).mgmtIn = s.mgmtIn := by
  obtain ⟨_, _, _, e⟩ := report_frame st b src loc a data s
  rw [e]
@[simp] theorem report_waits (st : Status) (b : Bool) (src : Nat) (loc a : Word) (data : List Byte) (s : State) : (report st b src loc a data s).waits = s.waits := by
  obtain ⟨_, _, _, e⟩ := report_frame st b src loc a data s
  rw [e]
@[simp] theorem report_dones (st : Status) (b : Bool) (src : Nat) (loc a : Word) (data : List Byte) (s : State) : (report st b src loc a data s).dones = s.dones := by
  obtain ⟨_, _, _, e⟩ := report_frame st b src loc a data s
  rw [e]
@[simp] theorem report_xbar (st : Status) (b : Bool) (src : Nat) (loc a : Word) (data : List Byte) (s : State) : (report st b src loc a data s).xbar = s.xbar := by
  obtain ⟨_, _, _, e⟩ := report_frame st b src loc a data s
  rw [e]
@[simp] theorem report_turns (st : Status) (b : Bool) (src : Nat) (loc a : Word) (data : List Byte) (s : State) : (report st b src loc a data s).turns = s.turns := by
  obtain ⟨_, _, _, e⟩ := report_frame st b src loc a data s
  rw [e]
@[simp] theorem report_draining (st : Status) (b : Bool) (src : Nat) (loc a : Word) (data : List Byte) (s : State) : (report st b src loc a data s).draining = s.draining := by
  obtain ⟨_, _, _, e⟩ := report_frame st b src loc a data s
  rw [e]
@[simp] theorem report_drainTallies (st : Status) (b : Bool) (src : Nat) (loc a : Word) (data : List Byte) (s : State) : (report st b src loc a data s).drainTallies = s.drainTallies := by
  obtain ⟨_, _, _, e⟩ := report_frame st b src loc a data s
  rw [e]
@[simp] theorem report_drainExc (st : Status) (b : Bool) (src : Nat) (loc a : Word) (data : List Byte) (s : State) : (report st b src loc a data s).drainExc = s.drainExc := by
  obtain ⟨_, _, _, e⟩ := report_frame st b src loc a data s
  rw [e]
@[simp] theorem report_excSat (st : Status) (b : Bool) (src : Nat) (loc a : Word) (data : List Byte) (s : State) : (report st b src loc a data s).excSat = s.excSat := by
  obtain ⟨_, _, _, e⟩ := report_frame st b src loc a data s
  rw [e]
@[simp] theorem report_image (st : Status) (b : Bool) (src : Nat) (loc a : Word) (data : List Byte) (s : State) : (report st b src loc a data s).image = s.image := by
  obtain ⟨_, _, _, e⟩ := report_frame st b src loc a data s
  rw [e]
@[simp] theorem report_plan (st : Status) (b : Bool) (src : Nat) (loc a : Word) (data : List Byte) (s : State) : (report st b src loc a data s).plan = s.plan := by
  obtain ⟨_, _, _, e⟩ := report_frame st b src loc a data s
  rw [e]
@[simp] theorem report_logs (st : Status) (b : Bool) (src : Nat) (loc a : Word) (data : List Byte) (s : State) : (report st b src loc a data s).logs = s.logs := by
  obtain ⟨_, _, _, e⟩ := report_frame st b src loc a data s
  rw [e]
@[simp] theorem report_descs (st : Status) (b : Bool) (src : Nat) (loc a : Word) (data : List Byte) (s : State) : (report st b src loc a data s).descs = s.descs := by
  obtain ⟨_, _, _, e⟩ := report_frame st b src loc a data s
  rw [e]
@[simp] theorem report_hubQs (st : Status) (b : Bool) (src : Nat) (loc a : Word) (data : List Byte) (s : State) : (report st b src loc a data s).hubQs = s.hubQs := by
  obtain ⟨_, _, _, e⟩ := report_frame st b src loc a data s
  rw [e]
@[simp] theorem report_hdlStage (st : Status) (b : Bool) (src : Nat) (loc a : Word) (data : List Byte) (s : State) : (report st b src loc a data s).hdlStage = s.hdlStage := by
  obtain ⟨_, _, _, e⟩ := report_frame st b src loc a data s
  rw [e]
@[simp] theorem report_dirty (st : Status) (b : Bool) (src : Nat) (loc a : Word) (data : List Byte) (s : State) : (report st b src loc a data s).dirty = s.dirty := by
  obtain ⟨_, _, _, e⟩ := report_frame st b src loc a data s
  rw [e]
@[simp] theorem report_otpStage (st : Status) (b : Bool) (src : Nat) (loc a : Word) (data : List Byte) (s : State) : (report st b src loc a data s).otpStage = s.otpStage := by
  obtain ⟨_, _, _, e⟩ := report_frame st b src loc a data s
  rw [e]
@[simp] theorem report_gates (st : Status) (b : Bool) (src : Nat) (loc a : Word) (data : List Byte) (s : State) : (report st b src loc a data s).gates = s.gates := by
  obtain ⟨_, _, _, e⟩ := report_frame st b src loc a data s
  rw [e]
@[simp] theorem report_suOut (st : Status) (b : Bool) (src : Nat) (loc a : Word) (data : List Byte) (s : State) : (report st b src loc a data s).suOut = s.suOut := by
  obtain ⟨_, _, _, e⟩ := report_frame st b src loc a data s
  rw [e]
@[simp] theorem report_arb (st : Status) (b : Bool) (src : Nat) (loc a : Word) (data : List Byte) (s : State) : (report st b src loc a data s).arb = s.arb := by
  obtain ⟨_, _, _, e⟩ := report_frame st b src loc a data s
  rw [e]
@[simp] theorem report_fetchOrder (st : Status) (b : Bool) (src : Nat) (loc a : Word) (data : List Byte) (s : State) : (report st b src loc a data s).fetchOrder = s.fetchOrder := by
  obtain ⟨_, _, _, e⟩ := report_frame st b src loc a data s
  rw [e]
@[simp] theorem report_decoders (st : Status) (b : Bool) (src : Nat) (loc a : Word) (data : List Byte) (s : State) : (report st b src loc a data s).decoders = s.decoders := by
  obtain ⟨_, _, _, e⟩ := report_frame st b src loc a data s
  rw [e]
@[simp] theorem report_gul (st : Status) (b : Bool) (src : Nat) (loc a : Word) (data : List Byte) (s : State) : (report st b src loc a data s).gul = s.gul := by
  obtain ⟨_, _, _, e⟩ := report_frame st b src loc a data s
  rw [e]
@[simp] theorem report_lsOn (st : Status) (b : Bool) (src : Nat) (loc a : Word) (data : List Byte) (s : State) : (report st b src loc a data s).lsOn = s.lsOn := by
  obtain ⟨_, _, _, e⟩ := report_frame st b src loc a data s
  rw [e]
@[simp] theorem report_hbs (st : Status) (b : Bool) (src : Nat) (loc a : Word) (data : List Byte) (s : State) : (report st b src loc a data s).hbs = s.hbs := by
  obtain ⟨_, _, _, e⟩ := report_frame st b src loc a data s
  rw [e]
@[simp] theorem report_snaps (st : Status) (b : Bool) (src : Nat) (loc a : Word) (data : List Byte) (s : State) : (report st b src loc a data s).snaps = s.snaps := by
  obtain ⟨_, _, _, e⟩ := report_frame st b src loc a data s
  rw [e]
@[simp] theorem report_saving (st : Status) (b : Bool) (src : Nat) (loc a : Word) (data : List Byte) (s : State) : (report st b src loc a data s).saving = s.saving := by
  obtain ⟨_, _, _, e⟩ := report_frame st b src loc a data s
  rw [e]
@[simp] theorem report_planSel (st : Status) (b : Bool) (src : Nat) (loc a : Word) (data : List Byte) (s : State) : (report st b src loc a data s).planSel = s.planSel := by
  obtain ⟨_, _, _, e⟩ := report_frame st b src loc a data s
  rw [e]
@[simp] theorem report_planChanged (st : Status) (b : Bool) (src : Nat) (loc a : Word) (data : List Byte) (s : State) : (report st b src loc a data s).planChanged = s.planChanged := by
  obtain ⟨_, _, _, e⟩ := report_frame st b src loc a data s
  rw [e]
@[simp] theorem report_reconFailed (st : Status) (b : Bool) (src : Nat) (loc a : Word) (data : List Byte) (s : State) : (report st b src loc a data s).reconFailed = s.reconFailed := by
  obtain ⟨_, _, _, e⟩ := report_frame st b src loc a data s
  rw [e]
@[simp] theorem report_hostStall (st : Status) (b : Bool) (src : Nat) (loc a : Word) (data : List Byte) (s : State) : (report st b src loc a data s).hostStall = s.hostStall := by
  obtain ⟨_, _, _, e⟩ := report_frame st b src loc a data s
  rw [e]
@[simp] theorem report_lapSet (st : Status) (b : Bool) (src : Nat) (loc a : Word) (data : List Byte) (s : State) : (report st b src loc a data s).lapSet = s.lapSet := by
  obtain ⟨_, _, _, e⟩ := report_frame st b src loc a data s
  rw [e]
@[simp] theorem report_excBase (st : Status) (b : Bool) (src : Nat) (loc a : Word) (data : List Byte) (s : State) : (report st b src loc a data s).excBase = s.excBase := by
  obtain ⟨_, _, _, e⟩ := report_frame st b src loc a data s
  rw [e]
@[simp] theorem report_sides (st : Status) (b : Bool) (src : Nat) (loc a : Word) (data : List Byte) (s : State) : (report st b src loc a data s).sides = s.sides := by
  obtain ⟨_, _, _, e⟩ := report_frame st b src loc a data s
  rw [e]
@[simp] theorem report_ringClk (st : Status) (b : Bool) (src : Nat) (loc a : Word) (data : List Byte) (s : State) : (report st b src loc a data s).ringClk = s.ringClk := by
  obtain ⟨_, _, _, e⟩ := report_frame st b src loc a data s
  rw [e]
@[simp] theorem report_power (st : Status) (b : Bool) (src : Nat) (loc a : Word) (data : List Byte) (s : State) : (report st b src loc a data s).power = s.power := by
  obtain ⟨_, _, _, e⟩ := report_frame st b src loc a data s
  rw [e]
@[simp] theorem report_bring (st : Status) (b : Bool) (src : Nat) (loc a : Word) (data : List Byte) (s : State) : (report st b src loc a data s).bring = s.bring := by
  obtain ⟨_, _, _, e⟩ := report_frame st b src loc a data s
  rw [e]
@[simp] theorem report_fuses (st : Status) (b : Bool) (src : Nat) (loc a : Word) (data : List Byte) (s : State) : (report st b src loc a data s).fuses = s.fuses := by
  obtain ⟨_, _, _, e⟩ := report_frame st b src loc a data s
  rw [e]
@[simp] theorem report_fw (st : Status) (b : Bool) (src : Nat) (loc a : Word) (data : List Byte) (s : State) : (report st b src loc a data s).fw = s.fw := by
  obtain ⟨_, _, _, e⟩ := report_frame st b src loc a data s
  rw [e]
@[simp] theorem report_dbg (st : Status) (b : Bool) (src : Nat) (loc a : Word) (data : List Byte) (s : State) : (report st b src loc a data s).dbg = s.dbg := by
  obtain ⟨_, _, _, e⟩ := report_frame st b src loc a data s
  rw [e]
@[simp] theorem report_timeCtr (st : Status) (b : Bool) (src : Nat) (loc a : Word) (data : List Byte) (s : State) : (report st b src loc a data s).timeCtr = s.timeCtr := by
  obtain ⟨_, _, _, e⟩ := report_frame st b src loc a data s
  rw [e]
@[simp] theorem report_measure5 (st : Status) (b : Bool) (src : Nat) (loc a : Word) (data : List Byte) (s : State) : (report st b src loc a data s).measure5 = s.measure5 := by
  obtain ⟨_, _, _, e⟩ := report_frame st b src loc a data s
  rw [e]
@[simp] theorem report_cages (st : Status) (b : Bool) (src : Nat) (loc a : Word) (data : List Byte) (s : State) : (report st b src loc a data s).cages = s.cages := by
  obtain ⟨_, _, _, e⟩ := report_frame st b src loc a data s
  rw [e]
@[simp] theorem report_shifted (st : Status) (b : Bool) (src : Nat) (loc a : Word) (data : List Byte) (s : State) : (report st b src loc a data s).shifted = s.shifted := by
  obtain ⟨_, _, _, e⟩ := report_frame st b src loc a data s
  rw [e]
@[simp] theorem report_authFails (st : Status) (b : Bool) (src : Nat) (loc a : Word) (data : List Byte) (s : State) : (report st b src loc a data s).authFails = s.authFails := by
  obtain ⟨_, _, _, e⟩ := report_frame st b src loc a data s
  rw [e]

/-- A copy of a report writes no register but its port's counter of lost events. -/
theorem rg_eventCopy (r : Report) (p k : Nat) (s : State) (h : k ≠ IorPortCount.key p) : rg (eventCopy r p s) k = rg s k := by
  unfold eventCopy
  dsimp only
  split
  · rfl
  · split
    · rw [rg_rfsat_key _ _ _ _ _ h]
      rfl
    · split
      · obtain ⟨q, e⟩ := raiseIrq_frame p 64 (putPort p ⟨_, _, _, _, _, _, _, _, _, _, _, _, _, _, _, _, _, _, _, _, _⟩ (hostWrite _ _ s))
        rw [e]
        rfl
      · rfl

/-- A report writes no register but the ports' counters of lost events. -/
theorem rg_report (st : Status) (b : Bool) (src : Nat) (loc a : Word) (data : List Byte) (k : Nat) (s : State)
    (h : ∀ p, p < 4 → k ≠ IorPortCount.key p) : rg (report st b src loc a data s) k = rg s k := by
  unfold report
  dsimp only
  rw [rg_eventCopy _ 3 _ _ (h 3 (by omega)), rg_eventCopy _ 2 _ _ (h 2 (by omega)), rg_eventCopy _ 1 _ _ (h 1 (by omega)),
    rg_eventCopy _ 0 _ _ (h 0 (by omega))]
  rfl

/-! ### Retirement (R18, R347, R524) -/

theorem putFlight_frame (c : Cmd) (l : List Cmd) (s : State) :
    ∃ r v, putFlight c l s = { s with rings := r, sessions := v } := by
  unfold putFlight
  split
  · exact ⟨_, s.sessions, rfl⟩
  · split
    · exact ⟨s.rings, _, rfl⟩
    · exact ⟨s.rings, s.sessions, rfl⟩

theorem dropFlight_frame (c : Cmd) (s : State) :
    ∃ o r v, dropFlight c s = { s with orphans := o, rings := r, sessions := v } := by
  unfold dropFlight
  split
  · exact ⟨_, s.rings, s.sessions, rfl⟩
  · obtain ⟨r, v, e⟩ := putFlight_frame c ((flightOf s c).erase c) s
    rw [e]
    exact ⟨s.orphans, r, v, rfl⟩

/-- A record that goes nowhere is reported or dropped. -/
theorem discardRec_frame (r : Retired) (s : State) :
    ∃ n v g q h, discardRec r s = { s with reportSeq := n, sessions := v, regs := g, ports := q, hostMem := h } := by
  unfold discardRec reportRefusal
  obtain ⟨g, q, h, e⟩ := report_frame r.status false 0 locNone 0 (bytesLE 8 r.detail.toNat) s
  rw [e]
  split
  · exact ⟨s.reportSeq, s.sessions, s.regs, s.ports, s.hostMem, rfl⟩
  · split
    · exact ⟨_, _, g, q, h, rfl⟩
    · exact ⟨_, _, g, q, h, rfl⟩

/-- Everything a retirement changes: the command's flight and its place in fetch order, its wait with the packets that ask
for it, its ring or session, or a report. -/
theorem retireCmd_frame (c : Cmd) (st : Status) (r0 r1 det : Word) (cv nr : Bool) (s : State) :
    ∃ n v q h g r o w x y f, retireCmd c st r0 r1 det cv nr s = { s with
      reportSeq := n, sessions := v, ports := q, hostMem := h, regs := g, rings := r, orphans := o, waits := w
      svc := x, svcResp := y, fetchOrder := f } := by
  obtain ⟨o, r, v, e⟩ := dropFlight_frame c { s with fetchOrder := s.fetchOrder.erase c }
  unfold retireCmd retireRec
  dsimp only
  rw [e]
  split
  · obtain ⟨n, v', g, q, h, e'⟩ := discardRec_frame ⟨c.issuer, c.cmdId, st, r0, r1, det, cv, nr, c.irq, false⟩
      (dropWait c.waiter { s with fetchOrder := s.fetchOrder.erase c, orphans := o, rings := r, sessions := v })
    rw [e']
    exact ⟨n, v', q, h, g, r, o, _, _, _, _, rfl⟩
  · split
    · exact ⟨s.reportSeq, v, s.ports, s.hostMem, s.regs, _, o, _, _, _, _, rfl⟩
    · split
      · exact ⟨s.reportSeq, _, s.ports, s.hostMem, s.regs, r, o, _, _, _, _, rfl⟩
      · exact ⟨s.reportSeq, v, s.ports, s.hostMem, s.regs, r, o, _, _, _, _, rfl⟩

@[simp] theorem retireCmd_pending (c : Cmd) (st : Status) (r0 r1 det : Word) (cv nr : Bool) (s : State) : (retireCmd c st r0 r1 det cv nr s).pending = s.pending := by
  obtain ⟨_, _, _, _, _, _, _, _, _, _, _, e⟩ := retireCmd_frame c st r0 r1 det cv nr s
  rw [e]
@[simp] theorem retireCmd_freeCtr (c : Cmd) (st : Status) (r0 r1 det : Word) (cv nr : Bool) (s : State) : (retireCmd c st r0 r1 det cv nr s).freeCtr = s.freeCtr := by
  obtain ⟨_, _, _, _, _, _, _, _, _, _, _, e⟩ := retireCmd_frame c st r0 r1 det cv nr s
  rw [e]
@[simp] theorem retireCmd_mem (c : Cmd) (st : Status) (r0 r1 det : Word) (cv nr : Bool) (s : State) : (retireCmd c st r0 r1 det cv nr s).mem = s.mem := by
  obtain ⟨_, _, _, _, _, _, _, _, _, _, _, e⟩ := retireCmd_frame c st r0 r1 det cv nr s
  rw [e]
@[simp] theorem retireCmd_upset (c : Cmd) (st : Status) (r0 r1 det : Word) (cv nr : Bool) (s : State) : (retireCmd c st r0 r1 det cv nr s).upset = s.upset := by
  obtain ⟨_, _, _, _, _, _, _, _, _, _, _, e⟩ := retireCmd_frame c st r0 r1 det cv nr s
  rw [e]
@[simp] theorem retireCmd_tags (c : Cmd) (st : Status) (r0 r1 det : Word) (cv nr : Bool) (s : State) : (retireCmd c st r0 r1 det cv nr s).tags = s.tags := by
  obtain ⟨_, _, _, _, _, _, _, _, _, _, _, e⟩ := retireCmd_frame c st r0 r1 det cv nr s
  rw [e]
@[simp] theorem retireCmd_ob (c : Cmd) (st : Status) (r0 r1 det : Word) (cv nr : Bool) (s : State) : (retireCmd c st r0 r1 det cv nr s).ob = s.ob := by
  obtain ⟨_, _, _, _, _, _, _, _, _, _, _, e⟩ := retireCmd_frame c st r0 r1 det cv nr s
  rw [e]
@[simp] theorem retireCmd_obBad (c : Cmd) (st : Status) (r0 r1 det : Word) (cv nr : Bool) (s : State) : (retireCmd c st r0 r1 det cv nr s).obBad = s.obBad := by
  obtain ⟨_, _, _, _, _, _, _, _, _, _, _, e⟩ := retireCmd_frame c st r0 r1 det cv nr s
  rw [e]
@[simp] theorem retireCmd_peerMem (c : Cmd) (st : Status) (r0 r1 det : Word) (cv nr : Bool) (s : State) : (retireCmd c st r0 r1 det cv nr s).peerMem = s.peerMem := by
  obtain ⟨_, _, _, _, _, _, _, _, _, _, _, e⟩ := retireCmd_frame c st r0 r1 det cv nr s
  rw [e]
@[simp] theorem retireCmd_stages (c : Cmd) (st : Status) (r0 r1 det : Word) (cv nr : Bool) (s : State) : (retireCmd c st r0 r1 det cv nr s).stages = s.stages := by
  obtain ⟨_, _, _, _, _, _, _, _, _, _, _, e⟩ := retireCmd_frame c st r0 r1 det cv nr s
  rw [e]
@[simp] theorem retireCmd_arrays (c : Cmd) (st : Status) (r0 r1 det : Word) (cv nr : Bool) (s : State) : (retireCmd c st r0 r1 det cv nr s).arrays = s.arrays := by
  obtain ⟨_, _, _, _, _, _, _, _, _, _, _, e⟩ := retireCmd_frame c st r0 r1 det cv nr s
  rw [e]
@[simp] theorem retireCmd_stands (c : Cmd) (st : Status) (r0 r1 det : Word) (cv nr : Bool) (s : State) : (retireCmd c st r0 r1 det cv nr s).stands = s.stands := by
  obtain ⟨_, _, _, _, _, _, _, _, _, _, _, e⟩ := retireCmd_frame c st r0 r1 det cv nr s
  rw [e]
@[simp] theorem retireCmd_mode (c : Cmd) (st : Status) (r0 r1 det : Word) (cv nr : Bool) (s : State) : (retireCmd c st r0 r1 det cv nr s).mode = s.mode := by
  obtain ⟨_, _, _, _, _, _, _, _, _, _, _, e⟩ := retireCmd_frame c st r0 r1 det cv nr s
  rw [e]
@[simp] theorem retireCmd_epoch (c : Cmd) (st : Status) (r0 r1 det : Word) (cv nr : Bool) (s : State) : (retireCmd c st r0 r1 det cv nr s).epoch = s.epoch := by
  obtain ⟨_, _, _, _, _, _, _, _, _, _, _, e⟩ := retireCmd_frame c st r0 r1 det cv nr s
  rw [e]
@[simp] theorem retireCmd_tainted (c : Cmd) (st : Status) (r0 r1 det : Word) (cv nr : Bool) (s : State) : (retireCmd c st r0 r1 det cv nr s).tainted = s.tainted := by
  obtain ⟨_, _, _, _, _, _, _, _, _, _, _, e⟩ := retireCmd_frame c st r0 r1 det cv nr s
  rw [e]
@[simp] theorem retireCmd_taints (c : Cmd) (st : Status) (r0 r1 det : Word) (cv nr : Bool) (s : State) : (retireCmd c st r0 r1 det cv nr s).taints = s.taints := by
  obtain ⟨_, _, _, _, _, _, _, _, _, _, _, e⟩ := retireCmd_frame c st r0 r1 det cv nr s
  rw [e]
@[simp] theorem retireCmd_taintCount (c : Cmd) (st : Status) (r0 r1 det : Word) (cv nr : Bool) (s : State) : (retireCmd c st r0 r1 det cv nr s).taintCount = s.taintCount := by
  obtain ⟨_, _, _, _, _, _, _, _, _, _, _, e⟩ := retireCmd_frame c st r0 r1 det cv nr s
  rw [e]
@[simp] theorem retireCmd_srKey (c : Cmd) (st : Status) (r0 r1 det : Word) (cv nr : Bool) (s : State) : (retireCmd c st r0 r1 det cv nr s).srKey = s.srKey := by
  obtain ⟨_, _, _, _, _, _, _, _, _, _, _, e⟩ := retireCmd_frame c st r0 r1 det cv nr s
  rw [e]
@[simp] theorem retireCmd_lapLen (c : Cmd) (st : Status) (r0 r1 det : Word) (cv nr : Bool) (s : State) : (retireCmd c st r0 r1 det cv nr s).lapLen = s.lapLen := by
  obtain ⟨_, _, _, _, _, _, _, _, _, _, _, e⟩ := retireCmd_frame c st r0 r1 det cv nr s
  rw [e]
@[simp] theorem retireCmd_traceEn (c : Cmd) (st : Status) (r0 r1 det : Word) (cv nr : Bool) (s : State) : (retireCmd c st r0 r1 det cv nr s).traceEn = s.traceEn := by
  obtain ⟨_, _, _, _, _, _, _, _, _, _, _, e⟩ := retireCmd_frame c st r0 r1 det cv nr s
  rw [e]
@[simp] theorem retireCmd_traceFirst (c : Cmd) (st : Status) (r0 r1 det : Word) (cv nr : Bool) (s : State) : (retireCmd c st r0 r1 det cv nr s).traceFirst = s.traceFirst := by
  obtain ⟨_, _, _, _, _, _, _, _, _, _, _, e⟩ := retireCmd_frame c st r0 r1 det cv nr s
  rw [e]
@[simp] theorem retireCmd_traceLast (c : Cmd) (st : Status) (r0 r1 det : Word) (cv nr : Bool) (s : State) : (retireCmd c st r0 r1 det cv nr s).traceLast = s.traceLast := by
  obtain ⟨_, _, _, _, _, _, _, _, _, _, _, e⟩ := retireCmd_frame c st r0 r1 det cv nr s
  rw [e]
@[simp] theorem retireCmd_vtags (c : Cmd) (st : Status) (r0 r1 det : Word) (cv nr : Bool) (s : State) : (retireCmd c st r0 r1 det cv nr s).vtags = s.vtags := by
  obtain ⟨_, _, _, _, _, _, _, _, _, _, _, e⟩ := retireCmd_frame c st r0 r1 det cv nr s
  rw [e]
@[simp] theorem retireCmd_links (c : Cmd) (st : Status) (r0 r1 det : Word) (cv nr : Bool) (s : State) : (retireCmd c st r0 r1 det cv nr s).links = s.links := by
  obtain ⟨_, _, _, _, _, _, _, _, _, _, _, e⟩ := retireCmd_frame c st r0 r1 det cv nr s
  rw [e]
@[simp] theorem retireCmd_credits (c : Cmd) (st : Status) (r0 r1 det : Word) (cv nr : Bool) (s : State) : (retireCmd c st r0 r1 det cv nr s).credits = s.credits := by
  obtain ⟨_, _, _, _, _, _, _, _, _, _, _, e⟩ := retireCmd_frame c st r0 r1 det cv nr s
  rw [e]
@[simp] theorem retireCmd_creditFly (c : Cmd) (st : Status) (r0 r1 det : Word) (cv nr : Bool) (s : State) : (retireCmd c st r0 r1 det cv nr s).creditFly = s.creditFly := by
  obtain ⟨_, _, _, _, _, _, _, _, _, _, _, e⟩ := retireCmd_frame c st r0 r1 det cv nr s
  rw [e]
@[simp] theorem retireCmd_moves (c : Cmd) (st : Status) (r0 r1 det : Word) (cv nr : Bool) (s : State) : (retireCmd c st r0 r1 det cv nr s).moves = s.moves := by
  obtain ⟨_, _, _, _, _, _, _, _, _, _, _, e⟩ := retireCmd_frame c st r0 r1 det cv nr s
  rw [e]
@[simp] theorem retireCmd_steers (c : Cmd) (st : Status) (r0 r1 det : Word) (cv nr : Bool) (s : State) : (retireCmd c st r0 r1 det cv nr s).steers = s.steers := by
  obtain ⟨_, _, _, _, _, _, _, _, _, _, _, e⟩ := retireCmd_frame c st r0 r1 det cv nr s
  rw [e]
@[simp] theorem retireCmd_nodes (c : Cmd) (st : Status) (r0 r1 det : Word) (cv nr : Bool) (s : State) : (retireCmd c st r0 r1 det cv nr s).nodes = s.nodes := by
  obtain ⟨_, _, _, _, _, _, _, _, _, _, _, e⟩ := retireCmd_frame c st r0 r1 det cv nr s
  rw [e]
@[simp] theorem retireCmd_seams (c : Cmd) (st : Status) (r0 r1 det : Word) (cv nr : Bool) (s : State) : (retireCmd c st r0 r1 det cv nr s).seams = s.seams := by
  obtain ⟨_, _, _, _, _, _, _, _, _, _, _, e⟩ := retireCmd_frame c st r0 r1 det cv nr s
  rw [e]
@[simp] theorem retireCmd_memArrs (c : Cmd) (st : Status) (r0 r1 det : Word) (cv nr : Bool) (s : State) : (retireCmd c st r0 r1 det cv nr s).memArrs = s.memArrs := by
  obtain ⟨_, _, _, _, _, _, _, _, _, _, _, e⟩ := retireCmd_frame c st r0 r1 det cv nr s
  rw [e]
@[simp] theorem retireCmd_taps (c : Cmd) (st : Status) (r0 r1 det : Word) (cv nr : Bool) (s : State) : (retireCmd c st r0 r1 det cv nr s).taps = s.taps := by
  obtain ⟨_, _, _, _, _, _, _, _, _, _, _, e⟩ := retireCmd_frame c st r0 r1 det cv nr s
  rw [e]
@[simp] theorem retireCmd_svcGot (c : Cmd) (st : Status) (r0 r1 det : Word) (cv nr : Bool) (s : State) : (retireCmd c st r0 r1 det cv nr s).svcGot = s.svcGot := by
  obtain ⟨_, _, _, _, _, _, _, _, _, _, _, e⟩ := retireCmd_frame c st r0 r1 det cv nr s
  rw [e]
@[simp] theorem retireCmd_svcId (c : Cmd) (st : Status) (r0 r1 det : Word) (cv nr : Bool) (s : State) : (retireCmd c st r0 r1 det cv nr s).svcId = s.svcId := by
  obtain ⟨_, _, _, _, _, _, _, _, _, _, _, e⟩ := retireCmd_frame c st r0 r1 det cv nr s
  rw [e]
@[simp] theorem retireCmd_mgmtIn (c : Cmd) (st : Status) (r0 r1 det : Word) (cv nr : Bool) (s : State) : (retireCmd c st r0 r1 det cv nr s).mgmtIn = s.mgmtIn := by
  obtain ⟨_, _, _, _, _, _, _, _, _, _, _, e⟩ := retireCmd_frame c st r0 r1 det cv nr s
  rw [e]
@[simp] theorem retireCmd_dones (c : Cmd) (st : Status) (r0 r1 det : Word) (cv nr : Bool) (s : State) : (retireCmd c st r0 r1 det cv nr s).dones = s.dones := by
  obtain ⟨_, _, _, _, _, _, _, _, _, _, _, e⟩ := retireCmd_frame c st r0 r1 det cv nr s
  rw [e]
@[simp] theorem retireCmd_xbar (c : Cmd) (st : Status) (r0 r1 det : Word) (cv nr : Bool) (s : State) : (retireCmd c st r0 r1 det cv nr s).xbar = s.xbar := by
  obtain ⟨_, _, _, _, _, _, _, _, _, _, _, e⟩ := retireCmd_frame c st r0 r1 det cv nr s
  rw [e]
@[simp] theorem retireCmd_turns (c : Cmd) (st : Status) (r0 r1 det : Word) (cv nr : Bool) (s : State) : (retireCmd c st r0 r1 det cv nr s).turns = s.turns := by
  obtain ⟨_, _, _, _, _, _, _, _, _, _, _, e⟩ := retireCmd_frame c st r0 r1 det cv nr s
  rw [e]
@[simp] theorem retireCmd_draining (c : Cmd) (st : Status) (r0 r1 det : Word) (cv nr : Bool) (s : State) : (retireCmd c st r0 r1 det cv nr s).draining = s.draining := by
  obtain ⟨_, _, _, _, _, _, _, _, _, _, _, e⟩ := retireCmd_frame c st r0 r1 det cv nr s
  rw [e]
@[simp] theorem retireCmd_drainTallies (c : Cmd) (st : Status) (r0 r1 det : Word) (cv nr : Bool) (s : State) : (retireCmd c st r0 r1 det cv nr s).drainTallies = s.drainTallies := by
  obtain ⟨_, _, _, _, _, _, _, _, _, _, _, e⟩ := retireCmd_frame c st r0 r1 det cv nr s
  rw [e]
@[simp] theorem retireCmd_drainExc (c : Cmd) (st : Status) (r0 r1 det : Word) (cv nr : Bool) (s : State) : (retireCmd c st r0 r1 det cv nr s).drainExc = s.drainExc := by
  obtain ⟨_, _, _, _, _, _, _, _, _, _, _, e⟩ := retireCmd_frame c st r0 r1 det cv nr s
  rw [e]
@[simp] theorem retireCmd_excSat (c : Cmd) (st : Status) (r0 r1 det : Word) (cv nr : Bool) (s : State) : (retireCmd c st r0 r1 det cv nr s).excSat = s.excSat := by
  obtain ⟨_, _, _, _, _, _, _, _, _, _, _, e⟩ := retireCmd_frame c st r0 r1 det cv nr s
  rw [e]
@[simp] theorem retireCmd_image (c : Cmd) (st : Status) (r0 r1 det : Word) (cv nr : Bool) (s : State) : (retireCmd c st r0 r1 det cv nr s).image = s.image := by
  obtain ⟨_, _, _, _, _, _, _, _, _, _, _, e⟩ := retireCmd_frame c st r0 r1 det cv nr s
  rw [e]
@[simp] theorem retireCmd_plan (c : Cmd) (st : Status) (r0 r1 det : Word) (cv nr : Bool) (s : State) : (retireCmd c st r0 r1 det cv nr s).plan = s.plan := by
  obtain ⟨_, _, _, _, _, _, _, _, _, _, _, e⟩ := retireCmd_frame c st r0 r1 det cv nr s
  rw [e]
@[simp] theorem retireCmd_logs (c : Cmd) (st : Status) (r0 r1 det : Word) (cv nr : Bool) (s : State) : (retireCmd c st r0 r1 det cv nr s).logs = s.logs := by
  obtain ⟨_, _, _, _, _, _, _, _, _, _, _, e⟩ := retireCmd_frame c st r0 r1 det cv nr s
  rw [e]
@[simp] theorem retireCmd_descs (c : Cmd) (st : Status) (r0 r1 det : Word) (cv nr : Bool) (s : State) : (retireCmd c st r0 r1 det cv nr s).descs = s.descs := by
  obtain ⟨_, _, _, _, _, _, _, _, _, _, _, e⟩ := retireCmd_frame c st r0 r1 det cv nr s
  rw [e]
@[simp] theorem retireCmd_hubQs (c : Cmd) (st : Status) (r0 r1 det : Word) (cv nr : Bool) (s : State) : (retireCmd c st r0 r1 det cv nr s).hubQs = s.hubQs := by
  obtain ⟨_, _, _, _, _, _, _, _, _, _, _, e⟩ := retireCmd_frame c st r0 r1 det cv nr s
  rw [e]
@[simp] theorem retireCmd_hdlStage (c : Cmd) (st : Status) (r0 r1 det : Word) (cv nr : Bool) (s : State) : (retireCmd c st r0 r1 det cv nr s).hdlStage = s.hdlStage := by
  obtain ⟨_, _, _, _, _, _, _, _, _, _, _, e⟩ := retireCmd_frame c st r0 r1 det cv nr s
  rw [e]
@[simp] theorem retireCmd_dirty (c : Cmd) (st : Status) (r0 r1 det : Word) (cv nr : Bool) (s : State) : (retireCmd c st r0 r1 det cv nr s).dirty = s.dirty := by
  obtain ⟨_, _, _, _, _, _, _, _, _, _, _, e⟩ := retireCmd_frame c st r0 r1 det cv nr s
  rw [e]
@[simp] theorem retireCmd_otpStage (c : Cmd) (st : Status) (r0 r1 det : Word) (cv nr : Bool) (s : State) : (retireCmd c st r0 r1 det cv nr s).otpStage = s.otpStage := by
  obtain ⟨_, _, _, _, _, _, _, _, _, _, _, e⟩ := retireCmd_frame c st r0 r1 det cv nr s
  rw [e]
@[simp] theorem retireCmd_gates (c : Cmd) (st : Status) (r0 r1 det : Word) (cv nr : Bool) (s : State) : (retireCmd c st r0 r1 det cv nr s).gates = s.gates := by
  obtain ⟨_, _, _, _, _, _, _, _, _, _, _, e⟩ := retireCmd_frame c st r0 r1 det cv nr s
  rw [e]
@[simp] theorem retireCmd_suOut (c : Cmd) (st : Status) (r0 r1 det : Word) (cv nr : Bool) (s : State) : (retireCmd c st r0 r1 det cv nr s).suOut = s.suOut := by
  obtain ⟨_, _, _, _, _, _, _, _, _, _, _, e⟩ := retireCmd_frame c st r0 r1 det cv nr s
  rw [e]
@[simp] theorem retireCmd_arb (c : Cmd) (st : Status) (r0 r1 det : Word) (cv nr : Bool) (s : State) : (retireCmd c st r0 r1 det cv nr s).arb = s.arb := by
  obtain ⟨_, _, _, _, _, _, _, _, _, _, _, e⟩ := retireCmd_frame c st r0 r1 det cv nr s
  rw [e]
@[simp] theorem retireCmd_decoders (c : Cmd) (st : Status) (r0 r1 det : Word) (cv nr : Bool) (s : State) : (retireCmd c st r0 r1 det cv nr s).decoders = s.decoders := by
  obtain ⟨_, _, _, _, _, _, _, _, _, _, _, e⟩ := retireCmd_frame c st r0 r1 det cv nr s
  rw [e]
@[simp] theorem retireCmd_gul (c : Cmd) (st : Status) (r0 r1 det : Word) (cv nr : Bool) (s : State) : (retireCmd c st r0 r1 det cv nr s).gul = s.gul := by
  obtain ⟨_, _, _, _, _, _, _, _, _, _, _, e⟩ := retireCmd_frame c st r0 r1 det cv nr s
  rw [e]
@[simp] theorem retireCmd_lsOn (c : Cmd) (st : Status) (r0 r1 det : Word) (cv nr : Bool) (s : State) : (retireCmd c st r0 r1 det cv nr s).lsOn = s.lsOn := by
  obtain ⟨_, _, _, _, _, _, _, _, _, _, _, e⟩ := retireCmd_frame c st r0 r1 det cv nr s
  rw [e]
@[simp] theorem retireCmd_hbs (c : Cmd) (st : Status) (r0 r1 det : Word) (cv nr : Bool) (s : State) : (retireCmd c st r0 r1 det cv nr s).hbs = s.hbs := by
  obtain ⟨_, _, _, _, _, _, _, _, _, _, _, e⟩ := retireCmd_frame c st r0 r1 det cv nr s
  rw [e]
@[simp] theorem retireCmd_snaps (c : Cmd) (st : Status) (r0 r1 det : Word) (cv nr : Bool) (s : State) : (retireCmd c st r0 r1 det cv nr s).snaps = s.snaps := by
  obtain ⟨_, _, _, _, _, _, _, _, _, _, _, e⟩ := retireCmd_frame c st r0 r1 det cv nr s
  rw [e]
@[simp] theorem retireCmd_saving (c : Cmd) (st : Status) (r0 r1 det : Word) (cv nr : Bool) (s : State) : (retireCmd c st r0 r1 det cv nr s).saving = s.saving := by
  obtain ⟨_, _, _, _, _, _, _, _, _, _, _, e⟩ := retireCmd_frame c st r0 r1 det cv nr s
  rw [e]
@[simp] theorem retireCmd_planSel (c : Cmd) (st : Status) (r0 r1 det : Word) (cv nr : Bool) (s : State) : (retireCmd c st r0 r1 det cv nr s).planSel = s.planSel := by
  obtain ⟨_, _, _, _, _, _, _, _, _, _, _, e⟩ := retireCmd_frame c st r0 r1 det cv nr s
  rw [e]
@[simp] theorem retireCmd_planChanged (c : Cmd) (st : Status) (r0 r1 det : Word) (cv nr : Bool) (s : State) : (retireCmd c st r0 r1 det cv nr s).planChanged = s.planChanged := by
  obtain ⟨_, _, _, _, _, _, _, _, _, _, _, e⟩ := retireCmd_frame c st r0 r1 det cv nr s
  rw [e]
@[simp] theorem retireCmd_reconFailed (c : Cmd) (st : Status) (r0 r1 det : Word) (cv nr : Bool) (s : State) : (retireCmd c st r0 r1 det cv nr s).reconFailed = s.reconFailed := by
  obtain ⟨_, _, _, _, _, _, _, _, _, _, _, e⟩ := retireCmd_frame c st r0 r1 det cv nr s
  rw [e]
@[simp] theorem retireCmd_hostStall (c : Cmd) (st : Status) (r0 r1 det : Word) (cv nr : Bool) (s : State) : (retireCmd c st r0 r1 det cv nr s).hostStall = s.hostStall := by
  obtain ⟨_, _, _, _, _, _, _, _, _, _, _, e⟩ := retireCmd_frame c st r0 r1 det cv nr s
  rw [e]
@[simp] theorem retireCmd_lapSet (c : Cmd) (st : Status) (r0 r1 det : Word) (cv nr : Bool) (s : State) : (retireCmd c st r0 r1 det cv nr s).lapSet = s.lapSet := by
  obtain ⟨_, _, _, _, _, _, _, _, _, _, _, e⟩ := retireCmd_frame c st r0 r1 det cv nr s
  rw [e]
@[simp] theorem retireCmd_excBase (c : Cmd) (st : Status) (r0 r1 det : Word) (cv nr : Bool) (s : State) : (retireCmd c st r0 r1 det cv nr s).excBase = s.excBase := by
  obtain ⟨_, _, _, _, _, _, _, _, _, _, _, e⟩ := retireCmd_frame c st r0 r1 det cv nr s
  rw [e]
@[simp] theorem retireCmd_sides (c : Cmd) (st : Status) (r0 r1 det : Word) (cv nr : Bool) (s : State) : (retireCmd c st r0 r1 det cv nr s).sides = s.sides := by
  obtain ⟨_, _, _, _, _, _, _, _, _, _, _, e⟩ := retireCmd_frame c st r0 r1 det cv nr s
  rw [e]
@[simp] theorem retireCmd_ringClk (c : Cmd) (st : Status) (r0 r1 det : Word) (cv nr : Bool) (s : State) : (retireCmd c st r0 r1 det cv nr s).ringClk = s.ringClk := by
  obtain ⟨_, _, _, _, _, _, _, _, _, _, _, e⟩ := retireCmd_frame c st r0 r1 det cv nr s
  rw [e]
@[simp] theorem retireCmd_power (c : Cmd) (st : Status) (r0 r1 det : Word) (cv nr : Bool) (s : State) : (retireCmd c st r0 r1 det cv nr s).power = s.power := by
  obtain ⟨_, _, _, _, _, _, _, _, _, _, _, e⟩ := retireCmd_frame c st r0 r1 det cv nr s
  rw [e]
@[simp] theorem retireCmd_bring (c : Cmd) (st : Status) (r0 r1 det : Word) (cv nr : Bool) (s : State) : (retireCmd c st r0 r1 det cv nr s).bring = s.bring := by
  obtain ⟨_, _, _, _, _, _, _, _, _, _, _, e⟩ := retireCmd_frame c st r0 r1 det cv nr s
  rw [e]
@[simp] theorem retireCmd_fuses (c : Cmd) (st : Status) (r0 r1 det : Word) (cv nr : Bool) (s : State) : (retireCmd c st r0 r1 det cv nr s).fuses = s.fuses := by
  obtain ⟨_, _, _, _, _, _, _, _, _, _, _, e⟩ := retireCmd_frame c st r0 r1 det cv nr s
  rw [e]
@[simp] theorem retireCmd_fw (c : Cmd) (st : Status) (r0 r1 det : Word) (cv nr : Bool) (s : State) : (retireCmd c st r0 r1 det cv nr s).fw = s.fw := by
  obtain ⟨_, _, _, _, _, _, _, _, _, _, _, e⟩ := retireCmd_frame c st r0 r1 det cv nr s
  rw [e]
@[simp] theorem retireCmd_dbg (c : Cmd) (st : Status) (r0 r1 det : Word) (cv nr : Bool) (s : State) : (retireCmd c st r0 r1 det cv nr s).dbg = s.dbg := by
  obtain ⟨_, _, _, _, _, _, _, _, _, _, _, e⟩ := retireCmd_frame c st r0 r1 det cv nr s
  rw [e]
@[simp] theorem retireCmd_timeCtr (c : Cmd) (st : Status) (r0 r1 det : Word) (cv nr : Bool) (s : State) : (retireCmd c st r0 r1 det cv nr s).timeCtr = s.timeCtr := by
  obtain ⟨_, _, _, _, _, _, _, _, _, _, _, e⟩ := retireCmd_frame c st r0 r1 det cv nr s
  rw [e]
@[simp] theorem retireCmd_measure5 (c : Cmd) (st : Status) (r0 r1 det : Word) (cv nr : Bool) (s : State) : (retireCmd c st r0 r1 det cv nr s).measure5 = s.measure5 := by
  obtain ⟨_, _, _, _, _, _, _, _, _, _, _, e⟩ := retireCmd_frame c st r0 r1 det cv nr s
  rw [e]
@[simp] theorem retireCmd_cages (c : Cmd) (st : Status) (r0 r1 det : Word) (cv nr : Bool) (s : State) : (retireCmd c st r0 r1 det cv nr s).cages = s.cages := by
  obtain ⟨_, _, _, _, _, _, _, _, _, _, _, e⟩ := retireCmd_frame c st r0 r1 det cv nr s
  rw [e]
@[simp] theorem retireCmd_shifted (c : Cmd) (st : Status) (r0 r1 det : Word) (cv nr : Bool) (s : State) : (retireCmd c st r0 r1 det cv nr s).shifted = s.shifted := by
  obtain ⟨_, _, _, _, _, _, _, _, _, _, _, e⟩ := retireCmd_frame c st r0 r1 det cv nr s
  rw [e]
@[simp] theorem retireCmd_authFails (c : Cmd) (st : Status) (r0 r1 det : Word) (cv nr : Bool) (s : State) : (retireCmd c st r0 r1 det cv nr s).authFails = s.authFails := by
  obtain ⟨_, _, _, _, _, _, _, _, _, _, _, e⟩ := retireCmd_frame c st r0 r1 det cv nr s
  rw [e]

/-! ### The service mesh (R230) -/

/-- The response of a request's destination is its newest answer. -/
theorem answered_respond (src : MeshSrc) (a : SvcAnswer) (s : State) : answered (respond src a s) src = some a := by
  simp [answered, respond]

/-- A response changes the requests that are held and the responses on their way, and nothing else. -/
theorem respond_frame (src : MeshSrc) (a : SvcAnswer) (s : State) :
    ∃ x y, respond src a s = { s with svcResp := x, svc := y } := ⟨_, _, rfl⟩

/-! ### The gates of verbs and of set-up accesses -/

/-- A verb that is past all that is judged before its own conditions is performed (R345, R346, R350, R465). -/
theorem issueVerb_runs (code : Nat) (c : Cmd) (ok : Bool) (run : State → State) (s : State)
    (h : verbIssues code c ok s = true) : issueVerb code c ok run s = run (verbReady c s) := by
  simp only [verbIssues, Bool.and_eq_true, Bool.not_eq_true', decide_eq_true_eq] at h
  obtain ⟨⟨⟨⟨⟨⟨⟨⟨⟨h1, h2⟩, h3⟩, h4⟩, h5⟩, h6⟩, h7⟩, h8⟩, h9⟩, h10⟩ := h
  unfold issueVerb judgeVerb
  rw [if_pos h1, h2, h3]
  simp only [Bool.false_eq_true, if_false]
  have h4' : cmdWait c (cmdArrives c s) = (.ok true, verbReady c s) := by
    rw [← h4]
    rfl
  rw [h4']
  dsimp only
  rw [h5]
  simp only [Bool.false_eq_true, if_false]
  have hb : ¬ (c.flags.toNat ≥ 32 ∨ (c.doneUnit = false ∧ code ≠ 0x10) ∨ ok = false) := by
    rintro (h | h | h)
    · omega
    · simp [h.1, h.2] at h7
    · simp [h] at h8
  rw [if_neg hb]
  have hd : ¬ (c.doneEn = true ∧ tallyPlace (verbReady c s) c.doneTally.toNat = .error stAddrReserved) := by
    rintro ⟨a, b⟩
    simp [a, b] at h9
  rw [if_neg hd]
  have hm : ¬ ((verbReady c s).mode = .none ∧ allowedInNone code = false) := by
    rintro ⟨a, b⟩
    simp [a, b] at h10
  rw [if_neg hm]

/-- A set-up write that passes its gate does what its register's rule says (R23, R41, R338). -/
theorem viaWrite_runs (via : Via) (k : Nat) (f : State → Status × State) (s : State) (h : passes via true k s) :
    viaWrite via k f s = ((f s).1, if (f s).1 = stDone then (f s).2 else countVia via k (f s).1 (f s).2) := by
  unfold viaWrite
  unfold passes at h
  rw [h]

/-- A step that may be taken and whose evaluation commits ends as the commit says (R81, R84). -/
theorem runStep_commits (l : Loc) (e : Entry) (f : Loc → Entry → State → StepEnd) (r : StepRes) (s t : State)
    (hc : canStep s l = true) (hf : f l e s = .commit r) (ht : commitStep l e r s = .ok t) : runStep l e f s = t := by
  simp only [runStep, hc, hf, ht, Bool.not_true, Bool.false_eq_true, if_false]

/-- A free value moves nothing but its counter. -/
theorem draw_frame (s : State) : ∃ w, draw s = (w, { s with freeCtr := s.freeCtr + 1 }) := ⟨_, rfl⟩

end Sys2Proof.Laws
end

