-- ==== Sys2Proof/Laws/Stage.lean ====
section
/-!
SUPPORT. What a step of a stage can change: `StageTouch s t` says that t is s but for the registers, the stages and
arrays, the operand buffers, core memory with its codes and tags, the waits with their packets, the stands, the taint
record and what a report changes; every outcome of a step keeps within it (R81, R89 to R92).
-/

namespace Sys2Proof.Laws

open Sys2Proof.Machine

/-- t is s but for what a step of a stage writes. -/
def StageTouch (s t : State) : Prop :=
  t = { s with
    regs := t.regs, stages := t.stages, arrays := t.arrays, ob := t.ob, obBad := t.obBad, mem := t.mem, upset := t.upset
    tags := t.tags, waits := t.waits, svc := t.svc, svcResp := t.svcResp, stands := t.stands, tainted := t.tainted, taints := t.taints, taintCount := t.taintCount
    reportSeq := t.reportSeq, sessions := t.sessions, ports := t.ports, hostMem := t.hostMem }

namespace StageTouch

theorem refl (s : State) : StageTouch s s := rfl

theorem trans {s t u : State} (h1 : StageTouch s t) (h2 : StageTouch t u) : StageTouch s u := by
  unfold StageTouch at *
  rw [h1] at h2
  exact h2

theorem rput (k : Nat) (w : Word) {s t : State} (h : StageTouch s t) : StageTouch s (rput k w t) := h.trans rfl
theorem rfput (k : Nat) (f : Fld) (v : Nat) {s t : State} (h : StageTouch s t) : StageTouch s (rfput k f v t) := h.trans rfl
theorem rfsat (k : Nat) (f : Fld) (v : Nat) {s t : State} (h : StageTouch s t) : StageTouch s (rfsat k f v t) := h.trans rfl
theorem rfadd (k : Nat) (f : Fld) (v : Nat) {s t : State} (h : StageTouch s t) : StageTouch s (rfadd k f v t) := h.trans rfl
theorem putStage (k : Nat) (v : Stage) {s t : State} (h : StageTouch s t) : StageTouch s (putStage k v t) := h.trans rfl
theorem putArr (k : Nat) (v : CArray) {s t : State} (h : StageTouch s t) : StageTouch s (putArr k v t) := h.trans rfl
theorem putStand (k : Nat) (v : Stand) {s t : State} (h : StageTouch s t) : StageTouch s (putStand k v t) := h.trans rfl
theorem setTag (k : Nat) (b : Bool) {s t : State} (h : StageTouch s t) : StageTouch s (setTag k b t) := h.trans rfl
theorem touchCore (p a n : Nat) {s t : State} (h : StageTouch s t) : StageTouch s (touchCore p a n t) := h.trans rfl
theorem dropWait (w : Waiter) {s t : State} (h : StageTouch s t) : StageTouch s (dropWait w t) := h.trans rfl
theorem taint (st : Status) (a : Word) {s t : State} (h : StageTouch s t) : StageTouch s (taint st a t) := h.trans rfl

theorem report (st : Status) (b : Bool) (src : Nat) (loc a : Word) (data : List Byte) {s t : State} (h : StageTouch s t) :
    StageTouch s (report st b src loc a data t) := by
  obtain ⟨_, _, _, e⟩ := report_frame st b src loc a data t
  rw [e]
  exact h.trans rfl

theorem writeBytes (k : Nat) (bs : List Byte) {s t : State} (h : StageTouch s t) : StageTouch s (writeBytes k bs t) := by
  obtain ⟨_, _, e⟩ := writeBytes_frame k bs t
  rw [e]
  exact h.trans rfl

theorem obWrite (l : Loc) (lane : Nat) (bs : List Byte) : ∀ (b : Nat) {s t : State}, StageTouch s t →
    StageTouch s (obWrite l lane b bs t) := by
  induction bs with
  | nil => intro b s t h; exact h
  | cons v vs ih => intro b s t h; exact ih _ (h.trans rfl)

theorem foldl {α : Type} (f : State → α → State) (hf : ∀ (s t : State) (a : α), StageTouch s t → StageTouch s (f t a))
    (l : List α) : ∀ {s t : State}, StageTouch s t → StageTouch s (l.foldl f t) := by
  induction l with
  | nil => intro s t h; exact h
  | cons a as ih => intro s t h; exact ih (hf _ _ a h)

theorem traceVec (l : Loc) (v : Vec) {s t : State} (h : StageTouch s t) : StageTouch s (traceVec l v t) := by
  unfold Machine.traceVec
  dsimp only
  split
  · exact h.putArr _ _
  · exact h

theorem writeDst (l : Loc) (e : Entry) (r : StepRes) {s t : State} (h : StageTouch s t) :
    StageTouch s (writeDst l e r t) := by
  unfold Machine.writeDst
  split
  · exact h
  · split
    · exact h.putStage _ _
    · split
      · exact StageTouch.foldl _ (fun _ _ _ h => h.obWrite _ _ _ _) _ h
      · split
        · exact ((h.rfadd _ _ _).putArr _ _).traceVec _ _
        · exact h

theorem commitStage (l : Loc) (r : StepRes) {s t : State} (h : StageTouch s t) : StageTouch s (commitStage l r t) := by
  unfold Machine.commitStage
  dsimp only
  refine StageTouch.putArr _ _ ?_
  have ite {c : Prop} [Decidable c] {a b : State} (ha : StageTouch s a) (hb : StageTouch s b) : StageTouch s (if c then a else b) := by
    split
    · exact ha
    · exact hb
  have h1 := h.putStage l.key { stageOf t l.key with
    acc := r.acc.getD (stageOf t l.key).acc, pred := r.pred.getD (stageOf t l.key).pred
    sparse := r.sparse.getD (stageOf t l.key).sparse, half := r.half.getD (stageOf t l.key).half
    left := 0, late := 0, attempts := 0, done := true, srHeld := none }
  repeat first
    | with_reducible exact h1
    | with_reducible apply ite
    | with_reducible apply StageTouch.putStand
    | with_reducible apply StageTouch.rfsat
    | with_reducible apply StageTouch.rfput
    | with_reducible apply StageTouch.rfadd
    | with_reducible apply StageTouch.rput

theorem commitStore (l : Loc) (r : StepRes) {s t : State} (h : StageTouch s t) : StageTouch s (commitStore l r t) := by
  unfold Machine.commitStore
  dsimp only
  have ite {c : Prop} [Decidable c] {a b : State} (ha : StageTouch s a) (hb : StageTouch s b) : StageTouch s (if c then a else b) := by
    split
    · exact ha
    · exact hb
  have h1 : StageTouch s (if r.clearFresh = true ∧ 0 < l.st then
      Machine.putStage (l.key - 1) { stageOf t (l.key - 1) with fresh := (stageOf t (l.key - 1)).wrote } t else t) :=
    ite (h.putStage _ _) h
  generalize (if r.clearFresh = true ∧ 0 < l.st then
      Machine.putStage (l.key - 1) { stageOf t (l.key - 1) with fresh := (stageOf t (l.key - 1)).wrote } t else t) = t1 at h1 ⊢
  have h2 : StageTouch s (match r.load with
      | some (n, true) => Machine.setTag (slotKey l.p l.a n) false t1
      | _ => t1) := by
    split
    · exact h1.setTag _ _
    · exact h1
  have h3 : ∀ t2, StageTouch s t2 → StageTouch s (if r.endWait = true then Machine.dropWait (.stage l.p l.a l.st)
      (r.laneReports.foldl (fun s (st, i) => Machine.report st false 1 (locUnit l.lg l.p l.a l.st 0 i 0) 0 [] s)
        (if r.corrected = 0 then t2 else Machine.rfsat (CaCoreEcc.key l.p l.a) CaCoreEcc.corrected r.corrected t2))
      else r.laneReports.foldl (fun s (st, i) => Machine.report st false 1 (locUnit l.lg l.p l.a l.st 0 i 0) 0 [] s)
        (if r.corrected = 0 then t2 else Machine.rfsat (CaCoreEcc.key l.p l.a) CaCoreEcc.corrected r.corrected t2)) := by
    intro t2 h2
    have hf := StageTouch.foldl (fun s (x : Status × Nat) => Machine.report x.1 false 1 (locUnit l.lg l.p l.a l.st 0 x.2 0) 0 [] s)
      (fun _ _ _ h => h.report _ _ _ _ _ _) r.laneReports (ite (c := r.corrected = 0) h2 (h2.rfsat (CaCoreEcc.key l.p l.a) CaCoreEcc.corrected r.corrected))
    exact ite (hf.dropWait _) hf
  split
  · exact ((((h3 _ h2).writeBytes _ _).setTag _ _).touchCore _ _ _).traceVec _ _
  · exact h3 _ h2

theorem advCounter (p a : Nat) : ∀ (n c : Nat) (bi : List (BitVec 16)) (em : List (Nat × Nat)) (s t : State)
    (x : List (BitVec 16) × List (Nat × Nat) × State), StageTouch s t → advCounter p a n c bi em t = .ok x →
    StageTouch s x.2.2 := by
  intro n
  induction n with
  | zero =>
    intro c bi em s t x h e
    simp only [Machine.advCounter, Except.ok.injEq] at e
    rw [← e]
    exact h
  | succ n ih =>
    intro c bi em s t x h e
    simp only [Machine.advCounter] at e
    repeat' split at e
    all_goals first
      | refine ih _ _ _ _ _ _ ?_ e
      | cases e
    all_goals dsimp only
    all_goals repeat first
      | with_reducible exact h
      | with_reducible apply StageTouch.rfput
      | with_reducible apply StageTouch.rfadd

theorem advCounters (p a : Nat) (cs : List Nat) : ∀ (bi : List (BitVec 16)) (em : List (Nat × Nat)) (s t : State)
    (x : List (BitVec 16) × List (Nat × Nat) × State), StageTouch s t → advCounters p a cs bi em t = .ok x →
    StageTouch s x.2.2 := by
  induction cs with
  | nil =>
    intro bi em s t x h e
    simp only [Machine.advCounters, Except.ok.injEq] at e
    rw [← e]
    exact h
  | cons c cs ih =>
    intro bi em s t x h e
    simp only [Machine.advCounters] at e
    split at e
    · exact absurd e (by simp)
    · next h' => exact ih _ _ _ _ _ (advCounter p a _ _ _ _ _ _ _ h h') e

theorem pushBatons (p a : Nat) (em snd : List (Nat × Nat)) {s t : State} (h : StageTouch s t) :
    StageTouch s (pushBatons p a em snd t) := (h.putArr _ _).rfadd _ _ _

theorem stepOn (l : Loc) (e : Entry) {s t : State} (h : StageTouch s t) : StageTouch s (stepOn l e t) := by
  unfold Machine.stepOn
  dsimp only
  split
  · exact ((h.rfput _ _ _).rfput _ _ _).rfput _ _ _
  · exact (((h.rfput _ _ _).rfput _ _ _).rfput _ _ _).rfput _ _ _

theorem commitStep (l : Loc) (e : Entry) (r : StepRes) (s t : State) (h : commitStep l e r s = .ok t) : StageTouch s t := by
  unfold Machine.commitStep at h
  dsimp only at h
  repeat' split at h
  all_goals try cases h
  all_goals
    have h2 := advCounters _ _ _ _ _ s _ _ (((StageTouch.refl s).writeDst l e r).commitStage l r |>.commitStore l r) (by assumption)
    refine StageTouch.stepOn _ _ ?_
    repeat first
      | with_reducible exact h2
      | with_reducible apply StageTouch.putStage
      | with_reducible apply StageTouch.pushBatons
      | with_reducible apply StageTouch.putArr

theorem stageWaits (l : Loc) (c : Nat) (k : Option Nat) (s : State) : StageTouch s (stageWaits l c k s) := by
  unfold Machine.stageWaits
  dsimp only
  split
  · exact (((StageTouch.refl s).rfput _ _ _).rfput _ _ _).rfput _ _ _
  · exact ((StageTouch.refl s).rfput _ _ _).rfput _ _ _

theorem stageStops (l : Loc) (st : Status) (lanes : BitVec 16) (data : List Byte) (s : State) :
    StageTouch s (stageStops l st lanes data s) := by
  unfold Machine.stageStops
  dsimp only
  refine StageTouch.report _ _ _ _ _ _ (StageTouch.putStage _ _ ?_)
  have ite {c : Prop} [Decidable c] {a b : State} (ha : StageTouch s a) (hb : StageTouch s b) : StageTouch s (if c then a else b) := by
    split
    · exact ha
    · exact hb
  have h0 := StageTouch.refl s
  repeat first
    | with_reducible exact h0
    | with_reducible apply ite
    | with_reducible apply StageTouch.taint
    | with_reducible apply StageTouch.rfput

theorem stageReplays (l : Loc) (lanes : BitVec 16) (s : State) : StageTouch s (stageReplays l lanes s) := by
  unfold Machine.stageReplays
  dsimp only
  split
  · exact stageStops _ _ _ _ _
  · exact (StageTouch.refl s).putStage _ _

theorem stageUncorrectable (l : Loc) (k : Nat) (s : State) : StageTouch s (stageUncorrectable l k s) := by
  unfold Machine.stageUncorrectable
  dsimp only
  split
  · exact StageTouch.refl s
  · refine StageTouch.report _ _ _ _ _ _ (StageTouch.taint _ _ ?_)
    split
    · exact ((StageTouch.refl s).rfput _ _ _).rfput _ _ _
    · exact ((((StageTouch.refl s).rfput _ _ _).rfput _ _ _).rfput _ _ _).rfput _ _ _

/-- A step of a stage, whatever its evaluation, changes nothing beyond what a step writes. -/
theorem runStep (l : Loc) (e : Entry) (f : Loc → Entry → State → StepEnd) (s : State) : StageTouch s (runStep l e f s) := by
  unfold Machine.runStep
  split
  · exact StageTouch.refl s
  · split
    · split
      · next h => exact commitStep _ _ _ _ _ h
      · exact stageWaits _ _ _ _
      · exact StageTouch.refl s
      · exact StageTouch.refl s
    · exact stageWaits _ _ _ _
    · exact stageStops _ _ _ _ _
    · exact stageReplays _ _ _
    · exact stageUncorrectable _ _ _

end StageTouch

end Sys2Proof.Laws
end

