-- ==== Sys2Proof/Tests/Slice0.lean ====
section
/-!
SUPPORT. The model's own tests, each one step on a small state, and for every statement that has hypotheses a concrete
state and operands that meet them, with what the rule then expects of the next state. Expected values come from the
rule named beside each, by hand.
-/

namespace Sys2Proof.Tests

set_option Elab.async false

open Sys2Proof Sys2Proof.Machine

/-- The row's next state satisfies `p`. -/
def ran (i : Instr) (s : State) (p : State → Bool) : Bool :=
  match exec i s with
  | .next t => p t
  | .fault _ => false
  | .refused _ => false

/-- The outcome is this next state. -/
def isNext (o : Host.Outcome State Fault Refusal) (t : State) : Bool :=
  match o with
  | .next u => decide (u = t)
  | .fault _ => false
  | .refused _ => false

/-- A powered module: firmware verified, the security engine operational, stand 1 in service as logical stand 0. -/
def base : State :=
  rfput (IorStandMap.key 1) IorStandMap.parityGroup 0xFF (rput (IorStandMap.key 1) (fldSet IorStandMap.role (fldOf IorStandMap.logical 0) 1)
    (rfput SecStatus.key SecStatus.state 1 (rfput RgrFwStatus.key RgrFwStatus.state 2 State.reset)))

/-- The module in a module state. -/
def inMode (m : ModState) : State := { base with mode := m }

/-- The module RUNNING, with stand 1 in its lap of one slot, and array A(1,0) running. -/
def live : State :=
  rfput (CaStatus.key 1 1) CaStatus.arrayState 2 (putStand 1 { Stand.init with phase := 2, started := true } (inMode .running))

/-- A command of port 0, ring 0, whose body has `v` at offset 16. -/
def cmd (v : BitVec 384) : Cmd := ⟨.host 0 0, 3, 4, 7, 0, 0, 0, v⟩

/-- A command of a session of management port 0, and the module with that session open. -/
def opCmd (v : BitVec 384) : Cmd := ⟨.mgmt 0 0, 0, 4, 7, 0, 0, 0, v⟩
def withSession (s : State) : State := putSess (mgmtKey 0 0) (some ⟨1, 0, 0, 0, [], false, [], [], []⟩) s

/-- A host's command without WAIT_EN is judged in the state it meets: a verb's conditions hold in `s` as in `verbReady c s`. -/
theorem ready_cmd (v : BitVec 384) (s : State) : verbReady (cmd v) s = s := by
  have h : (cmd v).waitEn = false := show natBit (4 : BitVec 6).toNat 0 = false by decide
  unfold verbReady cmdWait
  rw [h]
  rfl

/-- So is a session's, once its message has arrived. -/
theorem ready_opCmd (v : BitVec 384) (s : State) : verbReady (opCmd v) s = cmdArrives (opCmd v) s := by
  have h : (opCmd v).waitEn = false := show natBit (4 : BitVec 6).toNat 0 = false by decide
  unfold verbReady cmdWait
  rw [h]
  rfl

/-- Stage 0 of array A(1,0) of logical stand 0, and its physical place. -/
def stg : StageLoc := ⟨0, 1, 0, 0⟩
def place : Loc := ⟨1, 1, 0, 1, 0, 0⟩

/-- An entry on INT32 operands: A the constant, B pointer A of the operand buffer, result to DOWN. -/
def ent : Entry where
  dvar := false
  fmtA := 0x10
  fmtB := 0x10
  fmtD := 0x10
  rmode := 0
  sat := false
  aux := 0
  srcA := 4
  srcB := 2
  dst := 1
  rpt := 0
  ctr := 7
  clr := false
  last := true
  fwd := false

/-- The stage has a step, in its last slot (R79). -/
def begun : State := putStage place.key { stageOf live place.key with begun := true } live

/-- The constant of the stage is 5, and lane 0 of the operand at pointer A is 7. -/
def armed : State :=
  obWrite place 0 0 [7, 0, 0, 0] (rfput (CaConst.key 1 1 0) CaConst.value 5 begun)

/-- The command of port 0, ring 0 has retired with a status. -/
def ended (t : State) (st : Status) : Bool := ((ringOf t 0 0).done.getLast?).map (·.status) == some st

/-- The command of the session has retired with a status. -/
def told (t : State) (st : Status) : Bool :=
  match (sessOf t (mgmtKey 0 0)).bind (·.out.getLast?) with
  | some (.completion r) => r.status == st
  | _ => false

/-- An image of 128 bytes (R354): IMAGE_ID 0x1234, SLOT_CLOCK 1.5 GHz, P 1, an empty REGIONS and an empty TOPOLOGY section. -/
def smallImage : List Byte := bytesLE 128
  0x80000000000000000d0000000000000000000000000000000000000000000000800000000000000007000000000000000000000000267a2d8900000002000000000000000000000000000000010016e360000000000000123400000000000000800000000131534b5a

/-- The same with a DRAIN section: FIRST 1, PERIOD 1 (R355, R358). -/
def drainImage : List Byte := bytesLE 256
  0x1000000000000000100000000000000000000000000000000000000000000000000000000000000000000000000000000000000000001000000000000000c0000000000000000a0000000000000000000000000000000000000000000000c0000000000000000d0000000000000000000000000000000000000000000000c000000000000000070000000000000000000000004d3381d300000003000000000000000000000000000000010016e360000000000000123400000000000001000000000131534b5a

/-- The same with a BLAZE section: BLAZE_BASE 0, BUF_LEN and LOG_LEN 4 MiB (R355, R499). -/
def blazeImage : List Byte := bytesLE 256
  0x4000000000000000400000000000000000000000000000000000000000000000000000000000000000000000000000000000000000000000000000000000000000002000000000000000c000000000000000090000000000000000000000000000000000000000000000c0000000000000000d0000000000000000000000000000000000000000000000c00000000000000007000000000000000000000000189db62a00000003000000000000000000000000000000010016e360000000000000123400000000000001000000000131534b5a

/-- The same with an empty PARITY_SET of the base set (R355). -/
def parityImage : List Byte := bytesLE 192
  0xffff000000000000000000000000000000c000000000000000030000000000000000000000000000000000000000000000c0000000000000000d0000000000000000000000000000000000000000000000c00000000000000007000000000000000000000000ff987bff00000003000000000000000000000000000000010016e360000000000000123400000000000000c00000000131534b5a

/-- A number at an offset of a command's body. -/
def fld (o v : Nat) : BitVec 384 := BitVec.ofNat 384 (v * 2 ^ (8 * (o - 16)))

/-- Stand 2 a standby without a parity group, its tile on, in a module that is IDLE. -/
def standby : State := rfput (PwrTile.key 2) PwrTile.state 2 (rput (IorStandMap.key 2)
  (fldSet IorStandMap.role (fldSet IorStandMap.logical (fldOf IorStandMap.parityGroup 0xFF) 0xFF) 2) (inMode .idle))

/-- The same with a SERVICE section: MAX_SESSIONS 4, B_MAX 4, BLAZE_EVERY 2 (R355). -/
def serviceImage : List Byte := bytesLE 256
  0x2000000000000000000000000000000000000000000000004000400000000000000000000000000000000000000000000000000000000000000000000000000000000000000000000004000000000000000c0000000000000000c0000000000000000000000000000000000000000000000c0000000000000000d0000000000000000000000000000000000000000000000c000000000000000070000000000000000000000000557fefd00000003000000000000000000000000000000010016e360000000000000123400000000000001000000000131534b5a

/-- The same with a HEARTBEAT entry: A(1,0) of logical stand 0, tally 0xE005, PERIOD 3 (R355). -/
def beatImage : List Byte := bytesLE 256
  0xf8014000100000000000000000000000000000000000000000000000000000000000000000000000000000000000000000000000800000000000000c0000000000000000b0000000000000000000000000000000000000000000000c0000000000000000d0000000000000000000000000000000000000000000000c00000000000000007000000000000000000000000e54ae40c00000003000000000000000000000000000000010016e360000000000000123400000000000001000000000131534b5a

/-! ### The block as a whole -/

theorem witness_idle : State.reset.pending = [] ∧ isNext (step State.reset) State.reset = true := by decide +kernel

theorem test_step_front : isNext (step { base with pending := [.busbarStable, .ppsLost] })
    { base with pending := [.ppsLost], power := { base.power with busbarOk := true } } = true := by decide +kernel

theorem witness_memory_form : Memory.wf armed = true ∧ Memory.wf (writeRaw 5 [1, 0, 2] armed) = true := by decide +kernel

theorem witness_register_form : Registers.wf armed = true ∧
    ran (.tlyAdd (.host 0) true 0 3 9) armed Registers.wf = true := by decide +kernel

theorem witness_not_fuse : (∀ c bad, Instr.nop stg ent ≠ .fuseWrite c bad) ∧
    ran (.nop stg ent) live (fun t => t.fuses == []) = true :=
  ⟨fun _ _ h => by simp at h, by decide +kernel⟩

/-- R32: bits 0 and 79 of a code word; bit 0 is a check bit, bit 79 the highest data bit. -/
theorem test_code_boundary : eccRead (BitVec.ofNat 80 (2 ^ 0 + 2 ^ 79)) = some (0, true) ∧
    eccRead (BitVec.ofNat 80 (2 ^ 14)) = some (0, true) := by decide +kernel

/-! ### Stages -/

theorem witness_add_commits : locOf armed stg = some place ∧ canStep armed place = true ∧
    stepWords (evalArith fvAdd (· + ·) place ent armed) = some (12 :: List.replicate 15 5) ∧
    ran (.add stg ent) armed (fun t => (stageOf t place.key).latch == ofLanes (12 :: List.replicate 15 5)) = true := by
  decide +kernel

theorem witness_lane_operands : readSrc armed place 4 4 = .ok (List.replicate 16 5) ∧
    readSrc armed place 2 4 = .ok (7 :: List.replicate 15 0) := by decide +kernel

/-- R128: lanes 0 and 1 hold the target, lane 2 the tally. Here the target is 3 and the tally 5 of stand 0. -/
def waits : State :=
  rput (TlyCount.key false 1 5) 3 (obWrite place 2 0 [5, 0, 0, 0] (obWrite place 0 0 [3, 0, 0, 0] begun))
def waitEnt : Entry := { ent with srcA := 2 }

theorem witness_twait : locOf waits stg = some place ∧ canStep waits place = true ∧
    tallyPlace waits 5 = .ok (false, 1, 5) ∧ reached (tallyCount waits (false, 1, 5)) 3 = true ∧
    evalTwait place waitEnt waits = .commit { takeRoute := takesRoute place waitEnt, endWait := true } ∧
    ran (.twait stg waitEnt) waits (fun t => rf t (CaStageStatus.key 1 1 0) CaStageStatus.state == 1) = true := by
  decide +kernel

/-- R93: an entry with VALID, OPCODE 0x10 (ADD) and the fields of `ent`, at entry 0. -/
def programmed : State :=
  rput (CaOp.key 1 1 0 0) (fldSet CaOp.valid (fldSet CaOp.opcode (fldSet CaOp.fmtA (fldSet CaOp.fmtB (fldSet CaOp.fmtD
    (fldSet CaOp.srcA (fldSet CaOp.srcB (fldSet CaOp.dst (fldSet CaOp.ctr (fldSet CaOp.last 0 1) 7) 1) 2) 4) 0x10) 0x10)
    0x10) 0x10) 1) armed

theorem witness_step_complete : locOf programmed stg = some place ∧ canStep programmed place = true ∧
    fldGet CaOp.valid (curOp programmed place) = 1 ∧ fldGet CaOp.opcode (curOp programmed place) = 0x10 ∧
    entryOf (curOp programmed place) = ent ∧
    ran (.stageStepComplete stg 0) programmed (fun t =>
      (stageOf t place.key).latch == ofLanes (12 :: List.replicate 15 5)) = true := by decide +kernel

/-- R90: a byte of the operand at pointer A is bad. -/
def badOperand : State := { armed with obBad := smapSet badDflt armed.obBad (obKey place 0 0) true }

theorem witness_replay : evalArith fvAdd (· + ·) place ent badOperand = .replay 1 ∧
    ran (.add stg ent) badOperand (fun t => decide (stepEffects t place = stepEffects badOperand place) &&
      decide ((stageOf t place.key).attempts = 1)) = true := by decide +kernel

/-- R43, R128: a tally number above 0xEFFF is reserved, and the wait stops. -/
def badWait : State := obWrite place 2 0 [0, 0xF0, 0, 0] begun

theorem witness_stop : (match evalTwait place waitEnt badWait with
      | .stop st _ _ => decide (st = stAddrReserved)
      | _ => false) = true ∧
    ran (.twait stg waitEnt) badWait (fun t => rf t (CaStageStatus.key 1 1 0) CaStageStatus.state == 3 &&
      decide ((stageOf t place.key).latch = (stageOf badWait place.key).latch)) = true := by decide +kernel

theorem witness_store : locOf armed stg = some place ∧
    ran (.stcm stg { ent with dst := 0 }) armed (fun t => memByte t (sramKey 1 1 (64 * 5)) == 5 &&
      memByte t (sramKey 1 1 (64 * 5) + 60) == 5 && tagOf t (slotKey 1 1 5)) = true := by decide +kernel

theorem witness_other_stage : keepsMemory (.add stg ent) = true ∧ stageRow (.add stg ent) ≠ none ∧
    ran (.add stg ent) armed (fun t => decide (t.mem = armed.mem)) = true := by
  refine ⟨by decide +kernel, by simp [stageRow], by decide +kernel⟩

/-- R123: PERM with AUX[8:6] 0, 1, 2 and 3 and the parameter 1, on lanes 0 to 15 that hold 0 at lane 0 and 7 at lane 1. -/
def permuted : State := obWrite place 1 0 [7, 0, 0, 0] begun
def permEnt (aux : BitVec 9) : Entry := { ent with srcA := 2, aux := aux }

theorem test_perm : stepWords (evalPerm place (permEnt 0x001) permuted) = some (7 :: List.replicate 15 0) ∧
    stepWords (evalPerm place (permEnt 0x041) permuted) = some (7 :: List.replicate 15 0) ∧
    stepWords (evalPerm place (permEnt 0x081) permuted) = some (List.replicate 16 7) ∧
    stepWords (evalPerm place (permEnt 0x0C0) permuted) = some (List.replicate 14 0 ++ [7, 0]) := by decide +kernel

/-- R120: AND, OR, XOR, SHL and SHR of 5 and 7, and of 5 and 0. -/
theorem test_bits : stepWords (evalBits (· &&& ·) place ent armed) = some (5 :: List.replicate 15 0) ∧
    stepWords (evalBits (· ||| ·) place ent armed) = some (7 :: List.replicate 15 5) ∧
    stepWords (evalBits (· ^^^ ·) place ent armed) = some (2 :: List.replicate 15 5) ∧
    stepWords (evalBits (fun x y => x <<< (y.toNat % 32)) place ent armed) = some (640 :: List.replicate 15 5) ∧
    stepWords (evalBits (fun x y => x >>> (y.toNat % 32)) place ent armed) = some (0 :: List.replicate 15 5) := by
  decide +kernel

/-- R121, R123, R124: SEL with P 0x0001, PERMI by the words 7 and 0, LREDI of sixteen fives. -/
theorem test_lanes :
    stepWords (evalSel place ent (putStage place.key { stageOf armed place.key with pred := 2 } armed)) =
      some (7 :: 5 :: List.replicate 14 0) ∧
    stepWords (evalPermi place ent armed) = some (List.replicate 16 5) ∧
    stepWords (evalLredi place ent armed) = some (List.replicate 16 80) ∧
    stepWords (evalArith opSub (· - ·) place ent armed) = some (0xFFFFFFFE :: List.replicate 15 5) := by decide +kernel

/-- R47: 2^31 − 1 and −2^31 are kept; one more or less saturates. -/
theorem test_saturate : intResult true 2147483647 = (0x7FFFFFFF, flNone) ∧ intResult true 2147483648 = (0x7FFFFFFF, flOverflow) ∧
    intResult true (-2147483648) = (0x80000000, flNone) ∧ intResult true (-2147483649) = (0x80000000, flOverflow) ∧
    intResult false 2147483648 = (0x80000000, flNone) := by decide +kernel

/-- R55: the canonical NaN in FP32, BF16, FP16, FP8 E5M2 and FP8 E4M3, and a NaN through a product. -/
theorem test_nan : FVal.isNan (.nan true) = true ∧ (convert 0x00 0 false (.nan true) 0).1 = 0x7FC00000 ∧
    (convert 0x03 1 true (.nan false) 5).1 = 0x7F ∧ (fvFma 0 (.inf false) (.nan false) (.fin false 1 0)).1.isNan = true ∧
    (approxFP32 2 (.nan true) 0).1 = 0x7FC00000 := by decide +kernel

/-- R64: three parts that one ANCHOR feeds, in two orders. -/
theorem test_exact : Acc.merge (Acc.merge (.exact 1 1 true false false false false 3) (.exact 2 1 false true false false false 3))
      (.exact 5 1 false false true false false 3) =
    Acc.merge (.exact 5 1 false false true false false 3)
      (Acc.merge (.exact 2 1 false true false false false 3) (.exact 1 1 true false false false false 3)) := by decide +kernel
def snap : Snap := ⟨3, 0, [], [], [], [], [], .init, false, [], [], []⟩

/-- A module with no stand in service, whose blazes are empty. -/
def bare : State := rfput SecStatus.key SecStatus.state 1 (rfput RgrFwStatus.key RgrFwStatus.state 2 State.reset)
def blazable : State := { bare with mode := .drained, image := blazeImage }

theorem witness_blaze : verbIssues 4 (cmd 0) ((cmd 0).zero 16 48) blazable = true ∧ blazeRefusal blazable = none ∧ unitsOwned blazable 1 = false ∧
    ran (.blaze (cmd 0)) blazable (fun t => decide (t.arb = some (4, cmd 0)) && t.saving.isSome && decide (t.mode = .drained)) = true := by
  decide +kernel

def restorable : State := { blazable with snaps := [snap], epoch := 4 }

theorem witness_restore : verbIssues 5 (cmd 0) ((cmd 0).zero 24 40) restorable = true ∧ restoreAllowed restorable = true ∧ unitsOwned restorable 1 = false ∧
    restoreTarget restorable 0 = some (snap, false) ∧ (restoreBlaze snap false restorable).1 = stDone ∧
    ran (.restore (cmd 0)) restorable (fun t => ended t stDone && decide (t.mode = .drained) && decide (t.epoch = 4)) = true := by
  decide +kernel


/-! ### Verbs -/

def loadCmd : Cmd := cmd (128 <<< 64)

/-- The link of port 0 is up, and its command's next state is its own: nothing else was fetched before it. -/
def linked (m : ModState) : State := putPort 0 { portOf (inMode m) 0 with linkUp := true } (inMode m)

theorem witness_load : verbIssues 1 loadCmd (loadBodyOk loadCmd) (linked .idle) = true ∧ loadCmd.fromHost = true ∧
    loadBarred (verbReady loadCmd (linked .idle)) = none ∧
    imageFault (verbReady loadCmd (linked .idle)) smallImage (loadCmd.num 24 8) = none ∧ formFault smallImage (loadCmd.num 24 8) = none ∧
    sectionLinks loadCmd smallImage (verbReady loadCmd (linked .idle)) = true := by decide +kernel

/-- R357: one byte changed, and the load is refused with ST_CHECK_MISMATCH; LENGTH not that of the body, ST_IMAGE_INVALID;
over a link that is down, ST_CXL_LINK_DOWN; and a read that times out, ST_CXL_TIMEOUT with its address (R363, R364). -/
theorem test_load_refused :
    ran (.loadImage loadCmd (smallImage.set 17 0x13) ⟨none, []⟩) (linked .idle) (fun t => ended t stCheckMismatch && decide (t.mode = .idle)) = true ∧
    ran (.loadImage (cmd (192 <<< 64)) smallImage ⟨none, []⟩) (linked .idle) (fun t => ended t stImageInvalid) = true ∧
    ran (.loadImage loadCmd smallImage ⟨none, []⟩) (inMode .idle) (fun t => ended t stCxlLinkDown) = true ∧
    ran (.loadImage loadCmd smallImage ⟨some (stCxlTimeout, 64), [0]⟩) (linked .idle) (fun t => ended t stCxlTimeout &&
      ((ringOf t 0 0).done.getLast?).map (fun r => r.nonrepeat && decide (r.detail = 64)) == some true) = true := by
  decide +kernel

theorem witness_start : verbIssues 2 (cmd 0) ((cmd 0).zero 16 48) (inMode .loaded) = true ∧ startRefusal (inMode .loaded) = none ∧
    ran (.start (cmd 0)) (inMode .loaded) (fun t => ended t stDone && decide (t.mode = .running)) = true := by decide +kernel

theorem witness_resume : verbIssues 6 (cmd 0) ((cmd 0).zero 16 48) (inMode .drained) = true ∧ startRefusal (inMode .drained) = none ∧
    ran (.resume (cmd 0)) (inMode .drained) (fun t => ended t stDone && decide (t.mode = .running)) = true := by decide +kernel

/-- R433, R438: array group 0x100 of physical stand 1 is off. -/
def gated (m : ModState) : State := putGate 1 0x100 1 (inMode m)

theorem witness_gated : recheck (gated .loaded) = none ∧ (1 ∈ servicePhys (gated .loaded) ∧ isGate 0x100 = true ∧ gateSt (gated .loaded) 1 0x100 ≠ 0) ∧
    verbIssues 2 (cmd 0) ((cmd 0).zero 16 48) (gated .loaded) = true ∧
    verbIssues 6 (cmd 0) ((cmd 0).zero 16 48) (gated .drained) = true ∧
    ran (.start (cmd 0)) (gated .loaded) (fun t => ended t stBadState && decide (t.mode = .loaded)) = true ∧
    ran (.resume (cmd 0)) (gated .drained) (fun t => ended t stBadState && decide (t.mode = .drained)) = true := by decide +kernel

/-- R438: node 0x010 is DMA engine 0 of the hub, and queue 0 of class 3, index 0, is on. -/
theorem witness_gated_engine : (3, 0) ∈ engineOfBit 0 ∧
    ran (.start (cmd 0)) (putGate 1 0x10 2 (rput (HubQCfg.key 1 0) (fldSet HubQCfg.cls (fldOf HubQCfg.mode 1) 3) (inMode .loaded)))
      (fun t => ended t stBadState) = true := by decide +kernel

def draining : State := { live with image := drainImage }

theorem witness_drain : verbIssues 3 (cmd 0) ((cmd 0).zero 16 48) draining = true ∧ (imgDrain draining.image).isSome = true ∧
    ran (.drain (cmd 0)) draining (fun t => t.draining && decide (t.arb = some (3, cmd 0)) && decide (t.mode = .running)) = true := by
  decide +kernel

def atDrain : State :=
  putStand 1 { standOf draining 1 with drained := true } { draining with arb := some (3, cmd 0), draining := true }

theorem witness_drain_point : (∀ p ∈ servicePhys atDrain, (standOf atDrain p).drained = true) ∧ atDrain.gul.blazing = false ∧
    ran .drainPointReached atDrain (fun t => ended t stDone && decide (t.mode = .drained) && decide (t.arb = none)) = true := by
  decide +kernel

theorem witness_blaze_commit : (lsMode (inMode .drained) && unitsOwned (inMode .drained) 8) = false ∧
    ran .blazeCommit { inMode .drained with arb := some (4, cmd 0), saving := some snap, epoch := 3 } (fun t =>
      ended t stDone && decide (t.epoch = 4) && decide (t.saving = none) && decide (t.arb = none)) = true := by decide +kernel

theorem witness_fences : verbIssues 7 (cmd (1 <<< 8)) ((cmd (1 <<< 8)).zero 19 45) (inMode .running) = true ∧ fenceAllowed (inMode .running) = true ∧
    physOf (inMode .running) 0 = some 1 ∧ roleOf (inMode .running) 1 = 1 ∧
    ran (.fenceArray (cmd (1 <<< 8))) (inMode .running) (fun t => ended t stDone && decide (t.mode = .fenced) && decide (arrState t 1 1 = 5)) = true ∧
    verbIssues 8 (cmd 0) ((cmd 0).zero 17 47) (inMode .running) = true ∧
    ran (.fenceStand (cmd 0)) (inMode .running) (fun t => ended t stDone && decide (t.mode = .fenced) && decide (roleOf t 1 = 3)) = true := by
  decide +kernel

/-- R509: a logical stand above 55 is refused. -/
theorem test_fence_reserved : ran (.fenceStand (cmd 56)) (inMode .running) (fun t => ended t stAddrReserved && decide (t.mode = .running)) = true := by
  decide +kernel

def fencedArray : State := { (rfput (CaStatus.key 1 1) CaStatus.arrayState 5 (inMode .fenced)) with image := smallImage }

theorem witness_plan : verbIssues 9 (cmd 0) ((cmd 0).zero 18 46) (inMode .fenced) = true ∧ planApplies (inMode .fenced) 0 = true ∧
    ran (.selectPlan (cmd 0)) (inMode .fenced) (fun t => ended t stDone && decide (t.planSel = some 0)) = true ∧
    verbIssues 0x0A (cmd 0) ((cmd 0).zero 16 48) { inMode .fenced with planSel := some 0 } = true ∧
    ran (.relocate (cmd 0) []) { inMode .fenced with planSel := some 0 } (fun t => ended t stDone && decide (t.planSel = none) &&
      decide (t.plan = 0) && t.planChanged) = true := by decide +kernel

def heldQueue : State := rfput (HubQState.key 1 0) HubQState.state 3 (inMode .running)

theorem witness_release : verbIssues 0x0B (cmd 0) ((cmd 0).zero 19 45) heldQueue = true ∧ inService heldQueue 0 = some 1 ∧
    rf heldQueue (HubQState.key 1 0) HubQState.state = 3 ∧
    ran (.release (cmd 0)) heldQueue (fun t => ended t stDone && decide (rf t (HubQState.key 1 0) HubQState.state = 0)) = true ∧
    ran (.release (cmd (2 <<< 16))) heldQueue (fun t => ended t stDone && decide (rf t (HubQCfg.key 1 0) HubQCfg.mode = 0)) = true ∧
    ran (.release (cmd (1 <<< 8))) heldQueue (fun t => ended t stBadState) = true := by decide +kernel

/-! ### Power, clocks and the rest of the verbs -/

/-- R4: the ceilings of the three grades. -/
theorem power_ceilings : Config.powerCeilW = 32000 ∨ Config.powerCeilW = 26000 ∨ Config.powerCeilW = 20000 := by
  unfold Config.powerCeilW
  cases Config.grade <;> simp

theorem slot_ceilings : Config.slotCeilKhz = 1500000 ∨ Config.slotCeilKhz = 1250000 ∨ Config.slotCeilKhz = 1000000 := by
  unfold Config.slotCeilKhz
  cases Config.grade <;> simp

theorem op_ceiling_at_reset : rg base PwrCeiling.key = BitVec.ofNat 64 (Config.powerCeilW * 2 ^ 32 + Config.powerCeilW) := rfl

theorem witness_cap : verbIssues 0x0C (cmd 4000) ((cmd 4000).zero 20 44) base = true ∧ (cmd 4000).num 16 4 = 4000 ∧
    4000 ≤ Config.powerCeilW ∧ 4000 ≤ rf base PwrCeiling.key PwrCeiling.opCeiling := by
  refine ⟨by decide +kernel, by decide +kernel, ?_, ?_⟩
  · rcases power_ceilings with h | h | h <;> rw [h] <;> decide
  · show 4000 ≤ fldGet PwrCeiling.opCeiling (rg base PwrCeiling.key)
    rw [op_ceiling_at_reset]
    rcases power_ceilings with h | h | h <;> rw [h] <;> decide

theorem witness_cap_above : verbIssues 0x0C (cmd 32001) ((cmd 32001).zero 20 44) base = true ∧
    Config.powerCeilW < (cmd 32001).num 16 4 :=
  ⟨by decide +kernel, by rcases power_ceilings with h | h | h <;> rw [h] <;> decide +kernel⟩

/-- R449: 3,999 W is refused with ST_CAP_RANGE. -/
theorem test_cap_range : ran (.setPowerCap (cmd 3999)) base (fun t => ended t stCapRange) = true := by decide +kernel

theorem witness_op_ceiling : passes (.mgmt 0) true PwrCeiling.key base ∧ 4000 ≤ (4000 : BitVec 32).toNat ∧
    (4000 : BitVec 32).toNat ≤ Config.powerCeilW :=
  ⟨by unfold passes; decide +kernel, by decide, by rcases power_ceilings with h | h | h <;> rw [h] <;> decide⟩

def atFloor : State := { base with power := { base.power with floorRun := 500 } }

theorem witness_cap_floor : 500 ≤ atFloor.power.floorRun ∧ atFloor.power.floorTold = false ∧
    ran .capFloor atFloor (fun t => t.power.floorTold && decide (t.reportSeq = atFloor.reportSeq + 1)) = true ∧
    ran .capFloor { base with power := { base.power with floorRun := 499 } } (fun t => !t.power.floorTold) = true := by decide +kernel

def locked : State := rfput ClkRefStatus.key ClkRefStatus.state 1 { inMode .idle with ringClk := ⟨true, none⟩ }

theorem witness_set_clock : verbIssues 0x0D (cmd 250000) ((cmd 250000).zero 20 44) locked = true ∧ refState locked = 1 ∧
    locked.ringClk.glide = none ∧ setClockKhz (cmd 250000) = 250000 := by decide +kernel

theorem witness_clock_above : verbIssues 0x0D (cmd 1500001) ((cmd 1500001).zero 20 44) locked = true ∧
    Config.slotCeilKhz < setClockKhz (cmd 1500001) :=
  ⟨by decide +kernel, by rcases slot_ceilings with h | h | h <;> rw [h] <;> decide +kernel⟩

theorem witness_slot_cfg : passes (.mgmt 0) true ClkSlotCfg.key locked ∧ Config.slotCeilKhz < fldGet ClkSlotCfg.khz 0xFFFFFFFF :=
  ⟨by unfold passes; decide +kernel, by rcases slot_ceilings with h | h | h <;> rw [h] <;> decide +kernel⟩

/-- A stand screened at ratio 1,080 while the slot clock is lower: 1.4 GHz would take it above the ceiling. -/
def screenedFast : State := rfput (ClkDiv.key 2) ClkDiv.ratio 1080 locked

theorem screened_above : aboveCeiling screenedFast 1400000 = true := by
  unfold aboveCeiling
  rw [Bool.or_eq_true, List.any_eq_true]
  refine .inr ⟨2, by decide +kernel, ?_⟩
  have h : rf screenedFast (ClkDiv.key 2) ClkDiv.ratio = 1080 := by decide +kernel
  rw [h]
  rcases slot_ceilings with g | g | g <;> rw [g] <;> decide

theorem witness_screened_clock : verbIssues 0x0D (cmd 1400000) ((cmd 1400000).zero 20 44) screenedFast = true ∧
    screenedFast.ringClk.glide = none ∧ passes (.mgmt 0) true ClkSlotCfg.key screenedFast ∧
    250000 ≤ setClockKhz (cmd 1400000) ∧ aboveCeiling screenedFast (setClockKhz (cmd 1400000)) = true ∧
    fldGet ClkSlotCfg.khz 1400000 = 1400000 :=
  ⟨by decide +kernel, by decide +kernel, by unfold passes; decide +kernel, by decide +kernel,
    (show setClockKhz (cmd 1400000) = 1400000 by decide +kernel) ▸ screened_above, by decide +kernel⟩

theorem witness_glide_end : ran .glideEnd { locked with ringClk := ⟨true, some 300000⟩ } (fun t => decide (t.ringClk.glide = none) &&
    decide (rf t ClkSlotStatus.key ClkSlotStatus.currentKhz = 300000) && decide (refState t = 1)) = true := by decide +kernel

theorem witness_ref_lost : refState locked = 1 ∧ ran .refLost locked (fun t => decide (refState t = 2) && !t.ringClk.refOk &&
    decide (rf t ClkSlotStatus.key ClkSlotStatus.locked = 0)) = true := by decide +kernel

def holdover : State := rfput ClkPpsStatus.key ClkPpsStatus.refHold 1 (rfput ClkRefStatus.key ClkRefStatus.state 2 base)

theorem witness_reference_return : holdover.ringClk.refOk = false ∧ refState holdover ≠ 0 ∧
    ran .referenceReturn holdover (fun t => t.ringClk.refOk && decide (refState t = 2) &&
      decide (rf t ClkPpsStatus.key ClkPpsStatus.refHold = 0)) = true := by decide +kernel

theorem witness_reacquire : passes (.mgmt 0) true ClkRefCtl.key { holdover with ringClk := ⟨true, none⟩ } ∧
    refState { holdover with ringClk := ⟨true, none⟩ } = 2 ∧ hasImage { holdover with ringClk := ⟨true, none⟩ } = false :=
  ⟨by unfold passes; decide +kernel, by decide +kernel, by decide +kernel⟩

/-- The loaded image is of a clock of 58,208 kHz, below what CLK_SLOT_CFG asks for. -/
def slower : State := { holdover with ringClk := ⟨true, none⟩, image := smallImage.set 26 0 }

theorem slot_cfg_stands : rg slower ClkSlotCfg.key = BitVec.ofNat 64 Config.slotCeilKhz := rfl

theorem witness_reacquire_refused : passes (.mgmt 0) true ClkRefCtl.key slower ∧ refState slower = 2 ∧
    slower.ringClk.refOk = true ∧ hasImage slower = true ∧
    imgClock slower.image < rf slower ClkSlotCfg.key ClkSlotCfg.khz := by
  refine ⟨by unfold passes; decide +kernel, by decide +kernel, by decide +kernel, by decide +kernel, ?_⟩
  show imgClock (smallImage.set 26 0) < fldGet ClkSlotCfg.khz (rg slower ClkSlotCfg.key)
  rw [slot_cfg_stands]
  rcases slot_ceilings with g | g | g <;> rw [g] <;> decide +kernel

/-- R6: the state in which a cold bring-up begins, at the fused ceiling (witness_warm and witness_stand_on show the others). -/
def coldReady : State := rfput RgrFwStatus.key RgrFwStatus.state 2 State.reset

theorem witness_cap_at_bring_up : fwVerified coldReady = true ∧ coldReady.bring.kind = 0 ∧ bringPhase coldReady = 0 ∧
    coldReady.mode = .none := by decide +kernel

def lsCmd : Cmd := cmd (fld 16 1 + fld 18 2 + fld 20 0xE005 + fld 24 0x200000 + fld 44 1)

theorem witness_set_lockstep : verbIssues 0x0E lsCmd (slBodyOk lsCmd) (inMode .idle) = true ∧ slRefusal (inMode .idle) lsCmd = none ∧
    ran (.setLockstep lsCmd) (inMode .idle) (fun t => ended t stDone && lsMode t && decide (lsPort t = 2) &&
      decide (rf t (TlyCfg.key true 0 5) TlyCfg.watchEn = 1)) = true := by decide +kernel

def inLockstep : State := rfput RgrLsStatus.key RgrLsStatus.mode 1 base

theorem witness_lockstep_compare : lsMode inLockstep = true ∧ rangerRuns inLockstep (lsPort inLockstep) = true ∧
    ran .lockstepCompare (rput (TlyCount.key true 0 5) 2 { inLockstep with lsOn := { inLockstep.lsOn with mbox := 5 } }) (fun t =>
      decide (t.lsOn.taken = 2)) = true := by decide +kernel

def ownBlock : State := { inLockstep with lsOn := { inLockstep.lsOn with own := [(3, some ⟨19, false, false⟩)] } }

theorem witness_lockstep_timeout : lsMode ownBlock = true ∧ lsOwn ownBlock 3 = some ⟨19, false, false⟩ ∧
    (lsIn ownBlock 3).map (·.epoch) ≠ some 19 ∧
    ran (.lockstepTimeout 19) ownBlock (fun t => decide (lsOwn t 3 = some ⟨19, false, true⟩) &&
      decide (rf t RgrLsCount.key RgrLsCount.timeouts = 1)) = true := by decide +kernel

/-- R352: zeros to discard, 64 bytes. -/
def zerosCmd : Cmd := cmd (fld 16 2 + fld 17 3 + fld 40 64)

theorem witness_dma_copy : (portOf (inMode .idle) 0).copies.find? (fun j => j.cmd = zerosCmd) = none ∧
    copyContext (inMode .idle) 0 0 zerosCmd = true ∧
    verbIssues 0x10 zerosCmd (copyBodyOk zerosCmd (rf (inMode .idle) (CvuCfg.key true 0 (ringUnit 0 0)) CvuCfg.psel)) (inMode .idle) = true ∧
    copyRefusal (inMode .idle) zerosCmd = none ∧
    isNext (exec (.dmaCopy zerosCmd) (inMode .idle)) (startCopy 0 0 zerosCmd (inMode .idle)) = true ∧
    ran (.dmaCopy zerosCmd) (inMode .idle) (fun t => ended t stDone) = true := by decide +kernel

/-- R352: LENGTH 64 + 32 is refused with ST_ADDR_ALIGN. -/
theorem test_dma_copy_align : ran (.dmaCopy (cmd (fld 16 2 + fld 17 3 + fld 40 96))) (inMode .idle) (fun t => ended t stAddrAlign) = true := by
  decide +kernel

/-- R281, R353: SRC_SEL zeros, DST_SEL discard, to logical stand 0. -/
def standCmd : Cmd := cmd (fld 16 0x2000 + fld 18 0x2000)

theorem witness_dma_stand : heldBack (inMode .loaded) 0x11 standCmd = false ∧ issued (inMode .loaded) standCmd = false ∧
    inService (inMode .loaded) 0 = some 1 ∧
    (postDesc standCmd 0 (inMode .loaded)).1 = stDone ∧
    ran (.dmaStand standCmd) (inMode .loaded) (fun t => decide (((hubQOf t 1 28).ring.getLast?).map (·.cmd) = some standCmd)) = true := by
  decide +kernel

/-- Ring 1 of port 0 enabled, 16 entries, slots 0 and 1 posted. -/
def posting : State :=
  putRing 0 1 { ringOf (inMode .idle) 0 1 with state := 1, tail := 2 } (rfput (crCfgKey 0 1) RingCfg.enable 1 (inMode .idle))
def abortCmd : Cmd := cmd (fld 16 1 + fld 18 1 + fld 20 7)

theorem witness_abort : verbIssues 0x12 abortCmd (abortCmd.zero 17 1 && abortCmd.zero 22 42) posting = true ∧
    (ringOf posting 0 1).state = 1 ∧ 1 < crEntries posting 0 1 ∧ (ringOf posting 0 1).flight = [] ∧ posted posting 0 1 1 = true ∧
    (cmdOf (.host 0 1) 1 (BitVec.ofNat 512 (7 * 2 ^ 16))).cmdId = 7 ∧
    ran (.abort abortCmd (BitVec.ofNat 512 (7 * 2 ^ 16))) posting (fun t => ended t stDone && decide (1 ∈ (ringOf t 0 1).skip)) = true ∧
    ran (.abort abortCmd 0) posting (fun t => ended t stAbortNoEffect) = true := by decide +kernel

/-- R542: one record of TYPE 2: revocation of key slot 0, SVN floor 0; its CRC-32C is 0x64DA5DB1. -/
def fuseCmd : Cmd := opCmd (fld 16 16 + fld 20 0x64DA5DB1)
def stagedFuse : State :=
  withSession { inMode .idle with otpStage := smapSetMany memDflt [] 0 [2, 0, 0, 0, 8, 0, 0, 0, 1, 0, 0, 0, 0, 0, 0, 0] }

theorem witness_fuse_write : verbIssues 0x20 fuseCmd (fuseCmd.zero 24 40) stagedFuse = true ∧ fuseLen fuseCmd = 16 ∧
    blankGen (cmdArrives fuseCmd stagedFuse) = some 1 ∧
    crc32c (staged (cmdArrives fuseCmd stagedFuse) 16) = fuseCheck fuseCmd ∧
    contentFault (cmdArrives fuseCmd stagedFuse) 1 (staged (cmdArrives fuseCmd stagedFuse) 16) = none ∧
    ran (.fuseWrite fuseCmd false) stagedFuse (fun t => told t stDone && decide ((fuseOf t 1).state = 1)) = true := by decide +kernel

/-- R542: a record of TYPE 3 with DEBUG_ALLOWED. -/
def debuggable : State := withSession { inMode .idle with
  fuses := [(1, ⟨1, [3, 0, 0, 0, 8, 0, 0, 0, 0xA0, 0x0F, 0, 0, 1, 0, 0, 0]⟩)] }

theorem witness_debug_open : verbIssues 0x21 (opCmd 1440) ((opCmd 1440).zero 18 46) debuggable = true ∧
    debugAllowed (cmdArrives (opCmd 1440) debuggable) = true ∧
    ran (.debugOpen (opCmd 1440)) debuggable (fun t => told t stDone && decide (t.dbg.minutes = some 1440) && t.dbg.ever) = true ∧
    verbIssues 0x22 (opCmd 0) ((opCmd 0).zero 16 48) debuggable = true ∧
    ran (.debugClose (opCmd 0)) debuggable (fun t => told t stDone && decide (t.dbg.minutes = none)) = true := by decide +kernel

theorem witness_selftest : verbIssues 0x23 (opCmd 0) ((opCmd 0).zero 16 48) (withSession (inMode .idle)) = true ∧
    secState (cmdArrives (opCmd 0) (withSession (inMode .idle))) = 1 ∧
    ran (.selftest (opCmd 0) 0) (withSession (inMode .idle)) (fun t => told t stDone && decide (secState t = 1)) = true ∧
    ran (.selftest (opCmd 0) 5) (withSession (inMode .idle)) (fun t => decide (secState t = 3)) = true := by decide +kernel

/-- VMARGIN −50, CLK_RATIO 1,000. -/
def screenCmd : Cmd := opCmd (fld 16 2 + fld 18 0xFFCE + fld 20 1000)
def screening : State := withSession standby

theorem slot_cfg_at_reset : rg (cmdArrives screenCmd screening) ClkSlotCfg.key = BitVec.ofNat 64 Config.slotCeilKhz := rfl

theorem witness_screen_set : verbIssues 0x28 screenCmd (screenCmd.zero 17 1 && screenCmd.zero 22 42) screening = true ∧
    screenRefusal (cmdArrives screenCmd screening) 2 (-50) 1000 = none := by
  refine ⟨by decide +kernel, ?_⟩
  have h : rf (cmdArrives screenCmd screening) ClkSlotCfg.key ClkSlotCfg.khz =
      fldGet ClkSlotCfg.khz (BitVec.ofNat 64 Config.slotCeilKhz) := congrArg (fldGet ClkSlotCfg.khz) slot_cfg_at_reset
  unfold screenRefusal
  rw [h]
  rcases slot_ceilings with g | g | g <;> rw [g] <;> decide +kernel

/-- The operating slot clock is 1.5 GHz, and the ratio 1,001 would go beyond it. -/
def fastClock : State := rfput ClkSlotStatus.key ClkSlotStatus.currentKhz 1500000 screening
def fastCmd : Cmd := opCmd (fld 16 2 + fld 20 1001)

theorem witness_screen_above : verbIssues 0x28 fastCmd (fastCmd.zero 17 1 && fastCmd.zero 22 42) fastClock = true ∧ isPhys 2 = true ∧
    roleOf (cmdArrives fastCmd fastClock) 2 = 2 ∧
    rf (cmdArrives fastCmd fastClock) (IorStandMap.key 2) IorStandMap.parityGroup = 0xFF ∧
    1000 * Config.slotCeilKhz < rf (cmdArrives fastCmd fastClock) ClkSlotStatus.key ClkSlotStatus.currentKhz * 1001 := by
  refine ⟨by decide +kernel, by decide +kernel, by decide +kernel, by decide +kernel, ?_⟩
  rcases slot_ceilings with g | g | g <;> rw [g] <;> decide +kernel

def runCmd : Cmd := opCmd (fld 16 2 + fld 17 1 + fld 32 1)

theorem witness_screen_run : verbIssues 0x29 runCmd (decide (1 ≤ runCmd.num 17 1 ∧ runCmd.num 17 1 ≤ 4 ∧ runCmd.num 18 1 ≤ 1 ∧
      1 ≤ runCmd.num 32 8 ∧ runCmd.num 32 8 ≤ 2 ^ 40) && runCmd.zero 19 5 && runCmd.zero 40 24) screening = true ∧
    roleOf (cmdArrives runCmd screening) 2 = 2 ∧ runCmd.doneEn = false ∧
    ran (.screenRun runCmd 100 3 []) screening (fun t => told t stDone) = true := by decide +kernel

theorem witness_stand_off : verbIssues 0x2A (opCmd 2) (decide ((opCmd 2).num 17 1 ≤ 1) && (opCmd 2).zero 18 46) screening = true ∧
    standPowerRefusal (cmdArrives (opCmd 2) screening) 2 0 = none ∧
    ran (.standPower (opCmd 2)) screening (fun t => decide (t.arb = some (0x2A, opCmd 2)) && decide (roleOf t 2 = 4)) = true := by
  decide +kernel

def standOffState : State := rfput (PwrTile.key 2) PwrTile.state 4 (rfput (IorStandMap.key 2) IorStandMap.role 4 screening)
def onCmd : Cmd := opCmd (fld 16 2 + fld 17 1)

theorem witness_stand_on : verbIssues 0x2A onCmd (decide (onCmd.num 17 1 ≤ 1) && onCmd.zero 18 46) standOffState = true ∧
    standPowerRefusal (cmdArrives onCmd standOffState) 2 1 = none ∧
    entrySides (cmdArrives onCmd standOffState) (fun q => roleOf (cmdArrives onCmd standOffState) q = 1 ||
      roleOf (cmdArrives onCmd standOffState) q = 2) 2 ≠ [] := by decide +kernel

theorem witness_bring_up_cold : verbIssues 0x2B (opCmd 0) (decide ((opCmd 0).num 16 1 ≤ 1) && (opCmd 0).zero 17 47) screening = true ∧
    bringRuns (cmdArrives (opCmd 0) screening) = false ∧ (cmdArrives (opCmd 0) screening).mode ≠ .none ∧
    (cmdArrives (opCmd 0) screening).power.inputFault = false := by decide +kernel

def wasUp : State := rfput IorBringupStatus.key IorBringupStatus.kind 1 (rfput IorBringupStatus.key IorBringupStatus.result 1 screening)

theorem witness_bring_up_warm : verbIssues 0x2B (opCmd 1) (decide ((opCmd 1).num 16 1 ≤ 1) && (opCmd 1).zero 17 47) wasUp = true ∧
    bringRuns (cmdArrives (opCmd 1) wasUp) = false ∧
    rf (cmdArrives (opCmd 1) wasUp) IorBringupStatus.key IorBringupStatus.kind ≠ 0 ∧ bringResult (cmdArrives (opCmd 1) wasUp) ≠ 3 ∧
    ran (.bringUp (opCmd 1)) wasUp (fun t => decide (t.bring.kind = 2) && decide (t.mode = .none)) = true := by decide +kernel

def routed : State := withSession { standby with mode := .loaded, image := parityImage }
def groupCmd : Cmd := opCmd (fld 16 2 + fld 17 1)

theorem witness_assign_parity : verbIssues 0x2C groupCmd (groupCmd.zero 18 46) routed = true ∧
    parityRefusal (cmdArrives groupCmd routed) 2 1 = none ∧
    ran (.assignParity groupCmd) routed (fun t => told t stDone &&
      decide (rf t (IorStandMap.key 2) IorStandMap.parityGroup = 1) && decide (rf t (RgrPar.key 1) RgrPar.standby = 2)) = true := by
  decide +kernel

theorem witness_single_end :
    ran (.singleStandTestEnd 2 []) { standby with bring := { standby.bring with single := [2] } } (fun t => !t.bring.single.contains 2) = true := by
  decide +kernel

theorem witness_role_denied : (cmd 0).fromHost = true ∧ (∀ code, heldBack (inMode .idle) code (cmd 0) = false) ∧
    fetchedBefore (inMode .idle) (cmd 0) = [] ∧
    ran (.bringUp (cmd 0)) (inMode .idle) (fun t => ended t stRoleDenied) = true ∧
    ran (.screenRun (cmd 0) 0 0 []) (inMode .idle) (fun t => ended t stRoleDenied) = true := by
  refine ⟨by decide +kernel, fun code => ?_, by decide +kernel, by decide +kernel, by decide +kernel⟩
  have h : earlier (inMode .idle) (cmd 0) = [] := by decide +kernel
  unfold heldBack
  rw [h]
  simp

theorem witness_retirement : isOrphan (putRing 0 0 { ringOf base 0 0 with flight := [cmd 0] } base) (cmd 0) = false ∧ (cmd 0).doneEn = false ∧
    (ringOf (putRing 0 0 { ringOf base 0 0 with flight := [cmd 0] } base) 0 0).flight = [cmd 0] := by decide +kernel

/-! ### Bring-up events -/

theorem witness_cold_auto : fwVerified bare = true ∧ bare.bring.kind = 0 ∧ bringPhase bare = 0 ∧ bare.mode = .none := by decide +kernel

def coldRun (ph : Nat) : State :=
  rfput IorBringupStatus.key IorBringupStatus.phase ph { bare with bring := { bare.bring with kind := 1 } }

theorem witness_busbar_timeout : (coldRun 1).power.busbarOk = false ∧ ran .busbarWaitTimeout (coldRun 1) (fun t =>
    decide (t.bring.kind = 0) && decide (bringResult t = 3) && decide (t.reportSeq = (coldRun 1).reportSeq + 1)) = true := by decide +kernel

theorem witness_warm_timeout : ran .warmRestartTimeout { bare with bring := { bare.bring with kind := 2 } } (fun t =>
    decide (t.bring.kind = 0) && decide (t.mode = .none) && decide (bringResult t = 3)) = true := by decide +kernel

def heating : State := rfput (PwrTile.key 2) PwrTile.state 2 { coldRun 2 with bring := { (coldRun 2).bring with heat := [2] } }

theorem witness_heat_end : ran (.heatEnd []) heating (fun t => t.bring.entered.contains 2) = true := by decide +kernel

theorem witness_training_limit : heating.bring.heat = [2] ∧ isPhys 2 = true ∧ tileState heating 2 = 2 ∧
    rf heating (DslStatus.key 2 63) DslStatus.state = 0 := by decide +kernel

theorem witness_retention : bringPhase (coldRun 4) = 4 ∧ ran (.retentionHoldEnd []) (coldRun 4) (fun t =>
    decide (t.bring.patterns = 1) && decide (bringPhase t = 4)) = true ∧
    ran (.retentionHoldEnd []) { coldRun 4 with bring := { (coldRun 4).bring with patterns := 2 } } (fun t =>
      decide (t.bring.patterns = 3) && decide (bringPhase t = 4)) = true := by decide +kernel

theorem witness_march : bringPhase (coldRun 3) = 3 ∧ ran (.bringupPhaseComplete (.march [⟨2, 0, 0, 0, false⟩])) (coldRun 3) (fun t =>
    decide (bringPhase t = 4) && decide (t.bring.failed.length = 1)) = true := by decide +kernel

theorem witness_slice_training : rf heating (DslStatus.key 2 0) DslStatus.state = 0 ∧
    ran (.bringupPhaseComplete (.sliceTraining 2 0)) heating (fun t => decide (rf t (DslStatus.key 2 0) DslStatus.state = 1)) = true := by
  decide +kernel

/-! ### Rings -/

theorem witness_doorbells : (15 : BitVec 16).toNat < crEntries posting 0 1 ∧ crState (ringOf posting 0 1) = 1 ∧
    ran (.commandRingDoorbell 0 1 15) posting (fun t => decide ((ringOf t 0 1).tail = 15)) = true ∧
    ran (.completionRingDoorbell 0 1 15) posting (fun t => decide ((ringOf t 0 1).ccHead = 15)) = true ∧
    crEntries posting 0 1 ≤ (16 : BitVec 16).toNat ∧
    ran (.commandRingDoorbell 0 1 16) posting (fun t => decide ((ringOf t 0 1).tail = 2) &&
      decide (rf t (IorErr.key (errIndex stDescInvalid)) IorErr.count = 1)) = true ∧
    crState (ringOf posting 0 2) = 0 ∧
    ran (.commandRingDoorbell 0 2 1) posting (fun t => decide ((ringOf t 0 2).tail = 0) &&
      decide (rf t (IorErr.key (errIndex stBadState)) IorErr.count = 1)) = true := by decide +kernel

def eventful : State := rfput (evqCfgKey 0) RingCfg.enable 1 base

theorem witness_event_doorbell : fldGet RingCfg.enable (rg eventful (evqCfgKey 0)) = 1 ∧ (3 : BitVec 16).toNat < ringEntries (rg eventful (evqCfgKey 0)) ∧
    ran (.eventRingDoorbell 0 3) eventful (fun t => decide ((portOf t 0).evq.head = 3)) = true := by decide +kernel

def serving : State := { putGring 0 2 { gringOf base 0 2 with state := 1, tail := 1 } (rfput (gqCfgKey 0 2) RingCfg.enable 1 base) with
  mode := .running, image := serviceImage }

def upPort (p : Nat) (s : State) : State := putPort p { portOf s p with linkUp := true } s

theorem witness_gulem_doorbells : (15 : BitVec 16).toNat < gqEntries serving 0 2 ∧ gqState serving 0 2 = 1 ∧
    ran (.gulemRequestDoorbell 0 2 15) serving (fun t => decide ((gringOf t 0 2).tail = 15)) = true ∧
    ran (.gulemStatusDoorbell 0 2 15) serving (fun t => decide ((gringOf t 0 2).head = 15)) = true := by decide +kernel

theorem witness_command_fetch : rangerRuns (upPort 0 posting) 0 = true ∧ fetchable (upPort 0 posting) 0 1 = true ∧
    fetchable (upPort 0 posting) 0 0 = false ∧ (ringOf (upPort 0 posting) 0 1).skip = [] ∧ reservedVerb 2 = false ∧
    ran (.commandFetch 0 2) (upPort 0 posting) (fun t => decide ((ringOf t 0 1).sqHead = 1) &&
      decide ((ringOf t 0 1).flight.length = 1) && decide ((portOf t 0).turn = 2)) = true := by decide +kernel

/-- R347: a record of command 7 with ST_DONE at the first slot of a completion ring at host address 0x1000. -/
def retiring : State := upPort 0 (putRing 0 1 { ringOf posting 0 1 with done := [⟨.host 0 1, 7, stDone, 0, 0, 0, false, false, false, false⟩] }
  (rput (ccBaseKey 0 1) 0x1000 posting))

theorem witness_command_retire : (ringOf retiring 0 1).done.length = 1 ∧ (portOf retiring 0).linkUp = true ∧
    (ringOf retiring 0 1).ccUsed < crEntries retiring 0 1 ∧ (ringOf retiring 0 1).reserved = [] ∧
    ran (.commandRetire 0 1) retiring (fun t => decide ((ringOf t 0 1).done = []) && decide ((ringOf t 0 1).ccPos = 1) &&
      decide (smapGetMany memDflt t.hostMem 0x1000 8 = [7, 0, 0, 0, 0, 0, 1, 1])) = true := by decide +kernel

theorem witness_ring_enable : passes (.host 0) true (crCfgKey 0 1) base ∧ fldGet RingCfg.enable (rg base (crCfgKey 0 1)) = 0 ∧
    ran (.ringEnable 0 1 0x80040000) base (fun t => decide ((ringOf t 0 1).state = 1) && (ringOf t 0 1).phase) = true := by
  unfold passes
  decide +kernel

theorem witness_ring_disable : passes (.host 0) true (crCfgKey 0 1) posting ∧ fldGet RingCfg.enable (rg posting (crCfgKey 0 1)) = 1 ∧
    ran (.ringDisable 0 1) posting (fun t => decide ((ringOf t 0 1).state = 2) &&
      decide (fldGet RingCfg.enable (rg t (crCfgKey 0 1)) = 0)) = true := by
  unfold passes
  decide +kernel

/-! ### CXL ports -/

theorem witness_port_requests : (portOf (upPort 0 base) 0).linkUp = true ∧ ideMissing (upPort 0 base) 0 = false ∧
    ran (.cxlMemRequest 0 true 0 ⟨0, []⟩ (List.replicate 64 9) 64) (upPort 0 base) (fun t =>
      decide ((portOf t 0).reqs.length + (portOf t 0).answers.length = 1)) = true ∧
    ran (.uioWrite 0 0 (List.replicate 64 9)) (upPort 0 base) (fun t => decide ((portOf t 0).reqs.length + (portOf t 0).answers.length = 1)) = true ∧
    ran (.uioRead 0 0 64) (upPort 0 base) (fun t => decide ((portOf t 0).reqs.length + (portOf t 0).answers.length = 1)) = true := by decide +kernel

def cabled : State := putPort 0 { portOf locked 0 with cprsnt := true, perst := false } locked

theorem witness_link_trained : (portOf cabled 0).linkUp = false ∧ (portOf cabled 0).perst = false ∧ (portOf cabled 0).cprsnt = true ∧
    cabled.ringClk.refOk = true ∧ ran (.linkTrained 0 1 8 false) cabled (fun t => (portOf t 0).linkUp &&
      decide (fldGet IorPortStatus.speed (portOf t 0).status = 1) && decide (fldGet IorPortStatus.width (portOf t 0).status = 8)) = true ∧
    ran (.linkTrained 0 2 16 true) cabled (fun t => (portOf t 0).linkUp) = true ∧
    ran (.linkTrained 0 3 16 true) cabled (fun t => !(portOf t 0).linkUp) = true := by decide +kernel

theorem witness_link_down : ran (.linkDown 0) (upPort 0 eventful) (fun t => !(portOf t 0).linkUp && decide ((portOf t 0).ideKey = 0) &&
    decide (fldGet RingCfg.enable (rg t (evqCfgKey 0)) = 0)) = true ∧
    ran (.perst 0 true) (upPort 0 base) (fun t => (portOf t 0).perst && !(portOf t 0).linkUp) = true ∧
    ran (.cprsnt 0) (upPort 0 cabled) (fun t => !(portOf t 0).cprsnt && !(portOf t 0).linkUp) = true ∧
    ran (.peerPostedWrite 0 0) (upPort 0 base) (fun t => decide ((portOf t 0).refused = 1)) = true := by decide +kernel

def waitingRead : State := putPort 0 { portOf (inMode .idle) 0 with
  linkUp := true, nextId := 1, reads := [⟨5, 0, 0x40, 64, none⟩],
  copies := [⟨0, cmd (fld 17 3 + fld 40 64), 0, 64, 0, none, [(6, 0x40)], false, none, none⟩] } (inMode .idle)

theorem witness_completions : (portOf base 0).reads.find? (fun x => x.tag = 5 && x.data.isNone) = none ∧
    ran (.hostCompletionArrival 0 5 .success 0 []) base (fun t => decide (rf t (IorPortCount.key 0) IorPortCount.late = 1)) = true ∧
    ((portOf waitingRead 0).reads.find? (fun x => x.tag = 5 && x.data.isNone)).map (·.job) = some 0 ∧ (jobOf waitingRead 0 0).isSome = true ∧
    ran (.hostCompletionArrival 0 5 .abort 0 []) waitingRead (fun t => ended t stCxlCompleterErr) = true ∧
    ran (.completionTimeout 0 5) waitingRead (fun t => decide (jobOf t 0 0 = none)) = true ∧
    ((portOf waitingRead 0).copies.find? (fun j => j.uio.any (fun x => x.1 = 6))).bind (fun j => j.uio.find? (fun x => x.1 = 6)) =
      some (6, 0x40) ∧
    ran (.uioWriteCompletion 0 ⟨6, .abort⟩) waitingRead (fun t => ended t stCxlCompleterErr) = true ∧
    (portOf waitingRead 0).copies.find? (fun j => j.uio.any (fun x => x.1 = 7)) = none ∧ lsPort waitingRead = 0 ∧
    ran (.uioWriteCompletion 0 ⟨7, .abort⟩) { waitingRead with lsOn := { waitingRead.lsOn with sends := [(3, false, [7])] } }
      (fun t => decide (t.lsOn.sends = []) && decide (t.reportSeq = waitingRead.reportSeq + 1)) = true := by decide +kernel

theorem witness_config_space : (decoderOf base 0 1).committed = false ∧ decoderOk 2 6 = true ∧
    ran (.configSpaceAccess 0 (.decoder 1 0 0x10000000 0 2 6 true)) base (fun t => (decoderOf t 0 1).committed) = true ∧
    ran (.configSpaceAccess 0 (.completionTimeout 6)) base (fun t => decide ((portOf t 0).timeout = 6)) = true := by decide +kernel

/-- Port 0's link is up, its decoder 0 maps host addresses from 0 to device address 0, and stand 1, which faces its crescent, is
powered. -/
def mapped : State := rfput (PwrTile.key 1) PwrTile.state 2
  (upPort 0 { base with decoders := smapSet decoderDflt base.decoders 0 ⟨0, 0x10000000, 0, 0, 0, true⟩ })

theorem witness_one_slot : (portOf mapped 0).linkUp = true ∧ (portOf mapped 0).reqs = [] ∧ pieceAddr mapped 0 0 = 0 ∧
    portReach mapped 0 (.dram 1 0 0) = true ∧ placeOf mapped 0 64 = .dram 1 0 0 ∧
    (dramRead 1 0 0 64 mapped).1 = some (List.replicate 64 0) ∧ (portOf mapped 0).lines.length < 1048576 ∧
    ideMissing mapped 0 = false ∧ dramWritable mapped 0 0 = true ∧ mergeFault mapped (dramKey 1 0 0) 64 = none ∧
    ran (.uioRead 0 0 64) mapped (fun t => decide ((portOf t 0).answers = [⟨0, false, [⟨0, 64, List.replicate 64 0, 1⟩], watchesOn mapped, 0⟩])) = true ∧
    ran (.cxlMemRequest 0 true 0 ⟨0, []⟩ (List.replicate 64 9) 64) mapped (fun t =>
      decide (memByte t (dramKey 1 0 0 + 63) = 9)) = true := by decide +kernel

/-- R572: the first word of the slot is bad, and a read of it is held. -/
def holding : State := putPort 0 { portOf mapped 0 with reqs := [⟨0, false, [⟨0, 64, [], 0⟩], [], 0⟩] }
  { mapped with upset := smapSet upsetDflt mapped.upset (dramKey 1 0 0 / 8) (BitVec.ofNat 80 7) }

theorem witness_hold_expired : (portOf holding 0).reqs = [⟨0, false, [⟨0, 64, [], 0⟩], [], 0⟩] ∧
    stillHeld holding false ⟨0, 64, [], 0⟩ = true ∧
    ran (.hostHoldExpired 0) holding (fun t => decide ((portOf t 0).reqs = []) &&
      decide ((portOf t 0).answers = [⟨0, false, [⟨0, 64, List.replicate 64 0xFF, 2⟩], [], 0⟩])) = true := by decide +kernel

/-! ### Gulem -/

theorem witness_gulem_fetch : gulFetching (upPort 0 serving) = true ∧ rangerRuns (upPort 0 serving) 0 = true ∧
    (List.map (fun i => (gulTurn (upPort 0 serving) 0 + i) % 16) (List.range 16)).find? (gqFetchable (upPort 0 serving) 0) = some 2 ∧
    ran (.gulemRequestFetch 0 1 [] none) (upPort 0 serving) (fun t => decide (t.gul.reqs.length = 1) &&
      decide ((gringOf t 0 2).sqHead = 1)) = true := by decide +kernel

theorem witness_gulem_boundary : (imgService serving.image).map (fun v => (v.blazeEvery, serving.gul.step % v.blazeEvery)) = some (2, 1) ∧
    serving.gul.waiting = false ∧ serving.draining = false ∧ (List.range 4).all (rangerRuns serving) = true ∧
    ran (.gulemBoundary []) serving (fun t => decide (t.gul.step = 2) && decide (t.mode = .running)) = true := by decide +kernel

/-! ### Slots, batons and heartbeats -/

theorem witness_slot_boundary : 1 ∈ servicePhys live ∧ (standOf live 1).started = true ∧
    (standOf { live with lapLen := 4 } 1).pos < 4 ∧
    ran (.slotBoundary [] []) { live with lapLen := 4 } (fun t => decide ((standOf t 1).slots = 1)) = true := by decide +kernel

def gate : ArrayLoc := ⟨0, 1, 0⟩

theorem witness_baton : inService live 0 = some 1 ∧ isMemIdx (arrIdx 1 0) = false ∧
    rf live (CaStatus.key 1 1) CaStatus.arrayState ≠ 4 ∧ (arrOf live (arrKey 1 1)).btnIn.length < 4 ∧
    batonTag 0x0042 = rf live (CaBtnState.key 1 1) CaBtnState.inNext ∧
    ran (.batonInArrival gate 0x0042) live (fun t => decide ((arrOf t (arrKey 1 1)).btnIn = [0x0042]) &&
      decide (rf t (CaBtnState.key 1 1) CaBtnState.inNext = 1)) = true ∧
    batonTag 0x0342 ≠ rf live (CaBtnState.key 1 1) CaBtnState.inNext ∧
    ran (.batonInArrival gate 0x0342) live (fun t => decide ((arrOf t (arrKey 1 1)).btnIn = []) &&
      decide (rf t (CaBtnError.key 1 1) CaBtnError.received = 3)) = true := by decide +kernel

/-- R143: a fifth baton finds the queue full and waits at the node, port 6 of node 0. -/
def fullQueue : State := putArr (arrKey 1 1) { arrOf live (arrKey 1 1) with btnIn := [0, 0x100, 0x200, 0x300] } live

theorem witness_baton_waits : ¬(arrOf fullQueue (arrKey 1 1)).btnIn.length < 4 ∧ (arrOf live (arrKey 1 1)).btnCame = false ∧
    live.moves = [] ∧
    ran (.batonInArrival gate 0x0442) fullQueue (fun t => decide (t.moves = [⟨nodeKey 1 0, 6, false, true, 0, 0, 0x0442, 0⟩]) &&
      decide ((arrOf t (arrKey 1 1)).btnIn.length = 4)) = true := by decide +kernel

/-- R143: IN_NEXT wraps from 255 to 0. -/
theorem test_baton_wraps : ran (.batonInArrival gate 0xFF00) (rfput (CaBtnState.key 1 1) CaBtnState.inNext 255 live)
    (fun t => decide (rf t (CaBtnState.key 1 1) CaBtnState.inNext = 0) &&
      decide ((arrOf t (arrKey 1 1)).btnIn = [0xFF00])) = true := by decide +kernel

def late : State := putStage place.key { stageOf live place.key with late := 257 } live

theorem witness_no_completion : locOf late stg = some place ∧ overrunLimit late 1 1 < (stageOf late place.key).late ∧
    ran (.arrayNoCompletion ⟨stg, 3⟩) late (fun t => decide (rf t (CaStatus.key 1 1) CaStatus.arrayState = 4) &&
      decide (rf t (CaStageStatus.key 1 1 0) CaStageStatus.state = 3) &&
      decide (rf t (CaStageStatus.key 1 1 0) CaStageStatus.lanes = 3)) = true := by decide +kernel

def beating : State := putArr (arrKey 1 1) { arrOf live (arrKey 1 1) with lapsBeat := 3 }
  (rfput (CaHeartbeat.key 1 1) CaHeartbeat.tally 0xE005 (rfput (CaHeartbeat.key 1 1) CaHeartbeat.period 3 live))

theorem witness_heartbeat : rf beating (CaHeartbeat.key 1 1) CaHeartbeat.period = 3 ∧ (arrOf beating (arrKey 1 1)).lapsBeat = 3 ∧
    (arrOf beating (arrKey 1 1)).routeOut = none ∧
    ran (.heartbeat gate) beating (fun t => decide ((arrOf t (arrKey 1 1)).lapsBeat = 0) &&
      (arrOf t (arrKey 1 1)).routeOut.isSome) = true := by decide +kernel

theorem witness_heartbeat_check : { live with image := beatImage }.mode = .running ∧ rangerRuns { live with image := beatImage } 0 = true ∧
    ran .heartbeatCheck { live with image := beatImage } (fun t => decide (t.hbs.length = 1)) = true := by decide +kernel

/-! ### Hubs -/

/-- A descriptor of an operation that has nothing left to read or write, on queue 3 of stand 1, an engine of class 3. -/
def doing (op : Byte) (r : Option Status) : State :=
  putHubQ 1 3 { HubQ.init with exec := some ⟨op :: List.replicate 63 0, 0, 0, .none, .none, .none, 0, [], [], 0, none, r, 0, 0, 0, none, [], 0, [], 0, [], none, none⟩ }
    (rfput (HubQCfg.key 1 3) HubQCfg.cls 3 live)

/-- A descriptor of 64 bytes, given as a number, in execution on queue 3 of stand 1, from handle 0 at address 0 to 4096. -/
def working (n : Nat) (f : Exec → Exec) : Exec :=
  f ⟨bytesLE 64 n, 0, 0, ⟨true, 0, 0, 4096⟩, ⟨true, 0, 4096, 4096⟩, .none, 0, [], [], 0, none, none, 0, 0, 0, none, [], 0, [], 0, [], none, none⟩
def at3 (e : Exec) : State := putHubQ 1 3 { HubQ.init with exec := some e } live

/-- It is ready, and its destination takes 64 bytes, so the row ends it ST_DONE with `n` bytes moved. -/
def completes (i : Instr) (e : Exec) (n : Nat) : Bool :=
  execOf (at3 e) 1 3 == some e && e.result.isNone && e.posts.isEmpty && e.stuckAt.isNone && !throttled (at3 e) 1 && e.dstSel == 0 &&
  ran i (at3 e) (fun t => ((execOf t 1 3).map (fun x => decide (x.result = some stDone ∧ x.moved = n))) == some true)
def answers (x : SlotEnd × State) : Bool := match x.1 with
  | .done _ => true
  | _ => false

/-- OP 0x20, source handle 0, destination handle 1, V 16, at slot 5 of descriptor memory; queue 3 Loops over slots 5 to 5. -/
def examining : State :=
  let h (n addr : Nat) (s : State) : State := rput (HubHdlLen.key 1 n) (fldOf HubHdlLen.length 4096)
    (rput (HubHdlAddr.key 1 n) (fldSet HubHdlAddr.valid (fldOf HubHdlAddr.addr addr) 1) s)
  putDesc 1 320 (bytesLE 64 (0x20 + 2 ^ 144 + 16 * 2 ^ 192)) (h 0 0 (h 1 4096 (rfput (HubQState.key 1 3) HubQState.next 5
    (rput (HubQCfg.key 1 3) (fldSet HubQCfg.mode (fldSet HubQCfg.cls (fldSet HubQCfg.last (fldOf HubQCfg.first 5) 5) 5) 2) live))))

theorem witness_hub_cycle : roleOf examining 1 = 1 ∧ (List.range 32).all (fun r => (execOf examining 1 r).isNone) = true ∧
    (List.range 32).filter (queueExamines examining 1) = [3] ∧ qClass examining 1 3 = 5 ∧ qIndex examining 1 3 = 0 ∧
    (execAt examining 1 5).op = 0x20 ∧ descOk (execAt examining 1 5).desc = true ∧ issueFault examining (execAt examining 1 5) = none ∧
    ran (.hubCycle 1) examining (fun t => decide (rf t (HubQState.key 1 3) HubQState.state = 2) &&
      decide ((execOf t 1 3).map (·.slot) = some 5)) = true ∧
    roleOf examining 2 = 0 := by decide +kernel

/-- R282: 64 bytes of one row. -/
theorem witness_copy : completes (.copy 1 3) (working (1 + 64 * 2 ^ 224) id) 64 = true ∧
    copyAway (at3 (working (1 + 64 * 2 ^ 224) id)) 1 (working (1 + 64 * 2 ^ 224) id) = false ∧
    answers (engRead 1 3 0 64 0 live) = true ∧ answers (engWrite 1 3 4096 0 (List.replicate 64 0) live) = true := by decide +kernel

/-- R285: one row of 64 bytes, of a table of five; its index -1, or 2. -/
def gather (ix : List Byte) : Exec :=
  working (0x10 + 64 * 2 ^ 192 + 2 ^ 224 + 64 * 2 ^ 416 + 5 * 2 ^ 448) (fun e => { e with buf := ix, bufAt := 1 })
theorem witness_gather_rows : completes (.gatherRows 1 3) (gather [0xFF, 0xFF, 0xFF, 0xFF]) 64 = true ∧
    natSigned 32 (numAt (gather [0xFF, 0xFF, 0xFF, 0xFF]).buf 0 4) = -1 ∧
    completes (.gatherRows 1 3) (gather [2, 0, 0, 0]) 64 = true ∧ answers (engRead 1 3 128 64 0 live) = true := by decide +kernel

/-- R286: one position of 64 bytes, on page 0. -/
theorem witness_gather_pages : completes (.gatherPages 1 3)
    (working (0x11 + 64 * 2 ^ 192 + 2 ^ 224) (fun e => { e with buf := [0, 0, 0, 0, 0, 0, 0, 0x80], bufAt := 1 })) 64 = true := by
  decide +kernel

/-- R288: one logit, 1.0, of a vocabulary of one: token 0. -/
theorem witness_sample : completes (.sample 1 3) (working (0x20 + 2 ^ 192) (fun e => { e with work := [0, 0, 0x80, 0x3F], workAt := 1 })) 16 = true ∧
    (sampleOf (bytesLE 64 (0x20 + 2 ^ 192)) [decodeElem 0 0x3F800000]).isSome = true := by decide +kernel

/-- R289: the last bytes of a transpose; rows of nibbles and of words. -/
theorem witness_transpose : completes (.transpose 1 3) (working 0x30 (fun e => { e with pos := 1, out := [(0, List.replicate 64 9)] })) 64 = true ∧
    packRow 4 [1, 2, 3, 4] = [0x21, 0x43] ∧ packRow 16 [0x1234] = [0x34, 0x12] := by decide +kernel

/-- R291: sixteen FP32 elements of one partial. -/
theorem witness_reduce : completes (.reduce 1 3) (working (0x40 + 2 ^ 176 + 16 * 2 ^ 224)
      (fun e => { e with pos := 1, buf := bytesLE 8 0, work := List.replicate 64 0, workAt := 1 })) 64 = true ∧
    (partialSlots (working (0x40 + 2 ^ 176 + 16 * 2 ^ 224) (fun e => { e with buf := bytesLE 8 0 }))).length = 1 := by decide +kernel

theorem witness_retire : ((execOf (doing 0x01 (some stDone)) 1 3).bind (·.result)) = some stDone ∧ isPhys 1 = true ∧
    qClass (doing 0x01 (some stDone)) 1 3 = 3 ∧ qIndex (doing 0x01 (some stDone)) 1 3 = 0 ∧
    ((execOf (doing 0x01 (some stDone)) 1 3).map (fun e => natBit (numAt e.desc 1 1) 1)) = some false ∧
    ran (.descriptorRetire 1 3 stDone) (doing 0x01 (some stDone)) (fun t => decide (execOf t 1 3 = none) &&
      decide (rf t (HubQState.key 1 3) HubQState.state = 0)) = true ∧
    ran (.descriptorRetire 1 3 stHandleRange) (doing 0x01 (some stHandleRange)) (fun t => decide (execOf t 1 3 = none) &&
      decide (rf t (HubQState.key 1 3) HubQState.state = 3) &&
      decide (rf t (HubQState.key 1 3) HubQState.lastStatus = stHandleRange.toNat)) = true := by decide +kernel

theorem witness_refresh : isPhys 1 = true ∧ rf live (DslScrub.key 1 63) DslScrub.position < 10485760 ∧
    ran (.dramRefresh 1 63 0) live (fun t => decide (rf t (DslScrub.key 1 63) DslScrub.position = 1) &&
      decide (rf t (DslCount.key 1 63) DslCount.refreshes = 1)) = true ∧
    ran (.dramRefresh 1 0 0) (rfput (DslScrub.key 1 0) DslScrub.position 10485759 live) (fun t =>
      decide (rf t (DslScrub.key 1 0) DslScrub.position = 0) && decide (rf t (DslScrub.key 1 0) DslScrub.passes = 1)) = true ∧
    rf (rfput (DslStatus.key 1 5) DslStatus.state 2 live) (DslStatus.key 1 5) DslStatus.state = 2 ∧
    ran (.dramRefresh 1 5 0) (rfput (DslStatus.key 1 5) DslStatus.state 2 live) (fun t =>
      decide (rf t (DslScrub.key 1 5) DslScrub.position = 0) && decide (rf t (DslCount.key 1 5) DslCount.refreshes = 1)) = true := by
  decide +kernel

/-! ### Service mesh -/

/-- A source at the hub's router, which is the destination of the stand's DRAM requests. -/
def hubSrc : MeshSrc := ⟨1, 64, 9⟩

/-- The same at a Ranger's router, and at the patch router of the memory array M(1,1). -/
def ringSrc : MeshSrc := ⟨1, 67, 9⟩
def memSrc : MeshSrc := ⟨1, 0, 9⟩

theorem arrives_of (src : MeshSrc) (k : SvcKind) (s : State) (d : Nat) (h : (svcDest (svcNote src k s) k).toOption = some d)
    (r : reachable (svcNote src k s) (routerId src.stand.toNat src.router.toNat) d = true) : arrives src k s := by
  refine ⟨d, ?_, r⟩
  cases e : svcDest (svcNote src k s) k with
  | error => rw [e] at h; simp [Except.toOption] at h
  | ok x => rw [e] at h; simp [Except.toOption] at h; rw [h]

theorem witness_dram_read : arrives hubSrc (.read 0 0 63) live ∧
    placeOf (svcNote hubSrc (.read 0 0 63) live) 0 64 = .dram 1 0 0 ∧
    (dramRead 1 0 0 64 (svcNote hubSrc (.read 0 0 63) live)).1 = some (List.replicate 64 0) ∧
    ran (.readRequest hubSrc 0 0 63) live (fun t => answered t hubSrc == some (.data 0)) = true :=
  ⟨arrives_of _ _ _ 192 (by decide +kernel) (by decide +kernel), by decide +kernel⟩

theorem witness_sram_read : arrives memSrc (.read 2 0x800002080000 63) live ∧
    placeOf (svcNote memSrc (.read 2 0x800002080000 63) live) 0x800002080000 64 = .sram 1 65 0 ∧
    (match (extRead 1 65 0 64 2 (svcNote memSrc (.read 2 0x800002080000 63) live)).1 with
      | .done bs => bs == List.replicate 64 0
      | _ => false) = true ∧
    ran (.readRequest memSrc 2 0x800002080000 63) live (fun t => answered t memSrc == some (.data 0)) = true :=
  ⟨arrives_of _ _ _ 128 (by decide +kernel) (by decide +kernel), by decide +kernel⟩

/-- R167: a TAGGED read of an EMPTY slot is held. -/
theorem test_tagged_read_held : ran (.readRequest memSrc 0 0x800002080000 63) live (fun t => answered t memSrc == none &&
    (svcOf t memSrc).isSome) = true := by decide +kernel

theorem witness_dram_write : arrives hubSrc (.write 0 0 63 77) live ∧
    placeOf (svcNote hubSrc (.write 0 0 63 77) live) 0 64 = .dram 1 0 0 ∧
    dramWritable (svcNote hubSrc (.write 0 0 63 77) live) 0 0 = true ∧ mergeFault live (dramKey 1 0 0) 64 = none ∧
    ran (.writeRequest hubSrc 0 0 63 77) live (fun t => answered t hubSrc == some .done &&
      decide (memByte t (dramKey 1 0 0) = 77)) = true :=
  ⟨arrives_of _ _ _ 192 (by decide +kernel) (by decide +kernel), by decide +kernel⟩

theorem witness_sram_write : arrives memSrc (.write 0 0x800002080000 63 77) live ∧
    placeOf (svcNote memSrc (.write 0 0x800002080000 63 77) live) 0x800002080000 64 = .sram 1 65 0 ∧
    (match (extWrite 1 65 0 0 ((vecBytes 77).take 64) (svcNote memSrc (.write 0 0x800002080000 63 77) live)).1 with
      | .done bs => bs == []
      | _ => false) = true ∧
    ran (.writeRequest memSrc 0 0x800002080000 63 77) live (fun t => answered t memSrc == some .done &&
      decide (memByte t (sramKey 1 65 0) = 77)) = true :=
  ⟨arrives_of _ _ _ 128 (by decide +kernel) (by decide +kernel), by decide +kernel⟩

theorem witness_tally_increment : arrives hubSrc (.tally 5 3) live ∧ (tallyPlace live 5).toOption = some (false, 1, 5) ∧
    ran (.tallyIncrement hubSrc 5 3) live (fun t => answered t hubSrc == some .acked &&
      decide (tallyCount t (false, 1, 5) = 3)) = true :=
  ⟨arrives_of _ _ _ 192 (by decide +kernel) (by decide +kernel), by decide +kernel⟩

def asked (src : MeshSrc) (k : SvcKind) : State := svcNote src k live

theorem witness_atomic : (svcOf (asked hubSrc (.atomic .addI 4 7 0)) hubSrc).isSome = true ∧
    arrives hubSrc (.atomic .addI 4 7 0) (asked hubSrc (.atomic .addI 4 7 0)) ∧
    placeOf (asked hubSrc (.atomic .addI 4 7 0)) 4 4 = .dram 1 0 4 ∧
    dramWritable (asked hubSrc (.atomic .addI 4 7 0)) 4 4 = true ∧
    (dramRead 1 0 4 4 (asked hubSrc (.atomic .addI 4 7 0))).1 = some [0, 0, 0, 0] ∧
    ran (.atomicRequest hubSrc .addI 4 7 stg 0) (asked hubSrc (.atomic .addI 4 7 0)) (fun t => answered t hubSrc == some .acked &&
      decide (memByte t (dramKey 1 0 4) = 7)) = true :=
  ⟨by decide +kernel, arrives_of _ _ _ 192 (by decide +kernel) (by decide +kernel), by decide +kernel⟩

/-- R180: the memory array M(1,1) with its three generators UNTAGGED. -/
def untagged : State := [0, 1, 2].foldl (fun s g => rfput (MaGenCfg.key 1 65 g) MaGenCfg.form 2 s) live

theorem witness_post : arrives memSrc (.post ⟨0, 1, 1⟩ 4 7 true 2) untagged ∧ inService untagged 0 = some 1 ∧
    arrState untagged 1 65 ≠ 5 ∧ postGens untagged 1 65 true = [0, 1, 2] ∧ (memArrOf untagged 1 65).sb = [] ∧
    ran (.post memSrc ⟨0, 1, 1⟩ 4 7 true 2) untagged (fun t => answered t memSrc == some .posted &&
      decide ((memArrOf t 1 65).sb = [⟨memSrc, 66, [0, 1, 2], 4, 7, true, false, false⟩])) = true :=
  ⟨arrives_of _ _ _ 128 (by decide +kernel) (by decide +kernel), by decide +kernel⟩

/-- SEAM_CFG of stand 1, side 0, by its set-up address. -/
def seamAddr : BitVec 48 := BitVec.ofNat 48 (SeamCfg.key 1 0)

theorem witness_other_requests : arrives ringSrc (.record stDone 0 0 0) live ∧ arrives ringSrc (.mgmt 5) live ∧
    arrives hubSrc (.tallyWait 5 0) live ∧ reached (tallyCount live (false, 1, 5)) 0 = true ∧
    ran (.record ringSrc stDone 0 0 0) live (fun t => answered t ringSrc == some .acked && decide (t.reportSeq = live.reportSeq + 1)) = true ∧
    ran (.mgmt ringSrc 5) live (fun t => answered t ringSrc == some .acked && decide (t.mgmtIn = [5])) = true ∧
    ran (.tallyWait hubSrc 5 0) live (fun t => answered t hubSrc == some .waited) = true :=
  ⟨arrives_of _ _ _ 8259 (by decide +kernel) (by decide +kernel), arrives_of _ _ _ 8259 (by decide +kernel) (by decide +kernel),
    arrives_of _ _ _ 192 (by decide +kernel) (by decide +kernel), by decide +kernel⟩

theorem witness_tally_wait_complete : (tallyPlace live 5).toOption = some (false, 1, 5) ∧
    ran (.tallyWaitComplete 5) { live with waits := [⟨5, 0, .queue 1 3, none, false, none⟩] } (fun t => t.waits.all (·.done)) = true := by
  decide +kernel

def asking : State := svcNote hubSrc (.read 0 0 63) live

theorem witness_responses : (svcOf asking hubSrc).isSome = true ∧
    ran (.readResponse hubSrc 5) asking (fun t => (svcOf t hubSrc).isNone && decide (gotAnswer t hubSrc = some (.data 5))) = true ∧
    ran (.negative hubSrc stStandFenced 4) asking (fun t => decide (gotAnswer t hubSrc = some (.negative stStandFenced 4))) = true ∧
    ran (.serviceTimeout hubSrc) asking (fun t => (svcOf t hubSrc).isNone) = true ∧
    (svcOf live hubSrc).isNone = true ∧
    ran (.readResponse hubSrc 5) live (fun t => decide (rf t (IorErr.key (errIndex stServiceTimeout)) IorErr.count = 1)) = true ∧
    ran .progressSend { asking with svc := asking.svc.map (fun r => { r with held := true }) } (fun t =>
      t.svcResp == [(hubSrc, .progress)]) = true := by decide +kernel

/-- R327: a queue waits at another hub's tally through the TALLY_WAIT of `hubSrc`. -/
def awaiting : State := { svcNote hubSrc (.tallyWait 5 9) live with waits := [⟨5, 9, .queue 1 3, some hubSrc, false, none⟩] }

theorem witness_wait_done : (svcOf awaiting hubSrc).map (·.dead) = some false ∧
    ran (.waitDone hubSrc) awaiting (fun t => (svcOf t hubSrc).isNone && t.waits.all (·.done)) = true := by decide +kernel

/-- R278: a descriptor with DONE_EN whose increment another hub has acknowledged. -/
def acknowledged : State :=
  { putHubQ 1 3 { HubQ.init with exec := some ⟨[1, 2] ++ List.replicate 62 0, 0, 0, .none, .none, .none, 0, [], [], 0, none,
      some stDone, 0, 0, 0, none, [], 0, [], 0, [], some hubSrc, none⟩ }
      (rfput (HubQCfg.key 1 3) HubQCfg.cls 3 live) with svcGot := [(hubSrc, .acked)] }

theorem witness_retire_done : ((execOf acknowledged 1 3).map (fun e => natBit (numAt e.desc 1 1) 1 && decide (e.done = some hubSrc))) =
      some true ∧ gotAnswer acknowledged hubSrc = some .acked ∧
    ran (.descriptorRetire 1 3 stDone) acknowledged (fun t => decide (execOf t 1 3 = none)) = true := by decide +kernel

/-! ### Seams -/

def joined : State := rfput (SeamStatus.key 1 1) SeamStatus.state 1 live

/-- Stand 2 has sent stand 1 one frame of sequence number 0, with a credit for connection 7. -/
def framed : State := putSeam 2 3 { seamOf joined 2 3 with wire := [⟨0, [], [7], 0, false, 4⟩] } joined

theorem witness_seam : seamLive framed 1 1 = true ∧ frameCrossing ≤ 4 ∧ facing 1 1 = some 2 ∧ opp 1 = 3 ∧
    (seamOf framed 2 3).wire = [⟨0, [], [7], 0, false, 4⟩] ∧ (0 : Byte) = (seamOf framed 1 1).want ∧
    ran (.seamFrameReceive 1 1 0 true false 0) framed (fun t => decide ((seamOf t 1 1).want = 1) && decide ((seamOf t 2 3).wire = []) &&
      decide (t.creditFly = [⟨7, 0⟩])) = true ∧
    ran (.seamFrameReceive 1 1 7 false true 9) framed (fun t => (seamOf t 1 1).replaying && decide (t.creditFly = []) &&
      decide (rf t (SeamCount.key 1 1) SeamCount.frameErrors = 1)) = true := by decide +kernel

/-- R221: SEAM_CFG.SILENCE stands at 0, which is treated as 1: 16 slots. -/
def silent (n : Nat) : State := putSeam 1 1 { seamOf joined 1 1 with silent := n } (rfput (SeamCfg.key 1 1) SeamCfg.silence 0 joined)

theorem witness_silence : seamLive (silent 16) 1 1 = true ∧ silenceLimit (silent 16) 1 1 ≤ (seamOf (silent 16) 1 1).silent ∧
    ran (.seamDeadSilence 1 1) (silent 16) (fun t => decide (rf t (SeamStatus.key 1 1) SeamStatus.state = 3)) = true ∧
    ran (.seamDeadSilence 1 1) (silent 15) (fun t => decide (rf t (SeamStatus.key 1 1) SeamStatus.state = 1)) = true := by
  decide +kernel

def failing : State := putSeam 1 1 { seamOf joined 1 1 with failRun := 200 } joined

theorem witness_replay_limit : seamLive failing 1 1 = true ∧ max 1 (rf failing (SeamCfg.key 1 1) SeamCfg.replayLimit) ≤ (seamOf failing 1 1).failRun ∧
    ran (.seamDeadReplayLimit 1 1) failing (fun t => decide (rf t (SeamStatus.key 1 1) SeamStatus.state = 4)) = true := by decide +kernel

/-- R222: a node that has waited for LIMIT_LAPS laps. -/
def waited : State := putNode 1 0 { nodeOf live 1 0 with waiting := 8 }
  (rfput (NodeNoprog.key 1 0) NodeNoprog.limitLaps 2 { live with lapLen := 4 })

theorem witness_no_progress : 0 ∈ unitsOf waited 1 14 ∧ noProgress waited 1 0 = true ∧
    ran (.meshNoProgress 1) waited (fun t => decide (rf t (NodeStatus.key 1 0) NodeStatus.noprog = 1)) = true := by decide +kernel

/-! ### Power -/

def ramping (n : Nat) (up : Bool) (f : Nat) : State := rfput (PwrTile.key 2) PwrTile.state 1
  { base with power := { base.power with ramps := [(2, n, up, f)] } }

theorem witness_ramps : rampOf (ramping 2 true 2) 2 = some (2, true, 2) ∧ rampOf (ramping 1 false 4) 2 = some (1, false, 4) ∧
    rampOf (ramping 2 false 4) 2 = some (2, false, 4) ∧
    ran (.tilePowerGood 2) (ramping 1 true 2) (fun t => decide (rampOf t 2 = some (2, true, 2))) = true ∧
    ran (.railSwitchOffDone 2) (ramping 2 false 4) (fun t => decide (rampOf t 2 = some (1, false, 4))) = true := by decide +kernel

def powered : State := rfput (PwrTile.key 1) PwrTile.state 2 base

/-- Every other stand has tripped before. -/
def lastOn : State := (physList.filter (· ≠ 1)).foldl (fun s p => rfput (PwrTile.key p) PwrTile.state 3 s) powered

theorem witness_trips : tilePowered powered 1 = true ∧ tilePowered lastOn 1 = true ∧
    ran (.tileTrip 1 3 2 1) powered (fun t => decide (tileState t 1 = 3) && decide (roleOf t 1 = 5) &&
      decide (rf t (PwrTile.key 1) PwrTile.rail = 2)) = true ∧
    ran (.junctionTrip 1 true) lastOn (fun t => decide (tileState t 1 = 3)) = true ∧
    (4399 : BitVec 16).toNat < 4400 ∧ 6000 < (6001 : BitVec 16).toNat ∧
    ran (.inputFault 4399) lastOn (fun t => t.power.inputFault && decide (tileState t 1 = 3)) = true ∧
    ran (.inputFault 6001) lastOn (fun t => t.power.inputFault) = true := by decide +kernel

/-- R459: 44.00 V is within the limits. -/
theorem test_input_limit : ran (.inputFault 4400) powered (fun t => !t.power.inputFault && decide (tileState t 1 = 2)) = true := by
  decide +kernel

theorem witness_standby : ran (.standbyPowerOn 9 0) base (fun t => decide (rg t OtpId.key = 9) && decide (secState t = 1)) = true ∧
    ran (.standbyPowerOn 9 4) base (fun t => decide (secState t = 3)) = true ∧
    ran .standbyPowerLoss armed (fun t => decide (t.mode = .none) && decide (t.mem = [])) = true := by decide +kernel

/-! ### Clocks and time -/

theorem passes_of {via : Via} {w : Bool} {k : Nat} {s : State} (h : decide (gateOf via w k s = .go) = true) :
    passes via w k s := by
  unfold passes
  exact of_decide_eq_true h

/-- Stand 2 with side 1 READY, its clock taken from side 0. -/
def sided : State := rfput (ClkSrcStatus.key 2) ClkSrcStatus.ready 2 base

theorem witness_source : passes (.mgmt 0) true (ClkSrcSel.key 2) sided ∧ srcRefusal sided 2 1 = none ∧
    ran (.clkSrcSelWrite (.mgmt 0) 2 1) sided (fun t => decide (clkSrc t 2 = 1) && decide (clkState t 2 = 4)) = true ∧
    srcRefusal sided 2 3 = some stSrcNotReady ∧
    ran (.clkSrcSelWrite (.mgmt 0) 2 3) sided (fun t => decide (clkSrc t 2 = 0)) = true :=
  ⟨passes_of (by decide +kernel), by decide +kernel⟩

def switching : State := rfput (ClkSrcStatus.key 2) ClkSrcStatus.state 4 sided

theorem witness_switch : clkState switching 2 = 4 ∧
    ran (.clkSwitchComplete 2) switching (fun t => decide (clkState t 2 = 1)) = true ∧
    (steerSides switching 2).isEmpty = true ∧
    ran (.clkSourceLost 2) switching (fun t => decide (clkState t 2 = 3) && decide (t.reportSeq = switching.reportSeq + 1)) = true ∧
    ran (.sideReadyChange 2 3 ⟨0, true, 0⟩ 0 1 false) switching (fun t => sideReady t 2 3) = true := by decide +kernel

/-- R431: HUB_DIV 4, the rest as at reset. -/
def divs : Word := fldSet ClkDiv.hubDiv (rg base (ClkDiv.key 2)) 4

theorem witness_dividers : passes (.mgmt 0) true (ClkDiv.key 2) base ∧ divOk divs = true ∧
    fldGet ClkDiv.dslDiv divs = rf base (ClkDiv.key 2) ClkDiv.dslDiv ∧
    ran (.clkDivWrite (.mgmt 0) 2 divs) base (fun t => decide (rf t (ClkDiv.key 2) ClkDiv.hubDiv = 4)) = true :=
  ⟨passes_of (by decide +kernel), by decide +kernel⟩

/-- R431: a divider of 3 for the stand is refused. -/
theorem test_divider : divOk (fldSet ClkDiv.hubDiv (fldSet ClkDiv.stdDiv (fldSet ClkDiv.dslDiv 0 1) 3) 4) = false := by decide +kernel

def pendingGate : State := { base with gates := smapSet gateDflt base.gates (2 * 1024 + 0x100) 2 }

theorem witness_gates : passes (.mgmt 0) true (ClkGateCmd.key 2) base ∧ isGate 0x100 = true ∧
    (gateTree base 2 0x100).any (gateInUse base 2) = false ∧ gateSt base 2 0x100 ≠ 1 ∧
    ran (.gateOff (.mgmt 0) 2 0x100) base (fun t => decide (gateSt t 2 0x100 = 1)) = true ∧
    ran (.gateOn (.mgmt 0) 2 0x100) { base with gates := smapSet gateDflt base.gates (2 * 1024 + 0x100) 1 } (fun t =>
      decide (gateSt t 2 0x100 = 0)) = true ∧
    gateSt pendingGate 2 0x100 = 2 ∧ ran (.gateCancel (.mgmt 0) 2 0x100) pendingGate (fun t => decide (gateSt t 2 0x100 = 0)) = true ∧
    ran (.gatePendingComplete 2 0x100) pendingGate (fun t => decide (gateSt t 2 0x100 = 1)) = true ∧
    ran (.gateOffAfterDrain (.mgmt 0) 2 0x100) base (fun t => decide (gateSt t 2 0x100 ≠ 0)) = true :=
  ⟨passes_of (by decide +kernel), by decide +kernel⟩

def timed : State := { rput ClkTime.key 100 base with timeCtr := { base.timeCtr with next := some 500 } }

theorem witness_time : passes (.mgmt 0) true ClkTimeNext.key base ∧ timeNow timed ≤ (200 : Word) ∧ edgeValid timed 200 = true ∧
    ran (.ppsEdge 200) timed (fun t => decide (timeNow t = 500) && decide (t.timeCtr.next = none) &&
      decide (rg t ClkPpsCapture.key = 200)) = true ∧
    ran (.ppsEdge 700) timed (fun t => decide (timeNow t = 700) && decide (t.timeCtr.hold = 200)) = true ∧
    ran .timeNextExpiry timed (fun t => decide (t.timeCtr.next = none)) = true ∧
    ran (.clkTimeNextWrite (.mgmt 0) 9) base (fun t => decide (t.timeCtr.next = some 9)) = true :=
  ⟨passes_of (by decide +kernel), by decide +kernel⟩

def edged : State := rfput ClkPpsStatus.key ClkPpsStatus.state 1 { base with timeCtr := { base.timeCtr with edge := some 0 } }

theorem witness_bad_edge : edgeValid edged 999899999 = false ∧ edgeValid edged 999900000 = true ∧ edgeValid edged 1000100000 = true ∧
    edgeValid edged 1000100001 = false ∧ timeNow edged ≤ (999899999 : Word) ∧
    rf edged ClkPpsCfg.key ClkPpsCfg.align = 0 ∧ edged.timeCtr.next = none ∧
    ran (.ppsEdge 999899999) edged (fun t => decide (rf t ClkPpsStatus.key ClkPpsStatus.badEdges = 1)) = true ∧
    ran .ppsLost edged (fun t => decide (rf t ClkPpsStatus.key ClkPpsStatus.state = 2)) = true := by decide +kernel

/-! ### Management, firmware and security -/

/-- The boot ROM, waiting for a bundle, with a boot session of management port 0 open. -/
def boot : State := putSess (sessKey 0 2 0) (some ⟨2, 0, 0, 0, [], false, [], [], []⟩)
  (rfput SecStatus.key SecStatus.state 1 State.reset)

theorem witness_fw_transfer : passes (.host 1) true (RgrFwCtl.key 0) boot ∧ fldGet RgrFwCtl.go 1 = 1 ∧
    rf boot RgrFwStatus.key RgrFwStatus.state = 0 ∧
    ran (.fwGo 1 1 [7] none) (rfput (RgrFwLen.key 0) RgrFwLen.len 1 boot) (fun t =>
      decide (rf t RgrFwStatus.key RgrFwStatus.state = 1) && decide (t.fw.total = 1)) = true ∧
    (sessOf boot (pushKey boot 0 0)).isSome = true ∧
    ran (.fwPush 0 0 2 8 [1, 2, 3]) boot (fun t => decide (rf t RgrFwStatus.key RgrFwStatus.state = 1) &&
      decide (t.fw.got = 3) && decide (smapGetMany memDflt t.fw.bytes 2 3 = [1, 2, 3])) = true :=
  ⟨passes_of (by decide +kernel), by decide +kernel⟩

/-- A bundle of four zero bytes: no magic number. -/
def pushed : State := rfput RgrFwStatus.key RgrFwStatus.state 1
  { boot with fw := { boot.fw with source := some (.mgmt (sessKey 0 2 0)), total := 4, got := 4 } }

theorem witness_fw_verify : rf pushed RgrFwStatus.key RgrFwStatus.state = 1 ∧ pushed.fw.total ≤ pushed.fw.got ∧
    pushed.fw.total ≤ fwMax ∧ secServes pushed = true ∧ fwRefusal pushed (fwBundle pushed) = some stFwInvalid ∧
    ran .fwVerify pushed (fun t => !fwVerified t && decide (rf t RgrFwStatus.key RgrFwStatus.lastStatus = stFwInvalid.toNat)) = true := by
  decide +kernel

/-- R541, R542: one operator trust anchor, whose first 8 bytes as the digest lists them are zero but the last byte. -/
def anchored : State := { base with fuses := [(1, ⟨1, [4, 0, 0, 0, 96, 0, 0, 0, 5] ++ List.replicate 95 0⟩)] }

theorem witness_session_open : cageDown anchored 0 = false ∧ protoServed anchored 1 = true ∧ secServes anchored = true ∧
    openSlot anchored 0 1 = some 0 ∧ (trustAnchors anchored).length = 1 ∧
    ran (.mgmtSessionOpen 0 1 3 ((trustAnchors anchored).getD 0 0) true) anchored (fun t =>
      decide ((sessOf t (sessKey 0 1 0)).map (·.peer) = some 3)) = true ∧
    ran (.mgmtSessionOpen 0 1 3 0 false) anchored (fun t => (sessOf t (sessKey 0 1 0)).isNone && decide (t.authFails = anchored.authFails + 1)) = true := by
  decide +kernel

theorem witness_session_messages : (sessOf (withSession base) (mgmtKey 0 0)).map (·.seqIn) = some 0 ∧
    ran (.regRead 0 0 0 0) (withSession base) (fun t => ((sessOf t (mgmtKey 0 0)).bind (·.out.getLast?)).isSome) = true ∧
    ran (.subscribe 0 0 0 5) (withSession base) (fun t => decide ((sessOf t (mgmtKey 0 0)).map (·.kinds) = some 5)) = true ∧
    ran (.subscribe 0 0 1 5) (withSession base) (fun t => (sessOf t (mgmtKey 0 0)).isNone) = true ∧
    ran (.spdmRequest (.mgmt 0) 0 .getVersion) (withSession base) (fun t =>
      ((sessOf t (mgmtKey 0 0)).bind (·.out.getLast?)).isSome) = true ∧
    ran (.mgmtSessionEnd 0 1 0) (withSession base) (fun t => (sessOf t (mgmtKey 0 0)).isNone) = true ∧
    ran (.transceiverChange 0 false true) (withSession base) (fun t => (sessOf t (mgmtKey 0 0)).isNone && cageDown t 0) = true := by
  decide +kernel

def redfish : State := putSess (sessKey 1 0 3) (some ⟨0, 0, 0, 0, [], false, [], [], []⟩) base

theorem witness_redfish : (sessOf redfish (sessKey 1 0 3)).isSome = true ∧
    ran (.redfishRequest 1 3 .root) redfish (fun t => ((sessOf t (sessKey 1 0 3)).bind (·.out.getLast?)).isSome) = true := by
  decide +kernel

theorem witness_security : secServes base = true ∧ secState base ≠ 3 ∧
    ran (.ideKeyProgramming 2 99 true) base (fun t => decide ((portOf t 2).ideKey = 99)) = true ∧
    ran (.entropyTestFail 6) (withSession base) (fun t => decide (secState t = 3) && (sessOf t (mgmtKey 0 0)).isNone) = true ∧
    ran (.entropyPoolRefill 1 [7]) base (fun t => decide ((standOf t 1).pool = [7])) = true := by decide +kernel

def debugging : State := { base with dbg := { base.dbg with minutes := some 5 } }

theorem witness_jtag : base.dbg.minutes = none ∧ debugging.dbg.minutes.isSome = true := by decide +kernel

theorem test_jtag_closed : isNext (exec (.jtagAccess (.haltRanger 2)) base) base = true := by decide +kernel

theorem test_jtag_halts : ran (.jtagAccess (.haltRanger 2)) debugging (fun t => !rangerRuns t 2 && rangerRuns t 1) = true := by
  decide +kernel

/-! ### Registers -/

/-- R337: offset 0x1000 of BAR0 lies in the reserved range, offset 0 in the port's own block. -/
theorem witness_bar0 : bar0Addr base 2 0x1000 = none ∧ (bar0Addr base 2 0xFFF).isSome = true ∧ bar0Addr base 2 0x1FFFFF = none ∧
    (bar0Addr base 2 0x200000).isSome = true ∧ ran (.bar0Access 2 false 0 8 0) base (fun t => decide (t.suOut.length = 1)) = true := by
  decide +kernel

theorem reaches_of {via : Via} {w : Bool} {a n k : Nat} {s : State} (size : sizeOk a n = true)
    (at_k : (suReach via a s).toOption = some k) (form : formOk k (accessMask a n) = true)
    (go : decide (gateOf via w k s = .go) = true) : reaches via w a n k s := by
  refine ⟨size, ?_, form, passes_of go⟩
  cases e : suReach via a s with
  | error => rw [e] at at_k; simp [Except.toOption] at at_k
  | ok x => rw [e] at at_k; simp [Except.toOption] at at_k; rw [at_k]

/-- SEAM_CFG of stand 1, side 0 through a management port, and IOR_PORT_CFG of port 2 through BAR0: registers that are
only set. -/
theorem witness_plain_registers : plainReg (SeamCfg.key 1 0) = true ∧ plainRead (SeamCfg.key 1 0) = true ∧
    reaches (.mgmt 0) true (SeamCfg.key 1 0) 8 (SeamCfg.key 1 0) base ∧
    reaches (.mgmt 0) false (SeamCfg.key 1 0) 8 (SeamCfg.key 1 0) base ∧
    plainReg (IorPortCfg.key 2) = true ∧ plainRead (IorPortCfg.key 2) = true ∧ bar0Addr base 2 8 = some (IorPortCfg.key 2) ∧
    reaches (.host 2) true (IorPortCfg.key 2) 4 (IorPortCfg.key 2) base ∧
    reaches (.host 2) false (IorPortCfg.key 2) 4 (IorPortCfg.key 2) base :=
  ⟨by decide +kernel, by decide +kernel,
    reaches_of (by decide +kernel) (by decide +kernel) (by decide +kernel) (by decide +kernel),
    reaches_of (by decide +kernel) (by decide +kernel) (by decide +kernel) (by decide +kernel),
    by decide +kernel, by decide +kernel, by decide +kernel,
    reaches_of (by decide +kernel) (by decide +kernel) (by decide +kernel) (by decide +kernel),
    reaches_of (by decide +kernel) (by decide +kernel) (by decide +kernel) (by decide +kernel)⟩

/-- R238: a set-up write of SILENCE and REPLAY_LIMIT, of the upper half, which holds no field, and a read. -/
theorem test_plain_write : ran (.setupWrite (.mgmt 0) (BitVec.ofNat 48 (SeamCfg.key 1 0)) 8 0xFFFF0102) base (fun t =>
      decide (rg t (SeamCfg.key 1 0) = 0x0102)) = true ∧
    ran (.registerReadClear (.mgmt 0) (BitVec.ofNat 48 (SeamCfg.key 1 0))) base (fun t =>
      decide (t.suOut = [(.mgmt 0, SeamCfg.key 1 0, 0x0810)])) = true := by decide +kernel

theorem witness_register_messages : reaches (.mgmt 0) true (SeamCfg.key 1 0) 8 (SeamCfg.key 1 0)
      (sessCount (mgmtKey 0 0) (withSession base)) ∧
    reaches (.mgmt 0) false (SeamCfg.key 1 0) 8 (SeamCfg.key 1 0) (sessCount (mgmtKey 0 0) (withSession base)) ∧
    ran (.regWrite 0 0 0 (BitVec.ofNat 48 (SeamCfg.key 1 0)) 5) (withSession base) (fun t =>
      decide (rg t (SeamCfg.key 1 0) = 5)) = true :=
  ⟨reaches_of (by decide +kernel) (by decide +kernel) (by decide +kernel) (by decide +kernel),
    reaches_of (by decide +kernel) (by decide +kernel) (by decide +kernel) (by decide +kernel), by decide +kernel⟩

theorem witness_register_read : ran (.registerReadClear (.mgmt 0) 0) base (fun t => decide (t.suOut.length = 1)) = true ∧
    ran (.setupWrite (.mgmt 0) (BitVec.ofNat 48 ClkPpsCfg.key) 8 1) base (fun t =>
      decide (rg t ClkPpsCfg.key = (plainWrite ClkPpsCfg.key 1 base |> fun u => rg u ClkPpsCfg.key))) = true := by decide +kernel

/-- R199: a DRAM region of 128 bytes at device address 64, VALID. -/
def hdlStaged : State := { base with hdlStage := smapSet lenDflt [] (1 * 4096 + 4095) (fldSet HubHdlLen.length 0 128) }
def hdlAddr : Word := fldSet HubHdlAddr.valid (fldSet HubHdlAddr.addr 0 64) 1

theorem witness_handles : passes (.mgmt 0) true (HubHdlLen.key 1 4095) base ∧ passes (.mgmt 0) true (HubHdlAddr.key 1 4095) hdlStaged ∧
    fldGet HubHdlLen.length (smapGet lenDflt hdlStaged.hdlStage (1 * 4096 + 4095)) = 128 ∧
    hdlNames (fldGet HubHdlAddr.kind hdlAddr) (fldGet HubHdlAddr.addr hdlAddr) 128 = true ∧
    ran (.hubHdlAddrWrite (.mgmt 0) 1 4095 hdlAddr) hdlStaged (fun t => decide (rf t (HubHdlLen.key 1 4095) HubHdlLen.length = 128) &&
      decide (rf t (HubHdlAddr.key 1 4095) HubHdlAddr.valid = 1)) = true ∧
    fldGet HubHdlAddr.valid hdlAddr = 1 ∧ hdlNames (fldGet HubHdlAddr.kind hdlAddr) (fldGet HubHdlAddr.addr hdlAddr) 0 = false ∧
    ran (.hubHdlAddrWrite (.mgmt 0) 1 4095 hdlAddr) base (fun t => decide (rf t (HubHdlAddr.key 1 4095) HubHdlAddr.valid = 0)) = true :=
  ⟨passes_of (by decide +kernel), passes_of (by decide +kernel), by decide +kernel⟩

def loadedArr : State := putStand 1 { Stand.init with phase := 1 } (inMode .idle)

theorem witness_data_windows : passes (.mgmt 0) true (CaObData.key 1 1) loadedArr ∧ arrConfigurable loadedArr 1 1 = true ∧
    ran (.caObDataAccess (.mgmt 0) 1 1 0 true 0x0102) loadedArr (fun t =>
      (let q := obPlace loadedArr 1 1; decide (obBytes t q.1 q.2.1 q.2.2 8 = [2, 1, 0, 0, 0, 0, 0, 0]))) = true ∧
    passes (.mgmt 0) true (HubDescData.key 1) base ∧ hubQuiet base 1 = true ∧
    ran (.hubDescDataAccess (.mgmt 0) 1 true 0x0102) base (fun t => decide (descBytes t 1 0 8 = [2, 1, 0, 0, 0, 0, 0, 0])) = true ∧
    passes (.mgmt 0) true OtpStageData.key base ∧
    ran (.otpStageDataAccess (.mgmt 0) true 0x0102) base (fun t => decide (smapGetMany memDflt t.otpStage 0 8 = [2, 1, 0, 0, 0, 0, 0, 0])) = true :=
  ⟨passes_of (by decide +kernel), by decide +kernel, by decide +kernel, passes_of (by decide +kernel), by decide +kernel,
    by decide +kernel, passes_of (by decide +kernel), by decide +kernel⟩

/-- R308, R310: the parameter sets 0 to 4 of a check unit select; the unit of a hub. -/
theorem witness_check_unit : (∀ key, key = CvuFeed8.key false 1 2 ∨ key = CvuFeed16.key false 1 2 ∨ key = CvuFeed32.key false 1 2 ∨
      key = CvuFold.key false 1 2 ∨ key = CvuValue.key false 1 2 ∨ key = CvuCfg.key false 1 2 → passes (.mgmt 0) true key base) ∧
    cvuOwned base false 1 2 = false ∧ ran (.cvuFeed16 (.mgmt 0) false 1 2 0x3231) base (fun t =>
      decide (rf t (CvuStatus.key false 1 2) CvuStatus.bytes = 2)) = true ∧
    cvuOwned (rfput (CvuStatus.key false 1 2) CvuStatus.owner 1 base) false 1 2 = true ∧
    ran (.cvuFeed8 (.mgmt 0) false 1 2 1) (rfput (CvuStatus.key false 1 2) CvuStatus.owner 1 base) (fun t =>
      decide (rf t (CvuStatus.key false 1 2) CvuStatus.discards = 1)) = true := by
  refine ⟨fun key h => ?_, by decide +kernel, by decide +kernel, by decide +kernel, by decide +kernel⟩
  rcases h with h | h | h | h | h | h <;> subst h <;> exact passes_of (by decide +kernel)

/-- R309: with set 0 the bytes "123456789" give CRC-32C's check value 0xE3069283 after the final exclusive or. -/
theorem test_crc_check : crc32c [0x31, 0x32, 0x33, 0x34, 0x35, 0x36, 0x37, 0x38, 0x39] = 0xE3069283 := by decide +kernel

def watching : State := rfput (TlyCfg.key true 0 5) TlyCfg.watchEn 1 base

theorem witness_tallies : passes (.mgmt 0) true (TlyCount.key true 0 5) base ∧ passes (.mgmt 0) true (TlyAdd.key true 0 5) base ∧
    passes (.mgmt 0) true (TlyCfg.key true 0 5) watching ∧ passes (.mgmt 0) true (TlyCfg.key true 0 5) base ∧
    passes (.mgmt 0) true (TlyWatchBase.key true 0 5) watching ∧ passes (.mgmt 0) true (TlyWatchLimit.key true 0 5) base ∧
    rf watching (TlyCfg.key true 0 5) TlyCfg.watchEn = 1 ∧ rf base (TlyCfg.key true 0 5) TlyCfg.watchEn = 0 ∧
    watchable (watchRange base 5) = true ∧
    ran (.tlyCountWrite (.mgmt 0) true 0 5 9) base (fun t => decide (tallyCount t (true, 0, 5) = 9)) = true ∧
    ran (.tlyAdd (.mgmt 0) true 0 5 (-1)) base (fun t => decide (tallyCount t (true, 0, 5) = -1)) = true ∧
    ran (.tlyCfgWrite (.mgmt 0) 5 0) watching (fun t => decide (rf t (TlyCfg.key true 0 5) TlyCfg.watchEn = 0)) = true ∧
    ran (.tlyWatchRangeWrite (.mgmt 0) 5 true 64) watching (fun t => decide (rg t (TlyWatchLimit.key true 0 5) = 0)) = true :=
  ⟨passes_of (by decide +kernel), passes_of (by decide +kernel), passes_of (by decide +kernel), passes_of (by decide +kernel),
    passes_of (by decide +kernel), passes_of (by decide +kernel), by decide +kernel⟩

/-- The set-up address of SEAM_CFG of stand 1, side 0, and a request of a router of the stand. -/
theorem witness_config : arrives hubSrc (.config true (BitVec.ofNat 48 (SeamCfg.key 1 0)) 0) live ∧
    (setupPut .ranger (SeamCfg.key 1 0) 8 0 (asked hubSrc (.config true (BitVec.ofNat 48 (SeamCfg.key 1 0)) 0))).1 = stDone ∧
    arrives hubSrc (.config false (BitVec.ofNat 48 (SeamCfg.key 1 0)) 0) live ∧
    (setupGet .ranger (SeamCfg.key 1 0) 8 (asked hubSrc (.config false (BitVec.ofNat 48 (SeamCfg.key 1 0)) 0))).1 = stDone :=
  ⟨arrives_of _ _ _ 192 (by decide +kernel) (by decide +kernel), by decide +kernel,
    arrives_of _ _ _ 192 (by decide +kernel) (by decide +kernel), by decide +kernel⟩

/-- R317 at its boundary: COUNT 2^63 − 1 past T reaches it, 2^63 does not. -/
theorem witness_reached : reached (5 + BitVec.ofNat 64 (2 ^ 63 - 1)) 5 = true ∧ reached (5 + BitVec.ofNat 64 (2 ^ 63)) 5 = false ∧
    readSrc armed place 4 4 = .ok (List.replicate 16 5) ∧
    (match tallyPlace armed (twaitArgs (List.replicate 16 5)).1 with
      | .ok x => x == (false, 1, 5)
      | .error _ => false) = true ∧
    (waitOf armed (.stage 1 1 0)).any (·.done) = false ∧
    (waitOf { armed with waits := [⟨5, 9, .stage 1 1 0, none, true, none⟩] } (.stage 1 1 0)).any (·.done) = true ∧
    waitOf armed (.queue 1 3) = none ∧ natBit (numAt [1, 1, 0, 0, 5, 0] 1 1) 0 = true ∧
    (tallyPlace armed (numAt [1, 1, 0, 0, 5, 0] 4 2)).toOption = some (false, 1, 5) := by decide +kernel

/-! ### Ill-formed commands, which the checks refuse -/

/-- A stage of logical stand 56, which does not exist, and a corner of the grid. -/
def badStage : StageLoc := ⟨56, 0, 0, 0⟩
def badArr : ArrayLoc := ⟨63, 0, 0⟩
def badSrc : MeshSrc := ⟨56, 64, 0⟩
def badSite : Site := ⟨1, 0, 66⟩

def refusedAll (is : List Instr) : Bool := is.all (fun i => !i.wellFormed)

theorem test_wellformed_accepts : [Instr.nop stg ent, .hubCycle 62, .copy 1 31, .setupWrite .ranger 4 4 0, .setupWrite .ranger 8 8 0,
    .tlyAdd .ranger true 0 0 1, .ack ⟨63, 65, 0⟩].all Instr.wellFormed = true := by decide +kernel

theorem test_illformed_stage_1 : refusedAll [.nop badStage ent, .dot badStage ent, .dotl badStage ent, .dots24 badStage ent, .dots14 badStage ent,
    .dotsbm badStage ent, .readout badStage ent, .accload badStage ent, .accloadx badStage ent, .add badStage ent,
    .sub badStage ent, .mul badStage ent, .fmaw badStage ent, .abs badStage ent, .neg badStage ent,
    .scaleb badStage ent, .and badStage ent, .or badStage ent, .xor badStage ent, .shl badStage ent] = true := by decide +kernel

theorem test_illformed_stage_2 : refusedAll [.shr badStage ent, .mov badStage ent, .cmpeq badStage ent, .cmplt badStage ent, .cmple badStage ent,
    .cmpun badStage ent, .sel badStage ent, .min badStage ent, .max badStage ent, .minnum badStage ent,
    .maxnum badStage ent, .rcp badStage ent, .rsqrt badStage ent, .exp2 badStage ent, .log2 badStage ent,
    .perm badStage ent, .permi badStage ent, .lredadd badStage ent, .lredmax badStage ent, .lredmin badStage ent] = true := by decide +kernel

theorem test_illformed_stage_3 : refusedAll [.lredi badStage ent, .lredacc badStage ent, .cvt badStage ent, .cvtmx badStage ent, .demx badStage ent,
    .pack badStage ent, .unpack badStage ent, .pack6 badStage ent, .unpack6 badStage ent, .fxcvt badStage ent,
    .ctradv badStage ent, .ctrrd badStage ent, .btnsend badStage ent, .btnrecv badStage ent, .btnpred badStage ent,
    .twait badStage ent, .tinc badStage ent, .ldcm badStage ent, .ldcmk badStage ent, .ldcmx badStage ent] = true := by decide +kernel

theorem test_illformed_stage_4 : refusedAll [.stcm badStage ent, .stcmo badStage ent, .stcmx badStage ent, .send badStage ent, .recv badStage ent,
    .pass badStage ent, .merge1 badStage ent, .aaddi badStage ent, .aaddf badStage ent, .amaxf badStage ent,
    .aminf badStage ent, .aor badStage ent, .aand badStage ent, .rdflags badStage ent, .rdsrc badStage ent,
    .rdcoord badStage ent, .rdlap badStage ent, .rdtime badStage ent, .rdtemp badStage ent, .rdovr badStage ent] = true := by decide +kernel

theorem test_illformed_stage_5 : refusedAll [.rdent badStage ent] = true := by decide +kernel

theorem test_illformed_1 : refusedAll [.relocate (cmd 0) [badSite], .singleStandTestEnd 0 [], .singleStandTestEnd 1 [⟨7, 0, 0, 0, false⟩],
    .heatEnd [⟨63, true, true, true, true, 0, 0, [], [], 0⟩], .retentionHoldEnd [⟨56, 0, 0, 0, false⟩], .bar0Access 0 true 2 4 0,
    .bar0Access 0 true 4 8 0, .bar0Access 0 true 0 2 0, .setupWrite .ranger 0 1 0,
    .registerReadClear .ranger 4, .slotBoundary [(0, 0, 0)] [],
    .batonInArrival badArr 0, .stageStepComplete badStage 1, .arrayNoCompletion ⟨badStage, 0⟩,
    .heartbeat badArr, .hubCycle 0, .descriptorRetire 1 32 0,
    .descriptorRetire 7 0 0, .copy 0 0] = true := by decide +kernel

theorem test_illformed_2 : refusedAll [.copy 1 32, .gatherRows 7 0, .gatherRows 1 33,
    .gatherPages 56 0, .gatherPages 1 40, .sample 63 0,
    .sample 1 63, .transpose 0 1, .transpose 2 32,
    .reduce 0 0, .reduce 2 32, .dramRefresh 63 0 0,
    .readRequest badSrc 0 0 0, .writeRequest badSrc 0 0 0 0, .readResponse badSrc 0,
    .writeAcknowledge badSrc, .tallyIncrement badSrc 0 0, .post badSrc gate 0 0 true 0,
    .post hubSrc badArr 0 0 true 0, .postAcknowledge badSrc] = true := by decide +kernel

theorem test_illformed_3 : refusedAll [.atomicRequest badSrc .addI 0 0 stg 0, .atomicRequest hubSrc .addI 0 0 badStage 0, .config badSrc true 0 0,
    .config hubSrc true 4 0, .record badSrc 0 0 0 0, .mgmt badSrc 0,
    .tallyWait badSrc 0 0, .waitDone badSrc, .progress badSrc,
    .ack badSrc, .negative badSrc 0 0, .serviceTimeout badSrc,
    .seamFrameReceive 0 0 0 true false 0, .seamDeadSilence 7 0, .seamDeadReplayLimit 56 0,
    .meshNoProgress 63, .tilePowerGood 0, .tileTrip 7 0 0 0,
    .junctionTrip 0 false, .clkSrcSelWrite .ranger 0 0] = true := by decide +kernel

theorem test_illformed_4 : refusedAll [.clkSwitchComplete 0, .clkSourceLost 0, .clkDivWrite .ranger 0 0,
    .gateOn .ranger 0 0, .gateOff .ranger 0 0, .gateOffAfterDrain .ranger 0 0,
    .gateCancel .ranger 0 0, .gatePendingComplete 0 0, .mgmtSessionOpen 0 3 0 0 true,
    .entropyTestFail 0, .hubHdlLenWrite .ranger 0 0 0, .hubHdlAddrWrite .ranger 0 0 0,
    .caObDataAccess .ranger 0 0 0 true 0, .hubDescDataAccess .ranger 0 true 0, .cvuFeed8 .ranger false 0 0 0,
    .cvuFeed16 .ranger false 0 0 0, .cvuFeed32 .ranger false 0 0 0, .cvuFold .ranger false 0 0 0,
    .cvuValueWrite .ranger false 0 0 0, .cvuLoad .ranger false 0 0 0] = true := by decide +kernel

theorem test_illformed_5 : refusedAll [.tlyCountWrite .ranger false 0 0 0, .tlyAdd .ranger false 0 0 0, .railSwitchOffDone 0,
    .sideReadyChange 0 0 ⟨0, true, 0⟩ 0 0 true, .entropyPoolRefill 0 [], .mgmtSessionEnd 0 3 0,
    .bringupPhaseComplete (.seamTraining 0 0 0), .bringupPhaseComplete (.sliceTraining 0 0), .bringupPhaseComplete (.march [⟨0, 0, 0, 0, false⟩]),
    .bringupPhaseComplete (.warmStep 1 [(0, 0)] []), .jtagAccess (.haltController 0), .jtagAccess (.stepController 0),
    .jtagAccess (.resumeController 0), .jtagAccess (.read 4), .jtagAccess (.write 4 0)] = true := by decide +kernel


end Sys2Proof.Tests
end

section
/-!
PROOFS. What every command keeps: the one form of the register file and of the byte memories, the slot clock within the
fused ceiling, and (all but FUSE_WRITE) the fuses. `Keeps s t` says this of two states; a rule per state operation comes
first, then a lemma per function of the model, in the model's order, each from those of the functions that it calls.
-/

namespace Sys2Proof.Proofs

open Sys2Proof.Machine Sys2Proof.Laws

-- Some 700 short proofs follow one another: elaborated side by side they would each hold a thread's stack.
set_option Elab.async false

/-! ### What a step keeps -/

/-- What a step changes by the rules below, beside the registers: the fuses, the target of a glide and the byte memories. -/
def storesOf (s : State) : List (Nat × FuseGen) × Option Nat × List (List Host.Cell) :=
  (s.fuses, s.ringClk.glide, [s.mem, s.ob, s.hostMem, s.peerMem, s.descs, s.otpStage])

/-- The form of the byte memories, memory by memory. -/
def MemForm (s : State) : Prop :=
  smapOk memDflt s.mem = true ∧ smapOk memDflt s.ob = true ∧ smapOk memDflt s.hostMem = true ∧
    smapOk memDflt s.peerMem = true ∧ smapOk memDflt s.descs = true ∧ smapOk memDflt s.otpStage = true

theorem memory_wf_iff (s : State) : Memory.wf s = true ↔ MemForm s := by
  simp only [Memory.wf, MemForm, Bool.and_eq_true, and_assoc]

theorem memForm_of_stores {t u : State} (e : storesOf u = storesOf t) (h : MemForm t) : MemForm u := by
  simp only [storesOf, Prod.mk.injEq, List.cons.injEq] at e
  obtain ⟨-, -, hm, ho, hh, hp, hd, ht, -⟩ := e
  simp only [MemForm, hm, ho, hh, hp, hd, ht]
  exact h

/-- The slot clock's two registers read alike. -/
def SameClock (t u : State) : Prop :=
  rf u ClkSlotCfg.key ClkSlotCfg.khz = rf t ClkSlotCfg.key ClkSlotCfg.khz ∧
    rf u ClkSlotStatus.key ClkSlotStatus.currentKhz = rf t ClkSlotStatus.key ClkSlotStatus.currentKhz

theorem slotClockOk_of_same {t u : State} (h : SameClock t u) (hg : u.ringClk.glide = t.ringClk.glide) (ht : slotClockOk t) :
    slotClockOk u := by
  unfold slotClockOk at *
  rw [h.1, h.2, hg]
  exact ht

/-- What every command but FUSE_WRITE keeps, from state s to state t: the register file and the byte memories keep their one
form, the slot clock stays within the ceiling (R5), and the fuses stand (R561). -/
structure Keeps (s t : State) : Prop where
  registers : Registers.wf s = true → Registers.wf t = true
  memory : MemForm s → MemForm t
  clock : Registers.wf s = true → slotClockOk s → slotClockOk t
  fuses : t.fuses = s.fuses

/-! ### Sparse maps -/

section
variable {α : Type} [DecidableEq α]

theorem smapOk_foldl_smapSet {β : Type} (d : Nat → α) (k : β → Nat) (v : β → α) (l : List β) {m : List (Nat × α)}
    (h : smapOk d m = true) : smapOk d (l.foldl (fun m x => smapSet d m (k x) (v x)) m) = true := by
  induction l generalizing m with
  | nil => exact h
  | cons x l ih => exact ih (smapOk_smapSet d m _ _ h)

theorem smapOk_moveUnits (d : Nat → α) (w b : Nat) (dst : Nat → Option Nat) (m : List (Nat × α)) :
    smapOk d (moveUnits d w b dst m) = true := by
  suffices h : ∀ acc, smapOk d acc = true → smapOk d (m.foldl (fun acc (k, v) =>
      if k / w < b then smapSet d acc k v
      else match dst (k / w - b) with
        | none => acc
        | some u => smapSet d acc ((u + b) * w + k % w) v) acc) = true from h [] (smapOk_nil d)
  induction m with
  | nil => exact fun _ h => h
  | cons x m ih =>
    refine fun acc h => ih _ ?_
    dsimp only
    split
    · exact smapOk_smapSet _ _ _ _ h
    · split
      · exact h
      · exact smapOk_smapSet _ _ _ _ h

/-- The values of a map changed in place by g, and those dropped that are then the default. -/
def retouch (d : Nat → α) (g : Nat → α → α) (m : List (Nat × α)) : List (Nat × α) :=
  m.filterMap fun e => if g e.1 e.2 = d e.1 then none else some (e.1, g e.1 e.2)

theorem retouch_cons (d : Nat → α) (g : Nat → α → α) (k : Nat) (v : α) (m : List (Nat × α)) :
    retouch d g ((k, v) :: m) = if g k v = d k then retouch d g m else (k, g k v) :: retouch d g m := by
  unfold retouch
  split <;> simp_all

theorem smapOkFrom_retouch (d : Nat → α) (g : Nat → α → α) {m : List (Nat × α)} {lo : Nat}
    (h : smapOkFrom d lo m = true) : smapOkFrom d lo (retouch d g m) = true := by
  induction m generalizing lo with
  | nil => rfl
  | cons e m ih =>
    obtain ⟨k, v⟩ := e
    simp only [smapOkFrom, Bool.and_eq_true, decide_eq_true_eq] at h
    obtain ⟨⟨hk, -⟩, hm⟩ := h
    rw [retouch_cons]
    split
    · exact smapOkFrom_le d _ _ _ (by omega) (ih hm)
    · next hg => simp only [smapOkFrom, Bool.and_eq_true, decide_eq_true_eq]; exact ⟨⟨hk, hg⟩, ih hm⟩

/-- In the one form a key is listed once, so a dropped entry shows no other. -/
theorem smapGet_retouch (d : Nat → α) (g : Nat → α → α) (j : Nat) (hg : g j (d j) = d j) {m : List (Nat × α)} {lo : Nat}
    (h : smapOkFrom d lo m = true) : smapGet d (retouch d g m) j = g j (smapGet d m j) := by
  induction m generalizing lo with
  | nil => exact hg.symm
  | cons e m ih =>
    obtain ⟨k, v⟩ := e
    simp only [smapOkFrom, Bool.and_eq_true, decide_eq_true_eq] at h
    obtain ⟨-, hm⟩ := h
    have hr := ih hm
    have habs : k = j → smapGet d m j = d j := fun hk =>
      smapGet_absent d m j fun e he => by have := smapOkFrom_key d m _ hm e he; omega
    rw [retouch_cons, smapGet_cons]
    by_cases hk : k = j
    · subst hk
      rw [if_pos rfl]
      split
      · next hd => rw [hr, habs rfl, hg, hd]
      · rw [smapGet_cons, if_pos rfl]
    · rw [if_neg hk]
      split
      · exact hr
      · rw [smapGet_cons, if_neg hk]
        exact hr

theorem smapOkFrom_append (d : Nat → α) {m n : List (Nat × α)} {lo mid : Nat} (hm : smapOkFrom d lo m = true)
    (hn : smapOkFrom d mid n = true) (hlo : lo ≤ mid) (hk : ∀ e ∈ m, e.1 < mid) : smapOkFrom d lo (m ++ n) = true := by
  induction m generalizing lo with
  | nil => exact smapOkFrom_le d _ _ _ hlo hn
  | cons e m ih =>
    obtain ⟨k, v⟩ := e
    simp only [smapOkFrom, Bool.and_eq_true, decide_eq_true_eq, List.cons_append] at hm ⊢
    have hk1 : k < mid := hk (k, v) (by simp)
    exact ⟨hm.1, ih hm.2 (by omega) fun e he => hk e (by simp [he])⟩

/-- Consecutive keys with the defaults left out. -/
theorem smapOkFrom_span (d : Nat → α) (vs : List α) (k : Nat) :
    smapOkFrom d k (((List.range' k vs.length).zip vs).filter fun x => decide (x.2 ≠ d x.1)) = true := by
  induction vs generalizing k with
  | nil => rfl
  | cons v vs ih =>
    rw [List.length_cons, List.range'_succ, List.zip_cons_cons, List.filter_cons]
    split
    · next hv => simp only [smapOkFrom, Bool.and_eq_true, decide_eq_true_eq] at hv ⊢; exact ⟨⟨le_refl k, hv⟩, ih (k + 1)⟩
    · exact smapOkFrom_le d _ _ _ (by omega) (ih (k + 1))

theorem smapOkFrom_of_le (d : Nat → α) {m : List (Nat × α)} {lo mid : Nat} (h : smapOkFrom d lo m = true)
    (hk : ∀ e ∈ m, mid ≤ e.1) : smapOkFrom d mid m = true := by
  cases m with
  | nil => rfl
  | cons e m =>
    simp only [smapOkFrom, Bool.and_eq_true, decide_eq_true_eq] at h ⊢
    exact ⟨⟨hk e (by simp), h.1.2⟩, h.2⟩

theorem smapOk_smapSplice (d : Nat → α) (m : List (Nat × α)) (k : Nat) (vs : List α) (h : smapOk d m = true) :
    smapOk d (smapSplice d m k vs) = true := by
  unfold smapSplice
  rw [List.append_assoc]
  refine smapOkFrom_append d (mid := k) (smapOk_smapKeep d _ m h) ?_ (Nat.zero_le _) ?_
  · refine smapOkFrom_append d (mid := k + vs.length) (smapOkFrom_span d vs k) ?_ (by omega) ?_
    · refine smapOkFrom_of_le d (smapOk_smapKeep d _ m h) fun e he => ?_
      simpa using (List.mem_filter.mp he).2
    · intro e he
      have := (List.of_mem_zip (List.mem_filter.mp he).1).1
      simp only [List.mem_range'_1] at this
      exact this.2
  · intro e he
    simpa using (List.mem_filter.mp he).2

end

/-! ### The keys of registers -/

/-- A set-up address at which neither the configuration nor the status of the slot clock stands (R440). -/
def OffClock (k : Nat) : Prop := k ≠ ClkSlotCfg.key ∧ k ≠ ClkSlotStatus.key

namespace OffClock

/-- The slot clock is a ring register, and those of the stands lie above the ring's (R40). -/
@[simp] theorem standKey (ph cls idx off : Nat) : OffClock (Machine.standKey ph cls idx off) := by
  constructor <;> simp only [Machine.standKey, ClkSlotCfg.key, ClkSlotStatus.key, ringKey] <;> omega

@[simp] theorem ne_slotCfg {k : Nat} (h : OffClock k) : k ≠ ClkSlotCfg.key := h.1

theorem of_suView {k : Nat} (h : suView k = 2) : OffClock k := by
  constructor <;> rintro rfl <;> exact absurd h (by decide)

theorem of_suStand {k : Nat} (h : suStand k ≠ 0) : OffClock k := by
  constructor <;> rintro rfl <;> exact h (by decide)

theorem of_snapReg {k : Nat} (h : snapReg k = true) : OffClock k := by
  constructor <;> rintro rfl <;> exact absurd h (by decide)

/-- A configuration section lists registers of stands alone (R441). -/
theorem of_listKey {a k : Nat} (h : listKey a = some k) (p : Nat) : OffClock (k - suStand k * 2 ^ 34 + p * 2 ^ 34) := by
  unfold listKey at h
  split at h
  · next hc =>
    obtain ⟨ha, -⟩ := hc
    obtain rfl := Option.some.inj h
    constructor <;> simp only [suStand, natBits, ClkSlotCfg.key, ClkSlotStatus.key, Machine.ringKey] <;> omega
  · cases h

/-- The slot clock is in class 3 of the ring's registers (R41). -/
theorem ringKey {cls : Nat} (idx off : Nat) (h : cls % 16 ≠ 3) : OffClock (Machine.ringKey cls idx off) := by
  constructor <;> simp only [Machine.ringKey, ClkSlotCfg.key, ClkSlotStatus.key] <;> omega

@[simp] theorem engineKey (ring : Bool) (ph cl u off : Nat) : OffClock (Machine.engineKey ring ph cl u off) := by
  unfold Machine.engineKey
  split
  · exact ringKey _ _ (by decide)
  · exact standKey _ _ _ _

@[simp] theorem cvuKey (ring : Bool) (ph u off : Nat) : OffClock (Machine.cvuKey ring ph u off) := by
  unfold Machine.cvuKey
  split
  · exact ringKey _ _ (by decide)
  · exact standKey _ _ _ _

@[simp] theorem tallyKey (ring : Bool) (ph u off : Nat) : OffClock (Machine.tallyKey ring ph u off) := by
  unfold Machine.tallyKey
  split
  · exact ringKey _ _ (by decide)
  · exact standKey _ _ _ _

@[simp] theorem iorStandMap (i : Nat) : OffClock (IorStandMap.key i) := ringKey _ _ (by decide)
@[simp] theorem iorErr (k : Nat) : OffClock (IorErr.key k) := ringKey _ _ (by decide)
@[simp] theorem iorErrLast : OffClock IorErrLast.key := ringKey _ _ (by decide)
@[simp] theorem iorErrAddr : OffClock IorErrAddr.key := ringKey _ _ (by decide)
@[simp] theorem caArithFlags (ph un s : Nat) : OffClock (CaArithFlags.key ph un s) := standKey _ _ _ _
@[simp] theorem caSrCount (ph un s : Nat) : OffClock (CaSrCount.key ph un s) := standKey _ _ _ _
@[simp] theorem caStageStatus (ph un s : Nat) : OffClock (CaStageStatus.key ph un s) := standKey _ _ _ _
@[simp] theorem caStatus (ph un : Nat) : OffClock (CaStatus.key ph un) := standKey _ _ _ _
@[simp] theorem caOverrun (ph un : Nat) : OffClock (CaOverrun.key ph un) := standKey _ _ _ _
@[simp] theorem caObAccess (ph un : Nat) : OffClock (CaObAccess.key ph un) := standKey _ _ _ _
@[simp] theorem caCoreEcc (ph un : Nat) : OffClock (CaCoreEcc.key ph un) := standKey _ _ _ _
@[simp] theorem caHeartbeat (ph un : Nat) : OffClock (CaHeartbeat.key ph un) := standKey _ _ _ _
@[simp] theorem caCtrState (ph un c : Nat) : OffClock (CaCtrState.key ph un c) := standKey _ _ _ _
@[simp] theorem caCtrStatus (ph un c : Nat) : OffClock (CaCtrStatus.key ph un c) := standKey _ _ _ _
@[simp] theorem caBtnState (ph un : Nat) : OffClock (CaBtnState.key ph un) := standKey _ _ _ _
@[simp] theorem caBtnError (ph un : Nat) : OffClock (CaBtnError.key ph un) := standKey _ _ _ _
@[simp] theorem nodeSteerState (ph un u : Nat) : OffClock (NodeSteerState.key ph un u) := standKey _ _ _ _
@[simp] theorem nodeSteerCount (ph un u : Nat) : OffClock (NodeSteerCount.key ph un u) := standKey _ _ _ _
@[simp] theorem nodeSteerErr (ph un u : Nat) : OffClock (NodeSteerErr.key ph un u) := standKey _ _ _ _
@[simp] theorem maGenState (ph un g : Nat) : OffClock (MaGenState.key ph un g) := standKey _ _ _ _
@[simp] theorem maGenSeq (ph un g : Nat) : OffClock (MaGenSeq.key ph un g) := standKey _ _ _ _
@[simp] theorem maGenCount (ph un g : Nat) : OffClock (MaGenCount.key ph un g) := standKey _ _ _ _
@[simp] theorem maSbStatus (ph un : Nat) : OffClock (MaSbStatus.key ph un) := standKey _ _ _ _
@[simp] theorem maEcc (ph un : Nat) : OffClock (MaEcc.key ph un) := standKey _ _ _ _
@[simp] theorem maStatus (ph un : Nat) : OffClock (MaStatus.key ph un) := standKey _ _ _ _
@[simp] theorem hubHdlAddr (ph un : Nat) : OffClock (HubHdlAddr.key ph un) := standKey _ _ _ _
@[simp] theorem hubHdlLen (ph un : Nat) : OffClock (HubHdlLen.key ph un) := standKey _ _ _ _
@[simp] theorem nodeStatus (ph un : Nat) : OffClock (NodeStatus.key ph un) := standKey _ _ _ _
@[simp] theorem nodeSlip (ph un : Nat) : OffClock (NodeSlip.key ph un) := standKey _ _ _ _
@[simp] theorem nodeNoprog (ph un : Nat) : OffClock (NodeNoprog.key ph un) := standKey _ _ _ _
@[simp] theorem nodeLinkErr (ph un : Nat) : OffClock (NodeLinkErr.key ph un) := standKey _ _ _ _
@[simp] theorem nodePorthold (ph un : Nat) : OffClock (NodePorthold.key ph un) := standKey _ _ _ _
@[simp] theorem seamStatus (ph un : Nat) : OffClock (SeamStatus.key ph un) := standKey _ _ _ _
@[simp] theorem seamCount (ph un : Nat) : OffClock (SeamCount.key ph un) := standKey _ _ _ _
@[simp] theorem caSparse (ph un : Nat) : OffClock (CaSparse.key ph un) := standKey _ _ _ _
@[simp] theorem dslStatus (ph un : Nat) : OffClock (DslStatus.key ph un) := standKey _ _ _ _
@[simp] theorem dslEcc (ph un : Nat) : OffClock (DslEcc.key ph un) := standKey _ _ _ _
@[simp] theorem dslCount (ph un : Nat) : OffClock (DslCount.key ph un) := standKey _ _ _ _
@[simp] theorem dslScrub (ph un : Nat) : OffClock (DslScrub.key ph un) := standKey _ _ _ _
@[simp] theorem hubCfg (p : Nat) : OffClock (HubCfg.key p) := standKey _ _ _ _
@[simp] theorem hubDescAccess (p : Nat) : OffClock (HubDescAccess.key p) := standKey _ _ _ _
@[simp] theorem hubTap (p t : Nat) : OffClock (HubTap.key p t) := standKey _ _ _ _
@[simp] theorem hubQCfg (p q : Nat) : OffClock (HubQCfg.key p q) := standKey _ _ _ _
@[simp] theorem hubQState (p q : Nat) : OffClock (HubQState.key p q) := standKey _ _ _ _
@[simp] theorem engStatus (ring : Bool) (ph cl u : Nat) : OffClock (EngStatus.key ring ph cl u) := engineKey _ _ _ _ _
@[simp] theorem engCount (ring : Bool) (ph cl u : Nat) : OffClock (EngCount.key ring ph cl u) := engineKey _ _ _ _ _
@[simp] theorem cvuCfg (ring : Bool) (ph u : Nat) : OffClock (CvuCfg.key ring ph u) := cvuKey _ _ _ _
@[simp] theorem cvuValue (ring : Bool) (ph u : Nat) : OffClock (CvuValue.key ring ph u) := cvuKey _ _ _ _
@[simp] theorem cvuStatus (ring : Bool) (ph u : Nat) : OffClock (CvuStatus.key ring ph u) := cvuKey _ _ _ _
@[simp] theorem tlyCount (ring : Bool) (ph u : Nat) : OffClock (TlyCount.key ring ph u) := tallyKey _ _ _ _
@[simp] theorem tlyCfg (ring : Bool) (ph u : Nat) : OffClock (TlyCfg.key ring ph u) := tallyKey _ _ _ _
@[simp] theorem tlyWatchBase (ring : Bool) (ph u : Nat) : OffClock (TlyWatchBase.key ring ph u) := tallyKey _ _ _ _
@[simp] theorem tlyWatchLimit (ring : Bool) (ph u : Nat) : OffClock (TlyWatchLimit.key ring ph u) := tallyKey _ _ _ _
@[simp] theorem tlyStatus (ring : Bool) (ph u : Nat) : OffClock (TlyStatus.key ring ph u) := tallyKey _ _ _ _
@[simp] theorem iorPortCount (un : Nat) : OffClock (IorPortCount.key un) := ringKey _ _ (by decide)
@[simp] theorem rgrGulSafe : OffClock RgrGulSafe.key := ringKey _ _ (by decide)
@[simp] theorem rgrExc (k : Nat) : OffClock (RgrExc.key k) := ringKey _ _ (by decide)
@[simp] theorem rgrLsStatus : OffClock RgrLsStatus.key := ringKey _ _ (by decide)
@[simp] theorem rgrLsMatch : OffClock RgrLsMatch.key := ringKey _ _ (by decide)
@[simp] theorem rgrLsMismatch : OffClock RgrLsMismatch.key := ringKey _ _ (by decide)
@[simp] theorem rgrLsCount : OffClock RgrLsCount.key := ringKey _ _ (by decide)
@[simp] theorem clkRefStatus : OffClock ClkRefStatus.key := ⟨by decide, by decide⟩
@[simp] theorem clkSrcSel (p : Nat) : OffClock (ClkSrcSel.key p) := standKey _ _ _ _
@[simp] theorem clkSrcStatus (p : Nat) : OffClock (ClkSrcStatus.key p) := standKey _ _ _ _
@[simp] theorem clkDiv (p : Nat) : OffClock (ClkDiv.key p) := standKey _ _ _ _
@[simp] theorem clkGateState (p : Nat) : OffClock (ClkGateState.key p) := standKey _ _ _ _
@[simp] theorem clkPath (p : Nat) : OffClock (ClkPath.key p) := standKey _ _ _ _
@[simp] theorem pwrCeiling : OffClock PwrCeiling.key := ringKey _ _ (by decide)
@[simp] theorem pwrCap : OffClock PwrCap.key := ringKey _ _ (by decide)
@[simp] theorem pwrStatus : OffClock PwrStatus.key := ringKey _ _ (by decide)
@[simp] theorem pwrEnergy : OffClock PwrEnergy.key := ringKey _ _ (by decide)
@[simp] theorem pwrInput : OffClock PwrInput.key := ringKey _ _ (by decide)
@[simp] theorem pwrCount : OffClock PwrCount.key := ringKey _ _ (by decide)
@[simp] theorem pwrRingTemp0 : OffClock PwrRingTemp0.key := ringKey _ _ (by decide)
@[simp] theorem pwrRingTemp1 : OffClock PwrRingTemp1.key := ringKey _ _ (by decide)
@[simp] theorem pwrTile (i : Nat) : OffClock (PwrTile.key i) := ringKey _ _ (by decide)
@[simp] theorem pwrStandEst (p : Nat) : OffClock (PwrStandEst.key p) := standKey _ _ _ _
@[simp] theorem pwrStandTemp (p : Nat) : OffClock (PwrStandTemp.key p) := standKey _ _ _ _
@[simp] theorem pwrStandCount (p : Nat) : OffClock (PwrStandCount.key p) := standKey _ _ _ _
@[simp] theorem iorBringupStatus : OffClock IorBringupStatus.key := ringKey _ _ (by decide)
@[simp] theorem iorBringupCount : OffClock IorBringupCount.key := ringKey _ _ (by decide)
@[simp] theorem iorBringupStand (i : Nat) : OffClock (IorBringupStand.key i) := ringKey _ _ (by decide)
@[simp] theorem stdRow (p y : Nat) : OffClock (StdRow.key p y) := standKey _ _ _ _
@[simp] theorem rgrBlzLast : OffClock RgrBlzLast.key := ringKey _ _ (by decide)
@[simp] theorem rgrBlzTime : OffClock RgrBlzTime.key := ringKey _ _ (by decide)
@[simp] theorem rgrBlzState : OffClock RgrBlzState.key := ringKey _ _ (by decide)
@[simp] theorem rgrPar (g : Nat) : OffClock (RgrPar.key g) := ringKey _ _ (by decide)
@[simp] theorem otpId : OffClock OtpId.key := ringKey _ _ (by decide)
@[simp] theorem otpStageAccess : OffClock OtpStageAccess.key := ringKey _ _ (by decide)
@[simp] theorem rgrFwStatus : OffClock RgrFwStatus.key := ringKey _ _ (by decide)
@[simp] theorem secStatus : OffClock SecStatus.key := ringKey _ _ (by decide)
@[simp] theorem clkTime : OffClock ClkTime.key := ⟨by decide, by decide⟩
@[simp] theorem clkPpsStatus : OffClock ClkPpsStatus.key := ⟨by decide, by decide⟩
@[simp] theorem clkPpsCapture : OffClock ClkPpsCapture.key := ⟨by decide, by decide⟩
@[simp] theorem crCfg (port r : Nat) : OffClock (crCfgKey port r) := ringKey _ _ (by decide)
@[simp] theorem evqCfg (port : Nat) : OffClock (evqCfgKey port) := ringKey _ _ (by decide)
@[simp] theorem gqCfg (port q : Nat) : OffClock (gqCfgKey port q) := ringKey _ _ (by decide)

end OffClock

/-! ### The rules -/

namespace Keeps

variable {s t u : State}

theorem refl (s : State) : Keeps s s := ⟨id, id, fun _ => id, rfl⟩

theorem trans (h : Keeps s t) (k : Keeps t u) : Keeps s u :=
  ⟨fun w => k.registers (h.registers w), fun m => k.memory (h.memory m),
    fun w c => k.clock (h.registers w) (h.clock w c), k.fuses.trans h.fuses⟩

/-- A change of the register file alone. -/
theorem edit (h : Keeps s t) (hw : Registers.wf t = true → Registers.wf u = true)
    (hc : Registers.wf t = true → SameClock t u) (e : storesOf u = storesOf t := by rfl) : Keeps s u := by
  have hg : u.ringClk.glide = t.ringClk.glide := congrArg (·.2.1) e
  have hf : u.fuses = t.fuses := congrArg (·.1) e
  exact h.trans ⟨hw, memForm_of_stores e, fun w c => slotClockOk_of_same (hc w) hg c, hf⟩

/-- A change outside the registers and the stores. The fields stand one by one: under storesOf the two states would be
compared whole. -/
theorem frame (h : Keeps s t)
    (e : (u.regs, u.fuses, u.ringClk.glide, u.mem, u.ob, u.hostMem, u.peerMem, u.descs, u.otpStage) =
      (t.regs, t.fuses, t.ringClk.glide, t.mem, t.ob, t.hostMem, t.peerMem, t.descs, t.otpStage)) : Keeps s u := by
  simp only [Prod.mk.injEq] at e
  obtain ⟨hr, hf, hg, hm, ho, hh, hp, hd, ht⟩ := e
  refine h.edit (fun w => ?_) (fun _ => ?_) (by simp only [storesOf, hf, hg, hm, ho, hh, hp, hd, ht])
  · rwa [Registers.wf, hr]
  · simp only [SameClock, rf, rg, hr, and_self]

/-- A change of the byte memories alone. -/
theorem bytes (h : Keeps s t) (hm : MemForm t → MemForm u)
    (e : (u.regs, u.fuses, u.ringClk.glide) = (t.regs, t.fuses, t.ringClk.glide) := by rfl) : Keeps s u := by
  simp only [Prod.mk.injEq] at e
  obtain ⟨hr, hf, hg⟩ := e
  refine h.trans ⟨fun w => ?_, hm, fun _ c => slotClockOk_of_same ?_ hg c, hf⟩
  · rwa [Registers.wf, hr]
  · simp only [SameClock, rf, rg, hr, and_self]

/-! ### Fields outside the registers and the stores -/

theorem setArb {x : Option (Nat × Cmd)} (h : Keeps s t) : Keeps s { t with arb := x } := h.frame rfl

theorem setGul {x : Gul} (h : Keeps s t) : Keeps s { t with gul := x } := h.frame rfl

theorem setPower {x : Power} (h : Keeps s t) : Keeps s { t with power := x } := h.frame rfl

theorem setBring {x : BringUp} (h : Keeps s t) : Keeps s { t with bring := x } := h.frame rfl

theorem setModeBring {m : ModState} {x : BringUp} (h : Keeps s t) : Keeps s { t with mode := m, bring := x } := h.frame rfl

theorem setModeGul {m : ModState} {x : Gul} (h : Keeps s t) : Keeps s { t with mode := m, gul := x } := h.frame rfl

theorem setExcBase {x : List (Nat × Int)} (h : Keeps s t) : Keeps s { t with excBase := x } := h.frame rfl

theorem setSnaps {x : List Snap} (h : Keeps s t) : Keeps s { t with snaps := x } := h.frame rfl

theorem setHubQs {x : List (Nat × HubQ)} (h : Keeps s t) : Keeps s { t with hubQs := x } := h.frame rfl

theorem setEpoch {x : Nat} (h : Keeps s t) : Keeps s { t with epoch := x } := h.frame rfl

theorem setLsOn {x : Lockstep} (h : Keeps s t) : Keeps s { t with lsOn := x } := h.frame rfl

/-- A block goes to the lockstep partner's memory. -/
theorem putPeer {a : Nat} {bs : List Byte} {x : Lockstep} (h : Keeps s t) :
    Keeps s { t with peerMem := smapSetMany memDflt t.peerMem a bs, lsOn := x } :=
  h.bytes fun ⟨hm, ho, hh, hp, hr⟩ => ⟨hm, ho, hh, smapOk_smapSetMany _ _ _ _ hp, hr⟩

/-! ### Control -/

section
variable {α β γ δ : Type}

theorem ite {c : Prop} {_ : Decidable c} (h : Keeps s t) (k : Keeps s u) : Keeps s (if c then t else u) := by
  split
  · exact h
  · exact k

theorem ite_snd {c : Prop} {_ : Decidable c} {x y : α × State} (h : Keeps s x.2) (k : Keeps s y.2) :
    Keeps s (if c then x else y).2 := by
  split
  · exact h
  · exact k

theorem ite_snd_snd {c : Prop} {_ : Decidable c} {x y : α × β × State} (h : Keeps s x.2.2) (k : Keeps s y.2.2) :
    Keeps s (if c then x else y).2.2 := by
  split
  · exact h
  · exact k

theorem of_eq {x : α × State} {a : α} (h : Keeps s x.2) (e : x = (a, u)) : Keeps s u := by
  rw [e] at h
  exact h

/-- A definition seen through what it is defined as. -/
theorem of_def {P : α → Prop} {f g : α} (e : f = g) (h : P g) : P f := e ▸ h

theorem foldl {f : State → α → State} {l : List α} (h : Keeps s t) (hf : ∀ u a, Keeps s u → Keeps s (f u a)) :
    Keeps s (l.foldl f t) := by
  induction l generalizing t with
  | nil => exact h
  | cons a l ih => exact ih (hf t a h)

theorem foldl_mem {f : State → α → State} {l : List α} (h : Keeps s t) (hf : ∀ u, ∀ a ∈ l, Keeps s u → Keeps s (f u a)) :
    Keeps s (l.foldl f t) := by
  induction l generalizing t with
  | nil => exact h
  | cons a l ih => exact ih (hf t a (by simp) h) fun u b hb => hf u b (by simp [hb])

theorem foldl_snd {f : β × State → α → β × State} {l : List α} {x : β × State} (h : Keeps s x.2)
    (hf : ∀ y a, Keeps s y.2 → Keeps s (f y a).2) : Keeps s (l.foldl f x).2 := by
  induction l generalizing x with
  | nil => exact h
  | cons a l ih => exact ih (hf x a h)

theorem foldl_snd3 {f : β × γ × δ × State → α → β × γ × δ × State} {l : List α} {x : β × γ × δ × State}
    (h : Keeps s x.2.2.2) (hf : ∀ y a, Keeps s y.2.2.2 → Keeps s (f y a).2.2.2) : Keeps s (l.foldl f x).2.2.2 := by
  induction l generalizing x with
  | nil => exact h
  | cons a l ih => exact ih (hf x a h)

end

/-! ### Registers -/

theorem rput {k : Nat} {w : Word} (h : Keeps s t) (hk : OffClock k := by simp) : Keeps s (Machine.rput k w t) := by
  refine h.edit (fun hw => smapOk_smapSet _ _ _ _ hw) (fun _ => ?_)
  obtain ⟨hc, hs⟩ := hk
  simp only [SameClock, rf, rg, Machine.rput, smapGet_smapSet_other _ _ _ _ _ (Ne.symm hc),
    smapGet_smapSet_other _ _ _ _ _ (Ne.symm hs), and_self]

theorem rfput {k : Nat} {f : Fld} {v : Nat} (h : Keeps s t) (hk : OffClock k := by simp) :
    Keeps s (Machine.rfput k f v t) := h.rput hk

theorem rfsat {k : Nat} {f : Fld} {n : Nat} (h : Keeps s t) (hk : OffClock k := by simp) :
    Keeps s (Machine.rfsat k f n t) := h.rfput hk

theorem rfadd {k : Nat} {f : Fld} {n : Nat} (h : Keeps s t) (hk : OffClock k := by simp) :
    Keeps s (Machine.rfadd k f n t) := h.rfput hk

theorem rreset {k : Nat} (h : Keeps s t) (hk : OffClock k := by simp) : Keeps s (Machine.rreset k t) := h.rput hk

/-- The entries that go leave the slot clock's. -/
theorem keepRegs {p : Nat → Bool} (h : Keeps s t) (hp : ∀ k, ¬OffClock k → p k = true) :
    Keeps s { t with regs := smapKeep p t.regs } := by
  refine h.edit (smapOk_smapKeep _ _ _) (fun _ => ?_)
  have hc : p ClkSlotCfg.key = true := hp _ (fun h => h.1 rfl)
  have hs : p ClkSlotStatus.key = true := hp _ (fun h => h.2 rfl)
  simp only [SameClock, rf, rg, smapGet_smapKeep, hc, hs, if_true, and_self]

end Keeps

/-! ### The slot clock -/

theorem slotCeil_lt : Config.slotCeilKhz < 0xFFFFFFFF := by
  unfold Config.slotCeilKhz
  split <;> decide

theorem regReset_slotCfg : regReset ClkSlotCfg.key = BitVec.ofNat 64 Config.slotCeilKhz := rfl

theorem khz_regReset : fldGet ClkSlotCfg.khz (regReset ClkSlotCfg.key) = Config.slotCeilKhz := by
  have := slotCeil_lt
  rw [regReset_slotCfg]
  simp only [fldGet, ClkSlotCfg.khz, BitVec.toNat_ofNat]
  omega

theorem regReset_slotStatus : regReset ClkSlotStatus.key = 0 := by decide

theorem slotClockOk_reset : slotClockOk State.reset := by
  refine ⟨?_, ?_, nofun⟩
  · exact (congrArg _ regReset_slotStatus).trans_le (Nat.zero_le _)
  · exact khz_regReset.le

/-- The bits of the mask stay, the others take their reset value. -/
def maskedReset (m r v : Word) : Word := v &&& m ||| r &&& ~~~m

theorem maskedReset_self (m r : Word) : maskedReset m r r = r := by
  rw [maskedReset, ← BitVec.and_or_distrib_left, BitVec.or_not_self, BitVec.and_allOnes]

theorem maskedReset_zero (r v : Word) : maskedReset 0#64 r v = r := by
  simp only [maskedReset, BitVec.and_zero, BitVec.zero_or, BitVec.not_zero, BitVec.and_allOnes]

theorem maskedReset_allOnes (r v : Word) : maskedReset allOnes r v = v := by
  have : ~~~allOnes = 0#64 := by decide
  rw [maskedReset, this, show allOnes = BitVec.allOnes 64 by decide, BitVec.and_allOnes, BitVec.and_zero, BitVec.or_zero]

theorem khz_maskedReset (r v : Word) : fldGet ClkSlotCfg.khz (maskedReset 0xFFFFFFFF r v) = fldGet ClkSlotCfg.khz v := by
  have hlow : (maskedReset 0xFFFFFFFF r v).setWidth 32 = v.setWidth 32 := by
    rw [maskedReset, BitVec.setWidth_or, BitVec.setWidth_and, BitVec.setWidth_and,
      show (0xFFFFFFFF : Word).setWidth 32 = BitVec.allOnes 32 by decide,
      show (~~~(0xFFFFFFFF : Word)).setWidth 32 = 0#32 by decide, BitVec.and_allOnes, BitVec.and_zero, BitVec.or_zero]
  simpa [fldGet, ClkSlotCfg.khz] using congrArg BitVec.toNat hlow

namespace Keeps

variable {s t u : State}

/-- A change of the registers and of the glide that leaves the slot clock within the ceiling. -/
theorem clockEdit (h : Keeps s t) (hw : Registers.wf t = true → Registers.wf u = true)
    (hc : Registers.wf s = true → slotClockOk s → slotClockOk u)
    (e : (storesOf u).1 = (storesOf t).1 ∧ (storesOf u).2.2 = (storesOf t).2.2 := by exact ⟨rfl, rfl⟩) : Keeps s u := by
  refine ⟨fun w => hw (h.registers w), fun m => ?_, hc, e.1.trans h.fuses⟩
  exact memForm_of_stores (t := { t with ringClk := u.ringClk, fuses := u.fuses }) (Prod.ext rfl (Prod.ext rfl e.2))
    (h.memory m)

/-- What a step that begins in s takes for a slot clock is within the ceiling, if the slot clock of s was. -/
def Within (s : State) (khz : Nat) : Prop := Registers.wf s = true → slotClockOk s → khz ≤ Config.slotCeilKhz

theorem within_khz (h : Keeps s t) : Within s (rf t ClkSlotCfg.key ClkSlotCfg.khz) := fun w ok => (h.clock w ok).2.1

theorem within_current (h : Keeps s t) : Within s (rf t ClkSlotStatus.key ClkSlotStatus.currentKhz) :=
  fun w ok => (h.clock w ok).1

theorem within_glide {khz : Nat} (h : Keeps s t) (hg : t.ringClk.glide = some khz) : Within s khz :=
  fun w ok => (h.clock w ok).2.2 _ hg

/-- The glide's target is set within the ceiling, or dropped. -/
theorem putRingClk {c : RingClk} (h : Keeps s t)
    (hc : ∀ khz, c.glide = some khz → Within s khz) : Keeps s { t with ringClk := c } :=
  h.clockEdit id fun w ok => ⟨(h.clock w ok).1, (h.clock w ok).2.1, fun khz hg => hc khz hg w ok⟩

/-- The configured slot clock is set within the ceiling. -/
theorem putKhz {khz : Nat} (h : Keeps s t) (hk : Within s khz) :
    Keeps s (Machine.rfput ClkSlotCfg.key ClkSlotCfg.khz khz t) := by
  refine h.clockEdit (smapOk_smapSet _ _ _ _) fun w ok => ⟨?_, ?_, (h.clock w ok).2.2⟩
  · rw [rf, rg, Machine.rfput, Machine.rput, smapGet_smapSet_other _ _ _ _ _ (by decide)]
    exact (h.clock w ok).1
  · rw [rf, rg, Machine.rfput, Machine.rput, smapGet_smapSet_self, fldGet_fldSet _ _ _ (by decide)]
    exact (Nat.mod_le _ _).trans (hk w ok)

/-- The running slot clock is set within the ceiling. -/
theorem putCurrentKhz {khz : Nat} (h : Keeps s t) (hk : Within s khz) :
    Keeps s (Machine.rfput ClkSlotStatus.key ClkSlotStatus.currentKhz khz t) := by
  refine h.clockEdit (smapOk_smapSet _ _ _ _) fun w ok => ⟨?_, ?_, (h.clock w ok).2.2⟩
  · rw [rf, rg, Machine.rfput, Machine.rput, smapGet_smapSet_self, fldGet_fldSet _ _ _ (by decide)]
    exact (Nat.mod_le _ _).trans (hk w ok)
  · rw [rf, rg, Machine.rfput, Machine.rput, smapGet_smapSet_other _ _ _ _ _ (by decide)]
    exact (h.clock w ok).2.1

/-- GLIDING and LOCKED lie below CURRENT_KHZ (R440). -/
theorem putSlotStatus {f : Fld} {v : Nat} (h : Keeps s t) (hf : f.hi < 32 := by decide) :
    Keeps s (Machine.rfput ClkSlotStatus.key f v t) := by
  refine h.edit (smapOk_smapSet _ _ _ _) fun _ => ⟨?_, ?_⟩
  · rw [rf, rg, Machine.rfput, Machine.rput, smapGet_smapSet_other _ _ _ _ _ (by decide)]
    rfl
  · rw [rf, rg, Machine.rfput, Machine.rput, smapGet_smapSet_self, fldGet_fldSet_other _ _ _ _ (Or.inr hf)]
    rfl

/-- The values of registers change in place where each field of the slot clock stays or the register is reset. -/
theorem retouchRegs {g : Nat → Word → Word} (h : Keeps s t)
    (hr : ∀ k, ¬OffClock k → g k (regReset k) = regReset k)
    (hc : ∀ w, fldGet ClkSlotCfg.khz (g ClkSlotCfg.key w) = fldGet ClkSlotCfg.khz w ∨
      g ClkSlotCfg.key w = regReset ClkSlotCfg.key)
    (hs : ∀ w, fldGet ClkSlotStatus.currentKhz (g ClkSlotStatus.key w) = fldGet ClkSlotStatus.currentKhz w ∨
      g ClkSlotStatus.key w = regReset ClkSlotStatus.key) :
    Keeps s { t with regs := retouch regReset g t.regs } := by
  refine h.clockEdit (smapOkFrom_retouch _ _) fun w ok => ?_
  have hw := h.registers w
  obtain ⟨ok1, ok2, ok3⟩ := h.clock w ok
  refine ⟨?_, ?_, ok3⟩
  · rw [rf, rg, smapGet_retouch _ _ _ (hr _ fun h => h.2 rfl) hw]
    rcases hs (rg t ClkSlotStatus.key) with e | e
    · exact e.trans_le ok1
    · rw [← rg, e, regReset_slotStatus]
      exact Nat.zero_le _
  · rw [rf, rg, smapGet_retouch _ _ _ (hr _ fun h => h.1 rfl) hw]
    rcases hc (rg t ClkSlotCfg.key) with e | e
    · exact e.trans_le ok2
    · rw [← rg, e, khz_regReset]

end Keeps

/-- The forms and the slot clock are kept, whatever becomes of the fuses. -/
def KeepsForms (s t : State) : Prop := Keeps { s with fuses := t.fuses } t

theorem Keeps.forms {s t : State} (h : Keeps s t) : KeepsForms s t := ⟨h.registers, h.memory, h.clock, rfl⟩

theorem KeepsForms.after {s t u : State} (h : KeepsForms s t) (k : Keeps t u) : KeepsForms s u := (h.trans k).forms

/-! ## The functions of the model -/

namespace Keeps

variable {s t u : State}

/-! ### Machine/Ops -/

theorem flipParity {w : Nat} (h : Keeps s t) : Keeps s (Machine.flipParity w t) := h.frame rfl

theorem writeRaw {k : Nat} {bs : List Byte} (h : Keeps s t) : Keeps s (Machine.writeRaw k bs t) :=
  h.bytes fun ⟨hm, hr⟩ => ⟨smapOk_smapSetMany _ _ _ _ hm, hr⟩

theorem writeBytes {k : Nat} {bs : List Byte} (h : Keeps s t) : Keeps s (Machine.writeBytes k bs t) := by
  have hfix : ∀ w v, Keeps s v → Keeps s (match readWord v (8 * w) with
      | some (d, true) => Machine.writeRaw (8 * w) (bytesLE 8 d.toNat) v
      | _ => v) := fun w v h => by
    split
    · exact h.writeRaw
    · exact h
  exact .ite h (.writeRaw (hfix _ _ (hfix _ _ h)))

theorem setTag {k : Nat} {b : Bool} (h : Keeps s t) : Keeps s (Machine.setTag k b t) := h.frame rfl

theorem countErr {st : Status} {src phys addr : Nat} (h : Keeps s t) : Keeps s (Machine.countErr st src phys addr t) :=
  h.rfsat.rput.rput

theorem putPort {p : Nat} {v : Port} (h : Keeps s t) : Keeps s (Machine.putPort p v t) := h.frame rfl

theorem putRing {p r : Nat} {v : CRing} (h : Keeps s t) : Keeps s (Machine.putRing p r v t) := h.frame rfl

theorem putStand {p : Nat} {v : Stand} (h : Keeps s t) : Keeps s (Machine.putStand p v t) := h.frame rfl

theorem putStage {k : Nat} {v : Stage} (h : Keeps s t) : Keeps s (Machine.putStage k v t) := h.frame rfl

theorem putArr {k : Nat} {v : CArray} (h : Keeps s t) : Keeps s (Machine.putArr k v t) := h.frame rfl

theorem putSess {k : Nat} {v : Option Session} (h : Keeps s t) : Keeps s (Machine.putSess k v t) := h.frame rfl

theorem hostWrite {addr : Nat} {bs : List Byte} (h : Keeps s t) : Keeps s (Machine.hostWrite addr bs t) :=
  h.bytes fun ⟨hm, ho, hh, hr⟩ => ⟨hm, ho, smapOk_smapSetMany _ _ _ _ hh, hr⟩

theorem raiseIrq {p v : Nat} (h : Keeps s t) : Keeps s (Machine.raiseIrq p v t) := h.putPort

theorem eventCopy {r : Report} {p : Nat} (h : Keeps s t) : Keeps s (Machine.eventCopy r p t) :=
  .ite h (.ite h.putPort.rfsat (.ite h.hostWrite.putPort.raiseIrq h.hostWrite.putPort))

theorem report {st : Status} {taint : Bool} {src : Nat} {loc addr : Word} {data : List Byte} (h : Keeps s t) :
    Keeps s (Machine.report st taint src loc addr data t) :=
  .eventCopy (.eventCopy (.eventCopy (.eventCopy (h.frame rfl))))

theorem reportRefusal {st : Status} {loc : Word} {data : List Byte} (h : Keeps s t) :
    Keeps s (Machine.reportRefusal st loc data t) :=
  h.report.frame rfl

theorem taint {st : Status} {addr : Word} (h : Keeps s t) : Keeps s (Machine.taint st addr t) := h.frame rfl

theorem noteStall {p : Nat} (h : Keeps s t) : Keeps s (Machine.noteStall p t) := .putPort (.rfsat (h.frame rfl))

theorem draw (h : Keeps s t) : Keeps s (Machine.draw t).2 := h.frame rfl

/-! ### Machine/Operands -/

theorem obWrite {l : Loc} {lane b : Nat} {bs : List Byte} (h : Keeps s t) :
    Keeps s (Machine.obWrite l lane b bs t) := by
  induction bs generalizing b t with
  | nil => exact h
  | cons v vs ih => exact ih (h.bytes fun ⟨hm, ho, hr⟩ => ⟨hm, smapOk_smapSet _ _ _ _ ho, hr⟩)

/-! ### Machine/StageMem -/

theorem touchCore {p a n : Nat} (h : Keeps s t) : Keeps s (Machine.touchCore p a n t) := h.putArr

/-! ### Machine/Access -/

theorem putLog {p : Nat} {v : ParityLog} (h : Keeps s t) : Keeps s (Machine.putLog p v t) := h.frame rfl

theorem journal {p sl off : Nat} {old new : List Byte} (h : Keeps s t) : Keeps s (Machine.journal p sl off old new t) :=
  .ite h (.ite h.putLog.report h.putLog)

theorem dramWrite {p sl off addr : Nat} {bs : List Byte} (h : Keeps s t) :
    Keeps s (Machine.dramWrite p sl off addr bs t) :=
  .ite h.writeBytes.journal h.writeBytes

theorem dramUncorrectable {p sl off : Nat} (h : Keeps s t) : Keeps s (Machine.dramUncorrectable p sl off t) :=
  .report (.taint (.rfsat (.ite h.rfput h)))

/-- The definition is opened as a function: applied, the kernel would evaluate the address that it reads. -/
theorem dramRead {p sl off n : Nat} (h : Keeps s t) : Keeps s (Machine.dramRead p sl off n t).2 := by
  obtain ⟨x, hx⟩ : ∃ x, Machine.dramRead p sl off n t = x := ⟨_, rfl⟩
  rw [hx]
  refine of_def (f := Machine.dramRead) (P := fun f => f p sl off n t = x → Keeps s x.2)
    (by delta Machine.dramRead; exact rfl) ?_ hx
  beta_reduce
  generalize readBytes t (dramKey p sl off) n = y
  rcases y with k | ⟨bs, c⟩
  · rintro rfl
    exact h.dramUncorrectable
  · have hc : Keeps s (if c = 0 then t else Machine.rfsat (DslEcc.key p sl) DslEcc.corrected c t) := .ite h h.rfsat
    rintro rfl
    exact .ite_snd (hc.frame rfl) hc

theorem sramUncorrectable {p a off : Nat} (h : Keeps s t) : Keeps s (Machine.sramUncorrectable p a off t) :=
  .report (.taint (.ite (.ite h h.rfput.rfput) (.ite h h.rfput.rfput)))

theorem sramCorrected {p a c : Nat} (h : Keeps s t) : Keeps s (Machine.sramCorrected p a c t) :=
  .ite h (.ite h.rfsat h.rfsat)

theorem putMemArr {p a : Nat} {v : MemArr} (h : Keeps s t) : Keeps s (Machine.putMemArr p a v t) := h.frame rfl

theorem slotUsed {p a n : Nat} {consumed : Bool} (h : Keeps s t) : Keeps s (Machine.slotUsed p a n consumed t) :=
  .ite h (.ite (.ite h.putMemArr h) h.touchCore.putArr)

theorem slotRead {p a off n form : Nat} (h : Keeps s t) : Keeps s (Machine.slotRead p a off n form t).2 :=
  .ite_snd h (.ite_snd h (by
      split
      · exact h.sramUncorrectable
      · exact .ite h.sramCorrected.setTag h.sramCorrected))

theorem slotWrite {p a off form : Nat} {bs : List Byte} (h : Keeps s t) :
    Keeps s (Machine.slotWrite p a off form bs t).2 :=
  .ite_snd h (.ite_snd h (.ite_snd h (by
      split
      · exact h.sramUncorrectable
      · exact .ite h.writeBytes h.writeBytes.setTag)))

theorem extRead {p a off n form : Nat} (h : Keeps s t) : Keeps s (Machine.extRead p a off n form t).2 := by
  have hr := h.slotRead (p := p) (a := a) (off := off) (n := n) (form := form)
  refine .ite_snd h ?_
  split
  · next e => exact (hr.of_eq e).slotUsed
  · exact hr

theorem extWrite {p a off form : Nat} {bs : List Byte} (h : Keeps s t) :
    Keeps s (Machine.extWrite p a off form bs t).2 := by
  have hr := h.slotWrite (p := p) (a := a) (off := off) (form := form) (bs := bs)
  refine .ite_snd h ?_
  split
  · next e => exact (hr.of_eq e).slotUsed
  · exact hr

theorem tallyBump {t' : Bool × Nat × Nat} {n : Nat} (h : Keeps s t) : Keeps s (Machine.tallyBump t' n t) := h.rput.rfadd

theorem svcSend {p router : Nat} {k : SvcKind} {loc : Word} (h : Keeps s t) :
    Keeps s (Machine.svcSend p router k loc t) :=
  h.frame rfl

theorem dropWaits {f : Waiter → Bool} (h : Keeps s t) : Keeps s (Machine.dropWaits f t) := h.frame rfl

theorem dropWait {w : Waiter} (h : Keeps s t) : Keeps s (Machine.dropWait w t) := h.dropWaits

theorem addWait {n : Nat} {t' : Word} {w : Waiter} {via : Option MeshSrc} (h : Keeps s t) :
    Keeps s (Machine.addWait n t' w via t) :=
  h.frame rfl

theorem waitStep {home router : Nat} {loc : Word} {n : Nat} {target : Word} {who : Waiter} (h : Keeps s t) :
    Keeps s (Machine.waitStep home router loc n target who t).2 := by
  unfold Machine.waitStep
  split
  · split
    · exact h.dropWait
    · exact .ite_snd h (.ite_snd (h.frame rfl) h)
  · split
    · exact h
    · exact .ite_snd (.ite_snd (h.frame rfl) h.addWait) h.svcSend.addWait

theorem doneSend {home router : Nat} {loc : Word} {tally amount : Nat} (h : Keeps s t) :
    Keeps s (Machine.doneSend home router loc tally amount t).2 := by
  unfold Machine.doneSend
  split
  · exact h
  · exact .ite_snd h.tallyBump h.svcSend

/-! ### Machine/SetupBase -/

theorem countVia {via : Via} {k : Nat} {st : Status} (h : Keeps s t) : Keeps s (Machine.countVia via k st t) :=
  h.countErr

theorem countDenied {via : Via} {k : Nat} {st : Status} (h : Keeps s t) : Keeps s (Machine.countDenied via k st t) :=
  .ite h.countVia.report h.countVia

theorem viaWrite {via : Via} {k : Nat} {f : State → Status × State} (h : Keeps s t)
    (hf : ∀ u, Keeps s u → Keeps s (f u).2) : Keeps s (Machine.viaWrite via k f t).2 := by
  unfold Machine.viaWrite
  split
  · exact h
  · exact .ite h.countDenied h
  · exact .ite (hf _ h) ((hf _ h).countVia)

theorem answerRead {via : Via} {k : Nat} {v : Word} (h : Keeps s t) : Keeps s (Machine.answerRead via k v t) :=
  h.frame rfl

theorem viaRead {via : Via} {k : Nat} {f : State → Except Status (Word × State)} (h : Keeps s t)
    (hf : ∀ u x, Keeps s u → f u = .ok x → Keeps s x.2) : Keeps s (Machine.viaRead via k f t).2.2 := by
  unfold Machine.viaRead
  split
  · exact h
  · exact .ite h.countDenied h
  · split
    · next e => exact hf _ _ h e
    · exact h.countVia

/-- The status of the slot clock has no bit that a set-up write changes (R440). -/
theorem plainWrite {k : Nat} {v : Word} (h : Keeps s t) (hk : k ≠ ClkSlotCfg.key := by simp) :
    Keeps s (Machine.plainWrite k v t) := by
  by_cases hs : k = ClkSlotStatus.key
  · subst hs
    have hd : descOf ClkSlotStatus.key = ⟨0, 0, 0, 0, 0, 0, 0⟩ := by decide
    have hw : ∀ w : Word, (w &&& ~~~0 ||| v &&& 0) &&& ~~~(v &&& 0) = w := fun w => by
      change (w &&& ~~~0#64 ||| v &&& 0#64) &&& ~~~(v &&& 0#64) = w
      simp only [BitVec.and_zero, BitVec.or_zero, BitVec.not_zero, BitVec.and_allOnes]
    refine h.edit (smapOk_smapSet _ _ _ _) fun _ => ?_
    simp only [SameClock, Machine.plainWrite, hd, rf, rg, Machine.rput, smapGet_smapSet_self, hw, and_self,
      smapGet_smapSet_other _ _ _ _ _ (show ClkSlotCfg.key ≠ ClkSlotStatus.key by decide)]
  · exact h.rput ⟨hk, hs⟩

theorem ctlDesc {p cls : Nat} {st : Status} (h : Keeps s t) : Keeps s (Machine.ctlDesc p cls st t) :=
  .ite h.rfadd h.rfadd.rfput.rfput

/-! ### Machine/Cvu -/

theorem cvuSet {ring : Bool} {p u' v : Nat} (h : Keeps s t) : Keeps s (Machine.cvuSet ring p u' v t) := h.rput.rfput

theorem cvuFeed {ring : Bool} {p u' : Nat} {bs : List Byte} (h : Keeps s t) :
    Keeps s (Machine.cvuFeed ring p u' bs t) :=
  h.rput.rfadd

theorem cvuWrite {ring : Bool} {p u' : Nat} {f : State → Status × State} (h : Keeps s t)
    (hf : ∀ u, Keeps s u → Keeps s (f u).2) : Keeps s (Machine.cvuWrite ring p u' f t).2 :=
  .ite_snd h.rfsat (hf _ h)

theorem doCvuFeed {via : Via} {k : Nat} {ring : Bool} {p u' n : Nat} {v : Word} (h : Keeps s t) :
    Keeps s (Machine.doCvuFeed via k ring p u' n v t).2 :=
  h.viaWrite (fun _ h => h.cvuWrite (fun _ h => h.cvuFeed))

theorem doCvuValue {via : Via} {ring : Bool} {p u' : Nat} {v : Word} (h : Keeps s t) :
    Keeps s (Machine.doCvuValue via ring p u' v t).2 :=
  h.viaWrite (fun _ h => h.cvuWrite (fun _ h => h.cvuSet))

theorem doCvuCfg {via : Via} {ring : Bool} {p u' : Nat} {v : Word} (h : Keeps s t) :
    Keeps s (Machine.doCvuCfg via ring p u' v t).2 :=
  h.viaWrite (fun _ h => .ite_snd h (h.cvuWrite (fun _ h => .ite h.plainWrite.cvuSet h.plainWrite)))

theorem doCvuParam {via : Via} {k : Nat} {ring : Bool} {p u' : Nat} {v : Word} (h :
    Keeps s t) (hk : k ≠ ClkSlotCfg.key) :
    Keeps s (Machine.doCvuParam via k ring p u' v t).2 :=
  h.viaWrite (fun _ h => h.cvuWrite (fun _ h => (h.plainWrite hk)))

/-! ### Machine/Handles -/

theorem stageHdlLen {p h' : Nat} {v : Word} (h : Keeps s t) : Keeps s (Machine.stageHdlLen p h' v t) := h.frame rfl

theorem commitHdl {p h' : Nat} {v : Word} (h : Keeps s t) : Keeps s (Machine.commitHdl p h' v t).2 :=
  .ite_snd h h.plainWrite.rfput.rfadd

theorem obAdvance {p a : Nat} (h : Keeps s t) : Keeps s (Machine.obAdvance p a t) := h.rfadd

theorem obDataWrite {p a : Nat} {v : Word} (h : Keeps s t) : Keeps s (Machine.obDataWrite p a v t).2 :=
  .ite_snd h h.obWrite.obAdvance

theorem obDataRead {p a : Nat} {x : Word × State} (h : Keeps s t) (e : Machine.obDataRead p a t = .ok x) : Keeps s x.2 := by
  unfold Machine.obDataRead at e
  split at e
  · cases e
  · obtain rfl := Except.ok.inj e
    exact h.obAdvance

theorem dataAccess {via : Via} {k : Nat} {write : Bool} {w : State → Status × State}
    {r : State → Except Status (Word × State)} (h : Keeps s t) (hw : ∀ u, Keeps s u → Keeps s (w u).2)
    (hr : ∀ u x, Keeps s u → r u = .ok x → Keeps s x.2) : Keeps s (Machine.dataAccess via k write w r t) :=
  .ite (h.viaWrite hw) (h.viaRead hr).answerRead

theorem putDesc {p o : Nat} {bs : List Byte} (h : Keeps s t) : Keeps s (Machine.putDesc p o bs t) :=
  h.bytes fun ⟨hm, ho, hh, hp, hd, ht⟩ => ⟨hm, ho, hh, hp, smapOk_smapSetMany _ _ _ _ hd, ht⟩

theorem descDataWrite {p : Nat} {v : Word} (h : Keeps s t) : Keeps s (Machine.descDataWrite p v t).2 :=
  .ite_snd h h.putDesc.rfadd

theorem descDataRead {p : Nat} {x : Word × State} (h : Keeps s t) (e : Machine.descDataRead p t = .ok x) : Keeps s x.2 := by
  obtain rfl := Except.ok.inj e
  exact h.rfadd

theorem otpDataWrite {v : Word} (h : Keeps s t) : Keeps s (Machine.otpDataWrite v t).2 :=
  .rfadd (h.bytes fun ⟨hm, ho, hh, hp, hd, ht⟩ => ⟨hm, ho, hh, hp, hd, smapOk_smapSetMany _ _ _ _ ht⟩)

theorem otpDataRead {x : Word × State} (h : Keeps s t) (e : Machine.otpDataRead t = .ok x) : Keeps s x.2 := by
  obtain rfl := Except.ok.inj e
  exact h.rfadd

/-! ### Machine/Retire -/

theorem putFlight {c : Cmd} {l : List Cmd} (h : Keeps s t) : Keeps s (Machine.putFlight c l t) := by
  unfold Machine.putFlight
  split
  · exact h.putRing
  · split
    · exact h.putSess
    · exact h

theorem noteFlight {c : Cmd} (h : Keeps s t) : Keeps s (Machine.noteFlight c t) := .ite h h.putFlight

theorem dropFlight {c : Cmd} (h : Keeps s t) : Keeps s (Machine.dropFlight c t) := .ite (h.frame rfl) h.putFlight

theorem discardRec {r : Retired} (h : Keeps s t) : Keeps s (Machine.discardRec r t) :=
  .ite h (.ite h.reportRefusal h.report)

theorem retireRec {told : Bool} {c : Cmd} {st : Status} {r0 r1 detail : Word} {cv nonrepeat : Bool} (h : Keeps s t) :
    Keeps s (Machine.retireRec told c st r0 r1 detail cv nonrepeat t) :=
  .ite (.discardRec (.dropWait (.dropFlight (h.frame rfl)))) (by
      split
      · exact .putRing (.dropWait (.dropFlight (h.frame rfl)))
      · split
        · exact .putSess (.dropWait (.dropFlight (h.frame rfl)))
        · exact .dropWait (.dropFlight (h.frame rfl)))

theorem retireCmd {c : Cmd} {st : Status} {r0 r1 detail : Word} {cv nonrepeat : Bool} (h : Keeps s t) :
    Keeps s (Machine.retireCmd c st r0 r1 detail cv nonrepeat t) :=
  h.retireRec

theorem retireAs {nonrepeat : Bool} {c : Cmd} {st : Status} {r0 r1 detail : Word} (h : Keeps s t) :
    Keeps s (Machine.retireAs nonrepeat c st r0 r1 detail t) :=
  .ite (by
      split
      · next e => exact (h.doneSend.of_eq e).retireCmd
      · next e => exact .noteFlight ((h.doneSend.of_eq e).frame rfl)
      · next e => exact (h.doneSend.of_eq e).retireCmd) h.retireCmd

theorem retireWith {c : Cmd} {st : Status} {r0 r1 detail : Word} (h : Keeps s t) :
    Keeps s (Machine.retireWith c st r0 r1 detail t) :=
  h.retireAs

theorem retireVerb {c : Cmd} {st : Status} {r0 detail : Word} (h : Keeps s t) :
    Keeps s (Machine.retireVerb c st r0 detail t) :=
  h.retireWith

theorem verbDone {id : MeshSrc} {st : Status} (h : Keeps s t) : Keeps s (Machine.verbDone id st t) := by
  unfold Machine.verbDone
  split
  · exact h
  · exact .retireCmd (h.frame rfl)

theorem refuse {c : Cmd} {st : Status} {detail : Word} (h : Keeps s t) : Keeps s (Machine.refuse c st detail t) :=
  h.retireVerb

theorem cmdWait {c : Cmd} (h : Keeps s t) : Keeps s (Machine.cmdWait c t).2 := .ite_snd h.waitStep h

theorem noteVerb {code : Nat} {c : Cmd} (h : Keeps s t) : Keeps s (Machine.noteVerb code c t) :=
  .noteFlight (.ite (h.frame rfl) h)

theorem cmdArrives {c : Cmd} (h : Keeps s t) : Keeps s (Machine.cmdArrives c t) := by
  unfold Machine.cmdArrives
  split
  · exact h
  · split
    · exact .ite h h.putSess
    · exact h

/-- What holds of every state that the judging of a verb can leave holds of the state that it leaves. -/
theorem judgeVerb_of {code : Nat} {c : Cmd} {bodyOk : Bool} {run : State → State} {P : State → Prop} (h : Keeps s t)
    (hP : ∀ u, Keeps s u → P u) (hrun : ∀ u, Keeps s u → P (run u)) : P (Machine.judgeVerb code c bodyOk run t) := by
  unfold Machine.judgeVerb
  split
  · exact hP _ h
  · split
    · exact hP _ h.noteVerb
    · split
      · next e => exact hP _ (h.cmdWait.of_eq e).refuse
      · next e => exact hP _ (h.cmdWait.of_eq e).noteVerb
      · next e =>
        have hw := h.cmdWait.of_eq e
        split
        · exact hP _ hw.refuse
        · split
          · exact hP _ hw.refuse
          · split
            · exact hP _ hw.refuse
            · split
              · exact hP _ hw.refuse
              · exact hrun _ hw

theorem issueVerb_of {code : Nat} {c : Cmd} {bodyOk : Bool} {run : State → State} {P : State → Prop} (h : Keeps s t)
    (hP : ∀ u, Keeps s u → P u) (hrun : ∀ u, Keeps s u → P (run u)) : P (Machine.issueVerb code c bodyOk run t) := by
  unfold Machine.issueVerb
  split
  · exact h.cmdArrives.judgeVerb_of hP hrun
  · exact hP _ h

theorem issueVerb {code : Nat} {c : Cmd} {bodyOk : Bool} {run : State → State} (h : Keeps s t)
    (hrun : ∀ u, Keeps s u → Keeps s (run u)) : Keeps s (Machine.issueVerb code c bodyOk run t) :=
  h.issueVerb_of (fun _ h => h) hrun

theorem endLong {st : Status} {r0 detail : Word} (h : Keeps s t) : Keeps s (Machine.endLong st r0 detail t) := by
  unfold Machine.endLong
  split
  · exact .retireVerb (h.frame rfl)
  · exact h

theorem beginLong {code : Nat} {c : Cmd} (h : Keeps s t) : Keeps s (Machine.beginLong code c t) :=
  .noteFlight (h.frame rfl)

/-! ### Machine/StageStep -/

theorem advCounter {p a n c : Nat} {bi : List (BitVec 16)} {em : List (Nat × Nat)}
    {x : List (BitVec 16) × List (Nat × Nat) × State} (h : Keeps s t)
    (e : Machine.advCounter p a n c bi em t = .ok x) : Keeps s x.2.2 := by
  induction n generalizing c bi em t with
  | zero =>
    obtain rfl := Except.ok.inj e
    exact h
  | succ n ih =>
    have hadv : ∀ k w, Keeps s w → Keeps s (Machine.rfadd (CaCtrState.key p a c) CaCtrState.advTag 1
        (Machine.rfadd (CaCtrState.key p a c) CaCtrState.value k
          (Machine.rfput (CaCtrStatus.key p a c) CaCtrStatus.waiting 0 w))) := fun _ _ h => h.rfput.rfadd.rfadd
    have hwrap : ∀ (b : Bool) k w, Keeps s w → Keeps s (
        let v := Machine.rfput (CaCtrState.key p a c) CaCtrState.value k
          (Machine.rfput (CaCtrState.key p a c) CaCtrState.index 0
            (Machine.rfadd (CaCtrState.key p a c) CaCtrState.wrapTag 1 w))
        if b = true then Machine.rfput (CaCtrStatus.key p a c) CaCtrStatus.boundValid 0 v else v) :=
      fun _ _ _ h => .ite h.rfadd.rfput.rfput.rfput h.rfadd.rfput.rfput
    unfold Machine.advCounter at e
    dsimp only at e
    split at e
    · cases e
    split at e
    · split at e
      · split at e
        · exact ih (hwrap _ _ _ (hadv _ _ (.rfput (.rfput h)))) e
        · obtain rfl := Except.ok.inj e
          exact hwrap _ _ _ (hadv _ _ (.rfput (.rfput h)))
      · obtain rfl := Except.ok.inj e
        exact .rfput (hadv _ _ (.rfput (.rfput h)))
    · split at e
      · split at e
        · exact ih (hwrap _ _ _ (hadv _ _ h)) e
        · obtain rfl := Except.ok.inj e
          exact hwrap _ _ _ (hadv _ _ h)
      · obtain rfl := Except.ok.inj e
        exact .rfput (hadv _ _ h)

theorem advCounters {p a : Nat} {cs : List Nat} {bi : List (BitVec 16)} {em : List (Nat × Nat)}
    {x : List (BitVec 16) × List (Nat × Nat) × State} (h : Keeps s t)
    (e : Machine.advCounters p a cs bi em t = .ok x) : Keeps s x.2.2 := by
  induction cs generalizing bi em t with
  | nil =>
    obtain rfl := Except.ok.inj e
    exact h
  | cons c cs ih =>
    simp only [Machine.advCounters] at e
    split at e
    · cases e
    · next e' => exact ih (h.advCounter e') e

theorem pushBatons {p a : Nat} {em snd : List (Nat × Nat)} (h : Keeps s t) :
    Keeps s (Machine.pushBatons p a em snd t) :=
  h.putArr.rfadd

theorem traceVec {l : Loc} {v : Vec} (h : Keeps s t) : Keeps s (Machine.traceVec l v t) := .ite h.putArr h

theorem traceSlot {p a : Nat} (h : Keeps s t) : Keeps s (Machine.traceSlot p a t) := .ite h h.putArr

theorem writeDst {l : Loc} {e' : Entry} {r : StepRes} (h : Keeps s t) : Keeps s (Machine.writeDst l e' r t) := by
  unfold Machine.writeDst
  split
  · exact h
  · exact .ite h.putStage (.ite (.foldl h fun _ _ h => h.obWrite) (.ite h.rfadd.putArr.traceVec h))

theorem stepOn {l : Loc} {e' : Entry} (h : Keeps s t) : Keeps s (Machine.stepOn l e' t) :=
  .ite h.rfput.rfput.rfput h.rfput.rfput.rfput.rfput

theorem commitStage {l : Loc} {r : StepRes} (h : Keeps s t) : Keeps s (Machine.commitStage l r t) :=
  .putArr (.ite (.ite (.ite (.rput (.ite h.putStage.rput h.putStage)) (.rfadd (.rput (.ite h.putStage.rput
    h.putStage)))) (.rfput (.ite (.rput (.ite h.putStage.rput h.putStage)) (.rfadd (.rput (.ite h.putStage.rput
    h.putStage)))))) (.putStand (.ite (.ite (.rput (.ite h.putStage.rput h.putStage)) (.rfadd (.rput (.ite
    h.putStage.rput h.putStage)))) (.rfput (.ite (.rput (.ite h.putStage.rput h.putStage)) (.rfadd (.rput (.ite
    h.putStage.rput h.putStage))))))))

theorem commitStore {l : Loc} {r : StepRes} (h : Keeps s t) : Keeps s (Machine.commitStore l r t) := by
  unfold Machine.commitStore
  dsimp only
  split
  · exact .traceVec (.touchCore (.setTag (.writeBytes (.ite (.dropWait (.foldl (.ite (by
        split
        · exact .setTag (.ite h.putStage h)
        · exact .ite h.putStage h)
      (.rfsat (by
          split
          · exact .setTag (.ite h.putStage h)
          · exact .ite h.putStage h)
        )) fun _ _ h => h.report)) (.foldl (.ite (by
            split
            · exact .setTag (.ite h.putStage h)
            · exact .ite h.putStage h)
          (.rfsat (by
              split
              · exact .setTag (.ite h.putStage h)
              · exact .ite h.putStage h))) fun _ _ h => h.report)))))
  · exact .ite (.dropWait (.foldl (.ite (by
        split
        · exact .setTag (.ite h.putStage h)
        · exact .ite h.putStage h)
      (.rfsat (by
          split
          · exact .setTag (.ite h.putStage h)
          · exact .ite h.putStage h)
        )) fun _ _ h => h.report)) (.foldl (.ite (by
            split
            · exact .setTag (.ite h.putStage h)
            · exact .ite h.putStage h)
          (.rfsat (by
              split
              · exact .setTag (.ite h.putStage h)
              · exact .ite h.putStage h))) fun _ _ h => h.report)

theorem commitStep {l : Loc} {e' : Entry} {r : StepRes} (h : Keeps s t) (e : Machine.commitStep l e' r t = .ok u) :
    Keeps s u := by
  unfold Machine.commitStep at e
  dsimp only at e
  split at e
  · cases e
  split at e
  · cases e
  split at e
  · cases e
  split at e
  · cases e
  split at e
  · cases e
  next he =>
    split at e
    all_goals
      split at e
      · cases e
      obtain rfl := Except.ok.inj e
      refine .stepOn ?_
      split
      · exact (h.writeDst.commitStage.commitStore.advCounters he).putArr.pushBatons.putStage
      · exact (h.writeDst.commitStage.commitStore.advCounters he).putArr.pushBatons

theorem stageWaits {l : Loc} {cause : Nat} {ctr : Option Nat} (h : Keeps s t) :
    Keeps s (Machine.stageWaits l cause ctr t) := by
  unfold Machine.stageWaits
  dsimp only
  split
  · exact h.rfput.rfput.rfput
  · exact h.rfput.rfput

theorem stageStops {l : Loc} {st : Status} {lanes : BitVec 16} {data : List Byte} (h : Keeps s t) :
    Keeps s (Machine.stageStops l st lanes data t) :=
  .report (.putStage (.ite (.taint (.ite (.rfput (.rfput (.rfput (.rfput (.rfput (.ite
    h.rfput.rfput.rfput.rfput.rfput.rfput.rfput.rfput h.rfput.rfput.rfput.rfput.rfput.rfput)))))) (.ite
    h.rfput.rfput.rfput.rfput.rfput.rfput.rfput.rfput h.rfput.rfput.rfput.rfput.rfput.rfput))) (.ite (.rfput (.rfput
    (.rfput (.rfput (.rfput (.ite h.rfput.rfput.rfput.rfput.rfput.rfput.rfput.rfput
    h.rfput.rfput.rfput.rfput.rfput.rfput)))))) (.ite h.rfput.rfput.rfput.rfput.rfput.rfput.rfput.rfput
    h.rfput.rfput.rfput.rfput.rfput.rfput))))

theorem stageReplays {l : Loc} {lanes : BitVec 16} (h : Keeps s t) : Keeps s (Machine.stageReplays l lanes t) :=
  .ite h.stageStops h.putStage

theorem stageUncorrectable {l : Loc} {key : Nat} (h : Keeps s t) : Keeps s (Machine.stageUncorrectable l key t) :=
  .ite h (.report (.taint (.ite h.rfput.rfput h.rfput.rfput.rfput.rfput)))

theorem runStep {l : Loc} {e' : Entry} {f : Loc → Entry → State → StepEnd} (h : Keeps s t) :
    Keeps s (Machine.runStep l e' f t) := by
  unfold Machine.runStep
  refine .ite h ?_
  split
  · split
    · next e => exact h.commitStep e
    · exact h.stageWaits
    · exact h
    · exact h
  · exact h.stageWaits
  · exact h.stageStops
  · exact h.stageReplays
  · exact h.stageUncorrectable

theorem stageOp {l : StageLoc} {e' : Entry} {f : Loc → Entry → State → StepEnd} (h : Keeps s t) :
    Keeps s (Machine.stageOp l e' f t) := by
  unfold Machine.stageOp
  split
  · exact h.runStep
  · exact h

/-! ### Machine/StageIo -/

theorem twaitStart {l : Loc} {e' : Entry} (h : Keeps s t) : Keeps s (Machine.twaitStart l e' t) := by
  unfold Machine.twaitStart
  split
  · exact h.waitStep
  · exact h

theorem runTwait {l : Loc} {e' : Entry} (h : Keeps s t) : Keeps s (Machine.runTwait l e' t) :=
  .ite h (by
      dsimp only
      split
      · exact h.runStep.twaitStart
      · exact h.runStep.dropWait
      · exact h.runStep)

/-! ### Machine/StageRun -/

theorem stepCurrent {l : Loc} {bad : BitVec 16} (h : Keeps s t) : Keeps s (Machine.stepCurrent l bad t) := by
  unfold Machine.stepCurrent
  dsimp only
  split
  · exact h
  · exact .ite h.runStep (.ite h.runTwait h.runStep)

theorem stageRuns {l : Loc} (h : Keeps s t) : Keeps s (Machine.stageRuns l t) := .ite h.rfput.rfput h

theorem judgeStage {l : Loc} (h : Keeps s t) : Keeps s (Machine.judgeStage l t).2 :=
  .ite_snd h (.ite_snd h (.ite_snd h (by
      dsimp only
      split
      · exact h
      · split
        · exact .ite h.stageWaits.twaitStart h.stageWaits
        · exact h.stageUncorrectable
        · split
          · exact h.stageWaits
          · exact h
          · exact h.stageRuns
          · exact h.stageRuns
        · exact h.stageRuns)))

/-! ### Machine/Mesh -/

theorem putLink {p n d : Nat} {v : LinkIn} (h : Keeps s t) : Keeps s (Machine.putLink p n d v t) := h.frame rfl

theorem putCredit {c v : Nat} (h : Keeps s t) : Keeps s (Machine.putCredit c v t) := h.frame rfl

theorem putSteer {p n u' : Nat} {v : Steer} (h : Keeps s t) : Keeps s (Machine.putSteer p n u' v t) := h.frame rfl

theorem putNode {p n : Nat} {v : NodeSt} (h : Keeps s t) : Keeps s (Machine.putNode p n v t) := h.frame rfl

theorem putSeam {p d : Nat} {v : SeamPort} (h : Keeps s t) : Keeps s (Machine.putSeam p d v t) := h.frame rfl

theorem putTap {p t' : Nat} {v : Tap} (h : Keeps s t) : Keeps s (Machine.putTap p t' v t) := h.frame rfl

theorem addCredit {c delay : Nat} (h : Keeps s t) : Keeps s (Machine.addCredit c delay t) := h.frame rfl

theorem creditStep {n : Nat} {ts keep moved : List Credit} {used : List Nat} (h : Keeps s t) :
    Keeps s (Machine.creditStep n ts keep moved used t) := by
  induction n generalizing ts keep moved used t with
  | zero => exact h.frame rfl
  | succ n ih =>
    cases ts with
    | nil => exact h.frame rfl
    | cons c ts =>
      refine .ite (ih h) (.ite (ih h.putCredit) (.ite (ih h) ?_))
      split
      · exact ih h
      · exact .ite (ih h) (ih h)

theorem creditsMove (h : Keeps s t) : Keeps s (Machine.creditsMove t) := h.creditStep

theorem genCounters {p a g n k : Nat} (h : Keeps s t) : Keeps s (Machine.genCounters p a g n k t) := by
  induction n generalizing k t with
  | zero => exact h
  | succ n ih => exact .ite (.ite (ih (.ite h.rfput.rfadd h.rfput)) (.ite h.rfput.rfadd h.rfput)) h.rfput

theorem genAdvance {p a g : Nat} (h : Keeps s t) : Keeps s (Machine.genAdvance p a g t) :=
  .ite h.rfadd.rfput h.rfadd.genCounters

theorem memStops {p a : Nat} {st : Status} (h : Keeps s t) : Keeps s (Machine.memStops p a st t) := h.rfput.rfput

theorem genRefused {p a g n : Nat} (h : Keeps s t) : Keeps s (Machine.genRefused p a g n t) := h.memStops.report

theorem genRead {p a g : Nat} (h : Keeps s t) : Keeps s (Machine.genRead p a g t).2 :=
  .ite_snd h.rfsat (by
      split
      · next e => exact (h.slotRead.of_eq e).genRefused
      · next e => exact .ite ((h.slotRead.of_eq e).memStops) ((h.slotRead.of_eq e).rfsat)
      · next e => exact (h.slotRead.of_eq e).rfadd.genAdvance)

theorem genWrite {p a : Nat} {tag : Byte} {v : Vec} (h : Keeps s t) : Keeps s (Machine.genWrite p a tag v t).2 :=
  .ite_snd h.rfsat (.ite_snd h.rfsat (by
      split
      · next e => exact (h.slotWrite.of_eq e).genRefused
      · next e => exact (h.slotWrite.of_eq e).rfsat
      · next e => exact .genAdvance (.ite ((h.slotWrite.of_eq e).frame rfl) ((h.slotWrite.of_eq e)))))

theorem steerStops {p n u' kind input expected received : Nat} (h : Keeps s t) :
    Keeps s (Machine.steerStops p n u' kind input expected received t) :=
  .report (.ite h.rfput.rfput.rfput.rfput.rfput.putSteer h.rfput.rfput.rfput.rfput.rfput.putSteer.rfput.rfput)

theorem steerStall {p n u' : Nat} (h : Keeps s t) : Keeps s (Machine.steerStall p n u' t) := h.rfsat

theorem steerAccept {p n u' : Nat} {m : Move} (h : Keeps s t) : Keeps s (Machine.steerAccept p n u' m t).2 :=
  .ite_snd h (.ite_snd (.ite_snd h.steerStall (.ite_snd h.steerStops h.putSteer.rfadd)) (.ite_snd (.ite_snd h.steerStall
    h.putSteer.addCredit) (.ite_snd (.ite_snd h.steerStall h.putSteer) (.ite_snd h.steerStall h.putSteer))))

theorem steerOpen {p n u' : Nat} (h : Keeps s t) : Keeps s (Machine.steerOpen p n u' t) := by
  unfold Machine.steerOpen
  dsimp only
  split
  · exact h
  · exact .ite h (.ite h.rfput.rfput.rfput.rfput.putSteer h.rfput.rfput.rfput.rfput)

theorem steerPair {p n u' : Nat} (h : Keeps s t) : Keeps s (Machine.steerPair p n u' t) :=
  .ite h (.ite h.steerOpen (by
      dsimp only
      split
      · exact h.steerOpen
      · exact .ite h.steerOpen.steerStops (.ite (by
            split
            · exact h.steerOpen.rfput.rfput.rfadd.putSteer.addCredit
            · exact h.steerOpen.rfput.rfput.rfadd.putSteer) h.steerOpen.rfput.putSteer)))

theorem steerDepart {p n u' : Nat} (h : Keeps s t) : Keeps s (Machine.steerDepart p n u' t).2 := by
  unfold Machine.steerDepart
  dsimp only
  split
  · exact h
  · split
    · exact h
    · exact h.putSteer.addCredit

theorem steerDrop {p n u' : Nat} (h : Keeps s t) : Keeps s (Machine.steerDrop p n u' t) := by
  unfold Machine.steerDrop
  dsimp only
  split
  · exact .ite h.steerDepart h
  · exact h

theorem batonStops {p a expected received : Nat} (h : Keeps s t) :
    Keeps s (Machine.batonStops p a expected received t) :=
  h.rfput.rfput.rfput.rfput.report

theorem batonArrives {p a : Nat} {b : BitVec 16} {conn : Nat} (h : Keeps s t) :
    Keeps s (Machine.batonArrives p a b conn t).2 :=
  .ite_snd h (.ite_snd h.batonStops h.putArr.rfadd)

theorem deliver {pos : Nat} {m : Move} (h : Keeps s t) : Keeps s (Machine.deliver pos m t).2 :=
  .ite_snd h.putLink (.ite_snd (.ite_snd (.ite_snd (.ite_snd h.genWrite.addCredit h.genWrite) h) (.ite_snd (.ite_snd h
    h.batonArrives) (.ite_snd h h.putArr))) (.ite_snd (by
      split
      · exact h
      · exact .ite_snd h h.putTap) (.ite_snd h.steerAccept h)))

theorem deliverAll {p pos : Nat} {ms keep : List Move} (h : Keeps s t) :
    Keeps s (Machine.deliverAll p pos ms keep t) := by
  induction ms generalizing keep t with
  | nil => exact h.frame rfl
  | cons m ms ih =>
    have hd := h.deliver (pos := pos) (m := m)
    refine .ite (ih h) ?_
    split
    · next e => exact ih (hd.of_eq e)
    · next e => exact ih (hd.of_eq e)

theorem freeLatches {p a : Nat} (h : Keeps s t) : Keeps s (Machine.freeLatches p a t) :=
  .ite (.ite h.putArr.addCredit h) (.foldl (.putArr (.ite h.putArr.addCredit h)) fun _ _ h => h.addCredit)

theorem takeDue {p n : Nat} {c : ConnE} (h : Keeps s t) : Keeps s (Machine.takeDue p n c t) := by
  unfold Machine.takeDue
  dsimp only
  split
  · split
    · exact h
    · exact h.putSeam
  · exact .ite (.ite h.putArr h.putArr) (.ite (by
        split
        · exact h.putTap.rfadd
        · exact h) (.ite h.steerDepart (.ite h.putSteer h)))

theorem putOut {p n pos : Nat} {c : ConnE} {tag : Byte} {v : Vec} {b : BitVec 16} (h : Keeps s t) :
    Keeps s (Machine.putOut p n pos c tag v b t) := by
  unfold Machine.putOut
  split
  · split
    · exact h.frame rfl
    · exact h.putSeam
  · exact h.frame rfl

theorem linkParity {p n port pos : Nat} (h : Keeps s t) : Keeps s (Machine.linkParity p n port pos t) :=
  .report (.taint (.rfsat (.ite h.rfput.rfput h)))

theorem nodeMoved {p n : Nat} (h : Keeps s t) : Keeps s (Machine.nodeMoved p n t) := h.putNode

theorem slipCount {p n key : Nat} (h : Keeps s t) : Keeps s (Machine.slipCount p n key t) :=
  .ite h.putNode.rfsat.rfput h.putNode.rfsat

theorem slipEnd {p n key : Nat} (h : Keeps s t) : Keeps s (Machine.slipEnd p n key t) := .ite h.putNode h

theorem countAbsent {p n pos : Nat} {cs : List ConnE} (h : Keeps s t) : Keeps s (Machine.countAbsent p n pos cs t) :=
  .ite h h.rfsat

theorem fireStart {p n pos : Nat} {bad : Bool} {c : ConnE} {cs : List ConnE} (h : Keeps s t) :
    Keeps s (Machine.fireStart p n pos bad c cs t) :=
  .ite h.countAbsent (.ite h.takeDue (.ite h.slipCount (.ite h.slipCount (by
      dsimp only
      split
      · exact .ite (.linkParity (.foldl h.takeDue.slipEnd.nodeMoved fun _ _ h => h.putCredit)) (.foldl (.foldl
          h.takeDue.slipEnd.nodeMoved fun _ _ h => h.putCredit) fun _ _ h => h.putOut)
      · exact .ite (.linkParity (.foldl h.takeDue.slipEnd.nodeMoved fun _ _ h => h.putCredit)) (.foldl (.foldl
          h.takeDue.slipEnd.nodeMoved fun _ _ h => h.putCredit) fun _ _ h => h.putOut)
      · split
        · next e =>
          exact .ite (.linkParity (.foldl ((h.genRead.of_eq e).slipEnd.nodeMoved) fun _ _ h => h.putCredit)) (.foldl
            (.foldl ((h.genRead.of_eq e).slipEnd.nodeMoved) fun _ _ h => h.putCredit) fun _ _ h => h.putOut)
        · next e => exact (h.genRead.of_eq e).countAbsent
      · exact h))))

theorem fireLink {p n pos d : Nat} {bad : Bool} {c : ConnE} {cs : List ConnE} (h : Keeps s t) :
    Keeps s (Machine.fireLink p n pos d bad c cs t) :=
  .ite (by
      split
      · exact .ite h.putLink.linkParity (.foldl h.putLink.nodeMoved fun _ _ h => h.putOut)
      · exact h.putLink)
    (by
        split
        · exact .ite h.putLink.linkParity (.foldl h.putLink.nodeMoved fun _ _ h => h.putOut)
        · exact h.putLink)

theorem spareGens {p pos n : Nat} {cs : List ConnE} (h : Keeps s t) : Keeps s (Machine.spareGens p pos n cs t) :=
  .ite h (.foldl h fun _ _ h => .ite h.genRead h)

theorem fireNode {p pos : Nat} {bad : ConnE → Bool} {n : Nat} (h : Keeps s t) :
    Keeps s (Machine.fireNode p pos bad n t) :=
  .spareGens (.foldl h fun _ _ h => .ite h (.ite h.fireStart (by
      split
      · exact h.fireLink
      · exact h)))

/-! ### Machine/Boundary -/

theorem holdStage {l : Loc} {c : Lateness} (h : Keeps s t) : Keeps s (Machine.holdStage l c t) := by
  unfold Machine.holdStage
  dsimp only
  split
  · exact h.putStage
  · exact h.putStage
  · exact .ite h.putStage.putStage h.putStage
  · exact .ite h h.putStage

theorem arrHold {p a : Nat} {causes : List Lateness} (h : Keeps s t) : Keeps s (Machine.arrHold p a causes t) :=
  .foldl (.ite (.rfput (.putArr (.ite (.rfsat (.ite h.rfsat (.ite h.rfsat h.rfsat))) (.ite h.rfsat (.ite h.rfsat
    h.rfsat))))) (.putArr (.ite (.rfsat (.ite h.rfsat (.ite h.rfsat h.rfsat))) (.ite h.rfsat (.ite h.rfsat h.rfsat)))))
    fun _ _ h => h.holdStage

theorem arrCauses {p a : Nat} (h : Keeps s t) : Keeps s (Machine.arrCauses p a t).2 :=
  .foldl_snd h fun _ _ h => h.judgeStage

theorem endSteps {p a : Nat} (h : Keeps s t) : Keeps s (Machine.endSteps p a t) :=
  .foldl h fun _ _ h => .ite h.putStage h

theorem stageHolds {p : Nat} (h : Keeps s t) : Keeps s (Machine.stageHolds p t).2.2.2 :=
  .foldl_snd3 h fun x a h => by
    obtain ⟨b, cnt, svc, v⟩ := x
    dsimp only at h ⊢
    split
    · exact .arrHold (.ite h.arrCauses.endSteps h.arrCauses)
    · exact .ite (.ite h.arrCauses.endSteps h.arrCauses) (.putArr (.ite h.arrCauses.endSteps h.arrCauses))

theorem countPortHold {p n : Nat} {ms : List ConnE} (h : Keeps s t) : Keeps s (Machine.countPortHold p n ms t) := by
  unfold Machine.countPortHold
  dsimp only
  split
  · exact .ite h h.putNode
  · exact .ite h.rfsat.putNode.rfput h.rfsat.putNode

theorem portHolds {p q lap : Nat} (h : Keeps s t) : Keeps s (Machine.portHolds p q lap t).2 :=
  .foldl_snd h fun _ _ h => h.countPortHold

theorem beginStages {p q a : Nat} (h : Keeps s t) : Keeps s (Machine.beginStages p q a t) :=
  .ite h (.foldl h.putArr fun _ _ h => .ite h.putStage (.ite h.putStage (.ite h.putStage (.ite (.putStage (.ite h.rfput
    h)) (.putStage (.ite h.rfput h))))))

theorem traceLap {p : Nat} (h : Keeps s t) : Keeps s (Machine.traceLap p t) :=
  .ite (.foldl h.putStand fun _ _ h => .ite h.putArr h) h

theorem clearTraces (h : Keeps s t) : Keeps s (Machine.clearTraces t) := h.frame rfl

theorem sendService {p a : Nat} (h : Keeps s t) : Keeps s (Machine.sendService p a t) := by
  unfold Machine.sendService
  split
  · exact .foldl h.putArr fun _ _ h => (by
        split
        · exact h.svcSend
        · exact h.svcSend
        · exact h.svcSend)
  · exact h

theorem writeTraces {p : Nat} (h : Keeps s t) : Keeps s (Machine.writeTraces p t) :=
  .ite h (.foldl h fun _ _ h => (by
      dsimp only
      split
      · exact h.dramWrite
      · exact h))

theorem countLap {p : Nat} (h : Keeps s t) : Keeps s (Machine.countLap p t) :=
  .foldl h.putStand fun _ _ h => .ite h h.putArr

theorem lapBoundary {p : Nat} (h : Keeps s t) : Keeps s (Machine.lapBoundary p t) :=
  .ite (.putStand (.ite h.countLap.writeTraces h.countLap)) (.ite (.putStand (.rfadd (.rfput (.rfput (.ite
    h.countLap.writeTraces h.countLap))))) (.rfput (.rfput (.ite h.countLap.writeTraces h.countLap))))

theorem slotBegins {p q : Nat} {bad : Nat → ConnE → Bool} (h : Keeps s t) : Keeps s (Machine.slotBegins p q bad t) :=
  .foldl (.foldl (.foldl (.foldl (.ite h.putStand.traceLap h.putStand) fun _ _ h => .foldl h fun _ _ h => h.steerDrop)
    fun _ _ h => h.fireNode) fun _ _ h => h.spareGens) fun _ _ h => h.beginStages

theorem endPortRuns {p : Nat} (h : Keeps s t) : Keeps s (Machine.endPortRuns p t) :=
  .foldl h fun _ _ h => .ite h h.putNode

theorem slotHeld {p : Nat} {idle : Bool} (h : Keeps s t) : Keeps s (Machine.slotHeld p idle t) :=
  .putStand (.ite h.endPortRuns h)

theorem nodeProgress {p n : Nat} (h : Keeps s t) : Keeps s (Machine.nodeProgress p n t) :=
  .ite h.putNode.rfput.rfput (.ite h.putNode.rfput h)

theorem slotEnds {p : Nat} (h : Keeps s t) : Keeps s (Machine.slotEnds p t) :=
  .foldl h.deliverAll fun _ _ h => .foldl h fun _ _ h => h.steerPair

theorem clearSlot {p a : Nat} (h : Keeps s t) : Keeps s (Machine.clearSlot p a t) := .ite h.traceSlot.putArr h.traceSlot

theorem clearEmptied {p : Nat} (h : Keeps s t) : Keeps s (Machine.clearEmptied p t) := h.frame rfl

theorem slotOver {p : Nat} (h : Keeps s t) : Keeps s (Machine.slotOver p t) :=
  .putStand (.clearEmptied (.foldl (.ite (.foldl h fun _ _ h => h.freeLatches) (.slotEnds (.foldl h fun _ _ h =>
    h.freeLatches))) fun _ _ h => h.clearSlot))

theorem slotOrHold {p q : Nat} {bad : Nat → ConnE → Bool} (h : Keeps s t) : Keeps s (Machine.slotOrHold p q bad t) :=
  .ite h.portHolds.slotHeld h.portHolds.slotBegins

theorem heldBoundary {p q : Nat} {wraps counted : Bool} (h : Keeps s t) :
    Keeps s (Machine.heldBoundary p q wraps counted t) :=
  .ite (.slotHeld (.ite_snd h h.portHolds)) (.putStand (.ite_snd h h.portHolds))

theorem standBoundary {bad : Nat → ConnE → Bool} {p : Nat} (h : Keeps s t) : Keeps s (Machine.standBoundary bad p t) := by
  have hlast : ∀ w, Keeps s w → Keeps s (if (standOf w p).started && !(standOf w p).idleSlot then
      (unitsOf w p 14).foldl (fun s n => Machine.nodeProgress p n s) w else w) :=
    fun w h => .ite (.foldl h fun _ _ h => h.nodeProgress) h
  have hslot : ∀ q w, Keeps s w → Keeps s (if (standOf w p).started = false then w
      else if 0 < (standOf w p).idleLeft then Machine.slotHeld p true w else Machine.slotOrHold p q bad w) :=
    fun q w h => .ite h (.ite h.slotHeld h.slotOrHold)
  have hs : Keeps s (if (standOf t p).idleLeft = 1 then (false, false, false, t) else Machine.stageHolds p t).2.2.2 := by
    split
    · exact h
    · exact h.stageHolds
  unfold Machine.standBoundary
  dsimp only
  generalize (if (standOf t p).idleLeft = 1 then (false, false, false, t) else Machine.stageHolds p t) = x at hs ⊢
  obtain ⟨b, cnt, svc, v⟩ := x
  dsimp only at hs ⊢
  refine .ite h.putStand.slotHeld ?_
  exact hlast _ (.ite (.heldBoundary (.ite hs.putStand hs)) (hslot _ _ (.ite (.lapBoundary (.putStand (.ite hs.putStand hs)))
    (.putStand (.ite hs.putStand hs)))))

theorem seamResend {p d : Nat} {n : Byte} (h : Keeps s t) : Keeps s (Machine.seamResend p d n t) := .ite h.putSeam h

theorem frameBad {p d : Nat} {f : SeamFrame} (h : Keeps s t) : Keeps s (Machine.frameBad p d f t) :=
  .putSeam (.ite h.rfsat h.rfsat.rfsat)

theorem frameGood {p d : Nat} {f : SeamFrame} (h : Keeps s t) : Keeps s (Machine.frameGood p d f t) :=
  .ite (.ite h.putSeam.seamResend h.putSeam) (.foldl (.rfput (.putSeam (.ite h.putSeam.seamResend h.putSeam))) fun _ _ h
    => h.addCredit)

theorem seamArrivals {p d : Nat} (h : Keeps s t) : Keeps s (Machine.seamArrivals p d t) := by
  unfold Machine.seamArrivals
  dsimp only
  split
  · exact .ite h h.putSeam
  · exact .ite h (.ite (.foldl h.putSeam fun _ _ h => h.frameGood) h.putSeam)

theorem seamSlot {p d : Nat} (h : Keeps s t) : Keeps s (Machine.seamSlot p d t) := .ite h (.ite h.putSeam h.putSeam)

theorem seamSlots (h : Keeps s t) : Keeps s (Machine.seamSlots t) :=
  .foldl (.foldl h fun _ _ h => h.seamArrivals) fun _ _ h => .foldl h fun _ _ h => h.seamSlot

theorem sbBoundary {k : Nat} (h : Keeps s t) : Keeps s (Machine.sbBoundary k t) := h.frame rfl

theorem doSlotBoundary {badVectors badBatons : List (BitVec 6 × BitVec 10 × BitVec 5)} (h : Keeps s t) :
    Keeps s (Machine.doSlotBoundary badVectors badBatons t) :=
  .foldl (.foldl (.foldl (.foldl h.creditsMove.seamSlots fun _ _ h => .foldl h fun _ _ h => h.sendService) fun _ _ h =>
    .ite h.slotOver h) fun _ _ h => h.sbBoundary) fun _ _ h => .ite h.standBoundary h

theorem doBatonIn {a : ArrayLoc} {b : BitVec 16} (h : Keeps s t) : Keeps s (Machine.doBatonIn a b t) := by
  unfold Machine.doBatonIn
  split
  · exact h
  · exact .ite h (.ite (h.frame rfl) h.batonArrives)

theorem doNoCompletion {l : StageLoc} {lanes : BitVec 16} (h : Keeps s t) :
    Keeps s (Machine.doNoCompletion l lanes t) := by
  unfold Machine.doNoCompletion
  split
  · exact h
  · exact .ite h h.stageStops

theorem doHeartbeat {a : ArrayLoc} (h : Keeps s t) : Keeps s (Machine.doHeartbeat a t) := by
  unfold Machine.doHeartbeat
  split
  · exact h
  · exact .ite h h.putArr

theorem doNoProgress {p : Nat} (h : Keeps s t) : Keeps s (Machine.doNoProgress p t) :=
  .foldl (.foldl h fun _ _ h => h.report) fun _ _ h => h.putNode.rfput

/-! ### Machine/Relay -/

theorem putSide {p d : Nat} {v : Side} (h : Keeps s t) : Keeps s (Machine.putSide p d v t) := h.frame rfl

theorem followSource {p : Nat} (h : Keeps s t) : Keeps s (Machine.followSource p t) := h.rput.rfput.rfput

theorem steerCheck {p : Nat} (h : Keeps s t) : Keeps s (Machine.steerCheck p t) := .ite h.rfput h

theorem markersGo {n : Nat} {ps : List Nat} (h : Keeps s t) : Keeps s (Machine.markersGo n ps t) := by
  induction n generalizing ps t with
  | zero => exact h
  | succ n ih =>
    cases ps with
    | nil => exact h
    | cons p ps =>
      simp only [Machine.markersGo]
      refine ih (.foldl_snd h fun x d h => ?_)
      split
      · exact h
      · exact .ite_snd (.ite_snd h.putSide.followSource h.putSide.followSource) h.putSide.steerCheck

theorem sendMarker {p : Nat} (h : Keeps s t) : Keeps s (Machine.sendMarker p t) := h.markersGo

theorem selectSource {p d : Nat} (h : Keeps s t) : Keeps s (Machine.selectSource p d t) :=
  h.rfput.rfput.rfsat.followSource.sendMarker

theorem doSrcSel {via : Via} {p : Nat} {v : Word} (h : Keeps s t) : Keeps s (Machine.doSrcSel via p v t).2 :=
  h.viaWrite (fun _ h => (by
      dsimp only
      split
      · exact h.rfput
      · exact h.selectSource))

theorem putReady {p d : Nat} {b : Bool} (h : Keeps s t) : Keeps s (Machine.putReady p d b t) := h.rfput.rfput

theorem sourceLost {p : Nat} (h : Keeps s t) : Keeps s (Machine.sourceLost p t) :=
  .ite h.putReady.rfput.sendMarker.report h.putReady

theorem putShown {p d : Nat} {w : SideShow} (h : Keeps s t) : Keeps s (Machine.putShown p d w t) :=
  .ite h.rfput.rfput h.rfput

theorem doSideReady {p d : Nat} {w : SideShow} {m : Side} (h : Keeps s t) : Keeps s (Machine.doSideReady p d w m t) :=
  .ite h.sourceLost.putShown (.ite (.sendMarker (.followSource (.putShown (.putReady (.ite h.putSide h))))) (.steerCheck
    (.putShown (.putReady (.ite h.putSide h)))))

/-! ### Machine/Service -/

theorem svcEnd {src : MeshSrc} (h : Keeps s t) : Keeps s (Machine.svcEnd src t) := h.frame rfl

theorem srcErr {st : Status} {src : MeshSrc} {addr : Nat} (h : Keeps s t) : Keeps s (Machine.srcErr st src addr t) :=
  .ite h.countErr h.countErr

theorem respond {src : MeshSrc} {a : SvcAnswer} (h : Keeps s t) : Keeps s (Machine.respond src a t) := h.frame rfl

theorem svcHold {src : MeshSrc} {k : SvcKind} (h : Keeps s t) : Keeps s (Machine.svcHold src k t) := by
  unfold Machine.svcHold
  split
  · exact h.frame rfl
  · exact h.frame rfl

theorem svcNote {src : MeshSrc} {k : SvcKind} (h : Keeps s t) : Keeps s (Machine.svcNote src k t) := by
  unfold Machine.svcNote
  split
  · exact h
  · exact h.frame rfl

theorem noRoute {src : MeshSrc} {addr : BitVec 48} (h : Keeps s t) : Keeps s (Machine.noRoute src addr t) :=
  h.srcErr.report.respond

theorem svcArrive {src : MeshSrc} {k : SvcKind} {f : State → State} (h : Keeps s t)
    (hf : ∀ u, Keeps s u → Keeps s (f u)) : Keeps s (Machine.svcArrive src k f t) := by
  unfold Machine.svcArrive
  dsimp only
  split
  · exact h.svcNote.respond
  · exact .ite (hf _ h.svcNote) h.svcNote.noRoute

/-- The read of a DRAM slot is taken for any that keeps: the kernel would evaluate the address that it reads. -/
theorem doReadRequest {src : MeshSrc} {form : BitVec 2} {addr : BitVec 48} {z : BitVec 8} (h : Keeps s t) :
    Keeps s (Machine.doReadRequest src form addr z t) := by
  obtain ⟨read, hr⟩ : ∃ read, read = Machine.dramRead := ⟨_, rfl⟩
  have hd : ∀ {p sl off n u}, Keeps s u → Keeps s (read p sl off n u).2 := hr ▸ dramRead
  unfold Machine.doReadRequest
  rw [← hr]
  refine h.svcArrive fun _ h => ?_
  split
  · exact h.respond
  · split
    · next e => exact ((hd h).of_eq e).respond
    · next e => exact ((hd h).of_eq e).svcHold
  · split
    · next e => exact (h.extRead.of_eq e).respond
    · next e => exact (h.extRead.of_eq e).svcHold
    · next e => exact (h.extRead.of_eq e).respond

theorem doWriteRequest {src : MeshSrc} {form : BitVec 2} {addr : BitVec 48} {z : BitVec 8} {data : Vec} (h : Keeps s t) :
    Keeps s (Machine.doWriteRequest src form addr z data t) := by
  unfold Machine.doWriteRequest
  refine h.svcArrive fun _ h => ?_
  split
  · exact h.respond
  · refine .ite h.respond ?_
    split
    · exact h.dramUncorrectable.svcHold
    · exact h.dramWrite.respond
  · split
    · next e => exact (h.extWrite.of_eq e).respond
    · next e => exact (h.extWrite.of_eq e).svcHold
    · next e => exact (h.extWrite.of_eq e).respond

theorem atomicDo {src : MeshSrc} {k : SvcKind} {op : AtomicOp} {addr : BitVec 48} {value : Word} (h : Keeps s t) :
    Keeps s (Machine.atomicDo src k op addr value t) := by
  unfold Machine.atomicDo
  extract_lets n
  cases placeOf t addr.toNat n with
  | bad => exact h.respond
  | dram p sl off =>
    refine .ite h.respond ?_
    split
    · next e => exact (h.dramRead.of_eq e).svcHold
    · next e => exact (h.dramRead.of_eq e).dramWrite.respond
  | sram p a off =>
    refine .ite h.svcHold ?_
    cases readBytes t (sramKey p a off) n with
    | error => exact h.sramUncorrectable.svcHold
    | ok => exact h.sramCorrected.writeBytes.slotUsed.respond

theorem svcRetry (h : Keeps s t) : Keeps s (Machine.svcRetry t) :=
  .foldl h fun _ _ h => (by
      split
      · exact .ite h.doReadRequest h
      · exact .ite h.doWriteRequest h
      · exact .ite (h.svcArrive (fun _ h => h.atomicDo)) h
      · exact h)

theorem doTallyIncrement {src : MeshSrc} {n : BitVec 16} {amount : Word} (h : Keeps s t) :
    Keeps s (Machine.doTallyIncrement src n amount t) :=
  h.svcArrive (fun _ h => (by
      split
      · exact h.tallyBump.respond
      · exact h.respond))

theorem doPost {src : MeshSrc} {a : ArrayLoc} {first last : BitVec 13} {write : Bool} {owner : BitVec 6} (h : Keeps s t) :
    Keeps s (Machine.doPost src a first last write owner t) := by
  unfold Machine.doPost
  refine h.svcArrive fun _ h => ?_
  dsimp only
  split
  · exact h.respond
  · exact .ite h.respond (.ite (.respond (.ite h h.putMemArr)) h.putMemArr.rfsat.svcHold)

theorem doAtomic {src : MeshSrc} {op : AtomicOp} {addr : BitVec 48} {value : Word} {issuer : StageLoc} {lane : BitVec 4}
    (h : Keeps s t) : Keeps s (Machine.doAtomic src op addr value issuer lane t) :=
  .svcArrive (by
      split
      · exact h
      · split
        · exact h
        · exact h.frame rfl) (fun _ h => h.atomicDo)

theorem doRecord {src : MeshSrc} {st : Status} {location addr : Word} {data : BitVec 192} (h : Keeps s t) :
    Keeps s (Machine.doRecord src st location addr data t) :=
  h.svcArrive (fun _ h => h.report.respond)

theorem doMgmt {src : MeshSrc} {message : BitVec 512} (h : Keeps s t) : Keeps s (Machine.doMgmt src message t) :=
  h.svcArrive (fun _ h => .respond (h.frame rfl))

theorem doTallyWait {src : MeshSrc} {n : BitVec 16} {target : Word} (h : Keeps s t) :
    Keeps s (Machine.doTallyWait src n target t) :=
  h.svcArrive (fun _ h => (by
      split
      · exact h.respond
      · exact .ite h.respond (by
            dsimp only
            split
            · exact h.svcHold
            · exact h.svcHold.addWait)))

theorem doTallyWaitComplete {n : Nat} (h : Keeps s t) : Keeps s (Machine.doTallyWaitComplete n t) := by
  unfold Machine.doTallyWaitComplete
  split
  · exact h
  · exact .foldl (h.frame rfl) fun _ _ h => h.respond

theorem takeResp {dst : MeshSrc} {f : SvcAnswer → Bool} (h : Keeps s t) : Keeps s (Machine.takeResp dst f t) := by
  unfold Machine.takeResp
  split
  · exact h.frame rfl
  · exact h

theorem gotResponse {dst : MeshSrc} {a : SvcAnswer} {f : SvcReq → State → State} (h : Keeps s t)
    (hf : ∀ a u, Keeps s u → Keeps s (f a u)) : Keeps s (Machine.gotResponse dst a f t) := by
  unfold Machine.gotResponse
  dsimp only
  have ht := h.takeResp (dst := dst) (f := fun x => decide (x = a))
  split
  · exact ht.srcErr
  · have hd := ht.svcEnd (src := dst)
    exact .ite hd (hf _ _ (hd.frame rfl))

theorem waitFails {id : MeshSrc} {st : Status} (h : Keeps s t) : Keeps s (Machine.waitFails id st t) := by
  unfold Machine.waitFails
  split
  · exact h
  · split
    · exact h.dropWait.stageStops
    · exact h.frame rfl

theorem svcFailed {st : Status} {r : SvcReq} (h : Keeps s t) : Keeps s (Machine.svcFailed st r t) := by
  unfold Machine.svcFailed
  split
  · exact .ite h.report h
  · exact h.report
  · exact h.waitFails
  · exact h

theorem doServiceTimeout {dst : MeshSrc} (h : Keeps s t) : Keeps s (Machine.doServiceTimeout dst t) := by
  unfold Machine.doServiceTimeout
  split
  · exact h
  · exact h.svcEnd.svcFailed

theorem svcReroute (h : Keeps s t) : Keeps s (Machine.svcReroute t) :=
  .foldl h fun _ _ h => .ite h (by
      split
      · exact .ite (.respond (h.frame rfl)) h
      · exact .ite h.noRoute h)

theorem seamDies {p d cause : Nat} (h : Keeps s t) : Keeps s (Machine.seamDies p d cause t) :=
  .ite h.rfput.putSeam.report.steerCheck.svcReroute h

theorem doSeamFrame {p d : Nat} {seq : Byte} {good request : Bool} {ack : Byte} (h : Keeps s t) :
    Keeps s (Machine.doSeamFrame p d seq good request ack t) := by
  unfold Machine.doSeamFrame
  split
  · exact h
  · split
    · exact h
    · exact .ite h (.ite h.putSeam (.ite h.putSeam.frameGood h.putSeam.frameBad))

/-! ### Machine/Engine -/

theorem putHubQ {p q : Nat} {v : HubQ} (h : Keeps s t) : Keeps s (Machine.putHubQ p q v t) := h.frame rfl

theorem putExec {p q : Nat} {e' : Exec} (h : Keeps s t) : Keeps s (Machine.putExec p q e' t) := h.putHubQ

theorem rpcAnswer {p q n : Nat} {id : MeshSrc} (h : Keeps s t) : Keeps s (Machine.rpcAnswer p q n id t).2 := by
  unfold Machine.rpcAnswer
  dsimp only
  split
  · exact .putHubQ (h.frame rfl)
  · exact .putHubQ (h.frame rfl)
  · exact .putHubQ (h.frame rfl)
  · exact .ite_snd h (.putHubQ (h.frame rfl))

theorem engPacket {p q n : Nat} {k : SvcKind} (h : Keeps s t) : Keeps s (Machine.engPacket p q n k t).2 := by
  unfold Machine.engPacket
  dsimp only
  split
  · exact h.putHubQ.svcSend
  · exact h.rpcAnswer

theorem engRead {p q addr n form : Nat} (h : Keeps s t) : Keeps s (Machine.engRead p q addr n form t).2 := by
  unfold Machine.engRead
  split
  · exact h
  · exact .ite_snd h.engPacket (by
        split
        · next e => exact h.dramRead.of_eq e
        · next e => exact h.dramRead.of_eq e)
  · exact .ite_snd h.engPacket h.extRead

theorem engWrite {p q addr form : Nat} {bs : List Byte} (h : Keeps s t) :
    Keeps s (Machine.engWrite p q addr form bs t).2 := by
  unfold Machine.engWrite
  dsimp only
  split
  · exact h
  · exact .ite_snd h.engPacket (.ite_snd h (by
        split
        · exact h.dramUncorrectable
        · exact h.dramWrite))
  · exact .ite_snd h.engPacket h.extWrite

theorem waitOn {p addr n : Nat} {write : Bool} (h : Keeps s t) : Keeps s (Machine.waitOn p addr n write t).2 := h

theorem readUnit {p q : Nat} {h' : Hdl} {off n form : Nat} {k : List Byte → State → UnitRes × State} (h : Keeps s t)
    (hk : ∀ a u, Keeps s u → Keeps s (k a u).2) : Keeps s (Machine.readUnit p q h' off n form t k).2 := by
  unfold Machine.readUnit
  split
  · next e => exact hk _ _ ((h.engRead.of_eq e))
  · next e => exact (h.engRead.of_eq e).waitOn
  · next e => exact h.engRead.of_eq e

theorem copyUnit {p q : Nat} {e' : Exec} (h : Keeps s t) : Keeps s (Machine.copyUnit p q e' t).2 :=
  .ite_snd h (.ite_snd h (.ite_snd (.ite_snd h (by
      split
      · exact h
      · exact h.putTap.addCredit)) (h.readUnit (fun _ _ h => h))))

theorem bufUnit {p q : Nat} {e' : Exec} {h' : Hdl} {base form i w n : Nat} {k : Exec → State → UnitRes × State}
    (h : Keeps s t) (hk : ∀ a u, Keeps s u → Keeps s (k a u).2) :
    Keeps s (Machine.bufUnit p q e' h' base form i w n t k).2 :=
  .ite_snd (hk _ _ h) (h.readUnit (fun _ _ h => hk _ _ h))

theorem gatherRowsUnit {p q : Nat} {e' : Exec} (h : Keeps s t) : Keeps s (Machine.gatherRowsUnit p q e' t).2 :=
  .ite_snd h (h.bufUnit (fun _ _ h => .ite_snd h (.ite_snd h (.ite_snd h (.ite_snd h (h.readUnit (fun _ _ h => h)))))))

theorem gatherPagesUnit {p q : Nat} {e' : Exec} (h : Keeps s t) : Keeps s (Machine.gatherPagesUnit p q e' t).2 :=
  .ite_snd h (h.bufUnit (fun _ _ h => .ite_snd h (h.readUnit (fun _ _ h => h))))

theorem wholeUnit {p q form : Nat} {xs : List (Nat × Nat)} {e' : Exec} {k : Exec → List Byte → State → UnitRes × State}
    (h : Keeps s t) (hk : ∀ e bs u, Keeps s u → Keeps s (k e bs u).2) :
    Keeps s (Machine.wholeUnit p q form xs e' t k).2 := by
  unfold Machine.wholeUnit
  split
  · exact hk _ _ _ h
  · split
    · next e => exact h.engRead.of_eq e
    · next e => exact (h.engRead.of_eq e).waitOn
    · next e => exact h.engRead.of_eq e

theorem sampleUnit {p q : Nat} {e' : Exec} (h : Keeps s t) : Keeps s (Machine.sampleUnit p q e' t).2 :=
  .ite_snd h (h.wholeUnit (fun _ _ _ h => (by
      split
      · exact h
      · exact h)))

theorem transposeUnit {p q : Nat} {e' : Exec} (h : Keeps s t) : Keeps s (Machine.transposeUnit p q e' t).2 :=
  .ite_snd h (h.wholeUnit (fun _ _ _ h => h))

theorem postSpans {p q side : Nat} {spans : List (Nat × Nat)} {write : Bool} (h : Keeps s t) :
    Keeps s (Machine.postSpans p q side spans write t).2 :=
  .ite_snd h (by
      split
      · exact h
      · exact .foldl_snd h fun _ _ h => (by
            dsimp only
            split
            · exact h
            · exact h.svcSend))

theorem reduceUnit {p q : Nat} {e' : Exec} (h : Keeps s t) : Keeps s (Machine.reduceUnit p q e' t).2 :=
  .ite_snd (h.wholeUnit (fun _ _ _ h => .ite_snd h (by
      split
      · exact h
      · exact .foldl_snd h fun _ _ h => h.postSpans))) (.ite_snd (h.wholeUnit (fun _ _ _ h => h)) h)

theorem tileOut {e' : Exec} {bs : List Byte} (h : Keeps s t) : Keeps s (Machine.tileOut e' bs t).2 := h

theorem compressUnit {p q : Nat} {e' : Exec} (h : Keeps s t) : Keeps s (Machine.compressUnit p q e' t).2 := by
  refine .ite_snd h (.ite_snd (.ite_snd h (.ite_snd h.tileOut ?_)) ?_)
  · split
    · exact h
    · exact h.putTap.addCredit
  · have hw := fun n => h.wholeUnit (p := p) (q := q) (form := e'.srcForm) (xs := n) (e' := e')
      (k := fun e bs s => Machine.tileOut e bs s) (fun _ _ _ h => h.tileOut)
    dsimp only
    split
    · next e =>
      have hu := congrArg Prod.snd e ▸ hw _
      exact .ite_snd hu (.ite_snd hu hu)
    · exact hw _

theorem nextUnit {p q : Nat} {e' : Exec} (h : Keeps s t) : Keeps s (Machine.nextUnit p q e' t).2 :=
  .ite_snd (.ite_snd h.copyUnit h.compressUnit) (.ite_snd h.gatherRowsUnit (.ite_snd h.gatherPagesUnit (.ite_snd
    h.sampleUnit (.ite_snd h.transposeUnit h.reduceUnit))))

/-! ### Machine/Hub -/

theorem putGate {p n v : Nat} (h : Keeps s t) : Keeps s (Machine.putGate p n v t) := h.frame rfl

theorem cvBegin {p u' : Nat} {e' : Exec} (h : Keeps s t) : Keeps s (Machine.cvBegin p u' e' t).2 :=
  .ite_snd h (.ite h.cvuSet.cvuFeed h.cvuSet)

theorem cvOwn {p u' : Nat} {e' : Exec} (h : Keeps s t) : Keeps s (Machine.cvOwn p u' e' t) := .ite h h.rfput

theorem postAll {p q : Nat} {e' : Exec} (h : Keeps s t) : Keeps s (Machine.postAll p q e' t).2 :=
  .foldl_snd h fun _ _ h => h.postSpans

theorem endPosts {ids : List MeshSrc} (h : Keeps s t) : Keeps s (Machine.endPosts ids t) := .ite h (h.frame rfl)

theorem endSides {e' : Exec} (h : Keeps s t) : Keeps s (Machine.endSides e' t).2 := .ite_snd h h.endPosts

theorem endAll {e' : Exec} (h : Keeps s t) : Keeps s (Machine.endAll e' t) := h.endPosts

theorem dropPackets {ids : List MeshSrc} (h : Keeps s t) : Keeps s (Machine.dropPackets ids t) := h.frame rfl

theorem queueAdvance {p q : Nat} (h : Keeps s t) : Keeps s (Machine.queueAdvance p q t) :=
  .ite h.putHubQ.rfput (.ite h.putHubQ (.ite h.putHubQ.rfput.rfadd h.putHubQ.rfput))

theorem retireDesc {p q : Nat} {e' : Exec} {st : Status} (h : Keeps s t) : Keeps s (Machine.retireDesc p q e' st t) := by
  unfold Machine.retireDesc
  dsimp only
  split
  · exact .retireRec (.ite (.queueAdvance (.rfput (.dropWait (.putHubQ (.ite (.rfsat (.rfadd (.dropPackets (.endAll
      (.ite h.rfput h))))) (.rfadd (.dropPackets (.endAll (.ite h.rfput h))))))))) (.ite (.rfput (.rfput (.rfsat (.rfput
      (.rfput (.dropWait (.putHubQ (.ite (.rfsat (.rfadd (.dropPackets (.endAll (.ite h.rfput h))))) (.rfadd
      (.dropPackets (.endAll (.ite h.rfput h)))))))))))) (.report (.rfput (.rfput (.rfsat (.rfput (.rfput (.dropWait
      (.putHubQ (.ite (.rfsat (.rfadd (.dropPackets (.endAll (.ite h.rfput h))))) (.rfadd (.dropPackets (.endAll (.ite
      h.rfput h)))))))))))))))
  · exact .ite (.queueAdvance (.rfput (.dropWait (.putHubQ (.ite (.rfsat (.rfadd (.dropPackets (.endAll (.ite h.rfput
      h))))) (.rfadd (.dropPackets (.endAll (.ite h.rfput h))))))))) (.ite (.rfput (.rfput (.rfsat (.rfput (.rfput
      (.dropWait (.putHubQ (.ite (.rfsat (.rfadd (.dropPackets (.endAll (.ite h.rfput h))))) (.rfadd (.dropPackets
      (.endAll (.ite h.rfput h)))))))))))) (.report (.rfput (.rfput (.rfsat (.rfput (.rfput (.dropWait (.putHubQ (.ite
      (.rfsat (.rfadd (.dropPackets (.endAll (.ite h.rfput h))))) (.rfadd (.dropPackets (.endAll (.ite h.rfput
      h))))))))))))))

theorem finishDesc {p q : Nat} {e' : Exec} {st : Status} (h : Keeps s t) : Keeps s (Machine.finishDesc p q e' st t) :=
  .ite h.retireDesc (by
      split
      · split
        · next e => exact (h.doneSend.of_eq e).retireDesc
        · next e => exact (h.doneSend.of_eq e).putExec
        · next e => exact (h.doneSend.of_eq e).retireDesc
      · split
        · exact h.retireDesc
        · exact h.retireDesc
        · exact .ite h h.retireDesc)

theorem queueWait {p q : Nat} {d : List Byte} (h : Keeps s t) : Keeps s (Machine.queueWait p q d t).2 :=
  .ite_snd h h.waitStep

theorem issueDesc {p q : Nat} {e' : Exec} (h : Keeps s t) : Keeps s (Machine.issueDesc p q e' t) := by
  unfold Machine.issueDesc
  dsimp only
  split
  · exact h.dropWait.rfput.cvOwn.putExec
  · exact h.dropWait.rfput.cvOwn.cvBegin.postAll.putExec

theorem examineQueue {p q : Nat} (h : Keeps s t) : Keeps s (Machine.examineQueue p q t) := by
  have hnext : Keeps s (match (hubQOf t p q).ring.head? with
      | some r => if 28 ≤ q then Machine.rfput (HubQState.key p q) HubQState.next r.slot t else t
      | none => t) := by
    split
    · exact .ite h.rfput h
    · exact h
  refine .ite h ?_
  dsimp only
  split
  · next e => exact (hnext.queueWait.of_eq e).retireDesc
  · next e => exact (hnext.queueWait.of_eq e).rfput
  · next e =>
    have hw := hnext.queueWait.of_eq e
    exact .ite hw (.ite hw.rfput (.ite hw.retireDesc hw.issueDesc))

theorem finishExec {p q : Nat} {e' : Exec} {st : Status} (h : Keeps s t) : Keeps s (Machine.finishExec p q e' st t) :=
  h.putExec.endAll

theorem writeOut {p q : Nat} {e' : Exec} {off : Nat} {bs : List Byte} (h : Keeps s t) :
    Keeps s (Machine.writeOut p q e' off bs t).2 :=
  .ite_snd (.ite h h.cvuFeed) (.ite_snd (.ite_snd h (.ite h.putTap h.putTap.cvuFeed)) (by
      split
      · next e => exact .ite ((h.engWrite.of_eq e)) ((h.engWrite.of_eq e).cvuFeed)
      · next e => exact (h.engWrite.of_eq e).waitOn
      · next e => exact h.engWrite.of_eq e))

theorem copySend {p q : Nat} {e' : Exec} {off : Nat} {bs : List Byte} (h : Keeps s t) :
    Keeps s (Machine.copySend p q e' off bs t).2 :=
  .ite h.engWrite h.engWrite.cvuFeed

theorem copySent {p q n : Nat} {e' : Exec} (h : Keeps s t) : Keeps s (Machine.copySent p q n e' t).2 := by
  unfold Machine.copySent
  dsimp only
  split
  · exact h
  · split
    · next e => exact h.rpcAnswer.of_eq e
    · next e => exact h.rpcAnswer.of_eq e
    · next e => exact h.rpcAnswer.of_eq e

theorem copyBurst {p q : Nat} {e' : Exec} (h : Keeps s t) : Keeps s (Machine.copyBurst p q e' t).2 := by
  unfold Machine.copyBurst
  have hc := h.copyUnit (p := p) (q := q) (e' := e')
  split
  · exact h.copySent
  · split
    · next f off bs r u e =>
      rw [e] at hc
      refine .ite_snd hc.copySend ?_
      have hw := hc.writeOut (p := p) (q := q) (e' := { f with out := (off, bs) :: r }) (off := off) (bs := bs)
      split
      · next e => exact hw.of_eq e
      · next e => exact hw.of_eq e
      · exact h.writeOut
    · exact hc

theorem unitOf {p q : Nat} {e' : Exec} (h : Keeps s t) : Keeps s (Machine.unitOf p q e' t).2 := by
  unfold Machine.unitOf
  split
  · exact h.writeOut
  · exact .ite_snd h (.ite_snd h.copyBurst h.nextUnit)

theorem engineStep {p q : Nat} (h : Keeps s t) : Keeps s (Machine.engineStep p q t).2 := by
  unfold Machine.engineStep
  split
  · exact h
  · exact .ite_snd h (by
        split
        · exact h.putExec.endAll
        · exact h
        · exact .ite_snd h (by
              split
              · next e => exact (h.unitOf.of_eq e).endSides.putExec
              · next e => exact (h.unitOf.of_eq e).finishExec
              · next e => exact (h.unitOf.of_eq e).putExec.endAll
              · next e => exact (h.unitOf.of_eq e).putExec
              · next e => exact (h.unitOf.of_eq e).putExec))

theorem runExec {p q n : Nat} (h : Keeps s t) : Keeps s (Machine.runExec p q n t) := by
  induction n generalizing t with
  | zero => exact h
  | succ n ih =>
    have hs := h.engineStep (p := p) (q := q)
    simp only [Machine.runExec]
    split
    · next e => exact ih (hs.of_eq e)
    · next e => exact hs.of_eq e

theorem windowStep {p : Nat} (h : Keeps s t) : Keeps s (Machine.windowStep p t) := h.frame rfl

theorem doEngine {op p q : Nat} (h : Keeps s t) : Keeps s (Machine.doEngine op p q t) := by
  unfold Machine.doEngine
  split
  · exact h
  · exact .ite h h.runExec

theorem burst {p q n : Nat} {ts seen : List Nat} (h : Keeps s t) : Keeps s (Machine.burst p q ts n seen t) := by
  induction n generalizing seen t with
  | zero => exact h
  | succ n ih =>
    have hs := h.engineStep (p := p) (q := q)
    simp only [Machine.burst]
    split
    · exact h
    · refine .ite ?_ h
      split
      · next e => exact ih (hs.of_eq e)
      · next e => exact hs.of_eq e

theorem grant {p t' : Nat} {rs : List (Nat × Nat × List Nat)} {x : List Nat × State} (h : Keeps s x.2) :
    Keeps s (Machine.grant p rs t' x).2 := by
  unfold Machine.grant
  dsimp only
  split
  · exact h
  · next b _ =>
    split
    · exact h
    · have hx := fun l : List Nat => h.foldl (l := l) (f := fun v u =>
        { v with xbar := smapSet zeroDflt v.xbar (p * 256 + u) ((b + 1) % requesters) }) fun _ _ h => h.frame rfl
      exact .burst (.frame (hx _) rfl)

theorem grants {p : Nat} (h : Keeps s t) : Keeps s (Machine.grants p t) :=
  .foldl_snd (.foldl h fun _ _ h => h.engineStep) fun _ _ h => h.grant

theorem doHubCycle {p : Nat} (h : Keeps s t) : Keeps s (Machine.doHubCycle p t) :=
  .ite h (.windowStep (.foldl (.ite h h.grants) fun _ _ h => h.examineQueue))

theorem doDescriptorRetire {p q : Nat} {status : Status} (h : Keeps s t) :
    Keeps s (Machine.doDescriptorRetire p q status t) := by
  unfold Machine.doDescriptorRetire
  split
  · exact h
  · split
    · exact .ite h.finishDesc h
    · exact h

theorem doRefresh {p sl waiting : Nat} (h : Keeps s t) : Keeps s (Machine.doRefresh p sl waiting t) :=
  .ite h (.ite h.rfadd.rfsat (.ite (.rfsat (.rfput (.foldl h.rfadd.rfsat fun _ _ h => (by
      dsimp only
      split
      · exact h
      · exact h.writeRaw.rfsat
      · exact h.dramUncorrectable)
    ))) (.rfput (.foldl h.rfadd.rfsat fun _ _ h => (by
        dsimp only
        split
        · exact h
        · exact h.writeRaw.rfsat
        · exact h.dramUncorrectable)))))

theorem abortQueue {p q : Nat} {st : Status} (h : Keeps s t) : Keeps s (Machine.abortQueue p q st t).2 := by
  unfold Machine.abortQueue
  split
  · split
    · exact .ite_snd h.finishDesc h.retireDesc
    · exact h.retireDesc
  · exact .ite_snd h (by
        split
        · exact h.retireDesc
        · exact .ite_snd h.retireDesc h)

theorem postDesc {c : Cmd} {port : Nat} (h : Keeps s t) : Keeps s (Machine.postDesc c port t).2 :=
  .ite_snd h (by
      split
      · exact h
      · exact .ite_snd h (.ite_snd h (.ite_snd h (.ite_snd h h.putHubQ.putDesc))))

theorem doDmaStand {c : Cmd} (h : Keeps s t) : Keeps s (Machine.doDmaStand c t) :=
  .ite h.noteFlight (.ite h (by
      split
      · exact h.refuse
      · exact .ite h.refuse (.ite h.postDesc.noteFlight h.postDesc.refuse)))

theorem releaseQueue {p q action : Nat} (h : Keeps s t) : Keeps s (Machine.releaseQueue p q action t) :=
  .ite h.rfput.rfput (.ite h.rfput.rfput.queueAdvance h.rfput.rfput.rfput)

theorem doRelease {c : Cmd} (h : Keeps s t) : Keeps s (Machine.doRelease c t) :=
  h.issueVerb (fun _ h => .ite h.refuse (.ite h.refuse (by
      split
      · exact h.refuse
      · exact .ite h.refuse h.releaseQueue.retireVerb)))

/-! ### Machine/Host -/

theorem doCmdDoorbell {p r v : Nat} (h : Keeps s t) : Keeps s (Machine.doCmdDoorbell p r v t) :=
  .ite h.countErr (.ite h.countErr h.putRing)

theorem doCplDoorbell {p r v : Nat} (h : Keeps s t) : Keeps s (Machine.doCplDoorbell p r v t) :=
  .ite h.countErr (.ite h.countErr h.putRing)

theorem doEvDoorbell {p v : Nat} (h : Keeps s t) : Keeps s (Machine.doEvDoorbell p v t) :=
  .ite h.countErr (.ite h.countErr h.putPort)

theorem settleReserved {p r : Nat} (h : Keeps s t) : Keeps s (Machine.settleReserved p r t) :=
  .foldl h fun _ _ h => .ite h (by
      split
      · next e => exact h.cmdWait.of_eq e
      · next e => exact (h.cmdWait.of_eq e).retireCmd
      · next e => exact (h.cmdWait.of_eq e).retireCmd)

theorem doFetch {p : Nat} {entry : BitVec 512} (h : Keeps s t) : Keeps s (Machine.doFetch p entry t) := by
  have hf : ∀ w f, Keeps s w → Keeps s { w with fetchOrder := f } := fun _ _ h => h.frame rfl
  refine .ite h ?_
  split
  · exact h
  · exact .ite h.putPort.putRing (.ite h.putPort.putRing.putRing.settleReserved (.ite (hf _ _ h.putPort.putRing)
      h.putPort.putRing))

theorem doRetire {p r : Nat} (h : Keeps s t) : Keeps s (Machine.doRetire p r t) := by
  unfold Machine.doRetire
  dsimp only
  split
  · exact h.settleReserved
  · exact .ite h.settleReserved.putRing.discardRec (.ite h.settleReserved (.ite
      h.settleReserved.hostWrite.putRing.raiseIrq h.settleReserved.hostWrite.putRing))

theorem doCrCfg {via : Via} {p r : Nat} {v : Word} (h : Keeps s t) : Keeps s (Machine.doCrCfg via p r v t).2 :=
  h.viaWrite (fun _ h => (by
      dsimp only
      split
      · exact h
      · exact h.plainWrite.putRing
      · exact h.plainWrite.putRing
      · exact h.plainWrite))

theorem doEvqCfg {via : Via} {p : Nat} {v : Word} (h : Keeps s t) : Keeps s (Machine.doEvqCfg via p v t).2 :=
  h.viaWrite (fun _ h => (by
      split
      · exact h
      · exact h.plainWrite.putPort
      · exact h.plainWrite))

theorem doRingBase {via : Via} {k cfg : Nat} {v : Word} (h : Keeps s t) (hk : k ≠ ClkSlotCfg.key) :
    Keeps s (Machine.doRingBase via k cfg v t).2 :=
  h.viaWrite (fun _ h => .ite_snd h (h.plainWrite hk))

theorem ringsDown {p : Nat} (h : Keeps s t) : Keeps s (Machine.ringsDown p t) :=
  .foldl h fun _ _ h => .foldl h.rfput.putRing fun _ _ h => h.discardRec

theorem putGring {p q : Nat} {v : GRing} (h : Keeps s t) : Keeps s (Machine.putGring p q v t) := h.frame rfl

theorem discardGRec {r : GRec} (h : Keeps s t) : Keeps s (Machine.discardGRec r t) := h.report

theorem gringsDown {p : Nat} (h : Keeps s t) : Keeps s (Machine.gringsDown p t) :=
  .foldl h fun _ _ h => .putGring (.rfput (.foldl h fun _ _ h => h.discardGRec))

/-! ### Machine/Tally -/

theorem doTlyCount {via : Via} {ring : Bool} {p i : Nat} {v : Word} (h : Keeps s t) :
    Keeps s (Machine.doTlyCount via ring p i v t).2 :=
  h.viaWrite (fun _ h => h.rput)

theorem doTlyAdd {via : Via} {ring : Bool} {p i : Nat} {v : Word} (h : Keeps s t) :
    Keeps s (Machine.doTlyAdd via ring p i v t).2 :=
  h.viaWrite (fun _ h => h.tallyBump)

theorem doTlyCfg {via : Via} {i : Nat} {v : Word} (h : Keeps s t) : Keeps s (Machine.doTlyCfg via i v t).2 :=
  h.viaWrite (fun _ h => .ite_snd (.ite h.rfput h.plainWrite) (.ite_snd (.ite_snd h h) (.ite_snd h.plainWrite h)))

theorem doTlyWatch {via : Via} {i : Nat} {limit : Bool} {v : Word} (h : Keeps s t) :
    Keeps s (Machine.doTlyWatch via i limit v t).2 := by
  cases limit
  · exact h.viaWrite fun _ h => .ite_snd h h.plainWrite
  · exact h.viaWrite fun _ h => .ite_snd h h.plainWrite

theorem lsHeaderCame {i a : Nat} (h : Keeps s t) : Keeps s (Machine.lsHeaderCame i a t) := .ite (h.frame rfl) h

theorem watchCount {port : Nat} {watches : List Watch} {pieces : List (Nat × Nat × Bool)} (h : Keeps s t) :
    Keeps s (Machine.watchCount port watches pieces t) :=
  .foldl h fun _ _ h => .ite h (.ite (by
      split
      · exact .ite h.tallyBump.lsHeaderCame h
      · exact h) (.ite h h.tallyBump))

/-! ### Machine/Port -/

theorem pieceFails {p : Nat} {st : Status} {x : Piece} (h : Keeps s t) : Keeps s (Machine.pieceFails p st x t).2 :=
  .report (.ite h.countErr h)

theorem doPiece {p : Nat} {write : Bool} {x : Piece} (h : Keeps s t) : Keeps s (Machine.doPiece p write x t).2 := by
  refine .ite_snd h (.ite_snd h.pieceFails (.ite_snd h.pieceFails ?_))
  split
  · exact h.pieceFails
  · next q sl off _ =>
    refine .ite_snd (.ite_snd h.pieceFails ?_) ?_
    · split
      · exact h.dramUncorrectable
      · exact h.dramWrite
    · have hr := h.dramRead (p := q) (sl := sl) (off := off) (n := x.len)
      split
      · next e => exact hr.of_eq e
      · next e => exact hr.of_eq e
  · next q a off _ =>
    have hx : Keeps s (if write = true then Machine.extWrite q a off (if inUntagged t q a (off / 64) = true then 2 else 1) x.data t
        else Machine.extRead q a off x.len 2 t).2 := .ite_snd h.extWrite h.extRead
    split
    · next e => exact hx.of_eq e
    · next e => exact hx.of_eq e
    · next e => exact (hx.of_eq e).pieceFails

theorem doPieces {p : Nat} {write : Bool} {xs : List Piece} (h : Keeps s t) : Keeps s (Machine.doPieces p write xs t).2 := by
  induction xs generalizing t with
  | nil => exact h
  | cons x xs ih => exact ih h.doPiece

theorem settleReq {p : Nat} {r : PortReq} (h : Keeps s t) : Keeps s (Machine.settleReq p r t) :=
  .ite h.putPort (.putPort (.ite (.ite h h.watchCount) (.ite h.rfsat h)))

theorem retryReqs {p : Nat} (h : Keeps s t) : Keeps s (Machine.retryReqs p t) :=
  .foldl h fun _ _ h => .ite (.settleReq (.foldl_snd h fun _ _ h => .ite_snd h.doPiece h)) h

theorem doRequest {p : Nat} {write : Bool} {hpa n grant : Nat} {data : List Byte} (h : Keeps s t) :
    Keeps s (Machine.doRequest p write hpa n grant data t) :=
  h.putPort.doPieces.settleReq.retryReqs

theorem evictLine {p : Nat} {returned : List (BitVec 52 × BitVec 512)} (h : Keeps s t) :
    Keeps s (Machine.evictLine p returned t) := by
  unfold Machine.evictLine
  split
  · exact h
  · dsimp only
    split
    · exact .ite h.putPort.doRequest h.putPort
    · exact h.putPort

theorem grantLine {p : Nat} {returned : List (BitVec 52 × BitVec 512)} {modify : Bool} {line : Nat} (h : Keeps s t) :
    Keeps s (Machine.grantLine p returned modify line t) :=
  .putPort (.ite h h.evictLine)

theorem doCxlMem {p : Nat} {write : Bool} {hpa asked : Nat} {data : List Byte} {n : Nat}
    {returned : List (BitVec 52 × BitVec 512)} (h : Keeps s t) :
    Keeps s (Machine.doCxlMem p write hpa asked data n returned t) :=
  .ite h (.ite h.doRequest (.foldl h.doRequest fun _ _ h => h.grantLine))

theorem aerNote {p i : Nat} (h : Keeps s t) : Keeps s (Machine.aerNote p i t) := h.putPort

theorem refusePeer {p hpa : Nat} (h : Keeps s t) : Keeps s (Machine.refusePeer p hpa t) :=
  h.countErr.putPort.aerNote.report

theorem doUio {p : Nat} {write : Bool} {hpa n : Nat} {data : List Byte} (h : Keeps s t) :
    Keeps s (Machine.doUio p write hpa n data t) :=
  .ite h (.ite h.refusePeer h.doRequest)

theorem doPeerPosted {p hpa : Nat} (h : Keeps s t) : Keeps s (Machine.doPeerPosted p hpa t) := .ite h h.refusePeer

theorem doHoldExpired {p : Nat} (h : Keeps s t) : Keeps s (Machine.doHoldExpired p t) :=
  .foldl h.retryReqs fun _ _ h => .settleReq (.foldl_snd h fun _ _ h => .ite_snd h.pieceFails h)

theorem snoopAll (h : Keeps s t) : Keeps s (Machine.snoopAll t) :=
  .foldl h fun _ _ h => .ite h.putPort (.rfsat (h.frame rfl))

theorem doConfigSpace {p : Nat} {w : ConfigAccess} (h : Keeps s t) : Keeps s (Machine.doConfigSpace p w t) := by
  cases w with
  | completionTimeout | msixControl | aerClear => exact h.putPort
  | decoder => exact .ite h (h.frame rfl)
  | msixVector => exact .ite h h.putPort
  | readTimeout | readDecoder | readMsix | readPending | readAer | readLocator => exact h.frame rfl

/-! ### Machine/Sec -/

theorem fwWaits {st : Option Status} (h : Keeps s t) : Keeps s (Machine.fwWaits st t) := by
  unfold Machine.fwWaits
  dsimp only
  split
  · exact .rfput (.rfput (.rfput (h.frame rfl)))
  · exact .rfput (.rfput (h.frame rfl))

theorem fwSessionGone {k : Nat} (h : Keeps s t) : Keeps s (Machine.fwSessionGone k t) := .ite h.fwWaits h

theorem endSession {k : Nat} (h : Keeps s t) : Keeps s (Machine.endSession k t) := .putSess (h.fwSessionGone.frame rfl)

theorem endSessionsOf {f : Nat → Bool} (h : Keeps s t) : Keeps s (Machine.endSessionsOf f t) :=
  .foldl h fun _ _ h => h.endSession

theorem endSessions (h : Keeps s t) : Keeps s (Machine.endSessions t) := h.endSessionsOf

theorem secError {test : Nat} (h : Keeps s t) : Keeps s (Machine.secError test t) :=
  .ite h (.foldl h.rfput.rfput.report.endSessions fun _ _ h => h.putPort)

theorem freeTest (h : Keeps s t) : Keeps s (Machine.freeTest t).2 := h.draw

/-! ### Machine/RingDma -/

theorem rdmaNoRoute {addr : Nat} (h : Keeps s t) : Keeps s (Machine.rdmaNoRoute addr t).2 := h.countErr

/-- The read of a DRAM slot is taken for any that keeps, as in doReadRequest. -/
theorem rdmaRead {p addr form : Nat} (h : Keeps s t) : Keeps s (Machine.rdmaRead p addr form t).2 := by
  obtain ⟨read, hr⟩ : ∃ read, read = Machine.dramRead := ⟨_, rfl⟩
  have hd : ∀ {p sl off n u}, Keeps s u → Keeps s (read p sl off n u).2 := hr ▸ dramRead
  unfold Machine.rdmaRead
  rw [← hr]
  refine .ite_snd h.rdmaNoRoute ?_
  split
  · exact h
  · split
    · next e => exact (hd h).of_eq e
    · next e => exact (hd h).of_eq e
  · exact h.extRead

theorem rdmaWrite {p addr form : Nat} {bs : List Byte} (h : Keeps s t) :
    Keeps s (Machine.rdmaWrite p addr form bs t).2 :=
  .ite_snd h.rdmaNoRoute (by
      split
      · exact h
      · exact .ite_snd h h.dramWrite
      · exact h.extWrite)

theorem putJob {p : Nat} {j : CopyJob} (h : Keeps s t) : Keeps s (Machine.putJob p j t) := h.putPort

theorem endCopy {p eng : Nat} {c : Cmd} {st : Status} {addr moved : Nat} {cv nonrep : Bool} (h : Keeps s t) :
    Keeps s (Machine.endCopy p eng c st addr moved cv nonrep t) :=
  .retireRec (.ite (.ite (.rfadd (.ite h.rfput h)) (.rfput (.rfput (.rfadd (.ite h.rfput h))))) (.report (.ite (.rfadd
    (.ite h.rfput h)) (.rfput (.rfput (.rfadd (.ite h.rfput h)))))))

theorem endJob {p : Nat} {j : CopyJob} {st : Status} {addr : Nat} (h : Keeps s t) :
    Keeps s (Machine.endJob p j st addr t) :=
  h.putPort.endCopy

theorem jobAnswered {p : Nat} {j : CopyJob} {id : MeshSrc} (h : Keeps s t) : Keeps s (Machine.jobAnswered p j id t) := by
  unfold Machine.jobAnswered
  split
  · exact h.endJob
  · exact h.endJob
  · exact .ite h h.endJob

theorem finishJob {p : Nat} {j : CopyJob} (h : Keeps s t) : Keeps s (Machine.finishJob p j t) :=
  .ite h.endJob (.ite h.endJob (by
      split
      · exact h.jobAnswered
      · split
        · next e => exact (h.doneSend.of_eq e).endJob
        · next e => exact (h.doneSend.of_eq e).putJob
        · next e => exact (h.doneSend.of_eq e).endJob))

theorem issueReads {p id n : Nat} (h : Keeps s t) : Keeps s (Machine.issueReads p id n t) := by
  induction n generalizing t with
  | zero => exact h
  | succ n ih =>
    simp only [Machine.issueReads]
    split
    · exact h
    · exact .ite h (ih h.putPort.putJob)

theorem copyData {p : Nat} {j : CopyJob} (h : Keeps s t) : Keeps s (Machine.copyData p j t).2 := by
  unfold Machine.copyData
  dsimp only
  split
  · exact h
  · exact .ite_snd h (.ite_snd (by
        split
        · next e => exact h.rdmaRead.of_eq e
        · next e => exact (h.rdmaRead.of_eq e).putJob
        · next e => exact h.rdmaRead.of_eq e)
      (.ite_snd h (by
          split
          · split
            · exact h.issueReads
            · exact h.issueReads
          · exact h.issueReads)))

theorem copyPut {p : Nat} {j : CopyJob} {bs : List Byte} (h : Keeps s t) : Keeps s (Machine.copyPut p j bs t).2 := by
  refine .ite_snd h (.ite_snd h (.ite_snd h.hostWrite (.ite_snd (.putJob (.putPort ?_)) ?_)))
  · exact h.bytes fun ⟨hm, ho, hh, hp, hr⟩ => ⟨hm, ho, hh, smapOk_smapSetMany _ _ _ _ hp, hr⟩
  · have hw := h.rdmaWrite (p := p) (addr := cpDst j.cmd + j.written) (form := cpWriteForm j.cmd) (bs := bs)
    split
    · next e => exact hw.of_eq e
    · next e => exact hw.of_eq e
    · next e => exact hw.of_eq e

theorem copyStep {p id : Nat} {bs : List Byte} (h : Keeps s t) : Keeps s (Machine.copyStep p id bs t) := by
  unfold Machine.copyStep
  split
  · exact h
  · exact .ite (.putPort (.putJob (.ite h h.cvuFeed))) (.putJob (.ite h h.cvuFeed))

theorem copyKeep {p id : Nat} {bs : List Byte} (h : Keeps s t) : Keeps s (Machine.copyKeep p id bs t) := by
  unfold Machine.copyKeep
  split
  · exact h.putJob
  · exact h

theorem runJob {p id n : Nat} (h : Keeps s t) : Keeps s (Machine.runJob p id n t) := by
  induction n generalizing t with
  | zero => exact h
  | succ n ih =>
    simp only [Machine.runJob]
    split
    · exact h
    · next j _ =>
      have hd := h.copyData (p := p) (j := j)
      refine .ite (.ite h.finishJob h) (.ite h ?_)
      split
      · next e => exact (hd.of_eq e).endJob
      · next e => exact hd.of_eq e
      · next bs u e =>
        rw [e] at hd
        have hp := hd.copyPut (p := p) (j := (jobOf u p id).getD j) (bs := bs)
        split
        · next e => exact (hp.of_eq e).endJob
        · next e => exact (hp.of_eq e).copyKeep
        · next e => exact ih (hp.of_eq e).copyStep

theorem startCopy {p eng : Nat} {c : Cmd} (h : Keeps s t) : Keeps s (Machine.startCopy p eng c t) :=
  .runJob (.noteFlight (.putPort (.ite h (.ite h.cvuSet.rfput.cvuFeed h.cvuSet.rfput))))

theorem doDmaCopy {c : Cmd} (h : Keeps s t) : Keeps s (Machine.doDmaCopy c t) := by
  unfold Machine.doDmaCopy
  split
  · exact h.issueVerb (fun _ h => h.refuse)
  · dsimp only
    split
    · exact h.runJob
    · exact .ite h.noteFlight (h.issueVerb (fun _ h => (by
          split
          · exact h.endCopy
          · exact h.startCopy)))

theorem doCompletion {p : Nat} {tag : BitVec 16} {how : Completion} {lateUs : Nat} {data : List Byte} (h : Keeps s t) :
    Keeps s (Machine.doCompletion p tag how lateUs data t) := by
  unfold Machine.doCompletion
  dsimp only
  split
  · exact .aerNote (.rfsat (.ite h.noteStall h))
  · split
    · exact .ite h.noteStall h
    · split
      · exact .runJob (.putPort (.putJob (.ite h.noteStall h)))
      · exact .endJob (.putJob (.ite h.noteStall h))

theorem doTimeout {p : Nat} {tag : BitVec 16} (h : Keeps s t) : Keeps s (Machine.doTimeout p tag t) := by
  unfold Machine.doTimeout
  split
  · exact h
  · split
    · exact h
    · exact h.endJob

theorem undrain (h : Keeps s t) : Keeps s (Machine.undrain t) := .foldl (h.frame rfl) fun _ _ h => .ite h.putStand h

theorem abortTarget {t' : Cmd} (h : Keeps s t) : Keeps s (Machine.abortTarget t' t).2 := by
  unfold Machine.abortTarget
  split
  · exact .ite_snd h h.endJob
  · exact .ite_snd h (by
        split
        · exact .ite_snd h.abortQueue h.putHubQ.retireCmd
        · split
          · exact .ite_snd (.ite_snd h.undrain.endLong h) h.retireCmd
          · exact h.retireCmd)

theorem doAbort {c : Cmd} {entry : BitVec 512} (h : Keeps s t) : Keeps s (Machine.doAbort c entry t) :=
  h.issueVerb (fun _ h => .ite h.retireVerb (by
      split
      · exact .ite h.refuse (by
            split
            · exact h.retireVerb
            · exact h.abortTarget.retireVerb)
      · exact .ite h.refuse (.ite h.refuse (by
            split
            · exact h.abortTarget.retireVerb
            · exact .ite h.putRing.retireCmd.retireVerb h.retireVerb))))

theorem fwAbandon {p : Nat} (h : Keeps s t) : Keeps s (Machine.fwAbandon p t) := .ite h.fwWaits h

theorem portDown {p : Nat} (h : Keeps s t) : Keeps s (Machine.portDown p t) := by
  have hg : ∀ v g, Keeps s v → Keeps s { v with gul := g } := fun _ _ h => h.frame rfl
  exact .fwAbandon (.foldl (.rfput (hg _ _ (.gringsDown (.ringsDown (.foldl h.putPort fun _ _ h => h.endJob)))))
    fun _ _ h => h.settleReq)

/-! ### Machine/Answer -/

theorem doneAnswered {id : MeshSrc} {st : Status} (h : Keeps s t) : Keeps s (Machine.doneAnswered id st t) := by
  unfold Machine.doneAnswered
  split
  · exact h.endJob
  · exact h.verbDone

/-! ### Machine/Gulem -/

theorem putGs {n : Nat} {v : GSess} (h : Keeps s t) : Keeps s (Machine.putGs n v t) := h.frame rfl

theorem flushRecs {p q n : Nat} (h : Keeps s t) : Keeps s (Machine.flushRecs p q n t) := by
  induction n generalizing t with
  | zero => exact h
  | succ n ih =>
    simp only [Machine.flushRecs]
    split
    · exact h
    · exact .ite h (ih (.ite h.hostWrite.putGring.raiseIrq h.hostWrite.putGring))

theorem pushRec {p q : Nat} {r : GRec} (h : Keeps s t) : Keeps s (Machine.pushRec p q r t) :=
  .ite h.discardGRec h.putGring.flushRecs

theorem doGqDoorbell {p q v : Nat} (h : Keeps s t) : Keeps s (Machine.doGqDoorbell p q v t) :=
  .ite h.countErr (.ite h.countErr h.putGring)

theorem doGsDoorbell {p q v : Nat} (h : Keeps s t) : Keeps s (Machine.doGsDoorbell p q v t) :=
  .ite h.countErr (.ite h.countErr h.putGring.flushRecs)

theorem doGqCfg {via : Via} {p q : Nat} {v : Word} (h : Keeps s t) : Keeps s (Machine.doGqCfg via p q v t).2 :=
  h.viaWrite (fun _ h => (by
      dsimp only
      split
      · exact h
      · exact h.plainWrite.putGring.flushRecs
      · exact h.plainWrite.putGring
      · exact h.plainWrite))

theorem doGulFetch {p : Nat} {entry : BitVec 512} {prompt : List (BitVec 32)} {fail : Option (Status × Word)}
    (h : Keeps s t) : Keeps s (Machine.doGulFetch p entry prompt fail t) := by
  refine .ite h ?_
  split
  · exact h
  · exact h.frame rfl

theorem sessRec {n p q : Nat} {st : Status} {reqId : BitVec 16} {detail : Word} {irq : Bool} (h : Keeps s t) :
    Keeps s (Machine.sessRec n p q st reqId detail irq t) :=
  h.putGs.pushRec

theorem turnRec {n : Nat} {st : Status} {detail : Word} (h : Keeps s t) : Keeps s (Machine.turnRec n st detail t) :=
  h.sessRec

theorem writeHeader {n st : Nat} (h : Keeps s t) : Keeps s (Machine.writeHeader n st t) := .ite h h.hostWrite

theorem writePte {v : Service} {n t' b page : Nat} {valid : Bool} (h : Keeps s t) :
    Keeps s (Machine.writePte v n t' b page valid t) := by
  unfold Machine.writePte
  dsimp only
  split
  · exact h.dramWrite
  · exact h

theorem writeBlocks {v : Service} {n b : Nat} {valid : Bool} {bs : List (List Nat)} (h : Keeps s t) :
    Keeps s (Machine.writeBlocks v n valid b bs t) := by
  induction bs generalizing b t with
  | nil => exact h
  | cons x xs ih => exact ih (.foldl h fun _ _ h => h.writePte)

theorem freeSession {v : Service} {n : Nat} (h : Keeps s t) : Keeps s (Machine.freeSession v n t) :=
  .putGs (.setGul h.writeBlocks)

theorem dropTurn {v : Service} {n : Nat} {st : Status} {detail : Word} (h : Keeps s t) :
    Keeps s (Machine.dropTurn v n st detail t) :=
  .freeSession (.turnRec (.ite h.writeHeader h))

theorem acceptTurn {v : Service} {r : GReq} {n : Nat} (h : Keeps s t) : Keeps s (Machine.acceptTurn v r n t) := by
  unfold Machine.acceptTurn
  dsimp only
  split
  · exact .dropTurn (.sessRec (.putGs (h.frame rfl)))
  · split
    · exact .dropTurn (.sessRec (.putGs (h.frame rfl)))
    · exact .sessRec (.putGs (h.frame rfl))

theorem applyReq {v : Service} {r : GReq} (h : Keeps s t) : Keeps s (Machine.applyReq v t r) := by
  unfold Machine.applyReq
  dsimp only
  split
  · exact .ite h.pushRec h.sessRec
  · exact .ite h.acceptTurn (.ite (.ite h.sessRec (.freeSession (.sessRec (.ite h h.writeHeader))))
      h.sessRec.freeSession)

theorem commitToken {v : Service} {n tok : Nat} {lp : Lane} {kept : Nat} (h : Keeps s t) :
    Keeps s (Machine.commitToken v n tok lp kept t) := by
  unfold Machine.commitToken
  dsimp only
  split
  · exact .writeHeader (.putGs (.ite h.hostWrite h))
  · exact .ite (.putGs (.frame (.turnRec (.writeHeader (.putGs (.ite h.hostWrite h)))) rfl)) (.freeSession (.turnRec
      (.writeHeader (.putGs (.ite h.hostWrite h)))))

theorem commitOne {v : Service} {logits : List (BitVec 16 × List (BitVec 32))} {x : Nat × Nat} (h : Keeps s t) :
    Keeps s (Machine.commitOne v logits t x) := by
  obtain ⟨n, k⟩ := x
  unfold Machine.commitOne
  dsimp only
  refine .ite h.putGs ?_
  split
  · exact h.ctlDesc.report
  · exact h.putGs.ctlDesc.commitToken

theorem linkEnds {v : Service} (h : Keeps s t) : Keeps s (Machine.linkEnds v t) :=
  .foldl (h.frame rfl) fun _ _ h => h.dropTurn

theorem evictLoop {v : Service} {need n : Nat} (h : Keeps s t) : Keeps s (Machine.evictLoop v need n t) := by
  induction n generalizing t with
  | zero => exact h
  | succ n ih =>
    refine .ite h ?_
    split
    · exact h
    · exact ih h.turnRec.freeSession

theorem evictFor {v : Service} {need : Nat} (h : Keeps s t) : Keeps s (Machine.evictFor v need t) := .ite h.evictLoop h

theorem admitLoop {v : Service} {n : Nat} (h : Keeps s t) : Keeps s (Machine.admitLoop v n t) := by
  induction n generalizing t with
  | zero => exact h
  | succ n ih =>
    simp only [Machine.admitLoop]
    split
    · exact h
    · exact .ite h (.ite (ih (.turnRec (.writeHeader (.putGs (.setGul h))))) h.evictFor)

theorem allocBlocks {v : Service} {n m : Nat} (h : Keeps s t) : Keeps s (Machine.allocBlocks v n m t) := by
  induction m generalizing t with
  | zero => exact h
  | succ m ih => exact ih (.putGs (.writeBlocks (.setGul h)))

theorem allocate {v : Service} (h : Keeps s t) : Keeps s (Machine.allocate v t) := .foldl h fun _ _ h => h.allocBlocks

theorem gulActions {v : Service} {logits : List (BitVec 16 × List (BitVec 32))} (h : Keeps s t) :
    Keeps s (Machine.gulActions v logits t) :=
  .allocate (.admitLoop (.foldl (.setGul (.linkEnds (.foldl h fun _ _ h => h.commitOne))) fun _ _ h => h.applyReq))

theorem gulBlazed (h : Keeps s t) : Keeps s (Machine.gulBlazed t) :=
  .ite (.rput (.setGul (.foldl h fun _ _ h => h.putGring))) (.setGul (.foldl h fun _ _ h => h.putGring))

theorem gulNextStep (h : Keeps s t) : Keeps s (Machine.gulNextStep t) := .ite (h.frame rfl) h

theorem gulLoad {img : List Byte} (h : Keeps s t) : Keeps s (Machine.gulLoad img t) :=
  .setGul (.foldl h.setGul fun _ _ h => .turnRec (.ite h.writeHeader h))

/-! ### Machine/Clocks -/

theorem startGlide {khz : Nat} (h : Keeps s t) (hk : Within s khz) : Keeps s (Machine.startGlide khz t) := by
  refine .ite (h.putKhz hk) (.putSlotStatus ((h.putKhz hk).putRingClk fun x hx => ?_))
  obtain rfl := Option.some.inj hx
  exact hk

/-- A slot clock above the ceiling is refused (R423). -/
theorem le_ceil_of_slotRefusal {khz : Nat} (h : slotRefusal t khz = none) : khz ≤ Config.slotCeilKhz := by
  unfold slotRefusal at h
  split at h
  · cases h
  · split at h
    · cases h
    · next ha =>
      simp only [aboveCeiling, Bool.or_eq_true, decide_eq_true_eq, not_or, not_lt] at ha
      exact ha.1

theorem doSlotCfg {via : Via} {v : Word} (h : Keeps s t) : Keeps s (Machine.doSlotCfg via v t).2 :=
  h.viaWrite fun _ h => .ite_snd h (by
    split
    · exact h
    · next e => exact h.startGlide fun _ _ => le_ceil_of_slotRefusal e)

theorem doSetClock {c : Cmd} (h : Keeps s t) : Keeps s (Machine.doSetClock c t) :=
  h.issueVerb fun _ h => .ite h.beginLong (by
    split
    · exact h.refuse
    · next e =>
      have hg := h.startGlide (khz := setClockKhz c) fun _ _ => le_ceil_of_slotRefusal e
      exact .ite hg.retireVerb hg.beginLong)

theorem afterGlide (h : Keeps s t) : Keeps s (Machine.afterGlide t) := by
  unfold Machine.afterGlide
  split
  · refine .ite h.endLong (.ite ?_ h)
    split
    · exact h.endLong
    · next e => exact .startGlide (.setArb h) fun _ _ => le_ceil_of_slotRefusal e
  · exact h

theorem doGlideEnd (h : Keeps s t) : Keeps s (Machine.doGlideEnd t) := by
  unfold Machine.doGlideEnd
  split
  · exact h
  · next e =>
    have hc := (h.putRingClk (c := { t.ringClk with glide := none }) nofun).putCurrentKhz (h.within_glide e)
    exact hc.putSlotStatus.rfput.putSlotStatus.afterGlide

theorem glideCut (h : Keeps s t) : Keeps s (Machine.glideCut t) := .ite h.afterGlide h

theorem glideStop_le (a b : Nat) (w : Word) : glideStop a b w ≤ max a b := by
  unfold glideStop
  have := Nat.mod_lt w.toNat (show 0 < max a b - min a b + 1 by omega)
  omega

theorem doRefLost (h : Keeps s t) : Keeps s (Machine.doRefLost t) := by
  have hcut : Keeps s (match t.ringClk.glide with
      | none => t
      | some khz =>
        let (w, t) := Machine.draw t
        Machine.rfput ClkSlotStatus.key ClkSlotStatus.currentKhz
          (glideStop (rf t ClkSlotStatus.key ClkSlotStatus.currentKhz) khz w) t) := by
    split
    · exact h
    · next khz e =>
      refine h.draw.putCurrentKhz fun w ok => (glideStop_le _ _ _).trans (max_le ?_ (h.within_glide e w ok))
      exact h.draw.within_current w ok
  have hend : ∀ c u, Keeps s u → Keeps s (if c = true then Machine.glideCut u else u) := fun _ _ h => .ite h.glideCut h
  exact .ite (hend _ _ (.report (.rfput (.rfsat (.rfput (.putSlotStatus (.putSlotStatus (.putRingClk hcut nofun))))))))
    (.ite (.report (.rfsat (h.putRingClk fun _ => h.within_glide))) h)

theorem doRefReturn (h : Keeps s t) : Keeps s (Machine.doRefReturn t) := by
  have hr := (h.putRingClk (c := { t.ringClk with refOk := true }) fun _ => h.within_glide).rfput
    (k := ClkPpsStatus.key) (f := ClkPpsStatus.refHold) (v := 0)
  exact .ite h (.ite (.rfput (.putSlotStatus (hr.putCurrentKhz hr.within_khz))) hr)

theorem doReacquire {via : Via} (h : Keeps s t) : Keeps s (Machine.doReacquire via t).2 :=
  h.viaWrite fun _ h => .ite_snd h (.ite_snd (.ite_snd h (h.rfput.startGlide h.within_khz)) h)

theorem doClkDiv {via : Via} {p : Nat} {v : Word} (h : Keeps s t) : Keeps s (Machine.doClkDiv via p v t).2 :=
  h.viaWrite (fun _ h => .ite_snd h (.ite_snd h h.plainWrite.rfsat))

theorem gateAll {p n : Nat} (h : Keeps s t) : Keeps s (Machine.gateAll p n t) := .foldl h fun _ _ h => h.putGate

theorem gateApply {op : GateOp} {p n : Nat} (h : Keeps s t) : Keeps s (Machine.gateApply op p n t).2 := by
  refine .ite_snd h ?_
  cases op with
  | on => exact .foldl h.putGate fun _ _ h => .ite h.putGate h
  | off =>
    dsimp only
    split
    · exact h
    · dsimp only
      exact h.gateAll (p := p) (n := n)
  | offAfterDrain => exact .ite_snd h (.ite h h.putGate)
  | cancel => exact .ite h.putGate h

theorem doGate {via : Via} {op : GateOp} {p n : Nat} (h : Keeps s t) : Keeps s (Machine.doGate via op p n t).2 :=
  h.viaWrite (fun _ h => .ite h.gateApply h.gateApply.rfput)

theorem gatesOn (h : Keeps s t) : Keeps s (Machine.gatesOn t) := h.frame rfl

/-! ### Machine/Lockstep -/

theorem putOwn {k : Nat} {v : Option LsBlock} (h : Keeps s t) : Keeps s (Machine.putOwn k v t) := h.frame rfl

theorem putIn {k : Nat} {v : Option LsBlock} (h : Keeps s t) : Keeps s (Machine.putIn k v t) := h.frame rfl

theorem lsWrite {off : Nat} {bs : List Byte} (h : Keeps s t) : Keeps s (Machine.lsWrite off bs t) :=
  .foldl h fun _ _ h => by
    dsimp only
    split
    · exact h.dramWrite
    · exact h

theorem slAccept {c : Cmd} (h : Keeps s t) : Keeps s (Machine.slAccept c t) :=
  .ite (.rput (.rput (.rput (.rput (.rput (.rput (.rput (.frame (.clearTraces (.frame (.rput (.ite h.rfput h)) rfl))
    rfl)))))))) (.frame (.clearTraces (.frame (.rput (.ite h.rfput h)) rfl)) rfl)

theorem doSetLockstep {c : Cmd} (h : Keeps s t) : Keeps s (Machine.doSetLockstep c t) :=
  h.issueVerb (fun _ h => .ite h.refuse (by
      split
      · exact h.refuse
      · exact h.slAccept.retireVerb))

theorem reportEpoch {e' : Nat} {st : Status} {data : List Byte} (h : Keeps s t) :
    Keeps s (Machine.reportEpoch e' st data t) :=
  .setEpoch (.report h.setEpoch)

theorem lsCannot {e' case : Nat} (h : Keeps s t) : Keeps s (Machine.lsCannot e' case t) :=
  .reportEpoch (.ite h.rfsat h.rfsat)

theorem lsLag {b : LsBlock} (h : Keeps s t) : Keeps s (Machine.lsLag b t) := .ite h h.lsCannot

theorem lsLastMatch (h : Keeps s t) : Keeps s (Machine.lsLastMatch t) := h.rput

theorem lsCompare {k : Nat} (h : Keeps s t) : Keeps s (Machine.lsCompare k t) := by
  unfold Machine.lsCompare
  split
  · exact .ite h (.ite (.lsLastMatch (.setLsOn h.putIn.putOwn.rfsat)) (.reportEpoch (.ite
      h.putIn.putOwn.rfsat.rfsat.rput.lsLastMatch h.putIn.putOwn.rfsat.rfsat)))
  · exact h

theorem lsArrived {k e' : Nat} (h : Keeps s t) : Keeps s (Machine.lsArrived k e' t) := by
  unfold Machine.lsArrived
  split
  · exact .ite h.lsCannot.putIn (.lsCompare (.putIn (by
        split
        · exact .ite (.lsLag (.ite h.putOwn.lsLag h)) (.ite h.putOwn.lsLag h)
        · exact .ite h.putOwn.lsLag h)))
  · exact .putIn (by
        split
        · exact .ite h.lsLag h
        · exact h)

theorem doLockstepCompare (h : Keeps s t) : Keeps s (Machine.doLockstepCompare t) :=
  .ite h (.foldl (.foldl (h.frame rfl) fun _ _ h => h.lsArrived) fun _ _ h => .ite h.lsCompare h)

theorem doLockstepTimeout {e' : Nat} (h : Keeps s t) : Keeps s (Machine.doLockstepTimeout e' t) := by
  unfold Machine.doLockstepTimeout
  dsimp only
  split
  · exact .ite h.putOwn.lsCannot h
  · exact h

theorem takeTags {p n : Nat} (h : Keeps s t) : Keeps s (Machine.takeTags p n t).2 := by
  induction n generalizing t with
  | zero => exact h
  | succ n ih => exact ih h.putPort

theorem lsSend {e' : Nat} {body : List Byte} (h : Keeps s t) : Keeps s (Machine.lsSend e' body t) := by
  have ht := h.takeTags (p := lsPort t) (n := 14)
  exact .ite h.report ht.putPeer

theorem lsOwnBlock {e' : Nat} {body : List Byte} (h : Keeps s t) : Keeps s (Machine.lsOwnBlock e' body t) :=
  .lsSend (.lsCompare (.putOwn (by
      split
      · exact .ite (.lsLag (.putIn (.lsWrite (by
            split
            · exact .ite h.lsLag h
            · exact h)
          ))) (.lsWrite (by
              split
              · exact .ite h.lsLag h
              · exact h))
      · exact .lsWrite (by
            split
            · exact .ite h.lsLag h
            · exact h))))

theorem lsCompletion {p : Nat} {tag : BitVec 16} {how : Completion} (h : Keeps s t) :
    Keeps s (Machine.lsCompletion p tag how t) := by
  have ht := h.takeTags (p := p) (n := 1)
  refine .ite h ?_
  split
  · exact h
  · exact .ite (.report h.setLsOn) (.ite h.setLsOn (.ite h.setLsOn ht.putPeer))

theorem doUioCompletion {p : Nat} {d : UioDone} (h : Keeps s t) : Keeps s (Machine.doUioCompletion p d t) := by
  unfold Machine.doUioCompletion
  split
  · exact .ite h.putJob.runJob h.endJob
  · exact h.lsCompletion

theorem lsPortDown {p : Nat} (h : Keeps s t) : Keeps s (Machine.lsPortDown p t) :=
  .ite h (.foldl (h.frame rfl) fun _ _ h => h.report)

theorem linkFalls {p : Nat} (h : Keeps s t) : Keeps s (Machine.linkFalls p t) := .ite h.portDown.lsPortDown h

theorem doLinkTrained {p speed width : Nat} {loflit : Bool} (h : Keeps s t) :
    Keeps s (Machine.doLinkTrained p speed width loflit t) :=
  .ite h h.putPort

/-! ### Machine/Time -/

theorem putTime {t' : Word} (h : Keeps s t) : Keeps s (Machine.putTime t' t) := h.rput

theorem advanceTime {n : Nat} (h : Keeps s t) : Keeps s (Machine.advanceTime n t) :=
  .frame (.ite h.putTime.rfput h.putTime) rfl

theorem reportStep {o : ℤ} (h : Keeps s t) : Keeps s (Machine.reportStep o t) := h.rfsat.report

theorem putOffset {o : ℤ} (h : Keeps s t) : Keeps s (Machine.putOffset o t) := h.rfput

theorem stepTime {c t' : Word} {setBit : Bool} (h : Keeps s t) : Keeps s (Machine.stepTime c t' setBit t) :=
  .reportStep (.ite (.ite (.rfput (.putTime (.frame (h.putOffset.frame rfl) rfl))) (.putTime (.frame (h.putOffset.frame
    rfl) rfl))) (.frame (h.putOffset.frame rfl) rfl))

theorem validEdge {c : Word} (h : Keeps s t) : Keeps s (Machine.validEdge c t) := by
  unfold Machine.validEdge
  dsimp only
  split
  · exact h.rput.rfput.stepTime
  · exact .ite (h.rput.rfput.frame rfl) (.ite (.putOffset (.frame (h.rput.rfput.frame rfl) rfl)) (.stepTime
      (h.rput.rfput.frame rfl)))

theorem doPpsEdge {now : Word} (h : Keeps s t) : Keeps s (Machine.doPpsEdge now t) :=
  .ite h.putTime.validEdge h.putTime.rfsat

theorem doTimeNext {via : Via} {v : Word} (h : Keeps s t) : Keeps s (Machine.doTimeNext via v t).2 :=
  h.viaWrite (fun _ h => h.frame rfl)

/-! ### Machine/Power -/

theorem putTile {p v : Nat} (h : Keeps s t) : Keeps s (Machine.putTile p v t) := h.rfput

theorem capChanged (h : Keeps s t) : Keeps s (Machine.capChanged t) := .rfput (h.frame rfl)

theorem doSetPowerCap {c : Cmd} (h : Keeps s t) : Keeps s (Machine.doSetPowerCap c t) :=
  h.issueVerb (fun _ h => .ite h.refuse (.ite h.refuse h.rfput.capChanged.retireVerb))

theorem doOpCeiling {via : Via} {w : Nat} (h : Keeps s t) : Keeps s (Machine.doOpCeiling via w t).2 :=
  h.viaWrite (fun _ h => .ite_snd h (.ite_snd h (.ite_snd h h.rfput.capChanged)))

theorem standEstimate {p : Nat} {counts : List Word} (h : Keeps s t) : Keeps s (Machine.standEstimate p counts t) :=
  h.rfput.rfput

theorem thermalWarn {p : Nat} (h : Keeps s t) : Keeps s (Machine.thermalWarn p t) :=
  .ite (.ite h (.report (.rfsat (h.frame rfl)))) (.ite (h.frame rfl) h)

theorem coolantWarn (h : Keeps s t) : Keeps s (Machine.coolantWarn t) := by
  unfold Machine.coolantWarn
  dsimp -zeta only
  extract_lets w data c r _ u
  have hu : Keeps s u := .ite (.ite h (.report h.setPower)) (.ite h.setPower h)
  exact .ite (.ite hu (.report hu.setPower)) (.ite hu.setPower hu)

theorem takeValues {late : BitVec 64} (h : Keeps s t) : Keeps s (Machine.takeValues late t) := .rfsat (h.frame rfl)

theorem rangerTick {late : BitVec 64} (h : Keeps s t) : Keeps s (Machine.rangerTick late t) :=
  .frame (.ite (.rfsat (.ite h.takeValues.rfput.rfput.rfput.rfsat h.takeValues.rfput.rfput.rfput)) (.ite
    h.takeValues.rfput.rfput.rfput.rfsat h.takeValues.rfput.rfput.rfput)) rfl

theorem sendTl (h : Keeps s t) : Keeps s (Machine.sendTl t) := .foldl (h.frame rfl) fun _ _ h => h.rfput

theorem doPowerTick {late : BitVec 64} {sensors : List (BitVec 6 × Word)} {ring0 ring1 input energy : Word}
    {counts : List (BitVec 6 × List Word)} (h : Keeps s t) :
    Keeps s (Machine.doPowerTick late sensors ring0 ring1 input energy counts t) :=
  .foldl (.frame (.sendTl (.ite (.rangerTick (.foldl h.advanceTime.rput.rput.rput.rput.coolantWarn fun _ _ h => .ite
    h.rput.thermalWarn h)) (.foldl h.advanceTime.rput.rput.rput.rput.coolantWarn fun _ _ h => .ite h.rput.thermalWarn
    h))) rfl) fun _ _ h => h.standEstimate

theorem doCapFloor (h : Keeps s t) : Keeps s (Machine.doCapFloor t) := .ite (.report (h.frame rfl)) h

theorem rampUp {p : Nat} (h : Keeps s t) : Keeps s (Machine.rampUp p t) := .putTile (h.frame rfl)

theorem rampDown {p final : Nat} (h : Keeps s t) : Keeps s (Machine.rampDown p final t) :=
  .ite (.putTile (h.frame rfl)) h

theorem doTileGood {p : Nat} (h : Keeps s t) : Keeps s (Machine.doTileGood p t) := by
  unfold Machine.doTileGood
  split
  · exact .ite (.rfput (.putTile (h.frame rfl))) (h.frame rfl)
  · exact h

theorem standLost {p : Nat} (h : Keeps s t) : Keeps s (Machine.standLost p t) := by
  have hr := h.keepRegs (p := fun k => !(suView k = 2 && suStand k = p)) fun k hk => by
    have := mt OffClock.of_suView hk
    simp [this]
  unfold Machine.standLost
  exact hr.bytes fun ⟨hm, ho, hh, hp, hd, ht⟩ =>
    ⟨smapOk_smapKeep _ (fun k => !keyOfStand p k) _ hm, smapOk_smapKeep _ (fun k => k / 2048 / 32768 ≠ p) _ ho, hh, hp,
      smapOk_smapKeep _ (fun k => k / 65536 ≠ p) _ hd, ht⟩

theorem ringDescsLost {p : Nat} (h : Keeps s t) : Keeps s (Machine.ringDescsLost p t) :=
  .foldl h fun _ _ h => .foldl h fun _ _ h => h.retireCmd

theorem slicesTripped {p : Nat} (h : Keeps s t) : Keeps s (Machine.slicesTripped p t) := .foldl h fun _ _ h => h.rfput

theorem groupUnprotected {g : Nat} (h : Keeps s t) : Keeps s (Machine.groupUnprotected g t) := h.rfput.rfput.report

theorem tripBlaze {p : Nat} (h : Keeps s t) : Keeps s (Machine.tripBlaze p t) := by
  unfold Machine.tripBlaze
  split
  · exact h
  · dsimp only
    split
    · exact .endLong (h.frame rfl)
    · exact .ite (.report (.frame (h.frame rfl) rfl)) (h.frame rfl)

theorem putReason {p r : Nat} (h : Keeps s t) : Keeps s (Machine.putReason p r t) := h.rfput

theorem exclude {p r : Nat} (h : Keeps s t) : Keeps s (Machine.exclude p r t) := .ite h.putReason h

theorem nextOff (h : Keeps s t) : Keeps s (Machine.nextOff t) := .ite h (.foldl (h.frame rfl) fun _ _ h => h.rampDown)

theorem offRetires {p : Nat} (h : Keeps s t) : Keeps s (Machine.offRetires p t) := by
  unfold Machine.offRetires
  split
  · exact .ite h.endLong h
  · exact h

theorem tripAfter {p : Nat} (h : Keeps s t) : Keeps s (Machine.tripAfter p t) :=
  .nextOff (.offRetires (.ite h h.exclude))

theorem tripEffect {p cause rail phase : Nat} (h : Keeps s t) : Keeps s (Machine.tripEffect p cause rail phase t) :=
  .tripAfter (.svcReroute (.slicesTripped (.standLost (.ringDescsLost (.ite (.groupUnprotected (.rfput (.ite
    h.rfput.putTile.rfput.rfput.rfput.rfput.rfput.rfsat.report.tripBlaze.taint
    h.rfput.putTile.rfput.rfput.rfput.rfput.rfput.rfsat.report))) (.ite
    h.rfput.putTile.rfput.rfput.rfput.rfput.rfput.rfsat.report.tripBlaze.taint
    h.rfput.putTile.rfput.rfput.rfput.rfput.rfput.rfsat.report))))))

theorem tripStand {p cause rail phase : Nat} (h : Keeps s t) : Keeps s (Machine.tripStand p cause rail phase t) :=
  .ite h h.tripEffect

theorem tripAll {cause : Nat} (h : Keeps s t) : Keeps s (Machine.tripAll cause t) :=
  .foldl h fun _ _ h => .ite h h.tripEffect

theorem doInputFault {v : Nat} (h : Keeps s t) : Keeps s (Machine.doInputFault v t) :=
  .ite h (.tripAll (.ite (h.frame rfl) (.report (h.frame rfl))))

/-! ### Machine/Screen -/

theorem putScreen {p : Nat} {m : ℤ} {ratio : Nat} (h : Keeps s t) : Keeps s (Machine.putScreen p m ratio t) :=
  .ite h.rfput.rfput.rfput h.rfput.rfput

theorem doScreenSet {c : Cmd} (h : Keeps s t) : Keeps s (Machine.doScreenSet c t) :=
  h.issueVerb (fun _ h => (by
      dsimp only
      split
      · exact h.refuse
      · exact h.putScreen.retireVerb))

theorem reportMismatch {p kernel pairing : Nat} {x : PacerMismatch} (h : Keeps s t) :
    Keeps s (Machine.reportMismatch p kernel pairing t x) :=
  h.report

theorem doScreenRun {c : Cmd} {comparisons holds : Word} {found : List PacerMismatch} (h : Keeps s t) :
    Keeps s (Machine.doScreenRun c comparisons holds found t) :=
  h.issueVerb (fun _ h => .ite h.refuse (.ite h.refuse (.retireWith (.ctlDesc (.foldl h fun _ _ h =>
    h.reportMismatch)))))

theorem hbCheckOne {e' : Nat × Nat × Nat × Nat} {h' : HbEntry} (h : Keeps s t) :
    Keeps s (Machine.hbCheckOne e' h' t).2 :=
  .ite_snd h (.ite_snd h.report h)

theorem hbCheckAll {es : List (Nat × Nat × Nat × Nat)} {hs : List HbEntry} (h : Keeps s t) :
    Keeps s (Machine.hbCheckAll es hs t).2 := by
  induction es generalizing hs t with
  | nil => exact h
  | cons e es ih =>
    cases hs with
    | nil => exact h
    | cons b hs => exact ih h.hbCheckOne

theorem doHeartbeatCheck (h : Keeps s t) : Keeps s (Machine.doHeartbeatCheck t) :=
  .ite h (.ite (h.frame rfl) (h.hbCheckAll.frame rfl))

/-! ### Machine/BringUp -/

theorem putPhase {n : Nat} (h : Keeps s t) : Keeps s (Machine.putPhase n t) := h.rfput

theorem endBring {result : Nat} {st : Status} (h : Keeps s t) : Keeps s (Machine.endBring result st t) := by
  have he := fun m b => (h.putPhase (n := 7)).rfput (k := IorBringupStatus.key) (f := IorBringupStatus.result)
    (v := result) |>.rfput (k := IorBringupStatus.key) (f := IorBringupStatus.elapsedMs) (v := bringElapsed t)
    |>.setModeBring (m := m) (x := b)
  unfold Machine.endBring
  dsimp only
  split
  · exact .ite (he _ _).endLong (he _ _).endLong
  · exact he _ _

theorem failBring {st : Status} {loc : Word} {data : List Byte} (h : Keeps s t) :
    Keeps s (Machine.failBring st loc data t) :=
  h.report.endBring

theorem resetRegsCold (h : Keeps s t) : Keeps s (Machine.resetRegs coldMask t) := by
  have hc : coldMask ClkSlotCfg.key (descOf ClkSlotCfg.key) = 0#64 := by decide
  have hs : coldMask ClkSlotStatus.key (descOf ClkSlotStatus.key) = 0#64 := by decide
  refine h.retouchRegs (g := fun k => maskedReset (coldMask k (descOf k)) (regReset k)) (fun k _ => maskedReset_self _ _)
    (fun w => .inr ?_) fun w => .inr ?_
  · rw [hc, maskedReset_zero]
  · rw [hs, maskedReset_zero]

/-- A warm reset keeps SLOT_KHZ and the status of the slot clock. -/
theorem resetRegsWarm (h : Keeps s t) : Keeps s (Machine.resetRegs warmMask t) := by
  have hc : warmMask ClkSlotCfg.key (descOf ClkSlotCfg.key) = 0xFFFFFFFF := by decide
  have hs : warmMask ClkSlotStatus.key (descOf ClkSlotStatus.key) = allOnes := by decide
  refine h.retouchRegs (g := fun k => maskedReset (warmMask k (descOf k)) (regReset k)) (fun k _ => maskedReset_self _ _)
    (fun w => .inl ?_) fun w => .inl ?_
  · rw [hc, khz_maskedReset]
  · rw [hs, maskedReset_allOnes]

theorem ringExecEnds {p q : Nat} (h : Keeps s t) : Keeps s (Machine.ringExecEnds p q t) := by
  unfold Machine.ringExecEnds
  split
  · exact h
  · exact .dropWait (.putHubQ (.rfput (.dropPackets (.endAll (.ite h h.rfput)))))

theorem stopRings {c : Option Cmd} (h : Keeps s t) : Keeps s (Machine.stopRings c t) :=
  .foldl (.setHubQs (.foldl (.foldl (.foldl (.foldl (.foldl h fun _ _ h => h.rfput.putRing) fun _ _ h => h.gringsDown) fun
    _ _ h => h.retireCmd) fun _ _ h => h.rfput) fun _ _ h => h.ringExecEnds)) fun _ _ h => h.putPort

theorem flushRecords (h : Keeps s t) : Keeps s (Machine.flushRecords t) :=
  .foldl h fun _ _ h => .putRing (.foldl (.foldl h fun _ _ h => h.doRetire) fun _ _ h => h.discardRec)

theorem unitsReset (h : Keeps s t) : Keeps s (Machine.unitsReset t) :=
  h.bytes fun ⟨hm, _, hh, hp, _, ht⟩ =>
    ⟨smapOk_smapKeep _ (fun k => decide (k < 2 ^ 47)) _ hm, smapOk_nil _, hh, hp, smapOk_nil _, ht⟩

theorem programReset (h : Keeps s t) : Keeps s (Machine.programReset t) := h.frame rfl

theorem coldStart (h : Keeps s t) : Keeps s (Machine.coldStart t) := by
  have hc : ∀ w pw b, Keeps s w → Keeps s { w with
      mode := .none, gates := [], sides := [], otpStage := w.otpStage, power := pw
      ringClk := { w.ringClk with glide := none }, bring := b } :=
    fun w _ _ h => (h.putRingClk (c := { w.ringClk with glide := none }) nofun).frame rfl
  exact .rfput (.putPhase (.nextOff (.foldl (hc _ _ _ h.flushRecords.resetRegsCold.unitsReset.programReset)
    fun _ _ h => h.putTile)))

theorem doColdAuto (h : Keeps s t) : Keeps s (Machine.doColdAuto t) := .ite h.coldStart h

theorem warmStart (h : Keeps s t) : Keeps s (Machine.warmStart t) :=
  .rfput (.rfput (.putPhase (.capChanged (.rput (h.frame rfl)))))

theorem doBringUp {c : Cmd} (h : Keeps s t) : Keeps s (Machine.doBringUp c t) :=
  h.issueVerb (fun _ h => .ite h.refuse (.ite (.ite h.refuse h.stopRings.warmStart.beginLong) (.ite h.refuse (.beginLong
    (.coldStart (.stopRings (h.frame rfl)))))))

theorem enterStand {n p : Nat} (h : Keeps s t) : Keeps s (Machine.enterStand n p t) := h.rfput.rfput.rfput.rampUp

theorem slicesTest {ps : List Nat} {refresh state : Nat} (h : Keeps s t) :
    Keeps s (Machine.slicesTest ps refresh state t) :=
  .foldl h fun _ _ h => .foldl h fun _ _ h => .ite h h.rfput.rfput

theorem dslFast {p : Nat} (h : Keeps s t) : Keeps s (Machine.dslFast p t) := .ite h h.rfsat.rfput

theorem marchBegin {ps : List Nat} (h : Keeps s t) : Keeps s (Machine.marchBegin ps t) :=
  .slicesTest (.foldl h fun _ _ h => h.dslFast)

theorem nextHeat (h : Keeps s t) : Keeps s (Machine.nextHeat t) := by
  unfold Machine.nextHeat
  dsimp only
  split
  · exact .putPhase (.marchBegin (.foldl (h.frame rfl) fun _ _ h => h.exclude))
  · exact .frame (.foldl h.rfput fun _ _ h => h.enterStand) rfl

theorem ringChecks {n : Nat} (h : Keeps s t) : Keeps s (Machine.ringChecks n t) := by
  have hrep : ∀ l w, Keeps s w → Keeps s (List.foldl (fun s g =>
      Machine.report stCruiseMapInvalid false 0 locNone 0 [BitVec.ofNat 8 g] s) w l) :=
    fun _ _ h => .foldl h fun _ _ h => h.report
  have hmap : ∀ m l w, Keeps s w → Keeps s (List.foldl (fun s p => Machine.rfput (IorStandMap.key p) IorStandMap.fuseGen m s)
    w l) := fun _ _ _ h => .foldl h fun _ _ h => h.rfput
  have hclk := fun l => hrep l _ (.rfput (k := ClkRefStatus.key) (f := ClkRefStatus.state) (v := 1)
    (.putSlotStatus (f := ClkSlotStatus.locked) (v := 1) (.putSlotStatus (f := ClkSlotStatus.gliding) (v := 0)
      (h.putCurrentKhz fun _ _ => le_rfl))))
  have hx := fun m l l' => hmap m l _ (hclk l')
  refine .ite h (.ite h.failBring ?_)
  dsimp only
  split
  · exact (hclk _).endBring
  · exact .ite (.failBring (.ite (hx _ _ _).freeTest.secError (hx _ _ _))) (.nextHeat (.putPhase (.foldl (.foldl (.rfput
      (.capChanged (.rput (.rfput (.setBring (hx _ _ _)))))) fun _ _ h => h.rput) fun _ _ h => h.exclude)))

theorem writeRows {p : Nat} (h : Keeps s t) : Keeps s (Machine.writeRows p t) := .foldl h fun _ _ h => h.rput

theorem countItems {α : Type} [DecidableEq α] {known l : List (Finding α)} (h : Keeps s t) :
    Keeps s (Machine.countItems known l t) := h.rfsat.rfsat

theorem groupsOff {p : Nat} (h : Keeps s t) : Keeps s (Machine.groupsOff p t) := .foldl h fun _ _ h => h.putGate

theorem probeStand {p : Nat} {failed : List Site} (h : Keeps s t) : Keeps s (Machine.probeStand p failed t) :=
  .groupsOff (.writeRows (.rfput (.rfput (.countItems (h.frame rfl)))))

theorem trainSeam {p d : Nat} {failed : List Nat} (h : Keeps s t) : Keeps s (Machine.trainSeam p d failed t) :=
  .ite h (.ite (by
      split
      · exact .rfsat (.rput (.rfsat (.rput (.countItems (h.frame rfl)))))
      · exact .rfsat (.rput (.countItems (h.frame rfl))))
    (.report (.rfsat (by
        split
        · exact .rfsat (.rput (.rfsat (.rput (.countItems (h.frame rfl)))))
        · exact .rfsat (.rput (.countItems (h.frame rfl)))))))

theorem trainSlice {p sl : Nat} {good : Bool} (h : Keeps s t) : Keeps s (Machine.trainSlice p sl good t) :=
  .ite h (.rfput (.ite h (h.frame rfl)))

theorem lanesUp {p : Nat} (h : Keeps s t) : Keeps s (Machine.lanesUp p t) :=
  .foldl h fun _ _ h => (by
      split
      · exact .ite h h.putReady
      · exact .ite (.putReady (.ite h.putSide.putReady h)) (.ite h.putSide.putReady h))

theorem heatEarly {f : HeatFinding} (h : Keeps s t) : Keeps s (Machine.heatEarly f t) :=
  .ite h.exclude (.ite h.exclude (.ite (.sendMarker (.followSource (.rfput (.lanesUp (h.frame rfl))))) (.exclude
    (.sendMarker (.followSource (.rfput (.lanesUp (h.frame rfl))))))))

theorem heatMid {f : HeatFinding} (h : Keeps s t) : Keeps s (Machine.heatMid f t) :=
  .ite h (.ite h.probeStand.exclude h.probeStand)

theorem clockLanes {p : Nat} {failed : BitVec 4} (h : Keeps s t) : Keeps s (Machine.clockLanes p failed t) :=
  .ite h (.foldl (h.frame rfl) fun _ _ h => .ite h.sourceLost h.putReady)

theorem heatLast {f : HeatFinding} (h : Keeps s t) : Keeps s (Machine.heatLast f t) :=
  .ite h (.ite (.exclude (.clockLanes (.foldl (.foldl h fun _ _ h => h.trainSlice) fun _ _ h => h.trainSeam)))
    (.clockLanes (.foldl (.foldl h fun _ _ h => h.trainSlice) fun _ _ h => h.trainSeam)))

theorem heatLate {fs : List HeatFinding} (h : Keeps s t) : Keeps s (Machine.heatLate fs t) :=
  .foldl (.foldl h fun _ _ h => h.heatMid) fun _ _ h => h.heatLast

theorem newSource {ok : Nat → Bool} {p : Nat} (h : Keeps s t) : Keeps s (Machine.newSource ok p t) := by
  unfold Machine.newSource
  split
  · exact h.putReady.selectSource
  · exact h.exclude

theorem heatMend (h : Keeps s t) : Keeps s (Machine.heatMend t) :=
  .foldl (.foldl h fun _ _ h => h.exclude) fun _ _ h => h.newSource

theorem switchOut {p : Nat} (h : Keeps s t) : Keeps s (Machine.switchOut p t) :=
  .rampDown (.rfput (.rfput (.ite h h.rfput)))

theorem reportExcluded {p : Nat} (h : Keeps s t) : Keeps s (Machine.reportExcluded p t) := h.report

theorem singleHeatEnd {p : Nat} {found : List HeatFinding} (h : Keeps s t) :
    Keeps s (Machine.singleHeatEnd p found t) :=
  .ite (.endLong (.switchOut (h.heatEarly.heatLate.frame rfl))) (.endLong (.marchBegin (.rfput (.frame
    (h.heatEarly.heatLate.frame rfl) rfl))))

theorem doHeatEnd {found : List HeatFinding} (h : Keeps s t) : Keeps s (Machine.doHeatEnd found t) := by
  unfold Machine.doHeatEnd
  split
  · exact h
  · exact .ite h.singleHeatEnd (.nextHeat (.heatMend (.heatLate (.foldl (h.frame rfl) fun _ _ h => h.heatEarly))))

theorem doTrainingLimit (h : Keeps s t) : Keeps s (Machine.doTrainingLimit t) :=
  .foldl h fun _ _ h => .ite h (.foldl (.foldl h fun _ _ h => h.trainSlice) fun _ _ h => h.trainSeam)

theorem marchEnd {failed : List DramRow} (h : Keeps s t) : Keeps s (Machine.marchEnd failed t) :=
  .putPhase (.slicesTest (h.frame rfl))

theorem singleMarchEnd {failed : List DramRow} (h : Keeps s t) : Keeps s (Machine.singleMarchEnd failed t) :=
  .slicesTest (h.frame rfl)

theorem repairRow {failed : List DramRow} {r : DramRow} (h : Keeps s t) : Keeps s (Machine.repairRow failed t r) := by
  unfold Machine.repairRow
  split
  · exact h
  · dsimp only
    split
    · exact .rfsat (.rfsat (h.rfsat.frame rfl))
    · exact .exclude (.rfput (h.rfsat.frame rfl))

theorem applyRepairs {ps : List Nat} {failed : List DramRow} (h : Keeps s t) :
    Keeps s (Machine.applyRepairs ps failed t) :=
  .foldl h.rfsat fun _ _ h => h.repairRow

theorem agree {ok : Nat → Bool} {p : Nat} (h : Keeps s t) : Keeps s (Machine.agree ok p t) :=
  .ite h (.ite h.exclude (.ite h.exclude (.ite h.exclude h)))

theorem reportConflicts {ps : List Nat} (h : Keeps s t) : Keeps s (Machine.reportConflicts ps t) :=
  .foldl (h.frame rfl) fun _ _ h => h.report

theorem cleanChains {n : Nat} (h : Keeps s t) : Keeps s (Machine.cleanChains n t) := by
  induction n generalizing t with
  | zero => exact h
  | succ n ih =>
    simp only [Machine.cleanChains]
    split
    · exact h
    · exact ih (.foldl h fun _ _ h => .ite h.newSource h)

theorem putRole {p role logical group : Nat} (h : Keeps s t) : Keeps s (Machine.putRole p role logical group t) :=
  h.rfput.rfput.rfput

theorem parityRegs (h : Keeps s t) : Keeps s (Machine.parityRegs t) :=
  .foldl h fun _ _ h => (by
      split
      · exact h.rput
      · exact h.rput)

theorem assignRoles {es : List Nat} (h : Keeps s t) : Keeps s (Machine.assignRoles es t) :=
  .parityRegs (.foldl (.foldl h fun _ _ h => h.putRole) fun _ _ h => h.putRole)

theorem gatesReady (h : Keeps s t) : Keeps s (Machine.gatesReady t) := h.frame rfl

theorem slotCeiling (h : Keeps s t) : Keeps s (Machine.slotCeiling t) :=
  .ite h (.putSlotStatus (.putCurrentKhz (.putKhz (h.putRingClk nofun) fun _ _ => le_rfl) fun _ _ => le_rfl))

theorem bringReady {cold : Bool} {e' : Nat} (h : Keeps s t) : Keeps s (Machine.bringReady cold e' t) :=
  .endBring (.report (.ite (.rfput (.slotCeiling (.foldl h.slicesTest.gatesReady fun _ _ h => h.dslFast))) (.report
    (.rfput (.slotCeiling (.foldl h.slicesTest.gatesReady fun _ _ h => h.dslFast))))))

theorem bringRoles (h : Keeps s t) : Keeps s (Machine.bringRoles t) :=
  .ite (.failBring (.foldl (.putPhase (.rfput (.foldl (.rfput (.reportConflicts (.rfsat (.cleanChains (.foldl h.putPhase
    fun _ _ h => h.agree))))) fun _ _ h => h.reportExcluded))) fun _ _ h => h.rampDown)) (.bringReady (.assignRoles
    (.foldl (.putPhase (.rfput (.foldl (.rfput (.reportConflicts (.rfsat (.cleanChains (.foldl h.putPhase fun _ _ h =>
    h.agree))))) fun _ _ h => h.reportExcluded))) fun _ _ h => h.switchOut)))

theorem doRetention {failed : List DramRow} (h : Keeps s t) : Keeps s (Machine.doRetention failed t) :=
  .ite (h.frame rfl) (.ite (.slicesTest (.slicesTest (h.frame rfl))) (.bringRoles (.slicesTest (.applyRepairs
    (.slicesTest (h.frame rfl))))))

theorem failWarm {p r : Nat} (h : Keeps s t) : Keeps s (Machine.failWarm p r t) := h.exclude.rfsat.failBring

theorem warmAgree (h : Keeps s t) : Keeps s (Machine.warmAgree t) := by
  unfold Machine.warmAgree
  dsimp only
  split
  · exact .failWarm (.reportConflicts (.foldl h fun _ _ h => h.agree))
  · exact .reportConflicts (.foldl h fun _ _ h => h.agree)

theorem recodeDram {old : Word} (h : Keeps s t) : Keeps s (Machine.recodeDram old t) :=
  .ite h (.foldl h fun _ _ h => .ite h.flipParity h)

theorem warmReset (h : Keeps s t) : Keeps s (Machine.warmReset t) :=
  h.flushRecords.resetRegsWarm.unitsReset.programReset.capChanged.recodeDram

theorem warmEffect {n : Nat} {sites : List Site} (h : Keeps s t) : Keeps s (Machine.warmEffect n sites t) :=
  .ite h.warmReset (.ite (.foldl h fun _ _ h => h.probeStand) (.ite h.warmAgree (.ite h.parityRegs.bringReady h)))

theorem warmStep {n : Nat} {failed : List (BitVec 6 × BitVec 4)} {sites : List Site} (h : Keeps s t) :
    Keeps s (Machine.warmStep n failed sites t) :=
  .ite h (by
      dsimp only
      split
      · exact .failWarm (h.frame rfl)
      · exact .warmEffect (h.frame rfl))

theorem doPhaseComplete {what : PhaseDone} (h : Keeps s t) : Keeps s (Machine.doPhaseComplete what t) := by
  unfold Machine.doPhaseComplete
  split
  · exact .ite h.ringChecks h
  · exact .ite h.trainSeam h
  · exact .ite h.trainSlice h
  · exact .ite h.marchEnd (.ite h.singleMarchEnd h)
  · exact h.warmStep

theorem standOn {c : Cmd} {p : Nat} (h : Keeps s t) : Keeps s (Machine.standOn c p t) := by
  unfold Machine.standOn
  dsimp only
  split
  · exact .refuse (.switchOut (.exclude (.foldl h.rput.capChanged.rput.setBring fun _ _ h => h.rreset)))
  · exact .beginLong (.rampUp (.setBring (.rfput (.rfput (.foldl h.rput.capChanged.rput.setBring fun _ _ h =>
      h.rreset)))))

theorem doStandPower {c : Cmd} (h : Keeps s t) : Keeps s (Machine.doStandPower c t) :=
  h.issueVerb (fun _ h => (by
      dsimp only
      split
      · exact h.refuse
      · exact .ite h.standOn h.rfput.rampDown.beginLong))

theorem doSingleEnd {p : Nat} {failed : List DramRow} (h : Keeps s t) : Keeps s (Machine.doSingleEnd p failed t) :=
  .ite h (.ite (.reportExcluded (.switchOut (.reportConflicts (.agree (.slicesTest (.applyRepairs (h.frame rfl)))))))
    (.report (.groupsOff (.putRole (.reportConflicts (.agree (.slicesTest (.applyRepairs (h.frame rfl)))))))))

theorem doRailOff {p : Nat} (h : Keeps s t) : Keeps s (Machine.doRailOff p t) := by
  unfold Machine.doRailOff
  split
  · exact .ite (h.rfput.frame rfl) (.nextOff (.offRetires (.standLost (.rfput (.putTile (h.rfput.frame rfl))))))
  · exact h

theorem tripEnds {t' : State} (h : Keeps s t) : Keeps s (Machine.tripEnds t' t) := by
  refine .ite h ?_
  split
  · exact h.failWarm
  · exact h

theorem doJunctionTrip {p : Nat} {ring : Bool} (h : Keeps s t) : Keeps s (Machine.doJunctionTrip p ring t) :=
  .ite h.tripStand.tripEnds (.ite h.tripAll.endBring h.tripAll)

/-! ### Machine/ImageForm -/

theorem listWrite {raw : Bool} {k : Nat} {v : Word} (h : Keeps s t) (hk : OffClock k) :
    Keeps s (Machine.listWrite raw k v t) :=
  .ite h.obWrite.obAdvance (.ite h.putDesc.rfadd (.ite h.stageHdlLen (.ite (.ite (h.rfput.rput hk) h.commitHdl)
    (.ite (h.rput hk) (h.plainWrite hk.1)))))

/-! ### Machine/Load -/

theorem memSplice {k : Nat} {bs : List Byte} (h : Keeps s t) : Keeps s (Machine.memSplice k bs t) :=
  h.bytes fun ⟨hm, hr⟩ => ⟨smapOk_smapSplice _ _ _ _ hm, hr⟩

theorem stopStands (h : Keeps s t) : Keeps s (Machine.stopStands t) := .foldl h fun _ _ h => h.putStand

theorem stopDescs_settled {p q : Nat} (h : Keeps s t) : Keeps s (stopDescs.settled p q t) := by
  unfold stopDescs.settled
  split
  · exact h.retireDesc
  · exact h

theorem stopDescs (h : Keeps s t) : Keeps s (Machine.stopDescs t) :=
  .foldl (.foldl (.foldl (.foldl h fun _ _ h => .foldl h fun _ _ h => .ite h.abortQueue.stopDescs_settled h)
    fun _ _ h => h.abortTarget) fun _ _ h => h.stopDescs_settled) fun _ _ h => h.abortTarget

theorem stopModule (h : Keeps s t) : Keeps s (Machine.stopModule t) := h.stopStands.stopDescs

theorem loadRegs {ps : List Nat} (h : Keeps s t) : Keeps s (Machine.loadRegs ps t) := by
  have hg : ∀ k w, ¬OffClock k → (if suView k = 2 ∧ ps.contains (suStand k) = true then loadKept k w else w) = w :=
    fun k w hk => if_neg fun hv => hk (.of_suView hv.1)
  exact h.retouchRegs (g := fun k w => if suView k = 2 ∧ ps.contains (suStand k) = true then loadKept k w else w)
    (fun k hk => hg k _ hk) (fun w => .inl (congrArg _ (hg _ w fun h => h.1 rfl)))
    fun w => .inl (congrArg _ (hg _ w fun h => h.2 rfl))

theorem loadUnits {ps : List Nat} (h : Keeps s t) : Keeps s (Machine.loadUnits ps t) :=
  h.bytes fun ⟨hm, ho, hr⟩ =>
    ⟨smapOk_smapKeep _ (fun k => decide (k < 2 ^ 47) || !ps.contains ((k - 2 ^ 47) / 2 ^ 31)) _ hm,
      smapOk_smapKeep _ (fun k => !ps.contains (k / 2048 / 32768)) _ ho, hr⟩

theorem loadStands {ps : List Nat} (h : Keeps s t) : Keeps s (Machine.loadStands ps t) :=
  .foldl h fun _ _ h => h.putStand

theorem applyList {keep : Nat → Bool} {l : List (Nat × Word)} (h : Keeps s t) : Keeps s (Machine.applyList keep l t) :=
  .foldl h fun _ x h => by
    split
    · exact h
    · next k hk =>
      split
      · exact h
      · exact .ite (h.listWrite (OffClock.of_listKey hk _)) h

theorem loadHubCfg {b : List Byte} {p : Nat} (h : Keeps s t) : Keeps s (Machine.loadHubCfg b p t) := h.rput

theorem standbyRegs {p : Nat} (h : Keeps s t) : Keeps s (Machine.standbyRegs p t) :=
  h.keepRegs (p := fun k => !(suView k = 2 && suStand k = p &&
      ((suOff k = 8 && (suClass k = 12 || decide (3 ≤ suClass k ∧ suClass k ≤ 9))) ||
        (suClass k = 13 && (suOff k = 8 || suOff k = 0x10)) || (suClass k = 11 && (suOff k = 0 || suOff k = 0x28)))))
    fun k hk => by
      have := mt OffClock.of_suView hk
      simp [this]

theorem loadCounters {p : Nat} (h : Keeps s t) : Keeps s (Machine.loadCounters p t) :=
  .foldl h fun _ _ h => .ite h (.foldl h fun _ _ h => h.rput)

theorem loadHub {p : Nat} (h : Keeps s t) : Keeps s (Machine.loadHub p t) :=
  .foldl (.foldl h fun _ _ h => h.cvuSet) fun _ _ h => h.rput

theorem loadCredits {p : Nat} (h : Keeps s t) : Keeps s (Machine.loadCredits p t) :=
  .foldl h fun _ _ h => .foldl h fun _ _ h => h.putCredit

theorem loadOb {b : List Byte} {pick : Bool → Bool} {x : Section} (h : Keeps s t) :
    Keeps s (Machine.loadOb b pick x t) := by
  unfold Machine.loadOb
  dsimp only
  split
  · exact h
  · exact .foldl h fun _ _ h => .ite h.obWrite h

theorem loadSram {b : List Byte} {x : Section} (h : Keeps s t) : Keeps s (Machine.loadSram b x t) :=
  .foldl h fun _ _ h => by
    dsimp only
    split
    · exact h
    · split
      · exact h
      · exact .foldl h.memSplice fun _ _ h => .ite h h.setTag

theorem loadDram {addr : Nat} {bs : List Byte} (h : Keeps s t) : Keeps s (Machine.loadDram addr bs t) :=
  .foldl h fun _ _ h => by
    dsimp only
    split
    · exact h.memSplice
    · exact h

theorem putCells {p : Nat} {drop : Nat → Bool} {cells : List Host.Cell} (h : Keeps s t) :
    Keeps s (Machine.putCells p drop cells t) :=
  h.bytes fun ⟨hm, hr⟩ => ⟨smapOk_foldl_smapSet _ _ _ _ (smapOk_smapKeep _
    (fun k => !(decide (k < 2 ^ 47) && k / (64 * sliceBytes) = p && drop k)) _ hm), hr⟩

theorem buildParity {g : Nat} (h : Keeps s t) : Keeps s (Machine.buildParity g t) := by
  unfold Machine.buildParity
  split
  · exact h
  · exact h.putCells

theorem loadParityRegs (h : Keeps s t) : Keeps s (Machine.loadParityRegs t) :=
  .foldl h fun _ _ h => (by
      split
      · exact h.rput
      · exact h.rput)

theorem loadModule {b : List Byte} (h : Keeps s t) : Keeps s (Machine.loadModule b t) :=
  .rfput (.rreset (.rreset (.rreset (.rreset (h.frame rfl)))))

theorem resetSources {ps : List Nat} (h : Keeps s t) : Keeps s (Machine.resetSources ps t) :=
  .foldl h fun _ _ h => .ite h (.ite h.selectSource h.rfput)

theorem applyImage {b : List Byte} (h : Keeps s t) : Keeps s (Machine.applyImage b t) := by
  have hd : ∀ (f g : Nat → Bool) w, Keeps s w →
      Keeps s { w with descs := smapKeep f w.descs, hdlStage := smapKeep g w.hdlStage } :=
    fun _ _ _ h => h.bytes fun ⟨hm, ho, hh, hp, hd, ht⟩ => ⟨hm, ho, hh, hp, smapOk_smapKeep _ _ _ hd, ht⟩
  refine .loadParityRegs (.foldl (.gatesOn (.foldl (.foldl (.foldl (.foldl (.foldl (.foldl (.applyList (.recodeDram
    (.foldl (hd _ _ _ h.stopModule.snoopAll.gulLoad.resetSources.loadRegs.loadUnits.loadStands.loadModule)
      fun _ _ h => h.loadHubCfg.standbyRegs))) fun _ _ h => h.loadOb) fun _ _ h => h.loadSram) fun _ _ h => h.loadDram)
      fun _ _ h => ?_) fun _ _ h => ?_) fun _ _ h => h.loadCounters.loadHub.loadCredits)) fun _ _ h => h.buildParity)
  · split
    · exact h.rput
    · exact h
  · dsimp only
    split
    · exact h.rput
    · exact h

theorem doLoadImage {c : Cmd} {img : List Byte} {r : LoadReads} (h : Keeps s t) :
    Keeps s (Machine.doLoadImage c img r t) :=
  h.issueVerb (fun _ h => .ite h.refuse (by
      split
      · exact h.refuse
      · dsimp only
        split
        · exact .retireAs (.foldl h fun _ _ h => h.noteStall)
        · exact .retireAs (.applyImage (.foldl h fun _ _ h => h.noteStall))))

/-! ### Machine/Blaze -/

theorem putPhases {v : Nat} (h : Keeps s t) : Keeps s (Machine.putPhases v t) := .foldl h fun _ _ h => h.putStand

theorem startStands (h : Keeps s t) : Keeps s (Machine.startStands t) := .foldl h fun _ _ h => h.putStand.rfput

theorem goOnStands (h : Keeps s t) : Keeps s (Machine.goOnStands t) := .foldl h.startStands fun _ _ h => h.rfput

theorem doDrain {c : Cmd} (h : Keeps s t) : Keeps s (Machine.doDrain c t) :=
  h.issueVerb (fun _ h => .ite h.refuse (.beginLong (h.frame rfl)))

theorem holdDrain (h : Keeps s t) : Keeps s (Machine.holdDrain t) := h.frame rfl

theorem doDrainPoint (h : Keeps s t) : Keeps s (Machine.doDrainPoint t) := by
  unfold Machine.doDrainPoint
  split
  · exact .ite (.endLong (.holdDrain (.putPhases (h.frame rfl)))) h
  · exact h

theorem excRestart (h : Keeps s t) : Keeps s (Machine.excRestart t) := by
  have hr := h.keepRegs (p := fun k => !isOverrun k) fun k hk => by
    have := mt OffClock.of_suView hk
    simp [isOverrun, this]
  exact .setExcBase (.foldl (hr.frame rfl) fun _ _ h => h.putStand)

theorem blzPut {base p b : Nat} {bs : List Byte} (h : Keeps s t) : Keeps s (Machine.blzPut base p b bs t) :=
  .foldl h fun _ _ h => h.memSplice

theorem saveWord {p w : Nat} (h : Keeps s t) : Keeps s (Machine.saveWord p t w) := .ite h.taint h

theorem putTagBytes {base p a n b : Nat} (h : Keeps s t) : Keeps s (Machine.putTagBytes base p a n b t) :=
  .ite h.blzPut h

theorem saveRegion {base p at0 : Nat} {m : List Host.Cell} {r : Nat × Nat × Nat} (h : Keeps s t) :
    Keeps s (Machine.saveRegion base p at0 m t r) :=
  .ite (.foldl (.foldl h fun _ _ h => .ite h h.blzPut) fun _ _ h => h.putTagBytes) (.ite (.foldl (.foldl h fun _ _ h =>
    .ite h h.blzPut) fun _ _ h => h.putTagBytes) (.ite (.foldl h fun _ _ h => h.blzPut) (.ite (.foldl h fun _ _ h =>
    h.blzPut) (.ite h.blzPut h.blzPut))))

theorem blzFeed {poly : CrcParams} {p u' : Nat} {bs : List Byte} (h : Keeps s t) :
    Keeps s (Machine.blzFeed poly p u' bs t) :=
  h.rput.rfput

theorem saveStand {p : Nat} (h : Keeps s t) : Keeps s (Machine.saveStand t p) := by
  unfold Machine.saveStand
  split
  · exact h
  · exact .ctlDesc (.blzFeed (.blzPut (.foldl h.putCells fun _ _ h => h.saveRegion)))

theorem blazeSave (h : Keeps s t) : Keeps s (Machine.blazeSave t) :=
  .frame (.foldl (.foldl h fun _ _ h => h.saveWord) fun _ _ h => h.saveStand) rfl

theorem doBlaze {c : Cmd} (h : Keeps s t) : Keeps s (Machine.doBlaze c t) :=
  h.issueVerb (fun _ h => .ite h.refuse (by
      split
      · exact h.refuse
      · exact .ite h.noteVerb h.blazeSave.beginLong))

theorem signUnits {e' p : Nat} (h : Keeps s t) : Keeps s (Machine.signUnits e' p t) := by
  unfold Machine.signUnits
  split
  · exact .ctlDesc (.foldl h fun _ _ h => h.blzFeed)
  · exact h

theorem blazeSign {e' : Nat} (h : Keeps s t) : Keeps s (Machine.blazeSign e' t) :=
  .ite (.lsOwnBlock (.foldl h fun _ _ h => h.signUnits)) h

theorem applyLog {p : Nat} {l : List LogRec} (h : Keeps s t) : Keeps s (Machine.applyLog p l t) :=
  .foldl h fun _ _ h => h.memSplice

theorem commitGroup {e' g : Nat} (h : Keeps s t) : Keeps s (Machine.commitGroup e' g t) := by
  unfold Machine.commitGroup
  split
  · exact .rput (.foldl (.putCells (.ite (.foldl h.buildParity fun _ _ h => h.applyLog) (.foldl h fun _ _ h =>
      h.applyLog))) fun _ _ h => h.ctlDesc)
  · exact h

theorem blazeCommit {x : Snap} (h : Keeps s t) : Keeps s (Machine.blazeCommit x t) :=
  .gulBlazed (.frame (.rput (.rput (.rfput (.excRestart (.foldl (.foldl h.blazeSign fun _ _ h => h.commitGroup) fun _ _
    h => h.rput))))) rfl)

theorem boundaryGoesOn (h : Keeps s t) : Keeps s (Machine.boundaryGoesOn t) :=
  .ite h (.goOnStands (.gulNextStep (h.frame rfl)))

theorem doBlazeCommit (h : Keeps s t) : Keeps s (Machine.doBlazeCommit t) := by
  unfold Machine.doBlazeCommit
  split
  · exact h
  · exact .ite h (.ite h.blazeCommit.boundaryGoesOn h.blazeCommit.endLong)

theorem boundaryFails {st : Status} {loc : Word} (h : Keeps s t) : Keeps s (Machine.boundaryFails st loc t) :=
  .report (h.frame rfl)

theorem endLap {p : Nat} (h : Keeps s t) : Keeps s (Machine.endLap p t) :=
  .ite (.countLap (.ite h.slotOver h)) (.ite h.slotOver h)

theorem boundaryStops (h : Keeps s t) : Keeps s (Machine.boundaryStops t) :=
  .holdDrain (.foldl (.foldl (h.frame rfl) fun _ _ h => h.endLap.putStand) fun _ _ h => h.writeTraces)

theorem doGulemBoundary {logits : List (BitVec 16 × List (BitVec 32))} (h : Keeps s t) :
    Keeps s (Machine.doGulemBoundary logits t) := by
  unfold Machine.doGulemBoundary
  split
  · exact h
  · refine .ite h (.ite ?_ (.ite (.boundaryStops (.setGul h.gulActions)) (.gulNextStep
      (.foldl (.setGul h.gulActions) fun _ _ h => h.writeTraces))))
    dsimp only
    split
    · exact .boundaryFails (.putPhases (.boundaryStops (.setModeGul h.gulActions)))
    · exact .setGul (.blazeSave (.putPhases (.boundaryStops (.setModeGul h.gulActions))))

/-! ### Machine/Mgmt -/

theorem sessSend {k : Nat} {m : MgmtMsg} (h : Keeps s t) : Keeps s (Machine.sessSend k m t) := by
  unfold Machine.sessSend
  split
  · exact h.putSess
  · exact h

theorem sessCount {k : Nat} (h : Keeps s t) : Keeps s (Machine.sessCount k t) := by
  unfold Machine.sessCount
  split
  · exact h.putSess
  · exact h

theorem sessMsg {k : Nat} {seq : Word} {f : State → State} (h : Keeps s t) (hf : ∀ u, Keeps s u → Keeps s (f u)) :
    Keeps s (Machine.sessMsg k seq f t) := by
  unfold Machine.sessMsg
  split
  · exact h
  · exact .ite (hf _ h.sessCount) h.endSession

theorem doSessionOpen {m proto : Nat} {peer : BitVec 128} {anchor : BitVec 384} {proved : Bool} (h : Keeps s t) :
    Keeps s (Machine.doSessionOpen m proto peer anchor proved t) :=
  .ite h (by
      split
      · exact h
      · exact .ite h.putSess (.report (h.frame rfl)))

theorem doSubscribe {k : Nat} {seq kinds : Word} (h : Keeps s t) : Keeps s (Machine.doSubscribe k seq kinds t) :=
  h.sessMsg (fun _ h => (by
      split
      · exact h.putSess
      · exact h))

theorem doTransceiver {m : Nat} {up : Bool} (h : Keeps s t) : Keeps s (Machine.doTransceiver m up t) :=
  .ite (h.frame rfl) (.endSessionsOf (h.frame rfl))

/-- FUSE_WRITE keeps all that Keeps tells of, but the fuses. -/
theorem fuseWriteRun {c : Cmd} {bad : Bool} (h : Keeps s t) : KeepsForms s (Machine.fuseWriteRun c bad t) := by
  have hput : ∀ g v, KeepsForms s (Machine.putFuse g v t) := fun _ _ => ⟨h.registers, h.memory, h.clock, rfl⟩
  unfold Machine.fuseWriteRun
  split
  · exact h.refuse.forms
  · split
    · exact h.refuse.forms
    · dsimp only
      split
      · exact h.refuse.forms
      · split
        · exact h.refuse.forms
        · split
          · exact (hput _ _).after (refl _).retireVerb
          · exact (hput _ _).after (refl _).retireVerb

theorem doFuseWrite {c : Cmd} {bad : Bool} (h : Keeps s t) : KeepsForms s (Machine.doFuseWrite c bad t) :=
  h.issueVerb_of (fun _ h => h.forms) fun _ h => h.fuseWriteRun

theorem doDebugOpen {c : Cmd} (h : Keeps s t) : Keeps s (Machine.doDebugOpen c t) :=
  h.issueVerb (fun _ h => .ite h.refuse (.ite h.refuse (.retireVerb (.report (h.frame rfl)))))

theorem closeDebug (h : Keeps s t) : Keeps s (Machine.closeDebug t) := h.frame rfl

theorem doSelftest {c : Cmd} {failed : Nat} (h : Keeps s t) : Keeps s (Machine.doSelftest c failed t) :=
  h.issueVerb (fun _ h => .ite h.retireVerb h.retireVerb.secError)

theorem doEntropyFail {test : Nat} (h : Keeps s t) : Keeps s (Machine.doEntropyFail test t) := .ite h h.rfsat.secError

theorem doPoolRefill {p : Nat} {ws : List Lane} (h : Keeps s t) : Keeps s (Machine.doPoolRefill p ws t) :=
  .ite h.putStand h

theorem doIdeKey {p : Nat} {key : BitVec 256} {pass : Bool} (h : Keeps s t) : Keeps s (Machine.doIdeKey p key pass t) :=
  .ite h (.ite h.freeTest.secError h.putPort)

theorem fwBegins {src : FwSource} {total : Nat} (h : Keeps s t) : Keeps s (Machine.fwBegins src total t) :=
  .rfput (.rfput (h.frame rfl))

theorem fwRefused {st : Status} (h : Keeps s t) : Keeps s (Machine.fwRefused st t) :=
  .report (.fwWaits (by
      split
      · exact h.sessSend
      · exact h))

theorem fwTake {o : Nat} {bs : List Byte} (h : Keeps s t) : Keeps s (Machine.fwTake o bs t) := h.frame rfl

theorem fwGoes {p : Nat} {v : Word} (h : Keeps s t) : Keeps s (Machine.fwGoes p v t).2 :=
  .ite_snd h (.ite_snd h h.fwBegins)

theorem fwRead {bundle : List Byte} {bad : Option Status} (h : Keeps s t) : Keeps s (Machine.fwRead bundle bad t) := by
  unfold Machine.fwRead
  split
  · exact h.fwRefused
  · exact h.fwTake

theorem doFwGo {p : Nat} {v : Word} {bundle : List Byte} {bad : Option Status} (h : Keeps s t) :
    Keeps s (Machine.doFwGo p v bundle bad t) :=
  .ite h.fwRead (h.viaWrite (fun _ h => .ite h.fwGoes.fwRead h.fwGoes))

theorem doFwPush {k o total : Nat} {bs : List Byte} (h : Keeps s t) : Keeps s (Machine.doFwPush k o total bs t) :=
  .ite h (.ite h.endSession (.ite h.sessCount.sessSend (.ite (.fwRefused (.ite h.sessCount.fwBegins h.sessCount))
    (.fwTake (.ite h.sessCount.fwBegins h.sessCount)))))

theorem doFwVerify (h : Keeps s t) : Keeps s (Machine.doFwVerify t) :=
  .ite h (.ite h.fwRefused (by
      dsimp only
      split
      · exact h.fwRefused
      · exact .rfput (.rfput (h.frame rfl))))

theorem spdmBytes {req : Spdm} (h : Keeps s t) : Keeps s (Machine.spdmBytes req t).2 := by
  unfold Machine.spdmBytes
  split
  · exact h
  · exact h.draw

theorem doeAnswer {via : Via} {bs : List Byte} (h : Keeps s t) : Keeps s (Machine.doeAnswer via bs t) :=
  .foldl h fun _ _ h => h.answerRead

theorem doSpdm {via : Via} {i : BitVec 2} {req : Spdm} (h : Keeps s t) : Keeps s (Machine.doSpdm via i req t) := by
  unfold Machine.doSpdm
  split
  · exact .ite h h.spdmBytes.doeAnswer
  · exact .ite h (.ite h.sessCount h.sessCount.spdmBytes.sessSend)
  · exact h
  · exact h

theorem doRedfish {k : Nat} {req : Redfish} (h : Keeps s t) : Keeps s (Machine.doRedfish k req t) := by
  unfold Machine.doRedfish
  split
  · exact h
  · exact h.putSess

theorem powerLost (h : Keeps s t) : Keeps s (Machine.powerLost t) :=
  h.trans ⟨fun _ => rfl, fun ⟨_, _, hh, hp, _, _⟩ => ⟨rfl, rfl, hh, hp, rfl, rfl⟩,
    fun _ _ => slotClockOk_of_same (t := .reset) ⟨rfl, rfl⟩ rfl slotClockOk_reset, rfl⟩

theorem doPowerOn {serial : Word} {failed : Nat} (h : Keeps s t) : Keeps s (Machine.doPowerOn serial failed t) :=
  .ite h.powerLost.rput.rfput h.powerLost.rput.secError

/-! ### Machine/Recover -/

theorem setRunning (h : Keeps s t) : Keeps s (Machine.setRunning t) := .startStands (h.frame rfl)

theorem doStart {c : Cmd} (h : Keeps s t) : Keeps s (Machine.doStart c t) :=
  h.issueVerb (fun _ h => .ite h.refuse (by
      split
      · exact h.refuse
      · exact h.setRunning.retireVerb))

theorem doResume {c : Cmd} (h : Keeps s t) : Keeps s (Machine.doResume c t) :=
  h.issueVerb (fun _ h => .ite h.refuse (by
      split
      · exact h.refuse
      · exact h.gulNextStep.setRunning.retireVerb))

theorem putArrState {p a v : Nat} (h : Keeps s t) : Keeps s (Machine.putArrState p a v t) :=
  .ite (.rfput (.ite h h.rfput)) h.rfput

theorem fence {mark : State → State} (h : Keeps s t) (hmark : ∀ u, Keeps s u → Keeps s (mark u)) :
    Keeps s (Machine.fence mark t) :=
  .svcReroute (.rfput (hmark _ (h.stopModule.frame rfl)))

theorem doFenceArray {c : Cmd} (h : Keeps s t) : Keeps s (Machine.doFenceArray c t) :=
  h.issueVerb (fun _ h => .ite h.refuse (.ite h.refuse ((h.fence (fun _ h => (by
      split
      · exact .ite h h.putArrState
      · exact h))).retireVerb)))

theorem doFenceStand {c : Cmd} (h : Keeps s t) : Keeps s (Machine.doFenceStand c t) :=
  h.issueVerb (fun _ h => .ite h.refuse (.ite h.refuse ((h.fence (fun _ h => (by
      split
      · exact .ite h h.rfput
      · exact h))).retireVerb)))

theorem doSelectPlan {c : Cmd} (h : Keeps s t) : Keeps s (Machine.doSelectPlan c t) :=
  h.issueVerb (fun _ h => .ite h.refuse (.ite h.refuse (.ite h.refuse (.retireVerb (h.frame rfl)))))

theorem applySources {xs : List (Nat × Nat)} (h : Keeps s t) (e : Machine.applySources xs t = .ok u) : Keeps s u := by
  induction xs generalizing t with
  | nil => cases e; exact h
  | cons x xs ih =>
    simp only [Machine.applySources] at e
    split at e
    · cases e
    · exact ih h.selectSource e

theorem relocWrites {n : Nat} {rows : List (Nat × Nat)} (h : Keeps s t) : Keeps s (Machine.relocWrites n rows t) := by
  refine .applyList (.applyList ?_)
  exact h.keepRegs (p := fun k => !(suView k = 2 && roleOf t (suStand k) = 1 && suClass k != 0 &&
      relocKeep (listedKeys (imgPlan t.image n ++ imgPlan t.image t.lapSet)) rows (logicalKey t k) &&
      listMay false (logicalKey t k))) fun k hk => by
    have := mt OffClock.of_suView hk
    simp [this]

theorem planHandles {n : Nat} (h : Keeps s t) : Keeps s (Machine.planHandles n t) := h.applyList

theorem moveContents {dst : Nat → Option Nat} (h : Keeps s t) : Keeps s (Machine.moveContents dst t) :=
  h.bytes fun ⟨_, _, hr⟩ => ⟨smapOk_moveUnits _ _ _ _ _, smapOk_moveUnits _ _ _ _ _, hr⟩

theorem recodeRow {dst : Nat → Option Nat} (h : Keeps s t) : Keeps s (Machine.recodeRow dst t) :=
  .foldl h fun _ _ h => (by
      dsimp only
      split
      · exact .ite h.flipParity h
      · exact h)

theorem mendArray {n : Nat} {failed : List Site} {p a site : Nat} (h : Keeps s t)
    (e : Machine.mendArray n failed p a site t = .ok u) : Keeps s u := by
  unfold Machine.mendArray at e
  dsimp only at e
  split at e
  · split at e
    · cases e
    · obtain rfl := Except.ok.inj e
      exact h.moveContents.putArrState
  · split at e
    · cases e
    · obtain rfl := Except.ok.inj e
      exact .putArrState (.moveContents (.recodeRow (h.frame rfl)))

theorem mendAll {n : Nat} {failed : List Site} {xs : List (Nat × Nat × Nat)} {at0 : Option (Nat × Nat × State)}
    (h : Keeps s t) (h0 : ∀ x ∈ at0, Keeps s x.2.2) :
    Keeps s (Machine.mendAll n failed xs at0 t).2 := by
  induction xs generalizing at0 t with
  | nil => exact h
  | cons x xs ih =>
    obtain ⟨p, a, site⟩ := x
    have hs : Keeps s (match (generalizing := false) at0 with
      | some (q, y, v) => if n ≠ 0 ∧ q = p ∧ y = a / 64 then v else t
      | none => t) := by
      split
      · exact .ite (h0 _ rfl) h
      · exact h
    simp only [Machine.mendAll]
    split
    · exact hs
    · next e =>
      refine ih (h.mendArray e) fun x hx => ?_
      obtain rfl := Option.some.inj hx
      exact hs

theorem copyDram {old sub : Nat} (h : Keeps s t) : Keeps s (Machine.copyDram old sub t) := h.putCells.frame rfl

theorem configureStand {n lg sub : Nat} (h : Keeps s t) : Keeps s (Machine.configureStand n lg sub t) := by
  have hd : ∀ w l, Keeps s w → Keeps s { w with
      descs := smapKeep (fun k => k / 65536 ≠ sub) w.descs, hdlStage := smapKeep (fun k => k / 4096 ≠ sub) w.hdlStage
      gates := smapKeep (fun k => k / 1024 ≠ sub) w.gates, logs := l } :=
    fun w l h => h.bytes fun ⟨hm, ho, hh, hp, hd, ht⟩ =>
      ⟨hm, ho, hh, hp, smapOk_smapKeep _ (fun k => k / 65536 ≠ sub) _ hd, ht⟩
  exact .loadCredits (.loadHub (.loadCounters (.foldl (.foldl (.applyList (.applyList (.loadHubCfg
    (hd _ _ h.loadRegs.loadUnits.loadStands)))) fun _ _ h => h.loadOb) fun _ _ h => h.rput)))

theorem prepare {n old sub : Nat} (h : Keeps s t) : Keeps s (Machine.prepare n old sub t).2 :=
  .rput (.rput (.configureStand (.putRole (.putRole (.ite_snd (.ite_snd h.groupUnprotected
    h.groupUnprotected.putCells.ctlDesc) h.groupUnprotected.copyDram)))))

theorem substitute {n old sub : Nat} (h : Keeps s t) : Keeps s (Machine.substitute n old sub t) :=
  .rfput (.setSnaps (.putLog (.putLog (.putRole (.putScreen (.ite h.putRole (.foldl h.putRole fun _ _ h => h.putGate)))))))

theorem relocated {n : Nat} {lost : Option Word} (h : Keeps s t) : Keeps s (Machine.relocated n lost t) :=
  .rfput (h.frame rfl)

theorem relocate {n : Nat} {failed : List Site} (h : Keeps s t) : Keeps s (Machine.relocate n failed t).2.2 := by
  have hr : ∀ w b, Keeps s w → Keeps s { w with reconFailed := b } := fun _ _ h => h.frame rfl
  have hp : ∀ pair w, Keeps s w → Keeps s (match pair with
      | some (old, sub) => Machine.prepare n old sub w
      | none => (none, w)).2 := fun _ _ h => by
    split
    · exact h.prepare
    · exact h
  have hend : ∀ pair (lost : Option Word) w, Keeps s w → Keeps s (match pair with
      | some (old, sub) => ((if lost.isSome then stReconFailed else stDone, lost.getD 0,
          Machine.relocated n lost (Machine.substitute n old sub w)) : Status × Word × State)
      | none => (stDone, 0, Machine.relocated n none w)).2.2 := fun _ _ _ h => by
    split
    · exact h.substitute.relocated
    · exact h.relocated
  refine .ite_snd_snd h ?_
  split
  · exact h
  · next v e =>
    have hm := fun pair rows sites => (hp pair _ (h.applySources e).snoopAll).relocWrites (n := n) (rows := rows)
      |>.planHandles (n := n) |>.mendAll (n := n) (failed := failed) (xs := sites) (at0 := none)
        fun x hx => absurd hx (Option.not_mem_none x)
    dsimp only
    split
    · exact hr _ _ (hm _ _ _)
    · exact hend _ _ _ (hm _ _ _)

theorem doRelocate {c : Cmd} {failed : List Site} (h : Keeps s t) : Keeps s (Machine.doRelocate c failed t) :=
  h.issueVerb (fun _ h => (by
      split
      · exact h.refuse
      · exact .ite h.refuse (.retireVerb (.ite (.relocate (h.frame rfl)) (.rfput (.relocate (h.frame rfl)))))))

theorem assignParity {p g : Nat} (h : Keeps s t) : Keeps s (Machine.assignParity p g t) := by
  unfold Machine.assignParity
  dsimp only
  split
  · exact h.rfput.putCells.rput.frame rfl
  · exact h.rfput.putCells.rput

theorem doAssignParity {c : Cmd} (h : Keeps s t) : Keeps s (Machine.doAssignParity c t) :=
  h.issueVerb (fun _ h => .ite h.refuse (by
      split
      · exact h.refuse
      · exact h.assignParity.retireVerb))

/-! ### Machine/Restore -/

theorem rebuildWord {p k : Nat} (h : Keeps s t) : Keeps s (Machine.rebuildWord p k t) := by
  unfold Machine.rebuildWord
  split
  · exact h
  · exact .ite h h.memSplice

theorem rollback {prev : Bool} (h : Keeps s t) : Keeps s (Machine.rollback prev t) :=
  .frame (.ite (.foldl (.foldl h fun _ _ h => h.applyLog) fun _ _ h => (by
      dsimp only
      split
      · exact h.applyLog.applyLog
      · exact h.applyLog)) (.foldl h fun _ _ h => h.applyLog)) rfl

theorem rebuildBuffer {x : Snap} {p : Nat} (h : Keeps s t) : Keeps s (Machine.rebuildBuffer x p t) :=
  .ite (.foldl h fun _ _ h => h.rebuildWord) h

theorem checkBuffer {e' p : Nat} (h : Keeps s t) : Keeps s (Machine.checkBuffer e' p t) := by
  unfold Machine.checkBuffer
  split
  · exact h
  · exact h.blzFeed.ctlDesc

/-- What a register of the value w at k is after RESTORE, before the saved ones are written (R496), on the stands ps. -/
def restoredWord (ps : List Nat) (k : Nat) (w : Word) : Word :=
  if (suView k = 2 ∧ ps.contains (suStand k) = true) ∨ (suView k = 0 ∧ snapReg k = true) then restoreKept k w
  else if suView k = 2 ∧ suClass k = 13 ∧ suOff k = 8 then 0 else w

theorem restoredWord_eq {ps : List Nat} {k : Nat} (w : Word) (hk : ¬OffClock k) : restoredWord ps k w = w := by
  have hv := mt OffClock.of_suView hk
  have hs := mt OffClock.of_snapReg hk
  simp [restoredWord, hv, hs]

theorem restoreRegs {x : Snap} (h : Keeps s t) : Keeps s (Machine.restoreRegs x t) := by
  have hreg := h.retouchRegs (g := restoredWord (servicePhys t)) (fun k hk => restoredWord_eq _ hk)
    (fun w => .inl (congrArg _ (restoredWord_eq w fun h => h.1 rfl)))
    fun w => .inl (congrArg _ (restoredWord_eq w fun h => h.2 rfl))
  have hsaved : ∀ l w, Keeps s w → Keeps s (List.foldl
      (fun s (y : Nat × Word) => Machine.rput y.1 (savedWord y.1 y.2) s) w (List.filter (fun y => snapReg y.1) l)) :=
    fun l w h => by
    refine .foldl_mem h fun _ y hy h => h.rput ?_
    exact .of_snapReg (List.mem_filter.mp hy).2
  refine .foldl_mem (hsaved _ _ hreg) fun _ k hk h => h.rput ?_
  rcases List.mem_append.mp hk with hk | hk
  · have hp := (List.mem_filter.mp hk).2
    simp only [Bool.and_eq_true, List.contains_iff_mem, servicePhys, List.mem_filter] at hp
    refine .of_suStand fun h0 => ?_
    rw [h0] at hp
    exact absurd hp.1.1 (by decide)
  · obtain ⟨_, _, rfl⟩ := List.mem_map.mp (List.mem_filter.mp hk).1
    exact OffClock.caCtrStatus _ _ _

theorem restoreUnits (h : Keeps s t) : Keeps s (Machine.restoreUnits t) := h.loadUnits.frame rfl

theorem constSlots (h : Keeps s t) : Keeps s (Machine.constSlots t) := by
  have hfull : ∀ lg a n w, Keeps s w → Keeps s (match inService w lg with
      | some p =>
        if isMemIdx a && slotClass t.image lg a n = 0 && !inUntagged w p a n then Machine.setTag (slotKey p a n) true w
        else w
      | none => w) := fun _ _ _ _ h => by
    split
    · exact .ite h.setTag h
    · exact h
  refine .foldl (.foldl h fun _ _ h => .foldl h fun _ _ h => hfull _ _ _ _ h) fun _ _ h => .foldl h fun _ _ h => ?_
  dsimp only
  split
  · exact h
  · split
    · exact h
    · exact .foldl h fun _ _ h => .ite (hfull _ _ _ _ h.memSplice) h

theorem savedSram {x : Snap} (h : Keeps s t) : Keeps s (Machine.savedSram x t) :=
  h.bytes fun ⟨hm, hr⟩ => ⟨smapOk_foldl_smapSet _ _ _ _ hm, hr⟩

theorem restoreCvus (h : Keeps s t) : Keeps s (Machine.restoreCvus t) :=
  .foldl h.applyList fun _ _ h => .foldl h fun _ _ h => h.cvuSet

theorem restoreGul {x : Snap} (h : Keeps s t) : Keeps s (Machine.restoreGul x t) := .frame (.ite h.rput h) rfl

theorem restoreStands {x : Snap} (h : Keeps s t) : Keeps s (Machine.restoreStands x t) :=
  .foldl (.foldl h fun _ _ h => h.putStand) fun _ _ h => .ite h.putArr h

theorem restoreState {x : Snap} (h : Keeps s t) : Keeps s (Machine.restoreState x t) :=
  .excRestart (.holdDrain (.ite (.planHandles (.foldl (.restoreGul (.restoreCvus (.foldl (.foldl
    h.restoreUnits.restoreRegs.savedSram.restoreStands.constSlots fun _ _ h => h.loadOb) fun _ _ h => h.putHubQ))) fun _
    _ h => h.loadCredits)) (.foldl (.restoreGul (.restoreCvus (.foldl (.foldl
    h.restoreUnits.restoreRegs.savedSram.restoreStands.constSlots fun _ _ h => h.loadOb) fun _ _ h => h.putHubQ))) fun _
    _ h => h.loadCredits)))

theorem restoreEpoch {x : Snap} {prev : Bool} (h : Keeps s t) : Keeps s (Machine.restoreEpoch x prev t) :=
  .rfput (.rput (.rput (h.frame rfl)))

theorem restoreBlaze {x : Snap} {prev : Bool} (h : Keeps s t) : Keeps s (Machine.restoreBlaze x prev t).2.2 := by
  unfold Machine.restoreBlaze
  dsimp only
  split
  · exact h
  · split
    · exact .foldl (.foldl (.foldl h.snoopAll.rollback fun _ _ h => h.rebuildWord) fun _ _ h => h.rebuildBuffer) fun _ _
        h => h.checkBuffer
    · exact .restoreEpoch (.restoreState (.foldl (.foldl (.foldl h.snoopAll.rollback fun _ _ h => h.rebuildWord) fun _ _
        h => h.rebuildBuffer) fun _ _ h => h.checkBuffer))

theorem doRestore {c : Cmd} (h : Keeps s t) : Keeps s (Machine.doRestore c t) :=
  h.issueVerb (fun _ h => .ite h.refuse (by
      split
      · exact h.refuse
      · exact .ite h.noteVerb h.restoreBlaze.retireVerb))

/-! ### Machine/Setup -/

theorem putPlain {via : Via} {k : Nat} {v : Word} (h : Keeps s t) (hk : k ≠ ClkSlotCfg.key) :
    Keeps s (Machine.putPlain via k v t).2 :=
  h.viaWrite (fun _ h => (h.plainWrite hk))

theorem putCvu {via : Via} {k : Nat} {ring : Bool} {p u' : Nat} {v : Word} (h : Keeps s t) (hk : k ≠ ClkSlotCfg.key) :
    Keeps s (Machine.putCvu via k ring p u' v t).2 :=
  .ite_snd h.doCvuCfg (.ite_snd (h.doCvuParam hk) (.ite_snd h.doCvuValue (.ite_snd h.doCvuFeed (.ite_snd h.doCvuFeed
    (.ite_snd h.doCvuFeed (.ite_snd h.doCvuFeed (h.putPlain hk)))))))

theorem putTally {via : Via} {k : Nat} {ring : Bool} {p u' : Nat} {v : Word} (h : Keeps s t) (hk : k ≠ ClkSlotCfg.key) :
    Keeps s (Machine.putTally via k ring p u' v t).2 :=
  .ite_snd h.doTlyCount (.ite_snd h.doTlyAdd (.ite_snd (.ite_snd (h.viaWrite (fun _ h => h)) (.ite_snd h.doTlyCfg
    h.doTlyWatch)) (h.putPlain hk)))

theorem putHub {via : Via} {k p : Nat} {v : Word} (h : Keeps s t) (hk : k ≠ ClkSlotCfg.key) :
    Keeps s (Machine.putHub via k p v t).2 :=
  h.viaWrite (fun _ h => .ite_snd h (.ite_snd h.descDataWrite (.ite_snd (h.plainWrite hk) (.ite_snd (h.plainWrite hk)
    (h.plainWrite hk).putHubQ))))

theorem putNodeReg {via : Via} {k p n : Nat} {v : Word} (h : Keeps s t) (hk : k ≠ ClkSlotCfg.key) :
    Keeps s (Machine.putNodeReg via k p n v t).2 :=
  h.viaWrite (fun _ h => .ite_snd h (.ite ((h.plainWrite hk).frame rfl) (h.plainWrite hk)))

theorem keepBoundValid {p a c old : Nat} (h : Keeps s t) : Keeps s (Machine.keepBoundValid p a c old t) :=
  .ite h.rfput h

theorem holdCount {p a st : Nat} (h : Keeps s t) : Keeps s (Machine.holdCount p a st t) := .ite h.putStage h

theorem putCompute {via : Via} {k p a : Nat} {v : Word} (h : Keeps s t) (hk : k ≠ ClkSlotCfg.key) :
    Keeps s (Machine.putCompute via k p a v t).2 :=
  h.viaWrite (fun _ h => .ite_snd h (.ite_snd h.obDataWrite (.ite_snd (h.plainWrite hk).keepBoundValid (.ite_snd
    (h.plainWrite hk)
    (.ite_snd (h.holdCount.plainWrite hk) (h.plainWrite hk))))))

theorem putMemory {via : Via} {k p a : Nat} {v : Word} (h : Keeps s t) (hk : k ≠ ClkSlotCfg.key) :
    Keeps s (Machine.putMemory via k p a v t).2 :=
  h.viaWrite (fun _ h => .ite_snd h (.ite_snd h (h.plainWrite hk)))

theorem putStandReg {via : Via} {k : Nat} {v : Word} (h : Keeps s t) (hk : k ≠ ClkSlotCfg.key) :
    Keeps s (Machine.putStandReg via k v t).2 :=
  .ite_snd (.ite_snd h.doSrcSel (.ite_snd h.doClkDiv (.ite_snd h.doGate (h.putPlain hk)))) (.ite_snd (h.putHub hk)
    (.ite_snd
    (.ite_snd (h.viaWrite (fun _ h => h.commitHdl)) (h.viaWrite (fun _ h => h.stageHdlLen))) (.ite_snd (h.putCvu hk)
    (.ite_snd (h.putTally hk) (.ite_snd (h.putNodeReg hk) (.ite_snd (.ite_snd (h.putMemory hk) (h.putCompute hk))
      (h.putPlain hk)))))))

theorem putPort9 {via : Via} {k u' : Nat} {v : Word} (h : Keeps s t) (hk : k ≠ ClkSlotCfg.key) :
    Keeps s (Machine.putPort9 via k u' v t).2 :=
  .ite_snd (h.doRingBase hk) (.ite_snd h.doEvqCfg (.ite_snd (h.viaWrite (fun _ h => .ite_snd h (h.plainWrite hk)))
    (.ite_snd
    (h.doRingBase hk) (.ite_snd h.doCrCfg (h.putPlain hk)))))

theorem putRanger {via : Via} {k u' : Nat} {v : Word} (h : Keeps s t) (hk : k ≠ ClkSlotCfg.key) :
    Keeps s (Machine.putRanger via k u' v t).2 :=
  .ite_snd (by
      split
      · exact h.viaWrite (fun _ h => h.fwGoes)
      · exact (h.putPlain hk)) (.ite_snd (h.doRingBase hk) (.ite_snd h.doGqCfg (h.putPlain hk)))

/-- A write of CLK_SLOT_CFG goes through the checks of R423. -/
theorem putRingReg {via : Via} {k : Nat} {v : Word} (h : Keeps s t) : Keeps s (Machine.putRingReg via k v t).2 := by
  have hcls : suClass k ≠ 3 → k ≠ ClkSlotCfg.key := by
    rintro hc rfl
    exact hc (by decide)
  have hoff : suOff k ≠ 0x10 → k ≠ ClkSlotCfg.key := by
    rintro hc rfl
    exact hc (by decide)
  unfold Machine.putRingReg
  dsimp only
  split
  · next hc => exact h.putRanger (hcls (by omega))
  split
  · split
    · next ho => exact .ite_snd h.doReacquire (h.putPlain (hoff (by omega)))
    split
    · exact h.doSlotCfg
    · next ho => exact .ite_snd h.doTimeNext (h.putPlain (hoff ho))
  next hc =>
    exact .ite_snd (.ite_snd h.doOpCeiling (h.putPlain (hcls hc))) (.ite_snd
      (.ite_snd (h.viaWrite fun _ h => h.otpDataWrite) (h.putPlain (hcls hc))) (.ite_snd (h.putCvu (hcls hc))
      (.ite_snd (h.putTally (hcls hc)) (.ite_snd (h.putPort9 (hcls hc)) (h.putPlain (hcls hc))))))

theorem putReg {via : Via} {k : Nat} {m v : Word} (h : Keeps s t) : Keeps s (Machine.putReg via k m v t).2 := by
  refine .ite_snd (h.viaWrite fun _ h => h) ?_
  split
  · next hv => exact h.putStandReg (OffClock.of_suView hv).1
  · exact h.putRingReg

theorem clearRc {k : Nat} {m : Word} (h : Keeps s t) : Keeps s (Machine.clearRc k m t) := by
  unfold Machine.clearRc
  dsimp only
  split
  · exact h
  · next hc =>
    have hk : ∀ j, (descOf j).rc = 0 → k ≠ j := fun j hj e => hc (by rw [e, hj]; exact BitVec.zero_and)
    exact .rput (.foldl h fun _ _ h => .ite h (h.frame rfl)) ⟨hk _ (by decide), hk _ (by decide)⟩

theorem getReg {k : Nat} {m : Word} {x : Word × State} (h : Keeps s t) (e : Machine.getReg k m t = .ok x) :
    Keeps s x.2 := by
  unfold Machine.getReg at e
  dsimp only at e
  split at e
  · exact h.obDataRead e
  · split at e
    · exact h.descDataRead e
    · split at e
      · exact h.otpDataRead e
      · split at e
        · obtain rfl := Except.ok.inj e
          exact h
        · obtain rfl := Except.ok.inj e
          exact h.clearRc

theorem countAddr {via : Via} {addr : Nat} {st : Status} (h : Keeps s t) : Keeps s (Machine.countAddr via addr st t) :=
  h.countErr

theorem setupPut {via : Via} {addr size : Nat} {v : Word} (h : Keeps s t) :
    Keeps s (Machine.setupPut via addr size v t).2 :=
  .ite_snd h.countAddr (by
      split
      · exact .ite h.countAddr h
      · exact .ite_snd h.putReg h.countAddr)

theorem setupGet {via : Via} {addr size : Nat} (h : Keeps s t) : Keeps s (Machine.setupGet via addr size t).2.2 :=
  .ite_snd_snd h.countAddr (by
    split
    · exact .ite h.countAddr h
    · exact .ite_snd_snd (h.viaRead fun _ _ h e => h.getReg e) h.countAddr)

theorem doSetupRead {via : Via} {addr size : Nat} (h : Keeps s t) : Keeps s (Machine.doSetupRead via addr size t) :=
  h.setupGet.answerRead

theorem doBar0 {p : BitVec 2} {write : Bool} {off size : Nat} {v : Word} (h : Keeps s t) :
    Keeps s (Machine.doBar0 p write off size v t) := by
  unfold Machine.doBar0
  split
  · exact .ite h.setupPut h.doSetupRead
  · exact .ite h h.answerRead

theorem doRegRead {m : BitVec 1} {i : BitVec 2} {seq : Word} {addr : BitVec 48} (h : Keeps s t) :
    Keeps s (Machine.doRegRead m i seq addr t) :=
  h.sessMsg (fun _ h => h.setupGet.sessSend)

theorem doRegWrite {m : BitVec 1} {i : BitVec 2} {seq : Word} {addr : BitVec 48} {v : Word} (h : Keeps s t) :
    Keeps s (Machine.doRegWrite m i seq addr v t) :=
  h.sessMsg (fun _ h => h.setupPut.sessSend)

theorem doConfig {src : MeshSrc} {write : Bool} {addr : BitVec 48} {v : Word} (h : Keeps s t) :
    Keeps s (Machine.doConfig src write addr v t) :=
  h.svcArrive (fun _ h => .ite h.setupPut.respond h.setupGet.respond)

theorem setHalted {n : Nat} {halt : Bool} (h : Keeps s t) : Keeps s (Machine.setHalted n halt t) := h.frame rfl

theorem doJtag {w : JtagAccess} (h : Keeps s t) : Keeps s (Machine.doJtag w t) :=
  .ite h (by
      split
      · exact h.setHalted
      · exact h
      · exact h.setHalted
      · exact .ite h.setHalted h
      · exact h
      · exact h.setHalted
      · exact h.doSetupRead
      · exact h.setupPut)

end Keeps

/-! ### One step -/

/-- Every state that the outcome goes on from is one that P holds of. -/
def Leads (P : State → Prop) : Host.Outcome State Fault Refusal → Prop
  | .next t => P t
  | .fault _ => True
  | .refused _ => True

theorem Leads.next {P : State → Prop} {t : State} (h : P t) : Leads P (.next t) := h

theorem Leads.of_next {P : State → Prop} {o : Host.Outcome State Fault Refusal} {t : State} (h : Leads P o)
    (e : o = .next t) : P t := by
  subst e
  exact h

theorem Leads.imp {P Q : State → Prop} {o : Host.Outcome State Fault Refusal} (h : Leads P o) (k : ∀ t, P t → Q t) :
    Leads Q o := by
  cases o with
  | next t => exact k t h
  | fault | refused => trivial

/-- Every command but FUSE_WRITE keeps the forms, the slot clock within the ceiling, and the fuses. -/
theorem Keeps.exec {s t : State} (i : Instr) (hi : ∀ c bad, i ≠ .fuseWrite c bad) (h : Keeps s t) :
    Leads (Keeps s) (Machine.exec i t) := by
  cases i with
  | loadImage => exact h.doLoadImage
  | start => exact h.doStart
  | drain => exact h.doDrain
  | drainPointReached => exact h.doDrainPoint
  | blaze => exact h.doBlaze
  | blazeCommit => exact h.doBlazeCommit
  | restore => exact h.doRestore
  | resume => exact h.doResume
  | fenceArray => exact h.doFenceArray
  | fenceStand => exact h.doFenceStand
  | selectPlan => exact h.doSelectPlan
  | relocate => exact h.doRelocate
  | release => exact h.doRelease
  | setPowerCap => exact h.doSetPowerCap
  | setClock => exact h.doSetClock
  | setLockstep => exact h.doSetLockstep
  | dmaCopy => exact h.doDmaCopy
  | dmaStand => exact h.doDmaStand
  | abort => exact h.doAbort
  | fuseWrite c bad => exact absurd rfl (hi c bad)
  | debugOpen => exact h.doDebugOpen
  | debugClose => exact h.issueVerb fun _ h => h.closeDebug.retireVerb
  | debugTimeout => exact h.closeDebug
  | selftest => exact h.doSelftest
  | screenSet => exact h.doScreenSet
  | screenRun => exact h.doScreenRun
  | standPower => exact h.doStandPower
  | singleStandTestEnd => exact h.doSingleEnd
  | bringUp => exact h.doBringUp
  | coldBringUpAuto => exact h.doColdAuto
  | busbarWaitTimeout | warmRestartTimeout => exact .ite h.failBring h
  | heatEnd => exact h.doHeatEnd
  | trainingLimit => exact h.doTrainingLimit
  | retentionHoldEnd => exact h.doRetention
  | assignParity => exact h.doAssignParity
  | commandRingDoorbell => exact h.doCmdDoorbell
  | completionRingDoorbell => exact h.doCplDoorbell
  | eventRingDoorbell => exact h.doEvDoorbell
  | commandFetch => exact h.doFetch
  | commandRetire => exact h.doRetire
  | ringEnable | ringDisable => exact h.doCrCfg
  | cxlMemRequest => exact h.doCxlMem
  | uioWrite | uioRead => exact h.doUio
  | peerPostedWrite => exact h.doPeerPosted
  | bar0Access => exact h.doBar0
  | hostHoldExpired => exact h.doHoldExpired
  | hostCompletionArrival => exact h.doCompletion
  | completionTimeout => exact h.doTimeout
  | linkDown => exact h.linkFalls
  | perst => exact (Keeps.ite h.linkFalls h).putPort
  | cprsnt => exact h.linkFalls.putPort
  | gulemRequestDoorbell => exact h.doGqDoorbell
  | gulemStatusDoorbell => exact h.doGsDoorbell
  | gulemRequestFetch => exact h.doGulFetch
  | gulemBoundary => exact h.doGulemBoundary
  | slotBoundary => exact h.doSlotBoundary.svcRetry
  | batonInArrival => exact h.doBatonIn
  | stageStepComplete =>
    refine Leads.next ?_
    split
    · exact h.stepCurrent
    · exact h
  | arrayNoCompletion => exact h.doNoCompletion
  | heartbeat => exact h.doHeartbeat
  | heartbeatCheck => exact h.doHeartbeatCheck
  | nop | dot | dotl | dots24 | dots14 | dotsbm | readout | accload | accloadx | add | sub | mul | fmaw | abs
  | neg | scaleb | and | or | xor | shl | shr | mov | cmpeq | cmplt | cmple | cmpun | sel | min | max | minnum
  | maxnum | rcp | rsqrt | exp2 | log2 | perm | permi | lredadd | lredmax | lredmin | lredi | lredacc | cvt
  | cvtmx | demx | pack | unpack | pack6 | unpack6 | fxcvt | ctradv | ctrrd | btnsend | btnrecv | btnpred | tinc
  | ldcm | ldcmk | ldcmx | stcm | stcmo | stcmx | send | recv | pass | merge1 | aaddi | aaddf | amaxf | aminf
  | aor | aand | rdflags | rdsrc | rdcoord | rdlap | rdtime | rdtemp | rdovr | rdent => exact h.stageOp
  | twait =>
    refine Leads.next ?_
    split
    · exact h.runTwait
    · exact h
  | hubCycle => exact h.doHubCycle
  | descriptorRetire => exact h.doDescriptorRetire
  | copy | gatherRows | gatherPages | sample | transpose | reduce => exact h.doEngine
  | dramRefresh => exact h.doRefresh
  | readRequest => exact h.doReadRequest
  | writeRequest => exact h.doWriteRequest
  | readResponse | writeAcknowledge | postAcknowledge => exact h.gotResponse fun _ _ h => h
  | tallyIncrement => exact h.doTallyIncrement
  | post => exact h.doPost
  | atomicRequest => exact h.doAtomic
  | config => exact h.doConfig
  | record => exact h.doRecord
  | mgmt => exact h.doMgmt
  | tallyWait => exact h.doTallyWait
  | waitDone => exact h.gotResponse fun _ _ h => h.frame rfl
  | progressSend => exact .foldl h fun _ _ h => h.respond
  | progress => exact h.takeResp
  | ack => exact h.gotResponse fun _ _ h => h.doneAnswered
  | negative => exact h.gotResponse fun _ _ h => h.svcFailed.doneAnswered
  | serviceTimeout => exact .ite h.doServiceTimeout.doneAnswered h
  | tallyWaitComplete => exact h.doTallyWaitComplete
  | seamFrameReceive => exact h.doSeamFrame
  | seamDeadSilence | seamDeadReplayLimit => exact .ite h.seamDies h
  | meshNoProgress => exact h.doNoProgress
  | lockstepCompare => exact h.doLockstepCompare
  | lockstepTimeout => exact h.doLockstepTimeout
  | powerTick => exact h.doPowerTick
  | capFloor => exact h.doCapFloor
  | tilePowerGood => exact h.doTileGood
  | tileTrip => exact h.tripStand.tripEnds
  | junctionTrip => exact h.doJunctionTrip
  | inputFault => exact h.doInputFault.tripEnds
  | standbyPowerOn => exact h.doPowerOn
  | standbyPowerLoss => exact h.powerLost
  | refLost => exact h.doRefLost
  | reacquire => exact h.doReacquire
  | clkSlotCfgWrite => exact h.doSlotCfg
  | glideEnd => exact h.doGlideEnd
  | clkSrcSelWrite => exact h.doSrcSel
  | clkSwitchComplete => exact .ite h.rfput h
  | clkSourceLost => exact h.sourceLost
  | clkDivWrite => exact h.doClkDiv
  | gateOn | gateOff | gateOffAfterDrain | gateCancel => exact h.doGate
  | gatePendingComplete => exact .ite h.gateAll h
  | ppsEdge => exact h.doPpsEdge
  | clkTimeNextWrite => exact h.doTimeNext
  | timeNextExpiry => exact .ite (.report (h.frame rfl)) h
  | ppsLost => exact .ite (.report (.rfput (h.frame rfl))) h
  | fwGo => exact h.doFwGo
  | fwPush => exact h.doFwPush
  | fwVerify => exact h.doFwVerify
  | mgmtSessionOpen => exact h.doSessionOpen
  | regRead => exact h.doRegRead
  | regWrite => exact h.doRegWrite
  | subscribe => exact h.doSubscribe
  | spdmRequest => exact h.doSpdm
  | redfishRequest => exact h.doRedfish
  | ideKeyProgramming => exact h.doIdeKey
  | transceiverChange => exact h.doTransceiver
  | entropyTestFail => exact h.doEntropyFail
  | hubHdlLenWrite => exact h.viaWrite fun _ h => h.stageHdlLen
  | hubHdlAddrWrite => exact h.viaWrite fun _ h => h.commitHdl
  | caObDataAccess => exact h.dataAccess (fun _ h => h.obDataWrite) fun _ _ h e => h.obDataRead e
  | hubDescDataAccess => exact h.dataAccess (fun _ h => h.descDataWrite) fun _ _ h e => h.descDataRead e
  | otpStageDataAccess => exact h.dataAccess (fun _ h => h.otpDataWrite) fun _ _ h e => h.otpDataRead e
  | cvuFeed8 | cvuFeed16 | cvuFeed32 | cvuFold => exact h.doCvuFeed
  | cvuValueWrite => exact h.doCvuValue
  | cvuLoad => exact h.doCvuCfg
  | tlyCountWrite => exact h.doTlyCount
  | tlyAdd => exact h.doTlyAdd
  | tlyCfgWrite => exact h.doTlyCfg
  | tlyWatchRangeWrite => exact h.doTlyWatch
  | opCeilingWrite => exact h.doOpCeiling
  | registerReadClear => exact h.doSetupRead
  | setupWrite => exact h.setupPut
  | referenceReturn => exact h.doRefReturn
  | linkTrained => exact h.doLinkTrained
  | cableMated => exact h.putPort
  | busbarStable => exact h.frame rfl
  | uioWriteCompletion => exact h.doUioCompletion
  | railSwitchOffDone => exact h.doRailOff
  | sideReadyChange => exact h.doSideReady
  | entropyPoolRefill => exact h.doPoolRefill
  | mgmtSessionEnd => exact h.endSession
  | bringupPhaseComplete => exact h.doPhaseComplete
  | configSpaceAccess => exact h.doConfigSpace
  | jtagAccess => exact h.doJtag

theorem Keeps.exec_forms {s t : State} (h : Keeps s t) (i : Instr) : Leads (KeepsForms s) (Machine.exec i t) := by
  by_cases hi : ∃ c bad, i = .fuseWrite c bad
  · obtain ⟨c, bad, rfl⟩ := hi
    exact h.doFuseWrite
  · exact (h.exec i fun c bad e => hi ⟨c, bad, e⟩).imp fun _ h => h.forms

theorem step_keepsForms {s t : State} (e : step s = .next t) : KeepsForms s t := by
  unfold step at e
  split at e
  · cases e
    exact (Keeps.refl s).forms
  · next i rest _ =>
    have hq : Keeps s { s with pending := rest } := (Keeps.refl s).frame rfl
    exact (hq.exec_forms i).of_next e

/-- R5 on every state whose register file is in its form: no step takes the slot clock above the ceiling. -/
theorem step_slotClockOk {s t : State} (hw : Registers.wf s = true) (ok : slotClockOk s) (e : step s = .next t) :
    slotClockOk t := (step_keepsForms e).clock hw ok

/-! ### A register file that lists a key twice -/

/-- In a warm restart whose step W2 is due, with CLK_SLOT_STATUS listed twice: at its reset value and, behind that, with
CURRENT_KHZ all ones. -/
def twiceListed : State :=
  { State.reset with
    regs := [(ClkSlotStatus.key, 0), (ClkSlotStatus.key, 0xFFFFFFFF00000000)]
    bring := { BringUp.init with kind := 2, warmDone := 1 }
    pending := [.bringupPhaseComplete (.warmStep 2 [] [])] }

/-- The same when W2 has begun. -/
def twiceListedW2 : State := { twiceListed with pending := [], bring := { twiceListed.bring with warmDone := 2 } }

theorem slotClockOk_twiceListed : slotClockOk twiceListed := by
  refine ⟨?_, ?_, nofun⟩
  · exact (show rf twiceListed ClkSlotStatus.key ClkSlotStatus.currentKhz = 0 by decide).trans_le (Nat.zero_le _)
  · have hrg : rg twiceListed ClkSlotCfg.key = regReset ClkSlotCfg.key := by
      simp only [rg, twiceListed, smapGet_cons, show ClkSlotStatus.key ≠ ClkSlotCfg.key by decide, if_false]
      rfl
    rw [rf, hrg, khz_regReset]

theorem flushRecords_of_no_rings {s : State} (h : s.rings = []) : flushRecords s = s := by
  have hidle : ∀ p r, (ringOf s p r).done = [] := fun p r => by rw [ringOf, h]; rfl
  have hput : ∀ p r, putRing p r .init s = s := fun p r => by
    have hset : smapSet ringDflt [] (p * 64 + r) CRing.init = [] := by simp [smapSet, smapKeep, ringDflt]
    rw [putRing, h, hset, ← h]
  refine List.foldl_fixed' (fun i => ?_) _
  simp only [hidle, List.length_nil, List.range_zero, List.foldl_nil, hput]

theorem recodeDram_of_no_mem {s : State} (old : Word) (h : s.mem = []) : recodeDram old s = s := by
  have hl : listedWords s = [] := by rw [listedWords, h]; rfl
  unfold recodeDram
  simp only [hl, List.filter_nil, List.foldl_nil, ite_self]

/-- W2 is a warm reset (R485). -/
theorem warmStep_two {sites : List Site} {s : State} (hk : s.bring.kind = 2) (hd : s.bring.warmDone = 1) :
    warmStep 2 [] sites s = warmReset { s with bring := { s.bring with warmDone := 2 } } := by
  simp [warmStep, warmEffect, hk, hd]

theorem step_twiceListed : step twiceListed = .next (warmReset twiceListedW2) := by
  have hstep : step twiceListed = .next (warmStep 2 [] [] { twiceListed with pending := [] }) := rfl
  rw [hstep, warmStep_two rfl rfl]
  rfl

theorem warmReset_twiceListed :
    warmReset twiceListedW2 = capChanged (programReset (unitsReset (resetRegs warmMask twiceListedW2))) := by
  rw [warmReset, flushRecords_of_no_rings rfl, recodeDram_of_no_mem _ rfl]

theorem currentKhz_warmReset_twiceListed :
    rf (warmReset twiceListedW2) ClkSlotStatus.key ClkSlotStatus.currentKhz = 0xFFFFFFFF := by
  have hregs : (resetRegs warmMask twiceListedW2).regs = [(ClkSlotStatus.key, 0xFFFFFFFF00000000)] := by decide
  rw [warmReset_twiceListed, rf, rg, capChanged, rfput, rput, smapGet_smapSet_other _ _ _ _ _ (by decide)]
  change fldGet _ (smapGet regReset (resetRegs warmMask twiceListedW2).regs _) = _
  rw [hregs]
  decide

/-! ### The obligations -/

/-- Settles O3: the register file's form is a part of what every command keeps. -/
theorem stepKeepsRegisterForm : Obligations.StepKeepsRegisterForm := by
  unfold Obligations.StepKeepsRegisterForm
  exact fun _ _ hw e => (step_keepsForms e).registers hw

/-- Settles O4, by evaluation: reset lists nothing. -/
theorem resetIsWellFormed : Obligations.ResetIsWellFormed := by
  unfold Obligations.ResetIsWellFormed
  exact ⟨rfl, rfl, rfl, rfl, fun _ => rfl, fun _ => rfl⟩

/-- Refutes O26: its first clause asks the step of every state, also of those whose register file is not in its one form
(Registers.wf). Where CLK_SLOT_STATUS is listed twice, the warm reset W2 (R485) drops the entry in front, which stands at its
reset value, and the running slot clock is then the one behind it. On every state in form the clause holds
(step_slotClockOk). -/
theorem not_slotClockNeverExceedsCeiling : ¬ Obligations.SlotClockNeverExceedsCeiling := by
  unfold Obligations.SlotClockNeverExceedsCeiling
  rintro ⟨hstep, -⟩
  obtain ⟨hcurrent, -⟩ := hstep twiceListed _ slotClockOk_twiceListed step_twiceListed
  rw [currentKhz_warmReset_twiceListed] at hcurrent
  exact absurd hcurrent slotCeil_lt.not_ge

end Sys2Proof.Proofs
end

section
/-!
PROOFS. The memory: every step keeps its one form (from what every command keeps, above), the laws of a write, what the code
of a word corrects (R32), and that a step of a stage changes no byte but those of the slot that its evaluation stores to.
-/

namespace Sys2Proof.Proofs

open Sys2Proof.Machine Sys2Proof.Laws

/-- Settles O2: the form of the byte memories is a part of what every command keeps. -/
theorem stepKeepsMemoryForm : Obligations.StepKeepsMemoryForm := by
  unfold Obligations.StepKeepsMemoryForm
  exact fun s t hw e => (memory_wf_iff t).2 ((step_keepsForms e).memory ((memory_wf_iff s).1 hw))

/-! ### A write to memory -/

theorem memByte_writeRaw_inside (s : State) (k j : Nat) (bs : List Byte) (h : j < bs.length) :
    memByte (writeRaw k bs s) (k + j) = bs.getD j 0 := by
  rw [memByte_writeRaw, if_pos (by omega), Nat.add_sub_cancel_left]

theorem memByte_writeRaw_outside (s : State) (k a : Nat) (bs : List Byte) (h : a < k ∨ k + bs.length ≤ a) :
    memByte (writeRaw k bs s) a = memByte s a := by
  rw [memByte_writeRaw, if_neg (by omega)]

/-- The words that a write touches lose their error patterns (R572). -/
theorem upset_writeRaw (s : State) (k w : Nat) (bs : List Byte) :
    smapGet upsetDflt (writeRaw k bs s).upset w =
      if k / 8 ≤ w ∧ w < (k + bs.length + 7) / 8 then upsetDflt w else smapGet upsetDflt s.upset w := by
  simp only [writeRaw, smapGet_smapKeep, decide_eq_true_eq]
  by_cases h : k / 8 ≤ w ∧ w < (k + bs.length + 7) / 8
  · rw [if_pos h, if_neg (by omega)]
  · rw [if_neg h, if_pos (by omega)]

/-- Writing bytes leaves every byte outside the words that it touches. -/
theorem memByte_writeBytes_outside (s : State) (k a : Nat) (bs : List Byte)
    (h : a < 8 * (k / 8) ∨ 8 * ((k + bs.length + 7) / 8) ≤ a) : memByte (writeBytes k bs s) a = memByte s a := by
  unfold writeBytes
  extract_lets fix
  have hfix : ∀ w u, a < 8 * w ∨ 8 * w + 8 ≤ a → memByte (fix w u) a = memByte u a := fun w u hw => by
    simp only [fix]
    split
    · exact memByte_writeRaw_outside _ _ _ _ (by rwa [length_bytesLE])
    · rfl
  split
  · rfl
  · rw [memByte_writeRaw_outside _ _ _ _ (by omega), hfix _ _ (by omega), hfix _ _ (by omega)]

/-- Settles O6, by the laws of a write to memory. -/
theorem writeThenRead : Obligations.WriteThenRead := by
  unfold Obligations.WriteThenRead
  exact fun k bs s => ⟨fun j => memByte_writeRaw_inside s k j bs, fun a => memByte_writeRaw_outside s k a bs,
    fun w => upset_writeRaw s k w bs, memory_wf_writeRaw s k bs⟩

/-! ### The code of a memory word (R32) -/

theorem natBit_eq_testBit (v i : Nat) : natBit v i = v.testBit i := by
  rw [natBit, Nat.testBit_eq_decide_div_mod_eq]

theorem natXor_eq_xor (a b : Nat) : Nat.xor a b = a ^^^ b := rfl

theorem bchRem_xor (n a b : Nat) : bchRem n (a ^^^ b) = bchRem n a ^^^ bchRem n b := by
  induction n generalizing a b with
  | zero => rfl
  | succ n ih =>
    simp only [bchRem, natBit_eq_testBit, Nat.testBit_xor]
    cases a.testBit (n + 15) <;> cases b.testBit (n + 15) <;>
      simp [ih, Nat.xor_assoc, Nat.xor_left_comm, Nat.xor_comm]

theorem syndrome_xor (a b : Nat) : syndrome (a ^^^ b) = syndrome a ^^^ syndrome b := bchRem_xor 65 a b

theorem syndrome_zero : syndrome 0 = 0 := by simpa using syndrome_xor 0 0

theorem two_pow_add_eq_xor {i j : Nat} (h : j < i) : 2 ^ i + 2 ^ j = 2 ^ i ^^^ 2 ^ j := by
  have hor : 2 ^ i + 2 ^ j = 2 ^ i ||| 2 ^ j := by
    simpa using Nat.two_pow_add_eq_or_of_lt (Nat.pow_lt_pow_right (by omega : 1 < 2) h) 1
  rw [hor]
  refine Nat.eq_of_testBit_eq fun k => ?_
  rw [Nat.testBit_or, Nat.testBit_xor, Nat.testBit_two_pow, Nat.testBit_two_pow]
  by_cases hi : i = k
  · simp [hi, show j ≠ k by omega]
  · simp [hi]

/-- The sums of at most two of 80 columns, in the order in which the decoder tries them. -/
def columnSums (c : Nat → Nat) : List Nat :=
  0 :: (List.range 80).map c ++ (List.range 80).flatMap fun i => (List.range i).map fun j => c i ^^^ c j

/-- The error patterns of at most two positions. -/
def errorPatterns : List Nat := columnSums (2 ^ ·)

theorem mem_errorPatterns_single {i : Nat} (hi : i < 80) : 2 ^ i ∈ errorPatterns := by
  simp only [errorPatterns, columnSums, List.mem_append, List.mem_cons, List.mem_map, List.mem_range]
  exact .inl (.inr ⟨i, hi, rfl⟩)

theorem mem_errorPatterns_pair {i j : Nat} (hi : i < 80) (hj : j < i) : 2 ^ i + 2 ^ j ∈ errorPatterns := by
  simp only [errorPatterns, columnSums, List.mem_append, List.mem_flatMap, List.mem_map, List.mem_range]
  exact .inr ⟨i, hi, j, hj, (two_pow_add_eq_xor hj).symm⟩

/-- The decoder looks for the first pattern of the syndrome. -/
theorem bchFind_eq_find? (sy : Nat) : bchFind sy = errorPatterns.find? fun e => decide (syndrome e = sy) := by
  unfold bchFind errorPatterns columnSums
  rw [List.cons_append]
  by_cases h0 : sy = 0
  · rw [if_pos h0, List.find?_cons_of_pos (by simp [syndrome_zero, h0])]
  · rw [if_neg h0, List.find?_cons_of_neg (by simpa [syndrome_zero] using Ne.symm h0)]
    simp only [List.find?_append, List.find?_map, List.find?_flatMap, Function.comp_def, syndrome_xor, natXor_eq_xor]
    split
    · next i hi => rw [hi, Option.map_some, Option.some_or]
    · next hn =>
      rw [hn, Option.map_none, Option.none_or]
      refine congrArg (List.findSome? · (List.range 80)) (funext fun i => Option.map_congr fun j hj => ?_)
      exact two_pow_add_eq_xor (List.mem_range.1 (List.mem_of_find?_eq_some hj))

/-- Is no number of a list in the set `seen`, of which bit x stands for x, or before it in the list? One walk decides it, where
Nodup's own decision compares all pairs: five million of the 3,241 syndromes. -/
def distinctFrom (seen : Nat) : List Nat → Bool
  | [] => true
  | x :: xs => !seen.testBit x && withNat (seen ||| 2 ^ x) fun m => distinctFrom m xs

theorem nodup_of_distinctFrom {l : List Nat} {seen : Nat} (h : distinctFrom seen l = true) :
    l.Nodup ∧ ∀ x ∈ l, seen.testBit x = false := by
  induction l generalizing seen with
  | nil => simp
  | cons x xs ih =>
    simp only [distinctFrom, withNat_eq, Bool.and_eq_true, Bool.not_eq_true'] at h
    obtain ⟨hx, hxs⟩ := h
    obtain ⟨hnodup, hnew⟩ := ih hxs
    simp only [Nat.testBit_or, Nat.testBit_two_pow, Bool.or_eq_false_iff, decide_eq_false_iff_not] at hnew
    exact ⟨List.nodup_cons.2 ⟨fun hm => (hnew x hm).2 rfl, hnodup⟩,
      List.forall_mem_cons.2 ⟨hx, fun y hy => (hnew y hy).1⟩⟩

/-- No two error patterns of at most two positions have the same syndrome: the code's distance is at least five. -/
theorem nodup_syndromes : (errorPatterns.map syndrome).Nodup := by
  have hmap : errorPatterns.map syndrome = columnSums fun i => syndrome (2 ^ i) := by
    simp [errorPatterns, columnSums, List.map_flatMap, syndrome_xor, syndrome_zero, Function.comp_def]
  rw [hmap]
  exact (nodup_of_distinctFrom (seen := 0) (by decide +kernel)).1

/-- Where the images of a list differ, an element is found by its image. -/
theorem find?_eq_some_of_nodup_map {g : Nat → Nat} {l : List Nat} (h : (l.map g).Nodup) {e : Nat} (he : e ∈ l) :
    (l.find? fun f => decide (g f = g e)) = some e := by
  obtain ⟨f, hf⟩ := Option.isSome_iff_exists.1
    (List.find?_isSome (p := fun f => decide (g f = g e)).2 ⟨e, he, decide_eq_true rfl⟩)
  have hsame : g f = g e := by simpa using List.find?_some hf
  rw [hf, List.inj_on_of_nodup_map h (List.mem_of_find?_eq_some hf) he hsame]

theorem bchFind_syndrome {e : Nat} (he : e ∈ errorPatterns) : bchFind (syndrome e) = some e :=
  (bchFind_eq_find? _).trans (find?_eq_some_of_nodup_map nodup_syndromes he)

/-- What a read finds under an error of at most two positions, whose bit 15 tells of a wrong address (R32). -/
theorem eccRead_errorPattern {e : Nat} (he : e ∈ errorPatterns) (hlt : e < 2 ^ 80) (h0 : e ≠ 0) :
    eccRead (BitVec.ofNat 80 e) = if e.testBit 15 then none else some (0, true) := by
  have hn : (BitVec.ofNat 80 e).toNat = e := by rw [BitVec.toNat_ofNat, Nat.mod_eq_of_lt hlt]
  have hne : BitVec.ofNat 80 e ≠ 0 := fun h => h0 (by rw [← hn, h]; rfl)
  rw [eccRead, if_neg hne, hn]
  simp [bchFind_syndrome he, natBit_eq_testBit, h0]

theorem eccRead_single {i : Nat} (hi : i < 80) :
    eccRead (BitVec.ofNat 80 (2 ^ i)) = if i = 15 then none else some (0, true) := by
  rw [eccRead_errorPattern (mem_errorPatterns_single hi) (Nat.pow_lt_pow_right (by omega) hi) (Nat.two_pow_pos i).ne',
    Nat.testBit_two_pow]
  simp

theorem eccRead_pair {i j : Nat} (hi : i < 80) (hj : j < 80) (h : i ≠ j) :
    eccRead (BitVec.ofNat 80 (2 ^ i + 2 ^ j)) = if i = 15 ∨ j = 15 then none else some (0, true) := by
  wlog hji : j < i generalizing i j
  · rw [Nat.add_comm, this hj hi h.symm (by omega)]
    exact if_congr Or.comm rfl rfl
  have hlt : 2 ^ i + 2 ^ j < 2 ^ 80 := by
    rw [two_pow_add_eq_xor hji]
    exact Nat.xor_lt_two_pow (Nat.pow_lt_pow_right (by omega) hi) (Nat.pow_lt_pow_right (by omega) hj)
  have hpos : 2 ^ i + 2 ^ j ≠ 0 := (Nat.add_pos_left (Nat.two_pow_pos i) _).ne'
  rw [eccRead_errorPattern (mem_errorPatterns_pair hi hji) hlt hpos, two_pow_add_eq_xor hji, Nat.testBit_xor,
    Nat.testBit_two_pow, Nat.testBit_two_pow]
  by_cases h1 : i = 15
  · simp [h1, show j ≠ 15 by omega]
  · simp [h1]

/-- Settles O7: the syndromes of the errors of at most two positions differ, so the decoder finds the very error. -/
theorem codeCorrectsTwoErrors : Obligations.CodeCorrectsTwoErrors := by
  unfold Obligations.CodeCorrectsTwoErrors
  refine ⟨fun i j hi hj hi15 hj15 => ⟨?_, fun hij => ?_⟩, ?_, fun i hi hi15 => ?_⟩
  · rw [eccRead_single hi, if_neg hi15]
  · rw [eccRead_pair hi hj hij, if_neg (by omega)]
  · rw [eccRead_single (by omega), if_pos rfl]
  · rw [eccRead_pair (by omega) hi (Ne.symm hi15), if_pos (.inl rfl)]

/-! ### What a step of a stage stores (R81, R129) -/

/-- Memory byte a reads in t as in s. -/
def KeepsByte (a : Nat) (s t : State) : Prop := memByte t a = memByte s a

/-- The slot that the result of a step stores to does not hold byte a. -/
def StoresElsewhere (a : Nat) (l : Loc) (r : StepRes) : Prop :=
  ∀ n ws, r.store = some (n, ws) → a < sramKey l.p l.a (64 * n) ∨ sramKey l.p l.a (64 * n) + 64 ≤ a

namespace KeepsByte

variable {a : Nat} {s t u : State}

theorem refl (a : Nat) (s : State) : KeepsByte a s s := rfl

/-- A change outside the memory. -/
theorem frame (h : KeepsByte a s t) (e : u.mem = t.mem) : KeepsByte a s u := (congrArg (smapGet memDflt · a) e).trans h

theorem rput {k : Nat} {w : Word} (h : KeepsByte a s t) : KeepsByte a s (Machine.rput k w t) := h.frame (rput_mem _ _ _)

theorem rfput {k v : Nat} {f : Fld} (h : KeepsByte a s t) : KeepsByte a s (Machine.rfput k f v t) :=
  h.frame (rfput_mem _ _ _ _)

theorem rfsat {k n : Nat} {f : Fld} (h : KeepsByte a s t) : KeepsByte a s (Machine.rfsat k f n t) :=
  h.frame (rfsat_mem _ _ _ _)

theorem rfadd {k n : Nat} {f : Fld} (h : KeepsByte a s t) : KeepsByte a s (Machine.rfadd k f n t) :=
  h.frame (rfadd_mem _ _ _ _)

theorem putStage {k : Nat} {v : Stage} (h : KeepsByte a s t) : KeepsByte a s (Machine.putStage k v t) :=
  h.frame (putStage_mem _ _ _)

theorem putArr {k : Nat} {v : CArray} (h : KeepsByte a s t) : KeepsByte a s (Machine.putArr k v t) :=
  h.frame (putArr_mem _ _ _)

theorem putStand {k : Nat} {v : Stand} (h : KeepsByte a s t) : KeepsByte a s (Machine.putStand k v t) :=
  h.frame (putStand_mem _ _ _)

theorem setTag {k : Nat} {b : Bool} (h : KeepsByte a s t) : KeepsByte a s (Machine.setTag k b t) :=
  h.frame (setTag_mem _ _ _)

theorem dropWait {w : Waiter} (h : KeepsByte a s t) : KeepsByte a s (Machine.dropWait w t) := h.frame (dropWait_mem _ _)

theorem taint {st : Status} {w : Word} (h : KeepsByte a s t) : KeepsByte a s (Machine.taint st w t) := h.frame rfl

theorem touchCore {p b n : Nat} (h : KeepsByte a s t) : KeepsByte a s (Machine.touchCore p b n t) := h.putArr

theorem report {st : Status} {b : Bool} {src : Nat} {loc w : Word} {data : List Byte} (h : KeepsByte a s t) :
    KeepsByte a s (Machine.report st b src loc w data t) := h.frame (report_mem _ _ _ _ _ _ _)

theorem obWrite {l : Loc} {lane b : Nat} {bs : List Byte} (h : KeepsByte a s t) :
    KeepsByte a s (Machine.obWrite l lane b bs t) := by
  induction bs generalizing b t with
  | nil => exact h
  | cons v vs ih => exact ih (h.frame rfl)

theorem ite {c : Prop} {_ : Decidable c} (h : KeepsByte a s t) (k : KeepsByte a s u) :
    KeepsByte a s (if c then t else u) := by
  split
  · exact h
  · exact k

theorem foldl {α : Type} {f : State → α → State} {xs : List α} (h : KeepsByte a s t)
    (hf : ∀ u x, KeepsByte a s u → KeepsByte a s (f u x)) : KeepsByte a s (xs.foldl f t) := by
  induction xs generalizing t with
  | nil => exact h
  | cons x xs ih => exact ih (hf t x h)

/-- A slot begins and ends on a word, so its write merges no word beyond it. -/
theorem writeSlot {p arr n : Nat} {v : Vec} (h : KeepsByte a s t)
    (ha : a < sramKey p arr (64 * n) ∨ sramKey p arr (64 * n) + 64 ≤ a) :
    KeepsByte a s (writeBytes (sramKey p arr (64 * n)) (vecBytes v) t) := by
  have hlen : (vecBytes v).length = 64 := length_bytesLE 64 _
  refine (memByte_writeBytes_outside _ _ _ _ ?_).trans h
  rw [hlen]
  unfold sramKey at ha ⊢
  omega

theorem traceVec {l : Loc} {v : Vec} (h : KeepsByte a s t) : KeepsByte a s (Machine.traceVec l v t) := .ite h.putArr h

theorem writeDst {l : Loc} {e : Entry} {r : StepRes} (h : KeepsByte a s t) : KeepsByte a s (Machine.writeDst l e r t) := by
  unfold Machine.writeDst
  split
  · exact h
  · exact .ite h.putStage (.ite (.foldl h fun _ _ h => h.obWrite) (.ite h.rfadd.putArr.traceVec h))

theorem commitStage {l : Loc} {r : StepRes} (h : KeepsByte a s t) : KeepsByte a s (Machine.commitStage l r t) := by
  unfold Machine.commitStage
  extract_lets _ _ _ s1 kf s2 s3 s4 s5 _ s6 _
  have h1 : KeepsByte a s s1 := h.putStage
  have h2 : KeepsByte a s s2 := .ite h1.rput h1
  have h3 : KeepsByte a s s3 := h2.rput
  have h4 : KeepsByte a s s4 := .ite h3 h3.rfadd
  have h5 : KeepsByte a s s5 := .ite h4 h4.rfput
  have h6 : KeepsByte a s s6 := .ite h5 h5.putStand
  exact h6.putArr

theorem commitStore {l : Loc} {r : StepRes} (h : KeepsByte a s t) (ha : StoresElsewhere a l r) :
    KeepsByte a s (Machine.commitStore l r t) := by
  unfold Machine.commitStore
  extract_lets _ s1 s2 s3 s4 s5
  have h1 : KeepsByte a s s1 := .ite h.putStage h
  have h2 : KeepsByte a s s2 := by
    unfold s2
    split
    · exact h1.setTag
    · exact h1
  have h3 : KeepsByte a s s3 := .ite h2 h2.rfsat
  have h4 : KeepsByte a s s4 := .foldl h3 fun _ _ h => h.report
  have h5 : KeepsByte a s s5 := .ite h4.dropWait h4
  split
  · next n ws e => exact (h5.writeSlot (ha n ws e)).setTag.touchCore.traceVec
  · exact h5

theorem advCounter {p b n c : Nat} {bi : List (BitVec 16)} {em : List (Nat × Nat)}
    {x : List (BitVec 16) × List (Nat × Nat) × State} (h : KeepsByte a s t)
    (e : Machine.advCounter p b n c bi em t = .ok x) : KeepsByte a s x.2.2 := by
  induction n generalizing c bi em t with
  | zero =>
    obtain rfl := Except.ok.inj e
    exact h
  | succ n ih =>
    unfold Machine.advCounter at e
    extract_lets cfg lp ks kt fromBaton needs at e
    clear_value needs
    split at e
    · cases e
    · split at e
      next bi' w0 hstart =>
        have h0 : KeepsByte a s w0 := by
          split at hstart
          · obtain ⟨-, rfl⟩ := Prod.mk.inj hstart
            exact h.rfput.rfput
          · obtain ⟨-, rfl⟩ := Prod.mk.inj hstart
            exact h
        extract_lets w1 _ _ w2 w3 w4 w5 at e
        have h2 : KeepsByte a s w2 := h0.rfput.rfadd.rfadd
        have h4 : KeepsByte a s w4 := .ite h2.rfadd.rfput.rfput.rfput h2.rfadd.rfput.rfput
        split at e
        · split at e
          · exact ih h4 e
          · obtain rfl := Except.ok.inj e
            exact h4
        · obtain rfl := Except.ok.inj e
          exact h2.rfput

theorem advCounters {p b : Nat} {cs : List Nat} {bi : List (BitVec 16)} {em : List (Nat × Nat)}
    {x : List (BitVec 16) × List (Nat × Nat) × State} (h : KeepsByte a s t)
    (e : Machine.advCounters p b cs bi em t = .ok x) : KeepsByte a s x.2.2 := by
  induction cs generalizing bi em t with
  | nil =>
    obtain rfl := Except.ok.inj e
    exact h
  | cons c cs ih =>
    rw [Machine.advCounters] at e
    split at e
    · cases e
    · next e' => exact ih (h.advCounter e') e

theorem pushBatons {p b : Nat} {em snd : List (Nat × Nat)} (h : KeepsByte a s t) :
    KeepsByte a s (Machine.pushBatons p b em snd t) := h.putArr.rfadd

theorem stepOn {l : Loc} {e : Entry} (h : KeepsByte a s t) : KeepsByte a s (Machine.stepOn l e t) :=
  .ite h.rfput.rfput.rfput h.rfput.rfput.rfput.rfput

theorem commitStep {l : Loc} {e : Entry} {r : StepRes} (hc : Machine.commitStep l e r s = .ok t)
    (ha : StoresElsewhere a l r) : KeepsByte a s t := by
  unfold Machine.commitStep at hc
  extract_lets _ _ _ s1 _ at hc
  have hs1 : KeepsByte a s s1 := (KeepsByte.refl a s).writeDst.commitStage.commitStore ha
  -- Hold slots owed, another stage's turn, a full route-out latch and a missing baton block the step.
  iterate 4
    split at hc
    · cases hc
  split at hc
  · cases hc
  next bi em s2 hadv =>
    have hs2 : KeepsByte a s s2 := hs1.advCounters hadv
    split at hc
    · cases hc
    extract_lets _ s3 s4 _ s5 at hc
    have hs4 : KeepsByte a s s4 := hs2.putArr.pushBatons
    have hs5 : KeepsByte a s s5 := by
      unfold s5
      split
      · exact hs4.putStage
      · exact hs4
    obtain rfl := Except.ok.inj hc
    exact hs5.stepOn

theorem stageWaits {l : Loc} {cause : Nat} {ctr : Option Nat} (h : KeepsByte a s t) :
    KeepsByte a s (Machine.stageWaits l cause ctr t) := by
  unfold Machine.stageWaits
  extract_lets _ s1
  have h1 : KeepsByte a s s1 := h.rfput.rfput
  split
  · exact h1.rfput
  · exact h1

theorem stageStops {l : Loc} {st : Status} {lanes : BitVec 16} {data : List Byte} (h : KeepsByte a s t) :
    KeepsByte a s (Machine.stageStops l st lanes data t) := by
  unfold Machine.stageStops
  extract_lets _ s1 s2 _ s3 _ s4 _ _ s5 _ s6
  have h2 : KeepsByte a s s2 := h.rfput.rfput.rfput.rfput.rfput.rfput
  have h3 : KeepsByte a s s3 := .ite h2.rfput.rfput h2
  have h4 : KeepsByte a s s4 := .ite h3.rfput.rfput.rfput.rfput.rfput h3
  have h5 : KeepsByte a s s5 := .ite h4.taint h4
  have h6 : KeepsByte a s s6 := h5.putStage
  exact h6.report

theorem stageReplays {l : Loc} {lanes : BitVec 16} (h : KeepsByte a s t) :
    KeepsByte a s (Machine.stageReplays l lanes t) := .ite h.stageStops h.putStage

theorem stageUncorrectable {l : Loc} {key : Nat} (h : KeepsByte a s t) :
    KeepsByte a s (Machine.stageUncorrectable l key t) :=
  .ite h (.report (.taint (.ite h.rfput.rfput h.rfput.rfput.rfput.rfput)))

/-- A step changes no byte but those of the slot that its evaluation stores to (R81, R129). -/
theorem runStep {l : Loc} {e : Entry} {f : Loc → Entry → State → StepEnd}
    (ha : ∀ r, f l e s = .commit r → StoresElsewhere a l r) : KeepsByte a s (Machine.runStep l e f s) := by
  unfold Machine.runStep
  have h := KeepsByte.refl a s
  split
  · exact h
  · split
    · next r hr =>
      split
      · next hc => exact commitStep hc (ha r hr)
      · exact h.stageWaits
      · exact h
      · exact h
    · exact h.stageWaits
    · exact h.stageStops
    · exact h.stageReplays
    · exact h.stageUncorrectable

end KeepsByte

/-- A row of a stage operation changes no byte but those of the slot that its evaluation stores to. -/
theorem stageOp_keepsByte {a : Nat} {n : StageLoc} {l : Loc} {e : Entry} {f : Loc → Entry → State → StepEnd} {s t : State}
    (hl : locOf s n = some l) (ht : Host.Outcome.next (stageOp n e f s) = (.next t : Host.Outcome State Fault Refusal))
    (ha : ∀ m ws r, f l e s = .commit r → r.store = some (m, ws) →
      a < sramKey l.p l.a (64 * m) ∨ sramKey l.p l.a (64 * m) + 64 ≤ a) : memByte t a = memByte s a := by
  obtain rfl := Host.Outcome.next.inj ht
  rw [stageOp, hl]
  exact KeepsByte.runStep fun r hr m ws => ha m ws r hr

/-- Settles O11: each of the three rows is a step of its evaluation. -/
theorem coreStoreStaysInItsSlot : Obligations.CoreStoreStaysInItsSlot := by
  unfold Obligations.CoreStoreStaysInItsSlot
  exact fun n e l s t hl => ⟨fun ht a => stageOp_keepsByte hl ht, fun ht a => stageOp_keepsByte hl ht,
    fun ht a => stageOp_keepsByte hl ht⟩

end Sys2Proof.Proofs
end

section
/-!
PROOFS. Number formats and arithmetic: exact accumulators that one ANCHOR feeds merge in any order (R64), and what becomes
of a NaN in a conversion, in the arithmetic operations and in the approximations (R55).
-/

namespace Sys2Proof.Proofs

open Sys2Proof.Machine

/-! ### Merging accumulators (R64) -/

@[simp] theorem merge_exact (a b : BitVec 128) (c c' : BitVec 25) (n n' p p' m m' r r' t t' : Bool) (k k' : BitVec 9) :
    Acc.merge (.exact a c n p m r t k) (.exact b c' n' p' m' r' t' k') =
      .exact (a + b) (c + c') (n || n') (p || p') (m || m') (r || r') (t || t') k := rfl

@[simp] theorem merge_empty_left (x : Acc) : Acc.merge .empty x = x := rfl

@[simp] theorem merge_empty_right (x : Acc) : Acc.merge x .empty = x := by
  cases x <;> rfl

theorem merge_exact_comm (a b : BitVec 128) (c c' : BitVec 25) (n n' p p' m m' r r' t t' : Bool) (k : BitVec 9) :
    Acc.merge (.exact a c n p m r t k) (.exact b c' n' p' m' r' t' k) =
      Acc.merge (.exact b c' n' p' m' r' t' k) (.exact a c n p m r t k) := by
  simp only [merge_exact, BitVec.add_comm, Bool.or_comm]

/-- The anchor of the first part stands throughout, so the three anchors need not agree here. -/
theorem merge_exact_assoc (a b d : BitVec 128) (c c' c'' : BitVec 25)
    (n n' n'' p p' p'' m m' m'' r r' r'' t t' t'' : Bool) (k k' k'' : BitVec 9) :
    Acc.merge (Acc.merge (.exact a c n p m r t k) (.exact b c' n' p' m' r' t' k')) (.exact d c'' n'' p'' m'' r'' t'' k'') =
      Acc.merge (.exact a c n p m r t k)
        (Acc.merge (.exact b c' n' p' m' r' t' k') (.exact d c'' n'' p'' m'' r'' t'' k'')) := by
  simp only [merge_exact, BitVec.add_assoc, Bool.or_assoc]

/-- Settles O13: a merge adds and ORs field by field, and both are commutative and associative. -/
theorem exactAccumulatorsCommute : Obligations.ExactAccumulatorsCommute := by
  unfold Obligations.ExactAccumulatorsCommute
  intros
  exact ⟨merge_exact_comm .., merge_exact_assoc .., merge_empty_left _, merge_empty_right _⟩

/-! ### NaNs (R55) -/

theorem isNan_iff (v : FVal) : v.isNan = true ↔ ∃ s, v = .nan s := by
  cases v <;> simp [FVal.isNan]

/-- A NaN becomes the canonical NaN of any floating-point format that has one, whatever the rounding mode and SAT (R56). -/
theorem convert_of_isNan {f : Nat} {g : FloatFmt} {v : FVal} (hf : floatFmtOf f = some g) (hg : g.sp ≠ .none)
    (hv : v.isNan = true) (rm r : Nat) (sat : Bool) : (convert f rm sat v r).1 = encodeNan g := by
  obtain ⟨s, rfl⟩ := (isNan_iff v).1 hv
  simp only [convert, hf]

@[simp] theorem isNan_fvNeg (a : FVal) : (fvNeg a).isNan = a.isNan := by
  cases a <;> rfl

@[simp] theorem isNan_fvAbs (a : FVal) : (fvAbs a).isNan = a.isNan := by
  cases a <;> rfl

theorem isNan_fvAdd (rm : Nat) {a b : FVal} (h : a.isNan = true ∨ b.isNan = true) : (fvAdd rm a b).1.isNan = true := by
  obtain h | h := h <;> obtain ⟨s, rfl⟩ := (isNan_iff _).1 h
  · rfl
  · cases a <;> rfl

theorem isNan_opSub (rm : Nat) {a b : FVal} (h : a.isNan = true ∨ b.isNan = true) : (opSub rm a b).1.isNan = true :=
  isNan_fvAdd rm (by rwa [isNan_fvNeg])

theorem isNan_fvMul {a b : FVal} (h : a.isNan = true ∨ b.isNan = true) : (fvMul a b).1.isNan = true := by
  obtain h | h := h <;> obtain ⟨s, rfl⟩ := (isNan_iff _).1 h
  · rfl
  · cases a <;> rfl

/-- The value of a fused multiply-add is the sum of the product, before any rounding, and the addend (R54). -/
theorem fvFma_fst (rm : Nat) (a b c : FVal) : (fvFma rm a b c).1 = (fvAdd rm (fvMul a b).1 c).1 := rfl

theorem isNan_fvFma_of_factor (rm : Nat) {a b : FVal} (c : FVal) (h : a.isNan = true ∨ b.isNan = true) :
    (fvFma rm a b c).1.isNan = true := by
  rw [fvFma_fst]
  exact isNan_fvAdd rm (.inl (isNan_fvMul h))

theorem isNan_fvFma_of_addend (rm : Nat) (a b : FVal) {c : FVal} (h : c.isNan = true) :
    (fvFma rm a b c).1.isNan = true := by
  rw [fvFma_fst]
  exact isNan_fvAdd rm (.inr h)

theorem isNan_fvMinMax (big : Bool) {a b : FVal} (h : a.isNan = true ∨ b.isNan = true) :
    (fvMinMax big a b).1.isNan = true := by
  rw [fvMinMax, if_pos (by rwa [Bool.or_eq_true])]
  rfl

/-- A scaling keeps every NaN, a signalling one too: only the finite values move (R120). -/
theorem fvScale_of_isNan {a : FVal} (h : a.isNan = true) (n : Int) : fvScale a n = a := by
  obtain ⟨s, rfl⟩ := (isNan_iff a).1 h
  rfl

/-- Each approximation, and each code that names none, answers a NaN with FP32's canonical NaN (R70). -/
theorem approxFP32_of_isNan (op : Nat) {a : FVal} (h : a.isNan = true) (w : Lane) :
    (approxFP32 op a w).1 = 0x7FC00000 := by
  obtain ⟨s, rfl⟩ := (isNan_iff a).1 h
  simp only [approxFP32]

/-- Settles O14: the canonical NaN of each format, and a NaN operand through each operation. -/
theorem canonicalNaNs : Obligations.CanonicalNaNs := by
  unfold Obligations.CanonicalNaNs
  refine ⟨fun v rm r sat h => ?_, fun rm big a b c h => ?_, fun rm a b c h => isNan_fvFma_of_addend rm a b h,
    fun op n w a h => ?_⟩
  · exact ⟨convert_of_isNan (g := fmtFP32) rfl (by decide) h .., convert_of_isNan (g := fmtBF16) rfl (by decide) h ..,
      convert_of_isNan (g := fmtFP16) rfl (by decide) h .., convert_of_isNan (g := fmtE5M2) rfl (by decide) h ..,
      convert_of_isNan (g := fmtE4M3) rfl (by decide) h ..⟩
  · exact ⟨isNan_fvAdd rm h, isNan_opSub rm h, isNan_fvMul h, isNan_fvFma_of_factor rm c h, isNan_fvMinMax big h⟩
  · exact ⟨by rwa [isNan_fvAbs], by rwa [isNan_fvNeg], by rwa [fvScale_of_isNan h], approxFP32_of_isNan op h w⟩

end Sys2Proof.Proofs
end

section
/-!
PROOFS. The step of a stage (R81): what a step that completes leaves in the stages, and that a step which waits, replays or
stops commits nothing. A rule per state operation comes first; then the lemmas about the model's functions, each said once.
-/

namespace Sys2Proof.Proofs

open Sys2Proof.Machine Sys2Proof.Laws

/-! ### Registers of an array -/

theorem standKey_ne_of_off {p c a o o' : Nat} (h : o % 4096 ≠ o' % 4096) : standKey p c a o ≠ standKey p c a o' := by
  unfold standKey
  omega

/-- The registers of the stands lie above those of the ring (R40). -/
theorem standKey_ne_portCount (p c a o q : Nat) : standKey p c a o ≠ IorPortCount.key q := by
  unfold standKey IorPortCount.key ringKey
  omega

/-- A report writes no register of a stand. -/
theorem rg_report_standKey (st : Status) (b : Bool) (src : Nat) (loc w : Word) (data : List Byte) (p c a o : Nat) (s : State) :
    rg (report st b src loc w data s) (standKey p c a o) = rg s (standKey p c a o) :=
  rg_report _ _ _ _ _ _ _ _ fun _ _ => standKey_ne_portCount _ _ _ _ _

/-- A stage is one of the eight of its array. -/
theorem locOf_st_lt {n : StageLoc} {l : Loc} {s : State} (h : locOf s n = some l) : l.st < 8 := by
  obtain ⟨p, -, rfl⟩ := Option.map_eq_some_iff.1 h
  exact n.stage.isLt

/-! ### A step that does not complete -/

/-- What the effects of a step write in a stage (R81). -/
def held (t : Stage) : List Acc × BitVec 16 × Vec × List SparseLane × Option Vec :=
  (t.acc, t.pred, t.latch, t.sparse, t.half)

/-- From s to t no effect of a step has been committed (R81), and the array's register at offset o reads as before. -/
structure Uncommitted (p a o : Nat) (s t : State) : Prop where
  reg : rg t (standKey p 15 a o) = rg s (standKey p 15 a o)
  stages : ∀ k, held (stageOf t k) = held (stageOf s k)
  stores : (t.ob, t.mem, t.tags) = (s.ob, s.mem, s.tags)

namespace Uncommitted

variable {p a o : Nat} {s t u : State}

theorem refl (s : State) : Uncommitted p a o s s := ⟨rfl, fun _ => rfl, rfl⟩

theorem trans (h : Uncommitted p a o s t) (k : Uncommitted p a o t u) : Uncommitted p a o s u :=
  ⟨k.reg.trans h.reg, fun j => (k.stages j).trans (h.stages j), k.stores.trans h.stores⟩

theorem rput {o' : Nat} {w : Word} (h : Uncommitted p a o s t) (ho : o % 4096 ≠ o' % 4096) :
    Uncommitted p a o s (Machine.rput (standKey p 15 a o') w t) := by
  refine ⟨?_, fun k => ?_, ?_⟩
  · rw [rg_rput, if_neg (standKey_ne_of_off ho)]
    exact h.reg
  · rw [rput_stageOf]
    exact h.stages k
  · rw [rput_ob, rput_mem, rput_tags]
    exact h.stores

theorem rfput {o' v : Nat} {f : Fld} (h : Uncommitted p a o s t) (ho : o % 4096 ≠ o' % 4096) :
    Uncommitted p a o s (Machine.rfput (standKey p 15 a o') f v t) := h.rput ho

theorem putStage {k : Nat} {v : Stage} (h : Uncommitted p a o s t) (hv : held v = held (stageOf t k)) :
    Uncommitted p a o s (Machine.putStage k v t) := by
  refine ⟨h.reg, fun j => ?_, h.stores⟩
  rw [← h.stages j, stageOf_putStage]
  split
  · next e => rw [hv, e]
  · rfl

theorem taint {st : Status} {w : Word} (h : Uncommitted p a o s t) : Uncommitted p a o s (Machine.taint st w t) :=
  ⟨h.reg, h.stages, h.stores⟩

theorem report {st : Status} {b : Bool} {src : Nat} {loc w : Word} {data : List Byte} (h : Uncommitted p a o s t) :
    Uncommitted p a o s (Machine.report st b src loc w data t) where
  reg := (rg_report_standKey _ _ _ _ _ _ _ _ _ _ _).trans h.reg
  stages k := by
    rw [stageOf, report_stages]
    exact h.stages k
  stores := by
    rw [report_ob, report_mem, report_tags]
    exact h.stores

theorem ite {c : Prop} {_ : Decidable c} (h : c → Uncommitted p a o s t) (k : Uncommitted p a o s u) :
    Uncommitted p a o s (if c then t else u) := by
  split
  · next hc => exact h hc
  · exact k

end Uncommitted

section
variable {l : Loc} {o : Nat} {s : State}

/-- A wait is recorded in the stage's status and the counter's (R87, R158). -/
theorem uncommitted_stageWaits {cause : Nat} {ctr : Option Nat} (hst : l.st < 8) (ho : o < 0x480)
    (hc : ∀ c, ctr = some c → c < 6) : Uncommitted l.p l.a o s (stageWaits l cause ctr s) := by
  unfold stageWaits
  extract_lets k s1
  have h1 : Uncommitted l.p l.a o s s1 := ((Uncommitted.refl s).rfput (by omega)).rfput (by omega)
  split
  · next c =>
    have := hc c rfl
    exact h1.rfput (by omega)
  · exact h1

/-- A stop is recorded in the status of the stage and of the array (R89). -/
def stopRecorded (l : Loc) (st : Status) (lanes : BitVec 16) (s : State) : State :=
  let s1 := rfput (CaStageStatus.key l.p l.a l.st) CaStageStatus.stopCode st.toNat
    (rfput (CaStageStatus.key l.p l.a l.st) CaStageStatus.lanes lanes.toNat
      (rfput (CaStageStatus.key l.p l.a l.st) CaStageStatus.waitCause 0
        (rfput (CaStageStatus.key l.p l.a l.st) CaStageStatus.state 3 s)))
  rfput (CaStatus.key l.p l.a) CaStatus.stoppedStages (rf s1 (CaStatus.key l.p l.a) CaStatus.stoppedStages + 1)
    (rfput (CaStatus.key l.p l.a) CaStatus.arrayState 4 s1)

/-- Beside these, a stop writes CA_SPARSE and, for the accumulator limit, the stage's flags (R89). -/
theorem uncommitted_stageStops_of_recorded {st : Status} {lanes : BitVec 16} {data : List Byte}
    (ho : o % 4096 ≠ 0x5B8) (hf : st = stAccLimit → o % 4096 ≠ (0x400 + 8 * l.st) % 4096) :
    Uncommitted l.p l.a o (stopRecorded l st lanes s) (stageStops l st lanes data s) := by
  unfold stageStops
  extract_lets _ s1 s2 _ s3 _ s4 _ _ s5 _ s6
  have h2 : Uncommitted l.p l.a o s2 s2 := .refl s2
  have h3 : Uncommitted l.p l.a o s2 s3 := .ite (fun e => (h2.rfput (hf e)).rfput (hf e)) h2
  have h4 : Uncommitted l.p l.a o s2 s4 :=
    .ite (fun _ => ((((h3.rfput ho).rfput ho).rfput ho).rfput ho).rfput ho) h3
  have h5 : Uncommitted l.p l.a o s2 s5 := .ite (fun _ => h4.taint) h4
  have h6 : Uncommitted l.p l.a o s2 s6 := h5.putStage rfl
  exact h6.report

theorem uncommitted_stageStops {st : Status} {lanes : BitVec 16} {data : List Byte} (hst : l.st < 8) (ho : o < 0x480)
    (hf : st = stAccLimit → o % 4096 ≠ (0x400 + 8 * l.st) % 4096) :
    Uncommitted l.p l.a o s (stageStops l st lanes data s) := by
  have h1 : Uncommitted l.p l.a o s (stopRecorded l st lanes s) :=
    ((((((Uncommitted.refl s).rfput (by omega)).rfput (by omega)).rfput (by omega)).rfput (by omega)).rfput
      (by omega)).rfput (by omega)
  exact h1.trans (uncommitted_stageStops_of_recorded (by omega) hf)

/-- The third parity failure stops the stage, with another status than the accumulator limit's (R90). -/
theorem uncommitted_stageReplays {lanes : BitVec 16} (hst : l.st < 8) (ho : o < 0x480) :
    Uncommitted l.p l.a o s (stageReplays l lanes s) := by
  unfold stageReplays
  refine .ite (fun _ => uncommitted_stageStops hst ho fun e => absurd e (by decide)) ?_
  exact (Uncommitted.refl s).putStage rfl

theorem uncommitted_stageUncorrectable {key : Nat} (hst : l.st < 8) (ho : o < 0x480) :
    Uncommitted l.p l.a o s (stageUncorrectable l key s) := by
  unfold stageUncorrectable
  extract_lets _ _ s1 _ s2
  have h1 : Uncommitted l.p l.a o s s1 := ((Uncommitted.refl s).rfput (by omega)).rfput (by omega)
  have h2 : Uncommitted l.p l.a o s s2 := .ite (fun _ => h1) ((h1.rfput (by omega)).rfput (by omega))
  exact .ite (fun _ => .refl s) h2.taint.report

end

/-! ### A step that completes -/

/-- The stage of a step that has completed, but for its latch (R81). -/
def committed (r : StepRes) (t : Stage) : Stage :=
  { t with
    acc := r.acc.getD t.acc, pred := r.pred.getD t.pred, sparse := r.sparse.getD t.sparse, half := r.half.getD t.half
    left := 0, late := 0, attempts := 0, done := true, srHeld := none }

/-- A latch written anew, with its FRESH bit. -/
def latched (v : Vec) (t : Stage) : Stage := { t with latch := v, fresh := true, wrote := true }

/-- What FWD passes downstream (R93). -/
def forwards (l : Loc) (r : StepRes) (s : State) : State :=
  match r.fwd with
  | some ws => putStage l.key (latched (ofLanes ws) (stageOf s l.key)) s
  | none => s

/-- A step that completes writes its destination, its stage and core memory, and then moves its counters, its batons, the
latch that FWD fills and its place in the op-program (R81, R93, R142). -/
theorem commitStep_ok {l : Loc} {e : Entry} {r : StepRes} {s t : State} (h : commitStep l e r s = .ok t) :
    ∃ bi bi' em snd u,
      advCounters l.p l.a (stepAdvances s l e r) bi [] (commitStore l r (commitStage l r (writeDst l e r s))) =
        .ok (bi', em, u) ∧
      t = stepOn l e (forwards l r (pushBatons l.p l.a em snd (putArr l.arr { arrOf u l.arr with btnIn := bi' } u))) := by
  unfold commitStep at h
  extract_lets _ _ _ s1 _ at h
  -- Hold slots owed, another stage's turn, a full route-out latch and a missing baton block the step.
  iterate 4
    split at h
    · cases h
  split at h
  · cases h
  next hadv =>
    split at h
    · cases h
    obtain rfl := Except.ok.inj h
    exact ⟨_, _, _, _, _, hadv, rfl⟩

/-- t is s but for its registers. -/
def RegsOnly (s t : State) : Prop := ∃ g, t = { s with regs := g }

namespace RegsOnly

variable {s t u : State}

theorem refl (s : State) : RegsOnly s s := ⟨_, rfl⟩

theorem trans (h : RegsOnly s t) (k : RegsOnly t u) : RegsOnly s u := by
  obtain ⟨g, rfl⟩ := h
  obtain ⟨g', rfl⟩ := k
  exact ⟨g', rfl⟩

theorem rfput {k v : Nat} {f : Fld} (h : RegsOnly s t) : RegsOnly s (Machine.rfput k f v t) := h.trans ⟨_, rfl⟩

theorem rfadd {k v : Nat} {f : Fld} (h : RegsOnly s t) : RegsOnly s (Machine.rfadd k f v t) := h.rfput

theorem ite {c : Prop} {_ : Decidable c} (h : RegsOnly s t) (k : RegsOnly s u) : RegsOnly s (if c then t else u) := by
  split
  · exact h
  · exact k

theorem stages (h : RegsOnly s t) : t.stages = s.stages := by
  obtain ⟨g, rfl⟩ := h
  rfl

end RegsOnly

/-- How advances that begin with those of some counters end: with the registers changed alone, or at one of these counters or
at a parent among the array's six, whose bound has not come (R139, R158). -/
def AdvEnds (cs : List Nat) (s : State) : Except Nat (List (BitVec 16) × List (Nat × Nat) × State) → Prop
  | .ok x => RegsOnly s x.2.2
  | .error d => d ∈ cs ∨ d < 6

theorem AdvEnds.imp {cs cs' : List Nat} {s : State} {x : Except Nat (List (BitVec 16) × List (Nat × Nat) × State)}
    (h : AdvEnds cs s x) (k : ∀ d ∈ cs, d ∈ cs' ∨ d < 6) : AdvEnds cs' s x := by
  rcases x with d | x
  · exact h.elim (k d) .inr
  · exact h

theorem advEnds_advCounter {p a n c : Nat} {bi : List (BitVec 16)} {em : List (Nat × Nat)} {s t : State}
    (h : RegsOnly s t) : AdvEnds [c] s (advCounter p a n c bi em t) := by
  induction n generalizing c bi em t with
  | zero => exact h
  | succ n ih =>
    unfold advCounter
    extract_lets cfg lp ks kt fromBaton needs
    clear_value needs
    split
    · exact .inl (by simp)
    · split
      next bi' w0 hstart =>
        have h0 : RegsOnly s w0 := by
          split at hstart
          · obtain ⟨-, rfl⟩ := Prod.mk.inj hstart
            exact h.rfput.rfput
          · obtain ⟨-, rfl⟩ := Prod.mk.inj hstart
            exact h
        extract_lets w1 _ _ w2 w3 w4 w5
        have h2 : RegsOnly s w2 := h0.rfput.rfadd.rfadd
        have h4 : RegsOnly s w4 := .ite h2.rfadd.rfput.rfput.rfput h2.rfadd.rfput.rfput
        split
        · split
          · next hpar => exact (ih h4).imp fun d hd => .inr (List.mem_singleton.1 hd ▸ hpar.2)
          · exact h4
        · exact h2.rfput

theorem advEnds_advCounters {p a : Nat} {cs : List Nat} {bi : List (BitVec 16)} {em : List (Nat × Nat)} {s t : State}
    (h : RegsOnly s t) : AdvEnds cs s (advCounters p a cs bi em t) := by
  induction cs generalizing bi em t with
  | nil => exact h
  | cons c cs ih =>
    have h1 : AdvEnds [c] s (advCounter p a 6 c bi em t) := advEnds_advCounter h
    rw [advCounters]
    split
    · next e => exact (e ▸ h1 : AdvEnds [c] s (.error _)).imp fun d hd => .inl (by simp_all)
    · next e => exact (ih (e ▸ h1 : AdvEnds [c] s (.ok _))).imp fun d hd => .inl (List.mem_cons_of_mem c hd)

/-- The counters that a step advances: the one that its evaluation names, and the entry's own. -/
theorem stepAdvances_lt {l : Loc} {e : Entry} {r : StepRes} {s : State} (hr : ∀ c, r.ctrAdv = some c → c < 6) :
    ∀ c ∈ stepAdvances s l e r, c < 6 := by
  intro c hc
  rw [stepAdvances, List.mem_append] at hc
  obtain hc | hc := hc
  · split at hc
    · next d hd =>
      obtain rfl := List.mem_singleton.1 hc
      exact hr _ hd
    · cases hc
  · split at hc
    · next hctr =>
      obtain rfl := List.mem_singleton.1 hc
      exact hctr.2
    · cases hc

theorem ctr_lt_of_commitStep {l : Loc} {e : Entry} {r : StepRes} {s : State} {cause c : Nat}
    (hr : ∀ c, r.ctrAdv = some c → c < 6) (h : commitStep l e r s = .error (.wait cause (some c))) : c < 6 := by
  unfold commitStep at h
  extract_lets _ _ _ s1 _ at h
  iterate 4
    split at h
    · cases h
  split at h
  · next hadv =>
    cases h
    have hends : AdvEnds (stepAdvances s l e r) s1 (.error c) := hadv ▸ advEnds_advCounters (.refl s1)
    exact hends.elim (stepAdvances_lt hr c) id
  · split at h
    · cases h
    · cases h

/-! ### What a step that completes leaves in the stages -/

/-- A view of stage k shows the same in t as in s. -/
def LooksAlike {α : Type} (view : Stage → α) (k : Nat) (s t : State) : Prop := view (stageOf t k) = view (stageOf s k)

namespace LooksAlike

variable {α : Type} {view : Stage → α} {k : Nat} {s t u : State}

theorem refl (view : Stage → α) (k : Nat) (s : State) : LooksAlike view k s s := rfl

theorem frame (h : LooksAlike view k s t) (e : u.stages = t.stages) : LooksAlike view k s u := by
  rw [LooksAlike, stageOf, e]
  exact h

theorem rput {j : Nat} {w : Word} (h : LooksAlike view k s t) : LooksAlike view k s (Machine.rput j w t) :=
  h.frame (rput_stages _ _ _)

theorem rfput {j v : Nat} {f : Fld} (h : LooksAlike view k s t) : LooksAlike view k s (Machine.rfput j f v t) := h.rput

theorem rfsat {j v : Nat} {f : Fld} (h : LooksAlike view k s t) : LooksAlike view k s (Machine.rfsat j f v t) := h.rput

theorem rfadd {j v : Nat} {f : Fld} (h : LooksAlike view k s t) : LooksAlike view k s (Machine.rfadd j f v t) := h.rput

theorem putArr {j : Nat} {v : CArray} (h : LooksAlike view k s t) : LooksAlike view k s (Machine.putArr j v t) :=
  h.frame (putArr_stages _ _ _)

theorem putStand {j : Nat} {v : Stand} (h : LooksAlike view k s t) : LooksAlike view k s (Machine.putStand j v t) :=
  h.frame (putStand_stages _ _ _)

theorem setTag {j : Nat} {b : Bool} (h : LooksAlike view k s t) : LooksAlike view k s (Machine.setTag j b t) :=
  h.frame (setTag_stages _ _ _)

theorem dropWait {w : Waiter} (h : LooksAlike view k s t) : LooksAlike view k s (Machine.dropWait w t) :=
  h.frame (dropWait_stages _ _)

theorem report {st : Status} {b : Bool} {src : Nat} {loc w : Word} {data : List Byte} (h : LooksAlike view k s t) :
    LooksAlike view k s (Machine.report st b src loc w data t) := h.frame (report_stages _ _ _ _ _ _ _)

theorem writeBytes {j : Nat} {bs : List Byte} (h : LooksAlike view k s t) :
    LooksAlike view k s (Machine.writeBytes j bs t) := by
  obtain ⟨_, _, e⟩ := writeBytes_frame j bs t
  rw [e]
  exact h.frame rfl

theorem obWrite {l : Loc} {lane b : Nat} {bs : List Byte} (h : LooksAlike view k s t) :
    LooksAlike view k s (Machine.obWrite l lane b bs t) := by
  induction bs generalizing b t with
  | nil => exact h
  | cons v vs ih => exact ih (h.frame rfl)

theorem putStage {j : Nat} {v : Stage} (h : LooksAlike view k s t) (hv : j = k → view v = view (stageOf t j)) :
    LooksAlike view k s (Machine.putStage j v t) := by
  rw [LooksAlike, ← h, stageOf_putStage]
  split
  · next e => rw [hv e.symm, e]
  · rfl

theorem ite {c : Prop} {_ : Decidable c} (h : LooksAlike view k s t) (h' : LooksAlike view k s u) :
    LooksAlike view k s (if c then t else u) := by
  split
  · exact h
  · exact h'

theorem traceVec {l : Loc} {v : Vec} (h : LooksAlike view k s t) : LooksAlike view k s (Machine.traceVec l v t) :=
  .ite h.putArr h

section
variable {l : Loc} {e : Entry} {r : StepRes}

/-- The destination is written in the stage's own latch, or not in a stage. -/
theorem writeDst (hl : l.key = k → ∀ v x, view (latched v x) = view x) (h : LooksAlike view k s t) :
    LooksAlike view k s (Machine.writeDst l e r t) := by
  unfold Machine.writeDst
  split
  · exact h
  · refine .ite (h.putStage fun e => hl e _ _) (.ite ?_ (.ite h.rfadd.putArr.traceVec h))
    exact List.foldlRecOn _ _ h fun u hu _ _ => hu.obWrite

theorem forwards (hl : l.key = k → ∀ v x, view (latched v x) = view x) (h : LooksAlike view k s t) :
    LooksAlike view k s (Proofs.forwards l r t) := by
  unfold Proofs.forwards
  split
  · exact h.putStage fun e => hl e _ _
  · exact h

/-- Of the other stages only the upstream one's FRESH bit is written (R79). -/
theorem commitStore (hf : ∀ f x, view { x with fresh := f } = view x) (h : LooksAlike view k s t) :
    LooksAlike view k s (Machine.commitStore l r t) := by
  unfold Machine.commitStore
  extract_lets _ s1 s2 s3 s4 s5
  have h1 : LooksAlike view k s s1 := .ite (h.putStage fun _ => hf _ _) h
  have h2 : LooksAlike view k s s2 := by
    unfold s2
    split
    · exact h1.setTag
    · exact h1
  have h3 : LooksAlike view k s s3 := .ite h2 h2.rfsat
  have h4 : LooksAlike view k s s4 := List.foldlRecOn _ _ h3 fun u hu _ _ => hu.report
  have h5 : LooksAlike view k s s5 := .ite h4.dropWait h4
  split
  · exact h5.writeBytes.setTag.putArr.traceVec
  · exact h5

theorem stepOn (h : LooksAlike view k s t) : LooksAlike view k s (Machine.stepOn l e t) :=
  .ite h.rfput.rfput.rfput h.rfput.rfput.rfput.rfput

/-- The stage's own part of the commit. -/
theorem commitStage : LooksAlike id k (Machine.putStage l.key (committed r (stageOf s l.key)) s)
    (Machine.commitStage l r s) := by
  unfold Machine.commitStage
  extract_lets _ _ _ s1 kf s2 s3 s4 s5 _ s6 _
  have h1 : LooksAlike id k s1 s1 := .refl id k s1
  have h2 : LooksAlike id k s1 s2 := .ite h1.rput h1
  have h3 : LooksAlike id k s1 s3 := h2.rput
  have h4 : LooksAlike id k s1 s4 := .ite h3 h3.rfadd
  have h5 : LooksAlike id k s1 s5 := .ite h4 h4.rfput
  have h6 : LooksAlike id k s1 s6 := .ite h5 h5.putStand
  exact h6.putArr

/-- What comes after the stage's own part of the commit shows in no view of a stage that sees neither FRESH nor, in the
stage of the step, the latch. -/
theorem afterCommitStage (hf : ∀ f x, view { x with fresh := f } = view x)
    (hl : l.key = k → ∀ v x, view (latched v x) = view x) (hc : commitStep l e r s = .ok t) :
    LooksAlike view k (Machine.commitStage l r (Machine.writeDst l e r s)) t := by
  obtain ⟨bi, bi', em, snd, u, hadv, rfl⟩ := commitStep_ok hc
  have h1 := (refl view k (Machine.commitStage l r (Machine.writeDst l e r s))).commitStore (l := l) (r := r) hf
  have hu : AdvEnds (stepAdvances s l e r) _ (.ok (bi', em, u)) := hadv ▸ advEnds_advCounters (.refl _)
  have h2 := h1.frame (RegsOnly.stages hu)
  exact (h2.putArr.putArr.rfadd.forwards hl).stepOn

end

end LooksAlike

section
variable {k : Nat} {l : Loc} {e : Entry} {r : StepRes} {s t : State}

theorem stageOf_commitStage :
    stageOf (commitStage l r s) k = if k = l.key then committed r (stageOf s l.key) else stageOf s k :=
  (LooksAlike.commitStage (k := k) (l := l) (r := r) (s := s)).trans (stageOf_putStage _ _ _ _)

/-- The accumulators, P, the sparse lanes and the first half of DEMX: what a stage holds beside its latch. -/
def work (t : Stage) : List Acc × BitVec 16 × List SparseLane × Option Vec := (t.acc, t.pred, t.sparse, t.half)

/-- A step that completes leaves its stage's own work as its evaluation gives it (R81). -/
theorem work_commitStep (hc : commitStep l e r s = .ok t) :
    work (stageOf t l.key) = work (committed r (stageOf s l.key)) := by
  have hw : work (stageOf (writeDst l e r s) l.key) = work (stageOf s l.key) :=
    (LooksAlike.refl work l.key s).writeDst fun _ _ _ => rfl
  have ht : work (stageOf t l.key) = work (stageOf (commitStage l r (writeDst l e r s)) l.key) :=
    LooksAlike.afterCommitStage (fun _ _ => rfl) (fun _ _ _ => rfl) hc
  rw [stageOf_commitStage, if_pos rfl] at ht
  simp only [work, Prod.mk.injEq] at hw
  obtain ⟨hacc, hpred, hsparse, hhalf⟩ := hw
  rw [ht]
  simp only [work, committed, hacc, hpred, hsparse, hhalf]

/-- A step that completes leaves what the other stages hold (R78). -/
theorem held_commitStep_other (hc : commitStep l e r s = .ok t) (hk : k ≠ l.key) :
    held (stageOf t k) = held (stageOf s k) := by
  have hw : held (stageOf (writeDst l e r s) k) = held (stageOf s k) :=
    (LooksAlike.refl held k s).writeDst fun e => absurd e.symm hk
  have ht : held (stageOf t k) = held (stageOf (commitStage l r (writeDst l e r s)) k) :=
    LooksAlike.afterCommitStage (fun _ _ => rfl) (fun e => absurd e.symm hk) hc
  rw [stageOf_commitStage, if_neg hk] at ht
  exact ht.trans hw

end

/-! ### What the evaluations yield -/

/-- If an evaluation commits, then with a result of which P holds. -/
def Yields (P : StepRes → Prop) : StepEnd → Prop
  | .commit r => P r
  | _ => True

/-- A result that stores nothing to core memory and names no counter of its own to advance. -/
def Quiet (r : StepRes) : Prop := r.store = none ∧ r.ctrAdv = none

namespace Yields

variable {P : StepRes → Prop} {s : State} {l : Loc} {e : Entry}

theorem of_commit {x : StepEnd} {r : StepRes} (h : Yields P x) (hx : x = .commit r) : P r := by
  subst hx
  exact h

theorem imp {Q : StepRes → Prop} {x : StepEnd} (h : ∀ r, P r → Q r) (hx : Yields P x) : Yields Q x := by
  cases x with
  | commit r => exact h r hx
  | wait | stop | replay | uncorrectable => trivial

theorem ite {c : Prop} {_ : Decidable c} {x y : StepEnd} (h : Yields P x) (k : Yields P y) :
    Yields P (if c then x else y) := by
  split
  · exact h
  · exact k

theorem withA {n : Nat} {f : List Lane → StepEnd} (h : ∀ a, Yields P (f a)) : Yields P (Machine.withA s l e n f) := by
  unfold Machine.withA
  split
  · exact h _
  · trivial
  · trivial

theorem withAB {na nb : Nat} {f : List Lane → List Lane → StepEnd} (h : ∀ a b, Yields P (f a b)) :
    Yields P (Machine.withAB s l e na nb f) := by
  unfold Machine.withAB
  split
  · exact h _ _
  · trivial
  · trivial
  · trivial

end Yields

section
variable {s : State} {l : Loc} {e : Entry}

@[simp] theorem quiet_evalNop : Yields Quiet (evalNop l e s) := ⟨rfl, rfl⟩

@[simp] theorem quiet_evalArith (ff : Nat → FVal → FVal → FVal × FlagBits) (fi : Int → Int → Int) :
    Yields Quiet (evalArith ff fi l e s) :=
  .ite trivial (.withAB fun _ _ => .ite ⟨rfl, rfl⟩ ⟨rfl, rfl⟩)

@[simp] theorem quiet_evalArith1 (ff : FVal → FVal) (fi : Int → Int) : Yields Quiet (evalArith1 ff fi l e s) :=
  .ite trivial (.withA fun _ => .ite ⟨rfl, rfl⟩ ⟨rfl, rfl⟩)

@[simp] theorem quiet_evalFmaw : Yields Quiet (evalFmaw l e s) :=
  .ite trivial (.withAB fun _ _ => by
    split
    · trivial
    · trivial
    · exact ⟨rfl, rfl⟩)

@[simp] theorem quiet_evalScaleb : Yields Quiet (evalScaleb l e s) := .ite trivial (.withAB fun _ _ => ⟨rfl, rfl⟩)

@[simp] theorem quiet_evalBits (f : Lane → Lane → Lane) : Yields Quiet (evalBits f l e s) := .withAB fun _ _ => ⟨rfl, rfl⟩

@[simp] theorem quiet_evalMov : Yields Quiet (evalMov l e s) := .withA fun _ => ⟨rfl, rfl⟩

@[simp] theorem quiet_evalCompare (rel : FVal → FVal → Bool) (anyNan : Bool) : Yields Quiet (evalCompare rel anyNan l e s) :=
  .withAB fun _ _ => ⟨rfl, rfl⟩

@[simp] theorem quiet_evalSel : Yields Quiet (evalSel l e s) := .withAB fun _ _ => ⟨rfl, rfl⟩

@[simp] theorem quiet_evalApprox (op : Nat) : Yields Quiet (evalApprox op l e s) := .ite trivial (.withA fun _ => ⟨rfl, rfl⟩)

@[simp] theorem quiet_evalCvt : Yields Quiet (evalCvt l e s) := .ite trivial (.withA fun _ => ⟨rfl, rfl⟩)

@[simp] theorem quiet_evalCvtmx : Yields Quiet (evalCvtmx l e s) :=
  .ite (.ite (.withA fun _ => ⟨rfl, rfl⟩) (.ite trivial (.withA fun _ => ⟨rfl, rfl⟩)))
    (.ite trivial (.withA fun _ => ⟨rfl, rfl⟩))

@[simp] theorem quiet_evalDemx : Yields Quiet (evalDemx l e s) :=
  .ite trivial (.ite ⟨rfl, rfl⟩ (.withA fun _ => ⟨rfl, rfl⟩))

@[simp] theorem quiet_evalPack : Yields Quiet (evalPack l e s) := .withA fun _ => ⟨rfl, rfl⟩

@[simp] theorem quiet_evalUnpack : Yields Quiet (evalUnpack l e s) := .withA fun _ => ⟨rfl, rfl⟩

@[simp] theorem quiet_evalPack6 : Yields Quiet (evalPack6 l e s) := .withA fun _ => ⟨rfl, rfl⟩

@[simp] theorem quiet_evalUnpack6 : Yields Quiet (evalUnpack6 l e s) := .withA fun _ => ⟨rfl, rfl⟩

@[simp] theorem quiet_evalFxcvt : Yields Quiet (evalFxcvt l e s) := .ite trivial (.withA fun _ => ⟨rfl, rfl⟩)

@[simp] theorem quiet_evalReadout : Yields Quiet (evalReadout l e s) := .ite trivial ⟨rfl, rfl⟩

@[simp] theorem quiet_evalAccload : Yields Quiet (evalAccload l e s) := .withA fun _ => ⟨rfl, rfl⟩

@[simp] theorem quiet_evalAccloadx : Yields Quiet (evalAccloadx l e s) := .withA fun _ => ⟨rfl, rfl⟩

@[simp] theorem quiet_evalPerm : Yields Quiet (evalPerm l e s) := .withA fun _ => ⟨rfl, rfl⟩

@[simp] theorem quiet_evalPermi : Yields Quiet (evalPermi l e s) := .withAB fun _ _ => ⟨rfl, rfl⟩

@[simp] theorem quiet_evalLredadd : Yields Quiet (evalLredadd l e s) := .ite trivial (.withA fun _ => ⟨rfl, rfl⟩)

@[simp] theorem quiet_evalLredExt (isMax : Bool) : Yields Quiet (evalLredExt isMax l e s) :=
  .ite trivial (.withA fun _ => .ite ⟨rfl, rfl⟩ ⟨rfl, rfl⟩)

@[simp] theorem quiet_evalLredi : Yields Quiet (evalLredi l e s) := .withA fun _ => ⟨rfl, rfl⟩

@[simp] theorem quiet_evalLredacc : Yields Quiet (evalLredacc l e s) :=
  .ite ⟨rfl, rfl⟩ (.ite (.ite trivial ⟨rfl, rfl⟩) ⟨rfl, rfl⟩)

@[simp] theorem quiet_evalCtrrd : Yields Quiet (evalCtrrd l e s) := ⟨rfl, rfl⟩

@[simp] theorem quiet_evalBtnsend : Yields Quiet (evalBtnsend l e s) := ⟨rfl, rfl⟩

@[simp] theorem quiet_evalBtnrecv : Yields Quiet (evalBtnrecv l e s) := by
  unfold evalBtnrecv
  split
  · trivial
  · exact ⟨rfl, rfl⟩

@[simp] theorem quiet_evalBtnpred : Yields Quiet (evalBtnpred l e s) := by
  unfold evalBtnpred
  split
  · trivial
  · exact ⟨rfl, rfl⟩

@[simp] theorem quiet_evalTwait : Yields Quiet (evalTwait l e s) :=
  .withA fun _ => by
    dsimp only
    split
    · exact .ite ⟨rfl, rfl⟩ (.ite trivial trivial)
    · exact .ite ⟨rfl, rfl⟩ trivial

@[simp] theorem quiet_evalTinc : Yields Quiet (evalTinc l e s) := .withA fun _ => .ite trivial ⟨rfl, rfl⟩

theorem quiet_loadSlot (n : Nat) (consume route : Bool) : Yields Quiet (loadSlot s l n consume route) := by
  unfold loadSlot
  refine .ite trivial ?_
  split
  · trivial
  · exact ⟨rfl, rfl⟩

@[simp] theorem quiet_evalLdcm : Yields Quiet (evalLdcm l e s) := quiet_loadSlot _ _ _

@[simp] theorem quiet_evalLdcmk : Yields Quiet (evalLdcmk l e s) := quiet_loadSlot _ _ _

@[simp] theorem quiet_evalLdcmx : Yields Quiet (evalLdcmx l e s) := .withA fun _ => quiet_loadSlot _ _ _

@[simp] theorem quiet_evalSend : Yields Quiet (evalSend l e s) := .withA fun _ => ⟨rfl, rfl⟩

@[simp] theorem quiet_evalRecv : Yields Quiet (evalRecv l e s) := by
  unfold evalRecv
  split
  · exact ⟨rfl, rfl⟩
  · trivial

@[simp] theorem quiet_evalPass : Yields Quiet (evalPass l e s) := by
  unfold evalPass
  split
  · exact ⟨rfl, rfl⟩
  · trivial

theorem quiet_mergeTake (code : Nat) (marked : Bool) : Yields Quiet (mergeTake s l e code marked) := by
  unfold mergeTake
  refine .ite ⟨rfl, rfl⟩ ?_
  split
  · exact ⟨rfl, rfl⟩
  · trivial

@[simp] theorem quiet_evalMerge1 : Yields Quiet (evalMerge1 l e s) :=
  have take := quiet_mergeTake (s := s) (l := l) (e := e)
  .ite (take _ _) (.ite (take _ _) (.ite (take _ _) (.ite (take _ _) (.ite (take _ _) trivial))))

@[simp] theorem quiet_evalAtomic (op : Entry → AtomicOp) (marked : Bool) : Yields Quiet (evalAtomic op marked l e s) :=
  .withAB fun _ _ => ⟨rfl, rfl⟩

@[simp] theorem quiet_evalAaddf : Yields Quiet (evalAaddf l e s) :=
  .ite (.withAB fun _ _ => ⟨rfl, rfl⟩) (quiet_evalAtomic _ _)

@[simp] theorem quiet_evalRdflags : Yields Quiet (evalRdflags l e s) := ⟨rfl, rfl⟩

@[simp] theorem quiet_evalRdsrc : Yields Quiet (evalRdsrc l e s) := ⟨rfl, rfl⟩

@[simp] theorem quiet_evalRdcoord : Yields Quiet (evalRdcoord l e s) := ⟨rfl, rfl⟩

@[simp] theorem quiet_evalRdlap : Yields Quiet (evalRdlap l e s) := ⟨rfl, rfl⟩

@[simp] theorem quiet_evalRdtime : Yields Quiet (evalRdtime l e s) := .ite quiet_evalRdlap ⟨rfl, rfl⟩

@[simp] theorem quiet_evalRdtemp : Yields Quiet (evalRdtemp l e s) := ⟨rfl, rfl⟩

@[simp] theorem quiet_evalRdovr : Yields Quiet (evalRdovr l e s) := ⟨rfl, rfl⟩

@[simp] theorem quiet_evalRdent : Yields Quiet (evalRdent l e s) := .ite ⟨rfl, rfl⟩ (.ite trivial ⟨rfl, rfl⟩)

@[simp] theorem quiet_evalDot (bcast : Bool) : Yields Quiet (evalDot bcast l e s) :=
  .withAB fun _ _ => .ite trivial (by
    dsimp only
    split
    · trivial
    · exact ⟨rfl, rfl⟩)

@[simp] theorem quiet_evalSparse (sf : SpForm) : Yields Quiet (evalSparse sf l e s) := by
  unfold evalSparse
  extract_lets fb
  obtain ⟨w, k⟩ := sparseShape e.fmtA.toNat fb
  dsimp -zeta only
  extract_lets run
  have hrun : ∀ raw wb xb, Yields Quiet (run raw wb xb) := fun _ _ _ => .ite trivial (by
    dsimp only
    split
    · trivial
    · trivial
    · exact ⟨rfl, rfl⟩)
  refine .ite (hrun _ _ _) ?_
  split
  · trivial
  · trivial
  · exact .ite trivial (hrun _ _ _)

/-- A counter number that AUX names is one of the array's six. -/
theorem ctrAdv_lt_evalCtradv : Yields (fun r => ∀ c, r.ctrAdv = some c → c < 6) (evalCtradv l e s) := by
  intro c hc
  dsimp only at hc
  split at hc
  · next h =>
    obtain rfl := Option.some.inj hc
    exact h
  · cases hc

theorem ctrAdv_none_storeSlot (n : Nat) (ow : Bool) (wa : List Lane) (fwd : Option (List Lane)) :
    Yields (fun r => r.ctrAdv = none) (storeSlot s l e n ow wa fwd) := .ite trivial rfl

theorem ctrAdv_none_evalStcm : Yields (fun r => r.ctrAdv = none) (evalStcm l e s) :=
  .withA fun _ => ctrAdv_none_storeSlot _ _ _ _

theorem ctrAdv_none_evalStcmo : Yields (fun r => r.ctrAdv = none) (evalStcmo l e s) :=
  .withA fun _ => ctrAdv_none_storeSlot _ _ _ _

theorem ctrAdv_none_evalStcmx : Yields (fun r => r.ctrAdv = none) (evalStcmx l e s) :=
  .withAB fun _ _ => ctrAdv_none_storeSlot _ _ _ _

theorem store_none_evalCtradv : Yields (fun r => r.store = none) (evalCtradv l e s) := rfl

end

/-- Of the rows' evaluations all are quiet but CTRADV's and those of the stores to core memory. -/
theorem stageRow_quiet {i : Instr} {n : StageLoc} {e : Entry} {f : Loc → Entry → State → StepEnd}
    (h : stageRow i = some (n, e, f)) :
    (∀ l e s, Yields Quiet (f l e s)) ∨ f = evalCtradv ∨
      (keepsMemory i = false ∧ (f = evalStcm ∨ f = evalStcmo ∨ f = evalStcmx)) := by
  cases i
  case ctradv => cases h; exact .inr (.inl rfl)
  case stcm => cases h; exact .inr (.inr ⟨rfl, .inl rfl⟩)
  case stcmo => cases h; exact .inr (.inr ⟨rfl, .inr (.inl rfl)⟩)
  case stcmx => cases h; exact .inr (.inr ⟨rfl, .inr (.inr rfl)⟩)
  all_goals cases h
  all_goals exact .inl (by simp)

/-- A row's step is held back by the bound of one of the six counters, if by any. -/
theorem ctrAdv_lt_of_stageRow {i : Instr} {n : StageLoc} {e : Entry} {f : Loc → Entry → State → StepEnd}
    (h : stageRow i = some (n, e, f)) (l : Loc) (s : State) :
    Yields (fun r => ∀ c, r.ctrAdv = some c → c < 6) (f l e s) := by
  have of_none : Yields (fun r => r.ctrAdv = none) (f l e s) → Yields (fun r => ∀ c, r.ctrAdv = some c → c < 6) (f l e s) :=
    Yields.imp fun r hr c hc => by rw [hr] at hc; cases hc
  obtain hq | rfl | ⟨-, rfl | rfl | rfl⟩ := stageRow_quiet h
  · exact of_none ((hq l e s).imp fun r hr => hr.2)
  · exact ctrAdv_lt_evalCtradv
  · exact of_none ctrAdv_none_evalStcm
  · exact of_none ctrAdv_none_evalStcmo
  · exact of_none ctrAdv_none_evalStcmx

theorem store_none_of_stageRow {i : Instr} {n : StageLoc} {e : Entry} {f : Loc → Entry → State → StepEnd}
    (h : stageRow i = some (n, e, f)) (hk : keepsMemory i = true) (l : Loc) (s : State) :
    Yields (fun r => r.store = none) (f l e s) := by
  obtain hq | rfl | ⟨hn, -⟩ := stageRow_quiet h
  · exact (hq l e s).imp fun r hr => hr.1
  · exact store_none_evalCtradv
  · rw [hk] at hn
    cases hn

/-- A row of a stage operation is a step of its evaluation (R93). -/
theorem exec_of_stageRow {i : Instr} {n : StageLoc} {e : Entry} {f : Loc → Entry → State → StepEnd}
    (h : stageRow i = some (n, e, f)) (s : State) : exec i s = .next (stageOp n e f s) := by
  unfold stageRow at h
  split at h
  all_goals cases h
  all_goals rfl

/-! ### The rows of the stage operations -/

theorem runStep_of_not_canStep {l : Loc} {e : Entry} {f : Loc → Entry → State → StepEnd} {s : State}
    (h : ¬canStep s l = true) : runStep l e f s = s := by
  rw [runStep, if_pos (by simpa using h)]

/-- A step of a stage ends in the committed step, or commits nothing (R81). -/
theorem runStep_commits_or_not {l : Loc} {e : Entry} {f : Loc → Entry → State → StepEnd} {o : Nat} {s : State}
    (hst : l.st < 8) (ho : 0x440 ≤ o ∧ o < 0x480) (hf : Yields (fun r => ∀ c, r.ctrAdv = some c → c < 6) (f l e s)) :
    Uncommitted l.p l.a o s (runStep l e f s) ∨
      ∃ r u, canStep s l = true ∧ f l e s = .commit r ∧ commitStep l e r s = .ok u ∧ runStep l e f s = u := by
  by_cases hc : canStep s l = true
  · rw [runStep, hc, Bool.not_true, if_neg Bool.false_ne_true]
    split
    · next r hr =>
      split
      · next u hu => exact .inr ⟨r, u, rfl, hr, hu, rfl⟩
      · next cause ctr hw =>
        refine .inl (uncommitted_stageWaits hst ho.2 fun c hctr => ?_)
        subst hctr
        exact ctr_lt_of_commitStep (hf.of_commit hr) hw
      · exact .inl (.refl s)
      · exact .inl (.refl s)
    · exact .inl (uncommitted_stageWaits hst ho.2 nofun)
    · exact .inl (uncommitted_stageStops hst ho.2 fun _ => by omega)
    · exact .inl (uncommitted_stageReplays hst ho.2)
    · exact .inl (uncommitted_stageUncorrectable hst ho.2)
  · rw [runStep_of_not_canStep hc]
    exact .inl (.refl s)

/-- A step that is replayed commits nothing, its flags included (R81, R90). -/
theorem uncommitted_of_replay {l : Loc} {e : Entry} {f : Loc → Entry → State → StepEnd} {bad : BitVec 16} {o : Nat}
    {s : State} (hst : l.st < 8) (ho : o < 0x480) (hf : f l e s = .replay bad) :
    Uncommitted l.p l.a o s (runStep l e f s) := by
  by_cases hc : canStep s l = true
  · rw [runStep, hc, Bool.not_true, if_neg Bool.false_ne_true, hf]
    exact uncommitted_stageReplays hst ho
  · rw [runStep_of_not_canStep hc]
    exact .refl s

/-- A step that is stopped commits nothing; of its flags only the record of the accumulator limit is written (R81, R89). -/
theorem uncommitted_of_stop {l : Loc} {e : Entry} {f : Loc → Entry → State → StepEnd} {st : Status} {lanes : BitVec 16}
    {data : List Byte} {o : Nat} {s : State} (hst : l.st < 8) (ho : o < 0x480) (hf : f l e s = .stop st lanes data)
    (hlim : st = stAccLimit → o % 4096 ≠ (0x400 + 8 * l.st) % 4096) : Uncommitted l.p l.a o s (runStep l e f s) := by
  by_cases hc : canStep s l = true
  · rw [runStep, hc, Bool.not_true, if_neg Bool.false_ne_true, hf]
    exact uncommitted_stageStops hst ho hlim
  · rw [runStep_of_not_canStep hc]
    exact .refl s

/-- Where nothing is committed the effects of the stage's step stand as they were. -/
theorem stepEffects_of_uncommitted {l : Loc} {s t : State} (h : Uncommitted l.p l.a (0x440 + 0x8 * l.st) s t) :
    stepEffects t l = stepEffects s l := by
  have hh := h.stages l.key
  have hs := h.stores
  simp only [held, Prod.mk.injEq] at hh hs
  obtain ⟨hacc, hpred, hlatch, -⟩ := hh
  obtain ⟨hob, hmem, htags⟩ := hs
  simp only [stepEffects, hacc, hpred, hlatch, hob, hmem, htags, rf, CaSrCount.key, h.reg]

theorem stageOp_of_locOf {n : StageLoc} {l : Loc} {e : Entry} {f : Loc → Entry → State → StepEnd} {s : State}
    (h : locOf s n = some l) : stageOp n e f s = runStep l e f s := by
  rw [stageOp, h]

/-- TWAIT whose tally is reached is a step like any other (R128). -/
theorem runTwait_commits {l : Loc} {e : Entry} {r : StepRes} {s t : State} (hc : canStep s l = true)
    (hf : evalTwait l e s = .commit r) (ht : commitStep l e r s = .ok t) : runTwait l e s = t := by
  simp only [runTwait, hc, Bool.not_true, Bool.false_eq_true, if_false, hf]
  exact runStep_commits _ _ _ _ _ _ hc hf ht

/-- STAGE_STEP_COMPLETE without a transient upset takes the step of the entry at the PC, where that is no TWAIT. -/
theorem stepCurrent_eq_runStep {l : Loc} {f : Loc → Entry → State → StepEnd} {s : State}
    (hv : fldGet CaOp.valid (curOp s l) = 1) (ho : fldGet CaOp.opcode (curOp s l) ≠ 0x55)
    (hf : evalOf (fldGet CaOp.opcode (curOp s l)) = some f) :
    stepCurrent l 0 s = runStep l (entryOf (curOp s l)) f s := by
  have he : curEval s l = some f := by rw [curEval, if_neg (by omega), hf]
  unfold stepCurrent
  dsimp only
  rw [he]
  dsimp only
  rw [if_neg (by simp), if_neg ho]

/-- Settles O8: each row runs the step of its evaluation, and a step that can be committed ends as the commit says. -/
theorem stageOperationCommits : Obligations.StageOperationCommits := by
  unfold Obligations.StageOperationCommits
  refine ⟨fun i n e f l r s t hi hl hc hf ht => ?_, fun n e l r s t hl hc hf ht => ?_,
    fun n l f r s t hl hc hv ho he hf ht => ?_⟩
  · have hrun : exec i s = .next t := by
      rw [exec_of_stageRow hi, stageOp_of_locOf hl, runStep_commits _ _ _ _ _ _ hc hf ht]
    have hw := work_commitStep ht
    simp only [work, committed, Prod.mk.injEq] at hw
    exact ⟨hrun, hw⟩
  · change Host.Outcome.next _ = _
    rw [hl]
    exact congrArg _ (runTwait_commits hc hf ht)
  · change Host.Outcome.next _ = _
    rw [hl]
    exact congrArg _ ((stepCurrent_eq_runStep hv ho he).trans (runStep_commits _ _ _ _ _ _ hc hf ht))

/-- Settles O9: a step of a row commits as a whole or not at all, and a replay and a stop commit nothing, the flags
included. -/
theorem stepEffectsCommitTogether : Obligations.StepEffectsCommitTogether := by
  unfold Obligations.StepEffectsCommitTogether
  refine ⟨fun i n l e f s t hi hl ht => ?_, fun n l e f s hl => ?_⟩
  · have hst := locOf_st_lt hl
    rw [exec_of_stageRow hi, stageOp_of_locOf hl] at ht
    obtain rfl := Host.Outcome.next.inj ht
    exact (runStep_commits_or_not hst (by omega) (ctrAdv_lt_of_stageRow hi l s)).imp_left stepEffects_of_uncommitted
  · have hst := locOf_st_lt hl
    refine ⟨fun bad hf => ⟨?_, ?_⟩, fun st lanes data hf => ⟨?_, fun hne => ?_⟩⟩
    · exact stepEffects_of_uncommitted (uncommitted_of_replay hst (by omega) hf)
    · exact (uncommitted_of_replay hst (o := 0x400 + 0x8 * l.st) (by omega) hf).reg
    · exact stepEffects_of_uncommitted (uncommitted_of_stop hst (by omega) hf fun _ => by omega)
    · exact (uncommitted_of_stop hst (o := 0x400 + 0x8 * l.st) (by omega) hf fun e => absurd e hne).reg

/-- A step of a stage leaves what the other stages hold (R78). -/
theorem held_runStep_other {l : Loc} {e : Entry} {f : Loc → Entry → State → StepEnd} {k : Nat} {s : State} (hst : l.st < 8)
    (hf : Yields (fun r => ∀ c, r.ctrAdv = some c → c < 6) (f l e s)) (hk : k ≠ l.key) :
    held (stageOf (runStep l e f s) k) = held (stageOf s k) := by
  obtain h | ⟨r, u, -, -, hu, h⟩ := runStep_commits_or_not (o := 0x440) (e := e) hst (by omega) hf
  · exact h.stages k
  · rw [h]
    exact held_commitStep_other hu hk

/-! ### Stops and heartbeats -/

section
variable {l : Loc} {st : Status} {lanes : BitVec 16} {s : State}

theorem arrayState_stopRecorded : rf (stopRecorded l st lanes s) (CaStatus.key l.p l.a) CaStatus.arrayState = 4 := by
  rw [stopRecorded, rf_rfput_field _ _ _ _ _ (by decide), rf_rfput_self _ _ _ _ (by decide)]
  rfl

/-- The status of the stage as the stop leaves it: of its fields the last one written is the outermost. -/
theorem rf_stopRecorded_status (hst : l.st < 8) (f : Fld) :
    rf (stopRecorded l st lanes s) (CaStageStatus.key l.p l.a l.st) f =
      rf (rfput (CaStageStatus.key l.p l.a l.st) CaStageStatus.stopCode st.toNat
        (rfput (CaStageStatus.key l.p l.a l.st) CaStageStatus.lanes lanes.toNat
          (rfput (CaStageStatus.key l.p l.a l.st) CaStageStatus.waitCause 0
            (rfput (CaStageStatus.key l.p l.a l.st) CaStageStatus.state 3 s))))
        (CaStageStatus.key l.p l.a l.st) f := by
  have hne : CaStageStatus.key l.p l.a l.st ≠ CaStatus.key l.p l.a := standKey_ne_of_off (by omega)
  rw [stopRecorded, rf_rfput_key _ _ _ _ _ _ hne, rf_rfput_key _ _ _ _ _ _ hne]

theorem state_stopRecorded (hst : l.st < 8) :
    rf (stopRecorded l st lanes s) (CaStageStatus.key l.p l.a l.st) CaStageStatus.state = 3 := by
  rw [rf_stopRecorded_status hst, rf_rfput_field _ _ _ _ _ (by decide), rf_rfput_field _ _ _ _ _ (by decide),
    rf_rfput_field _ _ _ _ _ (by decide), rf_rfput_self _ _ _ _ (by decide)]
  rfl

theorem stopCode_stopRecorded (hst : l.st < 8) :
    rf (stopRecorded l st lanes s) (CaStageStatus.key l.p l.a l.st) CaStageStatus.stopCode = st.toNat := by
  rw [rf_stopRecorded_status hst, rf_rfput_self _ _ _ _ (by decide)]
  exact Nat.mod_eq_of_lt st.isLt

theorem lanes_stopRecorded (hst : l.st < 8) :
    rf (stopRecorded l st lanes s) (CaStageStatus.key l.p l.a l.st) CaStageStatus.lanes = lanes.toNat := by
  rw [rf_stopRecorded_status hst, rf_rfput_field _ _ _ _ _ (by decide), rf_rfput_self _ _ _ _ (by decide)]
  exact Nat.mod_eq_of_lt lanes.isLt

/-- A stop that is not for the accumulator limit shows in the status of its stage and of its array (R89). -/
theorem stageStops_shows {data : List Byte} (hst : l.st < 8) (hlim : st ≠ stAccLimit) :
    rf (stageStops l st lanes data s) (CaStatus.key l.p l.a) CaStatus.arrayState = 4 ∧
    rf (stageStops l st lanes data s) (CaStageStatus.key l.p l.a l.st) CaStageStatus.state = 3 ∧
    rf (stageStops l st lanes data s) (CaStageStatus.key l.p l.a l.st) CaStageStatus.stopCode = st.toNat ∧
    rf (stageStops l st lanes data s) (CaStageStatus.key l.p l.a l.st) CaStageStatus.lanes = lanes.toNat := by
  have harr : rg (stageStops l st lanes data s) (CaStatus.key l.p l.a) =
      rg (stopRecorded l st lanes s) (CaStatus.key l.p l.a) :=
    (uncommitted_stageStops_of_recorded (by omega) fun e => absurd e hlim).reg
  have hstage : rg (stageStops l st lanes data s) (CaStageStatus.key l.p l.a l.st) =
      rg (stopRecorded l st lanes s) (CaStageStatus.key l.p l.a l.st) :=
    (uncommitted_stageStops_of_recorded (by omega) fun e => absurd e hlim).reg
  simp only [rf, harr, hstage]
  exact ⟨arrayState_stopRecorded, state_stopRecorded hst, stopCode_stopRecorded hst, lanes_stopRecorded hst⟩

end

/-- ARRAY_NO_COMPLETION of a stage late beyond its limit is a stop with that status (R88). -/
theorem doNoCompletion_of_late {n : StageLoc} {lanes : BitVec 16} {l : Loc} {s : State} (hl : locOf s n = some l)
    (hm : isMemIdx l.a = false) (hlate : overrunLimit s l.p l.a < (stageOf s l.key).late) :
    doNoCompletion n lanes s = stageStops l stArrayNoCompletion lanes [] s := by
  unfold doNoCompletion
  rw [hl]
  dsimp only
  rw [if_neg (by rw [hm]; simp; omega)]

/-- A heartbeat that is due finds the route-out latch empty and fills it (R110). -/
theorem doHeartbeat_of_due {a : ArrayLoc} {p : Nat} {s : State} (hp : inService s a.stand.toNat = some p) :
    let i := arrIdx a.x.toNat a.y.toNat
    let per := rf s (CaHeartbeat.key p i) CaHeartbeat.period
    isMemIdx i = false → per ≠ 0 → per ≤ (arrOf s (arrKey p i)).lapsBeat → (arrOf s (arrKey p i)).routeOut = none →
    doHeartbeat a s = putArr (arrKey p i) { arrOf s (arrKey p i) with
      lapsBeat := (arrOf s (arrKey p i)).lapsBeat - per
      routeOut := some (.service 0 [.heartbeat (BitVec.ofNat 16 (rf s (CaHeartbeat.key p i) CaHeartbeat.tally))]) } s := by
  intro i per hm hper hlaps hout
  have hno : ¬(isMemIdx i = true ∨ per = 0 ∨ (arrOf s (arrKey p i)).lapsBeat < per ∨
      (arrOf s (arrKey p i)).routeOut.isSome = true) := by
    rw [hm, hout]
    simp [hper, hlaps]
  unfold doHeartbeat
  rw [hp]
  exact if_neg hno

/-- The entries of a check are as many as those it compares, and its reports leave memory. -/
theorem hbCheckAll_length_mem (es : List (Nat × Nat × Nat × Nat)) (hs : List HbEntry) (s : State) :
    (hbCheckAll es hs s).1.length = min es.length hs.length ∧ (hbCheckAll es hs s).2.mem = s.mem := by
  induction es generalizing hs s with
  | nil => simp [hbCheckAll]
  | cons e es ih =>
    cases hs with
    | nil => simp [hbCheckAll]
    | cons h hs =>
      have hone : (hbCheckOne e h s).2.mem = s.mem := by
        unfold hbCheckOne
        dsimp only
        split
        · rfl
        · split
          · exact report_mem _ _ _ _ _ _ _
          · rfl
      obtain ⟨hlen, hmem⟩ := ih hs (hbCheckOne e h s).2
      simp only [hbCheckAll, List.length_cons, hlen, hmem, hone, and_true]
      omega

theorem doHeartbeatCheck_length_mem {s : State} (hm : s.mode = .running) (hr : rangerRuns s 0 = true) :
    (doHeartbeatCheck s).hbs.length = (imgHeartbeats s.image).length ∧ (doHeartbeatCheck s).mem = s.mem := by
  unfold doHeartbeatCheck
  rw [if_neg (by simp [hm, hr])]
  dsimp only
  split
  · exact ⟨List.length_map _, rfl⟩
  · next hlen =>
    obtain ⟨hl, hmem⟩ := hbCheckAll_length_mem (imgHeartbeats s.image) s.hbs s
    refine ⟨hl.trans ?_, hmem⟩
    omega

/-- A stop leaves core memory and DRAM (R89). -/
theorem stageStops_mem {l : Loc} {st : Status} {lanes : BitVec 16} {data : List Byte} {s : State} (hst : l.st < 8)
    (hlim : st ≠ stAccLimit) : (stageStops l st lanes data s).mem = s.mem := by
  have h : Uncommitted l.p l.a 0 s (stageStops l st lanes data s) :=
    uncommitted_stageStops hst (by omega) fun e => absurd e hlim
  have hs := h.stores
  simp only [Prod.mk.injEq] at hs
  exact hs.2.1

theorem exec_arrayNoCompletion_of_late {n : StageLoc} {lanes : BitVec 16} {l : Loc} {s : State} (hl : locOf s n = some l)
    (hm : isMemIdx l.a = false) (hlate : overrunLimit s l.p l.a < (stageOf s l.key).late) :
    exec (.arrayNoCompletion ⟨n, lanes⟩) s = .next (stageStops l stArrayNoCompletion lanes [] s) :=
  congrArg Host.Outcome.next (doNoCompletion_of_late hl hm hlate)

theorem exec_heartbeat (a : ArrayLoc) (s : State) : exec (.heartbeat a) s = .next (doHeartbeat a s) := rfl

/-- Settles O45: the stop, the latch that the heartbeat fills, and the check entry by entry. -/
theorem stopsAndHeartbeats : Obligations.StopsAndHeartbeats := by
  unfold Obligations.StopsAndHeartbeats
  have hlim : stArrayNoCompletion ≠ stAccLimit := by decide
  refine ⟨fun n lanes l s hl hm hlate => ?_, fun a p s hp => ?_, fun s hm hr => ?_⟩
  · obtain ⟨harr, hstate, hcode, hlanes⟩ := stageStops_shows (lanes := lanes) (data := []) (s := s) (locOf_st_lt hl) hlim
    exact ⟨_, exec_arrayNoCompletion_of_late hl hm hlate, harr, hstate, hcode, hlanes, stageStops_mem (locOf_st_lt hl) hlim⟩
  · intro i per hmem hper hlaps hout
    refine ⟨_, exec_heartbeat a s, ?_⟩
    rw [doHeartbeat_of_due hp hmem hper hlaps hout, arrOf_putArr_self]
  · exact ⟨_, rfl, doHeartbeatCheck_length_mem hm hr⟩

end Sys2Proof.Proofs
end

section
/-!
PROOFS. The reference of the ring's slot PLL (R422): the states that REF_LOST, REFERENCE_RETURN and REACQUIRE lead to.
-/

namespace Sys2Proof.Proofs

open Sys2Proof.Machine Sys2Proof.Laws

/-- A field of a register that counts no lost events reads after a report as before. -/
theorem rf_report (st : Status) (b : Bool) (src : Nat) (loc a : Word) (data : List Byte) (k : Nat) (f : Fld) (s : State)
    (h : ∀ p, p < 4 → k ≠ IorPortCount.key p) : rf (report st b src loc a data s) k f = rf s k f := by
  rw [rf, rf, rg_report _ _ _ _ _ _ _ _ h]

/-- The registers and the clock of a PLL in holdover: unlocked, with its reference lost. -/
def holdover (s : State) : State :=
  rfput ClkPpsStatus.key ClkPpsStatus.refHold 1 (rfsat ClkRefStatus.key ClkRefStatus.losses 1
    (rfput ClkRefStatus.key ClkRefStatus.state 2 (rfput ClkSlotStatus.key ClkSlotStatus.gliding 0
      (rfput ClkSlotStatus.key ClkSlotStatus.locked 0 { s with ringClk := ⟨false, none⟩ }))))

/-- A locked PLL that no glide moves goes into holdover with a report. -/
theorem doRefLost_of_locked {s : State} (h : refState s = 1) (hg : s.ringClk.glide = none) :
    doRefLost s = report stRefLost false 0 locNone 0 [] (holdover s) := by
  unfold doRefLost
  rw [if_pos (.inl h), hg]
  rfl

theorem refState_holdover (s : State) : refState (holdover s) = 2 := by
  simp (disch := decide) only [refState, holdover, rfsat, rf_rfput_self, rf_rfput_key, rf_rfput_field]
  rfl

theorem locked_holdover (s : State) : rf (holdover s) ClkSlotStatus.key ClkSlotStatus.locked = 0 := by
  simp (disch := decide) [holdover, rfsat, rf_rfput_self, rf_rfput_key, rf_rfput_field]

theorem refHold_holdover (s : State) : rf (holdover s) ClkPpsStatus.key ClkPpsStatus.refHold = 1 := by
  simp (disch := decide) [holdover, rf_rfput_self]

theorem doRefReturn_of_absent {s : State} (h : s.ringClk.refOk = false) (hr : refState s ≠ 0) :
    doRefReturn s =
      rfput ClkPpsStatus.key ClkPpsStatus.refHold 0 { s with ringClk := { s.ringClk with refOk := true } } := by
  have hkept : refState (rfput ClkPpsStatus.key ClkPpsStatus.refHold 0
      { s with ringClk := { s.ringClk with refOk := true } }) = refState s := rf_rfput_key _ _ _ _ _ _ (by decide)
  unfold doRefReturn
  dsimp only
  rw [h, if_neg Bool.false_ne_true, hkept, if_neg hr]

/-- A glide changes the configured clock and GLIDING, and no other register: the reference's state stands. -/
theorem refState_startGlide (khz : Nat) (s : State) : refState (startGlide khz s) = refState s := by
  unfold startGlide
  dsimp only
  split
  · exact rf_rfput_key _ _ _ _ _ _ (by decide)
  · refine (rf_rfput_key _ _ _ _ _ _ (by decide)).trans ?_
    exact rf_rfput_key s _ _ _ _ _ (by decide)

/-- Once there has been a reference, a glide is under way. -/
theorem glide_startGlide {khz : Nat} {s : State} (h : refState s ≠ 0) : (startGlide khz s).ringClk.glide = some khz := by
  have hkept : refState (rfput ClkSlotCfg.key ClkSlotCfg.khz khz s) = refState s := rf_rfput_key _ _ _ _ _ _ (by decide)
  unfold startGlide
  dsimp only
  rw [hkept, if_neg h]
  rfl

/-- A relock: the PLL leaves holdover and glides to a clock. -/
def relock (khz : Nat) (s : State) : State := startGlide khz (rfput ClkRefStatus.key ClkRefStatus.state 3 s)

theorem refState_relock (khz : Nat) (s : State) : refState (relock khz s) = 3 := by
  rw [relock, refState_startGlide]
  exact rf_rfput_self _ _ _ _ (by decide)

theorem glide_relock (khz : Nat) (s : State) : (relock khz s).ringClk.glide = some khz := by
  refine glide_startGlide (ne_of_eq_of_ne (b := 3) ?_ (by decide))
  exact rf_rfput_self _ _ _ _ (by decide)

/-- REACQUIRE of a PLL in holdover whose reference has returned: a relock to the configured clock, refused where the
loaded image's clock is below it (R83). -/
theorem doReacquire_of_holdover {via : Via} {s : State} (hp : passes via true ClkRefCtl.key s)
    (hok : s.ringClk.refOk = true) (hr : refState s = 2) :
    (doReacquire via s).2 =
      if hasImage s = true ∧ imgClock s.image < rf s ClkSlotCfg.key ClkSlotCfg.khz then
        countVia via ClkRefCtl.key stImageClock s
      else relock (rf s ClkSlotCfg.key ClkSlotCfg.khz) s := by
  unfold doReacquire
  rw [viaWrite_runs _ _ _ _ hp, hok, Bool.not_true, if_neg Bool.false_ne_true, if_pos hr]
  dsimp only
  split
  · rw [if_neg (show stImageClock ≠ stDone by decide)]
  · rw [if_pos rfl, relock]

/-- Settles O27: each row, in the states named, is the one of the moves above. -/
theorem referenceLossAndReturn : Obligations.ReferenceLossAndReturn := by
  unfold Obligations.ReferenceLossAndReturn
  refine ⟨fun s h hg => ?_, fun s h hr => ?_, fun via s hp hok hr => ⟨fun hclk => ?_, fun himg hclk => ?_⟩⟩
  · refine ⟨_, congrArg Host.Outcome.next (doRefLost_of_locked h hg), ?_, ?_, ?_, ?_⟩
    · exact (rf_report _ _ _ _ _ _ _ _ _ (by decide)).trans (refState_holdover s)
    · rw [report_ringClk]
      rfl
    · exact (rf_report _ _ _ _ _ _ _ _ _ (by decide)).trans (locked_holdover s)
    · exact (rf_report _ _ _ _ _ _ _ _ _ (by decide)).trans (refHold_holdover s)
  · refine ⟨_, congrArg Host.Outcome.next (doRefReturn_of_absent h hr), rfl, rf_rfput_key _ _ _ _ _ _ (by decide), ?_⟩
    exact rf_rfput_self _ _ _ _ (by decide)
  · refine ⟨_, congrArg Host.Outcome.next ((doReacquire_of_holdover hp hok hr).trans (if_neg hclk)), ?_, ?_⟩
    · exact refState_relock _ s
    · exact glide_relock _ s
  · exact congrArg Host.Outcome.next ((doReacquire_of_holdover hp hok hr).trans (if_pos ⟨himg, hclk⟩))

end Sys2Proof.Proofs
end

section
/-!
PROOFS. The rows that store nothing (R78, R81): `SameMem s t` says that core memory and DRAM, with the error patterns of
their words, are in t as in s. One lemma for each function that such a row runs says that it keeps this, in the order of
the model's files; a step of a stage does where its evaluation stores nothing.
-/

namespace Sys2Proof.Proofs

open Sys2Proof.Machine Sys2Proof.Laws

set_option Elab.async false

/-- Core memory and DRAM, with the error patterns of their words, are in t as in s. -/
structure SameMem (s t : State) : Prop where
  mem : t.mem = s.mem
  upset : t.upset = s.upset

namespace SameMem

variable {s t u : State}

theorem refl (s : State) : SameMem s s := ⟨rfl, rfl⟩

theorem frame (h : SameMem s t) (e : (u.mem, u.upset) = (t.mem, t.upset)) : SameMem s u := by
  obtain ⟨hmem, hupset⟩ := Prod.mk.inj e
  exact ⟨hmem.trans h.mem, hupset.trans h.upset⟩

section
variable {α β γ δ : Type}

theorem ite {c : Prop} {_ : Decidable c} (h : SameMem s t) (k : SameMem s u) : SameMem s (if c then t else u) := by
  split
  · exact h
  · exact k

theorem ite_snd {c : Prop} {_ : Decidable c} {x y : α × State} (h : SameMem s x.2) (k : SameMem s y.2) :
    SameMem s (if c then x else y).2 := by
  split
  · exact h
  · exact k

theorem of_eq {x : α × State} {a : α} (h : SameMem s x.2) (e : x = (a, u)) : SameMem s u := by
  rw [e] at h
  exact h

/-- A definition seen through what it is defined as. -/
theorem of_def {P : α → Prop} {f g : α} (e : f = g) (h : P g) : P f := e ▸ h

theorem foldl {f : State → α → State} {l : List α} (h : SameMem s t)
    (hf : ∀ u a, SameMem s u → SameMem s (f u a)) :
    SameMem s (l.foldl f t) := by
  induction l generalizing t with
  | nil => exact h
  | cons a l ih => exact ih (hf t a h)

theorem foldl_snd {f : β × State → α → β × State} {l : List α} {x : β × State} (h : SameMem s x.2)
    (hf : ∀ y a, SameMem s y.2 → SameMem s (f y a).2) : SameMem s (l.foldl f x).2 := by
  induction l generalizing x with
  | nil => exact h
  | cons a l ih => exact ih (hf x a h)

end

theorem rput {k : Nat} {w : Word} (h : SameMem s t) : SameMem s (Machine.rput k w t) := h.frame rfl

theorem rfput {k : Nat} {f : Fld} {v : Nat} (h : SameMem s t) : SameMem s (Machine.rfput k f v t) := h.rput

theorem rfsat {k : Nat} {f : Fld} {n : Nat} (h : SameMem s t) : SameMem s (Machine.rfsat k f n t) := h.rfput

theorem rfadd {k : Nat} {f : Fld} {n : Nat} (h : SameMem s t) : SameMem s (Machine.rfadd k f n t) := h.rfput

theorem rreset {k : Nat} (h : SameMem s t) : SameMem s (Machine.rreset k t) := h.rput

theorem setPower {x : Power} (h : SameMem s t) : SameMem s { t with power := x } := h.frame rfl

theorem setBring {x : BringUp} (h : SameMem s t) : SameMem s { t with bring := x } := h.frame rfl

theorem setModeBring {m : ModState} {x : BringUp} (h : SameMem s t) : SameMem s { t with mode := m, bring := x } :=
  h.frame rfl

theorem setEpoch {x : Nat} (h : SameMem s t) : SameMem s { t with epoch := x } := h.frame rfl

theorem setLsOn {x : Lockstep} (h : SameMem s t) : SameMem s { t with lsOn := x } := h.frame rfl

/-! ### Machine/Ops -/

theorem setTag {k : Nat} {b : Bool} (h : SameMem s t) : SameMem s (Machine.setTag k b t) := h.frame rfl

theorem countErr {st : Status} {src phys addr : Nat} (h : SameMem s t) :
    SameMem s (Machine.countErr st src phys addr t) :=
  h.rfsat.rput.rput

theorem putPort {p : Nat} {v : Port} (h : SameMem s t) : SameMem s (Machine.putPort p v t) := h.frame rfl

theorem putRing {p r : Nat} {v : CRing} (h : SameMem s t) : SameMem s (Machine.putRing p r v t) := h.frame rfl

theorem putStand {p : Nat} {v : Stand} (h : SameMem s t) : SameMem s (Machine.putStand p v t) := h.frame rfl

theorem putStage {k : Nat} {v : Stage} (h : SameMem s t) : SameMem s (Machine.putStage k v t) := h.frame rfl

theorem putArr {k : Nat} {v : CArray} (h : SameMem s t) : SameMem s (Machine.putArr k v t) := h.frame rfl

theorem putSess {k : Nat} {v : Option Session} (h : SameMem s t) : SameMem s (Machine.putSess k v t) := h.frame rfl

theorem hostWrite {addr : Nat} {bs : List Byte} (h : SameMem s t) : SameMem s (Machine.hostWrite addr bs t) :=
  h.frame rfl

theorem raiseIrq {p v : Nat} (h : SameMem s t) : SameMem s (Machine.raiseIrq p v t) := h.putPort

theorem eventCopy {r : Report} {p : Nat} (h : SameMem s t) : SameMem s (Machine.eventCopy r p t) :=
  .ite h (.ite h.putPort.rfsat (.ite h.hostWrite.putPort.raiseIrq h.hostWrite.putPort))

theorem report {st : Status} {taint : Bool} {src : Nat} {loc addr : Word} {data : List Byte} (h : SameMem s t) :
    SameMem s (Machine.report st taint src loc addr data t) :=
  .eventCopy (.eventCopy (.eventCopy (.eventCopy (h.frame rfl))))

theorem reportRefusal {st : Status} {loc : Word} {data : List Byte} (h : SameMem s t) :
    SameMem s (Machine.reportRefusal st loc data t) :=
  h.report.frame rfl

theorem taint {st : Status} {addr : Word} (h : SameMem s t) : SameMem s (Machine.taint st addr t) := h.frame rfl

theorem draw (h : SameMem s t) : SameMem s (Machine.draw t).2 := h.frame rfl

/-! ### Machine/Operands -/

theorem obWrite {l : Loc} {lane b : Nat} {bs : List Byte} (h : SameMem s t) :
    SameMem s (Machine.obWrite l lane b bs t) := by
  induction bs generalizing b t with
  | nil => exact h
  | cons v vs ih => exact ih (h.frame rfl)

/-! ### Machine/StageMem -/

theorem touchCore {p a n : Nat} (h : SameMem s t) : SameMem s (Machine.touchCore p a n t) := h.putArr

/-! ### Machine/Access -/

theorem dramUncorrectable {p sl off : Nat} (h : SameMem s t) : SameMem s (Machine.dramUncorrectable p sl off t) :=
  .report (.taint (.rfsat (.ite h.rfput h)))

/-- The definition is opened as a function: applied, the kernel would evaluate the address that it reads. -/
theorem dramRead {p sl off n : Nat} (h : SameMem s t) : SameMem s (Machine.dramRead p sl off n t).2 := by
  obtain ⟨x, hx⟩ : ∃ x, Machine.dramRead p sl off n t = x := ⟨_, rfl⟩
  rw [hx]
  refine of_def (f := Machine.dramRead) (P := fun f => f p sl off n t = x → SameMem s x.2)
    (by delta Machine.dramRead; exact rfl) ?_ hx
  beta_reduce
  generalize readBytes t (dramKey p sl off) n = y
  rcases y with k | ⟨bs, c⟩
  · rintro rfl
    exact h.dramUncorrectable
  · have hc : SameMem s (if c = 0 then t else Machine.rfsat (DslEcc.key p sl) DslEcc.corrected c t) := .ite h h.rfsat
    rintro rfl
    exact .ite_snd (hc.frame rfl) hc

theorem sramUncorrectable {p a off : Nat} (h : SameMem s t) : SameMem s (Machine.sramUncorrectable p a off t) :=
  .report (.taint (.ite (.ite h h.rfput.rfput) (.ite h h.rfput.rfput)))

theorem sramCorrected {p a c : Nat} (h : SameMem s t) : SameMem s (Machine.sramCorrected p a c t) :=
  .ite h (.ite h.rfsat h.rfsat)

theorem putMemArr {p a : Nat} {v : MemArr} (h : SameMem s t) : SameMem s (Machine.putMemArr p a v t) := h.frame rfl

theorem slotUsed {p a n : Nat} {consumed : Bool} (h : SameMem s t) : SameMem s (Machine.slotUsed p a n consumed t) :=
  .ite h (.ite (.ite h.putMemArr h) h.touchCore.putArr)

theorem slotRead {p a off n form : Nat} (h : SameMem s t) : SameMem s (Machine.slotRead p a off n form t).2 :=
  .ite_snd h (.ite_snd h (by
      split
      · exact h.sramUncorrectable
      · exact .ite h.sramCorrected.setTag h.sramCorrected))

theorem extRead {p a off n form : Nat} (h : SameMem s t) : SameMem s (Machine.extRead p a off n form t).2 := by
  have hr := h.slotRead (p := p) (a := a) (off := off) (n := n) (form := form)
  refine .ite_snd h ?_
  split
  · next e => exact (hr.of_eq e).slotUsed
  · exact hr

theorem tallyBump {t' : Bool × Nat × Nat} {n : Nat} (h : SameMem s t) : SameMem s (Machine.tallyBump t' n t) :=
  h.rput.rfadd

theorem svcSend {p router : Nat} {k : SvcKind} {loc : Word} (h : SameMem s t) :
    SameMem s (Machine.svcSend p router k loc t) :=
  h.frame rfl

theorem dropWaits {f : Waiter → Bool} (h : SameMem s t) : SameMem s (Machine.dropWaits f t) := h.frame rfl

theorem dropWait {w : Waiter} (h : SameMem s t) : SameMem s (Machine.dropWait w t) := h.dropWaits

theorem addWait {n : Nat} {t' : Word} {w : Waiter} {via : Option MeshSrc} (h : SameMem s t) :
    SameMem s (Machine.addWait n t' w via t) :=
  h.frame rfl

theorem waitStep {home router : Nat} {loc : Word} {n : Nat} {target : Word} {who : Waiter} (h : SameMem s t) :
    SameMem s (Machine.waitStep home router loc n target who t).2 := by
  unfold Machine.waitStep
  split
  · split
    · exact h.dropWait
    · exact .ite_snd h (.ite_snd (h.frame rfl) h)
  · split
    · exact h
    · exact .ite_snd (.ite_snd (h.frame rfl) h.addWait) h.svcSend.addWait

theorem doneSend {home router : Nat} {loc : Word} {tally amount : Nat} (h : SameMem s t) :
    SameMem s (Machine.doneSend home router loc tally amount t).2 := by
  unfold Machine.doneSend
  split
  · exact h
  · exact .ite_snd h.tallyBump h.svcSend

/-! ### Machine/SetupBase -/

theorem countVia {via : Via} {k : Nat} {st : Status} (h : SameMem s t) : SameMem s (Machine.countVia via k st t) :=
  h.countErr

theorem countDenied {via : Via} {k : Nat} {st : Status} (h : SameMem s t) :
    SameMem s (Machine.countDenied via k st t) :=
  .ite h.countVia.report h.countVia

theorem viaWrite {via : Via} {k : Nat} {f : State → Status × State} (h : SameMem s t)
    (hf : ∀ u, SameMem s u → SameMem s (f u).2) : SameMem s (Machine.viaWrite via k f t).2 := by
  unfold Machine.viaWrite
  split
  · exact h
  · exact .ite h.countDenied h
  · exact .ite (hf _ h) ((hf _ h).countVia)

theorem answerRead {via : Via} {k : Nat} {v : Word} (h : SameMem s t) : SameMem s (Machine.answerRead via k v t) :=
  h.frame rfl

theorem viaRead {via : Via} {k : Nat} {f : State → Except Status (Word × State)} (h : SameMem s t)
    (hf : ∀ u x, SameMem s u → f u = .ok x → SameMem s x.2) : SameMem s (Machine.viaRead via k f t).2.2 := by
  unfold Machine.viaRead
  split
  · exact h
  · exact .ite h.countDenied h
  · split
    · next e => exact hf _ _ h e
    · exact h.countVia

theorem plainWrite {k : Nat} {v : Word} (h : SameMem s t) : SameMem s (Machine.plainWrite k v t) := h.rput

theorem ctlDesc {p cls : Nat} {st : Status} (h : SameMem s t) : SameMem s (Machine.ctlDesc p cls st t) :=
  .ite h.rfadd h.rfadd.rfput.rfput

/-! ### Machine/Cvu -/

theorem cvuSet {ring : Bool} {p u' v : Nat} (h : SameMem s t) : SameMem s (Machine.cvuSet ring p u' v t) := h.rput.rfput

theorem cvuFeed {ring : Bool} {p u' : Nat} {bs : List Byte} (h : SameMem s t) :
    SameMem s (Machine.cvuFeed ring p u' bs t) :=
  h.rput.rfadd

theorem cvuWrite {ring : Bool} {p u' : Nat} {f : State → Status × State} (h : SameMem s t)
    (hf : ∀ u, SameMem s u → SameMem s (f u).2) : SameMem s (Machine.cvuWrite ring p u' f t).2 :=
  .ite_snd h.rfsat (hf _ h)

theorem doCvuFeed {via : Via} {k : Nat} {ring : Bool} {p u' n : Nat} {v : Word} (h : SameMem s t) :
    SameMem s (Machine.doCvuFeed via k ring p u' n v t).2 :=
  h.viaWrite (fun _ h => h.cvuWrite (fun _ h => h.cvuFeed))

theorem doCvuValue {via : Via} {ring : Bool} {p u' : Nat} {v : Word} (h : SameMem s t) :
    SameMem s (Machine.doCvuValue via ring p u' v t).2 :=
  h.viaWrite (fun _ h => h.cvuWrite (fun _ h => h.cvuSet))

theorem doCvuCfg {via : Via} {ring : Bool} {p u' : Nat} {v : Word} (h : SameMem s t) :
    SameMem s (Machine.doCvuCfg via ring p u' v t).2 :=
  h.viaWrite (fun _ h => .ite_snd h (h.cvuWrite (fun _ h => .ite h.plainWrite.cvuSet h.plainWrite)))

/-! ### Machine/Handles -/

theorem stageHdlLen {p h' : Nat} {v : Word} (h : SameMem s t) : SameMem s (Machine.stageHdlLen p h' v t) := h.frame rfl

theorem commitHdl {p h' : Nat} {v : Word} (h : SameMem s t) : SameMem s (Machine.commitHdl p h' v t).2 :=
  .ite_snd h h.plainWrite.rfput.rfadd

theorem obAdvance {p a : Nat} (h : SameMem s t) : SameMem s (Machine.obAdvance p a t) := h.rfadd

theorem obDataWrite {p a : Nat} {v : Word} (h : SameMem s t) : SameMem s (Machine.obDataWrite p a v t).2 :=
  .ite_snd h h.obWrite.obAdvance

theorem obDataRead {p a : Nat} {x : Word × State} (h : SameMem s t) (e : Machine.obDataRead p a t = .ok x) :
    SameMem s x.2 := by
  unfold Machine.obDataRead at e
  split at e
  · cases e
  · obtain rfl := Except.ok.inj e
    exact h.obAdvance

theorem dataAccess {via : Via} {k : Nat} {write : Bool} {w : State → Status × State}
    {r : State → Except Status (Word × State)} (h : SameMem s t) (hw : ∀ u, SameMem s u → SameMem s (w u).2)
    (hr : ∀ u x, SameMem s u → r u = .ok x → SameMem s x.2) : SameMem s (Machine.dataAccess via k write w r t) :=
  .ite (h.viaWrite hw) (h.viaRead hr).answerRead

theorem putDesc {p o : Nat} {bs : List Byte} (h : SameMem s t) : SameMem s (Machine.putDesc p o bs t) :=
  h.frame rfl

theorem descDataWrite {p : Nat} {v : Word} (h : SameMem s t) : SameMem s (Machine.descDataWrite p v t).2 :=
  .ite_snd h h.putDesc.rfadd

theorem descDataRead {p : Nat} {x : Word × State} (h : SameMem s t) (e : Machine.descDataRead p t = .ok x) :
    SameMem s x.2 := by
  obtain rfl := Except.ok.inj e
  exact h.rfadd

theorem otpDataWrite {v : Word} (h : SameMem s t) : SameMem s (Machine.otpDataWrite v t).2 :=
  .rfadd (h.frame rfl)

theorem otpDataRead {x : Word × State} (h : SameMem s t) (e : Machine.otpDataRead t = .ok x) : SameMem s x.2 := by
  obtain rfl := Except.ok.inj e
  exact h.rfadd

/-! ### Machine/Retire -/

theorem putFlight {c : Cmd} {l : List Cmd} (h : SameMem s t) : SameMem s (Machine.putFlight c l t) := by
  unfold Machine.putFlight
  split
  · exact h.putRing
  · split
    · exact h.putSess
    · exact h

theorem noteFlight {c : Cmd} (h : SameMem s t) : SameMem s (Machine.noteFlight c t) := .ite h h.putFlight

theorem dropFlight {c : Cmd} (h : SameMem s t) : SameMem s (Machine.dropFlight c t) := .ite (h.frame rfl) h.putFlight

theorem discardRec {r : Retired} (h : SameMem s t) : SameMem s (Machine.discardRec r t) :=
  .ite h (.ite h.reportRefusal h.report)

theorem retireRec {told : Bool} {c : Cmd} {st : Status} {r0 r1 detail : Word} {cv nonrepeat : Bool} (h : SameMem s t) :
    SameMem s (Machine.retireRec told c st r0 r1 detail cv nonrepeat t) :=
  .ite (.discardRec (.dropWait (.dropFlight (h.frame rfl)))) (by
      split
      · exact .putRing (.dropWait (.dropFlight (h.frame rfl)))
      · split
        · exact .putSess (.dropWait (.dropFlight (h.frame rfl)))
        · exact .dropWait (.dropFlight (h.frame rfl)))

theorem retireCmd {c : Cmd} {st : Status} {r0 r1 detail : Word} {cv nonrepeat : Bool} (h : SameMem s t) :
    SameMem s (Machine.retireCmd c st r0 r1 detail cv nonrepeat t) :=
  h.retireRec

theorem retireAs {nonrepeat : Bool} {c : Cmd} {st : Status} {r0 r1 detail : Word} (h : SameMem s t) :
    SameMem s (Machine.retireAs nonrepeat c st r0 r1 detail t) :=
  .ite (by
      split
      · next e => exact (h.doneSend.of_eq e).retireCmd
      · next e => exact .noteFlight ((h.doneSend.of_eq e).frame rfl)
      · next e => exact (h.doneSend.of_eq e).retireCmd) h.retireCmd

theorem retireWith {c : Cmd} {st : Status} {r0 r1 detail : Word} (h : SameMem s t) :
    SameMem s (Machine.retireWith c st r0 r1 detail t) :=
  h.retireAs

theorem retireVerb {c : Cmd} {st : Status} {r0 detail : Word} (h : SameMem s t) :
    SameMem s (Machine.retireVerb c st r0 detail t) :=
  h.retireWith

theorem verbDone {id : MeshSrc} {st : Status} (h : SameMem s t) : SameMem s (Machine.verbDone id st t) := by
  unfold Machine.verbDone
  split
  · exact h
  · exact .retireCmd (h.frame rfl)

theorem refuse {c : Cmd} {st : Status} {detail : Word} (h : SameMem s t) : SameMem s (Machine.refuse c st detail t) :=
  h.retireVerb

theorem cmdWait {c : Cmd} (h : SameMem s t) : SameMem s (Machine.cmdWait c t).2 := .ite_snd h.waitStep h

theorem noteVerb {code : Nat} {c : Cmd} (h : SameMem s t) : SameMem s (Machine.noteVerb code c t) :=
  .noteFlight (.ite (h.frame rfl) h)

theorem cmdArrives {c : Cmd} (h : SameMem s t) : SameMem s (Machine.cmdArrives c t) := by
  unfold Machine.cmdArrives
  split
  · exact h
  · split
    · exact .ite h h.putSess
    · exact h

theorem judgeVerb {code : Nat} {c : Cmd} {bodyOk : Bool} {run : State → State} (h : SameMem s t)
    (hrun : ∀ u, SameMem s u → SameMem s (run u)) : SameMem s (Machine.judgeVerb code c bodyOk run t) := by
  unfold Machine.judgeVerb
  split
  · exact h
  · refine .ite h.noteVerb ?_
    split
    · next e => exact (h.cmdWait.of_eq e).refuse
    · next e => exact (h.cmdWait.of_eq e).noteVerb
    · next e =>
      have hw := h.cmdWait.of_eq e
      split
      · exact hw.refuse
      · exact .ite hw.refuse (.ite hw.refuse (.ite hw.refuse (hrun _ hw)))

theorem issueVerb {code : Nat} {c : Cmd} {bodyOk : Bool} {run : State → State} (h : SameMem s t)
    (hrun : ∀ u, SameMem s u → SameMem s (run u)) : SameMem s (Machine.issueVerb code c bodyOk run t) := by
  unfold Machine.issueVerb
  split
  · exact h.cmdArrives.judgeVerb hrun
  · exact h

theorem endLong {st : Status} {r0 detail : Word} (h : SameMem s t) : SameMem s (Machine.endLong st r0 detail t) := by
  unfold Machine.endLong
  split
  · exact .retireVerb (h.frame rfl)
  · exact h

theorem beginLong {code : Nat} {c : Cmd} (h : SameMem s t) : SameMem s (Machine.beginLong code c t) :=
  .noteFlight (h.frame rfl)

/-! ### Machine/StageStep -/

theorem pushBatons {p a : Nat} {em snd : List (Nat × Nat)} (h : SameMem s t) :
    SameMem s (Machine.pushBatons p a em snd t) :=
  h.putArr.rfadd

theorem traceVec {l : Loc} {v : Vec} (h : SameMem s t) : SameMem s (Machine.traceVec l v t) := .ite h.putArr h

theorem writeDst {l : Loc} {e' : Entry} {r : StepRes} (h : SameMem s t) : SameMem s (Machine.writeDst l e' r t) := by
  unfold Machine.writeDst
  split
  · exact h
  · exact .ite h.putStage (.ite (.foldl h fun _ _ h => h.obWrite) (.ite h.rfadd.putArr.traceVec h))

theorem stepOn {l : Loc} {e' : Entry} (h : SameMem s t) : SameMem s (Machine.stepOn l e' t) :=
  .ite h.rfput.rfput.rfput h.rfput.rfput.rfput.rfput

theorem commitStage {l : Loc} {r : StepRes} (h : SameMem s t) : SameMem s (Machine.commitStage l r t) := by
  unfold Machine.commitStage
  extract_lets _ _ _ s1 _ s2 s3 s4 s5 _ s6 _
  have h1 : SameMem s s1 := h.putStage
  have h2 : SameMem s s2 := .ite h1.rput h1
  have h3 : SameMem s s3 := h2.rput
  have h4 : SameMem s s4 := .ite h3 h3.rfadd
  have h5 : SameMem s s5 := .ite h4 h4.rfput
  have h6 : SameMem s s6 := .ite h5 h5.putStand
  exact h6.putArr

theorem commitStore {l : Loc} {r : StepRes} (hr : r.store = none) (h : SameMem s t) :
    SameMem s (Machine.commitStore l r t) := by
  unfold Machine.commitStore
  extract_lets _ s1 s2 s3 s4 s5
  have h1 : SameMem s s1 := .ite h.putStage h
  have h2 : SameMem s s2 := by
    unfold s2
    split
    · exact h1.setTag
    · exact h1
  have h3 : SameMem s s3 := .ite h2 h2.rfsat
  have h4 : SameMem s s4 := .foldl h3 fun _ _ h => h.report
  have h5 : SameMem s s5 := .ite h4.dropWait h4
  rw [hr]
  exact h5

theorem forwards {l : Loc} {r : StepRes} (h : SameMem s t) : SameMem s (Proofs.forwards l r t) := by
  unfold Proofs.forwards
  split
  · exact h.putStage
  · exact h

theorem regsOnly (h : SameMem s t) (hu : RegsOnly t u) : SameMem s u := by
  obtain ⟨g, rfl⟩ := hu
  exact h.frame rfl

theorem commitStep {l : Loc} {e : Entry} {r : StepRes} (hr : r.store = none) (hc : Machine.commitStep l e r s = .ok t) :
    SameMem s t := by
  obtain ⟨bi, bi', em, snd, u, hadv, rfl⟩ := commitStep_ok hc
  have hu : AdvEnds (stepAdvances s l e r) _ (.ok (bi', em, u)) := hadv ▸ advEnds_advCounters (.refl _)
  exact (((refl s).writeDst.commitStage.commitStore hr).regsOnly hu).putArr.pushBatons.forwards.stepOn

theorem stageWaits {l : Loc} {cause : Nat} {ctr : Option Nat} (h : SameMem s t) :
    SameMem s (Machine.stageWaits l cause ctr t) := by
  unfold Machine.stageWaits
  extract_lets _ s1
  have h1 : SameMem s s1 := h.rfput.rfput
  split
  · exact h1.rfput
  · exact h1

theorem stageStops {l : Loc} {st : Status} {lanes : BitVec 16} {data : List Byte} (h : SameMem s t) :
    SameMem s (Machine.stageStops l st lanes data t) := by
  unfold Machine.stageStops
  extract_lets _ s1 s2 _ s3 _ s4 _ _ s5 _ s6
  have h2 : SameMem s s2 := h.rfput.rfput.rfput.rfput.rfput.rfput
  have h3 : SameMem s s3 := .ite h2.rfput.rfput h2
  have h4 : SameMem s s4 := .ite h3.rfput.rfput.rfput.rfput.rfput h3
  have h5 : SameMem s s5 := .ite h4.taint h4
  have h6 : SameMem s s6 := h5.putStage
  exact h6.report

theorem stageReplays {l : Loc} {lanes : BitVec 16} (h : SameMem s t) : SameMem s (Machine.stageReplays l lanes t) :=
  .ite h.stageStops h.putStage

theorem stageUncorrectable {l : Loc} {key : Nat} (h : SameMem s t) : SameMem s (Machine.stageUncorrectable l key t) :=
  .ite h (.report (.taint (.ite h.rfput.rfput h.rfput.rfput.rfput.rfput)))

/-- A step whose evaluation stores nothing keeps the memory, however it ends. -/
theorem runStep {l : Loc} {e : Entry} {f : Loc → Entry → State → StepEnd}
    (hf : Yields (fun r => r.store = none) (f l e s)) :
    SameMem s (Machine.runStep l e f s) := by
  have h := refl s
  unfold Machine.runStep
  refine .ite h ?_
  split
  · next r hr =>
    split
    · next hc => exact commitStep (hf.of_commit hr) hc
    · exact h.stageWaits
    · exact h
    · exact h
  · exact h.stageWaits
  · exact h.stageStops
  · exact h.stageReplays
  · exact h.stageUncorrectable

/-! ### Machine/StageIo -/

theorem twaitStart {l : Loc} {e : Entry} (h : SameMem s t) : SameMem s (Machine.twaitStart l e t) := by
  unfold Machine.twaitStart
  split
  · exact h.waitStep
  · exact h

theorem runTwait {l : Loc} {e : Entry} : SameMem s (Machine.runTwait l e s) := by
  have h : SameMem s (Machine.runStep l e evalTwait s) := runStep (quiet_evalTwait.imp fun _ hq => hq.1)
  refine .ite (refl s) ?_
  dsimp only
  split
  · exact h.twaitStart
  · exact h.dropWait
  · exact h

/-! ### Machine/Mesh -/

theorem putNode {p n : Nat} {v : NodeSt} (h : SameMem s t) : SameMem s (Machine.putNode p n v t) := h.frame rfl

theorem putSeam {p d : Nat} {v : SeamPort} (h : SameMem s t) : SameMem s (Machine.putSeam p d v t) := h.frame rfl

theorem addCredit {c delay : Nat} (h : SameMem s t) : SameMem s (Machine.addCredit c delay t) := h.frame rfl

theorem batonStops {p a expected received : Nat} (h : SameMem s t) :
    SameMem s (Machine.batonStops p a expected received t) :=
  h.rfput.rfput.rfput.rfput.report

theorem batonArrives {p a : Nat} {b : BitVec 16} {conn : Nat} (h : SameMem s t) :
    SameMem s (Machine.batonArrives p a b conn t).2 :=
  .ite_snd h (.ite_snd h.batonStops h.putArr.rfadd)

/-! ### Machine/Boundary -/

theorem clearTraces (h : SameMem s t) : SameMem s (Machine.clearTraces t) := h.frame rfl

theorem seamResend {p d : Nat} {n : Byte} (h : SameMem s t) : SameMem s (Machine.seamResend p d n t) := .ite h.putSeam h

theorem frameBad {p d : Nat} {f : SeamFrame} (h : SameMem s t) : SameMem s (Machine.frameBad p d f t) :=
  .putSeam (.ite h.rfsat h.rfsat.rfsat)

theorem frameGood {p d : Nat} {f : SeamFrame} (h : SameMem s t) : SameMem s (Machine.frameGood p d f t) :=
  .ite (.ite h.putSeam.seamResend h.putSeam) (.foldl (.rfput (.putSeam (.ite h.putSeam.seamResend h.putSeam))) fun _ _ h
    => h.addCredit)

theorem doBatonIn {a : ArrayLoc} {b : BitVec 16} (h : SameMem s t) : SameMem s (Machine.doBatonIn a b t) := by
  unfold Machine.doBatonIn
  split
  · exact h
  · exact .ite h (.ite (h.frame rfl) h.batonArrives)

theorem doNoCompletion {l : StageLoc} {lanes : BitVec 16} (h : SameMem s t) :
    SameMem s (Machine.doNoCompletion l lanes t) := by
  unfold Machine.doNoCompletion
  split
  · exact h
  · exact .ite h h.stageStops

theorem doHeartbeat {a : ArrayLoc} (h : SameMem s t) : SameMem s (Machine.doHeartbeat a t) := by
  unfold Machine.doHeartbeat
  split
  · exact h
  · exact .ite h h.putArr

theorem doNoProgress {p : Nat} (h : SameMem s t) : SameMem s (Machine.doNoProgress p t) :=
  .foldl (.foldl h fun _ _ h => h.report) fun _ _ h => h.putNode.rfput

/-! ### Machine/Relay -/

theorem putSide {p d : Nat} {v : Side} (h : SameMem s t) : SameMem s (Machine.putSide p d v t) := h.frame rfl

theorem followSource {p : Nat} (h : SameMem s t) : SameMem s (Machine.followSource p t) := h.rput.rfput.rfput

theorem steerCheck {p : Nat} (h : SameMem s t) : SameMem s (Machine.steerCheck p t) := .ite h.rfput h

theorem markersGo {n : Nat} {ps : List Nat} (h : SameMem s t) : SameMem s (Machine.markersGo n ps t) := by
  induction n generalizing ps t with
  | zero => exact h
  | succ n ih =>
    cases ps with
    | nil => exact h
    | cons p ps =>
      simp only [Machine.markersGo]
      refine ih (.foldl_snd h fun x d h => ?_)
      split
      · exact h
      · exact .ite_snd (.ite_snd h.putSide.followSource h.putSide.followSource) h.putSide.steerCheck

theorem sendMarker {p : Nat} (h : SameMem s t) : SameMem s (Machine.sendMarker p t) := h.markersGo

theorem selectSource {p d : Nat} (h : SameMem s t) : SameMem s (Machine.selectSource p d t) :=
  h.rfput.rfput.rfsat.followSource.sendMarker

theorem doSrcSel {via : Via} {p : Nat} {v : Word} (h : SameMem s t) : SameMem s (Machine.doSrcSel via p v t).2 :=
  h.viaWrite (fun _ h => (by
      dsimp only
      split
      · exact h.rfput
      · exact h.selectSource))

theorem putReady {p d : Nat} {b : Bool} (h : SameMem s t) : SameMem s (Machine.putReady p d b t) := h.rfput.rfput

theorem sourceLost {p : Nat} (h : SameMem s t) : SameMem s (Machine.sourceLost p t) :=
  .ite h.putReady.rfput.sendMarker.report h.putReady

theorem putShown {p d : Nat} {w : SideShow} (h : SameMem s t) : SameMem s (Machine.putShown p d w t) :=
  .ite h.rfput.rfput h.rfput

theorem doSideReady {p d : Nat} {w : SideShow} {m : Side} (h : SameMem s t) :
    SameMem s (Machine.doSideReady p d w m t) := by
  have h1 : ∀ b, SameMem s (Machine.putReady p d b (if b = true then Machine.putSide p d m t else t)) :=
    fun _ => .putReady (.ite h.putSide h)
  exact .ite h.sourceLost.putShown (.ite (h1 _).putShown.followSource.sendMarker (h1 _).putShown.steerCheck)

/-! ### Machine/Service -/

theorem svcEnd {src : MeshSrc} (h : SameMem s t) : SameMem s (Machine.svcEnd src t) := h.frame rfl

theorem srcErr {st : Status} {src : MeshSrc} {addr : Nat} (h : SameMem s t) :
    SameMem s (Machine.srcErr st src addr t) :=
  .ite h.countErr h.countErr

theorem respond {src : MeshSrc} {a : SvcAnswer} (h : SameMem s t) : SameMem s (Machine.respond src a t) := h.frame rfl

theorem svcHold {src : MeshSrc} {k : SvcKind} (h : SameMem s t) : SameMem s (Machine.svcHold src k t) := by
  unfold Machine.svcHold
  split
  · exact h.frame rfl
  · exact h.frame rfl

theorem svcNote {src : MeshSrc} {k : SvcKind} (h : SameMem s t) : SameMem s (Machine.svcNote src k t) := by
  unfold Machine.svcNote
  split
  · exact h
  · exact h.frame rfl

theorem noRoute {src : MeshSrc} {addr : BitVec 48} (h : SameMem s t) : SameMem s (Machine.noRoute src addr t) :=
  h.srcErr.report.respond

theorem svcArrive {src : MeshSrc} {k : SvcKind} {f : State → State} (h : SameMem s t)
    (hf : ∀ u, SameMem s u → SameMem s (f u)) : SameMem s (Machine.svcArrive src k f t) := by
  unfold Machine.svcArrive
  dsimp only
  split
  · exact h.svcNote.respond
  · exact .ite (hf _ h.svcNote) h.svcNote.noRoute

/-- The read of a DRAM slot is taken for any that keeps: the kernel would evaluate the address that it reads. -/
theorem doReadRequest {src : MeshSrc} {form : BitVec 2} {addr : BitVec 48} {z : BitVec 8} (h : SameMem s t) :
    SameMem s (Machine.doReadRequest src form addr z t) := by
  obtain ⟨read, hr⟩ : ∃ read, read = Machine.dramRead := ⟨_, rfl⟩
  have hd : ∀ {p sl off n u}, SameMem s u → SameMem s (read p sl off n u).2 := hr ▸ dramRead
  unfold Machine.doReadRequest
  rw [← hr]
  refine h.svcArrive fun _ h => ?_
  split
  · exact h.respond
  · split
    · next e => exact ((hd h).of_eq e).respond
    · next e => exact ((hd h).of_eq e).svcHold
  · split
    · next e => exact (h.extRead.of_eq e).respond
    · next e => exact (h.extRead.of_eq e).svcHold
    · next e => exact (h.extRead.of_eq e).respond

theorem doTallyIncrement {src : MeshSrc} {n : BitVec 16} {amount : Word} (h : SameMem s t) :
    SameMem s (Machine.doTallyIncrement src n amount t) :=
  h.svcArrive (fun _ h => (by
      split
      · exact h.tallyBump.respond
      · exact h.respond))

theorem doPost {src : MeshSrc} {a : ArrayLoc} {first last : BitVec 13} {write : Bool} {owner : BitVec 6}
    (h : SameMem s t) : SameMem s (Machine.doPost src a first last write owner t) := by
  unfold Machine.doPost
  refine h.svcArrive fun _ h => ?_
  dsimp only
  split
  · exact h.respond
  · exact .ite h.respond (.ite (.respond (.ite h h.putMemArr)) h.putMemArr.rfsat.svcHold)

theorem doRecord {src : MeshSrc} {st : Status} {location addr : Word} {data : BitVec 192} (h : SameMem s t) :
    SameMem s (Machine.doRecord src st location addr data t) :=
  h.svcArrive (fun _ h => h.report.respond)

theorem doMgmt {src : MeshSrc} {message : BitVec 512} (h : SameMem s t) : SameMem s (Machine.doMgmt src message t) :=
  h.svcArrive (fun _ h => .respond (h.frame rfl))

theorem doTallyWait {src : MeshSrc} {n : BitVec 16} {target : Word} (h : SameMem s t) :
    SameMem s (Machine.doTallyWait src n target t) :=
  h.svcArrive (fun _ h => (by
      split
      · exact h.respond
      · exact .ite h.respond (by
            dsimp only
            split
            · exact h.svcHold
            · exact h.svcHold.addWait)))

theorem doTallyWaitComplete {n : Nat} (h : SameMem s t) : SameMem s (Machine.doTallyWaitComplete n t) := by
  unfold Machine.doTallyWaitComplete
  split
  · exact h
  · exact .foldl (h.frame rfl) fun _ _ h => h.respond

theorem takeResp {dst : MeshSrc} {f : SvcAnswer → Bool} (h : SameMem s t) : SameMem s (Machine.takeResp dst f t) := by
  unfold Machine.takeResp
  split
  · exact h.frame rfl
  · exact h

theorem gotResponse {dst : MeshSrc} {a : SvcAnswer} {f : SvcReq → State → State} (h : SameMem s t)
    (hf : ∀ a u, SameMem s u → SameMem s (f a u)) : SameMem s (Machine.gotResponse dst a f t) := by
  unfold Machine.gotResponse
  dsimp only
  have ht := h.takeResp (dst := dst) (f := fun x => decide (x = a))
  split
  · exact ht.srcErr
  · have hd := ht.svcEnd (src := dst)
    exact .ite hd (hf _ _ (hd.frame rfl))

theorem waitFails {id : MeshSrc} {st : Status} (h : SameMem s t) : SameMem s (Machine.waitFails id st t) := by
  unfold Machine.waitFails
  split
  · exact h
  · split
    · exact h.dropWait.stageStops
    · exact h.frame rfl

theorem svcFailed {st : Status} {r : SvcReq} (h : SameMem s t) : SameMem s (Machine.svcFailed st r t) := by
  unfold Machine.svcFailed
  split
  · exact .ite h.report h
  · exact h.report
  · exact h.waitFails
  · exact h

theorem doServiceTimeout {dst : MeshSrc} (h : SameMem s t) : SameMem s (Machine.doServiceTimeout dst t) := by
  unfold Machine.doServiceTimeout
  split
  · exact h
  · exact h.svcEnd.svcFailed

theorem svcReroute (h : SameMem s t) : SameMem s (Machine.svcReroute t) :=
  .foldl h fun _ _ h => .ite h (by
      split
      · exact .ite (.respond (h.frame rfl)) h
      · exact .ite h.noRoute h)

theorem seamDies {p d cause : Nat} (h : SameMem s t) : SameMem s (Machine.seamDies p d cause t) :=
  .ite h.rfput.putSeam.report.steerCheck.svcReroute h

theorem doSeamFrame {p d : Nat} {seq : Byte} {good request : Bool} {ack : Byte} (h : SameMem s t) :
    SameMem s (Machine.doSeamFrame p d seq good request ack t) := by
  unfold Machine.doSeamFrame
  split
  · exact h
  · split
    · exact h
    · exact .ite h (.ite h.putSeam (.ite h.putSeam.frameGood h.putSeam.frameBad))

/-! ### Machine/Engine -/

theorem putHubQ {p q : Nat} {v : HubQ} (h : SameMem s t) : SameMem s (Machine.putHubQ p q v t) := h.frame rfl

/-! ### Machine/Hub -/

theorem putGate {p n v : Nat} (h : SameMem s t) : SameMem s (Machine.putGate p n v t) := h.frame rfl

theorem queueAdvance {p q : Nat} (h : SameMem s t) : SameMem s (Machine.queueAdvance p q t) :=
  .ite h.putHubQ.rfput (.ite h.putHubQ (.ite h.putHubQ.rfput.rfadd h.putHubQ.rfput))

theorem postDesc {c : Cmd} {port : Nat} (h : SameMem s t) : SameMem s (Machine.postDesc c port t).2 :=
  .ite_snd h (by
      split
      · exact h
      · exact .ite_snd h (.ite_snd h (.ite_snd h (.ite_snd h h.putHubQ.putDesc))))

theorem doDmaStand {c : Cmd} (h : SameMem s t) : SameMem s (Machine.doDmaStand c t) :=
  .ite h.noteFlight (.ite h (by
      split
      · exact h.refuse
      · exact .ite h.refuse (.ite h.postDesc.noteFlight h.postDesc.refuse)))

theorem releaseQueue {p q action : Nat} (h : SameMem s t) : SameMem s (Machine.releaseQueue p q action t) :=
  .ite h.rfput.rfput (.ite h.rfput.rfput.queueAdvance h.rfput.rfput.rfput)

theorem doRelease {c : Cmd} (h : SameMem s t) : SameMem s (Machine.doRelease c t) :=
  h.issueVerb (fun _ h => .ite h.refuse (.ite h.refuse (by
      split
      · exact h.refuse
      · exact .ite h.refuse h.releaseQueue.retireVerb)))

/-! ### Machine/Host -/

theorem doCmdDoorbell {p r v : Nat} (h : SameMem s t) : SameMem s (Machine.doCmdDoorbell p r v t) :=
  .ite h.countErr (.ite h.countErr h.putRing)

theorem doCplDoorbell {p r v : Nat} (h : SameMem s t) : SameMem s (Machine.doCplDoorbell p r v t) :=
  .ite h.countErr (.ite h.countErr h.putRing)

theorem doEvDoorbell {p v : Nat} (h : SameMem s t) : SameMem s (Machine.doEvDoorbell p v t) :=
  .ite h.countErr (.ite h.countErr h.putPort)

theorem settleReserved {p r : Nat} (h : SameMem s t) : SameMem s (Machine.settleReserved p r t) :=
  .foldl h fun _ _ h => .ite h (by
      split
      · next e => exact h.cmdWait.of_eq e
      · next e => exact (h.cmdWait.of_eq e).retireCmd
      · next e => exact (h.cmdWait.of_eq e).retireCmd)

theorem doFetch {p : Nat} {entry : BitVec 512} (h : SameMem s t) : SameMem s (Machine.doFetch p entry t) := by
  have hf : ∀ w f, SameMem s w → SameMem s { w with fetchOrder := f } := fun _ _ h => h.frame rfl
  refine .ite h ?_
  split
  · exact h
  · exact .ite h.putPort.putRing (.ite h.putPort.putRing.putRing.settleReserved (.ite (hf _ _ h.putPort.putRing)
      h.putPort.putRing))

theorem doRetire {p r : Nat} (h : SameMem s t) : SameMem s (Machine.doRetire p r t) := by
  unfold Machine.doRetire
  dsimp only
  split
  · exact h.settleReserved
  · exact .ite h.settleReserved.putRing.discardRec (.ite h.settleReserved (.ite
      h.settleReserved.hostWrite.putRing.raiseIrq h.settleReserved.hostWrite.putRing))

theorem doCrCfg {via : Via} {p r : Nat} {v : Word} (h : SameMem s t) : SameMem s (Machine.doCrCfg via p r v t).2 :=
  h.viaWrite (fun _ h => (by
      dsimp only
      split
      · exact h
      · exact h.plainWrite.putRing
      · exact h.plainWrite.putRing
      · exact h.plainWrite))

theorem putGring {p q : Nat} {v : GRing} (h : SameMem s t) : SameMem s (Machine.putGring p q v t) := h.frame rfl

/-! ### Machine/Tally -/

theorem doTlyCount {via : Via} {ring : Bool} {p i : Nat} {v : Word} (h : SameMem s t) :
    SameMem s (Machine.doTlyCount via ring p i v t).2 :=
  h.viaWrite (fun _ h => h.rput)

theorem doTlyAdd {via : Via} {ring : Bool} {p i : Nat} {v : Word} (h : SameMem s t) :
    SameMem s (Machine.doTlyAdd via ring p i v t).2 :=
  h.viaWrite (fun _ h => h.tallyBump)

theorem doTlyCfg {via : Via} {i : Nat} {v : Word} (h : SameMem s t) : SameMem s (Machine.doTlyCfg via i v t).2 :=
  h.viaWrite (fun _ h => .ite_snd (.ite h.rfput h.plainWrite) (.ite_snd (.ite_snd h h) (.ite_snd h.plainWrite h)))

theorem doTlyWatch {via : Via} {i : Nat} {limit : Bool} {v : Word} (h : SameMem s t) :
    SameMem s (Machine.doTlyWatch via i limit v t).2 := by
  cases limit
  · exact h.viaWrite fun _ h => .ite_snd h h.plainWrite
  · exact h.viaWrite fun _ h => .ite_snd h h.plainWrite

/-! ### Machine/Port -/

theorem aerNote {p i : Nat} (h : SameMem s t) : SameMem s (Machine.aerNote p i t) := h.putPort

theorem refusePeer {p hpa : Nat} (h : SameMem s t) : SameMem s (Machine.refusePeer p hpa t) :=
  h.countErr.putPort.aerNote.report

theorem doPeerPosted {p hpa : Nat} (h : SameMem s t) : SameMem s (Machine.doPeerPosted p hpa t) := .ite h h.refusePeer

theorem doConfigSpace {p : Nat} {w : ConfigAccess} (h : SameMem s t) : SameMem s (Machine.doConfigSpace p w t) := by
  cases w with
  | completionTimeout | msixControl | aerClear => exact h.putPort
  | decoder => exact .ite h (h.frame rfl)
  | msixVector => exact .ite h h.putPort
  | readTimeout | readDecoder | readMsix | readPending | readAer | readLocator => exact h.frame rfl

/-! ### Machine/Sec -/

theorem fwWaits {st : Option Status} (h : SameMem s t) : SameMem s (Machine.fwWaits st t) := by
  unfold Machine.fwWaits
  dsimp only
  split
  · exact .rfput (.rfput (.rfput (h.frame rfl)))
  · exact .rfput (.rfput (h.frame rfl))

theorem fwSessionGone {k : Nat} (h : SameMem s t) : SameMem s (Machine.fwSessionGone k t) := .ite h.fwWaits h

theorem endSession {k : Nat} (h : SameMem s t) : SameMem s (Machine.endSession k t) :=
  .putSess (h.fwSessionGone.frame rfl)

theorem endSessionsOf {f : Nat → Bool} (h : SameMem s t) : SameMem s (Machine.endSessionsOf f t) :=
  .foldl h fun _ _ h => h.endSession

theorem endSessions (h : SameMem s t) : SameMem s (Machine.endSessions t) := h.endSessionsOf

theorem secError {test : Nat} (h : SameMem s t) : SameMem s (Machine.secError test t) :=
  .ite h (.foldl h.rfput.rfput.report.endSessions fun _ _ h => h.putPort)

theorem freeTest (h : SameMem s t) : SameMem s (Machine.freeTest t).2 := h.draw

/-! ### Machine/RingDma -/

theorem endCopy {p eng : Nat} {c : Cmd} {st : Status} {addr moved : Nat} {cv nonrep : Bool} (h : SameMem s t) :
    SameMem s (Machine.endCopy p eng c st addr moved cv nonrep t) := by
  unfold Machine.endCopy
  extract_lets _ _ _ s1 s2 _ s3 _ s4
  have h1 : SameMem s s1 := .ite h.rfput h
  have h2 : SameMem s s2 := h1.rfadd
  have h3 : SameMem s s3 := .ite h2 h2.rfput.rfput
  have h4 : SameMem s s4 := .ite h3 h3.report
  exact h4.retireRec

theorem endJob {p : Nat} {j : CopyJob} {st : Status} {addr : Nat} (h : SameMem s t) :
    SameMem s (Machine.endJob p j st addr t) :=
  h.putPort.endCopy

/-! ### Machine/Answer -/

theorem doneAnswered {id : MeshSrc} {st : Status} (h : SameMem s t) : SameMem s (Machine.doneAnswered id st t) := by
  unfold Machine.doneAnswered
  split
  · exact h.endJob
  · exact h.verbDone

/-! ### Machine/Gulem -/

theorem doGqDoorbell {p q v : Nat} (h : SameMem s t) : SameMem s (Machine.doGqDoorbell p q v t) :=
  .ite h.countErr (.ite h.countErr h.putGring)

theorem doGulFetch {p : Nat} {entry : BitVec 512} {prompt : List (BitVec 32)} {fail : Option (Status × Word)}
    (h : SameMem s t) : SameMem s (Machine.doGulFetch p entry prompt fail t) := by
  refine .ite h ?_
  split
  · exact h
  · exact h.frame rfl

/-! ### Machine/Clocks -/

theorem setRingClk {x : RingClk} (h : SameMem s t) : SameMem s { t with ringClk := x } := h.frame rfl

theorem startGlide {khz : Nat} (h : SameMem s t) : SameMem s (Machine.startGlide khz t) :=
  .ite h.rfput (.rfput (.setRingClk h.rfput))

theorem doSlotCfg {via : Via} {v : Word} (h : SameMem s t) : SameMem s (Machine.doSlotCfg via v t).2 :=
  h.viaWrite fun _ h => .ite_snd h (by
    split
    · exact h
    · exact h.startGlide)

theorem doSetClock {c : Cmd} (h : SameMem s t) : SameMem s (Machine.doSetClock c t) :=
  h.issueVerb fun _ h => .ite h.beginLong (by
    split
    · exact h.refuse
    · exact .ite h.startGlide.retireVerb h.startGlide.beginLong)

theorem afterGlide (h : SameMem s t) : SameMem s (Machine.afterGlide t) := by
  unfold Machine.afterGlide
  split
  · refine .ite h.endLong (.ite ?_ h)
    split
    · exact h.endLong
    · exact .startGlide (h.frame rfl)
  · exact h

theorem doGlideEnd (h : SameMem s t) : SameMem s (Machine.doGlideEnd t) := by
  unfold Machine.doGlideEnd
  split
  · exact h
  · exact h.setRingClk.rfput.rfput.rfput.rfput.afterGlide

theorem glideCut (h : SameMem s t) : SameMem s (Machine.glideCut t) := .ite h.afterGlide h

theorem doRefLost (h : SameMem s t) : SameMem s (Machine.doRefLost t) := by
  have hcut : SameMem s (match t.ringClk.glide with
      | none => t
      | some khz =>
        let (w, t) := Machine.draw t
        Machine.rfput ClkSlotStatus.key ClkSlotStatus.currentKhz
          (glideStop (rf t ClkSlotStatus.key ClkSlotStatus.currentKhz) khz w) t) := by
    split
    · exact h
    · exact h.draw.rfput
  have hend : ∀ (c : Bool) u, SameMem s u → SameMem s (if c = true then Machine.glideCut u else u) :=
    fun _ _ h => .ite h.glideCut h
  exact .ite (hend _ _ (.report (.rfput (.rfsat (.rfput (.rfput (.rfput (.setRingClk hcut))))))))
    (.ite (.report (.rfsat h.setRingClk)) h)

theorem doRefReturn (h : SameMem s t) : SameMem s (Machine.doRefReturn t) :=
  .ite h (.ite (.rfput (.rfput (.rfput h.setRingClk.rfput))) h.setRingClk.rfput)

theorem doReacquire {via : Via} (h : SameMem s t) : SameMem s (Machine.doReacquire via t).2 :=
  h.viaWrite fun _ h => .ite_snd h (.ite_snd (.ite_snd h h.rfput.startGlide) h)

theorem doClkDiv {via : Via} {p : Nat} {v : Word} (h : SameMem s t) : SameMem s (Machine.doClkDiv via p v t).2 :=
  h.viaWrite (fun _ h => .ite_snd h (.ite_snd h h.plainWrite.rfsat))

/-! ### Machine/Lockstep -/

theorem putOwn {k : Nat} {v : Option LsBlock} (h : SameMem s t) : SameMem s (Machine.putOwn k v t) := h.frame rfl

theorem putIn {k : Nat} {v : Option LsBlock} (h : SameMem s t) : SameMem s (Machine.putIn k v t) := h.frame rfl

theorem setTrace {b : Bool} {x y : Word} (h : SameMem s t) :
    SameMem s { t with traceEn := b, traceFirst := x, traceLast := y } :=
  h.frame rfl

theorem slAccept {c : Cmd} (h : SameMem s t) : SameMem s (Machine.slAccept c t) :=
  .ite (.rput (.rput (.rput (.rput (.rput (.rput (.rput (.setLsOn (.clearTraces (.setTrace (.rput
    (.ite h.rfput h)))))))))))) (.setLsOn (.clearTraces (.setTrace (.rput (.ite h.rfput h)))))

theorem doSetLockstep {c : Cmd} (h : SameMem s t) : SameMem s (Machine.doSetLockstep c t) :=
  h.issueVerb (fun _ h => .ite h.refuse (by
      split
      · exact h.refuse
      · exact h.slAccept.retireVerb))

theorem reportEpoch {e' : Nat} {st : Status} {data : List Byte} (h : SameMem s t) :
    SameMem s (Machine.reportEpoch e' st data t) :=
  .setEpoch (.report h.setEpoch)

theorem lsCannot {e' case : Nat} (h : SameMem s t) : SameMem s (Machine.lsCannot e' case t) :=
  .reportEpoch (.ite h.rfsat h.rfsat)

theorem lsLag {b : LsBlock} (h : SameMem s t) : SameMem s (Machine.lsLag b t) := .ite h h.lsCannot

theorem lsLastMatch (h : SameMem s t) : SameMem s (Machine.lsLastMatch t) := h.rput

theorem lsCompare {k : Nat} (h : SameMem s t) : SameMem s (Machine.lsCompare k t) := by
  unfold Machine.lsCompare
  split
  · exact .ite h (.ite (.lsLastMatch (.setLsOn h.putIn.putOwn.rfsat)) (.reportEpoch (.ite
      h.putIn.putOwn.rfsat.rfsat.rput.lsLastMatch h.putIn.putOwn.rfsat.rfsat)))
  · exact h

theorem lsArrived {k e' : Nat} (h : SameMem s t) : SameMem s (Machine.lsArrived k e' t) := by
  unfold Machine.lsArrived
  split
  · exact .ite h.lsCannot.putIn (.lsCompare (.putIn (by
        split
        · exact .ite (.lsLag (.ite h.putOwn.lsLag h)) (.ite h.putOwn.lsLag h)
        · exact .ite h.putOwn.lsLag h)))
  · exact .putIn (by
        split
        · exact .ite h.lsLag h
        · exact h)

theorem doLockstepCompare (h : SameMem s t) : SameMem s (Machine.doLockstepCompare t) :=
  .ite h (.foldl (.foldl (h.frame rfl) fun _ _ h => h.lsArrived) fun _ _ h => .ite h.lsCompare h)

theorem doLockstepTimeout {e' : Nat} (h : SameMem s t) : SameMem s (Machine.doLockstepTimeout e' t) := by
  unfold Machine.doLockstepTimeout
  dsimp only
  split
  · exact .ite h.putOwn.lsCannot h
  · exact h

theorem doLinkTrained {p speed width : Nat} {loflit : Bool} (h : SameMem s t) :
    SameMem s (Machine.doLinkTrained p speed width loflit t) :=
  .ite h h.putPort

/-! ### Machine/Time -/

theorem putTime {t' : Word} (h : SameMem s t) : SameMem s (Machine.putTime t' t) := h.rput

theorem advanceTime {n : Nat} (h : SameMem s t) : SameMem s (Machine.advanceTime n t) :=
  .frame (.ite h.putTime.rfput h.putTime) rfl

theorem reportStep {o : ℤ} (h : SameMem s t) : SameMem s (Machine.reportStep o t) := h.rfsat.report

theorem putOffset {o : ℤ} (h : SameMem s t) : SameMem s (Machine.putOffset o t) := h.rfput

theorem setTimeCtr {x : TimeCtr} (h : SameMem s t) : SameMem s { t with timeCtr := x } := h.frame rfl

theorem stepTime {c t' : Word} {setBit : Bool} (h : SameMem s t) : SameMem s (Machine.stepTime c t' setBit t) :=
  .reportStep (.ite (.ite h.putOffset.setTimeCtr.setTimeCtr.putTime.rfput h.putOffset.setTimeCtr.setTimeCtr.putTime)
    h.putOffset.setTimeCtr.setTimeCtr)

theorem validEdge {c : Word} (h : SameMem s t) : SameMem s (Machine.validEdge c t) := by
  unfold Machine.validEdge
  dsimp only
  split
  · exact h.rput.rfput.stepTime
  · exact .ite h.rput.rfput.setTimeCtr (.ite h.rput.rfput.setTimeCtr.setTimeCtr.putOffset
      h.rput.rfput.setTimeCtr.stepTime)

theorem doPpsEdge {now : Word} (h : SameMem s t) : SameMem s (Machine.doPpsEdge now t) :=
  .ite h.putTime.validEdge h.putTime.rfsat

theorem doTimeNext {via : Via} {v : Word} (h : SameMem s t) : SameMem s (Machine.doTimeNext via v t).2 :=
  h.viaWrite (fun _ h => h.frame rfl)

/-! ### Machine/Power -/

theorem putTile {p v : Nat} (h : SameMem s t) : SameMem s (Machine.putTile p v t) := h.rfput

theorem capChanged (h : SameMem s t) : SameMem s (Machine.capChanged t) := .rfput (h.frame rfl)

theorem doSetPowerCap {c : Cmd} (h : SameMem s t) : SameMem s (Machine.doSetPowerCap c t) :=
  h.issueVerb (fun _ h => .ite h.refuse (.ite h.refuse h.rfput.capChanged.retireVerb))

theorem doOpCeiling {via : Via} {w : Nat} (h : SameMem s t) : SameMem s (Machine.doOpCeiling via w t).2 :=
  h.viaWrite (fun _ h => .ite_snd h (.ite_snd h (.ite_snd h h.rfput.capChanged)))

theorem standEstimate {p : Nat} {counts : List Word} (h : SameMem s t) : SameMem s (Machine.standEstimate p counts t) :=
  h.rfput.rfput

theorem thermalWarn {p : Nat} (h : SameMem s t) : SameMem s (Machine.thermalWarn p t) :=
  .ite (.ite h (.report (.rfsat (h.frame rfl)))) (.ite (h.frame rfl) h)

theorem coolantWarn (h : SameMem s t) : SameMem s (Machine.coolantWarn t) := by
  unfold Machine.coolantWarn
  dsimp -zeta only
  extract_lets w data c r _ u
  have hu : SameMem s u := .ite (.ite h (.report h.setPower)) (.ite h.setPower h)
  exact .ite (.ite hu (.report hu.setPower)) (.ite hu.setPower hu)

theorem takeValues {late : BitVec 64} (h : SameMem s t) : SameMem s (Machine.takeValues late t) := .rfsat (h.frame rfl)

theorem rangerTick {late : BitVec 64} (h : SameMem s t) : SameMem s (Machine.rangerTick late t) := by
  unfold Machine.rangerTick
  extract_lets _ _ _ _ _ _ s1 s2 s3
  have h1 : SameMem s s1 := h.takeValues.rfput.rfput.rfput
  have h2 : SameMem s s2 := .ite h1.rfsat h1
  have h3 : SameMem s s3 := .ite h2.rfsat h2
  exact h3.setPower

theorem sendTl (h : SameMem s t) : SameMem s (Machine.sendTl t) := .foldl (h.frame rfl) fun _ _ h => h.rfput

theorem doPowerTick {late : BitVec 64} {sensors : List (BitVec 6 × Word)} {ring0 ring1 input energy : Word}
    {counts : List (BitVec 6 × List Word)} (h : SameMem s t) :
    SameMem s (Machine.doPowerTick late sensors ring0 ring1 input energy counts t) := by
  unfold Machine.doPowerTick
  extract_lets _ _ s1 s2 s3 _ _
  have h1 : SameMem s s1 := h.advanceTime.rput.rput.rput.rput.coolantWarn
  have h2 : SameMem s s2 := .foldl h1 fun _ _ h => .ite h.rput.thermalWarn h
  have h3 : SameMem s s3 := .sendTl (.ite h2.rangerTick h2)
  exact .foldl h3.setPower fun _ _ h => h.standEstimate

theorem doCapFloor (h : SameMem s t) : SameMem s (Machine.doCapFloor t) := .ite (.report (h.frame rfl)) h

theorem rampUp {p : Nat} (h : SameMem s t) : SameMem s (Machine.rampUp p t) := .putTile (h.frame rfl)

theorem rampDown {p final : Nat} (h : SameMem s t) : SameMem s (Machine.rampDown p final t) :=
  .ite (.putTile (h.frame rfl)) h

theorem doTileGood {p : Nat} (h : SameMem s t) : SameMem s (Machine.doTileGood p t) := by
  unfold Machine.doTileGood
  split
  · exact .ite (.rfput (.putTile (h.frame rfl))) (h.frame rfl)
  · exact h

theorem putReason {p r : Nat} (h : SameMem s t) : SameMem s (Machine.putReason p r t) := h.rfput

theorem exclude {p r : Nat} (h : SameMem s t) : SameMem s (Machine.exclude p r t) := .ite h.putReason h

/-! ### Machine/Screen -/

theorem putScreen {p : Nat} {m : ℤ} {ratio : Nat} (h : SameMem s t) : SameMem s (Machine.putScreen p m ratio t) :=
  .ite h.rfput.rfput.rfput h.rfput.rfput

theorem doScreenSet {c : Cmd} (h : SameMem s t) : SameMem s (Machine.doScreenSet c t) :=
  h.issueVerb (fun _ h => (by
      dsimp only
      split
      · exact h.refuse
      · exact h.putScreen.retireVerb))

theorem reportMismatch {p kernel pairing : Nat} {x : PacerMismatch} (h : SameMem s t) :
    SameMem s (Machine.reportMismatch p kernel pairing t x) :=
  h.report

theorem doScreenRun {c : Cmd} {comparisons holds : Word} {found : List PacerMismatch} (h : SameMem s t) :
    SameMem s (Machine.doScreenRun c comparisons holds found t) :=
  h.issueVerb (fun _ h => .ite h.refuse (.ite h.refuse (.retireWith (.ctlDesc (.foldl h fun _ _ h =>
    h.reportMismatch)))))

theorem hbCheckOne {e' : Nat × Nat × Nat × Nat} {h' : HbEntry} (h : SameMem s t) :
    SameMem s (Machine.hbCheckOne e' h' t).2 :=
  .ite_snd h (.ite_snd h.report h)

theorem hbCheckAll {es : List (Nat × Nat × Nat × Nat)} {hs : List HbEntry} (h : SameMem s t) :
    SameMem s (Machine.hbCheckAll es hs t).2 := by
  induction es generalizing hs t with
  | nil => exact h
  | cons e es ih =>
    cases hs with
    | nil => exact h
    | cons b hs => exact ih h.hbCheckOne

theorem doHeartbeatCheck (h : SameMem s t) : SameMem s (Machine.doHeartbeatCheck t) :=
  .ite h (.ite (h.frame rfl) (h.hbCheckAll.frame rfl))

/-! ### Machine/BringUp -/

theorem putPhase {n : Nat} (h : SameMem s t) : SameMem s (Machine.putPhase n t) := h.rfput

theorem endBring {result : Nat} {st : Status} (h : SameMem s t) : SameMem s (Machine.endBring result st t) := by
  have he := fun m b => (h.putPhase (n := 7)).rfput (k := IorBringupStatus.key) (f := IorBringupStatus.result)
    (v := result) |>.rfput (k := IorBringupStatus.key) (f := IorBringupStatus.elapsedMs) (v := bringElapsed t)
    |>.setModeBring (m := m) (x := b)
  unfold Machine.endBring
  dsimp only
  split
  · exact .ite (he _ _).endLong (he _ _).endLong
  · exact he _ _

theorem failBring {st : Status} {loc : Word} {data : List Byte} (h : SameMem s t) :
    SameMem s (Machine.failBring st loc data t) :=
  h.report.endBring

theorem enterStand {n p : Nat} (h : SameMem s t) : SameMem s (Machine.enterStand n p t) := h.rfput.rfput.rfput.rampUp

theorem slicesTest {ps : List Nat} {refresh state : Nat} (h : SameMem s t) :
    SameMem s (Machine.slicesTest ps refresh state t) :=
  .foldl h fun _ _ h => .foldl h fun _ _ h => .ite h h.rfput.rfput

theorem dslFast {p : Nat} (h : SameMem s t) : SameMem s (Machine.dslFast p t) := .ite h h.rfsat.rfput

theorem marchBegin {ps : List Nat} (h : SameMem s t) : SameMem s (Machine.marchBegin ps t) :=
  .slicesTest (.foldl h fun _ _ h => h.dslFast)

theorem nextHeat (h : SameMem s t) : SameMem s (Machine.nextHeat t) := by
  unfold Machine.nextHeat
  dsimp only
  split
  · exact .putPhase (.marchBegin (.foldl (h.frame rfl) fun _ _ h => h.exclude))
  · exact .frame (.foldl h.rfput fun _ _ h => h.enterStand) rfl

theorem writeRows {p : Nat} (h : SameMem s t) : SameMem s (Machine.writeRows p t) := .foldl h fun _ _ h => h.rput

theorem countItems {α : Type} [DecidableEq α] {known l : List (Finding α)} (h : SameMem s t) :
    SameMem s (Machine.countItems known l t) := h.rfsat.rfsat

theorem groupsOff {p : Nat} (h : SameMem s t) : SameMem s (Machine.groupsOff p t) := .foldl h fun _ _ h => h.putGate

theorem probeStand {p : Nat} {failed : List Site} (h : SameMem s t) : SameMem s (Machine.probeStand p failed t) :=
  .groupsOff (.writeRows (.rfput (.rfput (.countItems (h.frame rfl)))))

theorem trainSeam {p d : Nat} {failed : List Nat} (h : SameMem s t) : SameMem s (Machine.trainSeam p d failed t) := by
  unfold Machine.trainSeam
  refine .ite h ?_
  extract_lets _ _ _ _ _ _ _ _ _ s1 _ s2 s3
  have h1 : SameMem s s1 := h.setBring.countItems
  have h2 : SameMem s s2 := h1.rput.rfsat
  have h3 : SameMem s s3 := by
    unfold s3
    split
    · exact h2.rput.rfsat
    · exact h2
  exact .ite h3 h3.rfsat.report

theorem trainSlice {p sl : Nat} {good : Bool} (h : SameMem s t) : SameMem s (Machine.trainSlice p sl good t) :=
  .ite h (.rfput (.ite h (h.frame rfl)))

theorem lanesUp {p : Nat} (h : SameMem s t) : SameMem s (Machine.lanesUp p t) :=
  .foldl h fun _ _ h => (by
      split
      · exact .ite h h.putReady
      · exact .ite (.putReady (.ite h.putSide.putReady h)) (.ite h.putSide.putReady h))

theorem heatEarly {f : HeatFinding} (h : SameMem s t) : SameMem s (Machine.heatEarly f t) := by
  unfold Machine.heatEarly
  extract_lets _ _ s1 s2 s3
  have h3 : SameMem s s3 := h.setBring.lanesUp.rfput.followSource.sendMarker
  exact .ite h.exclude (.ite h.exclude (.ite h3 h3.exclude))

theorem heatMid {f : HeatFinding} (h : SameMem s t) : SameMem s (Machine.heatMid f t) :=
  .ite h (.ite h.probeStand.exclude h.probeStand)

theorem clockLanes {p : Nat} {failed : BitVec 4} (h : SameMem s t) : SameMem s (Machine.clockLanes p failed t) :=
  .ite h (.foldl (h.frame rfl) fun _ _ h => .ite h.sourceLost h.putReady)

theorem heatLast {f : HeatFinding} (h : SameMem s t) : SameMem s (Machine.heatLast f t) := by
  unfold Machine.heatLast
  extract_lets _ s1 s2 s3
  have h1 : SameMem s s1 := .foldl h fun _ _ h => h.trainSlice
  have h2 : SameMem s s2 := .foldl h1 fun _ _ h => h.trainSeam
  have h3 : SameMem s s3 := h2.clockLanes
  exact .ite h (.ite h3.exclude h3)

theorem heatLate {fs : List HeatFinding} (h : SameMem s t) : SameMem s (Machine.heatLate fs t) :=
  .foldl (.foldl h fun _ _ h => h.heatMid) fun _ _ h => h.heatLast

theorem newSource {ok : Nat → Bool} {p : Nat} (h : SameMem s t) : SameMem s (Machine.newSource ok p t) := by
  unfold Machine.newSource
  split
  · exact h.putReady.selectSource
  · exact h.exclude

theorem heatMend (h : SameMem s t) : SameMem s (Machine.heatMend t) :=
  .foldl (.foldl h fun _ _ h => h.exclude) fun _ _ h => h.newSource

theorem switchOut {p : Nat} (h : SameMem s t) : SameMem s (Machine.switchOut p t) :=
  .rampDown (.rfput (.rfput (.ite h h.rfput)))

theorem reportExcluded {p : Nat} (h : SameMem s t) : SameMem s (Machine.reportExcluded p t) := h.report

theorem singleHeatEnd {p : Nat} {found : List HeatFinding} (h : SameMem s t) :
    SameMem s (Machine.singleHeatEnd p found t) :=
  .ite (.endLong (.switchOut (h.heatEarly.heatLate.frame rfl))) (.endLong (.marchBegin (.rfput (.frame
    (h.heatEarly.heatLate.frame rfl) rfl))))

theorem doHeatEnd {found : List HeatFinding} (h : SameMem s t) : SameMem s (Machine.doHeatEnd found t) := by
  unfold Machine.doHeatEnd
  split
  · exact h
  · exact .ite h.singleHeatEnd (.nextHeat (.heatMend (.heatLate (.foldl (h.frame rfl) fun _ _ h => h.heatEarly))))

theorem doTrainingLimit (h : SameMem s t) : SameMem s (Machine.doTrainingLimit t) :=
  .foldl h fun _ _ h => .ite h (.foldl (.foldl h fun _ _ h => h.trainSlice) fun _ _ h => h.trainSeam)

theorem repairRow {failed : List DramRow} {r : DramRow} (h : SameMem s t) :
    SameMem s (Machine.repairRow failed t r) := by
  unfold Machine.repairRow
  split
  · exact h
  · dsimp only
    split
    · exact h.rfsat.setBring.rfsat.rfsat
    · exact h.rfsat.setBring.rfput.exclude

theorem applyRepairs {ps : List Nat} {failed : List DramRow} (h : SameMem s t) :
    SameMem s (Machine.applyRepairs ps failed t) :=
  .foldl h.rfsat fun _ _ h => h.repairRow

theorem agree {ok : Nat → Bool} {p : Nat} (h : SameMem s t) : SameMem s (Machine.agree ok p t) :=
  .ite h (.ite h.exclude (.ite h.exclude (.ite h.exclude h)))

theorem reportConflicts {ps : List Nat} (h : SameMem s t) : SameMem s (Machine.reportConflicts ps t) :=
  .foldl (h.frame rfl) fun _ _ h => h.report

theorem cleanChains {n : Nat} (h : SameMem s t) : SameMem s (Machine.cleanChains n t) := by
  induction n generalizing t with
  | zero => exact h
  | succ n ih =>
    simp only [Machine.cleanChains]
    split
    · exact h
    · exact ih (.foldl h fun _ _ h => .ite h.newSource h)

theorem putRole {p role logical group : Nat} (h : SameMem s t) : SameMem s (Machine.putRole p role logical group t) :=
  h.rfput.rfput.rfput

theorem parityRegs (h : SameMem s t) : SameMem s (Machine.parityRegs t) :=
  .foldl h fun _ _ h => (by
      split
      · exact h.rput
      · exact h.rput)

theorem assignRoles {es : List Nat} (h : SameMem s t) : SameMem s (Machine.assignRoles es t) :=
  .parityRegs (.foldl (.foldl h fun _ _ h => h.putRole) fun _ _ h => h.putRole)

theorem gatesReady (h : SameMem s t) : SameMem s (Machine.gatesReady t) := h.frame rfl

theorem slotCeiling (h : SameMem s t) : SameMem s (Machine.slotCeiling t) :=
  .ite h h.setRingClk.rfput.rfput.rfput

theorem bringReady {cold : Bool} {e' : Nat} (h : SameMem s t) : SameMem s (Machine.bringReady cold e' t) := by
  unfold Machine.bringReady
  extract_lets _ _ _ s1 s2 s3 _ s4
  have h1 : SameMem s s1 := .slotCeiling (.foldl h.slicesTest.gatesReady fun _ _ h => h.dslFast)
  have h2 : SameMem s s2 := h1.rfput
  have h3 : SameMem s s3 := .ite h2 h2.report
  exact h3.report.endBring

theorem bringRoles (h : SameMem s t) : SameMem s (Machine.bringRoles t) := by
  unfold Machine.bringRoles
  extract_lets _ s1 s2 _ s3 s4 _ s5
  have h1 : SameMem s s1 := .foldl h.putPhase fun _ _ h => h.agree
  have h3 : SameMem s s3 := h1.cleanChains.rfsat.reportConflicts
  have h4 : SameMem s s4 := .foldl h3.rfput fun _ _ h => h.reportExcluded
  have h5 : SameMem s s5 := h4.rfput.putPhase
  refine .ite (.failBring (.foldl h5 fun _ _ h => h.rampDown)) (.bringReady (.assignRoles ?_))
  exact .foldl h5 fun _ _ h => h.switchOut

theorem doRetention {failed : List DramRow} (h : SameMem s t) : SameMem s (Machine.doRetention failed t) :=
  .ite (h.frame rfl) (.ite (.slicesTest (.slicesTest (h.frame rfl))) (.bringRoles (.slicesTest (.applyRepairs
    (.slicesTest (h.frame rfl))))))

theorem standOn {c : Cmd} {p : Nat} (h : SameMem s t) : SameMem s (Machine.standOn c p t) := by
  unfold Machine.standOn
  dsimp only
  split
  · exact .refuse (.switchOut (.exclude (.foldl h.rput.capChanged.rput.setBring fun _ _ h => h.rreset)))
  · exact .beginLong (.rampUp (.setBring (.rfput (.rfput (.foldl h.rput.capChanged.rput.setBring fun _ _ h =>
      h.rreset)))))

theorem doStandPower {c : Cmd} (h : SameMem s t) : SameMem s (Machine.doStandPower c t) :=
  h.issueVerb (fun _ h => (by
      dsimp only
      split
      · exact h.refuse
      · exact .ite h.standOn h.rfput.rampDown.beginLong))

theorem doSingleEnd {p : Nat} {failed : List DramRow} (h : SameMem s t) : SameMem s (Machine.doSingleEnd p failed t) :=
  .ite h (.ite (.reportExcluded (.switchOut (.reportConflicts (.agree (.slicesTest (.applyRepairs (h.frame rfl)))))))
    (.report (.groupsOff (.putRole (.reportConflicts (.agree (.slicesTest (.applyRepairs (h.frame rfl)))))))))

/-! ### Machine/Blaze -/

theorem putPhases {v : Nat} (h : SameMem s t) : SameMem s (Machine.putPhases v t) := .foldl h fun _ _ h => h.putStand

theorem startStands (h : SameMem s t) : SameMem s (Machine.startStands t) := .foldl h fun _ _ h => h.putStand.rfput

theorem doDrain {c : Cmd} (h : SameMem s t) : SameMem s (Machine.doDrain c t) :=
  h.issueVerb (fun _ h => .ite h.refuse (.beginLong (h.frame rfl)))

theorem holdDrain (h : SameMem s t) : SameMem s (Machine.holdDrain t) := h.frame rfl

theorem doDrainPoint (h : SameMem s t) : SameMem s (Machine.doDrainPoint t) := by
  unfold Machine.doDrainPoint
  split
  · exact .ite (.endLong (.holdDrain (.putPhases (h.frame rfl)))) h
  · exact h

/-! ### Machine/Mgmt -/

theorem sessSend {k : Nat} {m : MgmtMsg} (h : SameMem s t) : SameMem s (Machine.sessSend k m t) := by
  unfold Machine.sessSend
  split
  · exact h.putSess
  · exact h

theorem sessCount {k : Nat} (h : SameMem s t) : SameMem s (Machine.sessCount k t) := by
  unfold Machine.sessCount
  split
  · exact h.putSess
  · exact h

theorem sessMsg {k : Nat} {seq : Word} {f : State → State} (h : SameMem s t)
    (hf : ∀ u, SameMem s u → SameMem s (f u)) :
    SameMem s (Machine.sessMsg k seq f t) := by
  unfold Machine.sessMsg
  split
  · exact h
  · exact .ite (hf _ h.sessCount) h.endSession

theorem doSessionOpen {m proto : Nat} {peer : BitVec 128} {anchor : BitVec 384} {proved : Bool} (h : SameMem s t) :
    SameMem s (Machine.doSessionOpen m proto peer anchor proved t) :=
  .ite h (by
      split
      · exact h
      · exact .ite h.putSess (.report (h.frame rfl)))

theorem doSubscribe {k : Nat} {seq kinds : Word} (h : SameMem s t) : SameMem s (Machine.doSubscribe k seq kinds t) :=
  h.sessMsg (fun _ h => (by
      split
      · exact h.putSess
      · exact h))

theorem doTransceiver {m : Nat} {up : Bool} (h : SameMem s t) : SameMem s (Machine.doTransceiver m up t) :=
  .ite (h.frame rfl) (.endSessionsOf (h.frame rfl))

theorem fuseWriteRun {c : Cmd} {bad : Bool} (h : SameMem s t) : SameMem s (Machine.fuseWriteRun c bad t) := by
  unfold Machine.fuseWriteRun
  split
  · exact h.refuse
  · split
    · exact h.refuse
    · dsimp only
      split
      · exact h.refuse
      · split
        · exact h.refuse
        · split
          · exact .retireVerb (h.frame rfl)
          · exact .retireVerb (h.frame rfl)

theorem doFuseWrite {c : Cmd} {bad : Bool} (h : SameMem s t) : SameMem s (Machine.doFuseWrite c bad t) :=
  h.issueVerb fun _ h => h.fuseWriteRun

theorem doDebugOpen {c : Cmd} (h : SameMem s t) : SameMem s (Machine.doDebugOpen c t) :=
  h.issueVerb (fun _ h => .ite h.refuse (.ite h.refuse (.retireVerb (.report (h.frame rfl)))))

theorem closeDebug (h : SameMem s t) : SameMem s (Machine.closeDebug t) := h.frame rfl

theorem doSelftest {c : Cmd} {failed : Nat} (h : SameMem s t) : SameMem s (Machine.doSelftest c failed t) :=
  h.issueVerb (fun _ h => .ite h.retireVerb h.retireVerb.secError)

theorem doEntropyFail {test : Nat} (h : SameMem s t) : SameMem s (Machine.doEntropyFail test t) :=
  .ite h h.rfsat.secError

theorem doPoolRefill {p : Nat} {ws : List Lane} (h : SameMem s t) : SameMem s (Machine.doPoolRefill p ws t) :=
  .ite h.putStand h

theorem doIdeKey {p : Nat} {key : BitVec 256} {pass : Bool} (h : SameMem s t) :
    SameMem s (Machine.doIdeKey p key pass t) :=
  .ite h (.ite h.freeTest.secError h.putPort)

theorem fwBegins {src : FwSource} {total : Nat} (h : SameMem s t) : SameMem s (Machine.fwBegins src total t) :=
  .rfput (.rfput (h.frame rfl))

theorem fwRefused {st : Status} (h : SameMem s t) : SameMem s (Machine.fwRefused st t) :=
  .report (.fwWaits (by
      split
      · exact h.sessSend
      · exact h))

theorem fwTake {o : Nat} {bs : List Byte} (h : SameMem s t) : SameMem s (Machine.fwTake o bs t) := h.frame rfl

theorem fwGoes {p : Nat} {v : Word} (h : SameMem s t) : SameMem s (Machine.fwGoes p v t).2 :=
  .ite_snd h (.ite_snd h h.fwBegins)

theorem fwRead {bundle : List Byte} {bad : Option Status} (h : SameMem s t) :
    SameMem s (Machine.fwRead bundle bad t) := by
  unfold Machine.fwRead
  split
  · exact h.fwRefused
  · exact h.fwTake

theorem doFwGo {p : Nat} {v : Word} {bundle : List Byte} {bad : Option Status} (h : SameMem s t) :
    SameMem s (Machine.doFwGo p v bundle bad t) :=
  .ite h.fwRead (h.viaWrite (fun _ h => .ite h.fwGoes.fwRead h.fwGoes))

theorem doFwPush {k o total : Nat} {bs : List Byte} (h : SameMem s t) : SameMem s (Machine.doFwPush k o total bs t) :=
  .ite h (.ite h.endSession (.ite h.sessCount.sessSend (.ite (.fwRefused (.ite h.sessCount.fwBegins h.sessCount))
    (.fwTake (.ite h.sessCount.fwBegins h.sessCount)))))

theorem doFwVerify (h : SameMem s t) : SameMem s (Machine.doFwVerify t) :=
  .ite h (.ite h.fwRefused (by
      dsimp only
      split
      · exact h.fwRefused
      · exact .rfput (.rfput (h.frame rfl))))

theorem spdmBytes {req : Spdm} (h : SameMem s t) : SameMem s (Machine.spdmBytes req t).2 := by
  unfold Machine.spdmBytes
  split
  · exact h
  · exact h.draw

theorem doeAnswer {via : Via} {bs : List Byte} (h : SameMem s t) : SameMem s (Machine.doeAnswer via bs t) :=
  .foldl h fun _ _ h => h.answerRead

theorem doSpdm {via : Via} {i : BitVec 2} {req : Spdm} (h : SameMem s t) : SameMem s (Machine.doSpdm via i req t) := by
  unfold Machine.doSpdm
  split
  · exact .ite h h.spdmBytes.doeAnswer
  · exact .ite h (.ite h.sessCount h.sessCount.spdmBytes.sessSend)
  · exact h
  · exact h

theorem doRedfish {k : Nat} {req : Redfish} (h : SameMem s t) : SameMem s (Machine.doRedfish k req t) := by
  unfold Machine.doRedfish
  split
  · exact h
  · exact h.putSess

/-! ### Machine/Recover -/

theorem setRunning (h : SameMem s t) : SameMem s (Machine.setRunning t) := .startStands (h.frame rfl)

theorem doStart {c : Cmd} (h : SameMem s t) : SameMem s (Machine.doStart c t) :=
  h.issueVerb (fun _ h => .ite h.refuse (by
      split
      · exact h.refuse
      · exact h.setRunning.retireVerb))

theorem doSelectPlan {c : Cmd} (h : SameMem s t) : SameMem s (Machine.doSelectPlan c t) :=
  h.issueVerb (fun _ h => .ite h.refuse (.ite h.refuse (.ite h.refuse (.retireVerb (h.frame rfl)))))

/-- Every row that stores nothing keeps the memory. A row of a stage operation does by its evaluation. -/
theorem exec (i : Instr) (hi : keepsMemory i = true) (hs : stageRow i = none) (s : State) :
    Leads (SameMem s) (Machine.exec i s) := by
  have h := refl s
  cases i with
  | start => exact h.doStart
  | drain => exact h.doDrain
  | drainPointReached => exact h.doDrainPoint
  | selectPlan => exact h.doSelectPlan
  | release => exact h.doRelease
  | setPowerCap => exact h.doSetPowerCap
  | setClock => exact h.doSetClock
  | setLockstep => exact h.doSetLockstep
  | dmaStand => exact h.doDmaStand
  | fuseWrite => exact h.doFuseWrite
  | debugOpen => exact h.doDebugOpen
  | debugClose => exact h.issueVerb fun _ h => h.closeDebug.retireVerb
  | debugTimeout => exact h.closeDebug
  | selftest => exact h.doSelftest
  | screenSet => exact h.doScreenSet
  | screenRun => exact h.doScreenRun
  | standPower => exact h.doStandPower
  | singleStandTestEnd => exact h.doSingleEnd
  | busbarWaitTimeout | warmRestartTimeout => exact .ite h.failBring h
  | heatEnd => exact h.doHeatEnd
  | trainingLimit => exact h.doTrainingLimit
  | retentionHoldEnd => exact h.doRetention
  | commandRingDoorbell => exact h.doCmdDoorbell
  | completionRingDoorbell => exact h.doCplDoorbell
  | eventRingDoorbell => exact h.doEvDoorbell
  | commandFetch => exact h.doFetch
  | commandRetire => exact h.doRetire
  | ringEnable | ringDisable => exact h.doCrCfg
  | peerPostedWrite => exact h.doPeerPosted
  | gulemRequestDoorbell => exact h.doGqDoorbell
  | gulemRequestFetch => exact h.doGulFetch
  | batonInArrival => exact h.doBatonIn
  | arrayNoCompletion => exact h.doNoCompletion
  | heartbeat => exact h.doHeartbeat
  | heartbeatCheck => exact h.doHeartbeatCheck
  | twait =>
    refine Leads.next ?_
    split
    · exact runTwait
    · exact h
  | readRequest => exact h.doReadRequest
  | readResponse | writeAcknowledge | postAcknowledge => exact h.gotResponse fun _ _ h => h
  | tallyIncrement => exact h.doTallyIncrement
  | post => exact h.doPost
  | record => exact h.doRecord
  | mgmt => exact h.doMgmt
  | tallyWait => exact h.doTallyWait
  | waitDone => exact h.gotResponse fun _ _ h => h.frame rfl
  | progressSend => exact .foldl h fun _ _ h => h.respond
  | progress => exact h.takeResp
  | ack => exact h.gotResponse fun _ _ h => h.doneAnswered
  | negative => exact h.gotResponse fun _ _ h => h.svcFailed.doneAnswered
  | serviceTimeout => exact .ite h.doServiceTimeout.doneAnswered h
  | tallyWaitComplete => exact h.doTallyWaitComplete
  | seamFrameReceive => exact h.doSeamFrame
  | seamDeadSilence | seamDeadReplayLimit => exact .ite h.seamDies h
  | meshNoProgress => exact h.doNoProgress
  | lockstepCompare => exact h.doLockstepCompare
  | lockstepTimeout => exact h.doLockstepTimeout
  | powerTick => exact h.doPowerTick
  | capFloor => exact h.doCapFloor
  | tilePowerGood => exact h.doTileGood
  | refLost => exact h.doRefLost
  | reacquire => exact h.doReacquire
  | clkSlotCfgWrite => exact h.doSlotCfg
  | glideEnd => exact h.doGlideEnd
  | clkSrcSelWrite => exact h.doSrcSel
  | clkSwitchComplete => exact .ite h.rfput h
  | clkSourceLost => exact h.sourceLost
  | clkDivWrite => exact h.doClkDiv
  | ppsEdge => exact h.doPpsEdge
  | clkTimeNextWrite => exact h.doTimeNext
  | timeNextExpiry => exact .ite (.report (h.frame rfl)) h
  | ppsLost => exact .ite (.report (.rfput (h.frame rfl))) h
  | fwGo => exact h.doFwGo
  | fwPush => exact h.doFwPush
  | fwVerify => exact h.doFwVerify
  | mgmtSessionOpen => exact h.doSessionOpen
  | subscribe => exact h.doSubscribe
  | spdmRequest => exact h.doSpdm
  | redfishRequest => exact h.doRedfish
  | ideKeyProgramming => exact h.doIdeKey
  | transceiverChange => exact h.doTransceiver
  | entropyTestFail => exact h.doEntropyFail
  | hubHdlLenWrite => exact h.viaWrite fun _ h => h.stageHdlLen
  | hubHdlAddrWrite => exact h.viaWrite fun _ h => h.commitHdl
  | caObDataAccess => exact h.dataAccess (fun _ h => h.obDataWrite) fun _ _ h e => h.obDataRead e
  | hubDescDataAccess => exact h.dataAccess (fun _ h => h.descDataWrite) fun _ _ h e => h.descDataRead e
  | otpStageDataAccess => exact h.dataAccess (fun _ h => h.otpDataWrite) fun _ _ h e => h.otpDataRead e
  | cvuFeed8 | cvuFeed16 | cvuFeed32 | cvuFold => exact h.doCvuFeed
  | cvuValueWrite => exact h.doCvuValue
  | cvuLoad => exact h.doCvuCfg
  | tlyCountWrite => exact h.doTlyCount
  | tlyAdd => exact h.doTlyAdd
  | tlyCfgWrite => exact h.doTlyCfg
  | tlyWatchRangeWrite => exact h.doTlyWatch
  | opCeilingWrite => exact h.doOpCeiling
  | referenceReturn => exact h.doRefReturn
  | linkTrained => exact h.doLinkTrained
  | cableMated => exact h.putPort
  | busbarStable => exact h.frame rfl
  | sideReadyChange => exact h.doSideReady
  | entropyPoolRefill => exact h.doPoolRefill
  | mgmtSessionEnd => exact h.endSession
  | configSpaceAccess => exact h.doConfigSpace
  | nop | dot | dotl | dots24 | dots14 | dotsbm | readout | accload | accloadx | add | sub | mul | fmaw | abs | neg
  | scaleb | and | or | xor | shl | shr | mov | cmpeq | cmplt | cmple | cmpun | sel | min | max | minnum | maxnum
  | rcp | rsqrt | exp2 | log2 | perm | permi | lredadd | lredmax | lredmin | lredi | lredacc | cvt | cvtmx | demx
  | pack | unpack | pack6 | unpack6 | fxcvt | ctradv | ctrrd | btnsend | btnrecv | btnpred | tinc | ldcm | ldcmk |
  ldcmx | stcm | stcmo | stcmx | send | recv | pass | merge1 | aaddi | aaddf | amaxf | aminf | aor | aand |
  rdflags | rdsrc | rdcoord | rdlap | rdtime | rdtemp | rdovr | rdent => cases hs
  | _ => cases hi

end SameMem

/-- A row that stores nothing keeps the memory: its evaluation stores nothing where it is a stage operation. -/
theorem sameMem_of_keepsMemory {i : Instr} {s t : State} (hi : keepsMemory i = true) (ht : exec i s = .next t) :
    SameMem s t := by
  rcases hr : stageRow i with _ | ⟨n, e, f⟩
  · exact (SameMem.exec i hi hr s).of_next ht
  · rw [exec_of_stageRow hr] at ht
    obtain rfl := Host.Outcome.next.inj ht
    rcases hl : locOf s n with _ | l
    · rw [stageOp, hl]
      exact .refl s
    · rw [stageOp_of_locOf hl]
      exact .runStep (store_none_of_stageRow hr hi l s)

/-- Settles O10: a row that stores nothing keeps the memory, and a step of a stage keeps what the others hold. -/
theorem commandsThatStoreNothing : Obligations.CommandsThatStoreNothing := by
  unfold Obligations.CommandsThatStoreNothing
  constructor
  · intro i s t hi ht
    obtain ⟨hmem, hupset⟩ := sameMem_of_keepsMemory hi ht
    exact ⟨fun a => by rw [memByte, hmem, memByte], fun w => by rw [hupset]⟩
  · intro i n e f l s t hr hl ht
    rw [exec_of_stageRow hr, stageOp_of_locOf hl] at ht
    obtain rfl := Host.Outcome.next.inj ht
    have htouch : StageTouch s (runStep l e f s) := .runStep l e f s
    unfold StageTouch at htouch
    have hmode := congrArg State.mode htouch
    have hdescs := congrArg State.descs htouch
    have himage := congrArg State.image htouch
    refine ⟨hmode, hdescs, himage, fun k hk => ?_⟩
    have hheld : held (stageOf (runStep l e f s) k) = held (stageOf s k) :=
      held_runStep_other (locOf_st_lt hl) (ctrAdv_lt_of_stageRow hr l s) hk
    simp only [held, Prod.mk.injEq] at hheld
    obtain ⟨hacc, hpred, hlatch, hsparse, -⟩ := hheld
    exact ⟨hacc, hpred, hlatch, hsparse⟩

end Sys2Proof.Proofs
end

section
/-!
PROOFS. What the INT32 elementwise operations, the bitwise operations and the lane operations write (R120 to R124): what an
evaluation gives when its operands are there, then one lemma per evaluation on the lane words that it writes.
-/

namespace Sys2Proof.Proofs

open Sys2Proof.Machine

/-! ### INT32 results (R120) -/

theorem intResult_wraps (v : Int) : intResult false v = (BitVec.ofInt 32 v, flNone) := rfl

theorem intResult_of_below {v : Int} (h : v < -(2 ^ 31)) :
    intResult true v = (BitVec.ofInt 32 (-(2 ^ 31)), flOverflow) := by
  simp only [intResult, h, decide_true, Bool.and_true, if_true]

theorem intResult_of_above {v : Int} (h : 2 ^ 31 ≤ v) :
    intResult true v = (BitVec.ofInt 32 (2 ^ 31 - 1), flOverflow) := by
  have hlow : ¬ v < -(2 ^ 31) := by omega
  simp only [intResult, hlow, h, decide_false, decide_true, Bool.and_false, Bool.and_true, Bool.false_eq_true, if_true,
    if_false]

theorem intResult_of_fits {v : Int} (hlow : -(2 ^ 31) ≤ v) (hhigh : v < 2 ^ 31) :
    intResult true v = (BitVec.ofInt 32 v, flNone) := by
  simp only [intResult, not_lt.2 hlow, not_le.2 hhigh, decide_false, Bool.and_false, Bool.false_eq_true, if_false]

/-- A saturated result is the nearest value in range, and OVERFLOW says that it is not the value itself. -/
theorem intResult_saturates (v : Int) :
    (intResult true v).1.toInt = max (-(2 ^ 31)) (min (2 ^ 31 - 1) v) ∧
      ((intResult true v).2 = flOverflow ↔ v < -(2 ^ 31) ∨ 2 ^ 31 ≤ v) := by
  obtain hlow | hlow := lt_or_ge v (-(2 ^ 31))
  · rw [intResult_of_below hlow]
    exact ⟨by rw [BitVec.toInt_ofInt_eq_self] <;> omega, iff_of_true rfl (.inl hlow)⟩
  obtain hhigh | hhigh := le_or_gt (2 ^ 31) v
  · rw [intResult_of_above hhigh]
    exact ⟨by rw [BitVec.toInt_ofInt_eq_self] <;> omega, iff_of_true rfl (.inr hhigh)⟩
  · rw [intResult_of_fits hlow hhigh]
    exact ⟨by rw [BitVec.toInt_ofInt_eq_self] <;> omega, iff_of_false (show flNone ≠ flOverflow by decide) (by omega)⟩

/-! An INT32 sum or difference that wraps is that of the lane words. -/

theorem ofInt_toInt_add (x y : Lane) : BitVec.ofInt 32 (x.toInt + y.toInt) = x + y := by
  rw [BitVec.ofInt_add, BitVec.ofInt_toInt, BitVec.ofInt_toInt]

theorem ofInt_toInt_sub (x y : Lane) : BitVec.ofInt 32 (x.toInt - y.toInt) = x - y :=
  BitVec.eq_of_toInt_eq (by rw [BitVec.toInt_ofInt, BitVec.toInt_sub])

/-! ### The permutations of PERM (R123) -/

section
variable {aux : BitVec 9} (i : Nat)

theorem permLane_xor (h : natBits aux.toNat 8 6 = 0) : permLane aux i = Nat.xor i (natBits aux.toNat 3 0) := by
  simp only [permLane, h, if_true]

theorem permLane_rotate (h : natBits aux.toNat 8 6 = 1) : permLane aux i = (i + natBits aux.toNat 3 0) % 16 := by
  simp [permLane, h]

theorem permLane_broadcast (h : natBits aux.toNat 8 6 = 2) : permLane aux i = natBits aux.toNat 3 0 := by
  simp [permLane, h]

theorem permLane_reverse (h : natBits aux.toNat 8 6 = 3) : permLane aux i = 15 - i := by
  simp [permLane, h]

end

/-! ### The lane words of a committing evaluation -/

@[simp] theorem stepWords_commit (r : StepRes) : stepWords (.commit r) = r.out := rfl

/-- A lane reduce writes one word to every lane (R124). -/
theorem allLanes_eq_map (w : Lane) : allLanes w = (List.range 16).map fun _ => w := rfl

/-- Only SRE takes words from the entropy pool (R61). -/
theorem poolShort_of_rne {s : State} {l : Loc} {e : Entry} (h : e.rmode = 0) (n : Nat) : poolShort s l e n = false := by
  simp [poolShort, usesSre, h]

section
variable {s : State} {l : Loc} {e : Entry} {wa wb : List Lane}

theorem withA_of_ok {n : Nat} (ha : readSrc s l e.srcA.toNat n = .ok wa) (f : List Lane → StepEnd) :
    withA s l e n f = f wa := by
  simp only [withA, ha]

theorem withAB_of_ok {na nb : Nat} (ha : readSrc s l e.srcA.toNat na = .ok wa) (hb : readSrc s l e.srcB.toNat nb = .ok wb)
    (f : List Lane → List Lane → StepEnd) : withAB s l e na nb f = f wa wb := by
  simp only [withAB, ha, hb]

section
variable (ha : readSrc s l e.srcA.toNat 4 = .ok wa)
include ha

theorem stepWords_evalPerm {p : Nat → Nat} (hp : ∀ i, permLane e.aux i = p i) :
    stepWords (evalPerm l e s) = some ((List.range 16).map fun i => wa.getD (p i) 0) := by
  simp only [evalPerm, withA_of_ok ha, stepWords_commit, hp]

theorem stepWords_evalLredi :
    stepWords (evalLredi l e s) = some ((List.range 16).map fun _ => wa.foldl (· + ·) 0) := by
  simp only [evalLredi, withA_of_ok ha, stepWords_commit, allLanes_eq_map]

variable (hb : readSrc s l e.srcB.toNat 4 = .ok wb)
include hb

theorem stepWords_evalBits (f : Lane → Lane → Lane) :
    stepWords (evalBits f l e s) = some ((List.range 16).map fun i => f (wa.getD i 0) (wb.getD i 0)) := by
  simp only [evalBits, withAB_of_ok ha hb, stepWords_commit]

theorem stepWords_evalPermi :
    stepWords (evalPermi l e s) = some ((List.range 16).map fun i => wa.getD ((wb.getD i 0).toNat % 16) 0) := by
  simp only [evalPermi, withAB_of_ok ha hb, stepWords_commit]

theorem stepWords_evalSel :
    stepWords (evalSel l e s) = some ((List.range 16).map fun i =>
      if natBit (stageOf s l.key).pred.toNat i then wa.getD i 0 else wb.getD i 0) := by
  simp only [evalSel, withAB_of_ok ha hb, stepWords_commit]

/-- An INT32 entry has one element of four bytes to a lane, and each lane's result is that of its two integers (R120). -/
theorem stepWords_evalArith_int32 (hA : e.fmtA = 0x10) (hB : e.fmtB = 0x10) (hD : e.fmtD = 0x10)
    (hpool : poolShort s l e 16 = false) (ff : Nat → FVal → FVal → FVal × FlagBits) (fi : Int → Int → Int) :
    stepWords (evalArith ff fi l e s) = some ((List.range 16).map fun i =>
      (intResult e.sat (fi (wa.getD i 0).toInt (wb.getD i 0).toInt)).1) := by
  have hfmt : (0x10 : BitVec 5).toNat = 0x10 := rfl
  have hcount : elemCount [0x10, 0x10, 0x10] = 1 := rfl
  have hbytes : elemBytes 0x10 1 = 4 := rfl
  simp only [evalArith, hA, hB, hD, hfmt, hcount, hbytes, mul_one, hpool, Bool.false_eq_true, if_false,
    withAB_of_ok ha hb, if_true, stepWords_commit, intLanes, List.map_map, Function.comp_def]

/-- Without SAT the operation acts on the lane words themselves, where f is what fi does modulo 2^32 (R120). -/
theorem stepWords_evalArith_wraps (hA : e.fmtA = 0x10) (hB : e.fmtB = 0x10) (hD : e.fmtD = 0x10) (hr : e.rmode = 0)
    (hsat : e.sat = false) {fi : Int → Int → Int} {f : Lane → Lane → Lane}
    (hf : ∀ x y : Lane, BitVec.ofInt 32 (fi x.toInt y.toInt) = f x y) (ff : Nat → FVal → FVal → FVal × FlagBits) :
    stepWords (evalArith ff fi l e s) = some ((List.range 16).map fun i => f (wa.getD i 0) (wb.getD i 0)) := by
  simp only [stepWords_evalArith_int32 ha hb hA hB hD (poolShort_of_rne hr 16), hsat, intResult_wraps, hf]

end

end

/-- Settles O12: each operation's lane words are those that its evaluation lemma gives. -/
theorem laneResults : Obligations.LaneResults := by
  unfold Obligations.LaneResults
  refine ⟨fun v => ⟨intResult_wraps v, intResult_saturates v⟩, fun c e s wa wb ha hb => ?_⟩
  refine ⟨fun hr hA hB hD hsat => ?_, ?and, ?or, ?xor, ?shl, ?shr, fun h => ?_, fun h => ?_, fun h => ?_, fun h => ?_,
    ?permi, ?lredi, ?sel⟩
  · exact ⟨stepWords_evalArith_wraps ha hb hA hB hD hr hsat ofInt_toInt_add fvAdd,
      stepWords_evalArith_wraps ha hb hA hB hD hr hsat ofInt_toInt_sub opSub⟩
  case and | or | xor | shl | shr => exact stepWords_evalBits ha hb _
  · exact stepWords_evalPerm ha fun i => permLane_xor i h
  · exact stepWords_evalPerm ha fun i => permLane_rotate i h
  · exact stepWords_evalPerm ha fun i => permLane_broadcast i h
  · exact stepWords_evalPerm ha fun i => permLane_reverse i h
  case permi => exact stepWords_evalPermi ha hb
  case lredi => exact stepWords_evalLredi ha
  case sel => exact stepWords_evalSel ha hb

end Sys2Proof.Proofs
end

section
/-!
PROOFS. The baton-in queue of an array (R143, R144): which arrivals it judges, what it makes of the one that it expects, and
how one out of order stops the array.
-/

namespace Sys2Proof.Proofs

open Sys2Proof.Machine Sys2Proof.Laws

/-! ### Which arrivals the queue judges (R143) -/

/-- The queue of the array at `a` on stand p has room and has taken no baton in this slot, and no baton waits for it at the
node. -/
def QueueJudges (a : ArrayLoc) (p : Nat) (s : State) : Prop :=
  (arrOf s (arrKey p (arrIdx a.x.toNat a.y.toNat))).btnIn.length < 4 ∧
    (arrOf s (arrKey p (arrIdx a.x.toNat a.y.toNat))).btnCame = false ∧
    ∀ m ∈ s.moves, ¬(m.node = nodeKey p (a.y.toNat / 2 * 32 + a.x.toNat / 2) ∧
      m.port = 5 + a.y.toNat % 2 * 2 + a.x.toNat % 2 ∧ m.link = false ∧ m.baton = true)

/-- An array that has not stopped judges the arrival, or its node holds it. -/
theorem doBatonIn_running {a : ArrayLoc} {b : BitVec 16} {p : Nat} {s : State} (hp : inService s a.stand.toNat = some p)
    (hm : isMemIdx (arrIdx a.x.toNat a.y.toNat) = false)
    (hs : rf s (CaStatus.key p (arrIdx a.x.toNat a.y.toNat)) CaStatus.arrayState ≠ 4) :
    (QueueJudges a p s → doBatonIn a b s = (batonArrives p (arrIdx a.x.toNat a.y.toNat) b 0 s).2) ∧
    (¬QueueJudges a p s → doBatonIn a b s = { s with moves := s.moves ++
      [⟨nodeKey p (a.y.toNat / 2 * 32 + a.x.toNat / 2), 5 + a.y.toNat % 2 * 2 + a.x.toNat % 2, false, true, 0, 0, b, 0⟩] }) := by
  have hrun : ¬(isMemIdx (arrIdx a.x.toNat a.y.toNat) = true ∨
      rf s (CaStatus.key p (arrIdx a.x.toNat a.y.toNat)) CaStatus.arrayState = 4) := by simp [hm, hs]
  unfold doBatonIn
  rw [hp]
  dsimp only
  rw [if_neg hrun]
  refine ⟨fun h => if_neg ?_, fun h => if_pos ?_⟩
  · obtain ⟨hroom, hcame, hnode⟩ := h
    simpa [hroom, hcame] using hnode
  · by_contra hno
    exact h (by simpa [QueueJudges] using hno)

/-! ### What it makes of one (R143, R144) -/

section
variable {p a conn : Nat} {b : BitVec 16} {s : State}
variable (hroom : (arrOf s (arrKey p a)).btnIn.length < 4) (hcame : (arrOf s (arrKey p a)).btnCame = false)
include hroom hcame

theorem batonArrives_of_inNext (ht : batonTag b = rf s (CaBtnState.key p a) CaBtnState.inNext) :
    batonArrives p a b conn s = (true, rfadd (CaBtnState.key p a) CaBtnState.inNext 1
      (putArr (arrKey p a) { arrOf s (arrKey p a) with
        btnIn := (arrOf s (arrKey p a)).btnIn ++ [b]
        btnConns := (arrOf s (arrKey p a)).btnConns ++ [conn]
        btnCame := (standOf s p).started } s)) := by
  unfold batonArrives
  dsimp only
  rw [if_neg (by simp [hroom, hcame]), if_neg (not_not.2 ht)]

theorem batonArrives_of_not_inNext (ht : batonTag b ≠ rf s (CaBtnState.key p a) CaBtnState.inNext) :
    batonArrives p a b conn s =
      (false, batonStops p a (rf s (CaBtnState.key p a) CaBtnState.inNext) (batonTag b) s) := by
  unfold batonArrives
  dsimp only
  rw [if_neg (by simp [hroom, hcame]), if_pos ht]

end

/-! ### The stop of an array by a baton out of order (R144) -/

theorem batonTag_lt (b : BitVec 16) : batonTag b < 256 := by
  have := b.isLt
  unfold batonTag
  omega

theorem arrOf_report (st : Status) (b : Bool) (src : Nat) (loc w : Word) (data : List Byte) (k : Nat) (s : State) :
    arrOf (report st b src loc w data s) k = arrOf s k := by
  rw [arrOf, report_arrays, arrOf]

section
variable {p a expected received : Nat} {s : State}

/-- The registers of an array that a baton out of order has stopped, before the report. -/
def batonStopRecorded (p a expected received : Nat) (s : State) : State :=
  rfput (CaStatus.key p a) CaStatus.arrayState 4 (rfput (CaBtnError.key p a) CaBtnError.err 1
    (rfput (CaBtnError.key p a) CaBtnError.expected expected (rfput (CaBtnError.key p a) CaBtnError.received received s)))

/-- The report of the stop leaves the registers of the array as they were recorded. -/
theorem rg_batonStops (o : Nat) : rg (batonStops p a expected received s) (standKey p 15 a o) =
    rg (batonStopRecorded p a expected received s) (standKey p 15 a o) := by
  unfold batonStops
  dsimp only
  rw [rg_report_standKey, batonStopRecorded]

theorem arrOf_batonStops (k : Nat) : arrOf (batonStops p a expected received s) k = arrOf s k := by
  unfold batonStops
  dsimp only
  rw [arrOf_report, rfput_arrOf, rfput_arrOf, rfput_arrOf, rfput_arrOf]

theorem arrayState_batonStops : rf (batonStops p a expected received s) (CaStatus.key p a) CaStatus.arrayState = 4 :=
  (congrArg (fldGet CaStatus.arrayState) (rg_batonStops 0x580)).trans (rf_rfput_self _ _ _ _ (by decide))

/-- The error register as the stop leaves it: of its fields the last one written is the outermost. -/
theorem rf_batonStops_error (f : Fld) : rf (batonStops p a expected received s) (CaBtnError.key p a) f =
    rf (rfput (CaBtnError.key p a) CaBtnError.err 1 (rfput (CaBtnError.key p a) CaBtnError.expected expected
      (rfput (CaBtnError.key p a) CaBtnError.received received s))) (CaBtnError.key p a) f := by
  have hne : CaBtnError.key p a ≠ CaStatus.key p a := standKey_ne_of_off (by decide)
  exact (congrArg (fldGet f) (rg_batonStops 0x6D0)).trans (rf_rfput_key _ _ _ _ _ _ hne)

theorem err_batonStops : rf (batonStops p a expected received s) (CaBtnError.key p a) CaBtnError.err = 1 := by
  rw [rf_batonStops_error, rf_rfput_self _ _ _ _ (by decide)]
  rfl

theorem expected_batonStops (h : expected < 256) :
    rf (batonStops p a expected received s) (CaBtnError.key p a) CaBtnError.expected = expected := by
  rw [rf_batonStops_error, rf_rfput_field _ _ _ _ _ (by decide), rf_rfput_self _ _ _ _ (by decide)]
  exact Nat.mod_eq_of_lt h

theorem received_batonStops (h : received < 256) :
    rf (batonStops p a expected received s) (CaBtnError.key p a) CaBtnError.received = received := by
  rw [rf_batonStops_error, rf_rfput_field _ _ _ _ _ (by decide), rf_rfput_field _ _ _ _ _ (by decide),
    rf_rfput_self _ _ _ _ (by decide)]
  exact Nat.mod_eq_of_lt h

end

/-- Settles O44: the node holds an arrival that the queue does not judge; of the others the tag decides. -/
theorem batonsArriveInOrder : Obligations.BatonsArriveInOrder := by
  unfold Obligations.BatonsArriveInOrder
  intro a b p s hp i n port takes hm hs
  obtain ⟨hjudges, hwaits⟩ := doBatonIn_running (b := b) hp hm hs
  refine ⟨fun h => congrArg Host.Outcome.next (hwaits h), fun h htag => ?_, fun h htag => ?_⟩
  · have ⟨hroom, hcame, _⟩ := h
    have henters := batonArrives_of_inNext (conn := 0) hroom hcame htag
    refine ⟨_, congrArg Host.Outcome.next ((hjudges h).trans (congrArg Prod.snd henters)), ?_, ?_⟩
    · rw [rfadd_arrOf, arrOf_putArr_self]
    · rw [rf_rfadd_self _ _ _ _ (by decide), putArr_rf, htag]
      rfl
  · have ⟨hroom, hcame, _⟩ := h
    have hstops := batonArrives_of_not_inNext (conn := 0) hroom hcame htag
    refine ⟨_, congrArg Host.Outcome.next ((hjudges h).trans (congrArg Prod.snd hstops)), ?_, err_batonStops,
      received_batonStops (batonTag_lt b), expected_batonStops (fldGet_lt _ _), arrayState_batonStops⟩
    exact congrArg CArray.btnIn (arrOf_batonStops _)

end Sys2Proof.Proofs
end

section
/-!
PROOFS. The requests of the service mesh (R169, R180, R228 to R230, R315, R327): a request that arrives is performed in the
state that notes it, and each one's destination answers it with its effect.
-/

namespace Sys2Proof.Proofs

open Sys2Proof.Machine Sys2Proof.Laws

/-! ### A request that arrives (R228, R229) -/

/-- To note a request changes only the list of those that are outstanding. -/
theorem svcNote_frame (src : MeshSrc) (k : SvcKind) (s : State) : ∃ x, svcNote src k s = { s with svc := x } := by
  unfold svcNote
  split
  · exact ⟨s.svc, rfl⟩
  · exact ⟨_, rfl⟩

/-- What does not look at the outstanding requests is the same where a request has been noted. -/
theorem congr_svcNote {α : Type} (f : State → α) (hf : ∀ s x, f { s with svc := x } = f s) (src : MeshSrc) (k : SvcKind)
    (s : State) : f (svcNote src k s) = f s := by
  obtain ⟨x, hx⟩ := svcNote_frame src k s
  rw [hx, hf]

theorem svcNote_of_svcOf {src : MeshSrc} {k : SvcKind} {r : SvcReq} {s : State} (h : svcOf s src = some r) :
    svcNote src k s = s := by
  rw [svcNote, h]

theorem svcArrive_of_arrives {src : MeshSrc} {k : SvcKind} {f : State → State} {s : State} (h : arrives src k s) :
    svcArrive src k f s = f (svcNote src k s) := by
  obtain ⟨d, hd, hr⟩ := h
  unfold svcArrive
  dsimp only
  rw [hd]
  exact if_pos hr

/-- What looks at neither the responses on their way nor the outstanding requests is the same where one is answered. -/
theorem congr_respond {α : Type} (f : State → α) (hf : ∀ s x y, f { s with svcResp := x, svc := y } = f s) (src : MeshSrc)
    (a : SvcAnswer) (s : State) : f (respond src a s) = f s := hf ..

/-! ### Bytes and words as they stand after a request -/

theorem memByte_of_sameMem {s t : State} (h : SameMem s t) (k : Nat) : memByte t k = memByte s k := by
  rw [memByte, h.mem, memByte]

theorem memByte_respond (src : MeshSrc) (a : SvcAnswer) (s : State) (k : Nat) : memByte (respond src a s) k = memByte s k :=
  memByte_of_sameMem (SameMem.refl s).respond k

namespace SameMem

theorem putLog {s t : State} {p : Nat} {v : ParityLog} (h : SameMem s t) : SameMem s (Machine.putLog p v t) := h.frame rfl

theorem journal {s t : State} {p sl off : Nat} {old new : List Byte} (h : SameMem s t) :
    SameMem s (Machine.journal p sl off old new t) :=
  .ite h (.ite h.putLog.report h.putLog)

end SameMem

/-- The journal of a write to DRAM stores nothing in memory (R504). -/
theorem sameMem_dramWrite (p sl off addr : Nat) (bs : List Byte) (s : State) :
    SameMem (writeBytes (dramKey p sl off) bs s) (dramWrite p sl off addr bs s) :=
  .ite (SameMem.refl _).journal (.refl _)

theorem memByte_dramWrite_inside (p sl off addr : Nat) (bs : List Byte) (s : State) {i : Nat} (h : i < bs.length) :
    memByte (dramWrite p sl off addr bs s) (dramKey p sl off + i) = bs.getD i 0 := by
  rw [memByte_of_sameMem (sameMem_dramWrite ..), memByte_writeBytes_in _ _ _ _ (by omega), Nat.add_sub_cancel_left]

/-- A write to a slot that is done stores its bytes; all else that it changes is outside of memory (R169). -/
theorem sameMem_slotWrite {p a off form : Nat} {bs r : List Byte} {s : State} (h : (slotWrite p a off form bs s).1 = .done r) :
    SameMem (writeBytes (sramKey p a off) bs s) (slotWrite p a off form bs s).2 := by
  unfold slotWrite at h ⊢
  dsimp only at h ⊢
  generalize mergeFault s (sramKey p a off) bs.length = m at h ⊢
  cases m with
  | some w => split_ifs at h
  | none =>
    split_ifs at h ⊢
    · exact .refl _
    · exact (SameMem.refl _).setTag

theorem sameMem_extWrite {p a off form : Nat} {bs r : List Byte} {s : State} (h : (extWrite p a off form bs s).1 = .done r) :
    SameMem (writeBytes (sramKey p a off) bs s) (extWrite p a off form bs s).2 := by
  unfold extWrite at h ⊢
  split_ifs at h ⊢
  have hw := sameMem_slotWrite (p := p) (a := a) (off := off) (form := form) (bs := bs) (r := r) (s := s)
  generalize slotWrite p a off form bs s = x at h hw ⊢
  obtain ⟨ends, t⟩ := x
  cases ends with
  | done => exact (hw h).slotUsed
  | wait => cases h
  | refuse => cases h

theorem memByte_extWrite_inside {p a off form : Nat} {bs r : List Byte} {s : State}
    (h : (extWrite p a off form bs s).1 = .done r) {i : Nat} (hi : i < bs.length) :
    memByte (extWrite p a off form bs s).2 (sramKey p a off + i) = bs.getD i 0 := by
  rw [memByte_of_sameMem (sameMem_extWrite h), memByte_writeBytes_in _ _ _ _ (by omega), Nat.add_sub_cancel_left]

theorem length_take_vecBytes (v : Vec) {n : Nat} (h : n ≤ 64) : ((vecBytes v).take n).length = n := by
  rw [List.length_take, vecBytes, length_bytesLE, Nat.min_eq_left h]

theorem getD_take_of_lt (bs : List Byte) {n i : Nat} (h : i < n) : (bs.take n).getD i 0 = bs.getD i 0 := by
  rw [List.getD_eq_getElem?_getD, List.getElem?_take_of_lt h, List.getD_eq_getElem?_getD]

theorem ringKey_ne_of_off {c i o o' : Nat} (h : o % 4096 ≠ o' % 4096) : ringKey c i o ≠ ringKey c i o' := by
  unfold ringKey
  omega

theorem tlyCountKey_ne_tlyStatusKey (ring : Bool) (p i : Nat) : TlyCount.key ring p i ≠ TlyStatus.key ring p i := by
  cases ring
  · exact standKey_ne_of_off (by decide)
  · exact ringKey_ne_of_off (by decide)

/-- A tally that is incremented counts the amount (R315, R334). -/
theorem tallyCount_tallyBump (x : Bool × Nat × Nat) (n : Nat) (s : State) :
    tallyCount (tallyBump x n s) x = tallyCount s x + BitVec.ofNat 64 n := by
  rw [tallyCount, tallyBump, rg_rfadd_key _ _ _ _ _ (tlyCountKey_ne_tlyStatusKey _ _ _), rg_rput_self]

/-! ### Memory requests (R131, R169, R230, R267, R315) -/

section
variable {src : MeshSrc} {form : BitVec 2} {a : BitVec 48} {z : BitVec 8} {p sl x off : Nat} {s : State}

/-- The read is taken for any function: the kernel would evaluate the address that it reads. -/
theorem doReadRequest_of_dram {bs : List Byte} (h : arrives src (.read form a z) s)
    (hp : placeOf (svcNote src (.read form a z) s) a.toNat (z.toNat + 1) = .dram p sl off)
    (hr : (dramRead p sl off (z.toNat + 1) (svcNote src (.read form a z) s)).1 = some bs) :
    doReadRequest src form a z s = respond src (.data (ofVecBytes bs))
      (dramRead p sl off (z.toNat + 1) (svcNote src (.read form a z) s)).2 := by
  obtain ⟨read, hread⟩ : ∃ read, read = dramRead := ⟨_, rfl⟩
  rw [← hread] at hr ⊢
  rw [doReadRequest, ← hread, svcArrive_of_arrives h, hp]
  dsimp only
  generalize read p sl off (z.toNat + 1) (svcNote src (.read form a z) s) = y at hr ⊢
  obtain ⟨_, t⟩ := y
  cases hr
  rfl

theorem doReadRequest_of_sram {bs : List Byte} (h : arrives src (.read form a z) s)
    (hp : placeOf (svcNote src (.read form a z) s) a.toNat (z.toNat + 1) = .sram p x off)
    (hr : (extRead p x off (z.toNat + 1) form.toNat (svcNote src (.read form a z) s)).1 = .done bs) :
    doReadRequest src form a z s = respond src (.data (ofVecBytes bs))
      (extRead p x off (z.toNat + 1) form.toNat (svcNote src (.read form a z) s)).2 := by
  rw [doReadRequest, svcArrive_of_arrives h, hp]
  dsimp only
  split
  · next e => rw [e] at hr ⊢; cases hr; rfl
  · next e => rw [e] at hr; cases hr
  · next e => rw [e] at hr; cases hr

theorem doWriteRequest_of_dram {v : Vec} (h : arrives src (.write form a z v) s) (hz : z.toNat < 64)
    (hp : placeOf (svcNote src (.write form a z v) s) a.toNat (z.toNat + 1) = .dram p sl off)
    (hw : dramWritable (svcNote src (.write form a z v) s) a.toNat off = true)
    (hm : mergeFault s (dramKey p sl off) (z.toNat + 1) = none) :
    doWriteRequest src form a z v s = respond src .done
      (dramWrite p sl off a.toNat ((vecBytes v).take (z.toNat + 1)) (svcNote src (.write form a z v) s)) := by
  have hm' : mergeFault (svcNote src (.write form a z v) s) (dramKey p sl off) (z.toNat + 1) = none :=
    (congr_svcNote (mergeFault · (dramKey p sl off) (z.toNat + 1)) (fun _ _ => rfl) ..).trans hm
  rw [doWriteRequest, svcArrive_of_arrives h, hp]
  dsimp only
  rw [hw, length_take_vecBytes v (by omega), hm']
  rfl

theorem doWriteRequest_of_sram {v : Vec} {r : List Byte} (h : arrives src (.write form a z v) s)
    (hp : placeOf (svcNote src (.write form a z v) s) a.toNat (z.toNat + 1) = .sram p x off)
    (hw : (extWrite p x off form.toNat ((vecBytes v).take (z.toNat + 1)) (svcNote src (.write form a z v) s)).1 = .done r) :
    doWriteRequest src form a z v s = respond src .done
      (extWrite p x off form.toNat ((vecBytes v).take (z.toNat + 1)) (svcNote src (.write form a z v) s)).2 := by
  rw [doWriteRequest, svcArrive_of_arrives h, hp]
  dsimp only
  split
  · next e => rw [e]
  · next e => rw [e] at hw; cases hw
  · next e => rw [e] at hw; cases hw

theorem doTallyIncrement_of_tallyPlace {n : BitVec 16} {amount : Word} {t : Bool × Nat × Nat}
    (h : arrives src (.tally n amount) s) (ht : tallyPlace s n.toNat = .ok t) :
    doTallyIncrement src n amount s = respond src .acked (tallyBump t amount.toNat (svcNote src (.tally n amount) s)) := by
  rw [doTallyIncrement, svcArrive_of_arrives h, congr_svcNote (tallyPlace · n.toNat) (fun _ _ => rfl), ht]

/-- As in `doReadRequest_of_dram`, the read is taken for any function. -/
theorem doAtomic_of_dram {op : AtomicOp} {v : Word} {l : StageLoc} {lane : BitVec 4} {r : SvcReq} {bs : List Byte}
    (hs : svcOf s src = some r) (h : arrives src (.atomic op a v lane) s)
    (hp : placeOf s a.toNat (if op = .addX then 8 else 4) = .dram p sl off) (hw : dramWritable s a.toNat off = true)
    (hr : (dramRead p sl off (if op = .addX then 8 else 4) s).1 = some bs) :
    doAtomic src op a v l lane s = respond src .acked (dramWrite p sl off a.toNat
      (bytesLE (if op = .addX then 8 else 4) (atomicWord op (BitVec.ofNat 64 (ofBytesLE bs)) v).toNat)
      (dramRead p sl off (if op = .addX then 8 else 4) s).2) := by
  obtain ⟨read, hread⟩ : ∃ read, read = dramRead := ⟨_, rfl⟩
  rw [← hread] at hr ⊢
  rw [doAtomic, hs]
  dsimp only
  rw [svcArrive_of_arrives h, svcNote_of_svcOf hs, atomicDo, ← hread, hp]
  dsimp only
  rw [hw]
  generalize read p sl off (if op = .addX then 8 else 4) s = y at hr ⊢
  obtain ⟨_, t⟩ := y
  cases hr
  rfl

end

/-- Settles O48: a request that arrives is performed in the state that notes it, where its place is what the case says. -/
theorem memoryRequestsAreAnswered : Obligations.MemoryRequestsAreAnswered := by
  unfold Obligations.MemoryRequestsAreAnswered
  refine ⟨fun src form a z s h => ⟨fun p sl off bs hp hr => ?_, fun p x off bs hp hr => ?_⟩, ?_, ?_, ?_, ?_⟩
  · exact ⟨_, congrArg Host.Outcome.next (doReadRequest_of_dram h hp hr), answered_respond ..,
      (SameMem.refl s).svcNote.dramRead.respond.mem⟩
  · exact ⟨_, congrArg Host.Outcome.next (doReadRequest_of_sram h hp hr), answered_respond ..,
      (SameMem.refl s).svcNote.extRead.respond.mem⟩
  · intro src form a z v p sl off s h hz hp hw hm
    refine ⟨_, congrArg Host.Outcome.next (doWriteRequest_of_dram h hz hp hw hm), answered_respond .., fun i hi => ?_⟩
    have hlen := length_take_vecBytes v (show z.toNat + 1 ≤ 64 by omega)
    rw [memByte_respond, memByte_dramWrite_inside _ _ _ _ _ _ (hi.trans_eq hlen.symm), getD_take_of_lt _ hi]
  · intro src form a z v p x off s h hz u hp hw
    refine ⟨_, congrArg Host.Outcome.next (doWriteRequest_of_sram h hp hw), answered_respond .., fun i hi => ?_⟩
    have hlen := length_take_vecBytes v (show z.toNat + 1 ≤ 64 by omega)
    rw [memByte_respond, memByte_extWrite_inside hw (hi.trans_eq hlen.symm), getD_take_of_lt _ hi]
  · intro src n amount x s h hx
    refine ⟨_, congrArg Host.Outcome.next (doTallyIncrement_of_tallyPlace h hx), answered_respond .., ?_⟩
    rw [congr_respond (tallyCount · x) (fun _ _ _ => rfl), tallyCount_tallyBump,
      congr_svcNote (tallyCount · x) (fun _ _ => rfl), BitVec.ofNat_toNat, BitVec.setWidth_eq]
  · intro src op a v l lane r p sl off bs s hs h hp hw hr
    refine ⟨_, congrArg Host.Outcome.next (doAtomic_of_dram hs h hp hw hr), answered_respond .., fun i hi => ?_⟩
    rw [memByte_respond, memByte_dramWrite_inside _ _ _ _ _ _ (by rwa [length_bytesLE])]

/-! ### The other requests (R180, R183, R228, R327) -/

section
variable {src : MeshSrc} {s : State}

/-- A post whose generators all have a free entry in their scoreboards enters them, if there are any (R180, R181). -/
theorem doPost_of_room {a : ArrayLoc} {f l : BitVec 13} {w : Bool} {o : BitVec 6} {p i : Nat}
    (h : arrives src (.post a f l w o) s) (hp : inService s a.stand.toNat = some p)
    (hi : arrIdx a.x.toNat a.y.toNat = i) (hst : arrState s p i ≠ 5)
    (hroom : ∀ g ∈ postGens s p i w, ((memArrOf s p i).sb.filter (fun x => x.gens.contains g)).length < 8) :
    doPost src a f l w o s = respond src .posted (if (postGens s p i w).isEmpty then svcNote src (.post a f l w o) s
      else putMemArr p i { memArrOf s p i with sb := (memArrOf s p i).sb ++
        [⟨src, src.stand.toNat * 64 + o.toNat, postGens s p i w, f.toNat, l.toNat, w, false,
          (svcOf (svcNote src (.post a f l w o) s) src).any (·.dead)⟩] } (svcNote src (.post a f l w o) s)) := by
  have hall : (postGens s p i w).all (fun g =>
      decide (((memArrOf s p i).sb.filter (fun x => x.gens.contains g)).length < 8)) = true := by
    simpa using hroom
  rw [doPost, svcArrive_of_arrives h]
  dsimp only
  rw [congr_svcNote (inService · a.stand.toNat) (fun _ _ => rfl), hp, hi]
  dsimp only
  rw [congr_svcNote (arrState · p i) (fun _ _ => rfl), if_neg hst, congr_svcNote (postGens · p i w) (fun _ _ => rfl),
    congr_svcNote (memArrOf · p i) (fun _ _ => rfl), if_pos hall]

theorem doConfig_write {a : BitVec 48} {v : Word} (h : arrives src (.config true a v) s)
    (hd : (setupPut .ranger a.toNat 8 v (svcNote src (.config true a v) s)).1 = stDone) :
    doConfig src true a v s = respond src .acked (setupPut .ranger a.toNat 8 v (svcNote src (.config true a v) s)).2 := by
  rw [doConfig, svcArrive_of_arrives h, if_pos rfl]
  dsimp only
  rw [if_pos hd]

theorem doConfig_read {a : BitVec 48} {v : Word} (h : arrives src (.config false a v) s)
    (hd : (setupGet .ranger a.toNat 8 (svcNote src (.config false a v) s)).1 = stDone) :
    doConfig src false a v s = respond src
      (.data ((setupGet .ranger a.toNat 8 (svcNote src (.config false a v) s)).2.1.setWidth 512))
      (setupGet .ranger a.toNat 8 (svcNote src (.config false a v) s)).2.2 := by
  rw [doConfig, svcArrive_of_arrives h, if_neg Bool.false_ne_true]
  dsimp only
  rw [if_pos hd]

theorem doRecord_of_arrives {st : Status} {loc a : Word} {d : BitVec 192} (h : arrives src (.record st loc a d) s) :
    doRecord src st loc a d s = respond src .acked
      (report st false 1 loc a (bytesLE 24 d.toNat) (svcNote src (.record st loc a d) s)) :=
  svcArrive_of_arrives h

theorem doMgmt_of_arrives {m : BitVec 512} (h : arrives src (.mgmt m) s) :
    doMgmt src m s = respond src .acked { svcNote src (.mgmt m) s with mgmtIn := (svcNote src (.mgmt m) s).mgmtIn ++ [m] } :=
  svcArrive_of_arrives h

theorem doTallyWait_of_reached {n : BitVec 16} {target : Word} {x : Bool × Nat × Nat}
    (h : arrives src (.tallyWait n target) s) (hx : tallyPlace s n.toNat = .ok x)
    (hr : reached (tallyCount s x) target = true) :
    doTallyWait src n target s = respond src .waited (svcNote src (.tallyWait n target) s) := by
  rw [doTallyWait, svcArrive_of_arrives h, congr_svcNote (tallyPlace · n.toNat) (fun _ _ => rfl), hx]
  dsimp only
  rw [congr_svcNote (tallyCount · x) (fun _ _ => rfl), if_pos hr]

end

/-- Settles O49: what the case asks of the state holds where the request is noted, and there it is performed. -/
theorem otherRequestsAreAnswered : Obligations.OtherRequestsAreAnswered := by
  unfold Obligations.OtherRequestsAreAnswered
  refine ⟨?_, fun src a v s => ⟨fun h hd => ?_, fun h hd => ?_⟩, ?_, ?_, ?_⟩
  · intro src a f l w o p s h hp i hst hroom
    refine ⟨_, congrArg Host.Outcome.next (doPost_of_room h hp rfl hst hroom), answered_respond .., fun hg => ?_⟩
    rw [congr_respond (memArrOf · p i) (fun _ _ _ => rfl), if_neg (by simpa using hg), memArrOf_putMemArr_self]
  · exact ⟨_, congrArg Host.Outcome.next (doConfig_write h hd), answered_respond ..⟩
  · exact ⟨_, congrArg Host.Outcome.next (doConfig_read h hd), answered_respond ..⟩
  · intro src st loc a d s h
    refine ⟨_, congrArg Host.Outcome.next (doRecord_of_arrives h), answered_respond .., ?_⟩
    rw [congr_respond (·.reportSeq) (fun _ _ _ => rfl), report_reportSeq, congr_svcNote (·.reportSeq) (fun _ _ => rfl)]
  · intro src m s h
    refine ⟨_, congrArg Host.Outcome.next (doMgmt_of_arrives h), answered_respond .., ?_⟩
    rw [congr_respond (·.mgmtIn) (fun _ _ _ => rfl), congr_svcNote (·.mgmtIn) (fun _ _ => rfl)]
  · intro src n target x s h hx hr
    exact ⟨_, congrArg Host.Outcome.next (doTallyWait_of_reached h hx hr), answered_respond ..⟩

end Sys2Proof.Proofs
end

section
/-!
PROOFS. The slots that a boundary counts (R202, R401). `SameStands s t` says that the stands, their roles and the length of
the lap are in t as in s: one lemma for each function that a boundary runs below its stands says that it keeps this, in the
order of the model's files. The end of a slot then writes its own stand alone, and the beginning of the next leaves every
count.
-/

namespace Sys2Proof.Proofs

open Sys2Proof.Machine Sys2Proof.Laws

-- A hundred short proofs follow one another: elaborated side by side they would each hold a thread's stack.
set_option Elab.async false

/-! ### Properties of a state through control -/

section
variable {α β : Type} {P : State → Prop} {s t : State}

theorem holds_ite {c : Prop} {_ : Decidable c} (h : P s) (k : P t) : P (if c then s else t) :=
  iteInduction (fun _ => h) fun _ => k

theorem holds_ite_snd {c : Prop} {_ : Decidable c} {x y : α × State} (h : P x.2) (k : P y.2) :
    P (if c then x else y).2 := by
  split
  · exact h
  · exact k

theorem holds_of_eq {x : α × State} {a : α} (h : P x.2) (e : x = (a, s)) : P s := by
  rw [e] at h
  exact h

theorem holds_foldl {f : State → α → State} {l : List α} (h : P s) (hf : ∀ u a, P u → P (f u a)) : P (l.foldl f s) :=
  l.foldlRecOn f h fun u hu a _ => hf u a hu

/-- A fold whose state is a part of what it carries. -/
theorem holds_foldl_of (π : β → State) {f : β → α → β} {l : List α} {x : β} (h : P (π x))
    (hf : ∀ y a, P (π y) → P (π (f y a))) : P (π (l.foldl f x)) :=
  l.foldlRecOn (motive := fun y => P (π y)) f h fun y hy a _ => hf y a hy

end

/-! ### What a boundary does below the stands -/

/-- The stands, their roles and the length of the lap are in t as in s. -/
structure SameStands (s t : State) : Prop where
  stands : t.stands = s.stands
  lapLen : t.lapLen = s.lapLen
  roles : ∀ p, p < 64 → rg t (IorStandMap.key p) = rg s (IorStandMap.key p)

namespace SameStands

variable {s t u : State}

theorem refl (s : State) : SameStands s s := ⟨rfl, rfl, fun _ _ => rfl⟩

theorem frame (h : SameStands s t) (e : (u.stands, u.lapLen, u.regs) = (t.stands, t.lapLen, t.regs)) :
    SameStands s u := by
  simp only [Prod.mk.injEq] at e
  obtain ⟨hstands, hlap, hregs⟩ := e
  refine ⟨hstands.trans h.stands, hlap.trans h.lapLen, fun p hp => ?_⟩
  rw [rg, hregs]
  exact h.roles p hp

theorem standOf (h : SameStands s t) (p : Nat) : Machine.standOf t p = Machine.standOf s p := by
  rw [Machine.standOf, h.stands, Machine.standOf]

theorem servicePhys (h : SameStands s t) : Machine.servicePhys t = Machine.servicePhys s := by
  refine List.filter_congr fun p hp => ?_
  have hlt : p < 64 := List.mem_range.1 (List.mem_filter.1 hp).1
  rw [roleOf, rf, h.roles p hlt, roleOf, rf]

/-! ### Machine/Ops -/

theorem rput_of_ne {k : Nat} {w : Word} (h : SameStands s t) (hk : ∀ p, p < 64 → IorStandMap.key p ≠ k) :
    SameStands s (Machine.rput k w t) :=
  ⟨h.stands, h.lapLen, fun p hp => by rw [rg_rput, if_neg (hk p hp), h.roles p hp]⟩

/-- The registers of the stands lie above the stand map (R40). -/
theorem rput {p c i o : Nat} {w : Word} (h : SameStands s t) : SameStands s (Machine.rput (standKey p c i o) w t) := by
  refine h.rput_of_ne fun q _ => ?_
  unfold IorStandMap.key ringKey standKey
  omega

theorem rfput {p c i o v : Nat} {f : Fld} (h : SameStands s t) :
    SameStands s (Machine.rfput (standKey p c i o) f v t) := h.rput

theorem rfsat {p c i o n : Nat} {f : Fld} (h : SameStands s t) :
    SameStands s (Machine.rfsat (standKey p c i o) f n t) := h.rfput

theorem rfadd {p c i o n : Nat} {f : Fld} (h : SameStands s t) :
    SameStands s (Machine.rfadd (standKey p c i o) f n t) := h.rfput

theorem setTag {k : Nat} {b : Bool} (h : SameStands s t) : SameStands s (Machine.setTag k b t) := h.frame rfl

theorem putStage {k : Nat} {v : Stage} (h : SameStands s t) : SameStands s (Machine.putStage k v t) := h.frame rfl

theorem putArr {k : Nat} {v : CArray} (h : SameStands s t) : SameStands s (Machine.putArr k v t) := h.frame rfl

theorem taint {st : Status} {a : Word} (h : SameStands s t) : SameStands s (Machine.taint st a t) := h.frame rfl

theorem report {st : Status} {b : Bool} {src : Nat} {loc a : Word} {data : List Byte} (h : SameStands s t) :
    SameStands s (Machine.report st b src loc a data t) := by
  refine ⟨(report_stands ..).trans h.stands, (report_lapLen ..).trans h.lapLen, fun p hp => ?_⟩
  rw [rg_report _ _ _ _ _ _ _ _ fun q hq => ?apart, h.roles p hp]
  unfold IorStandMap.key IorPortCount.key ringKey
  omega

theorem writeBytes {k : Nat} {bs : List Byte} (h : SameStands s t) : SameStands s (Machine.writeBytes k bs t) := by
  obtain ⟨m, x, e⟩ := writeBytes_frame k bs t
  rw [e]
  exact h.frame rfl

/-! ### Machine/Access -/

theorem journal {p sl off : Nat} {old new : List Byte} (h : SameStands s t) :
    SameStands s (Machine.journal p sl off old new t) := by
  have hlog : ∀ v, SameStands s (Machine.putLog p v t) := fun _ => h.frame rfl
  exact holds_ite h (holds_ite (hlog _).report (hlog _))

theorem dramWrite {p sl off addr : Nat} {bs : List Byte} (h : SameStands s t) :
    SameStands s (Machine.dramWrite p sl off addr bs t) :=
  holds_ite h.writeBytes.journal h.writeBytes

theorem dramUncorrectable {p sl off : Nat} (h : SameStands s t) : SameStands s (Machine.dramUncorrectable p sl off t) :=
  .report (.taint (.rfsat (holds_ite h.rfput h)))

/-- The definition is opened as a function: applied, the kernel would evaluate the address that it reads. -/
theorem dramRead {p sl off n : Nat} (h : SameStands s t) : SameStands s (Machine.dramRead p sl off n t).2 := by
  obtain ⟨x, hx⟩ : ∃ x, Machine.dramRead p sl off n t = x := ⟨_, rfl⟩
  rw [hx]
  refine SameMem.of_def (f := Machine.dramRead) (P := fun f => f p sl off n t = x → SameStands s x.2)
    (by delta Machine.dramRead; exact rfl) ?_ hx
  beta_reduce
  generalize readBytes t (dramKey p sl off) n = y
  rcases y with k | ⟨bs, c⟩
  · rintro rfl
    exact h.dramUncorrectable
  · have hc : SameStands s (if c = 0 then t else Machine.rfsat (DslEcc.key p sl) DslEcc.corrected c t) :=
      holds_ite h h.rfsat
    rintro rfl
    exact holds_ite_snd (hc.frame rfl) hc

theorem sramUncorrectable {p a off : Nat} (h : SameStands s t) : SameStands s (Machine.sramUncorrectable p a off t) :=
  .report (.taint (holds_ite (holds_ite h h.rfput.rfput) (holds_ite h h.rfput.rfput)))

theorem sramCorrected {p a c : Nat} (h : SameStands s t) : SameStands s (Machine.sramCorrected p a c t) :=
  holds_ite h (holds_ite h.rfsat h.rfsat)

theorem slotUsed {p a n : Nat} {consumed : Bool} (h : SameStands s t) : SameStands s (Machine.slotUsed p a n consumed t) :=
  holds_ite h (holds_ite (holds_ite (h.frame rfl) h) h.putArr.putArr)

theorem slotRead {p a off n form : Nat} (h : SameStands s t) : SameStands s (Machine.slotRead p a off n form t).2 :=
  holds_ite_snd h (holds_ite_snd h (by
    split
    · exact h.sramUncorrectable
    · exact holds_ite h.sramCorrected.setTag h.sramCorrected))

theorem slotWrite {p a off form : Nat} {bs : List Byte} (h : SameStands s t) :
    SameStands s (Machine.slotWrite p a off form bs t).2 :=
  holds_ite_snd h (holds_ite_snd h (holds_ite_snd h (by
    split
    · exact h.sramUncorrectable
    · exact holds_ite h.writeBytes h.writeBytes.setTag)))

theorem extRead {p a off n form : Nat} (h : SameStands s t) : SameStands s (Machine.extRead p a off n form t).2 := by
  have hr := h.slotRead (p := p) (a := a) (off := off) (n := n) (form := form)
  refine holds_ite_snd h ?_
  split
  · next e => exact (holds_of_eq hr e).slotUsed
  · exact hr

theorem extWrite {p a off form : Nat} {bs : List Byte} (h : SameStands s t) :
    SameStands s (Machine.extWrite p a off form bs t).2 := by
  have hw := h.slotWrite (p := p) (a := a) (off := off) (form := form) (bs := bs)
  refine holds_ite_snd h ?_
  split
  · next e => exact (holds_of_eq hw e).slotUsed
  · exact hw

theorem svcSend {p router : Nat} {k : SvcKind} {loc : Word} (h : SameStands s t) :
    SameStands s (Machine.svcSend p router k loc t) := h.frame rfl

theorem addWait {n : Nat} {target : Word} {w : Waiter} {via : Option MeshSrc} (h : SameStands s t) :
    SameStands s (Machine.addWait n target w via t) := h.frame rfl

/-- A wait changes the waits and the packets that ask for them (R326, R327). -/
theorem waitStep {home router : Nat} {loc : Word} {n : Nat} {target : Word} {who : Waiter} (h : SameStands s t) :
    SameStands s (Machine.waitStep home router loc n target who t).2 := by
  unfold Machine.waitStep
  split
  · split
    · exact h.frame rfl
    · exact holds_ite_snd h (holds_ite_snd (h.frame rfl) h)
  · split
    · exact h
    · exact holds_ite_snd (holds_ite_snd (h.frame rfl) (h.frame rfl)) h.svcSend.addWait

/-! ### Machine/StageStep to Machine/StageRun -/

theorem traceSlot {p a : Nat} (h : SameStands s t) : SameStands s (Machine.traceSlot p a t) := holds_ite h h.putArr

theorem stageWaits {l : Loc} {cause : Nat} {ctr : Option Nat} (h : SameStands s t) :
    SameStands s (Machine.stageWaits l cause ctr t) := by
  unfold Machine.stageWaits
  split
  · exact h.rfput.rfput.rfput
  · exact h.rfput.rfput

theorem stageUncorrectable {l : Loc} {key : Nat} (h : SameStands s t) :
    SameStands s (Machine.stageUncorrectable l key t) :=
  holds_ite h (.report (.taint (holds_ite h.rfput.rfput h.rfput.rfput.rfput.rfput)))

theorem twaitStart {l : Loc} {e : Entry} (h : SameStands s t) : SameStands s (Machine.twaitStart l e t) := by
  unfold Machine.twaitStart
  split
  · exact h.waitStep
  · exact h

theorem stageRuns {l : Loc} (h : SameStands s t) : SameStands s (Machine.stageRuns l t) := holds_ite h.rfput.rfput h

/-- The step of a stage is judged without being committed (R84 to R87). -/
theorem judgeStage {l : Loc} (h : SameStands s t) : SameStands s (Machine.judgeStage l t).2 := by
  refine holds_ite_snd h (holds_ite_snd h (holds_ite_snd h ?_))
  dsimp only
  split
  · exact h
  · split
    · exact holds_ite h.stageWaits.twaitStart h.stageWaits
    · exact h.stageUncorrectable
    · split
      · exact h.stageWaits
      · exact h
      · exact h.stageRuns
      · exact h.stageRuns
    · exact h.stageRuns

/-! ### Machine/Mesh -/

theorem putLink {p n d : Nat} {v : LinkIn} (h : SameStands s t) : SameStands s (Machine.putLink p n d v t) :=
  h.frame rfl

theorem putCredit {c v : Nat} (h : SameStands s t) : SameStands s (Machine.putCredit c v t) := h.frame rfl

theorem putSteer {p n i : Nat} {v : Steer} (h : SameStands s t) : SameStands s (Machine.putSteer p n i v t) :=
  h.frame rfl

theorem putNode {p n : Nat} {v : NodeSt} (h : SameStands s t) : SameStands s (Machine.putNode p n v t) := h.frame rfl

theorem putSeam {p d : Nat} {v : SeamPort} (h : SameStands s t) : SameStands s (Machine.putSeam p d v t) := h.frame rfl

theorem putTap {p i : Nat} {v : Tap} (h : SameStands s t) : SameStands s (Machine.putTap p i v t) := h.frame rfl

theorem addCredit {c delay : Nat} (h : SameStands s t) : SameStands s (Machine.addCredit c delay t) := h.frame rfl

theorem creditStep {n : Nat} {ts keep moved : List Credit} {used : List Nat} (h : SameStands s t) :
    SameStands s (Machine.creditStep n ts keep moved used t) := by
  induction n generalizing ts keep moved used t with
  | zero => exact h.frame rfl
  | succ n ih =>
    cases ts with
    | nil => exact h.frame rfl
    | cons c ts =>
      refine holds_ite (ih h) (holds_ite (ih h.putCredit) (holds_ite (ih h) ?_))
      split
      · exact ih h
      · exact holds_ite (ih h) (ih h)

theorem genCounters {p a g n k : Nat} (h : SameStands s t) : SameStands s (Machine.genCounters p a g n k t) := by
  induction n generalizing k t with
  | zero => exact h
  | succ n ih =>
    unfold Machine.genCounters
    extract_lets _ f ks i s1 s2
    have h2 : SameStands s s2 := holds_ite h.rfput.rfadd h.rfput
    exact holds_ite (holds_ite (ih h2) h2) h.rfput

theorem genAdvance {p a g : Nat} (h : SameStands s t) : SameStands s (Machine.genAdvance p a g t) :=
  holds_ite h.rfadd.rfput h.rfadd.genCounters

theorem memStops {p a : Nat} {st : Status} (h : SameStands s t) : SameStands s (Machine.memStops p a st t) :=
  h.rfput.rfput

theorem genRefused {p a g n : Nat} (h : SameStands s t) : SameStands s (Machine.genRefused p a g n t) :=
  h.memStops.report

theorem genRead {p a g : Nat} (h : SameStands s t) : SameStands s (Machine.genRead p a g t).2 := by
  refine holds_ite_snd h.rfsat ?_
  split
  · next e => exact (holds_of_eq h.slotRead e).genRefused
  · next e => exact holds_ite (holds_of_eq h.slotRead e).memStops (holds_of_eq h.slotRead e).rfsat
  · next e => exact (holds_of_eq h.slotRead e).rfadd.genAdvance

theorem genWrite {p a : Nat} {tag : Byte} {v : Vec} (h : SameStands s t) :
    SameStands s (Machine.genWrite p a tag v t).2 := by
  refine holds_ite_snd h.rfsat (holds_ite_snd h.rfsat ?_)
  split
  · next e => exact (holds_of_eq h.slotWrite e).genRefused
  · next e => exact (holds_of_eq h.slotWrite e).rfsat
  · next e => exact .genAdvance (holds_ite ((holds_of_eq h.slotWrite e).frame rfl) (holds_of_eq h.slotWrite e))

theorem steerStops {p n i kind input expected received : Nat} (h : SameStands s t) :
    SameStands s (Machine.steerStops p n i kind input expected received t) := by
  unfold Machine.steerStops
  extract_lets _ s1 _ s2 _ s3
  have h2 : SameStands s s2 := h.rfput.rfput.rfput.rfput.rfput.putSteer
  have h3 : SameStands s s3 := holds_ite h2 h2.rfput.rfput
  exact h3.report

theorem steerStall {p n i : Nat} (h : SameStands s t) : SameStands s (Machine.steerStall p n i t) := h.rfsat

theorem steerAccept {p n i : Nat} {m : Move} (h : SameStands s t) : SameStands s (Machine.steerAccept p n i m t).2 :=
  holds_ite_snd h
    (holds_ite_snd (holds_ite_snd h.steerStall (holds_ite_snd h.steerStops h.putSteer.rfadd))
      (holds_ite_snd (holds_ite_snd h.steerStall h.putSteer.addCredit)
        (holds_ite_snd (holds_ite_snd h.steerStall h.putSteer) (holds_ite_snd h.steerStall h.putSteer))))

theorem steerOpen {p n i : Nat} (h : SameStands s t) : SameStands s (Machine.steerOpen p n i t) := by
  unfold Machine.steerOpen
  dsimp only
  split
  · exact h
  · exact holds_ite h (holds_ite h.rfput.rfput.rfput.rfput.putSteer h.rfput.rfput.rfput.rfput)

theorem steerPair {p n i : Nat} (h : SameStands s t) : SameStands s (Machine.steerPair p n i t) := by
  have ho := h.steerOpen (p := p) (n := n) (i := i)
  refine holds_ite h (holds_ite ho ?_)
  dsimp only
  split
  · exact ho
  · refine holds_ite ho.steerStops (holds_ite ?_ ho.rfput.putSteer)
    split
    · exact ho.rfput.rfput.rfadd.putSteer.addCredit
    · exact ho.rfput.rfput.rfadd.putSteer

theorem steerDepart {p n i : Nat} (h : SameStands s t) : SameStands s (Machine.steerDepart p n i t).2 := by
  unfold Machine.steerDepart
  dsimp only
  split
  · exact h
  · split
    · exact h
    · exact h.putSteer.addCredit

theorem steerDrop {p n i : Nat} (h : SameStands s t) : SameStands s (Machine.steerDrop p n i t) := by
  unfold Machine.steerDrop
  dsimp only
  split
  · exact holds_ite h.steerDepart h
  · exact h

theorem batonArrives {p a : Nat} {b : BitVec 16} {conn : Nat} (h : SameStands s t) :
    SameStands s (Machine.batonArrives p a b conn t).2 :=
  holds_ite_snd h (holds_ite_snd h.rfput.rfput.rfput.rfput.report h.putArr.rfadd)

theorem deliver {pos : Nat} {m : Move} (h : SameStands s t) : SameStands s (Machine.deliver pos m t).2 := by
  refine holds_ite_snd h.putLink (holds_ite_snd ?array (holds_ite_snd ?tap (holds_ite_snd h.steerAccept h)))
  case array =>
    exact holds_ite_snd (holds_ite_snd (holds_ite_snd h.genWrite.addCredit h.genWrite) h)
      (holds_ite_snd (holds_ite_snd h h.batonArrives) (holds_ite_snd h h.putArr))
  case tap =>
    split
    · exact h
    · exact holds_ite_snd h h.putTap

theorem deliverAll {p pos : Nat} {ms keep : List Move} (h : SameStands s t) :
    SameStands s (Machine.deliverAll p pos ms keep t) := by
  induction ms generalizing keep t with
  | nil => exact h.frame rfl
  | cons m ms ih =>
    have hd := h.deliver (pos := pos) (m := m)
    refine holds_ite (ih h) ?_
    split
    · next e => exact ih (holds_of_eq hd e)
    · next e => exact ih (holds_of_eq hd e)

theorem freeLatches {p a : Nat} (h : SameStands s t) : SameStands s (Machine.freeLatches p a t) := by
  unfold Machine.freeLatches
  extract_lets c s1 c' n
  have h1 : SameStands s s1 := holds_ite h.putArr.addCredit h
  exact holds_ite h1 (holds_foldl h1.putArr fun _ _ h => h.addCredit)

theorem takeDue {p n : Nat} {c : ConnE} (h : SameStands s t) : SameStands s (Machine.takeDue p n c t) := by
  unfold Machine.takeDue
  dsimp only
  split
  · split
    · exact h
    · exact h.putSeam
  · refine holds_ite (holds_ite h.putArr h.putArr) (holds_ite ?_ (holds_ite h.steerDepart (holds_ite h.putSteer h)))
    split
    · exact h.putTap.rfadd
    · exact h

theorem putOut {p n pos : Nat} {c : ConnE} {tag : Byte} {v : Vec} {b : BitVec 16} (h : SameStands s t) :
    SameStands s (Machine.putOut p n pos c tag v b t) := by
  unfold Machine.putOut
  split
  · split
    · exact h.frame rfl
    · exact h.putSeam
  · exact h.frame rfl

theorem linkParity {p n port pos : Nat} (h : SameStands s t) : SameStands s (Machine.linkParity p n port pos t) :=
  .report (.taint (.rfsat (holds_ite h.rfput.rfput h)))

theorem slipCount {p n key : Nat} (h : SameStands s t) : SameStands s (Machine.slipCount p n key t) :=
  holds_ite h.putNode.rfsat.rfput h.putNode.rfsat

theorem slipEnd {p n key : Nat} (h : SameStands s t) : SameStands s (Machine.slipEnd p n key t) := holds_ite h.putNode h

theorem countAbsent {p n pos : Nat} {cs : List ConnE} (h : SameStands s t) :
    SameStands s (Machine.countAbsent p n pos cs t) := holds_ite h h.rfsat

theorem fireStart {p n pos : Nat} {bad : Bool} {c : ConnE} {cs : List ConnE} (h : SameStands s t) :
    SameStands s (Machine.fireStart p n pos bad c cs t) := by
  unfold Machine.fireStart
  extract_lets due send
  have hsend : ∀ tag v b w, SameStands s w → SameStands s (send tag v b w) := fun tag v b w h => by
    have hp : SameStands s (cs.foldl (fun s x => Machine.putCredit x.key (creditOf s x.key - 1) s)
        (nodeMoved p n (Machine.slipEnd p n c.key w))) := holds_foldl h.slipEnd.putNode fun _ _ h => h.putCredit
    exact holds_ite hp.linkParity (holds_foldl hp fun _ _ h => h.putOut)
  clear_value due send
  refine holds_ite h.countAbsent (holds_ite h.takeDue (holds_ite h.slipCount (holds_ite h.slipCount ?_)))
  split
  · exact hsend _ _ _ _ h.takeDue
  · exact hsend _ _ _ _ h.takeDue
  · split
    · next e => exact hsend _ _ _ _ (holds_of_eq h.genRead e)
    · next e => exact (holds_of_eq h.genRead e).countAbsent
  · exact h

theorem fireLink {p n pos d : Nat} {bad : Bool} {c : ConnE} {cs : List ConnE} (h : SameStands s t) :
    SameStands s (Machine.fireLink p n pos d bad c cs t) := by
  unfold Machine.fireLink
  extract_lets l s1 go
  have h1 : SameStands s s1 := h.putLink
  have hgo : ∀ tag v b w, SameStands s w → SameStands s (go tag v b w) := fun tag v b w h =>
    holds_ite h.linkParity (holds_foldl h.putNode fun _ _ h => h.putOut)
  split_ifs
  · split
    · exact hgo _ _ _ _ h1
    · exact h1
  · split
    · exact hgo _ _ _ _ h1
    · exact h1

theorem spareGens {p pos n : Nat} {cs : List ConnE} (h : SameStands s t) : SameStands s (Machine.spareGens p pos n cs t) :=
  holds_ite h (holds_foldl h fun _ _ h => holds_ite h.genRead h)

theorem fireNode {p pos : Nat} {bad : ConnE → Bool} {n : Nat} (h : SameStands s t) :
    SameStands s (Machine.fireNode p pos bad n t) := by
  refine .spareGens (holds_foldl h fun _ _ h => holds_ite h (holds_ite h.fireStart ?_))
  split
  · exact h.fireLink
  · exact h

/-! ### Machine/Boundary -/

theorem holdStage {l : Loc} {c : Lateness} (h : SameStands s t) : SameStands s (Machine.holdStage l c t) := by
  unfold Machine.holdStage
  dsimp only
  split
  · exact h.putStage
  · exact h.putStage
  · exact holds_ite h.putStage.putStage h.putStage
  · exact holds_ite h h.putStage

theorem arrHold {p a : Nat} {causes : List Lateness} (h : SameStands s t) :
    SameStands s (Machine.arrHold p a causes t) := by
  unfold Machine.arrHold
  extract_lets k s1 s2 c r s3 s4
  have h1 : SameStands s s1 := holds_ite h.rfsat (holds_ite h.rfsat h.rfsat)
  have h2 : SameStands s s2 := holds_ite h1.rfsat h1
  have h4 : SameStands s s4 := holds_ite h2.putArr.rfput h2.putArr
  exact holds_foldl h4 fun _ _ h => h.holdStage

theorem arrCauses {p a : Nat} (h : SameStands s t) : SameStands s (Machine.arrCauses p a t).2 :=
  holds_foldl_of (Prod.snd) h fun _ _ h => h.judgeStage

theorem endSteps {p a : Nat} (h : SameStands s t) : SameStands s (Machine.endSteps p a t) :=
  holds_foldl h fun _ _ h => holds_ite h.putStage h

theorem stageHolds {p : Nat} (h : SameStands s t) : SameStands s (Machine.stageHolds p t).2.2.2 := by
  refine holds_foldl_of (fun x : Bool × Bool × Bool × State => x.2.2.2) h fun x a h => ?_
  obtain ⟨b, cnt, svc, v⟩ := x
  dsimp only at h ⊢
  have hend : SameStands s (if arrStopped (Machine.arrCauses p a v).2 p a = true then
      Machine.endSteps p a (Machine.arrCauses p a v).2 else (Machine.arrCauses p a v).2) :=
    holds_ite h.arrCauses.endSteps h.arrCauses
  split
  · exact hend.arrHold
  · exact holds_ite hend hend.putArr

theorem countPortHold {p n : Nat} {ms : List ConnE} (h : SameStands s t) :
    SameStands s (Machine.countPortHold p n ms t) := by
  unfold Machine.countPortHold
  dsimp only
  split
  · exact holds_ite h h.putNode
  · exact holds_ite h.rfsat.putNode.rfput h.rfsat.putNode

theorem portHolds {p q lap : Nat} (h : SameStands s t) : SameStands s (Machine.portHolds p q lap t).2 :=
  holds_foldl_of (Prod.snd) h fun _ _ h => h.countPortHold

theorem beginStages {p q a : Nat} (h : SameStands s t) : SameStands s (Machine.beginStages p q a t) := by
  refine holds_ite h (holds_foldl h.putArr fun _ _ h => ?_)
  refine holds_ite h.putStage (holds_ite h.putStage (holds_ite h.putStage ?_))
  extract_lets s1
  have h1 : SameStands s s1 := holds_ite h.rfput h
  exact holds_ite h1.putStage h1.putStage

theorem sendService {p a : Nat} (h : SameStands s t) : SameStands s (Machine.sendService p a t) := by
  unfold Machine.sendService
  split
  · refine holds_foldl h.putArr fun _ _ h => ?_
    split
    · exact h.svcSend
    · exact h.svcSend
    · exact h.svcSend
  · exact h

theorem writeTraces {p : Nat} (h : SameStands s t) : SameStands s (Machine.writeTraces p t) := by
  refine holds_ite h (holds_foldl h fun _ _ h => ?_)
  dsimp only
  split
  · exact h.dramWrite
  · exact h

theorem endPortRuns {p : Nat} (h : SameStands s t) : SameStands s (Machine.endPortRuns p t) :=
  holds_foldl h fun _ _ h => holds_ite h h.putNode

theorem nodeProgress {p n : Nat} (h : SameStands s t) : SameStands s (Machine.nodeProgress p n t) :=
  holds_ite h.putNode.rfput.rfput (holds_ite h.putNode.rfput h)

theorem slotEnds {p : Nat} (h : SameStands s t) : SameStands s (Machine.slotEnds p t) :=
  holds_foldl h.deliverAll fun _ _ h => holds_foldl h fun _ _ h => h.steerPair

theorem clearSlot {p a : Nat} (h : SameStands s t) : SameStands s (Machine.clearSlot p a t) :=
  holds_ite h.traceSlot.putArr h.traceSlot

theorem seamResend {p d : Nat} {n : Byte} (h : SameStands s t) : SameStands s (Machine.seamResend p d n t) :=
  holds_ite h.putSeam h

theorem frameGood {p d : Nat} {f : SeamFrame} (h : SameStands s t) : SameStands s (Machine.frameGood p d f t) := by
  unfold Machine.frameGood
  extract_lets _ s1 s2 m
  have h2 : SameStands s s2 := holds_ite h.putSeam.seamResend h.putSeam
  exact holds_ite h2 (holds_foldl h2.putSeam.rfput fun _ _ h => h.addCredit)

theorem seamArrivals {p d : Nat} (h : SameStands s t) : SameStands s (Machine.seamArrivals p d t) := by
  unfold Machine.seamArrivals
  dsimp only
  split
  · exact holds_ite h h.putSeam
  · exact holds_ite h (holds_ite (holds_foldl h.putSeam fun _ _ h => h.frameGood) h.putSeam)

theorem seamSlots (h : SameStands s t) : SameStands s (Machine.seamSlots t) :=
  holds_foldl (holds_foldl h fun _ _ h => h.seamArrivals) fun _ _ h =>
    holds_foldl h fun _ _ h => holds_ite h (holds_ite h.putSeam h.putSeam)

theorem sbBoundary {k : Nat} (h : SameStands s t) : SameStands s (Machine.sbBoundary k t) := h.frame rfl

/-! ### Machine/Service -/

theorem respond {src : MeshSrc} {a : SvcAnswer} (h : SameStands s t) : SameStands s (Machine.respond src a t) :=
  h.frame rfl

theorem svcHold {src : MeshSrc} {k : SvcKind} (h : SameStands s t) : SameStands s (Machine.svcHold src k t) := by
  unfold Machine.svcHold
  split
  · exact h.frame rfl
  · exact h.frame rfl

theorem noRoute {src : MeshSrc} {addr : BitVec 48} (h : SameStands s t) : SameStands s (Machine.noRoute src addr t) := by
  have herr : ∀ a b, SameStands s (countErr stNoServiceRoute a b addr.toNat t) := fun _ _ =>
    ((h.rput_of_ne (by decide)).rput_of_ne (by decide)).rput_of_ne (by decide)
  exact .respond (.report (holds_ite (herr _ _) (herr _ _)))

theorem svcArrive {src : MeshSrc} {k : SvcKind} {f : State → State} (h : SameStands s t)
    (hf : ∀ u, SameStands s u → SameStands s (f u)) : SameStands s (Machine.svcArrive src k f t) := by
  have hnote : SameStands s (svcNote src k t) := by
    obtain ⟨x, e⟩ := svcNote_frame src k t
    rw [e]
    exact h.frame rfl
  unfold Machine.svcArrive
  dsimp only
  split
  · exact hnote.respond
  · exact holds_ite (hf _ hnote) hnote.noRoute

/-- The read of a DRAM slot is taken for any that keeps: the kernel would evaluate the address that it reads. -/
theorem doReadRequest {src : MeshSrc} {form : BitVec 2} {addr : BitVec 48} {z : BitVec 8} (h : SameStands s t) :
    SameStands s (Machine.doReadRequest src form addr z t) := by
  obtain ⟨read, hr⟩ : ∃ read, read = Machine.dramRead := ⟨_, rfl⟩
  have hd : ∀ {p sl off n u}, SameStands s u → SameStands s (read p sl off n u).2 := hr ▸ dramRead
  unfold Machine.doReadRequest
  rw [← hr]
  refine h.svcArrive fun _ h => ?_
  split
  · exact h.respond
  · split
    · next e => exact (holds_of_eq (hd h) e).respond
    · next e => exact (holds_of_eq (hd h) e).svcHold
  · split
    · next e => exact (holds_of_eq h.extRead e).respond
    · next e => exact (holds_of_eq h.extRead e).svcHold
    · next e => exact (holds_of_eq h.extRead e).respond

theorem doWriteRequest {src : MeshSrc} {form : BitVec 2} {addr : BitVec 48} {z : BitVec 8} {data : Vec}
    (h : SameStands s t) : SameStands s (Machine.doWriteRequest src form addr z data t) := by
  unfold Machine.doWriteRequest
  refine h.svcArrive fun _ h => ?_
  split
  · exact h.respond
  · refine holds_ite h.respond ?_
    split
    · exact h.dramUncorrectable.svcHold
    · exact h.dramWrite.respond
  · split
    · next e => exact (holds_of_eq h.extWrite e).respond
    · next e => exact (holds_of_eq h.extWrite e).svcHold
    · next e => exact (holds_of_eq h.extWrite e).respond

theorem atomicDo {src : MeshSrc} {k : SvcKind} {op : AtomicOp} {addr : BitVec 48} {value : Word} (h : SameStands s t) :
    SameStands s (Machine.atomicDo src k op addr value t) := by
  unfold Machine.atomicDo
  extract_lets n
  cases placeOf t addr.toNat n with
  | bad => exact h.respond
  | dram p sl off =>
    refine holds_ite h.respond ?_
    split
    · next e => exact (holds_of_eq h.dramRead e).svcHold
    · next e => exact (holds_of_eq h.dramRead e).dramWrite.respond
  | sram p a off =>
    refine holds_ite h.svcHold ?_
    cases readBytes t (sramKey p a off) n with
    | error => exact h.sramUncorrectable.svcHold
    | ok => exact h.sramCorrected.writeBytes.slotUsed.respond

theorem svcRetry (h : SameStands s t) : SameStands s (Machine.svcRetry t) := by
  refine holds_foldl h fun _ _ h => ?_
  split
  · exact holds_ite h.doReadRequest h
  · exact holds_ite h.doWriteRequest h
  · exact holds_ite (h.svcArrive fun _ h => h.atomicDo) h
  · exact h

end SameStands

/-! ### The end of a slot (R401, R402) -/

/-- The slot in course ends in a stand: of the stands only its own count changes, which a slot within the lap adds to. -/
theorem slotOver_counts (q : Nat) (s : State) : ∃ t, SameStands s t ∧ slotOver q s = putStand q { standOf s q with
    slots := (standOf s q).slots + (if s.lapLen ≤ (standOf s q).pos ∧ (standOf s q).held = false then 0 else 1) } t := by
  unfold slotOver
  extract_lets d s1 s2 s3 s4
  have h1 : SameStands s s1 := holds_foldl (.refl s) fun _ _ h => h.freeLatches
  have h2 : SameStands s s2 := holds_ite h1 h1.slotEnds
  have h3 : SameStands s s3 := holds_foldl h2 fun _ _ h => h.clearSlot
  have h4 : SameStands s s4 := h3.frame rfl
  refine ⟨s4, h4, ?_⟩
  change putStand q { standOf s4 q with slots := d.slots + _ } s4 = _
  rw [h4.standOf, h4.lapLen]

/-- One turn of the stands at the end of a slot: a stand that has started is over. -/
def overIfStarted (s : State) (q : Nat) : State := if (standOf s q).started then slotOver q s else s

/-- What a stand q's turn leaves of a stand p: all but the count of p itself, which its slot within the lap adds to. -/
theorem overIfStarted_frame (q : Nat) (s : State) : (overIfStarted s q).lapLen = s.lapLen ∧
    ∀ p, p ≠ q → standOf (overIfStarted s q) p = standOf s p := by
  unfold overIfStarted
  split
  · obtain ⟨t, ht, e⟩ := slotOver_counts q s
    rw [e]
    exact ⟨ht.lapLen, fun p hp => by rw [standOf_putStand, if_neg hp, ht.standOf]⟩
  · exact ⟨rfl, fun _ _ => rfl⟩

theorem overIfStarted_self {p : Nat} {s : State} (hs : (standOf s p).started = true) (hp : (standOf s p).pos < s.lapLen) :
    (standOf (overIfStarted s p) p).slots = (standOf s p).slots + 1 := by
  obtain ⟨t, -, e⟩ := slotOver_counts p s
  rw [overIfStarted, if_pos hs, e, standOf_putStand_self, if_neg (by omega)]

theorem foldl_overIfStarted_frame {p : Nat} {l : List Nat} (hp : p ∉ l) (s : State) :
    (l.foldl overIfStarted s).lapLen = s.lapLen ∧ standOf (l.foldl overIfStarted s) p = standOf s p := by
  induction l generalizing s with
  | nil => exact ⟨rfl, rfl⟩
  | cons q l ih =>
    obtain ⟨hq, hl⟩ := not_or.1 (mt List.mem_cons.2 hp)
    obtain ⟨hlap, hstand⟩ := overIfStarted_frame q s
    obtain ⟨ihlap, ihstand⟩ := ih hl (overIfStarted s q)
    exact ⟨ihlap.trans hlap, ihstand.trans (hstand p hq)⟩

/-- Each stand of a list without repetitions has one turn, and no other's turn touches its count. -/
theorem foldl_overIfStarted_slots {p : Nat} {l : List Nat} {s : State} (hl : l.Nodup) (hp : p ∈ l)
    (hs : (standOf s p).started = true) (hpos : (standOf s p).pos < s.lapLen) :
    (standOf (l.foldl overIfStarted s) p).slots = (standOf s p).slots + 1 := by
  obtain ⟨a, b, rfl⟩ := List.append_of_mem hp
  obtain ⟨hb, hab⟩ := List.nodup_cons.1 (List.nodup_middle.1 hl)
  have hpa : p ∉ a := fun h => hb (List.mem_append_left _ h)
  have hpb : p ∉ b := fun h => hb (List.mem_append_right _ h)
  obtain ⟨hlap, hstand⟩ := foldl_overIfStarted_frame hpa s
  rw [List.foldl_append, List.foldl_cons, (foldl_overIfStarted_frame hpb _).2, overIfStarted_self, hstand]
  · rwa [hstand]
  · rwa [hstand, hlap]

theorem nodup_servicePhys (s : State) : (servicePhys s).Nodup := (List.nodup_range.filter _).filter _

/-! ### The beginning of the next slot (R202) -/

/-- The slots that the stands have counted are in t as in s. -/
structure SameSlots (s t : State) : Prop where
  slots : ∀ p, (standOf t p).slots = (standOf s p).slots

namespace SameSlots

variable {s t u : State} {p q : Nat}

theorem refl (s : State) : SameSlots s s := ⟨fun _ => rfl⟩

theorem stands (h : SameSlots s t) (k : SameStands t u) : SameSlots s u :=
  ⟨fun p => (congrArg Stand.slots (k.standOf p)).trans (h.slots p)⟩

theorem putStand {v : Stand} (h : SameSlots s t) (hv : v.slots = (standOf t p).slots) :
    SameSlots s (Machine.putStand p v t) := by
  refine ⟨fun q => ?_⟩
  rw [← h.slots q, standOf_putStand]
  split
  · next e => rw [hv, e]
  · rfl

theorem traceLap (h : SameSlots s t) : SameSlots s (Machine.traceLap p t) := by
  refine holds_ite ((h.putStand ?count).stands (holds_foldl (.refl _) fun _ _ h => holds_ite h.putArr h)) h
  case count => rfl

theorem countLap (h : SameSlots s t) : SameSlots s (Machine.countLap p t) := by
  refine (h.putStand ?count).stands (holds_foldl (.refl _) fun _ _ h => holds_ite h h.putArr)
  case count => rfl

theorem lapBoundary (h : SameSlots s t) : SameSlots s (Machine.lapBoundary p t) := by
  unfold Machine.lapBoundary
  extract_lets s1 here s2 _ k tl a s3
  have h2 : SameSlots s s2 := holds_ite (h.countLap.stands (.writeTraces (.refl s1))) h.countLap
  have h3 : SameSlots s s3 := h2.stands (.rfput (.refl s2))
  have hidle : SameStands s3 (rfadd k PwrStandCount.idleLaps 1 (rfput k PwrStandCount.acc (a - 256) s3)) :=
    .rfadd (.rfput (.refl s3))
  have hcount := (congrArg Stand.slots (hidle.standOf p)).symm
  exact holds_ite (h2.putStand rfl) (holds_ite ((h3.stands hidle).putStand hcount) (h3.stands (.rfput (.refl s3))))

theorem slotBegins {bad : Nat → ConnE → Bool} (h : SameSlots s t) : SameSlots s (Machine.slotBegins p q bad t) := by
  unfold Machine.slotBegins
  extract_lets _ s1 s2 nodes s3 s4 others s5
  have h1 : SameSlots s s1 := h.putStand rfl
  have h2 : SameSlots s s2 := holds_ite h1.traceLap h1
  have k3 : SameStands s2 s3 := holds_foldl (.refl s2) fun _ _ h => holds_foldl h fun _ _ h => h.steerDrop
  have k4 : SameStands s2 s4 := holds_foldl k3 fun _ _ h => h.fireNode
  have k5 : SameStands s2 s5 := holds_foldl k4 fun _ _ h => h.spareGens
  exact h2.stands (holds_foldl k5 fun _ _ h => h.beginStages)

theorem slotHeld {idle : Bool} (h : SameSlots s t) : SameSlots s (Machine.slotHeld p idle t) := by
  have h1 : SameSlots s (if idle = true then endPortRuns p t else t) := holds_ite (h.stands (.endPortRuns (.refl t))) h
  exact h1.putStand rfl

theorem slotOrHold {bad : Nat → ConnE → Bool} (h : SameSlots s t) : SameSlots s (Machine.slotOrHold p q bad t) := by
  have h1 : SameSlots s (portHolds p q (lapNow t p) t).2 := h.stands (.portHolds (.refl t))
  exact holds_ite h1.slotHeld h1.slotBegins

theorem heldBoundary {wraps counted : Bool} (h : SameSlots s t) :
    SameSlots s (Machine.heldBoundary p q wraps counted t) := by
  have h1 : ∀ (c : Bool) lap, SameSlots s (if c = true then (false, t) else portHolds p q lap t).2 :=
    fun _ _ => holds_ite_snd h (h.stands (.portHolds (.refl t)))
  exact holds_ite (h1 _ _).slotHeld ((h1 _ _).putStand rfl)

theorem standBoundary {bad : Nat → ConnE → Bool} (h : SameSlots s t) : SameSlots s (Machine.standBoundary bad p t) := by
  have hjudged : SameSlots s (if (standOf t p).idleLeft = 1 then (false, false, false, t) else stageHolds p t).2.2.2 := by
    split
    · exact h
    · exact h.stands (.stageHolds (.refl t))
  unfold Machine.standBoundary
  extract_lets d
  refine holds_ite (SameSlots.slotHeld (h.putStand ?idle)) ?judged
  case idle => rfl
  generalize (if d.idleLeft = 1 then (false, false, false, t) else stageHolds p t) = x at hjudged ⊢
  obtain ⟨holds, counted, svc, v⟩ := x
  dsimp -zeta only at hjudged ⊢
  extract_lets wraps q' _ s1 _ s2 s3 s4
  have h1 : SameSlots s s1 := holds_ite (hjudged.putStand rfl) hjudged
  have h2 : SameSlots s s2 := h1.putStand rfl
  have h3 : SameSlots s s3 := holds_ite h2.lapBoundary h2
  have h4 : SameSlots s s4 := holds_ite h1.heldBoundary (holds_ite h3 (holds_ite h3.slotHeld h3.slotOrHold))
  exact holds_ite (h4.stands (holds_foldl (.refl s4) fun _ _ h => h.nodeProgress)) h4

end SameSlots

/-! ### The boundary (R202) -/

/-- Before the slot ends in the stands, credits, seam frames and service messages move (R116, R211, R219). -/
def slotTraffic (s : State) : State :=
  (servicePhys (seamSlots (creditsMove s))).foldl (fun s p => (computeUnits s p).foldl (fun s a => sendService p a s) s)
    (seamSlots (creditsMove s))

theorem slotTraffic_sameStands (s : State) : SameStands s (slotTraffic s) :=
  holds_foldl (SameStands.creditStep (.refl s)).seamSlots fun _ _ h => holds_foldl h fun _ _ h => h.sendService

/-- A boundary counts what the end of the slot counts, stand after stand (R181, R202). -/
theorem boundary_sameSlots (badVectors badBatons : List (BitVec 6 × BitVec 10 × BitVec 5)) (s : State) :
    SameSlots ((servicePhys (slotTraffic s)).foldl overIfStarted (slotTraffic s))
      (svcRetry (doSlotBoundary badVectors badBatons s)) := by
  unfold doSlotBoundary
  extract_lets s1 s2 s3 s4
  have h4 : SameSlots s3 s4 := SameSlots.stands (.refl s3) (holds_foldl (.refl s3) fun _ _ h => h.sbBoundary)
  refine SameSlots.stands ?judged (.svcRetry (.refl _))
  exact holds_foldl h4 fun _ _ h => holds_ite h.standBoundary h

/-- Settles O43: a stand has one turn at the end of the slot, and what comes before and after it leaves its count. -/
theorem slotBoundaryCountsSlots : Obligations.SlotBoundaryCountsSlots := by
  unfold Obligations.SlotBoundaryCountsSlots
  intro badVectors badBatons s
  refine ⟨_, rfl, fun p hp hs hpos => ?_⟩
  have hstand := (slotTraffic_sameStands s).standOf p
  rw [(boundary_sameSlots badVectors badBatons s).slots p, (slotTraffic_sameStands s).servicePhys,
    foldl_overIfStarted_slots (nodup_servicePhys s) hp, hstand]
  · rwa [hstand]
  · rwa [hstand, (slotTraffic_sameStands s).lapLen]

end Sys2Proof.Proofs
end

section
/-!
PROOFS. Responses (R42, R230, R326, R327): one that comes ends the request of its source and is kept as its answer. What the
source then does with it ends further requests, if any, and begins none: `KeepsAnswers s t` says that the answers kept are
those of s, and the outstanding requests among those of s.
-/

namespace Sys2Proof.Proofs

open Sys2Proof.Machine Sys2Proof.Laws

/-! ### The request ends (R230) -/

theorem svcOf_svcEnd (d : MeshSrc) (s : State) : svcOf (svcEnd d s) d = none := by
  simp [svcOf, svcEnd]

/-- The request of a source has ended, with the answer as it was received. -/
def answerKept (d : MeshSrc) (a : SvcAnswer) (s : State) : State :=
  { svcEnd d s with svcGot := (d, a) :: s.svcGot.filter (fun e => e.1 ≠ d) }

theorem svcOf_answerKept (d : MeshSrc) (a : SvcAnswer) (s : State) : svcOf (answerKept d a s) d = none := svcOf_svcEnd d s

theorem gotAnswer_answerKept (d : MeshSrc) (a : SvcAnswer) (s : State) : gotAnswer (answerKept d a s) d = some a := by
  simp [gotAnswer, answerKept]

/-- The response taken off its way leaves the requests and the answers. -/
theorem takeResp_frame (d : MeshSrc) (f : SvcAnswer → Bool) (s : State) :
    ∃ x, takeResp d f s = { s with svcResp := x } := by
  unfold takeResp
  split
  · exact ⟨_, rfl⟩
  · exact ⟨s.svcResp, rfl⟩

theorem svcOf_takeResp (d : MeshSrc) (f : SvcAnswer → Bool) (s : State) (c : MeshSrc) :
    svcOf (takeResp d f s) c = svcOf s c := by
  obtain ⟨x, e⟩ := takeResp_frame d f s
  rw [e, svcOf, svcOf]

section
variable {d : MeshSrc} {a : SvcAnswer} {f : SvcReq → State → State} {r : SvcReq} {s : State}

/-- A response ends the request of its source; the source, unless it has gone, keeps it and goes on (R230). -/
theorem gotResponse_of_svcOf (h : svcOf s d = some r) :
    gotResponse d a f s = if r.dead then svcEnd d (takeResp d (fun x => x = a) s)
      else f r (answerKept d a (takeResp d (fun x => x = a) s)) := by
  unfold gotResponse
  dsimp only
  rw [svcOf_takeResp, h]
  rfl

/-- A response to no request is counted in the ring's error record (R42). -/
theorem gotResponse_of_none (h : svcOf s d = none) :
    gotResponse d a f s = srcErr stServiceTimeout d 0 (takeResp d (fun x => x = a) s) := by
  unfold gotResponse
  dsimp only
  rw [svcOf_takeResp, h]

end

/-! ### What the source does with a response -/

/-- The answers kept are in t as in s, and no request is outstanding that was not in s. -/
structure KeepsAnswers (s t : State) : Prop where
  got : t.svcGot = s.svcGot
  svc : t.svc ⊆ s.svc

namespace KeepsAnswers

variable {s t u : State}

theorem refl (s : State) : KeepsAnswers s s := ⟨rfl, List.Subset.refl _⟩

theorem frame (h : KeepsAnswers s t) (e : (u.svcGot, u.svc) = (t.svcGot, t.svc)) : KeepsAnswers s u := by
  obtain ⟨hgot, hsvc⟩ := Prod.mk.inj e
  exact ⟨hgot.trans h.got, hsvc ▸ h.svc⟩

/-- A request that has ended stays ended, and its answer is kept. -/
theorem ended {d : MeshSrc} (h : KeepsAnswers s t) (he : svcOf s d = none) :
    svcOf t d = none ∧ gotAnswer t d = gotAnswer s d := by
  refine ⟨?_, by rw [gotAnswer, h.got, gotAnswer]⟩
  rw [svcOf, List.find?_eq_none] at he ⊢
  exact fun r hr => he r (h.svc hr)

theorem rput {k : Nat} {w : Word} (h : KeepsAnswers s t) : KeepsAnswers s (Machine.rput k w t) := h.frame rfl

theorem rfput {k v : Nat} {f : Fld} (h : KeepsAnswers s t) : KeepsAnswers s (Machine.rfput k f v t) := h.rput

theorem rfadd {k n : Nat} {f : Fld} (h : KeepsAnswers s t) : KeepsAnswers s (Machine.rfadd k f n t) := h.rfput

theorem report {st : Status} {b : Bool} {src : Nat} {loc a : Word} {data : List Byte} (h : KeepsAnswers s t) :
    KeepsAnswers s (Machine.report st b src loc a data t) := by
  obtain ⟨g, q, m, e⟩ := report_frame st b src loc a data t
  rw [e]
  exact h.frame rfl

/-- A wait given up takes its TALLY_WAIT with it (R334). -/
theorem dropWait {w : Waiter} (h : KeepsAnswers s t) : KeepsAnswers s (Machine.dropWait w t) :=
  ⟨h.got, fun _ hr => h.svc (List.mem_of_mem_filter hr)⟩

theorem stageStops {l : Loc} {st : Status} {lanes : BitVec 16} {data : List Byte} (h : KeepsAnswers s t) :
    KeepsAnswers s (Machine.stageStops l st lanes data t) := by
  unfold Machine.stageStops
  extract_lets _ s1 s2 _ s3 _ s4 _ _ s5 _ s6
  have h2 : KeepsAnswers s s2 := h.rfput.rfput.rfput.rfput.rfput.rfput
  have h3 : KeepsAnswers s s3 := holds_ite h2.rfput.rfput h2
  have h4 : KeepsAnswers s s4 := holds_ite h3.rfput.rfput.rfput.rfput.rfput h3
  have h5 : KeepsAnswers s s5 := holds_ite (h4.frame rfl) h4
  have h6 : KeepsAnswers s s6 := h5.frame rfl
  exact h6.report

theorem waitFails {d : MeshSrc} {st : Status} (h : KeepsAnswers s t) : KeepsAnswers s (Machine.waitFails d st t) := by
  unfold Machine.waitFails
  split
  · exact h
  · split
    · exact h.dropWait.stageStops
    · exact h.frame rfl

theorem svcFailed {st : Status} {r : SvcReq} (h : KeepsAnswers s t) : KeepsAnswers s (Machine.svcFailed st r t) := by
  unfold Machine.svcFailed
  split
  · exact holds_ite h.report h
  · exact h.report
  · exact h.waitFails
  · exact h

theorem retireRec {told : Bool} {c : Cmd} {st : Status} {r0 r1 detail : Word} {cv nonrepeat : Bool}
    (h : KeepsAnswers s t) : KeepsAnswers s (Machine.retireRec told c st r0 r1 detail cv nonrepeat t) := by
  unfold Machine.retireRec
  extract_lets r orphan s1
  have h1 : KeepsAnswers s s1 := by
    obtain ⟨o, q, v, e⟩ := dropFlight_frame c { t with fetchOrder := t.fetchOrder.erase c }
    refine dropWait ?_
    rw [e]
    exact h.frame rfl
  refine holds_ite ?_ ?_
  · obtain ⟨n, v, g, q, m, e⟩ := discardRec_frame r s1
    rw [e]
    exact h1.frame rfl
  · split
    · exact h1.frame rfl
    · split
      · exact h1.frame rfl
      · exact h1

theorem endJob {p : Nat} {j : CopyJob} {st : Status} {addr : Nat} (h : KeepsAnswers s t) :
    KeepsAnswers s (Machine.endJob p j st addr t) := by
  have hforgot : ∀ q, KeepsAnswers s (putPort p q t) := fun _ => h.frame rfl
  unfold Machine.endJob endCopy
  extract_lets q s1 u shown r0 s2 s3 ring s4 det s5
  have h1 : KeepsAnswers s s1 := hforgot _
  have h2 : KeepsAnswers s s2 := holds_ite h1.rfput h1
  have h3 : KeepsAnswers s s3 := h2.rfadd
  have h4 : KeepsAnswers s s4 := holds_ite h3 h3.rfput.rfput
  have h5 : KeepsAnswers s s5 := holds_ite h4 h4.report
  exact h5.retireRec

theorem doneAnswered {d : MeshSrc} {st : Status} (h : KeepsAnswers s t) :
    KeepsAnswers s (Machine.doneAnswered d st t) := by
  unfold Machine.doneAnswered
  split
  · exact h.endJob
  · unfold verbDone
    split
    · exact h
    · refine retireRec ?_
      exact h.frame rfl

end KeepsAnswers

/-- A response to a request ends it and is kept as its answer, where what the source does with it keeps the answers. -/
theorem gotResponse_ends {d : MeshSrc} {a : SvcAnswer} {f : SvcReq → State → State} {r : SvcReq} {s : State}
    (h : svcOf s d = some r) (hf : ∀ t, KeepsAnswers t (f r t)) :
    svcOf (gotResponse d a f s) d = none ∧ (r.dead = false → gotAnswer (gotResponse d a f s) d = some a) := by
  rw [gotResponse_of_svcOf h]
  split
  · next hd => exact ⟨svcOf_svcEnd d _, fun hn => absurd hd (by rw [hn]; exact Bool.false_ne_true)⟩
  · obtain ⟨hends, hgot⟩ := (hf (answerKept d a _)).ended (svcOf_answerKept d a _)
    exact ⟨hends, fun _ => hgot.trans (gotAnswer_answerKept d a _)⟩

/-- WAIT_DONE meets the wait that asked (R327). -/
theorem waitDone_meets {d : MeshSrc} {r : SvcReq} {s : State} (h : svcOf s d = some r) (hd : r.dead = false) :
    ∀ w ∈ (gotResponse d .waited (fun _ s =>
      { s with waits := s.waits.map (fun w => if w.via = some d then { w with done := true } else w) }) s).waits,
    w.via = some d → w.done = true := by
  rw [gotResponse_of_svcOf h, hd, if_neg Bool.false_ne_true]
  intro w hw hvia
  obtain ⟨v, -, rfl⟩ := List.mem_map.1 hw
  by_cases hv : v.via = some d
  · rw [if_pos hv]
  · rw [if_neg hv] at hvia
    exact absurd hvia hv

theorem execServiceTimeout_of_svcOf {d : MeshSrc} {r : SvcReq} {s : State} (h : svcOf s d = some r) :
    execServiceTimeout d s = .next (doneAnswered d stServiceTimeout (svcFailed stServiceTimeout r (svcEnd d s))) := by
  rw [execServiceTimeout, h, if_pos Option.isSome_some, doServiceTimeout, h]

/-! ### A response that comes late (R42) -/

/-- To count an error changes three registers. -/
theorem regsOnly_srcErr (st : Status) (d : MeshSrc) (a : Nat) (s : State) : RegsOnly s (srcErr st d a s) :=
  .ite ⟨_, rfl⟩ ⟨_, rfl⟩

theorem rf_countErr (st : Status) (src phys addr : Nat) (s : State)
    (hlast : IorErr.key (errIndex st) ≠ IorErrLast.key) (haddr : IorErr.key (errIndex st) ≠ IorErrAddr.key) :
    rf (countErr st src phys addr s) (IorErr.key (errIndex st)) IorErr.count =
      satAdd (fldMax IorErr.count) (rf s (IorErr.key (errIndex st)) IorErr.count) 1 := by
  unfold countErr
  dsimp only
  rw [rf_rput_key _ _ _ _ _ haddr, rf_rput_key _ _ _ _ _ hlast, rf_rfsat_self _ _ _ _ (by decide), satAdd]

theorem rf_srcErr_serviceTimeout (d : MeshSrc) (a : Nat) (s : State) :
    rf (srcErr stServiceTimeout d a s) (IorErr.key (errIndex stServiceTimeout)) IorErr.count =
      satAdd (fldMax IorErr.count) (rf s (IorErr.key (errIndex stServiceTimeout)) IorErr.count) 1 := by
  unfold srcErr
  split
  · exact rf_countErr _ _ _ _ _ (by decide) (by decide)
  · exact rf_countErr _ _ _ _ _ (by decide) (by decide)

/-- A response that finds no request is discarded and counted (R42, R230). -/
theorem gotResponse_late {d : MeshSrc} {a : SvcAnswer} {f : SvcReq → State → State} {s : State} (h : svcOf s d = none) :
    (gotResponse d a f s).svc = s.svc ∧ (gotResponse d a f s).svcGot = s.svcGot ∧
      rf (gotResponse d a f s) (IorErr.key (errIndex stServiceTimeout)) IorErr.count =
        satAdd (fldMax IorErr.count) (rf s (IorErr.key (errIndex stServiceTimeout)) IorErr.count) 1 := by
  obtain ⟨x, e⟩ := takeResp_frame d (fun x => x = a) s
  obtain ⟨g, hg⟩ := regsOnly_srcErr stServiceTimeout d 0 (takeResp d (fun x => x = a) s)
  rw [gotResponse_of_none h]
  refine ⟨?_, ?_, ?_⟩
  · rw [hg, e]
  · rw [hg, e]
  · rw [rf_srcErr_serviceTimeout, e]
    rfl

/-! ### PROGRESS (R230) -/

/-- Every request of a list is answered with PROGRESS, which ends none. -/
theorem foldl_respond_progress (l : List SvcReq) (s : State) :
    (l.foldl (fun s r => respond r.src .progress s) s).svc = s.svc ∧
    (l.foldl (fun s r => respond r.src .progress s) s).svcResp = s.svcResp ++ l.map (fun r => (r.src, .progress)) := by
  induction l generalizing s with
  | nil => exact ⟨rfl, (List.append_nil _).symm⟩
  | cons r l ih =>
    obtain ⟨hsvc, hresp⟩ := ih (respond r.src .progress s)
    refine ⟨hsvc, hresp.trans ?_⟩
    rw [List.map_cons, List.append_cons]
    rfl

/-! ### A tally that is reached (R326) -/

/-- A waiter of tally n, at its hub or the ring, whose target the count has reached. -/
def waiterReached (s : State) (n : Nat) (x : Bool × Nat × Nat) (w : TWait) : Prop :=
  w.tally = n ∧ w.via = none ∧ reached (tallyCount s x) w.target = true

/-- Every such waiter that is left has been released. -/
theorem doTallyWaitComplete_releases {n : Nat} {x : Bool × Nat × Nat} {s : State} (h : tallyPlace s n = .ok x) :
    ∀ w ∈ (doTallyWaitComplete n s).waits, waiterReached s n x w → w.done = true := by
  unfold doTallyWaitComplete
  rw [h]
  dsimp only
  refine holds_foldl (P := fun u => ∀ w ∈ u.waits, waiterReached s n x w → w.done = true) ?_ fun _ _ h => h
  rintro w hw ⟨htally, hvia, hreach⟩
  obtain ⟨v, -, rfl⟩ := List.mem_map.1 (List.mem_of_mem_filter hw)
  split at htally
  · next hhit => rw [if_pos hhit]
  · next hmiss =>
    rw [if_neg hmiss] at hvia hreach ⊢
    simpa [htally, hvia, hreach] using hmiss

/-- Settles O50: what a response, its lateness, a timeout, PROGRESS and a reached tally leave, each by its own rule. -/
theorem responsesEndRequests : Obligations.ResponsesEndRequests := by
  unfold Obligations.ResponsesEndRequests
  refine ⟨fun d r v st a s h => ?_, fun d v s h => ⟨_, rfl, gotResponse_late h⟩, fun s => ?_, fun d s => ?_,
    fun n x s h => ?_⟩
  · have hnothing : ∀ t, KeepsAnswers t t := .refl
    have hdone : ∀ st t, KeepsAnswers t (doneAnswered d st t) := fun st t => .doneAnswered (.refl t)
    refine ⟨⟨_, rfl, gotResponse_ends h hnothing⟩, ⟨_, rfl, gotResponse_ends h hnothing⟩,
      ⟨_, rfl, gotResponse_ends h hnothing⟩, ⟨_, rfl, gotResponse_ends h (hdone _)⟩,
      ⟨_, rfl, gotResponse_ends h fun t => ⟨rfl, List.Subset.refl _⟩, waitDone_meets h⟩,
      ⟨_, rfl, gotResponse_ends h fun t => .doneAnswered (.svcFailed (.refl t))⟩,
      ⟨_, execServiceTimeout_of_svcOf h, ?_, rfl⟩⟩
    exact ((KeepsAnswers.doneAnswered (.svcFailed (.refl _))).ended (svcOf_svcEnd d s)).1
  · obtain ⟨hsvc, hresp⟩ := foldl_respond_progress (s.svc.filter (·.held)) s
    refine ⟨_, rfl, fun r hr hheld => ?_, hsvc⟩
    rw [hresp]
    exact List.mem_append_right _ (List.mem_map_of_mem (List.mem_filter.2 ⟨hr, hheld⟩))
  · obtain ⟨x, e⟩ := takeResp_frame d (fun x => x = .progress) s
    exact ⟨_, rfl, by rw [e], by rw [e]⟩
  · exact ⟨_, rfl, fun w hw htally hvia hreach => doTallyWaitComplete_releases h w hw ⟨htally, hvia, hreach⟩⟩

end Sys2Proof.Proofs
end

section
/-!
PROOFS. Seams (R214, R218 to R222): what a frame that has crossed leaves at the two ports and of its credits, how a port's
silence or its replays mark its direction dead, and the nodes that MESH_NO_PROGRESS marks.
-/

namespace Sys2Proof.Proofs

open Sys2Proof.Machine Sys2Proof.Laws

/-! ### A frame comes off its way (R219) -/

/-- The port that sends to a seam port is another one. -/
theorem sender_ne_receiver (p d q : Nat) (hd : d < 4) : q * 4 + opp d ≠ p * 4 + d := by
  have hopp : opp d < 4 := Nat.mod_lt _ (by decide)
  have hother : opp d ≠ d := by unfold opp; omega
  omega

/-- The oldest frame on its way from a port has been taken off. -/
def frameTaken (q e : Nat) (r : List SeamFrame) (s : State) : State := putSeam q e { seamOf s q e with wire := r } s

/-- A frame that has crossed to a live port is judged by its check; with a good one the event gives what was sent (R220). -/
theorem doSeamFrame_of_crossed {p d q : Nat} {f : SeamFrame} {r : List SeamFrame} {seq ack : Byte} {good request : Bool}
    {s : State} (hq : facing p d = some q) (hwire : (seamOf s q (opp d)).wire = f :: r) (hage : frameCrossing ≤ f.age)
    (hlive : seamLive s p d = true) (hgood : good = true → f.seq = seq ∧ f.request = request ∧ f.ack = ack) :
    doSeamFrame p d seq good request ack s =
      if good then frameGood p d f (frameTaken q (opp d) r s) else frameBad p d f (frameTaken q (opp d) r s) := by
  have hcame : ¬(f.age < frameCrossing ∨
      (good && !(decide (f.seq = seq) && f.request == request && decide (f.ack = ack))) = true) := by
    cases good with
    | false => simpa using hage
    | true =>
      obtain ⟨hseq, hrequest, hack⟩ := hgood rfl
      simp [hseq, hrequest, hack, hage]
  have hlive' : seamLive (frameTaken q (opp d) r s) p d = true := hlive
  unfold doSeamFrame
  rw [hq]
  dsimp only
  rw [hwire]
  dsimp only
  rw [if_neg hcame]
  change (if (!seamLive (frameTaken q (opp d) r s) p d) = true then _ else _) = _
  rw [hlive', Bool.not_true, if_neg Bool.false_ne_true]
  rfl

section
variable {p d : Nat} {f : SeamFrame} {s : State}

/-! ### A frame with a good check (R214, R218, R220) -/

/-- The port has had a frame with a good check, and has heard its replay request. -/
def frameHeard (p d : Nat) (f : SeamFrame) (s : State) : State :=
  if f.request then seamResend p d (f.ack + 1) (putSeam p d { seamOf s p d with silent := 0 } s)
  else putSeam p d { seamOf s p d with silent := 0 } s

/-- Of the ports only the one that hears changes. -/
theorem frameHeard_frame (p d : Nat) (f : SeamFrame) (s : State) : ∃ x, frameHeard p d f s = { s with seams := x } := by
  unfold frameHeard seamResend
  split
  · dsimp only
    split
    · exact ⟨_, rfl⟩
    · exact ⟨_, rfl⟩
  · exact ⟨_, rfl⟩

theorem seamOf_frameHeard_other {i j : Nat} (h : i * 4 + j ≠ p * 4 + d) :
    seamOf (frameHeard p d f s) i j = seamOf s i j := by
  unfold frameHeard seamResend
  split
  · dsimp only
    split
    · rw [seamOf_putSeam, if_neg h, seamOf_putSeam, if_neg h]
    · rw [seamOf_putSeam, if_neg h]
  · rw [seamOf_putSeam, if_neg h]

/-- Beside its silence, a request changes when the port is to send again and what. -/
theorem seamOf_frameHeard (p d : Nat) (f : SeamFrame) (s : State) :
    ∃ x y, seamOf (frameHeard p d f s) p d = { seamOf s p d with silent := 0, turn := x, again := y } := by
  unfold frameHeard seamResend
  split
  · dsimp only
    split
    · exact ⟨_, _, by rw [seamOf_putSeam_self, seamOf_putSeam_self]⟩
    · exact ⟨_, _, seamOf_putSeam_self ..⟩
  · exact ⟨_, _, seamOf_putSeam_self ..⟩

theorem foldl_addCredit (l : List Nat) (s : State) :
    l.foldl (fun s c => addCredit c 0 s) s = { s with creditFly := s.creditFly ++ l.map (fun c => ⟨c, 0⟩) } := by
  induction l generalizing s with
  | nil => simp
  | cons c l ih =>
    rw [List.foldl_cons, ih]
    simp [addCredit]

theorem seamOf_addCredits (l : List Nat) (s : State) (i j : Nat) :
    seamOf (l.foldl (fun s c => addCredit c 0 s) s) i j = seamOf s i j := by
  rw [foldl_addCredit, seamOf, seamOf]

theorem rf_addCredits (l : List Nat) (s : State) (k : Nat) (g : Fld) :
    rf (l.foldl (fun s c => addCredit c 0 s) s) k g = rf s k g := by
  rw [foldl_addCredit, rf, rg, rf, rg]

theorem creditFly_addCredits (l : List Nat) (s : State) :
    (l.foldl (fun s c => addCredit c 0 s) s).creditFly = s.creditFly ++ l.map (fun c => ⟨c, 0⟩) := by
  rw [foldl_addCredit]

theorem creditFly_rput (s : State) (k : Nat) (w : Word) : (rput k w s).creditFly = s.creditFly := rfl

theorem creditFly_putSeam (s : State) (p d : Nat) (v : SeamPort) : (putSeam p d v s).creditFly = s.creditFly := rfl

theorem rg_putSeam (s : State) (p d : Nat) (v : SeamPort) (k : Nat) : rg (putSeam p d v s) k = rg s k := rfl

theorem seamOf_rput (s : State) (k : Nat) (w : Word) (i j : Nat) : seamOf (rput k w s) i j = seamOf s i j := rfl

/-- The port as the frame that it expects leaves it. -/
def delivered (f : SeamFrame) (m : SeamPort) : SeamPort :=
  { m with rx := m.rx ++ f.entries, want := f.seq + 1, replaying := false, failRun := 0 }

/-- The frame expected is delivered, its number recorded, and its credits go on their way. -/
theorem frameGood_of_expected (h : f.seq = (seamOf s p d).want) :
    frameGood p d f s = f.credits.foldl (fun s c => addCredit c 0 s) (rfput (SeamStatus.key p d) SeamStatus.lastSeq
      f.seq.toNat (putSeam p d (delivered f (seamOf (frameHeard p d f s) p d)) (frameHeard p d f s))) := by
  obtain ⟨x, y, hport⟩ := seamOf_frameHeard p d f s
  have hwant : ¬ f.seq ≠ (seamOf (frameHeard p d f s) p d).want := by rw [hport]; exact not_not.2 h
  unfold frameGood
  exact if_neg hwant

theorem seamOf_frameGood_of_expected (h : f.seq = (seamOf s p d).want) : ∃ x y,
    seamOf (frameGood p d f s) p d = delivered f { seamOf s p d with silent := 0, turn := x, again := y } := by
  obtain ⟨x, y, hport⟩ := seamOf_frameHeard p d f s
  refine ⟨x, y, ?_⟩
  rw [frameGood_of_expected h, seamOf_addCredits, rfput, seamOf_rput, seamOf_putSeam_self, hport]

theorem seamOf_frameGood_other {i j : Nat} (h : f.seq = (seamOf s p d).want) (hne : i * 4 + j ≠ p * 4 + d) :
    seamOf (frameGood p d f s) i j = seamOf s i j := by
  rw [frameGood_of_expected h, seamOf_addCredits, rfput, seamOf_rput, seamOf_putSeam, if_neg hne,
    seamOf_frameHeard_other hne]

theorem creditFly_frameGood_of_expected (h : f.seq = (seamOf s p d).want) :
    (frameGood p d f s).creditFly = s.creditFly ++ f.credits.map (fun c => ⟨c, 0⟩) := by
  obtain ⟨x, hheard⟩ := frameHeard_frame p d f s
  rw [frameGood_of_expected h, creditFly_addCredits, rfput, creditFly_rput, creditFly_putSeam, hheard]

theorem lastSeq_frameGood_of_expected (h : f.seq = (seamOf s p d).want) :
    rf (frameGood p d f s) (SeamStatus.key p d) SeamStatus.lastSeq = f.seq.toNat := by
  rw [frameGood_of_expected h, rf_addCredits, rf_rfput_self _ _ SeamStatus.lastSeq _ (by decide)]
  exact Nat.mod_eq_of_lt (f.seq.isLt.trans (by decide))

/-! ### A frame whose check has failed (R220) -/

/-- The port asks for a replay; its receive queue stays. -/
theorem seamOf_frameBad (p d : Nat) (f : SeamFrame) (s : State) :
    ∃ n, seamOf (frameBad p d f s) p d = { seamOf s p d with replaying := true, failRun := n } :=
  ⟨_, seamOf_putSeam_self ..⟩

theorem seamOf_frameBad_other {i j : Nat} (hne : i * 4 + j ≠ p * 4 + d) :
    seamOf (frameBad p d f s) i j = seamOf s i j := by
  refine (seamOf_putSeam ..).trans ((if_neg hne).trans ?_)
  exact holds_ite (P := fun u => seamOf u i j = seamOf s i j) (seamOf_rput ..)
    ((seamOf_rput ..).trans (seamOf_rput ..))

/-- The error is counted, whether a replay is counted with it or not. -/
theorem frameErrors_frameBad (p d : Nat) (f : SeamFrame) (s : State) :
    rf (frameBad p d f s) (SeamCount.key p d) SeamCount.frameErrors =
      min 0xFFFFFFFF (rf s (SeamCount.key p d) SeamCount.frameErrors + 1) := by
  have hcount := rf_rfsat_self s (SeamCount.key p d) SeamCount.frameErrors 1 (by decide)
  exact holds_ite (P := fun u => rf u (SeamCount.key p d) SeamCount.frameErrors = _) hcount
    ((rf_rfput_field _ _ SeamCount.frameErrors SeamCount.replays _ (by decide)).trans hcount)

end

/-! ### A frame arrives -/

section
variable {p d q : Nat} {f : SeamFrame} {r : List SeamFrame} {s : State}

theorem frameTaken_sender (q e : Nat) (r : List SeamFrame) (s : State) : (seamOf (frameTaken q e r s) q e).wire = r := by
  rw [frameTaken, seamOf_putSeam_self]

theorem frameTaken_receiver (hd : d < 4) : seamOf (frameTaken q (opp d) r s) p d = seamOf s p d :=
  (seamOf_putSeam ..).trans (if_neg (sender_ne_receiver p d q hd).symm)

/-- With a good check, and the frame that was expected (R214, R218, R219). -/
theorem seamFrame_delivered (hd : d < 4) (hlive : seamLive s p d = true) (hq : facing p d = some q)
    (hwire : (seamOf s q (opp d)).wire = f :: r) (hage : frameCrossing ≤ f.age) (hseq : f.seq = (seamOf s p d).want) :
    ∃ t x y, doSeamFrame p d f.seq true f.request f.ack s = t ∧ (seamOf t q (opp d)).wire = r ∧
      seamOf t p d = delivered f { seamOf s p d with silent := 0, turn := x, again := y } ∧
      t.creditFly = s.creditFly ++ f.credits.map (fun c => ⟨c, 0⟩) ∧
      rf t (SeamStatus.key p d) SeamStatus.lastSeq = f.seq.toNat := by
  have hexpected : f.seq = (seamOf (frameTaken q (opp d) r s) p d).want := by rwa [frameTaken_receiver hd]
  obtain ⟨x, y, hport⟩ := seamOf_frameGood_of_expected hexpected
  rw [frameTaken_receiver hd] at hport
  have hgood : doSeamFrame p d f.seq true f.request f.ack s = frameGood p d f (frameTaken q (opp d) r s) :=
    (doSeamFrame_of_crossed hq hwire hage hlive fun _ => ⟨rfl, rfl, rfl⟩).trans (if_pos rfl)
  refine ⟨_, x, y, hgood, ?_, hport, creditFly_frameGood_of_expected hexpected, lastSeq_frameGood_of_expected hexpected⟩
  rw [seamOf_frameGood_other hexpected (sender_ne_receiver p d q hd), frameTaken_sender]

/-- With a bad check, whatever was read of it (R220). -/
theorem seamFrame_failed (hd : d < 4) (hlive : seamLive s p d = true) (hq : facing p d = some q)
    (hwire : (seamOf s q (opp d)).wire = f :: r) (hage : frameCrossing ≤ f.age) (seq ack : Byte) (request : Bool) :
    ∃ t n, doSeamFrame p d seq false request ack s = t ∧ (seamOf t q (opp d)).wire = r ∧
      seamOf t p d = { seamOf s p d with replaying := true, failRun := n } ∧
      rf t (SeamCount.key p d) SeamCount.frameErrors =
        min 0xFFFFFFFF (rf s (SeamCount.key p d) SeamCount.frameErrors + 1) := by
  obtain ⟨n, hport⟩ := seamOf_frameBad p d f (frameTaken q (opp d) r s)
  rw [frameTaken_receiver hd] at hport
  have hbad : doSeamFrame p d seq false request ack s = frameBad p d f (frameTaken q (opp d) r s) :=
    (doSeamFrame_of_crossed hq hwire hage hlive fun h => absurd h Bool.false_ne_true).trans (if_neg Bool.false_ne_true)
  refine ⟨_, n, hbad, ?_, hport, frameErrors_frameBad ..⟩
  rw [seamOf_frameBad_other (sender_ne_receiver p d q hd), frameTaken_sender]

end

/-! ### A seam direction dies (R26, R221) -/

/-- The registers of the stands lie above those of the ring (R40). -/
theorem standKey_ne_ringKey {p c a o c' a' o' : Nat} : standKey p c a o ≠ ringKey c' a' o' := by
  unfold standKey ringKey
  omega

section
variable {p c a o : Nat}

/-- The error record is a part of the ring's registers (R42). -/
theorem rg_countErr_standKey (st : Status) (src phys addr : Nat) (s : State) :
    rg (countErr st src phys addr s) (standKey p c a o) = rg s (standKey p c a o) := by
  refine (rg_rput ..).trans ((if_neg standKey_ne_ringKey).trans ?_)
  refine (rg_rput ..).trans ((if_neg standKey_ne_ringKey).trans ?_)
  exact rg_rfput_key _ _ _ _ _ standKey_ne_ringKey

theorem rg_noRoute_standKey (src : MeshSrc) (addr : BitVec 48) (s : State) :
    rg (noRoute src addr s) (standKey p c a o) = rg s (standKey p c a o) := by
  refine (rg_report_standKey ..).trans ?_
  unfold srcErr
  split
  · exact rg_countErr_standKey ..
  · exact rg_countErr_standKey ..

/-- The register reads in t as in s. -/
def RegKept (k : Nat) (s t : State) : Prop := rg t k = rg s k

/-- Requests end without a write to a register of a stand. -/
theorem svcReroute_standKey (s : State) : RegKept (standKey p c a o) s (svcReroute s) := by
  refine holds_foldl (P := RegKept _ s) rfl fun u r hu => holds_ite hu ?_
  cases svcDest u r.kind with
  | error st => exact holds_ite (P := RegKept _ s) hu hu
  | ok dst => exact holds_ite (P := RegKept _ s) ((rg_noRoute_standKey ..).trans hu) hu

/-- A stand that loses its last side to steer by writes its own source register alone (R428). -/
theorem rg_steerCheck {k : Nat} (p : Nat) (s : State) (h : k ≠ ClkSrcStatus.key p) : rg (steerCheck p s) k = rg s k := by
  unfold steerCheck
  split
  · exact rg_rfput_key _ _ _ _ _ h
  · rfl

end

/-- The register of a live direction that dies holds the cause of its death. -/
theorem state_seamDies {p d cause : Nat} {s : State} (hlive : seamLive s p d = true) (hcause : cause < 16) :
    rf (seamDies p d cause s) (SeamStatus.key p d) SeamStatus.state = cause := by
  have hput : rf (rfput (SeamStatus.key p d) SeamStatus.state cause s) (SeamStatus.key p d) SeamStatus.state = cause :=
    (rf_rfput_self _ _ SeamStatus.state _ (by decide)).trans (Nat.mod_eq_of_lt hcause)
  refine Eq.trans ?_ hput
  unfold seamDies
  dsimp only
  rw [if_pos hlive]
  unfold rf
  rw [SeamStatus.key, svcReroute_standKey _, rg_steerCheck _ _ fun e => ?apart, rg_report_standKey, rg_putSeam]
  unfold ClkSrcStatus.key standKey at e
  omega

/-! ### No progress (R222) -/

/-- The nodes named are marked, and stay so while others are. -/
theorem noprog_foldl (p : Nat) (l : List Nat) (s : State) :
    ∀ n, n ∈ l ∨ rf s (NodeStatus.key p n) NodeStatus.noprog = 1 →
      rf (l.foldl (fun s n => rfput (NodeStatus.key p n) NodeStatus.noprog 1
        (putNode p n { nodeOf s p n with told := true } s)) s) (NodeStatus.key p n) NodeStatus.noprog = 1 := by
  induction l generalizing s with
  | nil => exact fun n h => h.resolve_left List.not_mem_nil
  | cons m l ih =>
    intro n h
    refine ih _ n ?_
    by_cases hkey : NodeStatus.key p n = NodeStatus.key p m
    · rw [hkey]
      exact .inr (rf_rfput_self _ _ NodeStatus.noprog _ (by decide))
    · rw [rf_rfput_key _ _ _ _ _ _ hkey]
      exact h.imp_left fun hn => (List.mem_cons.1 hn).resolve_left fun e => hkey (e ▸ rfl)

theorem doNoProgress_marks {p n : Nat} {s : State} (hn : n ∈ unitsOf s p 14) (hstuck : noProgress s p n = true) :
    rf (doNoProgress p s) (NodeStatus.key p n) NodeStatus.noprog = 1 :=
  noprog_foldl _ _ _ _ (.inl (List.mem_mergeSort.2 (List.mem_filter.2 ⟨hn, hstuck⟩)))

/-- Settles O51: what a frame leaves by its check, what a dead direction shows, and the nodes that are marked. -/
theorem seamFramesAndDeaths : Obligations.SeamFramesAndDeaths := by
  unfold Obligations.SeamFramesAndDeaths
  refine ⟨fun p d q f r s hlive hq hwire hage => ⟨fun hseq => ?_, fun seq request ack => ?_⟩,
    fun p d s hlive => ⟨fun hsilent => ⟨_, rfl, ?_⟩, fun hfails => ⟨_, rfl, ?_⟩⟩,
    fun p s => ⟨_, rfl, fun n hn hstuck => doNoProgress_marks hn hstuck, (SameMem.refl s).doNoProgress.mem⟩⟩
  · obtain ⟨t, x, y, rfl, htaken, hport, hfly, hlast⟩ := seamFrame_delivered d.isLt hlive hq hwire hage hseq
    exact ⟨_, rfl, htaken, by rw [hport]; rfl, by rw [hport]; rfl, by rw [hport]; rfl, by rw [hport]; rfl,
      by rw [hport]; rfl, hfly, hlast⟩
  · obtain ⟨t, n, rfl, htaken, hport, hcount⟩ := seamFrame_failed d.isLt hlive hq hwire hage seq ack request
    exact ⟨_, rfl, htaken, by rw [hport], by rw [hport], hcount⟩
  · rw [if_pos hsilent]
    exact state_seamDies hlive (by decide)
  · rw [if_pos hfails]
    exact state_seamDies hlive (by decide)

end Sys2Proof.Proofs
end

section
/-!
PROOFS. Hubs and slices. A hub cycle offers an engine whose gate is not on no descriptor (R276, R437), which refutes O46; a
refresh counts itself, scrubs the location at POSITION and moves on (R270, R271, R274).
-/

namespace Sys2Proof.Proofs

open Sys2Proof.Machine Sys2Proof.Laws

/-! ### A hub cycle in which nothing executes (R276) -/

section
variable {p q : Nat} {s : State}

/-- Without an executing descriptor there is no burst to grant (R264). -/
theorem grants_of_idle (hidle : ∀ r, r < 32 → execOf s p r = none) : grants p s = s := by
  have hnone : requests s p = [] := List.filterMap_eq_nil_iff.2 fun r hr => by
    rw [hidle r (List.mem_range.1 hr), Option.bind_none]
  unfold grants
  dsimp only
  rw [hnone, List.filter_nil, List.flatMap_nil, List.mergeSort_nil, List.dedup_nil]
  rfl

theorem examineQueue_of_not_examines (h : queueExamines s p q = false) : examineQueue p q s = s := by
  unfold examineQueue
  rw [h]
  rfl

theorem foldl_examineQueue_of_none {l : List Nat} (h : ∀ r ∈ l, queueExamines s p r = false) :
    l.foldl (fun s r => examineQueue p r s) s = s := by
  induction l with
  | nil => rfl
  | cons r l ih =>
    obtain ⟨hr, hl⟩ := List.forall_mem_cons.1 h
    rw [List.foldl_cons, examineQueue_of_not_examines hr, ih hl]

/-- Where one queue examines, and none does after it, the cycle is that queue's. -/
theorem doHubCycle_of_one (hrole : roleOf s p = 1) (hidle : ∀ r, r < 32 → execOf s p r = none) (hq : q < 32)
    (hbefore : ∀ r, r < 32 → r ≠ q → queueExamines s p r = false)
    (hafter : ∀ r, r < 32 → r ≠ q → queueExamines (examineQueue p q s) p r = false) :
    doHubCycle p s = windowStep p (examineQueue p q s) := by
  obtain ⟨l, m, hsplit⟩ := List.append_of_mem (List.mem_range.2 hq)
  have hnodup : (l ++ q :: m).Nodup := hsplit ▸ List.nodup_range
  have hother : ∀ r ∈ l ++ m, r < 32 ∧ r ≠ q := fun r hr => by
    refine ⟨List.mem_range.1 (hsplit ▸ ?_), ?_⟩
    · exact List.mem_append.2 ((List.mem_append.1 hr).imp_right (List.mem_cons_of_mem q))
    · rintro rfl
      exact (List.nodup_middle.1 hnodup).notMem hr
  have hturns : (List.range 32).foldl (fun s r => examineQueue p r s) s = examineQueue p q s := by
    rw [hsplit, List.foldl_append, List.foldl_cons]
    rw [foldl_examineQueue_of_none (l := l) fun r hr => (hother r (List.mem_append_left m hr)).elim (hbefore r)]
    exact foldl_examineQueue_of_none fun r hr => (hother r (List.mem_append_right l hr)).elim (hafter r)
  unfold doHubCycle
  rw [if_neg (not_not.2 hrole), grants_of_idle hidle, ite_self, hturns]

/-! ### An engine whose gate is not on (R437) -/

/-- It has no free context. -/
theorem freeContext_of_gate {cls i : Nat} {cv : Bool} (hgate : gateSt s p (0x10 + engineBit cls i) ≠ 0) :
    freeContext s p cls i cv = false := by
  simp [freeContext, hgate]

/-- A queue that names it waits. -/
theorem examineQueue_of_gate (hq : q < 28) (hexamines : queueExamines s p q = true)
    (hfree : natBit (numAt (execAt s p (rf s (HubQState.key p q) HubQState.next)).desc 1 1) 0 = false)
    (hlow : 3 ≤ qClass s p q) (hhigh : qClass s p q ≤ 7) (hindex : qIndex s p q < engineCount (qClass s p q))
    (hgate : gateSt s p (0x10 + engineBit (qClass s p q) (qIndex s p q)) ≠ 0) :
    examineQueue p q s = rfput (HubQState.key p q) HubQState.state 1 s := by
  have hclass : ¬ (qClass s p q < 3 ∨ 7 < qClass s p q ∨ engineCount (qClass s p q) ≤ qIndex s p q) := by omega
  have himage : ¬ 28 ≤ q := by omega
  unfold examineQueue
  cases (hubQOf s p q).ring.head? <;>
    simp [hexamines, himage, queueWait, hfree, hclass, freeContext_of_gate hgate]

theorem hubQState_key_inj {r : Nat} (hq : q < 32) (hr : r < 32) (h : HubQState.key p r = HubQState.key p q) : r = q := by
  unfold HubQState.key standKey at h
  omega

theorem hubQCfg_key_ne_state {r : Nat} : HubQCfg.key p r ≠ HubQState.key p q := by
  unfold HubQCfg.key HubQState.key standKey
  omega

/-- Whether a queue examines does not turn on another queue's state. -/
theorem queueExamines_rfput_state {r v : Nat} {f : Fld} (hq : q < 32) (hr : r < 32) (hne : r ≠ q) :
    queueExamines (rfput (HubQState.key p q) f v s) p r = queueExamines s p r := by
  unfold queueExamines qMode
  rw [rf_rfput_key _ _ _ _ _ _ fun e => hne (hubQState_key_inj hq hr e),
    rf_rfput_key _ _ _ _ _ _ hubQCfg_key_ne_state, rfput_hubQOf, rfput_mode]

/-- The window counts its cycles outside the registers (R451). -/
theorem rf_windowStep (k : Nat) (f : Fld) (t : State) : rf (windowStep p t) k f = rf t k f := rfl

/-- The state that a hub cycle leaves the queue in is 1: it waits. -/
theorem state_doHubCycle_of_gate (hrole : roleOf s p = 1) (hidle : ∀ r, r < 32 → execOf s p r = none) (hq : q < 28)
    (hothers : ∀ r, r < 32 → r ≠ q → queueExamines s p r = false) (hexamines : queueExamines s p q = true)
    (hfree : natBit (numAt (execAt s p (rf s (HubQState.key p q) HubQState.next)).desc 1 1) 0 = false)
    (hlow : 3 ≤ qClass s p q) (hhigh : qClass s p q ≤ 7) (hindex : qIndex s p q < engineCount (qClass s p q))
    (hgate : gateSt s p (0x10 + engineBit (qClass s p q) (qIndex s p q)) ≠ 0) :
    rf (doHubCycle p s) (HubQState.key p q) HubQState.state = 1 := by
  have hwaits := examineQueue_of_gate hq hexamines hfree hlow hhigh hindex hgate
  have hq' : q < 32 := by omega
  rw [doHubCycle_of_one hrole hidle hq' hothers fun r hr hne => ?_, rf_windowStep, hwaits]
  · exact rf_rfput_self _ _ HubQState.state _ (by decide)
  · rw [hwaits, queueExamines_rfput_state hq' hr hne]
    exact hothers r hr hne

end

/-- Stand 1 in service in a RUNNING module. Its queue 0, a Once queue of the SAMPLE engine, is at a descriptor in slot 0: OP
0x20, one logit at offset 0 of handle 0 and the result at offset 64 of it. The gate of the engine, node 0x1A, is pending, as
OFF_AFTER_DRAIN leaves it (R436). -/
def samplePending : State :=
  putGate 1 0x1A 2 (putDesc 1 0 (bytesLE 64 (0x20 + 2 ^ 192 + 64 * 2 ^ 480))
    (rput (HubHdlLen.key 1 0) (fldOf HubHdlLen.length 4096) (rput (HubHdlAddr.key 1 0) (fldOf HubHdlAddr.valid 1)
      (rput (HubQCfg.key 1 0) (fldSet HubQCfg.mode (fldOf HubQCfg.cls 5) 1)
        (rput (IorStandMap.key 1) (fldOf IorStandMap.role 1) { State.reset with mode := .running })))))

theorem samplePending_idle : ∀ r, r < 32 → execOf samplePending 1 r = none := by decide +kernel

theorem samplePending_examines : (∀ r, r < 32 → r ≠ 0 → queueExamines samplePending 1 r = false) ∧
    queueExamines samplePending 1 0 = true := by decide +kernel

/-- The engine is the SAMPLE engine, its gate pending. -/
theorem samplePending_engine : qClass samplePending 1 0 = 5 ∧ qIndex samplePending 1 0 = 0 ∧
    gateSt samplePending 1 (0x10 + engineBit 5 0) = 2 := by decide +kernel

/-- The descriptor waits on nothing, and no check refuses it. -/
theorem samplePending_descriptor : rf samplePending (HubQState.key 1 0) HubQState.next = 0 ∧
    natBit (numAt (execAt samplePending 1 0).desc 1 1) 0 = false ∧ (execAt samplePending 1 0).op = 0x20 ∧
    descOk (execAt samplePending 1 0).desc = true ∧
    issueFault (rfput (HubQState.key 1 0) HubQState.state 2 (dropWait (.queue 1 0) samplePending))
      (execAt samplePending 1 0) = none := by decide +kernel

/-- Refutes O46: its clause on a hub cycle asks nothing of the gates. Where the gate of the queue's engine is pending or off,
the engine is offered no new descriptor (R437), so the queue waits, as it does in samplePending. -/
theorem not_hubEnginesWork : ¬ Obligations.HubEnginesWork := by
  unfold Obligations.HubEnginesWork
  rintro ⟨-, hcycle, -⟩
  have hrole : roleOf samplePending 1 = 1 := by decide +kernel
  obtain ⟨hothers, hexamines⟩ := samplePending_examines
  obtain ⟨hcls, hidx, hgate⟩ := samplePending_engine
  obtain ⟨hnext, hfree, hop, hdesc, hissue⟩ := samplePending_descriptor
  have hwaits : rf (doHubCycle 1 samplePending) (HubQState.key 1 0) HubQState.state = 1 :=
    state_doHubCycle_of_gate hrole samplePending_idle (by decide) hothers hexamines (by rw [hnext]; exact hfree)
      (by rw [hcls]; decide) (by rw [hcls]; decide) (by rw [hcls, hidx]; decide) (by rw [hcls, hidx, hgate]; decide)
  specialize hcycle 1 0 samplePending
  rw [show (1 : BitVec 6).toNat = 1 from rfl, hnext] at hcycle
  obtain ⟨t, ht, hstate, -⟩ := hcycle hrole (by decide) samplePending_idle (by decide) hothers hexamines hfree
    (by rw [hop]; exact hcls.symm) (by rw [hop]; decide) (by rw [hop]; exact hidx.trans_lt (by decide)) hdesc hissue
    (by rw [hop]; decide) (by rw [hop]; decide)
  obtain rfl : doHubCycle 1 samplePending = t := Host.Outcome.next.inj ht
  exact absurd (hwaits.symm.trans hstate) (by decide)

section
variable {p sl : Nat} {s : State}

/-! ### The registers of a slice lie apart (R274) -/

theorem dslStatus_ne_count : DslStatus.key p sl ≠ DslCount.key p sl := standKey_ne_of_off (by decide)

theorem dslScrub_ne_count : DslScrub.key p sl ≠ DslCount.key p sl := standKey_ne_of_off (by decide)

theorem dslScrub_ne_ecc : DslScrub.key p sl ≠ DslEcc.key p sl := standKey_ne_of_off (by decide)

theorem dslCount_ne_ecc : DslCount.key p sl ≠ DslEcc.key p sl := standKey_ne_of_off (by decide)

theorem dslScrub_ne_port (q : Nat) : DslScrub.key p sl ≠ IorPortCount.key q := standKey_ne_portCount _ _ _ _ _

theorem dslCount_ne_port (q : Nat) : DslCount.key p sl ≠ IorPortCount.key q := standKey_ne_portCount _ _ _ _ _

/-! ### The scrub of a location (R271, R272) -/

theorem rg_taint (st : Status) (w : Word) (k : Nat) (t : State) : rg (taint st w t) k = rg t k := rfl

/-- An uncorrectable word is recorded in one register of its slice (R272). -/
theorem rg_dramUncorrectable {k off : Nat} (hport : ∀ q, k ≠ IorPortCount.key q) (h : k ≠ DslEcc.key p sl) :
    rg (dramUncorrectable p sl off s) k = rg s k :=
  (rg_report _ _ _ _ _ _ _ _ fun q _ => hport q).trans ((rg_taint ..).trans ((rg_rfsat_key _ _ _ _ _ h).trans
    (holds_ite (P := RegKept k s) (rg_rfput_key _ _ _ _ _ h) rfl)))

/-- The scrub of the word at an offset of a slice (R271): one that reads corrected is written back. -/
def scrubWord (p sl off : Nat) (s : State) : State :=
  match readWord s (dramKey p sl off) with
  | some (_, false) => s
  | some (w, true) => rfsat (DslEcc.key p sl) DslEcc.corrected 1 (writeRaw (dramKey p sl off) (bytesLE 8 w.toNat) s)
  | none => dramUncorrectable p sl off s

theorem rg_scrubWord {k off : Nat} (hport : ∀ q, k ≠ IorPortCount.key q) (h : k ≠ DslEcc.key p sl) :
    rg (scrubWord p sl off s) k = rg s k := by
  unfold scrubWord
  split
  · rfl
  · exact rg_rfsat_key _ _ _ _ _ h
  · exact rg_dramUncorrectable hport h

/-- The scrub of the eight words of a location. -/
def scrubLocation (p sl pos : Nat) (s : State) : State :=
  (List.range 8).foldl (fun s i => scrubWord p sl (64 * pos + 8 * i) s) s

theorem rg_scrubLocation {k pos : Nat} (hport : ∀ q, k ≠ IorPortCount.key q) (h : k ≠ DslEcc.key p sl) :
    rg (scrubLocation p sl pos s) k = rg s k :=
  holds_foldl (P := RegKept k s) rfl fun _ _ hu => (rg_scrubWord hport h).trans hu

/-! ### The count and the move of POSITION (R270, R271, R274) -/

/-- A refresh is counted, with the cycles that bursts waited for it (R270, R274). -/
def refreshCounted (p sl waiting : Nat) (s : State) : State :=
  rfsat (DslCount.key p sl) DslCount.waitCycles waiting (rfadd (DslCount.key p sl) DslCount.refreshes 1 s)

theorem rg_refreshCounted {k n : Nat} (h : k ≠ DslCount.key p sl) : rg (refreshCounted p sl n s) k = rg s k :=
  (rg_rfsat_key _ _ _ _ _ h).trans (rg_rfadd_key _ _ _ _ _ h)

theorem refreshes_refreshCounted (n : Nat) : rf (refreshCounted p sl n s) (DslCount.key p sl) DslCount.refreshes =
    (rf s (DslCount.key p sl) DslCount.refreshes + 1) % 2 ^ 32 :=
  (rf_rfput_field _ _ DslCount.refreshes DslCount.waitCycles _ (by decide)).trans
    (rf_rfadd_self _ _ DslCount.refreshes _ (by decide))

/-- The scrub position moves on from `pos`, around after the last location with one more pass (R271). -/
def scrubMoved (p sl pos : Nat) (s : State) : State :=
  if pos + 1 = 10485760 then rfsat (DslScrub.key p sl) DslScrub.passes 1 (rfput (DslScrub.key p sl) DslScrub.position 0 s)
  else rfput (DslScrub.key p sl) DslScrub.position (pos + 1) s

theorem rg_scrubMoved {k pos : Nat} (h : k ≠ DslScrub.key p sl) : rg (scrubMoved p sl pos s) k = rg s k := by
  unfold scrubMoved
  split
  · exact (rg_rfsat_key _ _ _ _ _ h).trans (rg_rfput_key _ _ _ _ _ h)
  · exact rg_rfput_key _ _ _ _ _ h

theorem position_scrubMoved {pos : Nat} (h : pos < 10485760) :
    rf (scrubMoved p sl pos s) (DslScrub.key p sl) DslScrub.position = (pos + 1) % 10485760 := by
  have hput (v : Nat) : rf (rfput (DslScrub.key p sl) DslScrub.position v s) (DslScrub.key p sl) DslScrub.position =
      v % 2 ^ 24 := rf_rfput_self _ _ DslScrub.position _ (by decide)
  unfold scrubMoved
  split
  · next hlast =>
    rw [rfsat, rf_rfput_field _ _ DslScrub.position DslScrub.passes _ (by decide), hput, hlast,
      Nat.mod_self, Nat.zero_mod]
  · rw [hput]
    omega

theorem passes_scrubMoved (pos : Nat) : rf (scrubMoved p sl pos s) (DslScrub.key p sl) DslScrub.passes =
    if pos + 1 = 10485760 then min 0xFFFF (rf s (DslScrub.key p sl) DslScrub.passes + 1)
    else rf s (DslScrub.key p sl) DslScrub.passes := by
  have hput (v : Nat) : rf (rfput (DslScrub.key p sl) DslScrub.position v s) (DslScrub.key p sl) DslScrub.passes =
      rf s (DslScrub.key p sl) DslScrub.passes := rf_rfput_field _ _ DslScrub.passes DslScrub.position _ (by decide)
  unfold scrubMoved
  split
  · rw [rf_rfsat_self _ _ DslScrub.passes _ (by decide), hput]
    rfl
  · exact hput _

/-! ### A refresh (R270, R477) -/

/-- A refresh counts itself; of a slice that is not under test it then scrubs the location at POSITION and moves on. -/
theorem doRefresh_of_phys (hp : isPhys p = true) (n : Nat) : doRefresh p sl n s =
    if rf (refreshCounted p sl n s) (DslStatus.key p sl) DslStatus.state = 2 then refreshCounted p sl n s
    else scrubMoved p sl (rf (refreshCounted p sl n s) (DslScrub.key p sl) DslScrub.position)
      (scrubLocation p sl (rf (refreshCounted p sl n s) (DslScrub.key p sl) DslScrub.position)
        (refreshCounted p sl n s)) := by
  unfold doRefresh
  rw [if_neg (by rw [hp]; decide)]
  rfl

/-- A slice under test is refreshed and not scrubbed (R477). -/
theorem doRefresh_of_test (hp : isPhys p = true) (htest : rf s (DslStatus.key p sl) DslStatus.state = 2) (n : Nat) :
    doRefresh p sl n s = refreshCounted p sl n s := by
  rw [doRefresh_of_phys hp, rf, rg_refreshCounted dslStatus_ne_count]
  exact if_pos htest

/-- Any other is scrubbed at POSITION, which moves on. -/
theorem doRefresh_of_not_test (hp : isPhys p = true) (htest : rf s (DslStatus.key p sl) DslStatus.state ≠ 2) (n : Nat) :
    doRefresh p sl n s = scrubMoved p sl (rf s (DslScrub.key p sl) DslScrub.position)
      (scrubLocation p sl (rf s (DslScrub.key p sl) DslScrub.position) (refreshCounted p sl n s)) := by
  have hpos : rf (refreshCounted p sl n s) (DslScrub.key p sl) DslScrub.position =
      rf s (DslScrub.key p sl) DslScrub.position := congrArg (fldGet _) (rg_refreshCounted dslScrub_ne_count)
  rw [doRefresh_of_phys hp, hpos, rf, rg_refreshCounted dslStatus_ne_count]
  exact if_neg htest

/-- The refresh stays counted through the scrub. -/
theorem refreshes_doRefresh (hp : isPhys p = true) (n : Nat) :
    rf (doRefresh p sl n s) (DslCount.key p sl) DslCount.refreshes =
      (rf s (DslCount.key p sl) DslCount.refreshes + 1) % 2 ^ 32 := by
  rw [← refreshes_refreshCounted n]
  by_cases htest : rf s (DslStatus.key p sl) DslStatus.state = 2
  · rw [doRefresh_of_test hp htest]
  · rw [doRefresh_of_not_test hp htest]
    exact congrArg (fldGet _) ((rg_scrubMoved dslScrub_ne_count.symm).trans
      (rg_scrubLocation dslCount_ne_port dslCount_ne_ecc))

theorem position_doRefresh (hp : isPhys p = true) (htest : rf s (DslStatus.key p sl) DslStatus.state ≠ 2)
    (hpos : rf s (DslScrub.key p sl) DslScrub.position < 10485760) (n : Nat) :
    rf (doRefresh p sl n s) (DslScrub.key p sl) DslScrub.position =
      (rf s (DslScrub.key p sl) DslScrub.position + 1) % 10485760 := by
  rw [doRefresh_of_not_test hp htest, position_scrubMoved hpos]

/-- The scrub writes no register of its slice but the record of its errors. -/
theorem passes_doRefresh (hp : isPhys p = true) (htest : rf s (DslStatus.key p sl) DslStatus.state ≠ 2) (n : Nat) :
    rf (doRefresh p sl n s) (DslScrub.key p sl) DslScrub.passes =
      if rf s (DslScrub.key p sl) DslScrub.position + 1 = 10485760 then
        min 0xFFFF (rf s (DslScrub.key p sl) DslScrub.passes + 1)
      else rf s (DslScrub.key p sl) DslScrub.passes := by
  have hkept (pos : Nat) : rf (scrubLocation p sl pos (refreshCounted p sl n s)) (DslScrub.key p sl) DslScrub.passes =
      rf s (DslScrub.key p sl) DslScrub.passes :=
    congrArg (fldGet _) ((rg_scrubLocation dslScrub_ne_port dslScrub_ne_ecc).trans (rg_refreshCounted dslScrub_ne_count))
  rw [doRefresh_of_not_test hp htest, passes_scrubMoved, hkept]

theorem mem_refreshCounted (n : Nat) : (refreshCounted p sl n s).mem = s.mem :=
  (rfsat_mem ..).trans (rfadd_mem ..)

end

/-- Settles O47: a refresh is its count, and but for a slice under test the scrub of a location and the move of POSITION. -/
theorem refreshScrubs : Obligations.RefreshScrubs := by
  unfold Obligations.RefreshScrubs
  intro p sl w s hp
  refine ⟨_, rfl, refreshes_doRefresh hp _, fun htest hpos =>
    ⟨position_doRefresh hp htest hpos _, passes_doRefresh hp htest _⟩, fun htest => ?_⟩
  rw [doRefresh_of_test hp htest]
  exact ⟨rg_refreshCounted dslScrub_ne_count, mem_refreshCounted _⟩

end Sys2Proof.Proofs
end

section
/-!
PROOFS. Tallies (R317). How far a count stands past its target decides whether it is reached; TWAIT and a queue's wait then
each compare a tally of their own hub with their target by that alone (R128, R276, R326).
-/

namespace Sys2Proof.Proofs

open Sys2Proof.Machine Sys2Proof.Laws

/-! ### The comparison (R317) -/

/-- R317's (COUNT − T) mod 2^64, over the integers, is the value of the difference of the two words. -/
theorem toNat_sub_eq_emod (count target : Word) :
    ((count - target).toNat : Int) = ((count.toNat : Int) - target.toNat) % 2 ^ 64 := by
  have hcount := count.isLt
  have htarget := target.isLt
  rw [BitVec.toNat_sub]
  omega

theorem reached_eq_emod (count target : Word) :
    reached count target = decide (((count.toNat : Int) - target.toNat) % 2 ^ 64 < 2 ^ 63) := by
  rw [reached, ← toNat_sub_eq_emod]
  exact decide_eq_decide.2 (by norm_cast)

/-- A count that stands n past its target reaches it for n below 2^63, and no more from there until it has come around. -/
theorem reached_add_ofNat (target : Word) {n : Nat} (h : n < 2 ^ 64) :
    reached (target + BitVec.ofNat 64 n) target = decide (n < 2 ^ 63) := by
  rw [reached, add_sub_cancel_left, BitVec.toNat_ofNat, Nat.mod_eq_of_lt h]

/-! ### The waits (R128, R276, R326) -/

section
variable {s : State} {p u : Nat}

@[simp] theorem ownTally_stand (p u : Nat) : ownTally p (false, p, u) = true := by
  simp [ownTally]

/-- TWAIT on a tally of its own hub looks at two things: whether its wait was released before, and COUNT (R128, R326). -/
theorem evalTwait_of_own {l : Loc} {e : Entry} {wa : List Lane} (ha : readSrc s l e.srcA.toNat 4 = .ok wa)
    (ht : tallyPlace s (twaitArgs wa).1 = .ok (false, l.p, u)) :
    evalTwait l e s =
      if (waitOf s (.stage l.p l.a l.st)).any (·.done) || reached (tallyCount s (false, l.p, u)) (twaitArgs wa).2 then
        .commit { takeRoute := takesRoute l e, endWait := true }
      else .wait 8 := by
  simp only [evalTwait, withA_of_ok ha, ht, ownTally_stand, Bool.true_and]

/-- Whoever has no wait yet, and asks for a tally of its own hub, gets the comparison as the answer (R326). -/
theorem waitStep_of_own {router n : Nat} {loc target : Word} {who : Waiter} (hw : waitOf s who = none)
    (ht : tallyPlace s n = .ok (false, p, u)) :
    (waitStep p router loc n target who s).1 = .ok (reached (tallyCount s (false, p, u)) target) := by
  simp only [waitStep, hw, ht, ownTally_stand, if_true]
  split
  · next hr => rw [hr]
  · next hr => rw [Bool.eq_false_of_not_eq_true hr]

/-- A descriptor with WAIT_EN waits for WAIT_TARGET + PASS × STEP (R276). -/
theorem queueWait_of_own {q : Nat} {d : List Byte} (hen : natBit (numAt d 1 1) 0 = true)
    (hw : waitOf s (.queue p q) = none) (ht : tallyPlace s (numAt d 4 2) = .ok (false, p, u)) :
    (queueWait p q d s).1 = .ok (reached (tallyCount s (false, p, u)) (BitVec.ofNat 64
      (numAt d 8 8 + rf s (HubQState.key p q) HubQState.pass * rf s (HubQCfg.key p q) HubQCfg.step))) := by
  rw [queueWait, if_neg (by simp [hen]), waitStep_of_own hw ht]

end

/-- Settles O60: the comparison by the distance of COUNT from T, which TWAIT and a queue's wait then make. -/
theorem tallyReached : Obligations.TallyReached := by
  unfold Obligations.TallyReached
  refine ⟨reached_eq_emod, fun target n hn => ?_, fun target n hlo hhi => ?_, fun l e wa u s ha ht => ?_,
    fun p q u d s hen ht hw => ?_⟩
  · rw [reached_add_ofNat target (by omega), decide_eq_true hn]
  · rw [reached_add_ofNat target hhi, decide_eq_false (by omega)]
  · rw [evalTwait_of_own ha ht]
    refine ⟨fun hwaits => ?_, fun hreleased => ?_⟩
    · rw [hwaits, Bool.false_or]
    · rw [hreleased, Bool.true_or, if_pos rfl]
  · exact ⟨_, (queueWait p q d s).2, Prod.ext (queueWait_of_own hen hw ht) rfl, rfl⟩

end Sys2Proof.Proofs
end

section
/-!
PROOFS. The step (R345), and the verbs of the host interface that end by one rule (R350): START, RESUME, DRAIN and its
drain point, RELEASE, DMA_COPY, DMA_STAND, ABORT, and the operator's verbs from a host.
-/

namespace Sys2Proof.Proofs

open Sys2Proof.Machine Sys2Proof.Laws

/-- Settles O1: by the two cases of the queue. -/
theorem stepRunsFrontCommand : Obligations.StepRunsFrontCommand := by
  unfold Obligations.StepRunsFrontCommand
  exact ⟨fun _ _ _ => rfl, fun s h => by rw [step, h]⟩

/-! ### The operator's verbs (R350, R521) -/

section
variable {c : Cmd} {s : State}

theorem senderThere_of_fromHost (h : c.fromHost = true) : senderThere s c = true := by
  unfold Cmd.fromHost at h
  unfold senderThere
  split at h
  · exact Bool.or_true _
  · cases h

theorem cmdArrives_of_fromHost (h : c.fromHost = true) : cmdArrives c s = s := by
  unfold Cmd.fromHost at h
  unfold cmdArrives
  split at h
  · rfl
  · cases h

/-- An idle arbiter with no command before this one lets it through, whatever its code (R345). -/
theorem arbiterBusy_of_idle (harb : s.arb = none) (hgul : s.gul.blazing = false) (hfirst : fetchedBefore s c = [])
    (code : Nat) : arbiterBusy s code c = false := by
  simp [arbiterBusy, harb, hgul, hfirst]

/-- The role of an operator verb is judged before its header and its body (R350; the order is log entry 70). -/
theorem issueVerb_of_operator {code : Nat} {bodyOk : Bool} {run : State → State} (hop : isOperator code = true)
    (hhost : c.fromHost = true) (hdone : s.dones.any (fun d => d.cmd = c) = false) (hheld : heldBack s code c = false)
    (hbusy : arbiterBusy s code c = false) (hwait : c.waitEn = false) :
    issueVerb code c bodyOk run s = refuse c stRoleDenied locNone s := by
  have hready : cmdWait c s = (.ok true, s) := by rw [cmdWait, hwait, if_neg Bool.false_ne_true]
  rw [issueVerb, senderThere_of_fromHost hhost, if_pos rfl, cmdArrives_of_fromHost hhost, judgeVerb, hdone, hheld, hbusy,
    hready, hop, hhost]
  rfl

end

/-- Settles O33: each of the nine issues with an operator's code, and the role is judged first. -/
theorem operatorVerbsNeedASession : Obligations.OperatorVerbsNeedASession := by
  unfold Obligations.OperatorVerbsNeedASession
  intro c bad t x y found s hhost harb hgul hwait hheld hfirst hdone
  have hdenied : ∀ code bodyOk run, isOperator code = true →
      Host.Outcome.next (φ := Fault) (ρ := Refusal) (issueVerb code c bodyOk run s) = .next (refuse c stRoleDenied locNone s) :=
    fun code bodyOk run hop => congrArg _ (issueVerb_of_operator hop hhost hdone (hheld code)
      (arbiterBusy_of_idle harb hgul hfirst code) hwait)
  exact ⟨hdenied 0x20 _ _ rfl, hdenied 0x21 _ _ rfl, hdenied 0x22 _ _ rfl, hdenied 0x23 _ _ rfl, hdenied 0x28 _ _ rfl,
    hdenied 0x29 _ _ rfl, hdenied 0x2A _ _ rfl, hdenied 0x2B _ _ rfl, hdenied 0x2C _ _ rfl⟩

/-! ### START and RESUME (R350) -/

/-- Every stand begins again, and no lap table counts as changed. -/
theorem setRunning_runs (s : State) : (setRunning s).mode = .running ∧ (setRunning s).dirty = [] := by
  unfold setRunning startStands
  refine holds_foldl (P := fun u => u.mode = .running ∧ u.dirty = []) ⟨rfl, rfl⟩ fun u p h => ?_
  rw [rfput_mode, putStand_mode, rfput_dirty, putStand_dirty]
  exact h

theorem doStart_of_loaded {c : Cmd} {s : State} (h : verbIssues 2 c (c.zero 16 48) s = true)
    (hmode : (verbReady c s).mode = .loaded) (hok : startRefusal (verbReady c s) = none) :
    doStart c s = retireVerb c stDone 0 0 (setRunning (verbReady c s)) := by
  rw [doStart, issueVerb_runs _ _ _ _ _ h, hmode, if_neg (by simp), hok]

theorem doResume_of_drained {c : Cmd} {s : State} (h : verbIssues 6 c (c.zero 16 48) s = true)
    (hmode : (verbReady c s).mode = .drained) (hok : startRefusal (verbReady c s) = none) :
    doResume c s = retireVerb c stDone 0 0 (setRunning (gulNextStep (verbReady c s))) := by
  rw [doResume, issueVerb_runs _ _ _ _ _ h, hmode, if_neg (by simp), hok]

/-- Settles O16: the verb retires from the state in which the module has been set running. -/
theorem startAndResumeRun : Obligations.StartAndResumeRun := by
  unfold Obligations.StartAndResumeRun
  exact ⟨fun c s h hmode hok => ⟨_, congrArg Host.Outcome.next (doStart_of_loaded h hmode hok), setRunning_runs _⟩,
    fun c s h hmode hok => ⟨_, congrArg Host.Outcome.next (doResume_of_drained h hmode hok), setRunning_runs _⟩⟩

/-! ### DRAIN (R345, R358) -/

theorem noteFlight_frame (c : Cmd) (s : State) : ∃ r v, noteFlight c s = { s with rings := r, sessions := v } := by
  unfold noteFlight
  split
  · exact ⟨s.rings, s.sessions, rfl⟩
  · exact putFlight_frame c _ s

theorem doDrain_of_running {c : Cmd} {s : State} (h : verbIssues 3 c (c.zero 16 48) s = true)
    (hmode : (verbReady c s).mode = .running)
    (himg : (imgDrain (verbReady c s).image).isSome = true ∨ (imgService (verbReady c s).image).isSome = true) :
    doDrain c s = beginLong 3 c { verbReady c s with draining := true } := by
  rw [doDrain, issueVerb_runs _ _ _ _ _ h, if_neg]
  rintro (hnot | ⟨hdrain, hservice⟩)
  · exact hnot hmode
  · rw [Option.isNone_iff_eq_none] at hdrain hservice
    simp [hdrain, hservice] at himg

/-- What the module is left as when its drain point is reached, the arbiter still held (R358). -/
def drainedState (s : State) : State := holdDrain (putPhases 3 { s with draining := false, mode := .drained })

theorem drainedState_frame (s : State) : (drainedState s).mode = .drained ∧ (drainedState s).draining = false ∧
    (drainedState s).arb = s.arb :=
  holds_foldl (P := fun u => u.mode = .drained ∧ u.draining = false ∧ u.arb = s.arb) ⟨rfl, rfl, rfl⟩ fun _ _ h => h

theorem doDrainPoint_of_drained {c : Cmd} {s : State} (harb : s.arb = some (3, c)) (hdrain : s.draining = true)
    (hgul : s.gul.blazing = false) (hall : ∀ p ∈ servicePhys s, (standOf s p).drained = true) :
    doDrainPoint s = retireVerb c stDone 0 0 { drainedState s with arb := none } := by
  have hheld : (drainedState s).arb = some (3, c) := (drainedState_frame s).2.2.trans harb
  unfold doDrainPoint
  split
  · rw [if_pos ⟨hdrain, hgul, List.all_eq_true.2 hall⟩]
    change endLong stDone 0 0 (drainedState s) = _
    rw [endLong, hheld]
  · next hnot => exact absurd harb (hnot c)

/-- Settles O18: DRAIN takes the arbiter, and the drain point gives it up. -/
theorem drainEndsAtDrainPoint : Obligations.DrainEndsAtDrainPoint := by
  unfold Obligations.DrainEndsAtDrainPoint
  refine ⟨fun c s h hmode himg => ?_, fun c s harb hdrain hgul hall => ?_⟩
  · obtain ⟨r, v, e⟩ := noteFlight_frame c { verbReady c s with draining := true, arb := some (3, c) }
    refine ⟨_, congrArg Host.Outcome.next ((doDrain_of_running h hmode himg).trans e), rfl, rfl, hmode⟩
  · obtain ⟨hmode, hdraining, -⟩ := drainedState_frame s
    exact ⟨_, congrArg Host.Outcome.next (doDrainPoint_of_drained harb hdrain hgul hall), hmode, hdraining, rfl⟩

/-! ### RELEASE (R517) -/

section
variable {p q action : Nat} {s : State}

theorem hubQCfg_key_ne_hubQState_key (p q : Nat) : HubQCfg.key p q ≠ HubQState.key p q := standKey_ne_of_off (by omega)

/-- The two fields of the queue's state that a release clears. -/
theorem rf_released (k : Nat) (s : State) :
    rf (rfput k HubQState.lastStatus 0 (rfput k HubQState.state 0 s)) k HubQState.state = 0 ∧
    rf (rfput k HubQState.lastStatus 0 (rfput k HubQState.state 0 s)) k HubQState.lastStatus = 0 := by
  constructor
  · rw [rf_rfput_field _ _ _ _ _ (by decide), rf_rfput_self _ _ _ _ (by decide), Nat.zero_mod]
  · rw [rf_rfput_self _ _ _ _ (by decide), Nat.zero_mod]

theorem releaseQueue_clears (h : action ≠ 1) :
    rf (releaseQueue p q action s) (HubQState.key p q) HubQState.state = 0 ∧
    rf (releaseQueue p q action s) (HubQState.key p q) HubQState.lastStatus = 0 := by
  unfold releaseQueue
  dsimp only
  rw [if_neg h]
  split
  · exact rf_released _ s
  · rw [rf_rfput_key _ _ _ _ _ _ (hubQCfg_key_ne_hubQState_key p q).symm,
      rf_rfput_key _ _ _ _ _ _ (hubQCfg_key_ne_hubQState_key p q).symm]
    exact rf_released _ s

theorem releaseQueue_switchesOff : rf (releaseQueue p q 2 s) (HubQCfg.key p q) HubQCfg.mode = 0 := by
  unfold releaseQueue
  dsimp only
  rw [if_neg (by decide), if_neg (by decide), rf_rfput_self _ _ _ _ (by decide), Nat.zero_mod]

end

theorem doRelease_of_held {c : Cmd} {p : Nat} {s : State}
    (h : verbIssues 0x0B c (c.zero 19 45 &&
      decide (c.num 18 1 ≤ 2 ∧ c.num 17 1 ≤ 31 ∧ ¬(c.num 18 1 = 2 ∧ 28 ≤ c.num 17 1))) s = true)
    (hlg : c.num 16 1 ≤ 55) (hown : ∀ h r, c.issuer = .host h r → 28 ≤ c.num 17 1 → c.num 17 1 = 28 + h.toNat)
    (hp : inService (verbReady c s) (c.num 16 1) = some p)
    (hheld : rf (verbReady c s) (HubQState.key p (c.num 17 1)) HubQState.state = 3) :
    doRelease c s = retireVerb c stDone 0 0 (releaseQueue p (c.num 17 1) (c.num 18 1) (verbReady c s)) := by
  unfold doRelease
  dsimp only
  rw [issueVerb_runs _ _ _ _ _ h, if_neg (by omega), if_neg ?own, hp]
  case own =>
    split
    · next a b hi =>
      by_cases hq : 28 ≤ c.num 17 1
      · simp [hown a b hi hq]
      · simp [hq]
    · exact Bool.false_ne_true
  dsimp only
  rw [if_neg (not_not.2 hheld)]

/-- Settles O23: the verb retires from the state in which the queue has left HELD. -/
theorem releaseFreesHeldQueue : Obligations.ReleaseFreesHeldQueue := by
  unfold Obligations.ReleaseFreesHeldQueue
  intro c p s h hlg hown hp hheld
  refine ⟨_, congrArg Host.Outcome.next (doRelease_of_held h hlg hown hp hheld), rfl, releaseQueue_clears, fun h2 => ?_⟩
  rw [h2]
  exact releaseQueue_switchesOff

/-! ### DMA_COPY and DMA_STAND (R352, R353) -/

theorem doDmaCopy_of_free {c : Cmd} {p : BitVec 2} {r : BitVec 6} {s : State} (hi : c.issuer = .host p r)
    (hnew : (portOf s p.toNat).copies.find? (fun j => j.cmd = c) = none)
    (hfree : copyContext s p.toNat (r.toNat % 4) c = true)
    (h : verbIssues 0x10 c (copyBodyOk c (rf s (CvuCfg.key true 0 (ringUnit p.toNat (r.toNat % 4))) CvuCfg.psel)) s = true)
    (hok : copyRefusal (verbReady c s) c = none) :
    doDmaCopy c s = startCopy p.toNat (r.toNat % 4) c (verbReady c s) := by
  unfold doDmaCopy
  rw [hi]
  dsimp only
  rw [hnew]
  dsimp only
  rw [hfree, issueVerb_runs _ _ _ _ _ h, hok]
  rfl

/-- What ends done has not taken the branch of a refusal. -/
theorem else_of_done {b : Prop} {_ : Decidable b} {st : Status} {x : Status × State} {s u : State} (hst : st ≠ stDone)
    (h : (if b then (st, s) else x) = (stDone, u)) : x = (stDone, u) := by
  split at h
  · exact absurd (Prod.mk.inj h).1 hst
  · exact h

/-- A descriptor that is posted is the last of the stand's ring queue of its port. -/
theorem postDesc_posts {c : Cmd} {port q : Nat} {s u : State} (hq : inService s (c.num 27 1) = some q)
    (h : postDesc c port s = (stDone, u)) : ((hubQOf u q (28 + port)).ring.getLast?).map (·.cmd) = some c := by
  unfold postDesc at h
  extract_lets lg at h
  rw [hq] at h
  obtain ⟨-, rfl⟩ := Prod.mk.inj (else_of_done (by decide) (else_of_done (by decide) (else_of_done (by decide)
    (else_of_done (by decide) (else_of_done (by decide) h)))))
  rw [putDesc_hubQOf, hubQOf_putHubQ_self]
  simp only [List.getLast?_append, List.getLast?_singleton, Option.some_or, Option.map_some]

theorem hubQOf_noteFlight (c : Cmd) (s : State) (p q : Nat) : hubQOf (noteFlight c s) p q = hubQOf s p q := by
  obtain ⟨r, v, e⟩ := noteFlight_frame c s
  rw [e]
  rfl

theorem doDmaStand_of_posted {c : Cmd} {p : BitVec 2} {r : BitVec 6} {s u : State} (hi : c.issuer = .host p r)
    (hheld : heldBack s 0x11 c = false) (hnew : issued s c = false) (hnone : s.mode ≠ .none) (hidle : s.mode ≠ .idle)
    (h : postDesc c p.toNat s = (stDone, u)) : doDmaStand c s = noteFlight c u := by
  unfold doDmaStand
  rw [hheld, if_neg Bool.false_ne_true, hnew, if_neg Bool.false_ne_true, hi]
  dsimp only
  rw [decide_eq_false hnone, decide_eq_false hidle, Bool.or_self, if_neg Bool.false_ne_true, h]
  exact if_pos rfl

/-! ### ABORT (R360) -/

/-- The slots that each ring passes over are in t as in s. -/
def SameSkip (s t : State) : Prop := ∀ p r, (ringOf t p r).skip = (ringOf s p r).skip

namespace SameSkip

variable {s t u : State}

theorem refl (s : State) : SameSkip s s := fun _ _ => rfl

theorem frame (h : SameSkip s t) (e : u.rings = t.rings) : SameSkip s u := fun p r => by
  rw [ringOf, e]
  exact h p r

theorem putRing {p r : Nat} {v : CRing} (h : SameSkip s t) (hv : v.skip = (ringOf t p r).skip) :
    SameSkip s (Machine.putRing p r v t) := by
  intro i j
  rw [ringOf_putRing]
  split
  · next e =>
    rw [hv, ← h i j, ringOf, ringOf, e]
  · exact h i j

theorem putFlight {c : Cmd} {l : List Cmd} (h : SameSkip s t) : SameSkip s (Machine.putFlight c l t) := by
  unfold Machine.putFlight
  split
  · exact h.putRing rfl
  · split
    · exact h.frame rfl
    · exact h

theorem dropFlight {c : Cmd} (h : SameSkip s t) : SameSkip s (Machine.dropFlight c t) :=
  holds_ite (h.frame rfl) h.putFlight

theorem discardRec {r : Retired} (h : SameSkip s t) : SameSkip s (Machine.discardRec r t) := by
  obtain ⟨n, v, g, q, m, e⟩ := discardRec_frame r t
  rw [e]
  exact h.frame rfl

theorem retireRec {told cv nonrepeat : Bool} {c : Cmd} {st : Status} {r0 r1 detail : Word} (h : SameSkip s t) :
    SameSkip s (Machine.retireRec told c st r0 r1 detail cv nonrepeat t) := by
  have hleft : SameSkip s (dropWait c.waiter (Machine.dropFlight c { t with fetchOrder := t.fetchOrder.erase c })) := by
    refine (dropFlight ?_).frame (t := Machine.dropFlight c { t with fetchOrder := t.fetchOrder.erase c }) rfl
    exact h.frame rfl
  unfold Machine.retireRec
  refine holds_ite hleft.discardRec ?_
  split
  · exact hleft.putRing rfl
  · split
    · exact hleft.frame rfl
    · exact hleft

end SameSkip

/-- An ABORT of a posted slot has the slot passed over, and the command of the slot retires (R344, R360). -/
theorem doAbort_of_posted {c : Cmd} {e : BitVec 512} {p : BitVec 2} {r : BitVec 6} {s : State} (hi : c.issuer = .host p r)
    (h : verbIssues 0x12 c (c.zero 17 1 && c.zero 22 42) s = true) (hmode : (verbReady c s).mode ≠ .none)
    (hring : c.num 16 1 ≤ 63) (hstate : (ringOf (verbReady c s) p.toNat (c.num 16 1)).state = 1)
    (hslot : c.num 18 2 < crEntries (verbReady c s) p.toNat (c.num 16 1))
    (hflight : (ringOf (verbReady c s) p.toNat (c.num 16 1)).flight = [])
    (hposted : posted (verbReady c s) p.toNat (c.num 16 1) (c.num 18 2) = true)
    (hid : (cmdOf (.host p (BitVec.ofNat 6 (c.num 16 1))) (c.num 18 2) e).cmdId = BitVec.ofNat 16 (c.num 20 2)) :
    doAbort c e s = retireVerb c stDone 0 0
      (retireCmd (cmdOf (.host p (BitVec.ofNat 6 (c.num 16 1))) (c.num 18 2) e) stAborted 0 0 0 false false
        (putRing p.toNat (c.num 16 1) { ringOf (verbReady c s) p.toNat (c.num 16 1) with
          skip := (ringOf (verbReady c s) p.toNat (c.num 16 1)).skip ++ [c.num 18 2] } (verbReady c s))) := by
  unfold doAbort
  dsimp only
  rw [issueVerb_runs _ _ _ _ _ h, if_neg hmode, hi]
  dsimp only
  rw [if_neg (by omega), if_neg (by omega), hflight]
  dsimp only [List.find?_nil]
  rw [hposted, decide_eq_true hid]
  rfl

theorem mem_skip_of_retireCmd {p r slot : Nat} {c : Cmd} {q : CRing} {st : Status} {s : State} (h : slot ∈ q.skip) :
    slot ∈ (ringOf (retireCmd c st 0 0 0 false false (putRing p r q s)) p r).skip := by
  rw [show (ringOf (retireCmd c st 0 0 0 false false (putRing p r q s)) p r).skip = _ from
    SameSkip.retireRec (.refl _) p r, ringOf_putRing_self]
  exact h

/-- Settles O29: a free context starts the copy, a posted descriptor is the last of its queue, and an aborted slot is passed
over. -/
theorem dmaVerbsAndAbort : Obligations.DmaVerbsAndAbort := by
  unfold Obligations.DmaVerbsAndAbort
  refine ⟨fun c p r s hi hnew hfree h hok => congrArg Host.Outcome.next (doDmaCopy_of_free hi hnew hfree h hok),
    fun c p r q u s hi hheld hnew hnone hidle hq h => ?_, fun c e p r s hi => ?_⟩
  · refine ⟨_, congrArg Host.Outcome.next (doDmaStand_of_posted hi hheld hnew hnone hidle h), ?_⟩
    rw [hubQOf_noteFlight]
    exact postDesc_posts hq h
  · intro v h hmode hring hstate hslot hflight hposted hid
    exact ⟨_, congrArg Host.Outcome.next (doAbort_of_posted hi h hmode hring hstate hslot hflight hposted hid),
      mem_skip_of_retireCmd (List.mem_append_right _ (List.mem_singleton_self _))⟩

end Sys2Proof.Proofs
end

section
/-!
PROOFS. The rings of a port (R344 to R349): the fetch from the first fetchable ring after the port's turn, the completion
record that a retirement writes, and ENABLE.
-/

namespace Sys2Proof.Proofs

open Sys2Proof.Machine Sys2Proof.Laws

/-! ### The fetch (R344 to R346) -/

/-- A search of n places round from a turn ends at the first place there that satisfies f. -/
theorem find?_round {n turn r : Nat} {f : Nat → Bool} (hr : r < n) (hf : f r = true)
    (hfirst : ∀ i, i < n → ∀ k, k < i → (turn + i) % n = r → f ((turn + k) % n) = false) :
    ((List.range n).map (fun i => (turn + i) % n)).find? f = some r := by
  have hturn : turn % n < n := Nat.mod_lt _ (by omega)
  obtain ⟨i, hi, hplace⟩ : ∃ i, i < n ∧ (turn + i) % n = r := by
    refine ⟨(r + (n - turn % n)) % n, Nat.mod_lt _ (by omega), ?_⟩
    rw [Nat.add_mod_mod, ← Nat.mod_add_mod, show turn % n + (r + (n - turn % n)) = r + n by omega, Nat.add_mod_right,
      Nat.mod_eq_of_lt hr]
  refine List.find?_eq_some_iff_getElem.2 ⟨hf, i, by simpa using hi, by simpa using hplace, fun k hk => ?_⟩
  simpa using hfirst i hi k hk hplace

/-- The port and the ring that a fetch from a ring leaves, with the command in flight. -/
def fetchedState (p : BitVec 2) (r : Nat) (e : BitVec 512) (s : State) : State :=
  putRing p.toNat r { ringOf s p.toNat r with
    sqHead := ((ringOf s p.toNat r).sqHead + 1) % crEntries s p.toNat r
    flight := (ringOf s p.toNat r).flight ++ [cmdOf (.host p (BitVec.ofNat 6 r)) (ringOf s p.toNat r).sqHead e] }
    (putPort p.toNat { portOf s p.toNat with turn := (r + 1) % 64 } s)

/-- A code that the table lists is fetched into flight; only the arbiter's order may note it besides (R345, R346). -/
theorem doFetch_of_listed {p : BitVec 2} {e : BitVec 512} {r : Nat} {s : State} (hruns : rangerRuns s p.toNat = true)
    (hup : (portOf s p.toNat).linkUp = true)
    (hfind : ((List.range 64).map (fun i => ((portOf s p.toNat).turn + i) % 64)).find? (fetchable s p.toNat) = some r)
    (hskip : (ringOf s p.toNat r).skip = []) (hlisted : reservedVerb (numAt (vecBytes e) 0 1) = false) :
    ∃ order, doFetch p.toNat e s = { fetchedState p r e s with fetchOrder := order } := by
  unfold doFetch
  dsimp only
  rw [if_neg (by rw [hruns, hup]; decide), hfind]
  dsimp only
  rw [if_neg (by rw [hskip]; simp), hlisted, if_neg Bool.false_ne_true, BitVec.ofNat_toNat, BitVec.setWidth_eq]
  refine (em _).elim (fun h => ⟨_, (if_pos h).trans rfl⟩) fun h => ⟨s.fetchOrder, (if_neg h).trans rfl⟩

/-! ### The completion record (R347) -/

theorem settleReserved_of_nil {p r : Nat} {s : State} (h : (ringOf s p r).reserved = []) : settleReserved p r s = s := by
  rw [settleReserved, h, List.foldl_nil]

theorem length_recordBytes (d : Retired) (sqHead ring : Nat) (phase : Bool) :
    (recordBytes d sqHead ring phase).length = 32 := by
  simp [recordBytes]

/-- The state in which a record has been written to its slot, and the ring has passed on. -/
def recordWritten (p r : Nat) (d : Retired) (ds : List Retired) (s : State) : State :=
  let q := ringOf s p r
  let nx := (q.ccPos + 1) % crEntries s p r
  putRing p r { q with done := ds, ccPos := nx, ccUsed := q.ccUsed + 1, phase := if nx = 0 then !q.phase else q.phase }
    (hostWrite (ringAddr (rg s (ccBaseKey p r)) + 32 * q.ccPos) (recordBytes d q.sqHead r q.phase) s)

/-- The oldest record is written where a slot is free; an interrupt changes the port besides (R347). -/
theorem doRetire_of_room {p r : Nat} {d : Retired} {ds : List Retired} {s : State} (hdone : (ringOf s p r).done = d :: ds)
    (hup : (portOf s p).linkUp = true) (hroom : (ringOf s p r).ccUsed < crEntries s p r)
    (hres : (ringOf s p r).reserved = []) :
    ∃ ports, doRetire p r s = { recordWritten p r d ds s with ports := ports } := by
  have hirq : ∀ (b : Prop) [Decidable b] (u : State),
      ∃ ports, (if b then raiseIrq p r u else u) = { u with ports := ports } := by
    intro b _ u
    split
    · exact raiseIrq_frame p r u
    · exact ⟨u.ports, rfl⟩
  unfold doRetire
  rw [settleReserved_of_nil hres]
  dsimp only
  rw [hdone]
  dsimp only
  rw [hup, if_neg (by decide), if_neg (by omega)]
  exact hirq _ (recordWritten p r d ds s)

/-! ### ENABLE (R349) -/

theorem suView_ringKey (c i o : Nat) : suView (ringKey c i o) = 0 := by
  unfold suView natBits ringKey
  omega

theorem suClass_ringKey (c i o : Nat) : suClass (ringKey c i o) = c % 16 := by
  unfold suClass natBits ringKey
  omega

theorem suIndex_ringKey (c i o : Nat) : suIndex (ringKey c i o) = i % 4096 := by
  unfold suIndex natBits ringKey
  omega

theorem suOff_ringKey (c i o : Nat) : suOff (ringKey c i o) = o % 4096 := by
  unfold suOff natBits ringKey
  omega

theorem descOf_crCfgKey {p r : Nat} (hp : p < 4) (hr : r < 64) : descOf (crCfgKey p r) = RingCfg.desc := by
  have hoff : 0x808 + 0x20 * r < 4096 := by omega
  rw [descOf, regDescOf, crCfgKey, suView_ringKey, suClass_ringKey, suIndex_ringKey, suOff_ringKey,
    Nat.mod_eq_of_lt (show p < 4096 by omega), Nat.mod_eq_of_lt hoff, if_pos rfl]
  change (if p < 4 then portDesc (0x808 + 0x20 * r) else none).getD _ = _
  rw [if_pos hp, portDesc, if_neg (by omega), if_neg (by omega), if_neg (by omega), if_pos (by omega)]
  rfl

/-- ENABLE is written as it is given. -/
theorem enable_plainWrite {k : Nat} (hk : descOf k = RingCfg.desc) (v : Word) (s : State) :
    fldGet RingCfg.enable (rg (plainWrite k v s) k) = fldGet RingCfg.enable v := by
  unfold plainWrite
  dsimp only
  rw [rg_rput_self, hk]
  refine Nat.eq_of_testBit_eq fun i => ?_
  rw [fldGet_testBit, fldGet_testBit]
  cases i with
  | zero => simp [RingCfg.enable, RingCfg.desc]
  | succ i => simp [RingCfg.enable]

theorem ringWrite_enable {old cfg : Word} (h : fldGet RingCfg.enable old = 0) :
    ringWrite old (fldSet RingCfg.enable cfg 1) = .enable := by
  have hset : fldGet RingCfg.enable (fldSet RingCfg.enable cfg 1) = 1 := fldGet_fldSet _ _ _ (by decide)
  unfold ringWrite
  dsimp only
  rw [h, hset, if_neg (by simp), if_pos (by simp)]

theorem enable_cleared (old : Word) : fldGet RingCfg.enable (fldSet RingCfg.enable old 0) = 0 :=
  fldGet_fldSet _ _ _ (by decide)

theorem ringWrite_disable {old : Word} (h : fldGet RingCfg.enable old = 1) :
    ringWrite old (fldSet RingCfg.enable old 0) = .disable := by
  unfold ringWrite
  dsimp only
  rw [h, enable_cleared, fldGet_fldSet_other _ _ _ _ (by decide), if_neg (by simp), if_neg (by simp), if_pos (by simp)]

/-- What a write to a ring's configuration leaves, where it enables the ring (R349). -/
theorem doCrCfg_enables {via : Via} {p r : Nat} {v : Word} {s : State} (h : passes via true (crCfgKey p r) s)
    (hw : ringWrite (rg s (crCfgKey p r)) v = .enable) :
    (doCrCfg via p r v s).2 = putRing p r { ringOf s p r with
      state := 1, sqHead := 0, tail := 0, ccPos := 0, ccHead := 0, ccUsed := 0, phase := true, skip := [] }
      (plainWrite (crCfgKey p r) v s) := by
  unfold doCrCfg
  dsimp only
  rw [viaWrite_runs _ _ _ _ h, hw]
  dsimp only
  rw [if_pos rfl]

theorem doCrCfg_disables {via : Via} {p r : Nat} {v : Word} {s : State} (h : passes via true (crCfgKey p r) s)
    (hw : ringWrite (rg s (crCfgKey p r)) v = .disable) :
    (doCrCfg via p r v s).2 = putRing p r { ringOf s p r with state := 2 } (plainWrite (crCfgKey p r) v s) := by
  unfold doCrCfg
  dsimp only
  rw [viaWrite_runs _ _ _ _ h, hw]
  dsimp only
  rw [if_pos rfl]

/-- Settles O38: each row leaves the ring of the lemma above on it. -/
theorem ringsFetchAndRetire : Obligations.RingsFetchAndRetire := by
  unfold Obligations.RingsFetchAndRetire
  refine ⟨fun p e r s hruns hup hfirst hr hf hskip hlisted => ?_, fun p r d ds s hdone hup hroom hres => ?_,
    fun p r cfg s h hoff => ?_, fun p r s h hon => ?_⟩
  · obtain ⟨order, hfetch⟩ := doFetch_of_listed hruns hup (find?_round hr hf hfirst) hskip hlisted
    refine ⟨_, congrArg Host.Outcome.next hfetch, ?_, ?_, ?_⟩
    · exact congrArg CRing.sqHead (ringOf_putRing_self _ p.toNat r _)
    · exact congrArg CRing.flight (ringOf_putRing_self _ p.toNat r _)
    · exact congrArg Port.turn (portOf_putPort_self s p.toNat _)
  · obtain ⟨ports, hretire⟩ := doRetire_of_room hdone hup hroom hres
    refine ⟨_, congrArg Host.Outcome.next hretire, ?_, ?_, ?_, fun a ha => ?_, rfl⟩
    · exact congrArg CRing.done (ringOf_putRing_self _ p.toNat r.toNat _)
    · exact congrArg CRing.ccPos (ringOf_putRing_self _ p.toNat r.toNat _)
    · have hread := hostWrite_reads s (ringAddr (rg s (ccBaseKey p.toNat r.toNat)) + 32 * (ringOf s p.toNat r.toNat).ccPos)
        (recordBytes d (ringOf s p.toNat r.toNat).sqHead r.toNat (ringOf s p.toNat r.toNat).phase)
      rw [length_recordBytes] at hread
      exact hread
    · refine (smapGet_smapSetMany memDflt _ s.hostMem _ a).trans (if_neg ?_)
      rw [length_recordBytes]
      omega
  · refine ⟨_, congrArg Host.Outcome.next (doCrCfg_enables h (ringWrite_enable hoff)), ?_⟩
    rw [ringOf_putRing_self]
    exact ⟨rfl, rfl, rfl, rfl, rfl⟩
  · refine ⟨_, congrArg Host.Outcome.next (doCrCfg_disables h (ringWrite_disable hon)), ?_, ?_⟩
    · rw [ringOf_putRing_self]
    · exact (enable_plainWrite (descOf_crCfgKey p.isLt r.isLt) _ s).trans (enable_cleared _)

end Sys2Proof.Proofs
end

section
/-!
PROOFS. The ports through the model's operations: `SamePorts view s t` says that what a view shows of each port is in t as
in s. A view that is aside of the event ring and the interrupts is the same after a report; one lemma for each function that
a request, a completion or a link's fall runs says that it keeps such a view.
-/

namespace Sys2Proof.Proofs

open Sys2Proof.Machine Sys2Proof.Laws

/-- A view of a port that shows neither its event ring nor its interrupts, which are what a report writes (R336, R348). -/
def Aside {α : Type} (view : Port → α) : Prop := ∀ q e m, view { q with evq := e, msix := m } = view q

/-- What a view shows of each port is in t as in s. -/
def SamePorts {α : Type} (view : Port → α) (s t : State) : Prop := ∀ p, view (portOf t p) = view (portOf s p)

namespace SamePorts

variable {α : Type} {view : Port → α} {s t u : State} {p : Nat}

theorem refl (s : State) : SamePorts view s s := fun _ => rfl

theorem frame (h : SamePorts view s t) (e : u.ports = t.ports) : SamePorts view s u := fun p => by
  rw [portOf, e]
  exact h p

theorem putPort {v : Port} (h : SamePorts view s t) (hv : view v = view (portOf t p)) :
    SamePorts view s (Machine.putPort p v t) := by
  intro i
  rw [portOf_putPort]
  split
  · next e => rw [hv, e, ← h p]
  · exact h i

/-! ### Registers, memory and errors -/

theorem rput {k : Nat} {w : Word} (h : SamePorts view s t) : SamePorts view s (Machine.rput k w t) := h.frame rfl

theorem rfput {k v : Nat} {f : Fld} (h : SamePorts view s t) : SamePorts view s (Machine.rfput k f v t) := h.rput

theorem rfsat {k n : Nat} {f : Fld} (h : SamePorts view s t) : SamePorts view s (Machine.rfsat k f n t) := h.rfput

theorem rfadd {k n : Nat} {f : Fld} (h : SamePorts view s t) : SamePorts view s (Machine.rfadd k f n t) := h.rfput

theorem countErr {st : Status} {src phys addr : Nat} (h : SamePorts view s t) :
    SamePorts view s (Machine.countErr st src phys addr t) := h.rfsat.rput.rput

theorem taint {st : Status} {a : Word} (h : SamePorts view s t) : SamePorts view s (Machine.taint st a t) := h.frame rfl

theorem putArr {k : Nat} {v : CArray} (h : SamePorts view s t) : SamePorts view s (Machine.putArr k v t) := h.frame rfl

theorem putMemArr {a : Nat} {v : MemArr} (h : SamePorts view s t) : SamePorts view s (Machine.putMemArr p a v t) :=
  h.frame rfl

theorem setTag {k : Nat} {b : Bool} (h : SamePorts view s t) : SamePorts view s (Machine.setTag k b t) := h.frame rfl

theorem putLog {v : ParityLog} (h : SamePorts view s t) : SamePorts view s (Machine.putLog p v t) := h.frame rfl

theorem writeBytes {k : Nat} {bs : List Byte} (h : SamePorts view s t) : SamePorts view s (Machine.writeBytes k bs t) := by
  obtain ⟨m, x, e⟩ := writeBytes_frame k bs t
  rw [e]
  exact h.frame rfl

theorem sramCorrected {a c : Nat} (h : SamePorts view s t) : SamePorts view s (Machine.sramCorrected p a c t) :=
  holds_ite h (holds_ite h.rfsat h.rfsat)

theorem slotUsed {a n : Nat} {consumed : Bool} (h : SamePorts view s t) :
    SamePorts view s (Machine.slotUsed p a n consumed t) :=
  holds_ite h (holds_ite (holds_ite h.putMemArr h) (putArr (putArr h)))

theorem tallyBump {x : Bool × Nat × Nat} {n : Nat} (h : SamePorts view s t) : SamePorts view s (Machine.tallyBump x n t) :=
  h.rput.rfadd

theorem lsHeaderCame {i a : Nat} (h : SamePorts view s t) : SamePorts view s (Machine.lsHeaderCame i a t) :=
  holds_ite (h.frame rfl) h

theorem watchCount {watches : List Watch} {pieces : List (Nat × Nat × Bool)} (h : SamePorts view s t) :
    SamePorts view s (Machine.watchCount p watches pieces t) := by
  refine holds_foldl h fun u x hu => holds_ite hu (holds_ite ?_ (holds_ite hu hu.tallyBump))
  split
  · exact holds_ite hu.tallyBump.lsHeaderCame hu
  · exact hu

/-! ### Reports -/

section
variable (hview : Aside view)
include hview

theorem raiseIrq {v : Nat} (h : SamePorts view s t) : SamePorts view s (Machine.raiseIrq p v t) :=
  h.putPort (hview _ _ _)

theorem eventCopy {r : Report} (h : SamePorts view s t) : SamePorts view s (Machine.eventCopy r p t) := by
  have hwrite : ∀ a bs, SamePorts view s (hostWrite a bs t) := fun _ _ => h.frame rfl
  have hput : ∀ (u : State) e, SamePorts view s u → u.ports = t.ports →
      SamePorts view s (Machine.putPort p { portOf t p with evq := e } u) := fun u e hu e' =>
    hu.putPort ((hview _ _ _).trans (by rw [portOf, portOf, e']))
  exact holds_ite h (holds_ite (hput _ _ h rfl).rfsat
    (holds_ite ((hput _ _ (hwrite _ _) rfl).raiseIrq hview) (hput _ _ (hwrite _ _) rfl)))

theorem report {st : Status} {b : Bool} {src : Nat} {loc a : Word} {data : List Byte} (h : SamePorts view s t) :
    SamePorts view s (Machine.report st b src loc a data t) :=
  eventCopy hview (eventCopy hview (eventCopy hview (eventCopy hview (h.frame rfl))))

theorem journal {sl off : Nat} {old new : List Byte} (h : SamePorts view s t) :
    SamePorts view s (Machine.journal p sl off old new t) :=
  holds_ite h (holds_ite (h.putLog.report hview) h.putLog)

theorem dramWrite {sl off addr : Nat} {bs : List Byte} (h : SamePorts view s t) :
    SamePorts view s (Machine.dramWrite p sl off addr bs t) :=
  holds_ite (h.writeBytes.journal hview) h.writeBytes

theorem dramUncorrectable {sl off : Nat} (h : SamePorts view s t) :
    SamePorts view s (Machine.dramUncorrectable p sl off t) :=
  report hview (taint (rfsat (holds_ite h.rfput h)))

theorem sramUncorrectable {a off : Nat} (h : SamePorts view s t) :
    SamePorts view s (Machine.sramUncorrectable p a off t) :=
  report hview (taint (holds_ite (holds_ite h h.rfput.rfput) (holds_ite h h.rfput.rfput)))

/-- The end of a read is named before the cases: the kernel would evaluate the address in a projection of it. -/
theorem dramRead {sl off n : Nat} (h : SamePorts view s t) : SamePorts view s (Machine.dramRead p sl off n t).2 := by
  obtain ⟨x, hx⟩ : ∃ x, Machine.dramRead p sl off n t = x := ⟨_, rfl⟩
  rw [hx]
  refine SameMem.of_def (f := Machine.dramRead) (P := fun f => f p sl off n t = x → SamePorts view s x.2)
    (by delta Machine.dramRead; exact rfl) ?_ hx
  beta_reduce
  generalize readBytes t (dramKey p sl off) n = y
  rcases y with k | ⟨bs, c⟩
  · rintro rfl
    exact h.dramUncorrectable hview
  · have hcount : SamePorts view s (if c = 0 then t else Machine.rfsat (DslEcc.key p sl) DslEcc.corrected c t) :=
      holds_ite h h.rfsat
    rintro rfl
    exact holds_ite_snd (hcount.frame rfl) hcount

theorem slotRead {a off n form : Nat} (h : SamePorts view s t) :
    SamePorts view s (Machine.slotRead p a off n form t).2 :=
  holds_ite_snd h (holds_ite_snd h (by
    split
    · exact h.sramUncorrectable hview
    · exact holds_ite h.sramCorrected.setTag h.sramCorrected))

theorem slotWrite {a off form : Nat} {bs : List Byte} (h : SamePorts view s t) :
    SamePorts view s (Machine.slotWrite p a off form bs t).2 :=
  holds_ite_snd h (holds_ite_snd h (holds_ite_snd h (by
    split
    · exact h.sramUncorrectable hview
    · exact holds_ite h.writeBytes h.writeBytes.setTag)))

theorem extRead {a off n form : Nat} (h : SamePorts view s t) :
    SamePorts view s (Machine.extRead p a off n form t).2 := by
  have hr := h.slotRead hview (p := p) (a := a) (off := off) (n := n) (form := form)
  refine holds_ite_snd h ?_
  split
  · next e => exact (holds_of_eq hr e).slotUsed
  · exact hr

theorem extWrite {a off form : Nat} {bs : List Byte} (h : SamePorts view s t) :
    SamePorts view s (Machine.extWrite p a off form bs t).2 := by
  have hw := h.slotWrite hview (p := p) (a := a) (off := off) (form := form) (bs := bs)
  refine holds_ite_snd h ?_
  split
  · next e => exact (holds_of_eq hw e).slotUsed
  · exact hw

/-! ### The slot accesses of a request (R341, R343) -/

theorem pieceFails {st : Status} {x : Piece} (h : SamePorts view s t) :
    SamePorts view s (Machine.pieceFails p st x t).2 :=
  report hview (holds_ite h.countErr h)

theorem doPiece {write : Bool} {x : Piece} (h : SamePorts view s t) :
    SamePorts view s (Machine.doPiece p write x t).2 := by
  have hfail : ∀ {st : Status} {u : State}, SamePorts view s u → SamePorts view s (Machine.pieceFails p st x u).2 :=
    fun hu => hu.pieceFails hview
  unfold Machine.doPiece
  extract_lets place
  refine holds_ite_snd h (holds_ite_snd (hfail h) (holds_ite_snd (hfail h) ?_))
  clear_value place
  rcases place with ⟨q, sl, off⟩ | ⟨q, a, off⟩ | st
  · refine holds_ite_snd (holds_ite_snd (hfail h) ?_) ?_
    · split
      · exact h.dramUncorrectable hview
      · exact h.dramWrite hview
    · have hr := h.dramRead hview (p := q) (sl := sl) (off := off) (n := x.len)
      split
      · next e => exact holds_of_eq hr e
      · next e => exact holds_of_eq hr e
  · dsimp only
    have hend : SamePorts view s (if write = true then
        Machine.extWrite q a off (if inUntagged t q a (off / 64) = true then 2 else 1) x.data t
        else Machine.extRead q a off x.len 2 t).2 :=
      holds_ite_snd (h.extWrite hview) (h.extRead hview)
    split
    · next e => exact holds_of_eq hend e
    · next e => exact holds_of_eq hend e
    · next e => exact hfail (holds_of_eq hend e)
  · exact hfail h

theorem doPieces {write : Bool} {xs : List Piece} (h : SamePorts view s t) :
    SamePorts view s (Machine.doPieces p write xs t).2 := by
  induction xs generalizing t with
  | nil => exact h
  | cons x xs ih => exact ih (h.doPiece hview)

end

end SamePorts

end Sys2Proof.Proofs
end

section
/-!
PROOFS. The requests of hosts and peers at a port (R340 to R343): a request keeps its number, and is waiting under it or
answered, whatever runs after it; and one that lies within a slot of DRAM that can be reached is answered at once.
-/

namespace Sys2Proof.Proofs

open Sys2Proof.Machine Sys2Proof.Laws

/-! ### A request keeps its number (R341, R343) -/

/-- What the numbering of a port's requests looks at. -/
def reqView (q : Port) : List PortReq × List PortReq × Nat := (q.reqs, q.answers, q.nextId)

theorem aside_reqView : Aside reqView := fun _ _ _ => rfl

/-- The request of number id, which writes or reads as w says, waits or has been answered; every request that waits under
its number is of its kind, and no later request takes the number. -/
structure Taken (p id : Nat) (w : Bool) (s : State) : Prop where
  later : id < (portOf s p).nextId
  kind : ∀ r ∈ (portOf s p).reqs, r.id = id → r.write = w
  held : ∃ r, (r ∈ (portOf s p).reqs ∨ r ∈ (portOf s p).answers) ∧ r.id = id ∧ r.write = w

/-- Where a request stands once it is settled: it waits in place of those of its number, or is answered (R343). -/
theorem settleReq_cases (p : Nat) (r : PortReq) (s : State) :
    (portOf (settleReq p r s) p).nextId = (portOf s p).nextId ∧
    ((r.pieces.any (fun x => x.st = 0) = true ∧ (portOf (settleReq p r s) p).answers = (portOf s p).answers ∧
        (portOf (settleReq p r s) p).reqs = if (portOf s p).reqs.any (fun y => y.id = r.id)
          then (portOf s p).reqs.map (fun y => if y.id = r.id then r else y) else (portOf s p).reqs ++ [r]) ∨
      (r.pieces.any (fun x => x.st = 0) = false ∧ (portOf (settleReq p r s) p).answers = (portOf s p).answers ++ [r] ∧
        (portOf (settleReq p r s) p).reqs = (portOf s p).reqs.filter (fun y => y.id ≠ r.id))) := by
  unfold settleReq
  split
  · next h =>
    refine ⟨?_, .inl ⟨h, ?_, ?_⟩⟩
    · rw [portOf_putPort_self]
    · rw [portOf_putPort_self]
    · rw [portOf_putPort_self]
  · next h =>
    extract_lets s1 q
    have hsame : SamePorts reqView s s1 := holds_ite (holds_ite (.refl s) (.watchCount (.refl s)))
      (holds_ite (.rfsat (.refl s)) (.refl s))
    obtain ⟨hreqs, hanswers, hid⟩ : q.reqs = (portOf s p).reqs ∧ q.answers = (portOf s p).answers ∧
        q.nextId = (portOf s p).nextId := by simpa [reqView] using hsame p
    rw [portOf_putPort_self]
    exact ⟨hid, .inr ⟨by simpa using h, by rw [hanswers], by rw [hreqs]⟩⟩

namespace Taken

variable {p id : Nat} {w : Bool} {s t : State}

theorem ports (h : Taken p id w s) (k : SamePorts reqView s t) : Taken p id w t := by
  obtain ⟨hreqs, hanswers, hid⟩ : (portOf t p).reqs = (portOf s p).reqs ∧ (portOf t p).answers = (portOf s p).answers ∧
      (portOf t p).nextId = (portOf s p).nextId := by simpa [reqView] using k p
  exact ⟨hid ▸ h.later, hreqs ▸ h.kind, by rw [hreqs, hanswers]; exact h.held⟩

/-- To settle a request takes its number. -/
theorem of_settleReq {r : PortReq} (hlater : r.id < (portOf s p).nextId) : Taken p r.id r.write (settleReq p r s) := by
  obtain ⟨hid, ⟨-, -, hreqs⟩ | ⟨-, hanswers, hreqs⟩⟩ := settleReq_cases p r s
  · have hmem : ∀ y ∈ (portOf (settleReq p r s) p).reqs, y = r ∨ y.id ≠ r.id := by
      rw [hreqs]
      split
      · intro y hy
        obtain ⟨z, -, rfl⟩ := List.mem_map.1 hy
        split
        · exact .inl rfl
        · next hne => exact .inr hne
      · next hnone =>
        intro y hy
        rcases List.mem_append.1 hy with hy | hy
        · exact .inr fun e => hnone (List.any_eq_true.2 ⟨y, hy, decide_eq_true e⟩)
        · exact .inl (List.mem_singleton.1 hy)
    have hr : r ∈ (portOf (settleReq p r s) p).reqs := by
      rw [hreqs]
      split
      · next hany =>
        obtain ⟨y, hy, e⟩ := List.any_eq_true.1 hany
        exact List.mem_map.2 ⟨y, hy, if_pos (of_decide_eq_true e)⟩
      · exact List.mem_append_right _ (List.mem_singleton_self r)
    refine ⟨hid ▸ hlater, fun y hy e => ?_, r, .inl hr, rfl, rfl⟩
    rcases hmem y hy with rfl | hne
    · rfl
    · exact absurd e hne
  · refine ⟨hid ▸ hlater, fun y hy e => ?_, r, .inr ?_, rfl, rfl⟩
    · rw [hreqs] at hy
      exact absurd e (by simpa using (List.mem_filter.1 hy).2)
    · rw [hanswers]
      exact List.mem_append_right _ (List.mem_singleton_self r)

/-- To settle a request of another number, or one of its kind, leaves it taken. -/
theorem settleReq {r : PortReq} (h : Taken p id w s) (hr : r.id = id → r.write = w) :
    Taken p id w (Machine.settleReq p r s) := by
  by_cases hid : r.id = id
  · rw [← hid, ← hr hid]
    exact of_settleReq (hid ▸ h.later)
  · obtain ⟨hnext, hcases⟩ := settleReq_cases p r s
    have hmem : ∀ y, y.id = id → (y ∈ (portOf (Machine.settleReq p r s) p).reqs ↔ y ∈ (portOf s p).reqs) := by
      intro y hy
      obtain ⟨-, -, hreqs⟩ | ⟨-, -, hreqs⟩ := hcases
      · rw [hreqs]
        split
        · constructor
          · intro hmem
            obtain ⟨z, hz, e⟩ := List.mem_map.1 hmem
            split at e
            · exact absurd (e ▸ hy) hid
            · exact e ▸ hz
          · intro hmem
            exact List.mem_map.2 ⟨y, hmem, if_neg fun e => hid (e.symm.trans hy)⟩
        · simp only [List.mem_append, List.mem_singleton]
          exact or_iff_left fun e => hid (e ▸ hy)
      · rw [hreqs]
        simp only [List.mem_filter]
        exact and_iff_left (decide_eq_true fun e => hid (e.symm.trans hy))
    have hans : ∀ y ∈ (portOf s p).answers, y ∈ (portOf (Machine.settleReq p r s) p).answers := by
      intro y hy
      obtain ⟨-, hanswers, -⟩ | ⟨-, hanswers, -⟩ := hcases
      · rw [hanswers]
        exact hy
      · rw [hanswers]
        exact List.mem_append_left _ hy
    obtain ⟨y, hwhere, hy, hw⟩ := h.held
    exact ⟨hnext ▸ h.later, fun z hz e => h.kind z ((hmem z e).1 hz) e, y,
      hwhere.imp (hmem y hy).2 (hans y), hy, hw⟩

/-- Held slot accesses are tried again for requests that waited, each of its number's kind. -/
theorem retryReqs (h : Taken p id w s) : Taken p id w (Machine.retryReqs p s) := by
  refine (portOf s p).reqs.foldlRecOn _ h fun u hu r hr => holds_ite ?_ hu
  have htried : SamePorts reqView u (r.pieces.foldl (fun (acc, s) x =>
      if x.st = 0 && !stillHeld s r.write x then
        let (y, s) := doPiece p r.write x s
        (acc ++ [y], s)
      else (acc ++ [x], s)) (([] : List Piece), u)).2 :=
    holds_foldl_of (P := SamePorts reqView u) Prod.snd (.refl u) fun y x hy =>
      holds_ite_snd (hy.doPiece aside_reqView) hy
  exact (hu.ports htried).settleReq fun e => h.kind r hr e

theorem doRequest {write : Bool} {hpa n grant : Nat} {data : List Byte} (h : Taken p id w s) :
    Taken p id w (Machine.doRequest p write hpa n grant data s) := by
  unfold Machine.doRequest
  extract_lets next ps r q s1
  have hlater : id < next := h.later
  have h1 : Taken p id w s1 := by
    refine ⟨?_, ?_, ?_⟩
    · rw [portOf_putPort_self]
      exact Nat.lt_succ_of_lt hlater
    · rw [portOf_putPort_self]
      exact h.kind
    · rw [portOf_putPort_self]
      exact h.held
  exact ((h1.ports ((SamePorts.refl s1).doPieces aside_reqView)).settleReq fun e => absurd e hlater.ne').retryReqs

end Taken

theorem taken_doRequest (p : Nat) (write : Bool) (hpa n grant : Nat) (data : List Byte) (s : State) :
    Taken p (portOf s p).nextId write (doRequest p write hpa n grant data s) := by
  unfold doRequest
  extract_lets id ps r q s1
  have hnext : (portOf s1 p).nextId = id + 1 := by rw [portOf_putPort_self]
  have hsame : SamePorts reqView s1 (doPieces p write ps s1).2 := (SamePorts.refl s1).doPieces aside_reqView
  refine (Taken.of_settleReq (r := { r with pieces := (doPieces p write ps s1).1 }) ?_).retryReqs
  have hid : (portOf (doPieces p write ps s1).2 p).nextId = (portOf s1 p).nextId := congrArg (fun x => x.2.2) (hsame p)
  rw [hid, hnext]
  exact Nat.lt_succ_self id

namespace Taken

variable {p id : Nat} {w : Bool} {s : State}

theorem putPort {v : Port} (h : Taken p id w s) (hv : reqView v = reqView (portOf s p)) :
    Taken p id w (Machine.putPort p v s) := h.ports ((SamePorts.refl s).putPort hv)

theorem evictLine {returned : List (BitVec 52 × BitVec 512)} (h : Taken p id w s) :
    Taken p id w (Machine.evictLine p returned s) := by
  unfold Machine.evictLine
  split
  · exact h
  · extract_lets q s1
    have h1 : Taken p id w s1 := h.putPort rfl
    split
    · exact holds_ite h1.doRequest h1
    · exact h1

theorem grantLine {returned : List (BitVec 52 × BitVec 512)} {modify : Bool} {line : Nat} (h : Taken p id w s) :
    Taken p id w (Machine.grantLine p returned modify line s) :=
  putPort (holds_ite h h.evictLine) rfl

end Taken

/-- A CXL.mem request takes the port's next number (R341, R342). -/
theorem taken_doCxlMem {p : Nat} {s : State} (hup : (portOf s p).linkUp = true) (write : Bool) (hpa asked : Nat)
    (data : List Byte) (n : Nat) (returned : List (BitVec 52 × BitVec 512)) :
    Taken p (portOf s p).nextId write (doCxlMem p write hpa asked data n returned s) := by
  unfold doCxlMem
  rw [hup, if_neg (by decide)]
  extract_lets g s1
  have h1 : Taken p (portOf s p).nextId write s1 := taken_doRequest ..
  exact holds_ite h1 (holds_foldl h1 fun _ _ h => h.grantLine)

theorem doUio_of_up {p : Nat} {s : State} (hup : (portOf s p).linkUp = true) (hide : ideMissing s p = false)
    (write : Bool) (hpa n : Nat) (data : List Byte) : doUio p write hpa n data s = doRequest p write hpa n 0 data s := by
  unfold doUio
  rw [hup, if_neg (by decide), hide, if_neg Bool.false_ne_true]

theorem taken_doUio {p : Nat} {s : State} (hup : (portOf s p).linkUp = true) (hide : ideMissing s p = false)
    (write : Bool) (hpa n : Nat) (data : List Byte) : Taken p (portOf s p).nextId write (doUio p write hpa n data s) := by
  rw [doUio_of_up hup hide]
  exact taken_doRequest ..

end Sys2Proof.Proofs
end

section
/-!
PROOFS. A request that lies within one 64-byte slot of DRAM that can be reached is answered in the same step (R341, O39).
-/

namespace Sys2Proof.Proofs

open Sys2Proof.Machine Sys2Proof.Laws

/-! ### One slot -/

theorem slotsOf_of_oneSlot {a n : Nat} (hn : 0 < n) (hfit : a % 64 + n ≤ 64) : slotsOf a n = [(a, n)] := by
  have hone : (a % 64 + n + 63) / 64 = 1 := by omega
  have hroom : n ≤ 64 - a % 64 := by omega
  unfold slotsOf spanPieces
  dsimp only
  rw [hone]
  simpa using hroom

/-! ### Reading the same memory -/

theorem readWord_of_sameMem {s t : State} (h : SameMem s t) (k : Nat) : readWord t k = readWord s k := by
  rw [readWord, h.mem, h.upset, readWord]

theorem readWords_of_sameMem {s t : State} (h : SameMem s t) (n : Nat) : ∀ w, readWords t w n = readWords s w n := by
  induction n with
  | zero => intro w; rw [readWords, readWords]
  | succ n ih => intro w; rw [readWords, readWords, readWord_of_sameMem h, ih]

theorem readBytes_of_sameMem {s t : State} (h : SameMem s t) (k n : Nat) : readBytes t k n = readBytes s k n := by
  rw [readBytes, readBytes, readWords_of_sameMem h]

theorem length_readWords {s : State} {n : Nat} : ∀ {w : Nat} {ds : List Word} {c : Nat}, readWords s w n = .ok (ds, c) →
    ds.length = n := by
  induction n with
  | zero =>
    intro w ds c h
    rw [readWords] at h
    cases h
    rfl
  | succ n ih =>
    intro w ds c h
    rw [readWords] at h
    split at h
    · cases h
    · split at h
      · cases h
      · next hrest =>
        cases h
        rw [List.length_cons, ih hrest]

theorem length_readBytes {s : State} {k n : Nat} {bs : List Byte} {c : Nat} (h : readBytes s k n = .ok (bs, c)) :
    bs.length = n := by
  unfold readBytes at h
  dsimp only at h
  generalize hw : readWords s (k / 8) ((k + n + 7) / 8 - k / 8) = r at h
  cases r with
  | error => cases h
  | ok y =>
    obtain ⟨ds, m⟩ := y
    cases h
    simp only [List.length_take, List.length_drop, List.length_flatMap, length_bytesLE, List.map_const',
      List.sum_replicate, length_readWords hw, smul_eq_mul]
    omega

/-- The bytes that a read of DRAM gives: those that stand there, or free values in the log and mirror bands (log entry 46). -/
theorem dramRead_fst (q sl off n : Nat) (s : State) : (dramRead q sl off n s).1 =
    match readBytes s (dramKey q sl off) n with
    | .ok (bs, _) => some (if inLogBand s sl off then freeBytes s.freeCtr n else bs)
    | .error _ => none := by
  obtain ⟨x, hx⟩ : ∃ x, dramRead q sl off n s = x := ⟨_, rfl⟩
  rw [hx]
  refine SameMem.of_def (f := dramRead) (P := fun f => f q sl off n s = x → x.1 =
      match readBytes s (dramKey q sl off) n with
      | .ok (bs, _) => some (if inLogBand s sl off then freeBytes s.freeCtr n else bs)
      | .error _ => none) (by delta dramRead; exact rfl) ?_ hx
  beta_reduce
  generalize readBytes s (dramKey q sl off) n = y
  rcases y with k | ⟨bs, c⟩
  · rintro rfl
    rfl
  · dsimp only
    generalize hu : (if c = 0 then s else rfsat (DslEcc.key q sl) DslEcc.corrected c s) = u
    have himage : u.image = s.image := by
      rw [← hu]
      split
      · rfl
      · exact rfsat_image ..
    have hfree : u.freeCtr = s.freeCtr := by
      rw [← hu]
      split
      · rfl
      · exact rfsat_freeCtr ..
    have hband : inLogBand u sl off = inLogBand s sl off := by rw [inLogBand, inLogBand, himage]
    rw [hband, hfree]
    rintro rfl
    split
    · rfl
    · rfl

theorem length_dramRead {q sl off n : Nat} {s : State} {bs : List Byte} (h : (dramRead q sl off n s).1 = some bs) :
    bs.length = n := by
  rw [dramRead_fst] at h
  generalize hr : readBytes s (dramKey q sl off) n = r at h
  rcases r with k | ⟨raw, c⟩
  · cases h
  · have hlen : raw.length = n := length_readBytes hr
    dsimp only at h
    cases h
    split
    · simp [freeBytes]
    · exact hlen

/-! ### The state in which a request has its number -/

/-- The port's next number is taken. -/
def numbered (p : Nat) (s : State) : State := putPort p { portOf s p with nextId := (portOf s p).nextId + 1 } s

theorem sameMem_numbered (p : Nat) (s : State) : SameMem s (numbered p s) := ⟨rfl, rfl⟩

theorem reqs_numbered (p : Nat) (s : State) : (portOf (numbered p s) p).reqs = (portOf s p).reqs := by
  rw [numbered, portOf_putPort_self]

theorem answers_numbered (p : Nat) (s : State) : (portOf (numbered p s) p).answers = (portOf s p).answers := by
  rw [numbered, portOf_putPort_self]

theorem lines_numbered (p : Nat) (s : State) : (portOf (numbered p s) p).lines = (portOf s p).lines := by
  rw [numbered, portOf_putPort_self]

theorem hopsIn_numbered (p : Nat) (s : State) (dst f : Nat) : ∀ n front seen,
    hopsIn (numbered p s) dst f n front seen = hopsIn s dst f n front seen := by
  have hnbrs : routerNbrs (numbered p s) = routerNbrs s := rfl
  induction f with
  | zero => intro n front seen; rw [hopsIn, hopsIn]
  | succ f ih => intro n front seen; rw [hopsIn, hopsIn, hnbrs]; simp only [ih]

theorem crescentReaches_numbered (p : Nat) (s : State) (i dst : Nat) :
    crescentReaches (numbered p s) i dst = crescentReaches s i dst := by
  have hseams : crescentSeams (numbered p s) i = crescentSeams s i := rfl
  rw [crescentReaches, hopsIn_numbered, hseams, crescentReaches]

theorem portReach_numbered (p : Nat) (s : State) (i : Nat) (x : Place) :
    portReach (numbered p s) i x = portReach s i x := by
  cases x with
  | dram => exact crescentReaches_numbered ..
  | sram => exact crescentReaches_numbered ..
  | bad => rfl

theorem placeOf_numbered (p : Nat) (s : State) (a n : Nat) : placeOf (numbered p s) a n = placeOf s a n := rfl

theorem dramWritable_numbered (p : Nat) (s : State) (a off : Nat) :
    dramWritable (numbered p s) a off = dramWritable s a off := rfl

theorem mergeFault_numbered (p : Nat) (s : State) (k n : Nat) : mergeFault (numbered p s) k n = mergeFault s k n := rfl

theorem dramRead_numbered (p : Nat) (s : State) (q sl off n : Nat) :
    (dramRead q sl off n (numbered p s)).1 = (dramRead q sl off n s).1 := by
  have hband : inLogBand (numbered p s) sl off = inLogBand s sl off := rfl
  have hfree : (numbered p s).freeCtr = s.freeCtr := rfl
  rw [dramRead_fst, dramRead_fst, readBytes_of_sameMem (sameMem_numbered p s), hband, hfree]

/-! ### A request of one slot access that is answered -/

theorem aside_lines : Aside Port.lines := fun _ _ _ => rfl

/-- The request's one slot access, as it is first tried. -/
def firstPiece (s : State) (p : Nat) (write : Bool) (hpa n : Nat) (data : List Byte) : Piece :=
  ⟨pieceAddr s p hpa, n, if write then data.take n else [], 0⟩

/-- A request that was answered by r after the accesses that ended in u: the lines that the port holds are as in s. -/
structure Answered (p : Nat) (r : PortReq) (s u t : State) : Prop where
  answers : (portOf t p).answers = (portOf s p).answers ++ [r]
  lines : (portOf t p).lines = (portOf s p).lines
  mem : SameMem u t

theorem sameMem_lsHeaderCame {i a : Nat} {s t : State} (h : SameMem s t) : SameMem s (lsHeaderCame i a t) :=
  .ite h.setLsOn h

theorem sameMem_watchCount (p : Nat) (ws : List Watch) (xs : List (Nat × Nat × Bool)) (s : State) :
    SameMem s (watchCount p ws xs s) :=
  .foldl (.refl s) fun _ _ h => .ite h (.ite (by
    split
    · exact SameMem.ite (sameMem_lsHeaderCame h.tallyBump) h
    · exact h) (.ite h h.tallyBump))

theorem retryReqs_of_nil {p : Nat} {s : State} (h : (portOf s p).reqs = []) : retryReqs p s = s := by
  rw [retryReqs, h, List.foldl_nil]

/-- A request with no slot access left to do is answered, and the requests that wait do not change (R343). -/
theorem settleReq_of_done {p : Nat} {r : PortReq} {s : State} (hdone : r.pieces.any (fun x => x.st = 0) = false) :
    (portOf (settleReq p r s) p).answers = (portOf s p).answers ++ [r] ∧
    (portOf (settleReq p r s) p).reqs = (portOf s p).reqs.filter (fun y => y.id ≠ r.id) ∧
    (portOf (settleReq p r s) p).lines = (portOf s p).lines ∧ SameMem s (settleReq p r s) := by
  obtain ⟨-, ⟨hst, -⟩ | ⟨-, hanswers, hreqs⟩⟩ := settleReq_cases p r s
  · rw [hst] at hdone
    cases hdone
  · refine ⟨hanswers, hreqs, ?_, ?_⟩
    · unfold settleReq
      rw [if_neg (ne_true_of_eq_false hdone)]
      extract_lets s1 q
      have hsame : SamePorts Port.lines s s1 := holds_ite (holds_ite (.refl s) (.watchCount (.refl s)))
        (holds_ite (.rfsat (.refl s)) (.refl s))
      rw [portOf_putPort_self]
      exact hsame p
    · unfold settleReq
      rw [if_neg (ne_true_of_eq_false hdone)]
      exact .putPort (.ite (.ite (.refl s) (sameMem_watchCount ..)) (.ite (.rfsat (.refl s)) (.refl s)))

theorem doPieces_singleton (p : Nat) (write : Bool) (x : Piece) (s : State) :
    doPieces p write [x] s = ([(doPiece p write x s).1], (doPiece p write x s).2) := by
  rw [doPieces]
  generalize doPiece p write x s = y
  obtain ⟨y, u⟩ := y
  dsimp only
  rw [doPieces]

/-- The request's slot accesses, as they are first tried. -/
def firstPieces (s : State) (p : Nat) (write : Bool) (hpa n : Nat) (data : List Byte) : List Piece :=
  (slotsOf hpa n).map (fun (a, k) => ⟨pieceAddr s p a, k, if write then (data.drop (a - hpa)).take k else [], 0⟩)

theorem firstPieces_of_oneSlot (s : State) (p : Nat) (write : Bool) {hpa n : Nat} (data : List Byte) (hn : 0 < n)
    (hfit : hpa % 64 + n ≤ 64) : firstPieces s p write hpa n data = [firstPiece s p write hpa n data] := by
  rw [firstPieces, slotsOf_of_oneSlot hn hfit, List.map_singleton]
  dsimp only
  rw [Nat.sub_self, List.drop_zero, firstPiece]

/-- The request when its slot accesses have been tried. -/
def triedReq (s : State) (p : Nat) (write : Bool) (grant : Nat) (ps : List Piece) : PortReq :=
  ⟨(portOf s p).nextId, write, ps, watchesOn s, grant⟩

theorem doRequest_eq (p : Nat) (write : Bool) (hpa n grant : Nat) (data : List Byte) (s : State) :
    doRequest p write hpa n grant data s =
      retryReqs p (settleReq p
        (triedReq s p write grant (doPieces p write (firstPieces s p write hpa n data) (numbered p s)).1)
        (doPieces p write (firstPieces s p write hpa n data) (numbered p s)).2) := by
  rw [doRequest, firstPieces, numbered]
  generalize doPieces p write _ _ = x
  obtain ⟨ps, u⟩ := x
  dsimp only
  rw [triedReq]


theorem answered_doRequest {p hpa n grant : Nat} {write : Bool} {data : List Byte} {s u : State} {y : Piece}
    (hreqs : (portOf s p).reqs = []) (hn : 0 < n) (hfit : hpa % 64 + n ≤ 64)
    (hdo : doPiece p write (firstPiece s p write hpa n data) (numbered p s) = (y, u)) (hy : y.st = 1) :
    Answered p (triedReq s p write grant [y]) s u (doRequest p write hpa n grant data s) := by
  rw [doRequest_eq, firstPieces_of_oneSlot s p write data hn hfit, doPieces_singleton]
  have hports : SamePorts reqView (numbered p s) (doPiece p write (firstPiece s p write hpa n data) (numbered p s)).2 :=
    (SamePorts.refl _).doPiece aside_reqView
  have hlines : SamePorts Port.lines (numbered p s)
    (doPiece p write (firstPiece s p write hpa n data) (numbered p s)).2 := (SamePorts.refl _).doPiece aside_lines
  rw [hdo] at hports hlines ⊢
  obtain ⟨hreqs', hanswers', -⟩ : (portOf u p).reqs = (portOf (numbered p s) p).reqs ∧
      (portOf u p).answers = (portOf (numbered p s) p).answers ∧
      (portOf u p).nextId = (portOf (numbered p s) p).nextId := by simpa [reqView] using hports p
  obtain ⟨hanswers, hreqs1, hlines1, hmem⟩ := settleReq_of_done (p := p) (r := triedReq s p write grant [y]) (s := u)
    (by simp [triedReq, hy])
  rw [hreqs', reqs_numbered, hreqs, List.filter_nil] at hreqs1
  rw [retryReqs_of_nil hreqs1]
  exact ⟨by rw [hanswers, hanswers', answers_numbered], by rw [hlines1, hlines p, lines_numbered], hmem⟩

/-- A read of DRAM that can be reached ends at once with the bytes that stand there (R341). -/
theorem doPiece_dramRead {p q sl off : Nat} {x : Piece} {s : State} {bs : List Byte} (hst : x.st = 0)
    (haddr : x.addr < 2 ^ 52) (hplace : placeOf s x.addr x.len = .dram q sl off)
    (hreach : portReach s p (.dram q sl off) = true) (hread : (dramRead q sl off x.len s).1 = some bs) :
    doPiece p false x s = ({ x with st := 1, data := bs }, (dramRead q sl off x.len s).2) := by
  unfold doPiece
  dsimp only
  rw [if_neg (not_not.2 hst), if_neg (Nat.not_le.2 haddr), hplace, hreach, if_neg (by decide)]
  dsimp only
  rw [if_neg Bool.false_ne_true]
  generalize dramRead q sl off x.len s = r at hread ⊢
  obtain ⟨r, u⟩ := r
  obtain rfl : r = some bs := hread
  rfl

/-- A write of DRAM that can be reached and written ends at once (R341). -/
theorem doPiece_dramWrite {p q sl off : Nat} {x : Piece} {s : State} (hst : x.st = 0)
    (haddr : x.addr < 2 ^ 52) (hplace : placeOf s x.addr x.len = .dram q sl off)
    (hreach : portReach s p (.dram q sl off) = true) (hwritable : dramWritable s x.addr off = true)
    (hmerge : mergeFault s (dramKey q sl off) x.len = none) :
    doPiece p true x s = ({ x with st := 1 }, dramWrite q sl off x.addr x.data s) := by
  unfold doPiece
  dsimp only
  rw [if_neg (not_not.2 hst), if_neg (Nat.not_le.2 haddr), hplace, hreach, if_neg (by decide)]
  dsimp only
  rw [if_pos rfl, hwritable, if_neg (by decide), hmerge]

/-! ### The answer (O39) -/

/-- What a request within one slot of reachable DRAM rests on: the port's decoders give a device address, the port's side of
the crescent reaches the stand that holds it, and no other request waits. -/
structure OneSlot (s : State) (p hpa n q sl off : Nat) : Prop where
  pos : 0 < n
  fits : hpa % 64 + n ≤ 64
  addr : pieceAddr s p hpa < 2 ^ 52
  place : placeOf s (pieceAddr s p hpa) n = .dram q sl off
  reach : portReach s p (.dram q sl off) = true
  alone : (portOf s p).reqs = []

/-- The port has answered, and holds the lines that it held. -/
structure AnsweredWith (p : Nat) (r : PortReq) (s t : State) : Prop where
  answers : (portOf t p).answers = (portOf s p).answers ++ [r]
  lines : (portOf t p).lines = (portOf s p).lines

namespace OneSlot

variable {s : State} {p hpa n q sl off : Nat}

theorem doRequest_read (h : OneSlot s p hpa n q sl off) {bs : List Byte} (hread : (dramRead q sl off n s).1 = some bs)
    (grant : Nat) (data : List Byte) :
    AnsweredWith p (triedReq s p false grant [⟨pieceAddr s p hpa, bs.length, bs, 1⟩]) s
      (doRequest p false hpa n grant data s) ∧ (doRequest p false hpa n grant data s).mem = s.mem := by
  have hdo := doPiece_dramRead (p := p) (x := firstPiece s p false hpa n data) (s := numbered p s) (bs := bs) rfl h.addr
    ((placeOf_numbered ..).trans h.place) ((portReach_numbered ..).trans h.reach) ((dramRead_numbered ..).trans hread)
  obtain ⟨hanswers, hlines, hmem⟩ := answered_doRequest (grant := grant) h.alone h.pos h.fits hdo rfl
  have hsame : SameMem s (dramRead q sl off n (numbered p s)).2 := (sameMem_numbered p s).dramRead
  rw [length_dramRead hread]
  exact ⟨⟨hanswers, hlines⟩, hmem.mem.trans hsame.mem⟩

theorem doRequest_write {data : List Byte} (h : OneSlot s p hpa data.length q sl off)
    (hwritable : dramWritable s (pieceAddr s p hpa) off = true)
    (hmerge : mergeFault s (dramKey q sl off) data.length = none) (grant : Nat) :
    AnsweredWith p (triedReq s p true grant [⟨pieceAddr s p hpa, data.length, data, 1⟩]) s
      (doRequest p true hpa data.length grant data s) ∧
    ∀ i, i < data.length →
      memByte (doRequest p true hpa data.length grant data s) (dramKey q sl off + i) = data.getD i 0 := by
  have hdo := doPiece_dramWrite (p := p) (x := firstPiece s p true hpa data.length data) (s := numbered p s) rfl h.addr
    ((placeOf_numbered ..).trans h.place) ((portReach_numbered ..).trans h.reach)
    ((dramWritable_numbered ..).trans hwritable) ((mergeFault_numbered ..).trans hmerge)
  obtain ⟨hanswers, hlines, hmem⟩ := answered_doRequest (grant := grant) h.alone h.pos h.fits hdo rfl
  have hdata : (firstPiece s p true hpa data.length data).data = data := List.take_length
  rw [hdata] at hanswers hmem
  refine ⟨⟨hanswers, hlines⟩, fun i hi => ?_⟩
  rw [memByte_of_sameMem hmem, memByte_dramWrite_inside _ _ _ _ _ _ hi]

end OneSlot

/-- A line that fits in the port's cache state is granted without evicting another (R342). -/
theorem grantLine_answers {p : Nat} {returned : List (BitVec 52 × BitVec 512)} {modify : Bool} {line : Nat} {s : State}
    (hroom : (portOf s p).lines.length < 1048576) :
    (portOf (grantLine p returned modify line s) p).answers = (portOf s p).answers ∧
    (grantLine p returned modify line s).mem = s.mem := by
  unfold grantLine
  dsimp only
  rw [if_pos (by rw [decide_eq_true hroom, Bool.or_true])]
  exact ⟨by rw [portOf_putPort_self], rfl⟩

/-- A CXL.mem read of one slot is the port's request, with a line granted after it. -/
theorem doCxlMem_read {p hpa asked n : Nat} {data : List Byte} {returned : List (BitVec 52 × BitVec 512)} {s : State}
    {r : PortReq} (hup : (portOf s p).linkUp = true) (hn : 0 < n) (hfit : hpa % 64 + n ≤ 64)
    (hroom : (portOf s p).lines.length < 1048576)
    (h : AnsweredWith p r s (doRequest p false hpa n (grantOf s p false hpa (min 2 asked)) data s)) :
    (portOf (doCxlMem p false hpa asked data n returned s) p).answers = (portOf s p).answers ++ [r] ∧
    (doCxlMem p false hpa asked data n returned s).mem =
      (doRequest p false hpa n (grantOf s p false hpa (min 2 asked)) data s).mem := by
  unfold doCxlMem
  rw [hup, if_neg (by decide)]
  extract_lets g t
  have ht : AnsweredWith p r s t := h
  split
  · exact ⟨ht.answers, rfl⟩
  · rw [slotsOf_of_oneSlot hn hfit, List.foldl_cons, List.foldl_nil]
    obtain ⟨hanswers, hmem⟩ := grantLine_answers (p := p) (returned := returned) (modify := decide (g = 2))
      (line := (hpa, n).1 / 64) (s := t) (ht.lines ▸ hroom)
    exact ⟨hanswers.trans ht.answers, hmem⟩

/-- A write is granted no line (R342). -/
theorem grantOf_write (s : State) (p hpa asked : Nat) : grantOf s p true hpa asked = 0 := by
  unfold grantOf
  split
  · rw [if_neg (by simp)]
  · rfl

theorem doCxlMem_write {p hpa asked n : Nat} {data : List Byte} {returned : List (BitVec 52 × BitVec 512)} {s : State}
    (hup : (portOf s p).linkUp = true) :
    doCxlMem p true hpa asked data n returned s = doRequest p true hpa data.length 0 data s := by
  unfold doCxlMem
  rw [hup, if_neg (by decide)]
  dsimp only
  rw [grantOf_write, if_pos rfl, if_pos rfl]

/-- Settles O39: a request keeps the number that it took while it waits (`Taken`), and one that lies within a slot of DRAM
that can be reached ends in its first try (`OneSlot`). -/
theorem portRequestsAreTaken : Obligations.PortRequestsAreTaken := by
  unfold Obligations.PortRequestsAreTaken
  refine ⟨?_, ?_⟩
  · intro p hpa ask data len s hup held
    exact ⟨⟨_, rfl, (taken_doCxlMem hup ..).held⟩, ⟨_, rfl, (taken_doCxlMem hup ..).held⟩, fun hide =>
      ⟨⟨_, rfl, (taken_doUio hup hide ..).held⟩, ⟨_, rfl, (taken_doUio hup hide ..).held⟩⟩⟩
  · intro p hpa ask data len q sl off s a answers hup halone haddr hreach
    refine ⟨?_, ?_⟩
    · intro bs hn hfit hplace hread
      have hslot : OneSlot s p.toNat hpa.toNat len.toNat q sl off := ⟨hn, hfit, haddr, hplace, hreach, halone⟩
      refine ⟨fun hroom => ?_, fun hide => ⟨_, rfl, ?_⟩⟩
      · obtain ⟨hanswered, hmem⟩ := hslot.doRequest_read hread
          (grantOf s p.toNat false hpa.toNat (min 2 ask.state.toNat)) []
        obtain ⟨hgiven, hsame⟩ := doCxlMem_read (returned := ask.returned) hup hn hfit hroom hanswered
        exact ⟨_, rfl, hgiven, hsame.trans hmem⟩
      · obtain ⟨hanswered, hmem⟩ := hslot.doRequest_read hread 0 []
        rw [doUio_of_up hup hide]
        exact ⟨hanswered.answers, hmem⟩
    · intro hn hfit hplace hwritable hmerge stored
      have hslot : OneSlot s p.toNat hpa.toNat data.length q sl off := ⟨hn, hfit, haddr, hplace, hreach, halone⟩
      obtain ⟨hanswered, hmem⟩ := hslot.doRequest_write hwritable hmerge 0
      refine ⟨⟨_, rfl, ?_⟩, fun hide => ⟨_, rfl, ?_⟩⟩
      · rw [doCxlMem_write hup]
        exact ⟨hanswered.answers, hmem⟩
      · rw [doUio_of_up hup hide]
        exact ⟨hanswered.answers, hmem⟩

end Sys2Proof.Proofs
end

section
/-!
PROOFS. What the end of commands, requests and descriptors leaves: the views of a port that show none of its lists
(`SamePorts`), and the registers of the ring that no such end writes (`RegKept`).
-/

namespace Sys2Proof.Proofs

open Sys2Proof.Machine Sys2Proof.Laws

/-! ### The ports when a command ends -/

namespace SamePorts

section
variable {α : Type} {view : Port → α} {s t : State}

theorem dropFlight {c : Cmd} (h : SamePorts view s t) : SamePorts view s (Machine.dropFlight c t) := by
  obtain ⟨o, r, v, e⟩ := dropFlight_frame c t
  rw [e]
  exact h.frame rfl

variable (hview : Aside view)
include hview

theorem discardRec {r : Retired} (h : SamePorts view s t) : SamePorts view s (Machine.discardRec r t) :=
  holds_ite h (holds_ite ((report hview h).frame rfl) (report hview h))

theorem retireRec {told cv nonrepeat : Bool} {c : Cmd} {st : Status} {r0 r1 detail : Word} (h : SamePorts view s t) :
    SamePorts view s (Machine.retireRec told c st r0 r1 detail cv nonrepeat t) := by
  have hleft : SamePorts view s (dropWait c.waiter (Machine.dropFlight c { t with fetchOrder := t.fetchOrder.erase c })) :=
    (dropFlight (t := { t with fetchOrder := t.fetchOrder.erase c }) (h.frame rfl)).frame rfl
  unfold Machine.retireRec
  refine holds_ite (discardRec hview hleft) ?_
  split
  · exact hleft.frame rfl
  · split
    · exact hleft.frame rfl
    · exact hleft

theorem endCopy {p eng addr moved : Nat} {c : Cmd} {st : Status} {cv nonrep : Bool} (h : SamePorts view s t) :
    SamePorts view s (Machine.endCopy p eng c st addr moved cv nonrep t) := by
  unfold Machine.endCopy
  extract_lets u shown r0 s1 s2 ring s3 det s4
  have h2 : SamePorts view s s2 := rfadd (holds_ite h.rfput h)
  have h3 : SamePorts view s s3 := holds_ite h2 h2.rfput.rfput
  have h4 : SamePorts view s s4 := holds_ite h3 (report hview h3)
  exact retireRec hview h4

/-- A DMA_COPY that ends takes its reads with it: a view that shows neither is the same. -/
theorem endJob {p addr : Nat} {j : CopyJob} {st : Status} (hjobs : ∀ q c r, view { q with copies := c, reads := r } = view q)
    (h : SamePorts view s t) : SamePorts view s (Machine.endJob p j st addr t) :=
  endCopy hview (h.putPort (hjobs _ _ _))

theorem ringsDown {p : Nat} (h : SamePorts view s t) : SamePorts view s (Machine.ringsDown p t) :=
  holds_foldl h fun u r hu => by
    extract_lets q u1
    have h1 : SamePorts view s u1 := hu.rfput
    have hput : ∀ v, SamePorts view s (putRing p r v u1) := fun _ => h1.frame rfl
    exact holds_foldl (hput _) fun _ _ hw => discardRec hview hw

theorem gringsDown {p : Nat} (h : SamePorts view s t) : SamePorts view s (Machine.gringsDown p t) :=
  holds_foldl h fun u q hu => by
    extract_lets g u1 u2
    have h1 : SamePorts view s u1 := holds_foldl hu fun _ _ hw => report hview hw
    have h2 : SamePorts view s u2 := h1.rfput
    exact h2.frame rfl

theorem lsPortDown {p : Nat} (h : SamePorts view s t) : SamePorts view s (Machine.lsPortDown p t) := by
  have hclear : ∀ v, SamePorts view s { t with lsOn := v } := fun _ => h.frame rfl
  exact holds_ite h (holds_foldl (hclear _) fun _ _ hw => report hview hw)

end

section
variable {α : Type} {view : Port → α} {s t : State}

theorem fwWaits {st : Option Status} (h : SamePorts view s t) : SamePorts view s (Machine.fwWaits st t) := by
  have hset : ∀ v, SamePorts view s { t with fw := v } := fun _ => h.frame rfl
  unfold Machine.fwWaits
  dsimp only
  split
  · exact (hset _).rfput.rfput.rfput
  · exact (hset _).rfput.rfput

theorem fwAbandon {p : Nat} (h : SamePorts view s t) : SamePorts view s (Machine.fwAbandon p t) := holds_ite h.fwWaits h

/-- A request that is settled moves between the port's lists: a view that shows neither is the same. -/
theorem settleReq {p : Nat} {r : PortReq} (hreqs : ∀ q l a, view { q with reqs := l, answers := a } = view q)
    (h : SamePorts view s t) : SamePorts view s (Machine.settleReq p r t) := by
  unfold Machine.settleReq
  split
  · exact h.putPort (hreqs _ _ _)
  · extract_lets u q
    have hu : SamePorts view s u := holds_ite (holds_ite h h.watchCount) (holds_ite h.rfsat h)
    exact hu.putPort (hreqs _ _ _)

end

end SamePorts

/-! ### The registers of the ring that these ends leave -/

/-- A register that is not one of those that count and show the work of units, tallies, ports and the firmware's update. -/
structure Spared (k : Nat) : Prop where
  stand : ∀ p c i o, k ≠ standKey p c i o
  unit : ∀ c i o, (c = 6 ∨ c = 7 ∨ c = 8) → k ≠ ringKey c i o
  count : ∀ p, k ≠ IorPortCount.key p
  firmware : k ≠ RgrFwStatus.key

theorem Spared.engine {k : Nat} (h : Spared k) (ring : Bool) (p c u o : Nat) : k ≠ engineKey ring p c u o := by
  unfold engineKey
  split
  · exact h.unit _ _ _ (.inl rfl)
  · exact h.stand _ _ _ _

theorem Spared.cvu {k : Nat} (h : Spared k) (ring : Bool) (p u o : Nat) : k ≠ cvuKey ring p u o := by
  unfold cvuKey
  split
  · exact h.unit _ _ _ (.inr (.inl rfl))
  · exact h.stand _ _ _ _

theorem Spared.tally {k : Nat} (h : Spared k) (ring : Bool) (p u o : Nat) : k ≠ tallyKey ring p u o := by
  unfold tallyKey
  split
  · exact h.unit _ _ _ (.inr (.inr rfl))
  · exact h.stand _ _ _ _

namespace RegKept

variable {k : Nat} {s t u : State}

theorem refl (s : State) : RegKept k s s := rfl

theorem frame (h : RegKept k s t) (e : u.regs = t.regs) : RegKept k s u := by
  unfold RegKept rg at h ⊢
  rw [e]
  exact h

theorem rput {j : Nat} {w : Word} (h : RegKept k s t) (hj : k ≠ j) : RegKept k s (Machine.rput j w t) :=
  ((rg_rput ..).trans (if_neg hj)).trans h

theorem rfput {j v : Nat} {f : Fld} (h : RegKept k s t) (hj : k ≠ j) : RegKept k s (Machine.rfput j f v t) := h.rput hj

theorem rfsat {j n : Nat} {f : Fld} (h : RegKept k s t) (hj : k ≠ j) : RegKept k s (Machine.rfsat j f n t) := h.rput hj

theorem rfadd {j n : Nat} {f : Fld} (h : RegKept k s t) (hj : k ≠ j) : RegKept k s (Machine.rfadd j f n t) := h.rput hj

theorem lsHeaderCame {i a : Nat} (h : RegKept k s t) : RegKept k s (Machine.lsHeaderCame i a t) := by
  have hset : ∀ v, RegKept k s { t with lsOn := v } := fun _ => h.frame rfl
  exact holds_ite (hset _) h

theorem dropFlight {c : Cmd} (h : RegKept k s t) : RegKept k s (Machine.dropFlight c t) := by
  obtain ⟨o, r, v, e⟩ := dropFlight_frame c t
  rw [e]
  exact h.frame rfl

section
variable (hk : Spared k)
include hk

theorem report {st : Status} {b : Bool} {src : Nat} {loc a : Word} {data : List Byte} (h : RegKept k s t) :
    RegKept k s (Machine.report st b src loc a data t) :=
  (rg_report _ _ _ _ _ _ _ _ fun p _ => hk.count p).trans h

theorem tallyBump {x : Bool × Nat × Nat} {n : Nat} (h : RegKept k s t) : RegKept k s (Machine.tallyBump x n t) :=
  (h.rput (hk.tally _ _ _ _)).rfadd (hk.tally _ _ _ _)

theorem lsPortDown {p : Nat} (h : RegKept k s t) : RegKept k s (Machine.lsPortDown p t) := by
  have hclear : ∀ v, RegKept k s { t with lsOn := v } := fun _ => h.frame rfl
  exact holds_ite h (holds_foldl (hclear _) fun _ _ hw => report hk hw)

theorem fwWaits {st : Option Status} (h : RegKept k s t) : RegKept k s (Machine.fwWaits st t) := by
  have hset : ∀ v, RegKept k s { t with fw := v } := fun _ => h.frame rfl
  have hstate : ∀ v, RegKept k s (Machine.rfput RgrFwStatus.key RgrFwStatus.source 0
      (Machine.rfput RgrFwStatus.key RgrFwStatus.state 0 { t with fw := v })) :=
    fun v => ((hset v).rfput hk.firmware).rfput hk.firmware
  unfold Machine.fwWaits
  dsimp only
  split
  · exact (hstate _).rfput hk.firmware
  · exact hstate _

theorem fwAbandon {p : Nat} (h : RegKept k s t) : RegKept k s (Machine.fwAbandon p t) := holds_ite (fwWaits hk h) h

theorem watchCount {p : Nat} {watches : List Watch} {pieces : List (Nat × Nat × Bool)} (h : RegKept k s t) :
    RegKept k s (Machine.watchCount p watches pieces t) :=
  holds_foldl h fun _ _ hu => holds_ite hu (holds_ite (by
    split
    · exact holds_ite (lsHeaderCame (tallyBump hk hu)) hu
    · exact hu) (holds_ite hu (tallyBump hk hu)))

theorem settleReq {p : Nat} {r : PortReq} (h : RegKept k s t) : RegKept k s (Machine.settleReq p r t) := by
  unfold Machine.settleReq
  split
  · exact h.frame rfl
  · extract_lets u q
    have hu : RegKept k s u := holds_ite (holds_ite h (watchCount hk h)) (holds_ite (h.rfsat (hk.count p)) h)
    exact hu.frame rfl

theorem discardRec {r : Retired} (h : RegKept k s t) : RegKept k s (Machine.discardRec r t) :=
  holds_ite h (holds_ite ((report hk h).frame rfl) (report hk h))

theorem retireRec {told cv nonrepeat : Bool} {c : Cmd} {st : Status} {r0 r1 detail : Word} (h : RegKept k s t) :
    RegKept k s (Machine.retireRec told c st r0 r1 detail cv nonrepeat t) := by
  have hleft : RegKept k s (dropWait c.waiter (Machine.dropFlight c { t with fetchOrder := t.fetchOrder.erase c })) :=
    (dropFlight (t := { t with fetchOrder := t.fetchOrder.erase c }) (h.frame rfl)).frame rfl
  unfold Machine.retireRec
  refine holds_ite (discardRec hk hleft) ?_
  split
  · exact hleft.frame rfl
  · split
    · exact hleft.frame rfl
    · exact hleft

theorem endCopy {p eng addr moved : Nat} {c : Cmd} {st : Status} {cv nonrep : Bool} (h : RegKept k s t) :
    RegKept k s (Machine.endCopy p eng c st addr moved cv nonrep t) := by
  unfold Machine.endCopy
  extract_lets u shown r0 s1 s2 ring s3 det s4
  have h2 : RegKept k s s2 := rfadd (holds_ite (h.rfput (hk.cvu _ _ _ _)) h) (hk.engine _ _ _ _ _)
  have h3 : RegKept k s s3 := holds_ite h2 ((h2.rfput (hk.engine _ _ _ _ _)).rfput (hk.engine _ _ _ _ _))
  have h4 : RegKept k s s4 := holds_ite h3 (report hk h3)
  exact retireRec hk h4

theorem endJob {p addr : Nat} {j : CopyJob} {st : Status} (h : RegKept k s t) :
    RegKept k s (Machine.endJob p j st addr t) := by
  have hput : ∀ v, RegKept k s (putPort p v t) := fun _ => h.frame rfl
  exact endCopy hk (hput _)

end

end RegKept

end Sys2Proof.Proofs
end

section
/-!
PROOFS. The link of a port and its signals (R335, R349, R365, R535, R553, O40).
-/

namespace Sys2Proof.Proofs

open Sys2Proof.Machine Sys2Proof.Laws

/-! ### A link that falls -/

/-- What a port shows of its link: whether it is up, and its IDE key. -/
def linkView (q : Port) : Bool × BitVec 256 := (q.linkUp, q.ideKey)

theorem aside_linkView : Aside linkView := fun _ _ _ => rfl

/-- The event ring's register is none that the end of commands, requests and sends writes (R41). -/
theorem spared_evqCfgKey (p : Nat) : Spared (evqCfgKey p) where
  stand _ _ _ _ := Ne.symm standKey_ne_ringKey
  unit c i o hc := by
    unfold evqCfgKey ringKey
    omega
  count q := by
    unfold evqCfgKey IorPortCount.key ringKey
    omega
  firmware := by
    unfold evqCfgKey RgrFwStatus.key ringKey
    omega

/-- The port with its link down and its key gone, before its transactions end. -/
def unlinked (p : Nat) (s : State) : State := putPort p { portOf s p with linkUp := false, status := 0, ideKey := 0 } s

theorem linkView_unlinked (p : Nat) (s : State) : linkView (portOf (unlinked p s) p) = (false, 0) := by
  rw [unlinked, portOf_putPort_self]
  rfl

/-- What ends after the link is down shows no other link (R349, R364). -/
theorem samePorts_portDown (p : Nat) (s : State) : SamePorts linkView (unlinked p s) (portDown p s) := by
  have hcut : ∀ u v, SamePorts linkView (unlinked p s) u → SamePorts linkView (unlinked p s) { u with gul := v } :=
    fun _ _ h => h.frame rfl
  unfold portDown
  extract_lets q u1 u2 u3 gul u4 u5 u6
  have h1 : SamePorts linkView (unlinked p s) u1 := .refl _
  have h2 : SamePorts linkView (unlinked p s) u2 :=
    holds_foldl h1 fun _ _ h => h.endJob aside_linkView fun _ _ _ => rfl
  have h3 : SamePorts linkView (unlinked p s) u3 := (h2.ringsDown aside_linkView).gringsDown aside_linkView
  have h5 : SamePorts linkView (unlinked p s) u5 := (hcut _ _ h3).rfput
  have h6 : SamePorts linkView (unlinked p s) u6 := holds_foldl h5 fun _ _ h => h.settleReq fun _ _ _ => rfl
  exact h6.fwAbandon

/-- The event ring's ENABLE is cleared with the link (log entry 58), and nothing that follows sets it. -/
theorem portDown_evqEnable (p : Nat) (s : State) : fldGet RingCfg.enable (rg (portDown p s) (evqCfgKey p)) = 0 := by
  have hk := spared_evqCfgKey p
  unfold portDown
  extract_lets q u1 u2 u3 gul u4 u5 u6
  have h6 : RegKept (evqCfgKey p) u5 u6 := holds_foldl (RegKept.refl u5) fun _ _ h => h.settleReq hk
  have hword : rg (fwAbandon p u6) (evqCfgKey p) = rg u5 (evqCfgKey p) := h6.fwAbandon hk
  rw [hword]
  exact (rf_rfput_self u4 (evqCfgKey p) RingCfg.enable 0 (by decide)).trans (Nat.zero_mod _)

theorem linkView_linkFalls {p : Nat} {s : State} (hup : (portOf s p).linkUp = true) :
    linkView (portOf (linkFalls p s) p) = (false, 0) := by
  rw [linkFalls, hup, if_pos rfl]
  exact (((samePorts_portDown p s).lsPortDown aside_linkView) p).trans (linkView_unlinked p s)

/-- However the link stood, it is down. -/
theorem linkUp_linkFalls (p : Nat) (s : State) : (portOf (linkFalls p s) p).linkUp = false := by
  cases hup : (portOf s p).linkUp with
  | true => exact congrArg Prod.fst (linkView_linkFalls hup)
  | false =>
    rw [linkFalls, if_neg (by rw [hup]; decide)]
    exact hup

theorem linkFalls_evqEnable {p : Nat} {s : State} (hup : (portOf s p).linkUp = true) :
    fldGet RingCfg.enable (rg (linkFalls p s) (evqCfgKey p)) = 0 := by
  rw [linkFalls, hup, if_pos rfl]
  have hword : rg (lsPortDown p (portDown p s)) (evqCfgKey p) = rg (portDown p s) (evqCfgKey p) :=
    (RegKept.refl _).lsPortDown (spared_evqCfgKey p)
  rw [hword]
  exact portDown_evqEnable p s

/-! ### A link that trains -/

/-- The status of a link that has trained (R368). -/
def trainedStatus (speed width : Nat) (loflit : Bool) : Word :=
  fldSet IorPortStatus.speed (fldSet IorPortStatus.width (fldOf IorPortStatus.loflit (if loflit then 1 else 0)) width) speed

theorem doLinkTrained_trains {p speed width : Nat} {loflit : Bool} {s : State} (hdown : (portOf s p).linkUp = false)
    (hreset : (portOf s p).perst = false) (hpresent : (portOf s p).cprsnt = true) (hclock : s.ringClk.refOk = true)
    (hspeed : speed = 1 ∨ speed = 2) (hwidth : width = 8 ∨ width = 16) :
    portOf (doLinkTrained p speed width loflit s) p =
      { portOf s p with linkUp := true, status := trainedStatus speed width loflit } := by
  unfold doLinkTrained
  extract_lets q
  rw [if_neg (by
    simpa [q, hdown, hreset, hpresent, hclock] using
      And.intro (or_iff_not_imp_left.1 hspeed) (or_iff_not_imp_left.1 hwidth)), portOf_putPort_self]
  rfl

theorem fldGet_speed_trainedStatus {speed width : Nat} {loflit : Bool} (hspeed : speed < 16) :
    fldGet IorPortStatus.speed (trainedStatus speed width loflit) = speed :=
  (fldGet_fldSet IorPortStatus.speed _ speed (by decide)).trans (Nat.mod_eq_of_lt hspeed)

theorem fldGet_width_trainedStatus {speed width : Nat} {loflit : Bool} (hwidth : width < 64) :
    fldGet IorPortStatus.width (trainedStatus speed width loflit) = width :=
  (fldGet_fldSet_other IorPortStatus.width IorPortStatus.speed _ speed (.inl (by decide))).trans
    ((fldGet_fldSet IorPortStatus.width _ width (by decide)).trans (Nat.mod_eq_of_lt hwidth))

/-! ### A peer's posted write -/

/-- It is refused, counted and reported once (R365). -/
theorem refusePeer_refuses (p hpa : Nat) (s : State) : (portOf (refusePeer p hpa s) p).refused = (portOf s p).refused + 1 ∧
    (refusePeer p hpa s).reportSeq = s.reportSeq + 1 := by
  have hrefused : Aside Port.refused := fun _ _ _ => rfl
  unfold refusePeer
  extract_lets a u q
  have hu : u.ports = s.ports ∧ u.reportSeq = s.reportSeq := ⟨rfl, rfl⟩
  obtain ⟨hports, hseq⟩ := hu
  have hq : q = portOf s p := by
    show portOf u p = portOf s p
    rw [portOf, hports, portOf]
  refine ⟨?_, ?_⟩
  · rw [(SamePorts.refl _).report hrefused p, aerNote, portOf_putPort_self, portOf_putPort_self, hq]
  · rw [report_reportSeq, aerNote, putPort_reportSeq, putPort_reportSeq, hseq]

/-- Settles O40: every fall of a link is `linkFalls`, which takes the port down first (`samePorts_portDown`). -/
theorem linkEvents : Obligations.LinkEvents := by
  unfold Obligations.LinkEvents
  refine ⟨?_, ?_, ?_, ?_⟩
  · intro p speed width lof s hdown hreset hpresent hclock hspeed hwidth
    have htrained := doLinkTrained_trains (speed := speed.toNat) (width := width.toNat) (loflit := lof) hdown hreset hpresent
      hclock (hspeed.imp (congrArg BitVec.toNat) (congrArg BitVec.toNat))
      (hwidth.imp (congrArg BitVec.toNat) (congrArg BitVec.toNat))
    refine ⟨_, rfl, ?_⟩
    rw [htrained]
    exact ⟨rfl, fldGet_speed_trainedStatus speed.isLt, fldGet_width_trainedStatus width.isLt⟩
  · intro p s hup
    exact ⟨_, rfl, linkUp_linkFalls _ _, congrArg Prod.snd (linkView_linkFalls hup), linkFalls_evqEnable hup⟩
  · intro p s
    refine ⟨⟨_, rfl, ?_⟩, ⟨_, rfl, ?_⟩, ⟨_, rfl, ?_⟩, ⟨_, rfl, portOf_putPort_self ..⟩⟩
    · rw [portOf_putPort_self]
      exact ⟨rfl, linkUp_linkFalls _ _⟩
    · rw [portOf_putPort_self]
      exact ⟨rfl, rfl⟩
    · rw [portOf_putPort_self]
      exact ⟨rfl, linkUp_linkFalls _ _⟩
  · intro p hpa s hup
    have hrefused : doPeerPosted p.toNat hpa.toNat s = refusePeer p.toNat hpa.toNat s := by
      rw [doPeerPosted, hup, if_neg (by decide)]
    refine ⟨_, rfl, ?_⟩
    rw [hrefused]
    obtain ⟨hcount, hseq⟩ := refusePeer_refuses p.toNat hpa.toNat s
    exact ⟨hcount, ((SameMem.refl s).refusePeer).mem, hseq⟩

end Sys2Proof.Proofs
end

section
/-!
PROOFS. Completions from the host, requests whose hold expires, and the configuration space (R340, R343, R361 to R364, O41).
-/

namespace Sys2Proof.Proofs

open Sys2Proof.Machine Sys2Proof.Laws

/-! ### Completions (R361 to R364) -/

section
variable {p : Nat} {tag : BitVec 16} {s : State}

/-- A completion that is not late stalls nothing (R363). -/
theorem not_slow (p : Nat) (s : State) : decide (max 1 (rf s (IorPortCfg.key p) IorPortCfg.stallUs) < 0) = false :=
  decide_eq_false (Nat.not_lt_zero _)

/-- A completion for no request is counted (R362). -/
theorem doCompletion_unasked (how : Completion) (data : List Byte)
    (hread : (portOf s p).reads.find? (fun x => x.tag = tag && x.data.isNone) = none) :
    doCompletion p tag how 0 data s = aerNote p 16 (rfsat (IorPortCount.key p) IorPortCount.late 1 s) := by
  unfold doCompletion
  extract_lets slow u
  have hu : u = s := if_neg (ne_true_of_eq_false (not_slow p s))
  rw [hu, hread]

variable {x : ReadReq} {j : CopyJob}
  (hread : (portOf s p).reads.find? (fun x => x.tag = tag && x.data.isNone) = some x) (hjob : jobOf s p x.job = some j)
include hread hjob

/-- The bytes that come are the read's, and its job runs on (R361). -/
theorem doCompletion_success (data : List Byte) :
    doCompletion p tag .success 0 data s = runJob p j.id (jobFuel j.cmd) (putPort p { portOf (putJob p j s) p with
      reads := (portOf (putJob p j s) p).reads.map (fun y =>
        if y.tag = tag ∧ y.data.isNone = true then { y with data := some (bytesAt data 0 y.len) } else y) }
      (putJob p j s)) := by
  unfold doCompletion
  extract_lets slow u
  have hu : u = s := if_neg (ne_true_of_eq_false (not_slow p s))
  have hslow : slow = false := not_slow p s
  rw [hu, hread]
  dsimp only
  rw [hjob, hslow]
  dsimp only
  rw [Bool.or_false]

/-- A completion with an error ends the job (R364). -/
theorem doCompletion_abort (data : List Byte) :
    doCompletion p tag .abort 0 data s = endJob p j stCxlCompleterErr x.addr (putJob p j s) := by
  unfold doCompletion
  extract_lets slow u
  have hu : u = s := if_neg (ne_true_of_eq_false (not_slow p s))
  have hslow : slow = false := not_slow p s
  rw [hu, hread]
  dsimp only
  rw [hjob, hslow]
  dsimp only
  rw [Bool.or_false]

theorem doTimeout_ends : doTimeout p tag s = endJob p j stCxlTimeout x.addr s := by
  rw [doTimeout, hread]
  dsimp only
  rw [hjob]

end

/-- The job of a port that has ended is found no more. -/
theorem jobOf_endJob {p addr : Nat} {j : CopyJob} {st : Status} {s : State} :
    jobOf (endJob p j st addr s) p j.id = none := by
  have hview : Aside Port.copies := fun _ _ _ => rfl
  unfold endJob
  extract_lets q u
  have hu : (portOf u p).copies = q.copies.filter (fun x => x.id ≠ j.id) := by rw [portOf_putPort_self]
  have hsame : SamePorts Port.copies u (endCopy p j.engine j.cmd st addr (jobMoved j) (decide (cpCvMode j.cmd ≠ 0)) j.nonrepeat u) :=
    (SamePorts.refl u).endCopy hview
  rw [jobOf, hsame p, hu, List.find?_eq_none]
  intro x hx
  simpa using (List.mem_filter.1 hx).2

/-! ### Requests whose hold expires (R343) -/

/-- A slot access when the hold of its request has expired: one that is held reads as ones. -/
def expired (x : Piece) : Piece :=
  if x.st = 0 then { x with st := 2, data := if x.data.isEmpty then List.replicate x.len 0xFF else x.data } else x

theorem expired_st (x : Piece) : (expired x).st ≠ 0 := by
  unfold expired
  split
  · exact two_ne_zero
  · assumption

/-- One slot access of a request whose hold has expired. -/
def expireStep (p : Nat) (y : List Piece × State) (x : Piece) : List Piece × State :=
  if x.st = 0 then (y.1 ++ [(pieceFails p stHostHoldExpired x y.2).1], (pieceFails p stHostHoldExpired x y.2).2)
  else (y.1 ++ [x], y.2)

/-- A request whose hold has expired. -/
def expireReq (p : Nat) (s : State) (r : PortReq) : State :=
  settleReq p { r with pieces := (r.pieces.foldl (expireStep p) ([], s)).1 } (r.pieces.foldl (expireStep p) ([], s)).2

theorem doHoldExpired_eq (p : Nat) (s : State) :
    doHoldExpired p s = (portOf (retryReqs p s) p).reqs.foldl (expireReq p) (retryReqs p s) := rfl

theorem expireSteps_pieces (p : Nat) (xs : List Piece) : ∀ y, (xs.foldl (expireStep p) y).1 = y.1 ++ xs.map expired := by
  induction xs with
  | nil => intro y; rw [List.foldl_nil, List.map_nil, List.append_nil]
  | cons x xs ih =>
    intro y
    have hstep : (expireStep p y x).1 = y.1 ++ [expired x] := by
      unfold expireStep expired
      split
      · rfl
      · rfl
    rw [List.foldl_cons, ih, hstep, List.map_cons, List.append_assoc, List.singleton_append]

theorem samePorts_expireSteps (p : Nat) (xs : List Piece) (y : List Piece × State) :
    SamePorts reqView y.2 (xs.foldl (expireStep p) y).2 :=
  holds_foldl_of (P := SamePorts reqView y.2) Prod.snd (.refl _) fun _ _ h =>
    holds_ite_snd (h.pieceFails aside_reqView) h

/-- A request whose hold has expired is answered, with no request of its number left (R343). -/
theorem expireReq_answers (p : Nat) (s : State) (r : PortReq) :
    (portOf (expireReq p s r) p).answers = (portOf s p).answers ++ [{ r with pieces := r.pieces.map expired }] ∧
    (portOf (expireReq p s r) p).reqs = (portOf s p).reqs.filter (fun y => y.id ≠ r.id) := by
  have hports := samePorts_expireSteps p r.pieces ([], s)
  unfold expireReq
  rw [expireSteps_pieces, List.nil_append]
  generalize (r.pieces.foldl (expireStep p) ([], s)).2 = u at hports ⊢
  obtain ⟨hreqs, hanswers, -⟩ : (portOf u p).reqs = (portOf s p).reqs ∧ (portOf u p).answers = (portOf s p).answers ∧
      (portOf u p).nextId = (portOf s p).nextId := by simpa [reqView] using hports p
  obtain ⟨hanswered, hleft, -⟩ := settleReq_of_done (p := p) (r := { r with pieces := r.pieces.map expired }) (s := u)
    (List.any_eq_false.2 fun x hx => by
      obtain ⟨y, -, rfl⟩ := List.mem_map.1 hx
      simpa using expired_st y)
  exact ⟨hanswered.trans (by rw [hanswers]), hleft.trans (by rw [hreqs])⟩

/-- The requests that are left when the holds of some have expired are others of the port's. -/
theorem mem_reqs_expireReqs {p : Nat} (rs : List PortReq) : ∀ (s : State) (y : PortReq),
    y ∈ (portOf (rs.foldl (expireReq p) s) p).reqs → y ∈ (portOf s p).reqs ∧ y ∉ rs := by
  induction rs with
  | nil => exact fun s y h => ⟨h, List.not_mem_nil⟩
  | cons r rs ih =>
    intro s y h
    obtain ⟨hmem, hnot⟩ := ih _ y h
    rw [(expireReq_answers p s r).2, List.mem_filter] at hmem
    obtain ⟨hmem, hid⟩ := hmem
    refine ⟨hmem, fun hin => (List.mem_cons.1 hin).elim ?_ hnot⟩
    rintro rfl
    simp at hid

theorem reqs_doHoldExpired (p : Nat) (s : State) : (portOf (doHoldExpired p s) p).reqs = [] := by
  rw [doHoldExpired_eq]
  refine List.eq_nil_iff_forall_not_mem.2 fun y hy => ?_
  obtain ⟨hmem, hnot⟩ := mem_reqs_expireReqs _ _ y hy
  exact hnot hmem

/-- Accesses that still meet their uncorrectable words are not tried again. -/
theorem retryReqs_of_held {p : Nat} {r : PortReq} {s : State} (hreqs : (portOf s p).reqs = [r])
    (hheld : ∀ x ∈ r.pieces, stillHeld s r.write x = true) : retryReqs p s = s := by
  rw [retryReqs, hreqs, List.foldl_cons, List.foldl_nil, if_neg]
  intro hany
  obtain ⟨x, hx, htry⟩ := List.any_eq_true.1 hany
  rw [hheld x hx, Bool.not_true, Bool.and_false] at htry
  exact Bool.false_ne_true htry

theorem expired_of_held {x : Piece} (hst : x.st = 0) (hdata : x.data = []) :
    expired x = { x with st := 2, data := List.replicate x.len 0xFF } := by
  rw [expired, if_pos hst, hdata]
  rfl

/-- A read that waits alone, all of whose accesses still meet their words, is answered with ones (R343). -/
theorem answers_doHoldExpired_of_held {p : Nat} {r : PortReq} {s : State} (hreqs : (portOf s p).reqs = [r])
    (hread : r.write = false) (hheld : ∀ x ∈ r.pieces, x.st = 0 ∧ x.data = [] ∧ stillHeld s false x = true) :
    (portOf (doHoldExpired p s) p).answers = (portOf s p).answers ++
      [{ r with pieces := r.pieces.map (fun x => { x with st := 2, data := List.replicate x.len 0xFF }) }] := by
  have hretry : retryReqs p s = s := retryReqs_of_held hreqs fun x hx => by
    rw [hread]
    exact (hheld x hx).2.2
  have hpieces : r.pieces.map expired = r.pieces.map (fun x => { x with st := 2, data := List.replicate x.len 0xFF }) :=
    List.map_congr_left fun x hx => by
      obtain ⟨hst, hdata, -⟩ := hheld x hx
      exact expired_of_held hst hdata
  rw [doHoldExpired_eq, hretry, hreqs, List.foldl_cons, List.foldl_nil, (expireReq_answers p s r).1, hpieces]

/-! ### Configuration space (R340, R361) -/

/-- A decoder that is not committed takes what is written to it, in units of 256 MB (R340, log entry 16). -/
theorem decoderOf_doConfigSpace {p : Nat} {d : BitVec 3} {s : State} (b z k : Word) {w g : BitVec 4}
    (hopen : (decoderOf s p d.toNat).committed = false) (hok : decoderOk w g = true) :
    decoderOf (doConfigSpace p (.decoder d b z k w g true) s) p d.toNat =
      ⟨b >>> 28 <<< 28, z >>> 28 <<< 28, k >>> 28 <<< 28, w, g, true⟩ := by
  unfold doConfigSpace
  dsimp only
  rw [if_neg (by rw [hopen]; decide), decoderOf]
  dsimp only
  rw [smapGet_smapSet_self, hok, Bool.true_and]

/-! ### Writes to peers (R364) -/

/-- An aborted send of lockstep is reported once, and its check is given up. -/
theorem lsCompletion_abort {p e : Nat} {tag : BitVec 16} {sent : Bool} {ts : List (BitVec 16)} {s : State}
    (hport : lsPort s = p) (hsend : s.lsOn.sends.find? (fun x => x.2.2.contains tag) = some (e, sent, ts)) :
    (lsCompletion p tag .abort s).reportSeq = s.reportSeq + 1 ∧
    (lsCompletion p tag .abort s).lsOn.sends = s.lsOn.sends.filter (fun x => !x.2.2.contains tag) := by
  unfold lsCompletion
  rw [if_neg (not_not.2 hport), hsend]
  dsimp only
  rw [if_pos (by decide), report_reportSeq, report_lsOn]
  exact ⟨rfl, rfl⟩

/-- Settles O41: the completions by the job they name, and the requests that wait by what their expiry answers. -/
theorem completionsAndConfigSpace : Obligations.CompletionsAndConfigSpace := by
  unfold Obligations.CompletionsAndConfigSpace
  refine ⟨?_, ?_, fun p s => ⟨_, rfl, reqs_doHoldExpired p.toNat s⟩,
    fun p r s hreqs hread hheld => ⟨_, rfl, answers_doHoldExpired_of_held hreqs hread hheld⟩, ?_, ?_, ?_⟩
  · exact fun p tag data s hread => congrArg Host.Outcome.next (doCompletion_unasked _ _ hread)
  · intro p tag data x j s hread hjob u arrives
    have hid : j.id = x.job := by simpa using List.find?_some hjob
    have hends := doTimeout_ends hread hjob
    refine ⟨congrArg Host.Outcome.next (doCompletion_success hread hjob _),
      congrArg Host.Outcome.next (doCompletion_abort hread hjob _), _, rfl, hends, ?_⟩
    rw [hends, ← hid]
    exact jobOf_endJob
  · intro p v d b z k w g s
    refine ⟨⟨_, rfl, congrArg Port.timeout (portOf_putPort_self ..)⟩, fun hopen hok => ?_⟩
    intro whole
    exact ⟨_, rfl, decoderOf_doConfigSpace b z k hopen hok⟩
  · intro p tag a j s hjob htag
    refine ⟨congrArg Host.Outcome.next ?_, congrArg Host.Outcome.next ?_⟩
    · rw [doUioCompletion, hjob]
      exact if_pos rfl
    · rw [doUioCompletion, hjob]
      dsimp only
      rw [if_neg (by decide), htag]
      rfl
  · intro p tag s hnone
    have hsend : ∀ how, doUioCompletion p.toNat ⟨tag, how⟩ s = lsCompletion p.toNat tag how s := fun how => by
      rw [doUioCompletion, hnone]
    refine ⟨congrArg Host.Outcome.next (hsend _), fun e sent ts hport hfind => ⟨_, rfl, ?_⟩⟩
    rw [hsend]
    exact lsCompletion_abort hport hfind

end Sys2Proof.Proofs
end

section
/-!
PROOFS. FENCE_ARRAY and FENCE_STAND (R350, R509, O21): the module stops, what is named is marked, and the requests on the
way are sent elsewhere or answered. None of it but the mark writes the stand map.
-/

namespace Sys2Proof.Proofs

open Sys2Proof.Machine Sys2Proof.Laws

/-! ### A module that stops writes no spared register -/

namespace RegKept

section
variable {k : Nat} {s t : State}

theorem undrain (h : RegKept k s t) : RegKept k s (Machine.undrain t) := by
  have hset : RegKept k s { t with draining := false } := h.frame rfl
  have hput : ∀ {u : State} p v, RegKept k s u → RegKept k s (putStand p v u) := fun _ _ hu => hu.frame rfl
  exact holds_foldl hset fun _ _ hu => holds_ite (hput _ _ hu) hu

theorem stopStands (h : RegKept k s t) : RegKept k s (Machine.stopStands t) := by
  have hput : ∀ {u : State} p v, RegKept k s u → RegKept k s (putStand p v u) := fun _ _ hu => hu.frame rfl
  exact holds_foldl h fun _ _ hu => hput _ _ hu

theorem endAll {e : Exec} (h : RegKept k s t) : RegKept k s (Machine.endAll e t) := by
  have hset : ∀ v, RegKept k s { t with memArrs := v } := fun _ => h.frame rfl
  exact holds_ite h (hset _)

theorem noteFlight {c : Cmd} (h : RegKept k s t) : RegKept k s (Machine.noteFlight c t) := by
  obtain ⟨r, v, e⟩ := noteFlight_frame c t
  rw [e]
  exact h.frame rfl

variable (hk : Spared k)
include hk

theorem queueAdvance {p q : Nat} (h : RegKept k s t) : RegKept k s (Machine.queueAdvance p q t) := by
  have hput : ∀ v, RegKept k s (putHubQ p q v t) := fun _ => h.frame rfl
  have hnext : ∀ v n, RegKept k s (Machine.rfput (HubQState.key p q) HubQState.next n (putHubQ p q v t)) :=
    fun v _ => (hput v).rfput (hk.stand _ _ _ _)
  exact holds_ite (hnext _ _) (holds_ite (hput _) (holds_ite ((hnext _ _).rfadd (hk.stand _ _ _ _)) (hnext _ _)))

theorem doneSend {home router tally amount : Nat} {loc : Word} (h : RegKept k s t) :
    RegKept k s (Machine.doneSend home router loc tally amount t).2 := by
  unfold Machine.doneSend
  split
  · exact h
  · exact holds_ite_snd (tallyBump hk h) (h.frame rfl)

theorem retireDesc {p q : Nat} {e : Exec} {st : Status} (h : RegKept k s t) :
    RegKept k s (Machine.retireDesc p q e st t) := by
  unfold Machine.retireDesc
  extract_lets cls i ok s1 s2 key ek s3 s4 cmd hub s5 s6 s7 s8
  have h1 : RegKept k s s1 := holds_ite (h.rfput (hk.cvu _ _ _ _)) h
  have h2 : RegKept k s s2 := h1.endAll.frame rfl
  have h3 : RegKept k s s3 := h2.rfadd (hk.engine _ _ _ _ _)
  have h4 : RegKept k s s4 := holds_ite (h3.rfsat (hk.engine _ _ _ _ _)) h3
  have h5 : RegKept k s s5 := h4.frame rfl
  have h6 : RegKept k s s6 := (h5.rfput (hk.stand _ _ _ _)).rfput (hk.stand _ _ _ _)
  have h7 : RegKept k s s7 :=
    ((h6.rfsat (hk.engine _ _ _ _ _)).rfput (hk.engine _ _ _ _ _)).rfput (hk.engine _ _ _ _ _)
  have h8 : RegKept k s s8 :=
    holds_ite (queueAdvance hk (h5.rfput (hk.stand _ _ _ _))) (holds_ite h7 (report hk h7))
  split
  split
  · exact retireRec hk h8
  · exact h8

theorem finishDesc {p q : Nat} {e : Exec} {st : Status} (h : RegKept k s t) :
    RegKept k s (Machine.finishDesc p q e st t) := by
  have hput : ∀ {u : State} v, RegKept k s u → RegKept k s (putExec p q v u) := fun _ hu => hu.frame rfl
  unfold Machine.finishDesc
  refine holds_ite (retireDesc hk h) ?_
  split
  · split
    · next hsent => exact retireDesc hk (holds_of_eq (doneSend hk h) hsent)
    · next hsent => exact hput _ (holds_of_eq (doneSend hk h) hsent)
    · next hsent => exact retireDesc hk (holds_of_eq (doneSend hk h) hsent)
  · split
    · exact retireDesc hk h
    · exact retireDesc hk h
    · exact holds_ite h (retireDesc hk h)

theorem abortQueue {p q : Nat} {st : Status} (h : RegKept k s t) : RegKept k s (Machine.abortQueue p q st t).2 := by
  unfold Machine.abortQueue
  split
  · split
    · exact holds_ite_snd (finishDesc hk h) (retireDesc hk h)
    · exact retireDesc hk h
  · refine holds_ite_snd h ?_
    split
    · exact retireDesc hk h
    · exact holds_ite_snd (retireDesc hk h) h

theorem settled {p q : Nat} (h : RegKept k s t) : RegKept k s (stopDescs.settled p q t) := by
  unfold stopDescs.settled
  split
  · exact retireDesc hk h
  · exact h

theorem retireVerb {c : Cmd} {st : Status} {r0 detail : Word} (h : RegKept k s t) :
    RegKept k s (Machine.retireVerb c st r0 detail t) := by
  refine holds_ite ?_ (retireRec hk h)
  split
  · next hsent => exact retireRec hk (holds_of_eq (doneSend hk h) hsent)
  · next hsent =>
    have hset : ∀ {u : State} v, RegKept k s u → RegKept k s { u with dones := v } := fun _ hu => hu.frame rfl
    exact noteFlight (hset _ (holds_of_eq (doneSend hk h) hsent))
  · next hsent => exact retireRec hk (holds_of_eq (doneSend hk h) hsent)

theorem endLong {st : Status} {r0 detail : Word} (h : RegKept k s t) : RegKept k s (Machine.endLong st r0 detail t) := by
  have hset : RegKept k s { t with arb := none } := h.frame rfl
  unfold Machine.endLong
  split
  · exact retireVerb hk hset
  · exact h

theorem abortTarget {c : Cmd} (h : RegKept k s t) : RegKept k s (Machine.abortTarget c t).2 := by
  unfold Machine.abortTarget
  split
  · exact holds_ite_snd h (endJob hk h)
  · refine holds_ite_snd h ?_
    split
    · exact holds_ite_snd (abortQueue hk h) (retireRec hk (h.frame rfl))
    · split
      · exact holds_ite_snd (holds_ite_snd (endLong hk h.undrain) h) (retireRec hk h)
      · exact retireRec hk h

theorem stopDescs (h : RegKept k s t) : RegKept k s (Machine.stopDescs t) := by
  unfold Machine.stopDescs
  extract_lets s1 s2 s3
  have h1 : RegKept k s s1 := holds_foldl h fun _ _ hu => holds_foldl hu fun _ _ hv =>
    holds_ite (settled hk (abortQueue hk hv)) hv
  have h2 : RegKept k s s2 := holds_foldl h1 fun _ _ hu => abortTarget hk hu
  have h3 : RegKept k s s3 := holds_foldl h2 fun _ _ hu => settled hk hu
  exact holds_foldl h3 fun _ _ hu => abortTarget hk hu

theorem stopModule (h : RegKept k s t) : RegKept k s (Machine.stopModule t) := stopDescs hk h.stopStands

end

end RegKept

/-! ### The stand map while the module stops and its requests are sent elsewhere -/

/-- The stand map is none of the registers that the ends of commands and descriptors write (R41). -/
theorem spared_standMap (p : Nat) : Spared (IorStandMap.key p) where
  stand _ _ _ _ := Ne.symm standKey_ne_ringKey
  unit c i o hc := by
    unfold IorStandMap.key ringKey
    omega
  count q := by
    unfold IorStandMap.key IorPortCount.key ringKey
    omega
  firmware := by
    unfold IorStandMap.key RgrFwStatus.key ringKey
    omega

theorem standMap_ne_blzState (p : Nat) : IorStandMap.key p ≠ RgrBlzState.key := by
  unfold IorStandMap.key RgrBlzState.key ringKey
  omega

/-- A stand is found by the map alone. -/
theorem physOf_of_roles {s t : State} (h : ∀ p, p < 64 → RegKept (IorStandMap.key p) s t) (l : Nat) :
    physOf t l = physOf s l := by
  refine List.find?_congr ?_
  intro p hp
  have hlt : p < 64 := List.mem_range.1 (List.mem_filter.1 hp).1
  rw [logicalOf, rf, h p hlt, logicalOf, rf]

theorem roleOf_of_roles {p : Nat} {s t : State} (h : RegKept (IorStandMap.key p) s t) : roleOf t p = roleOf s p := by
  rw [roleOf, rf, h, roleOf, rf]

theorem sameStands_svcReroute (s : State) : SameStands s (svcReroute s) := by
  refine holds_foldl (.refl s) fun u r hu => holds_ite hu ?_
  cases svcDest u r.kind with
  | error st =>
    have hset : ∀ v, SameStands s { u with waits := v } := fun _ => hu.frame rfl
    exact holds_ite (hset _).respond hu
  | ok dst => exact holds_ite hu.noRoute hu

theorem mode_noRoute (src : MeshSrc) (addr : BitVec 48) (s : State) : (noRoute src addr s).mode = s.mode := by
  have herr : (srcErr stNoServiceRoute src addr.toNat s).mode = s.mode :=
    holds_ite (P := fun u : State => u.mode = s.mode) rfl rfl
  exact (report_mode ..).trans herr

theorem mode_svcReroute (s : State) : (svcReroute s).mode = s.mode := by
  refine holds_foldl (P := fun u : State => u.mode = s.mode) rfl fun u r hu =>
    holds_ite (P := fun v : State => v.mode = s.mode) hu ?_
  cases svcDest u r.kind with
  | error st => exact holds_ite (P := fun u : State => u.mode = s.mode) hu hu
  | ok dst => exact holds_ite (P := fun u : State => u.mode = s.mode) ((mode_noRoute ..).trans hu) hu

/-- The module stopped and FENCED, before what is named is marked. -/
def fenced (s : State) : State := { stopModule s with mode := .fenced }

theorem regKept_fenced (s : State) (p : Nat) : RegKept (IorStandMap.key p) s (fenced s) :=
  ((RegKept.refl s).stopModule (spared_standMap p)).frame rfl

theorem fence_eq (mark : State → State) (s : State) :
    fence mark s = svcReroute (rfput RgrBlzState.key RgrBlzState.relocated 0 (mark (fenced s))) := rfl

theorem mode_fence {mark : State → State} (hmark : ∀ u, (mark u).mode = u.mode) (s : State) :
    (fence mark s).mode = .fenced := by
  rw [fence_eq, mode_svcReroute, rfput_mode, hmark]
  rfl

/-! ### The marks -/

/-- An array whose state is set to 5 is fenced whatever its stand does. -/
theorem arrState_of_field {p a : Nat} {s : State}
    (h : (if isMemIdx a then rf s (MaStatus.key p a) MaStatus.arrayState else rf s (CaStatus.key p a) CaStatus.arrayState) = 5) :
    arrState s p a = 5 := by
  unfold arrState
  dsimp only
  rw [h, if_pos (by decide)]

/-- What FENCE_ARRAY marks: the array a of the logical stand l, unless the stand has tripped (R509). -/
def markArray (l a : Nat) (s : State) : State :=
  match physOf s l with
  | some p => if roleOf s p = 5 then s else putArrState p a 5 s
  | none => s

/-- What FENCE_STAND marks: the role of the logical stand l, unless the stand has tripped (R509). -/
def markStand (l : Nat) (s : State) : State :=
  match physOf s l with
  | some p => if roleOf s p = 5 then s else rfput (IorStandMap.key p) IorStandMap.role 3 s
  | none => s

theorem mode_putArrState (p a v : Nat) (s : State) : (putArrState p a v s).mode = s.mode := by
  unfold putArrState
  split
  · rw [rfput_mode]
    split
    · rfl
    · exact rfput_mode ..
  · exact rfput_mode ..

theorem mode_markArray (l a : Nat) (s : State) : (markArray l a s).mode = s.mode := by
  unfold markArray
  split
  · split
    · rfl
    · exact mode_putArrState ..
  · rfl

theorem mode_markStand (l : Nat) (s : State) : (markStand l s).mode = s.mode := by
  unfold markStand
  split
  · split
    · rfl
    · exact rfput_mode ..
  · rfl

section
variable {s : State} {l p : Nat} (hphys : physOf s l = some p) (hrole : roleOf s p ≠ 5)
include hphys hrole

theorem physOf_fenced : physOf (fenced s) l = some p ∧ roleOf (fenced s) p ≠ 5 :=
  ⟨(physOf_of_roles (fun q _ => regKept_fenced s q) l).trans hphys, (roleOf_of_roles (regKept_fenced s p)).trans_ne hrole⟩

theorem arrState_fence_markArray (a : Nat) : arrState (fence (markArray l a) s) p a = 5 := by
  obtain ⟨hnamed, hlive⟩ := physOf_fenced hphys hrole
  have hblaze : ∀ c o, standKey p c a o ≠ RgrBlzState.key := fun _ _ => standKey_ne_ringKey
  refine arrState_of_field ?_
  rw [fence_eq, markArray, hnamed]
  dsimp only
  rw [if_neg hlive, putArrState]
  split
  · rw [rf, MaStatus.key, svcReroute_standKey _, rg_rfput_key _ _ _ _ _ (hblaze _ _)]
    exact (rf_rfput_self _ (MaStatus.key p a) MaStatus.arrayState 5 (by decide)).trans (by decide)
  · rw [rf, CaStatus.key, svcReroute_standKey _, rg_rfput_key _ _ _ _ _ (hblaze _ _)]
    exact (rf_rfput_self _ (CaStatus.key p a) CaStatus.arrayState 5 (by decide)).trans (by decide)

theorem roleOf_fence_markStand : roleOf (fence (markStand l) s) p = 3 := by
  obtain ⟨hnamed, hlive⟩ := physOf_fenced hphys hrole
  have hp : p < 64 := List.mem_range.1 (List.mem_filter.1 (List.mem_of_find?_eq_some hphys)).1
  rw [fence_eq, markStand, hnamed]
  dsimp only
  rw [if_neg hlive, roleOf, rf, (sameStands_svcReroute _).roles p hp, rg_rfput_key _ _ _ _ _ (standMap_ne_blzState p)]
  exact (rf_rfput_self _ (IorStandMap.key p) IorStandMap.role 3 (by decide)).trans (by decide)

end

/-! ### The verbs -/

theorem doFenceArray_runs {c : Cmd} {s : State} (h : verbIssues 7 c (c.zero 19 45) s = true)
    (hallowed : fenceAllowed (verbReady c s) = true) (hl : c.num 16 1 ≤ 55) (hx : c.num 17 1 ≤ 63) (hy : c.num 18 1 ≤ 63) :
    doFenceArray c s = retireVerb c stDone 0 0
      (fence (markArray (c.num 16 1) (arrIdx (c.num 17 1) (c.num 18 1))) (verbReady c s)) := by
  unfold doFenceArray
  dsimp only
  rw [issueVerb_runs _ _ _ _ _ h, hallowed, if_neg (by decide), if_neg (by omega)]
  rfl

theorem doFenceStand_runs {c : Cmd} {s : State} (h : verbIssues 8 c (c.zero 17 47) s = true)
    (hallowed : fenceAllowed (verbReady c s) = true) (hl : c.num 16 1 ≤ 55) :
    doFenceStand c s = retireVerb c stDone 0 0 (fence (markStand (c.num 16 1)) (verbReady c s)) := by
  unfold doFenceStand
  dsimp only
  rw [issueVerb_runs _ _ _ _ _ h, hallowed, if_neg (by decide), if_neg (by omega)]
  rfl

/-- Settles O21: the stand map says after the module has stopped what it said before (`regKept_fenced`), so the mark falls on
the stand that was named. -/
theorem fencesFence : Obligations.FencesFence := by
  unfold Obligations.FencesFence
  refine ⟨fun c p s h hallowed hl hx hy hphys hrole => ?_, fun c p s h hallowed hl hphys hrole => ?_⟩
  · exact ⟨_, congrArg Host.Outcome.next (doFenceArray_runs h hallowed hl hx hy), mode_fence (mode_markArray _ _) _,
      arrState_fence_markArray hphys hrole _⟩
  · exact ⟨_, congrArg Host.Outcome.next (doFenceStand_runs h hallowed hl), mode_fence (mode_markStand _) _,
      roleOf_fence_markStand hphys hrole⟩

end Sys2Proof.Proofs
end

section
/-!
PROOFS. LOAD_IMAGE (R351, R357, R363, R364, R496, O15): the module's own state is set once, and what is loaded after it leaves
that state alone.
-/

namespace Sys2Proof.Proofs

open Sys2Proof.Machine Sys2Proof.Laws

/-! ### The module's own state while stands are loaded -/

/-- The module's state, image, epoch and taints (R350, R496). -/
def moduleView (s : State) : ModState × List Byte × Nat × Bool × List (Status × Word) :=
  (s.mode, s.image, s.epoch, s.tainted, s.taints)

/-- The module's own state is in t as in s. -/
def SameModule (s t : State) : Prop := moduleView t = moduleView s

namespace SameModule

variable {s t u : State}

theorem refl (s : State) : SameModule s s := rfl

theorem frame (h : SameModule s t) (e : moduleView u = moduleView t) : SameModule s u := e.trans h

theorem rput {k : Nat} {w : Word} (h : SameModule s t) : SameModule s (Machine.rput k w t) := h.frame rfl

theorem rfput {k v : Nat} {f : Fld} (h : SameModule s t) : SameModule s (Machine.rfput k f v t) := h.rput

theorem rfadd {k n : Nat} {f : Fld} (h : SameModule s t) : SameModule s (Machine.rfadd k f n t) := h.rfput

theorem obWrite {l : Loc} {lane b : Nat} {bs : List Byte} (h : SameModule s t) :
    SameModule s (Machine.obWrite l lane b bs t) := by
  induction bs generalizing b t with
  | nil => exact h
  | cons v vs ih => exact ih (h.frame rfl)

theorem memSplice {k : Nat} {bs : List Byte} (h : SameModule s t) : SameModule s (Machine.memSplice k bs t) := h.frame rfl

theorem setTag {k : Nat} {b : Bool} (h : SameModule s t) : SameModule s (Machine.setTag k b t) := h.frame rfl

theorem putCredit {c v : Nat} (h : SameModule s t) : SameModule s (Machine.putCredit c v t) := h.frame rfl

/-! ### Register lists (R356) -/

theorem commitHdl {p i : Nat} {v : Word} (h : SameModule s t) : SameModule s (Machine.commitHdl p i v t).2 :=
  holds_ite_snd h (h.rput.rfput.rfadd)

theorem listWrite {raw : Bool} {k : Nat} {v : Word} (h : SameModule s t) : SameModule s (Machine.listWrite raw k v t) := by
  have hput : ∀ p o bs, SameModule s (putDesc p o bs t) := fun _ _ _ => h.frame rfl
  have hlen : ∀ p i, SameModule s (stageHdlLen p i v t) := fun _ _ => h.frame rfl
  exact holds_ite h.obWrite.rfadd (holds_ite (hput _ _ _).rfadd (holds_ite (hlen _ _)
    (holds_ite (holds_ite h.rfput.rput h.commitHdl) (holds_ite h.rput h.rput))))

theorem applyList {keep : Nat → Bool} {l : List (Nat × Word)} (h : SameModule s t) :
    SameModule s (Machine.applyList keep l t) :=
  holds_foldl h fun _ x hu => by
    split
    · exact hu
    · split
      · exact hu
      · exact holds_ite hu.listWrite hu

/-! ### The parts of a load (R357) -/

theorem standbyRegs {p : Nat} (h : SameModule s t) : SameModule s (Machine.standbyRegs p t) := h.frame rfl

theorem recodeDram {old : Word} (h : SameModule s t) : SameModule s (Machine.recodeDram old t) := by
  have hflip : ∀ {u : State} w, SameModule s u → SameModule s (flipParity w u) := fun _ hu => hu.frame rfl
  exact holds_ite h (holds_foldl h fun _ _ hu => holds_ite (hflip _ hu) hu)

theorem loadOb {b : List Byte} {pick : Bool → Bool} {x : Section} (h : SameModule s t) :
    SameModule s (Machine.loadOb b pick x t) := by
  unfold Machine.loadOb
  dsimp only
  split
  · exact h
  · exact holds_foldl h fun _ _ hu => holds_ite hu.obWrite hu

theorem loadSram {b : List Byte} {x : Section} (h : SameModule s t) : SameModule s (Machine.loadSram b x t) :=
  holds_foldl h fun _ _ hu => by
    dsimp only
    split
    · exact hu
    · split
      · exact hu
      · exact holds_foldl hu.memSplice fun _ _ hv => holds_ite hv hv.setTag

theorem loadDram {addr : Nat} {bs : List Byte} (h : SameModule s t) : SameModule s (Machine.loadDram addr bs t) :=
  holds_foldl h fun _ _ hu => by
    dsimp only
    split
    · exact hu.memSplice
    · exact hu

theorem loadCounters {p : Nat} (h : SameModule s t) : SameModule s (Machine.loadCounters p t) :=
  holds_foldl h fun _ _ hu => holds_ite hu (holds_foldl hu fun _ _ hv => hv.rput)

theorem loadHub {p : Nat} (h : SameModule s t) : SameModule s (Machine.loadHub p t) := by
  have hcvu : ∀ {u : State} q v, SameModule s u → SameModule s (cvuSet false p q v u) := fun _ _ hu => hu.rput.rfput
  exact holds_foldl (holds_foldl h fun _ _ hu => hcvu _ _ hu) fun _ _ hu => hu.rput

theorem loadCredits {p : Nat} (h : SameModule s t) : SameModule s (Machine.loadCredits p t) :=
  holds_foldl h fun _ _ hu => holds_foldl hu fun _ _ hv => hv.putCredit

theorem gatesOn (h : SameModule s t) : SameModule s (Machine.gatesOn t) := h.frame rfl

theorem buildParity {g : Nat} (h : SameModule s t) : SameModule s (Machine.buildParity g t) := by
  unfold Machine.buildParity
  split
  · exact h
  · exact h.frame rfl

theorem loadParityRegs (h : SameModule s t) : SameModule s (Machine.loadParityRegs t) :=
  holds_foldl h fun _ _ hu => by
    split
    · exact hu.rput
    · exact hu.rput

end SameModule

/-- The module's own state after a load, whatever it was (R350, R496). -/
theorem moduleView_loadModule (b : List Byte) (s : State) : moduleView (loadModule b s) = (.loaded, b, 1, false, []) := by
  unfold loadModule
  extract_lets u v
  have hu : moduleView u = (.loaded, b, 1, false, []) := rfl
  have hv : SameModule u v := (((SameModule.refl u).rput).rput).rput.rput
  exact (hv.rfput : SameModule u _).trans hu

/-- An image that is applied leaves the module LOADED with it, in epoch 1 and not tainted (R357, R496). -/
theorem moduleView_applyImage (b : List Byte) (s : State) : moduleView (applyImage b s) = (.loaded, b, 1, false, []) := by
  unfold applyImage
  extract_lets old s1 ps s2 s3 s4 s5 s6 s7 s8 s9 s10 s11 s12
  have h3 : moduleView s3 = (.loaded, b, 1, false, []) := moduleView_loadModule b _
  have h4 : SameModule s3 s4 := (SameModule.refl s3).frame rfl
  have h5 : SameModule s3 s5 := .recodeDram (holds_foldl h4 fun _ _ hu => hu.rput.standbyRegs)
  have h6 : SameModule s3 s6 := h5.applyList
  have h7 : SameModule s3 s7 := holds_foldl h6 fun _ _ hu => hu.loadOb
  have h8 : SameModule s3 s8 := holds_foldl h7 fun _ _ hu => hu.loadSram
  have h9 : SameModule s3 s9 := holds_foldl h8 fun _ _ hu => hu.loadDram
  have h10 : SameModule s3 s10 := holds_foldl h9 fun _ _ hu => by
    split
    · exact hu.rput
    · exact hu
  have h11 : SameModule s3 s11 := holds_foldl h10 fun _ _ hu => by
    dsimp only
    split
    · exact hu.rput
    · exact hu
  have h12 : SameModule s3 s12 := holds_foldl h11 fun _ _ hu => hu.loadCounters.loadHub.loadCredits
  have hend : SameModule s3 (loadParityRegs ((List.range 4).foldl (fun s g => buildParity g s) (gatesOn s12))) :=
    .loadParityRegs (holds_foldl h12.gatesOn fun _ _ hu => hu.buildParity)
  exact hend.trans h3

/-! ### What refuses an image (R357, R364) -/

theorem loadFault_of_answered {c : Cmd} {img : List Byte} {late : List (BitVec 2)} {s : State}
    (hform : formFault img (c.num 24 8) = none) (hlinks : sectionLinks c img s = true)
    (himage : imageFault s img (c.num 24 8) = none) : loadFault c img ⟨none, late⟩ s = none := by
  rw [loadFault, hform, hlinks, himage]
  rfl

theorem loadFault_of_failed {c : Cmd} {img : List Byte} {late : List (BitVec 2)} {s : State} {st : Status} {a : Word}
    (hform : formFault img (c.num 24 8) = none) (hlinks : sectionLinks c img s = true) :
    loadFault c img ⟨some (st, a), late⟩ s = some (st, a) := by
  have hhead : headFault c img ⟨some (st, a), late⟩ = some (st, a) ∨ headFault c img ⟨some (st, a), late⟩ = none :=
    (Decidable.em _).imp (fun h => if_pos h) fun h => if_neg h
  rw [loadFault, hform, hlinks]
  rcases hhead with hhead | hhead
  · rw [hhead]
    rfl
  · rw [hhead]
    rfl

/-- The stalls that late answers cause are noted before the image is judged (R363). -/
def stallsNoted (late : List (BitVec 2)) (s : State) : State := late.foldl (fun s p => noteStall p.toNat s) s

section
variable {c : Cmd} {img : List Byte} {r : LoadReads} {s : State}
  (h : verbIssues 1 c (loadBodyOk c) s = true) (hhost : c.fromHost = true) (hopen : loadBarred (verbReady c s) = none)
include h hhost hopen

theorem doLoadImage_refused {st : Status} {loc : Word}
    (hfault : loadFault c img r (stallsNoted r.late (verbReady c s)) = some (st, loc)) :
    doLoadImage c img r s = retireAs (!r.late.isEmpty) c st 0 0 loc (stallsNoted r.late (verbReady c s)) := by
  have hbody : (loadBodyOk c || !c.fromHost) = loadBodyOk c := by rw [hhost, Bool.not_true, Bool.or_false]
  rw [doLoadImage, hbody, issueVerb_runs _ _ _ _ _ h, hhost, if_neg (by decide), hopen]
  dsimp only
  rw [← stallsNoted, hfault]

theorem doLoadImage_applies (hfault : loadFault c img r (stallsNoted r.late (verbReady c s)) = none) :
    doLoadImage c img r s = retireAs (!r.late.isEmpty) c stDone (BitVec.ofNat 64 (imgId img)) 0 0
      (applyImage img (stallsNoted r.late (verbReady c s))) := by
  have hbody : (loadBodyOk c || !c.fromHost) = loadBodyOk c := by rw [hhost, Bool.not_true, Bool.or_false]
  rw [doLoadImage, hbody, issueVerb_runs _ _ _ _ _ h, hhost, if_neg (by decide), hopen]
  dsimp only
  rw [← stallsNoted, hfault]

end

/-- Settles O15: no fault is found where the reads are answered, and the first that is found where one fails is the read's. -/
theorem loadImageApplies : Obligations.LoadImageApplies := by
  unfold Obligations.LoadImageApplies
  intro c img late s h hhost hopen m hform hlinks
  refine ⟨fun himage => ⟨applyImage img m, congrArg Host.Outcome.next
      (doLoadImage_applies h hhost hopen (loadFault_of_answered hform hlinks himage)), ?_⟩,
    fun st a => congrArg Host.Outcome.next (doLoadImage_refused h hhost hopen (loadFault_of_failed hform hlinks))⟩
  simpa only [moduleView, Prod.mk.injEq] using moduleView_applyImage img m

end Sys2Proof.Proofs
end

section
/-!
PROOFS. The commands that keep the fuses (R541 to R544, R561, O5).
-/

namespace Sys2Proof.Proofs

open Sys2Proof.Machine Sys2Proof.Laws

/-- Settles O5: every command but FUSE_WRITE keeps the fuses, among the other things that it keeps. -/
theorem onlyFuseWriteChangesFuses : Obligations.OnlyFuseWriteChangesFuses := by
  unfold Obligations.OnlyFuseWriteChangesFuses
  exact fun i s _ hi e => (((Keeps.refl s).exec i hi).of_next e).fuses

end Sys2Proof.Proofs
end

section
/-!
PROOFS. The clocks of the module. The gate nodes that bar START and RESUME (R438, O17), the glides of the slot clock (R423,
O25), and the loss of a stand's clock source (R427, R428, O53).
-/

namespace Sys2Proof.Proofs

open Sys2Proof.Machine Sys2Proof.Laws

/-! ### Set-up writes that pass their gate (R42, R525) -/

section
variable {via : Via} {k : Nat} {f : State → Status × State} {s t : State}

theorem viaWrite_of_done (h : passes via true k s) (hf : f s = (stDone, t)) : (viaWrite via k f s).2 = t := by
  rw [viaWrite_runs _ _ _ _ h, hf, if_pos rfl]

theorem viaWrite_of_refused {st : Status} (h : passes via true k s) (hf : f s = (st, t)) (hst : st ≠ stDone) :
    (viaWrite via k f s).2 = countVia via k st t := by
  rw [viaWrite_runs _ _ _ _ h, hf, if_neg hst]

end

/-! ### The gate nodes that bar START and RESUME (R438) -/

section
variable {s : State} {p n : Nat}

theorem gate_lt (h : isGate n = true) : n < 0x300 := by
  simp only [isGate, Bool.or_eq_true, Bool.and_eq_true, decide_eq_true_eq] at h
  omega

/-- The test by which the search for a node that bars goes through the nodes of a stand. -/
def barsAt (s : State) (p n : Nat) : Bool :=
  gateSt s p n != 0 && isGate n && (0x100 ≤ n || (0x10 ≤ n && n ≤ 0x20 && (engineOfBit (n - 0x10)).any (fun (c, i) =>
    (List.range 28).any (fun q => qMode s p q != 0 && qClass s p q = c && qIndex s p q = i))))

theorem gateBars_eq (s : State) : gateBars s =
    (servicePhys s).findSome? fun p => ((List.range 0x300).find? (barsAt s p)).map fun n => (p, n) := rfl

theorem gateBarred_iff : gateBarred s p n ↔ p ∈ servicePhys s ∧ barsAt s p n = true := by
  have hqueue : ((engineOfBit (n - 0x10)).any (fun (c, i) =>
      (List.range 28).any (fun q => qMode s p q != 0 && qClass s p q = c && qIndex s p q = i))) = true ↔
      ∃ q, q < 28 ∧ qMode s p q ≠ 0 ∧ (qClass s p q, qIndex s p q) ∈ engineOfBit (n - 0x10) := by
    simp only [List.any_eq_true, List.mem_range, Bool.and_eq_true, bne_iff_ne, decide_eq_true_eq]
    constructor
    · rintro ⟨⟨c, i⟩, hmem, q, hq, ⟨hmode, rfl⟩, rfl⟩
      exact ⟨q, hq, hmode, hmem⟩
    · rintro ⟨q, hq, hmode, hmem⟩
      exact ⟨_, hmem, q, hq, ⟨hmode, rfl⟩, rfl⟩
  simp only [gateBarred, barsAt, Bool.and_eq_true, Bool.or_eq_true, bne_iff_ne, decide_eq_true_eq, hqueue]
  constructor
  · rintro ⟨hp, hgate, hst, hn | ⟨q, hq, hmode, hmem, hlo, hhi⟩⟩
    · exact ⟨hp, ⟨hst, hgate⟩, .inl hn⟩
    · exact ⟨hp, ⟨hst, hgate⟩, .inr ⟨⟨hlo, hhi⟩, q, hq, hmode, hmem⟩⟩
  · rintro ⟨hp, ⟨hst, hgate⟩, hn | ⟨⟨hlo, hhi⟩, q, hq, hmode, hmem⟩⟩
    · exact ⟨hp, hgate, hst, .inl hn⟩
    · exact ⟨hp, hgate, hst, .inr ⟨q, hq, hmode, hmem, hlo, hhi⟩⟩

/-- The search finds a node that bars, if there is one. -/
theorem gateBars_of_gateBarred (h : gateBarred s p n) : ∃ q m, gateBarred s q m ∧ gateBars s = some (q, m) := by
  obtain ⟨hp, hbars⟩ := gateBarred_iff.1 h
  have hlt : n < 0x300 := gate_lt h.2.1
  have hfound : (gateBars s).isSome = true := by
    rw [gateBars_eq, List.findSome?_isSome_iff]
    refine ⟨p, hp, ?_⟩
    rw [Option.isSome_map, List.find?_isSome]
    exact ⟨n, List.mem_range.2 hlt, hbars⟩
  obtain ⟨⟨q, m⟩, hqm⟩ := Option.isSome_iff_exists.1 hfound
  refine ⟨q, m, gateBarred_iff.2 ?_, hqm⟩
  obtain ⟨r, hr, hrm⟩ := List.exists_of_findSome?_eq_some hqm
  obtain ⟨k, hk, hrk⟩ := Option.map_eq_some_iff.1 hrm
  cases hrk
  exact ⟨hr, List.find?_some hk⟩

theorem startRefusal_of_gateBarred (hcheck : recheck s = none) (h : gateBarred s p n) :
    ∃ q m, gateBarred s q m ∧ startRefusal s = some (stBadState, locUnit (logicalOf s q) q 0 0 0 0 m) := by
  obtain ⟨q, m, hqm, e⟩ := gateBars_of_gateBarred h
  refine ⟨q, m, hqm, ?_⟩
  rw [startRefusal, hcheck, gateRefusal, e]
  rfl

end

theorem doStart_of_refused {c : Cmd} {s : State} {st : Status} {loc : Word} (h : verbIssues 2 c (c.zero 16 48) s = true)
    (hmode : (verbReady c s).mode = .loaded) (hno : startRefusal (verbReady c s) = some (st, loc)) :
    doStart c s = refuse c st loc (verbReady c s) := by
  rw [doStart, issueVerb_runs _ _ _ _ _ h, hmode, if_neg (by simp), hno]

theorem doResume_of_refused {c : Cmd} {s : State} {st : Status} {loc : Word} (h : verbIssues 6 c (c.zero 16 48) s = true)
    (hmode : (verbReady c s).mode = .drained) (hno : startRefusal (verbReady c s) = some (st, loc)) :
    doResume c s = refuse c st loc (verbReady c s) := by
  rw [doResume, issueVerb_runs _ _ _ _ _ h, hmode, if_neg (by simp), hno]

/-- Settles O17: the search of R438 finds a node that bars, and names it. -/
theorem gatedUnitsBarStart : Obligations.GatedUnitsBarStart := by
  unfold Obligations.GatedUnitsBarStart
  intro c p n s u named hcheck hbarred
  obtain ⟨q, m, hqm, hno⟩ := startRefusal_of_gateBarred hcheck hbarred
  exact ⟨fun h hmode => ⟨q, m, hqm, congrArg Host.Outcome.next (doStart_of_refused h hmode hno)⟩,
    fun h hmode => ⟨q, m, hqm, congrArg Host.Outcome.next (doResume_of_refused h hmode hno)⟩⟩

/-! ### The glides of the slot clock (R423) -/

section
variable {s : State} {khz : Nat}

theorem khz_startGlide (h : khz < 2 ^ 32) : rf (startGlide khz s) ClkSlotCfg.key ClkSlotCfg.khz = khz := by
  have hset : rf (rfput ClkSlotCfg.key ClkSlotCfg.khz khz s) ClkSlotCfg.key ClkSlotCfg.khz = khz :=
    (rf_rfput_self _ _ _ _ (by decide)).trans (Nat.mod_eq_of_lt h)
  unfold startGlide
  dsimp only
  split
  · exact hset
  · exact (rf_rfput_key _ _ _ _ _ _ (by decide)).trans hset

/-- A verb that takes the arbiter changes no more than that and its flight. -/
theorem beginLong_frame (code : Nat) (c : Cmd) (s : State) :
    ∃ r v, beginLong code c s = { s with arb := some (code, c), rings := r, sessions := v } := by
  obtain ⟨r, v, e⟩ := noteFlight_frame c { s with arb := some (code, c) }
  exact ⟨r, v, e⟩

theorem num_lt (c : Cmd) (o n : Nat) : c.num o n < 2 ^ (8 * n) := Nat.mod_lt _ (Nat.two_pow_pos _)

theorem doSetClock_of_locked {c : Cmd} (h : verbIssues 0x0D c (c.zero 20 44) s = true) (href : refState (verbReady c s) = 1)
    (hidle : (verbReady c s).ringClk.glide = none) (hok : slotRefusal (verbReady c s) (setClockKhz c) = none) :
    doSetClock c s = beginLong 0x0D c (startGlide (setClockKhz c) (verbReady c s)) := by
  rw [doSetClock, issueVerb_runs _ _ _ _ _ h, if_neg (by simp [hidle]), hok]
  dsimp only
  rw [if_neg (by rw [href]; decide)]

theorem doSlotCfg_of_allowed {via : Via} {v : Word} (h : passes via true ClkSlotCfg.key s) (hidle : s.ringClk.glide = none)
    (hok : slotRefusal s (fldGet ClkSlotCfg.khz v) = none) :
    (doSlotCfg via v s).2 = startGlide (fldGet ClkSlotCfg.khz v) s := by
  refine viaWrite_of_done h ?_
  dsimp only
  rw [if_neg (by simp [hidle]), hok]

/-- The registers and the clock at the end of a glide. -/
def glideEnded (khz : Nat) (s : State) : State :=
  rfput ClkSlotStatus.key ClkSlotStatus.locked 1 (rfput ClkRefStatus.key ClkRefStatus.state 1
    (rfput ClkSlotStatus.key ClkSlotStatus.gliding 0 (rfput ClkSlotStatus.key ClkSlotStatus.currentKhz khz
      { s with ringClk := { s.ringClk with glide := none } })))

theorem doGlideEnd_of_idle (hglide : s.ringClk.glide = some khz) (harb : s.arb = none) :
    doGlideEnd s = glideEnded khz s := by
  unfold doGlideEnd
  rw [hglide]
  change afterGlide (glideEnded khz s) = _
  rw [afterGlide, show (glideEnded khz s).arb = none from harb]

theorem glideEnded_shows (h : khz < 2 ^ 32) :
    rf (glideEnded khz s) ClkSlotStatus.key ClkSlotStatus.currentKhz = khz ∧
    rf (glideEnded khz s) ClkSlotStatus.key ClkSlotStatus.locked = 1 ∧
    rf (glideEnded khz s) ClkSlotStatus.key ClkSlotStatus.gliding = 0 ∧ refState (glideEnded khz s) = 1 := by
  unfold glideEnded refState
  refine ⟨?_, ?_, ?_, ?_⟩
  · simp (disch := decide) only [rf_rfput_self, rf_rfput_key, rf_rfput_field]
    exact Nat.mod_eq_of_lt h
  · simp (disch := decide) only [rf_rfput_self]
    rfl
  · simp (disch := decide) only [rf_rfput_self, rf_rfput_key, rf_rfput_field]
    rfl
  · simp (disch := decide) only [rf_rfput_self, rf_rfput_key]
    rfl

end

/-- Settles O25: both accesses begin the glide, which ends with the clock at its target. -/
theorem slotClockGlides : Obligations.SlotClockGlides := by
  unfold Obligations.SlotClockGlides
  refine ⟨fun c s h href hidle hok => ?_, fun via v s h href hidle hok => ?_, fun khz s hglide harb hkhz => ?_⟩
  · obtain ⟨r, v, e⟩ := beginLong_frame 0x0D c (startGlide (setClockKhz c) (verbReady c s))
    refine ⟨_, congrArg Host.Outcome.next ((doSetClock_of_locked h href hidle hok).trans e), rfl, ?_, ?_⟩
    · exact glide_startGlide (by rw [href]; decide)
    · exact khz_startGlide (num_lt c 16 4)
  · exact ⟨_, congrArg Host.Outcome.next (doSlotCfg_of_allowed h hidle hok), glide_startGlide (by rw [href]; decide),
      khz_startGlide (fldGet_lt ClkSlotCfg.khz v)⟩
  · exact ⟨_, congrArg Host.Outcome.next (doGlideEnd_of_idle hglide harb), rfl, glideEnded_shows hkhz⟩

/-! ### The loss of a clock source (R427, R428) -/

/-- Stand 9 in steered holdover, whose last ready side is the ring's side 1. Its neighbour 10 follows it and sends back the
marker of stand 9 that it received, so the path that comes to stand 9 on that side holds stand 9 itself. -/
def staleMarker : State := { State.reset with regs := [
  (ClkSrcStatus.key 9, fldOf ClkSrcStatus.state 1), (ClkPath.key 9, 2 ^ 9), (SeamStatus.key 9 1, fldOf SeamStatus.state 1),
  (ClkSrcSel.key 10, fldOf ClkSrcSel.src 3), (ClkSrcStatus.key 10, fldOf ClkSrcStatus.state 1)] }

theorem clkState_sourceLost_staleMarker : clkState (sourceLost 9 staleMarker) 9 = 3 := by decide +kernel

/-- Refutes O53: a stand that has a side to steer by loses it where the side's marker has come round to the stand. -/
theorem not_clockSourcesAndGates : ¬ Obligations.ClockSourcesAndGates := by
  unfold Obligations.ClockSourcesAndGates
  rintro ⟨-, -, hlost, -⟩
  obtain ⟨t, e, hstate, -⟩ := hlost 9 staleMarker (by decide) (.inl (by decide +kernel))
  have ht : t = sourceLost 9 staleMarker := by
    injection e with e
    rw [← e]
    rfl
  have hsides : (steerSides staleMarker 9).isEmpty = false := by decide +kernel
  rw [ht] at hstate
  have h3 : (3 : Nat) = 2 := by
    rw [← clkState_sourceLost_staleMarker]
    refine hstate.trans ?_
    exact if_neg (ne_true_of_eq_false hsides)
  exact absurd h3 (by decide)

end Sys2Proof.Proofs
end

section
/-!
PROOFS. The stands' rails (R457, R458, O52).
-/

namespace Sys2Proof.Proofs

open Sys2Proof.Machine Sys2Proof.Laws

/-- A stand in the last step of switching its rails off, with a queue that names a stand beyond the module. Its number takes
the power register of stand 1. -/
def strayOffQueue : State := { State.reset with power := { State.reset.power with
  ramps := [(1, 0, false, 2)], offQueue := [(0, 513)] } }

theorem tileState_doRailOff_strayOffQueue : tileState (doRailOff 1 strayOffQueue) 1 = 1 := by decide +kernel

/-- Refutes O52: the next stand of the queue begins its ramp over the state of the stand that ended its own. -/
theorem not_powerEvents : ¬ Obligations.PowerEvents := by
  unfold Obligations.PowerEvents
  rintro ⟨-, -, -, -, -, -, -, -, hoff⟩
  obtain ⟨t, e, hended, -⟩ := hoff 1 0 2 strayOffQueue (by decide) (by decide +kernel) (by decide)
  have ht : t = doRailOff 1 strayOffQueue := by
    injection e with e
    rw [← e]
    rfl
  obtain ⟨hstate, -⟩ := hended (by decide)
  rw [ht] at hstate
  exact absurd (tileState_doRailOff_strayOffQueue.symm.trans hstate) (by decide)

end Sys2Proof.Proofs
end

section
/-!
PROOFS. The verbs of a session and the time of day. The fuses, the debug port and SELFTEST (R537, R540, R543, O30), field
screening (R417 to R419, O31), and the time counter with its edges (R545, R546, O54).
-/

namespace Sys2Proof.Proofs

open Sys2Proof.Machine Sys2Proof.Laws

/-! ### The fuses, the debug port and SELFTEST (R537, R540, R543) -/

section
variable {c : Cmd} {s : State}

theorem fuseOf_putFuse_self (g : Nat) (v : FuseGen) : smapGet fuseDflt (putFuse g v s).fuses g = v :=
  smapGet_smapSet_self _ _ _ _

theorem fuseWriteRun_programs {g : Nat} (h1 : 1 ≤ fuseLen c) (h2 : fuseLen c ≤ 65536) (hgen : blankGen s = some g)
    (hcrc : crc32c (staged s (fuseLen c)) = fuseCheck c) (hok : contentFault s g (staged s (fuseLen c)) = none) :
    fuseWriteRun c false s =
      retireVerb c stDone (BitVec.ofNat 64 g) 0 (putFuse g ⟨1, staged s (fuseLen c)⟩ s) := by
  rw [fuseWriteRun, if_neg (by omega), hgen]
  dsimp only
  rw [if_neg (not_not_intro hcrc), hok]
  rfl

theorem doDebugOpen_of_allowed (h : verbIssues 0x21 c (c.zero 18 46) s = true) (h1 : 1 ≤ c.num 16 2)
    (h2 : c.num 16 2 ≤ 1440) (hallowed : debugAllowed (verbReady c s) = true) :
    doDebugOpen c s = retireVerb c stDone 0 0 (report stDebugOpen false 0 locNone 0 []
      { verbReady c s with dbg := { (verbReady c s).dbg with minutes := some (c.num 16 2), ever := true } }) := by
  rw [doDebugOpen, issueVerb_runs _ _ _ _ _ h, if_neg (by omega), hallowed]
  rfl

theorem doSelftest_of_passed (h : verbIssues 0x23 c (c.zero 16 48) s = true) (hsec : secState (verbReady c s) ≠ 3) :
    doSelftest c 0 s = retireVerb c stDone 0 0 (verbReady c s) := by
  rw [doSelftest, issueVerb_runs _ _ _ _ _ h, if_pos ⟨rfl, hsec⟩]

end

/-- Settles O30: each verb runs, and what it leaves before it retires shows the change. -/
theorem fusesDebugAndSelftest : Obligations.FusesDebugAndSelftest := by
  unfold Obligations.FusesDebugAndSelftest
  refine ⟨fun c g s h h1 h2 hgen hcrc hok => ?_, fun c s h h1 h2 hallowed => ?_, fun c s h => ?_,
    fun s => ⟨closeDebug s, rfl, rfl, rfl⟩, fun c s h hsec => congrArg Host.Outcome.next (doSelftest_of_passed h hsec)⟩
  · have hrun : doFuseWrite c false s = _ :=
      (issueVerb_runs _ _ _ _ _ h).trans (fuseWriteRun_programs h1 h2 hgen hcrc hok)
    exact ⟨_, congrArg Host.Outcome.next hrun, fuseOf_putFuse_self _ _⟩
  · exact ⟨_, congrArg Host.Outcome.next (doDebugOpen_of_allowed h h1 h2 hallowed),
      congrArg Debug.minutes (report_dbg ..), congrArg Debug.ever (report_dbg ..)⟩
  · exact ⟨closeDebug (verbReady c s), congrArg Host.Outcome.next (issueVerb_runs _ _ _ _ _ h), rfl⟩

/-! ### Field screening (R417 to R419, R429) -/

section
variable {p : Nat} {m : Int} {ratio : Nat} {s : State}

theorem screenRefusal_ratio_le (h : screenRefusal s p m ratio = none) : ratio ≤ 1080 := by
  unfold screenRefusal at h
  dsimp only at h
  split at h
  · cases h
  split at h
  · cases h
  split at h
  · cases h
  omega

theorem ratio_putScreen (h : ratio ≤ 1080) : rf (putScreen p m ratio s) (ClkDiv.key p) ClkDiv.ratio = ratio := by
  have hset : ∀ t, rf (rfput (ClkDiv.key p) ClkDiv.ratio ratio t) (ClkDiv.key p) ClkDiv.ratio = ratio := fun t =>
    (rf_rfput_self _ _ _ _ (by decide)).trans (Nat.mod_eq_of_lt (Nat.lt_of_le_of_lt h (by decide)))
  unfold putScreen
  dsimp only
  split
  · exact (rf_rfput_key _ _ _ _ _ _ standKey_ne_ringKey).trans (hset _)
  · exact hset _

theorem vmargin_putScreen : rf (putScreen p m ratio s) (PwrTile.key p) PwrTile.vmargin = (BitVec.ofInt 8 m).toNat := by
  have hset : rf (rfput (ClkDiv.key p) ClkDiv.ratio ratio (rfput (PwrTile.key p) PwrTile.vmargin (BitVec.ofInt 8 m).toNat s))
      (PwrTile.key p) PwrTile.vmargin = (BitVec.ofInt 8 m).toNat :=
    (rf_rfput_key _ _ _ _ _ _ standKey_ne_ringKey.symm).trans
      ((rf_rfput_self _ _ _ _ (by decide)).trans (Nat.mod_eq_of_lt (BitVec.ofInt 8 m).isLt))
  unfold putScreen
  dsimp only
  split
  · exact (rf_rfput_field _ _ _ _ _ (by decide)).trans hset
  · exact hset

theorem doScreenSet_of_allowed {c : Cmd} (h : verbIssues 0x28 c (c.zero 17 1 && c.zero 22 42) s = true)
    (hok : screenRefusal (verbReady c s) (c.num 16 1) (natSigned 16 (c.num 18 2)) (c.num 20 2) = none) :
    doScreenSet c s = retireVerb c stDone 0 0
      (putScreen (c.num 16 1) (natSigned 16 (c.num 18 2)) (c.num 20 2) (verbReady c s)) := by
  rw [doScreenSet, issueVerb_runs _ _ _ _ _ h]
  dsimp only
  rw [hok]

theorem reportSeq_reportMismatches (kernel pairing : Nat) (xs : List PacerMismatch) :
    ∀ s, (xs.foldl (reportMismatch p kernel pairing) s).reportSeq = s.reportSeq + BitVec.ofNat 32 xs.length := by
  induction xs with
  | nil => exact fun s => (BitVec.add_zero _).symm
  | cons x xs ih =>
    intro s
    rw [List.foldl_cons, ih, reportMismatch, report_reportSeq, List.length_cons]
    bv_omega

/-- What a kernel that is not refused does to the state before its verb retires. -/
def screened (c : Cmd) (found : List PacerMismatch) (s : State) : State :=
  ctlDesc (c.num 16 1) 9 stDone ((found.take 256).foldl (reportMismatch (c.num 16 1) (c.num 17 1) (c.num 18 1)) s)

theorem doScreenRun_of_allowed {c : Cmd} {comparisons holds : Word} {found : List PacerMismatch}
    (h : verbIssues 0x29 c (decide (1 ≤ c.num 17 1 ∧ c.num 17 1 ≤ 4 ∧ c.num 18 1 ≤ 1 ∧ 1 ≤ c.num 32 8 ∧ c.num 32 8 ≤ 2 ^ 40) &&
      c.zero 19 5 && c.zero 40 24) s = true)
    (hphys : isPhys (c.num 16 1) = true) (hrole : roleOf (verbReady c s) (c.num 16 1) = 2)
    (hpar : c.num 17 1 = 4 → rf (verbReady c s) (IorStandMap.key (c.num 16 1)) IorStandMap.parityGroup = 0xFF) :
    doScreenRun c comparisons holds found s =
      let found := if c.num 17 1 = 3 then [] else found
      retireWith c stDone (if c.num 17 1 = 3 then 0 else comparisons) (BitVec.ofNat 64 found.length) holds
        (screened c found (verbReady c s)) := by
  rw [doScreenRun]
  dsimp only
  rw [issueVerb_runs _ _ _ _ _ h, if_neg (by simp [hphys, hrole]), if_neg fun hc => hc.2 (hpar hc.1)]
  rfl

theorem reportSeq_screened {c : Cmd} {found : List PacerMismatch} :
    (screened c found s).reportSeq = s.reportSeq + BitVec.ofNat 32 (min 256 found.length) := by
  rw [screened, ctlDesc, if_pos rfl, rfadd_reportSeq, reportSeq_reportMismatches, List.length_take]

end

/-- Settles O31: each verb runs, a HEAT with no mismatch. -/
theorem screeningVerbs : Obligations.ScreeningVerbs := by
  unfold Obligations.ScreeningVerbs
  refine ⟨fun c s h hok => ?_, fun c comparisons holds found s h hphys hrole hpar => ?_⟩
  · exact ⟨_, congrArg Host.Outcome.next (doScreenSet_of_allowed h hok), ratio_putScreen (screenRefusal_ratio_le hok),
      vmargin_putScreen⟩
  · have hlen : (if c.num 17 1 = 3 then 0 else found.length) = (if c.num 17 1 = 3 then [] else found).length := by
      split <;> rfl
    dsimp only
    rw [hlen]
    exact ⟨_, congrArg Host.Outcome.next (doScreenRun_of_allowed h hphys hrole hpar), reportSeq_screened⟩

/-! ### The time of day (R545, R546) -/

section
variable {s : State} {now v : Word}

/-- The registers of the time counter that a report leaves as they are, unlike the event ring's counts of the ports. -/
theorem timeKey_ne_portCount : ∀ k ∈ [ClkTime.key, ClkPpsCapture.key, ClkPpsStatus.key], ∀ p, p < 4 → k ≠ IorPortCount.key p := by
  decide

theorem doPpsEdge_of_later (hnow : timeNow s ≤ now) : doPpsEdge now s = if edgeValid s now then
    validEdge now (putTime now s) else rfsat ClkPpsStatus.key ClkPpsStatus.badEdges 1 (putTime now s) := by
  unfold doPpsEdge
  dsimp only
  rw [if_neg (BitVec.not_lt.2 hnow)]
  rfl

/-- The counter at an edge that is taken, before the edge's value or the alignment moves it. -/
def edgeNoted (now : Word) (s : State) : State :=
  rfput ClkPpsStatus.key ClkPpsStatus.state 1 (rput ClkPpsCapture.key now (putTime now s))

theorem edgeNoted_shows : rf (edgeNoted now s) ClkPpsStatus.key ClkPpsStatus.state = 1 ∧
    rg (edgeNoted now s) ClkPpsCapture.key = now ∧ timeNow (edgeNoted now s) = now := by
  unfold edgeNoted timeNow putTime
  refine ⟨(rf_rfput_self _ _ _ _ (by decide)).trans rfl, ?_, ?_⟩
  · rw [rg_rfput_key _ _ _ _ _ (by decide), rg_rput_self]
  · rw [rg_rfput_key _ _ _ _ _ (by decide), rg_rput, if_neg (by decide), rg_rput_self]

theorem rf_state_putOffset (o : Int) :
    rf (putOffset o s) ClkPpsStatus.key ClkPpsStatus.state = rf s ClkPpsStatus.key ClkPpsStatus.state :=
  rf_rfput_field _ _ _ _ _ (by decide)

theorem rg_putOffset {k : Nat} (o : Int) (h : k ≠ ClkPpsStatus.key) : rg (putOffset o s) k = rg s k :=
  rg_rfput_key _ _ _ _ _ h

/-- A report of a step counts itself among the steps, and changes no more of the time. -/
theorem reportStep_keeps (o : Int) (s : State) :
    (reportStep o s).timeCtr = s.timeCtr ∧ timeNow (reportStep o s) = timeNow s ∧
    rg (reportStep o s) ClkPpsCapture.key = rg s ClkPpsCapture.key ∧ (reportStep o s).reportSeq = s.reportSeq + 1 ∧
    ∀ f ∈ [ClkPpsStatus.state, ClkPpsStatus.set], rf (reportStep o s) ClkPpsStatus.key f = rf s ClkPpsStatus.key f := by
  unfold reportStep timeNow
  refine ⟨report_timeCtr .., ?_, ?_, report_reportSeq .., fun f hf => ?_⟩
  · rw [rg_report _ _ _ _ _ _ _ _ (timeKey_ne_portCount _ (by simp)), rg_rfsat_key _ _ _ _ _ (by decide)]
  · rw [rg_report _ _ _ _ _ _ _ _ (timeKey_ne_portCount _ (by simp)), rg_rfsat_key _ _ _ _ _ (by decide)]
  · rw [rf_report _ _ _ _ _ _ _ _ _ (timeKey_ne_portCount _ (by simp))]
    simp only [List.mem_cons, List.not_mem_nil, or_false] at hf
    rcases hf with rfl | rfl <;> exact rf_rfput_field _ _ _ _ _ (by decide)

/-- The counter at a step, before the step's report. -/
def steppedTo (c t : Word) (setBit : Bool) (o : Int) (s : State) : State :=
  let s := putOffset o s
  let s := { s with timeCtr := { s.timeCtr with edge := some t, next := none, slew := 0, phase := 0 } }
  if c ≤ t then
    let s := putTime t { s with timeCtr := { s.timeCtr with hold := 0, setAfter := false } }
    if setBit then rfput ClkPpsStatus.key ClkPpsStatus.set 1 s else s
  else { s with timeCtr := { s.timeCtr with hold := (c - t).toNat, setAfter := setBit } }

/-- The offset that a step shows. -/
def stepOffset (c t : Word) (setBit : Bool) : Int := if setBit then (t.toNat : Int) - c.toNat else -((t.toNat : Int) - c.toNat)

theorem stepTime_eq (c t : Word) (setBit : Bool) :
    stepTime c t setBit s = reportStep (stepOffset c t setBit) (steppedTo c t setBit (stepOffset c t setBit) s) := rfl

theorem steppedTo_keeps (c t : Word) (setBit : Bool) (o : Int) (s : State) :
    (steppedTo c t setBit o s).timeCtr.next = none ∧ (steppedTo c t setBit o s).reportSeq = s.reportSeq ∧
    rg (steppedTo c t setBit o s) ClkPpsCapture.key = rg s ClkPpsCapture.key ∧
    rf (steppedTo c t setBit o s) ClkPpsStatus.key ClkPpsStatus.state = rf s ClkPpsStatus.key ClkPpsStatus.state := by
  have hoff : rg (putOffset o s) ClkPpsCapture.key = rg s ClkPpsCapture.key := rg_rfput_key _ _ _ _ _ (by decide)
  have hstate : rf (putOffset o s) ClkPpsStatus.key ClkPpsStatus.state = rf s ClkPpsStatus.key ClkPpsStatus.state :=
    rf_rfput_field _ _ _ _ _ (by decide)
  unfold steppedTo
  dsimp only
  split
  · split
    · exact ⟨rfl, rfl, (rg_rfput_key _ _ _ _ _ (by decide)).trans ((rg_rput _ _ _ _).trans hoff),
        (rf_rfput_field _ _ _ _ _ (by decide)).trans ((rf_rput_key _ _ _ _ _ (by decide)).trans hstate)⟩
    · exact ⟨rfl, rfl, (rg_rput _ _ _ _).trans hoff, (rf_rput_key _ _ _ _ _ (by decide)).trans hstate⟩
  · exact ⟨rfl, rfl, hoff, hstate⟩

/-- A step forward: the counter takes the value at once. -/
theorem steppedTo_forward {c t : Word} (o : Int) (h : c ≤ t) : timeNow (steppedTo c t true o s) = t ∧
    rf (steppedTo c t true o s) ClkPpsStatus.key ClkPpsStatus.set = 1 := by
  simp only [steppedTo, if_pos h, if_true]
  refine ⟨?_, rf_rfput_self _ _ _ _ (by decide)⟩
  rw [timeNow, rg_rfput_key _ _ _ _ _ (by decide), putTime, rg_rput_self]

/-- A step backward: the counter holds still. -/
theorem steppedTo_backward {c t : Word} (o : Int) (h : t < c) :
    timeNow (steppedTo c t true o s) = timeNow s ∧ (steppedTo c t true o s).timeCtr.hold = (c - t).toNat := by
  simp only [steppedTo, if_neg (BitVec.not_le.2 h)]
  exact ⟨rg_rfput_key _ _ _ _ _ (by decide), trivial⟩

theorem stepTime_keeps (c t : Word) (setBit : Bool) (s : State) :
    rf (stepTime c t setBit s) ClkPpsStatus.key ClkPpsStatus.state = rf s ClkPpsStatus.key ClkPpsStatus.state ∧
    rg (stepTime c t setBit s) ClkPpsCapture.key = rg s ClkPpsCapture.key ∧ (stepTime c t setBit s).timeCtr.next = none ∧
    (stepTime c t setBit s).reportSeq = s.reportSeq + 1 := by
  rw [stepTime_eq]
  obtain ⟨hctr, -, hcapture, hseq, hstatus⟩ :=
    reportStep_keeps (stepOffset c t setBit) (steppedTo c t setBit (stepOffset c t setBit) s)
  obtain ⟨hnext, hseq', hcapture', hstate⟩ := steppedTo_keeps c t setBit (stepOffset c t setBit) s
  exact ⟨(hstatus _ (by simp)).trans hstate, hcapture.trans hcapture', by rw [hctr, hnext], by rw [hseq, hseq']⟩

theorem validEdge_of_pending (h : s.timeCtr.next = some v) :
    validEdge now (putTime now s) = stepTime now v true (edgeNoted now s) := by
  unfold validEdge
  change (match s.timeCtr.next with | some t => stepTime now t true (edgeNoted now s) | none => _) = _
  rw [h]

theorem rf_align_edgeNoted : rf (edgeNoted now s) ClkPpsCfg.key ClkPpsCfg.align = rf s ClkPpsCfg.key ClkPpsCfg.align := by
  unfold edgeNoted putTime
  simp (disch := decide) only [rf_rfput_key, rf_rput_key]

theorem validEdge_of_free (h : s.timeCtr.next = none) (halign : rf s ClkPpsCfg.key ClkPpsCfg.align = 0) :
    validEdge now (putTime now s) =
      { edgeNoted now s with timeCtr := { (edgeNoted now s).timeCtr with edge := some now } } := by
  unfold validEdge
  change (match s.timeCtr.next with | some t => _ | none => if rf (edgeNoted now s) _ _ = 0 then
    { edgeNoted now s with timeCtr := { (edgeNoted now s).timeCtr with edge := some now } } else _) = _
  rw [h, rf_align_edgeNoted, if_pos halign]

/-- An edge without a pending value to which the counter aligns: it slews, or steps. -/
theorem validEdge_of_aligned (h : s.timeCtr.next = none) (halign : rf s ClkPpsCfg.key ClkPpsCfg.align ≠ 0) :
    (∃ o x, validEdge now (putTime now s) = putOffset o { edgeNoted now s with timeCtr := x } ∧ x.next = none) ∨
    ∃ t x, validEdge now (putTime now s) = stepTime now t false { edgeNoted now s with timeCtr := x } := by
  have hnext : (edgeNoted now s).timeCtr.next = none := h
  rw [← rf_align_edgeNoted (now := now)] at halign
  unfold validEdge edgeNoted at *
  generalize rfput ClkPpsStatus.key ClkPpsStatus.state 1 (rput ClkPpsCapture.key now (putTime now s)) = m at *
  dsimp only
  rw [hnext]
  dsimp only
  split
  · exact absurd ‹_› halign
  split
  · exact .inl ⟨_, _, rfl, rfl⟩
  · exact .inr ⟨_, _, rfl⟩

/-- An edge that is taken shows in the state and in the capture, and leaves no value pending. -/
theorem validEdge_shows : rf (validEdge now (putTime now s)) ClkPpsStatus.key ClkPpsStatus.state = 1 ∧
    rg (validEdge now (putTime now s)) ClkPpsCapture.key = now ∧ (validEdge now (putTime now s)).timeCtr.next = none := by
  obtain ⟨hstate, hcapture, -⟩ := edgeNoted_shows (s := s) (now := now)
  have hstep : ∀ (t : Word) (b : Bool) (x : TimeCtr), rf (stepTime now t b { edgeNoted now s with timeCtr := x })
        ClkPpsStatus.key ClkPpsStatus.state = 1 ∧
      rg (stepTime now t b { edgeNoted now s with timeCtr := x }) ClkPpsCapture.key = now ∧
      (stepTime now t b { edgeNoted now s with timeCtr := x }).timeCtr.next = none := by
    intro t b x
    obtain ⟨hs, hc, hn, -⟩ := stepTime_keeps now t b { edgeNoted now s with timeCtr := x }
    exact ⟨hs.trans hstate, hc.trans hcapture, hn⟩
  rcases hnext : s.timeCtr.next with _ | v
  · by_cases halign : rf s ClkPpsCfg.key ClkPpsCfg.align = 0
    · rw [validEdge_of_free hnext halign]
      exact ⟨hstate, hcapture, hnext⟩
    · obtain ⟨o, x, e, hx⟩ | ⟨t, x, e⟩ := validEdge_of_aligned (now := now) hnext halign
      · rw [e]
        exact ⟨(rf_rfput_field _ _ _ _ _ (by decide)).trans hstate, (rg_rfput_key _ _ _ _ _ (by decide)).trans hcapture, hx⟩
      · rw [e]
        exact hstep t false x
  · rw [validEdge_of_pending hnext]
    exact hstep v true _

/-- A pending value that does not lie behind is taken at once, and reported. -/
theorem validEdge_forward (h : s.timeCtr.next = some v) (hv : now ≤ v) : timeNow (validEdge now (putTime now s)) = v ∧
    rf (validEdge now (putTime now s)) ClkPpsStatus.key ClkPpsStatus.set = 1 ∧
    (validEdge now (putTime now s)).reportSeq = s.reportSeq + 1 := by
  rw [validEdge_of_pending h]
  obtain ⟨-, -, -, hseq⟩ := stepTime_keeps now v true (edgeNoted now s)
  refine ⟨?_, ?_, hseq⟩ <;> rw [stepTime_eq]
  all_goals
    obtain ⟨-, htime, -, -, hstatus⟩ := reportStep_keeps (stepOffset now v true)
      (steppedTo now v true (stepOffset now v true) (edgeNoted now s))
    obtain ⟨ht, hset⟩ := steppedTo_forward (s := edgeNoted now s) (stepOffset now v true) hv
  · exact htime.trans ht
  · exact (hstatus _ (by simp)).trans hset

/-- Before a pending value that lies behind the counter holds still. -/
theorem validEdge_backward (h : s.timeCtr.next = some v) (hv : v < now) :
    timeNow (validEdge now (putTime now s)) = now ∧ (validEdge now (putTime now s)).timeCtr.hold = (now - v).toNat := by
  rw [validEdge_of_pending h, stepTime_eq]
  obtain ⟨hctr, htime, -⟩ := reportStep_keeps (stepOffset now v true)
    (steppedTo now v true (stepOffset now v true) (edgeNoted now s))
  obtain ⟨ht, hhold⟩ := steppedTo_backward (s := edgeNoted now s) (stepOffset now v true) hv
  obtain ⟨-, -, hnow⟩ := edgeNoted_shows (s := s) (now := now)
  exact ⟨htime.trans (ht.trans hnow), (congrArg TimeCtr.hold hctr).trans hhold⟩

end

/-- Settles O54: an edge is taken or counted, and the reports tell of a value or of edges that are gone. -/
theorem timeOfDay : Obligations.TimeOfDay := by
  unfold Obligations.TimeOfDay
  refine ⟨fun via v s h => ?_, fun now s hnow hedge => ?_, fun now s hnow hedge => ?_, fun s h => ?_, fun s h => ?_⟩
  · exact ⟨_, congrArg Host.Outcome.next (viaWrite_of_done h rfl), rfl, rfl⟩
  · have hrun := (doPpsEdge_of_later hnow).trans (if_pos hedge)
    obtain ⟨hstate, hcapture, hnext⟩ := validEdge_shows (s := s) (now := now)
    refine ⟨_, congrArg Host.Outcome.next hrun, hstate, hcapture, hnext, fun v hv hle => validEdge_forward hv hle,
      fun v hv hlt => validEdge_backward hv hlt, fun hv halign => ?_⟩
    obtain ⟨-, -, htime⟩ := edgeNoted_shows (s := s) (now := now)
    rw [validEdge_of_free hv halign]
    exact ⟨htime, rfl⟩
  · have hrun := (doPpsEdge_of_later hnow).trans (if_neg (ne_true_of_eq_false hedge))
    refine ⟨_, congrArg Host.Outcome.next hrun, ?_, rfl, ?_⟩
    · exact (rg_rfsat_key _ _ _ _ _ (by decide)).trans (rg_rput_self _ _ _)
    · rw [rf_rfsat_self _ _ _ _ (by decide), putTime, rf_rput_key _ _ _ _ _ (by decide)]
      rfl
  · exact ⟨_, congrArg Host.Outcome.next (if_pos h), congrArg TimeCtr.next (report_timeCtr ..), report_reportSeq ..⟩
  · refine ⟨_, congrArg Host.Outcome.next (if_pos h), ?_, report_reportSeq ..⟩
    rw [rf_report _ _ _ _ _ _ _ _ _ (timeKey_ne_portCount _ (by simp)), rf_rfput_self _ _ _ _ (by decide)]
    rfl

end Sys2Proof.Proofs
end

section
/-!
PROOFS. The ends of the recovery sequence: RESTORE (R496, R514, O20), SELECT_PLAN and RELOCATE (R510 to R513, O22), BLAZE and
its commit (R496, R502, R506, O19). What these do to the stands leaves the module's control state as it is.
-/

namespace Sys2Proof.Proofs

open Sys2Proof.Machine Sys2Proof.Laws

/-! ### RESTORE (R496, R514) -/

section
variable {x : Snap} {prev : Bool} {s : State}

theorem restoreBlaze_of_done (h : (restoreBlaze x prev s).1 = stDone) :
    ∃ t, restoreBlaze x prev s = (stDone, 0, restoreEpoch x prev t) := by
  unfold restoreBlaze at h ⊢
  dsimp only at h ⊢
  split at h
  · exact absurd h (show stEpochUnavailable ≠ stDone by decide)
  · split at h
    · exact absurd h (show stBlazeCorrupt ≠ stDone by decide)
    · exact ⟨_, rfl⟩

theorem doRestore_runs {c : Cmd} (h : verbIssues 5 c (c.zero 24 40) s = true) (hallowed : restoreAllowed (verbReady c s) = true)
    (htarget : restoreTarget (verbReady c s) (c.num 16 8) = some (x, prev)) (hfree : unitsOwned (verbReady c s) 1 = false) :
    doRestore c s =
      let (st, loc, t) := restoreBlaze x prev (verbReady c s)
      retireVerb c st (if st = stDone then BitVec.ofNat 64 x.epoch else 0) loc t := by
  rw [doRestore, issueVerb_runs _ _ _ _ _ h, hallowed, if_neg (by decide), htarget]
  dsimp only
  rw [hfree, if_neg (by decide)]

end

/-- Settles O20: the restore that is done ends with the epoch after the one restored. -/
theorem restoreReturnsToEpoch : Obligations.RestoreReturnsToEpoch := by
  unfold Obligations.RestoreReturnsToEpoch
  intro c x prev s h hallowed htarget hfree hdone
  obtain ⟨t, e⟩ := restoreBlaze_of_done hdone
  have hrun := doRestore_runs h hallowed htarget hfree
  rw [e] at hrun
  exact ⟨restoreEpoch x prev t, congrArg Host.Outcome.next hrun, rfl, rfl, rfl, rfl⟩

/-! ### The control state, which the work on stands and their memories leaves as it is -/

/-- The module's state, the verb in the arbiter, the blaze that is being saved, the plan selected, the drain and the
bring-up. -/
def controlView (s : State) : ModState × Option (Nat × Cmd) × Option Snap × Option Nat × Bool × BringUp :=
  (s.mode, s.arb, s.saving, s.planSel, s.draining, s.bring)

/-- The control state is in t as in s. -/
def SameControl (s t : State) : Prop := controlView t = controlView s

namespace SameControl

variable {s t u : State}

theorem refl (s : State) : SameControl s s := rfl

theorem frame (h : SameControl s t) (e : controlView u = controlView t) : SameControl s u := e.trans h

theorem mode (h : SameControl s t) : t.mode = s.mode := congrArg (·.1) h

theorem arb (h : SameControl s t) : t.arb = s.arb := congrArg (·.2.1) h

theorem planSel (h : SameControl s t) : t.planSel = s.planSel := congrArg (·.2.2.2.1) h

theorem bring (h : SameControl s t) : t.bring = s.bring := congrArg (·.2.2.2.2.2) h

theorem rput {k : Nat} {w : Word} (h : SameControl s t) : SameControl s (Machine.rput k w t) := h.frame rfl

theorem rfput {k v : Nat} {f : Fld} (h : SameControl s t) : SameControl s (Machine.rfput k f v t) := h.rput

theorem rfsat {k n : Nat} {f : Fld} (h : SameControl s t) : SameControl s (Machine.rfsat k f n t) := h.rfput

theorem rfadd {k n : Nat} {f : Fld} (h : SameControl s t) : SameControl s (Machine.rfadd k f n t) := h.rfput

theorem report {st : Status} {b : Bool} {src : Nat} {loc a : Word} {d : List Byte} (h : SameControl s t) :
    SameControl s (Machine.report st b src loc a d t) := by
  obtain ⟨g, q, m, e⟩ := report_frame st b src loc a d t
  rw [e]
  exact h.frame rfl

theorem memSplice {k : Nat} {bs : List Byte} (h : SameControl s t) : SameControl s (Machine.memSplice k bs t) := h.frame rfl

theorem putCells {p : Nat} {drop : Nat → Bool} {l : List Host.Cell} (h : SameControl s t) :
    SameControl s (Machine.putCells p drop l t) := h.frame rfl

theorem putStand {p : Nat} {v : Stand} (h : SameControl s t) : SameControl s (Machine.putStand p v t) := h.frame rfl

theorem ctlDesc {p cls : Nat} {st : Status} (h : SameControl s t) : SameControl s (Machine.ctlDesc p cls st t) :=
  holds_ite h.rfadd h.rfadd.rfput.rfput

/-! #### The buffers of a blaze (R498, R500 to R502) -/

theorem blzPut {base p b : Nat} {bs : List Byte} (h : SameControl s t) : SameControl s (Machine.blzPut base p b bs t) :=
  holds_foldl h fun _ _ hu => hu.memSplice

theorem putTagBytes {base p a n b : Nat} (h : SameControl s t) : SameControl s (Machine.putTagBytes base p a n b t) :=
  holds_ite h.blzPut h

theorem saveRegion {base p at0 : Nat} {m : List Host.Cell} {r : Nat × Nat × Nat} (h : SameControl s t) :
    SameControl s (Machine.saveRegion base p at0 m t r) := by
  refine holds_ite ?_ (holds_ite ?_ (holds_ite ?_ (holds_ite ?_ (holds_ite h.blzPut h.blzPut))))
  · exact holds_foldl (holds_foldl h fun _ _ hu => holds_ite hu hu.blzPut) fun _ _ hu => hu.putTagBytes
  · exact holds_foldl (holds_foldl h fun _ _ hu => holds_ite hu hu.blzPut) fun _ _ hu => hu.putTagBytes
  · exact holds_foldl h fun _ _ hu => hu.blzPut
  · exact holds_foldl h fun _ _ hu => hu.blzPut

theorem blzFeed {poly : CrcParams} {p u : Nat} {bs : List Byte} (h : SameControl s t) :
    SameControl s (Machine.blzFeed poly p u bs t) := h.rput.rfput

theorem saveStand {p : Nat} (h : SameControl s t) : SameControl s (Machine.saveStand t p) := by
  unfold Machine.saveStand
  split
  · exact h
  · exact (holds_foldl h.putCells fun _ _ hu => hu.saveRegion).blzPut.blzFeed.ctlDesc

theorem saveWord {p w : Nat} (h : SameControl s t) : SameControl s (Machine.saveWord p t w) := holds_ite (h.frame rfl) h

/-- A blaze that is saved puts its record of the epoch into the control state and nothing else (R498). -/
theorem blazeSave_frame (s : State) : SameControl { s with saving := (blazeSave s).saving } (blazeSave s) := by
  unfold Machine.blazeSave
  extract_lets ps s1 snap
  have h1 : SameControl s s1 := holds_foldl (.refl s) fun _ _ hu => hu.saveWord
  have h2 : SameControl s (ps.foldl Machine.saveStand s1) := holds_foldl h1 fun _ _ hu => hu.saveStand
  simp only [SameControl, controlView, Prod.mk.injEq] at h2 ⊢
  tauto

end SameControl

theorem doBlaze_runs {c : Cmd} {s : State} (h : verbIssues 4 c (c.zero 16 48) s = true)
    (hmode : (verbReady c s).mode = .drained) (hok : blazeRefusal (verbReady c s) = none)
    (hfree : unitsOwned (verbReady c s) 1 = false) : doBlaze c s = beginLong 4 c (blazeSave (verbReady c s)) := by
  rw [doBlaze, issueVerb_runs _ _ _ _ _ h, hmode, if_neg (by simp), hok]
  dsimp only
  rw [hfree, if_neg (by decide)]

namespace SameControl

variable {s t : State}

/-! #### The commit of a blaze (R409, R502, R506) -/

theorem applyLog {p : Nat} {l : List LogRec} (h : SameControl s t) : SameControl s (Machine.applyLog p l t) :=
  holds_foldl h fun _ _ hu => hu.memSplice

theorem buildParity {g : Nat} (h : SameControl s t) : SameControl s (Machine.buildParity g t) := by
  unfold Machine.buildParity
  split
  · exact h
  · exact h.putCells

theorem commitGroup {e g : Nat} (h : SameControl s t) : SameControl s (Machine.commitGroup e g t) := by
  unfold Machine.commitGroup
  split
  · next p base len _ _ _ =>
    extract_lets ps early late s1 s2 s3
    have h1 : SameControl s s1 := holds_ite (holds_foldl h.buildParity fun _ _ hu => hu.applyLog)
      (holds_foldl h fun _ _ hu => hu.applyLog)
    have h3 : SameControl s s3 := holds_foldl h1.putCells fun _ _ hu => hu.ctlDesc
    exact h3.rput
  · exact h

theorem excRestart (h : SameControl s t) : SameControl s (Machine.excRestart t) := by
  unfold Machine.excRestart
  extract_lets ports s1 s2 laps base
  have h1 : SameControl s s1 := h.frame rfl
  have h2 : SameControl s s2 := holds_foldl h1 fun _ _ hu => hu.putStand
  exact h2.frame rfl

theorem journal {p sl off : Nat} {old new : List Byte} (h : SameControl s t) :
    SameControl s (Machine.journal p sl off old new t) := by
  have hput : ∀ v, SameControl s (putLog p v t) := fun _ => h.frame rfl
  exact holds_ite h (holds_ite (hput _).report (hput _))

theorem dramWrite {p sl off a : Nat} {bs : List Byte} (h : SameControl s t) :
    SameControl s (Machine.dramWrite p sl off a bs t) := by
  have hwrite : SameControl s (writeBytes (dramKey p sl off) bs t) := by
    obtain ⟨m, u, e⟩ := writeBytes_frame (dramKey p sl off) bs t
    rw [e]
    exact h.frame rfl
  exact holds_ite hwrite.journal hwrite

theorem reportEpoch {e : Nat} {st : Status} {d : List Byte} (h : SameControl s t) :
    SameControl s (Machine.reportEpoch e st d t) := by
  have hset : SameControl s { t with epoch := e } := h.frame rfl
  exact hset.report.frame rfl

theorem lsCannot {e case : Nat} (h : SameControl s t) : SameControl s (Machine.lsCannot e case t) := by
  have hcount : SameControl s (if case = 3 then Machine.rfsat RgrLsCount.key RgrLsCount.stale 1 t
      else Machine.rfsat RgrLsCount.key RgrLsCount.timeouts 1 t) := holds_ite h.rfsat h.rfsat
  exact hcount.reportEpoch

theorem lsLag {b : LsBlock} (h : SameControl s t) : SameControl s (Machine.lsLag b t) := holds_ite h h.lsCannot

theorem lsWrite {off : Nat} {bs : List Byte} (h : SameControl s t) : SameControl s (Machine.lsWrite off bs t) :=
  holds_foldl h fun _ _ hu => by
    dsimp only
    split
    · exact hu.dramWrite
    · exact hu

theorem lsLastMatch (h : SameControl s t) : SameControl s (Machine.lsLastMatch t) := h.rput

theorem putOwn {k : Nat} {v : Option LsBlock} (h : SameControl s t) : SameControl s (Machine.putOwn k v t) := h.frame rfl

theorem putIn {k : Nat} {v : Option LsBlock} (h : SameControl s t) : SameControl s (Machine.putIn k v t) := h.frame rfl

theorem lsCompare {k : Nat} (h : SameControl s t) : SameControl s (Machine.lsCompare k t) := by
  unfold Machine.lsCompare
  split
  · next o b _ _ =>
    refine holds_ite h ?_
    obtain ⟨cause, l, u, mask⟩ := lsDiffers t k o.epoch
    dsimp only
    have h1 := (h.putIn (k := k) (v := some { b with compared := true })).putOwn (k := k) (v := some { o with compared := true })
    have h2 := h1.rfsat (k := RgrLsCount.key) (f := RgrLsCount.compared) (n := 1)
    have h3 := h2.rfsat (k := RgrLsCount.key) (f := RgrLsCount.mismatches) (n := 1)
    have hmatch : ∀ v : Lockstep, SameControl s { Machine.rfsat RgrLsCount.key RgrLsCount.compared 1 (Machine.putOwn k
      (some { o with compared := true }) (Machine.putIn k (some { b with compared := true }) t)) with lsOn := v } :=
      fun _ => h2.frame rfl
    exact holds_ite (hmatch _).lsLastMatch (holds_ite h3.rput.lsLastMatch h3).reportEpoch
  · exact h

theorem takeTags {p n : Nat} (h : SameControl s t) : SameControl s (Machine.takeTags p n t).2 := by
  induction n generalizing t with
  | zero => exact h
  | succ n ih =>
    have hput : SameControl s (putPort p { portOf t p with nextTag := (portOf t p).nextTag + 1 } t) := h.frame rfl
    exact ih hput

theorem lsSend {e : Nat} {body : List Byte} (h : SameControl s t) : SameControl s (Machine.lsSend e body t) := by
  unfold Machine.lsSend
  refine holds_ite h.report ?_
  split
  next ts u e =>
    have hu : SameControl s u := holds_of_eq h.takeTags e
    exact hu.frame rfl

theorem lsOwnBlock {e : Nat} {body : List Byte} (h : SameControl s t) : SameControl s (Machine.lsOwnBlock e body t) := by
  unfold Machine.lsOwnBlock
  extract_lets k s1 s2 s3 s4
  have h1 : SameControl s s1 := by
    unfold s1
    split
    · exact holds_ite h.lsLag h
    · exact h
  have h2 : SameControl s s2 := h1.lsWrite
  have h3 : SameControl s s3 := by
    unfold s3
    split
    · exact holds_ite h2.putIn.lsLag h2
    · exact h2
  exact h3.putOwn.lsCompare.lsSend

theorem signUnits {e p : Nat} (h : SameControl s t) : SameControl s (Machine.signUnits e p t) := by
  unfold Machine.signUnits
  split
  · exact (holds_foldl h fun _ _ hu => hu.blzFeed).ctlDesc
  · exact h

theorem blazeSign {e : Nat} (h : SameControl s t) : SameControl s (Machine.blazeSign e t) :=
  holds_ite (holds_foldl h fun _ _ hu => hu.signUnits).lsOwnBlock h

end SameControl

theorem gulBlazed_frame (s : State) : ∃ g r, gulBlazed s = { s with gul := g, regs := r } := by
  have hput : ∀ (l : List Nat) (u : State), ∃ g, l.foldl (fun s k =>
      let g := gringOf s (k / 16) (k % 16)
      putGring (k / 16) (k % 16) { g with safeHead := g.sqHead } s) u = { u with gul := g } := by
    intro l
    induction l with
    | nil => exact fun u => ⟨u.gul, rfl⟩
    | cons k l ih => exact fun u => (ih _).imp fun g e => e
  obtain ⟨g, e⟩ := hput (s.gul.rings.map (·.1)) s
  unfold gulBlazed
  dsimp only at e ⊢
  rw [e]
  split
  · exact ⟨_, _, rfl⟩
  · exact ⟨_, _, rfl⟩

/-- A blaze whose groups have committed begins the next epoch, untainted (R496, R506). -/
theorem blazeCommit_shows (x : Snap) (s : State) : (blazeCommit x s).epoch = s.epoch + 1 ∧ (blazeCommit x s).saving = none ∧
    (blazeCommit x s).tainted = false ∧ (blazeCommit x s).taints = [] ∧ (blazeCommit x s).arb = s.arb := by
  unfold blazeCommit
  extract_lets e s1 s2 exc s3 snap old s4 s5
  have h1 : SameControl s s1 := (SameControl.refl s).blazeSign
  have h2 : SameControl s s2 := holds_foldl h1 fun _ _ hu => hu.commitGroup
  have h3 : SameControl s s3 := holds_foldl h2 fun _ _ hu => hu.rput
  have h5 : SameControl s s5 := h3.excRestart.rfput.rput.rput
  obtain ⟨g, r, hend⟩ := gulBlazed_frame { s5 with
    logs := s5.logs.filterMap (fun (p, l) => if l.cur.isEmpty then none
      else some (p, ⟨l.cur.drop l.mark, l.cur.take l.mark, false, 0⟩))
    snaps := snap :: old, saving := none, epoch := e + 1, tainted := false, taints := [], taintCount := 0, planChanged := false }
  rw [hend]
  exact ⟨rfl, rfl, rfl, rfl, h5.arb⟩

theorem doBlazeCommit_of_blaze {c : Cmd} {x : Snap} {s : State} (harb : s.arb = some (4, c)) (hsaving : s.saving = some x)
    (hgul : s.gul.blazing = false) (hfree : (lsMode s && unitsOwned s 8) = false) :
    doBlazeCommit s =
      retireVerb c stDone (BitVec.ofNat 64 x.epoch) 0 { blazeCommit x s with arb := none } := by
  obtain ⟨-, -, -, -, harb'⟩ := blazeCommit_shows x s
  unfold doBlazeCommit
  rw [hsaving]
  dsimp only
  rw [hfree, hgul]
  change endLong stDone (BitVec.ofNat 64 x.epoch) 0 (blazeCommit x s) = _
  rw [endLong, harb', harb]

/-- Settles O19: the control state says after the save and after the commit what the two set in it. -/
theorem blazeRetiresEpoch : Obligations.BlazeRetiresEpoch := by
  unfold Obligations.BlazeRetiresEpoch
  refine ⟨fun c s h hmode hok hfree => ?_, fun c x s harb hsaving hgul hfree => ?_⟩
  · obtain ⟨r, v, e⟩ := beginLong_frame 4 c (blazeSave (verbReady c s))
    refine ⟨_, congrArg Host.Outcome.next ((doBlaze_runs h hmode hok hfree).trans e), rfl, rfl, ?_⟩
    exact (SameControl.blazeSave_frame _).mode.trans hmode
  · obtain ⟨hepoch, hsaved, htainted, htaints, -⟩ := blazeCommit_shows x s
    exact ⟨_, congrArg Host.Outcome.next (doBlazeCommit_of_blaze harb hsaving hgul hfree), hepoch, hsaved, htainted, htaints,
      rfl⟩

/-! ### SELECT_PLAN and RELOCATE (R510 to R513) -/

theorem doSelectPlan_runs {c : Cmd} {s : State} (h : verbIssues 9 c (c.zero 18 46) s = true)
    (hmode : (verbReady c s).mode = .fenced) (hn : c.num 16 2 ≤ 1 ∨ (0x100 ≤ c.num 16 2 ∧ c.num 16 2 ≤ 0x137))
    (happlies : planApplies (verbReady c s) (c.num 16 2) = true) :
    doSelectPlan c s = retireVerb c stDone 0 0 { verbReady c s with planSel := some (c.num 16 2) } := by
  have hform : (!(decide (c.num 16 2 ≤ 1) || decide (0x100 ≤ c.num 16 2 ∧ c.num 16 2 ≤ 0x137))) = false := by
    simpa only [Bool.not_eq_false', Bool.or_eq_true, decide_eq_true_eq] using hn
  unfold doSelectPlan
  dsimp only
  rw [issueVerb_runs _ _ _ _ _ h, if_neg (not_not_intro hmode), hform, happlies]
  rfl

namespace SameControl

variable {s t : State}

/-! #### The clock sources of a plan (R428, R430) -/

theorem followSource {p : Nat} (h : SameControl s t) : SameControl s (Machine.followSource p t) := h.rput.rfput.rfput

theorem steerCheck {p : Nat} (h : SameControl s t) : SameControl s (Machine.steerCheck p t) := holds_ite h.rfput h

theorem markersGo {n : Nat} {l : List Nat} (h : SameControl s t) : SameControl s (Machine.markersGo n l t) := by
  induction n generalizing l t with
  | zero => exact h
  | succ n ih =>
    cases l with
    | nil => exact h
    | cons p ps =>
      simp only [Machine.markersGo]
      refine ih (holds_foldl_of (P := SameControl s) Prod.snd h fun x d hx => ?_)
      split
      · exact hx
      · next q _ =>
        have hput : SameControl s (putSide q (opp d) (markerOf t p) x.2) := hx.frame rfl
        exact holds_ite_snd (holds_ite_snd hput.followSource hput.followSource) hput.steerCheck

theorem sendMarker {p : Nat} (h : SameControl s t) : SameControl s (Machine.sendMarker p t) := h.markersGo

theorem selectSource {p d : Nat} (h : SameControl s t) : SameControl s (Machine.selectSource p d t) :=
  h.rfput.rfput.rfsat.followSource.sendMarker

theorem applySources {l : List (Nat × Nat)} (h : SameControl s t) {u : State} (e : Machine.applySources l t = .ok u) :
    SameControl s u := by
  induction l generalizing t with
  | nil => exact Except.ok.inj e ▸ h
  | cons x l ih =>
    simp only [Machine.applySources] at e
    split at e
    · cases e
    · exact ih h.selectSource e

/-! #### The configuration of stands (R356, R511) -/

theorem obWrite {l : Loc} {lane b : Nat} {bs : List Byte} (h : SameControl s t) :
    SameControl s (Machine.obWrite l lane b bs t) := by
  induction bs generalizing b t with
  | nil => exact h
  | cons v vs ih => exact ih (h.frame rfl)

theorem listWrite {raw : Bool} {k : Nat} {v : Word} (h : SameControl s t) : SameControl s (Machine.listWrite raw k v t) := by
  have hput : ∀ p o bs, SameControl s (putDesc p o bs t) := fun _ _ _ => h.frame rfl
  have hlen : ∀ p i, SameControl s (stageHdlLen p i v t) := fun _ _ => h.frame rfl
  have hcommit : ∀ p i, SameControl s (commitHdl p i v t).2 := fun _ _ => holds_ite_snd h h.rput.rfput.rfadd
  exact holds_ite h.obWrite.rfadd (holds_ite (hput _ _ _).rfadd (holds_ite (hlen _ _)
    (holds_ite (holds_ite h.rfput.rput (hcommit _ _)) (holds_ite h.rput h.rput))))

theorem applyList {keep : Nat → Bool} {l : List (Nat × Word)} (h : SameControl s t) :
    SameControl s (Machine.applyList keep l t) :=
  holds_foldl h fun _ x hu => by
    split
    · exact hu
    · split
      · exact hu
      · exact holds_ite hu.listWrite hu

theorem loadOb {b : List Byte} {pick : Bool → Bool} {x : Section} (h : SameControl s t) :
    SameControl s (Machine.loadOb b pick x t) := by
  unfold Machine.loadOb
  dsimp only
  split
  · exact h
  · exact holds_foldl h fun _ _ hu => holds_ite hu.obWrite hu

theorem loadCounters {p : Nat} (h : SameControl s t) : SameControl s (Machine.loadCounters p t) :=
  holds_foldl h fun _ _ hu => holds_ite hu (holds_foldl hu fun _ _ hv => hv.rput)

theorem loadHub {p : Nat} (h : SameControl s t) : SameControl s (Machine.loadHub p t) := by
  have hcvu : ∀ {u : State} q v, SameControl s u → SameControl s (cvuSet false p q v u) := fun _ _ hu => hu.rput.rfput
  exact holds_foldl (holds_foldl h fun _ _ hu => hcvu _ _ hu) fun _ _ hu => hu.rput

theorem loadCredits {p : Nat} (h : SameControl s t) : SameControl s (Machine.loadCredits p t) := by
  have hput : ∀ {u : State} c v, SameControl s u → SameControl s (putCredit c v u) := fun _ _ hu => hu.frame rfl
  exact holds_foldl h fun _ _ hu => holds_foldl hu fun _ _ hv => hput _ _ hv

theorem loadStands {ps : List Nat} (h : SameControl s t) : SameControl s (Machine.loadStands ps t) :=
  holds_foldl h fun _ _ hu => hu.putStand

theorem putRole {p role l g : Nat} (h : SameControl s t) : SameControl s (Machine.putRole p role l g t) := h.rfput.rfput.rfput

theorem configureStand {n lg sub : Nat} (h : SameControl s t) : SameControl s (Machine.configureStand n lg sub t) := by
  unfold Machine.configureStand
  extract_lets b s1 s2 mine s3 s4 s5
  have hregs : SameControl s (loadUnits [sub] (loadRegs [sub] t)) := h.frame rfl
  have h2 : SameControl s s2 := hregs.loadStands.frame rfl
  have h3 : SameControl s s3 := h2.rput.applyList.applyList
  have h4 : SameControl s s4 := holds_foldl h3 fun _ _ hu => hu.loadOb
  have h5 : SameControl s s5 := holds_foldl h4 fun _ _ hu => hu.rput
  exact h5.loadCounters.loadHub.loadCredits

/-! #### The steps of a RELOCATE (R511, R512) -/

theorem snoopAll (h : SameControl s t) : SameControl s (Machine.snoopAll t) := by
  have hput : ∀ {u : State} p v, SameControl s u → SameControl s (putPort p v u) := fun _ _ hu => hu.frame rfl
  have hfree : ∀ {u : State} n, SameControl s u → SameControl s { u with freeCtr := n } := fun _ hu => hu.frame rfl
  exact holds_foldl h fun _ _ hu => holds_ite (hput _ _ hu) (hfree _ (hput _ _ hu)).rfsat

theorem groupUnprotected {g : Nat} (h : SameControl s t) : SameControl s (Machine.groupUnprotected g t) :=
  h.rfput.rfput.report

theorem copyDram {old sub : Nat} (h : SameControl s t) : SameControl s (Machine.copyDram old sub t) := h.frame rfl

theorem prepare {n old sub : Nat} (h : SameControl s t) : SameControl s (Machine.prepare n old sub t).2 :=
  .rput (.rput (.configureStand (.putRole (.putRole (holds_ite_snd (holds_ite_snd h.groupUnprotected
    h.groupUnprotected.putCells.ctlDesc) h.groupUnprotected.copyDram)))))

theorem relocWrites {n : Nat} {rows : List (Nat × Nat)} (h : SameControl s t) :
    SameControl s (Machine.relocWrites n rows t) := by
  have hregs : ∀ r, SameControl s { t with regs := r } := fun _ => h.frame rfl
  exact (hregs _).applyList.applyList

theorem putArrState {p a v : Nat} (h : SameControl s t) : SameControl s (Machine.putArrState p a v t) := by
  have hstop : SameControl s (if v = 4 then t else Machine.rfput (MaStatus.key p a) MaStatus.stopCode 0 t) := holds_ite h h.rfput
  exact holds_ite hstop.rfput h.rfput

theorem recodeRow {dst : Nat → Option Nat} (h : SameControl s t) : SameControl s (Machine.recodeRow dst t) := by
  have hflip : ∀ {u : State} w, SameControl s u → SameControl s (flipParity w u) := fun _ hu => hu.frame rfl
  refine holds_foldl h fun _ _ hu => ?_
  dsimp only
  split
  · exact holds_ite (hflip _ hu) hu
  · exact hu

theorem mendArray {n p a site : Nat} {failed : List Site} {u : State} (h : SameControl s t)
    (e : Machine.mendArray n failed p a site t = .ok u) : SameControl s u := by
  have hmove : ∀ {v : State} dst, SameControl s v → SameControl s (moveContents dst v) := fun _ hv => hv.frame rfl
  have hshift : ∀ v, SameControl s { t with shifted := v } := fun _ => h.frame rfl
  unfold Machine.mendArray at e
  dsimp only at e
  split at e
  · split at e
    · cases e
    · obtain rfl := Except.ok.inj e
      exact (hmove _ h).putArrState
  · split at e
    · cases e
    · obtain rfl := Except.ok.inj e
      exact (hmove _ (hshift _).recodeRow).putArrState

theorem mendAll {n : Nat} {failed : List Site} {l : List (Nat × Nat × Nat)} {at0 : Option (Nat × Nat × State)}
    (h : SameControl s t) (h0 : ∀ x ∈ at0, SameControl s x.2.2) :
    SameControl s (Machine.mendAll n failed l at0 t).2 := by
  induction l generalizing at0 t with
  | nil => exact h
  | cons x l ih =>
    obtain ⟨p, a, site⟩ := x
    simp only [Machine.mendAll]
    split
    · split
      · exact holds_ite (h0 _ rfl) h
      · exact h
    · next v e =>
      refine ih (h.mendArray e) fun y hy => ?_
      obtain rfl := Option.some.inj hy
      split
      · exact holds_ite (h0 _ rfl) h
      · exact h

theorem substitute {n old sub : Nat} (h : SameControl s t) : SameControl s (Machine.substitute n old sub t) := by
  have hgate : ∀ {u : State} i, SameControl s u → SameControl s (putGate old i 1 u) := fun _ hu => hu.frame rfl
  have hscreen : ∀ {u : State}, SameControl s u → SameControl s (putScreen sub 0 1000 u) := fun hu =>
    holds_ite hu.rfput.rfput.rfput hu.rfput.rfput
  unfold Machine.substitute
  extract_lets lg g tripped empty log s1 s2
  have h1 : SameControl s s1 := holds_ite h.putRole (holds_foldl h.putRole fun _ _ hu => hgate _ hu)
  have hlog : ∀ {u : State} p v, SameControl s u → SameControl s (putLog p v u) := fun _ _ hu => hu.frame rfl
  have h2 : SameControl s s2 := hlog _ _ (hlog _ _ (hscreen h1).putRole)
  have hsnaps : ∀ {u : State} v, SameControl s u → SameControl s { u with snaps := v } := fun _ hu => hu.frame rfl
  exact (hsnaps _ h2).rfput

end SameControl

theorem applySources_error {l : List (Nat × Nat)} {s : State} {st : Status} {loc : Word}
    (e : applySources l s = .error (st, loc)) : st ≠ stDone := by
  induction l generalizing s with
  | nil => cases e
  | cons x l ih =>
    simp only [applySources] at e
    split at e
    · next w hw =>
      cases e
      unfold srcRefusal at hw
      rintro rfl
      split at hw
      · cases hw
      split at hw
      · cases hw
      split at hw <;> cases hw
    · exact ih e

/-- The end of a RELOCATE whose sites have passed (R511). -/
def relocateEnd (n : Nat) (pair : Option (Nat × Nat)) (lost : Option Word) (s : State) : Status × Word × State :=
  match pair with
  | some (old, sub) => (if lost.isSome then stReconFailed else stDone, lost.getD 0, relocated n lost (substitute n old sub s))
  | none => (stDone, 0, relocated n none s)

theorem relocateEnd_of_done {n : Nat} {pair : Option (Nat × Nat)} {lost : Option Word} {s t : State} (hs : SameControl s t)
    (h : (relocateEnd n pair lost t).1 = stDone) :
    ∃ u, relocateEnd n pair lost t = (stDone, 0, relocated n none u) ∧ SameControl s u := by
  cases pair with
  | none => exact ⟨t, rfl, hs⟩
  | some x =>
    cases lost with
    | none => exact ⟨substitute n x.1 x.2 t, rfl, hs.substitute⟩
    | some w => exact absurd h (show stReconFailed ≠ stDone by decide)

/-- The substitution of a RELOCATE, if its plan is one (R511). -/
def relocatePrep (n : Nat) (pair : Option (Nat × Nat)) (s : State) : Option Word × State :=
  match pair with
  | some (old, sub) => prepare n old sub s
  | none => (none, s)

/-- The stands of a RELOCATE once its writes are done and its sites are probed (R511). -/
theorem sameControl_mendAll {n : Nat} {failed : List Site} {pair : Option (Nat × Nat)} {rows : List (Nat × Nat)}
    {sites : List (Nat × Nat × Nat)} {s t : State} (h : SameControl s t) : SameControl s
    (mendAll n failed sites none (planHandles n (relocWrites n rows (relocatePrep n pair t).2))).2 := by
  have hprep : SameControl s (relocatePrep n pair t).2 := by
    cases pair with
    | none => exact h
    | some x => exact h.prepare
  exact hprep.relocWrites.applyList.mendAll fun x hx => absurd hx (Option.not_mem_none x)

/-- A RELOCATE that is done has put its plan in force over stands that it has set up (R511). -/
theorem relocate_of_done {n : Nat} {failed : List Site} {s : State} (h : (relocate n failed s).1 = stDone) :
    ∃ t, relocate n failed s = (stDone, 0, relocated n none t) ∧ SameControl s t := by
  unfold relocate at h ⊢
  split at h
  · exact absurd h (show stNoPlan ≠ stDone by decide)
  next hok =>
    rw [if_neg hok]
    split at h
    · next e => exact absurd h (applySources_error e)
    next v e =>
      have hv : SameControl s (snoopAll v) := ((SameControl.refl s).applySources e).snoopAll
      dsimp only at h ⊢
      split at h
      · exact absurd h (show stNoPlan ≠ stDone by decide)
      · exact relocateEnd_of_done (sameControl_mendAll hv) h

theorem doRelocate_of_done {c : Cmd} {failed : List Site} {n : Nat} {s t : State}
    (h : verbIssues 0x0A c (c.zero 16 48) s = true) (hsel : (verbReady c s).planSel = some n)
    (hmode : (verbReady c s).mode = .fenced)
    (hrun : relocate n failed { verbReady c s with planSel := none } = (stDone, 0, t)) :
    doRelocate c failed s = retireVerb c stDone 0 0 t := by
  rw [doRelocate, issueVerb_runs _ _ _ _ _ h, hsel]
  dsimp only
  rw [if_neg (not_not_intro hmode), hrun]
  dsimp only
  rw [if_pos (.inl rfl)]

/-- Settles O22: the stands are set up without the plan that was selected, which is in force at the end. -/
theorem plansAreSelectedAndUsed : Obligations.PlansAreSelectedAndUsed := by
  unfold Obligations.PlansAreSelectedAndUsed
  refine ⟨fun c s h hmode hn happlies => congrArg Host.Outcome.next (doSelectPlan_runs h hmode hn happlies),
    fun c failed n s h hsel hmode hdone => ?_⟩
  obtain ⟨t, hrun, hkept⟩ := relocate_of_done hdone
  exact ⟨_, congrArg Host.Outcome.next (doRelocate_of_done h hsel hmode hrun), hkept.planSel, rfl, rfl⟩

end Sys2Proof.Proofs
end

section
/-!
PROOFS. Bring-ups: how they begin and how they fail (R464, R469, R470, R485, R487, O35), and the verbs that begin one, switch a
stand or give it a group (R460, R464, R488, R518, O32).
-/

namespace Sys2Proof.Proofs

open Sys2Proof.Machine Sys2Proof.Laws

/-! ### The end of a bring-up (R464, R491) -/

/-- The bring-up's own register is none that the ends of commands and descriptors write (R41, R491). -/
theorem spared_bringupStatus : Spared IorBringupStatus.key where
  stand _ _ _ _ := Ne.symm standKey_ne_ringKey
  unit c i o hc := by
    unfold IorBringupStatus.key ringKey
    omega
  count q := by
    unfold IorBringupStatus.key IorPortCount.key ringKey
    omega
  firmware := by decide

/-- What a bring-up leaves when it has failed, before its verb retires. -/
def bringFailed (s : State) : State :=
  let s := rfput IorBringupStatus.key IorBringupStatus.elapsedMs (bringElapsed s)
    (rfput IorBringupStatus.key IorBringupStatus.result 3 (putPhase 7 s))
  { s with mode := .none, bring := { s.bring with kind := 0, heat := [], failed := [] } }

theorem endBring_failed_of_idle {st : Status} {s : State} (h : s.arb = none) : endBring 3 st s = bringFailed s := by
  unfold endBring
  change (match s.arb with | some (0x2B, _) => _ | _ => bringFailed s) = _
  rw [h]

theorem endBring_failed {st : Status} {s : State} :
    endBring 3 st s = bringFailed s ∨ endBring 3 st s = endLong st 0 locNone (bringFailed s) := by
  unfold endBring
  dsimp only
  split
  · exact .inr rfl
  · exact .inl rfl

theorem bringResult_bringFailed (s : State) : bringResult (bringFailed s) = 3 := by
  have hregs : bringResult (bringFailed s) = bringResult (rfput IorBringupStatus.key IorBringupStatus.elapsedMs
      (bringElapsed s) (rfput IorBringupStatus.key IorBringupStatus.result 3 (putPhase 7 s))) := rfl
  rw [hregs, bringResult, rf_rfput_field _ _ _ _ _ (by decide), rf_rfput_self _ _ _ _ (by decide)]
  rfl

theorem endLong_keeps_mode_bring {st : Status} {r0 detail : Word} {s : State} (hst : st ≠ stDone) :
    (endLong st r0 detail s).mode = s.mode ∧ (endLong st r0 detail s).bring = s.bring := by
  unfold endLong
  split
  · next c _ =>
    obtain ⟨n, v, q, h, g, r, o, w, x, y, f, e⟩ := retireCmd_frame c st r0 0 detail false false { s with arb := none }
    rw [retireVerb, retireWith, retireAs, if_neg fun hc => hst hc.1, e]
    exact ⟨rfl, rfl⟩
  · exact ⟨rfl, rfl⟩

/-- A bring-up that fails leaves no module state and its result, and is reported (R467, R470, R487). -/
theorem failBring_shows {st : Status} {loc : Word} {data : List Byte} {s : State} (hst : st ≠ stDone) :
    (failBring st loc data s).bring.kind = 0 ∧ (failBring st loc data s).mode = .none ∧
    bringResult (failBring st loc data s) = 3 ∧
    (s.arb = none → (failBring st loc data s).reportSeq = s.reportSeq + 1) := by
  have hidle : s.arb = none → failBring st loc data s = bringFailed (report st false 0 loc 0 data s) := fun h =>
    endBring_failed_of_idle ((SameControl.refl s).report.arb.trans h)
  have hseq : s.arb = none → (failBring st loc data s).reportSeq = s.reportSeq + 1 := fun h =>
    (congrArg State.reportSeq (hidle h)).trans (report_reportSeq ..)
  unfold failBring at *
  rcases endBring_failed (st := st) (s := report st false 0 loc 0 data s) with e | e
  · rw [e] at hseq ⊢
    exact ⟨rfl, rfl, bringResult_bringFailed _, hseq⟩
  · obtain ⟨hmode, hbring⟩ := endLong_keeps_mode_bring (r0 := 0) (detail := locNone) (s := bringFailed (report st false 0 loc 0 data s)) hst
    have hresult := RegKept.endLong spared_bringupStatus (st := st) (r0 := 0) (detail := locNone)
      (rfl : RegKept IorBringupStatus.key (bringFailed (report st false 0 loc 0 data s)) _)
    rw [e] at hseq ⊢
    refine ⟨congrArg BringUp.kind hbring, hmode, ?_, hseq⟩
    exact (congrArg (fldGet IorBringupStatus.result) hresult).trans (bringResult_bringFailed _)

/-! ### The start of a bring-up (R464, R469, R485) -/

namespace SameControl

variable {s t : State}

theorem putTile {p v : Nat} (h : SameControl s t) : SameControl s (Machine.putTile p v t) := h.rfput

theorem setPower {v : Power} (h : SameControl s t) : SameControl s { t with power := v } := h.frame rfl

theorem rampUp {p : Nat} (h : SameControl s t) : SameControl s (Machine.rampUp p t) := h.setPower.putTile

theorem rampDown {p final : Nat} (h : SameControl s t) : SameControl s (Machine.rampDown p final t) :=
  holds_ite h.setPower.putTile h

theorem nextOff (h : SameControl s t) : SameControl s (Machine.nextOff t) :=
  holds_ite h (holds_foldl h.setPower fun _ _ hu => hu.rampDown)

theorem capChanged (h : SameControl s t) : SameControl s (Machine.capChanged t) := h.setPower.rfput

end SameControl

/-- A cold bring-up that has started is in its ring checks, the module without a state (R464, R469). -/
theorem coldStart_shows (s : State) : (coldStart s).bring.kind = 1 ∧ (coldStart s).mode = .none ∧
    bringPhase (coldStart s) = 1 ∧ rf (coldStart s) IorBringupStatus.key IorBringupStatus.kind = 1 := by
  unfold coldStart
  extract_lets on s1 s2 power clk bring s3 s4
  have h4 : SameControl s3 s4 := (holds_foldl (SameControl.refl s3) fun _ _ hu => hu.putTile).nextOff
  have h5 : SameControl s3 (rfput IorBringupStatus.key IorBringupStatus.kind 1 (putPhase 1 s4)) := h4.rfput.rfput
  refine ⟨congrArg BringUp.kind h5.bring, h5.mode, ?_, rf_rfput_self _ _ _ _ (by decide)⟩
  exact (rf_rfput_field _ _ _ _ _ (by decide)).trans (rf_rfput_self _ _ _ _ (by decide))

theorem warmStart_shows (s : State) : (warmStart s).bring.kind = 2 ∧ (warmStart s).mode = .none := by
  unfold warmStart
  extract_lets bring s1 s2 k
  have h2 : SameControl s1 s2 := (SameControl.refl s1).rput.capChanged
  have h3 : SameControl s1 (rfput k IorBringupStatus.result 0 (rfput k IorBringupStatus.kind 2 (putPhase 8 s2))) :=
    h2.rfput.rfput.rfput
  exact ⟨congrArg BringUp.kind h3.bring, h3.mode⟩

/-- Settles O35: the start of a cold bring-up, and the failure that the two timeouts share. -/
theorem bringUpBeginsAndFails : Obligations.BringUpBeginsAndFails := by
  unfold Obligations.BringUpBeginsAndFails
  refine ⟨fun s hfw hkind hphase hmode => ?_, fun s hkind hphase hbus => ?_, fun s hkind => ?_⟩
  · exact ⟨_, congrArg Host.Outcome.next (if_pos ⟨hfw, hkind, hphase, hmode⟩), coldStart_shows s⟩
  · exact ⟨_, congrArg Host.Outcome.next (if_pos ⟨hkind, hphase, hbus⟩), rfl, failBring_shows (by decide)⟩
  · exact ⟨_, congrArg Host.Outcome.next (if_pos hkind), rfl, failBring_shows (by decide)⟩

/-! ### The verbs of bring-up (R460, R464, R488, R518) -/

section
variable {c : Cmd} {s : State} {p : Nat}

theorem standMap_ne_tile (q : Nat) : IorStandMap.key p ≠ PwrTile.key q := by
  unfold IorStandMap.key PwrTile.key ringKey
  omega

theorem roleOf_rampDown (final : Nat) : roleOf (rampDown p final s) p = roleOf s p :=
  holds_ite (P := fun u => roleOf u p = roleOf s p) (rf_rfput_key _ _ _ _ _ _ (standMap_ne_tile p)) rfl

theorem tileState_rampUp : tileState (rampUp p s) p = 1 := rf_rfput_self _ _ _ _ (by decide)

theorem isPhys_of_standPowerRefusal {op : Nat} (h : standPowerRefusal s p op = none) : isPhys p = true := by
  unfold standPowerRefusal at h
  split at h
  · cases h
  split at h
  · cases h
  next hphys => simpa using hphys

theorem doStandPower_off (h : verbIssues 0x2A c (decide (c.num 17 1 ≤ 1) && c.zero 18 46) s = true) (hop : c.num 17 1 = 0)
    (hok : standPowerRefusal (verbReady c s) (c.num 16 1) 0 = none) :
    doStandPower c s = beginLong 0x2A c (rampDown (c.num 16 1) 4
      (rfput (IorStandMap.key (c.num 16 1)) IorStandMap.role 4 (verbReady c s))) := by
  rw [doStandPower, issueVerb_runs _ _ _ _ _ h]
  dsimp only
  rw [hop, hok]
  rfl

theorem doStandPower_on (h : verbIssues 0x2A c (decide (c.num 17 1 ≤ 1) && c.zero 18 46) s = true) (hop : c.num 17 1 = 1)
    (hok : standPowerRefusal (verbReady c s) (c.num 16 1) 1 = none) :
    doStandPower c s = standOn c (c.num 16 1) (verbReady c s) := by
  rw [doStandPower, issueVerb_runs _ _ _ _ _ h]
  dsimp only
  rw [hop, hok]
  rfl

/-- A stand that is no longer barred by the lanes that failed before is entered by every side by which it could be (R471,
R488). -/
theorem entrySides_ne_nil {t : State} {ok : Nat → Bool}
    (hbad : t.bring.laneBad = s.bring.laneBad.filter (fun x => x.1 ≠ p)) (hrelay : t.bring.relayReady = s.bring.relayReady)
    (h : entrySides s ok p ≠ []) : entrySides t ok p ≠ [] := by
  have hlane : ∀ q d, laneOut t q d = laneOut s q d := fun q d => by rw [laneOut, hrelay, laneOut]
  have hfind : t.bring.laneBad.find? (fun x => x.1 = p) = none := by
    rw [hbad, List.find?_eq_none]
    intro x hx
    simpa using (List.mem_filter.1 hx).2
  obtain ⟨d, hd⟩ := List.exists_mem_of_ne_nil _ h
  refine List.ne_nil_of_mem (a := d) ?_
  unfold entrySides at hd ⊢
  simp only [List.mem_append, List.mem_filter, List.mem_mergeSort, hfind, hlane] at hd ⊢
  refine hd.imp (fun hring => ⟨hring.1, ?_⟩) id
  have hside : (facing p d).isNone = true := (Bool.and_eq_true _ _ ▸ hring.2).1
  simp [hside, natBit]

/-- A stand that is switched on by a side takes the arbiter and begins its first heat (R460, R488). -/
theorem standOn_of_sides (h : entrySides s (fun q => roleOf s q = 1 || roleOf s q = 2) p ≠ []) :
    ∃ u, standOn c p s = beginLong 0x2A c (rampUp p u) ∧ u.bring.heat = [p] := by
  unfold standOn
  extract_lets ok s1 s2 bring s3 s4
  have h2 : SameControl s s2 := (SameControl.refl s).rput.capChanged.rput
  have h4 : SameControl s3 s4 := holds_foldl (SameControl.refl s3) fun _ _ hu => hu.rput
  have hne : entrySides s4 ok p ≠ [] := by
    refine entrySides_ne_nil ?_ ?_ h
    · rw [h4.bring, ← h2.bring]
    · rw [h4.bring, ← h2.bring]
  split
  · next e => exact absurd e hne
  · exact ⟨_, rfl, rfl⟩

theorem doBringUp_cold (h : verbIssues 0x2B c (decide (c.num 16 1 ≤ 1) && c.zero 17 47) s = true)
    (hruns : bringRuns (verbReady c s) = false) (hkind : c.num 16 1 = 0) (hinput : (verbReady c s).power.inputFault = false) :
    ∃ u, doBringUp c s = beginLong 0x2B c (coldStart u) := by
  rw [doBringUp, issueVerb_runs _ _ _ _ _ h, hruns, if_neg (by decide), hkind, if_neg (by decide), hinput, if_neg (by decide)]
  exact ⟨_, rfl⟩

theorem doBringUp_warm (h : verbIssues 0x2B c (decide (c.num 16 1 ≤ 1) && c.zero 17 47) s = true)
    (hruns : bringRuns (verbReady c s) = false) (hkind : c.num 16 1 = 1)
    (hcold : rf (verbReady c s) IorBringupStatus.key IorBringupStatus.kind ≠ 0) (hresult : bringResult (verbReady c s) ≠ 3) :
    ∃ u, doBringUp c s = beginLong 0x2B c (warmStart u) := by
  rw [doBringUp, issueVerb_runs _ _ _ _ _ h, hruns, if_neg (by decide), hkind, if_pos rfl,
    if_neg (not_or.2 ⟨hcold, hresult⟩)]
  exact ⟨_, rfl⟩

/-! #### ASSIGN_PARITY (R518) -/

theorem parityRefusal_bounds {g : Nat} (h : parityRefusal s p g = none) : g ≤ 3 ∧ isPhys p = true := by
  unfold parityRefusal at h
  split at h
  · cases h
  next hg =>
    split at h
    · cases h
    next hok =>
      simp only [Bool.not_eq_true, Bool.or_eq_false_iff, Bool.not_eq_false'] at hok
      exact ⟨by omega, hok.1.1.1⟩

theorem doAssignParity_runs (h : verbIssues 0x2C c (c.zero 18 46) s = true)
    (hmode : (verbReady c s).mode = .loaded ∨ (verbReady c s).mode = .drained)
    (hok : parityRefusal (verbReady c s) (c.num 16 1) (c.num 17 1) = none) :
    doAssignParity c s = retireVerb c stDone 0 0 (assignParity (c.num 16 1) (c.num 17 1) (verbReady c s)) := by
  have hstate : ¬((verbReady c s).mode ≠ .loaded ∧ (verbReady c s).mode ≠ .drained) := by tauto
  unfold doAssignParity
  dsimp only
  rw [issueVerb_runs _ _ _ _ _ h, if_neg hstate, hok]

/-- A standby that takes a group shows it, and the group names the standby (R518). -/
theorem assignParity_shows {g : Nat} (hg : g ≤ 3) (hp : isPhys p = true) :
    rf (assignParity p g s) (IorStandMap.key p) IorStandMap.parityGroup = g ∧
    rf (assignParity p g s) (RgrPar.key g) RgrPar.standby = p := by
  have hp64 : p < 64 := by
    simp only [isPhys, Bool.and_eq_true, decide_eq_true_eq] at hp
    omega
  have hkey : IorStandMap.key p ≠ RgrPar.key g := by
    unfold IorStandMap.key RgrPar.key ringKey
    omega
  have hstandby : ∀ w n, fldGet RgrPar.standby (fldSet RgrPar.prot (fldSet RgrPar.state (fldOf RgrPar.standby p) w) n) = p := by
    intro w n
    rw [fldGet_fldSet_other _ _ _ _ (by decide), fldGet_fldSet_other _ _ _ _ (by decide), fldOf, fldGet_fldSet _ _ _ (by decide)]
    exact Nat.mod_eq_of_lt (Nat.lt_of_lt_of_le hp64 (by decide))
  have hgroup : ∀ v, rf (rfput (IorStandMap.key p) IorStandMap.parityGroup v s) (IorStandMap.key p) IorStandMap.parityGroup =
      v % 2 ^ 8 := fun v => rf_rfput_self _ _ _ _ (by decide)
  have hcells : ∀ (u : State) d l k f, rf (putCells p d l u) k f = rf u k f := fun _ _ _ _ _ => rfl
  have hsnaps : ∀ (u : State) v k f, rf { u with snaps := v } k f = rf u k f := fun _ _ _ _ => rfl
  unfold assignParity
  extract_lets ps t cells area s1 s2
  have h1 : rf s1 (IorStandMap.key p) IorStandMap.parityGroup = g :=
    (hcells _ _ _ _ _).trans ((hgroup g).trans (Nat.mod_eq_of_lt (Nat.lt_of_le_of_lt hg (by decide))))
  have h2 : rf s2 (IorStandMap.key p) IorStandMap.parityGroup = g ∧ rf s2 (RgrPar.key g) RgrPar.standby = p :=
    ⟨(rf_rput_key _ _ _ _ _ hkey).trans h1, (rf_rput_self _ _ _ _).trans (hstandby _ _)⟩
  split
  · exact ⟨(hsnaps _ _ _ _).trans h2.1, (hsnaps _ _ _ _).trans h2.2⟩
  · exact h2

end

theorem beginLong_keeps (code : Nat) (c : Cmd) (s : State) : (beginLong code c s).arb = some (code, c) ∧
    (beginLong code c s).mode = s.mode ∧ (beginLong code c s).bring = s.bring ∧ (beginLong code c s).regs = s.regs := by
  obtain ⟨r, v, e⟩ := beginLong_frame code c s
  rw [e]
  exact ⟨rfl, rfl, rfl, rfl⟩

theorem bringPhase_of_regs {s t : State} (h : t.regs = s.regs) : bringPhase t = bringPhase s := by
  unfold bringPhase rf rg
  rw [h]

/-! ### The end of a single stand's tests (R488) -/

/-- The stands under test by themselves are in t as in s. -/
def SameSingle (s t : State) : Prop := t.bring.single = s.bring.single

namespace SameSingle

variable {s t u : State}

theorem refl (s : State) : SameSingle s s := rfl

theorem frame (h : SameSingle s t) (e : u.bring.single = t.bring.single) : SameSingle s u := e.trans h

theorem rfput {k v : Nat} {f : Fld} (h : SameSingle s t) : SameSingle s (Machine.rfput k f v t) := h.frame rfl

theorem report {st : Status} {b : Bool} {src : Nat} {loc a : Word} {d : List Byte} (h : SameSingle s t) :
    SameSingle s (Machine.report st b src loc a d t) :=
  h.frame (congrArg BringUp.single (SameControl.refl t).report.bring)

theorem exclude {p r : Nat} (h : SameSingle s t) : SameSingle s (Machine.exclude p r t) := holds_ite h.rfput h

theorem rampDown {p final : Nat} (h : SameSingle s t) : SameSingle s (Machine.rampDown p final t) :=
  h.frame (congrArg BringUp.single (SameControl.refl t).rampDown.bring)

theorem slicesTest {ps : List Nat} {refresh state : Nat} (h : SameSingle s t) :
    SameSingle s (Machine.slicesTest ps refresh state t) :=
  holds_foldl h fun _ _ hu => holds_foldl hu fun _ _ hv => holds_ite hv hv.rfput.rfput

theorem repairRow {failed : List DramRow} {r : DramRow} (h : SameSingle s t) : SameSingle s (Machine.repairRow failed t r) := by
  have hset : ∀ {u : State} x y, SameSingle s u → SameSingle s { u with bring := { u.bring with repairs := x, noSpare := y } } :=
    fun _ _ hu => hu.frame rfl
  have hcount : SameSingle s (rfsat IorBringupCount.key IorBringupCount.conflicts 1 t) := h.rfput
  unfold Machine.repairRow
  split
  · exact h
  · dsimp only
    split
    · exact (hset _ _ hcount).rfput.rfput
    · exact (hset _ _ hcount).rfput.exclude

theorem applyRepairs {ps : List Nat} {failed : List DramRow} (h : SameSingle s t) :
    SameSingle s (Machine.applyRepairs ps failed t) := by
  have hcount : ∀ n, SameSingle s (rfsat IorBringupCount.key IorBringupCount.fusedPass n t) := fun _ => h.rfput
  exact holds_foldl (hcount _) fun _ _ hu => hu.repairRow

theorem agree {ok : Nat → Bool} {p : Nat} (h : SameSingle s t) : SameSingle s (Machine.agree ok p t) :=
  holds_ite h (holds_ite h.exclude (holds_ite h.exclude (holds_ite h.exclude h)))

theorem reportConflicts {ps : List Nat} (h : SameSingle s t) : SameSingle s (Machine.reportConflicts ps t) := by
  have hset : ∀ v, SameSingle s { t with bring := { t.bring with told := v } } := fun _ => h.frame rfl
  exact holds_foldl (hset _) fun _ _ hu => hu.report

theorem switchOut {p : Nat} (h : SameSingle s t) : SameSingle s (Machine.switchOut p t) := by
  have hrole : SameSingle s (if roleOf t p = 5 then t else Machine.rfput (IorStandMap.key p) IorStandMap.role 4 t) :=
    holds_ite h h.rfput
  exact hrole.rfput.rfput.rampDown

theorem groupsOff {p : Nat} (h : SameSingle s t) : SameSingle s (Machine.groupsOff p t) := by
  have hput : ∀ {u : State} i, SameSingle s u → SameSingle s (putGate p i 1 u) := fun _ hu => hu.frame rfl
  exact holds_foldl h fun _ _ hu => hput _ hu

end SameSingle

theorem single_doSingleEnd {p : Nat} {failed : List DramRow} {s : State} (h : p ∈ s.bring.single) :
    (doSingleEnd p failed s).bring.single = s.bring.single.filter (· ≠ p) := by
  unfold doSingleEnd
  rw [if_neg (by simpa using h)]
  extract_lets bring s1 s2 s3 s4
  have h3 : SameSingle s1 s3 := (SameSingle.refl s1).applyRepairs.slicesTest.agree.reportConflicts
  have h4 : SameSingle s1 s4 := SameSingle.groupsOff h3.rfput.rfput.rfput
  exact holds_ite (P := SameSingle s1) h3.switchOut.report h4.report

/-- Settles O32: each verb runs, and what it has changed in the stand map, the tiles and the bring-up stands once the arbiter
is taken. -/
theorem standAndModuleBringUp : Obligations.StandAndModuleBringUp := by
  unfold Obligations.StandAndModuleBringUp
  refine ⟨fun c s h hop hok => ?_, fun c s h hop hok hsides => ?_,
    fun c s h hruns => ⟨fun hkind hinput => ?_, fun hkind hcold hresult => ?_⟩, fun c s h hmode hok => ?_, fun p failed s h => ?_⟩
  · obtain ⟨r, v, e⟩ := beginLong_frame 0x2A c (rampDown (c.num 16 1) 4
      (rfput (IorStandMap.key (c.num 16 1)) IorStandMap.role 4 (verbReady c s)))
    exact ⟨_, congrArg Host.Outcome.next ((doStandPower_off h hop hok).trans e), rfl,
      (roleOf_rampDown 4).trans (rf_rfput_self _ _ _ _ (by decide))⟩
  · obtain ⟨u, hon, hheat⟩ := standOn_of_sides (c := c) hsides
    obtain ⟨r, v, e⟩ := beginLong_frame 0x2A c (rampUp (c.num 16 1) u)
    exact ⟨_, congrArg Host.Outcome.next (((doStandPower_on h hop hok).trans hon).trans e), rfl, hheat, tileState_rampUp⟩
  · obtain ⟨u, hrun⟩ := doBringUp_cold h hruns hkind hinput
    obtain ⟨hk, hm, hp, -⟩ := coldStart_shows u
    obtain ⟨harb, hmode, hbring, hregs⟩ := beginLong_keeps 0x2B c (coldStart u)
    exact ⟨_, congrArg Host.Outcome.next hrun, harb, (congrArg BringUp.kind hbring).trans hk, hmode.trans hm,
      (bringPhase_of_regs hregs).trans hp⟩
  · obtain ⟨u, hrun⟩ := doBringUp_warm h hruns hkind hcold hresult
    obtain ⟨hk, hm⟩ := warmStart_shows u
    obtain ⟨harb, hmode, hbring, -⟩ := beginLong_keeps 0x2B c (warmStart u)
    exact ⟨_, congrArg Host.Outcome.next hrun, harb, (congrArg BringUp.kind hbring).trans hk, hmode.trans hm⟩
  · obtain ⟨hg, hp⟩ := parityRefusal_bounds hok
    exact ⟨_, congrArg Host.Outcome.next (doAssignParity_runs h hmode hok), assignParity_shows hg hp⟩
  · refine ⟨_, rfl, fun hmem => ?_⟩
    rw [show (doSingleEnd p.toNat failed s).bring.single = _ from single_doSingleEnd h] at hmem
    simpa using (List.mem_filter.1 hmem).2

end Sys2Proof.Proofs
end

section
/-!
PROOFS. Lock-step (R407, R412, R413, R415, O28): what SET_LOCKSTEP shows, the headers that a comparison takes, and the block
that a time-out tells of.
-/

namespace Sys2Proof.Proofs

open Sys2Proof.Machine Sys2Proof.Laws

/-! ### SET_LOCKSTEP (R407, R415) -/

section
variable {c : Cmd} {s : State}

theorem bodyOk_of_verbIssues {code : Nat} {ok : Bool} (h : verbIssues code c ok s = true) : ok = true := by
  simp only [verbIssues, Bool.and_eq_true] at h
  obtain ⟨⟨⟨-, hok⟩, -⟩, -⟩ := h
  exact hok

/-- The status register that SET_LOCKSTEP writes (R407, R415). -/
def slStatus (c : Cmd) : Word :=
  fldSet RgrLsStatus.mode (fldSet RgrLsStatus.traceEn (fldSet RgrLsStatus.port
    (fldOf RgrLsStatus.pairId (c.num 40 4)) (c.num 18 1)) (slTrace c)) (slMode c)

theorem slStatus_shows (h : slBodyOk c = true) : fldGet RgrLsStatus.mode (slStatus c) = slMode c ∧
    fldGet RgrLsStatus.traceEn (slStatus c) = slTrace c ∧ fldGet RgrLsStatus.port (slStatus c) = c.num 18 1 := by
  simp only [slBodyOk, Bool.and_eq_true, decide_eq_true_eq] at h
  obtain ⟨⟨hmode, htrace, hport, -⟩, -⟩ := h
  unfold slStatus
  refine ⟨?_, ?_, ?_⟩
  · rw [fldGet_fldSet _ _ _ (by decide)]
    exact Nat.mod_eq_of_lt (Nat.lt_succ_of_le hmode)
  · rw [fldGet_fldSet_other _ _ _ _ (by decide), fldGet_fldSet _ _ _ (by decide)]
    exact Nat.mod_eq_of_lt (Nat.lt_succ_of_le htrace)
  · rw [fldGet_fldSet_other _ _ _ _ (by decide), fldGet_fldSet_other _ _ _ _ (by decide), fldGet_fldSet _ _ _ (by decide)]
    exact Nat.mod_eq_of_lt (Nat.lt_succ_of_le hport)

/-- The tallies are no registers of Ranger (R41). -/
theorem lsStatus_ne_tallyKey (i o : Nat) : RgrLsStatus.key ≠ tallyKey true 0 i o := by
  unfold RgrLsStatus.key tallyKey ringKey
  simp only [if_true]
  omega

/-- What SET_LOCKSTEP leaves shows its operands, and with the mode on no slot holds a block (R407, R415). -/
theorem slAccept_shows (c : Cmd) (s : State) : rg (slAccept c s) RgrLsStatus.key = slStatus c ∧
    (slAccept c s).traceEn = decide (slTrace c = 1) ∧
    (slMode c = 1 → (slAccept c s).lsOn.came = [] ∧ ∀ k, lsOwn (slAccept c s) k = none ∧ lsIn (slAccept c s) k = none) := by
  unfold slAccept
  extract_lets port i s1 s2 s3 s4 ls lock s5 s6 s7 s8 s9
  have hput : ∀ (u : State) k w, RgrLsStatus.key ≠ k → rg (rput k w u) RgrLsStatus.key = rg u RgrLsStatus.key :=
    fun u k w hk => (rg_rput u k w _).trans (if_neg hk)
  have htally : ∀ (u : State) o w, rg (rput (tallyKey true 0 i o) w u) RgrLsStatus.key = rg u RgrLsStatus.key :=
    fun u o w => hput u _ w (lsStatus_ne_tallyKey i o)
  have h4 : rg s4 RgrLsStatus.key = slStatus c := rg_rput_self s1 _ _
  have h5 : rg s5 RgrLsStatus.key = slStatus c := h4
  have h9 : rg s9 RgrLsStatus.key = slStatus c :=
    (htally s8 0 _).trans ((htally s7 0x10 _).trans ((htally s6 0x20 _).trans ((htally s5 0x18 _).trans h5)))
  split
  · refine ⟨?_, rfl, fun _ => ⟨rfl, fun k => ⟨rfl, rfl⟩⟩⟩
    rw [hput _ _ _ (by decide), hput _ _ _ (by decide), hput _ _ _ (by decide), h9]
  · exact ⟨h4, rfl, fun hmode => absurd hmode ‹_›⟩

theorem doSetLockstep_runs (h : verbIssues 0x0E c (slBodyOk c) s = true) (hrun : (verbReady c s).mode ≠ .running)
    (hfence : (verbReady c s).mode ≠ .fenced) (hok : slRefusal (verbReady c s) c = none) :
    doSetLockstep c s = retireVerb c stDone 0 0 (slAccept c (verbReady c s)) := by
  rw [doSetLockstep, issueVerb_runs _ _ _ _ _ h, if_neg (not_or.2 ⟨hrun, hfence⟩), hok]

end

/-! ### The headers that a comparison takes (R412) -/

/-- The count of the headers taken, and those that have come, are in t as in s. -/
def SameTaken (s t : State) : Prop := (t.lsOn.taken, t.lsOn.came) = (s.lsOn.taken, s.lsOn.came)

namespace SameTaken

variable {s t u : State}

theorem refl (s : State) : SameTaken s s := rfl

theorem frame (h : SameTaken s t) (e : (u.lsOn.taken, u.lsOn.came) = (t.lsOn.taken, t.lsOn.came)) : SameTaken s u := e.trans h

theorem rput {k : Nat} {w : Word} (h : SameTaken s t) : SameTaken s (Machine.rput k w t) := h.frame rfl

theorem rfsat {k n : Nat} {f : Fld} (h : SameTaken s t) : SameTaken s (Machine.rfsat k f n t) := h.rput

theorem putOwn {k : Nat} {v : Option LsBlock} (h : SameTaken s t) : SameTaken s (Machine.putOwn k v t) := h.frame rfl

theorem putIn {k : Nat} {v : Option LsBlock} (h : SameTaken s t) : SameTaken s (Machine.putIn k v t) := h.frame rfl

theorem reportEpoch {e : Nat} {st : Status} {d : List Byte} (h : SameTaken s t) :
    SameTaken s (Machine.reportEpoch e st d t) := by
  obtain ⟨g, q, m, hr⟩ := report_frame st false 0 locNone 0 d { t with epoch := e }
  unfold Machine.reportEpoch
  rw [hr]
  exact h.frame rfl

theorem lsCannot {e case : Nat} (h : SameTaken s t) : SameTaken s (Machine.lsCannot e case t) := by
  have hcount : SameTaken s (if case = 3 then Machine.rfsat RgrLsCount.key RgrLsCount.stale 1 t
      else Machine.rfsat RgrLsCount.key RgrLsCount.timeouts 1 t) := holds_ite h.rfsat h.rfsat
  exact hcount.reportEpoch

theorem lsLag {b : LsBlock} (h : SameTaken s t) : SameTaken s (Machine.lsLag b t) := holds_ite h h.lsCannot

theorem lsCompare {k : Nat} (h : SameTaken s t) : SameTaken s (Machine.lsCompare k t) := by
  have hmatch : ∀ {u : State} v, SameTaken s u → SameTaken s (lsLastMatch { u with lsOn := { u.lsOn with matched := v } }) :=
    fun _ hu => hu.frame rfl
  have hlast : ∀ {u : State}, SameTaken s u → SameTaken s (lsLastMatch u) := fun hu => hu.rput
  unfold Machine.lsCompare
  split
  · next o b _ _ =>
    refine holds_ite h ?_
    obtain ⟨cause, l, u, mask⟩ := lsDiffers t k o.epoch
    have hboth := ((h.putIn (k := k) (v := some { b with compared := true })).putOwn (k := k)
      (v := some { o with compared := true })).rfsat (k := RgrLsCount.key) (f := RgrLsCount.compared) (n := 1)
    exact holds_ite (hmatch _ hboth) (holds_ite (hlast hboth.rfsat.rput) hboth.rfsat).reportEpoch
  · exact h

theorem lsArrived {k e : Nat} (h : SameTaken s t) : SameTaken s (Machine.lsArrived k e t) := by
  unfold Machine.lsArrived
  split
  · next o _ =>
    refine holds_ite h.lsCannot.putIn ?_
    have hown : SameTaken s (if o.epoch < e ∧ o.compared = false then
        Machine.lsLag o (Machine.putOwn k (some { o with compared := true }) t) else t) := holds_ite h.putOwn.lsLag h
    refine lsCompare (putIn ?_)
    split
    · exact holds_ite hown.lsLag hown
    · exact hown
  · refine putIn ?_
    split
    · exact holds_ite h.lsLag h
    · exact h

end SameTaken

theorem doLockstepCompare_takes {s : State} (hmode : lsMode s = true) (hruns : rangerRuns s (lsPort s) = true) :
    SameTaken { s with lsOn := { s.lsOn with
      taken := max (rg s (TlyCount.key true 0 s.lsOn.mbox)).toNat s.lsOn.taken, came := [] } } (doLockstepCompare s) := by
  unfold doLockstepCompare
  rw [hmode, hruns]
  exact holds_foldl (holds_foldl (SameTaken.refl _) fun _ _ hu => hu.lsArrived) fun _ _ hu => holds_ite hu.lsCompare hu

/-! ### The time-out of an own block (R413) -/

theorem lsOn_reportEpoch (e : Nat) (st : Status) (d : List Byte) (s : State) : (reportEpoch e st d s).lsOn = s.lsOn := by
  obtain ⟨g, q, h, hr⟩ := report_frame st false 0 locNone 0 d { s with epoch := e }
  unfold reportEpoch
  rw [hr]

theorem rf_reportEpoch (e : Nat) (st : Status) (d : List Byte) (s : State) (k : Nat) (f : Fld)
    (h : ∀ p, p < 4 → k ≠ IorPortCount.key p) : rf (reportEpoch e st d s) k f = rf s k f :=
  rf_report st false 0 locNone 0 d k f { s with epoch := e } h

/-- An epoch whose blocks did not both come is counted, and reported (R413). -/
theorem lsCannot_timeout (e : Nat) (s : State) :
    lsCannot e 1 s = reportEpoch e stLockstepTimeout [BitVec.ofNat 8 1] (rfsat RgrLsCount.key RgrLsCount.timeouts 1 s) := by
  rw [lsCannot, if_neg (by decide)]

theorem lsCannot_timeout_shows (e : Nat) (s : State) : (lsCannot e 1 s).lsOn = s.lsOn ∧
    rf (lsCannot e 1 s) RgrLsCount.key RgrLsCount.timeouts =
      satAdd 0xFFFF (rf s RgrLsCount.key RgrLsCount.timeouts) 1 := by
  rw [lsCannot_timeout]
  exact ⟨lsOn_reportEpoch _ _ _ _,
    (rf_reportEpoch _ _ _ _ _ _ (by decide)).trans (rf_rfsat_self _ _ _ _ (by decide))⟩

theorem doLockstepTimeout_of_own {e : Nat} {o : LsBlock} {s : State} (hmode : lsMode s = true)
    (hown : lsOwn s (e % 16) = some o) (he : o.epoch = e) (hcompared : o.compared = false) (htold : o.told = false)
    (hin : (lsIn s (e % 16)).map (·.epoch) ≠ some e) :
    doLockstepTimeout e s = lsCannot e 1 (putOwn (e % 16) (some { o with told := true }) s) := by
  unfold doLockstepTimeout
  dsimp only
  rw [hown]
  dsimp only
  rw [if_pos ⟨hmode, he, hcompared, htold, hin⟩]

/-- Settles O28: the accepted settings, the headers taken, and the block told of. -/
theorem lockstepModeAndBlocks : Obligations.LockstepModeAndBlocks := by
  unfold Obligations.LockstepModeAndBlocks
  refine ⟨fun c s h hrun hfence hok => ?_, fun s hmode hruns => ?_, fun e o s hmode hown he hcompared htold hin => ?_⟩
  · obtain ⟨hstatus, htrace, hslots⟩ := slAccept_shows c (verbReady c s)
    obtain ⟨hm, ht, hp⟩ := slStatus_shows (bodyOk_of_verbIssues h)
    have hfield : ∀ f, rf (slAccept c (verbReady c s)) RgrLsStatus.key f = fldGet f (slStatus c) :=
      fun f => congrArg (fldGet f) hstatus
    exact ⟨_, congrArg Host.Outcome.next (doSetLockstep_runs h hrun hfence hok), (hfield _).trans hm, (hfield _).trans ht,
      (hfield _).trans hp, htrace, hslots⟩
  · have htaken := doLockstepCompare_takes hmode hruns
    exact ⟨_, rfl, congrArg Prod.fst htaken, congrArg Prod.snd htaken⟩
  · obtain ⟨hslot, hcount⟩ := lsCannot_timeout_shows e.toNat (putOwn (e.toNat % 16) (some { o with told := true }) s)
    refine ⟨_, congrArg Host.Outcome.next (doLockstepTimeout_of_own hmode hown he hcompared htold hin), ?_, hcount⟩
    rw [lsOwn, hslot]
    exact smapGet_smapSet_self lsDflt s.lsOn.own (e.toNat % 16) (some { o with told := true })

end Sys2Proof.Proofs
end

section
/-!
PROOFS. The generation service (R377, R384, O42): a request that is fetched, and what the actions of a boundary leave as it is:
the step, the requests that wait and the module's state.
-/

namespace Sys2Proof.Proofs

open Sys2Proof.Machine Sys2Proof.Laws

/-! ### A request is fetched (R377) -/

theorem gringOf_putGring (s : State) (p q : Nat) (v : GRing) (r i : Nat) :
    gringOf (putGring p q v s) r i = if r * 16 + i = p * 16 + q then v else gringOf s r i := smapGet_smapSet _ _ _ _ _

theorem doGulFetch_of_found {p q : Nat} {e : BitVec 512} {prompt : List (BitVec 32)} {fail : Option (Status × Word)} {s : State}
    (hfetch : gulFetching s = true) (hruns : rangerRuns s p = true) (hup : (portOf s p).linkUp = true)
    (hq : ((List.range 16).map fun i => (gulTurn s p + i) % 16).find? (gqFetchable s p) = some q) :
    ∃ n, doGulFetch p e prompt fail s =
      let t := putGring p q { gringOf s p q with sqHead := ((gringOf s p q).sqHead + 1) % gqEntries s p q } s
      { t with gul := { t.gul with reqs := s.gul.reqs ++ [⟨p, q, e, prompt, fail⟩], turn := n } } := by
  unfold doGulFetch
  rw [hfetch, hruns, hup, if_neg (by decide), hq]
  exact ⟨_, rfl⟩

/-! ### What a boundary's actions leave as it is -/

/-- The step in course and whether it has ended, the requests that wait, and whether the module runs, waits or drains. -/
def stepView (s : State) : Nat × Bool × List GReq × Bool × ModState × Bool :=
  (s.gul.step, s.gul.ended, s.gul.reqs, s.gul.waiting, s.mode, s.draining)

/-- The step in course and what decides on it are in t as in s. -/
def SameStep (s t : State) : Prop := stepView t = stepView s

namespace SameStep

variable {s t u : State}

theorem refl (s : State) : SameStep s s := rfl

theorem frame (h : SameStep s t) (e : stepView u = stepView t) : SameStep s u := e.trans h

theorem hostWrite {a : Nat} {bs : List Byte} (h : SameStep s t) : SameStep s (Machine.hostWrite a bs t) := h.frame rfl

theorem putGring {p q : Nat} {v : GRing} (h : SameStep s t) : SameStep s (Machine.putGring p q v t) := h.frame rfl

theorem putGs {n : Nat} {v : GSess} (h : SameStep s t) : SameStep s (Machine.putGs n v t) := h.frame rfl

theorem raiseIrq {p v : Nat} (h : SameStep s t) : SameStep s (Machine.raiseIrq p v t) := h.frame rfl

theorem report {st : Status} {b : Bool} {src : Nat} {loc a : Word} {d : List Byte} (h : SameStep s t) :
    SameStep s (Machine.report st b src loc a d t) := by
  obtain ⟨g, q, m, e⟩ := report_frame st b src loc a d t
  rw [e]
  exact h.frame rfl

theorem ctlDesc {p cls : Nat} {st : Status} (h : SameStep s t) : SameStep s (Machine.ctlDesc p cls st t) := by
  have hput : ∀ {u : State} k f v, SameStep s u → SameStep s (rfput k f v u) := fun _ _ _ hu => hu.frame rfl
  exact holds_ite (hput _ _ _ h) (hput _ _ _ (hput _ _ _ (hput _ _ _ h)))

theorem dramWrite {p sl off a : Nat} {bs : List Byte} (h : SameStep s t) :
    SameStep s (Machine.dramWrite p sl off a bs t) := by
  have hlog : ∀ {u : State} v, SameStep s u → SameStep s (putLog p v u) := fun _ hu => hu.frame rfl
  have hwrite : SameStep s (writeBytes (dramKey p sl off) bs t) := by
    obtain ⟨m, u, e⟩ := writeBytes_frame (dramKey p sl off) bs t
    rw [e]
    exact h.frame rfl
  have hjournal : ∀ x y z, SameStep s (journal p sl x y z (writeBytes (dramKey p sl off) bs t)) := fun _ _ _ =>
    holds_ite hwrite (holds_ite (hlog _ hwrite).report (hlog _ hwrite))
  exact holds_ite (hjournal _ _ _) hwrite

/-! #### Records, headers and pages (R381, R389, R392) -/

theorem flushRecs {p q n : Nat} (h : SameStep s t) : SameStep s (Machine.flushRecs p q n t) := by
  induction n generalizing t with
  | zero => exact h
  | succ n ih =>
    simp only [Machine.flushRecs]
    split
    · exact h
    · exact holds_ite h (ih (holds_ite h.hostWrite.putGring.raiseIrq h.hostWrite.putGring))

theorem pushRec {p q : Nat} {r : GRec} (h : SameStep s t) : SameStep s (Machine.pushRec p q r t) :=
  holds_ite h.report h.putGring.flushRecs

theorem sessRec {n p q : Nat} {st : Status} {id : BitVec 16} {detail : Word} {irq : Bool} (h : SameStep s t) :
    SameStep s (Machine.sessRec n p q st id detail irq t) := h.putGs.pushRec

theorem turnRec {n : Nat} {st : Status} {detail : Word} (h : SameStep s t) : SameStep s (Machine.turnRec n st detail t) :=
  h.sessRec

theorem writeHeader {n st : Nat} (h : SameStep s t) : SameStep s (Machine.writeHeader n st t) := holds_ite h h.hostWrite

theorem writePte {v : Service} {n i b page : Nat} {valid : Bool} (h : SameStep s t) :
    SameStep s (Machine.writePte v n i b page valid t) := by
  unfold Machine.writePte
  dsimp only
  split
  · exact h.dramWrite
  · exact h

theorem writeBlocks {v : Service} {n b : Nat} {valid : Bool} {l : List (List Nat)} (h : SameStep s t) :
    SameStep s (Machine.writeBlocks v n valid b l t) := by
  induction l generalizing b t with
  | nil => exact h
  | cons x l ih => exact ih (holds_foldl h fun _ _ hu => hu.writePte)

theorem setQueues {a b c d : List Nat} (h : SameStep s t) :
    SameStep s { t with gul := { t.gul with awaiting := a, queue := b, parked := c, free := d } } := h.frame rfl

theorem freeSession {v : Service} {n : Nat} (h : SameStep s t) : SameStep s (Machine.freeSession v n t) :=
  putGs (setQueues h.writeBlocks)

theorem dropTurn {v : Service} {n : Nat} {st : Status} {detail : Word} (h : SameStep s t) :
    SameStep s (Machine.dropTurn v n st detail t) := freeSession (turnRec (holds_ite h.writeHeader h))

/-! #### The actions of a boundary (R384) -/

theorem acceptTurn {v : Service} {r : GReq} {n : Nat} (h : SameStep s t) : SameStep s (Machine.acceptTurn v r n t) := by
  unfold Machine.acceptTurn
  dsimp only
  split
  · exact dropTurn (sessRec (putGs (h.frame rfl)))
  · split
    · exact dropTurn (sessRec (putGs (h.frame rfl)))
    · exact sessRec (putGs (h.frame rfl))

theorem applyReq {v : Service} {r : GReq} (h : SameStep s t) : SameStep s (Machine.applyReq v t r) := by
  unfold Machine.applyReq
  dsimp only
  split
  · exact holds_ite h.pushRec h.sessRec
  · exact holds_ite h.acceptTurn (holds_ite (holds_ite h.sessRec (freeSession (sessRec (holds_ite h h.writeHeader))))
      h.sessRec.freeSession)

theorem commitToken {v : Service} {n tok : Nat} {lp : Lane} {kept : Nat} (h : SameStep s t) :
    SameStep s (Machine.commitToken v n tok lp kept t) := by
  unfold Machine.commitToken
  dsimp only
  split
  · exact writeHeader (putGs (holds_ite h.hostWrite h))
  · exact holds_ite (putGs (frame (turnRec (writeHeader (putGs (holds_ite h.hostWrite h)))) rfl))
      (freeSession (turnRec (writeHeader (putGs (holds_ite h.hostWrite h)))))

theorem commitOne {v : Service} {logits : List (BitVec 16 × List (BitVec 32))} {x : Nat × Nat} (h : SameStep s t) :
    SameStep s (Machine.commitOne v logits t x) := by
  unfold Machine.commitOne
  dsimp only
  refine holds_ite h.putGs ?_
  split
  · exact h.ctlDesc.report
  · exact h.putGs.ctlDesc.commitToken

theorem linkEnds {v : Service} (h : SameStep s t) : SameStep s (Machine.linkEnds v t) :=
  holds_foldl (h.frame rfl) fun _ _ hu => hu.dropTurn

theorem evictLoop {v : Service} {need n : Nat} (h : SameStep s t) : SameStep s (Machine.evictLoop v need n t) := by
  induction n generalizing t with
  | zero => exact h
  | succ n ih =>
    refine holds_ite h ?_
    split
    · exact h
    · exact ih h.turnRec.freeSession

theorem evictFor {v : Service} {need : Nat} (h : SameStep s t) : SameStep s (Machine.evictFor v need t) :=
  holds_ite h.evictLoop h

theorem admitLoop {v : Service} {n : Nat} (h : SameStep s t) : SameStep s (Machine.admitLoop v n t) := by
  induction n generalizing t with
  | zero => exact h
  | succ n ih =>
    simp only [Machine.admitLoop]
    split
    · exact h
    · exact holds_ite h (holds_ite (ih (turnRec (writeHeader (putGs (h.frame rfl))))) h.evictFor)

theorem allocBlocks {v : Service} {n m : Nat} (h : SameStep s t) : SameStep s (Machine.allocBlocks v n m t) := by
  induction m generalizing t with
  | zero => exact h
  | succ m ih => exact ih (putGs (writeBlocks (h.frame rfl)))

theorem allocate {v : Service} (h : SameStep s t) : SameStep s (Machine.allocate v t) :=
  holds_foldl h fun _ _ hu => hu.allocBlocks

theorem writeTraces {p : Nat} (h : SameStep s t) : SameStep s (Machine.writeTraces p t) :=
  holds_ite h (holds_foldl h fun _ _ hu => by
    dsimp only
    split
    · exact hu.dramWrite
    · exact hu)

end SameStep

open SameStep in
/-- The actions of a boundary apply every request that waits, and nothing else of what decides on the step (R384). -/
theorem gulActions_shows (v : Service) (logits : List (BitVec 16 × List (BitVec 32))) (s : State) :
    stepView (gulActions v logits s) = (s.gul.step, s.gul.ended, [], s.gul.waiting, s.mode, s.draining) := by
  have hlink : SameStep s (linkEnds v ((batchOf s v).foldl (commitOne v logits) s)) :=
    linkEnds (holds_foldl (refl s) fun _ _ hu => hu.commitOne)
  unfold gulActions
  extract_lets s1 s2 rs gul s3
  have hnone : stepView { s2 with gul := { s2.gul with reqs := [] } } =
      (s.gul.step, s.gul.ended, [], s.gul.waiting, s.mode, s.draining) := by
    simp only [SameStep, stepView, Prod.mk.injEq] at hlink ⊢
    tauto
  have h3 : SameStep { s2 with gul := { s2.gul with reqs := [] } } s3 := holds_foldl (refl _) fun _ _ hu => hu.applyReq
  exact Eq.trans h3.admitLoop.allocate hnone

/-- The step in course has ended (R381). -/
def stepEnds (s : State) : State := { s with gul := { s.gul with ended := true } }

theorem stepView_stepEnds (s : State) :
    stepView (stepEnds s) = (s.gul.step, true, s.gul.reqs, s.gul.waiting, s.mode, s.draining) := rfl

/-- A boundary whose step takes no blaze, with no drain asked for, goes on to the next step (R384). -/
theorem doGulemBoundary_goes_on {logits : List (BitVec 16 × List (BitVec 32))} {v : Service} {s : State}
    (hsvc : imgService s.image = some v) (hmode : s.mode = .running) (hwait : s.gul.waiting = false)
    (hruns : ∀ r, r < 4 → rangerRuns s r = true) (hblaze : s.gul.step % v.blazeEvery ≠ 0) (hdrain : s.draining = false) :
    ∃ t, stepView t = (s.gul.step, true, [], false, .running, false) ∧ doGulemBoundary logits s = gulNextStep t := by
  have hactions := gulActions_shows v logits s
  have hu : stepView (stepEnds (gulActions v logits s)) = (s.gul.step, true, [], false, .running, false) := by
    simp only [stepView, Prod.mk.injEq] at hactions
    obtain ⟨hstep, -, hreqs, hwait', hmode', hdrain'⟩ := hactions
    rw [stepView_stepEnds, hstep, hreqs, hwait', hmode', hdrain', hwait, hmode, hdrain]
  have hdraining : (gulActions v logits s).draining = false := (congrArg (·.2.2.2.2.2) hactions).trans hdrain
  have ht : ∀ u, SameStep u ((servicePhys u).foldl (fun s p => writeTraces p s) u) := fun u =>
    holds_foldl (SameStep.refl u) fun _ _ hw => hw.writeTraces
  have hall : (List.range 4).all (rangerRuns s) = true := List.all_eq_true.2 fun r hr => hruns r (List.mem_range.1 hr)
  have hnot : decide (v.blazeEvery ≠ 0 ∧ s.gul.step % v.blazeEvery = 0) = false := decide_eq_false fun h => hblaze h.2
  refine ⟨_, (ht _).trans hu, ?_⟩
  unfold doGulemBoundary
  rw [hsvc]
  dsimp only
  rw [hnot, hmode, hwait, hall, hdrain, if_neg (by simp)]
  rw [if_neg (by decide)]
  exact if_neg (by rw [hdraining]; decide)

/-- Settles O42: the entry that is taken, and the step that follows the boundary's actions. -/
theorem gulemFetchesAndSteps : Obligations.GulemFetchesAndSteps := by
  unfold Obligations.GulemFetchesAndSteps
  refine ⟨fun p e prompt fail q s hfetch hruns hup hq => ?_, fun logits v s hsvc hmode hwait hruns hblaze hdrain => ?_⟩
  · obtain ⟨n, hrun⟩ := doGulFetch_of_found (e := e) (prompt := prompt) (fail := fail) hfetch hruns hup hq
    have hlt : q < 16 := by
      obtain ⟨i, -, rfl⟩ := List.mem_map.1 (List.mem_of_find?_eq_some hq)
      exact Nat.mod_lt _ (by decide)
    refine ⟨_, congrArg Host.Outcome.next hrun, rfl, ?_, fun r i hne hr hi => ?_, rfl⟩
    · exact congrArg GRing.sqHead ((gringOf_putGring _ _ _ _ _ _).trans (if_pos rfl))
    · refine (gringOf_putGring _ _ _ _ _ _).trans (if_neg fun hkey => hne ?_)
      rw [Prod.mk.injEq]
      omega
  · obtain ⟨t, ht, hrun⟩ := doGulemBoundary_goes_on (logits := logits) hsvc hmode hwait hruns hblaze hdrain
    simp only [stepView, Prod.mk.injEq] at ht
    obtain ⟨hstep, hended, hreqs, -, hmode', -⟩ := ht
    rw [gulNextStep, if_pos hended] at hrun
    exact ⟨_, congrArg Host.Outcome.next hrun, congrArg (· + 1) hstep, hreqs, rfl, hmode'⟩

end Sys2Proof.Proofs
end

section
/-!
PROOFS. The end of sessions, the bundle that a source brings (R530, R532, O55), and the security engine with the debug port
(R535 to R537, R540, O57).
-/

namespace Sys2Proof.Proofs

open Sys2Proof.Machine Sys2Proof.Laws

/-! ### What the end of a session leaves (R524) -/

section
variable {s : State} {k : Nat}

/-- The boot ROM's wait for another bundle is told in the load and its registers alone. -/
theorem fwWaits_frame (st : Option Status) (s : State) : ∃ v g, fwWaits st s = { s with fw := v, regs := g } := by
  cases st <;> exact ⟨_, _, rfl⟩

theorem fwSessionGone_frame (k : Nat) (s : State) : ∃ v g, fwSessionGone k s = { s with fw := v, regs := g } := by
  unfold fwSessionGone
  split
  · exact fwWaits_frame _ _
  · exact ⟨_, _, rfl⟩

/-- A session that ends touches no more than the sessions, the orphans, and the load that it had begun. -/
theorem endSession_frame (k : Nat) (s : State) : ∃ v g, endSession k s =
    { s with fw := v, regs := g, orphans := s.orphans ++ sessFlight s k, sessions := smapSet sessDflt s.sessions k none } := by
  obtain ⟨v, g, e⟩ := fwSessionGone_frame k s
  exact ⟨v, g, by rw [endSession, e]; rfl⟩

theorem sessOf_endSession (i : Nat) : sessOf (endSession k s) i = if i = k then none else sessOf s i := by
  obtain ⟨v, g, e⟩ := fwSessionGone_frame k s
  rw [endSession, sessOf_putSess, e]
  rfl

theorem endSession_orphans : (endSession k s).orphans = s.orphans ++ sessFlight s k := by
  obtain ⟨v, g, e⟩ := endSession_frame k s
  rw [e]

theorem sessOf_foldl_endSession (l : List Nat) (i : Nat) :
    sessOf (l.foldl (fun s k => endSession k s) s) i = if i ∈ l then none else sessOf s i := by
  induction l generalizing s with
  | nil => simp
  | cons j l ih => rw [List.foldl_cons, ih, sessOf_endSession]; grind

/-- A session that is listed under no key is not there. -/
theorem sessOf_of_not_mem (h : k ∉ s.sessions.map (·.1)) : sessOf s k = none :=
  smapGet_absent _ _ _ fun e he hk => h (List.mem_map.mpr ⟨e, he, hk⟩)

theorem sessOf_endSessionsOf {f : Nat → Bool} (h : f k = true) : sessOf (endSessionsOf f s) k = none := by
  rw [endSessionsOf, sessOf_foldl_endSession]
  split
  · rfl
  · next hn => exact sessOf_of_not_mem fun hm => hn (List.mem_filter.mpr ⟨hm, h⟩)

theorem sessOf_endSessions : sessOf (endSessions s) k = none := sessOf_endSessionsOf rfl

theorem fwWaits_keeps_reg (st : Option Status) (h : k ≠ RgrFwStatus.key) : rg (fwWaits st s) k = rg s k := by
  cases st <;> simp only [fwWaits, rg_rfput_key _ _ _ _ _ h] <;> rfl

theorem endSession_keeps_reg {j : Nat} (h : k ≠ RgrFwStatus.key) : rg (endSession j s) k = rg s k := by
  refine (show rg (endSession j s) k = rg (fwSessionGone j s) k from rfl).trans ?_
  unfold fwSessionGone
  split
  · exact fwWaits_keeps_reg _ h
  · rfl

theorem endSessions_keeps_reg (h : k ≠ RgrFwStatus.key) : rg (endSessions s) k = rg s k :=
  holds_foldl (P := fun t => rg t k = rg s k) rfl fun _ _ hu => (endSession_keeps_reg h).trans hu

end

/-! ### The bundle that a source brings (R530, R532) -/

section
variable {s : State}

theorem ofBytesLE_lt (l : List Byte) : ofBytesLE l < 2 ^ (8 * l.length) := by
  induction l with
  | nil => decide
  | cons b l ih =>
    have hpow : 2 ^ (8 * (l.length + 1)) = 256 * 2 ^ (8 * l.length) := by rw [Nat.mul_succ, Nat.pow_add, Nat.mul_comm]
    have hb := b.isLt
    rw [ofBytesLE, List.length_cons, hpow]
    omega

theorem numAt_lt (b : List Byte) (o n : Nat) : numAt b o n < 2 ^ (8 * n) := by
  have h := ofBytesLE_lt (bytesAt b o n)
  rwa [show (bytesAt b o n).length = n by simp [bytesAt]] at h

theorem fwBegins_state (src : FwSource) (n : Nat) :
    rf (fwBegins src n s) RgrFwStatus.key RgrFwStatus.state = 1 := by
  rw [fwBegins, rf_rfput_field _ _ _ _ _ (by decide), rf_rfput_self _ _ _ _ (by decide)]
  rfl

theorem fwBegins_fw (src : FwSource) (n : Nat) :
    (fwBegins src n s).fw = { s.fw with source := some src, total := n, bytes := [], got := 0 } := rfl

theorem rf_fwTake (o : Nat) (b : List Byte) (k : Nat) (f : Fld) : rf (fwTake o b s) k f = rf s k f := rfl

theorem fwTake_fw (o : Nat) (b : List Byte) : (fwTake o b s).fw =
    { s.fw with bytes := smapSetMany memDflt s.fw.bytes o b, got := s.fw.got + b.length } := rfl

/-- GO of a port whose boot ROM waits begins the load and takes the bytes that the port reads. -/
theorem doFwGo_of_waiting {p : BitVec 2} {v : Word} {b : List Byte} (h : passes (.host p) true (RgrFwCtl.key 0) s)
    (hgo : fldGet RgrFwCtl.go v = 1) (hst : rf s RgrFwStatus.key RgrFwStatus.state = 0) :
    doFwGo p.toNat v b none s = fwTake 0 (bytesAt b 0 (min (rf s (RgrFwLen.key 0) RgrFwLen.len) fwMax))
      (fwBegins (.host p.toNat) (rf s (RgrFwLen.key 0) RgrFwLen.len) s) := by
  have hidle : fwAwaits s p.toNat = false := by simp [fwAwaits, hst]
  have hgoes : fwGoes p.toNat v s = (stDone, fwBegins (.host p.toNat) (rf s (RgrFwLen.key 0) RgrFwLen.len) s) := by
    rw [fwGoes, if_neg (by rw [hgo]; decide), if_neg (by simp [hst])]
  rw [doFwGo, hidle, if_neg (by decide), BitVec.ofNat_toNat, BitVec.setWidth_eq]
  refine viaWrite_of_done h ?_
  rw [hgoes]
  dsimp only
  rw [if_pos ⟨rfl, hgo⟩, fwRead, fwBegins_fw]

/-- FW_PUSH of an open session begins the load where the boot ROM waits, and takes the bytes that fit. -/
theorem doFwPush_of_waiting {k o n : Nat} {b : List Byte} (hopen : (sessOf s k).isSome = true) (hlen : b.length ≤ 65536)
    (hst : rf s RgrFwStatus.key RgrFwStatus.state = 0) (hfit : o + b.length ≤ n) (hmax : n ≤ fwMax) :
    doFwPush k o n b s = fwTake o b (fwBegins (.mgmt k) n (sessCount k s)) := by
  have hcount : rf (sessCount k s) RgrFwStatus.key RgrFwStatus.state = 0 := by
    unfold sessCount
    split
    · exact hst
    · exact hst
  have hroom : ¬((fwBegins (.mgmt k) n (sessCount k s)).fw.total < o + b.length ∨
      fwMax < (fwBegins (.mgmt k) n (sessCount k s)).fw.total) := by
    rintro (hlt | hlt)
    · exact absurd hfit (Nat.not_le.mpr hlt)
    · exact absurd hmax (Nat.not_le.mpr hlt)
  rw [doFwPush, if_neg (by simp [Option.isSome_iff_ne_none.mp hopen]), if_neg (by omega)]
  dsimp only
  rw [hcount, if_neg (by simp), if_pos rfl, if_neg hroom]

/-- A bundle that has come whole is judged where the engine serves. -/
theorem doFwVerify_of_whole (hst : rf s RgrFwStatus.key RgrFwStatus.state = 1) (hgot : s.fw.total ≤ s.fw.got)
    (hmax : s.fw.total ≤ fwMax) (hsec : secServes s = true) :
    ¬(rf s RgrFwStatus.key RgrFwStatus.state ≠ 1 ∨ s.fw.got < s.fw.total ∧ s.fw.got < fwMax ∨ secServes s = false) ∧
      ¬fwMax < s.fw.total := by
  simp [hst, hsec]
  omega

theorem doFwVerify_verified (hgo : ¬(rf s RgrFwStatus.key RgrFwStatus.state ≠ 1 ∨
      s.fw.got < s.fw.total ∧ s.fw.got < fwMax ∨ secServes s = false)) (hmax : ¬fwMax < s.fw.total)
    (hok : fwRefusal s (fwBundle s) = none) :
    fwVerified (doFwVerify s) = true ∧
      rf (doFwVerify s) RgrFwStatus.key RgrFwStatus.svn = numAt (fwBundle s) 8 4 := by
  rw [doFwVerify, if_neg hgo, if_neg hmax]
  dsimp only
  rw [hok]
  dsimp only
  refine ⟨?_, ?_⟩
  · rw [fwVerified, rf_rfput_field _ _ _ _ _ (by decide), rf_rfput_self _ _ _ _ (by decide)]
    rfl
  · rw [rf_rfput_self _ _ _ _ (by decide)]
    exact Nat.mod_eq_of_lt (numAt_lt _ _ _)

theorem doFwVerify_refused {st : Status} (hgo : ¬(rf s RgrFwStatus.key RgrFwStatus.state ≠ 1 ∨
      s.fw.got < s.fw.total ∧ s.fw.got < fwMax ∨ secServes s = false)) (hmax : ¬fwMax < s.fw.total)
    (hbad : fwRefusal s (fwBundle s) = some st) : doFwVerify s = fwRefused st s := by
  rw [doFwVerify, if_neg hgo, if_neg hmax]
  dsimp only
  rw [hbad]

end

/-- Settles O55: a bundle taken by GO and by FW_PUSH, and one that has come whole verified or refused. -/
theorem firmwareIsLoaded : Obligations.FirmwareIsLoaded := by
  unfold Obligations.FirmwareIsLoaded
  refine ⟨fun p v b s hpass hgo hst => ?_, fun m i o n b s hopen hlen hst hfit hmax => ?_,
    fun s hst hgot hmax hsec => ?_⟩
  · refine ⟨_, rfl, ?_⟩
    rw [doFwGo_of_waiting hpass hgo hst]
    simp only [rf_fwTake, fwBegins_state, fwTake_fw, fwBegins_fw, and_self]
  · refine ⟨_, rfl, ?_⟩
    rw [doFwPush_of_waiting hopen hlen hst hfit hmax]
    simp only [rf_fwTake, fwBegins_state, fwTake_fw, fwBegins_fw, Nat.zero_add, smapGetMany_smapSetMany, and_self]
  · obtain ⟨hgo, hmax'⟩ := doFwVerify_of_whole hst hgot hmax hsec
    exact ⟨_, rfl, doFwVerify_verified hgo hmax', fun _ => doFwVerify_refused hgo hmax'⟩

/-! ### The error state of the security engine (R537) -/

/-- The IDE keys of the ports are gone, and their streams have stopped. -/
def zeroised (s : State) : State :=
  (List.range 4).foldl (fun s p =>
    putPort p { portOf s p with ideKey := 0, status := fldSet IorPortStatus.ide (portOf s p).status 0 } s) s

/-- The status register of an engine in its error state. -/
def errorNoted (test : Nat) (s : State) : State :=
  rfput SecStatus.key SecStatus.failedTest test (rfput SecStatus.key SecStatus.state 3 s)

section
variable {s : State} {test : Nat}

theorem zeroised_keeps_reg (k : Nat) : rg (zeroised s) k = rg s k :=
  holds_foldl (P := fun t => rg t k = rg s k) rfl fun _ _ hu => hu

theorem sessOf_zeroised (k : Nat) : sessOf (zeroised s) k = sessOf s k :=
  holds_foldl (P := fun t => sessOf t k = sessOf s k) rfl fun _ _ hu => hu

theorem ideKey_zeroised {q : Nat} (hq : q < 4) : (portOf (zeroised s) q).ideKey = 0 := by
  interval_cases q <;> simp [zeroised, List.range_succ, portOf_putPort]

theorem secError_of_operational (h : secState s ≠ 3) : secError test s =
    zeroised (endSessions (report stSecSelftest false 0 locNone 0 (bytesLE 2 test) (errorNoted test s))) := by
  rw [secError, if_neg h]
  rfl

theorem secStatus_ne_count (p : Nat) (_ : p < 4) : SecStatus.key ≠ IorPortCount.key p := by
  simp [SecStatus.key, IorPortCount.key, ringKey]
  omega

/-- The status register of the engine stays as the error's note leaves it. -/
theorem rf_secError (h : secState s ≠ 3) (f : Fld) :
    rf (secError test s) SecStatus.key f = rf (errorNoted test s) SecStatus.key f := by
  rw [secError_of_operational h, rf, zeroised_keeps_reg, endSessions_keeps_reg (by decide), ← rf,
    rf_report _ _ _ _ _ _ _ _ _ secStatus_ne_count]

theorem secState_secError (h : secState s ≠ 3) : secState (secError test s) = 3 := by
  rw [secState, rf_secError h, errorNoted, rf_rfput_field _ _ _ _ _ (by decide), rf_rfput_self _ _ _ _ (by decide)]
  rfl

theorem failedTest_secError (h : secState s ≠ 3) :
    rf (secError test s) SecStatus.key SecStatus.failedTest = test % 2 ^ 16 := by
  rw [rf_secError h, errorNoted, rf_rfput_self _ _ _ _ (by decide)]
  rfl

theorem healthFails_secError (h : secState s ≠ 3) :
    rf (secError test s) SecStatus.key SecStatus.healthFails = rf s SecStatus.key SecStatus.healthFails := by
  rw [rf_secError h, errorNoted, rf_rfput_field _ _ _ _ _ (by decide), rf_rfput_field _ _ _ _ _ (by decide)]

theorem ideKey_secError (h : secState s ≠ 3) {q : Nat} (hq : q < 4) : (portOf (secError test s) q).ideKey = 0 := by
  rw [secError_of_operational h, ideKey_zeroised hq]

theorem sessOf_secError (h : secState s ≠ 3) (k : Nat) : sessOf (secError test s) k = none := by
  rw [secError_of_operational h, sessOf_zeroised, sessOf_endSessions]

theorem secState_of_serves (h : secServes s = true) : secState s ≠ 3 := by
  intro h3
  simp [secServes, h3] at h

end

/-! ### The services and the tests (R535 to R537), and the debug port (R540) -/

section
variable {s : State}

theorem ideKey_doIdeKey_of_pass {p : Nat} {key : BitVec 256} (h : secServes s = true) :
    (portOf (doIdeKey p key true s) p).ideKey = key := by
  rw [doIdeKey, if_neg (by simp [h]), if_neg (by decide), portOf_putPort_self]

/-- A key that fails its known-answer test brings the engine into its error state. -/
theorem doIdeKey_of_fail {p : Nat} {key : BitVec 256} (h : secServes s = true) :
    doIdeKey p key false s = secError (freeTest s).1 (freeTest s).2 := by
  rw [doIdeKey, if_neg (by simp [h]), if_pos (by decide)]

/-- The count of the failed health tests, before the engine enters its error state. -/
theorem doEntropyFail_of_operational {test : Nat} (h : secState s ≠ 3) :
    doEntropyFail test s = secError test (rfsat SecStatus.key SecStatus.healthFails 1 s) := by
  rw [doEntropyFail, if_neg h]

theorem secState_healthFails : secState (rfsat SecStatus.key SecStatus.healthFails 1 s) = secState s := by
  rw [secState, rfsat, rf_rfput_field _ _ _ _ _ (by decide), secState]

theorem doJtag_of_closed {w : JtagAccess} (h : s.dbg.minutes = none) : doJtag w s = s := by
  unfold doJtag
  rw [if_pos (by simp [h])]

theorem halted_setHalted (n : Nat) : (setHalted n true s).dbg.halted.contains n = true := by
  simp only [setHalted, if_true]
  split
  · assumption
  · simp

theorem halted_setHalted_resumed (n : Nat) : (setHalted n false s).dbg.halted.contains n = false := by
  simp [setHalted]

end

/-- Settles O57: the keys and the tests of the engine, the pools, and the debug port closed and open. -/
theorem securityEngineAndDebug : Obligations.SecurityEngineAndDebug := by
  unfold Obligations.SecurityEngineAndDebug
  refine ⟨fun p key s hsec => ⟨?_, ?_⟩, fun f s hok => ?_, fun p ws s hp hsec => ?_, fun w s hd => ?_,
    fun r s hopen => ⟨?_, ?_⟩⟩
  · exact ⟨_, rfl, ideKey_doIdeKey_of_pass hsec⟩
  · have hne : secState (freeTest s).2 ≠ 3 := secState_of_serves hsec
    refine ⟨_, rfl, ?_⟩
    rw [doIdeKey_of_fail hsec]
    exact ⟨secState_secError hne, fun _ hq => ideKey_secError hne hq⟩
  · have hne : secState (rfsat SecStatus.key SecStatus.healthFails 1 s) ≠ 3 := fun h => hok (secState_healthFails.symm.trans h)
    refine ⟨_, rfl, ?_⟩
    rw [doEntropyFail_of_operational hok]
    refine ⟨secState_secError hne, ?_, ?_, fun _ hq => ideKey_secError hne hq, sessOf_secError hne⟩
    · exact (failedTest_secError hne).trans (Nat.mod_eq_of_lt f.isLt)
    · exact (healthFails_secError hne).trans (rf_rfsat_self _ _ _ _ (by decide))
  · refine ⟨_, rfl, ?_⟩
    rw [doPoolRefill, if_pos (by simp [hp, hsec]), standOf_putStand_self]
  · exact congrArg Host.Outcome.next (doJtag_of_closed hd)
  · refine ⟨_, rfl, ?_⟩
    rw [doJtag, if_neg (by simp [Option.isSome_iff_ne_none.mp hopen])]
    exact halted_setHalted _
  · refine ⟨_, rfl, ?_⟩
    rw [doJtag, if_neg (by simp [Option.isSome_iff_ne_none.mp hopen])]
    exact halted_setHalted_resumed _

end Sys2Proof.Proofs
end

section
/-!
PROOFS. The sessions of the management ports (R521 to R527, R539, R557, O56). No set-up access opens or ends a session, so
that its answer finds the session that asked; what a session's own messages change; and the registers that an access only
sets or shows.
-/

namespace Sys2Proof.Proofs

open Sys2Proof.Machine Sys2Proof.Laws

/-! ### Set-up accesses and the sessions that are open -/

theorem smapGet_sessionGets (kind : Nat) (r : Report) (m : List (Nat × Option Session)) (k : Nat) :
    (smapGet sessDflt (sessionGets kind r m) k).isSome = (smapGet sessDflt m k).isSome := by
  induction m with
  | nil => rfl
  | cons e m ih =>
    obtain ⟨j, v⟩ := e
    rw [sessionGets, List.map_cons, smapGet_cons, smapGet_cons, ← sessionGets]
    split
    · exact Option.isSome_map
    · exact ih

/-- The same sessions are open. -/
def SameOpen (s t : State) : Prop := ∀ k, (sessOf t k).isSome = (sessOf s k).isSome

namespace SameOpen

variable {s t u : State}

theorem refl (s : State) : SameOpen s s := fun _ => rfl

theorem frame (h : SameOpen s t) (e : u.sessions = t.sessions) : SameOpen s u := by
  unfold SameOpen sessOf at h ⊢
  rw [e]
  exact h

/-- A session that is open stays so, whatever of it is changed. -/
theorem putSess {k : Nat} {v w : Session} (h : SameOpen s t) (e : sessOf t k = some v) :
    SameOpen s (Machine.putSess k (some w) t) := by
  intro i
  rw [sessOf_putSess, ← h i]
  split
  · next hi => rw [hi, e]; rfl
  · rfl

theorem rput {k : Nat} {w : Word} (h : SameOpen s t) : SameOpen s (Machine.rput k w t) := h.frame rfl

theorem rfput {k v : Nat} {f : Fld} (h : SameOpen s t) : SameOpen s (Machine.rfput k f v t) := h.rput

theorem rfadd {k n : Nat} {f : Fld} (h : SameOpen s t) : SameOpen s (Machine.rfadd k f n t) := h.rput

theorem rfsat {k n : Nat} {f : Fld} (h : SameOpen s t) : SameOpen s (Machine.rfsat k f n t) := h.rput

theorem putPort {p : Nat} {v : Port} (h : SameOpen s t) : SameOpen s (Machine.putPort p v t) := h.frame rfl

theorem putRing {p r : Nat} {v : CRing} (h : SameOpen s t) : SameOpen s (Machine.putRing p r v t) := h.frame rfl

theorem putGring {p q : Nat} {v : GRing} (h : SameOpen s t) : SameOpen s (Machine.putGring p q v t) := h.frame rfl

theorem putGate {p n v : Nat} (h : SameOpen s t) : SameOpen s (Machine.putGate p n v t) := h.frame rfl

theorem putHubQ {p q : Nat} {v : HubQ} (h : SameOpen s t) : SameOpen s (Machine.putHubQ p q v t) := h.frame rfl

theorem putStage {k : Nat} {v : Stage} (h : SameOpen s t) : SameOpen s (Machine.putStage k v t) := h.frame rfl

theorem putDesc {p o : Nat} {v : List Byte} (h : SameOpen s t) : SameOpen s (Machine.putDesc p o v t) := h.frame rfl

theorem hostWrite {a : Nat} {b : List Byte} (h : SameOpen s t) : SameOpen s (Machine.hostWrite a b t) := h.frame rfl

theorem raiseIrq {p v : Nat} (h : SameOpen s t) : SameOpen s (Machine.raiseIrq p v t) := h.putPort

theorem plainWrite {k : Nat} {v : Word} (h : SameOpen s t) : SameOpen s (Machine.plainWrite k v t) := h.rput

theorem report {st : Status} {b : Bool} {src : Nat} {loc a : Word} {data : List Byte} (h : SameOpen s t) :
    SameOpen s (Machine.report st b src loc a data t) := by
  obtain ⟨g, q, m, e⟩ := report_frame st b src loc a data t
  intro k
  rw [e, ← h k]
  exact smapGet_sessionGets _ _ _ _

theorem countErr {st : Status} {a b c : Nat} (h : SameOpen s t) : SameOpen s (Machine.countErr st a b c t) := fun k =>
  (congrArg Option.isSome (countErr_sessOf ..)).trans (h k)

theorem countVia {via : Via} {k : Nat} {st : Status} (h : SameOpen s t) : SameOpen s (Machine.countVia via k st t) :=
  h.countErr

theorem countDenied {via : Via} {k : Nat} {st : Status} (h : SameOpen s t) :
    SameOpen s (Machine.countDenied via k st t) := holds_ite h.countVia.report h.countVia

theorem viaWrite {via : Via} {k : Nat} {f : State → Status × State} (h : SameOpen s t)
    (hf : ∀ u, SameOpen s u → SameOpen s (f u).2) : SameOpen s (Machine.viaWrite via k f t).2 := by
  unfold Machine.viaWrite
  split
  · exact h
  · exact holds_ite h.countDenied h
  · exact holds_ite (hf _ h) (hf _ h).countVia

theorem viaRead {via : Via} {k : Nat} {f : State → Except Status (Word × State)} (h : SameOpen s t)
    (hf : ∀ x, f t = .ok x → SameOpen s x.2) : SameOpen s (Machine.viaRead via k f t).2.2 := by
  unfold Machine.viaRead
  split
  · exact h
  · exact holds_ite h.countDenied h
  · split
    · next e => exact hf _ e
    · exact h.countVia

/-! The units whose registers have rules of their own -/

theorem tallyBump {x : Bool × Nat × Nat} {n : Nat} (h : SameOpen s t) : SameOpen s (Machine.tallyBump x n t) :=
  h.rput.rfadd

theorem cvuSet {ring : Bool} {p u v : Nat} (h : SameOpen s t) : SameOpen s (Machine.cvuSet ring p u v t) := h.rput.rfput

theorem cvuFeed {ring : Bool} {p u : Nat} {b : List Byte} (h : SameOpen s t) :
    SameOpen s (Machine.cvuFeed ring p u b t) := h.rput.rfadd

theorem cvuWrite {ring : Bool} {p u : Nat} {f : State → Status × State} (h : SameOpen s t)
    (hf : ∀ w, SameOpen s w → SameOpen s (f w).2) : SameOpen s (Machine.cvuWrite ring p u f t).2 :=
  holds_ite_snd h.rfsat (hf _ h)

theorem putPlain {via : Via} {k : Nat} {v : Word} (h : SameOpen s t) : SameOpen s (Machine.putPlain via k v t).2 :=
  h.viaWrite fun _ h => h.plainWrite

theorem putCvu {via : Via} {k : Nat} {ring : Bool} {p u : Nat} {v : Word} (h : SameOpen s t) :
    SameOpen s (Machine.putCvu via k ring p u v t).2 := by
  have hfeed : ∀ n, SameOpen s (doCvuFeed via k ring p u n v t).2 := fun _ =>
    h.viaWrite fun _ h => h.cvuWrite fun _ h => h.cvuFeed
  have hcfg : SameOpen s (doCvuCfg via ring p u v t).2 :=
    h.viaWrite fun _ h => holds_ite_snd h (h.cvuWrite fun _ h => holds_ite h.plainWrite.cvuSet h.plainWrite)
  have hparam : SameOpen s (doCvuParam via k ring p u v t).2 :=
    h.viaWrite fun _ h => h.cvuWrite fun _ h => h.plainWrite
  have hvalue : SameOpen s (doCvuValue via ring p u v t).2 := h.viaWrite fun _ h => h.cvuWrite fun _ h => h.cvuSet
  exact holds_ite_snd hcfg (holds_ite_snd hparam (holds_ite_snd hvalue (holds_ite_snd (hfeed _) (holds_ite_snd (hfeed _)
    (holds_ite_snd (hfeed _) (holds_ite_snd (hfeed _) h.putPlain))))))

theorem putTally {via : Via} {k : Nat} {ring : Bool} {p u : Nat} {v : Word} (h : SameOpen s t) :
    SameOpen s (Machine.putTally via k ring p u v t).2 := by
  have hcount : SameOpen s (doTlyCount via ring p u v t).2 := h.viaWrite fun _ h => h.rput
  have hadd : SameOpen s (doTlyAdd via ring p u v t).2 := h.viaWrite fun _ h => h.tallyBump
  have hcfg : SameOpen s (doTlyCfg via u v t).2 := h.viaWrite fun _ h =>
    holds_ite_snd (holds_ite h.rfput h.plainWrite) (holds_ite_snd (holds_ite_snd h h) (holds_ite_snd h.plainWrite h))
  have hwatch : ∀ b, SameOpen s (doTlyWatch via u b v t).2 := fun _ => h.viaWrite fun _ h => holds_ite_snd h h.plainWrite
  exact holds_ite_snd hcount (holds_ite_snd hadd (holds_ite_snd (holds_ite_snd (h.viaWrite fun _ h => h)
    (holds_ite_snd hcfg (hwatch _))) h.putPlain))

theorem descDataWrite {p : Nat} {v : Word} (h : SameOpen s t) : SameOpen s (Machine.descDataWrite p v t).2 :=
  holds_ite_snd h h.putDesc.rfadd

theorem putHub {via : Via} {k p : Nat} {v : Word} (h : SameOpen s t) : SameOpen s (Machine.putHub via k p v t).2 :=
  h.viaWrite fun _ h => holds_ite_snd h (holds_ite_snd h.descDataWrite (holds_ite_snd h.plainWrite
    (holds_ite_snd h.plainWrite h.plainWrite.putHubQ)))

theorem putNodeReg {via : Via} {k p n : Nat} {v : Word} (h : SameOpen s t) :
    SameOpen s (Machine.putNodeReg via k p n v t).2 := by
  have hdirty : ∀ {w : State} v, SameOpen s w → SameOpen s { w with dirty := v } := fun _ hw => hw.frame rfl
  exact h.viaWrite fun _ h => holds_ite_snd h (holds_ite (hdirty _ h.plainWrite) h.plainWrite)

theorem obWrite {l : Loc} {lane b : Nat} {bs : List Byte} (h : SameOpen s t) :
    SameOpen s (Machine.obWrite l lane b bs t) := by
  induction bs generalizing b t with
  | nil => exact h
  | cons v vs ih => exact ih (h.frame rfl)

theorem putCompute {via : Via} {k p a : Nat} {v : Word} (h : SameOpen s t) :
    SameOpen s (Machine.putCompute via k p a v t).2 := by
  have hbound : ∀ {w : State} c o, SameOpen s w → SameOpen s (keepBoundValid p a c o w) := fun _ _ hw =>
    holds_ite hw.rfput hw
  have hhold : ∀ {w : State} st, SameOpen s w → SameOpen s (holdCount p a st w) := fun _ hw => holds_ite hw.putStage hw
  have hdata : ∀ {w : State}, SameOpen s w → SameOpen s (obDataWrite p a v w).2 := fun hw =>
    holds_ite_snd hw hw.obWrite.rfadd
  exact h.viaWrite fun _ h => holds_ite_snd h (holds_ite_snd (hdata h) (holds_ite_snd (hbound _ _ h.plainWrite)
    (holds_ite_snd h.plainWrite (holds_ite_snd (hhold _ h).plainWrite h.plainWrite))))

theorem putMemory {via : Via} {k p a : Nat} {v : Word} (h : SameOpen s t) : SameOpen s (Machine.putMemory via k p a v t).2 :=
  h.viaWrite fun _ h => holds_ite_snd h (holds_ite_snd h h.plainWrite)

/-! The clocks and the gates of a stand -/

theorem followSource {p : Nat} (h : SameOpen s t) : SameOpen s (Machine.followSource p t) := h.rput.rfput.rfput

theorem putSide {p d : Nat} {m : Side} (h : SameOpen s t) : SameOpen s (Machine.putSide p d m t) := h.frame rfl

theorem markersGo {n : Nat} {ps : List Nat} (h : SameOpen s t) : SameOpen s (Machine.markersGo n ps t) := by
  induction n generalizing ps t with
  | zero => exact h
  | succ n ih =>
    cases ps with
    | nil => exact h
    | cons p ps =>
      simp only [Machine.markersGo]
      refine ih (holds_foldl_of (Prod.snd (α := List Nat)) h fun x d hx => ?_)
      split
      · exact hx
      · exact holds_ite_snd (holds_ite_snd hx.putSide.followSource hx.putSide.followSource)
          (holds_ite hx.putSide.rfput hx.putSide)

theorem selectSource {p d : Nat} (h : SameOpen s t) : SameOpen s (Machine.selectSource p d t) :=
  h.rfput.rfput.rfsat.followSource.markersGo

theorem doSrcSel {via : Via} {p : Nat} {v : Word} (h : SameOpen s t) : SameOpen s (Machine.doSrcSel via p v t).2 :=
  h.viaWrite fun _ h => by
    dsimp only
    split
    · exact h.rfput
    · exact h.selectSource

theorem gateAll {p n : Nat} (h : SameOpen s t) : SameOpen s (Machine.gateAll p n t) :=
  holds_foldl h fun _ _ h => h.putGate

theorem gateApply {op : GateOp} {p n : Nat} (h : SameOpen s t) : SameOpen s (Machine.gateApply op p n t).2 := by
  refine holds_ite_snd h ?_
  cases op with
  | on => exact holds_foldl h.putGate fun _ _ h => holds_ite h.putGate h
  | off =>
    dsimp only
    split
    · exact h
    · dsimp only
      exact h.gateAll
  | offAfterDrain => exact holds_ite_snd h (holds_ite h h.putGate)
  | cancel => exact holds_ite h.putGate h

theorem doGate {via : Via} {op : GateOp} {p n : Nat} (h : SameOpen s t) : SameOpen s (Machine.doGate via op p n t).2 :=
  h.viaWrite fun _ h => holds_ite h.gateApply h.gateApply.rfput

theorem doClkDiv {via : Via} {p : Nat} {v : Word} (h : SameOpen s t) : SameOpen s (Machine.doClkDiv via p v t).2 :=
  h.viaWrite fun _ h => holds_ite_snd h (holds_ite_snd h h.plainWrite.rfsat)

theorem putStandReg {via : Via} {k : Nat} {v : Word} (h : SameOpen s t) : SameOpen s (Machine.putStandReg via k v t).2 := by
  have hlen : SameOpen s (Machine.viaWrite via k (fun w => (stDone, stageHdlLen (suStand k) (suIndex k) v w)) t).2 :=
    h.viaWrite fun _ h => h.frame rfl
  have hhdl : SameOpen s (Machine.viaWrite via k (commitHdl (suStand k) (suIndex k) v) t).2 :=
    h.viaWrite fun _ h => holds_ite_snd h h.plainWrite.rfput.rfadd
  exact holds_ite_snd (holds_ite_snd h.doSrcSel (holds_ite_snd h.doClkDiv (holds_ite_snd h.doGate h.putPlain)))
    (holds_ite_snd h.putHub (holds_ite_snd (holds_ite_snd hhdl hlen) (holds_ite_snd h.putCvu (holds_ite_snd h.putTally
    (holds_ite_snd h.putNodeReg (holds_ite_snd (holds_ite_snd h.putMemory h.putCompute) h.putPlain))))))

/-! The ring's own registers -/

theorem doRingBase {via : Via} {k cfg : Nat} {v : Word} (h : SameOpen s t) :
    SameOpen s (Machine.doRingBase via k cfg v t).2 := h.viaWrite fun _ h => holds_ite_snd h h.plainWrite

theorem doEvqCfg {via : Via} {p : Nat} {v : Word} (h : SameOpen s t) : SameOpen s (Machine.doEvqCfg via p v t).2 :=
  h.viaWrite fun _ h => by
    split
    · exact h
    · exact h.plainWrite.putPort
    · exact h.plainWrite

theorem doCrCfg {via : Via} {p r : Nat} {v : Word} (h : SameOpen s t) : SameOpen s (Machine.doCrCfg via p r v t).2 :=
  h.viaWrite fun _ h => by
    dsimp only
    split
    · exact h
    · exact h.plainWrite.putRing
    · exact h.plainWrite.putRing
    · exact h.plainWrite

theorem flushRecs {p q n : Nat} (h : SameOpen s t) : SameOpen s (Machine.flushRecs p q n t) := by
  induction n generalizing t with
  | zero => exact h
  | succ n ih =>
    simp only [Machine.flushRecs]
    split
    · exact h
    · exact holds_ite h (ih (holds_ite h.hostWrite.putGring.raiseIrq h.hostWrite.putGring))

theorem doGqCfg {via : Via} {p q : Nat} {v : Word} (h : SameOpen s t) : SameOpen s (Machine.doGqCfg via p q v t).2 :=
  h.viaWrite fun _ h => by
    dsimp only
    split
    · exact h
    · exact h.plainWrite.putGring.flushRecs
    · exact h.plainWrite.putGring
    · exact h.plainWrite

theorem putPort9 {via : Via} {k u : Nat} {v : Word} (h : SameOpen s t) : SameOpen s (Machine.putPort9 via k u v t).2 :=
  holds_ite_snd h.doRingBase (holds_ite_snd h.doEvqCfg (holds_ite_snd (h.viaWrite fun _ h => holds_ite_snd h h.plainWrite)
    (holds_ite_snd h.doRingBase (holds_ite_snd h.doCrCfg h.putPlain))))

theorem fwGoes {p : Nat} {v : Word} (h : SameOpen s t) : SameOpen s (Machine.fwGoes p v t).2 := by
  have hset : ∀ v, SameOpen s { t with fw := v } := fun _ => h.frame rfl
  exact holds_ite_snd h (holds_ite_snd h (hset _).rfput.rfput)

theorem putRanger {via : Via} {k u : Nat} {v : Word} (h : SameOpen s t) : SameOpen s (Machine.putRanger via k u v t).2 :=
  holds_ite_snd (by
    split
    · exact h.viaWrite fun _ h => h.fwGoes
    · exact h.putPlain) (holds_ite_snd h.doRingBase (holds_ite_snd h.doGqCfg h.putPlain))

theorem startGlide {khz : Nat} (h : SameOpen s t) : SameOpen s (Machine.startGlide khz t) := by
  have hset : ∀ {w : State} v, SameOpen s w → SameOpen s { w with ringClk := v } := fun _ hw => hw.frame rfl
  exact holds_ite h.rfput (hset _ h.rfput).rfput

theorem putRingReg {via : Via} {k : Nat} {v : Word} (h : SameOpen s t) : SameOpen s (Machine.putRingReg via k v t).2 := by
  have hslot : SameOpen s (doSlotCfg via v t).2 := h.viaWrite fun _ h => holds_ite_snd h (by
    split
    · exact h
    · exact h.startGlide)
  have hacquire : SameOpen s (doReacquire via t).2 := h.viaWrite fun _ h =>
    holds_ite_snd h (holds_ite_snd (holds_ite_snd h h.rfput.startGlide) h)
  have htime : SameOpen s (doTimeNext via v t).2 := h.viaWrite fun _ h => h.frame rfl
  have hpower : ∀ {w : State} v, SameOpen s w → SameOpen s { w with power := v } := fun _ hw => hw.frame rfl
  have hceiling : ∀ n, SameOpen s (doOpCeiling via n t).2 := fun _ => h.viaWrite fun _ h =>
    holds_ite_snd h (holds_ite_snd h (holds_ite_snd h (hpower _ h.rfput).rfput))
  have hfuse : SameOpen s (Machine.viaWrite via k (otpDataWrite v) t).2 := h.viaWrite fun _ h => by
    have hset : ∀ {w : State} v, SameOpen s w → SameOpen s { w with otpStage := v } := fun _ hw => hw.frame rfl
    exact (hset _ h).rfadd
  exact holds_ite_snd h.putRanger (holds_ite_snd (holds_ite_snd (holds_ite_snd hacquire h.putPlain) (holds_ite_snd hslot
    (holds_ite_snd htime h.putPlain))) (holds_ite_snd (holds_ite_snd (hceiling _) h.putPlain) (holds_ite_snd
    (holds_ite_snd hfuse h.putPlain) (holds_ite_snd h.putCvu (holds_ite_snd h.putTally (holds_ite_snd h.putPort9
    h.putPlain))))))

theorem countAddr {via : Via} {a : Nat} {st : Status} (h : SameOpen s t) : SameOpen s (Machine.countAddr via a st t) :=
  h.countErr

theorem setupPut {via : Via} {a n : Nat} {v : Word} (h : SameOpen s t) : SameOpen s (Machine.setupPut via a n v t).2 := by
  have hput : ∀ k m v, SameOpen s (putReg via k m v t).2 := fun _ _ _ =>
    holds_ite_snd (h.viaWrite fun _ h => h) (holds_ite_snd h.putStandReg h.putRingReg)
  refine holds_ite_snd h.countAddr ?_
  split
  · exact holds_ite h.countAddr h
  · exact holds_ite_snd (hput _ _ _) h.countAddr

theorem clearRc {k : Nat} {m : Word} (h : SameOpen s t) : SameOpen s (Machine.clearRc k m t) := by
  have hset : ∀ {w : State} a b c, SameOpen s w → SameOpen s { w with excBase := a, drainExc := b, excSat := c } :=
    fun _ _ _ hw => hw.frame rfl
  exact holds_ite h (holds_foldl h fun _ _ h => holds_ite h (hset _ _ _ h)).rput

theorem getReg {k : Nat} {m : Word} {x : Word × State} (h : SameOpen s t) (e : Machine.getReg k m t = .ok x) :
    SameOpen s x.2 := by
  unfold Machine.getReg obDataRead descDataRead otpDataRead at e
  dsimp only at e
  split at e
  · split at e
    · cases e
    · obtain rfl := Except.ok.inj e
      exact h.rfadd
  split at e
  · obtain rfl := Except.ok.inj e
    exact h.rfadd
  split at e
  · obtain rfl := Except.ok.inj e
    exact h.rfadd
  split at e
  · obtain rfl := Except.ok.inj e
    exact h
  · obtain rfl := Except.ok.inj e
    exact h.clearRc

theorem setupGet {via : Via} {a n : Nat} (h : SameOpen s t) : SameOpen s (Machine.setupGet via a n t).2.2 := by
  unfold Machine.setupGet
  dsimp only
  split
  · exact h.countAddr
  split
  · exact holds_ite h.countAddr h
  split
  · exact h.viaRead fun _ e => h.getReg e
  · exact h.countAddr

end SameOpen

/-! ### A session's own messages (R523) -/

section
variable {s t u : State} {k : Nat} {x : Session}

/-- The last message that a session has been sent. -/
def lastOut (k : Nat) (s : State) : Option MgmtMsg := (sessOf s k).bind (·.out.getLast?)

theorem lastOut_sessSend {m : MgmtMsg} (h : (sessOf s k).isSome = true) : lastOut k (sessSend k m s) = some m := by
  obtain ⟨v, hv⟩ := Option.isSome_iff_exists.mp h
  rw [sessSend, hv, lastOut, sessOf_putSess_self, Option.bind_some, List.getLast?_concat]

theorem sessCount_of_open (h : sessOf s k = some x) :
    sessCount k s = putSess k (some { x with seqIn := x.seqIn + 1 }) s := by rw [sessCount, h]

theorem sessCount_open (h : sessOf s k = some x) : (sessOf (sessCount k s) k).isSome = true := by
  rw [sessCount_of_open h, sessOf_putSess_self, Option.isSome_some]

/-- The registers and the memory stand as they did. -/
def SameRegsMem (s t : State) : Prop := t.regs = s.regs ∧ t.mem = s.mem

theorem SameRegsMem.rg_eq (h : SameRegsMem s t) (j : Nat) : rg t j = rg s j := by rw [rg, h.1, ← rg]

theorem sameRegsMem_sessCount : SameRegsMem s (sessCount k s) := by
  unfold sessCount
  split <;> exact ⟨rfl, rfl⟩

theorem sameRegsMem_sessSend {m : MgmtMsg} : SameRegsMem s (sessSend k m s) := by
  unfold sessSend
  split <;> exact ⟨rfl, rfl⟩

theorem sessMsg_of_turn {seq : Word} {f : State → State} (h : sessOf s k = some x) (hseq : seq.toNat = x.seqIn) :
    sessMsg k seq f s = f (sessCount k s) := by
  rw [sessMsg, h]
  exact if_pos hseq

theorem sessMsg_out_of_turn {seq : Word} {f : State → State} (h : sessOf s k = some x) (hseq : seq.toNat ≠ x.seqIn) :
    sessMsg k seq f s = endSession k s := by
  rw [sessMsg, h]
  exact if_neg hseq

/-- A session that is told the end of an access that it made has it as its last message. -/
theorem lastOut_answer {m : MgmtMsg} (h : sessOf s k = some x) (ht : SameOpen (sessCount k s) t) :
    lastOut k (sessSend k m t) = some m := lastOut_sessSend ((ht k).trans (sessCount_open h))

theorem doRegRead_of_turn {m : BitVec 1} {i : BitVec 2} {seq : Word} {a : BitVec 48} (h : sessOf s (mgmtKey m i) = some x)
    (hseq : seq.toNat = x.seqIn) :
    let r := setupGet (.mgmt m) a.toNat 8 (sessCount (mgmtKey m i) s)
    doRegRead m i seq a s = sessSend (mgmtKey m i) (.regResult (a.setWidth 64) r.2.1 r.1) r.2.2 :=
  sessMsg_of_turn h hseq

theorem doRegWrite_of_turn {m : BitVec 1} {i : BitVec 2} {seq : Word} {a : BitVec 48} {v : Word}
    (h : sessOf s (mgmtKey m i) = some x) (hseq : seq.toNat = x.seqIn) :
    let r := setupPut (.mgmt m) a.toNat 8 v (sessCount (mgmtKey m i) s)
    doRegWrite m i seq a v s = sessSend (mgmtKey m i) (.regResult (a.setWidth 64) v r.1) r.2 :=
  sessMsg_of_turn h hseq

theorem kinds_doSubscribe {seq kinds : Word} (h : sessOf s k = some x) (hseq : seq.toNat = x.seqIn) :
    (sessOf (doSubscribe k seq kinds s) k).map (·.kinds) = some kinds := by
  rw [doSubscribe, sessMsg_of_turn h hseq, sessCount_of_open h, sessOf_putSess_self]
  dsimp only
  rw [sessOf_putSess_self, Option.map_some]

/-- A response's bytes are drawn where the spec does not lay them down, which opens and ends no session. -/
theorem spdmBytes_sessions (q : Spdm) : (spdmBytes q s).2.sessions = s.sessions := by
  unfold spdmBytes
  split <;> rfl

theorem lastOut_doSpdm {m : BitVec 1} {i : BitVec 2} {q : Spdm} (h : sessOf s (mgmtKey m i) = some x)
    (hsec : secServes s = true) : lastOut (mgmtKey m i) (doSpdm (.mgmt m) i q s) =
      some (.spdm (spdmBytes q (sessCount (mgmtKey m i) s)).1) := by
  have hserves : secServes (sessCount (mgmtKey m i) s) = true := by
    rw [sessCount_of_open h]
    exact hsec
  rw [doSpdm, if_neg (by simp [h]), if_neg (by simp [hserves])]
  exact lastOut_answer h ((SameOpen.refl _).frame (spdmBytes_sessions q))

theorem lastOut_doRedfish {q : Redfish} (h : sessOf s k = some x) : lastOut k (doRedfish k q s) =
    some (.redfish (redfishValues s (redfishEvents x.events q) q).1 (redfishValues s (redfishEvents x.events q) q).2) := by
  rw [doRedfish, h]
  dsimp only
  rw [lastOut, sessOf_putSess_self, Option.bind_some, List.getLast?_concat]

/-! ### The opening of sessions, and the link of their port (R521, R522, R557) -/

section
variable {m pr i : Nat} {peer : BitVec 128} {a : BitVec 384}

theorem doSessionOpen_proved (hup : cageDown s m = false) (hserved : protoServed s pr = true) (hsec : secServes s = true)
    (hslot : openSlot s m pr = some i) (hanchor : (trustAnchors s).contains a = true) :
    doSessionOpen m pr peer a true s =
      putSess (sessKey m pr i) (some ⟨BitVec.ofNat 2 pr, peer, 0, 0, [], false, [], [], []⟩) s := by
  rw [doSessionOpen, if_neg (by simp [hup, hserved, hsec]), hslot]
  dsimp only
  rw [hanchor, if_pos (by decide)]

theorem doSessionOpen_unproved (hup : cageDown s m = false) (hserved : protoServed s pr = true) (hsec : secServes s = true)
    (hslot : openSlot s m pr = some i) : doSessionOpen m pr peer a false s =
      report stMgmtAuthFail false 0 locNone 0 (bytesLE 1 m ++ bytesLE 16 peer.toNat)
        { s with authFails := s.authFails + 1 } := by
  rw [doSessionOpen, if_neg (by simp [hup, hserved, hsec]), hslot]
  dsimp only
  rw [Bool.false_and, if_neg (by decide)]

/-- The slot that is found is free. -/
theorem openSlot_free (h : openSlot s m pr = some i) : (sessOf s (sessKey m pr i)).isSome = false := by
  have hnone := List.find?_some h
  simpa using hnone

/-- A failed proof of a client's key is counted and reported, and opens no session. -/
theorem authFailed_shows {data : List Byte} (h : (sessOf s k).isSome = false) :
    let t := report stMgmtAuthFail false 0 locNone 0 data { s with authFails := s.authFails + 1 }
    sessOf t k = none ∧ t.authFails = s.authFails + 1 ∧ t.reportSeq = s.reportSeq + 1 := by
  intro t
  have hopen : SameOpen s { s with authFails := s.authFails + 1 } := (SameOpen.refl s).frame rfl
  refine ⟨?_, report_authFails .., report_reportSeq ..⟩
  exact Option.isNone_iff_eq_none.mp (Option.isSome_eq_false_iff.mp ((hopen.report k).trans h))

end

theorem cages_endSessionsOf (f : Nat → Bool) : (endSessionsOf f s).cages = s.cages :=
  holds_foldl (P := fun t => t.cages = s.cages) rfl fun u j hu => by
    obtain ⟨v, g, e⟩ := endSession_frame j u
    rw [e]
    exact hu

theorem cageDown_doTransceiver {m : Nat} {up : Bool} : cageDown (doTransceiver m up s) m = !up := by
  unfold doTransceiver cageDown
  cases up
  · rw [if_neg (by decide), cages_endSessionsOf]
    dsimp only
    exact smapGet_smapSet_self tagDflt _ _ _
  · rw [if_pos rfl]
    dsimp only
    exact smapGet_smapSet_self tagDflt _ _ _

theorem sessOf_doTransceiver_down {m : Nat} (hk : k / 16 = m) : sessOf (doTransceiver m false s) k = none := by
  unfold doTransceiver
  rw [if_neg (by decide)]
  exact sessOf_endSessionsOf (by simp [hk])

end

/-! ### The registers that an access only sets or shows (R14 to R16) -/

section
variable {s t u : State} {via : Via} {k a n : Nat} {m v w : Word}

theorem onlyWrote_frame {s' t' : State} (h : onlyWrote k w s t) (hs : SameRegsMem s' s) (ht : SameRegsMem t t') :
    onlyWrote k w s' t' := by
  obtain ⟨hk, hj, hm⟩ := h
  exact ⟨(ht.rg_eq k).trans hk, fun j hne => (ht.rg_eq j).trans ((hj j hne).trans (hs.rg_eq j)),
    ht.2.trans (hm.trans hs.2)⟩

theorem onlyWrote_rput : onlyWrote k w s (rput k w s) :=
  ⟨rg_rput_self _ _ _, fun _ hj => (rg_rput _ _ _ _).trans (if_neg hj), rfl⟩

/-- What a set-up write does at a register that it only sets. -/
def plainSet (k : Nat) (m v : Word) (s : State) : State :=
  if m &&& ((descOf k).rw ||| (descOf k).wo ||| (descOf k).w1c) = 0 then s else plainWrite k (mergeWrite s k m v) s

theorem onlyWrote_plainSet : onlyWrote k (writtenWord s k m v) s (plainSet k m v s) := by
  unfold plainSet writtenWord
  dsimp only
  split
  · exact ⟨rfl, fun _ _ => rfl, rfl⟩
  · exact onlyWrote_rput

/-- The registers of a stand that have a rule of their own are those that `plainReg` leaves out. -/
theorem putStandReg_of_plain (hv : suView k = 2) (h : plainReg k = true) : putStandReg via k v s = putPlain via k v s := by
  simp [plainReg, hv] at h
  unfold putStandReg
  dsimp only
  grind

/-- And those of the ring. -/
theorem putRingReg_of_plain (hv : suView k ≠ 2) (h : plainReg k = true) : putRingReg via k v s = putPlain via k v s := by
  simp [plainReg, hv] at h
  unfold putRingReg putRanger putPort9
  dsimp only
  grind

theorem putReg_of_plain (h : plainReg k = true) (hp : passes via true k s) :
    putReg via k m v s = (stDone, plainSet k m v s) := by
  have hattr : (suView k = 0 && suClass k = 9 && decide (0x40 ≤ suOff k ∧ suOff k < 0x80)) = false := by
    simp [plainReg] at h ⊢
    grind
  have hplain : ∀ v, putPlain via k v s = (stDone, plainWrite k v s) := fun v => by
    rw [putPlain, viaWrite_runs _ _ _ _ hp, if_pos rfl]
  unfold putReg plainSet
  dsimp only
  by_cases hm : m &&& ((descOf k).rw ||| (descOf k).wo ||| (descOf k).w1c) = 0
  · rw [if_pos ⟨hm, hattr⟩, if_pos hm, viaWrite_runs _ _ _ _ hp, if_pos rfl]
  rw [if_neg fun hc => hm hc.1, if_neg hm]
  by_cases hv : suView k = 2
  · rw [if_pos hv, putStandReg_of_plain hv h, hplain]
  · rw [if_neg hv, putRingReg_of_plain hv h, hplain]

/-- An access of eight bytes reaches the whole register (R15). -/
theorem access_whole (h : sizeOk a 8 = true) : accessMask a 8 = allOnes ∧ v <<< accessShift a = v := by
  have ha : a % 8 = 0 := by simpa [sizeOk] using h
  have hshift : accessShift a = 0 := if_neg (by omega)
  exact ⟨if_pos rfl, by rw [hshift, BitVec.shiftLeft_zero]⟩

theorem setupPut_of_plain (h : plainReg k = true) (hr : reaches via true a n k s) :
    setupPut via a n v s = (stDone, plainSet k (accessMask a n) (v <<< accessShift a) s) := by
  obtain ⟨hsize, hreach, hform, hpass⟩ := hr
  rw [setupPut, if_neg (by simp [hsize]), hreach]
  dsimp only
  rw [if_pos hform, putReg_of_plain h hpass]

/-- A read clears its RC fields, and leaves the exception counts of the epoch beside the registers (R401). -/
theorem onlyWrote_clearRc : onlyWrote k (rg s k &&& ~~~((descOf k).rc &&& m)) s (clearRc k m s) := by
  unfold clearRc
  extract_lets c t
  split
  · next hc =>
    have hkeep : rg s k = rg s k &&& ~~~c := by
      rw [hc]
      exact BitVec.and_allOnes.symm
    exact ⟨hkeep, fun _ _ => rfl, rfl⟩
  · have hset : ∀ {u : State} a b c, SameRegsMem s u →
        SameRegsMem s { u with excBase := a, drainExc := b, excSat := c } := fun _ _ _ hu => hu
    have ht : SameRegsMem s t := holds_foldl ⟨rfl, rfl⟩ fun _ _ hu => holds_ite hu (hset _ _ _ hu)
    rw [← ht.rg_eq]
    exact onlyWrote_frame onlyWrote_rput ht ⟨rfl, rfl⟩

theorem getReg_of_plain (h : plainRead k = true) : getReg k m s = .ok (shown s k, clearRc k m s) := by
  simp [plainRead] at h
  unfold getReg
  dsimp only
  grind

theorem setupGet_of_plain (h : plainRead k = true) (hr : reaches via false a n k s) :
    setupGet via a n s = (stDone, readValue s k a n, clearRc k (accessMask a n) s) := by
  obtain ⟨hsize, hreach, hform, hpass⟩ := hr
  unfold passes at hpass
  unfold setupGet
  dsimp only
  rw [if_neg (by simp [hsize]), hreach]
  dsimp only
  rw [if_pos hform, viaRead, hpass]
  dsimp only
  rw [getReg_of_plain h]
  rfl

end

/-- Settles O56: the session that opens, and the one that ends; the answers of a session's messages, each the last that it is
sent; and the link of a port, which its sessions share. -/
theorem sessionsAnswerInTurn : Obligations.SessionsAnswerInTurn := by
  unfold Obligations.SessionsAnswerInTurn
  refine ⟨fun m pr peer a i s hup hserved hsec hslot => ⟨fun hanchor => ?_, ?_⟩, fun m pr i s => ?_,
    fun m i seq a v kinds x s hx => ?_, fun m i x q s hx => ?_, fun m up ok s => ?_⟩
  · refine ⟨_, rfl, ?_⟩
    rw [doSessionOpen_proved hup hserved hsec hslot hanchor, sessOf_putSess_self, Option.map_some]
  · refine ⟨_, rfl, ?_⟩
    rw [doSessionOpen_unproved hup hserved hsec hslot]
    exact authFailed_shows (openSlot_free hslot)
  · exact ⟨_, rfl, (sessOf_endSession _).trans (if_pos rfl), endSession_orphans⟩
  · intro u last
    refine ⟨fun hseq => ⟨?_, ?_, fun k hk hr => ?_, fun k hk hr => ?_, ?_⟩, fun hseq => ⟨?_, ?_, ?_⟩, fun q hsec => ?_⟩
    · refine ⟨_, rfl, ?_⟩
      rw [doRegRead_of_turn hx hseq]
      exact lastOut_answer hx (SameOpen.refl u).setupGet
    · refine ⟨_, rfl, ?_⟩
      rw [doRegWrite_of_turn hx hseq]
      exact lastOut_answer hx (SameOpen.refl u).setupPut
    · have hopen : SameOpen u (setupGet (.mgmt m) a.toNat 8 u).2.2 := (SameOpen.refl u).setupGet
      refine ⟨_, rfl, ?_⟩
      rw [doRegRead_of_turn hx hseq]
      rw [setupGet_of_plain hk hr] at hopen ⊢
      refine ⟨lastOut_answer hx hopen, ?_⟩
      rw [readLeaves, ← sameRegsMem_sessCount.rg_eq]
      exact onlyWrote_frame onlyWrote_clearRc sameRegsMem_sessCount sameRegsMem_sessSend
    · have hopen : SameOpen u (setupPut (.mgmt m) a.toNat 8 v u).2 := (SameOpen.refl u).setupPut
      refine ⟨_, rfl, ?_⟩
      rw [doRegWrite_of_turn hx hseq]
      rw [setupPut_of_plain hk hr] at hopen ⊢
      refine ⟨lastOut_answer hx hopen, ?_⟩
      obtain ⟨hmask, hvalue⟩ := access_whole (v := v) hr.1
      rw [hmask, hvalue]
      exact onlyWrote_frame onlyWrote_plainSet sameRegsMem_sessCount sameRegsMem_sessSend
    · exact ⟨_, rfl, kinds_doSubscribe hx hseq⟩
    · exact congrArg Host.Outcome.next (sessMsg_out_of_turn hx hseq)
    · exact congrArg Host.Outcome.next (sessMsg_out_of_turn hx hseq)
    · exact congrArg Host.Outcome.next (sessMsg_out_of_turn hx hseq)
    · exact ⟨_, _, rfl, lastOut_doSpdm hx hsec⟩
  · exact ⟨_, rfl, lastOut_doRedfish hx⟩
  · refine ⟨_, rfl, cageDown_doTransceiver, fun hdown k hk => ?_⟩
    rw [hdown]
    exact sessOf_doTransceiver_down hk

end Sys2Proof.Proofs
end
